-- ==== Sys2Proof/Word.lean ====
section
/-! DEFINITION. The word types of the manual (R5, R6): registers are 32-bit words, Nib registers 64-bit words,
memory is bytes. Bit 0 is the least significant bit. -/

namespace Sys2Proof

/-- A byte of memory. -/
abbrev Byte := BitVec 8

/-- A 32-bit register or descriptor word. -/
abbrev W32 := BitVec 32

/-- A 64-bit Nib register or memory word. -/
abbrev W64 := BitVec 64

end Sys2Proof
end

