-- ==== Sys2Proof/Syntax.lean ====
section
/-! DEFINITION. The commands of the block: one constructor per row of spec/opcode_table.json, with the operands the
row's rule gives it. A command that arrives in a ring carries the descriptor the device fetched; an operation on a
register carries its requester; an event that happens inside the device carries what it is about. -/

namespace Sys2Proof

/-- Who asks for a register or memory access (R20): the PCIe physical function, the virtual function of realm r
(VF number r + 1), a control core, Nib 16q + n with its realm tag (R210), or an engine of the device itself. -/
inductive Requester where
  | pf
  | vf (r : Fin 16)
  | core (c : Fin 8)
  | nib (i : Fin 128)
  | engine
deriving DecidableEq, Repr

/-- The rings of R21: the command rings, the rings of the 56 pool units (j as in R314) and of the RA engines, the
Scribe channels and the transmit and receive rings of the fronthaul engines. -/
inductive RingId where
  | cmd (r : Fin 17)
  | pool (j : Fin 56) (r : Fin 16)
  | ra (e : Fin 2) (r : Fin 16)
  | scribe (e : Fin 12) (c : Fin 32)
  | fhTx (e : Fin 2) (r : Fin 17)
  | fhRx (e : Fin 2) (r : Fin 17)
deriving DecidableEq, Repr

/-- A command descriptor as the device fetched it at the head of ring CMD[ring] (R66). par lists words 3 to 13. Slot 64 stands for
the result of an NSP COMMAND frame (R588), which no ring's descriptor names. -/
structure Desc where
  ring : Fin 17
  who : Requester
  seq : BitVec 16
  slot : Fin 65
  target : BitVec 8
  par : List W32
deriving DecidableEq, Repr

/-- Word w (3 to 13) of a command descriptor; a word not listed is zero. -/
def Desc.word (d : Desc) (w : Nat) : W32 := d.par.getD (w - 3) 0

/-- Word w of a command descriptor as a number. -/
def Desc.n (d : Desc) (w : Nat) : Nat := (d.word w).toNat

/-- TARGET as a number: a realm 0 to 15, or 255 for the device. -/
def Desc.tgt (d : Desc) : Nat := d.target.toNat

/-- A result slot of the command interface (R66, R70); slot 64 is the result that an NSP RESULT frame carries (R588). -/
structure SlotId where
  ring : Fin 17
  slot : Fin 65
deriving DecidableEq, Repr

/-- The result slot a descriptor names. -/
def Desc.slotId (d : Desc) : SlotId := { ring := d.ring, slot := d.slot }

/-- A job descriptor as an engine fetched it at the head of its ring (R22): words 0 to 13. -/
structure Job where
  ring : RingId
  words : List W32
deriving DecidableEq, Repr

/-- Word w of a job descriptor; a word not listed is zero. -/
def Job.word (j : Job) (w : Nat) : W32 := j.words.getD w 0

/-- Word w of a job descriptor as a number. -/
def Job.n (j : Job) (w : Nat) : Nat := (j.word w).toNat

/-- The place of a Nib instruction: the Nib that issues it and its EOB bit (the bundle ends with it), R196. -/
structure NibOp where
  nib : Fin 128
  eob : Bool
deriving DecidableEq, Repr

/-- One preamble that the samples of an occasion show (R359, R368): preamble index, which root of the occasion it lies on,
metric M in Q8.8, delay, frequency offset, and whether a second peak was seen. -/
structure RaDet where
  preamble : Fin 64
  root : Fin 64
  metric : BitVec 16
  delay : BitVec 24
  cfo : BitVec 32
  multi : Bool
deriving DecidableEq, Repr


/-- The b operand of a vector instruction (R269): a vector register, the low SEW bits of a scalar register, the next SEW bits of
it (the H half of a MAC), or IMM5. -/
inductive VSrc where
  | v (r : BitVec 5)
  | x (r : BitVec 5)
  | xh (r : BitVec 5)
  | i (imm : BitVec 5)
deriving DecidableEq, Repr

/-- The fields of a Ferrule instruction, format F of R285. -/
structure FFmt where
  md : BitVec 2
  tag : BitVec 3
  rb : BitVec 5
  ra : BitVec 5
  rd : BitVec 5
deriving DecidableEq, Repr


/-- One link of an adjacency list (R500): the port of the device that sends the list, the far device and the far port. -/
structure FabLink where
  port : Fin 4
  far : Fin 64
  farPort : Fin 4
deriving DecidableEq, Repr

/-- A remote request as it arrives at a device (R501, R502): its destination, the hops taken, its origin (device, initiator, realm
tag 0 to 15 or 16 for none, and, without one, whether it comes from control firmware, 1, the physical function, 2, or
neither, 0), its flow sequence, and the access. -/
structure RemoteReq where
  dst : Fin 64
  hops : Fin 10
  dev : Fin 64
  init : BitVec 16
  realm : Fin 17
  origin : Fin 3
  seq : BitVec 8
  write : Bool
  addr : BitVec 48
  bytes : BitVec 10
  data : W64
deriving DecidableEq, Repr

/-- What the parent's time frame carries of a time base (R506): its send stamp t1 and its receive stamp t4, in 2^-16 ns. -/
structure FabStamp where
  tb : Fin 8
  t1 : Nat
  t4 : Nat
deriving DecidableEq, Repr

/-- The tamper sensors of R570, by their bits of CHP.TAMPER. -/
inductive Tamper where
  | light
  | clock
  | temp
  | volt
  | shield
deriving DecidableEq, Repr

/-- A frame at the service port (R587): where it is addressed (0 the port's MAC address, 1 broadcast, 2 elsewhere), Ethertype, VER,
LENGTH, SEQ, and whether its GCM tag verifies. -/
structure NspFrame where
  dst : Fin 3
  etype : BitVec 16
  ver : BitVec 8
  len : BitVec 16
  seq : W64
  tag : Bool
deriving DecidableEq, Repr


/-- The commands: one constructor per row of the table of operations and events. -/
inductive Instr where
  /-- REGISTER_WRITE (R10). Write to a register that has no row of its own, applied per its access code and holder rules. -/
  | registerWrite (who : Requester) (addr : BitVec 48) (bytes : Nat) (value : BitVec 64)
  /-- TAIL_WRITE (R28). Doorbell write of a ring TAIL; the ring is examined again and resumes service. -/
  | tailWrite (who : Requester) (ring : RingId) (value : W32)
  /-- RING_CFG_WRITE (R30). Write of a ring CFG: ENABLE 0 abandons the descriptor in progress, a size change resets HEAD and TAIL. -/
  | ringCfgWrite (who : Requester) (ring : RingId) (value : W32)
  /-- VLM_STAGE (R72). Accepts a partial Vellum for copying into the staging area. -/
  | vlmStage (d : Desc)
  /-- VLM_STAGE_COMPLETE (R72). The staging copy and its checks end and the result slot becomes final. -/
  | vlmStageComplete (slot : SlotId)
  /-- VLM_DISCARD (R72). Discards the realm's staged partial Vellum. -/
  | vlmDiscard (d : Desc)
  /-- REALM_START (R56). Moves a STOPPED realm to RUNNING, placing its power votes and opening submission. -/
  | realmStart (d : Desc)
  /-- REALM_STOP (R57). Moves a RUNNING realm to STOPPING and closes Folio submission, draining per MODE. -/
  | realmStop (d : Desc)
  /-- REALM_STOPPED (R56). A STOPPING realm holding no outstanding Folio enters STOPPED and raises EV1017. -/
  | realmStopped (r : Fin 16)
  /-- REALM_RESET (R56). Aborts every Folio of the realm, releases its locks and applies a realm reset. -/
  | realmReset (d : Desc)
  /-- REALM_QUERY (R72). Returns realm state, serial and staged serial. -/
  | realmQuery (d : Desc)
  /-- REALM_APPLY (R58). Accepts an apply of the staged partial Vellum, queued behind earlier applies. -/
  | realmApply (d : Desc)
  /-- REALM_APPLY_EXECUTE (R58). Device runs the apply steps 1 to 6 once earlier applies have ended. -/
  | realmApplyExecute
  /-- REALM_APPLY_COMPLETE (R58). After the epoch drains, loads the realm's records, records SERIAL and enters STOPPED or RUNNING. -/
  | realmApplyComplete (fault : BitVec 8)
  /-- EXPERT_ACQUIRE (R76). Accepts a request for an ownership lock on one block instance. -/
  | expertAcquire (d : Desc)
  /-- EXPERT_LOCK_SET (R76). After earlier basic commands to the instance end, the lock is set and the slot shows OK. -/
  | expertLockSet (inst : BitVec 12)
  /-- EXPERT_RELEASE (R78). Releases an expert lock, block-resets the instance and restores its basic configuration. -/
  | expertRelease (d : Desc)
  /-- TB_QUERY (R115). Returns state, time and FREQ_ADJ of a time base. -/
  | tbQuery (d : Desc)
  /-- TB_DISCIPLINE_START (R83). Moves a FREERUN time base with SOURCE 1-4 to ACQUIRING. -/
  | tbDisciplineStart (d : Desc)
  /-- TB_DISCIPLINE_STOP (R83). Returns a disciplined time base to FREERUN keeping FREQ_ADJ. -/
  | tbDisciplineStop (d : Desc)
  /-- TB_STEP (R84). Requests a step of a time base, applied two CD82 cycles later. -/
  | tbStep (d : Desc)
  /-- TB_FREQ (R85). Writes FREQ_ADJ of a FREERUN time base. -/
  | tbFreq (d : Desc)
  /-- STEP_CTL_GO (R84). Write of STEP_CTL.GO requesting a step of the time base. -/
  | stepCtlGo (who : Requester) (b : Fin 8) (value : W32)
  /-- TIME_BASE_STEP_APPLY (R84). The requested step is judged and applied or refused in one CD82 cycle. -/
  | timeBaseStepApply (b : Fin 8)
  /-- FREQ_ADJ_HI_WRITE (R85). Write of FREQ_ADJ_HI applies the new, possibly clamped, FREQ_ADJ. -/
  | freqAdjHiWrite (who : Requester) (b : Fin 8) (value : W32)
  /-- TB_STATE_WRITE (R83). Servo write of STATE.STATE taking effect only for a permitted transition. -/
  | tbStateWrite (who : Requester) (b : Fin 8) (value : W32)
  /-- NOW_NS_READ (R119). Read of NOW_NS latching seconds and TS32 from the same cycle. -/
  | nowNsRead (who : Requester) (b : Fin 8)
  /-- GRID_QUERY (R115). Returns grid position, hyperframe and next frame boundary. -/
  | gridQuery (d : Desc)
  /-- GRID_OFFSET (R94). Arms an offset change of a grid for hand-over at the next frame boundary. -/
  | gridOffset (d : Desc)
  /-- GRID_SHADOW_WRITE (R104). Write of a grid SH_OFFSET or SH_CTL, clearing or arming COMMIT. -/
  | gridShadowWrite (who : Requester) (g : Fin 256) (ctl : Bool) (value : W32)
  /-- GRID_POS_READ (R120). Read of GRID.POS latching the hyperframe number. -/
  | gridPosRead (who : Requester) (g : Fin 256)
  /-- GRID_FRAME_BOUNDARY (R94). A grid frame boundary is reached and an armed shadow is judged and handed over. -/
  | gridFrameBoundary (g : Fin 256)
  /-- TRG_ALLOC (R102). Assigns a FREE trigger channel to the realm, zeroing its state. -/
  | trgAlloc (d : Desc)
  /-- TRG_ARM (R115). Writes the six shadow words of a channel and commits them. -/
  | trgArm (d : Desc)
  /-- TRG_DISARM (R102). Returns an armed or waiting channel to IDLE. -/
  | trgDisarm (d : Desc)
  /-- TRG_FREE (R102). Returns an IDLE channel to FREE. -/
  | trgFree (d : Desc)
  /-- TRG_QUERY (R115). Returns channel state, HANDOVER_SEQ, MISSED and LAST_FIRE. -/
  | trgQuery (d : Desc)
  /-- TRG_SHADOW_WRITE (R104). Write of a channel shadow word, clearing COMMIT. -/
  | trgShadowWrite (who : Requester) (c : Fin 512) (w : Fin 6) (value : W32)
  /-- TRG_CTL_COMMIT (R104). Write of CH.CTL.COMMIT arming the shadow set of a channel. -/
  | trgCtlCommit (who : Requester) (c : Fin 512)
  /-- TRG_CTL_DISARM (R102). Write of CH.CTL.DISARM returning the channel to IDLE. -/
  | trgCtlDisarm (who : Requester) (c : Fin 512)
  /-- TRIGGER_FIRE (R97). An occurrence of an armed channel is reached and its kind's action is delivered. -/
  | triggerFire (c : Fin 512)
  /-- SNAPSHOT_COPY_COMPLETE (R113). A block finishes its shadow copy, writes GEN and raises EV0608. -/
  | snapshotCopyComplete (blk : Fin 4096)
  /-- SNAP_REQUEST (R115). Requests a device snapshot 2 µs after acceptance. -/
  | snapRequest (d : Desc)
  /-- TIME_IN_EDGE (R106). An edge on TIME_IN is captured as a TS80 into the queue. -/
  | timeInEdge (i : Fin 8) (falling : Bool)
  /-- CAP_NS_READ (R107). Read of CAP.NS popping the oldest capture and latching its seconds. -/
  | capNsRead (who : Requester) (i : Fin 8)
  /-- CAP_READ (R115). Command popping one TIME_IN capture. -/
  | capRead (d : Desc)
  /-- TIO_CONFIG (R115). Writes a capture or pulse-output configuration. -/
  | tioConfig (d : Desc)
  /-- SYNCE_SELECT (R115). Writes a recovered-clock selector configuration. -/
  | synceSelect (d : Desc)
  /-- TIME_OUT_PULSE_END (R108). The pulse width expires and the output returns inactive. -/
  | timeOutPulseEnd (i : Fin 8)
  /-- TOUT_CFG_WRITE (R108). Write of TOUT.CFG; clearing ENABLE ends a pulse at once. -/
  | toutCfgWrite (who : Requester) (i : Fin 8) (value : W32)
  /-- SYNCE_SQUELCH (R111). Loss of signal or lock on the selected port squelches the recovered clock. -/
  | synceSquelch (k : Fin 2) (lol : Bool)
  /-- FOLIO_SUBMIT (R128). Accepts a Folio instance into the device queue. -/
  | folioSubmit (d : Desc)
  /-- PLACEMENT_DECISION (R135). The Ordinator places the queued Folio's tasks and objects or refuses it. -/
  | placementDecision
  /-- PEER_OFFER_ANSWER (R139). A peer's answer to a task offer arrives and placement continues. -/
  | peerOfferAnswer (accept : Bool) (finish : BitVec 32)
  /-- PEER_OFFER_RECEIVED (R504). An offer from a peer is judged by this device's Ordinator. -/
  | peerOfferReceived (peer : Fin 64) (r : Fin 16) (task : BitVec 128) (ready : BitVec 32) (deadline : BitVec 32)
  /-- FOLIO_RELEASE (R140). The release firing checks objects and makes root tasks ready. -/
  | folioRelease (r : Fin 16) (inst : BitVec 16)
  /-- FOLIO_DEADLINE (R141). The deadline of a DROP Folio passes; threads end and jobs are withdrawn. -/
  | folioDeadline (r : Fin 16) (inst : BitVec 16)
  /-- FOLIO_CANCEL (R133). Cancels a PLACED Folio, returning its bookings. -/
  | folioCancel (d : Desc)
  /-- FOLIO_QUERY (R157). Returns state, predicted end and control block of a Folio. -/
  | folioQuery (d : Desc)
  /-- ORD_PIN (R143). Replaces the pin of one template task for later Folios. -/
  | ordPin (d : Desc)
  /-- ORD_CONFIG (R157). Configures the completion queue and HARQ limits of the realm. -/
  | ordConfig (d : Desc)
  /-- ORD_QUERY (R157). Returns the realm's share and bookings on one instance. -/
  | ordQuery (d : Desc)
  /-- ORD_TRACE (R157). Writes TRACE_CFG of the Ordinator. -/
  | ordTrace (d : Desc)
  /-- FAULT_NOTICE (R148). A fault notice reaches the Ordinator, which fences the unit and logs it. -/
  | faultNotice (src : Fin 13) (kind : Fin 4) (unit : Fin 64) (event : Fin 1024)
  /-- REPLACEMENT (R150). The Ordinator reads the journal and re-places unfinished tasks, raising EV1019. -/
  | replacement
  /-- HARQ_DEMOTION_START (R146). HBM HARQ use above HARQ_HI starts a demotion copy to DDR. -/
  | harqDemotionStart (r : Fin 16) (engine : Fin 4) (upper : Bool)
  /-- THREAD_CREATE (R164). Creates a thread control block, DORMANT or READY. -/
  | threadCreate (d : Desc)
  /-- THREAD_START (R164). Makes a DORMANT thread READY. -/
  | threadStart (d : Desc)
  /-- THREAD_SUSPEND (R164). Suspends a READY or RUNNING thread. -/
  | threadSuspend (d : Desc)
  /-- THREAD_RESUME (R164). Makes a SUSPENDED thread READY. -/
  | threadResume (d : Desc)
  /-- THREAD_KILL (R164). Frees a thread, releasing a held Ferrule lock. -/
  | threadKill (d : Desc)
  /-- THREAD_PRIO (R168). Changes a thread's priority. -/
  | threadPrio (d : Desc)
  /-- THREAD_QUERY (R188). Returns words of a thread control block. -/
  | threadQuery (d : Desc)
  /-- SEM_ALLOC (R188). Allocates a semaphore with initial count and MAX. -/
  | semAlloc (d : Desc)
  /-- SEM_FREE (R188). Frees a semaphore without waiters. -/
  | semFree (d : Desc)
  /-- SEM_POST (R175). Command posting n to a semaphore. -/
  | semPost (d : Desc)
  /-- FLAG_ALLOC (R188). Allocates an event-flag group. -/
  | flagAlloc (d : Desc)
  /-- FLAG_FREE (R188). Frees a flag group without waiters. -/
  | flagFree (d : Desc)
  /-- FLAG_SET (R176). Command applying clear then set masks to a flag group. -/
  | flagSet (d : Desc)
  /-- TICK_CONFIG (R172). Configures a Ductus tick source. -/
  | tickConfig (d : Desc)
  /-- DUC_TRACE (R188). Writes the Ductus TRACE_CFG. -/
  | ducTrace (d : Desc)
  /-- DUC_QUERY (R188). Returns TCB counts and STATUS of a Ductus. -/
  | ducQuery (d : Desc)
  /-- YIELD (R181). Service returning the running thread to the tail of its list. -/
  | yield (nib : Fin 128) (a : BitVec 24) (b : W32)
  /-- EXIT (R181). Service freeing the running thread and possibly ending its task. -/
  | exit (nib : Fin 128) (a : BitVec 24) (b : W32)
  /-- DELAY (R174). Service putting the thread on the delay list. -/
  | delay (nib : Fin 128) (a : BitVec 24) (b : W32)
  /-- SEM_WAIT (R175). Service taking 1 from a semaphore or waiting. -/
  | semWait (nib : Fin 128) (a : BitVec 24) (b : W32)
  /-- SVC_SEM_POST (R175). Service posting n to a semaphore and waking waiters. -/
  | svcSemPost (nib : Fin 128) (a : BitVec 24) (b : W32)
  /-- FLAG_WAIT (R176). Service waiting for flags ANY or ALL. -/
  | flagWait (nib : Fin 128) (a : BitVec 24) (b : W32)
  /-- SVC_FLAG_SET (R176). Service setting flags and waking satisfied waiters. -/
  | svcFlagSet (nib : Fin 128) (a : BitVec 24) (b : W32)
  /-- FLAG_CLEAR (R176). Service clearing flags of a group. -/
  | flagClear (nib : Fin 128) (a : BitVec 24) (b : W32)
  /-- TASK_END (R181). Service ending an accelerator or XFER task of the thread's Folio. -/
  | taskEnd (nib : Fin 128) (a : BitVec 24) (b : W32)
  /-- CHECKPOINT (R183). Service recording a checkpoint in the journal. -/
  | checkpoint (nib : Fin 128) (a : BitVec 24) (b : W32)
  /-- SET_PRIO (R181). Service changing the running thread's priority. -/
  | setPrio (nib : Fin 128) (a : BitVec 24) (b : W32)
  /-- RES_LO_READ (R180). Read of RES_LO stalling until the service request completes. -/
  | resLoRead (who : Requester) (nib : Fin 128)
  /-- NEXT_READ (R169). Read of PORT.NEXT that performs the pending switch atomically. -/
  | nextRead (who : Requester) (nib : Fin 128)
  /-- TICK (R172). A tick source boundary advances TICK.COUNT. -/
  | tick (q : Fin 8) (t : Fin 4) (n : BitVec 32)
  /-- TICK_EXPIRY (R174). A delay or timeout reaches EXPIRY and the thread becomes READY. -/
  | tickExpiry (q : Fin 8)
  /-- JOURNAL_WRITE_FAILURE (R192). A journal write fails, setting JRNL_ERR and fencing the Quire. -/
  | journalWriteFailure (q : Fin 8)
  /-- TCB_WRITE (R193). Expert write of a TCB word, refused outside FREE, DORMANT or SUSPENDED. -/
  | tcbWrite (who : Requester) (q : Fin 8) (i : Fin 512) (w : Fin 16) (value : W32)
  /-- ADD (R198). Scalar add. -/
  | add (o : NibOp) (rd ra rb : BitVec 5)
  /-- SUB (R198). Scalar subtract. -/
  | sub (o : NibOp) (rd ra rb : BitVec 5)
  /-- AND (R198). Scalar and. -/
  | and (o : NibOp) (rd ra rb : BitVec 5)
  /-- OR (R198). Scalar or. -/
  | or (o : NibOp) (rd ra rb : BitVec 5)
  /-- XOR (R198). Scalar exclusive or. -/
  | xor (o : NibOp) (rd ra rb : BitVec 5)
  /-- SLL (R198). Shift left logical by register. -/
  | sll (o : NibOp) (rd ra rb : BitVec 5)
  /-- SRL (R198). Shift right logical by register. -/
  | srl (o : NibOp) (rd ra rb : BitVec 5)
  /-- SRA (R198). Shift right arithmetic by register. -/
  | sra (o : NibOp) (rd ra rb : BitVec 5)
  /-- SLT (R198). Signed set-less-than. -/
  | slt (o : NibOp) (rd ra rb : BitVec 5)
  /-- SLTU (R198). Unsigned set-less-than. -/
  | sltu (o : NibOp) (rd ra rb : BitVec 5)
  /-- MIN (R198). Signed minimum. -/
  | min (o : NibOp) (rd ra rb : BitVec 5)
  /-- MAX (R198). Signed maximum. -/
  | max (o : NibOp) (rd ra rb : BitVec 5)
  /-- MINU (R198). Unsigned minimum. -/
  | minu (o : NibOp) (rd ra rb : BitVec 5)
  /-- MAXU (R198). Unsigned maximum. -/
  | maxu (o : NibOp) (rd ra rb : BitVec 5)
  /-- CLZ (R198). Count leading zeros. -/
  | clz (o : NibOp) (rd ra : BitVec 5)
  /-- POPC (R198). Count set bits. -/
  | popc (o : NibOp) (rd ra : BitVec 5)
  /-- ADDW (R198). 32-bit wrapping add. -/
  | addw (o : NibOp) (rd ra rb : BitVec 5)
  /-- SUBW (R198). 32-bit wrapping subtract. -/
  | subw (o : NibOp) (rd ra rb : BitVec 5)
  /-- ADDSW (R198). 32-bit saturating add. -/
  | addsw (o : NibOp) (rd ra rb : BitVec 5)
  /-- SUBSW (R198). 32-bit saturating subtract. -/
  | subsw (o : NibOp) (rd ra rb : BitVec 5)
  /-- ADDI (R198). Add immediate. -/
  | addi (o : NibOp) (rd ra : BitVec 5) (imm : BitVec 12)
  /-- ANDI (R198). And immediate. -/
  | andi (o : NibOp) (rd ra : BitVec 5) (imm : BitVec 12)
  /-- ORI (R198). Or immediate. -/
  | ori (o : NibOp) (rd ra : BitVec 5) (imm : BitVec 12)
  /-- XORI (R198). Exclusive or immediate. -/
  | xori (o : NibOp) (rd ra : BitVec 5) (imm : BitVec 12)
  /-- SLLI (R198). Shift left by immediate. -/
  | slli (o : NibOp) (rd ra : BitVec 5) (imm : BitVec 12)
  /-- SRLI (R198). Shift right logical by immediate. -/
  | srli (o : NibOp) (rd ra : BitVec 5) (imm : BitVec 12)
  /-- SRAI (R198). Shift right arithmetic by immediate. -/
  | srai (o : NibOp) (rd ra : BitVec 5) (imm : BitVec 12)
  /-- SLTI (R198). Signed compare with immediate. -/
  | slti (o : NibOp) (rd ra : BitVec 5) (imm : BitVec 12)
  /-- LUI (R198). Load upper immediate. -/
  | lui (o : NibOp) (rd : BitVec 5) (imm : BitVec 20)
  /-- ADDPC (R198). Bundle address plus upper immediate. -/
  | addpc (o : NibOp) (rd : BitVec 5) (imm : BitVec 20)
  /-- MUL (R198). Multiply, low 64 bits. -/
  | mul (o : NibOp) (rd ra rb : BitVec 5)
  /-- MULH (R198). Multiply, high 64 bits signed. -/
  | mulh (o : NibOp) (rd ra rb : BitVec 5)
  /-- MULHU (R198). Multiply, high 64 bits unsigned. -/
  | mulhu (o : NibOp) (rd ra rb : BitVec 5)
  /-- MULW (R198). 32-bit multiply. -/
  | mulw (o : NibOp) (rd ra rb : BitVec 5)
  /-- EXTU (R198). Zero-extended bit-field extract. -/
  | extu (o : NibOp) (rd ra : BitVec 5) (pos wid : BitVec 6)
  /-- EXTS (R198). Sign-extended bit-field extract. -/
  | exts (o : NibOp) (rd ra : BitVec 5) (pos wid : BitVec 6)
  /-- INS (R198). Bit-field insert. -/
  | ins (o : NibOp) (rd ra : BitVec 5) (pos wid : BitVec 6)
  /-- SEL (R198). Select by condition register. -/
  | sel (o : NibOp) (rd ra rb rc : BitVec 5)
  /-- BEQ (R198). Branch if equal. -/
  | beq (o : NibOp) (ra rb : BitVec 5) (off : BitVec 12)
  /-- BNE (R198). Branch if not equal. -/
  | bne (o : NibOp) (ra rb : BitVec 5) (off : BitVec 12)
  /-- BLT (R198). Branch if less, signed. -/
  | blt (o : NibOp) (ra rb : BitVec 5) (off : BitVec 12)
  /-- BGE (R198). Branch if greater or equal, signed. -/
  | bge (o : NibOp) (ra rb : BitVec 5) (off : BitVec 12)
  /-- BLTU (R198). Branch if less, unsigned. -/
  | bltu (o : NibOp) (ra rb : BitVec 5) (off : BitVec 12)
  /-- BGEU (R198). Branch if greater or equal, unsigned. -/
  | bgeu (o : NibOp) (ra rb : BitVec 5) (off : BitVec 12)
  /-- JAL (R198). Jump and link. -/
  | jal (o : NibOp) (rd : BitVec 5) (off : BitVec 20)
  /-- JALR (R198). Jump and link through register. -/
  | jalr (o : NibOp) (rd ra : BitVec 5) (imm : BitVec 12)
  /-- MFSR (R215). Read a system register. -/
  | mfsr (o : NibOp) (rd : BitVec 5) (num : BitVec 12)
  /-- MTSR (R215). Write a system register. -/
  | mtsr (o : NibOp) (ra : BitVec 5) (num : BitVec 12)
  /-- MFTB (R222). Read a thread-bank register from the shadow bank. -/
  | mftb (o : NibOp) (rd : BitVec 5) (num : BitVec 12)
  /-- MTTB (R222). Write a thread-bank register from the shadow bank. -/
  | mttb (o : NibOp) (ra : BitVec 5) (num : BitVec 12)
  /-- TRAP (R218). Raises the TRAP exception. -/
  | trap (o : NibOp) (imm : BitVec 12)
  /-- RFE (R220). Returns from the shadow bank to EPC. -/
  | rfe (o : NibOp)
  /-- WAIT (R224). Clock-gates the Nib until an enabled interrupt is pending. -/
  | wait (o : NibOp)
  /-- NIB_WAIT_WAKE (R224). A pending enabled interrupt wakes a waiting Nib. -/
  | nibWaitWake (nib : Fin 128)
  /-- BKPT (R218). Raises BREAKPOINT. -/
  | bkpt (o : NibOp)
  /-- DCLEAN (R198). Write back one L1D line. -/
  | dclean (o : NibOp) (ra : BitVec 5) (imm : BitVec 12)
  /-- DINV (R198). Discard one L1D line. -/
  | dinv (o : NibOp) (ra : BitVec 5) (imm : BitVec 12)
  /-- DFLUSH (R198). Write back and discard one L1D line. -/
  | dflush (o : NibOp) (ra : BitVec 5) (imm : BitVec 12)
  /-- DPREF (R198). Prefetch one L1D line. -/
  | dpref (o : NibOp) (ra : BitVec 5) (imm : BitVec 12)
  /-- ICINV (R198). Invalidate one L1I line. -/
  | icinv (o : NibOp) (ra : BitVec 5) (imm : BitVec 12)
  /-- ICINV_ALL (R198). Invalidate the whole L1I. -/
  | icinvAll (o : NibOp)
  /-- DFLUSH_ALL (R198). Write back and invalidate the whole L1D. -/
  | dflushAll (o : NibOp)
  /-- LB (R198). Load byte signed. -/
  | lb (o : NibOp) (rd ra : BitVec 5) (imm : BitVec 12)
  /-- LH (R198). Load halfword signed. -/
  | lh (o : NibOp) (rd ra : BitVec 5) (imm : BitVec 12)
  /-- LW (R198). Load word signed. -/
  | lw (o : NibOp) (rd ra : BitVec 5) (imm : BitVec 12)
  /-- LD (R198). Load doubleword. -/
  | ld (o : NibOp) (rd ra : BitVec 5) (imm : BitVec 12)
  /-- LBU (R198). Load byte unsigned. -/
  | lbu (o : NibOp) (rd ra : BitVec 5) (imm : BitVec 12)
  /-- LHU (R198). Load halfword unsigned. -/
  | lhu (o : NibOp) (rd ra : BitVec 5) (imm : BitVec 12)
  /-- LWU (R198). Load word unsigned. -/
  | lwu (o : NibOp) (rd ra : BitVec 5) (imm : BitVec 12)
  /-- SB (R198). Store byte. -/
  | sb (o : NibOp) (rs ra : BitVec 5) (imm : BitVec 12)
  /-- SH (R198). Store halfword. -/
  | sh (o : NibOp) (rs ra : BitVec 5) (imm : BitVec 12)
  /-- SW (R198). Store word. -/
  | sw (o : NibOp) (rs ra : BitVec 5) (imm : BitVec 12)
  /-- SD (R198). Store doubleword. -/
  | sd (o : NibOp) (rs ra : BitVec 5) (imm : BitVec 12)
  /-- LDC (R212). Circular load with pointer post-modify. -/
  | ldc (o : NibOp) (rd : BitVec 5) (cb : BitVec 3) (size : BitVec 2) (sgn incsel : Bool) (inc : BitVec 13)
  /-- STC (R212). Circular store with pointer post-modify. -/
  | stc (o : NibOp) (rs : BitVec 5) (cb : BitVec 3) (size : BitVec 2) (incsel : Bool) (inc : BitVec 13)
  /-- AMOADD_W (R209). Atomic 32-bit add. -/
  | amoaddW (o : NibOp) (rd ra rb : BitVec 5)
  /-- AMOADD_D (R209). Atomic 64-bit add. -/
  | amoaddD (o : NibOp) (rd ra rb : BitVec 5)
  /-- AMOSWAP_W (R209). Atomic 32-bit swap. -/
  | amoswapW (o : NibOp) (rd ra rb : BitVec 5)
  /-- AMOSWAP_D (R209). Atomic 64-bit swap. -/
  | amoswapD (o : NibOp) (rd ra rb : BitVec 5)
  /-- AMOCAS_W (R209). Atomic 32-bit compare and swap. -/
  | amocasW (o : NibOp) (rd ra rb : BitVec 5)
  /-- AMOCAS_D (R209). Atomic 64-bit compare and swap. -/
  | amocasD (o : NibOp) (rd ra rb : BitVec 5)
  /-- AMOAND_D (R209). Atomic 64-bit and. -/
  | amoandD (o : NibOp) (rd ra rb : BitVec 5)
  /-- AMOOR_D (R209). Atomic 64-bit or. -/
  | amoorD (o : NibOp) (rd ra rb : BitVec 5)
  /-- DEFERRED_RESULT_LANDING (R200). A long-latency result lands in its register in its visibility cycle. -/
  | deferredResultLanding (nib : Fin 128)
  /-- CACHE_LINE_FILL (R201). A missed line is delivered and the frozen pipeline resumes. -/
  | cacheLineFill (nib : Fin 128) (way : BitVec 4)
  /-- INTERRUPT_ENTRY (R219). A pending enabled interrupt is taken between bundles. -/
  | interruptEntry (nib : Fin 128)
  /-- NIB_TIMER_EXPIRY (R219). CYCLE reaches TIMER_CMP and the TIMER line is asserted. -/
  | nibTimerExpiry (nib : Fin 128)
  /-- DOORBELL_WRITE (R219). Write of NIB.DOORBELL sets IPEND bit 2. -/
  | doorbellWrite (who : Requester) (nib : Fin 128)
  /-- NIB_CTL_RUN (R226). CTL.RUN starts a Nib in RESET at RESET_PC. -/
  | nibCtlRun (who : Requester) (nib : Fin 128)
  /-- NIB_CTL_HALT (R227). CTL.HALT stops issue and reaches HALTED. -/
  | nibCtlHalt (who : Requester) (nib : Fin 128)
  /-- NIB_CTL_RESUME (R227). CTL.RESUME restarts issue of a halted Nib. -/
  | nibCtlResume (who : Requester) (nib : Fin 128)
  /-- NIB_CTL_STEP (R227). CTL.STEP issues exactly one bundle and halts again. -/
  | nibCtlStep (who : Requester) (nib : Fin 128)
  /-- DBG_DATA_READ (R227). Read of DBG_DATA_LO fetching the selected register. -/
  | dbgDataRead (who : Requester) (nib : Fin 128)
  /-- DBG_DATA_WRITE (R227). Write of DBG_DATA_LO committing the selected register. -/
  | dbgDataWrite (who : Requester) (nib : Fin 128) (value : W32)
  /-- CYCLE_LO_READ (R229). Read of CYCLE_LO latching CYCLE_HI. -/
  | cycleLoRead (who : Requester) (nib : Fin 128)
  /-- BUNDLES_LO_READ (R229). Read of BUNDLES_LO latching BUNDLES_HI. -/
  | bundlesLoRead (who : Requester) (nib : Fin 128)
  /-- VSPAN (R235). Sets VFORM and VL and returns the remaining count. -/
  | vspan (o : NibOp) (rd rs : BitVec 5) (etype : BitVec 3) (lig : BitVec 2)
  /-- VCTL (R269). Writes vector STATUS fields. -/
  | vctl (o : NibOp) (bits : BitVec 9)
  /-- VCAPI (R235). Returns VLCAP of a form. -/
  | vcapi (o : NibOp) (rd : BitVec 5) (etype : BitVec 3) (lig : BitVec 2)
  /-- VADD (R270). Vector wrapping add. -/
  | vadd (o : NibOp) (vd a : BitVec 5) (b : VSrc) (pg : BitVec 3)
  /-- VSUB (R270). Vector wrapping subtract. -/
  | vsub (o : NibOp) (vd a : BitVec 5) (b : VSrc) (pg : BitVec 3)
  /-- VAND (R270). Vector and. -/
  | vand (o : NibOp) (vd a : BitVec 5) (b : VSrc) (pg : BitVec 3)
  /-- VOR (R270). Vector or. -/
  | vor (o : NibOp) (vd a : BitVec 5) (b : VSrc) (pg : BitVec 3)
  /-- VXOR (R270). Vector exclusive or. -/
  | vxor (o : NibOp) (vd a : BitVec 5) (b : VSrc) (pg : BitVec 3)
  /-- VMIN (R270). Vector signed minimum. -/
  | vmin (o : NibOp) (vd a : BitVec 5) (b : VSrc) (pg : BitVec 3)
  /-- VMAX (R270). Vector signed maximum. -/
  | vmax (o : NibOp) (vd a : BitVec 5) (b : VSrc) (pg : BitVec 3)
  /-- VMINU (R270). Vector unsigned minimum. -/
  | vminu (o : NibOp) (vd a : BitVec 5) (b : VSrc) (pg : BitVec 3)
  /-- VMAXU (R270). Vector unsigned maximum. -/
  | vmaxu (o : NibOp) (vd a : BitVec 5) (b : VSrc) (pg : BitVec 3)
  /-- VSLL (R245). Vector shift left logical. -/
  | vsll (o : NibOp) (vd a : BitVec 5) (b : VSrc) (pg : BitVec 3)
  /-- VSRL (R245). Vector shift right logical. -/
  | vsrl (o : NibOp) (vd a : BitVec 5) (b : VSrc) (pg : BitVec 3)
  /-- VSRA (R245). Vector shift right arithmetic. -/
  | vsra (o : NibOp) (vd a : BitVec 5) (b : VSrc) (pg : BitVec 3)
  /-- VMUL (R246). Vector multiply low. -/
  | vmul (o : NibOp) (vd a : BitVec 5) (b : VSrc) (pg : BitVec 3)
  /-- VMULH (R246). Vector multiply high signed. -/
  | vmulh (o : NibOp) (vd a : BitVec 5) (b : VSrc) (pg : BitVec 3)
  /-- VMULHU (R246). Vector multiply high unsigned. -/
  | vmulhu (o : NibOp) (vd a : BitVec 5) (b : VSrc) (pg : BitVec 3)
  /-- VMERGE (R241). Vector merge by predicate. -/
  | vmerge (o : NibOp) (vd a : BitVec 5) (b : VSrc) (pg : BitVec 3)
  /-- VMV (R270). Vector move. -/
  | vmv (o : NibOp) (vd : BitVec 5) (b : VSrc) (pg : BitVec 3)
  /-- VSADD (R246). Vector saturating add. -/
  | vsadd (o : NibOp) (vd a : BitVec 5) (b : VSrc) (pg : BitVec 3)
  /-- VSSUB (R246). Vector saturating subtract. -/
  | vssub (o : NibOp) (vd a : BitVec 5) (b : VSrc) (pg : BitVec 3)
  /-- VSADDU (R246). Vector unsigned saturating add. -/
  | vsaddu (o : NibOp) (vd a : BitVec 5) (b : VSrc) (pg : BitVec 3)
  /-- VSSUBU (R246). Vector unsigned saturating subtract. -/
  | vssubu (o : NibOp) (vd a : BitVec 5) (b : VSrc) (pg : BitVec 3)
  /-- VAVG (R246). Vector rounded average. -/
  | vavg (o : NibOp) (vd a : BitVec 5) (b : VSrc) (pg : BitVec 3)
  /-- VMULQ (R246). Vector fractional multiply. -/
  | vmulq (o : NibOp) (vd a : BitVec 5) (b : VSrc) (pg : BitVec 3)
  /-- VSSLL (R246). Vector saturating left shift. -/
  | vssll (o : NibOp) (vd a : BitVec 5) (b : VSrc) (pg : BitVec 3)
  /-- VSRAR (R246). Vector rounding right shift. -/
  | vsrar (o : NibOp) (vd a : BitVec 5) (b : VSrc) (pg : BitVec 3)
  /-- VSABS (R246). Vector saturating absolute value. -/
  | vsabs (o : NibOp) (vd a : BitVec 5) (pg : BitVec 3)
  /-- VSNEG (R246). Vector saturating negate. -/
  | vsneg (o : NibOp) (vd a : BitVec 5) (pg : BitVec 3)
  /-- VCMUL (R246). Vector complex multiply. -/
  | vcmul (o : NibOp) (vd a : BitVec 5) (b : VSrc) (pg : BitVec 3)
  /-- VCMULJ (R246). Vector complex multiply by conjugate. -/
  | vcmulj (o : NibOp) (vd a : BitVec 5) (b : VSrc) (pg : BitVec 3)
  /-- VCONJ (R246). Vector saturating conjugate. -/
  | vconj (o : NibOp) (vd a : BitVec 5) (pg : BitVec 3)
  /-- VWADD (R246). Widening add. -/
  | vwadd (o : NibOp) (vd a : BitVec 5) (b : VSrc) (pg : BitVec 3)
  /-- VWSUB (R246). Widening subtract. -/
  | vwsub (o : NibOp) (vd a : BitVec 5) (b : VSrc) (pg : BitVec 3)
  /-- VWMUL (R246). Widening signed multiply. -/
  | vwmul (o : NibOp) (vd a : BitVec 5) (b : VSrc) (pg : BitVec 3)
  /-- VWMULU (R246). Widening unsigned multiply. -/
  | vwmulu (o : NibOp) (vd a : BitVec 5) (b : VSrc) (pg : BitVec 3)
  /-- VWCMUL (R246). Widening complex multiply. -/
  | vwcmul (o : NibOp) (vd a : BitVec 5) (b : VSrc) (pg : BitVec 3)
  /-- VNSRA (R246). Narrowing rounding shift. -/
  | vnsra (o : NibOp) (vd a : BitVec 5) (b : VSrc) (pg : BitVec 3)
  /-- VNCLIP (R246). Narrowing signed clip. -/
  | vnclip (o : NibOp) (vd a : BitVec 5) (b : VSrc) (pg : BitVec 3)
  /-- VNCLIPU (R246). Narrowing unsigned clip. -/
  | vnclipu (o : NibOp) (vd a : BitVec 5) (b : VSrc) (pg : BitVec 3)
  /-- VSEXT (R246). Widening sign extension. -/
  | vsext (o : NibOp) (vd a : BitVec 5) (pg : BitVec 3)
  /-- VZEXT (R246). Widening zero extension. -/
  | vzext (o : NibOp) (vd a : BitVec 5) (pg : BitVec 3)
  /-- VMAC (R248). Multiply-accumulate into an accumulator. -/
  | vmac (o : NibOp) (acc : BitVec 2) (a : BitVec 5) (b : VSrc) (pg : BitVec 3)
  /-- VMSU (R248). Multiply-subtract from an accumulator. -/
  | vmsu (o : NibOp) (acc : BitVec 2) (a : BitVec 5) (b : VSrc) (pg : BitVec 3)
  /-- VMACZ (R248). Multiply replacing accumulator lanes. -/
  | vmacz (o : NibOp) (acc : BitVec 2) (a : BitVec 5) (b : VSrc) (pg : BitVec 3)
  /-- VCMAC (R248). Complex multiply-accumulate. -/
  | vcmac (o : NibOp) (acc : BitVec 2) (a : BitVec 5) (b : VSrc) (pg : BitVec 3)
  /-- VCMACJ (R248). Complex conjugate multiply-accumulate. -/
  | vcmacj (o : NibOp) (acc : BitVec 2) (a : BitVec 5) (b : VSrc) (pg : BitVec 3)
  /-- VCMACZ (R248). Complex multiply replacing lanes. -/
  | vcmacz (o : NibOp) (acc : BitVec 2) (a : BitVec 5) (b : VSrc) (pg : BitVec 3)
  /-- VCMSU (R248). Complex multiply-subtract. -/
  | vcmsu (o : NibOp) (acc : BitVec 2) (a : BitVec 5) (b : VSrc) (pg : BitVec 3)
  /-- VAEXT (R252). Extracts accumulator lanes to a vector register. -/
  | vaext (o : NibOp) (vd : BitVec 5) (acc : BitVec 2) (sh : BitVec 5) (pg : BitVec 3)
  /-- VAMOV (R270). Moves vector components into accumulator lanes. -/
  | vamov (o : NibOp) (v : BitVec 5) (acc : BitVec 2) (sh : BitVec 5) (pg : BitVec 3)
  /-- VACLR (R270). Clears accumulator lanes and flags. -/
  | vaclr (o : NibOp) (acc : BitVec 2)
  /-- VACLRF (R270). Clears accumulator flags. -/
  | vaclrf (o : NibOp) (acc : BitVec 2)
  /-- VCMPEQ (R270). Compare equal to predicate. -/
  | vcmpeq (o : NibOp) (pd : BitVec 3) (a : BitVec 5) (b : VSrc) (pg : BitVec 3)
  /-- VCMPNE (R270). Compare not equal to predicate. -/
  | vcmpne (o : NibOp) (pd : BitVec 3) (a : BitVec 5) (b : VSrc) (pg : BitVec 3)
  /-- VCMPLT (R270). Compare less to predicate. -/
  | vcmplt (o : NibOp) (pd : BitVec 3) (a : BitVec 5) (b : VSrc) (pg : BitVec 3)
  /-- VCMPLE (R270). Compare less or equal to predicate. -/
  | vcmple (o : NibOp) (pd : BitVec 3) (a : BitVec 5) (b : VSrc) (pg : BitVec 3)
  /-- VCMPLTU (R270). Unsigned compare less to predicate. -/
  | vcmpltu (o : NibOp) (pd : BitVec 3) (a : BitVec 5) (b : VSrc) (pg : BitVec 3)
  /-- VCMPLEU (R270). Unsigned compare less or equal to predicate. -/
  | vcmpleu (o : NibOp) (pd : BitVec 3) (a : BitVec 5) (b : VSrc) (pg : BitVec 3)
  /-- VCMPGT (R270). Compare greater to predicate. -/
  | vcmpgt (o : NibOp) (pd : BitVec 3) (a : BitVec 5) (b : VSrc) (pg : BitVec 3)
  /-- VCMPGE (R270). Compare greater or equal to predicate. -/
  | vcmpge (o : NibOp) (pd : BitVec 3) (a : BitVec 5) (b : VSrc) (pg : BitVec 3)
  /-- PAND (R270). Predicate and. -/
  | pand (o : NibOp) (pd ps1 ps2 pg : BitVec 3)
  /-- POR (R270). Predicate or. -/
  | por (o : NibOp) (pd ps1 ps2 pg : BitVec 3)
  /-- PXOR (R270). Predicate exclusive or. -/
  | pxor (o : NibOp) (pd ps1 ps2 pg : BitVec 3)
  /-- PANDN (R270). Predicate and-not. -/
  | pandn (o : NibOp) (pd ps1 ps2 pg : BitVec 3)
  /-- PFFGET (R242). Copies pff into a predicate. -/
  | pffget (o : NibOp) (pd pg : BitVec 3)
  /-- PWHILE (R270). Predicate of elements below a count. -/
  | pwhile (o : NibOp) (pd : BitVec 3) (rs : BitVec 5) (pg : BitVec 3)
  /-- PCNT (R270). Counts predicate bits below VL. -/
  | pcnt (o : NibOp) (rd : BitVec 5) (ps1 pg : BitVec 3)
  /-- PFIRST (R270). Finds the lowest set predicate bit. -/
  | pfirst (o : NibOp) (rd : BitVec 5) (ps1 pg : BitVec 3)
  /-- PFFLEN (R270). Finds the lowest clear pff bit. -/
  | pfflen (o : NibOp) (rd : BitVec 5)
  /-- PFFPUT (R242). Writes pff from a predicate. -/
  | pffput (o : NibOp) (ps1 : BitVec 3)
  /-- VBCAST (R270). Broadcasts a scalar to every element. -/
  | vbcast (o : NibOp) (vd rs : BitVec 5) (pg : BitVec 3)
  /-- VSLIDEDN (R270). Slides elements down. -/
  | vslidedn (o : NibOp) (vd a rs : BitVec 5) (pg : BitVec 3)
  /-- VSLIDEUP (R270). Slides elements up. -/
  | vslideup (o : NibOp) (vd a rs : BitVec 5) (pg : BitVec 3)
  /-- VMVXS (R270). Moves element 0 to a scalar. -/
  | vmvxs (o : NibOp) (rd a : BitVec 5)
  /-- VMVSX (R270). Moves a scalar to element 0. -/
  | vmvsx (o : NibOp) (vd rs : BitVec 5) (pg : BitVec 3)
  /-- VPERM (R270). Permutes elements by index. -/
  | vperm (o : NibOp) (vd a b : BitVec 5) (pg : BitVec 3)
  /-- VSWAPIQ (R270). Swaps real and imaginary parts. -/
  | vswapiq (o : NibOp) (vd a : BitVec 5) (pg : BitVec 3)
  /-- VRSUM (R270). Sum reduction to a scalar. -/
  | vrsum (o : NibOp) (rd a : BitVec 5) (pg : BitVec 3)
  /-- VRMAX (R270). Maximum reduction. -/
  | vrmax (o : NibOp) (rd a : BitVec 5) (pg : BitVec 3)
  /-- VRMIN (R270). Minimum reduction. -/
  | vrmin (o : NibOp) (rd a : BitVec 5) (pg : BitVec 3)
  /-- VRMAXABS (R270). Maximum-magnitude reduction. -/
  | vrmaxabs (o : NibOp) (rd a : BitVec 5) (pg : BitVec 3)
  /-- VRMINCLS (R253). Minimum CLS reduction. -/
  | vrmincls (o : NibOp) (rd a : BitVec 5) (pg : BitVec 3)
  /-- VCLS (R253). Counts redundant sign bits. -/
  | vcls (o : NibOp) (vd a : BitVec 5) (pg : BitVec 3)
  /-- VNORM (R253). Normalises components. -/
  | vnorm (o : NibOp) (vd a : BitVec 5) (pg : BitVec 3)
  /-- VBEXP (R256). Computes block exponents. -/
  | vbexp (o : NibOp) (vd a : BitVec 5) (pg : BitVec 3)
  /-- VBSCL (R257). Scales components to mantissas. -/
  | vbscl (o : NibOp) (vd a b : BitVec 5) (pg : BitVec 3)
  /-- VBPACK (R258). Packs block-floating-point groups. -/
  | vbpack (o : NibOp) (vd a b : BitVec 5) (pg : BitVec 3)
  /-- VBUNPK (R259). Unpacks block-floating-point groups. -/
  | vbunpk (o : NibOp) (vd a : BitVec 5) (pg : BitVec 3)
  /-- VFADD (R260). Floating-point add. -/
  | vfadd (o : NibOp) (vd a b : BitVec 5) (pg : BitVec 3)
  /-- VFSUB (R260). Floating-point subtract. -/
  | vfsub (o : NibOp) (vd a b : BitVec 5) (pg : BitVec 3)
  /-- VFMUL (R260). Floating-point multiply. -/
  | vfmul (o : NibOp) (vd a b : BitVec 5) (pg : BitVec 3)
  /-- VFMA (R260). Fused multiply-add. -/
  | vfma (o : NibOp) (vd a b : BitVec 5) (pg : BitVec 3)
  /-- VFMIN (R260). Floating-point minimum. -/
  | vfmin (o : NibOp) (vd a b : BitVec 5) (pg : BitVec 3)
  /-- VFMAX (R260). Floating-point maximum. -/
  | vfmax (o : NibOp) (vd a b : BitVec 5) (pg : BitVec 3)
  /-- VFCMPLT (R260). Floating-point compare less to predicate. -/
  | vfcmplt (o : NibOp) (pd : BitVec 3) (a b : BitVec 5) (pg : BitVec 3)
  /-- VFCMPEQ (R260). Floating-point compare equal to predicate. -/
  | vfcmpeq (o : NibOp) (pd : BitVec 3) (a b : BitVec 5) (pg : BitVec 3)
  /-- VFABS (R260). Floating-point absolute value. -/
  | vfabs (o : NibOp) (vd a : BitVec 5) (pg : BitVec 3)
  /-- VFNEG (R260). Floating-point negate. -/
  | vfneg (o : NibOp) (vd a : BitVec 5) (pg : BitVec 3)
  /-- VCVTIF (R260). Converts int32 to fp32. -/
  | vcvtif (o : NibOp) (vd a : BitVec 5) (pg : BitVec 3)
  /-- VCVTFI (R260). Converts fp32 to int32. -/
  | vcvtfi (o : NibOp) (vd a : BitVec 5) (pg : BitVec 3)
  /-- VCVTFB (R260). Converts fp32 to bf16. -/
  | vcvtfb (o : NibOp) (vd a : BitVec 5) (pg : BitVec 3)
  /-- VCVTBF (R260). Converts bf16 to fp32. -/
  | vcvtbf (o : NibOp) (vd a : BitVec 5) (pg : BitVec 3)
  /-- VLD (R261). Unit-stride vector load, optionally first-fault. -/
  | vld (o : NibOp) (ff pi : Bool) (vd ra : BitVec 5) (pg : BitVec 3)
  /-- VLDS (R261). Strided vector load. -/
  | vlds (o : NibOp) (ff : Bool) (vd ra rb : BitVec 5) (pg : BitVec 3)
  /-- VLDG (R261). Vector gather. -/
  | vldg (o : NibOp) (ff : Bool) (scale : BitVec 2) (vd ra b : BitVec 5) (pg : BitVec 3)
  /-- VST (R261). Unit-stride vector store. -/
  | vst (o : NibOp) (pi : Bool) (vs ra : BitVec 5) (pg : BitVec 3)
  /-- VSTS (R264). Strided vector store. -/
  | vsts (o : NibOp) (vs ra rb : BitVec 5) (pg : BitVec 3)
  /-- VSTG (R264). Vector scatter. -/
  | vstg (o : NibOp) (scale : BitVec 2) (vs ra b : BitVec 5) (pg : BitVec 3)
  /-- VLDR (R265). Loads a whole vector register image. -/
  | vldr (o : NibOp) (vd ra : BitVec 5) (pg : BitVec 3)
  /-- VSTR (R265). Stores a whole vector register image. -/
  | vstr (o : NibOp) (vs ra : BitVec 5) (pg : BitVec 3)
  /-- VLDRP (R265). Loads a predicate or pff image. -/
  | vldrp (o : NibOp) (p ra : BitVec 5) (pg : BitVec 3)
  /-- VSTRP (R265). Stores a predicate or pff image. -/
  | vstrp (o : NibOp) (p ra : BitVec 5) (pg : BitVec 3)
  /-- VLDRA (R265). Loads an accumulator image once the vector slot is idle. -/
  | vldra (o : NibOp) (acc ra : BitVec 5) (pg : BitVec 3)
  /-- VSTRA (R265). Stores an accumulator image once the vector slot is idle. -/
  | vstra (o : NibOp) (acc ra : BitVec 5) (pg : BitVec 3)
  /-- FLOCK (R289). Blocking acquire of a Ferrule lock. -/
  | flock (o : NibOp) (f : FFmt)
  /-- FLOCKNB (R289). Non-blocking acquire of a Ferrule lock. -/
  | flocknb (o : NibOp) (f : FFmt)
  /-- FUNLOCK (R290). Releases the Ferrule lock after every tag clears, passing it to a waiter. -/
  | funlock (o : NibOp) (f : FFmt)
  /-- FWAIT (R297). Waits for one tag or all tags to clear. -/
  | fwait (o : NibOp) (f : FFmt)
  /-- FGET (R298). Pops a scalar result of the Ferrule queue. -/
  | fget (o : NibOp) (f : FFmt)
  /-- FSAVE (R304). Saves the configuration words, optionally releasing CFGV. -/
  | fsave (o : NibOp) (f : FFmt)
  /-- FRESTORE (R304). Restores the configuration words and claims CFG_OWNER. -/
  | frestore (o : NibOp) (f : FFmt)
  /-- FMUL (R292). Matrix multiply command. -/
  | fmul (o : NibOp) (f : FFmt)
  /-- FHERM (R292). Hermitian product plus diagonal command. -/
  | fherm (o : NibOp) (f : FFmt)
  /-- FCHOL (R292). Cholesky factorisation command. -/
  | fchol (o : NibOp) (f : FFmt)
  /-- FTRSM (R292). Triangular solve command. -/
  | ftrsm (o : NibOp) (f : FFmt)
  /-- FQR (R292). QR factorisation command. -/
  | fqr (o : NibOp) (f : FFmt)
  /-- FINV (R292). Matrix inverse command. -/
  | finv (o : NibOp) (f : FFmt)
  /-- FEIG (R292). Hermitian eigen-decomposition command. -/
  | feig (o : NibOp) (f : FFmt)
  /-- FERRULE_COMMAND_COMPLETE (R296). A Ferrule command's writes are acknowledged and its tag clears with its status. -/
  | ferruleCommandComplete (f : Fin 16) (stall : W32)
  /-- FER_CTL_ABORT (R308). Write of CTL.ABORT ends every outstanding command and sets ERR. -/
  | ferCtlAbort (who : Requester) (f : Fin 16)
  /-- ACC_QUERY (R346). Returns instance status and the realm's ring state. -/
  | accQuery (d : Desc)
  /-- RING_CONFIG (R346). Configures the realm's ring on a pool instance. -/
  | ringConfig (d : Desc)
  /-- HARQ_LOOKUP (R346). Returns the Directory entry of a key. -/
  | harqLookup (d : Desc)
  /-- HARQ_FREE (R342). Frees an IDLE Directory entry and its buffer. -/
  | harqFree (d : Desc)
  /-- HARQ_FREE_UE (R342). Frees the IDLE entries of a UE or cell. -/
  | harqFreeUe (d : Desc)
  /-- HARQ_USAGE (R346). Returns the realm's Directory usage. -/
  | harqUsage (d : Desc)
  /-- LDPC_DECODE (R328). LD job decoding the code blocks of a transport block. -/
  | ldpcDecode (j : Job)
  /-- LDPC_ENCODE (R329). LE job encoding and rate-matching a transport block. -/
  | ldpcEncode (j : Job)
  /-- POLAR_DECODE (R330). PO job list-decoding a polar codeword. -/
  | polarDecode (j : Job)
  /-- POLAR_ENCODE (R330). PO job encoding a polar codeword. -/
  | polarEncode (j : Job)
  /-- TURBO_DECODE (R331). TU job turbo-decoding C blocks. -/
  | turboDecode (j : Job)
  /-- TURBO_ENCODE (R331). TU job turbo-encoding C blocks. -/
  | turboEncode (j : Job)
  /-- FFT (R332). FT job forward FFT of NSYM symbols. -/
  | fft (j : Job)
  /-- IFFT (R332). FT job inverse FFT. -/
  | ifft (j : Job)
  /-- DFT (R332). FT job forward DFT. -/
  | dft (j : Job)
  /-- IDFT (R332). FT job inverse DFT. -/
  | idft (j : Job)
  /-- NR_COMBINE (R334). HC job rate-recovering and combining NR LLRs. -/
  | nrCombine (j : Job)
  /-- LTE_COMBINE (R334). HC job combining LTE turbo LLRs. -/
  | lteCombine (j : Job)
  /-- DEMAP (R336). DM job soft-demapping equalised symbols. -/
  | demap (j : Job)
  /-- POOL_JOB_COMPLETE (R317). A pool or RA job ends and its descriptor is written back in ring order. -/
  | poolJobComplete (x : Fin 58)
  /-- JOB_OVERRUN (R323). A job exceeds its overrun limit and gives a fault notice. -/
  | jobOverrun (x : Fin 58)
  /-- HDY_ACC_READ (R350). Indirect read of a Directory item into DATA. -/
  | hdyAccRead (who : Requester)
  /-- HDY_ACC_WRITE (R350). Indirect write of DATA to a Directory item. -/
  | hdyAccWrite (who : Requester)
  /-- NR_PRACH (R359). RA occasion job detecting NR preambles. -/
  | nrPrach (j : Job) (ds : List RaDet)
  /-- LTE_PRACH (R359). RA occasion job detecting LTE preambles. -/
  | ltePrach (j : Job) (ds : List RaDet)
  /-- NPRACH (R359). RA occasion job detecting NB-IoT preambles. -/
  | nprach (j : Job) (ds : List RaDet)
  /-- PREADY_REACHED (R361). The time base reaches a context's PREADY and its payload is queued. -/
  | preadyReached (e : Fin 2) (c : Fin 32)
  /-- PAYLOAD_PROCESS (R367). The engine starts decoding a queued message A payload. -/
  | payloadProcess (e : Fin 2)
  /-- PAYLOAD_COMPLETE (R361). A payload ends with CRC pass or fail and frees its context. -/
  | payloadComplete (e : Fin 2) (pass : Bool)
  /-- RA_RING (R372). Configures the realm's ring on an RA engine. -/
  | raRing (d : Desc)
  /-- RA_CONFIG (R372). Configures the record queue and payload area. -/
  | raConfig (d : Desc)
  /-- RA_THRESH (R360). Writes threshold entries. -/
  | raThresh (d : Desc)
  /-- RA_QUERY (R372). Returns context and queue state. -/
  | raQuery (d : Desc)
  /-- RA_ABORT (R361). Aborts the realm's waiting and running payload contexts. -/
  | raAbort (d : Desc)
  /-- FLIT_CRC_ERROR (R395). A flit fails its CRC and is retried; repeated failure fences the link. -/
  | flitCrcError (site : Fin 48) (link : Fin 6) (retry : Fin 5)
  /-- ROUTER_ERROR (R398). A router table or buffer error fences the router. -/
  | routerError (site : Fin 48)
  /-- RESPONSE_TIMEOUT (R399). An outstanding request exceeds its timeout and completes with TIMEOUT. -/
  | responseTimeout (who : Requester) (ring : Option RingId)
  /-- FIRST_ACCESS (R524). An access to a domain below D0 is held and starts an exit. -/
  | firstAccess (who : Requester) (write : Bool) (addr : BitVec 48) (bytes : BitVec 10) (data : W64)
  /-- HELD_REQUEST_PERFORM (R405). Once the domain is at D0, held requests are performed in order. -/
  | heldRequestPerform (dom : Fin 64)
  /-- HOLD_TIMEOUT (R406). A held request not performed within HOLD_TMO_US ends with TIMEOUT. -/
  | holdTimeout (dom : Fin 64)
  /-- SCRUB_LINE (R389). The patrol scrub reads one line, correcting or poisoning it. -/
  | scrubLine (unit : Fin 15) (addr : BitVec 48) (err : Fin 3) (ends : Bool)
  /-- ROW_REPAIR (R390). A controller starts soft post-package repair of a row. -/
  | rowRepair (unit : Fin 15) (spare : Bool)
  /-- ROW_REPAIR_COMPLETE (R390). A row repair ends, is logged and raises EV0862. -/
  | rowRepairComplete (unit : Fin 15) (place : BitVec 30)
  /-- SCRUB_PASS_NOW (R389). Write of SCRUB_CFG.PASS_NOW starting a scrub pass. -/
  | scrubPassNow (who : Requester) (unit : Fin 15)
  /-- ECC_CORR_READ (R381). Read of ECC_CORR clearing it and CE_OVER and rearming the event. -/
  | eccCorrRead (who : Requester) (unit : Fin 15)
  /-- MEMORY_TRAINING (R388). HBM and DDR training runs and sets populated capacity. -/
  | memoryTraining (hbm : BitVec 2) (lanes : BitVec 8) (caps : Vector W32 4) (bad : BitVec 4)
  /-- REFRESH (R388). Temperature-controlled refresh of HBM or DDR. -/
  | refresh (unit : Fin 15)
  /-- EPOCH_FLIP (R403). Write of EPOCH_CTL.FLIP changing the injection epoch. -/
  | epochFlip (who : Requester)
  /-- EPOCH_DRAIN_COMPLETE (R403). The old epoch drains to zero and EV0867 is raised. -/
  | epochDrainComplete
  /-- RT_ACC_READ (R415). Indirect read of a route-table entry. -/
  | rtAccRead (who : Requester)
  /-- RT_ACC_WRITE (R403). Indirect write of a route-table entry to an inactive bank. -/
  | rtAccWrite (who : Requester)
  /-- RT_ACC_COPY (R403). Copies the active bank into the inactive bank at every site. -/
  | rtAccCopy (who : Requester)
  /-- MEM_QUERY (R410). Returns ECC counts and repairs of a memory unit. -/
  | memQuery (d : Desc)
  /-- MEM_SCRUB (R410). Sets scrub period or starts a pass. -/
  | memScrub (d : Desc)
  /-- NOC_STAT (R410). Returns statistics of one initiator. -/
  | nocStat (d : Desc)
  /-- NOC_LINK_TEST (R409). Puts a link into a PRBS test. -/
  | nocLinkTest (d : Desc)
  /-- LINK_TEST_END (R409). A link test duration ends, returning the link and raising EV0866. -/
  | linkTestEnd (site : Fin 48) (link : Fin 6) (flits : W64) (errors : W32)
  /-- NOC_QUERY (R410). Returns router, link and epoch state of a site. -/
  | nocQuery (d : Desc)
  /-- NOC_LINK_RESTORE (R409). Returns a tested fenced link or router to service. -/
  | nocLinkRestore (d : Desc)
  /-- COPY1D (R422). Scribe one-dimensional copy descriptor. -/
  | copy1d (j : Job)
  /-- COPY2D (R422). Scribe two-dimensional copy descriptor. -/
  | copy2d (j : Job)
  /-- COPY3D (R422). Scribe three-dimensional copy descriptor. -/
  | copy3d (j : Job)
  /-- GATHER (R422). Scribe gather or scatter descriptor. -/
  | gather (j : Job)
  /-- BURST_GRANT (R434). A Chancery channel with enough tokens is granted a write burst. -/
  | burstGrant (ready : BitVec 128)
  /-- SCRIBE_DESCRIPTOR_COMPLETE (R426). A Scribe descriptor ends and writes RESULT, DETAIL and status. -/
  | scribeDescriptorComplete (e : Fin 12) (c : Fin 32)
  /-- CH_CTL_STOP (R429). Write of CH.CTL.STOP holding the channel after the running descriptor. -/
  | chCtlStop (who : Requester) (e : Fin 12) (c : Fin 32) (value : W32)
  /-- CHANNEL_CLAIM (R419). OWNED write with OP 0b01 claiming Chancery channels. -/
  | channelClaim (who : Requester) (e : Fin 12) (r : Fin 16) (mask : BitVec 14)
  /-- CHANNEL_RELEASE (R419). OWNED write with OP 0b10 releasing disabled channels. -/
  | channelRelease (who : Requester) (e : Fin 12) (r : Fin 16) (mask : BitVec 14)
  /-- TCTL_COMMIT (R437). Write of TCTL.COMMIT arming the template shadow. -/
  | tctlCommit (who : Requester) (e : Fin 12) (c : Fin 8) (value : W32)
  /-- TCTL_ENABLE (R435). Write of TCTL.ENABLE switching a channel to or from timed rounds. -/
  | tctlEnable (who : Requester) (e : Fin 12) (c : Fin 8) (value : W32)
  /-- TIMED_ROUND_START (R435). A start event begins a round from the active template, or counts OVERRUN. -/
  | timedRoundStart (e : Fin 4) (c : Fin 8)
  /-- TIMED_ROUND_COMPLETE (R436). A round ends and writes its round record. -/
  | timedRoundComplete (e : Fin 4) (c : Fin 8)
  /-- ETH_CONFIG (R444). Configures and enables or disables an Ethernet port. -/
  | ethConfig (d : Desc)
  /-- PORT_LINK_UP (R444). A LINKING port holds lock for 1 ms and enters UP. -/
  | portLinkUp (port : Fin 32)
  /-- PORT_LINK_DOWN (R444). An UP port loses signal or lock and returns to LINKING. -/
  | portLinkDown (port : Fin 32)
  /-- ETH_QUERY (R466). Returns port status and counters. -/
  | ethQuery (d : Desc)
  /-- FH_STREAM (R452). Writes stream-table entries. -/
  | fhStream (d : Desc)
  /-- FH_WINDOW (R458). Sets a window group and arms its trigger channel. -/
  | fhWindow (d : Desc)
  /-- FH_RING (R466). Configures a fronthaul ring. -/
  | fhRing (d : Desc)
  /-- FH_HDR (R450). Writes a header template. -/
  | fhHdr (d : Desc)
  /-- MACSEC_SA (R465). Installs or deletes a MACsec SA. -/
  | macsecSa (d : Desc)
  /-- ETH_CAL (R445). Writes user timestamp offsets of a port. -/
  | ethCal (d : Desc)
  /-- U_PLANE_INGRESS (R459). An ingress U-plane packet is classified, judged against its window and decompressed. -/
  | uPlaneIngress (port : Fin 32) (frame : List Byte) (fcsOk : Bool) (msec : Fin 4)
  /-- WINDOW_CLOSE (R460). A window closes after pending packets are processed, setting CLOSED. -/
  | windowClose (f : Fin 2) (g : Fin 64)
  /-- FRAME_INGRESS (R463). A non-U-plane frame is classified and written to an RX_BUF descriptor. -/
  | frameIngress (port : Fin 32) (frame : List Byte) (fcsOk : Bool) (msec : Fin 4)
  /-- U_TX (R461). Transmits U-plane frames of a symbol within its window. -/
  | uTx (j : Job) (room : BitVec 16)
  /-- C_TX (R462). Transmits a C-plane message within its window. -/
  | cTx (j : Job) (room : Bool)
  /-- FRAME_TX (R462). Transmits a raw frame with optional timestamp insertion. -/
  | frameTx (j : Job)
  /-- RX_BUF (R463). Supplies a receive buffer descriptor. -/
  | rxBuf (j : Job)
  /-- STREAM_TABLE_ERROR (R452). An uncorrectable stream-table error clears VALID and raises EV0746. -/
  | streamTableError (f : Fin 2) (idx : Fin 16384)
  /-- ST_ACC_READ (R470). Indirect read of a stream-table entry. -/
  | stAccRead (who : Requester) (f : Fin 2)
  /-- ST_ACC_WRITE (R470). Indirect write of a stream-table entry, checked per R452. -/
  | stAccWrite (who : Requester) (f : Fin 2)
  /-- JES_LINK (R474). Configures and enables or disables a JESD204C link. -/
  | jesLink (d : Desc)
  /-- JES_LINK_UP (R474). A syncing link locks on every lane and enters UP. -/
  | jesLinkUp (k : Fin 4) (rx : Bool) (m : Fin 2)
  /-- JES_LINK_LOSS (R474). An UP link loses lock or CRC and returns to SYNCING. -/
  | jesLinkLoss (k : Fin 4) (rx : Bool) (m : Fin 2) (cause : Fin 3) (lane : Fin 4)
  /-- SYSREF_EDGE (R475). A SYSREF edge realigns LEMCs and is stamped. -/
  | sysrefEdge
  /-- CONVERTER_START (R478). At the first LEMC edge after the occurrence, ARMED paths start. -/
  | converterStart (k : Fin 4) (rx : Bool) (m : Fin 2)
  /-- JES_QUERY (R488). Returns quad and link status. -/
  | jesQuery (d : Desc)
  /-- DFE_PATH (R481). Writes a carrier path configuration. -/
  | dfePath (d : Desc)
  /-- DFE_PATH_CTL_ARM (R481). Moves a path to ARMED. -/
  | dfePathCtlArm (d : Desc)
  /-- DFE_PATH_CTL_STOP (R481). Returns a path to STOPPED at once. -/
  | dfePathCtlStop (d : Desc)
  /-- DFE_PATH_CTL_COMMIT (R481). Arms the path's shadow NCO and gain. -/
  | dfePathCtlCommit (d : Desc)
  /-- DFE_CFR (R482). Sets crest-factor reduction of a stream. -/
  | dfeCfr (d : Desc)
  /-- DFE_MASK (R483). Sets the spectral-mask monitor of a stream. -/
  | dfeMask (d : Desc)
  /-- PATH_UNDERRUN (R480). A TX path reaching WR_IDX outputs zero and counts UNDERRUN. -/
  | pathUnderrun (c : Fin 64)
  /-- MASK_MONITOR_FRAME (R483). Every 64 µs a frame of the stream is measured against its mask. -/
  | maskMonitorFrame (st : Fin 32) (power : Vector (BitVec 16) 8)
  /-- CFR_PEAK_INTERVAL (R482). A 64 µs interval ends and EV0788 is raised when peaks exceed PEAK_LIM. -/
  | cfrPeakInterval (st : Fin 32) (clipped : BitVec 16)
  /-- PA_PROGRAM (R484). Loads a PA program and stream binding. -/
  | paProgram (d : Desc)
  /-- PA_REQ_UP (R485). Requests the UP program. -/
  | paReqUp (d : Desc)
  /-- PA_REQ_DOWN (R485). Requests the DOWN program. -/
  | paReqDown (d : Desc)
  /-- PA_REQ_MUTE (R485). Requests the MUTE program. -/
  | paReqMute (d : Desc)
  /-- PA_REQ_TEST (R485). Requests the TEST program. -/
  | paReqTest (d : Desc)
  /-- PA_REQ_CLEAR (R485). Returns a MUTED interface to OFF. -/
  | paReqClear (d : Desc)
  /-- PA_PROGRAM_END (R485). A PA program ends, moving the interface and starting a queued request. -/
  | paProgramEnd (p : Fin 16)
  /-- PA_FAULT (R486). FLT_N low for 2 cycles requests MUTE. -/
  | paFault (p : Fin 16) (low : Bool)
  /-- FAB_QUERY (R509). Returns fabric status and reachable devices. -/
  | fabQuery (d : Desc)
  /-- FAB_PORT (R495). Enables or disables a YilkuLink port. -/
  | fabPort (d : Desc)
  /-- FAB_SNAP (R508). Arms a snapshot on every reachable member. -/
  | fabSnap (d : Desc)
  /-- FAB_SNAP_ARM_REQUEST (R508). A member receives an arm request and arms or refuses. -/
  | fabSnapArmRequest (tb : Fin 8) (sec : BitVec 48) (ns : W32)
  /-- FAB_SNAP_ANSWERS_COMPLETE (R508). The answers are collected within 100 µs and the result written. -/
  | fabSnapAnswersComplete (armed : W64) (answered : W64)
  /-- FAB_LINK_TEST (R509). Runs a pattern test on a YilkuLink port. -/
  | fabLinkTest (d : Desc)
  /-- FAB_LINK_TEST_END (R509). The port test ends and the port returns to UP. -/
  | fabLinkTestEnd (p : Fin 4) (bits : W64) (errors : W32)
  /-- FAB_PEER_QUERY (R509). Returns a peer's reachability and route. -/
  | fabPeerQuery (d : Desc)
  /-- YLK_HELLO (R498). A HELLO frame is judged, bringing the link UP or ISOLATED. -/
  | ylkHello (p : Fin 4) (fabric : W32) (dev : BitVec 8) (unit : W64) (ver : BitVec 8) (farPort : Fin 4) (two : Bool)
  /-- YLK_LINK_FAILURE (R495). Retry, silence or lane loss returns an UP port to TRAINING. -/
  | ylkLinkFailure (p : Fin 4) (lanes : Fin 5)
  /-- YLK_TRAINING_RETRY (R495). A training port retries training every 1 ms. -/
  | ylkTrainingRetry (p : Fin 4)
  /-- SETTLING_WINDOW_END (R499). The ID settling window ends and automatic devices take IDs. -/
  | settlingWindowEnd
  /-- ADJACENCY_FRAME (R500). A flooded adjacency list arrives and route tables are recomputed. -/
  | adjacencyFrame (dev : Fin 64) (unit : W64) (links : List FabLink)
  /-- HEARTBEAT_SEND (R503). Every 2 µs a heartbeat is sent to each reachable device. -/
  | heartbeatSend
  /-- HEARTBEAT_RECEIVE (R503). A heartbeat arrives, restarting the peer's count or making it reachable. -/
  | heartbeatReceive (dev : Fin 64)
  /-- PEER_LOSS (R503). A peer is lost on route loss or 8 µs without heartbeat. -/
  | peerLoss (dev : Fin 64)
  /-- REMOTE_REQUEST (R502). A remote request arrives and is performed or forwarded in flow order. -/
  | remoteRequest (q : RemoteReq)
  /-- TIME_FRAME_SEND (R505). Every 1 ms a time frame is sent on each UP link. -/
  | timeFrameSend (p : Fin 4)
  /-- TIME_FRAME_RECEIVE (R506). A time exchange completes and DELAY and OFFSET are written. -/
  | timeFrameReceive (p : Fin 4) (stamps : List FabStamp)
  /-- PWR_VOTE_D0 (R517). Places a D0 vote on a domain. -/
  | pwrVoteD0 (d : Desc)
  /-- PWR_VOTE_TOLERANCE (R517). Places a tolerance vote on a domain. -/
  | pwrVoteTolerance (d : Desc)
  /-- PWR_VOTE_WITHDRAW (R517). Withdraws a vote on a domain. -/
  | pwrVoteWithdraw (d : Desc)
  /-- PWR_QUERY (R534). Returns domain state, votes and last wake. -/
  | pwrQuery (d : Desc)
  /-- PWR_ENTER (R534). Starts an entry to a deeper state waiving HOLDOFF. -/
  | pwrEnter (d : Desc)
  /-- PWR_WINDOW (R531). Claims or frees a power-state window. -/
  | pwrWindow (d : Desc)
  /-- PWR_FORCE_CLEAR (R530). Lets a thermally forced domain rise again. -/
  | pwrForceClear (d : Desc)
  /-- CLK_QUERY (R534). Returns clock and PLL state. -/
  | clkQuery (d : Desc)
  /-- POWER_ENTRY_START (R520). A target held deeper for HOLDOFF_US starts an entry. -/
  | powerEntryStart (dom : Fin 64)
  /-- POWER_ENTRY_STEP_COMPLETE (R521). An entry step ends and the next abort point is sampled. -/
  | powerEntryStepComplete (dom : Fin 64)
  /-- POWER_EXIT (R520). A shallower target or a wake starts an exit to D0. -/
  | powerExit (dom : Fin 64)
  /-- POWER_EXIT_COMPLETE (R526). The domain reaches D0 and its last-wake record is written. -/
  | powerExitComplete (dom : Fin 64) (bad : BitVec 128)
  /-- RETENTION_EXCURSION (R527). The undervoltage monitor logs a retention-supply excursion. -/
  | retentionExcursion (dom : Fin 64) (bank : Fin 128)
  /-- FORCED_POWER_DOWN (R530). Named domains are forced to D3 without abort points. -/
  | forcedPowerDown (zero : Bool)
  /-- POWER_WINDOW_EXPIRY (R531). A window duration ends and its TRIGGER votes end. -/
  | powerWindowExpiry (w : Fin 32)
  /-- PLL_LOSS_OF_LOCK (R533). A PLL loses lock, setting LOL and giving fault notices. -/
  | pllLossOfLock (k : Fin 9)
  /-- SENSOR_SAMPLE (R629). Every 10 µs the sensors are sampled and thermal thresholds judged. -/
  | sensorSample (temps : Vector (BitVec 12) 16)
  /-- AVS_SETPOINT_STEP (R620). The VDD_CORE setpoint is moved by one step over AVSBus. -/
  | avsSetpointStep (ack : Bool)
  /-- AVS_RETRY (R620). An unacknowledged command is retried every 1 ms at 0.80 V. -/
  | avsRetry (ack : Bool)
  /-- NIB_WATCHDOG_EXPIRY (R539). An unanswered dispatch interrupt reaches WDOG_US and notifies a fault. -/
  | nibWatchdogExpiry (nib : Fin 128)
  /-- AVL_QUERY (R555). Returns a fault-log record and fence masks. -/
  | avlQuery (d : Desc)
  /-- AVL_RETURN (R542). Returns a tested fenced unit to service. -/
  | avlReturn (d : Desc)
  /-- PNC_RUN (R547). Tests a domain at once with the Pounce steps. -/
  | pncRun (d : Desc)
  /-- PNC_RUN_ABORT (R548). Abandons a Pounce test with ABORTED. -/
  | pncRunAbort (d : Desc)
  /-- PNC_SCHED (R546). Writes the Pounce rotation configuration. -/
  | pncSched (d : Desc)
  /-- SERDES_TEST (R551). Runs a pattern test on an Ethernet or JESD lane. -/
  | serdesTest (d : Desc)
  /-- SERDES_TEST_END (R555). A lane test ends and raises EV0936. -/
  | serdesTestEnd (jesd rx : Bool) (lane : Fin 32) (bits : W64) (errors : W32)
  /-- CAL_SET (R552). Writes a user calibration value. -/
  | calSet (d : Desc)
  /-- CAL_QUERY (R555). Returns factory, user and effective calibration. -/
  | calQuery (d : Desc)
  /-- AVL_HEADROOM (R543). Returns the fault margins of the current window. -/
  | avlHeadroom (d : Desc)
  /-- CAL_USER_WRITE (R552). Write of CAL.USER recomputing the effective value and clamp. -/
  | calUserWrite (who : Requester) (value : W32)
  /-- POUNCE_SELECT (R546). The controller selects a due domain and requests its exclusion. -/
  | pounceSelect
  /-- POUNCE_EXCLUSION_START (R547). At instant S the domain is taken out of service and drained. -/
  | pounceExclusionStart (dom : Fin 64)
  /-- POUNCE_DRAINED (R547). The domain is idle and the patterns start under a PNC vote. -/
  | pounceDrained (dom : Fin 64)
  /-- POUNCE_DRAIN_TIMEOUT (R547). The drain exceeds DRAIN_US and the test is deferred. -/
  | pounceDrainTimeout (dom : Fin 64)
  /-- POUNCE_TEST_END (R547). Patterns end; pass block-resets the domain, fail fences it. -/
  | pounceTestEnd (dom : Fin 64) (pass : Bool) (coverage : BitVec 12) (duration : BitVec 16)
  /-- CHP_STATE_QUERY (R589). Returns Chop state and tamper causes. -/
  | chpStateQuery (d : Desc)
  /-- CHP_STATE_SELF_TEST (R568). Requests a self-test run. -/
  | chpStateSelfTest (d : Desc)
  /-- CHP_STATE_READ_COUNTER (R589). Reads an anti-rollback counter. -/
  | chpStateReadCounter (d : Desc)
  /-- CHP_STATE_ADVANCE_COUNTER (R565). Advances an anti-rollback counter. -/
  | chpStateAdvanceCounter (d : Desc)
  /-- CHP_AUTH_CHALLENGE (R562). Returns a 48-byte nonce. -/
  | chpAuthChallenge (d : Desc)
  /-- CHP_AUTH_RESPOND (R562). Verifies both signatures over the nonce and opens a session. -/
  | chpAuthRespond (d : Desc)
  /-- CHP_AUTH_LOGOUT (R562). Ends the session. -/
  | chpAuthLogout (d : Desc)
  /-- AUTH_LOCKOUT_EXPIRY (R562). The 60 s authentication lockout of a role ends. -/
  | authLockoutExpiry (role : Fin 17)
  /-- CHP_KEY_GENERATE (R564). Generates a key in a slot. -/
  | chpKeyGenerate (d : Desc)
  /-- CHP_KEY_IMPORT (R564). Imports a wrapped or public key into a slot. -/
  | chpKeyImport (d : Desc)
  /-- CHP_KEY_EXPORT (R564). Exports a slot, wrapped for secrets. -/
  | chpKeyExport (d : Desc)
  /-- CHP_KEY_DELETE (R589). Empties a key slot. -/
  | chpKeyDelete (d : Desc)
  /-- CHP_KEY_QUERY (R589). Returns a slot's type. -/
  | chpKeyQuery (d : Desc)
  /-- CHP_CRYPT_GCM_ENCRYPT (R560). AES-256-GCM encryption. -/
  | chpCryptGcmEncrypt (d : Desc)
  /-- CHP_CRYPT_GCM_DECRYPT (R560). AES-256-GCM decryption and tag check. -/
  | chpCryptGcmDecrypt (d : Desc)
  /-- CHP_CRYPT_HASH (R560). Hash computation. -/
  | chpCryptHash (d : Desc)
  /-- CHP_CRYPT_HMAC (R560). HMAC computation. -/
  | chpCryptHmac (d : Desc)
  /-- CHP_CRYPT_SIGN (R560). Signature with a slot key. -/
  | chpCryptSign (d : Desc)
  /-- CHP_CRYPT_VERIFY (R560). Signature verification. -/
  | chpCryptVerify (d : Desc)
  /-- CHP_CRYPT_RANDOM (R560). Random bytes from the DRBG. -/
  | chpCryptRandom (d : Desc)
  /-- CHP_CRYPT_KDF (R560). Key derivation into a slot. -/
  | chpCryptKdf (d : Desc)
  /-- CHP_CRYPT_ECDH (R560). ECDH agreement into a slot. -/
  | chpCryptEcdh (d : Desc)
  /-- CHP_ATTEST_REPORT (R567). Writes a signed attestation report. -/
  | chpAttestReport (d : Desc)
  /-- CHP_ATTEST_CHAIN (R566). Writes a certificate chain. -/
  | chpAttestChain (d : Desc)
  /-- CHP_ZEROISE (R571). Starts zeroisation on command. -/
  | chpZeroise (d : Desc)
  /-- TAMPER_DETECT (R570). A tamper sensor fires and zeroisation starts within 5 µs. -/
  | tamperDetect (cause : Tamper)
  /-- ZEROISATION_COMPLETE (R571). All CSPs are erased, a fuse is blown and the module is ZEROISED. -/
  | zeroisationComplete
  /-- SELF_TEST_PERIODIC (R568). The 24 h known-answer test run starts. -/
  | selfTestPeriodic
  /-- SELF_TEST_COMPLETE (R569). A self-test run ends, moving the module state. -/
  | selfTestComplete (failed : BitVec 8)
  /-- PAL_STAGE (R583). Verifies staged images and computes their order. -/
  | palStage (d : Desc)
  /-- PAL_CTL_START (R579). Starts writing the staged components. -/
  | palCtlStart (d : Desc)
  /-- PAL_CTL_CONFIRM (R582). Confirms the trial image and advances the counter. -/
  | palCtlConfirm (d : Desc)
  /-- PAL_CTL_REJECT (R579). Rejects the trial image, starting restoration. -/
  | palCtlReject (d : Desc)
  /-- PAL_CTL_DISCARD (R579). Discards the staged set. -/
  | palCtlDiscard (d : Desc)
  /-- PAL_CTL_QUERY (R589). Returns update progress. -/
  | palCtlQuery (d : Desc)
  /-- PAL_BLOCK_WRITTEN (R580). A journalled block write of the image ends. -/
  | palBlockWritten
  /-- PAL_WRITE_COMPLETE (R579). All blocks written and re-verified; the entry becomes TRIAL. -/
  | palWriteComplete
  /-- PAL_IMAGE_STARTED (R579). The new image has started and its trial timer runs. -/
  | palImageStarted
  /-- PAL_ACTIVATION_TIMEOUT (R579). The image does not start within 3 s and restoration begins. -/
  | palActivationTimeout
  /-- PAL_TRIAL_EXPIRY (R582). The trial timer expires and restoration begins. -/
  | palTrialExpiry
  /-- PAL_RESTORE_COMPLETE (R579). Replay completes and the old image runs again. -/
  | palRestoreComplete
  /-- FL_READ (R592). FL_CMD read of flash into a buffer. -/
  | flRead (who : Requester)
  /-- FL_PROGRAM (R592). FL_CMD program of flash from a buffer. -/
  | flProgram (who : Requester)
  /-- FL_ERASE (R592). FL_CMD erase of whole 64 KiB blocks. -/
  | flErase (who : Requester)
  /-- FL_ACCESS_COMPLETE (R592). A flash access ends and raises EV0988. -/
  | flAccessComplete
  /-- NSP_HELLO (R588). A HELLO opens key agreement or receives ERROR. -/
  | nspHello (f : NspFrame)
  /-- NSP_AUTH (R588). AUTH carries the signatures and opens the session. -/
  | nspAuth (f : NspFrame) (sigs : List Byte)
  /-- NSP_COMMAND (R588). A COMMAND frame runs a descriptor as on CMD[16]. -/
  | nspCommand (f : NspFrame) (op : BitVec 8) (d : Desc)
  /-- NSP_DATA (R588). A DATA frame writes into the service buffer. -/
  | nspData (f : NspFrame) (offset : W32) (data : List Byte)
  /-- NSP_CLOSE (R588). CLOSE ends the session. -/
  | nspClose (f : NspFrame)
  /-- NSP_SESSION_TIMEOUT (R588). 300 s without a frame ends the session. -/
  | nspSessionTimeout
  /-- SERVICE_LINK_CHANGE (R588). The service port link changes state. -/
  | serviceLinkChange (up : Bool)
  /-- HOST_ACCESS (R596). A host TLP through a BAR is checked and performed. -/
  | hostAccess (func : Fin 17) (space : Fin 4) (write : Bool) (ep : Bool) (addr : BitVec 48) (bytes : BitVec 13) (data : List Byte)
  /-- HOST_WINDOW_ACCESS (R597). A device access to the host window is issued as a TLP. -/
  | hostWindowAccess (who : Requester) (write : Bool) (addr : BitVec 48) (bytes : BitVec 10) (data : W64)
  /-- HOST_COMPLETION (R597). A TLP completion returns and completes the device access. -/
  | hostCompletion (index : Fin 1024) (kind : Fin 4) (data : List Byte)
  /-- FUNCTION_LEVEL_RESET (R598). A function-level reset of a VF or the PF. -/
  | functionLevelReset (func : Fin 17) (done : Bool)
  /-- PCIE_PERST (R598). PCIE_PERST_N applies FLR effects to every function and retrains the link. -/
  | pciePerst (low : Bool)
  /-- PCIE_LINK_CHANGE (R598). The PCIe link changes state, raising EV1021. -/
  | pcieLinkChange (rate : Fin 7) (width : Fin 17) (flit : Bool)
  /-- HOST_QUERY (R610). Returns PCIe status. -/
  | hostQuery (d : Desc)
  /-- DEV_RESET (R604). Requests a warm reset. -/
  | devReset (d : Desc)
  /-- CORE_CTL_START (R599). Starts control core 4-7 at an entry address. -/
  | coreCtlStart (d : Desc)
  /-- CORE_CTL_STOP (R599). Holds a control core in reset. -/
  | coreCtlStop (d : Desc)
  /-- EVT_ROUTE (R607). Writes an event route. -/
  | evtRoute (d : Desc)
  /-- EVT_QUERY (R610). Returns an event route and pending bit. -/
  | evtQuery (d : Desc)
  /-- EVT_RAISE (R611). Raises EV1023. -/
  | evtRaise (d : Desc)
  /-- SWSET_WRITE (R611). Any write of EVT.SWSET raises EV1023. -/
  | swsetWrite (who : Requester) (value : W32)
  /-- BLT_CONFIG (R610). Writes a Blotter CFG. -/
  | bltConfig (d : Desc)
  /-- BLT_CFG_CLEAR (R614). Write of CFG.CLEAR resetting WPTR and RPTR. -/
  | bltCfgClear (who : Requester) (n : Fin 9)
  /-- GPIO_CTL_READ (R600). Reads a GPIO pin level. -/
  | gpioCtlRead (d : Desc)
  /-- GPIO_CTL_DRIVE (R600). Drives a GPIO output. -/
  | gpioCtlDrive (d : Desc)
  /-- GPIO_CTL_INPUT (R600). Sets a GPIO as input with edge detection. -/
  | gpioCtlInput (d : Desc)
  /-- GPIO_EDGE (R600). An enabled input edge raises EV1022. -/
  | gpioEdge (pin : Fin 32) (level : Bool)
  /-- EVENT_DELIVERY (R605). A queued event raise is delivered to every target of its route. -/
  | eventDelivery
  /-- DEBUG_TOKEN (R609). A debug token presented through the TAP is verified and opens the network. -/
  | debugToken (token : List Byte)
  /-- COLD_RESET (R626). RESET_N low for 10 µs starts a cold reset and boot. -/
  | coldReset (mode : BitVec 2) (refSel : Bool)
  /-- BOOT_BIST_COMPLETE (R549). Boot Pounce and memory BIST end, setting BOOT_STAT. -/
  | bootBistComplete (fatal : Bool) (logic : List (Fin 64)) (fails : BitVec 8) (repaired : BitVec 8) (fences : List (Nat × Nat)) (banks : List (Nat × Nat))
  /-- MEMORY_INITIALISATION (R603). Populated HBM and DDR are written with zeros and valid check bits. -/
  | memoryInitialisation
  /-- BOOT_VELLUM_APPLY (R54). The boot Vellum is validated and all realms applied, or none on failure. -/
  | bootVellumApply
  /-- WARM_RESET (R604). A warm reset request writes back the cache and reboots without PDAON. -/
  | warmReset (pin : Bool)
  /-- NIB_FENCE (R208). The Nib FENCE instruction (FENCE.S, FENCE.A or FENCE.I by IMM12[1:0]) freezes until earlier stores, and for .A and .I earlier loads, complete, and .I refetches bundles. -/
  | nibFence (o : NibOp) (kind : BitVec 2)
  /-- ILLEGAL_ENCODING (R195). A bundle with a reserved MAJOR, FUNC, COND or format bit, or breaking the bundle rules, raises ILLEGAL at issue. -/
  | illegalEncoding (o : NibOp)
  /-- UNASSIGNED_OPCODE (R67). A command, pool or Scribe descriptor whose OPCODE is not assigned completes with BAD_PARAM and changes nothing else. -/
  | unassignedOpcode (j : Job)
  /-- RC_FIELD_READ (R10). A read of an RC field returns the value and clears the field to its reset value in the same access, keeping an event set in that cycle per R11. -/
  | rcFieldRead (who : Requester) (addr : BitVec 48) (bytes : Nat)
  /-- RESPONSE_ARRIVAL (R201). The response to an uncached load, CSR access, AMO or FENCE arrives, a bank is granted or a store-buffer entry drains, and the frozen Nib pipeline resumes. -/
  | responseArrival (nib : Fin 128)
  /-- JOURNAL_WRITE_COMPLETE (R171). A Ductus journal write completes and the request's change takes effect in that CD16 + q cycle, ordered per R171 against tick expiries and dispatch. -/
  | journalWriteComplete (q : Fin 8)
  /-- PATH_OVERRUN (R480). An RX carrier path writes a sample past RD_IDX and adds 1 to OVERRUN. -/
  | pathOverrun (c : Fin 64)
  /-- PEER_PWR_VOTE (R517). A peer's PWR_VOTE carried over YilkuLink arrives and places or replaces that peer's FABRIC-class vote on a domain. -/
  | peerPwrVote (dev : Fin 64) (dom : Fin 64) (kind : Fin 3) (tol : W32)
  /-- POUNCE_WINDOW_CLOSE (R546). A kind 5 Pounce window closes after PNC.WIN[w].LEN_US, after which WINMODE 1 starts no further test. -/
  | pounceWindowClose (w : Fin 16)
  /-- POUNCE_OVERDUE (R548). A domain not passed within 2 × INTERVAL_H of its last pass raises EV0933 once. -/
  | pounceOverdue (dom : Fin 64)
  /-- TRNG_SAMPLE_FAILURE (R568). A repetition count or adaptive proportion test fails on a TRNG sample, moving the Chop from OPERATIONAL to SOFT_ERROR and raising EV0977. -/
  | trngSampleFailure
deriving DecidableEq, Repr

end Sys2Proof
end

