-- ==== Sys2Proof/Config.lean ====
section
/-! DEFINITION. What one implementation or one unit fixes, and the free values: constants without a body, so that
nothing proved in the model can rest on one of their values (notes/assumptions/1.md and 2.md). -/

namespace Sys2Proof.Config

/-- The n-th free value of a run: a value the manual leaves open, read with the state's counter `free`. -/
opaque freeVal : Nat → Nat

/-- The bytes of the n-th free data block: data whose content the manual leaves to a 3GPP algorithm, to cryptography
or to the world outside (decoder outputs, keys, received samples). -/
opaque freeByte : Nat → Nat → Byte

/-- Factory calibration value of an item and index (R552): fixed per unit, read-only. -/
opaque calFactory : Nat → Nat → W32

/-- The unit number (CHP.UNIT_LO and UNIT_HI), fixed per unit. -/
opaque unitNumber : BitVec 64

/-- The service port's MAC address, fixed per unit. -/
opaque serviceMac : BitVec 48

/-- Factory values of the anti-rollback counters (fuses), per unit. -/
opaque arbFuse : Nat → W32

/-- Zeroisation epochs left in the fuses (CHP.STATE.EPOCHS), per unit. -/
opaque epochFuse : Nat

/-- The YilkuLink protocol version of the control firmware (YLK FAB_STATUS.PROTO_VER). -/
opaque fabProtoVer : Nat

/-- SHA-384 of a byte string, as the digest's 48 bytes (R573: an algorithm the manual names and does not restate). -/
opaque sha384 : List Byte → List Byte

/-- Spare rows for repairs of a memory unit (R410), per unit. -/
opaque rowSpares : Nat → Nat

/-- The Nib-kernel regions that control firmware reserves in Quire and System Inkwell (R210): whether a local address lies
in one. -/
opaque nibKernel : Nat → Bool

/-- Latency of a JESD204C link in converter samples, by direction, CFG0 and CFG1 (R476: fixed per link configuration). -/
opaque jesLat : Bool → Nat → Nat → Nat

/-- Byte k of the output of a cryptographic operation on its inputs (R560: algorithms the manual names and does not restate). -/
opaque cryptByte : Nat → List (List Byte) → Nat → Byte

/-- Outcome of a cryptographic check (a tag, a signature) on its inputs. -/
opaque cryptOk : Nat → List (List Byte) → Bool

/-- Length of an attestation certificate chain, by kind (0 ECDSA, 1 ML-DSA) and realm (255 the device). -/
opaque chainLen : Nat → Nat → Nat

/-- The CRC-32 of a journal record (R580: the manual names it and gives no polynomial). -/
opaque crc32 : List Byte → Nat

/-- OTP root key hashes 0 to 3 (R573), per unit. -/
opaque rootHash : Nat → List Byte

/-- External flash as the factory left it: its size in bytes and its content (R576, R577). -/
opaque flashSize : Nat
opaque flashByte : Nat → Byte

/-- The VDD_CORE setpoint in millivolts that the per-unit fuse table gives for a temperature in sixteenths of a degree (R620). -/
opaque avsTable : Int → Nat

/-- Frequencies in MHz as CLK shows them: of clock domain c and of PLL k (R532). -/
opaque clockMhz : Nat → Nat
opaque pllMhz : Nat → Nat

/-- Where the MSI-X capability stands in configuration space, as a word number (R593: the PCIe specification leaves it to the
endpoint). -/
opaque msixCap : Nat

/-- The words of a function's configuration space that no rule of the manual gives, by function and word number. -/
opaque confWord : Nat → Nat → Nat

end Sys2Proof.Config
end

