-- ==== Sys2Proof/Machine/Bits.lean ====
section
/-! DEFINITION. Bit fields (R6), signed readings, little-endian byte order (R6), and the sparse maps that hold registers,
memory and tables: a list of keys with values, keys strictly rising, no entry equal to what an unlisted key reads as. -/

namespace Sys2Proof.Machine

/-- Bits [hi:lo] of a natural number. -/
def bitsOf (w hi lo : Nat) : Nat := w / 2 ^ lo % 2 ^ (hi - lo + 1)

/-- Bit n of a natural number. -/
def bitOf (w n : Nat) : Bool := w / 2 ^ n % 2 == 1

/-- A number with bits [hi:lo] replaced. -/
def putBits (w hi lo v : Nat) : Nat :=
  w - bitsOf w hi lo * 2 ^ lo + v % 2 ^ (hi - lo + 1) * 2 ^ lo

/-- A Boolean as a bit. -/
def b2n (b : Bool) : Nat := if b then 1 else 0

/-- The two's complement reading of the low n bits. -/
def signed (n w : Nat) : Int :=
  if w % 2 ^ n < 2 ^ (n - 1) then (w % 2 ^ n : Int) else (w % 2 ^ n : Int) - 2 ^ n

/-- The low n bits of an integer in two's complement. -/
def unsigned (n : Nat) (i : Int) : Nat := (i % (2 ^ n : Int)).toNat

/-- Bits [hi:lo] of a 32-bit word. -/
def wfld (w : W32) (hi lo : Nat) : Nat := bitsOf w.toNat hi lo

/-- Bit n of a 32-bit word. -/
def wbit (w : W32) (n : Nat) : Bool := bitOf w.toNat n

/-- A 32-bit word with bits [hi:lo] replaced. -/
def wsetFld (w : W32) (hi lo v : Nat) : W32 := BitVec.ofNat 32 (putBits w.toNat hi lo v)

/-- A number as a 32-bit word. -/
def w32 (n : Nat) : W32 := BitVec.ofNat 32 n

/-- A 64-bit number from its low and high words. -/
def cat64 (lo hi : W32) : Nat := lo.toNat + 2 ^ 32 * hi.toNat

/-- The little-endian number a byte list spells (R6). -/
def leNat : List Byte → Nat
  | [] => 0
  | b :: r => b.toNat + 256 * leNat r

/-- The n little-endian bytes of a number. -/
def leBytes : Nat → Nat → List Byte
  | 0, _ => []
  | n + 1, v => BitVec.ofNat 8 v :: leBytes n (v / 256)

/-- Value of a sparse map at a key; an unlisted key reads d. -/
def sget {α : Type} : List (Nat × α) → Nat → α → α
  | [], _, d => d
  | (k', v) :: r, k, d => if k' = k then v else sget r k d

/-- The map without a key. -/
def sdel {α : Type} : List (Nat × α) → Nat → List (Nat × α)
  | [], _ => []
  | (k', v) :: r, k => if k' = k then sdel r k else (k', v) :: sdel r k

/-- The map with an entry put before the first greater key. -/
def sins {α : Type} : List (Nat × α) → Nat → α → List (Nat × α)
  | [], k, v => [(k, v)]
  | (k', v') :: r, k, v => if k < k' then (k, v) :: (k', v') :: r else (k', v') :: sins r k v

/-- The map with a key's value set; a value equal to d, what the key reads as unlisted, is not listed. -/
def sput {α : Type} [DecidableEq α] (m : List (Nat × α)) (k : Nat) (v d : α) : List (Nat × α) :=
  if v = d then sdel m k else sins (sdel m k) k v

/-- Canonical form of a sparse map: keys strictly rising, no entry equal to its unlisted value. -/
def swf {α : Type} [DecidableEq α] (d : Nat → α) : List (Nat × α) → Bool
  | [] => true
  | [(k, v)] => v ≠ d k
  | (k, v) :: (k', v') :: r => v ≠ d k && k < k' && swf d ((k', v') :: r)

/-- Put a key into a sorted set. -/
def setIns : List Nat → Nat → List Nat
  | [], k => [k]
  | k' :: r, k => if k < k' then k :: k' :: r else if k = k' then k' :: r else k' :: setIns r k

end Sys2Proof.Machine
end

