-- ==== Sys2Proof/Machine/RegMap.lean ====
section
/-! DEFINITION. The register map: every register of every CSR block of R18, as the summary and field tables of the
chapters of spec/ give it (offset, index ranges, reset value, and which bits have which access code of R10). -/

namespace Sys2Proof.Machine

/-- One row of a block's register table: offset, up to two index ranges (first offset stride, how many), the reset
value, and the bits under each access code of R10. A bit under no code reads its value and ignores writes (RO). -/
structure RegRow where
  name : String
  off : Nat
  s1 : Nat := 1
  n1 : Nat := 1
  s2 : Nat := 1
  n2 : Nat := 1
  s3 : Nat := 1
  n3 : Nat := 1
  rst : Nat := 0
  rw : Nat := 0
  w1c : Nat := 0
  w1s : Nat := 0
  wo : Nat := 0
  rc : Nat := 0
  rwl : Nat := 0
deriving DecidableEq, Repr

namespace RegTab

/-- Registers of VLM. -/
def tVLM : List RegRow := [
  { name := "ID", off := 0x0, rst := 0x96480100 },
  { name := "LOAD_STATUS", off := 0x4, rst := 0xD },
  { name := "ACTIVE_SERIAL", off := 0x8 },
  { name := "APPLY_SEQ", off := 0xC },
  { name := "REALM_STATE", off := 0x40, s1 := 4, n1 := 16 },
  { name := "REALM_SERIAL", off := 0x80, s1 := 4, n1 := 16 },
  { name := "LOCK", off := 0x4000, s1 := 4, n1 := 4096 }]

/-- Registers of CMD. -/
def tCMD : List RegRow := [
  { name := "RING_BASE_LO", off := 0x0, rwl := 0xFFFFFFC0 },
  { name := "RING_BASE_HI", off := 0x4, rwl := 0xFFFFFFFF },
  { name := "RING_CFG", off := 0x8, rst := 0x30100, rwl := 0x801FFF03 },
  { name := "RING_TAIL", off := 0xC, rw := 0xFFFFFFFF },
  { name := "RING_HEAD", off := 0x10 },
  { name := "RING_HEADWB_LO", off := 0x14, rwl := 0xFFFFFFFD },
  { name := "RING_HEADWB_HI", off := 0x18, rwl := 0xFFFFFFFF },
  { name := "RING_STAT", off := 0x1C, w1c := 0x3F },
  { name := "REJ_CNT", off := 0x20, rc := 0xFFFFFFFF },
  { name := "INFO", off := 0x24 },
  { name := "EVSRC", off := 0x28, w1c := 0x3 },
  { name := "RSLT_W0", off := 0x1000, s1 := 64, n1 := 64, rst := 0xD },
  { name := "RSLT_W1", off := 0x1004, s1 := 64, n1 := 64 },
  { name := "RSLT_W2", off := 0x1008, s1 := 64, n1 := 64 },
  { name := "RSLT_W3", off := 0x100C, s1 := 64, n1 := 64 },
  { name := "RSLT_W4", off := 0x1010, s1 := 64, n1 := 64 },
  { name := "RSLT_W5", off := 0x1014, s1 := 64, n1 := 64 },
  { name := "RSLT_W6", off := 0x1018, s1 := 64, n1 := 64 },
  { name := "RSLT_W7", off := 0x101C, s1 := 64, n1 := 64 },
  { name := "RSLT_W8", off := 0x1020, s1 := 64, n1 := 64 },
  { name := "RSLT_W9", off := 0x1024, s1 := 64, n1 := 64 },
  { name := "RSLT_W10", off := 0x1028, s1 := 64, n1 := 64 },
  { name := "RSLT_W11", off := 0x102C, s1 := 64, n1 := 64 },
  { name := "RSLT_W12", off := 0x1030, s1 := 64, n1 := 64 },
  { name := "RSLT_W13", off := 0x1034, s1 := 64, n1 := 64 },
  { name := "RSLT_W14", off := 0x1038, s1 := 64, n1 := 64 },
  { name := "RSLT_W15", off := 0x103C, s1 := 64, n1 := 64 }]

/-- Registers of TMB. -/
def tTMB : List RegRow := [
  { name := "NOW_NS", off := 0x0 },
  { name := "NOW_SEC_LO", off := 0x4 },
  { name := "NOW_SEC_HI", off := 0x8 },
  { name := "NOW_TS32", off := 0xC },
  { name := "FREQ_ADJ_LO", off := 0x10, rwl := 0xFFFFFFFF },
  { name := "FREQ_ADJ_HI", off := 0x14, rwl := 0xFFFFFFFF },
  { name := "STEP_SEC", off := 0x18, rwl := 0xFFFFFFFF },
  { name := "STEP_NS", off := 0x1C, rwl := 0xFFFFFFFF },
  { name := "STEP_CTL", off := 0x20, rwl := 0x8000FFFF },
  { name := "STATE", off := 0x24, rwl := 0x3 },
  { name := "STATUS", off := 0x28, w1c := 0xF }]

/-- Registers of RUL. -/
def tRUL : List RegRow := [
  { name := "CAP_CFG", off := 0x0, s1 := 16, n1 := 8, rw := 0x80000307, w1c := 0x40000000 },
  { name := "CAP_NS", off := 0x4, s1 := 16, n1 := 8 },
  { name := "CAP_SEC_LO", off := 0x8, s1 := 16, n1 := 8 },
  { name := "CAP_SEC_HI", off := 0xC, s1 := 16, n1 := 8 },
  { name := "TOUT_CFG", off := 0x80, s1 := 4, n1 := 8, rwl := 0xFFFFFFFF },
  { name := "SYNCE_CFG", off := 0xC0, s1 := 8, n1 := 2, rwl := 0x80001F07 },
  { name := "SYNCE_STAT", off := 0xC4, s1 := 8, n1 := 2, w1c := 0x3 },
  { name := "GRID_CFG", off := 0x1000, s1 := 32, n1 := 256 },
  { name := "GRID_OFFSET", off := 0x1004, s1 := 32, n1 := 256 },
  { name := "GRID_OFFSET_FRAC", off := 0x1008, s1 := 32, n1 := 256 },
  { name := "GRID_SH_OFFSET", off := 0x100C, s1 := 32, n1 := 256, rwl := 0xFFFFFFFF },
  { name := "GRID_SH_CTL", off := 0x1010, s1 := 32, n1 := 256, rwl := 0x8000FFFF, w1c := 0x40000000 },
  { name := "GRID_HANDOVER_SEQ", off := 0x1014, s1 := 32, n1 := 256 },
  { name := "GRID_POS", off := 0x1018, s1 := 32, n1 := 256 },
  { name := "GRID_HFN", off := 0x101C, s1 := 32, n1 := 256 }]

/-- Registers of TRG. -/
def tTRG : List RegRow := [
  { name := "SNAP_GEN", off := 0x0 },
  { name := "SNAP_TIME", off := 0x4 },
  { name := "SNAP_STAT", off := 0x8, rc := 0xFFFF0000 },
  { name := "CH_SH_CFG", off := 0x1000, s1 := 64, n1 := 512, rwl := 0xFFFFFFBF },
  { name := "CH_SH_WHEN0", off := 0x1004, s1 := 64, n1 := 512, rwl := 0xFFFFFFFF },
  { name := "CH_SH_WHEN1", off := 0x1008, s1 := 64, n1 := 512, rwl := 0xFFFFFFFF },
  { name := "CH_SH_WHEN2", off := 0x100C, s1 := 64, n1 := 512, rwl := 0xFFFFFFFF },
  { name := "CH_SH_PERIOD", off := 0x1010, s1 := 64, n1 := 512, rwl := 0xFFFFFFFF },
  { name := "CH_SH_TARGET", off := 0x1014, s1 := 64, n1 := 512, rwl := 0xFFFFFFFF },
  { name := "CH_CFG", off := 0x1018, s1 := 64, n1 := 512 },
  { name := "CH_WHEN0", off := 0x101C, s1 := 64, n1 := 512 },
  { name := "CH_WHEN1", off := 0x1020, s1 := 64, n1 := 512 },
  { name := "CH_WHEN2", off := 0x1024, s1 := 64, n1 := 512 },
  { name := "CH_PERIOD", off := 0x1028, s1 := 64, n1 := 512 },
  { name := "CH_TARGET", off := 0x102C, s1 := 64, n1 := 512 },
  { name := "CH_CTL", off := 0x1030, s1 := 64, n1 := 512, rwl := 0xC0000000 },
  { name := "CH_COUNTS", off := 0x1034, s1 := 64, n1 := 512, rc := 0xFFFF },
  { name := "CH_STAT", off := 0x1038, s1 := 64, n1 := 512, w1c := 0x3 },
  { name := "CH_LAST_FIRE", off := 0x103C, s1 := 64, n1 := 512 }]

/-- Registers of ORD. -/
def tORD : List RegRow := [
  { name := "STATUS", off := 0x0 },
  { name := "TRACE_CFG", off := 0x4, rwl := 0x80001FFF },
  { name := "TRACE_DROP", off := 0x8, rc := 0xFFFFFFFF },
  { name := "REPLACE_STAT", off := 0xC },
  { name := "SNAP_GEN", off := 0x10 },
  { name := "RLM_CQ_BASE_LO", off := 0x1000, s1 := 64, n1 := 16 },
  { name := "RLM_CQ_BASE_HI", off := 0x1004, s1 := 64, n1 := 16 },
  { name := "RLM_CQ_CFG", off := 0x1008, s1 := 64, n1 := 16 },
  { name := "RLM_CQ_PROD", off := 0x100C, s1 := 64, n1 := 16 },
  { name := "RLM_CQ_CONS", off := 0x1010, s1 := 64, n1 := 16, rw := 0xFFFF },
  { name := "RLM_CNT_DONE", off := 0x1014, s1 := 64, n1 := 16 },
  { name := "RLM_CNT_LATE", off := 0x1018, s1 := 64, n1 := 16 },
  { name := "RLM_CNT_REFUSED", off := 0x101C, s1 := 64, n1 := 16 },
  { name := "RLM_SH_DONE", off := 0x1020, s1 := 64, n1 := 16 },
  { name := "RLM_SH_LATE", off := 0x1024, s1 := 64, n1 := 16 },
  { name := "RLM_SH_REFUSED", off := 0x1028, s1 := 64, n1 := 16 },
  { name := "RLM_HARQ_CFG", off := 0x102C, s1 := 64, n1 := 16, rst := 0x10 }]

/-- Registers of DUC. -/
def tDUC : List RegRow := [
  { name := "CFG", off := 0x0, rwl := 0x71F },
  { name := "STATUS", off := 0x4, rst := 0x2000000, w1c := 0x70000000 },
  { name := "TRACE_CFG", off := 0x8, rwl := 0x80000FFF },
  { name := "TRACE_DROP", off := 0xC, rc := 0xFFFFFFFF },
  { name := "JRNL_BASE_LO", off := 0x10, rwl := 0xFFFFF000 },
  { name := "JRNL_BASE_HI", off := 0x14, rwl := 0xFFFF },
  { name := "CTX_BASE", off := 0x18, rwl := 0xFFF000 },
  { name := "TICK_CFG", off := 0x40, s1 := 8, n1 := 4, rwl := 0xBFF703FF },
  { name := "TICK_COUNT", off := 0x44, s1 := 8, n1 := 4 },
  { name := "PORT_SVC_LO", off := 0x100, s1 := 32, n1 := 16, wo := 0xFFFFFFFF },
  { name := "PORT_SVC_HI", off := 0x104, s1 := 32, n1 := 16, wo := 0xFFFFFFFF },
  { name := "PORT_XARG_LO", off := 0x108, s1 := 32, n1 := 16, rw := 0xFFFFFFFF },
  { name := "PORT_XARG_HI", off := 0x10C, s1 := 32, n1 := 16, rw := 0xFFFFFFFF },
  { name := "PORT_RES_LO", off := 0x110, s1 := 32, n1 := 16 },
  { name := "PORT_RES_HI", off := 0x114, s1 := 32, n1 := 16 },
  { name := "PORT_NEXT", off := 0x118, s1 := 32, n1 := 16 },
  { name := "PORT_TMO", off := 0x11C, s1 := 32, n1 := 16, rst := 0xFFFFFFFF, rw := 0xFFFFFFFF },
  { name := "SEM_STATE", off := 0x400, s1 := 8, n1 := 256 },
  { name := "SEM_MAX", off := 0x404, s1 := 8, n1 := 256 },
  { name := "FLAG_VALUE", off := 0xC00, s1 := 8, n1 := 256 },
  { name := "FLAG_OWNER", off := 0xC04, s1 := 8, n1 := 256 },
  { name := "TCB_W", off := 0x8000, s1 := 64, n1 := 512, s2 := 4, n2 := 16, rwl := 0xFFFFFFFF }]

/-- Registers of NIB. -/
def tNIB : List RegRow := [
  { name := "ID", off := 0x0 },
  { name := "STATUS", off := 0x4, w1c := 0x400000 },
  { name := "CTL", off := 0x8, rwl := 0xF0000000 },
  { name := "PC_LO", off := 0x10 },
  { name := "PC_HI", off := 0x14 },
  { name := "RESET_PC_LO", off := 0x18, rwl := 0xFFFFFFFC },
  { name := "RESET_PC_HI", off := 0x1C, rwl := 0xFFFFFFFF },
  { name := "DBG_SEL", off := 0x20, rwl := 0xFFFF },
  { name := "DBG_DATA_LO", off := 0x24, rwl := 0xFFFFFFFF },
  { name := "DBG_DATA_HI", off := 0x28, rwl := 0xFFFFFFFF },
  { name := "DOORBELL", off := 0x30, wo := 0xFFFFFFFF },
  { name := "BP_ADDR_LO", off := 0x40, s1 := 16, n1 := 4, rwl := 0xFFFFFFFC },
  { name := "BP_ADDR_HI", off := 0x44, s1 := 16, n1 := 4, rwl := 0xFFFFFFFF },
  { name := "BP_CTL", off := 0x48, s1 := 16, n1 := 4, rwl := 0xFC00003F },
  { name := "WP_ADDR_LO", off := 0x80, s1 := 16, n1 := 4, rwl := 0xFFFFFFFF },
  { name := "WP_ADDR_HI", off := 0x84, s1 := 16, n1 := 4, rwl := 0xFFFFFFFF },
  { name := "WP_CTL", off := 0x88, s1 := 16, n1 := 4, rwl := 0xFC00003F },
  { name := "CYCLE_LO", off := 0x100 },
  { name := "CYCLE_HI", off := 0x104 },
  { name := "BUNDLES_LO", off := 0x108 },
  { name := "BUNDLES_HI", off := 0x10C },
  { name := "FREEZE_CYC", off := 0x110 },
  { name := "ECC_STAT", off := 0x114, rc := 0xFFFFFFFF },
  { name := "SH_CYCLE_LO", off := 0x120 },
  { name := "SH_CYCLE_HI", off := 0x124 },
  { name := "SH_BUNDLES_LO", off := 0x128 },
  { name := "SH_BUNDLES_HI", off := 0x12C },
  { name := "SH_FREEZE", off := 0x130 },
  { name := "SNAP_GEN", off := 0x134 }]

/-- Registers of FER. -/
def tFER : List RegRow := [
  { name := "ID", off := 0x0 },
  { name := "STATUS", off := 0x4 },
  { name := "LOCK", off := 0x8 },
  { name := "CTL", off := 0xC, rwl := 0x80000000 },
  { name := "ERR_INFO", off := 0x10 },
  { name := "ERR_ADDR_LO", off := 0x14 },
  { name := "ERR_ADDR_HI", off := 0x18 },
  { name := "ECC_STAT", off := 0x1C, rc := 0xFFFF },
  { name := "CMDS", off := 0x20 },
  { name := "BUSY", off := 0x24 },
  { name := "INK_STALL", off := 0x28 },
  { name := "LAZY", off := 0x2C },
  { name := "SH_CMDS", off := 0x30 },
  { name := "SH_BUSY", off := 0x34 },
  { name := "SH_INK_STALL", off := 0x38 },
  { name := "SH_LAZY", off := 0x3C },
  { name := "SNAP_GEN", off := 0x40 }]

/-- Registers of POOL. -/
def tPOOL : List RegRow := [
  { name := "ID", off := 0x0 },
  { name := "STATUS", off := 0x4 },
  { name := "CTL", off := 0x8, rwl := 0x80000000 },
  { name := "ERR_INFO", off := 0xC, rc := 0xF0FFFF },
  { name := "PCFG", off := 0x10, rwl := 0xF },
  { name := "ECC_STAT", off := 0x14, rc := 0xFFFF },
  { name := "RING_PEND", off := 0x18, w1c := 0xFFFF },
  { name := "JOBS", off := 0x20 },
  { name := "WORK", off := 0x24 },
  { name := "STALL", off := 0x28 },
  { name := "SH_JOBS", off := 0x30 },
  { name := "SH_WORK", off := 0x34 },
  { name := "SH_STALL", off := 0x38 },
  { name := "SNAP_GEN", off := 0x40 },
  { name := "RING_BASE_LO", off := 0x1000, s1 := 64, n1 := 16, rwl := 0xFFFFFFC0 },
  { name := "RING_BASE_HI", off := 0x1004, s1 := 64, n1 := 16, rwl := 0xFFFFFFFF },
  { name := "RING_CFG", off := 0x1008, s1 := 64, n1 := 16, rst := 0x30100, rwl := 0x801FFF03 },
  { name := "RING_TAIL", off := 0x100C, s1 := 64, n1 := 16, rw := 0xFFFFFFFF },
  { name := "RING_HEAD", off := 0x1010, s1 := 64, n1 := 16 },
  { name := "RING_HEADWB_LO", off := 0x1014, s1 := 64, n1 := 16, rwl := 0xFFFFFFFD },
  { name := "RING_HEADWB_HI", off := 0x1018, s1 := 64, n1 := 16, rwl := 0xFFFFFFFF },
  { name := "RING_STAT", off := 0x101C, s1 := 64, n1 := 16, w1c := 0x3F },
  { name := "RING_NOTIFY_CTL", off := 0x1020, s1 := 64, n1 := 16, rwl := 0x80000000 },
  { name := "RING_NOTIFY_TGT", off := 0x1024, s1 := 64, n1 := 16, rwl := 0x8007FF1F },
  { name := "RING_CREDIT", off := 0x1028, s1 := 64, n1 := 16 },
  { name := "RING_RJOBS", off := 0x102C, s1 := 64, n1 := 16 }]

/-- Registers of HDY. -/
def tHDY : List RegRow := [
  { name := "ID", off := 0x0, rst := 0x1000000 },
  { name := "STATUS", off := 0x4, rst := 0x2000, w1c := 0x60000000 },
  { name := "IDX", off := 0x8, rw := 0x8001FFFF },
  { name := "ACC", off := 0xC, rwl := 0xC0000000 },
  { name := "DATA", off := 0x10, s1 := 4, n1 := 8, rwl := 0xFFFFFFFF },
  { name := "ECC_STAT", off := 0x30, rc := 0xFFFFFFFF },
  { name := "LOOKUPS", off := 0x34 },
  { name := "SH_LOOKUPS", off := 0x38 },
  { name := "SNAP_GEN", off := 0x3C },
  { name := "RLM_RECORDS", off := 0x100, s1 := 16, n1 := 16 },
  { name := "RLM_ENTRIES", off := 0x104, s1 := 16, n1 := 16 },
  { name := "RLM_HBM64", off := 0x108, s1 := 16, n1 := 16 },
  { name := "RLM_DDR64", off := 0x10C, s1 := 16, n1 := 16 }]

/-- Registers of RAE, part 1. -/
def tRAE0 : List RegRow := [
  { name := "ID", off := 0x0 },
  { name := "STATUS", off := 0x4 },
  { name := "CTL", off := 0x8, rwl := 0x80000000 },
  { name := "ERR_INFO", off := 0xC, rc := 0xF0FFFF },
  { name := "ECC_STAT", off := 0x14, rc := 0xFFFF },
  { name := "RING_PEND", off := 0x18, w1c := 0xFFFF },
  { name := "OCCS", off := 0x20 },
  { name := "DETS", off := 0x24 },
  { name := "CRCFAIL", off := 0x28 },
  { name := "PREEMPTS", off := 0x2C },
  { name := "CTXFULL", off := 0x30 },
  { name := "WORK", off := 0x34 },
  { name := "SH_OCCS", off := 0x40 },
  { name := "SH_DETS", off := 0x44 },
  { name := "SH_CRCFAIL", off := 0x48 },
  { name := "SH_PREEMPTS", off := 0x4C },
  { name := "SH_CTXFULL", off := 0x50 },
  { name := "SH_WORK", off := 0x54 },
  { name := "SNAP_GEN", off := 0x58 },
  { name := "RING_BASE_LO", off := 0x1000, s1 := 64, n1 := 16, rwl := 0xFFFFFFC0 },
  { name := "RING_BASE_HI", off := 0x1004, s1 := 64, n1 := 16, rwl := 0xFFFFFFFF },
  { name := "RING_CFG", off := 0x1008, s1 := 64, n1 := 16, rst := 0x30100, rwl := 0x801FFF03 },
  { name := "RING_TAIL", off := 0x100C, s1 := 64, n1 := 16, rw := 0xFFFFFFFF },
  { name := "RING_HEAD", off := 0x1010, s1 := 64, n1 := 16 },
  { name := "RING_HEADWB_LO", off := 0x1014, s1 := 64, n1 := 16, rwl := 0xFFFFFFFD },
  { name := "RING_HEADWB_HI", off := 0x1018, s1 := 64, n1 := 16, rwl := 0xFFFFFFFF },
  { name := "RING_STAT", off := 0x101C, s1 := 64, n1 := 16, w1c := 0x3F },
  { name := "RING_NOTIFY_CTL", off := 0x1020, s1 := 64, n1 := 16, rwl := 0x80000000 },
  { name := "RING_NOTIFY_TGT", off := 0x1024, s1 := 64, n1 := 16, rwl := 0x8007FF1F },
  { name := "RING_CREDIT", off := 0x1028, s1 := 64, n1 := 16 },
  { name := "RING_RJOBS", off := 0x102C, s1 := 64, n1 := 16 },
  { name := "RQ_BASE_LO", off := 0x2000, s1 := 64, n1 := 16 },
  { name := "RQ_BASE_HI", off := 0x2004, s1 := 64, n1 := 16 },
  { name := "RQ_CFG", off := 0x2008, s1 := 64, n1 := 16 },
  { name := "RQ_PROD", off := 0x200C, s1 := 64, n1 := 16 },
  { name := "RQ_CONS", off := 0x2010, s1 := 64, n1 := 16, rw := 0xFFFF },
  { name := "RQ_PAY_LO", off := 0x2014, s1 := 64, n1 := 16 },
  { name := "RQ_PAY_HI", off := 0x2018, s1 := 64, n1 := 16 },
  { name := "RQ_DROP", off := 0x201C, s1 := 64, n1 := 16, rc := 0xFFFFFFFF },
  { name := "RQ_LAST_THR", off := 0x2020, s1 := 64, n1 := 16 }]

/-- Registers of RAE, part 2. -/
def tRAE1 : List RegRow := [
  { name := "CTX_STATE", off := 0x3000, s1 := 8, n1 := 32 },
  { name := "CTX_CFO", off := 0x3004, s1 := 8, n1 := 32 },
  { name := "THR_SET_W", off := 0x4000, s1 := 512, n1 := 16, s2 := 128, n2 := 4, s3 := 4, n3 := 32, rst := 0x780078, rwl := 0xFFFFFFFF }]

/-- Registers of RAE. -/
def tRAE : List RegRow := tRAE0 ++ tRAE1

/-- Registers of MEMC. -/
def tMEMC : List RegRow := [
  { name := "ID", off := 0x0 },
  { name := "STATUS", off := 0x4, w1c := 0x40000000 },
  { name := "ECC_CORR", off := 0x8, rc := 0xFFFFFFFF },
  { name := "ECC_UC", off := 0xC, rc := 0xFFFFFFFF },
  { name := "ERR_ADDR_LO", off := 0x10 },
  { name := "ERR_ADDR_HI", off := 0x14 },
  { name := "SCRUB_CFG", off := 0x18, rwl := 0xC00FFFFF },
  { name := "THRESH", off := 0x1C, rst := 0x4000010, rwl := 0xFFFF00FF },
  { name := "RD64", off := 0x20 },
  { name := "WR64", off := 0x24 },
  { name := "MSC_CTL", off := 0x28, rst := 0x1FF, rwl := 0x1FF },
  { name := "MSC_HIT", off := 0x2C },
  { name := "MSC_MISS", off := 0x30 },
  { name := "SPARE_LOG", off := 0x34, rc := 0xBFFFFFFF },
  { name := "CAPACITY", off := 0x38 },
  { name := "SH_RD64", off := 0x40 },
  { name := "SH_WR64", off := 0x44 },
  { name := "SH_MSC_HIT", off := 0x48 },
  { name := "SH_MSC_MISS", off := 0x4C },
  { name := "SNAP_GEN", off := 0x50 }]

/-- Registers of NOC. -/
def tNOC : List RegRow := [
  { name := "ID", off := 0x0 },
  { name := "STATUS", off := 0x4, w1c := 0x40000000 },
  { name := "LINK_STAT", off := 0x14, s1 := 4, n1 := 5, w1c := 0x1 },
  { name := "LINK_CRC_CNT", off := 0x34, s1 := 4, n1 := 5, rc := 0xFFFFFFFF },
  { name := "TEST_CNT_LO", off := 0x50 },
  { name := "TEST_CNT_HI", off := 0x54 },
  { name := "TEST_ERR", off := 0x58 }]

/-- Registers of NOCG. -/
def tNOCG : List RegRow := [
  { name := "ID", off := 0x0, rst := 0x1000000 },
  { name := "CFG", off := 0x4, rst := 0x640008, rwl := 0xFFFFFFFF },
  { name := "EPOCH_CTL", off := 0x8, rwl := 0x80000000, w1c := 0x100 },
  { name := "DRAIN0", off := 0xC },
  { name := "DRAIN1", off := 0x10 },
  { name := "RT_IDX", off := 0x14, rwl := 0x13F1F3F },
  { name := "RT_DATA", off := 0x18, rwl := 0xFF },
  { name := "RT_ACC", off := 0x1C, rwl := 0xE0000000 },
  { name := "FENCE_LO", off := 0x20 },
  { name := "FENCE_HI", off := 0x24 },
  { name := "SNAP_GEN", off := 0x30 },
  { name := "INIT_RD64", off := 0x1000, s1 := 32, n1 := 240 },
  { name := "INIT_WR64", off := 0x1004, s1 := 32, n1 := 240 },
  { name := "INIT_REQS", off := 0x1008, s1 := 32, n1 := 240 },
  { name := "INIT_LAT_SUM", off := 0x100C, s1 := 32, n1 := 240 },
  { name := "INIT_LAT_MAX", off := 0x1010, s1 := 32, n1 := 240, rc := 0xFFFFFFFF },
  { name := "INIT_SH_RD64", off := 0x3000, s1 := 32, n1 := 240 },
  { name := "INIT_SH_WR64", off := 0x3004, s1 := 32, n1 := 240 },
  { name := "INIT_SH_REQS", off := 0x3008, s1 := 32, n1 := 240 },
  { name := "INIT_SH_LAT_SUM", off := 0x300C, s1 := 32, n1 := 240 },
  { name := "INIT_SH_LAT_MAX", off := 0x3010, s1 := 32, n1 := 240 }]

/-- Registers of SCB. -/
def tSCB : List RegRow := [
  { name := "ID", off := 0x0 },
  { name := "STATUS", off := 0x4, w1c := 0x60000000 },
  { name := "CH_PEND", off := 0x8, w1c := 0xFFFFFFFF },
  { name := "ERR_INFO", off := 0xC, rc := 0xF01FFF },
  { name := "BYTES", off := 0x10 },
  { name := "DESCS", off := 0x14 },
  { name := "SH_BYTES", off := 0x18 },
  { name := "SH_DESCS", off := 0x1C },
  { name := "SNAP_GEN", off := 0x20 },
  { name := "RLM_OWNED", off := 0x40, s1 := 4, n1 := 16, rw := 0xC0003FFF },
  { name := "CH_BASE_LO", off := 0x1000, s1 := 64, n1 := 32, rwl := 0xFFFFFFC0 },
  { name := "CH_BASE_HI", off := 0x1004, s1 := 64, n1 := 32, rwl := 0xFFFFFFFF },
  { name := "CH_CFG", off := 0x1008, s1 := 64, n1 := 32, rst := 0x30100, rwl := 0x801FFF03 },
  { name := "CH_TAIL", off := 0x100C, s1 := 64, n1 := 32, rw := 0xFFFFFFFF },
  { name := "CH_HEAD", off := 0x1010, s1 := 64, n1 := 32 },
  { name := "CH_HEADWB_LO", off := 0x1014, s1 := 64, n1 := 32, rwl := 0xFFFFFFFD },
  { name := "CH_HEADWB_HI", off := 0x1018, s1 := 64, n1 := 32, rwl := 0xFFFFFFFF },
  { name := "CH_STAT", off := 0x101C, s1 := 64, n1 := 32, w1c := 0x3F },
  { name := "CH_CTL", off := 0x1020, s1 := 64, n1 := 32, rwl := 0xC0000000 },
  { name := "CH_NOTIFY_TGT", off := 0x1024, s1 := 64, n1 := 32, rwl := 0x8007FF1F },
  { name := "CH_RATE", off := 0x1028, s1 := 64, n1 := 32, rst := 0x40100, rwl := 0xF01FF },
  { name := "CH_LAST", off := 0x102C, s1 := 64, n1 := 32 },
  { name := "CH_PROGRESS", off := 0x1030, s1 := 64, n1 := 32 },
  { name := "TPL_SH", off := 0x4000, s1 := 256, n1 := 8, s2 := 4, n2 := 16, rwl := 0xFFFFFFFF },
  { name := "TPL_ACT", off := 0x4040, s1 := 256, n1 := 8, s2 := 4, n2 := 16 },
  { name := "TPL_TCTL", off := 0x4080, s1 := 256, n1 := 8, rwl := 0xC000003F },
  { name := "TPL_TCOUNTS", off := 0x4084, s1 := 256, n1 := 8, rc := 0xFFFF },
  { name := "TPL_ROUNDS", off := 0x4088, s1 := 256, n1 := 8 }]

/-- Registers of ETH. -/
def tETH : List RegRow := [
  { name := "ID", off := 0x0 },
  { name := "CFG", off := 0x4, rst := 0x5F2, rwl := 0xFFC03FFF },
  { name := "STATUS", off := 0x8, w1c := 0x1000000 },
  { name := "ECPRI_UDP", off := 0xC, rwl := 0xFFFF },
  { name := "MAC_LO", off := 0x10, rwl := 0xFFFFFFFF },
  { name := "MAC_HI", off := 0x14, rwl := 0xFFFF },
  { name := "TS_TX_FACT", off := 0x18 },
  { name := "TS_RX_FACT", off := 0x1C },
  { name := "TS_TX_USER", off := 0x20, rwl := 0xFFFFFFFF },
  { name := "TS_RX_USER", off := 0x24, rwl := 0xFFFFFFFF },
  { name := "TS_TX_EFF", off := 0x28 },
  { name := "TS_RX_EFF", off := 0x2C },
  { name := "RX_FRAMES", off := 0x30 },
  { name := "RX_BAD", off := 0x34 },
  { name := "TX_FRAMES", off := 0x38 },
  { name := "FEC_CORR", off := 0x3C },
  { name := "FEC_UNCORR", off := 0x40 },
  { name := "LINK_DOWN", off := 0x44 },
  { name := "SH_RX_FRAMES", off := 0x50 },
  { name := "SH_RX_BAD", off := 0x54 },
  { name := "SH_TX_FRAMES", off := 0x58 },
  { name := "SH_FEC_CORR", off := 0x5C },
  { name := "SH_FEC_UNCORR", off := 0x60 },
  { name := "SH_LINK_DOWN", off := 0x64 },
  { name := "SNAP_GEN", off := 0x68 },
  { name := "MSEC_CFG", off := 0x80, rwl := 0xFDCFFFFF },
  { name := "MSEC_THRESH", off := 0x84, rst := 0xC0000000, rwl := 0xFFFFFFFF },
  { name := "IN_OK", off := 0x88 },
  { name := "IN_NOTVALID", off := 0x8C },
  { name := "IN_LATE", off := 0x90 },
  { name := "OUT_PROT", off := 0x94 },
  { name := "OUT_PN_EXH", off := 0x98 }]

/-- Registers of FHE. -/
def tFHE : List RegRow := [
  { name := "ID", off := 0x0 },
  { name := "STATUS", off := 0x4, w1c := 0xC0000000 },
  { name := "ERR_INFO", off := 0x8, rc := 0xFFFFFFFF },
  { name := "ST_IDX", off := 0x10, rw := 0x3FFF },
  { name := "ST_ACC", off := 0x14, rwl := 0xC0000000 },
  { name := "RX_PKTS", off := 0x18 },
  { name := "TX_PKTS", off := 0x1C },
  { name := "RX_UNMATCHED", off := 0x20, rc := 0xFFFFFFFF },
  { name := "RX_NOBUF", off := 0x24, rc := 0xFFFFFFFF },
  { name := "SH_RX_PKTS", off := 0x28 },
  { name := "SH_TX_PKTS", off := 0x2C },
  { name := "SNAP_GEN", off := 0x30 },
  { name := "ST_DATA", off := 0x40, s1 := 4, n1 := 16, rwl := 0xFFFFFFFF },
  { name := "TXR_BASE_LO", off := 0x1000, s1 := 128, n1 := 17, rwl := 0xFFFFFFC0 },
  { name := "TXR_BASE_HI", off := 0x1004, s1 := 128, n1 := 17, rwl := 0xFFFFFFFF },
  { name := "TXR_CFG", off := 0x1008, s1 := 128, n1 := 17, rst := 0x30100, rwl := 0x801FFF03 },
  { name := "TXR_TAIL", off := 0x100C, s1 := 128, n1 := 17, rw := 0xFFFFFFFF },
  { name := "TXR_HEAD", off := 0x1010, s1 := 128, n1 := 17 },
  { name := "TXR_HEADWB_LO", off := 0x1014, s1 := 128, n1 := 17, rwl := 0xFFFFFFFD },
  { name := "TXR_HEADWB_HI", off := 0x1018, s1 := 128, n1 := 17, rwl := 0xFFFFFFFF },
  { name := "TXR_STAT", off := 0x101C, s1 := 128, n1 := 17, w1c := 0x3F },
  { name := "RXR_BASE_LO", off := 0x1020, s1 := 128, n1 := 17, rwl := 0xFFFFFFC0 },
  { name := "RXR_BASE_HI", off := 0x1024, s1 := 128, n1 := 17, rwl := 0xFFFFFFFF },
  { name := "RXR_CFG", off := 0x1028, s1 := 128, n1 := 17, rst := 0x30100, rwl := 0x801FFF03 },
  { name := "RXR_TAIL", off := 0x102C, s1 := 128, n1 := 17, rw := 0xFFFFFFFF },
  { name := "RXR_HEAD", off := 0x1030, s1 := 128, n1 := 17 },
  { name := "RXR_HEADWB_LO", off := 0x1034, s1 := 128, n1 := 17, rwl := 0xFFFFFFFD },
  { name := "RXR_HEADWB_HI", off := 0x1038, s1 := 128, n1 := 17, rwl := 0xFFFFFFFF },
  { name := "RXR_STAT", off := 0x103C, s1 := 128, n1 := 17, w1c := 0x3F },
  { name := "RING_NOTIFY_CTL", off := 0x1040, s1 := 128, n1 := 17, rwl := 0xC0000000 },
  { name := "RING_NOTIFY_TGT", off := 0x1044, s1 := 128, n1 := 17, rwl := 0x8007FF1F },
  { name := "WG_CFG", off := 0x3000, s1 := 32, n1 := 64 },
  { name := "WG_OPEN_OFS", off := 0x3004, s1 := 32, n1 := 64 },
  { name := "WG_LEN", off := 0x3008, s1 := 32, n1 := 64 },
  { name := "WG_WAKE_TGT", off := 0x300C, s1 := 32, n1 := 64 },
  { name := "WG_STAT", off := 0x3010, s1 := 32, n1 := 64, rc := 0xFFFFFFFF }]

/-- Registers of JES. -/
def tJES : List RegRow := [
  { name := "ID", off := 0x0 },
  { name := "STATUS", off := 0x4, w1c := 0x80000000 },
  { name := "TX_CFG0", off := 0x10, s1 := 16, n1 := 2, rwl := 0xFFFFFF00 },
  { name := "TX_CFG1", off := 0x14, s1 := 16, n1 := 2, rwl := 0xFFC0001F },
  { name := "TX_STAT", off := 0x18, s1 := 16, n1 := 2 },
  { name := "TX_LAT", off := 0x1C, s1 := 16, n1 := 2 },
  { name := "RX_CFG0", off := 0x30, s1 := 16, n1 := 2, rwl := 0xFFFFFF00 },
  { name := "RX_CFG1", off := 0x34, s1 := 16, n1 := 2, rwl := 0xFFC0001F },
  { name := "RX_STAT", off := 0x38, s1 := 16, n1 := 2 },
  { name := "RX_LAT", off := 0x3C, s1 := 16, n1 := 2 },
  { name := "SYSREF_CFG", off := 0x50, rwl := 0x7 },
  { name := "SYSREF_STAT", off := 0x54, w1c := 0x40000000 },
  { name := "SYSREF_TS", off := 0x58 },
  { name := "START_TS", off := 0x5C },
  { name := "CRC_ERR", off := 0x60 },
  { name := "SH_CRC_ERR", off := 0x64 },
  { name := "SNAP_GEN", off := 0x68 }]

/-- Registers of DFE. -/
def tDFE : List RegRow := [
  { name := "ID", off := 0x0, rst := 0x1000000 },
  { name := "LOAD", off := 0x4 },
  { name := "PATH_CTL", off := 0x1000, s1 := 64, n1 := 64, rwl := 0x80000000 },
  { name := "PATH_HANDOVER_SEQ", off := 0x1004, s1 := 64, n1 := 64 },
  { name := "PATH_WR_IDX", off := 0x1008, s1 := 64, n1 := 64, rw := 0xFFFFFFFF },
  { name := "PATH_RD_IDX", off := 0x100C, s1 := 64, n1 := 64, rw := 0xFFFFFFFF },
  { name := "PATH_PROD", off := 0x1010, s1 := 64, n1 := 64 },
  { name := "PATH_UNDERRUN", off := 0x1014, s1 := 64, n1 := 64, rc := 0xFFFFFFFF },
  { name := "PATH_SAT", off := 0x1018, s1 := 64, n1 := 64, rc := 0xFFFFFFFF },
  { name := "PATH_SH_NCO_LO", off := 0x1020, s1 := 64, n1 := 64, rwl := 0xFFFFFFFF },
  { name := "PATH_SH_NCO_HI", off := 0x1024, s1 := 64, n1 := 64, rwl := 0xFFFFFFFF },
  { name := "PATH_SH_GAIN", off := 0x1028, s1 := 64, n1 := 64, rwl := 0xFFFF },
  { name := "STREAM_MASK_STAT", off := 0x3000, s1 := 16, n1 := 32, w1c := 0x800000FF },
  { name := "STREAM_PEAKS", off := 0x3004, s1 := 16, n1 := 32, rc := 0xFFFFFFFF },
  { name := "STREAM_SKIPPED", off := 0x3008, s1 := 16, n1 := 32, rc := 0xFFFFFFFF },
  { name := "STREAM_PEAK_LIM", off := 0x300C, s1 := 16, n1 := 32, rst := 0xFFFF, rwl := 0xFFFFFFFF },
  { name := "STREAM_SUMSAT", off := 0x3800, s1 := 4, n1 := 32, rc := 0xFFFFFFFF },
  { name := "PA_STAT", off := 0x4000, s1 := 16, n1 := 16 },
  { name := "PA_MUTES", off := 0x4004, s1 := 16, n1 := 16, rc := 0xFFFFFFFF },
  { name := "PA_OVERLAP", off := 0x4008, s1 := 16, n1 := 16, rc := 0xFFFFFFFF }]

/-- Registers of YLK. -/
def tYLK : List RegRow := [
  { name := "ID", off := 0x0 },
  { name := "CFG", off := 0x4, rwl := 0xC0000000 },
  { name := "STATUS", off := 0x8, w1c := 0x10000000 },
  { name := "PEER_UNIT_LO", off := 0xC },
  { name := "PEER_UNIT_HI", off := 0x10 },
  { name := "DELAY", off := 0x14 },
  { name := "CAL_ASYM", off := 0x18, rwl := 0xFFFFFFFF },
  { name := "SEQ", off := 0x1C },
  { name := "OFFSET_LO", off := 0x20, s1 := 8, n1 := 8 },
  { name := "OFFSET_HI", off := 0x24, s1 := 8, n1 := 8 },
  { name := "CRC_ERR", off := 0x60 },
  { name := "RETRIES", off := 0x64 },
  { name := "SH_CRC_ERR", off := 0x68 },
  { name := "SH_RETRIES", off := 0x6C },
  { name := "SNAP_GEN", off := 0x70 },
  { name := "FAB_STATUS", off := 0x100 },
  { name := "FAB_CFG", off := 0x104, rst := 0x32, rwl := 0xFFFF },
  { name := "FABRIC_ID", off := 0x108 },
  { name := "PEER_W0", off := 0x1000, s1 := 8, n1 := 64 },
  { name := "PEER_W1", off := 0x1004, s1 := 8, n1 := 64 }]

/-- Registers of PWM. -/
def tPWM : List RegRow := [
  { name := "ID", off := 0x0, rst := 0x1000000 },
  { name := "CFG", off := 0x4, rw := 0x7 },
  { name := "CHG_LO", off := 0x8, w1c := 0xFFFFFFFF },
  { name := "CHG_HI", off := 0xC, w1c := 0xFFFFFFFF },
  { name := "LOST_LO", off := 0x10, w1c := 0xFFFFFFFF },
  { name := "LOST_HI", off := 0x14, w1c := 0xFFFFFFFF },
  { name := "FORCED_LO", off := 0x18 },
  { name := "FORCED_HI", off := 0x1C },
  { name := "SNAP_GEN", off := 0x20 },
  { name := "D_STATE", off := 0x1000, s1 := 64, n1 := 64 },
  { name := "D_VOTES", off := 0x1004, s1 := 64, n1 := 64 },
  { name := "D_TOL", off := 0x1008, s1 := 64, n1 := 64, rst := 0xFFFFFFFF },
  { name := "D_POLICY", off := 0x100C, s1 := 64, n1 := 64, rst := 0x640001 },
  { name := "D_WAKE0", off := 0x1010, s1 := 64, n1 := 64 },
  { name := "D_WAKE1", off := 0x1014, s1 := 64, n1 := 64 },
  { name := "D_WAKE2", off := 0x1018, s1 := 64, n1 := 64 },
  { name := "D_WAKE3", off := 0x101C, s1 := 64, n1 := 64 },
  { name := "D_ENTRIES", off := 0x1020, s1 := 64, n1 := 64 },
  { name := "D_ABANDONED", off := 0x1024, s1 := 64, n1 := 64 },
  { name := "D_D0_US", off := 0x1028, s1 := 64, n1 := 64 },
  { name := "D_SH_ENTRIES", off := 0x102C, s1 := 64, n1 := 64 },
  { name := "D_SH_ABANDONED", off := 0x1030, s1 := 64, n1 := 64 },
  { name := "D_SH_D0_US", off := 0x1034, s1 := 64, n1 := 64 },
  { name := "WIN_MASK_LO", off := 0x2000, s1 := 16, n1 := 32 },
  { name := "WIN_MASK_HI", off := 0x2004, s1 := 16, n1 := 32 },
  { name := "WIN_CFG", off := 0x2008, s1 := 16, n1 := 32 },
  { name := "WIN_DURATION", off := 0x200C, s1 := 16, n1 := 32 },
  { name := "SENSOR", off := 0x3000, s1 := 4, n1 := 16 },
  { name := "THERM_CFG", off := 0x3040, rst := 0x69730000, rw := 0xFFFF0000 },
  { name := "THERM_STAT", off := 0x3044 },
  { name := "EMERG_MASK_LO", off := 0x3048, rst := 0xFFFFFFFF, rw := 0xFFFFFFFF },
  { name := "EMERG_MASK_HI", off := 0x304C, rst := 0xE0FFFFFF, rw := 0xFFFFFFFF }]

/-- Registers of CLK. -/
def tCLK : List RegRow := [
  { name := "ID", off := 0x0, rst := 0x1000000 },
  { name := "CD_STAT", off := 0x100, s1 := 4, n1 := 100 },
  { name := "PLL_STAT", off := 0x300, s1 := 4, n1 := 9, w1c := 0x40000000 }]

/-- Registers of AVL. -/
def tAVL : List RegRow := [
  { name := "ID", off := 0x0, rst := 0x1000000 },
  { name := "CFG", off := 0x4, rst := 0x80000, rw := 0x3FF0007 },
  { name := "BOOT_STAT", off := 0x8 },
  { name := "FENCED_Q", off := 0xC },
  { name := "FENCED_F", off := 0x10 },
  { name := "FENCED_P_LO", off := 0x14 },
  { name := "FENCED_P_HI", off := 0x18 },
  { name := "LOG_HEAD", off := 0x1C },
  { name := "LOG_IDX", off := 0x20, rw := 0x3F },
  { name := "LOG_DATA0", off := 0x24 },
  { name := "LOG_DATA1", off := 0x28 },
  { name := "LOG_DATA2", off := 0x2C },
  { name := "LOG_DATA3", off := 0x30 },
  { name := "NOTICES", off := 0x34 },
  { name := "SH_NOTICES", off := 0x38 },
  { name := "SNAP_GEN", off := 0x3C }]

/-- Registers of PNC. -/
def tPNC : List RegRow := [
  { name := "ID", off := 0x0, rst := 0x1000000 },
  { name := "CFG", off := 0x4, rst := 0x800664C8, rw := 0xC0FFFFFF },
  { name := "ACTIVE_LO", off := 0x8 },
  { name := "ACTIVE_HI", off := 0xC },
  { name := "WIN_LEN_US", off := 0x40, s1 := 4, n1 := 16, rw := 0xFFFFFFFF },
  { name := "DOM_STAT", off := 0x1000, s1 := 16, n1 := 64 },
  { name := "DOM_LAST_SEC", off := 0x1004, s1 := 16, n1 := 64 },
  { name := "DOM_PASSES", off := 0x1008, s1 := 16, n1 := 64 },
  { name := "DOM_FAILS", off := 0x100C, s1 := 16, n1 := 64 }]

/-- Registers of CAL. -/
def tCAL : List RegRow := [
  { name := "ID", off := 0x0, rst := 0x1000000 },
  { name := "STATUS", off := 0x4, w1c := 0x80000000 },
  { name := "IDX", off := 0x8, rw := 0xFFFF },
  { name := "FACT", off := 0xC },
  { name := "USER", off := 0x10, rwl := 0xFFFFFFFF },
  { name := "EFF", off := 0x14 }]

/-- Registers of CHP. -/
def tCHP : List RegRow := [
  { name := "ID", off := 0x0, rst := 0x1000000 },
  { name := "STATE", off := 0x4 },
  { name := "TAMPER", off := 0x8 },
  { name := "UNIT_LO", off := 0xC },
  { name := "UNIT_HI", off := 0x10 },
  { name := "SELFTEST", off := 0x14 },
  { name := "ARB", off := 0x100, s1 := 4, n1 := 64 },
  { name := "MEAS_W", off := 0x200, s1 := 64, n1 := 6, s2 := 4, n2 := 12 }]

/-- Registers of PAL. -/
def tPAL : List RegRow := [
  { name := "ID", off := 0x0, rst := 0x1000000 },
  { name := "STATE", off := 0x4 },
  { name := "TRIAL_LEFT", off := 0x8 },
  { name := "LAST_RESULT", off := 0xC },
  { name := "VERSION", off := 0x10, s1 := 4, n1 := 6 },
  { name := "FL_ADDR", off := 0x30, rw := 0xFFFFFFFF },
  { name := "FL_LEN", off := 0x34, rw := 0xFFFFFFFF },
  { name := "FL_BUF_LO", off := 0x38, rw := 0xFFFFFFFF },
  { name := "FL_BUF_HI", off := 0x3C, rw := 0xFFFFFFFF },
  { name := "FL_CMD", off := 0x40, wo := 0xFF },
  { name := "FL_STAT", off := 0x44 }]

/-- Registers of SVC. -/
def tSVC : List RegRow := [
  { name := "ID", off := 0x0, rst := 0x1000000 },
  { name := "CFG", off := 0x4, rwl := 0xE0000000 },
  { name := "STATUS", off := 0x8, w1c := 0x20000000 },
  { name := "MAC_LO", off := 0xC },
  { name := "MAC_HI", off := 0x10 },
  { name := "BUF_BASE_LO", off := 0x14, rwl := 0xFFFFFFC0 },
  { name := "BUF_BASE_HI", off := 0x18, rwl := 0xFFFF },
  { name := "BUF_SIZE", off := 0x1C, rwl := 0xFFFFFFC0 },
  { name := "RX_FRAMES", off := 0x20 },
  { name := "RX_DROP", off := 0x24 },
  { name := "AUTH_FAIL", off := 0x28 }]

/-- Registers of PCI. -/
def tPCI : List RegRow := [
  { name := "ID", off := 0x0, rst := 0x96480021 },
  { name := "STATUS", off := 0x4, w1c := 0xC001FFFF },
  { name := "LINK", off := 0x8 },
  { name := "FLRS", off := 0xC }]

/-- Registers of EVT. -/
def tEVT : List RegRow := [
  { name := "ID", off := 0x0, rst := 0x1000000 },
  { name := "CFG", off := 0x4, rw := 0x7 },
  { name := "STATUS", off := 0x8, w1c := 0x80000000 },
  { name := "DROPS", off := 0xC, rc := 0xFFFFFFFF },
  { name := "SWSET", off := 0x10, wo := 0xFFFFFFFF },
  { name := "PEND", off := 0x100, s1 := 4, n1 := 32, w1c := 0xFFFFFFFF },
  { name := "CORE_NEXT", off := 0x200, s1 := 4, n1 := 8, rst := 0x400 },
  { name := "ROUTE_W0", off := 0x1000, s1 := 16, n1 := 1024, rw := 0xFF1F07FF },
  { name := "ROUTE_W1", off := 0x1004, s1 := 16, n1 := 1024, rw := 0x8007FF1F },
  { name := "ROUTE_W2", off := 0x1008, s1 := 16, n1 := 1024, rw := 0xF101FF },
  { name := "ROUTE_COUNT", off := 0x100C, s1 := 16, n1 := 1024 }]

/-- Registers of BLT. -/
def tBLT : List RegRow := [
  { name := "ID", off := 0x0 },
  { name := "CFG", off := 0x4, rwl := 0xE0000000 },
  { name := "WPTR", off := 0x8 },
  { name := "RPTR", off := 0xC, rw := 0xFFFFFFFF }]

end RegTab

namespace Reg

def VLM_ID : Nat := 0x0
def VLM_LOAD_STATUS : Nat := 0x4
def VLM_ACTIVE_SERIAL : Nat := 0x8
def VLM_APPLY_SEQ : Nat := 0xC
def VLM_REALM_STATE (i : Nat) : Nat := 0x40 + 4 * i
def VLM_REALM_SERIAL (i : Nat) : Nat := 0x80 + 4 * i
def VLM_LOCK (i : Nat) : Nat := 0x4000 + 4 * i
def CMD_RING_BASE_LO (n : Nat) : Nat := 0x100000 + 0x10000 * n + 0x0
def CMD_RING_BASE_HI (n : Nat) : Nat := 0x100000 + 0x10000 * n + 0x4
def CMD_RING_CFG (n : Nat) : Nat := 0x100000 + 0x10000 * n + 0x8
def CMD_RING_TAIL (n : Nat) : Nat := 0x100000 + 0x10000 * n + 0xC
def CMD_RING_HEAD (n : Nat) : Nat := 0x100000 + 0x10000 * n + 0x10
def CMD_RING_HEADWB_LO (n : Nat) : Nat := 0x100000 + 0x10000 * n + 0x14
def CMD_RING_HEADWB_HI (n : Nat) : Nat := 0x100000 + 0x10000 * n + 0x18
def CMD_RING_STAT (n : Nat) : Nat := 0x100000 + 0x10000 * n + 0x1C
def CMD_REJ_CNT (n : Nat) : Nat := 0x100000 + 0x10000 * n + 0x20
def CMD_INFO (n : Nat) : Nat := 0x100000 + 0x10000 * n + 0x24
def CMD_EVSRC (n : Nat) : Nat := 0x100000 + 0x10000 * n + 0x28
def CMD_RSLT_W0 (n i : Nat) : Nat := 0x100000 + 0x10000 * n + 0x1000 + 64 * i
def CMD_RSLT_W1 (n i : Nat) : Nat := 0x100000 + 0x10000 * n + 0x1004 + 64 * i
def CMD_RSLT_W2 (n i : Nat) : Nat := 0x100000 + 0x10000 * n + 0x1008 + 64 * i
def CMD_RSLT_W3 (n i : Nat) : Nat := 0x100000 + 0x10000 * n + 0x100C + 64 * i
def CMD_RSLT_W4 (n i : Nat) : Nat := 0x100000 + 0x10000 * n + 0x1010 + 64 * i
def CMD_RSLT_W5 (n i : Nat) : Nat := 0x100000 + 0x10000 * n + 0x1014 + 64 * i
def CMD_RSLT_W6 (n i : Nat) : Nat := 0x100000 + 0x10000 * n + 0x1018 + 64 * i
def CMD_RSLT_W7 (n i : Nat) : Nat := 0x100000 + 0x10000 * n + 0x101C + 64 * i
def CMD_RSLT_W8 (n i : Nat) : Nat := 0x100000 + 0x10000 * n + 0x1020 + 64 * i
def CMD_RSLT_W9 (n i : Nat) : Nat := 0x100000 + 0x10000 * n + 0x1024 + 64 * i
def CMD_RSLT_W10 (n i : Nat) : Nat := 0x100000 + 0x10000 * n + 0x1028 + 64 * i
def CMD_RSLT_W11 (n i : Nat) : Nat := 0x100000 + 0x10000 * n + 0x102C + 64 * i
def CMD_RSLT_W12 (n i : Nat) : Nat := 0x100000 + 0x10000 * n + 0x1030 + 64 * i
def CMD_RSLT_W13 (n i : Nat) : Nat := 0x100000 + 0x10000 * n + 0x1034 + 64 * i
def CMD_RSLT_W14 (n i : Nat) : Nat := 0x100000 + 0x10000 * n + 0x1038 + 64 * i
def CMD_RSLT_W15 (n i : Nat) : Nat := 0x100000 + 0x10000 * n + 0x103C + 64 * i
def TMB_NOW_NS (n : Nat) : Nat := 0x400000 + 0x10000 * n + 0x0
def TMB_NOW_SEC_LO (n : Nat) : Nat := 0x400000 + 0x10000 * n + 0x4
def TMB_NOW_SEC_HI (n : Nat) : Nat := 0x400000 + 0x10000 * n + 0x8
def TMB_NOW_TS32 (n : Nat) : Nat := 0x400000 + 0x10000 * n + 0xC
def TMB_FREQ_ADJ_LO (n : Nat) : Nat := 0x400000 + 0x10000 * n + 0x10
def TMB_FREQ_ADJ_HI (n : Nat) : Nat := 0x400000 + 0x10000 * n + 0x14
def TMB_STEP_SEC (n : Nat) : Nat := 0x400000 + 0x10000 * n + 0x18
def TMB_STEP_NS (n : Nat) : Nat := 0x400000 + 0x10000 * n + 0x1C
def TMB_STEP_CTL (n : Nat) : Nat := 0x400000 + 0x10000 * n + 0x20
def TMB_STATE (n : Nat) : Nat := 0x400000 + 0x10000 * n + 0x24
def TMB_STATUS (n : Nat) : Nat := 0x400000 + 0x10000 * n + 0x28
def RUL_CAP_CFG (i : Nat) : Nat := 0x500000 + 0x0 + 16 * i
def RUL_CAP_NS (i : Nat) : Nat := 0x500000 + 0x4 + 16 * i
def RUL_CAP_SEC_LO (i : Nat) : Nat := 0x500000 + 0x8 + 16 * i
def RUL_CAP_SEC_HI (i : Nat) : Nat := 0x500000 + 0xC + 16 * i
def RUL_TOUT_CFG (i : Nat) : Nat := 0x500000 + 0x80 + 4 * i
def RUL_SYNCE_CFG (i : Nat) : Nat := 0x500000 + 0xC0 + 8 * i
def RUL_SYNCE_STAT (i : Nat) : Nat := 0x500000 + 0xC4 + 8 * i
def RUL_GRID_CFG (i : Nat) : Nat := 0x500000 + 0x1000 + 32 * i
def RUL_GRID_OFFSET (i : Nat) : Nat := 0x500000 + 0x1004 + 32 * i
def RUL_GRID_OFFSET_FRAC (i : Nat) : Nat := 0x500000 + 0x1008 + 32 * i
def RUL_GRID_SH_OFFSET (i : Nat) : Nat := 0x500000 + 0x100C + 32 * i
def RUL_GRID_SH_CTL (i : Nat) : Nat := 0x500000 + 0x1010 + 32 * i
def RUL_GRID_HANDOVER_SEQ (i : Nat) : Nat := 0x500000 + 0x1014 + 32 * i
def RUL_GRID_POS (i : Nat) : Nat := 0x500000 + 0x1018 + 32 * i
def RUL_GRID_HFN (i : Nat) : Nat := 0x500000 + 0x101C + 32 * i
def TRG_SNAP_GEN : Nat := 0x510000 + 0x0
def TRG_SNAP_TIME : Nat := 0x510000 + 0x4
def TRG_SNAP_STAT : Nat := 0x510000 + 0x8
def TRG_CH_SH_CFG (i : Nat) : Nat := 0x510000 + 0x1000 + 64 * i
def TRG_CH_SH_WHEN0 (i : Nat) : Nat := 0x510000 + 0x1004 + 64 * i
def TRG_CH_SH_WHEN1 (i : Nat) : Nat := 0x510000 + 0x1008 + 64 * i
def TRG_CH_SH_WHEN2 (i : Nat) : Nat := 0x510000 + 0x100C + 64 * i
def TRG_CH_SH_PERIOD (i : Nat) : Nat := 0x510000 + 0x1010 + 64 * i
def TRG_CH_SH_TARGET (i : Nat) : Nat := 0x510000 + 0x1014 + 64 * i
def TRG_CH_CFG (i : Nat) : Nat := 0x510000 + 0x1018 + 64 * i
def TRG_CH_WHEN0 (i : Nat) : Nat := 0x510000 + 0x101C + 64 * i
def TRG_CH_WHEN1 (i : Nat) : Nat := 0x510000 + 0x1020 + 64 * i
def TRG_CH_WHEN2 (i : Nat) : Nat := 0x510000 + 0x1024 + 64 * i
def TRG_CH_PERIOD (i : Nat) : Nat := 0x510000 + 0x1028 + 64 * i
def TRG_CH_TARGET (i : Nat) : Nat := 0x510000 + 0x102C + 64 * i
def TRG_CH_CTL (i : Nat) : Nat := 0x510000 + 0x1030 + 64 * i
def TRG_CH_COUNTS (i : Nat) : Nat := 0x510000 + 0x1034 + 64 * i
def TRG_CH_STAT (i : Nat) : Nat := 0x510000 + 0x1038 + 64 * i
def TRG_CH_LAST_FIRE (i : Nat) : Nat := 0x510000 + 0x103C + 64 * i
def ORD_STATUS : Nat := 0x600000 + 0x0
def ORD_TRACE_CFG : Nat := 0x600000 + 0x4
def ORD_TRACE_DROP : Nat := 0x600000 + 0x8
def ORD_REPLACE_STAT : Nat := 0x600000 + 0xC
def ORD_SNAP_GEN : Nat := 0x600000 + 0x10
def ORD_RLM_CQ_BASE_LO (i : Nat) : Nat := 0x600000 + 0x1000 + 64 * i
def ORD_RLM_CQ_BASE_HI (i : Nat) : Nat := 0x600000 + 0x1004 + 64 * i
def ORD_RLM_CQ_CFG (i : Nat) : Nat := 0x600000 + 0x1008 + 64 * i
def ORD_RLM_CQ_PROD (i : Nat) : Nat := 0x600000 + 0x100C + 64 * i
def ORD_RLM_CQ_CONS (i : Nat) : Nat := 0x600000 + 0x1010 + 64 * i
def ORD_RLM_CNT_DONE (i : Nat) : Nat := 0x600000 + 0x1014 + 64 * i
def ORD_RLM_CNT_LATE (i : Nat) : Nat := 0x600000 + 0x1018 + 64 * i
def ORD_RLM_CNT_REFUSED (i : Nat) : Nat := 0x600000 + 0x101C + 64 * i
def ORD_RLM_SH_DONE (i : Nat) : Nat := 0x600000 + 0x1020 + 64 * i
def ORD_RLM_SH_LATE (i : Nat) : Nat := 0x600000 + 0x1024 + 64 * i
def ORD_RLM_SH_REFUSED (i : Nat) : Nat := 0x600000 + 0x1028 + 64 * i
def ORD_RLM_HARQ_CFG (i : Nat) : Nat := 0x600000 + 0x102C + 64 * i
def DUC_CFG (n : Nat) : Nat := 0x700000 + 0x10000 * n + 0x0
def DUC_STATUS (n : Nat) : Nat := 0x700000 + 0x10000 * n + 0x4
def DUC_TRACE_CFG (n : Nat) : Nat := 0x700000 + 0x10000 * n + 0x8
def DUC_TRACE_DROP (n : Nat) : Nat := 0x700000 + 0x10000 * n + 0xC
def DUC_JRNL_BASE_LO (n : Nat) : Nat := 0x700000 + 0x10000 * n + 0x10
def DUC_JRNL_BASE_HI (n : Nat) : Nat := 0x700000 + 0x10000 * n + 0x14
def DUC_CTX_BASE (n : Nat) : Nat := 0x700000 + 0x10000 * n + 0x18
def DUC_TICK_CFG (n i : Nat) : Nat := 0x700000 + 0x10000 * n + 0x40 + 8 * i
def DUC_TICK_COUNT (n i : Nat) : Nat := 0x700000 + 0x10000 * n + 0x44 + 8 * i
def DUC_PORT_SVC_LO (n i : Nat) : Nat := 0x700000 + 0x10000 * n + 0x100 + 32 * i
def DUC_PORT_SVC_HI (n i : Nat) : Nat := 0x700000 + 0x10000 * n + 0x104 + 32 * i
def DUC_PORT_XARG_LO (n i : Nat) : Nat := 0x700000 + 0x10000 * n + 0x108 + 32 * i
def DUC_PORT_XARG_HI (n i : Nat) : Nat := 0x700000 + 0x10000 * n + 0x10C + 32 * i
def DUC_PORT_RES_LO (n i : Nat) : Nat := 0x700000 + 0x10000 * n + 0x110 + 32 * i
def DUC_PORT_RES_HI (n i : Nat) : Nat := 0x700000 + 0x10000 * n + 0x114 + 32 * i
def DUC_PORT_NEXT (n i : Nat) : Nat := 0x700000 + 0x10000 * n + 0x118 + 32 * i
def DUC_PORT_TMO (n i : Nat) : Nat := 0x700000 + 0x10000 * n + 0x11C + 32 * i
def DUC_SEM_STATE (n i : Nat) : Nat := 0x700000 + 0x10000 * n + 0x400 + 8 * i
def DUC_SEM_MAX (n i : Nat) : Nat := 0x700000 + 0x10000 * n + 0x404 + 8 * i
def DUC_FLAG_VALUE (n i : Nat) : Nat := 0x700000 + 0x10000 * n + 0xC00 + 8 * i
def DUC_FLAG_OWNER (n i : Nat) : Nat := 0x700000 + 0x10000 * n + 0xC04 + 8 * i
def DUC_TCB_W (n i j : Nat) : Nat := 0x700000 + 0x10000 * n + 0x8000 + 64 * i + 4 * j
def NIB_ID (n : Nat) : Nat := 0x1000000 + 0x10000 * n + 0x0
def NIB_STATUS (n : Nat) : Nat := 0x1000000 + 0x10000 * n + 0x4
def NIB_CTL (n : Nat) : Nat := 0x1000000 + 0x10000 * n + 0x8
def NIB_PC_LO (n : Nat) : Nat := 0x1000000 + 0x10000 * n + 0x10
def NIB_PC_HI (n : Nat) : Nat := 0x1000000 + 0x10000 * n + 0x14
def NIB_RESET_PC_LO (n : Nat) : Nat := 0x1000000 + 0x10000 * n + 0x18
def NIB_RESET_PC_HI (n : Nat) : Nat := 0x1000000 + 0x10000 * n + 0x1C
def NIB_DBG_SEL (n : Nat) : Nat := 0x1000000 + 0x10000 * n + 0x20
def NIB_DBG_DATA_LO (n : Nat) : Nat := 0x1000000 + 0x10000 * n + 0x24
def NIB_DBG_DATA_HI (n : Nat) : Nat := 0x1000000 + 0x10000 * n + 0x28
def NIB_DOORBELL (n : Nat) : Nat := 0x1000000 + 0x10000 * n + 0x30
def NIB_BP_ADDR_LO (n i : Nat) : Nat := 0x1000000 + 0x10000 * n + 0x40 + 16 * i
def NIB_BP_ADDR_HI (n i : Nat) : Nat := 0x1000000 + 0x10000 * n + 0x44 + 16 * i
def NIB_BP_CTL (n i : Nat) : Nat := 0x1000000 + 0x10000 * n + 0x48 + 16 * i
def NIB_WP_ADDR_LO (n i : Nat) : Nat := 0x1000000 + 0x10000 * n + 0x80 + 16 * i
def NIB_WP_ADDR_HI (n i : Nat) : Nat := 0x1000000 + 0x10000 * n + 0x84 + 16 * i
def NIB_WP_CTL (n i : Nat) : Nat := 0x1000000 + 0x10000 * n + 0x88 + 16 * i
def NIB_CYCLE_LO (n : Nat) : Nat := 0x1000000 + 0x10000 * n + 0x100
def NIB_CYCLE_HI (n : Nat) : Nat := 0x1000000 + 0x10000 * n + 0x104
def NIB_BUNDLES_LO (n : Nat) : Nat := 0x1000000 + 0x10000 * n + 0x108
def NIB_BUNDLES_HI (n : Nat) : Nat := 0x1000000 + 0x10000 * n + 0x10C
def NIB_FREEZE_CYC (n : Nat) : Nat := 0x1000000 + 0x10000 * n + 0x110
def NIB_ECC_STAT (n : Nat) : Nat := 0x1000000 + 0x10000 * n + 0x114
def NIB_SH_CYCLE_LO (n : Nat) : Nat := 0x1000000 + 0x10000 * n + 0x120
def NIB_SH_CYCLE_HI (n : Nat) : Nat := 0x1000000 + 0x10000 * n + 0x124
def NIB_SH_BUNDLES_LO (n : Nat) : Nat := 0x1000000 + 0x10000 * n + 0x128
def NIB_SH_BUNDLES_HI (n : Nat) : Nat := 0x1000000 + 0x10000 * n + 0x12C
def NIB_SH_FREEZE (n : Nat) : Nat := 0x1000000 + 0x10000 * n + 0x130
def NIB_SNAP_GEN (n : Nat) : Nat := 0x1000000 + 0x10000 * n + 0x134
def FER_ID (n : Nat) : Nat := 0x1800000 + 0x10000 * n + 0x0
def FER_STATUS (n : Nat) : Nat := 0x1800000 + 0x10000 * n + 0x4
def FER_LOCK (n : Nat) : Nat := 0x1800000 + 0x10000 * n + 0x8
def FER_CTL (n : Nat) : Nat := 0x1800000 + 0x10000 * n + 0xC
def FER_ERR_INFO (n : Nat) : Nat := 0x1800000 + 0x10000 * n + 0x10
def FER_ERR_ADDR_LO (n : Nat) : Nat := 0x1800000 + 0x10000 * n + 0x14
def FER_ERR_ADDR_HI (n : Nat) : Nat := 0x1800000 + 0x10000 * n + 0x18
def FER_ECC_STAT (n : Nat) : Nat := 0x1800000 + 0x10000 * n + 0x1C
def FER_CMDS (n : Nat) : Nat := 0x1800000 + 0x10000 * n + 0x20
def FER_BUSY (n : Nat) : Nat := 0x1800000 + 0x10000 * n + 0x24
def FER_INK_STALL (n : Nat) : Nat := 0x1800000 + 0x10000 * n + 0x28
def FER_LAZY (n : Nat) : Nat := 0x1800000 + 0x10000 * n + 0x2C
def FER_SH_CMDS (n : Nat) : Nat := 0x1800000 + 0x10000 * n + 0x30
def FER_SH_BUSY (n : Nat) : Nat := 0x1800000 + 0x10000 * n + 0x34
def FER_SH_INK_STALL (n : Nat) : Nat := 0x1800000 + 0x10000 * n + 0x38
def FER_SH_LAZY (n : Nat) : Nat := 0x1800000 + 0x10000 * n + 0x3C
def FER_SNAP_GEN (n : Nat) : Nat := 0x1800000 + 0x10000 * n + 0x40
def POOL_ID (b : Nat) : Nat := b + 0x0
def POOL_STATUS (b : Nat) : Nat := b + 0x4
def POOL_CTL (b : Nat) : Nat := b + 0x8
def POOL_ERR_INFO (b : Nat) : Nat := b + 0xC
def POOL_PCFG (b : Nat) : Nat := b + 0x10
def POOL_ECC_STAT (b : Nat) : Nat := b + 0x14
def POOL_RING_PEND (b : Nat) : Nat := b + 0x18
def POOL_JOBS (b : Nat) : Nat := b + 0x20
def POOL_WORK (b : Nat) : Nat := b + 0x24
def POOL_STALL (b : Nat) : Nat := b + 0x28
def POOL_SH_JOBS (b : Nat) : Nat := b + 0x30
def POOL_SH_WORK (b : Nat) : Nat := b + 0x34
def POOL_SH_STALL (b : Nat) : Nat := b + 0x38
def POOL_SNAP_GEN (b : Nat) : Nat := b + 0x40
def POOL_RING_BASE_LO (b i : Nat) : Nat := b + 0x1000 + 64 * i
def POOL_RING_BASE_HI (b i : Nat) : Nat := b + 0x1004 + 64 * i
def POOL_RING_CFG (b i : Nat) : Nat := b + 0x1008 + 64 * i
def POOL_RING_TAIL (b i : Nat) : Nat := b + 0x100C + 64 * i
def POOL_RING_HEAD (b i : Nat) : Nat := b + 0x1010 + 64 * i
def POOL_RING_HEADWB_LO (b i : Nat) : Nat := b + 0x1014 + 64 * i
def POOL_RING_HEADWB_HI (b i : Nat) : Nat := b + 0x1018 + 64 * i
def POOL_RING_STAT (b i : Nat) : Nat := b + 0x101C + 64 * i
def POOL_RING_NOTIFY_CTL (b i : Nat) : Nat := b + 0x1020 + 64 * i
def POOL_RING_NOTIFY_TGT (b i : Nat) : Nat := b + 0x1024 + 64 * i
def POOL_RING_CREDIT (b i : Nat) : Nat := b + 0x1028 + 64 * i
def POOL_RING_RJOBS (b i : Nat) : Nat := b + 0x102C + 64 * i
def HDY_ID : Nat := 0x2600000 + 0x0
def HDY_STATUS : Nat := 0x2600000 + 0x4
def HDY_IDX : Nat := 0x2600000 + 0x8
def HDY_ACC : Nat := 0x2600000 + 0xC
def HDY_DATA (i : Nat) : Nat := 0x2600000 + 0x10 + 4 * i
def HDY_ECC_STAT : Nat := 0x2600000 + 0x30
def HDY_LOOKUPS : Nat := 0x2600000 + 0x34
def HDY_SH_LOOKUPS : Nat := 0x2600000 + 0x38
def HDY_SNAP_GEN : Nat := 0x2600000 + 0x3C
def HDY_RLM_RECORDS (i : Nat) : Nat := 0x2600000 + 0x100 + 16 * i
def HDY_RLM_ENTRIES (i : Nat) : Nat := 0x2600000 + 0x104 + 16 * i
def HDY_RLM_HBM64 (i : Nat) : Nat := 0x2600000 + 0x108 + 16 * i
def HDY_RLM_DDR64 (i : Nat) : Nat := 0x2600000 + 0x10C + 16 * i
def RAE_ID (n : Nat) : Nat := 0x2800000 + 0x10000 * n + 0x0
def RAE_STATUS (n : Nat) : Nat := 0x2800000 + 0x10000 * n + 0x4
def RAE_CTL (n : Nat) : Nat := 0x2800000 + 0x10000 * n + 0x8
def RAE_ERR_INFO (n : Nat) : Nat := 0x2800000 + 0x10000 * n + 0xC
def RAE_ECC_STAT (n : Nat) : Nat := 0x2800000 + 0x10000 * n + 0x14
def RAE_RING_PEND (n : Nat) : Nat := 0x2800000 + 0x10000 * n + 0x18
def RAE_OCCS (n : Nat) : Nat := 0x2800000 + 0x10000 * n + 0x20
def RAE_DETS (n : Nat) : Nat := 0x2800000 + 0x10000 * n + 0x24
def RAE_CRCFAIL (n : Nat) : Nat := 0x2800000 + 0x10000 * n + 0x28
def RAE_PREEMPTS (n : Nat) : Nat := 0x2800000 + 0x10000 * n + 0x2C
def RAE_CTXFULL (n : Nat) : Nat := 0x2800000 + 0x10000 * n + 0x30
def RAE_WORK (n : Nat) : Nat := 0x2800000 + 0x10000 * n + 0x34
def RAE_SH_OCCS (n : Nat) : Nat := 0x2800000 + 0x10000 * n + 0x40
def RAE_SH_DETS (n : Nat) : Nat := 0x2800000 + 0x10000 * n + 0x44
def RAE_SH_CRCFAIL (n : Nat) : Nat := 0x2800000 + 0x10000 * n + 0x48
def RAE_SH_PREEMPTS (n : Nat) : Nat := 0x2800000 + 0x10000 * n + 0x4C
def RAE_SH_CTXFULL (n : Nat) : Nat := 0x2800000 + 0x10000 * n + 0x50
def RAE_SH_WORK (n : Nat) : Nat := 0x2800000 + 0x10000 * n + 0x54
def RAE_SNAP_GEN (n : Nat) : Nat := 0x2800000 + 0x10000 * n + 0x58
def RAE_RING_BASE_LO (n i : Nat) : Nat := 0x2800000 + 0x10000 * n + 0x1000 + 64 * i
def RAE_RING_BASE_HI (n i : Nat) : Nat := 0x2800000 + 0x10000 * n + 0x1004 + 64 * i
def RAE_RING_CFG (n i : Nat) : Nat := 0x2800000 + 0x10000 * n + 0x1008 + 64 * i
def RAE_RING_TAIL (n i : Nat) : Nat := 0x2800000 + 0x10000 * n + 0x100C + 64 * i
def RAE_RING_HEAD (n i : Nat) : Nat := 0x2800000 + 0x10000 * n + 0x1010 + 64 * i
def RAE_RING_HEADWB_LO (n i : Nat) : Nat := 0x2800000 + 0x10000 * n + 0x1014 + 64 * i
def RAE_RING_HEADWB_HI (n i : Nat) : Nat := 0x2800000 + 0x10000 * n + 0x1018 + 64 * i
def RAE_RING_STAT (n i : Nat) : Nat := 0x2800000 + 0x10000 * n + 0x101C + 64 * i
def RAE_RING_NOTIFY_CTL (n i : Nat) : Nat := 0x2800000 + 0x10000 * n + 0x1020 + 64 * i
def RAE_RING_NOTIFY_TGT (n i : Nat) : Nat := 0x2800000 + 0x10000 * n + 0x1024 + 64 * i
def RAE_RING_CREDIT (n i : Nat) : Nat := 0x2800000 + 0x10000 * n + 0x1028 + 64 * i
def RAE_RING_RJOBS (n i : Nat) : Nat := 0x2800000 + 0x10000 * n + 0x102C + 64 * i
def RAE_RQ_BASE_LO (n i : Nat) : Nat := 0x2800000 + 0x10000 * n + 0x2000 + 64 * i
def RAE_RQ_BASE_HI (n i : Nat) : Nat := 0x2800000 + 0x10000 * n + 0x2004 + 64 * i
def RAE_RQ_CFG (n i : Nat) : Nat := 0x2800000 + 0x10000 * n + 0x2008 + 64 * i
def RAE_RQ_PROD (n i : Nat) : Nat := 0x2800000 + 0x10000 * n + 0x200C + 64 * i
def RAE_RQ_CONS (n i : Nat) : Nat := 0x2800000 + 0x10000 * n + 0x2010 + 64 * i
def RAE_RQ_PAY_LO (n i : Nat) : Nat := 0x2800000 + 0x10000 * n + 0x2014 + 64 * i
def RAE_RQ_PAY_HI (n i : Nat) : Nat := 0x2800000 + 0x10000 * n + 0x2018 + 64 * i
def RAE_RQ_DROP (n i : Nat) : Nat := 0x2800000 + 0x10000 * n + 0x201C + 64 * i
def RAE_RQ_LAST_THR (n i : Nat) : Nat := 0x2800000 + 0x10000 * n + 0x2020 + 64 * i
def RAE_CTX_STATE (n i : Nat) : Nat := 0x2800000 + 0x10000 * n + 0x3000 + 8 * i
def RAE_CTX_CFO (n i : Nat) : Nat := 0x2800000 + 0x10000 * n + 0x3004 + 8 * i
def RAE_THR_SET_W (n i j k : Nat) : Nat := 0x2800000 + 0x10000 * n + 0x4000 + 512 * i + 128 * j + 4 * k
def MEMC_ID (b : Nat) : Nat := b + 0x0
def MEMC_STATUS (b : Nat) : Nat := b + 0x4
def MEMC_ECC_CORR (b : Nat) : Nat := b + 0x8
def MEMC_ECC_UC (b : Nat) : Nat := b + 0xC
def MEMC_ERR_ADDR_LO (b : Nat) : Nat := b + 0x10
def MEMC_ERR_ADDR_HI (b : Nat) : Nat := b + 0x14
def MEMC_SCRUB_CFG (b : Nat) : Nat := b + 0x18
def MEMC_THRESH (b : Nat) : Nat := b + 0x1C
def MEMC_RD64 (b : Nat) : Nat := b + 0x20
def MEMC_WR64 (b : Nat) : Nat := b + 0x24
def MEMC_MSC_CTL (b : Nat) : Nat := b + 0x28
def MEMC_MSC_HIT (b : Nat) : Nat := b + 0x2C
def MEMC_MSC_MISS (b : Nat) : Nat := b + 0x30
def MEMC_SPARE_LOG (b : Nat) : Nat := b + 0x34
def MEMC_CAPACITY (b : Nat) : Nat := b + 0x38
def MEMC_SH_RD64 (b : Nat) : Nat := b + 0x40
def MEMC_SH_WR64 (b : Nat) : Nat := b + 0x44
def MEMC_SH_MSC_HIT (b : Nat) : Nat := b + 0x48
def MEMC_SH_MSC_MISS (b : Nat) : Nat := b + 0x4C
def MEMC_SNAP_GEN (b : Nat) : Nat := b + 0x50
def NOC_ID (n : Nat) : Nat := 0x3400000 + 0x10000 * n + 0x0
def NOC_STATUS (n : Nat) : Nat := 0x3400000 + 0x10000 * n + 0x4
def NOC_LINK_STAT (n i : Nat) : Nat := 0x3400000 + 0x10000 * n + 0x10 + 4 * i
def NOC_LINK_CRC_CNT (n i : Nat) : Nat := 0x3400000 + 0x10000 * n + 0x30 + 4 * i
def NOC_TEST_CNT_LO (n : Nat) : Nat := 0x3400000 + 0x10000 * n + 0x50
def NOC_TEST_CNT_HI (n : Nat) : Nat := 0x3400000 + 0x10000 * n + 0x54
def NOC_TEST_ERR (n : Nat) : Nat := 0x3400000 + 0x10000 * n + 0x58
def NOCG_ID : Nat := 0x3700000 + 0x0
def NOCG_CFG : Nat := 0x3700000 + 0x4
def NOCG_EPOCH_CTL : Nat := 0x3700000 + 0x8
def NOCG_DRAIN0 : Nat := 0x3700000 + 0xC
def NOCG_DRAIN1 : Nat := 0x3700000 + 0x10
def NOCG_RT_IDX : Nat := 0x3700000 + 0x14
def NOCG_RT_DATA : Nat := 0x3700000 + 0x18
def NOCG_RT_ACC : Nat := 0x3700000 + 0x1C
def NOCG_FENCE_LO : Nat := 0x3700000 + 0x20
def NOCG_FENCE_HI : Nat := 0x3700000 + 0x24
def NOCG_SNAP_GEN : Nat := 0x3700000 + 0x30
def NOCG_INIT_RD64 (i : Nat) : Nat := 0x3700000 + 0x1000 + 32 * i
def NOCG_INIT_WR64 (i : Nat) : Nat := 0x3700000 + 0x1004 + 32 * i
def NOCG_INIT_REQS (i : Nat) : Nat := 0x3700000 + 0x1008 + 32 * i
def NOCG_INIT_LAT_SUM (i : Nat) : Nat := 0x3700000 + 0x100C + 32 * i
def NOCG_INIT_LAT_MAX (i : Nat) : Nat := 0x3700000 + 0x1010 + 32 * i
def NOCG_INIT_SH_RD64 (i : Nat) : Nat := 0x3700000 + 0x3000 + 32 * i
def NOCG_INIT_SH_WR64 (i : Nat) : Nat := 0x3700000 + 0x3004 + 32 * i
def NOCG_INIT_SH_REQS (i : Nat) : Nat := 0x3700000 + 0x3008 + 32 * i
def NOCG_INIT_SH_LAT_SUM (i : Nat) : Nat := 0x3700000 + 0x300C + 32 * i
def NOCG_INIT_SH_LAT_MAX (i : Nat) : Nat := 0x3700000 + 0x3010 + 32 * i
def SCB_ID (n : Nat) : Nat := 0x4000000 + 0x10000 * n + 0x0
def SCB_STATUS (n : Nat) : Nat := 0x4000000 + 0x10000 * n + 0x4
def SCB_CH_PEND (n : Nat) : Nat := 0x4000000 + 0x10000 * n + 0x8
def SCB_ERR_INFO (n : Nat) : Nat := 0x4000000 + 0x10000 * n + 0xC
def SCB_BYTES (n : Nat) : Nat := 0x4000000 + 0x10000 * n + 0x10
def SCB_DESCS (n : Nat) : Nat := 0x4000000 + 0x10000 * n + 0x14
def SCB_SH_BYTES (n : Nat) : Nat := 0x4000000 + 0x10000 * n + 0x18
def SCB_SH_DESCS (n : Nat) : Nat := 0x4000000 + 0x10000 * n + 0x1C
def SCB_SNAP_GEN (n : Nat) : Nat := 0x4000000 + 0x10000 * n + 0x20
def SCB_RLM_OWNED (n i : Nat) : Nat := 0x4000000 + 0x10000 * n + 0x40 + 4 * i
def SCB_CH_BASE_LO (n i : Nat) : Nat := 0x4000000 + 0x10000 * n + 0x1000 + 64 * i
def SCB_CH_BASE_HI (n i : Nat) : Nat := 0x4000000 + 0x10000 * n + 0x1004 + 64 * i
def SCB_CH_CFG (n i : Nat) : Nat := 0x4000000 + 0x10000 * n + 0x1008 + 64 * i
def SCB_CH_TAIL (n i : Nat) : Nat := 0x4000000 + 0x10000 * n + 0x100C + 64 * i
def SCB_CH_HEAD (n i : Nat) : Nat := 0x4000000 + 0x10000 * n + 0x1010 + 64 * i
def SCB_CH_HEADWB_LO (n i : Nat) : Nat := 0x4000000 + 0x10000 * n + 0x1014 + 64 * i
def SCB_CH_HEADWB_HI (n i : Nat) : Nat := 0x4000000 + 0x10000 * n + 0x1018 + 64 * i
def SCB_CH_STAT (n i : Nat) : Nat := 0x4000000 + 0x10000 * n + 0x101C + 64 * i
def SCB_CH_CTL (n i : Nat) : Nat := 0x4000000 + 0x10000 * n + 0x1020 + 64 * i
def SCB_CH_NOTIFY_TGT (n i : Nat) : Nat := 0x4000000 + 0x10000 * n + 0x1024 + 64 * i
def SCB_CH_RATE (n i : Nat) : Nat := 0x4000000 + 0x10000 * n + 0x1028 + 64 * i
def SCB_CH_LAST (n i : Nat) : Nat := 0x4000000 + 0x10000 * n + 0x102C + 64 * i
def SCB_CH_PROGRESS (n i : Nat) : Nat := 0x4000000 + 0x10000 * n + 0x1030 + 64 * i
def SCB_TPL_SH (n i j : Nat) : Nat := 0x4000000 + 0x10000 * n + 0x4000 + 256 * i + 4 * j
def SCB_TPL_ACT (n i j : Nat) : Nat := 0x4000000 + 0x10000 * n + 0x4040 + 256 * i + 4 * j
def SCB_TPL_TCTL (n i : Nat) : Nat := 0x4000000 + 0x10000 * n + 0x4080 + 256 * i
def SCB_TPL_TCOUNTS (n i : Nat) : Nat := 0x4000000 + 0x10000 * n + 0x4084 + 256 * i
def SCB_TPL_ROUNDS (n i : Nat) : Nat := 0x4000000 + 0x10000 * n + 0x4088 + 256 * i
def ETH_ID (n : Nat) : Nat := 0x5000000 + 0x10000 * n + 0x0
def ETH_CFG (n : Nat) : Nat := 0x5000000 + 0x10000 * n + 0x4
def ETH_STATUS (n : Nat) : Nat := 0x5000000 + 0x10000 * n + 0x8
def ETH_ECPRI_UDP (n : Nat) : Nat := 0x5000000 + 0x10000 * n + 0xC
def ETH_MAC_LO (n : Nat) : Nat := 0x5000000 + 0x10000 * n + 0x10
def ETH_MAC_HI (n : Nat) : Nat := 0x5000000 + 0x10000 * n + 0x14
def ETH_TS_TX_FACT (n : Nat) : Nat := 0x5000000 + 0x10000 * n + 0x18
def ETH_TS_RX_FACT (n : Nat) : Nat := 0x5000000 + 0x10000 * n + 0x1C
def ETH_TS_TX_USER (n : Nat) : Nat := 0x5000000 + 0x10000 * n + 0x20
def ETH_TS_RX_USER (n : Nat) : Nat := 0x5000000 + 0x10000 * n + 0x24
def ETH_TS_TX_EFF (n : Nat) : Nat := 0x5000000 + 0x10000 * n + 0x28
def ETH_TS_RX_EFF (n : Nat) : Nat := 0x5000000 + 0x10000 * n + 0x2C
def ETH_RX_FRAMES (n : Nat) : Nat := 0x5000000 + 0x10000 * n + 0x30
def ETH_RX_BAD (n : Nat) : Nat := 0x5000000 + 0x10000 * n + 0x34
def ETH_TX_FRAMES (n : Nat) : Nat := 0x5000000 + 0x10000 * n + 0x38
def ETH_FEC_CORR (n : Nat) : Nat := 0x5000000 + 0x10000 * n + 0x3C
def ETH_FEC_UNCORR (n : Nat) : Nat := 0x5000000 + 0x10000 * n + 0x40
def ETH_LINK_DOWN (n : Nat) : Nat := 0x5000000 + 0x10000 * n + 0x44
def ETH_SH_RX_FRAMES (n : Nat) : Nat := 0x5000000 + 0x10000 * n + 0x50
def ETH_SH_RX_BAD (n : Nat) : Nat := 0x5000000 + 0x10000 * n + 0x54
def ETH_SH_TX_FRAMES (n : Nat) : Nat := 0x5000000 + 0x10000 * n + 0x58
def ETH_SH_FEC_CORR (n : Nat) : Nat := 0x5000000 + 0x10000 * n + 0x5C
def ETH_SH_FEC_UNCORR (n : Nat) : Nat := 0x5000000 + 0x10000 * n + 0x60
def ETH_SH_LINK_DOWN (n : Nat) : Nat := 0x5000000 + 0x10000 * n + 0x64
def ETH_SNAP_GEN (n : Nat) : Nat := 0x5000000 + 0x10000 * n + 0x68
def ETH_MSEC_CFG (n : Nat) : Nat := 0x5000000 + 0x10000 * n + 0x80
def ETH_MSEC_THRESH (n : Nat) : Nat := 0x5000000 + 0x10000 * n + 0x84
def ETH_IN_OK (n : Nat) : Nat := 0x5000000 + 0x10000 * n + 0x88
def ETH_IN_NOTVALID (n : Nat) : Nat := 0x5000000 + 0x10000 * n + 0x8C
def ETH_IN_LATE (n : Nat) : Nat := 0x5000000 + 0x10000 * n + 0x90
def ETH_OUT_PROT (n : Nat) : Nat := 0x5000000 + 0x10000 * n + 0x94
def ETH_OUT_PN_EXH (n : Nat) : Nat := 0x5000000 + 0x10000 * n + 0x98
def FHE_ID (n : Nat) : Nat := 0x5200000 + 0x10000 * n + 0x0
def FHE_STATUS (n : Nat) : Nat := 0x5200000 + 0x10000 * n + 0x4
def FHE_ERR_INFO (n : Nat) : Nat := 0x5200000 + 0x10000 * n + 0x8
def FHE_ST_IDX (n : Nat) : Nat := 0x5200000 + 0x10000 * n + 0x10
def FHE_ST_ACC (n : Nat) : Nat := 0x5200000 + 0x10000 * n + 0x14
def FHE_RX_PKTS (n : Nat) : Nat := 0x5200000 + 0x10000 * n + 0x18
def FHE_TX_PKTS (n : Nat) : Nat := 0x5200000 + 0x10000 * n + 0x1C
def FHE_RX_UNMATCHED (n : Nat) : Nat := 0x5200000 + 0x10000 * n + 0x20
def FHE_RX_NOBUF (n : Nat) : Nat := 0x5200000 + 0x10000 * n + 0x24
def FHE_SH_RX_PKTS (n : Nat) : Nat := 0x5200000 + 0x10000 * n + 0x28
def FHE_SH_TX_PKTS (n : Nat) : Nat := 0x5200000 + 0x10000 * n + 0x2C
def FHE_SNAP_GEN (n : Nat) : Nat := 0x5200000 + 0x10000 * n + 0x30
def FHE_ST_DATA (n i : Nat) : Nat := 0x5200000 + 0x10000 * n + 0x40 + 4 * i
def FHE_TXR_BASE_LO (n i : Nat) : Nat := 0x5200000 + 0x10000 * n + 0x1000 + 128 * i
def FHE_TXR_BASE_HI (n i : Nat) : Nat := 0x5200000 + 0x10000 * n + 0x1004 + 128 * i
def FHE_TXR_CFG (n i : Nat) : Nat := 0x5200000 + 0x10000 * n + 0x1008 + 128 * i
def FHE_TXR_TAIL (n i : Nat) : Nat := 0x5200000 + 0x10000 * n + 0x100C + 128 * i
def FHE_TXR_HEAD (n i : Nat) : Nat := 0x5200000 + 0x10000 * n + 0x1010 + 128 * i
def FHE_TXR_HEADWB_LO (n i : Nat) : Nat := 0x5200000 + 0x10000 * n + 0x1014 + 128 * i
def FHE_TXR_HEADWB_HI (n i : Nat) : Nat := 0x5200000 + 0x10000 * n + 0x1018 + 128 * i
def FHE_TXR_STAT (n i : Nat) : Nat := 0x5200000 + 0x10000 * n + 0x101C + 128 * i
def FHE_RXR_BASE_LO (n i : Nat) : Nat := 0x5200000 + 0x10000 * n + 0x1020 + 128 * i
def FHE_RXR_BASE_HI (n i : Nat) : Nat := 0x5200000 + 0x10000 * n + 0x1024 + 128 * i
def FHE_RXR_CFG (n i : Nat) : Nat := 0x5200000 + 0x10000 * n + 0x1028 + 128 * i
def FHE_RXR_TAIL (n i : Nat) : Nat := 0x5200000 + 0x10000 * n + 0x102C + 128 * i
def FHE_RXR_HEAD (n i : Nat) : Nat := 0x5200000 + 0x10000 * n + 0x1030 + 128 * i
def FHE_RXR_HEADWB_LO (n i : Nat) : Nat := 0x5200000 + 0x10000 * n + 0x1034 + 128 * i
def FHE_RXR_HEADWB_HI (n i : Nat) : Nat := 0x5200000 + 0x10000 * n + 0x1038 + 128 * i
def FHE_RXR_STAT (n i : Nat) : Nat := 0x5200000 + 0x10000 * n + 0x103C + 128 * i
def FHE_RING_NOTIFY_CTL (n i : Nat) : Nat := 0x5200000 + 0x10000 * n + 0x1040 + 128 * i
def FHE_RING_NOTIFY_TGT (n i : Nat) : Nat := 0x5200000 + 0x10000 * n + 0x1044 + 128 * i
def FHE_WG_CFG (n i : Nat) : Nat := 0x5200000 + 0x10000 * n + 0x3000 + 32 * i
def FHE_WG_OPEN_OFS (n i : Nat) : Nat := 0x5200000 + 0x10000 * n + 0x3004 + 32 * i
def FHE_WG_LEN (n i : Nat) : Nat := 0x5200000 + 0x10000 * n + 0x3008 + 32 * i
def FHE_WG_WAKE_TGT (n i : Nat) : Nat := 0x5200000 + 0x10000 * n + 0x300C + 32 * i
def FHE_WG_STAT (n i : Nat) : Nat := 0x5200000 + 0x10000 * n + 0x3010 + 32 * i
def JES_ID (n : Nat) : Nat := 0x5300000 + 0x10000 * n + 0x0
def JES_STATUS (n : Nat) : Nat := 0x5300000 + 0x10000 * n + 0x4
def JES_TX_CFG0 (n i : Nat) : Nat := 0x5300000 + 0x10000 * n + 0x10 + 16 * i
def JES_TX_CFG1 (n i : Nat) : Nat := 0x5300000 + 0x10000 * n + 0x14 + 16 * i
def JES_TX_STAT (n i : Nat) : Nat := 0x5300000 + 0x10000 * n + 0x18 + 16 * i
def JES_TX_LAT (n i : Nat) : Nat := 0x5300000 + 0x10000 * n + 0x1C + 16 * i
def JES_RX_CFG0 (n i : Nat) : Nat := 0x5300000 + 0x10000 * n + 0x30 + 16 * i
def JES_RX_CFG1 (n i : Nat) : Nat := 0x5300000 + 0x10000 * n + 0x34 + 16 * i
def JES_RX_STAT (n i : Nat) : Nat := 0x5300000 + 0x10000 * n + 0x38 + 16 * i
def JES_RX_LAT (n i : Nat) : Nat := 0x5300000 + 0x10000 * n + 0x3C + 16 * i
def JES_SYSREF_CFG (n : Nat) : Nat := 0x5300000 + 0x10000 * n + 0x50
def JES_SYSREF_STAT (n : Nat) : Nat := 0x5300000 + 0x10000 * n + 0x54
def JES_SYSREF_TS (n : Nat) : Nat := 0x5300000 + 0x10000 * n + 0x58
def JES_START_TS (n : Nat) : Nat := 0x5300000 + 0x10000 * n + 0x5C
def JES_CRC_ERR (n : Nat) : Nat := 0x5300000 + 0x10000 * n + 0x60
def JES_SH_CRC_ERR (n : Nat) : Nat := 0x5300000 + 0x10000 * n + 0x64
def JES_SNAP_GEN (n : Nat) : Nat := 0x5300000 + 0x10000 * n + 0x68
def DFE_ID : Nat := 0x5400000 + 0x0
def DFE_LOAD : Nat := 0x5400000 + 0x4
def DFE_PATH_CTL (i : Nat) : Nat := 0x5400000 + 0x1000 + 64 * i
def DFE_PATH_HANDOVER_SEQ (i : Nat) : Nat := 0x5400000 + 0x1004 + 64 * i
def DFE_PATH_WR_IDX (i : Nat) : Nat := 0x5400000 + 0x1008 + 64 * i
def DFE_PATH_RD_IDX (i : Nat) : Nat := 0x5400000 + 0x100C + 64 * i
def DFE_PATH_PROD (i : Nat) : Nat := 0x5400000 + 0x1010 + 64 * i
def DFE_PATH_UNDERRUN (i : Nat) : Nat := 0x5400000 + 0x1014 + 64 * i
def DFE_PATH_SAT (i : Nat) : Nat := 0x5400000 + 0x1018 + 64 * i
def DFE_PATH_SH_NCO_LO (i : Nat) : Nat := 0x5400000 + 0x1020 + 64 * i
def DFE_PATH_SH_NCO_HI (i : Nat) : Nat := 0x5400000 + 0x1024 + 64 * i
def DFE_PATH_SH_GAIN (i : Nat) : Nat := 0x5400000 + 0x1028 + 64 * i
def DFE_STREAM_MASK_STAT (i : Nat) : Nat := 0x5400000 + 0x3000 + 16 * i
def DFE_STREAM_PEAKS (i : Nat) : Nat := 0x5400000 + 0x3004 + 16 * i
def DFE_STREAM_SKIPPED (i : Nat) : Nat := 0x5400000 + 0x3008 + 16 * i
def DFE_STREAM_PEAK_LIM (i : Nat) : Nat := 0x5400000 + 0x300C + 16 * i
def DFE_STREAM_SUMSAT (i : Nat) : Nat := 0x5400000 + 0x3800 + 4 * i
def DFE_PA_STAT (i : Nat) : Nat := 0x5400000 + 0x4000 + 16 * i
def DFE_PA_MUTES (i : Nat) : Nat := 0x5400000 + 0x4004 + 16 * i
def DFE_PA_OVERLAP (i : Nat) : Nat := 0x5400000 + 0x4008 + 16 * i
def YLK_ID (n : Nat) : Nat := 0x5500000 + 0x10000 * n + 0x0
def YLK_CFG (n : Nat) : Nat := 0x5500000 + 0x10000 * n + 0x4
def YLK_STATUS (n : Nat) : Nat := 0x5500000 + 0x10000 * n + 0x8
def YLK_PEER_UNIT_LO (n : Nat) : Nat := 0x5500000 + 0x10000 * n + 0xC
def YLK_PEER_UNIT_HI (n : Nat) : Nat := 0x5500000 + 0x10000 * n + 0x10
def YLK_DELAY (n : Nat) : Nat := 0x5500000 + 0x10000 * n + 0x14
def YLK_CAL_ASYM (n : Nat) : Nat := 0x5500000 + 0x10000 * n + 0x18
def YLK_SEQ (n : Nat) : Nat := 0x5500000 + 0x10000 * n + 0x1C
def YLK_OFFSET_LO (n i : Nat) : Nat := 0x5500000 + 0x10000 * n + 0x20 + 8 * i
def YLK_OFFSET_HI (n i : Nat) : Nat := 0x5500000 + 0x10000 * n + 0x24 + 8 * i
def YLK_CRC_ERR (n : Nat) : Nat := 0x5500000 + 0x10000 * n + 0x60
def YLK_RETRIES (n : Nat) : Nat := 0x5500000 + 0x10000 * n + 0x64
def YLK_SH_CRC_ERR (n : Nat) : Nat := 0x5500000 + 0x10000 * n + 0x68
def YLK_SH_RETRIES (n : Nat) : Nat := 0x5500000 + 0x10000 * n + 0x6C
def YLK_SNAP_GEN (n : Nat) : Nat := 0x5500000 + 0x10000 * n + 0x70
def YLK_FAB_STATUS (n : Nat) : Nat := 0x5500000 + 0x10000 * n + 0x100
def YLK_FAB_CFG (n : Nat) : Nat := 0x5500000 + 0x10000 * n + 0x104
def YLK_FABRIC_ID (n : Nat) : Nat := 0x5500000 + 0x10000 * n + 0x108
def YLK_PEER_W0 (n i : Nat) : Nat := 0x5500000 + 0x10000 * n + 0x1000 + 8 * i
def YLK_PEER_W1 (n i : Nat) : Nat := 0x5500000 + 0x10000 * n + 0x1004 + 8 * i
def PWM_ID : Nat := 0x6000000 + 0x0
def PWM_CFG : Nat := 0x6000000 + 0x4
def PWM_CHG_LO : Nat := 0x6000000 + 0x8
def PWM_CHG_HI : Nat := 0x6000000 + 0xC
def PWM_LOST_LO : Nat := 0x6000000 + 0x10
def PWM_LOST_HI : Nat := 0x6000000 + 0x14
def PWM_FORCED_LO : Nat := 0x6000000 + 0x18
def PWM_FORCED_HI : Nat := 0x6000000 + 0x1C
def PWM_SNAP_GEN : Nat := 0x6000000 + 0x20
def PWM_D_STATE (i : Nat) : Nat := 0x6000000 + 0x1000 + 64 * i
def PWM_D_VOTES (i : Nat) : Nat := 0x6000000 + 0x1004 + 64 * i
def PWM_D_TOL (i : Nat) : Nat := 0x6000000 + 0x1008 + 64 * i
def PWM_D_POLICY (i : Nat) : Nat := 0x6000000 + 0x100C + 64 * i
def PWM_D_WAKE0 (i : Nat) : Nat := 0x6000000 + 0x1010 + 64 * i
def PWM_D_WAKE1 (i : Nat) : Nat := 0x6000000 + 0x1014 + 64 * i
def PWM_D_WAKE2 (i : Nat) : Nat := 0x6000000 + 0x1018 + 64 * i
def PWM_D_WAKE3 (i : Nat) : Nat := 0x6000000 + 0x101C + 64 * i
def PWM_D_ENTRIES (i : Nat) : Nat := 0x6000000 + 0x1020 + 64 * i
def PWM_D_ABANDONED (i : Nat) : Nat := 0x6000000 + 0x1024 + 64 * i
def PWM_D_D0_US (i : Nat) : Nat := 0x6000000 + 0x1028 + 64 * i
def PWM_D_SH_ENTRIES (i : Nat) : Nat := 0x6000000 + 0x102C + 64 * i
def PWM_D_SH_ABANDONED (i : Nat) : Nat := 0x6000000 + 0x1030 + 64 * i
def PWM_D_SH_D0_US (i : Nat) : Nat := 0x6000000 + 0x1034 + 64 * i
def PWM_WIN_MASK_LO (i : Nat) : Nat := 0x6000000 + 0x2000 + 16 * i
def PWM_WIN_MASK_HI (i : Nat) : Nat := 0x6000000 + 0x2004 + 16 * i
def PWM_WIN_CFG (i : Nat) : Nat := 0x6000000 + 0x2008 + 16 * i
def PWM_WIN_DURATION (i : Nat) : Nat := 0x6000000 + 0x200C + 16 * i
def CLK_ID : Nat := 0x6100000 + 0x0
def CLK_CD_STAT (i : Nat) : Nat := 0x6100000 + 0x100 + 4 * i
def CLK_PLL_STAT (i : Nat) : Nat := 0x6100000 + 0x300 + 4 * i
def AVL_ID : Nat := 0x6200000 + 0x0
def AVL_CFG : Nat := 0x6200000 + 0x4
def AVL_BOOT_STAT : Nat := 0x6200000 + 0x8
def AVL_FENCED_Q : Nat := 0x6200000 + 0xC
def AVL_FENCED_F : Nat := 0x6200000 + 0x10
def AVL_FENCED_P_LO : Nat := 0x6200000 + 0x14
def AVL_FENCED_P_HI : Nat := 0x6200000 + 0x18
def AVL_LOG_HEAD : Nat := 0x6200000 + 0x1C
def AVL_LOG_IDX : Nat := 0x6200000 + 0x20
def AVL_LOG_DATA0 : Nat := 0x6200000 + 0x24
def AVL_LOG_DATA1 : Nat := 0x6200000 + 0x28
def AVL_LOG_DATA2 : Nat := 0x6200000 + 0x2C
def AVL_LOG_DATA3 : Nat := 0x6200000 + 0x30
def AVL_NOTICES : Nat := 0x6200000 + 0x34
def AVL_SH_NOTICES : Nat := 0x6200000 + 0x38
def AVL_SNAP_GEN : Nat := 0x6200000 + 0x3C
def PNC_ID : Nat := 0x6300000 + 0x0
def PNC_CFG : Nat := 0x6300000 + 0x4
def PNC_ACTIVE_LO : Nat := 0x6300000 + 0x8
def PNC_ACTIVE_HI : Nat := 0x6300000 + 0xC
def PNC_WIN_LEN_US (i : Nat) : Nat := 0x6300000 + 0x40 + 4 * i
def PNC_DOM_STAT (i : Nat) : Nat := 0x6300000 + 0x1000 + 16 * i
def PNC_DOM_LAST_SEC (i : Nat) : Nat := 0x6300000 + 0x1004 + 16 * i
def PNC_DOM_PASSES (i : Nat) : Nat := 0x6300000 + 0x1008 + 16 * i
def PNC_DOM_FAILS (i : Nat) : Nat := 0x6300000 + 0x100C + 16 * i
def CAL_ID : Nat := 0x6400000 + 0x0
def CAL_STATUS : Nat := 0x6400000 + 0x4
def CAL_IDX : Nat := 0x6400000 + 0x8
def CAL_FACT : Nat := 0x6400000 + 0xC
def CAL_USER : Nat := 0x6400000 + 0x10
def CAL_EFF : Nat := 0x6400000 + 0x14
def CHP_ID : Nat := 0xF000000 + 0x0
def CHP_STATE : Nat := 0xF000000 + 0x4
def CHP_TAMPER : Nat := 0xF000000 + 0x8
def CHP_UNIT_LO : Nat := 0xF000000 + 0xC
def CHP_UNIT_HI : Nat := 0xF000000 + 0x10
def CHP_SELFTEST : Nat := 0xF000000 + 0x14
def CHP_ARB (i : Nat) : Nat := 0xF000000 + 0x100 + 4 * i
def CHP_MEAS_W (i j : Nat) : Nat := 0xF000000 + 0x200 + 64 * i + 4 * j
def PAL_ID : Nat := 0xF100000 + 0x0
def PAL_STATE : Nat := 0xF100000 + 0x4
def PAL_TRIAL_LEFT : Nat := 0xF100000 + 0x8
def PAL_LAST_RESULT : Nat := 0xF100000 + 0xC
def PAL_VERSION (i : Nat) : Nat := 0xF100000 + 0x10 + 4 * i
def PAL_FL_ADDR : Nat := 0xF100000 + 0x30
def PAL_FL_LEN : Nat := 0xF100000 + 0x34
def PAL_FL_BUF_LO : Nat := 0xF100000 + 0x38
def PAL_FL_BUF_HI : Nat := 0xF100000 + 0x3C
def PAL_FL_CMD : Nat := 0xF100000 + 0x40
def PAL_FL_STAT : Nat := 0xF100000 + 0x44
def SVC_ID : Nat := 0x5700000 + 0x0
def SVC_CFG : Nat := 0x5700000 + 0x4
def SVC_STATUS : Nat := 0x5700000 + 0x8
def SVC_MAC_LO : Nat := 0x5700000 + 0xC
def SVC_MAC_HI : Nat := 0x5700000 + 0x10
def SVC_BUF_BASE_LO : Nat := 0x5700000 + 0x14
def SVC_BUF_BASE_HI : Nat := 0x5700000 + 0x18
def SVC_BUF_SIZE : Nat := 0x5700000 + 0x1C
def SVC_RX_FRAMES : Nat := 0x5700000 + 0x20
def SVC_RX_DROP : Nat := 0x5700000 + 0x24
def SVC_AUTH_FAIL : Nat := 0x5700000 + 0x28
def PCI_ID : Nat := 0x5600000 + 0x0
def PCI_STATUS : Nat := 0x5600000 + 0x4
def PCI_LINK : Nat := 0x5600000 + 0x8
def PCI_FLRS : Nat := 0x5600000 + 0xC
def EVT_ID : Nat := 0x6500000 + 0x0
def EVT_CFG : Nat := 0x6500000 + 0x4
def EVT_STATUS : Nat := 0x6500000 + 0x8
def EVT_DROPS : Nat := 0x6500000 + 0xC
def EVT_SWSET : Nat := 0x6500000 + 0x10
def EVT_PEND (i : Nat) : Nat := 0x6500000 + 0x100 + 4 * i
def EVT_CORE_NEXT (i : Nat) : Nat := 0x6500000 + 0x200 + 4 * i
def EVT_ROUTE_W0 (i : Nat) : Nat := 0x6500000 + 0x1000 + 16 * i
def EVT_ROUTE_W1 (i : Nat) : Nat := 0x6500000 + 0x1004 + 16 * i
def EVT_ROUTE_W2 (i : Nat) : Nat := 0x6500000 + 0x1008 + 16 * i
def EVT_ROUTE_COUNT (i : Nat) : Nat := 0x6500000 + 0x100C + 16 * i
def BLT_ID (n : Nat) : Nat := 0x6600000 + 0x10000 * n + 0x0
def BLT_CFG (n : Nat) : Nat := 0x6600000 + 0x10000 * n + 0x4
def BLT_WPTR (n : Nat) : Nat := 0x6600000 + 0x10000 * n + 0x8
def BLT_RPTR (n : Nat) : Nat := 0x6600000 + 0x10000 * n + 0xC
def PWM_SENSOR (i : Nat) : Nat := 0x6000000 + 0x3000 + 4 * i
def PWM_THERM_CFG : Nat := 0x6000000 + 0x3040
def PWM_THERM_STAT : Nat := 0x6000000 + 0x3044
def PWM_EMERG_MASK_LO : Nat := 0x6000000 + 0x3048
def PWM_EMERG_MASK_HI : Nat := 0x6000000 + 0x304C

end Reg

end Sys2Proof.Machine
end

