-- ==== Sys2Proof/Machine/RegReset.lean ====
section
/-! DEFINITION. Which register a CSR address names (R18, R19) and what it reads after reset: the reset cell of its table,
or, where that cell says "per instance", "per unit" or "per domain", the value the chapter's field table gives. -/

namespace Sys2Proof.Machine

/-- The blocks of R18: first 64 KiB block number, how many, register table. -/
def blockTabs : List (Nat × Nat × List RegRow) := [
  (0x0, 1, RegTab.tVLM), (0x10, 17, RegTab.tCMD), (0x40, 8, RegTab.tTMB), (0x50, 1, RegTab.tRUL), (0x51, 1, RegTab.tTRG),
  (0x60, 1, RegTab.tORD), (0x70, 8, RegTab.tDUC), (0x100, 128, RegTab.tNIB), (0x180, 16, RegTab.tFER),
  (0x200, 16, RegTab.tPOOL), (0x210, 8, RegTab.tPOOL), (0x220, 4, RegTab.tPOOL), (0x230, 4, RegTab.tPOOL),
  (0x240, 8, RegTab.tPOOL), (0x250, 8, RegTab.tPOOL), (0x260, 1, RegTab.tHDY), (0x270, 8, RegTab.tPOOL),
  (0x280, 2, RegTab.tRAE), (0x300, 9, RegTab.tMEMC), (0x310, 2, RegTab.tMEMC), (0x320, 4, RegTab.tMEMC),
  (0x340, 48, RegTab.tNOC), (0x370, 1, RegTab.tNOCG), (0x400, 12, RegTab.tSCB), (0x500, 32, RegTab.tETH),
  (0x520, 2, RegTab.tFHE), (0x530, 4, RegTab.tJES), (0x540, 1, RegTab.tDFE), (0x550, 4, RegTab.tYLK),
  (0x560, 1, RegTab.tPCI), (0x570, 1, RegTab.tSVC), (0x600, 1, RegTab.tPWM), (0x610, 1, RegTab.tCLK),
  (0x620, 1, RegTab.tAVL), (0x630, 1, RegTab.tPNC), (0x640, 1, RegTab.tCAL), (0x650, 1, RegTab.tEVT),
  (0x660, 9, RegTab.tBLT), (0xF00, 1, RegTab.tCHP), (0xF10, 1, RegTab.tPAL)]

/-- The block a block number lies in: its first block number and its table. -/
def blockOf (blk : Nat) : Option (Nat × List RegRow) :=
  (blockTabs.find? fun t => t.1 ≤ blk && blk < t.1 + t.2.1).map fun t => (t.1, t.2.2)

/-- The indices under which a row covers an offset. -/
def RegRow.index (r : RegRow) (o : Nat) : Option (Nat × Nat × Nat) :=
  if o < r.off then none else
  let d := o - r.off
  let i := if r.n1 = 1 then 0 else d / r.s1
  let d1 := d - i * r.s1
  let j := if r.n2 = 1 then 0 else d1 / r.s2
  let d2 := d1 - j * r.s2
  let k := if r.n3 = 1 then 0 else d2 / r.s3
  if d2 = k * r.s3 && i < r.n1 && j < r.n2 && k < r.n3 then some (i, j, k) else none

/-- The register a CSR address names: its block's first number, its row and its indices. -/
def csrRow (a : Nat) : Option (Nat × RegRow × (Nat × Nat × Nat)) :=
  match blockOf (a / 0x10000) with
  | none => none
  | some (b0, t) =>
    (t.find? fun r => (r.index (a % 0x10000)).isSome).bind fun r =>
      (r.index (a % 0x10000)).map fun ix => (b0, r, ix)

/-- Quadrant, row and column of router site n (R391): eight columns by six rows, quadrants 4 columns by 3 rows. -/
def sitePos (n : Nat) : Nat × Nat × Nat := ((n / 8 / 3) * 2 + n % 8 / 4, n / 8, n % 8)

/-- True when site n has no neighbour in direction k (1 north, 2 east, 3 south, 4 west): the mesh edge. -/
def meshEdge (n k : Nat) : Bool :=
  (k == 1 && n / 8 == 0) || (k == 2 && n % 8 == 7) || (k == 3 && n / 8 == 5) || (k == 4 && n % 8 == 0)

/-- Reset value of the ID register of a block (field tables "per instance"). b0 is the block's first number, n the instance. -/
def idReset (b0 n dflt : Nat) : Nat :=
  match b0 with
  | 0x100 => 0x01080000 + n / 16 * 256 + n % 16
  | 0x180 => 0x01000000 + n / 2 * 256 + n % 2
  | 0x200 => 0x01000000 + n
  | 0x210 => 0x01100000 + n
  | 0x220 => 0x01200000 + n
  | 0x230 => 0x01300000 + n
  | 0x240 => 0x01400000 + n
  | 0x250 => 0x01500000 + n
  | 0x270 => 0x01600000 + n
  | 0x280 => 0x01700000 + n
  | 0x300 => if n = 8 then 0x01100008 else 0x01000000 + n
  | 0x310 => 0x01200000 + n
  | 0x320 => 0x01300000 + n
  | 0x340 => (sitePos n).1 * 256 + (sitePos n).2.1 * 16 + (sitePos n).2.2
  | 0x400 => if n < 8 then 0x01000010 else 0x01100020
  | 0x500 => 0x01000000 + n
  | 0x520 => 0x01000000 + n
  | 0x530 => 0x01000000 + n
  | 0x550 => 0x01000000 + n
  | 0x660 => 0x01000000 + n
  | _ => dflt

/-- Source and frequency (MHz, rounded down) of a clock domain, from the table of clock domains of chapter 16. -/
def clockSrc (c : Nat) : Nat × Nat :=
  if c < 8 then (0, 1600) else if c < 16 then (1, 1200) else if c < 34 then (2, 1000) else if c < 36 then (1, 1200)
  else if c < 40 then (2, 1000) else if c < 44 then (3, 2000) else if c < 46 then (2, 1000) else if c < 48 then (5, 1200)
  else if c < 52 then (6, 1100) else if c < 60 then (9, 1328) else if c < 62 then (2, 1000) else if c < 66 then (9, 1328)
  else if c < 70 then (8, 507) else if c = 70 then (8, 983) else if c = 71 then (7, 1000) else if c = 72 then (7, 2000)
  else if c = 73 then (3, 2000) else if c = 74 then (2, 1000) else if c = 75 then (12, 500) else if c < 82 then (2, 1000)
  else if c = 82 then (4, 1000) else if c < 85 then (10, 161) else if c < 87 then (2, 1000) else if c = 87 then (4, 500)
  else if c = 88 then (4, 200) else if c = 89 then (4, 125) else if c = 90 then (4, 200) else if c < 93 then (4, 100)
  else if c = 93 then (1, 1200) else if c < 96 then (2, 1000) else if c = 96 then (13, 50) else if c < 99 then (11, 0)
  else (4, 200)

/-- Reset value of a register: block's first number, instance, row, indices. -/
def rowReset (b0 n : Nat) (r : RegRow) (ix : Nat × Nat × Nat) : W32 :=
  if r.name = "ID" then w32 (idReset b0 n r.rst)
  else if b0 = 0x550 && n ≠ 0 && 0x100 ≤ r.off then 0
  else if b0 = 0x10 && r.name = "INFO" then w32 (0x4000 + n)
  else if b0 = 0x300 && r.name = "SCRUB_CFG" then w32 0x80000E10
  else if (b0 = 0x310 || b0 = 0x320) && r.name = "SCRUB_CFG" then w32 0x80015180
  else if b0 = 0x340 && r.name = "LINK_STAT" then w32 (if meshEdge n (ix.1 + 1) then 0xC0000000 else 0)
  else if b0 = 0x600 && r.name = "D_STATE" then w32 3
  else if b0 = 0x610 && r.name = "CD_STAT" then w32 (2 ^ 27 * (clockSrc ix.1).1 + (clockSrc ix.1).2)
  else if b0 = 0x640 && (r.name = "FACT" || r.name = "EFF") then Config.calFactory 0 0
  else if b0 = 0xF00 && r.name = "UNIT_LO" then Config.unitNumber.truncate 32
  else if b0 = 0xF00 && r.name = "UNIT_HI" then (Config.unitNumber >>> 32).truncate 32
  else if b0 = 0xF00 && r.name = "ARB" then Config.arbFuse ix.1
  else if b0 = 0xF00 && r.name = "STATE" then w32 (2 ^ 24 * (Config.epochFuse % 17))
  else if b0 = 0x570 && r.name = "MAC_LO" then Config.serviceMac.truncate 32
  else if b0 = 0x570 && r.name = "MAC_HI" then (Config.serviceMac >>> 32).truncate 32
  else if b0 = 0x500 && (r.name = "TS_TX_FACT" || r.name = "TS_TX_EFF") then Config.calFactory 1 n
  else if b0 = 0x500 && (r.name = "TS_RX_FACT" || r.name = "TS_RX_EFF") then Config.calFactory 2 n
  else if b0 = 0x550 && r.name = "FAB_STATUS" then w32 (r.rst + Config.fabProtoVer % 256 * 256)
  else w32 r.rst

/-- What a CSR address reads after reset; an address that names no register reads zero (R19). -/
def csrReset (a : Nat) : W32 :=
  match csrRow a with
  | none => 0
  | some (b0, r, ix) => rowReset b0 (a / 0x10000 - b0) r ix

end Sys2Proof.Machine
end

