-- ==== Sys2Proof/Machine/NibIns.lean ====
section
/-! DEFINITION. The instructions of a Nib as they wait in the bundle that issues (R195): the Nib rows of the command table without
the place of the instruction. -/

namespace Sys2Proof.Machine

/-- A Nib instruction in its bundle. -/
inductive NibIns where
  | add (rd ra rb : BitVec 5)
  | sub (rd ra rb : BitVec 5)
  | and (rd ra rb : BitVec 5)
  | or (rd ra rb : BitVec 5)
  | xor (rd ra rb : BitVec 5)
  | sll (rd ra rb : BitVec 5)
  | srl (rd ra rb : BitVec 5)
  | sra (rd ra rb : BitVec 5)
  | slt (rd ra rb : BitVec 5)
  | sltu (rd ra rb : BitVec 5)
  | min (rd ra rb : BitVec 5)
  | max (rd ra rb : BitVec 5)
  | minu (rd ra rb : BitVec 5)
  | maxu (rd ra rb : BitVec 5)
  | addw (rd ra rb : BitVec 5)
  | subw (rd ra rb : BitVec 5)
  | addsw (rd ra rb : BitVec 5)
  | subsw (rd ra rb : BitVec 5)
  | mul (rd ra rb : BitVec 5)
  | mulh (rd ra rb : BitVec 5)
  | mulhu (rd ra rb : BitVec 5)
  | mulw (rd ra rb : BitVec 5)
  | clz (rd ra : BitVec 5)
  | popc (rd ra : BitVec 5)
  | addi (rd ra : BitVec 5) (imm : BitVec 12)
  | andi (rd ra : BitVec 5) (imm : BitVec 12)
  | ori (rd ra : BitVec 5) (imm : BitVec 12)
  | xori (rd ra : BitVec 5) (imm : BitVec 12)
  | slli (rd ra : BitVec 5) (imm : BitVec 12)
  | srli (rd ra : BitVec 5) (imm : BitVec 12)
  | srai (rd ra : BitVec 5) (imm : BitVec 12)
  | slti (rd ra : BitVec 5) (imm : BitVec 12)
  | jalr (rd ra : BitVec 5) (imm : BitVec 12)
  | lb (rd ra : BitVec 5) (imm : BitVec 12)
  | lh (rd ra : BitVec 5) (imm : BitVec 12)
  | lw (rd ra : BitVec 5) (imm : BitVec 12)
  | ld (rd ra : BitVec 5) (imm : BitVec 12)
  | lbu (rd ra : BitVec 5) (imm : BitVec 12)
  | lhu (rd ra : BitVec 5) (imm : BitVec 12)
  | lwu (rd ra : BitVec 5) (imm : BitVec 12)
  | lui (rd : BitVec 5) (imm : BitVec 20)
  | addpc (rd : BitVec 5) (imm : BitVec 20)
  | extu (rd ra : BitVec 5) (pos wid : BitVec 6)
  | exts (rd ra : BitVec 5) (pos wid : BitVec 6)
  | ins (rd ra : BitVec 5) (pos wid : BitVec 6)
  | sel (rd ra rb rc : BitVec 5)
  | beq (ra rb : BitVec 5) (off : BitVec 12)
  | bne (ra rb : BitVec 5) (off : BitVec 12)
  | blt (ra rb : BitVec 5) (off : BitVec 12)
  | bge (ra rb : BitVec 5) (off : BitVec 12)
  | bltu (ra rb : BitVec 5) (off : BitVec 12)
  | bgeu (ra rb : BitVec 5) (off : BitVec 12)
  | jal (rd : BitVec 5) (off : BitVec 20)
  | mfsr (rd : BitVec 5) (num : BitVec 12)
  | mtsr (ra : BitVec 5) (num : BitVec 12)
  | mftb (rd : BitVec 5) (num : BitVec 12)
  | mttb (ra : BitVec 5) (num : BitVec 12)
  | trap (imm : BitVec 12)
  | rfe
  | wait
  | bkpt
  | icinvAll
  | dflushAll
  | dclean (ra : BitVec 5) (imm : BitVec 12)
  | dinv (ra : BitVec 5) (imm : BitVec 12)
  | dflush (ra : BitVec 5) (imm : BitVec 12)
  | dpref (ra : BitVec 5) (imm : BitVec 12)
  | icinv (ra : BitVec 5) (imm : BitVec 12)
  | sb (rs ra : BitVec 5) (imm : BitVec 12)
  | sh (rs ra : BitVec 5) (imm : BitVec 12)
  | sw (rs ra : BitVec 5) (imm : BitVec 12)
  | sd (rs ra : BitVec 5) (imm : BitVec 12)
  | ldc (rd : BitVec 5) (cb : BitVec 3) (size : BitVec 2) (sgn incsel : Bool) (inc : BitVec 13)
  | stc (rs : BitVec 5) (cb : BitVec 3) (size : BitVec 2) (incsel : Bool) (inc : BitVec 13)
  | amoaddW (rd ra rb : BitVec 5)
  | amoaddD (rd ra rb : BitVec 5)
  | amoswapW (rd ra rb : BitVec 5)
  | amoswapD (rd ra rb : BitVec 5)
  | amocasW (rd ra rb : BitVec 5)
  | amocasD (rd ra rb : BitVec 5)
  | amoandD (rd ra rb : BitVec 5)
  | amoorD (rd ra rb : BitVec 5)
  | nibFence (kind : BitVec 2)
  | illegalEncoding
  | vspan (rd rs : BitVec 5) (etype : BitVec 3) (lig : BitVec 2)
  | vcapi (rd : BitVec 5) (etype : BitVec 3) (lig : BitVec 2)
  | vctl (bits : BitVec 9)
  | vadd (vd a : BitVec 5) (b : VSrc) (pg : BitVec 3)
  | vsub (vd a : BitVec 5) (b : VSrc) (pg : BitVec 3)
  | vand (vd a : BitVec 5) (b : VSrc) (pg : BitVec 3)
  | vor (vd a : BitVec 5) (b : VSrc) (pg : BitVec 3)
  | vxor (vd a : BitVec 5) (b : VSrc) (pg : BitVec 3)
  | vmin (vd a : BitVec 5) (b : VSrc) (pg : BitVec 3)
  | vmax (vd a : BitVec 5) (b : VSrc) (pg : BitVec 3)
  | vminu (vd a : BitVec 5) (b : VSrc) (pg : BitVec 3)
  | vmaxu (vd a : BitVec 5) (b : VSrc) (pg : BitVec 3)
  | vsll (vd a : BitVec 5) (b : VSrc) (pg : BitVec 3)
  | vsrl (vd a : BitVec 5) (b : VSrc) (pg : BitVec 3)
  | vsra (vd a : BitVec 5) (b : VSrc) (pg : BitVec 3)
  | vmul (vd a : BitVec 5) (b : VSrc) (pg : BitVec 3)
  | vmulh (vd a : BitVec 5) (b : VSrc) (pg : BitVec 3)
  | vmulhu (vd a : BitVec 5) (b : VSrc) (pg : BitVec 3)
  | vmerge (vd a : BitVec 5) (b : VSrc) (pg : BitVec 3)
  | vsadd (vd a : BitVec 5) (b : VSrc) (pg : BitVec 3)
  | vssub (vd a : BitVec 5) (b : VSrc) (pg : BitVec 3)
  | vsaddu (vd a : BitVec 5) (b : VSrc) (pg : BitVec 3)
  | vssubu (vd a : BitVec 5) (b : VSrc) (pg : BitVec 3)
  | vavg (vd a : BitVec 5) (b : VSrc) (pg : BitVec 3)
  | vmulq (vd a : BitVec 5) (b : VSrc) (pg : BitVec 3)
  | vssll (vd a : BitVec 5) (b : VSrc) (pg : BitVec 3)
  | vsrar (vd a : BitVec 5) (b : VSrc) (pg : BitVec 3)
  | vcmul (vd a : BitVec 5) (b : VSrc) (pg : BitVec 3)
  | vcmulj (vd a : BitVec 5) (b : VSrc) (pg : BitVec 3)
  | vwadd (vd a : BitVec 5) (b : VSrc) (pg : BitVec 3)
  | vwsub (vd a : BitVec 5) (b : VSrc) (pg : BitVec 3)
  | vwmul (vd a : BitVec 5) (b : VSrc) (pg : BitVec 3)
  | vwmulu (vd a : BitVec 5) (b : VSrc) (pg : BitVec 3)
  | vwcmul (vd a : BitVec 5) (b : VSrc) (pg : BitVec 3)
  | vnsra (vd a : BitVec 5) (b : VSrc) (pg : BitVec 3)
  | vnclip (vd a : BitVec 5) (b : VSrc) (pg : BitVec 3)
  | vnclipu (vd a : BitVec 5) (b : VSrc) (pg : BitVec 3)
  | vmv (vd : BitVec 5) (b : VSrc) (pg : BitVec 3)
  | vsabs (vd a : BitVec 5) (pg : BitVec 3)
  | vsneg (vd a : BitVec 5) (pg : BitVec 3)
  | vconj (vd a : BitVec 5) (pg : BitVec 3)
  | vsext (vd a : BitVec 5) (pg : BitVec 3)
  | vzext (vd a : BitVec 5) (pg : BitVec 3)
  | vswapiq (vd a : BitVec 5) (pg : BitVec 3)
  | vcls (vd a : BitVec 5) (pg : BitVec 3)
  | vnorm (vd a : BitVec 5) (pg : BitVec 3)
  | vbexp (vd a : BitVec 5) (pg : BitVec 3)
  | vbunpk (vd a : BitVec 5) (pg : BitVec 3)
  | vfabs (vd a : BitVec 5) (pg : BitVec 3)
  | vfneg (vd a : BitVec 5) (pg : BitVec 3)
  | vcvtif (vd a : BitVec 5) (pg : BitVec 3)
  | vcvtfi (vd a : BitVec 5) (pg : BitVec 3)
  | vcvtfb (vd a : BitVec 5) (pg : BitVec 3)
  | vcvtbf (vd a : BitVec 5) (pg : BitVec 3)
  | vmac (acc : BitVec 2) (a : BitVec 5) (b : VSrc) (pg : BitVec 3)
  | vmsu (acc : BitVec 2) (a : BitVec 5) (b : VSrc) (pg : BitVec 3)
  | vmacz (acc : BitVec 2) (a : BitVec 5) (b : VSrc) (pg : BitVec 3)
  | vcmac (acc : BitVec 2) (a : BitVec 5) (b : VSrc) (pg : BitVec 3)
  | vcmacj (acc : BitVec 2) (a : BitVec 5) (b : VSrc) (pg : BitVec 3)
  | vcmacz (acc : BitVec 2) (a : BitVec 5) (b : VSrc) (pg : BitVec 3)
  | vcmsu (acc : BitVec 2) (a : BitVec 5) (b : VSrc) (pg : BitVec 3)
  | vaext (vd : BitVec 5) (acc : BitVec 2) (sh : BitVec 5) (pg : BitVec 3)
  | vamov (v : BitVec 5) (acc : BitVec 2) (sh : BitVec 5) (pg : BitVec 3)
  | vaclr (acc : BitVec 2)
  | vaclrf (acc : BitVec 2)
  | vcmpeq (pd : BitVec 3) (a : BitVec 5) (b : VSrc) (pg : BitVec 3)
  | vcmpne (pd : BitVec 3) (a : BitVec 5) (b : VSrc) (pg : BitVec 3)
  | vcmplt (pd : BitVec 3) (a : BitVec 5) (b : VSrc) (pg : BitVec 3)
  | vcmple (pd : BitVec 3) (a : BitVec 5) (b : VSrc) (pg : BitVec 3)
  | vcmpltu (pd : BitVec 3) (a : BitVec 5) (b : VSrc) (pg : BitVec 3)
  | vcmpleu (pd : BitVec 3) (a : BitVec 5) (b : VSrc) (pg : BitVec 3)
  | vcmpgt (pd : BitVec 3) (a : BitVec 5) (b : VSrc) (pg : BitVec 3)
  | vcmpge (pd : BitVec 3) (a : BitVec 5) (b : VSrc) (pg : BitVec 3)
  | pand (pd ps1 ps2 pg : BitVec 3)
  | por (pd ps1 ps2 pg : BitVec 3)
  | pxor (pd ps1 ps2 pg : BitVec 3)
  | pandn (pd ps1 ps2 pg : BitVec 3)
  | pffget (pd pg : BitVec 3)
  | pwhile (pd : BitVec 3) (rs : BitVec 5) (pg : BitVec 3)
  | pcnt (rd : BitVec 5) (ps1 pg : BitVec 3)
  | pfirst (rd : BitVec 5) (ps1 pg : BitVec 3)
  | pfflen (rd : BitVec 5)
  | pffput (ps1 : BitVec 3)
  | vbcast (vd rs : BitVec 5) (pg : BitVec 3)
  | vslidedn (vd a rs : BitVec 5) (pg : BitVec 3)
  | vslideup (vd a rs : BitVec 5) (pg : BitVec 3)
  | vmvxs (rd a : BitVec 5)
  | vmvsx (vd rs : BitVec 5) (pg : BitVec 3)
  | vperm (vd a b : BitVec 5) (pg : BitVec 3)
  | vrsum (rd a : BitVec 5) (pg : BitVec 3)
  | vrmax (rd a : BitVec 5) (pg : BitVec 3)
  | vrmin (rd a : BitVec 5) (pg : BitVec 3)
  | vrmaxabs (rd a : BitVec 5) (pg : BitVec 3)
  | vrmincls (rd a : BitVec 5) (pg : BitVec 3)
  | vbscl (vd a b : BitVec 5) (pg : BitVec 3)
  | vbpack (vd a b : BitVec 5) (pg : BitVec 3)
  | vfadd (vd a b : BitVec 5) (pg : BitVec 3)
  | vfsub (vd a b : BitVec 5) (pg : BitVec 3)
  | vfmul (vd a b : BitVec 5) (pg : BitVec 3)
  | vfma (vd a b : BitVec 5) (pg : BitVec 3)
  | vfmin (vd a b : BitVec 5) (pg : BitVec 3)
  | vfmax (vd a b : BitVec 5) (pg : BitVec 3)
  | vfcmplt (pd : BitVec 3) (a b : BitVec 5) (pg : BitVec 3)
  | vfcmpeq (pd : BitVec 3) (a b : BitVec 5) (pg : BitVec 3)
  | vld (ff pi : Bool) (vd ra : BitVec 5) (pg : BitVec 3)
  | vlds (ff : Bool) (vd ra rb : BitVec 5) (pg : BitVec 3)
  | vldg (ff : Bool) (scale : BitVec 2) (vd ra b : BitVec 5) (pg : BitVec 3)
  | vst (pi : Bool) (vs ra : BitVec 5) (pg : BitVec 3)
  | vsts (vs ra rb : BitVec 5) (pg : BitVec 3)
  | vstg (scale : BitVec 2) (vs ra b : BitVec 5) (pg : BitVec 3)
  | vldr (vd ra : BitVec 5) (pg : BitVec 3)
  | vstr (vs ra : BitVec 5) (pg : BitVec 3)
  | vldrp (p ra : BitVec 5) (pg : BitVec 3)
  | vstrp (p ra : BitVec 5) (pg : BitVec 3)
  | vldra (acc ra : BitVec 5) (pg : BitVec 3)
  | vstra (acc ra : BitVec 5) (pg : BitVec 3)
  | flock (f : FFmt)
  | flocknb (f : FFmt)
  | funlock (f : FFmt)
  | fwait (f : FFmt)
  | fget (f : FFmt)
  | fsave (f : FFmt)
  | frestore (f : FFmt)
  | fmul (f : FFmt)
  | fherm (f : FFmt)
  | fchol (f : FFmt)
  | ftrsm (f : FFmt)
  | fqr (f : FFmt)
  | finv (f : FFmt)
  | feig (f : FFmt)
deriving DecidableEq, Repr

end Sys2Proof.Machine
end

