-- ==== Sys2Proof/Machine/Types.lean ====
section
/-! DEFINITION. The parts of the state that the manual's rules describe and no register shows: plain data. -/

namespace Sys2Proof.Machine

/-- One Vellum record as it stands in the byte string, header included (R34). -/
structure VRec where
  typ : Nat
  realm : Nat
  rflags : Nat
  bytes : List Byte
deriving DecidableEq, Repr

/-- A staged partial Vellum of a realm (R72): its byte string. -/
structure Staged where
  serial : Nat
  bytes : List Byte
deriving DecidableEq, Repr

/-- A command that has been accepted and has not yet written its slot (R70). -/
structure RunCmd where
  op : Nat
  d : Desc
deriving DecidableEq, Repr

/-- An accepted REALM_APPLY (R58, R62): its realm and slot; once it is the one that runs, started with the Vellum's records and
SERIAL. -/
structure ApplyReq where
  realm : Nat
  slot : SlotId
  started : Bool
  recs : List VRec
  serial : Nat
deriving DecidableEq, Repr

/-- The Vellum's own state: the records in force, the staged Vellums by realm, the applies in order of acceptance, the
commands running by slot (ring * 64 + slot), the expert-lock requests accepted and not yet set (R76), and by realm the REALM_STOP that runs:
its slot, the Folios it aborted, CNT_DONE then (R57); lockOf names the realm of each expert lock that a realm holds. -/
structure VlmState where
  live : List VRec
  staged : List (Nat × Option Staged)
  applies : List ApplyReq
  cmds : List (Nat × Option RunCmd)
  lockReqs : List (Nat × Option RunCmd)
  stops : List (Nat × Option (SlotId × (Nat × Nat)))
  lockOf : List (Nat × Nat)
deriving DecidableEq, Repr

/-- A requested step of a time base (R84): the signed quantity in 2^-48 ns, and the slot TB_STEP waits on. -/
structure StepReq where
  delta : Int
  slot : Option SlotId
deriving DecidableEq, Repr

/-- What a grid holds beside its registers: the record body that configured it (R90) and, after a hand-over, the offset
that the frames before the first re-timed frame keep (R94). Offsets in 2^-16 ns. -/
structure GridSt where
  body : List Byte
  prevOff : Int
  since : Int
deriving DecidableEq, Repr

/-- The next occurrence of a trigger channel: its index in units of PUNIT (R96) and its instant in 2^-16 ns. -/
structure Occ where
  idx : Int
  inst : Int
deriving DecidableEq, Repr

/-- A trigger channel beside its registers (R95, R102): its owner (a realm, or 16 for the device) and its next occurrence. -/
structure Trig where
  owner : Nat
  next : Option Occ
deriving DecidableEq, Repr

/-- A channel that nobody owns. -/
def Trig.init : Trig := { owner := 16, next := none }

/-- A grid that nothing has configured. -/
def GridSt.init : GridSt := { body := [], prevOff := 0, since := 0 }

/-- One TIME_IN capture (R106): time base, seconds, nanoseconds, fraction in 2^-16 ns, capture number. -/
structure Capture where
  tb : Nat
  sec : Nat
  ns : Nat
  frac : Nat
  seq : Nat
deriving DecidableEq, Repr

/-- The Ruling's state beside its registers. Time-base counts and frequency corrections by time base (counts in
2^-48 ns), requested steps, grids, trigger channels, TIME_IN queues (oldest first) and their capture numbers, the
TIME_OUT pulses asserted, the time of the last snapshot (in TB0's count) and the snapshots asked for by SNAP_REQUEST. -/
structure TimeState where
  count : List (Nat × Nat)
  freq : List (Nat × Int)
  steps : List (Nat × Option StepReq)
  grids : List (Nat × GridSt)
  trigs : List (Nat × Trig)
  caps : List (Nat × List Capture)
  capSeq : List (Nat × Nat)
  pulse : List (Nat × Bool)
  lastSnap : Option Nat
  snapReq : List (Nat × SlotId)
deriving DecidableEq, Repr

/-- A change that waits for its journal write (R171, R184): an operation code of R181 with its operands, or one of the
model's numbers for a change a command or the event router asks for. port is the Nib whose service it is, slot the
command's result slot. -/
structure JReq where
  op : Nat
  tid : Nat
  port : Option Nat
  slot : Option SlotId
  a : Nat
  b : Nat
  c : Nat
deriving DecidableEq, Repr

/-- A thread that leaves its Nib at that Nib's next NEXT read (R164): suspended (cause 9) or freed (R187 cause), and the
slot of the command that waits for it (R188). -/
structure Leave where
  tid : Nat
  cause : Nat
  status : Nat
  slot : Option SlotId
deriving DecidableEq, Repr

/-- A Ductus beside its registers: the ready list (by priority, then order), the waiting threads in the order their waits
began, the thread each Nib runs (TID + 1, 0 none), the threads about to leave, the ports with a request outstanding, the
journal sequence number, the changes waiting for their journal write, the Nib cycle count at each dispatch, the cycles
each thread has run and the time each READY thread became READY; held is the thread (TID + 1) that left a Nib by a service
and whose context that Nib has not yet saved: it ends with the Nib's next NEXT read. -/
structure DucSt where
  ready : List Nat
  waiting : List Nat
  run : List (Nat × Nat)
  leaving : List Leave
  busy : List Nat
  jseq : Nat
  jq : List JReq
  since : List (Nat × Nat)
  cycles : List (Nat × Nat)
  readyAt : List (Nat × Nat)
  held : List (Nat × Nat)
deriving DecidableEq, Repr

/-- A Ductus after reset. -/
def DucSt.init : DucSt :=
  { ready := [], waiting := [], run := [], leaving := [], busy := [], jseq := 0, jq := [], since := [], cycles := [],
    readyAt := [], held := [] }

/-- The response of the last register or memory access of the queue's sender: its status code (R31) and its data. -/
structure Resp where
  status : Nat
  data : Nat
deriving DecidableEq, Repr

/-- A booking on a unit's timeline (R135). kind 0 the Nibs a realm owns in a Quire (unit 16 * Quire + realm), 1 a Ferrule
(2 * Quire + Ferrule), 2 a pool instance (serial j, RA engine e as 56 + e), 3 a Chancery engine; n Nibs (1 for other
kinds) of task `task` of Folio (realm, inst), from lo to hi in nanoseconds of TB0. -/
structure UBook where
  kind : Nat
  unit : Nat
  n : Nat
  realm : Nat
  inst : Nat
  task : Nat
  lo : Int
  hi : Int
deriving DecidableEq, Repr

/-- Space booked for a Folio (R134, R138): obj is the object's index, 64 for the control block. Times as in `UBook`. -/
structure MBook where
  addr : Nat
  size : Nat
  realm : Nat
  inst : Nat
  obj : Nat
  lo : Int
  hi : Int
deriving DecidableEq, Repr

/-- A soft buffer of the HARQ Directory (R342): tier 0 HBM, 1 DDR; the entry that holds it. -/
structure HBuf where
  addr : Nat
  size : Nat
  realm : Nat
  tier : Nat
  ent : Nat
deriving DecidableEq, Repr

/-- One task of a Folio instance: CLASS, unit as R134 shows it, WIDTH, COST, predicted start and end in nanoseconds of the
Folio's time base, REASON of R156, and what has become of it. left counts threads that have not exited; peer is the
device it went to. -/
structure FTask where
  cls : Nat
  unit : Nat
  width : Nat
  cost : Nat
  start : Int
  fin : Int
  reason : Nat
  going : Bool
  ended : Bool
  status : Nat
  left : Nat
  replaced : Bool
  skipped : Bool
  peer : Option Nat
deriving DecidableEq, Repr

/-- One object of a Folio instance: address (global when EXTERNAL), size, tier as TIER_PREF numbers it, REASON. -/
structure FObj where
  addr : Nat
  size : Nat
  tier : Nat
  ext : Bool
  reason : Nat
deriving DecidableEq, Repr

/-- A Folio instance that is outstanding (R132). state 0 QUEUED, 1 PLACED, 2 RELEASED, 3 DRAINING. target, release and
deadline are nanoseconds of time base tb. harq lists the Directory entries it staged; errTask is 255 for none. -/
structure Folio where
  realm : Nat
  inst : Nat
  tmpl : VRec
  policy : Nat
  tag : Nat
  seq : Nat
  targetWord : Nat
  slot : SlotId
  tb : Nat
  target : Int
  release : Int
  deadline : Int
  pblk : Nat
  plen : Nat
  prio : Nat
  state : Nat
  tasks : List FTask
  objs : List FObj
  cb : Nat
  harq : List Nat
  errTask : Nat
  errStatus : Nat
  degraded : Bool
  replaced : Bool
  due : Bool
deriving DecidableEq, Repr

/-- A pin that ORD_PIN replaced (R143). -/
structure Pin where
  realm : Nat
  tmpl : Nat
  task : Nat
  pin : Nat
  unit : Nat
deriving DecidableEq, Repr

/-- A decision that waits for a peer's answer (R139, R504): the Folio, the task offered, the peer asked and those still to
ask, and what is settled: a task with the peer that took it and the end it promised, or none where no peer did. -/
structure Offer where
  realm : Nat
  inst : Nat
  task : Nat
  peer : Nat
  rest : List Nat
  settled : List (Nat × Option (Nat × Int))
deriving DecidableEq, Repr

/-- A demotion in progress (R146): Directory entry, Chancery engine and channel that copies. -/
structure Demotion where
  ent : Nat
  realm : Nat
  engine : Nat
  chan : Nat
deriving DecidableEq, Repr

/-- A fault notice whose re-placement is still to run (R148 to R151): unit kind and number as R156 FENCE shows them, its
event number, the time of the notice on TB0, and its record in the fault log. -/
structure Notice where
  kind : Nat
  unit : Nat
  event : Nat
  at_ : Nat
  logRec : Nat
deriving DecidableEq, Repr

/-- The Ordinator and the HARQ Directory beside their registers. folios is in order of acceptance; nextInst, cqPhase (times
round the completion queue) and demoting are by realm; hrec and hent hold the words of Directory records and entries,
fresh the entries granted FRESH; answer is the last answer given to a peer's offer (peer, accepted). -/
structure OrdState where
  folios : List Folio
  nextInst : List (Nat × Nat)
  books : List UBook
  mems : List MBook
  pins : List Pin
  fenced : List (Nat × Nat)
  notices : List Notice
  offer : Option Offer
  answer : Option (Nat × Bool)
  cqPhase : List (Nat × Nat)
  demos : List Demotion
  demoting : List Nat
  hrec : List (Nat × List W32)
  hent : List (Nat × List W32)
  hbuf : List HBuf
  fresh : List Nat
deriving DecidableEq, Repr

/-- The Ordinator after reset: nothing outstanding, nothing booked, an empty Directory. -/
def OrdState.init : OrdState :=
  { folios := [], nextInst := [], books := [], mems := [], pins := [], fenced := [], notices := [], offer := none,
    answer := none, cqPhase := [], demos := [], demoting := [], hrec := [], hent := [], hbuf := [], fresh := [] }

/-- A descriptor that an engine has started and not completed: how it will end, its DETAIL and RESULT, the bytes it will
have written (by local address), its work cycles, and the Folio it belongs to (realm, instance). -/
structure PoolJob where
  job : Job
  status : Nat
  detail : Nat
  result : Nat
  writes : List (Nat × List Byte)
  work : Nat
  folio : Option (Nat × Nat)
  dets : List RaDet
deriving DecidableEq, Repr

/-- A Ferrule command that has committed and not ended (R295, R296): MAJOR and FUNC, MOD, TAG, the values of s[rd], s[ra]
and s[rb] (whether rb named s0), the configuration words it took, the realm of its issuer, and the destination regions
tracked for it (first byte, length). -/
structure FerCmd where
  major : Nat
  func : Nat
  md : Nat
  tag : Nat
  d : Nat
  a : Nat
  b : Nat
  noB : Bool
  cfg : List Nat
  realm : Nat
  regions : List (Nat × Nat)
deriving DecidableEq, Repr

/-- A Ferrule beside its registers: its scalar result queue, oldest first (R298), its outstanding commands in commit order,
the last status of each tag, the configuration words FCFG (R302), and EMPTY of FSTAT. -/
structure FerSt where
  queue : List Nat
  cmds : List FerCmd
  last : List (Nat × Nat)
  cfg : List (Nat × Nat)
  empty : Bool
deriving DecidableEq, Repr

/-- A Ferrule after reset. -/
def FerSt.init : FerSt := { queue := [], cmds := [], last := [], cfg := [], empty := false }

/-- A result in flight (R199, R200): the issue cycle in which it lands, its register, its value, and whether the shadow
bank's context issued it. -/
structure Land where
  due : Nat
  dst : Nat
  val : Nat
  shadow : Bool
deriving DecidableEq, Repr

/-- A line of L1D (R205): whether it is dirty; if so, the bytes memory would hold without it and the bytes the Nib left. -/
structure L1Line where
  dirty : Bool
  behind : List Byte
  cur : List Byte
deriving DecidableEq, Repr

/-- A Nib beside its registers of R229. reg lists, as numbers: s0 to s31 of the thread bank at 0 to 31, s16 to s31 of the
shadow bank at 48 to 63, v0 to v31 at 64 to 95, p0 to p7 at 96 to 103, pff at 104, lane l of accumulator a at
1000 + 64a + l, system register n at 4096 + n and its shadow-bank copy at 8192 + n. pc is the address of the next bundle,
sb STATUS.SB, icyc the issue cycle, cyc CYCLE, bundles BUNDLES, land the results in flight in issue order, vbusy the issue
cycle from which the vector slot is free, bundle the instructions of the bundle that issues, frozen whether that bundle is
held by a freeze and line the cache line it waits for (2 * line number, plus 1 for L1D), halt a halt asked for, stepping
CTL.STEP, l1i and l1d the lines the caches hold. -/
structure NibSt where
  reg : List (Nat × Nat)
  pc : Nat
  sb : Bool
  icyc : Nat
  cyc : Nat
  bundles : Nat
  land : List Land
  vbusy : Nat
  bundle : List NibIns
  frozen : Bool
  line : Option Nat
  halt : Bool
  stepping : Bool
  l1i : List Nat
  l1d : List (Nat × Option L1Line)
deriving DecidableEq, Repr

/-- A Nib after reset (R226). -/
def NibSt.init : NibSt :=
  { reg := [], pc := 0, sb := false, icyc := 0, cyc := 0, bundles := 0, land := [], vbusy := 0, bundle := [],
    frozen := false, line := none, halt := false, stepping := false, l1i := [], l1d := [] }

/-- A mark of lost retention (R527, R529): the words of [lo, hi) (byte addresses), of one bank of the Inkwell tier when bank is
given, but for those written whole since (word numbers). -/
structure LostMark where
  lo : Nat
  hi : Nat
  bank : Option Nat
  cleared : List Nat
deriving DecidableEq, Repr

/-- A link test that runs (R409): its slot, its site and link, and the link state it returns to. -/
structure LinkTest where
  slot : SlotId
  site : Nat
  link : Nat
  prior : W32
deriving DecidableEq, Repr

/-- A request held for a sleeping domain (R405): who asks, whether it writes, where, how many bytes, what, and since when (ns
of TB0). -/
structure HeldReq where
  dom : Nat
  who : Requester
  write : Bool
  addr : Nat
  bytes : Nat
  data : Nat
  since : Nat
deriving DecidableEq, Repr

/-- The network on chip and the memory units beside their registers: route-table entries that differ from the default (key
((bank * 48 + site) * 17 + group) * 48 + destination), link tests that run, links (8 * site + link) tested without error since
their fence, times (ns of TB0) of a link's recent CRC errors, whether the old epoch still drains, the start of each unit's
scrub pass, row repairs done by unit, and the held requests, oldest first. -/
structure NocState where
  routes : List (Nat × Nat)
  tests : List LinkTest
  tested : List Nat
  crc : List (Nat × List Nat)
  draining : Bool
  pass : List (Nat × Nat)
  repairs : List (Nat × Nat)
  held : List HeldReq
deriving DecidableEq, Repr

/-- The network after reset. -/
def NocState.init : NocState :=
  { routes := [], tests := [], tested := [], crc := [], draining := false, pass := [], repairs := [], held := [] }

/-- A random-access context that is not FREE (R361): state 1 PREAMBLE, 2 WAIT_PAYLOAD, 3 PAYLOAD; the detection it holds, the
occasion's OCC, TAG, INSTANCE, first root and NTN, and the payload table entry's bytes. -/
structure RaCtx where
  state : Nat
  realm : Nat
  det : RaDet
  occ : Nat
  tag : Nat
  inst : Nat
  rootIdx : Nat
  ntn : Bool
  na : Nat
  entry : List Byte
deriving DecidableEq, Repr

/-- The random-access engines beside their registers: contexts (32 * engine + context), times round each record queue
(16 * engine + realm), the context whose payload each engine decodes (context + 1), which of its two slots a context uses
next. -/
structure RaSt where
  ctx : List (Nat × Option RaCtx)
  phase : List (Nat × Nat)
  run : List (Nat × Nat)
  tog : List (Nat × Nat)
deriving DecidableEq, Repr

/-- The engines after reset. -/
def RaSt.init : RaSt := { ctx := [], phase := [], run := [], tog := [] }

end Sys2Proof.Machine
end

