-- ==== Sys2Proof/Machine/BlockTypes.lean ====
section
/-! DEFINITION. The parts of the state of chapters 12 to 20 that no register shows: plain data. -/

namespace Sys2Proof.Machine

/-- The Scribes beside their registers: token counts of Chancery channels (32 * engine + channel) with the time (ns of TB0) they
stand for, lines still to be written of each running copy, the channel granted last, and the timed channels
(8 * engine + channel) that a start event has reached and that have not begun, in order. -/
structure ScbState where
  tok : List (Nat × (Nat × Nat))
  lines : List (Nat × Nat)
  last : Nat
  starts : List Nat
deriving DecidableEq, Repr

/-- A window of a window group (R459): the group (64 * engine + group), the index of its symbol, opening and closing instants in
2^-16 ns of time base tb, whether its close and its wake have happened, and the PRB writes
counted by stream. -/
structure FhWin where
  grp : Nat
  idx : Int
  tb : Nat
  lo : Int
  hi : Int
  closed : Bool
  woke : Bool
  cnt : List (Nat × Nat)
deriving DecidableEq, Repr

/-- A MACsec SA (R465): Chop key slot, next packet number, salt, short and full SCI, whether its threshold has been signalled. -/
structure MacSa where
  key : Nat
  pn : Nat
  salt : List Nat
  ssci : Nat
  sci : Nat
  warned : Bool
deriving DecidableEq, Repr

/-- The fronthaul beside its registers: stream-table entries as 16 words, header templates (key (16 * engine + realm) * 64 +
template), windows, SAs (key 64 * port + 32 for receive + 4 * SC + AN) and the last frame each port sent. -/
structure FhState where
  st : List (Nat × List W32)
  hdr : List (Nat × List Byte)
  wins : List FhWin
  sa : List (Nat × Option MacSa)
  sent : List (Nat × List Byte)
deriving DecidableEq, Repr

/-- A carrier path (R479): CFG word, NCO frequency (48 bits), gain, ring, its length in samples, filter taps, and the realm that
configured it. -/
structure DfePath where
  cfg : Nat
  nco : Nat
  gain : Nat
  ring : Nat
  len : Nat
  taps : List Int
  realm : Nat
deriving DecidableEq, Repr

/-- A PA interface beside its registers (R484, R485): its programs as step words, whether it is bound, the program that runs, the
request queued behind it (0 UP, 1 DOWN). -/
structure PaSt where
  progs : List (Nat × List Nat)
  bound : Bool
  prog : Option Nat
  queued : Option Nat
deriving DecidableEq, Repr

/-- An interface that nothing has configured. -/
def PaSt.init : PaSt := { progs := [], bound := false, prog := none, queued := none }

/-- The monitor of a stream (R483): DFE_MASK word 4, band images, frames in the running average, sums of band power, averages in a
row above the limit by band. -/
structure MaskSt where
  cfg : Nat
  bands : List Byte
  frames : Nat
  sums : List Int
  high : List Nat
deriving DecidableEq, Repr

def MaskSt.init : MaskSt := { cfg := 0, bands := [], frames := 0, sums := [], high := [] }

/-- The radio-direct port beside its registers: LEMC reference edges by quad (2^-16 ns of SYSREF_CFG.TB), paths, crest-factor
settings by stream, monitors, PA interfaces, fractions of a sample gathered by path, and converter starts that wait for their edge
(4 * quad + 2 * direction + link, occurrence instant in 2^-16 ns, time base). -/
structure RadState where
  lemc : List (Nat × Option Int)
  paths : List (Nat × Option DfePath)
  cfr : List (Nat × Nat)
  masks : List (Nat × MaskSt)
  pa : List (Nat × PaSt)
  acc : List (Nat × Nat)
  starts : List (Nat × (Int × Nat))
deriving DecidableEq, Repr

/-- A peer of the fabric (R503): time of its last heartbeat and of the last change of its route (ns of TB0). -/
structure YPeer where
  beat : Nat
  routed : Nat
deriving DecidableEq, Repr

/-- A FAB_SNAP whose answers are collected (R508): slot, members asked, acceptance time (ns of TB0). -/
structure FabSnap where
  slot : SlotId
  asked : List Nat
  at_ : Nat
deriving DecidableEq, Repr

/-- YilkuLink beside its registers: adjacency lists of other devices by ID ((local port, far device, far port)), the ID each known
unit number announces (255 while automatic and unassigned) with whether it is automatic, the end of the settling window (ns of
TB0), whether that window has ended, peers, snapshots whose answers are collected, link tests by port, the next sequence number of each flow
(65536 * device + initiator), the protocol version each unit number announced in its last HELLO, and the instant (2^-16 ns) of the last time frame sent by 8 * port + time base. -/
structure YlkState where
  adj : List (Nat × List (Nat × (Nat × Nat)))
  units : List (Nat × (Nat × Bool))
  settle : Option Nat
  ended : Bool
  peers : List (Nat × Option YPeer)
  snaps : List FabSnap
  tests : List (Nat × Option SlotId)
  flows : List (Nat × Nat)
  vers : List (Nat × Option Nat)
  sentAt : List (Nat × Nat)
deriving DecidableEq, Repr

/-- The wake that started an exit or abandoned an entry (R526): SOURCE, SOURCE_ID, time of acceptance on PWM.CFG.TB and on TB0. -/
structure Wake where
  src : Nat
  id : Nat
  ts : Nat
  ns : Nat
deriving DecidableEq, Repr

/-- A domain in transition (R520): the target of an entry with the steps done, or an exit; the state it left; a wake seen; the
slot of PWR_ENTER. -/
structure PTrans where
  target : Nat
  step : Nat
  exit : Bool
  from_ : Nat
  wake : Option Wake
  slot : Option SlotId
deriving DecidableEq, Repr

/-- The power manager beside its registers. host: votes of realms (16 * domain + realm); firm: of control firmware; fabric: of peers
(64 * domain + device); each as T + 1, 0 for a D0 vote. wins: end of each running window (ns of its time base) and that time
base; deep: since when (ns of TB0) a domain's target has been deeper than its state; trans: transitions; cause: why a domain is
forced (1 thermal, 2 zeroisation); excur: retention excursions logged (bank numbers) by domain; first: wakes pending by first
access (domain, initiator code). -/
structure PwrState where
  host : List (Nat × Option Nat)
  firm : List (Nat × Option Nat)
  fabric : List (Nat × Option Nat)
  wins : List (Nat × Option (Nat × Nat))
  deep : List (Nat × Option Nat)
  trans : List (Nat × Option PTrans)
  cause : List (Nat × Nat)
  excur : List (Nat × List Nat)
  first : List (Nat × Option Nat)
  hot : Nat
  setpoint : Nat
  setAt : Nat
  unacked : Bool
  trip : Bool
deriving DecidableEq, Repr

/-- A Pounce test (R547): domain, phase (0 booked, 1 draining, 2 testing), its start S, or the start of the drain (ns of TB0), whether it
ignores windows, PNC_RUN's slot. -/
structure PncTest where
  dom : Nat
  phase : Nat
  at_ : Nat
  always : Bool
  slot : Option SlotId
deriving DecidableEq, Repr

/-- The availability blocks beside their registers: the fault log by record number (R541), the fence time of each fenced unit
(256 * kind + unit, ns of TB0), Pounce tests, the last pass of each domain, domains whose overdue event has been raised, open
Pounce windows (end, ns of TB0), the start of the last test, SerDes tests (32 for JESD receive + 64 for JESD + lane), and user
calibration values (256 * item + index). -/
structure AvlState where
  log : List (Nat × List Nat)
  fencedAt : List (Nat × Nat)
  tests : List PncTest
  passed : List (Nat × Option Nat)
  overdue : List Nat
  wins : List (Nat × Option Nat)
  started : Option Nat
  serdes : List (Nat × Option SlotId)
  cal : List (Nat × Int)
deriving DecidableEq, Repr

/-- The availability blocks after reset. -/
def AvlState.init : AvlState :=
  { log := [], fencedAt := [], tests := [], passed := [], overdue := [], wins := [], started := none, serdes := [], cal := [] }

/-- A key slot of the Chop (R563): its type and its content: public bytes for pairs and credentials, secret bytes. -/
structure KeySlot where
  typ : Nat
  pub : List Byte
  sec : List Byte
deriving DecidableEq, Repr

/-- The services of the Chop that wait while a self-test run is in progress (R568, R589). -/
inductive ChpSvc where
  | selfTest | readCounter | advance | challenge | respond | logout | generate | importKey
  | exportKey | deleteKey | keyQuery | encrypt | decrypt | hash | hmac | sign
  | verify | random | kdf | ecdh | report | chain | zeroise
deriving DecidableEq, Repr

/-- The Chop beside its registers: holders of the Crypto Officer session (16 CMD[16], 17 an NSP session, 18 the TAP), nonces given
out by role (0 to 15 users, 16 the Crypto Officer), consecutive failures and ends of lockouts by role, key slots, advances counted
by counter, zeroisation fuses blown, whether a zeroisation found none left, root keys revoked, self-test runs that failed in a row,
whether a run is in progress, the slot that asked for it, the services that wait for its end, and the
nanoseconds that CD97 has counted, now and at the last periodic run. -/
structure ChpState where
  co : List Nat
  nonce : List (Nat × List Byte)
  fails : List (Nat × Nat)
  lock : List (Nat × Option Nat)
  keys : List (Nat × Option KeySlot)
  adv : List (Nat × Nat)
  blown : Nat
  dead : Bool
  revoked : List Nat
  badRuns : Nat
  testing : Bool
  slot : Option SlotId
  waiting : List (ChpSvc × Desc)
  clk : Nat
  tested : Nat
deriving DecidableEq, Repr

/-- What a Colophon says of its image (R572), and where the image stands: component, local address, bytes with the Colophon,
IMAGE_LEN, VERSION, SVN (SERIAL for VELM), CFLAGS, TRIAL_S, KEY_INDEX, PROTO_VER, REQUIRES as (component, (least, greatest)) and
IMAGE_HASH. -/
structure PalImg where
  comp : Nat
  addr : Nat
  size : Nat
  len : Nat
  version : Nat
  svn : Nat
  cflags : Nat
  trial : Nat
  key : Nat
  proto : Nat
  reqs : List (Nat × (Nat × Nat))
  hash : List Byte
deriving DecidableEq, Repr

/-- The journal header and its records (R580): component, old IMAGE_LEN and VERSION, DIR_SEQ, and for each block in order the
CRC-32 of its old data and STATE (0x7F COPIED, 0x3F WRITTEN, 0x1F RESTORED). -/
structure PalJournal where
  comp : Nat
  oldLen : Nat
  oldVersion : Nat
  seq : Nat
  recs : List (Nat × Nat)
deriving DecidableEq, Repr

/-- Palimpsest beside its registers: the flash's bytes that differ from how the factory left them, the staged images in the order of
R583, the image in progress, images confirmed, the journal, the start of activation or end of the trial (CD97 ns), whether the next
warm reset is the one that starts an image, the slot of START, the cause of a restoration, the FL access that runs (operation,
address, length, buffer), and the boot chain's recovery (0 none, 1 control firmware or Chop serves it, 2 the Boot ROM). -/
structure PalState where
  flash : List (Nat × Byte)
  staged : List PalImg
  cur : Option PalImg
  done : Nat
  journal : Option PalJournal
  at_ : Nat
  warm : Bool
  slot : Option SlotId
  cause : Nat
  fl : Option (Nat × Nat × Nat × Nat)
  recovery : Nat
deriving DecidableEq, Repr

/-- The service port's session (R588): whether a HELLO has been answered (its nonce), the session's last accepted SEQ, the time of
its last frame, the SEQ of its last command descriptor and that command's result. -/
structure NspState where
  hello : Option (List Byte)
  open_ : Bool
  seq : Nat
  at_ : Nat
  cmdSeq : Option Nat
  result : List W32
deriving DecidableEq, Repr

/-- A device access to the host window in flight (R597): requester, write, host address, bytes, data. -/
structure HostTlp where
  who : Requester
  write : Bool
  addr : Nat
  bytes : Nat
  data : Nat
deriving DecidableEq, Repr

/-- The host interface beside its registers: functions with Bus Master Enable, functions with MSI-X enabled, MSI-X table entries
(128 * function + vector: address, data, mask), pending vectors, functions in function-level reset, messages sent (function,
vector), oldest first, accesses in flight, control cores 4 to 7 that run (entry address), GPIO directions, levels driven, pin
levels and edge detection, straps, whether the test network is open, whether boot has ended, whether a warm reset has been asked for
(DEV_RESET, NSP) or is in progress, and the memory units (R410) that this boot initialises (R603). -/
structure HostState where
  bme : List Nat
  msixOn : List Nat
  msix : List (Nat × (Nat × Nat × Bool))
  msixPend : List Nat
  flr : List Nat
  msgs : List (Nat × Nat)
  tlps : List HostTlp
  cores : List (Nat × Option Nat)
  gpioOut : List Nat
  gpioDrive : List Nat
  gpioPin : List Nat
  gpioEdge : List (Nat × Nat)
  bootMode : Nat
  refSel : Nat
  tap : Bool
  booted : Bool
  warmReq : Bool
  resetting : Bool
  initMem : List Nat
deriving DecidableEq, Repr

def ScbState.init : ScbState := { tok := [], lines := [], last := 127, starts := [] }
def FhState.init : FhState := { st := [], hdr := [], wins := [], sa := [], sent := [] }
def RadState.init : RadState := { lemc := [], paths := [], cfr := [], masks := [], pa := [], acc := [], starts := [] }
def YlkState.init : YlkState :=
  { adj := [], units := [], settle := none, ended := false, peers := [], snaps := [], tests := [], flows := [], vers := [], sentAt := [] }
def PwrState.init : PwrState :=
  { host := [], firm := [], fabric := [], wins := [], deep := [], trans := [], cause := [], excur := [], first := [], hot := 0,
    setpoint := 800, setAt := 0, unacked := false, trip := false }
def ChpState.init : ChpState :=
  { co := [], nonce := [], fails := [], lock := [], keys := [], adv := [], blown := 0, dead := false, revoked := [], badRuns := 0,
    testing := false, slot := none, waiting := [], clk := 0, tested := 0 }
def PalState.init : PalState :=
  { flash := [], staged := [], cur := none, done := 0, journal := none, at_ := 0, warm := false, slot := none, cause := 0, fl := none,
    recovery := 0 }
def NspState.init : NspState := { hello := none, open_ := false, seq := 0, at_ := 0, cmdSeq := none, result := [] }
def HostState.init : HostState :=
  { bme := [], msixOn := [], msix := [], msixPend := [], flr := [], msgs := [], tlps := [], cores := [], gpioOut := [], gpioDrive := [],
    gpioPin := [], gpioEdge := [], bootMode := 0, refSel := 0, tap := false, booted := false,
    warmReq := false, resetting := false, initMem := [] }

end Sys2Proof.Machine
end

