-- ==== Sys2Proof/Machine/State.lean ====
section
/-! DEFINITION. The state of the block, its faults and refusals, and the state right after reset. -/

namespace Sys2Proof.Machine

/-- Faults: what stops the model. No rule of the manual leaves the block stopped, so only a command to which the manual
gives no effect at all could end here; no meaning of this model answers with one. -/
inductive Fault where
  /-- Raised by no meaning. Safe: a fault claims nothing about the device. -/
  | noEffect
deriving DecidableEq, Repr

/-- Refusals: a command for which there is no meaning. -/
inductive Refusal where
  /-- Raised by an arm of `exec` whose meaning is not written yet. Safe: a refusal claims nothing. -/
  | notModelled (mnemonic : String)
deriving DecidableEq, Repr

/-- The machine. `csr` holds every register of the register map by its CSR address, `mem` every byte of the local
address map of R15 (host window included), both in canonical form; `poison` lists the 64-bit words that carry
poison, by word number, `retLost` the marks of lost retention; the rest is the state that no register shows. `free` counts the free
values taken (the model's own field, notes/assumptions/1.md); `pending` is the queue of commands, first in first out. -/
structure State where
  csr : List (Nat × W32)
  mem : List Host.Cell
  poison : List Nat
  retLost : List LostMark
  resp : Resp
  vlm : VlmState
  time : TimeState
  evq : List Nat
  batch : List (Nat × Nat)
  duc : List (Nat × DucSt)
  ord : OrdState
  eng : List (Nat × Option PoolJob)
  stalled : List Nat
  served : List (Nat × Nat)
  fer : List (Nat × FerSt)
  nib : List (Nat × NibSt)
  avl : AvlState
  noc : NocState
  ra : RaSt
  scb : ScbState
  fh : FhState
  rad : RadState
  ylk : YlkState
  pwr : PwrState
  chp : ChpState
  pal : PalState
  nsp : NspState
  host : HostState
  ipend : List (Nat × Nat)
  spareTag : List (Nat × Nat)
  free : Nat
  pending : List Instr
deriving DecidableEq, Repr

/-- The Vellum state after reset: no record, nothing staged, nothing running. -/
def VlmState.reset : VlmState :=
  { live := [], staged := [], applies := [], cmds := [], lockReqs := [], stops := [], lockOf := [] }

/-- The Ruling after reset: every time base at zero and free-running (R81), every channel FREE. -/
def TimeState.reset : TimeState :=
  { count := [], freq := [], steps := [], grids := [], trigs := [], caps := [], capSeq := [], pulse := [], lastSnap := none,
    snapReq := [] }

/-- The machine right after reset. Registers and memory list nothing: every register reads its reset value. -/
def State.reset : State :=
  { csr := [], mem := [], poison := [], retLost := [], resp := { status := 0, data := 0 }, vlm := VlmState.reset,
    time := TimeState.reset, evq := [], batch := [], duc := [], ord := OrdState.init, eng := [], stalled := [], served := [], fer := [], nib := [], avl := AvlState.init, noc := NocState.init, ra := RaSt.init,
    scb := ScbState.init, fh := FhState.init, rad := RadState.init, ylk := YlkState.init, pwr := PwrState.init,
    chp := ChpState.init, pal := PalState.init, nsp := NspState.init, host := HostState.init, ipend := [], spareTag := [], free := 0, pending := [] }

end Sys2Proof.Machine
end

