-- ==== Sys2Proof/Machine/Ops.lean ====
section
/-! DEFINITION. The named operations over registers, memory, rings, result slots and events that the commands share. -/

namespace Sys2Proof.Machine

/-! ## Registers -/

/-- A register read by the device itself. -/
def State.rd (s : State) (a : Nat) : W32 := sget s.csr a (csrReset a)

/-- A register written by the device itself. -/
def State.wr (s : State) (a : Nat) (v : W32) : State := { s with csr := sput s.csr a v (csrReset a) }

/-- A register as a number. -/
def State.rdN (s : State) (a : Nat) : Nat := (s.rd a).toNat

/-- A register set to a number's low 32 bits. -/
def State.wrN (s : State) (a n : Nat) : State := s.wr a (w32 n)

/-- Bits [hi:lo] of a register. -/
def State.fld (s : State) (a hi lo : Nat) : Nat := wfld (s.rd a) hi lo

/-- Bit n of a register. -/
def State.bit (s : State) (a n : Nat) : Bool := wbit (s.rd a) n

/-- Bits [hi:lo] of a register replaced. -/
def State.setFld (s : State) (a hi lo v : Nat) : State := s.wr a (wsetFld (s.rd a) hi lo v)

/-- Bit n of a register set to 1. -/
def State.setBit (s : State) (a n : Nat) : State := s.setFld a n n 1

/-- A counter that wraps at 2^32 rises by n. -/
def State.bump (s : State) (a n : Nat) : State := s.wrN a (s.rdN a + n)

/-- A counter field [hi:lo] rises by n and stays at its largest value. -/
def State.bumpSat (s : State) (a hi lo n : Nat) : State :=
  s.setFld a hi lo (min (s.fld a hi lo + n) (2 ^ (hi - lo + 1) - 1))

/-- A run of registers written from a list of words, upward from an address. -/
def State.wrWords (s : State) (a : Nat) : List W32 → State
  | [] => s
  | w :: r => State.wrWords (s.wr a w) (a + 4) r

/-- The registers of a range return to their reset values. -/
def State.csrClear (s : State) (lo hi : Nat) : State :=
  { s with csr := s.csr.filter fun e => e.1 < lo || hi ≤ e.1 }

/-! ## Free values -/

/-- The next free value, below n, and the state that has taken it. -/
def State.free1 (s : State) (n : Nat) : Nat × State := (Config.freeVal s.free % n, { s with free := s.free + 1 })

/-- The next free block of n bytes, and the state that has taken it. -/
def State.freeBytes (s : State) (n : Nat) : List Byte × State :=
  ((List.range n).map (Config.freeByte s.free), { s with free := s.free + 1 })

/-! ## Memory -/

/-- One byte of memory as the device reads it; a byte nothing has written reads zero (notes/assumptions/3.md). -/
def State.byte (s : State) (a : Nat) : Byte := sget s.mem a 0

/-- One byte of memory written. -/
def State.setByte (s : State) (a : Nat) (b : Byte) : State := { s with mem := sput s.mem a b 0 }

/-- n bytes of memory from an address upward. -/
def State.bytes (s : State) (a : Nat) : Nat → List Byte
  | 0 => []
  | n + 1 => s.byte a :: State.bytes s (a + 1) n

/-- A byte list written from an address upward. -/
def State.setBytes (s : State) (a : Nat) : List Byte → State
  | [] => s
  | b :: r => State.setBytes (s.setByte a b) (a + 1) r

/-- An n-byte little-endian number in memory. -/
def State.load (s : State) (a n : Nat) : Nat := leNat (s.bytes a n)

/-- A number stored in n little-endian bytes. -/
def State.store (s : State) (a n v : Nat) : State := s.setBytes a (leBytes n v)

/-- Whether a 64-bit word of the range carries poison. -/
def State.poisoned (s : State) (a n : Nat) : Bool := s.poison.any fun w => w * 8 < a + n && a < w * 8 + 8

/-- Bank of an Inkwell address (R377): 64 of a Quire Inkwell, two halves of 64 of System Inkwell. -/
def inkBankOf (a : Nat) : Nat :=
  if a < 0x20000000 then Nat.xor (bitsOf a 11 6) (bitsOf a 17 12)
  else 64 * bitsOf a 6 6 + Nat.xor (bitsOf a 12 7) (bitsOf a 18 13)

/-- Whether a mark holds word w. -/
def LostMark.holds (m : LostMark) (w : Nat) : Bool :=
  m.lo ≤ 8 * w && 8 * w < m.hi && (match m.bank with | some b => inkBankOf (8 * w) == b | none => true) && ! m.cleared.contains w

/-- The 64-bit words that n bytes from an address touch. -/
def wordsOf (a n : Nat) : List Nat := (List.range ((a + n + 7) / 8 - a / 8)).map fun k => a / 8 + k

/-- Whether a 64-bit word of the range carries a retention loss (R528). -/
def State.lost (s : State) (a n : Nat) : Bool :=
  ! s.retLost.isEmpty && s.retLost.any fun m => m.lo < a + n && a < m.hi && (wordsOf a n).any m.holds

/-- The status that the lowest marked word of a range decides (R380, R528): 0 none, 1 poison, 2 retention loss. -/
def State.markOf (s : State) (a n : Nat) : Nat :=
  if ! s.poisoned a n && ! s.lost a n then 0 else
  match (wordsOf a n).find? fun w => s.poison.contains w || s.retLost.any (·.holds w) with
  | some w => if s.poison.contains w then 1 else 2
  | none => 0

/-- A write of whole 64-bit words clears their poison and retention marks (R380, R528). -/
def State.unpoison (s : State) (a n : Nat) : State :=
  let whole := (wordsOf a n).filter fun w => a ≤ w * 8 && w * 8 + 8 ≤ a + n
  { s with poison := s.poison.filter fun w => ! (a ≤ w * 8 && w * 8 + 8 ≤ a + n),
           retLost := s.retLost.map fun m => { m with cleared := (whole.filter m.holds).foldl setIns m.cleared } }

/-- Populated bytes of DDR (R632): the sum of the channels' capacities. -/
def State.ddrBytes (s : State) : Nat :=
  (List.range 4).foldl (fun t c => t + 2 ^ 20 * s.rdN (Reg.MEMC_CAPACITY (0x3200000 + 0x10000 * c))) 0

/-- The tier an address lies in (R15): 0 to 7 Quire Inkwell, 8 System Inkwell, 9 HBM, 10 DDR, 11 host window,
12 registers; none in a gap or the unpopulated part of a region. -/
def State.tierOf (s : State) (a : Nat) : Option Nat :=
  if a < 0x10000000 then some 12
  else if a < 0x18000000 then some ((a - 0x10000000) / 0x1000000)
  else if 0x20000000 ≤ a && a < 0x24000000 then some 8
  else if 0x1000000000 ≤ a && a < 0x1C00000000 then
    -- the stack is the address bit R386 gives; a stack that failed training is unpopulated
    (if s.rdN (Reg.MEMC_CAPACITY 0x3100000) = 0 && s.rdN (Reg.MEMC_CAPACITY 0x3110000) = 0 then none else some 9)
  else if 0x10000000000 ≤ a && a < 0x10000000000 + s.ddrBytes then some 10
  else if 0x100000000000 ≤ a && a < 0x1000000000000 then some 11
  else none

/-- Whether an access of n bytes at a local address lies wholly in memory, in one region (R15). -/
def State.memOk (s : State) (a n : Nat) : Bool :=
  match s.tierOf a, s.tierOf (a + n - 1) with
  | some t, some t' => t == t' && t ≠ 12
  | _, _ => false

/-! ## Power domains (R512) -/

/-- Whether a power domain is at D0; a number past 63 names PDAON, which always is. -/
def State.domUp (s : State) (d : Nat) : Bool := 64 ≤ d || s.fld (Reg.PWM_D_STATE d) 31 30 == 0

/-- Whether a power domain is forced down (R530). -/
def State.domForced (s : State) (d : Nat) : Bool := d < 64 && s.bit (Reg.PWM_D_STATE d) 25

/-- Whether a domain has been taken out of service for a Pounce test (R547). -/
def State.underTest (s : State) (d : Nat) : Bool := s.avl.tests.any fun t => t.dom == d && t.phase ≠ 0

/-- Power domain of pool unit j (R314); RA engines as units 56 and 57. -/
def unitDomain (j : Nat) : Nat :=
  if j < 16 then 32 + j / 4 else if j < 24 then 36 + (j - 16) / 4 else if j < 28 then 38 else if j < 32 then 39
  else if j < 40 then 40 + (j - 32) / 4 else if j < 48 then 42 + (j - 40) / 4 else if j < 56 then 44 + (j - 48) / 4 else 62

/-- Power domain of a CSR block number; 64 for PDAON. -/
def blockDomain (blk : Nat) : Nat :=
  if 0x70 ≤ blk && blk < 0x78 then 24 + (blk - 0x70)
  else if 0x100 ≤ blk && blk < 0x180 then (blk - 0x100) / 8
  else if 0x180 ≤ blk && blk < 0x190 then 16 + (blk - 0x180) / 2
  else if 0x200 ≤ blk && blk < 0x260 then 47
  else if blk = 0x260 then 46
  else if 0x270 ≤ blk && blk < 0x280 then 47
  else if 0x280 ≤ blk && blk < 0x282 then 62
  else if 0x300 ≤ blk && blk < 0x308 then 24 + (blk - 0x300)
  else if blk = 0x308 then 60
  else if 0x310 ≤ blk && blk < 0x312 then 56 + (blk - 0x310)
  else if 0x320 ≤ blk && blk < 0x324 then 58 + (blk - 0x320) / 2
  else if 0x400 ≤ blk && blk < 0x408 then 24 + (blk - 0x400)
  else if 0x408 ≤ blk && blk < 0x40C then 61
  else if 0x500 ≤ blk && blk < 0x520 then 48 + (blk - 0x500) / 8
  else if 0x520 ≤ blk && blk < 0x522 then 52
  else if 0x530 ≤ blk && blk < 0x541 then 53
  else if 0x550 ≤ blk && blk < 0x554 then 54 + (blk - 0x550) / 2
  else 64

/-- Memory unit of a local address (R376, R386): HBM by stack, DDR by channel, Inkwell by Quire or 8 (R410 numbers them). -/
def State.unitOf (s : State) (a : Nat) : Option Nat :=
  match s.tierOf a with
  | some 9 =>
    let o := a - 0x1000000000
    some ((bitsOf o 13 13 + bitsOf o 21 21 + bitsOf o 29 29) % 2)
  | some 10 =>
    let o := a - 0x10000000000
    let cap := fun c => 2 ^ 20 * s.rdN (Reg.MEMC_CAPACITY (0x3200000 + 0x10000 * c))
    if cap 0 ≠ 0 && cap 0 = cap 1 && cap 1 = cap 2 && cap 2 = cap 3 then
      some (2 + Nat.xor (bitsOf o 13 12) (bitsOf o 21 20))
    else if o < cap 0 then some 2 else if o < cap 0 + cap 1 then some 3
    else if o < cap 0 + cap 1 + cap 2 then some 4 else some 5
  | some t => if t ≤ 8 then some (6 + t) else none
  | none => none

/-- Power domain of a memory unit (R376, R384). -/
def memDomain (u : Nat) : Nat := if u < 2 then 56 + u else if u < 6 then 58 + (u - 2) / 2 else if u < 14 then 24 + (u - 6) else 60

/-- Power domain of a local address: of its memory, or of its CSR block; 64 for PDAON and outside the device. -/
def State.addrDomain (s : State) (a : Nat) : Nat :=
  if a < 0x8000000 then blockDomain (a / 0x10000) else (s.unitOf a).elim 64 memDomain

/-- A first access to a domain below D0 (R524): a wake pending, by the code of its initiator; the lowest code stays. -/
def State.firstWake (s : State) (d code : Nat) : State :=
  if s.domUp d || s.domForced d then s else
  let c := match sget s.pwr.first d none with
    | some k => min k code
    | none => code
  { s with pwr := { s.pwr with first := sput s.pwr.first d (some c) none } }

/-! ## Vellum records in force -/

/-- n-byte field of a record at an offset from its start. -/
def VRec.num (r : VRec) (o n : Nat) : Nat := leNat ((r.bytes.drop o).take n)

/-- The records in force of a type and REALM value. -/
def State.recs (s : State) (typ realm : Nat) : List VRec := s.vlm.live.filter fun r => r.typ == typ && r.realm == realm

/-- The records in force of a type, of any realm. -/
def State.recsAny (s : State) (typ : Nat) : List VRec := s.vlm.live.filter fun r => r.typ == typ

/-- A field of a realm's REALM record (R39); 0 without a record. -/
def State.realmNum (s : State) (r o n : Nat) : Nat := ((s.recs 0x10 r).head?.map fun x => x.num o n).getD 0

/-- Flag n of a realm's REALM record: 0 AUTOSTART, 1 EXPERT_ALLOWED, 2 SELF_RECONFIG, 3 FABRIC_PLACE, 4 REMOVE. -/
def State.realmFlag (s : State) (r n : Nat) : Bool := bitOf (s.realmNum r 0x18 4) n

/-- DEFAULT_TB of a realm; TB0 for anything that no realm owns (R23). -/
def State.defaultTb (s : State) (r : Nat) : Nat := if r < 16 then s.realmNum r 0x1D 1 % 8 else 0

/-- State of a realm (VLM.REALM_STATE): 0 ABSENT, 1 STOPPED, 2 RUNNING, 3 STOPPING, 4 APPLYING. -/
def State.realmState (s : State) (r : Nat) : Nat := s.fld (Reg.VLM_REALM_STATE r) 2 0

/-! ## Time -/

/-- Count of a time base in 2^-48 ns (R81). -/
def State.tbCount (s : State) (b : Nat) : Nat := sget s.time.count b 0

/-- Whole nanoseconds of a time base. -/
def State.tbNs (s : State) (b : Nat) : Nat := s.tbCount b / 2 ^ 48

/-- Instant of a time base in 2^-16 ns. -/
def State.tbInst (s : State) (b : Nat) : Nat := s.tbCount b / 2 ^ 32

/-- TS32 of a time base (R86). -/
def State.ts32 (s : State) (b : Nat) : Nat := s.tbNs b % 2 ^ 32

/-- The three words of a TS80 (R86). -/
def ts80 (ns b : Nat) : List W32 :=
  [w32 (ns % 10 ^ 9), w32 (ns / 10 ^ 9), w32 (ns / 10 ^ 9 / 2 ^ 32 % 2 ^ 16 + b * 2 ^ 16)]

/-! ## Events -/

/-- Timed Chancery channels (8 * engine + channel) whose start event is EV0624 + n (R435). -/
def State.timedOn (s : State) (n : Nat) : List Nat :=
  (List.range 32).filter fun k =>
    s.bit (Reg.SCB_TPL_TCTL (8 + k / 8) (k % 8)) 30 && s.fld (Reg.SCB_TPL_TCTL (8 + k / 8) (k % 8)) 5 0 == n

/-- Bytes that a stopped engine may or may not have written: each either lands or does not (R29, R430). -/
def State.partly (s : State) (ws : List (Nat × List Byte)) : State :=
  ws.foldl (fun s w =>
    let k := s.free
    let s := (List.range w.2.length).foldl (fun s i =>
      if (Config.freeByte k i).toNat % 2 = 1 then s.setByte (w.1 + i) (w.2.getD i 0) else s) s
    { s with free := k + 1 }) s

/-- One raise of event e (R605, R606): COUNT rises; the raise joins the router's queue of 256, or, the queue full, is
dropped with DROPS and STATUS.OVF. EV0624 to EV0671 also reach the Chancery engines directly (R435). -/
def State.raise (s : State) (e : Nat) : State :=
  let s := s.bump (Reg.EVT_ROUTE_COUNT e) 1
  let s := if 624 ≤ e && e < 672 then
      { s with scb := { s.scb with starts := s.scb.starts ++ s.timedOn (e - 624) } } else s
  if s.evq.length < 256 then
    let s := { s with evq := s.evq ++ [e] }
    s.setFld Reg.EVT_STATUS 8 0 s.evq.length
  else (s.bumpSat Reg.EVT_DROPS 31 0 1).setBit Reg.EVT_STATUS 31

end Sys2Proof.Machine
end

