-- ==== Sys2Proof/Machine/Rings.lean ====
section
/-! DEFINITION. Descriptor rings (R21 to R30) and the command interface (R65 to R71, R80). -/

namespace Sys2Proof.Machine

/-! ## Where rings and pool units lie -/

/-- Pool of pool unit j (R314, R42): 0 LD, 1 LE, 2 PO, 3 TU, 4 FT, 5 HC, 6 DM. -/
def poolOf (j : Nat) : Nat :=
  if j < 16 then 0 else if j < 24 then 1 else if j < 28 then 2 else if j < 32 then 3 else if j < 40 then 4
  else if j < 48 then 5 else 6

/-- First serial j of a pool (R314). -/
def poolFirst (p : Nat) : Nat :=
  match p with
  | 0 => 0 | 1 => 16 | 2 => 24 | 3 => 28 | 4 => 32 | 5 => 40 | _ => 48

/-- Number of units of a pool, RA engines included (R42, R314, R351). -/
def poolCount (p : Nat) : Nat :=
  match p with
  | 0 => 16 | 1 => 8 | 2 => 4 | 3 => 4 | 4 => 8 | 5 => 8 | 6 => 8 | 7 => 2 | _ => 0

/-- CSR base of pool unit j (R18, R314). -/
def poolBase (j : Nat) : Nat :=
  let p := poolOf j
  (match p with
   | 0 => 0x2000000 | 1 => 0x2100000 | 2 => 0x2200000 | 3 => 0x2300000 | 4 => 0x2400000 | 5 => 0x2500000 | _ => 0x2700000)
    + 0x10000 * (j - poolFirst p)

/-- Address of a ring's register set. -/
def ringBase : RingId → Nat
  | .cmd r => Reg.CMD_RING_BASE_LO r
  | .pool j r => Reg.POOL_RING_BASE_LO (poolBase j) r
  | .ra e r => Reg.RAE_RING_BASE_LO e r
  | .scribe e c => Reg.SCB_CH_BASE_LO e c
  | .fhTx e r => Reg.FHE_TXR_BASE_LO e r
  | .fhRx e r => Reg.FHE_RXR_BASE_LO e r

/-- Realm that owns Nib n of Quire q by QUIRE_SHARE (R40): 16 when it is spare. -/
def State.nibRealm (s : State) (q n : Nat) : Nat :=
  ((s.recsAny 0x11).find? fun r => r.num 8 1 == q && bitOf (r.num 0xA 2) n).elim 16 (·.realm)

/-- The realm tag of a Nib (R210): its owner, or, for a spare Nib, the realm of the thread bound to it; 16 without. -/
def State.nibTag (s : State) (i : Nat) : Nat :=
  let r := s.nibRealm (i / 16) (i % 16)
  if r < 16 then r else sget s.spareTag i 16

/-- Realm of a Scribe channel (R417, R418): 16 when no realm owns it. -/
def State.scribeRealm (s : State) (e c : Nat) : Nat :=
  if e < 8 then (if c < 16 then s.nibTag (16 * e + c) else 16)
  else if 16 ≤ c then c - 16
  else ((List.range 16).find? fun r => bitOf (s.rdN (Reg.SCB_RLM_OWNED e r)) c && c < 14).getD 16

/-- Realm that owns a ring; 16 when none does (R23). -/
def State.ringRealm (s : State) : RingId → Nat
  | .cmd r => r
  | .pool _ r => r
  | .ra _ r => r
  | .scribe e c => s.scribeRealm e c
  | .fhTx _ r => r
  | .fhRx _ r => r

/-- Time base a ring stamps on (R23). -/
def State.ringTb (s : State) (r : RingId) : Nat := s.defaultTb (s.ringRealm r)

/-- Tokens of a Chancery channel start again at 0 (R433). -/
def State.tokReset (s : State) : RingId → State
  | .scribe e c =>
    if e.val < 8 then s else
    { s with scb := { s.scb with tok := sput s.scb.tok (32 * (e.val - 8) + c.val) (0, s.tbNs 0) (0, 0) } }
  | _ => s

/-- Whether a ring is that of a channel in timed rounds (R435). -/
def State.timedRing (s : State) : RingId → Bool
  | .scribe e c => 8 ≤ e.val && c.val < 8 && s.bit (Reg.SCB_TPL_TCTL e c) 30
  | _ => false

/-! ## Registers of a ring, by the address of its set -/

def ringSize (s : State) (b : Nat) : Nat := 2 ^ s.fld (b + 8) 20 16
def ringEnabled (s : State) (b : Nat) : Bool := s.bit (b + 8) 31
def ringTail (s : State) (b : Nat) : Nat := s.rdN (b + 0xC)
def ringHead (s : State) (b : Nat) : Nat := s.rdN (b + 0x10)
def ringEmpty (s : State) (b : Nat) : Bool := ringHead s b == ringTail s b

/-- Global address of the descriptor at HEAD (R21). -/
def ringDescAddr (s : State) (b : Nat) : Nat := cat64 (s.rd b) (s.rd (b + 4)) + 64 * ringHead s b

/-- Local address of a global address that the device serves itself (R16, R17): bit 63 clear, or the device's own ID;
none for a reserved bit set, an unreachable device or a peer. A device with no
FABRIC record holds ID 0; a fabric member that holds no ID yet has none (R17). -/
def State.localOf (s : State) (g : Nat) : Option Nat :=
  if bitOf g 62 || bitsOf g 55 48 ≠ 0 then none
  else if ! bitOf g 63 then some (g % 2 ^ 48)
  else if s.bit (Reg.YLK_FAB_STATUS 0) 31 && s.fld (Reg.YLK_FAB_STATUS 0) 5 0 ≠ bitsOf g 61 56 then none
  else if ! s.bit (Reg.YLK_FAB_STATUS 0) 31 && (bitsOf g 61 56 ≠ 0 || ! (s.recsAny 0x21).isEmpty) then none
  else some (g % 2 ^ 48)

/-- A device write of n bytes at a global address: none when the access completes with an error response (R15). -/
def State.devWrite (s : State) (g : Nat) (bs : List Byte) : Option State :=
  match s.localOf g with
  | none => none
  | some a => if s.memOk a bs.length then some ((s.setBytes a bs).unpoison a bs.length) else none

/-- Whether a device read of n bytes at a global address succeeds (R15, R380). -/
def State.devReadable (s : State) (g n : Nat) : Bool :=
  match s.localOf g with
  | none => false
  | some a => s.memOk a n && ! s.poisoned a n && ! s.lost a n

/-- A write-back: an error response drops it and sets STAT.WBERR (R25). -/
def writeBack (b : Nat) (g : Nat) (bs : List Byte) (s : State) : State :=
  match s.devWrite g bs with
  | some s' => s'
  | none => s.setBit (b + 0x1C) 4

end Sys2Proof.Machine
end

