-- ==== Sys2Proof/Machine/DuctusOps.lean ====
section
/-! DEFINITION. The operations of the Ductus that its services, its commands, the Ordinator and the event router share
(chapter 5): thread control blocks, ready list, dispatch decisions, semaphores, flags, journal and trace. -/

namespace Sys2Proof.Machine

/-! ## Blotter records (R608) -/

/-- Write one 16-byte record to Blotter n; none when it cannot be written (disabled, or STOP mode and full). -/
def State.blotter (s : State) (n : Nat) (ws : List Nat) : Option State :=
  let w := s.rdN (Reg.BLT_WPTR n)
  if ! s.bit (Reg.BLT_CFG n) 31 then none
  else if s.bit (Reg.BLT_CFG n) 30 && (w + 2 ^ 32 - s.rdN (Reg.BLT_RPTR n)) % 2 ^ 32 = 65535 then none
  else
    some ((s.setBytes (0x8000000 + 0x100000 * n + w % 65536 * 16) (ws.flatMap (leBytes 4))).bump (Reg.BLT_WPTR n) 1)

/-! ## Thread control blocks (R163) -/

/-- The Ductus of Quire q beside its registers. -/
def State.ducSt (s : State) (q : Nat) : DucSt := sget s.duc q DucSt.init

/-- The Ductus of Quire q replaced. -/
def State.setDuc (s : State) (q : Nat) (d : DucSt) : State := { s with duc := sput s.duc q d DucSt.init }

/-- Word w of TCB i of Quire q. -/
def State.tcb (s : State) (q i w : Nat) : Nat := s.rdN (Reg.DUC_TCB_W q i w)

def State.tcbState (s : State) (q i : Nat) : Nat := s.fld (Reg.DUC_TCB_W q i 0) 31 29
def State.tcbRealm (s : State) (q i : Nat) : Nat := s.fld (Reg.DUC_TCB_W q i 0) 27 24
def State.tcbTick (s : State) (q i : Nat) : Nat := s.fld (Reg.DUC_TCB_W q i 0) 23 22
def State.tcbPrio (s : State) (q i : Nat) : Nat := s.fld (Reg.DUC_TCB_W q i 0) 21 16
def State.tcbAff (s : State) (q i : Nat) : Nat := s.fld (Reg.DUC_TCB_W q i 0) 15 0
def State.tcbBound (s : State) (q i : Nat) : Bool := s.bit (Reg.DUC_TCB_W q i 1) 31
def State.tcbFolio (s : State) (q i : Nat) : Bool := s.bit (Reg.DUC_TCB_W q i 1) 30
def State.waitKind (s : State) (q i : Nat) : Nat := s.fld (Reg.DUC_TCB_W q i 1) 29 26
def State.waitObj (s : State) (q i : Nat) : Nat := s.fld (Reg.DUC_TCB_W q i 1) 15 8

/-- State numbers of R163. -/
def tFREE : Nat := 0
def tDORMANT : Nat := 1
def tREADY : Nat := 2
def tRUNNING : Nat := 3
def tWAITING : Nat := 4
def tSUSPENDED : Nat := 5

/-- STATE of a TCB set; STATUS.FREE_TCB follows. -/
def State.setTcbState (s : State) (q i st : Nat) : State :=
  let old := s.tcbState q i
  let s := s.setFld (Reg.DUC_TCB_W q i 0) 31 29 st
  let f := s.fld (Reg.DUC_STATUS q) 25 16
  if old = tFREE && st ≠ tFREE then s.setFld (Reg.DUC_STATUS q) 25 16 (f - 1)
  else if old ≠ tFREE && st = tFREE then s.setFld (Reg.DUC_STATUS q) 25 16 (f + 1)
  else s

/-- Whether Quire q is fenced (R192). -/
def State.fencedQ (s : State) (q : Nat) : Bool := s.bit (Reg.DUC_STATUS q) 31

/-- Time base of a Ductus's stamps. -/
def State.ducTb (s : State) (q : Nat) : Nat := s.fld (Reg.DUC_CFG q) 10 8

/-- A scheduling trace record (R186, R187): written when enabled; one that cannot be written is counted and raises
event k = 0 of R191. -/
def State.ducTrace (s : State) (q typ realm nib tid w2 w3 : Nat) : State :=
  if ! (s.bit (Reg.DUC_TRACE_CFG q) 31 && s.bit (Reg.DUC_TRACE_CFG q) typ) then s else
  let tb := s.ducTb q
  match s.blotter q [s.ts32 tb, 2 ^ 29 * tb + 2 ^ 24 * typ + 2 ^ 20 * (realm % 16) + 2 ^ 16 * (nib % 16) + tid % 512,
      w2 % 2 ^ 32, w3 % 2 ^ 32] with
  | some s' => s'
  | none => (s.bumpSat (Reg.DUC_TRACE_DROP q) 31 0 1).raise (160 + 16 * q)

/-! ## Journal (R182 to R184) -/

/-- Base of the journal of Quire q. -/
def State.jrnlBase (s : State) (q : Nat) : Nat :=
  s.rdN (Reg.DUC_JRNL_BASE_LO q) / 4096 * 4096 + 2 ^ 32 * s.fld (Reg.DUC_JRNL_BASE_HI q) 15 0

/-- The thread entry of TCB i as it stands, with the next journal sequence number. -/
def State.jrnlThread (s : State) (q i : Nat) : State :=
  let d := s.ducSt q
  let ws := [s.tcb q i 0, s.tcb q i 1, s.tcb q i 8, s.tcb q i 9, s.tcb q i 4, s.tcb q i 5, s.tcb q i 6, s.tcb q i 7,
    s.tcb q i 10, s.tcb q i 11, d.jseq % 2 ^ 32, s.ts32 (s.ducTb q), 0, 0, 0, 0]
  (s.setBytes (s.jrnlBase q + 64 * i) (ws.flatMap (leBytes 4))).setDuc q { d with jseq := (d.jseq + 1) % 2 ^ 32 }

/-- The entry of flag group g: flags, then [31] ALLOC and [27:24] REALM. -/
def State.jrnlFlag (s : State) (q g : Nat) : State :=
  s.setBytes (s.jrnlBase q + 0x8000 + 8 * g)
    ([s.rdN (Reg.DUC_FLAG_VALUE q g), 2 ^ 24 * s.fld (Reg.DUC_FLAG_OWNER q g) 31 24].flatMap (leBytes 4))

/-- The entry of semaphore i: COUNT and MAX, then [31] ALLOC and [27:24] REALM. -/
def State.jrnlSem (s : State) (q i : Nat) : State :=
  s.setBytes (s.jrnlBase q + 0x8800 + 8 * i)
    ([s.fld (Reg.DUC_SEM_STATE q i) 15 0 + 2 ^ 16 * s.fld (Reg.DUC_SEM_MAX q i) 15 0,
      2 ^ 24 * s.fld (Reg.DUC_SEM_STATE q i) 31 24].flatMap (leBytes 4))

/-! ## Ready list and dispatch (R167 to R169) -/

/-- The thread Nib n runs: TID + 1, 0 none. -/
def State.runOn (s : State) (q n : Nat) : Nat := sget (s.ducSt q).run n 0

def State.setRun (s : State) (q n t : Nat) : State :=
  s.setDuc q { s.ducSt q with run := sput (s.ducSt q).run n t 0 }

/-- The Nib that runs thread i, if one does. -/
def State.nibOf (s : State) (q i : Nat) : Option Nat := (List.range 16).find? fun n => s.runOn q n == i + 1

/-- A ready list with a thread put at the tail of its priority. -/
def insTail (prio : Nat → Nat) (p t : Nat) : List Nat → List Nat
  | [] => [t]
  | x :: r => if prio x < p then t :: x :: r else x :: insTail prio p t r

/-- A ready list with a thread put at the head of its priority. -/
def insHead (prio : Nat → Nat) (p t : Nat) : List Nat → List Nat
  | [] => [t]
  | x :: r => if prio x ≤ p then t :: x :: r else x :: insHead prio p t r

/-- Whether Nib n may take thread i: its AFFINITY, a spare Nib takes only threads BOUND to it, and no other Nib still holds
the thread's unsaved context. -/
def State.mayRun (s : State) (q n i : Nat) : Bool :=
  bitOf (s.tcbAff q i) n && (s.nibRealm q n < 16 || s.tcbBound q i) &&
    (s.ducSt q).held.all fun e => e.2 ≠ i + 1 || e.1 == n

/-- One thread of the ready list placed per R167 on a plan of what each Nib does (none: not taking threads; TID + 1 or 0
for idle): an idle Nib, the lowest; else the highest-numbered Nib of the lowest priority below its own; else nowhere. -/
def State.planOne (s : State) (q : Nat) (plan : List (Nat × Nat)) (i : Nat) : List (Nat × Nat) :=
  let can := plan.filter fun e => s.mayRun q e.1 i
  match can.find? fun e => e.2 == 0 with
  | some e => plan.map fun x => if x.1 = e.1 then (x.1, i + 1) else x
  | none =>
    let m := can.foldl (fun m e => min m (s.tcbPrio q (e.2 - 1))) 64
    if m < s.tcbPrio q i then
      match (can.reverse.find? fun e => s.tcbPrio q (e.2 - 1) == m) with
      | some e => plan.map fun x => if x.1 = e.1 then (x.1, i + 1) else x
      | none => plan
    else plan

/-- The dispatch decision for every Nib that takes threads (those that run one, those idle, and those listed, but for a half under
test, R547): the thread each should run. -/
def State.plan (s : State) (q : Nat) (also : List Nat) : List (Nat × Nat) :=
  let d := s.ducSt q
  let start := (List.range 16).filterMap fun n =>
    let t := s.runOn q n
    if s.underTest (2 * q + n / 8) then none
    else if t ≠ 0 then some (n, if d.leaving.any (fun l => l.tid + 1 == t) then 0 else t)
    else if s.bit (Reg.DUC_STATUS q) n || also.contains n then some (n, 0) else none
  d.ready.foldl (s.planOne q) start

/-- The decision for Nib n: TID + 1, or 0. -/
def State.decision (s : State) (q n : Nat) : Nat := sget (s.plan q [n]) n 0

/-- The dispatch interrupt of a Nib: IPEND bit 0 (R219). -/
def State.setIpend (s : State) (nib line : Nat) (on : Bool) : State :=
  { s with ipend := sput s.ipend nib (putBits (sget s.ipend nib 0) line line (b2n on)) 0 }

/-- Assert the dispatch interrupt of every Nib whose decision differs from the thread it runs (R169); a fenced Quire
dispatches nothing (R192). -/
def State.dispatch (s : State) (q : Nat) : State :=
  if s.fencedQ q then s else
  (s.plan q []).foldl (fun s e => if e.2 ≠ s.runOn q e.1 then s.setIpend (16 * q + e.1) 0 true else s) s

/-- A thread becomes READY at the tail of its priority list, and the Ductus decides anew. -/
def State.makeReady (s : State) (q i : Nat) : State :=
  let s := s.setTcbState q i tREADY
  let d := s.ducSt q
  (s.setDuc q { d with
    ready := insTail (s.tcbPrio q) (s.tcbPrio q i) i (d.ready.filter (· ≠ i)),
    readyAt := sput d.readyAt i (s.tbNs (s.ducTb q)) 0 }).dispatch q

/-- The cycles a thread has run since its dispatch are added to RUN_CYC (units of 1,024, saturating). -/
def State.countRun (s : State) (q n i : Nat) : State :=
  let d := s.ducSt q
  let c := (sget s.nib (16 * q + n) NibSt.init).cyc
  let t := sget d.cycles i 0 + (c - sget d.since n 0)
  (s.setDuc q { d with cycles := sput d.cycles i t 0, since := sput d.since n c 0 }).wrN (Reg.DUC_TCB_W q i 14)
    (min (t / 1024) (2 ^ 32 - 1))

/-- The running thread leaves its Nib. -/
def State.leaveNib (s : State) (q i : Nat) : State :=
  match s.nibOf q i with
  | some n => (s.countRun q n i).setRun q n 0
  | none => s

/-- The thread whose unsaved context Nib n holds (TID + 1; 0 for none). -/
def State.setHeld (s : State) (q n t : Nat) : State :=
  s.setDuc q { s.ducSt q with held := sput (s.ducSt q).held n t 0 }

/-- Wait fields of a thread cleared, with its wake written (R164): WAKE_STATUS and WAKE_VALUE, WAKE record, READY. -/
def State.wake (s : State) (q i status value cause : Nat) : State :=
  let s := s.wr (Reg.DUC_TCB_W q i 1) (wsetFld (wsetFld (s.rd (Reg.DUC_TCB_W q i 1)) 29 24 0) 15 8 0)
  let s := s.setFld (Reg.DUC_TCB_W q i 12) 7 0 status
  let s := s.wrN (Reg.DUC_TCB_W q i 13) value
  let s := s.setDuc q { s.ducSt q with waiting := (s.ducSt q).waiting.filter (· ≠ i) }
  let s := s.ducTrace q 4 (s.tcbRealm q i) (s.fld (Reg.DUC_TCB_W q i 1) 3 0) i (status + cause * 256) value
  s.makeReady q i

/-- Waiters on an object, by priority and then in wait order (R175, R176, R178). -/
def State.waitersOn (s : State) (q obj : Nat) (kinds : List Nat) : List Nat :=
  (((s.ducSt q).waiting.filter fun i => s.waitObj q i == obj && kinds.contains (s.waitKind q i))).foldl
    (fun l i => insTail (s.tcbPrio q) (s.tcbPrio q i) i l) []

/-! ## Semaphores and flags (R175, R176) -/

/-- A post of n: wakes up to n waiters, each taking 1, adds the rest to COUNT, at most MAX. Answers whether it overflowed. -/
def State.semPost (s : State) (q i n : Nat) (routed : Bool) : State × Bool :=
  let ws := (s.waitersOn q i [1]).take n
  let s := ws.foldl (fun s t => s.wake q t 0 (s.fld (Reg.DUC_SEM_STATE q i) 15 0) 0) s
  let c := s.fld (Reg.DUC_SEM_STATE q i) 15 0 + (n - ws.length)
  let mx := s.fld (Reg.DUC_SEM_MAX q i) 15 0
  let s := s.setFld (Reg.DUC_SEM_STATE q i) 15 0 (min c mx)
  let s := s.jrnlSem q i
  let s := s.ducTrace q 5 (s.fld (Reg.DUC_SEM_STATE q i) 27 24) 0 0 (i + b2n routed * 512) n
  if c > mx then (s.raise (160 + 16 * q + 2), true) else (s, false)

/-- WAITERS of a group follows the threads waiting on it. -/
def State.countWaiters (s : State) (q g : Nat) : State :=
  s.setFld (Reg.DUC_FLAG_OWNER q g) 15 0 (s.waitersOn q g [2, 3]).length

/-- The waiters of a group examined in order after a change of its flags (R176). -/
def State.flagWake (s : State) (q g : Nat) : List Nat → State
  | [] => s
  | t :: r =>
    let f := s.rdN (Reg.DUC_FLAG_VALUE q g)
    let m := s.tcb q t 2
    let hit := Nat.land f m
    if (if s.waitKind q t = 3 then hit = m else hit ≠ 0) then
      let clr := s.bit (Reg.DUC_TCB_W q t 1) 25
      let s := (s.wake q t 0 f 0).countWaiters q g
      State.flagWake (if clr then s.wrN (Reg.DUC_FLAG_VALUE q g) (f - hit) else s) q g r
    else State.flagWake s q g r
/-- Flags of a group changed: clear mask, then set mask, then waiters examined, then the journal entry. -/
def State.flagChange (s : State) (q g clr set : Nat) (routed : Bool) : State :=
  let f := s.rdN (Reg.DUC_FLAG_VALUE q g)
  let s := s.wrN (Reg.DUC_FLAG_VALUE q g) (Nat.lor (f - Nat.land f clr) set)
  let s := s.ducTrace q 5 (s.fld (Reg.DUC_FLAG_OWNER q g) 27 24) 0 0 (g + 256 + b2n routed * 512) set
  (s.flagWake q g (s.waitersOn q g [2, 3])).jrnlFlag q g

/-! ## Ferrule locks (R288 to R291, R178) and the end of a thread (R164) -/

/-- Ferrule f beside its registers. -/
def State.ferSt (s : State) (f : Nat) : FerSt := sget s.fer f FerSt.init
def State.setFer (s : State) (f : Nat) (x : FerSt) : State := { s with fer := sput s.fer f x FerSt.init }

/-- The lock of Ferrule f passes to the first thread that waits for it, or is released; the scalar queue is emptied. -/
def State.ferRelease (s : State) (f : Nat) : State :=
  let s := (s.setFer f { s.ferSt f with queue := [] }).setFld (Reg.FER_STATUS f) 27 24 0
  match s.waitersOn (f / 2) (f % 2) [5] with
  | t :: _ => (s.setFld (Reg.FER_LOCK f) 8 0 t).wake (f / 2) t 0 0 2
  | [] => (s.setFld (Reg.FER_LOCK f) 31 31 0).setFld (Reg.FER_LOCK f) 8 0 0

/-- A lock whose holder is FREE is released once its tags are clear (R291). -/
def State.ferOrphan (s : State) (f : Nat) : State :=
  if s.bit (Reg.FER_LOCK f) 31 && s.tcbState (f / 2) (s.fld (Reg.FER_LOCK f) 8 0) == tFREE &&
      s.fld (Reg.FER_STATUS f) 23 16 == 0 then s.ferRelease f else s

/-- A Ferrule whose configuration belongs to a thread that becomes FREE clears CFGV (R305). -/
def State.ferDisown (s : State) (f i : Nat) : State :=
  if s.bit (Reg.FER_LOCK f) 30 && s.fld (Reg.FER_LOCK f) 24 16 == i then s.setFld (Reg.FER_LOCK f) 30 30 0 else s

/-- Words written to a TCB. -/
def State.tcbWrite (s : State) (q i : Nat) (ws : List Nat) : State := s.wrWords (Reg.DUC_TCB_W q i 0) (ws.map w32)

/-- A thread leaves the ready and waiting lists. -/
def State.unlist (s : State) (q i : Nat) : State :=
  let g := s.waitObj q i
  let flags := s.waitKind q i == 2 || s.waitKind q i == 3
  let d := s.ducSt q
  let s := s.setDuc q { d with ready := d.ready.filter (· ≠ i), waiting := d.waiting.filter (· ≠ i),
                               readyAt := sdel d.readyAt i }
  if flags then s.countWaiters q g else s

/-- A thread becomes FREE (R164): it leaves lists and Nib, EXIT is traced, its journal entry shows FREE, a Ferrule lock it
holds is released once its tags are clear. A non-Folio thread that exits with a status other than OK raises event k = 3. -/
def State.freeThread (s : State) (q i status cause : Nat) : State :=
  let nib := s.fld (Reg.DUC_TCB_W q i 1) 3 0
  let s := (s.leaveNib q i).unlist q i
  let s := s.ducTrace q 6 (s.tcbRealm q i) nib i (status + cause * 256) (s.tcb q i 14)
  let odd := ! s.tcbFolio q i && cause == 0 && status ≠ 0
  let s := s.setDuc q { s.ducSt q with leaving := (s.ducSt q).leaving.filter (·.tid ≠ i), cycles := sdel (s.ducSt q).cycles i }
  let s := (s.setTcbState q i tFREE).jrnlThread q i
  let s := if odd then s.raise (160 + 16 * q + 3) else s
  ((((s.ferDisown (2 * q) i).ferDisown (2 * q + 1) i).ferOrphan (2 * q)).ferOrphan (2 * q + 1)).dispatch q

/-- A thread ended from outside (kill, DROP, abort): a RUNNING one leaves its Nib at that Nib's next NEXT read. -/
def State.endThread (s : State) (q i status cause : Nat) (slot : Option SlotId) : State :=
  if s.tcbState q i = tFREE then s
  else if s.tcbState q i = tRUNNING then
    (s.setDuc q { s.ducSt q with
      leaving := (s.ducSt q).leaving ++ [{ tid := i, cause := cause, status := status, slot := slot }] }).dispatch q
  else s.freeThread q i status cause

/-- A thread created in a FREE control block (R164, R183): its words, the journal entry and the CREATE record. -/
def State.createThread (s : State) (q i : Nat) (ws : List Nat) : State :=
  let s := s.setTcbState q i tDORMANT
  let s := s.tcbWrite q i ws
  let s := s.setFld (Reg.DUC_TCB_W q i 0) 31 29 tDORMANT
  let s := s.wrN (Reg.DUC_TCB_W q i 15) (s.ts32 (s.ducTb q))
  let s := s.jrnlThread q i
  s.ducTrace q 0 (s.tcbRealm q i) 0 i (s.tcb q i 8) (s.tcb q i 6)

/-- FREE control blocks of Quire q. -/
def State.freeTcbs (s : State) (q : Nat) : List Nat := (List.range 512).filter fun i => s.tcbState q i == tFREE

/-- Control blocks of Quire q that realm r uses. -/
def State.tcbsOf (s : State) (q r : Nat) : List Nat :=
  (List.range 512).filter fun i => s.tcbState q i ≠ tFREE && s.tcbRealm q i == r

end Sys2Proof.Machine
end

