-- ==== Sys2Proof/Machine/Alloc.lean ====
section
/-! DEFINITION. Memory carve-outs (R44), the choice of free space in them, and the HARQ Directory (R338 to R344). -/

namespace Sys2Proof.Machine

/-! ## Carve-outs -/

def VRec.cTier (r : VRec) : Nat := r.num 8 1
def VRec.cId (r : VRec) : Nat := r.num 0xA 2
def VRec.cBase (r : VRec) : Nat := r.num 0x10 8
def VRec.cSize (r : VRec) : Nat := r.num 0x18 8
def VRec.cPlaceable (r : VRec) : Bool := bitOf (r.num 9 1) 3

/-- Carve-outs of a realm (255 for the device-wide ones). -/
def State.carves (s : State) (r : Nat) : List VRec := s.recs 0x13 r

/-- PLACEABLE carve-outs of a realm in a tier of R44. -/
def State.placeable (s : State) (r tier : Nat) : List VRec :=
  (s.carves r).filter fun c => c.cPlaceable && c.cTier == tier

/-- Whether a byte lies in a carve-out of the list. -/
def inCarves (cs : List VRec) (a : Nat) : Bool := cs.any fun c => c.cBase ≤ a && a < c.cBase + c.cSize

/-- The first byte at or after a that no carve-out of the list covers, following at most n carve-outs. -/
def coverEnd (cs : List VRec) : Nat → Nat → Nat
  | 0, a => a
  | n + 1, a =>
    match cs.find? fun c => c.cBase ≤ a && a < c.cBase + c.cSize with
    | some c => coverEnd cs n (c.cBase + c.cSize)
    | none => a

/-- Whether n bytes from a lie in carve-outs of a realm. -/
def State.inRealm (s : State) (r a n : Nat) : Bool :=
  n = 0 || a + n ≤ coverEnd (s.carves r) ((s.carves r).length) a

/-! ## Free space

The manual does not say which free address the Ordinator takes: the model takes a free value's choice among all that fit
(notes/assumptions/1.md). -/

/-- A pair put into a list sorted by first components. -/
def insPair (p : Nat × Nat) : List (Nat × Nat) → List (Nat × Nat)
  | [] => [p]
  | q :: r => if p.1 ≤ q.1 then p :: q :: r else q :: insPair p r

/-- The gaps of [lo, hi) left by used ranges (start, end) sorted by start. -/
def gaps (hi : Nat) : Nat → List (Nat × Nat) → List (Nat × Nat)
  | lo, [] => if lo < hi then [(lo, hi)] else []
  | lo, (a, b) :: r => (if lo < min a hi then [(lo, min a hi)] else []) ++ gaps hi (max lo b) r

/-- First aligned start in a gap and how many aligned starts fit. -/
def gapFit (size align : Nat) (g : Nat × Nat) : Nat × Nat :=
  let a := (g.1 + align - 1) / align * align
  if a + size ≤ g.2 then (a, (g.2 - size - a) / align + 1) else (a, 0)

/-- The k-th start among fits. -/
def pickFit (align : Nat) : Nat → List (Nat × Nat) → Nat
  | _, [] => 0
  | k, (a, n) :: r => if k < n then a + k * align else pickFit align (k - n) r

/-- A free place of a size and alignment in one of some carve-outs, given the ranges (address, size) in use. -/
def State.allocIn (s : State) (cs : List VRec) (used : List (Nat × Nat)) (size align : Nat) : Option Nat × State :=
  let u := used.foldl (fun l p => insPair (p.1, p.1 + p.2) l) []
  let fits := cs.flatMap fun c => (gaps (c.cBase + c.cSize) c.cBase u).map (gapFit size align)
  let n := fits.foldl (fun t f => t + f.2) 0
  if n = 0 then (none, s) else
  let p := s.free1 n
  (some (pickFit align p.1 fits), p.2)

/-- Ranges in use in [lo, hi) on TB0: booked objects and control blocks, and every soft buffer. -/
def State.usedRanges (s : State) (lo hi : Int) : List (Nat × Nat) :=
  ((s.ord.mems.filter fun m => m.lo < hi && lo < m.hi).map fun m => (m.addr, m.size)) ++
    s.ord.hbuf.map fun b => (b.addr, b.size)

/-- A free choice among the numbers of a list. -/
def State.pick (s : State) (l : List Nat) : Option Nat × State :=
  match l with
  | [] => (none, s)
  | _ => let p := s.free1 l.length; (l[p.1]?, p.2)

def State.setOrd (s : State) (o : OrdState) : State := { s with ord := o }

/-! ## The HARQ Directory -/

/-- A HARQ key (R338). -/
structure HKey where
  ue : Nat
  cell : Nat
  proc : Nat
  cw : Nat
  fmt : Nat
  size : Nat
  ok : Bool

/-- The key in a 64-bit number; ok says that reserved bits are zero and LLRFMT and SIZE are in range. -/
def HKey.of (k : Nat) : HKey :=
  { ue := bitsOf k 15 0, cell := bitsOf k 27 16, proc := bitsOf k 31 28, cw := bitsOf k 32 32, fmt := bitsOf k 34 33,
    size := bitsOf k 59 36,
    ok := ! bitOf k 35 && bitsOf k 63 60 == 0 && bitsOf k 34 33 ≠ 3 && bitsOf k 59 36 ≠ 0 }

def State.recW (s : State) (i w : Nat) : W32 := (sget s.ord.hrec i []).getD w 0
def State.entW (s : State) (e w : Nat) : W32 := (sget s.ord.hent e []).getD w 0

/-- Words of a record; all zero is an unlisted record. -/
def State.setRec (s : State) (i : Nat) (ws : List W32) : State :=
  s.setOrd { s.ord with hrec := sput s.ord.hrec i (if ws.all (· == 0) then [] else ws) [] }

/-- Words of an entry. -/
def State.setEnt (s : State) (e : Nat) (ws : List W32) : State :=
  s.setOrd { s.ord with hent := sput s.ord.hent e (if ws.all (· == 0) then [] else ws) [] }

/-- One word of an entry. -/
def State.setEntW (s : State) (e w : Nat) (v : W32) : State :=
  s.setEnt e ((List.range 8).map fun k => if k = w then v else s.entW e k)

def State.entValid (s : State) (e : Nat) : Bool := wbit (s.entW e 0) 31
def State.entState (s : State) (e : Nat) : Nat := wfld (s.entW e 0) 30 29
def State.entRealm (s : State) (e : Nat) : Nat := wfld (s.entW e 0) 23 20
def State.entCur (s : State) (e : Nat) : Nat := cat64 (s.entW e 4) (s.entW e 5)
def State.entPend (s : State) (e : Nat) : Nat := cat64 (s.entW e 6) (s.entW e 7)
def State.entOwner (s : State) (e : Nat) : Nat := wfld (s.entW e 3) 31 16
def State.entSetState (s : State) (e st : Nat) : State := s.setEntW e 0 (wsetFld (s.entW e 0) 30 29 st)
def State.entSetAddr (s : State) (e w a : Nat) : State := (s.setEntW e w (w32 a)).setEntW e (w + 1) (w32 (a / 2 ^ 32))

/-- Valid records of a realm, and of the device. -/
def State.recsOf (s : State) (r : Nat) : List Nat :=
  (s.ord.hrec.filter fun p => wbit (s.recW p.1 0) 31 && wfld (s.recW p.1 0) 27 24 == r).map (·.1)
def State.recsUsed (s : State) : List Nat := (s.ord.hrec.filter fun p => wbit (s.recW p.1 0) 31).map (·.1)

/-- Valid entries of a realm. -/
def State.entsOf (s : State) (r : Nat) : List Nat :=
  (s.ord.hent.filter fun p => s.entValid p.1 && s.entRealm p.1 == r).map (·.1)

/-- 64-byte units of a realm's soft buffers in a tier. -/
def State.harqUse (s : State) (r tier : Nat) : Nat :=
  (s.ord.hbuf.filter fun b => b.realm == r && b.tier == tier).foldl (fun t b => t + b.size / 64) 0

/-- The registers of the Directory follow its content (R350). -/
def State.hdySync (s : State) (r : Nat) : State :=
  let s := s.wrN (Reg.HDY_RLM_RECORDS r) (s.recsOf r).length
  let s := s.wrN (Reg.HDY_RLM_ENTRIES r) (s.entsOf r).length
  let s := s.wrN (Reg.HDY_RLM_HBM64 r) (s.harqUse r 0)
  let s := s.wrN (Reg.HDY_RLM_DDR64 r) (s.harqUse r 1)
  s.setFld Reg.HDY_STATUS 13 0 (8192 - s.recsUsed.length)

/-- The record of a key (R338), a lookup counted. -/
def State.hdyFind (s : State) (r : Nat) (k : HKey) : Option Nat :=
  (s.recsOf r).find? fun i =>
    wfld (s.recW i 0) 23 12 == k.cell && wfld (s.recW i 1) 15 0 == k.ue && wfld (s.recW i 0) 28 28 == k.cw

/-- Quota of Directory entries of a realm (R42, R43). -/
def State.hdyQuota (s : State) (r : Nat) : Nat :=
  ((s.recs 0x12 r).find? fun x => x.num 8 1 == 8).elim 0 fun x => x.num 0xC 4

/-- Buffers of an entry at an address freed. -/
def State.bufFree (s : State) (e a : Nat) : State :=
  s.setOrd { s.ord with hbuf := s.ord.hbuf.filter fun b => ! (b.ent == e && b.addr == a) }

/-- An entry freed with all its buffers; its record is freed with its last entry (R339). -/
def State.entFree (s : State) (e : Nat) : State :=
  let r := s.entRealm e
  let s := s.setOrd { s.ord with hbuf := s.ord.hbuf.filter (·.ent ≠ e), fresh := s.ord.fresh.filter (· ≠ e) }
  let s := s.setEnt e []
  let i := e / 16
  let m := wfld (s.recW i 1) 31 16
  let m := if bitOf m (e % 16) then m - 2 ^ (e % 16) else m
  let s := if m = 0 then s.setRec i []
    else s.setRec i [s.recW i 0, wsetFld (s.recW i 1) 31 16 m, s.recW i 2, s.recW i 3]
  s.hdySync r

/-- A demotion cancelled (R147): the channel that copies is disabled, the DDR target freed, the entry IDLE. -/
def State.demoCancel (s : State) (e : Nat) : State :=
  match s.ord.demos.find? (·.ent == e) with
  | none => s
  | some d =>
    let s := s.setOrd { s.ord with demos := s.ord.demos.filter (·.ent ≠ e) }
    let s := s.setFld (Reg.SCB_CH_CFG (8 + d.engine) d.chan) 31 31 0
    let s := s.partly [(s.entPend e, s.bytes (s.entCur e) (wfld (s.entW e 1) 23 0 * 64))]
    let s := (s.bufFree e (s.entPend e)).entSetAddr e 6 0
    (s.setEntW e 3 (wsetFld (s.entW e 3) 31 16 0)).entSetState e 0 |>.hdySync d.realm

/-- Space for a fresh soft buffer (R145): HBM while the realm's HBM use is below HARQ_HI percent of its PLACEABLE HBM and
HBM has room, DDR otherwise. Answers address and tier. -/
def State.harqAlloc (s : State) (r size : Nat) (lo hi : Int) : Option (Nat × Nat) × State :=
  let hbm := s.placeable r 9
  let total := hbm.foldl (fun t c => t + c.cSize) 0
  let below := s.harqUse r 0 * 64 * 100 < s.fld (Reg.ORD_RLM_CQ_CFG r) 31 24 * total
  let used := s.usedRanges lo hi
  let a := if below then s.allocIn hbm used size 64 else (none, s)
  match a.1 with
  | some x => (some (x, 0), a.2)
  | none =>
    let b := a.2.allocIn (s.placeable r 10) used size 64
    (b.1.map fun x => (x, 1), b.2)

/-- What a decision found for one key: a grant (entry, FRESH, BUSY), or the refusal (status, DETAIL). -/
inductive Grant where
  | given (e : Nat) (fresh busy : Bool)
  | refused (status detail : Nat)

/-- PEND staged on an entry for Folio instance inst (R342). -/
def State.stage (s : State) (r inst e : Nat) (k : HKey) (fresh : Bool) (lo hi : Int) : Grant × State :=
  let a := s.harqAlloc r (k.size * 64) lo hi
  match a.1 with
  | none => (.refused 0x03 6, a.2)
  | some (x, t) =>
    let s := a.2
    let s := s.setOrd { s.ord with
      hbuf := s.ord.hbuf ++ [{ addr := x, size := k.size * 64, realm := r, tier := t, ent := e }],
      fresh := if fresh then setIns s.ord.fresh e else s.ord.fresh.filter (· ≠ e) }
    let w0 := wsetFld (wsetFld (wsetFld (wsetFld (wsetFld (s.entW e 0) 31 31 1) 30 29 1) 27 27 t) 26 25 k.fmt) 23 20 r
    let s := s.setEnt e [w0, w32 k.size, s.entW e 2, w32 (2 ^ 16 * inst), s.entW e 4, s.entW e 5, w32 x, w32 (x / 2 ^ 32)]
    (.given e fresh false, s.hdySync r)

/-- One key of a decision (R339, R342, R147). -/
def State.grantKey (s : State) (r inst : Nat) (k : HKey) (lo hi : Int) : Grant × State :=
  let s := s.bump Reg.HDY_LOOKUPS 1
  let stageNew := fun (s : State) (i : Nat) =>
    let e := 16 * i + k.proc
    let s := s.setRec i [wsetFld (w32 (2 ^ 31 + 2 ^ 28 * k.cw + 2 ^ 24 * r + k.cell * 2 ^ 12)) 31 31 1,
      w32 (2 ^ 16 * setBitN (wfld (s.recW i 1) 31 16) k.proc + k.ue), 0, 0]
    (s.setEnt e []).stage r inst e k true lo hi
  match s.hdyFind r k with
  | none =>
    if (s.recsOf r).length * 16 + 16 > s.hdyQuota r then (.refused 0x84 0, s) else
    let p := s.pick ((List.range 8192).filter fun i => ! s.recsUsed.contains i)
    match p.1 with
    | none => (.refused 0x84 0, p.2)
    | some i => stageNew p.2 i
  | some i =>
    let e := 16 * i + k.proc
    if ! s.entValid e then stageNew s i
    else if s.entState e = 1 then (.given e false true, s)
    else
      let s := if s.entState e = 2 then s.demoCancel e else s
      s.stage r inst e k (wfld (s.entW e 1) 23 0 ≠ k.size || wfld (s.entW e 0) 26 25 ≠ k.fmt) lo hi
where
  /-- A mask with bit n set. -/
  setBitN (m n : Nat) : Nat := if bitOf m n then m else m + 2 ^ n

/-- The switch of R335 after an OK combine: CUR takes PEND, COMBINES and LASTUSE advance, the old buffer is freed. -/
def State.entSwitch (s : State) (e : Nat) : State :=
  let r := s.entRealm e
  let w0 := s.entW e 0
  let old := s.entCur e
  let s := if old = 0 then s else s.bufFree e old
  let w0 := wsetFld (wsetFld (wsetFld (wsetFld w0 15 0 (min (wfld w0 15 0 + 1) 65535)) 28 28 (wfld w0 27 27)) 27 27 0) 30 29 0
  let s := s.setEnt e [w0, s.entW e 1, w32 (s.ts32 (s.defaultTb r)), 0, s.entW e 6, s.entW e 7, 0, 0]
  (s.setOrd { s.ord with fresh := s.ord.fresh.filter (· ≠ e) }).hdySync r

/-- An entry whose Folio ends without an OK combine (R342): PEND freed; IDLE, or freed when CUR is zero. -/
def State.entUnstage (s : State) (e : Nat) : State :=
  if s.entCur e = 0 then s.entFree e else
  let r := s.entRealm e
  let s := s.bufFree e (s.entPend e)
  let s := ((s.entSetAddr e 6 0).setEntW e 3 0).entSetState e 0
  (s.setOrd { s.ord with fresh := s.ord.fresh.filter (· ≠ e) }).hdySync r

/-- A realm reset frees every entry of the realm (R342). -/
def State.hdyRealmReset (s : State) (r : Nat) : State := (s.entsOf r).foldl State.entFree s

end Sys2Proof.Machine
end

