-- ==== Sys2Proof/Machine/Commands.lean ====
section
/-! DEFINITION. Ring notification and completion (R25, R26, R318, R439), the command interface's acceptance and result
slots (R65 to R71), and wake targets (R177). -/

namespace Sys2Proof.Machine

/-! ## Status codes (R31) -/

namespace St
def OK : Nat := 0x00
def WRONG_STATE : Nat := 0x01
def BAD_PARAM : Nat := 0x02
def NO_RESOURCE : Nat := 0x03
def ABORTED : Nat := 0x04
def DOMAIN_LOST : Nat := 0x05
def ECC_UNCORRECTABLE : Nat := 0x06
def TIMEOUT : Nat := 0x07
def ACCESS_DENIED : Nat := 0x08
def POISONED : Nat := 0x09
def LATE : Nat := 0x0A
def PREEMPTED : Nat := 0x0B
def BLOCK_IN_EXPERT : Nat := 0x0C
def NOT_READY : Nat := 0x0D
def RETENTION_LOST : Nat := 0x0E
def CRC_FAIL : Nat := 0x0F
def VERSION_MISMATCH : Nat := 0x10
def MIGRATION_FAILED : Nat := 0x11
def SIGNATURE_FAIL : Nat := 0x12
def BINDING_FAIL : Nat := 0x13
def FABRIC_UNREACHABLE : Nat := 0x14
def EPOCH_RETIRED : Nat := 0x15
/-- The model's mark of a HOLD response (R405): no status code of R31. -/
def HOLD : Nat := 0x100
end St

/-! ## Wakes (R177) -/

/-- Operation numbers of changes no service of R181 names: a routed flag set and a routed post. -/
def jWAKE_FLAG : Nat := 0x40
def jWAKE_SEM : Nat := 0x41

/-- A change joins the queue of those waiting for their journal write (R171, R184). -/
def State.jPush (s : State) (q : Nat) (r : JReq) : State :=
  s.setDuc q { s.ducSt q with jq := (s.ducSt q).jq ++ [r] }

/-- A wake aimed at a target word: the change waits for its journal write; a FREE object drops it and sets
STATUS.WAKE_DROP. -/
def State.wakeTarget (s : State) (w : W32) : State :=
  let q := wfld w 18 16
  let o := wfld w 15 8
  if wbit w 31 then
    if s.bit (Reg.DUC_SEM_STATE q o) 31 then
      s.jPush q { op := jWAKE_SEM, tid := 0, port := none, slot := none, a := o, b := 1, c := 0 }
    else s.setBit (Reg.DUC_STATUS q) 28
  else
    if s.bit (Reg.DUC_FLAG_OWNER q o) 31 then
      s.jPush q { op := jWAKE_FLAG, tid := 0, port := none, slot := none, a := o, b := 2 ^ wfld w 4 0, c := 0 }
    else s.setBit (Reg.DUC_STATUS q) 28

/-- Whether a wake target word names an object of realm r (R179). -/
def State.targetOf (s : State) (w : W32) (r : Nat) : Bool :=
  let q := wfld w 18 16
  let o := wfld w 15 8
  let own := if wbit w 31 then s.rd (Reg.DUC_SEM_STATE q o) else s.rd (Reg.DUC_FLAG_OWNER q o)
  wbit own 31 && wfld own 27 24 == r

/-! ## Ring notification and completion -/

/-- What a ring does when its EVMODE signals (R79, R318, R439, chapter 13): event, pending bit, wake. -/
def State.notifyRing (s : State) : RingId → State
  | .cmd r => (s.setBit (Reg.CMD_EVSRC r) 0).raise (1000 + r)
  | .pool j r =>
    let b := poolBase j
    let s := (s.setBit (Reg.POOL_RING_PEND b) r).raise (288 + j)
    if s.bit (Reg.POOL_RING_NOTIFY_CTL b r) 31 then s.wakeTarget (s.rd (Reg.POOL_RING_NOTIFY_TGT b r)) else s
  | .ra e r =>
    let s := (s.setBit (Reg.RAE_RING_PEND e) r).raise (448 + e)
    if s.bit (Reg.RAE_RING_NOTIFY_CTL e r) 31 then s.wakeTarget (s.rd (Reg.RAE_RING_NOTIFY_TGT e r)) else s
  | .scribe e c =>
    let s := (s.setBit (Reg.SCB_CH_PEND e) c).raise (if e.val < 8 then 480 + e else 496 + 4 * (e - 8) + c / 8)
    if s.bit (Reg.SCB_CH_CTL e c) 30 then s.wakeTarget (s.rd (Reg.SCB_CH_NOTIFY_TGT e c)) else s
  | .fhTx e r =>
    let s := if r.val < 16 then s.raise (704 + 16 * e + r) else s.raise (736 + 2 * e)
    if s.bit (Reg.FHE_RING_NOTIFY_CTL e r) 31 then s.wakeTarget (s.rd (Reg.FHE_RING_NOTIFY_TGT e r)) else s
  | .fhRx e r =>
    let s := if r.val < 16 then s.raise (704 + 16 * e + r) else s.raise (737 + 2 * e)
    if s.bit (Reg.FHE_RING_NOTIFY_CTL e r) 30 then s.wakeTarget (s.rd (Reg.FHE_RING_NOTIFY_TGT e r)) else s

/-- Whether EVMODE signals at a completion, and the completions counted and not yet signalled after it. -/
def evSignal (evmode batch counted : Nat) (empties : Bool) : Bool × Nat :=
  if evmode = 1 then (true, 0)
  else if evmode = 2 then
    (if counted + 1 ≥ max batch 1 || empties then (true, 0) else (false, counted + 1))
  else (false, 0)

/-- A completion counted under a ring's EVMODE and BATCH (R29): it signals or sets STAT.EVPEND. -/
def State.ringEvent (s : State) (r : RingId) : State :=
  let b := ringBase r
  let (sig, n) := evSignal (s.fld (b + 8) 1 0) (s.fld (b + 8) 15 8) (sget s.batch b 0) (ringEmpty s b)
  let s := { s with batch := sput s.batch b n 0 }
  let s := s.setFld (b + 0x1C) 0 0 (if n = 0 then 0 else 1)
  if sig then s.notifyRing r else s

/-- The local address of the descriptor at HEAD, when the device can reach it. -/
def State.descLocal (s : State) (b : Nat) : Nat := ((s.localOf (ringDescAddr s b)).getD 0)

/-- Whether the device can read n bytes at a global address for a ring of a realm (16: the device's own). -/
def State.reachable (s : State) (r g n : Nat) : Bool :=
  s.devReadable g n && (r = 16 || (match s.localOf g with
    | some a => s.inRealm r a n || 0x100000000000 ≤ a
    | none => false))

/-- The device looks at the descriptor at HEAD (R28): an error response stops the ring with FETCHERR, OWN = 0 with STALL. -/
def State.ringLook (s : State) (r : RingId) : State :=
  let b := ringBase r
  let s := { s with stalled := s.stalled.filter (· ≠ b) }
  if ! ringEnabled s b || ringEmpty s b then s
  else if ! s.reachable (s.ringRealm r) (ringDescAddr s b) 64 then
    { s.setBit (b + 0x1C) 5 with stalled := setIns s.stalled b }
  else if ! bitOf (s.load (s.descLocal b) 4) 31 then
    { s.setBit (b + 0x1C) 2 with stalled := setIns s.stalled b }
  else s

/-- The descriptor in progress of a ring is abandoned (R29, R430): its data writes are partly done, nothing else of it is
written any more. -/
def State.abandon (s : State) (r : RingId) : State :=
  let s := s.eng.foldl (fun s e => match e.2 with
    | some j => if j.job.ring = r then s.partly j.writes else s
    | none => s) s
  { s with eng := s.eng.filter fun e => match e.2 with
    | some j => j.job.ring ≠ r
    | none => true }

/-- A write of a ring's CFG (R29, R30, R12): LOG2_SIZE only while ENABLE is 0, where a change empties the ring; ENABLE
cleared abandons the descriptor in progress; ENABLE set looks at HEAD. -/
def State.ringCfgWrite (s : State) (r : RingId) (v : W32) : State :=
  let b := ringBase r
  let a := b + 8
  let was := ringEnabled s b
  let k := wfld v 20 16
  let s := s.setFld a 15 8 (wfld v 15 8)
  let s := if wfld v 1 0 = 3 then s else s.setFld a 1 0 (wfld v 1 0)
  let s := if was || k < 3 || 16 < k || k = s.fld a 20 16 then s else
    ((((s.setFld a 20 16 k).wr (b + 0xC) 0).wr (b + 0x10) 0).setFld (b + 0x1C) 0 0 0)
  if was && ! wbit v 31 then (s.setFld a 31 31 0).abandon r
  else if ! was && wbit v 31 then
    (match r with
     | .scribe e _ => if s.timedRing r then s.setBit (Reg.SCB_STATUS e) 29 else ((s.setFld a 31 31 1).tokReset r).ringLook r
     | _ => (s.setFld a 31 31 1).ringLook r)
  else s

/-- A ring's BASE and HEADWB written: BASE only while ENABLE is 0 (R30). -/
def State.ringBaseWrite (s : State) (r : RingId) (lo hi : W32) : State :=
  let b := ringBase r
  if ringEnabled s b then s else (s.wrN b (lo.toNat / 64 * 64)).wr (b + 4) hi

def State.ringHeadwbWrite (s : State) (r : RingId) (lo hi : W32) : State :=
  let b := ringBase r
  (s.wrN (b + 0x14) (lo.toNat / 4 * 4 + lo.toNat % 2)).wr (b + 0x18) hi

/-- A write of TAIL (R21, R28): a value of 2^k or more has no effect and sets BADTAIL. -/
def State.ringTailWrite (s : State) (r : RingId) (v : Nat) : State :=
  let b := ringBase r
  if ringSize s b ≤ v then s.setBit (b + 0x1C) 3 else (s.wrN (b + 0xC) v).ringLook r

/-- Completion of the descriptor at HEAD (R25): words 14 and 15, then word 0 with OWN cleared, HEAD, HEAD write-back,
STAT.ERR for a status other than OK, and the ring's event. -/
def State.complete (s : State) (r : RingId) (status detail : Nat) : State :=
  let b := ringBase r
  let g := ringDescAddr s b
  let tb := s.ringTb r
  let w0 := s.load (s.descLocal b) 4 % 2 ^ 31
  let s := writeBack b (g + 56) (leBytes 4 (s.ts32 tb) ++ leBytes 4 (2 ^ 24 * tb + detail % 2 ^ 16 * 2 ^ 8 + status)) s
  let s := writeBack b g (leBytes 4 w0) s
  let s := s.wrN (b + 0x10) ((ringHead s b + 1) % ringSize s b)
  let s := if s.bit (b + 0x14) 0 then
      writeBack b (cat64 (s.rd (b + 0x14)) (s.rd (b + 0x18)) / 4 * 4) (leBytes 4 (ringHead s b)) s else s
  let s := if status = St.OK then s else s.setBit (b + 0x1C) 1
  let s := if ringEmpty s b then s.tokReset r else s
  (s.ringEvent r).ringLook r

/-- Whether a ring has a descriptor for its engine: enabled, not empty, and not stopped at its head (R28). -/
def State.ringReady (s : State) (r : RingId) : Bool :=
  ringEnabled s (ringBase r) && ! ringEmpty s (ringBase r) && ! s.stalled.contains (ringBase r)

/-! ## Result slots (R70) -/

/-- Key of a slot: 65 to a ring, of which slot 64 is the result of an NSP COMMAND frame. -/
def slotKey (k : SlotId) : Nat := k.ring * 65 + k.slot

/-- Whether a slot is that of an NSP COMMAND frame (R588). -/
def nspSlot (k : SlotId) : Bool := k.slot.val == 64

/-- The result of an NSP COMMAND frame: words 0 to 15. -/
def State.nspResult (s : State) (seq op status : Nat) (ws : List W32) : State :=
  { s with nsp := { s.nsp with result := [w32 (2 ^ 16 * seq + op * 2 ^ 8 + status), w32 (s.ts32 0), 0] ++ (List.range 13).map (ws.getD · 0) } }

/-- The command that runs on a slot. -/
def State.running (s : State) (k : SlotId) : Option RunCmd := sget s.vlm.cmds (slotKey k) none

/-- Set or clear the command that runs on a slot. -/
def State.setRunning (s : State) (k : SlotId) (c : Option RunCmd) : State :=
  { s with vlm := { s.vlm with cmds := sput s.vlm.cmds (slotKey k) c none } }

/-- On acceptance the slot keeps its SEQ and data and shows NOT_READY. -/
def State.slotBegin (s : State) (k : SlotId) (c : RunCmd) : State :=
  (if nspSlot k then s else s.setFld (Reg.CMD_RSLT_W0 k.ring k.slot) 7 0 St.NOT_READY).setRunning k (some c)

/-- The command of a slot ends: words 1 to 15, then word 0 with the new SEQ and the final status. -/
def State.slotEnd (s : State) (k : SlotId) (status : Nat) (ws : List W32) : State :=
  match s.running k with
  | none => s
  | some c =>
    if nspSlot k then (s.nspResult c.d.seq.toNat c.op status ws).setRunning k none else
    let a := Reg.CMD_RSLT_W0 k.ring k.slot
    let tb := s.defaultTb k.ring
    let s := s.wrWords (a + 4) ([w32 (s.ts32 tb), w32 tb] ++ (List.range 13).map (ws.getD · 0))
    (s.wrN a (2 ^ 16 * c.d.seq.toNat + c.op * 2 ^ 8 + status)).setRunning k none

/-! ## Acceptance (R68 to R71) -/

/-- The checks every command undergoes, in the model's order (notes/assumptions/5.md): permission (R69), then slot in use
(R71). Answers status and DETAIL. -/
def commonCheck (s : State) (d : Desc) : Nat × Nat :=
  if d.ring.val < 16 && d.tgt ≠ d.ring then (St.ACCESS_DENIED, 0)
  else if 16 ≤ d.tgt && d.tgt ≠ 255 then (St.BAD_PARAM, 0)
  else if (s.running d.slotId).isSome then (St.NO_RESOURCE, 1)
  else (St.OK, 0)

/-- A rejected command changes nothing but REJ_CNT; its descriptor completes with the status. -/
def State.reject (s : State) (d : Desc) (status detail : Nat) : State :=
  (s.bumpSat (Reg.CMD_REJ_CNT d.ring) 31 0 1).complete (.cmd d.ring) status detail

/-- One command: checked, then rejected, or accepted with its slot NOT_READY, its effect, and its descriptor completed
with OK. A command of an NSP frame (R588) has no ring: its result alone is written. chk answers status and DETAIL; act is given the state in which the slot already runs. -/
def command (op : Nat) (d : Desc) (chk : State → Nat × Nat) (act : State → State) (s : State) : State :=
  if ! nspSlot d.slotId && ! s.ringReady (.cmd d.ring) then s else
  let c := commonCheck s d
  let c := if c.1 = St.OK then chk s else c
  if nspSlot d.slotId then
    (if c.1 = St.OK then act (s.slotBegin d.slotId { op := op, d := d }) else s.nspResult d.seq.toNat op c.1 [])
  else if c.1 = St.OK then
    (act (s.slotBegin d.slotId { op := op, d := d })).complete (.cmd d.ring) St.OK 0
  else s.reject d c.1 c.2

/-- A command that ends as it is accepted: act answers the state, the final status and the result words 3 onward. -/
def commandNow (op : Nat) (d : Desc) (chk : State → Nat × Nat) (act : State → State × Nat × List W32) (s : State) : State :=
  command op d chk (fun s => let r := act s; r.1.slotEnd d.slotId r.2.1 r.2.2) s

/-- A command of another chapter aimed at a realm needs it RUNNING (R64). -/
def runningCheck (s : State) (d : Desc) : Nat × Nat :=
  if d.tgt < 16 && s.realmState d.tgt ≠ 2 then (St.WRONG_STATE, 0) else (St.OK, 0)

/-- The first check that fails, in order. -/
def firstFail : List (Nat × Nat) → Nat × Nat
  | [] => (St.OK, 0)
  | c :: r => if c.1 = St.OK then firstFail r else c

/-- A condition as a check: the status when it does not hold. -/
def need (ok : Bool) (status : Nat) : Nat × Nat := if ok then (St.OK, 0) else (status, 0)

/-- The lock of a block instance (R73 to R77): LOCK[i].HELD of its number, or a lock accepted and not yet set (R76). -/
def State.expertHeld (s : State) (i : Nat) : Bool := s.bit (Reg.VLM_LOCK i) 31 || (sget s.vlm.lockReqs i none).isSome

/-- A basic-level command to an instance returns BLOCK_IN_EXPERT while its lock is held or accepted (R76). -/
def notExpert (s : State) (i : Nat) : Nat × Nat := need (! s.expertHeld i) St.BLOCK_IN_EXPERT

end Sys2Proof.Machine
end

