-- ==== Sys2Proof/Machine/Access.lean ====
section
/-! DEFINITION. Which requester may reach a register (R20 and the access rules of the blocks' chapters) and which one
holds its RWL fields (R10, R77, R118). -/

namespace Sys2Proof.Machine

/-- The realm a requester speaks for; 16 for none. -/
def State.whoRealm (s : State) : Requester → Nat
  | .vf r => r
  | .nib i => s.nibTag i
  | _ => 16

/-- Control firmware on cores 0 to 3, and the device's own engines. -/
def isFirmware : Requester → Bool
  | .core c => c.val < 4
  | .engine => true
  | _ => false

/-- The physical function, and control cores 4 to 7, which have exactly its rights (R599). -/
def isPf : Requester → Bool
  | .pf => true
  | .core c => 4 ≤ c.val
  | _ => false

/-- A field of a realm's record of a type; 0 without a record. -/
def State.recNum (s : State) (typ r o n : Nat) : Nat := ((s.recs typ r).head?.map fun x => x.num o n).getD 0

/-- Whether bit n of a PORT_MAP mask of realm r is set (R48). -/
def State.portBit (s : State) (r o len n : Nat) : Bool := bitOf (s.recNum 0x15 r o len) n

/-- The realm whose PORT_MAP mask holds bit n; 16 for none. -/
def State.portOwner (s : State) (o len n : Nat) : Nat :=
  ((List.range 16).find? fun r => s.portBit r o len n).getD 16

/-- Realm that owns Ferrule f of Quire q by QUIRE_SHARE; 16 for none. -/
def State.ferRealm (s : State) (q f : Nat) : Nat :=
  ((s.recsAny 0x11).find? fun r => r.num 8 1 == q && bitOf (r.num 9 1) f).elim 16 (·.realm)

/-- A realm's QUIRE_SHARE record in Quire q. -/
def State.quireShare (s : State) (r q : Nat) : Option VRec := (s.recs 0x11 r).find? fun x => x.num 8 1 == q

/-- A realm's share of instance i of a pool in 1/256 units (R42); 0 for none. -/
def State.share (s : State) (r pool i : Nat) : Nat :=
  ((s.recs 0x12 r).find? fun x => x.num 8 1 == pool && bitOf (x.num 0xA 2) i).elim 0 fun x => x.num 0xC 4 % 512

/-- Whether DUC[q] counts as assigned to realm r alone (R193). -/
def State.ducAlone (s : State) (q r : Nat) : Bool :=
  let own := (List.range 16).map (s.nibRealm q) ++ [s.ferRealm q 0, s.ferRealm q 1]
  own.contains r && own.all fun x => x == r || x == 16

/-- Realms that name a grid in a record of their own (R90). -/
def State.gridRealms (s : State) (g : Nat) : List Nat :=
  (List.range 16).filter fun r => (s.recs 0x31 r).any fun x => x.num 8 1 == g

/-- Whether a device-wide record names a grid. -/
def State.gridDevice (s : State) (g : Nat) : Bool := (s.recs 0x31 0xFF).any fun x => x.num 8 1 == g

/-- Whether realm r may read grid g (R90). -/
def State.gridVisible (s : State) (g r : Nat) : Bool := s.gridDevice g || (s.gridRealms g).contains r

/-- Owner of a trigger channel (R102): a realm, or 16. -/
def State.trigOwner (s : State) (c : Nat) : Nat := (sget s.time.trigs c Trig.init).owner

/-- Realm whose masks hold every lane of JESD quad k (R491): lanes 4k to 4k + 3 of both directions; 16 for none. -/
def State.jesRealm (s : State) (k : Nat) : Nat :=
  ((List.range 16).find? fun r => (List.range 4).all fun l =>
    s.portBit r 0x10 2 (4 * k + l) && s.portBit r 0x12 2 (4 * k + l)).getD 16

/-- Requester code as LOCK[i] shows a holder (R80): KIND and HOLDER. -/
def whoKind : Requester → Nat × Nat
  | .pf => (0, 0)
  | .vf r => (1, r + 1)
  | .core c => if c.val < 4 then (2, c) else (0, 0)
  | .nib i => (3, i)
  | .engine => (3, 0)

/-- Whether a requester is the holder of the expert lock of instance i. -/
def State.lockHolder (s : State) (who : Requester) (i : Nat) : Bool :=
  s.bit (Reg.VLM_LOCK i) 31 && s.fld (Reg.VLM_LOCK i) 19 18 == (whoKind who).1 &&
    s.fld (Reg.VLM_LOCK i) 15 0 == (whoKind who).2

/-- Whether a requester may reach a CSR address (R20), control firmware and lock holders apart. -/
def State.mayReach (s : State) (who : Requester) (a : Nat) : Bool :=
  let r := s.whoRealm who
  let dev := isPf who
  let blk := a / 0x10000
  let o := a % 0x10000
  match blockOf blk with
  | none => false
  | some (b0, _) =>
    let n := blk - b0
    match b0 with
    | 0x0 => true
    | 0x10 => if n < 16 then r == n else dev
    | 0x40 => dev || (r < 16 && (s.recs 0x14 r).any fun x => x.num 8 1 == n)
    | 0x50 =>
      if dev then true else if r = 16 then false
      else if o < 0x80 then s.portBit r 0x14 1 (o / 16)
      else if o < 0xC0 then s.portBit r 0x15 1 ((o - 0x80) / 4)
      else if o < 0x1000 then s.portBit r 8 4 (s.fld (Reg.RUL_SYNCE_CFG ((o - 0xC0) / 8)) 12 8)
      else s.gridVisible ((o - 0x1000) / 32) r
    | 0x51 => if o < 0x1000 then true else dev || (r < 16 && s.trigOwner ((o - 0x1000) / 64) == r)
    | 0x60 => if o < 0x1000 then true else dev || r == (o - 0x1000) / 64
    | 0x70 =>
      if 0x100 ≤ o && o < 0x300 then
        (match who with | .nib i => i.val == 16 * n + (o - 0x100) / 32 | _ => false)
      else dev || (r < 16 && (s.quireShare r n).isSome)
    | 0x100 => r < 16 && s.nibTag n == r
    | 0x180 => r < 16 && s.ferRealm (n / 2) (n % 2) == r
    | 0x260 => 0x100 ≤ o && r < 16 && r == (o - 0x100) / 16
    | 0x280 =>
      if 0x1000 ≤ o && o < 0x2000 then dev || r == (o - 0x1000) / 64
      else if 0x2000 ≤ o && o < 0x3000 then dev || r == (o - 0x2000) / 64
      else if 0x4000 ≤ o then dev || r == (o - 0x4000) / 512
      else dev || (r < 16 && s.share r 7 n ≠ 0)
    | 0x300 => dev
    | 0x310 => dev
    | 0x320 => dev
    | 0x340 => dev
    | 0x370 => dev
    | 0x400 =>
      if 0x40 ≤ o && o < 0x80 then r == (o - 0x40) / 4
      else if 0x1000 ≤ o && o < 0x2000 then r < 16 && s.scribeRealm n ((o - 0x1000) / 64) == r
      else if 0x4000 ≤ o then r < 16 && s.scribeRealm n ((o - 0x4000) / 256) == r
      else true
    | 0x500 => let w := s.portOwner 8 4 n; if w = 16 then dev else r == w
    | 0x520 =>
      if 0x1000 ≤ o && o < 0x3000 then (if (o - 0x1000) / 128 = 16 then dev else r == (o - 0x1000) / 128)
      else if 0x3000 ≤ o then dev || r < 16
      else if o = 0x10 || o = 0x14 || (0x40 ≤ o && o < 0x80) then false
      else dev
    | 0x530 => let w := s.jesRealm n; if w = 16 then dev else r == w
    | 0x540 =>
      if 0x4000 ≤ o then dev || (r < 16 && s.portBit r 0x16 2 ((o - 0x4000) / 16)) else dev || r < 16
    | 0xF10 => dev && ! (0x30 ≤ o && o < 0x48)
    | _ =>
      if 0x200 ≤ b0 && b0 ≤ 0x270 then
        (if 0x1000 ≤ o then dev || r == (o - 0x1000) / 64
         else dev || (r < 16 && s.share r ((b0 - 0x200) / 0x10 - (if b0 = 0x270 then 1 else 0)) n ≠ 0))
      else dev

/-- Whether an access by a requester is admitted (R19, R20). -/
def State.permits (s : State) (who : Requester) (a : Nat) : Bool :=
  (blockOf (a / 0x10000)).isSome && (isFirmware who || s.lockHolder who (a / 0x10000 % 4096) || s.mayReach who a)

/-- Whether a requester holds the RWL fields of the register at an address: the lock holder alone while the instance is
locked (R77), else the holders the block's chapter names (R65, R118, R316, R420, R614; control firmware everywhere). -/
def State.holds (s : State) (who : Requester) (a : Nat) : Bool :=
  let blk := a / 0x10000
  let o := a % 0x10000
  let r := s.whoRealm who
  if s.bit (Reg.VLM_LOCK (blk % 4096)) 31 then s.lockHolder who (blk % 4096)
  else
    match blockOf blk with
    | some (0x50, _) =>
      if 0x1000 ≤ o then
        let g := (o - 0x1000) / 32
        let rs := s.gridRealms g
        if rs.length = 1 && ! s.gridDevice g then isFirmware who || rs.contains r
        else if rs.isEmpty then isFirmware who
        else false
      else isFirmware who
    | some (0x10, _) => isFirmware who || (isPf who && blk == 0x20) || (match who with | .vf v => v.val == blk - 0x10 | _ => false)
    | some (0x51, _) => isFirmware who || (r < 16 && s.trigOwner ((o - 0x1000) / 64) == r)
    | some (0x400, _) =>
      isFirmware who ||
        (if 0x1000 ≤ o && o < 0x2000 then r < 16 && s.scribeRealm (blk - 0x400) ((o - 0x1000) / 64) == r
         else if 0x4000 ≤ o then r < 16 && s.scribeRealm (blk - 0x400) ((o - 0x4000) / 256) == r else false)
    | some (0x660, _) => isFirmware who || isPf who
    | _ => isFirmware who

/-- Initiator code of a requester (R407). -/
def whoInit : Requester → Nat
  | .nib i => i
  | .core c => 222 + c
  | .pf => 221
  | .vf _ => 221
  | .engine => 231

/-- A read or write of one register by a requester that names an effect of its own: not admitted answers ACCESS_DENIED
with data zero; admitted runs the effect, which answers the data. An access that meets a domain below D0 only wakes it
(R524): the access itself is then FIRST_ACCESS, and HELD_REQUEST_PERFORM performs it. -/
def access (who : Requester) (a : Nat) (act : State → State × Nat) (s : State) : State :=
  if ! s.domUp (s.addrDomain a) then
    { s.firstWake (s.addrDomain a) (whoInit who) with
      resp := { status := if s.domForced (s.addrDomain a) then St.DOMAIN_LOST else St.HOLD, data := 0 } }
  else if s.permits who a then
    let r := act s
    { r.1 with resp := { status := St.OK, data := r.2 } }
  else { s with resp := { status := St.ACCESS_DENIED, data := 0 } }

/-- A write of RWL fields: no effect from a requester that does not hold them (R10). -/
def accessHeld (who : Requester) (a : Nat) (act : State → State) (s : State) : State :=
  access who a (fun s => (if s.holds who a then act s else s, 0)) s

end Sys2Proof.Machine
end

