-- ==== Sys2Proof/Machine/OrdOps.lean ====
section
/-! DEFINITION. The operations of the Ordinator (chapter 4): templates, bookings, the placement of tasks and objects, the
control block, task ends, late policies, completions, demotion and re-placement. -/

namespace Sys2Proof.Machine

/-! ## Templates (R123 to R126) -/

def VRec.ntask (r : VRec) : Nat := r.num 0xA 1
def VRec.nobj (r : VRec) : Nat := r.num 0xB 1
def VRec.nedge (r : VRec) : Nat := r.num 0xC 2
/-- n-byte field at offset o of task entry t. -/
def VRec.task (r : VRec) (t o n : Nat) : Nat := r.num (0x30 + 16 * t + o) n
/-- n-byte field at offset o of object entry k. -/
def VRec.obj (r : VRec) (k o n : Nat) : Nat := r.num (0x30 + 16 * r.ntask + 16 * k + o) n
/-- Edge word e. -/
def VRec.edge (r : VRec) (e : Nat) : Nat := r.num (0x30 + 16 * r.ntask + 16 * r.nobj + 4 * e) 4
/-- Non-STREAM predecessors of task t. -/
def VRec.preds (r : VRec) (t : Nat) : List Nat :=
  ((List.range r.nedge).map r.edge).filterMap fun w => if bitsOf w 13 8 = t && ! bitOf w 23 then some (bitsOf w 5 0) else none
def VRec.optional (r : VRec) (t : Nat) : Bool := bitOf (r.task t 1 1) 2
def VRec.fabricOk (r : VRec) (t : Nat) : Bool := bitOf (r.task t 1 1) 3
def VRec.spread (r : VRec) (t : Nat) : Bool := bitOf (r.task t 1 1) 4

/-- Topological order, the lowest index first among ready tasks (R135). -/
def topoOrder (n : Nat) (preds : Nat → List Nat) : List Nat :=
  (List.range n).foldl (fun done _ =>
    match (List.range n).find? fun t => ! done.contains t && (preds t).all done.contains with
    | some t => done ++ [t]
    | none => done) []

def VRec.order (r : VRec) : List Nat := topoOrder r.ntask r.preds

/-- Duration of a task in ns (R135), rounded up. -/
def durNs (cls cost : Nat) : Nat :=
  match cls with
  | 0 => (cost * 5 + 7) / 8
  | 1 => (cost * 5 + 5) / 6
  | _ => cost

/-- A task that nothing has placed. -/
def FTask.blank (cls width cost : Nat) : FTask :=
  { cls := cls, unit := 0, width := width, cost := cost, start := 0, fin := 0, reason := 0, going := false, ended := false,
    status := 0, left := if cls < 2 then width else 0, replaced := false, skipped := false, peer := none }

/-! ## Folios in the state -/

def Folio.grid (f : Folio) : Nat := f.tmpl.num 0xE 1
def Folio.taskAt (f : Folio) (t : Nat) : FTask := f.tasks.getD t (FTask.blank 0 0 0)
def Folio.setTask (f : Folio) (t : Nat) (x : FTask) : Folio := { f with tasks := f.tasks.set t x }
def Folio.handle (f : Folio) : Nat := 2 ^ 16 * f.realm + f.inst
/-- Predicted end of a Folio. -/
def Folio.predicted (f : Folio) : Int := f.tasks.foldl (fun m t => max m t.fin) f.release

def State.folio (s : State) (r inst : Nat) : Option Folio := s.ord.folios.find? fun f => f.realm == r && f.inst == inst
def State.setFolio (s : State) (f : Folio) : State :=
  s.setOrd { s.ord with folios := s.ord.folios.map fun g => if g.realm = f.realm && g.inst = f.inst then f else g }
def State.queued (s : State) : List Folio := s.ord.folios.filter (·.state == 0)

/-- STATUS.QLEVEL follows the queue. -/
def State.ordSync (s : State) : State := s.setFld Reg.ORD_STATUS 20 10 s.queued.length

/-- Nanoseconds to add to a time of base b for the same instant on TB0. -/
def State.toTb0 (s : State) (b : Nat) : Int := (s.tbNs 0 : Int) - s.tbNs b

/-- TS32 of a time in ns. -/
def tsOf (t : Int) : Nat := unsigned 32 t

/-- A record of the placement trace (R155). -/
def State.ordTrace (s : State) (typ realm inst tb w2 w3 : Nat) : State :=
  if ! (s.bit Reg.ORD_TRACE_CFG 31 && s.bit Reg.ORD_TRACE_CFG typ) then s else
  match s.blotter 8 [s.ts32 tb, 2 ^ 29 * tb + 2 ^ 24 * typ + 2 ^ 20 * (realm % 16) + inst % 2 ^ 16, w2 % 2 ^ 32, w3 % 2 ^ 32] with
  | some s' => s'
  | none => (s.bumpSat Reg.ORD_TRACE_DROP 31 0 1).raise 1020

/-! ## Units and bookings (R135 to R137) -/

/-- Number of an expert lock of a pool instance or RA engine. -/
def poolLock (j : Nat) : Nat := if j < 56 then poolBase j / 0x10000 % 4096 else 0x280 + (j - 56)

/-- Whether a unit is out of placement: fenced, or its instance expert-locked (R144, R148). Kinds as in `UBook`, kind 0 by
its Quire. -/
def State.unitOut (s : State) (kind unit : Nat) : Bool :=
  match kind with
  | 0 => s.ord.fenced.contains (0, unit) || s.expertHeld (0x70 + unit)
  | 1 => s.ord.fenced.contains (1, unit) || s.ord.fenced.contains (0, unit / 2) || s.expertHeld (0x180 + unit)
  | 2 => s.ord.fenced.contains (2, unit) || s.expertHeld (poolLock unit)
  | _ => s.ord.fenced.contains (3, unit) || s.expertHeld (0x408 + unit)

/-- Nibs of Quire q that realm r owns and that are not expert-locked. -/
def State.nibsOf (s : State) (q r : Nat) : List Nat :=
  (List.range 16).filter fun n => s.nibRealm q n == r && ! s.expertHeld (0x100 + 16 * q + n)

/-- A unit a task can go to: the number R134 shows, its booking kind and unit, how many may be booked at once and how many
the task takes, its Quire, and the quota that limits it (R137). -/
structure Cand where
  shown : Nat
  kind : Nat
  unit : Nat
  cap : Nat
  need : Nat
  quire : Nat
  quota : Option Nat
deriving DecidableEq, Repr

/-- First serial of a pool, RA engines after the pool units. -/
def serialOf (p i : Nat) : Nat := if p = 7 then 56 + i else poolFirst p + i

/-- Threads a task has in the Ductus. -/
def FTask.threads (t : FTask) : Nat := if t.cls = 0 then t.width else if t.cls = 1 then 1 else 0

/-- Quire of a placed NIB or FER task. -/
def FTask.quire (t : FTask) : Nat := t.unit % 8

/-- Room for n more threads of realm r in Quire q beside those of tasks just placed. -/
def State.tcbRoom (s : State) (f : Folio) (q n : Nat) : Bool :=
  let put := f.tasks.foldl (fun k t => if t.cls < 2 && ! t.ended && t.reason < 16 && t.fin ≠ 0 && t.quire = q then k + t.threads else k) 0
  (s.tcbsOf q f.realm).length + put + n ≤ ((s.quireShare f.realm q).elim 0 fun x => x.num 0x10 2) &&
    put + n ≤ (s.freeTcbs q).length

/-- Units a task of a Folio can go to (R136, R137, R636), within a home Quire when it has one, to one unit when pinned. -/
def State.cands (s : State) (f : Folio) (t : Nat) (home only : Option Nat) (limit : Bool) : List Cand :=
  let x := f.taskAt t
  let r := f.realm
  let here := fun q => f.tmpl.spread t || home.getD q == q
  if x.cls = 0 then
    (List.range 8).filterMap fun q =>
      let ns := s.nibsOf q r
      if ns.isEmpty || s.unitOut 0 q || ! here q || (only.getD q) % 8 ≠ q || ! s.tcbRoom f q x.width then none
      else some { shown := q, kind := 0, unit := 16 * q + r, cap := ns.length, need := x.width, quire := q, quota := none }
  else if x.cls = 1 then
    (List.range 16).filterMap fun u =>
      let q := u % 8
      let k := u / 8
      if (s.nibsOf q r).isEmpty || s.ferRealm q k ≠ r || s.unitOut 1 (2 * q + k) || s.unitOut 0 q || ! here q ||
        (only.getD u) % 16 ≠ u || ! s.tcbRoom f q 1 then none
      else some { shown := u, kind := 1, unit := 2 * q + k, cap := 1, need := 1, quire := q, quota := none }
  else if x.cls ≤ 9 then
    let p := x.cls - 2
    (List.range 16).filterMap fun i =>
      let j := serialOf p i
      if s.share r p i = 0 || poolCount p ≤ i || s.unitOut 2 j || only.getD i ≠ i then none
      else some { shown := i, kind := 2, unit := j, cap := 1, need := 1, quire := 8,
                  quota := if limit then some (s.share r p i) else none }
  else
    (List.range 4).filterMap fun e =>
      if s.unitOut 3 e || only.getD e ≠ e then none
      else some { shown := e, kind := 3, unit := e, cap := 1, need := 1, quire := 8, quota := none }

/-- Bookings on a unit. -/
def State.unitBooks (s : State) (kind unit : Nat) : List UBook := s.ord.books.filter fun b => b.kind == kind && b.unit == unit

/-- The most that is booked at once of a unit in [lo, hi). -/
def peak (bs : List UBook) (lo hi : Int) : Nat :=
  let both := bs.filter fun b => b.lo < hi && lo < b.hi
  (lo :: (both.map (·.lo)).filter (lo < ·)).foldl (fun m p =>
    max m ((both.filter fun b => b.lo ≤ p && p < b.hi).foldl (fun k b => k + b.n) 0)) 0

/-- Start of the first interval of length d at or after `ready` in which a unit has room (R135). -/
def firstFit (bs : List UBook) (cap need : Nat) (ready d : Int) : Option Int :=
  let ok := (ready :: (bs.map (·.hi)).filter (ready < ·)).filter fun p => peak bs p (p + d) + need ≤ cap
  match ok with
  | [] => none
  | p :: r => some (r.foldl min p)

/-- Time booked on a unit within booking window w of a time base that is `off` ns ahead of TB0, by one realm or by all. -/
def bookedIn (bs : List UBook) (realm : Option Nat) (off w : Int) : Int :=
  bs.foldl (fun k b =>
    if realm.getD b.realm = b.realm then
      k + max 0 (min (b.hi + off) (1000000 * (w + 1)) - max (b.lo + off) (1000000 * w))
    else k) 0

/-- Whether [lo, hi) keeps a realm within its quota in every window it touches (R137). -/
def quotaOk (bs : List UBook) (realm quota : Nat) (off lo hi : Int) : Bool :=
  let w0 := (lo + off) / 1000000
  let n := ((hi + off - 1) / 1000000 - w0 + 1).toNat
  (List.range n).all fun k =>
    let w := w0 + (k : Int)
    let part := min (hi + off) (1000000 * (w + 1)) - max (lo + off) (1000000 * w)
    decide ((bookedIn bs (some realm) off w + part) * 256 ≤ 1000000 * (quota : Int))

/-- A candidate with its start, end and load. -/
structure Fit where
  cand : Cand
  lo : Int
  hi : Int
  load : Int
deriving DecidableEq, Repr

/-- Where a task would run on each eligible unit, from `ready` on TB0 for d ns. -/
def State.fits (s : State) (r : Nat) (cs : List Cand) (ready d : Int) : List Fit :=
  let off := -(s.toTb0 (s.defaultTb r))
  cs.filterMap fun c =>
    let bs := s.unitBooks c.kind c.unit
    match firstFit bs c.cap c.need ready d with
    | none => none
    | some lo =>
      if (c.quota.elim true fun q => quotaOk bs r q off lo (lo + d)) then
        some { cand := c, lo := lo, hi := lo + d, load := bookedIn bs none off ((lo + off) / 1000000) }
      else none

/-- The best of some fits: earliest end, then least load, then lowest unit (R135). -/
def bestFit : List Fit → Option Fit
  | [] => none
  | x :: r => some (r.foldl (fun b y =>
      if y.hi < b.hi || (y.hi = b.hi && (y.load < b.load || (y.load = b.load && y.cand.shown < b.cand.shown))) then y else b) x)

/-- REASON of a choice among fits (R156). -/
def fitReason (fs : List Fit) (b : Fit) : Nat :=
  let others := fs.filter fun x => x.cand ≠ b.cand
  if others.isEmpty then 4
  else if others.all (fun x => b.hi < x.hi) then 1
  else if others.all (fun x => b.hi < x.hi || b.load < x.load) then 2
  else 3

/-- PIN and PIN_UNIT of a task: ORD_PIN's replacement, or the template's (R143). -/
def State.pinOf (s : State) (r : Nat) (tm : VRec) (t : Nat) : Nat × Nat :=
  match s.ord.pins.find? fun p => p.realm == r && p.tmpl == tm.num 8 2 && p.task == t with
  | some p => (p.pin, p.unit)
  | none => (bitsOf (tm.task t 1 1) 1 0, tm.task t 0xC 2)

/-! ## The decision (R135 to R140) -/

/-- What placing the tasks came to: placed, refused with a status and DETAIL at a task, or a task to offer to peers. -/
inductive Verdict where
  | placed (s : State) (f : Folio)
  | refused (status detail task : Nat)
  | offer (task : Nat)

/-- Choice of a unit for one task: the fit, with its reason, or the refusal status. -/
def State.choose (s : State) (f : Folio) (t : Nat) (home : Option Nat) (ready d : Int) : Except Nat (Fit × Nat) :=
  let pin := s.pinOf f.realm f.tmpl t
  let pinned := if pin.1 = 0 then [] else s.cands f t none (some pin.2) true
  if pin.1 = 2 && pinned.isEmpty then .error 0x83 else
  let cs := if pinned.isEmpty then s.cands f t home none true else pinned
  let fs := s.fits f.realm cs ready d
  match bestFit fs with
  | none => .error 0x82
  | some b => .ok (b, if pinned.isEmpty then fitReason fs b else 0)

/-- A task booked on the unit chosen for it. off takes times of the Folio's base to TB0. -/
def State.bookTask (s : State) (f : Folio) (t : Nat) (b : Fit) (reason : Nat) (off : Int) : State × Folio :=
  let x := f.taskAt t
  let bk : UBook := UBook.mk b.cand.kind b.cand.unit b.cand.need f.realm f.inst t b.lo b.hi
  (s.setOrd { s.ord with books := s.ord.books ++ [bk] },
   f.setTask t { x with unit := b.cand.shown, start := b.lo - off, fin := b.hi - off, reason := reason })

/-- Latest predicted end of a task's predecessors, or the release instant. -/
def Folio.readyAt (f : Folio) (t : Nat) : Int := (f.tmpl.preds t).foldl (fun m p => max m (f.taskAt p).fin) f.release

/-- Tasks placed in order. skip leaves OPTIONAL tasks out; settled lists what peers answered. -/
def placeTasks (skip : Bool) (settled : List (Nat × Option (Nat × Int))) : List Nat → State → Folio → Option Nat → Verdict
  | [], s, f, _ => .placed s f
  | t :: rest, s, f, home =>
    let x := f.taskAt t
    let off := s.toTb0 f.tb
    let ready := f.readyAt t
    let answer := sget settled t none
    let mayOffer := s.realmFlag f.realm 3 && f.tmpl.fabricOk t && ! settled.any (·.1 == t)
    if skip && f.tmpl.optional t then
      placeTasks skip settled rest s (f.setTask t { x with start := ready, fin := ready, skipped := true, ended := true }) home
    else
      match answer with
      | some (peer, fin) =>
        placeTasks skip settled rest s
          (f.setTask t { x with unit := peer, start := ready, fin := fin, reason := 6, peer := some peer }) home
      | none =>
        match s.choose f t home (ready + off) (durNs x.cls x.cost) with
        | .error st => if mayOffer then .offer t else .refused st 0 t
        | .ok (b, reason) =>
          if mayOffer && f.deadline < b.hi - off then .offer t else
          let p := s.bookTask f t b reason off
          let home := if home.isNone && x.cls < 2 && ! f.tmpl.spread t then some b.cand.quire else home
          placeTasks skip settled rest p.1 p.2 home

/-- Home Quire of a placed Folio (R136). -/
def Folio.home (f : Folio) : Option Nat :=
  (f.tmpl.order.find? fun t => (f.taskAt t).cls < 2 && ! f.tmpl.spread t && ! (f.taskAt t).skipped && (f.taskAt t).peer.isNone).map
    fun t => (f.taskAt t).quire

/-- TIER of R44 for a tier number of R125 and a home Quire. -/
def tierCode (tier : Nat) (home : Option Nat) : Option Nat := if tier = 0 then home else some (7 + tier)

/-- Bytes of a realm's objects in a Quire's Inkwell booked in [lo, hi). -/
def State.inkUsed (s : State) (r q : Nat) (lo hi : Int) : Nat :=
  (s.ord.mems.filter fun m => m.realm == r && m.obj < 64 && m.addr / 0x1000000 == 16 + q && m.lo < hi && lo < m.hi).foldl
    (fun t m => t + m.size) 0

/-- Space for an object in the first tier of a list that has room (R138): address and tier. -/
def State.objSpace (s : State) (f : Folio) (k : Nat) (size : Nat) (lo hi : Int) : List Nat → Option (Nat × Nat) × State
  | [] => (none, s)
  | tier :: r =>
    let carve := f.tmpl.obj k 8 2
    let pref := f.tmpl.obj k 4 1
    let cs := (tierCode tier f.home).elim [] fun c => (s.placeable f.realm c).filter fun x =>
      tier ≠ pref || carve = 0xFFFF || x.cId == carve
    let fitsInk : Bool := match tier, f.home with
      | 0, some q => s.inkUsed f.realm q lo hi + size ≤ 1024 * ((s.quireShare f.realm q).elim 0 fun x => x.num 0xC 4)
      | _, _ => true
    let a := if fitsInk then s.allocIn cs (s.usedRanges lo hi) size (2 ^ f.tmpl.obj k 6 1) else (none, s)
    match a.1 with
    | some x => (some (x, tier), a.2)
    | none => State.objSpace a.2 f k size lo hi r

/-- Tiers an object may take, its preferred one first. -/
def VRec.objTiers (r : VRec) (k : Nat) : List Nat :=
  let p := r.obj k 4 1
  if bitOf (r.obj k 5 1) 1 then [p] else (List.range 4).filter (p ≤ ·)

/-- Objects of a Folio placed in order from index k (R138); EXTERNAL ones are bound already. -/
def placeObjs (lo hi : Int) : List Nat → State → Folio → Verdict
  | [], s, f => .placed s f
  | k :: rest, s, f =>
    let o := f.objs.getD k { addr := 0, size := 0, tier := 0, ext := false, reason := 0 }
    if o.ext then placeObjs lo hi rest s f else
    let a := s.objSpace f k o.size lo hi (f.tmpl.objTiers k)
    match a.1 with
    | none => .refused 0x03 4 0xFF
    | some (x, tier) =>
      let pref := f.tmpl.obj k 4 1
      let o := { o with addr := x, tier := tier,
                        reason := if tier ≠ pref then 5 else if f.tmpl.obj k 8 2 = 0xFFFF then 4 else 0 }
      let m : MBook := MBook.mk x o.size f.realm f.inst k lo hi
      let s := a.2.setOrd { a.2.ord with mems := a.2.ord.mems ++ [m] }
      placeObjs lo hi rest s { f with objs := f.objs.set k o }

/-- HARQ keys of a decision granted in order; grants are written to the HARQ objects (R343). -/
def grantKeys (lo hi : Int) : List Nat → Nat → List (List Byte) → State → Folio → Verdict × List (List Byte)
  | [], _, out, s, f => (.placed s f, out)
  | key :: rest, n, out, s, f =>
    let k := HKey.of key
    let g := s.grantKey f.realm f.inst k lo hi
    match g.1 with
    | .refused st d => (.refused st d 0xFF, out)
    | .given e fresh busy =>
      let s := g.2
      let w := leBytes 4 (e + 2 ^ 24 * b2n fresh + 2 ^ 25 * b2n busy) ++
        [BitVec.ofNat 8 (wfld (s.entW e 0) 27 27), BitVec.ofNat 8 (wfld (s.entW e 0) 26 25), 0, 0] ++
        leBytes 8 (if busy then 0 else s.entPend e)
      grantKeys lo hi rest (n + 1) (out ++ [w]) s { f with harq := if busy then f.harq else f.harq ++ [e] }

/-! ## Control block (R134) -/

/-- Row of task t written. -/
def State.cbTask (s : State) (f : Folio) (t : Nat) : State :=
  let x := f.taskAt t
  let w0 := x.cls + x.unit % 256 * 2 ^ 8 + 2 ^ 16 * (x.width % 256) + 2 ^ 24 * b2n x.replaced + 2 ^ 25 * b2n x.skipped +
    2 ^ 26 * b2n x.peer.isSome
  s.setBytes (f.cb + 0x40 + 16 * t) (leBytes 4 w0 ++ leBytes 4 (x.peer.getD 0) ++ leBytes 4 (tsOf x.start) ++ leBytes 4 (tsOf x.fin))

/-- Row of object k written. -/
def State.cbObj (s : State) (f : Folio) (k : Nat) : State :=
  match f.objs[k]? with
  | none => s.setBytes (f.cb + 0x440 + 16 * k) (List.replicate 16 0)
  | some o => s.setBytes (f.cb + 0x440 + 16 * k) (leBytes 8 o.addr ++ leBytes 4 o.size ++ leBytes 4 o.tier)

/-- The whole control block written: the order of the head's fields is not stated, so its bytes up to the DEGRADE word are
free values (notes/assumptions/1.md). -/
def State.cbWrite (s : State) (f : Folio) : State :=
  let h := s.freeBytes 0x30
  let s := h.2.setBytes f.cb (h.1 ++ leBytes 4 (b2n f.degraded) ++ List.replicate 12 0)
  let s := (List.range 64).foldl (fun s t =>
    if t < f.tasks.length then s.cbTask f t else s.setBytes (f.cb + 0x40 + 16 * t) (List.replicate 16 0)) s
  (List.range 64).foldl (fun s k => s.cbObj f k) s

/-! ## Threads of a Folio (R165) -/

/-- Base of the carve-out that holds a template's code. -/
def State.codeBase (s : State) (f : Folio) : Nat :=
  ((s.carves f.realm).find? fun c => c.cId == f.tmpl.num 0x18 2).elim 0 VRec.cBase

/-- One thread of task t created in Quire q, in DORMANT; bound names the spare Nib it is bound to. -/
def State.folioThread (s : State) (f : Folio) (t k q : Nat) (bound : Option Nat) (ckpt : Nat) (ptr : Nat × Nat) : State :=
  let p := s.pick (s.freeTcbs q)
  match p.1 with
  | none => p.2
  | some i =>
    let s := p.2
    let aff := match bound with
      | some n => 2 ^ n
      | none => ((List.range 16).filter fun n => s.nibRealm q n == f.realm).foldl (fun m n => m + 2 ^ n) 0
    let entry := s.codeBase f + f.tmpl.task t 8 4
    s.createThread q i [2 ^ 24 * f.realm + 2 ^ 16 * (f.tmpl.task t 3 1 % 64) + aff, 2 ^ 31 * b2n bound.isSome + 2 ^ 30, 0, 0,
      entry % 2 ^ 32, entry / 2 ^ 32, f.cb % 2 ^ 32, f.cb / 2 ^ 32, 2 ^ 16 * f.inst + t * 2 ^ 8 + k, ckpt, ptr.1, ptr.2, 0, 0, 0, 0]

/-- The threads of task t created in its Quire. -/
def State.taskThreads (s : State) (f : Folio) (t : Nat) : State :=
  let x := f.taskAt t
  (List.range x.threads).foldl (fun s k => s.folioThread f t k x.quire none 0 (0, 0)) s

/-- The control blocks of task t of a Folio in Quire q. -/
def State.threadsOf (s : State) (f : Folio) (t q : Nat) : List Nat :=
  (List.range 512).filter fun i => s.tcbState q i ≠ tFREE && s.tcbFolio q i && s.tcbRealm q i == f.realm &&
    s.fld (Reg.DUC_TCB_W q i 8) 31 16 == f.inst && s.fld (Reg.DUC_TCB_W q i 8) 13 8 == t

/-- The DORMANT threads of a task become READY. -/
def State.readyTask (s : State) (f : Folio) (t : Nat) : State :=
  let x := f.taskAt t
  if x.cls < 2 && x.peer.isNone then
    (s.threadsOf f t x.quire).foldl (fun s i => if s.tcbState x.quire i = tDORMANT then s.makeReady x.quire i else s) s
  else s

/-- Every thread of a Folio ends (R141, R132); answers how many there were. -/
def State.endThreads (s : State) (f : Folio) (cause : Nat) : State × Nat :=
  (List.range 8).foldl (fun p q =>
    let l := (List.range f.tasks.length).flatMap fun t => p.1.threadsOf f t q
    (l.foldl (fun s i => s.endThread q i St.ABORTED cause none) p.1, p.2 + l.length)) (s, 0)

/-! ## Completion queue (R153, R154) -/

def State.cqSize (s : State) (r : Nat) : Nat :=
  if s.fld (Reg.ORD_RLM_CQ_CFG r) 20 16 = 0 then 0 else 2 ^ s.fld (Reg.ORD_RLM_CQ_CFG r) 20 16

/-- A completion entry written: bytes 0x00 to 0x1B, then PHASE, then CQ_PROD, then the queue's event (R153). -/
def State.cqWrite (s : State) (r : Nat) (body : List Byte) : State :=
  let k := s.cqSize r
  if k = 0 then s else
  let p := s.fld (Reg.ORD_RLM_CQ_PROD r) 15 0
  let pass := sget s.ord.cqPhase r 0
  let g := cat64 (s.rd (Reg.ORD_RLM_CQ_BASE_LO r)) (s.rd (Reg.ORD_RLM_CQ_BASE_HI r)) + 32 * p
  let s := (s.devWrite g (body.take 28)).getD s
  let s := (s.devWrite (g + 28) (leBytes 4 (if pass % 2 = 0 then 2 ^ 31 else 0))).getD s
  let s := s.setFld (Reg.ORD_RLM_CQ_PROD r) 15 0 ((p + 1) % k)
  let s := if p + 1 = k then s.setOrd { s.ord with cqPhase := sput s.ord.cqPhase r (pass + 1) 0 } else s
  let a := Reg.ORD_RLM_CQ_CFG r
  let e := evSignal (s.fld a 1 0) (s.fld a 15 8) (sget s.batch a 0) false
  let s := { s with batch := sput s.batch a e.2 0 }
  if e.1 then (s.setBit (Reg.CMD_EVSRC r) 1).raise (1000 + r) else s

/-- Bookings of a Folio returned. -/
def State.unbook (s : State) (f : Folio) : State :=
  s.setOrd { s.ord with
    books := s.ord.books.filter fun b => ! (b.realm == f.realm && b.inst == f.inst),
    mems := s.ord.mems.filter fun b => ! (b.realm == f.realm && b.inst == f.inst) }

/-- A Folio leaves for DONE (R132): bookings returned, staged buffers freed, threads that remain ended with a cause, the
completion entry written, counters and FOLIO_END trace. -/
def State.folioDone (s : State) (f : Folio) (status cause : Nat) (dropped : Bool) : State :=
  let now : Int := s.tbNs f.tb
  let late := decide (f.deadline < now)
  let status := if status ≠ St.OK then status else if f.errStatus ≠ St.OK then f.errStatus
    else if late then St.LATE else St.OK
  let late := late || dropped
  let s := (s.endThreads f cause).1
  let s := s.unbook f
  let s := (f.harq.filter fun e => s.entValid e && s.entState e == 1 && s.entOwner e == f.inst && s.entRealm e == f.realm).foldl
    State.entUnstage s
  let s := s.setOrd { s.ord with folios := s.ord.folios.filter fun g => ! (g.realm == f.realm && g.inst == f.inst) }
  let flags := b2n late + b2n f.degraded * 2 + b2n dropped * 4 + b2n f.replaced * 8 +
    b2n (f.tasks.any (·.peer.isSome)) * 16 + f.tb * 32
  let skipped := (f.tasks.filter (·.skipped)).length
  let body := leBytes 4 f.handle ++ leBytes 2 (f.tmpl.num 8 2) ++ leBytes 2 f.tag ++ leBytes 4 (tsOf now) ++
    [BitVec.ofNat 8 status, BitVec.ofNat 8 flags, BitVec.ofNat 8 f.errTask, BitVec.ofNat 8 skipped] ++
    leBytes 4 (unsigned 32 (now - f.deadline)) ++ leBytes 4 f.targetWord ++ leBytes 4 f.seq
  let s := s.bump (Reg.ORD_RLM_CNT_DONE f.realm) 1
  let s := if late then s.bump (Reg.ORD_RLM_CNT_LATE f.realm) 1 else s
  let s := s.ordTrace 7 f.realm f.inst f.tb (status + flags * 2 ^ 8) (unsigned 32 (now - f.deadline))
  (s.cqWrite f.realm body).ordSync

/-! ## Task ends and late policies (R141, R142) -/

/-- Whether a task has started: its threads have run, or a job of it has. -/
def State.taskStarted (s : State) (f : Folio) (t : Nat) : Bool :=
  let x := f.taskAt t
  x.going || (x.cls < 2 && (s.threadsOf f t x.quire).any fun i =>
    s.tcbState x.quire i ≠ tDORMANT && (s.tcbState x.quire i ≠ tREADY || sget (s.ducSt x.quire).cycles i 0 ≠ 0))

/-- The end predicted anew from what has ended. -/
def Folio.repredict (f : Folio) (now : Int) : Int :=
  let fins := f.tmpl.order.foldl (fun m t =>
    let x := f.taskAt t
    let pre := (f.tmpl.preds t).foldl (fun a p => max a (sget m p f.release)) f.release
    m ++ [(t, if x.ended then x.fin else max now (max pre x.start + durNs x.cls x.cost))]) []
  fins.foldl (fun a p => max a p.2) f.release

/-- DEGRADE: when the prediction exceeds the deadline the word is set and OPTIONAL tasks that have not started are skipped. -/
def State.degradeCheck (s : State) (f : Folio) : State × Folio :=
  if f.policy ≠ 1 then (s, f) else
  let now : Int := s.tbNs f.tb
  let p := f.repredict now
  if p ≤ f.deadline then (s, f) else
  let skip := (List.range f.tasks.length).filter fun t => f.tmpl.optional t && ! (f.taskAt t).ended && ! s.taskStarted f t
  let f := { f with degraded := true }
  let f := skip.foldl (fun f t => f.setTask t { f.taskAt t with skipped := true, ended := true, fin := now }) f
  let s := skip.foldl (fun s t => (s.threadsOf f t (f.taskAt t).quire).foldl (fun s i => s.endThread (f.taskAt t).quire i 0 2 none) s) s
  let s := s.setBytes (f.cb + 0x30) (leBytes 4 1)
  let s := skip.foldl (fun s t => s.cbTask f t) s
  (s.ordTrace 5 f.realm f.inst f.tb skip.length (tsOf p), f)

/-- Tasks whose predecessors have all ended become ready; a Folio all of whose tasks have ended is DONE. -/
def State.folioAdvance (s : State) (f : Folio) : State :=
  let p := s.degradeCheck f
  let s := p.1.setFolio p.2
  let f := p.2
  if f.tasks.all (·.ended) then s.folioDone f St.OK 2 false
  else (List.range f.tasks.length).foldl (fun s t =>
    if ! (f.taskAt t).ended && ! (f.tmpl.preds t).isEmpty && (f.tmpl.preds t).all (fun k => (f.taskAt k).ended)
    then s.readyTask f t else s) s

/-- Task t of a Folio ends with a status (R142, R165). -/
def State.taskEnd (s : State) (f : Folio) (t status : Nat) : State :=
  let x := f.taskAt t
  if x.ended then s else
  let s := s.ordTrace 4 f.realm f.inst f.tb (2 ^ 26 * t + status) (tsOf x.fin)
  let f := f.setTask t { x with ended := true, status := status, fin := s.tbNs f.tb }
  let f := if f.errStatus = St.OK && status ≠ St.OK then { f with errStatus := status, errTask := t } else f
  if f.state = 2 then s.folioAdvance f else s.setFolio f

/-- A thread of a Folio has exited (R165): its task ends with its last thread, status the first that is not OK. -/
def State.threadExit (s : State) (r inst t status : Nat) : State :=
  match s.folio r inst with
  | none => s
  | some f =>
    let x := f.taskAt t
    let x := { x with left := x.left - 1, status := if x.status ≠ St.OK then x.status else status }
    let f := f.setTask t x
    let s := s.setFolio f
    if x.left = 0 then s.taskEnd f t x.status else s

/-- Jobs of a Folio in flight on the pools. -/
def State.inFlight (s : State) (r inst : Nat) : Bool :=
  s.eng.any fun p => match p.2 with
    | some j => j.folio == some (r, inst)
    | none => false

/-- A DRAINING Folio with no job in flight is DONE: LATE with DROPPED (R132). -/
def State.drainCheck (s : State) (r inst : Nat) : State :=
  match s.folio r inst with
  | some f => if f.state = 3 && ! s.inFlight r inst then s.folioDone f St.LATE 2 true else s
  | none => s

/-! ## Demotion (R146) -/

/-- HBM use of a realm against a percentage of its PLACEABLE HBM. -/
def State.harqAbove (s : State) (r percent : Nat) : Bool :=
  let total := (s.placeable r 9).foldl (fun t c => t + c.cSize) 0
  decide (percent * total < s.harqUse r 0 * 64 * 100)

/-- HARQ_LO of a realm in percent. -/
def State.harqLo (s : State) (r : Nat) : Nat := s.fld (Reg.ORD_RLM_CQ_CFG r) 7 2 * 2

/-- Entries of a realm that a demotion may take: IDLE, in HBM, of no outstanding Folio. -/
def State.demotable (s : State) (r : Nat) : List Nat :=
  (s.entsOf r).filter fun e => s.entState e == 0 && ! wbit (s.entW e 0) 28 && s.entCur e ≠ 0 &&
    ! s.ord.folios.any fun f => f.realm == r && f.harq.contains e

/-- The least recently combined of some entries. -/
def State.oldest (s : State) (r : Nat) (l : List Nat) : Option Nat :=
  let age := fun e => (s.ts32 (s.defaultTb r) + 2 ^ 32 - (s.entW e 2).toNat) % 2 ^ 32
  match l with
  | [] => none
  | e :: t => some (t.foldl (fun b x => if age b < age x then x else b) e)

/-- The copy of a demotion has completed: CUR takes PEND in DDR, the HBM buffer is freed (R342). -/
def State.demoDone (s : State) (d : Demotion) : State :=
  let e := d.ent
  let s := s.setOrd { s.ord with demos := s.ord.demos.filter (·.ent ≠ e) }
  let len := wfld (s.entW e 1) 23 0 * 64
  -- the content of the buffer moves with it
  let s := s.setBytes (s.entPend e) (s.bytes (s.entCur e) len)
  let s := s.bufFree e (s.entCur e)
  let w0 := wsetFld (wsetFld (s.entW e 0) 28 28 1) 30 29 0
  let s := s.setEnt e [w0, s.entW e 1, s.entW e 2, 0, s.entW e 6, s.entW e 7, 0, 0]
  let s := s.hdySync d.realm
  let s := s.ordTrace 0xB d.realm 0 (s.defaultTb d.realm) 1 e
  if s.harqAbove d.realm (s.harqLo d.realm) then s
  else s.setOrd { s.ord with demoting := s.ord.demoting.filter (· ≠ d.realm) }

/-! ## Fences (R148) -/

/-- A unit fenced: no further dispatch or posting, its bookings withdrawn, its own FENCED shown. Kinds as R156 FENCE. -/
def State.fenceUnit (s : State) (kind unit : Nat) : State :=
  if s.ord.fenced.contains (kind, unit) then s else
  let s := s.setOrd { s.ord with
    fenced := s.ord.fenced ++ [(kind, unit)],
    books := s.ord.books.filter fun b => match kind with
      | 0 => ! ((b.kind == 0 && b.unit / 16 == unit) || (b.kind == 1 && b.unit / 2 == unit))
      | k => ! (b.kind == k && b.unit == unit) }
  match kind with
  | 0 => (((s.setBit Reg.ORD_STATUS unit).setBit (Reg.DUC_STATUS unit) 31)).raise (160 + 16 * unit + 4)
  | 1 => s.setBit (Reg.FER_STATUS unit) 31
  | 2 => if unit < 56 then s.setBit (Reg.POOL_STATUS (poolBase unit)) 31 else s.setBit (Reg.RAE_STATUS (unit - 56)) 31
  | _ => s.setBit (Reg.SCB_STATUS (8 + unit)) 31

end Sys2Proof.Machine
end

