-- ==== Sys2Proof/Machine/FerOps.lean ====
section
/-! DEFINITION. The operations of a Ferrule that its instructions, its commands' ends, its faults and its resets share
(chapter 8). -/

namespace Sys2Proof.Machine

/-- FER_NUMERIC and FER_FENCED (R309). -/
def ferNUMERIC : Nat := 0x80
def ferFENCED : Nat := 0x81

/-- The thread a Nib presents with its Ferrule instructions (R288), TID + 1, 0 for none: the one the Ductus last dispatched
to it, which may have left the Nib since its last NEXT read. -/
def State.nibThread (s : State) (i : Nat) : Nat :=
  let t := s.runOn (i / 16) (i % 16)
  if t ≠ 0 then t else sget (s.ducSt (i / 16)).held (i % 16) 0

/-- The Ferrule of the Nib's Quire that the Nib's thread holds. -/
def State.ferHeld (s : State) (i : Nat) : Option Nat :=
  let t := s.nibThread i
  if t = 0 then none else
  [2 * (i / 16), 2 * (i / 16) + 1].find? fun f => s.bit (Reg.FER_LOCK f) 31 && s.fld (Reg.FER_LOCK f) 8 0 + 1 == t

/-- QLEVEL shows the scalar results queued, REGIONS the regions tracked. -/
def State.ferShow (s : State) (f : Nat) : State :=
  let x := s.ferSt f
  (s.setFld (Reg.FER_STATUS f) 27 24 x.queue.length).setFld (Reg.FER_STATUS f) 7 4 (x.cmds.flatMap (·.regions)).length

/-- A tag clears with a command's status (R296). -/
def State.ferTagEnd (s : State) (f t status : Nat) : State :=
  let s := s.setFer f { s.ferSt f with last := sput (s.ferSt f).last t status 0 }
  let s := s.setFld (Reg.FER_STATUS f) (16 + t) (16 + t) 0
  s.setFld (Reg.FER_STATUS f) (8 + t) (8 + t) (if status = 0 then 0 else 1)

/-- Every outstanding command ends with ABORTED (R308). -/
def State.ferAbortAll (s : State) (f : Nat) : State :=
  let cs := (s.ferSt f).cmds
  let s := s.setFer f { s.ferSt f with cmds := [] }
  (cs.foldl (fun s c => s.ferTagEnd f c.tag St.ABORTED) s).ferShow f

/-- ERR set (R308): the first error since ERR was cleared is recorded, and EV0128 + 2i raised. -/
def State.ferError (s : State) (f info addr : Nat) : State :=
  if s.bit (Reg.FER_STATUS f) 30 then s else
  let s := s.setBit (Reg.FER_STATUS f) 30
  let s := s.wrN (Reg.FER_ERR_INFO f) info
  let s := s.wrN (Reg.FER_ERR_ADDR_LO f) addr
  let s := s.wrN (Reg.FER_ERR_ADDR_HI f) (addr / 2 ^ 32 % 2 ^ 16)
  s.raise (128 + 2 * f)

/-- CTL.ABORT (R308): every outstanding command ends with ABORTED and ERR is set. -/
def State.ferAbort (s : State) (f : Nat) : State := (s.ferAbortAll f).ferError f 0 0

/-- Waiters for a Ferrule's lock become READY with a status. -/
def State.ferWakeAll (s : State) (f status cause : Nat) : State :=
  (s.waitersOn (f / 2) (f % 2) [5]).foldl (fun s t => s.wake (f / 2) t status 0 cause) s

/-- The fence of a Ferrule (R310). -/
def State.ferFence (s : State) (f : Nat) : State :=
  let s := (s.ferAbortAll f).ferError f 0 0
  let s := (s.setFer f { s.ferSt f with queue := [] }).ferShow f
  let s := s.setFld (Reg.FER_LOCK f) 31 30 0
  let s := s.setBit (Reg.FER_STATUS f) 31
  s.ferWakeAll f ferFENCED 2

/-- A block or realm reset of a Ferrule (R291): commands abandoned, busy tags ABORTED, lock released, configuration zero,
queue emptied, ERR and FENCED 0, waiters READY with ABORTED. -/
def State.ferReset (s : State) (f : Nat) : State :=
  let s := s.ferAbortAll f
  let s := (s.setFer f { s.ferSt f with queue := [], cfg := [] }).ferShow f
  let s := s.wr (Reg.FER_LOCK f) 0
  let s := s.setFld (Reg.FER_STATUS f) 31 30 0
  let s := s.setFld (Reg.FER_ERR_INFO f) 7 0 0
  s.ferWakeAll f St.ABORTED 2

/-- A word of FCFG. -/
def State.fcfg (s : State) (f w : Nat) : Nat := sget (s.ferSt f).cfg w 0

end Sys2Proof.Machine
end

