-- ==== Sys2Proof/Machine/Notice.lean ====
section
/-! DEFINITION. Fault notices (R148, R538, R541): the fault log and the fence of the unit. -/

namespace Sys2Proof.Machine

/-- The instance that adopts the rings of realm r on a fenced pool unit (R324): the lowest unfenced one in its INST_MASK. -/
def State.adopter (s : State) (j r : Nat) : Option Nat :=
  let p := if j < 56 then poolOf j else 7
  (List.range (poolCount p)).find? fun i => s.share r p i ≠ 0 && ! s.ord.fenced.contains (2, serialOf p i)

/-- A record of the fault log (R541) and EV0928; unit kinds as the log numbers them. Answers the record's number. -/
def State.faultLog (s : State) (src kind unit event : Nat) : State × Nat :=
  let h := s.fld Reg.AVL_LOG_HEAD 5 0
  let tb := s.fld Reg.AVL_CFG 2 0
  let ws := [s.ts32 tb, 2 ^ 29 * tb + 2 ^ 24 * src + 2 ^ 16 * kind + unit, event, 0]
  let s := { s with avl := { s.avl with log := sput s.avl.log h ws [] } }
  let s := s.setFld Reg.AVL_LOG_HEAD 5 0 ((h + 1) % 64)
  let s := s.setFld Reg.AVL_LOG_HEAD 31 16 (s.fld Reg.AVL_LOG_HEAD 31 16 + 1)
  ((s.bump Reg.AVL_NOTICES 1).raise 928, h)

/-- A fence unit's number in the fault log: kinds 0 Quire, 1 Ferrule, 2 pool unit (RA engines as 56 and 57), 3 Chancery. -/
def logKind (kind unit : Nat) : Nat × Nat :=
  if kind = 2 then (if unit < 56 then (2, unit) else (3, unit - 56)) else if kind = 3 then (4, unit) else (kind, unit)

/-- FENCED registers of the availability block. -/
def State.showFenced (s : State) (kind unit : Nat) : State :=
  match kind with
  | 0 => s.setBit Reg.AVL_FENCED_Q unit
  | 1 => s.setBit Reg.AVL_FENCED_F unit
  | 2 => if unit < 32 then s.setBit Reg.AVL_FENCED_P_LO unit else s.setBit Reg.AVL_FENCED_P_HI (unit - 32)
  | _ => s.setBit Reg.AVL_FENCED_P_HI (26 + unit)

/-- The channels of a Scribe whose unit is fenced stop (R432): what runs is abandoned with OWN still 1. -/
def State.scribeStop (s : State) (b : Nat) : State :=
  (List.range 32).foldl (fun s c =>
    if h : b < 12 ∧ c < 32 then s.abandon (.scribe ⟨b, h.1⟩ ⟨c, h.2⟩) else s) s

/-- The exclusion of a Pounce test ends (R547): its bookings (realm 16, with the domain as instance) go. -/
def State.pncRelease (s : State) (d : Nat) : State :=
  let s := { s with avl := { s.avl with tests := s.avl.tests.filter (·.dom != d) } }
  let s := s.setOrd { s.ord with books := s.ord.books.filter fun b => ! (b.realm == 16 && b.inst == d) }
  if d < 32 then s.setFld Reg.PNC_ACTIVE_LO d d 0 else s.setFld Reg.PNC_ACTIVE_HI (d - 32) (d - 32) 0

/-- A Pounce test of a domain is abandoned or deferred (R547, R548): RESULT abandoned, EV0934, its slot with a status. -/
def State.pncAbandon (s : State) (d status : Nat) : State :=
  match s.avl.tests.find? (·.dom == d) with
  | none => s
  | some t =>
    let s := ((s.pncRelease d).setFld (Reg.PNC_DOM_STAT d) 31 30 3).raise 934
    t.slot.elim s fun k => s.slotEnd k status [0, w32 status]

/-- Domains that Pounce tests for a fence unit (R542, R545). -/
def pncDomains (kind unit : Nat) : List Nat :=
  match kind with
  | 0 => [2 * unit, 2 * unit + 1]
  | 1 => [16 + unit / 2]
  | 2 => [unitDomain unit]
  | _ => [61]

/-- A fault notice for a fence unit (R148, R541): logged; a unit that is not fenced yet is fenced, FENCE is traced, and its
re-placement is queued behind any before it. A pool instance shows its adopter (R324) and abandons its job (R323); a
Ferrule ends its commands (R310). -/
def State.notice (s : State) (src kind unit event : Nat) : State :=
  let r := s.faultLog src (logKind kind unit).1 (logKind kind unit).2 event
  let s := r.1
  let s := (pncDomains kind unit).foldl (fun s d => if s.underTest d then s.pncAbandon d St.ABORTED else s) s
  if s.ord.fenced.contains (kind, unit) then s else
  let s := (s.fenceUnit kind unit).showFenced kind unit
  let s := s.ordTrace 9 0 0 0 (kind * 256 + unit) event
  let s := if kind = 2 then
      let s := { s with eng := sput s.eng unit none none }
      match (List.range 16).findSome? fun r => s.adopter unit r with
      | some i => if unit < 56 then
          (s.setBit (Reg.POOL_STATUS (poolBase unit)) 30).setFld (Reg.POOL_STATUS (poolBase unit)) 29 26 i else s
      | none => s
    else if kind = 1 then s.ferFence unit
    else if kind = 0 then ((s.ferFence (2 * unit)).ferFence (2 * unit + 1)).scribeStop unit
    else s.scribeStop (8 + unit)
  let s := { s with avl := { s.avl with fencedAt := sput s.avl.fencedAt (256 * kind + unit) (s.tbNs 0 + 1) 0 } }
  let s := s.raise 929
  (s.setOrd { s.ord with notices := s.ord.notices ++ [Notice.mk kind unit event (s.tbNs 0) r.2] }).setBit Reg.ORD_STATUS 8

end Sys2Proof.Machine
end

