-- ==== Sys2Proof/Machine/TimeOps.lean ====
section
/-! DEFINITION. Grid structure and grid time (R91 to R93), and the occurrences of trigger channels (R95, R96, R100, R101).
Instants are integers in 2^-16 ns of the time base concerned. -/

namespace Sys2Proof.Machine

/-! ## Grid structure (R92, R93) -/

/-- Slots per frame of a grid type. -/
def slotsPerFrame (ty : Nat) : Nat := if ty < 5 then 10 * 2 ^ ty else if ty = 5 then 20 else 5

/-- Symbols per slot of a grid type and cyclic prefix. -/
def symsPerSlot (ty cp : Nat) : Nat :=
  if ty < 5 then (if cp = 1 && ty = 2 then 12 else 14) else if ty = 5 then (if cp = 1 then 6 else 7) else 7

/-- Start of a symbol from its frame's start, in Tc (R93; Ts = 64 Tc). -/
def symTc (ty cp slot sym : Nat) : Nat :=
  if ty < 5 then
    if cp = 1 && ty = 2 then (slot * 12 + sym) * (32768 + 8192)
    else
      let n := slot * 14 + sym
      let h := n / (7 * 2 ^ ty)
      let k := n % (7 * 2 ^ ty)
      983040 * h + k * (2048 * 64 / 2 ^ ty + 144 * 64 / 2 ^ ty) + (if k > 0 then 1024 else 0)
  else if ty = 5 then
    64 * (15360 * slot + (if cp = 1 then sym * (2048 + 512)
      else sym * (2048 + 144) + (if sym > 0 then 16 else 0)))
  else 64 * (slot * (7 * (8192 + 256) + 2304) + sym * (8192 + 256))

/-- Start of a symbol from its frame's start in 2^-16 ns, rounded to the nearest. Tc is 15625/30720 ns. -/
def symStart (ty cp slot sym : Nat) : Nat := (200000 * symTc ty cp slot sym + 3) / 6

/-- Length of a frame in 2^-16 ns. -/
def frameLen : Int := 10000000 * 65536

def State.gridValid (s : State) (g : Nat) : Bool := s.bit (Reg.RUL_GRID_CFG g) 31
def State.gridTb (s : State) (g : Nat) : Nat := s.fld (Reg.RUL_GRID_CFG g) 10 8
def State.gridTy (s : State) (g : Nat) : Nat := s.fld (Reg.RUL_GRID_CFG g) 2 0
def State.gridCp (s : State) (g : Nat) : Nat := s.fld (Reg.RUL_GRID_CFG g) 4 4

/-- Active OFFSET of a grid, fraction included. -/
def State.gridOff (s : State) (g : Nat) : Int :=
  65536 * signed 32 (s.rdN (Reg.RUL_GRID_OFFSET g)) + s.fld (Reg.RUL_GRID_OFFSET_FRAC g) 15 0

def State.gridSt (s : State) (g : Nat) : GridSt := sget s.time.grids g GridSt.init
def State.setGridSt (s : State) (g : Nat) (x : GridSt) : State :=
  { s with time := { s.time with grids := sput s.time.grids g x GridSt.init } }

/-- Start of frame F of a grid: frames up to the last hand-over's keep the offset they had (R94). -/
def State.frameStart (s : State) (g : Nat) (F : Int) : Int :=
  (if F < (s.gridSt g).since then (s.gridSt g).prevOff else s.gridOff g) + F * frameLen

/-- Frame index of an instant (R91). -/
def State.frameAt (s : State) (g : Nat) (t : Int) : Int :=
  let F := (t - s.gridOff g) / frameLen
  if F < (s.gridSt g).since then min ((t - (s.gridSt g).prevOff) / frameLen) ((s.gridSt g).since - 1) else F

/-- Slot and symbol of an instant within its frame: the last position that has started. -/
def State.posAt (s : State) (g : Nat) (t : Int) : Int × Nat × Nat :=
  let F := s.frameAt g t
  let d := t - s.frameStart g F
  let ty := s.gridTy g
  let cp := s.gridCp g
  let slot := ((List.range (slotsPerFrame ty)).filter fun k => ((symStart ty cp k 0 : Nat) : Int) ≤ d).length - 1
  let sym := ((List.range (symsPerSlot ty cp)).filter fun k => ((symStart ty cp slot k : Nat) : Int) ≤ d).length - 1
  (F, slot, sym)

/-- Now on a time base, in 2^-16 ns. -/
def State.nowInst (s : State) (b : Nat) : Int := (s.tbInst b : Int)

/-- Write POS and HFN of a grid as a read of POS shows them (R120). -/
def State.latchPos (s : State) (g : Nat) : State :=
  let p := s.posAt g (s.nowInst (s.gridTb g))
  let s := s.wrN (Reg.RUL_GRID_POS g) (2 ^ 20 * (p.1 % 1024).toNat + p.2.1 * 2 ^ 12 + p.2.2 * 2 ^ 8)
  s.wrN (Reg.RUL_GRID_HFN g) (p.1 / 1024 % 1024).toNat

/-! ## Channels -/

def State.chMode (s : State) (c : Nat) : Nat := s.fld (Reg.TRG_CH_CFG c) 31 28
def State.chPunit (s : State) (c : Nat) : Nat := s.fld (Reg.TRG_CH_CFG c) 27 24
def State.chKind (s : State) (c : Nat) : Nat := s.fld (Reg.TRG_CH_CFG c) 23 20
def State.chPast (s : State) (c : Nat) : Nat := s.fld (Reg.TRG_CH_CFG c) 19 18
def State.chGrid (s : State) (c : Nat) : Nat := s.fld (Reg.TRG_CH_CFG c) 15 8
def State.chState (s : State) (c : Nat) : Nat := s.fld (Reg.TRG_CH_CTL c) 1 0
def State.chSetState (s : State) (c st : Nat) : State := s.setFld (Reg.TRG_CH_CTL c) 1 0 st
def State.chPeriod (s : State) (c : Nat) : Nat := s.rdN (Reg.TRG_CH_PERIOD c)

/-- States of a channel (R102). -/
def cFREE : Nat := 0
def cIDLE : Nat := 1
def cARMED : Nat := 2
def cWAIT : Nat := 3

/-- Time base of a channel: its grid's in mode 0, the one it names in mode 1. -/
def State.chTb (s : State) (c : Nat) : Nat :=
  if s.chMode c = 0 then s.gridTb (s.chGrid c) else s.chGrid c % 8

/-- Offset of a channel's occurrences from their grid position (WHEN1, WHEN2). -/
def State.chOff (s : State) (c : Nat) : Int :=
  65536 * signed 32 (s.rdN (Reg.TRG_CH_WHEN1 c)) + s.fld (Reg.TRG_CH_WHEN2 c) 15 0

/-- Units of PUNIT in a frame: frames for one-shot and frame periods, slots, symbols. -/
def State.chUnits (s : State) (c : Nat) : Nat :=
  let g := s.chGrid c
  match s.chPunit c with
  | 1 => slotsPerFrame (s.gridTy g) * symsPerSlot (s.gridTy g) (s.gridCp g)
  | 2 => slotsPerFrame (s.gridTy g)
  | _ => 1

/-- Slot and symbol, within its frame, of unit index u of a channel in mode 0. -/
def State.chPos (s : State) (c : Nat) (u : Nat) : Nat × Nat :=
  let g := s.chGrid c
  let n := symsPerSlot (s.gridTy g) (s.gridCp g)
  match s.chPunit c with
  | 1 => (u / n, u % n)
  | 2 => (u, s.fld (Reg.TRG_CH_WHEN0 c) 12 9)
  | _ => (s.fld (Reg.TRG_CH_WHEN0 c) 20 13, s.fld (Reg.TRG_CH_WHEN0 c) 12 9)

/-- Instant of occurrence index i of a channel: in mode 0 unit i of its grid plus the offset, in mode 1 the stated instant
plus i periods. -/
def State.chInst (s : State) (c : Nat) (i : Int) : Int :=
  if s.chMode c = 0 then
    let g := s.chGrid c
    let F := i / (s.chUnits c : Int)
    let p := s.chPos c (i % (s.chUnits c : Int)).toNat
    s.frameStart g F + symStart (s.gridTy g) (s.gridCp g) p.1 p.2 + s.chOff c
  else
    (65536 * (10 ^ 9 * (2 ^ 32 * s.fld (Reg.TRG_CH_WHEN2 c) 15 0 + s.rdN (Reg.TRG_CH_WHEN1 c)) + s.rdN (Reg.TRG_CH_WHEN0 c))
      + s.fld (Reg.TRG_CH_WHEN2 c) 31 16 : Nat) + 65536 * (i * (s.chPeriod c : Int))

/-- A grid position of the frame of a hand-over that falls at or after the next frame's start is not generated (R94). -/
def State.chGenerated (s : State) (c : Nat) (i : Int) : Bool :=
  if s.chMode c = 0 then
    let F := i / (s.chUnits c : Int)
    s.chInst c i - s.chOff c < s.frameStart (s.chGrid c) (F + 1)
  else true

/-- First index of a channel's occurrences (R96): the index of its WHEN position in the first frame after t, or 0. -/
def State.chFirst (s : State) (c : Nat) (t : Int) : Int :=
  if s.chMode c = 0 then
    let g := s.chGrid c
    let n := symsPerSlot (s.gridTy g) (s.gridCp g)
    let slot := s.fld (Reg.TRG_CH_WHEN0 c) 20 13
    let sym := s.fld (Reg.TRG_CH_WHEN0 c) 12 9
    let u := match s.chPunit c with
      | 1 => slot * n + sym
      | 2 => slot
      | _ => 0
    let at_ := fun F : Int => s.chInst c (F * (s.chUnits c : Int) + u)
    let F0 := s.frameAt g (t - s.chOff c)
    let F1 := if at_ (F0 - 1) > t then F0 - 1 else if at_ F0 > t then F0 else F0 + 1
    let F := if s.bit (Reg.TRG_CH_WHEN0 c) 21 then F1
      else F1 + ((s.fld (Reg.TRG_CH_WHEN0 c) 31 22 : Int) - F1) % 1024
    F * (s.chUnits c : Int) + u
  else 0

/-- Whether a channel's active set is a one-shot. -/
def State.chOneShot (s : State) (c : Nat) : Bool := s.chPunit c == 0

/-- Step between indices: PERIOD units in mode 0, one period in mode 1. -/
def State.chStep (s : State) (c : Nat) : Int := if s.chMode c = 0 then (max (s.chPeriod c) 1 : Nat) else 1

/-- How many steps on from index i bring the first occurrence later than t (0 when i is later already). A unit index later
than t is found from the frame of t; the count is then rounded up to whole steps. -/
def State.chSkip (s : State) (c : Nat) (i t : Int) : Nat :=
  if s.chInst c i > t then 0
  else if s.chMode c = 0 then
    let n : Int := s.chUnits c
    let F0 := s.frameAt (s.chGrid c) (t - s.chOff c) - 1
    let cand := (List.range (3 * s.chUnits c + 1)).map fun k => F0 * n + (k : Int)
    let u := (cand.find? fun k => s.chInst c k > t).getD (i + n)
    ((u - i + s.chStep c - 1) / s.chStep c).toNat
  else ((t - s.chInst c i) / (65536 * max (s.chPeriod c) 1 : Nat)).toNat + 1

/-- A channel's state beside its registers replaced. -/
def State.setTrig (s : State) (c : Nat) (t : Trig) : State :=
  { s with time := { s.time with trigs := sput s.time.trigs c t Trig.init } }

/-- The next occurrence of a channel replaced. -/
def State.setNext (s : State) (c : Nat) (o : Option Occ) : State :=
  s.setTrig c { sget s.time.trigs c Trig.init with next := o }

def State.chNext (s : State) (c : Nat) : Option Occ := (sget s.time.trigs c Trig.init).next

/-- MISSED rises by n, saturating (R121). -/
def State.missed (s : State) (c n : Nat) : State := s.bumpSat (Reg.TRG_CH_COUNTS c) 15 0 n

/-- The shadow words of a channel become the active words, COMMIT returns to 0 and HANDOVER_SEQ rises by 1 (R104). -/
def State.chHandover (s : State) (c : Nat) : State :=
  let s := (List.range 6).foldl (fun s w => s.wr (Reg.TRG_CH_CFG c + 4 * w) (s.rd (Reg.TRG_CH_SH_CFG c + 4 * w))) s
  let s := s.setFld (Reg.TRG_CH_CTL c) 31 31 0
  s.setFld (Reg.TRG_CH_COUNTS c) 31 16 (s.fld (Reg.TRG_CH_COUNTS c) 31 16 + 1)

/-- A channel returns to IDLE with no further occurrence and COMMIT cleared (R102). -/
def State.chDisarm (s : State) (c : Nat) : State :=
  ((s.setFld (Reg.TRG_CH_CTL c) 31 31 0).chSetState c cIDLE).setNext c none

/-- A channel returns to FREE, owned by nobody. -/
def State.chFree (s : State) (c : Nat) : State :=
  ((s.chDisarm c).chSetState c cFREE).setTrig c Trig.init

/-- A channel is assigned: every register of it zero, state IDLE (R102). -/
def State.chAssign (s : State) (c owner : Nat) : State :=
  let s := s.wrWords (Reg.TRG_CH_SH_CFG c) (List.replicate 16 0)
  (s.chSetState c cIDLE).setTrig c { owner := owner, next := none }

/-! ## Grid hand-over (R94, R104) -/

/-- Whether an offset change is admissible: below 5 ms from the active offset, and within the range of R89. -/
def gridChangeOk (old new : Int) : Bool :=
  decide ((new - old).natAbs < 5000000 * 65536) && decide (-5000000 * 65536 ≤ new) && decide (new < 5000001 * 65536)

/-- The shadow offset of a grid, fraction included. -/
def State.gridShOff (s : State) (g : Nat) : Int :=
  65536 * signed 32 (s.rdN (Reg.RUL_GRID_SH_OFFSET g)) + s.fld (Reg.RUL_GRID_SH_CTL g) 15 0

/-- The boundary at the start of frame F: an armed shadow is judged and handed over, or refused with REJ. -/
def State.gridBoundary (s : State) (g : Nat) (F : Int) : State :=
  if ! s.bit (Reg.RUL_GRID_SH_CTL g) 31 then s
  else if gridChangeOk (s.gridOff g) (s.gridShOff g) then
    let old := s.gridOff g
    let s := s.setGridSt g { s.gridSt g with prevOff := old, since := F + 1 }
    let s := s.wr (Reg.RUL_GRID_OFFSET g) (s.rd (Reg.RUL_GRID_SH_OFFSET g))
    let s := s.wrN (Reg.RUL_GRID_OFFSET_FRAC g) (s.fld (Reg.RUL_GRID_SH_CTL g) 15 0)
    (s.setFld (Reg.RUL_GRID_SH_CTL g) 31 31 0).bump (Reg.RUL_GRID_HANDOVER_SEQ g) 1
  else (s.setFld (Reg.RUL_GRID_SH_CTL g) 31 31 0).setBit (Reg.RUL_GRID_SH_CTL g) 30

/-- A grid configured from a record (R90): the active set takes the body, the shadow is zero, HANDOVER_SEQ is 0; a body
identical to the one that configured it keeps everything. -/
def State.gridConfig (s : State) (r : VRec) : State :=
  let g := r.num 8 1
  let body := r.bytes.drop 8
  if s.gridValid g && (s.gridSt g).body = body then s else
  let s := s.setGridSt g { body := body, prevOff := 0, since := 0 }
  s.wrWords (Reg.RUL_GRID_CFG g) [w32 (2 ^ 31 + r.num 9 1 % 8 * 2 ^ 8 + r.num 0xB 1 % 2 * 2 ^ 4 + r.num 0xA 1 % 8),
    w32 (r.num 0xC 4), w32 (r.num 0x10 2), 0, 0, 0]

/-- A grid that no record names any longer is removed. -/
def State.gridRemove (s : State) (g : Nat) : State :=
  let s := s.setGridSt g GridSt.init
  s.wrWords (Reg.RUL_GRID_CFG g) (List.replicate 8 0)

/-! ## Time bases -/

/-- The TIME_BIND record that owns a time base (R46, R47). -/
def State.tbOwnerRec (s : State) (b : Nat) : Option VRec := (s.recsAny 0x14).find? fun r => r.num 8 1 == b && r.num 9 1 == 0

/-- The realm that owns a time base: 16 for a device-wide owner or none. -/
def State.tbOwner (s : State) (b : Nat) : Nat := (s.tbOwnerRec b).elim 16 fun r => if r.realm < 16 then r.realm else 16

/-- State of a time base (R83): 0 FREERUN, 1 ACQUIRING, 2 LOCKED, 3 HOLDOVER. -/
def State.tbState (s : State) (b : Nat) : Nat := s.fld (Reg.TMB_STATE b) 1 0

/-- A time base changes state; every change raises EV0576 + b. -/
def State.tbSetState (s : State) (b st : Nat) : State :=
  if s.tbState b = st then s else (s.setFld (Reg.TMB_STATE b) 1 0 st).raise (576 + b)

/-- Whether a write of STATE.STATE names a transition of R83. -/
def tbTransition (cur new source : Nat) : Bool :=
  (cur == 0 && new == 1 && 1 ≤ source && source ≤ 4) || (cur == 1 && new == 2) || (cur == 2 && new == 3) ||
    (cur == 3 && new == 1) || (cur ≠ 0 && new == 0)

/-- The applied FREQ_ADJ of a time base, in units of 2^-48. -/
def State.freqAdj (s : State) (b : Nat) : Int := sget s.time.freq b 0

/-- FREQ_ADJ applied, clamped to ±2^38 with STATUS.FCLAMP (R85); the registers show the value applied. -/
def State.applyFreq (s : State) (b : Nat) (v : Int) : State :=
  let w := if v > 2 ^ 38 then 2 ^ 38 else if v < -(2 ^ 38) then -(2 ^ 38) else v
  let s := if w = v then s else s.setBit (Reg.TMB_STATUS b) 1
  let s := s.wrN (Reg.TMB_FREQ_ADJ_LO b) (unsigned 64 w % 2 ^ 32)
  let s := s.wrN (Reg.TMB_FREQ_ADJ_HI b) (unsigned 64 w / 2 ^ 32)
  { s with time := { s.time with freq := sput s.time.freq b w 0 } }

/-- A step asked for (R84): applied later, by TIME_BASE_STEP_APPLY. sec, ns and frac as the registers hold them. -/
def State.askStep (s : State) (b sec ns frac : Nat) (slot : Option SlotId) : State :=
  let delta := 2 ^ 48 * (10 ^ 9 * signed 32 sec + ns) + 2 ^ 32 * (frac % 65536)
  { s with time := { s.time with steps := sput s.time.steps b (some { delta := delta, slot := slot }) none } }

/-- One CD82 cycle (R81): every time base advances by 1 + FREQ_ADJ × 2^-48 ns, wrapping with its 48-bit seconds. -/
def State.advanceTime (s : State) : State :=
  let next := fun (m : List (Nat × Nat)) (b : Nat) =>
    sput m b ((((sget m b 0 : Nat) : Int) + 2 ^ 48 + s.freqAdj b) % (2 ^ 48 * 10 ^ 9 * 2 ^ 48 : Int)).toNat 0
  { s with time := { s.time with count := (List.range 8).foldl next s.time.count } }

end Sys2Proof.Machine
end

