-- ==== Sys2Proof/Machine/Ruling.lean ====
section
/-! DEFINITION. The commands and register operations of the time bases, the grids, the captures and the time outputs
(chapter 3, rows TB_QUERY to GRID_POS_READ and SNAPSHOT_COPY_COMPLETE to SYNCE_SQUELCH). -/

namespace Sys2Proof.Machine

abbrev Out := Host.Outcome State Fault Refusal

/-- RUL_GRID_UNBOUND (R116). -/
def RUL_GRID_UNBOUND : Nat := 0x80

/-- A realm may ask about a time base it binds as owner or reader; CMD[16] about any (R115). -/
def tbReadable (s : State) (d : Desc) (b : Nat) : Bool :=
  d.ring.val = 16 || (s.recs 0x14 d.ring).any fun r => r.num 8 1 == b

/-- Only a time base's owner realm, or CMD[16], may command it (R115); one that no realm owns only CMD[16] (R47). -/
def tbOwned (s : State) (d : Desc) (b : Nat) : Bool := d.ring.val = 16 || s.tbOwner b == d.ring

/-- NS, SEC_LO and SEC_HI (fraction above) of a time base as the NOW registers hold them. -/
def nowWords (s : State) (b : Nat) : List W32 :=
  let ns := s.tbNs b
  [w32 (ns % 10 ^ 9), w32 (ns / 10 ^ 9), w32 (ns / 10 ^ 9 / 2 ^ 32 % 2 ^ 16 + 2 ^ 16 * (s.tbInst b % 65536))]

/-- TB_QUERY. -/
def execTbQuery (d : Desc) (s : State) : Out :=
  let b := d.n 3 % 8
  .next (commandNow 0x30 d (fun s => firstFail [runningCheck s d, need (tbReadable s d b) St.ACCESS_DENIED])
    (fun s => (s, St.OK, [s.rd (Reg.TMB_STATE b)] ++ nowWords s b ++
      [w32 (unsigned 64 (s.freqAdj b) % 2 ^ 32), w32 (unsigned 64 (s.freqAdj b) / 2 ^ 32)])) s)

/-- TB_DISCIPLINE with [8] 1: FREERUN to ACQUIRING (R83). -/
def execTbDisciplineStart (d : Desc) (s : State) : Out :=
  let b := d.n 3 % 8
  .next (commandNow 0x31 d
    (fun s => firstFail [runningCheck s d, need (tbOwned s d b) St.ACCESS_DENIED, notExpert s (0x40 + b),
      need (s.fld (Reg.TMB_STATE b) 10 8 ≠ 0) St.BAD_PARAM, need (s.tbState b == 0) St.WRONG_STATE])
    (fun s => let s := s.tbSetState b 1; (s, St.OK, [s.rd (Reg.TMB_STATE b)])) s)

/-- TB_DISCIPLINE with [8] 0: back to FREERUN, FREQ_ADJ kept (R83). -/
def execTbDisciplineStop (d : Desc) (s : State) : Out :=
  let b := d.n 3 % 8
  .next (commandNow 0x31 d
    (fun s => firstFail [runningCheck s d, need (tbOwned s d b) St.ACCESS_DENIED, notExpert s (0x40 + b),
      need (s.tbState b ≠ 0) St.WRONG_STATE])
    (fun s => let s := s.tbSetState b 0; (s, St.OK, [s.rd (Reg.TMB_STATE b)])) s)

/-- TB_STEP: the step is asked for; it is judged when it is applied (R84). -/
def execTbStep (d : Desc) (s : State) : Out :=
  let b := d.n 3 % 8
  .next (command 0x32 d
    (fun s => firstFail [runningCheck s d, need (tbOwned s d b) St.ACCESS_DENIED, notExpert s (0x40 + b),
      need (d.n 5 ≤ 999999999) St.BAD_PARAM])
    (fun s => s.askStep b (d.n 4) (d.n 5) (d.n 6) (some d.slotId)) s)

/-- TB_FREQ: FREQ_ADJ of a FREERUN time base (R85, R115). -/
def execTbFreq (d : Desc) (s : State) : Out :=
  let b := d.n 3 % 8
  let v := signed 64 (cat64 (d.word 4) (d.word 5))
  .next (commandNow 0x33 d
    (fun s => firstFail [runningCheck s d, need (tbOwned s d b) St.ACCESS_DENIED, notExpert s (0x40 + b),
      need (decide (-(2 ^ 38) ≤ v) && decide (v ≤ 2 ^ 38)) St.BAD_PARAM, need (s.tbState b == 0) St.WRONG_STATE])
    (fun s => let s := s.applyFreq b v; (s, St.OK, [s.rd (Reg.TMB_FREQ_ADJ_LO b), s.rd (Reg.TMB_FREQ_ADJ_HI b)])) s)

/-- A write of STEP_CTL: the fraction is stored; GO 1 asks for the step the STEP registers hold (R84). GO reads 0. -/
def execStepCtlGo (who : Requester) (b : Fin 8) (value : W32) (s : State) : Out :=
  .next (accessHeld who (Reg.TMB_STEP_CTL b) (fun s =>
    let s := s.wrN (Reg.TMB_STEP_CTL b) (wfld value 15 0)
    if wbit value 31 then s.askStep b (s.rdN (Reg.TMB_STEP_SEC b)) (s.rdN (Reg.TMB_STEP_NS b)) (wfld value 15 0) none else s) s)

/-- A write of FREQ_ADJ_HI applies FREQ_ADJ, clamped (R85). -/
def execFreqAdjHiWrite (who : Requester) (b : Fin 8) (value : W32) (s : State) : Out :=
  .next (accessHeld who (Reg.TMB_FREQ_ADJ_HI b) (fun s =>
    s.applyFreq b (signed 64 (cat64 (s.rd (Reg.TMB_FREQ_ADJ_LO b)) value))) s)

/-- A write of STATE.STATE takes effect only for a transition of R83; any other sets STATUS.STATE_REJ. -/
def execTbStateWrite (who : Requester) (b : Fin 8) (value : W32) (s : State) : Out :=
  .next (accessHeld who (Reg.TMB_STATE b) (fun s =>
    if tbTransition (s.tbState b) (wfld value 1 0) (s.fld (Reg.TMB_STATE b) 10 8) then s.tbSetState b (wfld value 1 0)
    else s.setBit (Reg.TMB_STATUS b) 3) s)

/-- A read of NOW_NS latches the other words from the same cycle (R119). -/
def execNowNsRead (who : Requester) (b : Fin 8) (s : State) : Out :=
  .next (access who (Reg.TMB_NOW_NS b) (fun s =>
    ((s.wrWords (Reg.TMB_NOW_NS b) (nowWords s b)).wrN (Reg.TMB_NOW_TS32 b) (s.ts32 b), s.tbNs b % 10 ^ 9)) s)

/-- A grid is visible to a command's requester: CMD[16] sees every configured grid (R90, R116). -/
def gridSeen (s : State) (d : Desc) (g : Nat) : Bool :=
  s.gridValid g && (d.ring.val = 16 || s.gridVisible g d.ring)

/-- Whether a command's requester may change a grid's offset (R90). -/
def gridChangeable (s : State) (d : Desc) (g : Nat) : Bool :=
  let rs := s.gridRealms g
  if rs.length = 1 && ! s.gridDevice g then d.ring.val = 16 || rs.contains d.ring
  else rs.isEmpty && d.ring.val = 16

/-- GRID_QUERY: position, hyperframe, the next frame boundary and HANDOVER_SEQ. -/
def execGridQuery (d : Desc) (s : State) : Out :=
  let g := d.n 3 % 256
  .next (commandNow 0x34 d (fun s => firstFail [runningCheck s d, need (gridSeen s d g) RUL_GRID_UNBOUND])
    (fun s =>
      let b := s.gridTb g
      let p := s.posAt g (s.nowInst b)
      let nb := (s.frameStart g (p.1 + 1) / 65536).toNat
      (s, St.OK, [w32 (2 ^ 20 * (p.1 % 1024).toNat + p.2.1 * 2 ^ 12 + p.2.2 * 2 ^ 8), w32 (p.1 / 1024 % 1024).toNat] ++
        ts80 nb b ++ [s.rd (Reg.RUL_GRID_HANDOVER_SEQ g)])) s)

/-- GRID_OFFSET: the shadow takes the offset and is armed (R94, R104); the change is judged at acceptance as well. -/
def execGridOffset (d : Desc) (s : State) : Out :=
  let g := d.n 3 % 256
  let new := 65536 * signed 32 (d.n 4) + (d.n 5 % 65536 : Nat)
  .next (commandNow 0x35 d
    (fun s => firstFail [runningCheck s d, need (gridSeen s d g) RUL_GRID_UNBOUND,
      need (gridChangeable s d g) St.ACCESS_DENIED, notExpert s 0x50, need (gridChangeOk (s.gridOff g) new) St.BAD_PARAM])
    (fun s =>
      let seq := s.rd (Reg.RUL_GRID_HANDOVER_SEQ g)
      let s := s.wr (Reg.RUL_GRID_SH_OFFSET g) (d.word 4)
      let s := s.wrN (Reg.RUL_GRID_SH_CTL g) (2 ^ 31 + 2 ^ 30 * s.fld (Reg.RUL_GRID_SH_CTL g) 30 30 + d.n 5 % 65536)
      (s, St.OK, [seq])) s)

/-- A write of a grid's shadow: SH_OFFSET, clearing COMMIT; or SH_CTL, which takes SH_FRAC, clears REJ where written 1
and arms COMMIT where written 1 (R104, R120). -/
def execGridShadowWrite (who : Requester) (g : Fin 256) (ctl : Bool) (value : W32) (s : State) : Out :=
  if ctl then
    .next (accessHeld who (Reg.RUL_GRID_SH_CTL g) (fun s =>
      let rej := if wbit value 30 then 0 else s.fld (Reg.RUL_GRID_SH_CTL g) 30 30
      s.wrN (Reg.RUL_GRID_SH_CTL g) (2 ^ 31 * wfld value 31 31 + 2 ^ 30 * rej + wfld value 15 0)) s)
  else
    .next (accessHeld who (Reg.RUL_GRID_SH_OFFSET g) (fun s =>
      (s.setFld (Reg.RUL_GRID_SH_CTL g) 31 31 0).wr (Reg.RUL_GRID_SH_OFFSET g) value) s)

/-- A read of GRID.POS shows the present position and latches HFN (R120). -/
def execGridPosRead (who : Requester) (g : Fin 256) (s : State) : Out :=
  .next (access who (Reg.RUL_GRID_POS g) (fun s =>
    let s := if s.gridValid g then s.latchPos g else s
    (s, s.rdN (Reg.RUL_GRID_POS g))) s)

/-- The address of a block's SNAP_GEN register, if it has one. -/
def snapGenAddr (blk : Nat) : Option Nat :=
  (blockOf blk).bind fun t => (t.2.find? fun r => r.name == "SNAP_GEN").map fun r => 0x10000 * blk + r.off

/-- A block has finished its shadow copy: it writes the new generation and raises EV0608 (R113). -/
def execSnapshotCopyComplete (blk : Fin 4096) (s : State) : Out :=
  match snapGenAddr blk with
  | some a => .next ((s.wr a (s.rd Reg.TRG_SNAP_GEN)).raise 608)
  | none => .next s

/-- SNAP_REQUEST: a device snapshot 2 µs after acceptance (R115), on TB0; CMD[16] with TARGET 0xFF only. -/
def execSnapRequest (d : Desc) (s : State) : Out :=
  .next (command 0x3B d (fun _ => need (d.ring.val = 16 && d.tgt == 255) St.ACCESS_DENIED)
    (fun s => { s with time := { s.time with snapReq := s.time.snapReq ++ [(s.tbNs 0 + 2000, d.slotId)] } }) s)

/-- The captures queued on a TIME_IN. -/
def State.capQ (s : State) (i : Nat) : List Capture := sget s.time.caps i []

/-- The queue replaced; CFG.LEVEL follows. -/
def State.setCapQ (s : State) (i : Nat) (q : List Capture) : State :=
  { s with time := { s.time with caps := sput s.time.caps i q [] } }.setFld (Reg.RUL_CAP_CFG i) 26 24 q.length

/-- An edge on TIME_IN[i]: captured when enabled for its direction (R106); a fifth capture is dropped with OVR (R107). -/
def execTimeInEdge (i : Fin 8) (falling : Bool) (s : State) : Out :=
  let cfg := s.rd (Reg.RUL_CAP_CFG i)
  if ! (wbit cfg 31 && wbit cfg (if falling then 9 else 8)) then .next s
  else if 4 ≤ (s.capQ i).length then .next ((s.setBit (Reg.RUL_CAP_CFG i) 30).raise (600 + i))
  else
    let b := wfld cfg 2 0
    let n := sget s.time.capSeq i 0
    let c : Capture := { tb := b, sec := s.tbNs b / 10 ^ 9, ns := s.tbNs b % 10 ^ 9, frac := s.tbInst b % 65536, seq := n }
    let s := { s with time := { s.time with capSeq := sput s.time.capSeq i ((n + 1) % 256) 0 } }
    .next ((s.setCapQ i (s.capQ i ++ [c])).raise (592 + i))

/-- The oldest capture leaves the queue and is latched: NS, SEC_LO, SEC_HI and CFG.SEQ (R107); with an empty queue NS
reads zero. -/
def State.popCap (s : State) (i : Nat) : State :=
  match s.capQ i with
  | [] => s.wr (Reg.RUL_CAP_NS i) 0
  | c :: r =>
    let s := s.wrWords (Reg.RUL_CAP_NS i) [w32 c.ns, w32 c.sec, w32 (c.sec / 2 ^ 32 % 65536 + 65536 * c.frac)]
    (s.setCapQ i r).setFld (Reg.RUL_CAP_CFG i) 23 16 c.seq

/-- A read of CAP[i].NS. -/
def execCapNsRead (who : Requester) (i : Fin 8) (s : State) : Out :=
  .next (access who (Reg.RUL_CAP_NS i) (fun s => let s := s.popCap i; (s, s.rdN (Reg.RUL_CAP_NS i))) s)

/-- CAP_READ: one capture popped, as a TS80 and its number. -/
def execCapRead (d : Desc) (s : State) : Out :=
  let i := d.n 3 % 8
  .next (commandNow 0x3C d
    (fun s => firstFail [runningCheck s d, need (d.ring.val = 16 || s.portBit d.ring 0x14 1 i) St.ACCESS_DENIED,
      notExpert s 0x50, need (! (s.capQ i).isEmpty) St.NO_RESOURCE])
    (fun s =>
      match s.capQ i with
      | [] => (s, St.OK, [])
      | c :: _ => (s.popCap i, St.OK, ts80 (10 ^ 9 * c.sec + c.ns) c.tb ++ [w32 c.seq])) s)

/-- TOUT[i].CFG written: clearing ENABLE ends a pulse in progress (R108). -/
def State.toutWrite (s : State) (i : Nat) (v : W32) : State :=
  let s := s.wr (Reg.RUL_TOUT_CFG i) v
  if wbit v 31 then s else { s with time := { s.time with pulse := sput s.time.pulse i false false } }

/-- CAP[i].CFG written: ENABLE, EDGE and TB stored, OVR cleared where written 1. -/
def State.capWrite (s : State) (i : Nat) (v : W32) : State :=
  let a := Reg.RUL_CAP_CFG i
  let s := ((s.setFld a 31 31 (wfld v 31 31)).setFld a 9 8 (wfld v 9 8)).setFld a 2 0 (wfld v 2 0)
  if wbit v 30 then s.setFld a 30 30 0 else s

/-- TIO_CONFIG: an input's CAP[i].CFG or an output's TOUT[i].CFG. -/
def execTioConfig (d : Desc) (s : State) : Out :=
  let i := d.n 3 % 8
  let out := bitOf (d.n 3) 3
  .next (commandNow 0x3D d
    (fun s => firstFail [runningCheck s d,
      need (d.ring.val = 16 || s.portBit d.ring (if out then 0x15 else 0x14) 1 i) St.ACCESS_DENIED, notExpert s 0x50])
    (fun s => if out then let s := s.toutWrite i (d.word 4); (s, St.OK, [s.rd (Reg.RUL_TOUT_CFG i)])
      else let s := s.capWrite i (d.word 4); (s, St.OK, [s.rd (Reg.RUL_CAP_CFG i)])) s)

/-- SYNCE_SELECT: a recovered-clock selector; a reserved DIV keeps the field (R12). -/
def execSynceSelect (d : Desc) (s : State) : Out :=
  let k := d.n 3 % 2
  let a := Reg.RUL_SYNCE_CFG k
  .next (commandNow 0x3E d
    (fun s => firstFail [runningCheck s d,
      need (d.ring.val = 16 || s.portBit d.ring 8 4 (wfld (d.word 4) 12 8)) St.ACCESS_DENIED, notExpert s 0x50])
    (fun s =>
      let s := (s.setFld a 31 31 (wfld (d.word 4) 31 31)).setFld a 12 8 (wfld (d.word 4) 12 8)
      let s := if wfld (d.word 4) 2 0 ≤ 3 then s.setFld a 2 0 (wfld (d.word 4) 2 0) else s
      (s, St.OK, [s.rd a])) s)

/-- The width of a pulse has passed: the output is inactive again (R108). -/
def execTimeOutPulseEnd (i : Fin 8) (s : State) : Out :=
  .next { s with time := { s.time with pulse := sput s.time.pulse i false false } }

/-- A write of TOUT[i].CFG. -/
def execToutCfgWrite (who : Requester) (i : Fin 8) (value : W32) (s : State) : Out :=
  .next (accessHeld who (Reg.RUL_TOUT_CFG i) (fun s => s.toutWrite i value) s)

/-- Loss of signal or of lock on the port a selector takes: squelched, SQUELCH (and LOL) set, EV0610 + k (R111). -/
def execSynceSquelch (k : Fin 2) (lol : Bool) (s : State) : Out :=
  if ! s.bit (Reg.RUL_SYNCE_CFG k) 31 then .next s else
  let s := s.setBit (Reg.RUL_SYNCE_STAT k) 0
  let s := if lol then s.setBit (Reg.RUL_SYNCE_STAT k) 1 else s
  .next (s.raise (610 + k))

/-- Level of TIME_OUT[i] (R108): inactive unless a pulse is asserted, at the polarity set. -/
def State.timeOutLevel (s : State) (i : Nat) : Bool :=
  xor (sget s.time.pulse i false && s.bit (Reg.RUL_TOUT_CFG i) 31) (s.bit (Reg.RUL_TOUT_CFG i) 30)

end Sys2Proof.Machine
end

