-- ==== Sys2Proof/Machine/Ductus.lean ====
section
/-! DEFINITION. The Ductus (chapter 5): its commands, its services, its ports, ticks and journal events. -/

namespace Sys2Proof.Machine

/-- DUC_SEM_OVERFLOW and DUC_QUIRE_FENCED (R190). -/
def DUC_SEM_OVERFLOW : Nat := 0x80
def DUC_QUIRE_FENCED : Nat := 0x81

/-! ## Waits (R164, R174) -/

/-- Kinds of waits (R163). -/
def wSEM : Nat := 1
def wANY : Nat := 2
def wALL : Nat := 3
def wDELAY : Nat := 4
def wFER : Nat := 5

/-- A running thread enters WAITING: its wait fields, EXPIRY when a timeout of tmo ticks is armed, the WAIT record; its
Nib keeps its context until it has read NEXT. -/
def State.enterWait (s : State) (q i kind obj mask : Nat) (clr : Bool) (tmo : Option Nat) : State :=
  let n := (s.nibOf q i).getD 0
  let w1 := wsetFld (wsetFld (wsetFld (wsetFld (s.rd (Reg.DUC_TCB_W q i 1)) 29 26 kind) 25 25 (b2n clr)) 24 24 (b2n tmo.isSome)) 15 8 obj
  let s := s.wr (Reg.DUC_TCB_W q i 1) w1
  let s := s.wrN (Reg.DUC_TCB_W q i 2) mask
  let s := match tmo with
    | some d => s.wrN (Reg.DUC_TCB_W q i 3) (s.rdN (Reg.DUC_TICK_COUNT q (s.tcbTick q i)) + d)
    | none => s
  let s := (s.leaveNib q i).setTcbState q i tWAITING
  let s := s.setDuc q { s.ducSt q with waiting := (s.ducSt q).waiting.filter (· ≠ i) ++ [i] }
  let s := s.setHeld q n (i + 1)
  let s := if kind = wANY || kind = wALL then s.countWaiters q obj else s
  s.ducTrace q 3 (s.tcbRealm q i) n i (kind + obj * 256) (if kind = wDELAY then s.tcb q i 3 else mask)

/-! ## Port results (R180) -/

/-- The request of PORT[n] completes: action, status and value; the port takes requests again. -/
def State.svcDone (s : State) (q n action status value : Nat) : State :=
  let s := s.wrN (Reg.DUC_PORT_RES_LO q n) (2 ^ 30 * action + status)
  let s := s.wrN (Reg.DUC_PORT_RES_HI q n) value
  s.setDuc q { s.ducSt q with busy := (s.ducSt q).busy.filter (· ≠ n) }

/-- Action of a request after which its thread has left Nib n: read NEXT, or idle when no thread is ready for it. -/
def State.svcLeft (s : State) (q n status : Nat) : State :=
  if s.decision q n = 0 then (s.svcDone q n 2 status 0).setBit (Reg.DUC_STATUS q) n else s.svcDone q n 1 status 0

/-- The request of a thread whose wait begins now: TMO 0 polls (R174). -/
def State.svcWait (s : State) (q n i kind obj mask : Nat) (clr : Bool) : State :=
  let tmo := s.rdN (Reg.DUC_PORT_TMO q n)
  if tmo = 0 then s.svcDone q n 0 St.TIMEOUT 0
  else
    let s := s.enterWait q i kind obj mask clr (if tmo = 0xFFFFFFFF then none else some tmo)
    s.svcLeft q n St.OK

/-- A service request (R180, R181): refused with BAD_PARAM while one is outstanding or when the Nib runs no thread, with
DUC_QUIRE_FENCED in a fenced Quire; otherwise the operation, given Quire, Nib and TID. -/
def service (op : Nat) (nib : Fin 128) (a : BitVec 24) (b : W32) (act : Nat → Nat → Nat → State → State) (s : State) : State :=
  let q := nib.val / 16
  let n := nib.val % 16
  let s := s.wrN (Reg.DUC_PORT_SVC_LO q n) (2 ^ 24 * op + a.toNat)
  let s := s.wr (Reg.DUC_PORT_SVC_HI q n) b
  if (s.ducSt q).busy.contains n then s.wrN (Reg.DUC_PORT_RES_LO q n) St.BAD_PARAM
  else if s.fencedQ q then s.svcDone q n 0 DUC_QUIRE_FENCED 0
  else if s.runOn q n = 0 then s.svcDone q n 0 St.BAD_PARAM 0
  else act q n (s.runOn q n - 1) s

/-- The change of a request waits for its journal write (R184): the port is busy until then. -/
def State.svcJournal (s : State) (q n i op a b : Nat) : State :=
  let s := s.setDuc q { s.ducSt q with busy := setIns (s.ducSt q).busy n }
  s.jPush q { op := op, tid := i, port := some n, slot := none, a := a, b := b, c := 0 }

/-- A running thread goes to the tail of its priority list (YIELD, DELAY 0). -/
def State.yieldThread (s : State) (q n i : Nat) : State :=
  let s := (s.leaveNib q i).setHeld q n (i + 1)
  (s.makeReady q i).svcLeft q n St.OK

/-- Whether a semaphore, or a flag group, is one of realm r's. -/
def State.semOf (s : State) (q o r : Nat) : Bool := s.bit (Reg.DUC_SEM_STATE q o) 31 && s.fld (Reg.DUC_SEM_STATE q o) 27 24 == r
def State.flagOf (s : State) (q o r : Nat) : Bool := s.bit (Reg.DUC_FLAG_OWNER q o) 31 && s.fld (Reg.DUC_FLAG_OWNER q o) 27 24 == r

/-- A TMO that gives BAD_PARAM (R174). -/
def badTmo (t : Nat) : Bool := 2 ^ 31 ≤ t && t ≠ 0xFFFFFFFF

/-! ## Services (R181) -/

/-- YIELD. -/
def execYield (nib : Fin 128) (a : BitVec 24) (b : W32) (s : State) : Out :=
  .next (service 0x01 nib a b (fun q n i s => s.yieldThread q n i) s)

/-- EXIT: the thread is freed once the journal shows it (R183). -/
def execExit (nib : Fin 128) (a : BitVec 24) (b : W32) (s : State) : Out :=
  .next (service 0x02 nib a b (fun q n i s => s.svcJournal q n i 0x02 (a.toNat % 256) 0) s)

/-- DELAY (R174): 0 yields; above 2^31 − 1 is BAD_PARAM. -/
def execDelay (nib : Fin 128) (a : BitVec 24) (b : W32) (s : State) : Out :=
  .next (service 0x03 nib a b (fun q n i s =>
    if b.toNat = 0 then s.yieldThread q n i
    else if 2 ^ 31 ≤ b.toNat then s.svcDone q n 0 St.BAD_PARAM 0
    else (s.enterWait q i wDELAY 0 0 false (some b.toNat)).svcLeft q n St.OK) s)

/-- SEM_WAIT (R175): takes 1 after its journal write, or waits at once. -/
def execSemWait (nib : Fin 128) (a : BitVec 24) (b : W32) (s : State) : Out :=
  .next (service 0x04 nib a b (fun q n i s =>
    let o := a.toNat % 256
    if badTmo (s.rdN (Reg.DUC_PORT_TMO q n)) then s.svcDone q n 0 St.BAD_PARAM 0
    else if ! s.semOf q o (s.tcbRealm q i) then s.svcDone q n 0 St.ACCESS_DENIED 0
    else if s.fld (Reg.DUC_SEM_STATE q o) 15 0 = 0 then s.svcWait q n i wSEM o 0 false
    else s.svcJournal q n i 0x04 o 0) s)

/-- SEM_POST as a service (R175); a count outside 1 to 65,535 is BAD_PARAM. -/
def execSvcSemPost (nib : Fin 128) (a : BitVec 24) (b : W32) (s : State) : Out :=
  .next (service 0x05 nib a b (fun q n i s =>
    let o := a.toNat % 256
    if ! s.semOf q o (s.tcbRealm q i) then s.svcDone q n 0 St.ACCESS_DENIED 0
    else if b.toNat = 0 || 65535 < b.toNat then s.svcDone q n 0 St.BAD_PARAM 0
    else s.svcJournal q n i 0x05 o b.toNat) s)

/-- Flags of a group that satisfy a wait. -/
def State.flagHit (s : State) (q o mask : Nat) (all : Bool) : Bool :=
  let hit := Nat.land (s.rdN (Reg.DUC_FLAG_VALUE q o)) mask
  if all then hit == mask else hit ≠ 0

/-- FLAG_WAIT (R176): satisfied at once without a change, satisfied after its journal write when it clears, or waiting. -/
def execFlagWait (nib : Fin 128) (a : BitVec 24) (b : W32) (s : State) : Out :=
  .next (service 0x06 nib a b (fun q n i s =>
    let o := a.toNat % 256
    let all := bitOf a.toNat 8
    let clr := bitOf a.toNat 9
    if badTmo (s.rdN (Reg.DUC_PORT_TMO q n)) || b = 0 then s.svcDone q n 0 St.BAD_PARAM 0
    else if ! s.flagOf q o (s.tcbRealm q i) then s.svcDone q n 0 St.ACCESS_DENIED 0
    else if ! s.flagHit q o b.toNat all then s.svcWait q n i (if all then wALL else wANY) o b.toNat clr
    else if clr then s.svcJournal q n i 0x06 (a.toNat % 1024) b.toNat
    else s.svcDone q n 0 St.OK (s.rdN (Reg.DUC_FLAG_VALUE q o))) s)

/-- FLAG_SET as a service (R176). -/
def execSvcFlagSet (nib : Fin 128) (a : BitVec 24) (b : W32) (s : State) : Out :=
  .next (service 0x07 nib a b (fun q n i s =>
    let o := a.toNat % 256
    if ! s.flagOf q o (s.tcbRealm q i) then s.svcDone q n 0 St.ACCESS_DENIED 0
    else s.svcJournal q n i 0x07 o b.toNat) s)

/-- FLAG_CLEAR (R176). -/
def execFlagClear (nib : Fin 128) (a : BitVec 24) (b : W32) (s : State) : Out :=
  .next (service 0x08 nib a b (fun q n i s =>
    let o := a.toNat % 256
    if ! s.flagOf q o (s.tcbRealm q i) then s.svcDone q n 0 St.ACCESS_DENIED 0
    else s.svcJournal q n i 0x08 o b.toNat) s)

/-- TASK_END (R181): ends an accelerator or XFER task of the thread's Folio. -/
def execTaskEnd (nib : Fin 128) (a : BitVec 24) (b : W32) (s : State) : Out :=
  .next (service 0x09 nib a b (fun q n i s =>
    let t := a.toNat % 64
    let st := bitsOf a.toNat 15 8
    match (if s.tcbFolio q i then s.folio (s.tcbRealm q i) (s.fld (Reg.DUC_TCB_W q i 8) 31 16) else none) with
    | none => s.svcDone q n 0 St.BAD_PARAM 0
    | some f =>
      if f.tasks.length ≤ t || (f.taskAt t).cls < 2 || (f.taskAt t).ended then s.svcDone q n 0 St.BAD_PARAM 0
      else
        let s := s.ducTrace q 7 (s.tcbRealm q i) n i (t + st * 256) 0
        (s.svcDone q n 0 St.OK 0).taskEnd f t st) s)

/-- CHECKPOINT (R183): returns after its journal entry. -/
def execCheckpoint (nib : Fin 128) (a : BitVec 24) (b : W32) (s : State) : Out :=
  .next (service 0x0A nib a b (fun q n i s =>
    if a = 0 then s.svcDone q n 0 St.BAD_PARAM 0 else s.svcJournal q n i 0x0A a.toNat 0) s)

/-- Whether a priority lies in a realm's band in Quire q (R40). -/
def State.inBand (s : State) (q r p : Nat) : Bool :=
  (s.quireShare r q).elim false fun x => x.num 0x12 1 ≤ p && p ≤ x.num 0x13 1

/-- A priority changed (R168): a READY thread goes to the tail of its new list, a RUNNING one is weighed anew; PRIO record. -/
def State.changePrio (s : State) (q i p : Nat) : State :=
  let old := s.tcbPrio q i
  let s := s.setFld (Reg.DUC_TCB_W q i 0) 21 16 p
  let s := s.ducTrace q 0xA (s.tcbRealm q i) (s.fld (Reg.DUC_TCB_W q i 1) 3 0) i (old + p * 256) 0
  if s.tcbState q i = tREADY then
    let d := s.ducSt q
    (s.setDuc q { d with ready := insTail (s.tcbPrio q) p i (d.ready.filter (· ≠ i)) }).dispatch q
  else s.dispatch q

/-- SET_PRIO (R181): the running thread's own priority. -/
def execSetPrio (nib : Fin 128) (a : BitVec 24) (b : W32) (s : State) : Out :=
  .next (service 0x0B nib a b (fun q n i s =>
    let p := a.toNat % 64
    if ! s.inBand q (s.tcbRealm q i) p then s.svcDone q n 0 St.BAD_PARAM 0
    else
      let old := s.tcbPrio q i
      (s.changePrio q i p).svcDone q n 0 St.OK old) s)

/-! ## Changes after their journal write (R171, R184) -/

/-- A thread created for THREAD_CREATE: the descriptor's fields (R188). -/
def State.createFrom (s : State) (q : Nat) (d : Desc) (k : SlotId) : State :=
  let p := s.pick (s.freeTcbs q)
  match p.1 with
  | none => p.2.slotEnd k St.NO_RESOURCE []
  | some i =>
    let w3 := d.n 3
    let s := p.2.createThread q i [2 ^ 24 * d.tgt + 2 ^ 22 * bitsOf w3 23 22 + 2 ^ 16 * bitsOf w3 21 16 + d.n 4 % 2 ^ 16, 0, 0, 0,
      d.n 5, d.n 6 % 2 ^ 16, d.n 7, d.n 8, 0, 0, 0, 0, 0, 0, 0, 0]
    let s := if bitOf w3 24 then s.makeReady q i else s
    s.slotEnd k St.OK [w32 i]

/-- Service results: the request of the JReq's port completes with no action. -/
def State.jSvc (s : State) (q : Nat) (r : JReq) (status value : Nat) : State :=
  match r.port with
  | some n => s.svcDone q n 0 status value
  | none => s

/-- The change of a request whose journal write has completed. Operation numbers are those of R181, the two of R177, and
0x100 plus the code of a command of R188. -/
def State.jEffect (s : State) (q : Nat) (r : JReq) : State :=
  let k := r.slot.getD { ring := 0, slot := 0 }
  let d := (s.running k).map (·.d)
  match r.op with
  | 0x02 =>
    let rl := s.tcbRealm q r.tid
    let w8 := s.tcb q r.tid 8
    let fol := s.tcbFolio q r.tid
    let s := s.freeThread q r.tid r.a 0
    let s := match r.port with
      | some n => s.svcLeft q n St.OK
      | none => s
    if fol then s.threadExit rl (bitsOf w8 31 16) (bitsOf w8 13 8) r.a else s
  | 0x04 =>
    let c := s.fld (Reg.DUC_SEM_STATE q r.a) 15 0
    (match r.port with
     | none => s
     | some n =>
       if c = 0 then s.svcWait q n r.tid wSEM r.a 0 false
       else ((s.setFld (Reg.DUC_SEM_STATE q r.a) 15 0 (c - 1)).jrnlSem q r.a).svcDone q n 0 St.OK (c - 1))
  | 0x05 =>
    let p := s.semPost q r.a r.b false
    p.1.jSvc q r (if p.2 then DUC_SEM_OVERFLOW else St.OK) (p.1.fld (Reg.DUC_SEM_STATE q r.a) 15 0)
  | 0x06 =>
    let o := r.a % 256
    (match r.port with
     | none => s
     | some n =>
       if s.flagHit q o r.b (bitOf r.a 8) then
         let f := s.rdN (Reg.DUC_FLAG_VALUE q o)
         ((s.wrN (Reg.DUC_FLAG_VALUE q o) (f - Nat.land f r.b)).jrnlFlag q o).svcDone q n 0 St.OK f
       else s.svcWait q n r.tid (if bitOf r.a 8 then wALL else wANY) o r.b true)
  | 0x07 => let s := s.flagChange q r.a 0 r.b false; s.jSvc q r St.OK (s.rdN (Reg.DUC_FLAG_VALUE q r.a))
  | 0x08 => let s := s.flagChange q r.a r.b 0 false; s.jSvc q r St.OK (s.rdN (Reg.DUC_FLAG_VALUE q r.a))
  | 0x0A =>
    let n := r.port.getD 0
    let s := s.wrN (Reg.DUC_TCB_W q r.tid 9) r.a
    let s := s.wr (Reg.DUC_TCB_W q r.tid 10) (s.rd (Reg.DUC_PORT_XARG_LO q n))
    let s := s.wr (Reg.DUC_TCB_W q r.tid 11) (s.rd (Reg.DUC_PORT_XARG_HI q n))
    let seq := (s.ducSt q).jseq
    let s := s.jrnlThread q r.tid
    (s.ducTrace q 8 (s.tcbRealm q r.tid) n r.tid r.a seq).jSvc q r St.OK 0
  | 0x40 => s.flagChange q r.a 0 r.b true
  | 0x41 => (s.semPost q r.a r.b true).1
  | 0x120 => d.elim s fun d => s.createFrom q d k
  | 0x124 => let run := s.tcb q r.tid 14; (s.freeThread q r.tid St.ABORTED 1).slotEnd k St.OK [w32 run]
  | 0x127 =>
    let p := s.pick ((List.range 256).filter fun o => ! s.bit (Reg.DUC_SEM_STATE q o) 31)
    (match p.1 with
     | none => p.2.slotEnd k St.NO_RESOURCE []
     | some o =>
       let s := p.2.wrN (Reg.DUC_SEM_STATE q o) (2 ^ 31 + 2 ^ 24 * r.c + r.a)
       let s := s.wrN (Reg.DUC_SEM_MAX q o) r.b
       (s.jrnlSem q o).slotEnd k St.OK [w32 o])
  | 0x128 =>
    let s := (s.wr (Reg.DUC_SEM_STATE q r.a) 0).wr (Reg.DUC_SEM_MAX q r.a) 0
    (s.jrnlSem q r.a).slotEnd k St.OK []
  | 0x129 =>
    let p := s.semPost q r.a r.b false
    p.1.slotEnd k (if p.2 then DUC_SEM_OVERFLOW else St.OK) [w32 (p.1.fld (Reg.DUC_SEM_STATE q r.a) 15 0)]
  | 0x12A =>
    let p := s.pick ((List.range 256).filter fun o => ! s.bit (Reg.DUC_FLAG_OWNER q o) 31)
    (match p.1 with
     | none => p.2.slotEnd k St.NO_RESOURCE []
     | some o =>
       let s := p.2.wrN (Reg.DUC_FLAG_OWNER q o) (2 ^ 31 + 2 ^ 24 * r.c)
       ((s.wrN (Reg.DUC_FLAG_VALUE q o) r.a).jrnlFlag q o).slotEnd k St.OK [w32 o])
  | 0x12B =>
    let s := (s.wr (Reg.DUC_FLAG_OWNER q r.a) 0).wr (Reg.DUC_FLAG_VALUE q r.a) 0
    (s.jrnlFlag q r.a).slotEnd k St.OK []
  | 0x12C => let s := s.flagChange q r.a r.c r.b false; s.slotEnd k St.OK [s.rd (Reg.DUC_FLAG_VALUE q r.a)]
  | _ => s

/-- The first journal write outstanding completes, and its change takes effect. -/
def execJournalWriteComplete (q : Fin 8) (s : State) : Out :=
  if s.fencedQ q then .next s else
  match (s.ducSt q).jq with
  | [] => .next s
  | r :: rest => .next ((s.setDuc q { s.ducSt q with jq := rest }).jEffect q r)

/-- A journal write fails (R191, R192): JRNL_ERR, event k = 1, the Quire fenced; its change does not take effect, and a
command that waited for it ends DUC_QUIRE_FENCED. -/
def execJournalWriteFailure (q : Fin 8) (s : State) : Out :=
  match (s.ducSt q).jq with
  | [] => .next s
  | r :: rest =>
    let s := s.setDuc q { s.ducSt q with jq := rest }
    let s := ((s.setBit (Reg.DUC_STATUS q) 30).raise (160 + 16 * q + 1)).notice 3 0 q (160 + 16 * q + 1)
    .next (match r.slot with
      | some k => s.slotEnd k DUC_QUIRE_FENCED []
      | none => match r.port with
        | some n => s.svcDone q n 0 DUC_QUIRE_FENCED 0
        | none => s)

/-! ## Ports (R169, R180) -/

/-- Read of RES_LO: while a request is outstanding it stalls, and nothing has happened yet. -/
def execResLoRead (who : Requester) (nib : Fin 128) (s : State) : Out :=
  let q := nib.val / 16
  let n := nib.val % 16
  if s.permits who (Reg.DUC_PORT_RES_LO q n) && (s.ducSt q).busy.contains n then .next s
  else .next (access who (Reg.DUC_PORT_RES_LO q n) (fun s => (s, s.rdN (Reg.DUC_PORT_RES_LO q n))) s)

/-- A thread that was to leave its Nib leaves it: suspended (cause 9) or freed, and the command that waits for it ends. -/
def State.applyLeave (s : State) (q : Nat) (l : Leave) : State :=
  let s := s.setDuc q { s.ducSt q with leaving := (s.ducSt q).leaving.filter (·.tid ≠ l.tid) }
  if l.cause = 9 then
    let n := (s.nibOf q l.tid).getD 0
    let s := (s.leaveNib q l.tid).setTcbState q l.tid tSUSPENDED
    let s := s.ducTrace q 9 (s.tcbRealm q l.tid) n l.tid 1 0
    l.slot.elim s fun k => s.slotEnd k St.OK []
  else
    let s := s.leaveNib q l.tid
    let run := s.tcb q l.tid 14
    let s := s.freeThread q l.tid l.status l.cause
    l.slot.elim s fun k => s.slotEnd k St.OK [w32 run]

/-- Thread i becomes RUNNING on Nib n, in place of thread t (TID + 1; 0 none): DISPATCH record. -/
def State.runThread (s : State) (q n i t : Nat) : State :=
  let d := s.ducSt q
  let wait := s.tbNs (s.ducTb q) - sget d.readyAt i 0
  let c := (sget s.nib (16 * q + n) NibSt.init).cyc
  let s := s.setDuc q { d with ready := d.ready.filter (· ≠ i), readyAt := sdel d.readyAt i, since := sput d.since n c 0 }
  let s := (s.setTcbState q i tRUNNING).setRun q n (i + 1)
  let s := s.setFld (Reg.DUC_TCB_W q i 1) 3 0 n
  let s := s.setFld (Reg.DUC_STATUS q) n n 0
  let s := if s.tcbBound q i then { s with spareTag := sput s.spareTag (16 * q + n) (s.tcbRealm q i) 16 } else s
  s.ducTrace q 1 (s.tcbRealm q i) n i (if t = 0 then 0x1FF else t - 1) wait

/-- The decision of R169 at a NEXT read of Nib n of Quire q: the thread that left or was pre-empted takes its next state, the
chosen one becomes RUNNING, NEXT shows it, and the dispatch interrupt clears. -/
def State.nextRead (s : State) (q n : Nat) : State :=
  let a := Reg.DUC_PORT_NEXT q n
  let s := s.setIpend (16 * q + n) 0 false
  if s.fencedQ q then
    s.wrN a (if s.runOn q n = 0 then 0 else 2 ^ 31 + (s.runOn q n - 1))
  else
    let prev := if s.runOn q n = 0 then sget (s.ducSt q).held n 0 else s.runOn q n
    let s := match (s.ducSt q).leaving.find? fun l => l.tid + 1 == s.runOn q n with
      | some l => s.applyLeave q l
      | none => s
    let cur := s.runOn q n
    let d := s.decision q n
    let s := s.setHeld q n 0
    if d ≠ 0 && d = cur then s.wrN a (2 ^ 31 + (d - 1))
    else
      -- pre-emption: the old thread goes to the head of its priority list
      let s := if cur = 0 then s else
        let i := cur - 1
        let s := (s.leaveNib q i).setTcbState q i tREADY
        let x := s.ducSt q
        let s := s.setDuc q { x with ready := insHead (s.tcbPrio q) (s.tcbPrio q i) i x.ready,
                                     readyAt := sput x.readyAt i (s.tbNs (s.ducTb q)) 0 }
        s.ducTrace q 2 (s.tcbRealm q i) n i (if d = 0 then 0x1FF else d - 1) 0
      if d = 0 then ((s.wrN a 0).setBit (Reg.DUC_STATUS q) n).dispatch q
      else
        let s := s.runThread q n (d - 1) cur
        (s.wrN a (2 ^ 31 + 2 ^ 30 * b2n (d ≠ prev) + (d - 1))).dispatch q

/-- Read of PORT[n].NEXT. -/
def execNextRead (who : Requester) (nib : Fin 128) (s : State) : Out :=
  let q := nib.val / 16
  let n := nib.val % 16
  .next (access who (Reg.DUC_PORT_NEXT q n) (fun s => let s := s.nextRead q n; (s, s.rdN (Reg.DUC_PORT_NEXT q n))) s)

/-! ## Ticks (R172 to R174) -/

/-- n boundaries of the source of TICK[t] have passed at once. -/
def execTick (q : Fin 8) (t : Fin 4) (n : BitVec 32) (s : State) : Out :=
  if s.fencedQ q then .next s
  else .next (if s.bit (Reg.DUC_TICK_CFG q t) 31 then s.bump (Reg.DUC_TICK_COUNT q t) n.toNat else s)

/-- Ticks by which a waiting thread's EXPIRY has passed; none when nothing is armed or it is still ahead. -/
def State.overdue (s : State) (q i : Nat) : Option Int :=
  let late := signed 32 (s.rdN (Reg.DUC_TICK_COUNT q (s.tcbTick q i)) + 2 ^ 32 - s.tcb q i 3)
  if s.bit (Reg.DUC_TCB_W q i 1) 24 && 0 ≤ late then some late else none

/-- The expiry that is due first: the earliest EXPIRY, then the wait that began first. -/
def State.firstDue (s : State) (q : Nat) : Option Nat :=
  ((s.ducSt q).waiting.foldl (fun b i =>
    match s.overdue q i, b with
    | none, _ => b
    | some l, none => some (i, l)
    | some l, some (j, m) => if m < l then some (i, l) else some (j, m)) none).map (·.1)

/-- An expired delay ends with OK, an expired timeout with TIMEOUT (R174). -/
def execTickExpiry (q : Fin 8) (s : State) : Out :=
  if s.fencedQ q then .next s else
  match s.firstDue q with
  | none => .next s
  | some i =>
    let k := s.waitKind q i
    let g := s.waitObj q i
    let s := s.wake q i (if k = wDELAY then St.OK else St.TIMEOUT) 0 1
    .next (if k = wANY || k = wALL then s.countWaiters q g else s)

/-! ## Commands (R188, R189) -/

/-- Quire of a Ductus command. -/
def dQuire (d : Desc) : Nat := d.n 3 % 8
/-- TID, semaphore or group of a Ductus command. -/
def dObj (d : Desc) : Nat := bitsOf (d.n 3) 24 16

/-- Checks of every Ductus command aimed at a realm's Quire. -/
def ducCheck (d : Desc) (s : State) (more : List (Nat × Nat)) : Nat × Nat :=
  let q := dQuire d
  firstFail ([runningCheck s d, need (d.tgt < 16 && (s.quireShare d.tgt q).isSome) St.ACCESS_DENIED,
    need (! s.fencedQ q) DUC_QUIRE_FENCED, notExpert s (0x70 + q)] ++ more)

/-- Checks of a thread command: the thread's realm, a Folio thread, and R189's row of accepted states. -/
def thrCheck (d : Desc) (query : Bool) (states : List Nat) (s : State) (more : List (Nat × Nat)) : Nat × Nat :=
  let q := dQuire d
  let i := dObj d
  ducCheck d s ([need (s.tcbRealm q i == d.tgt) St.ACCESS_DENIED, need (query || ! s.tcbFolio q i || s.tcbState q i == tFREE) St.ACCESS_DENIED,
    need (states.contains (s.tcbState q i)) St.WRONG_STATE] ++ more)

/-- A change that waits for its journal write, of a command. -/
def State.cmdJournal (s : State) (d : Desc) (op tid a b c : Nat) : State :=
  s.jPush (dQuire d) { op := op, tid := tid, port := none, slot := some d.slotId, a := a, b := b, c := c }

/-- THREAD_CREATE. -/
def execThreadCreate (d : Desc) (s : State) : Out :=
  let q := dQuire d
  .next (command 0x20 d (fun s =>
    let share := (s.quireShare d.tgt q).elim 0 fun x => x.num 0xA 2
    ducCheck d s [need (s.inBand q d.tgt (bitsOf (d.n 3) 21 16)) St.BAD_PARAM,
      need (Nat.land (d.n 4 % 65536) share == d.n 4 % 65536) St.BAD_PARAM,
      need (s.inRealm d.tgt (cat64 (d.word 5) (d.word 6)) 4) St.BAD_PARAM,
      need ((s.tcbsOf q d.tgt).length < ((s.quireShare d.tgt q).elim 0 fun x => x.num 0x10 2)) St.NO_RESOURCE,
      need (! (s.freeTcbs q).isEmpty) St.NO_RESOURCE])
    (fun s => s.cmdJournal d 0x120 0 0 0 0) s)

/-- THREAD_START. -/
def execThreadStart (d : Desc) (s : State) : Out :=
  .next (commandNow 0x21 d (fun s => thrCheck d false [tDORMANT] s [])
    (fun s => (s.makeReady (dQuire d) (dObj d), St.OK, [])) s)

/-- THREAD_SUSPEND: a RUNNING thread leaves at its Nib's next NEXT read, and the command ends then. -/
def execThreadSuspend (d : Desc) (s : State) : Out :=
  let q := dQuire d
  let i := dObj d
  .next (command 0x22 d (fun s => thrCheck d false [tREADY, tRUNNING] s [])
    (fun s =>
      if s.tcbState q i = tRUNNING then
        let l : Leave := { tid := i, cause := 9, status := 0, slot := some d.slotId }
        (s.setDuc q { s.ducSt q with leaving := (s.ducSt q).leaving ++ [l] }).dispatch q
      else
        let s := (s.unlist q i).setTcbState q i tSUSPENDED
        (s.ducTrace q 9 (s.tcbRealm q i) (s.fld (Reg.DUC_TCB_W q i 1) 3 0) i 1 0).slotEnd d.slotId St.OK []) s)

/-- THREAD_RESUME. -/
def execThreadResume (d : Desc) (s : State) : Out :=
  let q := dQuire d
  let i := dObj d
  .next (commandNow 0x23 d (fun s => thrCheck d false [tSUSPENDED] s [])
    (fun s => ((s.ducTrace q 9 (s.tcbRealm q i) (s.fld (Reg.DUC_TCB_W q i 1) 3 0) i 0 0).makeReady q i, St.OK, [])) s)

/-- THREAD_KILL: a RUNNING thread leaves at its Nib's next NEXT read; another is freed after its journal write. -/
def execThreadKill (d : Desc) (s : State) : Out :=
  let q := dQuire d
  let i := dObj d
  .next (command 0x24 d (fun s => thrCheck d false [tDORMANT, tREADY, tRUNNING, tWAITING, tSUSPENDED] s [])
    (fun s =>
      if s.tcbState q i = tRUNNING then s.endThread q i St.ABORTED 1 (some d.slotId)
      else s.cmdJournal d 0x124 i 0 0 0) s)

/-- THREAD_PRIO. -/
def execThreadPrio (d : Desc) (s : State) : Out :=
  let q := dQuire d
  let i := dObj d
  .next (commandNow 0x25 d (fun s => thrCheck d false [tDORMANT, tREADY, tRUNNING, tWAITING, tSUSPENDED] s
      [need (s.inBand q d.tgt (d.n 4 % 64)) St.BAD_PARAM])
    (fun s => let old := s.tcbPrio q i; (s.changePrio q i (d.n 4 % 64), St.OK, [w32 old])) s)

/-- THREAD_QUERY. -/
def execThreadQuery (d : Desc) (s : State) : Out :=
  .next (commandNow 0x26 d (fun s => thrCheck d true [tDORMANT, tREADY, tRUNNING, tWAITING, tSUSPENDED] s [])
    (fun s => (s, St.OK, [0, 1, 2, 3, 8, 9, 12, 13].map fun w => s.rd (Reg.DUC_TCB_W (dQuire d) (dObj d) w))) s)

/-- SEM_ALLOC. -/
def execSemAlloc (d : Desc) (s : State) : Out :=
  let q := dQuire d
  let ini := d.n 4 % 65536
  let mx := bitsOf (d.n 4) 31 16
  .next (command 0x27 d (fun s => ducCheck d s [need (mx ≠ 0 && ini ≤ mx) St.BAD_PARAM,
      need ((List.range 256).any fun o => ! s.bit (Reg.DUC_SEM_STATE q o) 31) St.NO_RESOURCE])
    (fun s => s.cmdJournal d 0x127 0 ini mx d.tgt) s)

/-- Checks of a command on a semaphore: FREE is WRONG_STATE, another realm's is ACCESS_DENIED (R179). -/
def semCheck (d : Desc) (s : State) (more : List (Nat × Nat)) : Nat × Nat :=
  let q := dQuire d
  let o := dObj d % 256
  ducCheck d s ([need (s.bit (Reg.DUC_SEM_STATE q o) 31) St.WRONG_STATE, need (s.semOf q o d.tgt) St.ACCESS_DENIED] ++ more)

/-- Checks of a command on a flag group. -/
def flagCheck (d : Desc) (s : State) (more : List (Nat × Nat)) : Nat × Nat :=
  let q := dQuire d
  let o := dObj d % 256
  ducCheck d s ([need (s.bit (Reg.DUC_FLAG_OWNER q o) 31) St.WRONG_STATE, need (s.flagOf q o d.tgt) St.ACCESS_DENIED] ++ more)

/-- SEM_FREE. -/
def execSemFree (d : Desc) (s : State) : Out :=
  let o := dObj d % 256
  .next (command 0x28 d (fun s => semCheck d s [need (s.waitersOn (dQuire d) o [wSEM]).isEmpty St.WRONG_STATE])
    (fun s => s.cmdJournal d 0x128 0 o 0 0) s)

/-- SEM_POST. -/
def execSemPost (d : Desc) (s : State) : Out :=
  .next (command 0x29 d (fun s => semCheck d s [need (d.n 4 ≠ 0 && d.n 4 ≤ 65535) St.BAD_PARAM])
    (fun s => s.cmdJournal d 0x129 0 (dObj d % 256) (d.n 4) 0) s)

/-- FLAG_ALLOC. -/
def execFlagAlloc (d : Desc) (s : State) : Out :=
  let q := dQuire d
  .next (command 0x2A d (fun s => ducCheck d s
      [need ((List.range 256).any fun o => ! s.bit (Reg.DUC_FLAG_OWNER q o) 31) St.NO_RESOURCE])
    (fun s => s.cmdJournal d 0x12A 0 (d.n 4) 0 d.tgt) s)

/-- FLAG_FREE. -/
def execFlagFree (d : Desc) (s : State) : Out :=
  let o := dObj d % 256
  .next (command 0x2B d (fun s => flagCheck d s [need (s.waitersOn (dQuire d) o [wANY, wALL]).isEmpty St.WRONG_STATE])
    (fun s => s.cmdJournal d 0x12B 0 o 0 0) s)

/-- FLAG_SET: the clear mask first, then the set mask (R176). -/
def execFlagSet (d : Desc) (s : State) : Out :=
  .next (command 0x2C d (fun s => flagCheck d s [])
    (fun s => s.cmdJournal d 0x12C 0 (dObj d % 256) (d.n 4) (d.n 5)) s)

/-- TICK[t].CFG written; a reserved SRC or PERIOD_US keeps its field (R12). -/
def State.tickWrite (s : State) (q t : Nat) (v : W32) : State :=
  let a := Reg.DUC_TICK_CFG q t
  let s := ((s.setFld a 31 31 (wfld v 31 31)).setFld a 27 20 (wfld v 27 20)).setFld a 18 16 (wfld v 18 16)
  let s := if wfld v 29 28 = 3 then s else s.setFld a 29 28 (wfld v 29 28)
  if wfld v 9 0 = 0 || 1000 < wfld v 9 0 then s else s.setFld a 9 0 (wfld v 9 0)

/-- TICK_CONFIG: word 3 [1:0] holds the tick, where other commands hold the Quire; the model takes the Quire from word 3
[18:16], where other commands hold the object (notes/assumptions/7.md). -/
def execTickConfig (d : Desc) (s : State) : Out :=
  let q := bitsOf (d.n 3) 18 16
  let t := d.n 3 % 4
  .next (commandNow 0x2D d (fun s => firstFail [need (d.ring.val = 16) St.ACCESS_DENIED, need (! s.fencedQ q) DUC_QUIRE_FENCED,
      notExpert s (0x70 + q), need ((List.range 512).all fun i => s.tcbState q i == tFREE || s.tcbTick q i ≠ t) St.WRONG_STATE])
    (fun s => (s.tickWrite q t (d.word 4), St.OK, [])) s)

/-- DUC_TRACE. -/
def execDucTrace (d : Desc) (s : State) : Out :=
  let q := dQuire d
  .next (commandNow 0x2E d (fun s => firstFail [need (d.ring.val = 16) St.ACCESS_DENIED, need (! s.fencedQ q) DUC_QUIRE_FENCED,
      notExpert s (0x70 + q)])
    (fun s => (s.wrN (Reg.DUC_TRACE_CFG q) (2 ^ 31 * wfld (d.word 4) 31 31 + wfld (d.word 4) 11 0), St.OK, [])) s)

/-- DUC_QUERY. -/
def execDucQuery (d : Desc) (s : State) : Out :=
  let q := dQuire d
  .next (commandNow 0x2F d (fun s => ducCheck d s [])
    (fun s => (s, St.OK, [w32 (s.freeTcbs q).length, w32 (s.tcbsOf q d.tgt).length, s.rd (Reg.DUC_STATUS q)])) s)

/-- Bits of a TCB word that hold a field (R163). -/
def tcbMask (w : Nat) : Nat :=
  match w with
  | 0 => 0xEFFFFFFF | 1 => 0xFF00FF0F | 5 => 0xFFFF | 8 => 0xFFFF3F0F | 9 => 0xFFFFFF | 12 => 0xFF | _ => 0xFFFFFFFF

/-- A write of a TCB word by the expert holder (R193). A STATE written as READY makes the thread READY; FREE, DORMANT and
SUSPENDED are taken; another STATE keeps the old one. -/
def execTcbWrite (who : Requester) (q : Fin 8) (i : Fin 512) (w : Fin 16) (value : W32) (s : State) : Out :=
  let a := Reg.DUC_TCB_W q i w
  .next (accessHeld who a (fun s =>
    let st := s.tcbState q i
    if ! (st == tFREE || st == tDORMANT || st == tSUSPENDED) then s.setBit (Reg.DUC_STATUS q) 29
    else
      let v := w32 (Nat.land value.toNat (tcbMask w))
      if w.val ≠ 0 then s.wr a v
      else
        let new := wfld v 31 29
        let s := s.wr a (wsetFld v 31 29 st)
        if new = tREADY then s.makeReady q i
        else if new = tFREE || new = tDORMANT || new = tSUSPENDED then s.setTcbState q i new else s) s)

end Sys2Proof.Machine
end

