-- ==== Sys2Proof/Machine/Arith.lean ====
section
/-! DEFINITION. Fixed-point rounding and saturation (R243, R244, R253) and IEEE 754 binary32 and bf16 arithmetic (R260,
R281), computed exactly on integers and rounded once. -/

namespace Sys2Proof.Machine

/-- round_shift of R243: rm 0 RNU, 1 RNE, 2 RDN, 3 RTZ. -/
def roundShift (x : Int) (sh rm : Nat) : Int :=
  if sh = 0 then x else
  let q := Int.fdiv x (2 ^ sh : Nat)
  let r := x - q * (2 ^ sh : Nat)
  let h : Int := (2 ^ (sh - 1) : Nat)
  if rm = 0 then (if r ≥ h then q + 1 else q)
  else if rm = 1 then (if r > h || (r == h && q % 2 ≠ 0) then q + 1 else q)
  else if rm = 2 then q
  else if x < 0 && r ≠ 0 then q + 1 else q

/-- sat_W of R244 for signed values, and whether it clamped. -/
def satW (w : Nat) (y : Int) : Int × Bool :=
  let lo : Int := -(2 ^ (w - 1) : Nat)
  let hi : Int := (2 ^ (w - 1) : Nat) - 1
  if y < lo then (lo, true) else if y > hi then (hi, true) else (y, false)

/-- sat_W of R244 for unsigned values, and whether it clamped. -/
def satUW (w : Nat) (y : Int) : Int × Bool :=
  let hi : Int := (2 ^ w : Nat) - 1
  if y < 0 then (0, true) else if y > hi then (hi, true) else (y, false)

/-- Number of significant bits of a natural number. -/
def bitLen (n : Nat) : Nat := if n = 0 then 0 else Nat.log2 n + 1

/-- CLS of R253: bits below the sign bit of a component of width w that equal it. -/
def clsW (w : Nat) (x : Int) : Nat :=
  let m := if x < 0 then (-x - 1).toNat else x.toNat
  w - 1 - bitLen m

/-- A floating-point value: NaN (whether signalling), infinity, or a finite m × 2^e with a sign. -/
inductive FVal where
  | nan (sig : Bool)
  | inf (neg : Bool)
  | fin (neg : Bool) (m : Nat) (e : Int)
deriving DecidableEq, Repr

/-- A binary32 read; subnormals read as zero of the same sign (R260). -/
def fRead32 (w : Nat) : FVal :=
  let s := bitOf w 31
  let x := bitsOf w 30 23
  let f := bitsOf w 22 0
  if x = 255 then (if f = 0 then .inf s else .nan (! bitOf w 22))
  else if x = 0 then .fin s 0 0
  else .fin s (f + 2 ^ 23) ((x : Int) - 150)

/-- A bf16 read: bits [31:16] of a binary32 value (R232). -/
def fRead16 (w : Nat) : FVal := fRead32 (2 ^ 16 * (w % 2 ^ 16))

/-- A read in a format: true for bf16. -/
def fRead (bf : Bool) (w : Nat) : FVal := if bf then fRead16 w else fRead32 w

/-- The canonical NaN of a format. -/
def fNaN (bf : Bool) : Nat := if bf then 0x7FC0 else 0x7FC00000

/-- Bits of a signed infinity and of a signed zero. -/
def fInf (bf neg : Bool) : Nat := b2n neg * 2 ^ (if bf then 15 else 31) + (if bf then 0x7F80 else 0x7F800000)
def fZero (bf neg : Bool) : Nat := b2n neg * 2 ^ (if bf then 15 else 31)

/-- A finite value rounded once to a format, to nearest with ties to even; a subnormal result is zero of the same sign.
Answers the bits and whether it overflowed to infinity. -/
def fRound (bf neg : Bool) (m : Nat) (e : Int) : Nat × Bool :=
  if m = 0 then (fZero bf neg, false) else
  let p : Nat := if bf then 8 else 24
  let qmin : Int := -126 - (p - 1 : Nat)
  let q0 : Int := e + (bitLen m : Int) - p
  let q := if q0 < qmin then qmin else q0
  -- m × 2^e in units of 2^q
  let n : Nat := if q ≤ e then m * 2 ^ (e - q).toNat else (roundShift m (q - e).toNat 1).toNat
  let n1 := if n = 2 ^ p then 2 ^ (p - 1) else n
  let q1 := if n = 2 ^ p then q + 1 else q
  if n1 < 2 ^ (p - 1) then (fZero bf neg, false)
  else
    let x : Int := q1 + (p - 1 : Nat) + 127
    if x ≥ 255 then (fInf bf neg, true)
    else (b2n neg * 2 ^ (if bf then 15 else 31) + x.toNat * 2 ^ (p - 1) + (n1 - 2 ^ (p - 1)), false)

/-- A value written to a format: bits and FX. -/
def fWrite (bf : Bool) : FVal → Nat × Bool
  | .nan sig => (fNaN bf, sig)
  | .inf n => (fInf bf n, false)
  | .fin n m e => fRound bf n m e

/-- An exact sum of two finite values as a sign, a magnitude and an exponent; an exact zero sum is negative only when both
addends are negative. -/
def fSum (n1 : Bool) (m1 : Nat) (e1 : Int) (n2 : Bool) (m2 : Nat) (e2 : Int) : Bool × Nat × Int :=
  let e := if e1 < e2 then e1 else e2
  let a : Int := m1 * 2 ^ (e1 - e).toNat
  let b : Int := m2 * 2 ^ (e2 - e).toNat
  let x := (if n1 then -a else a) + (if n2 then -b else b)
  if x = 0 then (n1 && n2, 0, e) else (x < 0, x.natAbs, e)

/-- a + b: bits and FX. -/
def fAdd (bf : Bool) : FVal → FVal → Nat × Bool
  | .nan s, y => (fNaN bf, s || y == .nan true)
  | _, .nan s => (fNaN bf, s)
  | .inf a, .inf b => if a = b then (fInf bf a, false) else (fNaN bf, true)
  | .inf a, .fin _ _ _ => (fInf bf a, false)
  | .fin _ _ _, .inf b => (fInf bf b, false)
  | .fin n1 m1 e1, .fin n2 m2 e2 => let r := fSum n1 m1 e1 n2 m2 e2; fRound bf r.1 r.2.1 r.2.2

/-- A value with its sign changed; NaN unchanged. -/
def FVal.neg : FVal → FVal
  | .nan s => .nan s
  | .inf n => .inf (! n)
  | .fin n m e => .fin (! n) m e

/-- The exact product: a NaN from an invalid operation is marked signalling, so that FX is set. -/
def fProd : FVal → FVal → FVal
  | .nan s, y => .nan (s || y == .nan true)
  | .inf _, .nan s => .nan s
  | .fin _ _ _, .nan s => .nan s
  | .inf a, .inf b => .inf (xor a b)
  | .inf a, .fin n m _ => if m = 0 then .nan true else .inf (xor a n)
  | .fin n m _, .inf b => if m = 0 then .nan true else .inf (xor n b)
  | .fin n1 m1 e1, .fin n2 m2 e2 => .fin (xor n1 n2) (m1 * m2) (e1 + e2)

/-- a × b and c + a × b, each rounded once: bits and FX. -/
def fMul (bf : Bool) (a b : FVal) : Nat × Bool := fWrite bf (fProd a b)
def fMulAdd (bf : Bool) (c a b : FVal) : Nat × Bool := fAdd bf c (fProd a b)

/-- a < b for values that are not NaN. -/
def fLess : FVal → FVal → Bool
  | .inf a, .inf b => a && ! b
  | .inf a, _ => a
  | _, .inf b => ! b
  | .fin n1 m1 e1, .fin n2 m2 e2 => let r := fSum n1 m1 e1 (! n2) m2 e2; r.1 && r.2.1 ≠ 0
  | _, _ => false

/-- Whether a value is NaN, and whether it is a signalling NaN. -/
def FVal.isNan : FVal → Bool
  | .nan _ => true
  | _ => false
def FVal.isSig : FVal → Bool
  | .nan s => s
  | _ => false

/-- A value × 2^k rounded under rm to an integer of w bits, saturating (R260, R281): the value, whether it clamped or
converted a NaN, and whether it was a NaN. An infinity clamps. -/
def fToInt (w rm : Nat) (k : Int) : FVal → Int × Bool × Bool
  | .nan _ => (0, false, true)
  | .inf n => ((satW w (if n then -(2 ^ w : Nat) else (2 ^ w : Nat))).1, true, false)
  | .fin n m e =>
    let e := e + k
    let x : Int := if n then -m else m
    let y := if 0 ≤ e then (if e > 4096 then x * 2 ^ 4096 else x * 2 ^ e.toNat)
             else roundShift x (if e < -4096 then 4096 else (-e).toNat) rm
    let r := satW w y
    (r.1, r.2, false)

/-- An integer × 2^e as a value. -/
def fOfInt (x e : Int) : FVal := .fin (x < 0) x.natAbs e

end Sys2Proof.Machine
end

