-- ==== Sys2Proof/Machine/BusOps.lean ====
section
/-! DEFINITION. Reads and writes of registers as the access codes of R10 give them. -/

namespace Sys2Proof.Machine

/-- Bits of a word under a mask, from v inside the mask and from w outside it. -/
def maskPut (w v mask : Nat) : Nat := Nat.lor (w - Nat.land w mask) (Nat.land v mask)

/-- Reset bits of an RC field return after a read; a WO bit reads zero (R10). -/
def State.plainRead (s : State) (a : Nat) : State × Nat :=
  match csrRow a with
  | none => (s, 0)
  | some (_, r, _) =>
    let v := s.rdN a
    let s' := if r.rc = 0 then s else s.wrN a (maskPut v (csrReset a).toNat r.rc)
    (s', v - Nat.land v r.wo)

/-- A field [hi:lo] with a condition on its value. -/
def resv (hi lo : Nat) (bad : Nat → Bool) : List (Nat × Nat × (Nat → Bool)) := [(hi, lo, bad)]

/-- Fields of a register for which the chapters name reserved encodings, with what is reserved (R12). b0 is the block's first
number, n the instance, i the first index. -/
def resvFields (b0 n : Nat) (name : String) (i : Nat) : List (Nat × Nat × (Nat → Bool)) :=
  let far := fun (m : Nat) (v : Nat) => decide (m < v)
  let out := fun (lo hi : Nat) (v : Nat) => decide (v < lo) || decide (hi < v)
  match b0 with
  | 0x40 => if name = "STEP_NS" then resv 31 0 (far 999999999) else []
  | 0x50 => if name = "SYNCE_CFG" then resv 2 0 (far 3) else []
  | 0x70 => if name = "CFG" then resv 4 0 (out 1 16) else if name = "TICK_CFG" then resv 29 28 (· == 3) ++ resv 9 0 (out 1 1000) else []
  | 0x100 => if name = "DBG_SEL" then resv 15 12 (far 4) else if name = "WP_CTL" then resv 5 0 (far 30)
    else if name = "BP_CTL" then resv 27 26 (fun _ => true) ++ resv 5 0 (fun _ => true) else []
  | 0x200 => []
  | 0x230 => []
  | 0x300 => if name = "SCRUB_CFG" then resv 19 0 (out 1 604800) else if name = "THRESH" then resv 7 0 (fun _ => true) else []
  | 0x310 => if name = "SCRUB_CFG" then resv 19 0 (out 1 604800) else if name = "THRESH" then resv 7 0 (· == 0) else []
  | 0x320 => if name = "SCRUB_CFG" then resv 19 0 (out 1 604800) else if name = "THRESH" then resv 7 0 (· == 0) else []
  | 0x370 => if name = "CFG" then resv 31 16 (· == 0) ++ resv 15 0 (out 1 1000)
    else if name = "RT_IDX" then resv 21 16 (far 47) ++ resv 12 8 (far 16) ++ resv 5 0 (far 47)
    else if name = "RT_DATA" then resv 7 6 (fun _ => true) else []
  | 0x400 => if name = "CH_RATE" then resv 8 0 (out 1 256) else if name = "TPL_TCTL" then resv 5 0 (far 47) else []
  | 0x500 => if name = "CFG" then resv 29 28 (· == 3) ++ resv 27 24 (far 10) ++ resv 13 0 (out 64 9600)
    else if name = "MSEC_CFG" then resv 29 28 (· == 3) else []
  | 0x530 => if name = "TX_CFG0" || name = "RX_CFG0" then
      resv 30 29 (· == 3) ++ resv 28 27 (· == 3) ++ resv 24 21 (· % 2 == 0) ++ resv 20 19 (· == 3) ++ resv 18 14 (out 12 16)
    else if name = "TX_CFG1" then resv 26 22 (fun _ => true) else []
  | 0x550 => if name = "FAB_CFG" then (if n = 0 then resv 15 0 (out 10 10000) else resv 31 0 (fun _ => true))
    else if name = "CAL_ASYM" then resv 31 0 (fun v => decide ((signed 32 v).natAbs > 65536000)) else []
  | 0x620 => if name = "CFG" then resv 25 16 (out 1 1000) else []
  | 0x630 => if name = "CFG" then resv 23 16 (· == 0) ++ resv 15 8 (out 60 110) ++ resv 7 0 (out 10 255) else []
  | 0x650 => if name = "ROUTE_W0" then resv 20 16 (far 16) else []
  | 0x600 => if name = "THERM_CFG" then resv 31 24 (out 80 115) ++ resv 23 16 (out 105 120)
    else if name = "CFG" then resv 31 3 (fun _ => true) else []
  | 0xF10 => if name = "FL_LEN" then resv 31 0 (out 1 1048576) else []
  | _ => if name = "PCFG" && (i = 0) then resv 3 0 (fun _ => true) else []

/-- A value in which every field written with a reserved encoding keeps what it held (R12). -/
def keepResv (fs : List (Nat × Nat × (Nat → Bool))) (old v : Nat) : Nat :=
  fs.foldl (fun v f => if f.2.2 (bitsOf v f.1 f.2.1) then putBits v f.1 f.2.1 (bitsOf old f.1 f.2.1) else v) v

/-- A write as the access codes give it (R10): RW bits take the value, RWL bits take it from a holder, W1C bits written 1
clear, W1S bits written 1 set, all others keep theirs. -/
def State.plainWrite (s : State) (who : Requester) (a v : Nat) : State :=
  match csrRow a with
  | none => s
  | some (b0, r, ix) =>
    let w := s.rdN a
    let k := keepResv (resvFields b0 (a / 0x10000 - b0) r.name ix.1) w v
    let k := if b0 = 0x260 && r.name = "IDX" && bitOf v 31 && 8191 < bitsOf v 16 0 then putBits k 16 0 (bitsOf w 16 0) else k
    let x := maskPut w k r.rw
    let x := if s.holds who a then maskPut x k r.rwl else x
    let x := x - Nat.land x (Nat.land v r.w1c)
    s.wrN a (Nat.lor x (Nat.land v r.w1s))

/-- Whether an access of n bytes is one that R19 allows: 4 or 8 bytes, aligned, in a block instance. -/
def csrOk (a n : Nat) : Bool := (n == 4 || n == 8) && a % n == 0 && (blockOf (a / 0x10000)).isSome

/-- Whether a global address names memory of a peer that the fabric reaches (R16, R17, R501). -/
def State.remoteOk (s : State) (g : Nat) : Bool :=
  bitOf g 63 && ! bitOf g 62 && bitsOf g 55 48 == 0 && s.bit (Reg.YLK_FAB_STATUS 0) 31 &&
    s.bit (Reg.YLK_PEER_W0 0 (bitsOf g 61 56)) 31

/-- Whether a local address lies in a domain that is forced down (R469, R530). -/
def State.lostDomain (s : State) (a : Nat) : Bool := s.domForced (s.addrDomain a)

end Sys2Proof.Machine
end

