-- ==== Sys2Proof/Machine/FerMat.lean ====
section
/-! DEFINITION. The matrix commands of a Ferrule: descriptors and their checks (R282 to R284), arithmetic (R279 to R281), results
and times (R292 to R294). -/

namespace Sys2Proof.Machine

/-! ## Matrix descriptors (R282) -/

/-- A matrix descriptor as read. -/
structure MDesc where
  base : Nat
  rows : Nat
  cols : Nat
  mtype : Nat
  colmajor : Bool
  ldsel : Nat
  ld : Nat
  batch : Nat
  bstride : Nat
deriving DecidableEq, Repr

/-- Bytes of an element, its component width in bits and its number of components. -/
def mtSize (t : Nat) : Nat :=
  match t with
  | 0 => 4 | 1 => 2 | 2 => 1 | 3 => 2 | 4 => 8 | 5 => 4 | 6 => 8 | _ => 4
def mtComps (t : Nat) : Nat := if t = 0 || t = 4 || t = 6 then 2 else 1

/-- A descriptor at an address, its LD taken from the command's configuration words where LDSEL says so. -/
def State.mdesc (s : State) (cfg : List Nat) (a : Nat) : MDesc :=
  let sel := bitsOf (s.load (a + 0xD) 1) 7 4
  MDesc.mk (s.load a 8) (s.load (a + 8) 2) (s.load (a + 0xA) 2) (s.load (a + 0xC) 1) (bitOf (s.load (a + 0xD) 1) 0) sel
    (if 8 ≤ sel then cfg.getD sel 0 else s.load (a + 0x10) 4) (s.load (a + 0x14) 2) (s.load (a + 0x18) 4)

namespace MDesc
def es (d : MDesc) : Nat := mtSize d.mtype
def outer (d : MDesc) : Nat := if d.colmajor then d.cols else d.rows
def inner (d : MDesc) : Nat := if d.colmajor then d.rows else d.cols
def itemLen (d : MDesc) : Nat := (d.outer - 1) * d.ld + d.inner * d.es
def len (d : MDesc) : Nat := (d.batch - 1) * d.bstride + d.itemLen
def bytes (d : MDesc) : Nat := d.es * d.rows * d.cols * d.batch

/-- Address of element (r, c) of item k; a source with BATCH 1 serves every item. -/
def at_ (d : MDesc) (k r c : Nat) : Nat :=
  d.base + (if d.batch = 1 then 0 else k) * d.bstride + (if d.colmajor then c * d.ld + r * d.es else r * d.ld + c * d.es)

/-- Encodings and strides of R282 and R283 that end a command with BAD_PARAM. -/
def encOk (d : MDesc) : Bool :=
  d.base < 2 ^ 48 && 1 ≤ d.rows && d.rows ≤ 4096 && 1 ≤ d.cols && d.cols ≤ 4096 && d.mtype ≤ 7 &&
    (d.ldsel == 0 || 8 ≤ d.ldsel) && 1 ≤ d.batch && d.batch ≤ 1024
def strideOk (d : MDesc) : Bool :=
  d.base % d.es == 0 && d.ld % d.es == 0 && d.bstride % d.es == 0 && d.es * d.inner ≤ d.ld

/-- Whether the ranges of R284 overlap, and whether two descriptors name one place. -/
def ferOverlaps (d e : MDesc) : Bool := d.base < e.base + e.len && e.base < d.base + d.len
def same (d e : MDesc) : Bool :=
  d.base == e.base && d.ld == e.ld && d.bstride == e.bstride && d.mtype == e.mtype && d.colmajor == e.colmajor && d.ldsel == e.ldsel
end MDesc

/-- Whether a local address lies in the Quire Inkwell of Quire q, and whether in System Inkwell. -/
def inQuireInk (q a : Nat) : Bool := 0x10000000 + 0x1000000 * q ≤ a && a < 0x11000000 + 0x1000000 * q
def inSysInk (a : Nat) : Bool := 0x20000000 ≤ a && a < 0x24000000

/-- Whether n bytes from an address are the owner's in the Inkwells a Ferrule reaches (R283). -/
def State.ferBytesOk (s : State) (q r a n : Nat) : Bool :=
  r < 16 && s.inRealm r a n && ((inQuireInk q a && inQuireInk q (a + n - 1)) || (inSysInk a && inSysInk (a + n - 1)))

/-- The checks of one descriptor (R283): a status, 0 for none. -/
def State.mdescCheck (s : State) (q r a : Nat) (d : MDesc) (dest : Bool) : Nat :=
  if a % 32 ≠ 0 || ! (s.ferBytesOk q r a 32 && inQuireInk q a) then St.ACCESS_DENIED
  else if ! d.encOk then St.BAD_PARAM
  else if (List.range d.batch).any fun k => ! s.ferBytesOk q r (d.base + k * d.bstride) d.itemLen then St.ACCESS_DENIED
  else if ! d.strideOk || (dest && 1 < d.batch && d.bstride < d.itemLen) then St.BAD_PARAM
  else 0

/-! ## A command's operands -/

/-- A command with its descriptors: D, A, B or the second destination. -/
structure FerJob where
  c : FerCmd
  d : MDesc
  a : MDesc
  b : Option MDesc
  dest2 : Bool
deriving DecidableEq, Repr

/-- Whether a command uses s[rb] as a source descriptor, and whether as a second destination. -/
def FerCmd.srcB (c : FerCmd) : Bool := (c.major == 0x3D && c.func == 0) || (c.major == 0x3E && c.func == 1)
def FerCmd.dstB (c : FerCmd) : Bool := c.major == 0x3E && (c.func == 2 || c.func == 4) && ! c.noB

/-- The descriptors of a command as they stand in memory. -/
def State.ferJob (s : State) (c : FerCmd) : FerJob :=
  FerJob.mk c (s.mdesc c.cfg c.d) (s.mdesc c.cfg c.a) (if c.srcB || c.dstB then some (s.mdesc c.cfg c.b) else none) c.dstB

/-- The destination regions tracked for a command (R299). -/
def State.ferRegions (s : State) (c : FerCmd) : List (Nat × Nat) :=
  let d := s.mdesc c.cfg c.d
  let e := s.mdesc c.cfg c.b
  (if d.encOk then [(d.base, d.len)] else []) ++ (if c.dstB && e.encOk then [(e.base, e.len)] else [])

/-- PREC of a command: factorisations compute in cfp32 (R279). -/
def FerCmd.prec (c : FerCmd) : Nat := if c.major = 0x3D then c.cfg.getD 0 0 % 8 else 4

/-- Source and destination types of a mode (R279). -/
def precSrc (p : Nat) : List Nat :=
  match p with
  | 0 => [0] | 1 => [1] | 2 => [2] | 3 => [3] | _ => [0, 4, 6]
def precDst (p : Nat) : List Nat :=
  match p with
  | 0 => [0, 4, 6] | 1 => [1, 5, 7] | 2 => [2, 1, 5] | 3 => [3, 7] | _ => [0, 4, 6]

/-- Dimensions M, N, K or P that the command's rule fits (R292); none where they do not fit. -/
def FerJob.dims (j : FerJob) : Option (Nat × Nat × Nat) :=
  let hA := bitOf j.c.md 0
  let hB := bitOf j.c.md 1
  let A := if hA then (j.a.cols, j.a.rows) else (j.a.rows, j.a.cols)
  let ok := fun (b : Bool) (x : Nat × Nat × Nat) => if b then some x else none
  if j.c.major = 0x3D then
    if j.c.func = 0 then
      match j.b with
      | some b =>
        let B := if hB then (b.cols, b.rows) else (b.rows, b.cols)
        ok (A.2 == B.1 && j.d.rows == A.1 && j.d.cols == B.2 && A.1 ≤ 256 && B.2 ≤ 256 && A.2 ≤ 1024) (A.1, B.2, A.2)
      | none => none
    else
      -- MOD 0: A^H A, N × N from K × N; MOD 1: A A^H, from N × K
      let n := if hA then j.a.rows else j.a.cols
      let k := if hA then j.a.cols else j.a.rows
      ok (j.d.rows == n && j.d.cols == n && n ≤ 64 && k ≤ 1024) (n, n, k)
  else
    let n := j.a.cols
    let sq := j.a.rows == n
    match j.c.func with
    | 0 => ok (sq && n ≤ 64 && j.d.rows == n && j.d.cols == n) (n, n, n)
    | 1 =>
      match j.b with
      | some b => ok (sq && n ≤ 64 && b.rows == n && b.cols ≤ 256 && j.d.rows == n && j.d.cols == b.cols) (n, n, b.cols)
      | none => none
    | 2 => ok (n ≤ 64 && n ≤ j.a.rows && j.a.rows ≤ 256 && j.d.rows == n && j.d.cols == n &&
        (match j.b with | some q => q.rows == j.a.rows && q.cols == n | none => true)) (j.a.rows, n, n)
    | 3 => ok (sq && n ≤ 64 && j.d.rows == n && j.d.cols == n) (n, n, n)
    | _ => ok (sq && n ≤ 32 && j.d.rows == n && j.d.cols == 1 &&
        (match j.b with | some v => v.rows == n && v.cols == n | none => true)) (n, n, n)

/-- Types, batches and ferOverlaps (R279, R283, R284, R292). -/
def FerJob.paramOk (j : FerJob) : Bool :=
  let p := j.c.prec
  let feig := j.c.major == 0x3E && j.c.func == 4
  let srcs := j.a :: (if j.dest2 then [] else j.b.toList)
  let inPlace := fun (x : MDesc) =>
    (j.c.major == 0x3E && (j.c.func == 0 || j.c.func == 3) && x == j.a && j.d.same x) ||
      (j.c.major == 0x3E && j.c.func == 1 && some x == j.b && j.d.same x)
  srcs.all (fun x => (precSrc p).contains x.mtype && (x.batch == j.d.batch || x.batch == 1)) &&
    (if feig then j.d.mtype == 7 else (precDst p).contains j.d.mtype) &&
    ! (j.c.major == 0x3D && j.c.func == 1 && p ≠ 0 && p ≠ 4) && p ≤ 4 &&
    srcs.all (fun x => ! j.d.ferOverlaps x || inPlace x) &&
    (! j.dest2 || (match j.b with
      | some q => (precDst 4).contains q.mtype && q.batch == j.d.batch && ! q.ferOverlaps j.d && ! q.ferOverlaps j.a
      | none => true)) &&
    j.dims.isSome

/-- The status a command's checks give, 0 for none, and the descriptor address it names. -/
def State.ferCheckJob (s : State) (q : Nat) (j : FerJob) : Nat × Nat :=
  let cd := s.mdescCheck q j.c.realm j.c.d j.d true
  let ca := s.mdescCheck q j.c.realm j.c.a j.a false
  let cb := match j.b with
    | some b => s.mdescCheck q j.c.realm j.c.b b j.dest2
    | none => 0
  if cd ≠ 0 then (cd, j.c.d) else if ca ≠ 0 then (ca, j.c.a) else if cb ≠ 0 then (cb, j.c.b)
  else if ! j.paramOk then (St.BAD_PARAM, j.c.d) else (0, 0)

/-- What a read of a source's items meets: a status, 0 for none, and the address. -/
def State.ferSrcFault (s : State) (d : MDesc) : Nat × Nat :=
  let bad := fun (f : Nat → Bool) => (List.range d.batch).find? fun k => f (d.base + k * d.bstride)
  match bad (fun a => s.lostDomain a) with
  | some k => (St.DOMAIN_LOST, d.base + k * d.bstride)
  | none =>
    match bad (fun a => s.poisoned a d.itemLen || s.lost a d.itemLen) with
    | some k => (St.POISONED, d.base + k * d.bstride)
    | none => (0, 0)

/-! ## Arithmetic of the integer and bf16 modes (R280, R281) -/

/-- Element (r, c) of item k of an integer matrix, as real and imaginary part. -/
def State.mint (s : State) (d : MDesc) (k r c : Nat) : Int × Int :=
  let v := s.load (d.at_ k r c) d.es
  let w := 8 * d.es / mtComps d.mtype
  (signed w v, if mtComps d.mtype = 2 then signed w (v / 2 ^ w) else 0)

/-- op(X) element: X, or X^H (a transpose for real types). -/
def State.mop (s : State) (d : MDesc) (h : Bool) (k r c : Nat) : Int × Int :=
  if h then let v := s.mint d k c r; (v.1, -v.2) else s.mint d k r c

/-- Exact sum of products over the inner dimension. -/
def cdot : List ((Int × Int) × (Int × Int)) → Int × Int
  | [] => (0, 0)
  | (x, y) :: r => let t := cdot r; (x.1 * y.1 - x.2 * y.2 + t.1, x.1 * y.2 + x.2 * y.1 + t.2)

/-- A component of an accumulator written to a destination type (R280): bits, and whether it clamped. -/
def ferOut (cfg : List Nat) (t : Nat) (acc : Int) : Nat × Bool :=
  let w0 := cfg.getD 0 0
  let sh := bitsOf (cfg.getD 1 0) 5 0
  if t = 6 || t = 7 then ((fRound false (acc < 0) acc.natAbs (-(sh : Int))).1, false)
  else
    let w := 8 * mtSize t / mtComps t
    let y := roundShift acc sh (bitsOf w0 4 3)
    if bitOf w0 5 then (unsigned w y, false) else (unsigned w (satW w y).1, (satW w y).2)

/-- Bytes of a destination element from its components. -/
def ferElem (cfg : List Nat) (t : Nat) (v : Int × Int) : Nat × Bool :=
  let re := ferOut cfg t v.1
  if mtComps t = 2 then
    let im := ferOut cfg t v.2
    (re.1 + im.1 * 2 ^ (4 * mtSize t), re.2 || im.2)
  else re

/-- bf16 mode: fused multiply-adds in fp32 in the order of the inner dimension, then the destination format. -/
def bfDot (acc : Nat) : List (Nat × Nat) → Nat
  | [] => acc
  | (x, y) :: r => bfDot (fMulAdd false (fRead32 acc) (fRead16 x) (fRead16 y)).1 r

/-- The elements of a product in the integer and bf16 modes: address, bytes' number, whether clamped. -/
def State.ferProduct (s : State) (j : FerJob) (m n kk : Nat) : List (Nat × Nat × Bool) :=
  let fherm := j.c.func == 1
  (List.range j.d.batch).flatMap fun it => (List.range m).flatMap fun r => (List.range n).map fun c =>
    let left := fun k => if fherm then s.mop j.a (! bitOf j.c.md 0) it r k else s.mop j.a (bitOf j.c.md 0) it r k
    let right := fun k =>
      if fherm then s.mop j.a (bitOf j.c.md 0) it k c
      else match j.b with
        | some b => s.mop b (bitOf j.c.md 1) it k c
        | none => (0, 0)
    let out :=
      if j.c.prec = 3 then
        let bfAt := fun (d : MDesc) (h : Bool) (k r c : Nat) => if h then s.load (d.at_ k c r) 2 else s.load (d.at_ k r c) 2
        let v := bfDot 0 ((List.range kk).map fun k =>
          (bfAt j.a (bitOf j.c.md 0) it r k, match j.b with | some b => bfAt b (bitOf j.c.md 1) it k c | none => 0))
        (if j.d.mtype = 3 then (fWrite true (fRead32 v)).1 else v, false)
      else
        let d := cdot ((List.range kk).map fun k => (left k, right k))
        let add : Int := if fherm && r == c then signed 64 j.c.b else 0
        ferElem j.c.cfg j.d.mtype (d.1 + add, d.2)
    (j.d.at_ it r c, out.1, out.2)

/-! ## Times (R293) -/

def cdiv (a b : Nat) : Nat := (a + b - 1) / b

/-- Ferrule cycles of a command with dimensions (M, N, K or P) and, for FEIG, sweeps S. -/
def FerJob.cycles (j : FerJob) (m n k sweeps : Nat) : Nat :=
  let bt := j.d.batch
  let (bm, bn) := match j.c.prec with
    | 0 => (4, 4) | 1 => (8, 8) | 2 => (8, 16) | 3 => (4, 8) | _ => (2, 2)
  let nb := cdiv n bm
  let c :=
    if j.c.major = 0x3D then
      (if j.c.func = 0 then cdiv (bt * cdiv m bm * cdiv n bn) 32 * k else cdiv (bt * (nb * (nb + 1) / 2)) 32 * k)
    else match j.c.func with
      | 0 => cdiv (bt * (cdiv (n ^ 3) 6 + n ^ 2)) 128 + 16 * n
      | 1 => cdiv (bt * (cdiv (n ^ 2 * k) 2 + n * k)) 128 + 8 * n
      | 2 => cdiv (bt * m * n ^ 2) 128 + 16 * n
      | 3 => if bitOf j.c.md 0 then cdiv (bt * (cdiv (n ^ 3) 2 + n ^ 2)) 128 + 24 * n else cdiv (bt * (n ^ 3 + n ^ 2)) 128 + 24 * n
      | _ => cdiv (bt * sweeps * 4 * n ^ 3) 128 + 32 * n * sweeps
  let item := fun (d : MDesc) => d.es * d.rows * d.cols
  let reads := j.a.bytes + (if j.dest2 then 0 else match j.b with
    | some b => b.bytes * (if item j.a + item b > 0x40000 then cdiv m 64 else 1)
    | none => 0)
  let writes := j.d.bytes + (if j.dest2 then (match j.b with | some b => b.bytes | none => 0) else 0)
  40 + max c (max (cdiv reads 128) (cdiv writes 64))

end Sys2Proof.Machine
end

