-- ==== Sys2Proof/Machine/NibOps.lean ====
section
/-! DEFINITION. The registers of a Nib, the results in flight, the effects an instruction can have, memory access and its
checks, circular addressing (chapter 6). -/

namespace Sys2Proof.Machine

/-! ## Registers -/

/-- A Nib beside its registers of R229. -/
def State.nibSt (s : State) (i : Nat) : NibSt := sget s.nib i NibSt.init
def State.setNib (s : State) (i : Nat) (x : NibSt) : State := { s with nib := sput s.nib i x NibSt.init }

/-- A register of `NibSt.reg` by its key. -/
def NibSt.get (x : NibSt) (k : Nat) : Nat := sget x.reg k 0
def NibSt.put (x : NibSt) (k v : Nat) : NibSt := { x with reg := sput x.reg k v 0 }

/-- Key of scalar register r in the active bank (R214). -/
def NibSt.key (x : NibSt) (r : BitVec 5) : Nat := if 16 ≤ r.toNat && x.sb then 32 + r.toNat else r.toNat

/-- Value of scalar register r; s0 reads zero (R196). -/
def NibSt.sreg (x : NibSt) (r : BitVec 5) : Nat := if r = 0 then 0 else x.get (x.key r)

/-- Key of a system register: STATUS and cb4 to cb7 have a copy in the shadow bank (R214, R215). -/
def NibSt.sysKey (x : NibSt) (n : Nat) : Nat :=
  if (n = 0 || (0x38 ≤ n && n ≤ 0x3F)) && x.sb then 8192 + n else 4096 + n

/-- A system register as it is stored. -/
def NibSt.sys (x : NibSt) (n : Nat) : Nat := x.get (x.sysKey n)
def NibSt.setSys (x : NibSt) (n v : Nat) : NibSt := x.put (x.sysKey n) v

/-- STATUS of the active bank (R216), SB included. -/
def NibSt.status (x : NibSt) : Nat := putBits (x.sys 0) 30 30 (b2n x.sb)

/-- Kernel mode (STATUS.MODE). -/
def NibSt.kernel (x : NibSt) : Bool := bitOf (x.sys 0) 31

/-- IPEND (R219): DISPATCH and DOORBELL as they stand, TIMER while CYCLE has reached TIMER_CMP, FERRULE while the thread's
Ferrule has ERR (R308). -/
def State.nibIpend (s : State) (i : Nat) : Nat :=
  let x := s.nibSt i
  let w := sget s.ipend i 0
  b2n (bitOf w 0) + 2 * b2n (decide (x.sys 0xD ≤ x.cyc)) + 4 * b2n (bitOf w 2) +
    8 * b2n (match s.ferHeld i with | some f => s.bit (Reg.FER_STATUS f) 30 | none => false)

/-- RUN of NIB.STATUS and the bits that mirror the bank. -/
def State.nibRun (s : State) (i : Nat) : Nat := s.fld (Reg.NIB_STATUS i) 31 29
def State.setNibRun (s : State) (i run cause : Nat) : State :=
  (s.setFld (Reg.NIB_STATUS i) 31 29 run).setFld (Reg.NIB_STATUS i) 28 26 cause

/-- STATUS mirrors the active MODE and SB and whether the Nib is frozen; the realm tag as R210 gives it. -/
def State.nibShow (s : State) (i : Nat) : State :=
  let x := s.nibSt i
  let t := s.nibTag i
  let s := s.setFld (Reg.NIB_STATUS i) 25 23 (b2n x.kernel * 4 + b2n x.sb * 2 + b2n x.frozen)
  s.setFld (Reg.NIB_STATUS i) 19 15 (if t < 16 then t * 2 + 1 else 0)

/-! ## Results in flight (R199, R200) -/

/-- A value landing in a register: writes to s0 and p0 are discarded; keys 105 to 108 are accumulator images (R265). -/
def NibSt.landOne (x : NibSt) (k v : Nat) : NibSt :=
  if k = 0 || k = 96 then x
  else if 105 ≤ k && k < 109 then
    let a := k - 105
    let y := (List.range 64).foldl (fun y l => y.put (1000 + 64 * a + l) (bitsOf v (40 * l + 39) (40 * l))) x
    y.put (4096 + 0x84 + a) (bitsOf v (320 * 8 + 63) (320 * 8))
  else x.put k v

/-- A result put into a list by the cycle it lands in, behind those of the same cycle. -/
def insLand (l : Land) : List Land → List Land
  | [] => [l]
  | m :: r => if l.due < m.due then l :: m :: r else m :: insLand l r

/-- The results that land in issue cycle t or before, in order. -/
def NibSt.landUpTo (x : NibSt) (t : Nat) : NibSt :=
  let now := (x.land.filter fun l => l.due ≤ t).foldl (fun ls l => insLand l ls) []
  now.foldl (fun y l => y.landOne l.dst l.val) { x with land := x.land.filter fun l => t < l.due }

/-- Every result in flight lands. -/
def NibSt.landAll (x : NibSt) : NibSt := x.landUpTo (x.land.foldl (fun m l => max m l.due) 0)

/-! ## Memory (R204, R209 to R211) -/

/-- How an address is reached: own Quire Inkwell on the direct path, cacheable memory, memory not cached, the host window, a
peer, the CSR region, nothing. -/
inductive NibPath where
  | own
  | cached
  | uncached
  | host
  | remote
  | csr
  | none
deriving DecidableEq, Repr

/-- Whether a local address lies in a CACHEABLE carve-out of a realm (R44, R45). -/
def State.cacheable (s : State) (r a : Nat) : Bool :=
  (s.carves r).any fun c => bitOf (c.num 9 1) 0 && c.cBase ≤ a && a < c.cBase + c.cSize

/-- The path of an access by Nib i at a global address (R204). -/
def State.nibPath (s : State) (i g : Nat) : NibPath :=
  match s.localOf g with
  | none => if s.remoteOk g then .remote else .none
  | some a =>
    match s.tierOf a with
    | some 12 => .csr
    | some 11 => .host
    | some t =>
      if t = i / 16 && ! bitOf g 63 then .own
      else if 8 ≤ t && s.cacheable (s.nibTag i) a then .cached else .uncached
    | none => .none

/-- Kinds of access. -/
inductive Acc where
  | read
  | write
  | amo
deriving DecidableEq, Repr

/-- Whether a byte lies in an enabled window that grants permission bit p (0 R, 1 W, 2 X), R211. -/
def NibSt.winByte (x : NibSt) (p a : Nat) : Bool :=
  (List.range 16).any fun w =>
    let b := x.sys (0x10 + 2 * w)
    bitOf b 3 && bitOf b p && b / 4096 ≤ a / 4096 && a / 4096 ≤ x.sys (0x11 + 2 * w) / 4096

/-- Whether windows admit n bytes from an address: not checked in kernel mode or with WEN 0. A page is granted whole, so
the first byte of each page touched decides. -/
def NibSt.winOk (x : NibSt) (p a n : Nat) : Bool :=
  x.kernel || ! bitOf (x.sys 0) 28 || (x.winByte p a && x.winByte p ((a + n - 1) % 2 ^ 64))

/-- The number of the breakpoint or watchpoint of a Nib that matches (R228), a halting one before the others. MODEF filters by
mode. -/
def pickMatch (hits : List Nat) (halts : Nat → Bool) : Option (Nat × Bool) :=
  match hits.find? halts with
  | some i => some (i, true)
  | none => hits.head?.map fun i => (i, false)

/-- Whether MODEF of a control word admits the mode. -/
def modeOk (c : W32) (kernel : Bool) : Bool := wbit c 31 && wbit c (if kernel then 29 else 28)

/-- Watchpoints an access matches (R228). -/
def State.wpHits (s : State) (i a n : Nat) (k : Acc) : List Nat :=
  (List.range 4).filter fun w =>
    let c := s.rd (Reg.NIB_WP_CTL i w)
    let z := 2 ^ wfld c 5 0
    let lo := cat64 (s.rd (Reg.NIB_WP_ADDR_LO i w)) (s.rd (Reg.NIB_WP_ADDR_HI i w)) / z * z
    modeOk c (s.nibSt i).kernel && lo < a + n && a < lo + z &&
      (match k with | .read => wbit c 27 | .write => wbit c 26 | .amo => wbit c 27 || wbit c 26)

/-- Causes of R218. -/
def cILLEGAL : Nat := 0x01
def cPRIVILEGED : Nat := 0x02
def cFETCH_WINDOW : Nat := 0x03
def cLOAD_WINDOW : Nat := 0x04
def cSTORE_WINDOW : Nat := 0x05
def cMISALIGNED : Nat := 0x06
def cBUS_ERROR : Nat := 0x07
def cPOISONED : Nat := 0x08
def cDOMAIN_LOST : Nat := 0x0A
def cRETENTION_LOST : Nat := 0x0B
def cATOMIC_REGION : Nat := 0x0C
def cTRAP : Nat := 0x0D
def cBREAKPOINT : Nat := 0x0E
def cWATCHPOINT : Nat := 0x0F

/-- Whether the targets outside the Nib admit an access (R210): a carve-out of the realm tag, or, in kernel mode, a
Nib-kernel region in Inkwell; registers per R20; the host window needs a realm tag. -/
def State.nibAdmits (s : State) (i g n : Nat) : Bool :=
  let r := s.nibTag i
  match s.nibPath i g, s.localOf g with
  | .csr, some a => csrOk a n && s.permits (.nib (Fin.ofNat 128 i)) a
  | .host, some a => s.memOk a n && r < 16
  | .remote, _ => r < 16
  | .none, _ => false
  | _, some a => s.memOk a n && ((r < 16 && s.inRealm r a n) ||
      ((s.nibSt i).kernel && a < 0x24000000 && Config.nibKernel a && Config.nibKernel (a + n - 1)))
  | _, none => false

/-- What an access of n bytes by Nib i raises (R209 to R211, R218), in the model's order of checks (notes/assumptions/10.md):
alignment to al bytes, windows, region of an AMO, targets, marks on the data read. -/
def State.nibFault (s : State) (i g n al : Nat) (k : Acc) : Option (Nat × Nat) :=
  let x := s.nibSt i
  if g % al ≠ 0 then some (cMISALIGNED, g)
  else if k ≠ .write && ! x.winOk 0 g n then some (cLOAD_WINDOW, g)
  else if k ≠ .read && ! x.winOk 1 g n then some (cSTORE_WINDOW, g)
  else if k = .amo && (match s.nibPath i g with | .csr => true | .host => true | .remote => true | _ => false) then
    some (cATOMIC_REGION, g)
  else if ! s.nibAdmits i g n then some (cBUS_ERROR, g)
  else
    match s.localOf g with
    | some a =>
      if s.lostDomain a then some (cDOMAIN_LOST, g)
      else if k = .write then none
      else match s.markOf a n with
        | 0 => none
        | 1 => some (cPOISONED, g)
        | _ => some (cRETENTION_LOST, g)
    | none => none

/-! ## Effects -/

/-- What one instruction of a bundle does when its bundle commits. Registers are named by the keys of `NibSt.reg`. -/
inductive Eff where
  /-- An exception: cause and FADDR. -/
  | fault (cause faddr : Nat)
  /-- A watchpoint match: whether it halts, and the address. -/
  | watch (halts : Bool) (addr : Nat)
  /-- A result that lands lat issue cycles after issue. -/
  | reg (key val lat : Nat)
  /-- A register written at once (accumulator lanes, in issue order of the vector slot). -/
  | put (key val : Nat)
  /-- A write of a system register. -/
  | sys (num val : Nat)
  /-- Sticky bits of the active STATUS set. -/
  | sticky (mask : Nat)
  /-- VCTL's fields [28:20] written to the active STATUS (R269). -/
  | vctl (bits : Nat)
  /-- A store of n bytes at a global address. -/
  | store (addr n val : Nat)
  /-- A load of n bytes into a register; signed loads extend. -/
  | load (key addr n : Nat) (sgn : Bool)
  /-- An atomic of n bytes: 0 add, 1 swap, 2 compare and swap with old, 3 and, 4 or. -/
  | amo (key addr n op b old : Nat)
  /-- A taken control transfer. -/
  | jump (target : Nat)
  /-- RFE. -/
  | rfe
  /-- WAIT. -/
  | wait
  /-- A cache operation at an address: 0 DCLEAN, 1 DINV, 2 DFLUSH, 3 DPREF, 4 ICINV, 5 ICINV.ALL, 6 DFLUSH.ALL. -/
  | cache (op addr : Nat)
  /-- Frozen Nib cycles. -/
  | freeze (n : Nat)
  /-- Beats of the vector slot. -/
  | beats (n : Nat)
  /-- Free values taken. -/
  | free (n : Nat)
  /-- A Ferrule control instruction with the value of s[ra] and the key of rd (R286). -/
  | fer (func md tag a key : Nat)
  /-- A Ferrule command (R292). -/
  | ferCmd (c : FerCmd)
deriving DecidableEq, Repr

/-- An instruction as its bundle issues it: slot class (0 scalar, 1 vector, 2 load/store, 3 none), whether it waits for an
idle vector slot (R249), the registers it reads or writes, the cache lines of L1D it needs (line numbers), the bytes it
loads (first byte, length), whether a Ferrule holds it at commit (R201), and its effects. -/
structure NibAct where
  cls : Nat
  idle : Bool := false
  uses : List Nat := []
  lines : List Nat := []
  reads : List (Nat × Nat) := []
  hold : Bool := false
  effs : List Eff := []
deriving DecidableEq, Repr

/-- An instruction that only raises ILLEGAL. -/
def NibSt.illegal (x : NibSt) (cls : Nat) : NibAct := { cls := cls, effs := [.fault cILLEGAL x.pc] }

/-- An instruction that raises PRIVILEGED in thread mode. -/
def NibSt.priv (x : NibSt) (a : NibAct) : NibAct :=
  if x.kernel then a else { cls := a.cls, effs := [.fault cPRIVILEGED x.pc] }

/-- 64-bit addition and sign extension. -/
def add64 (a b : Nat) : Nat := (a + b) % 2 ^ 64
def sext (n w : Nat) : Nat := unsigned 64 (signed n w)

/-- Lines of L1D that an access needs: those of cacheable memory. -/
def State.needLines (s : State) (i g n : Nat) : List Nat :=
  match s.nibPath i g, s.localOf g with
  | .cached, some a => if a / 64 = (a + n - 1) / 64 then [a / 64] else [a / 64, (a + n - 1) / 64]
  | _, _ => []

/-- The effects of a scalar access, or its exception. -/
def State.nibAccess (s : State) (i : Nat) (a : NibAct) (g n : Nat) (k : Acc) : NibAct :=
  match pickMatch (s.wpHits i g n k) fun w => s.bit (Reg.NIB_WP_CTL i w) 30 with
  | some (_, h) => { cls := a.cls, effs := [.watch h g] }
  | none =>
    match s.nibFault i g n n k with
    | some (c, f) => { cls := a.cls, effs := [.fault c f] }
    | none => { a with lines := s.needLines i g n, reads := if k = .write then [] else [(g, n)] }

/-! ## Circular addressing (R212, R213) -/

/-- The post-modified pointer and whether the pointer lay outside the buffer. -/
def circNext (base len p : Nat) (inc : Int) : Nat × Bool :=
  if len = 0 then (unsigned 64 (p + inc), false) else
  let d := signed 64 (unsigned 64 ((p : Int) - base))
  let out := d < 0 || d ≥ (len : Int)
  -- Int.emod is the true modulo of R213
  (unsigned 64 (base + (d + inc) % (len : Int)), out)

end Sys2Proof.Machine
end

