-- ==== Sys2Proof/Machine/NibScalar.lean ====
section
/-! DEFINITION. The scalar instructions of a Nib as they stand in a bundle (R198): what each reads and what it does at commit. -/

namespace Sys2Proof.Machine

/-- What an instruction sees at issue: the state, its Nib, and the address of the next bundle. -/
structure NibCtx where
  s : State
  i : Nat
  nxt : Nat

namespace NibCtx
def x (c : NibCtx) : NibSt := c.s.nibSt c.i
def r (c : NibCtx) (n : BitVec 5) : Nat := c.x.sreg n
def k (c : NibCtx) (n : BitVec 5) : Nat := c.x.key n
end NibCtx

/-- An immediate of R196 as a signed number. -/
def simm {n : Nat} (v : BitVec n) : Int := v.toInt

/-! ## Shared forms -/

/-- A scalar instruction rd = f(ra, rb) with a latency. -/
def sRRR (c : NibCtx) (lat : Nat) (rd ra rb : BitVec 5) (f : Nat → Nat → Nat) : NibAct :=
  { cls := 0, uses := [c.k rd, c.k ra, c.k rb], effs := [.reg (c.k rd) (f (c.r ra) (c.r rb) % 2 ^ 64) lat] }

/-- A scalar instruction rd = f(ra) at +1. -/
def sRR (c : NibCtx) (rd ra : BitVec 5) (f : Nat → Nat) : NibAct :=
  { cls := 0, uses := [c.k rd, c.k ra], effs := [.reg (c.k rd) (f (c.r ra) % 2 ^ 64) 1] }

/-- A conditional branch (R198): the target is bundle address + sext(OFF12) × 4. -/
def sBranch (c : NibCtx) (ra rb : BitVec 5) (off : BitVec 12) (taken : Bool) : NibAct :=
  { cls := 0, uses := [c.k ra, c.k rb],
    effs := if taken then [.jump (unsigned 64 (c.x.pc + 4 * simm off))] else [] }

/-- Signed value of a 64-bit register value. -/
def s64 (a : Nat) : Int := signed 64 a

/-- A 32-bit result sign-extended to 64 bits (R196). -/
def w64 (i : Int) : Nat := sext 32 (unsigned 32 i)

/-- Leading zeros and set bits of a 64-bit value. -/
def clz64 (a : Nat) : Nat := 64 - bitLen (a % 2 ^ 64)
def popc64 (a : Nat) : Nat := (List.range 64).foldl (fun t i => t + b2n (bitOf a i)) 0

/-! ## Integer instructions -/

def actADD (c : NibCtx) (rd ra rb : BitVec 5) : NibAct := sRRR c 1 rd ra rb fun a b => a + b
def actSUB (c : NibCtx) (rd ra rb : BitVec 5) : NibAct := sRRR c 1 rd ra rb fun a b => a + 2 ^ 64 - b
def actAND (c : NibCtx) (rd ra rb : BitVec 5) : NibAct := sRRR c 1 rd ra rb Nat.land
def actOR (c : NibCtx) (rd ra rb : BitVec 5) : NibAct := sRRR c 1 rd ra rb Nat.lor
def actXOR (c : NibCtx) (rd ra rb : BitVec 5) : NibAct := sRRR c 1 rd ra rb Nat.xor
def actSLL (c : NibCtx) (rd ra rb : BitVec 5) : NibAct := sRRR c 1 rd ra rb fun a b => a * 2 ^ (b % 64)
def actSRL (c : NibCtx) (rd ra rb : BitVec 5) : NibAct := sRRR c 1 rd ra rb fun a b => a / 2 ^ (b % 64)
def actSRA (c : NibCtx) (rd ra rb : BitVec 5) : NibAct :=
  sRRR c 1 rd ra rb fun a b => unsigned 64 (Int.fdiv (s64 a) (2 ^ (b % 64) : Nat))
def actSLT (c : NibCtx) (rd ra rb : BitVec 5) : NibAct := sRRR c 1 rd ra rb fun a b => b2n (s64 a < s64 b)
def actSLTU (c : NibCtx) (rd ra rb : BitVec 5) : NibAct := sRRR c 1 rd ra rb fun a b => b2n (a < b)
def actMIN (c : NibCtx) (rd ra rb : BitVec 5) : NibAct := sRRR c 1 rd ra rb fun a b => if s64 b < s64 a then b else a
def actMAX (c : NibCtx) (rd ra rb : BitVec 5) : NibAct := sRRR c 1 rd ra rb fun a b => if s64 a < s64 b then b else a
def actMINU (c : NibCtx) (rd ra rb : BitVec 5) : NibAct := sRRR c 1 rd ra rb min
def actMAXU (c : NibCtx) (rd ra rb : BitVec 5) : NibAct := sRRR c 1 rd ra rb max
def actCLZ (c : NibCtx) (rd ra : BitVec 5) : NibAct := sRR c rd ra clz64
def actPOPC (c : NibCtx) (rd ra : BitVec 5) : NibAct := sRR c rd ra popc64
def actADDW (c : NibCtx) (rd ra rb : BitVec 5) : NibAct :=
  sRRR c 1 rd ra rb fun a b => w64 (signed 32 a + signed 32 b)
def actSUBW (c : NibCtx) (rd ra rb : BitVec 5) : NibAct :=
  sRRR c 1 rd ra rb fun a b => w64 (signed 32 a - signed 32 b)
def actADDSW (c : NibCtx) (rd ra rb : BitVec 5) : NibAct :=
  sRRR c 1 rd ra rb fun a b => w64 (satW 32 (signed 32 a + signed 32 b)).1
def actSUBSW (c : NibCtx) (rd ra rb : BitVec 5) : NibAct :=
  sRRR c 1 rd ra rb fun a b => w64 (satW 32 (signed 32 a - signed 32 b)).1

def actADDI (c : NibCtx) (rd ra : BitVec 5) (imm : BitVec 12) : NibAct :=
  sRR c rd ra fun a => unsigned 64 (a + simm imm)
def actANDI (c : NibCtx) (rd ra : BitVec 5) (imm : BitVec 12) : NibAct :=
  sRR c rd ra fun a => Nat.land a (unsigned 64 (simm imm))
def actORI (c : NibCtx) (rd ra : BitVec 5) (imm : BitVec 12) : NibAct :=
  sRR c rd ra fun a => Nat.lor a (unsigned 64 (simm imm))
def actXORI (c : NibCtx) (rd ra : BitVec 5) (imm : BitVec 12) : NibAct :=
  sRR c rd ra fun a => Nat.xor a (unsigned 64 (simm imm))

/-- A shift by IMM12[5:0]; IMM12[11:6] not zero is a reserved encoding. -/
def sShift (c : NibCtx) (rd ra : BitVec 5) (imm : BitVec 12) (f : Nat → Nat → Nat) : NibAct :=
  if imm.toNat ≥ 64 then c.x.illegal 0 else sRR c rd ra fun a => f a imm.toNat

def actSLLI (c : NibCtx) (rd ra : BitVec 5) (imm : BitVec 12) : NibAct := sShift c rd ra imm fun a n => a * 2 ^ n
def actSRLI (c : NibCtx) (rd ra : BitVec 5) (imm : BitVec 12) : NibAct := sShift c rd ra imm fun a n => a / 2 ^ n
def actSRAI (c : NibCtx) (rd ra : BitVec 5) (imm : BitVec 12) : NibAct :=
  sShift c rd ra imm fun a n => unsigned 64 (Int.fdiv (s64 a) (2 ^ n : Nat))
def actSLTI (c : NibCtx) (rd ra : BitVec 5) (imm : BitVec 12) : NibAct :=
  sRR c rd ra fun a => b2n (s64 a < simm imm)

def actLUI (c : NibCtx) (rd : BitVec 5) (imm : BitVec 20) : NibAct :=
  { cls := 0, uses := [c.k rd], effs := [.reg (c.k rd) (unsigned 64 (simm imm * 4096)) 1] }
def actADDPC (c : NibCtx) (rd : BitVec 5) (imm : BitVec 20) : NibAct :=
  { cls := 0, uses := [c.k rd], effs := [.reg (c.k rd) (unsigned 64 (c.x.pc + simm imm * 4096)) 1] }

def actMUL (c : NibCtx) (rd ra rb : BitVec 5) : NibAct := sRRR c 3 rd ra rb fun a b => a * b
def actMULH (c : NibCtx) (rd ra rb : BitVec 5) : NibAct :=
  sRRR c 3 rd ra rb fun a b => unsigned 64 (Int.fdiv (s64 a * s64 b) (2 ^ 64 : Nat))
def actMULHU (c : NibCtx) (rd ra rb : BitVec 5) : NibAct := sRRR c 3 rd ra rb fun a b => a * b / 2 ^ 64
def actMULW (c : NibCtx) (rd ra rb : BitVec 5) : NibAct :=
  sRRR c 3 rd ra rb fun a b => w64 (signed 32 a * signed 32 b)

/-- A bit-field instruction; POS + WID > 63 is illegal. -/
def sField (c : NibCtx) (rd ra : BitVec 5) (pos wid : BitVec 6) (f : Nat → Nat → Nat) : NibAct :=
  if pos.toNat + wid.toNat > 63 then c.x.illegal 0 else sRRR c 1 rd ra rd f

def actEXTU (c : NibCtx) (rd ra : BitVec 5) (pos wid : BitVec 6) : NibAct :=
  sField c rd ra pos wid fun a _ => bitsOf a (pos.toNat + wid.toNat) pos.toNat
def actEXTS (c : NibCtx) (rd ra : BitVec 5) (pos wid : BitVec 6) : NibAct :=
  sField c rd ra pos wid fun a _ => sext (wid.toNat + 1) (bitsOf a (pos.toNat + wid.toNat) pos.toNat)
def actINS (c : NibCtx) (rd ra : BitVec 5) (pos wid : BitVec 6) : NibAct :=
  sField c rd ra pos wid fun a d => putBits d (pos.toNat + wid.toNat) pos.toNat (bitsOf a wid.toNat 0)

def actSEL (c : NibCtx) (rd ra rb rc : BitVec 5) : NibAct :=
  { cls := 0, uses := [c.k rd, c.k ra, c.k rb, c.k rc],
    effs := [.reg (c.k rd) (if c.r rc ≠ 0 then c.r ra else c.r rb) 1] }

/-! ## Control transfers -/

def actBEQ (c : NibCtx) (ra rb : BitVec 5) (off : BitVec 12) : NibAct := sBranch c ra rb off (c.r ra == c.r rb)
def actBNE (c : NibCtx) (ra rb : BitVec 5) (off : BitVec 12) : NibAct := sBranch c ra rb off (c.r ra != c.r rb)
def actBLT (c : NibCtx) (ra rb : BitVec 5) (off : BitVec 12) : NibAct :=
  sBranch c ra rb off (s64 (c.r ra) < s64 (c.r rb))
def actBGE (c : NibCtx) (ra rb : BitVec 5) (off : BitVec 12) : NibAct :=
  sBranch c ra rb off (s64 (c.r rb) ≤ s64 (c.r ra))
def actBLTU (c : NibCtx) (ra rb : BitVec 5) (off : BitVec 12) : NibAct := sBranch c ra rb off (c.r ra < c.r rb)
def actBGEU (c : NibCtx) (ra rb : BitVec 5) (off : BitVec 12) : NibAct := sBranch c ra rb off (c.r rb ≤ c.r ra)

def actJAL (c : NibCtx) (rd : BitVec 5) (off : BitVec 20) : NibAct :=
  { cls := 0, uses := [c.k rd], effs := [.reg (c.k rd) c.nxt 1, .jump (unsigned 64 (c.x.pc + 4 * simm off))] }
def actJALR (c : NibCtx) (rd ra : BitVec 5) (imm : BitVec 12) : NibAct :=
  { cls := 0, uses := [c.k rd, c.k ra],
    effs := [.reg (c.k rd) c.nxt 1, .jump (unsigned 64 (c.r ra + simm imm) / 4 * 4)] }

/-! ## System registers (R215, R216, R275, R302, R306) -/

/-- Whether a number names a system register. -/
def sysExists (n : Nat) : Bool :=
  n ≤ 6 || n == 8 || n == 9 || n == 0xA || n == 0xC || n == 0xD || (0x10 ≤ n && n ≤ 0x3F) || (0x80 ≤ n && n ≤ 0x87) ||
    (0x100 ≤ n && n ≤ 0x110)

/-- Thread-mode rights. -/
def sysReadable (n : Nat) : Bool :=
  n == 0 || n == 0xA || n == 0xC || (0x30 ≤ n && n ≤ 0x3F) || (0x80 ≤ n && n ≤ 0x87) || 0x100 ≤ n
def sysWritable (n : Nat) : Bool :=
  n == 0 || (0x30 ≤ n && n ≤ 0x3F) || (0x83 ≤ n && n ≤ 0x87) || 0x100 ≤ n

/-- Element width in bits and group size of VFORM (R232, R233, R275). -/
def etypeSew (e : Nat) : Nat :=
  match e with
  | 0 => 16 | 1 => 8 | 2 => 32 | 3 => 64 | 4 => 32 | 5 => 64 | 6 => 16 | _ => 32

/-- VLEN of the ZBS9648 (R231). -/
def vlen : Nat := 1024

/-- VLCAP of a form (R234). -/
def vlcap (e lig : Nat) : Nat := vlen * 2 ^ lig / etypeSew e

/-- CORE_ID (R215). -/
def State.coreId (s : State) (i : Nat) : Nat :=
  let t := s.nibTag i
  (if t < 16 then 2 ^ 63 + 2 ^ 16 * t else 0) + i / 16 * 256 + i % 16

/-- FSTAT of the Ferrule the Nib's thread holds; zero for none (R306). -/
def State.fstat (s : State) (i : Nat) : Nat :=
  match s.ferHeld i with
  | none => 0
  | some f =>
    let w := s.rd (Reg.FER_STATUS f)
    2 ^ 24 * wfld w 23 16 + 2 ^ 16 * wfld w 15 8 + (s.ferSt f).queue.length * 2 ^ 12 + b2n (s.ferSt f).empty * 2 ^ 11 +
      wfld w 2 2 * 2 ^ 10 + wfld w 3 3 * 2 ^ 9 + wfld w 30 30 * 2 ^ 8 + 128 + f % 2 * 64

/-- A system register as MFSR reads it. -/
def NibCtx.sysRead (c : NibCtx) (n : Nat) : Nat :=
  if n = 0 then c.x.status
  else if n = 8 then c.s.nibIpend c.i
  else if n = 0xA then c.s.coreId c.i
  else if n = 0xC then c.x.cyc % 2 ^ 64
  else if n = 0x82 then vlen / 128
  else if n = 0x110 then c.s.fstat c.i
  else if 0x100 ≤ n then (match c.s.ferHeld c.i with | some f => c.s.fcfg f (n - 0x100) | none => 0)
  else c.x.sys n

/-- FADDR of FER_LAZY_STATE (R303): Ferrule f and whose configuration it holds. -/
def State.lazyInfo (s : State) (f : Nat) : Nat :=
  2 ^ 31 * s.fld (Reg.FER_LOCK f) 30 30 + 2 ^ 16 * (f % 2) + s.fld (Reg.FER_LOCK f) 24 16

/-- Whether a compute command or an access of FCFG by the Nib's thread is held off: no Ferrule held (FER_NOT_OWNER), or a
configuration that is another's (FER_LAZY_STATE), R303, R307. -/
def NibCtx.ferCheck (c : NibCtx) : Option Eff :=
  match c.s.ferHeld c.i with
  | none => some (.fault 0x18 c.x.pc)
  | some f =>
    if c.s.bit (Reg.FER_LOCK f) 30 && c.s.fld (Reg.FER_LOCK f) 24 16 + 1 == c.s.nibThread c.i then none
    else some (.fault 0x19 (c.s.lazyInfo f))

/-- MFSR. -/
def actMFSR (c : NibCtx) (rd : BitVec 5) (num : BitVec 12) : NibAct :=
  let n := num.toNat
  if ! sysExists n then c.x.illegal 0
  else if ! c.x.kernel && ! sysReadable n then { cls := 0, effs := [.fault cPRIVILEGED c.x.pc] }
  else
    match (if 0x100 ≤ n && n < 0x110 then c.ferCheck else none) with
    | some e => { cls := 0, effs := [e] }
    | none => { cls := 0, uses := [c.k rd], effs := [.reg (c.k rd) (c.sysRead n) 1] }

/-- MTSR: the value takes effect from the next bundle (R212, R236). A VFORM with any of bits [63:5] set is ILLEGAL (R237). -/
def actMTSR (c : NibCtx) (ra : BitVec 5) (num : BitVec 12) : NibAct :=
  let n := num.toNat
  if ! sysExists n then c.x.illegal 0
  else if ! c.x.kernel && ! sysWritable n then { cls := 0, effs := [.fault cPRIVILEGED c.x.pc] }
  else if n = 0x80 && c.r ra ≥ 32 then c.x.illegal 0
  else
    match (if 0x100 ≤ n && n < 0x110 then c.ferCheck else none) with
    | some e => { cls := 0, effs := [e] }
    | none => { cls := 0, uses := [c.k ra], effs := [.sys n (c.r ra)] }

/-- Key of a thread-bank register that MFTB and MTTB name (R222). -/
def tbKey (n : Nat) : Option Nat :=
  if 0x10 ≤ n && n < 0x20 then some n
  else if 0x20 ≤ n && n < 0x28 then some (4096 + 0x38 + (n - 0x20))
  else if n = 0x28 then some 4096 else none

/-- Bits of STATUS that a kernel write sets (R216, R274). -/
def statusMask : Nat := 0xBFF00000

/-- The mask of the bits a system register or thread-bank register stores. -/
def keyMask (key : Nat) : Nat :=
  let n := key % 4096
  if key < 4096 then 2 ^ 64 - 1
  else if n = 0 then statusMask
  else if n = 1 then 2 ^ 64 - 4
  else if n = 2 then 0x8000001F
  else if n = 4 then 2 ^ 64 - 256
  else if n = 9 then 0xF
  else if 0x10 ≤ n && n < 0x30 then (if n % 2 = 0 then 2 ^ 64 - 4096 + 15 else 2 ^ 64 - 4096)
  else if 0x30 ≤ n && n < 0x40 then (if n % 2 = 0 then 2 ^ 64 - 1 else 2 ^ 37 - 1)
  else if n = 0x80 then 31
  else if n = 0x83 then 127
  else 2 ^ 64 - 1

def actMFTB (c : NibCtx) (rd : BitVec 5) (num : BitVec 12) : NibAct :=
  match tbKey num.toNat with
  | none => c.x.illegal 0
  | some k => c.x.priv { cls := 0, uses := [c.k rd, k], effs := [.reg (c.k rd) (c.x.get k) 1] }

def actMTTB (c : NibCtx) (ra : BitVec 5) (num : BitVec 12) : NibAct :=
  match tbKey num.toNat with
  | none => c.x.illegal 0
  | some k => c.x.priv { cls := 0, uses := [c.k ra, k], effs := [.put k (Nat.land (c.r ra) (keyMask k))] }

/-- TRAP: FADDR is IMM12. -/
def actTRAP (_c : NibCtx) (imm : BitVec 12) : NibAct :=
  { cls := 0, effs := [.fault cTRAP imm.toNat] }

def actRFE (c : NibCtx) : NibAct := c.x.priv { cls := 0, effs := [.rfe] }
def actWAIT (c : NibCtx) : NibAct := c.x.priv { cls := 0, effs := [.wait] }
def actBKPT (c : NibCtx) : NibAct := { cls := 0, effs := [.fault cBREAKPOINT c.x.pc] }

/-- A freeze whose length the manual leaves to the memory system: a free number of Nib cycles. -/
def NibCtx.wait (c : NibCtx) : List Eff := [.freeze (Config.freeVal c.s.free % 2 ^ 16), .free 1]

/-- FENCE of a kind (R208): every earlier store already stands in memory, so only the time passes; kind 3 is illegal. -/
def actFENCE (c : NibCtx) (kind : BitVec 2) : NibAct :=
  if kind = 3 then c.x.illegal 0 else { cls := 0, effs := c.wait }

/-! ## Cache operations (R198, R206) -/

/-- A cache operation on the line at ra + sext(IMM12). -/
def sCache (c : NibCtx) (op : Nat) (ra : BitVec 5) (imm : BitVec 12) : NibAct :=
  { cls := 0, uses := [c.k ra], effs := [.cache op (unsigned 64 (c.r ra + simm imm))] }

def actDCLEAN (c : NibCtx) (ra : BitVec 5) (imm : BitVec 12) : NibAct := sCache c 0 ra imm
def actDINV (c : NibCtx) (ra : BitVec 5) (imm : BitVec 12) : NibAct := c.x.priv (sCache c 1 ra imm)
def actDFLUSH (c : NibCtx) (ra : BitVec 5) (imm : BitVec 12) : NibAct := sCache c 2 ra imm
def actDPREF (c : NibCtx) (ra : BitVec 5) (imm : BitVec 12) : NibAct := sCache c 3 ra imm
def actICINV (c : NibCtx) (ra : BitVec 5) (imm : BitVec 12) : NibAct := sCache c 4 ra imm
def actICINVALL (c : NibCtx) : NibAct := c.x.priv { cls := 0, effs := [.cache 5 0] }
def actDFLUSHALL (c : NibCtx) : NibAct := c.x.priv { cls := 0, effs := [.cache 6 0] }

/-! ## Loads, stores, circular addressing and atomics (R198, R209, R212) -/

/-- A freeze of an access that leaves the direct path and L1 (R201). -/
def NibCtx.pathWait (c : NibCtx) (g : Nat) : List Eff :=
  match c.s.nibPath c.i g with
  | .own => []
  | .cached => []
  | _ => c.wait

/-- A scalar load of n bytes at a global address into rd. -/
def sLoadAt (c : NibCtx) (uses : List Nat) (rd : BitVec 5) (g n : Nat) (sgn : Bool) (more : List Eff) : NibAct :=
  c.s.nibAccess c.i { cls := 2, uses := c.k rd :: uses, effs := .load (c.k rd) g n sgn :: (c.pathWait g ++ more) } g n .read

/-- A scalar store of n bytes of rs at a global address. -/
def sStoreAt (c : NibCtx) (uses : List Nat) (rs : BitVec 5) (g n : Nat) (more : List Eff) : NibAct :=
  c.s.nibAccess c.i { cls := 2, uses := c.k rs :: uses, effs := .store g n (c.r rs % 2 ^ (8 * n)) :: more } g n .write

def sLoad (c : NibCtx) (rd ra : BitVec 5) (imm : BitVec 12) (n : Nat) (sgn : Bool) : NibAct :=
  sLoadAt c [c.k ra] rd (unsigned 64 (c.r ra + simm imm)) n sgn []
def sStore (c : NibCtx) (rs ra : BitVec 5) (imm : BitVec 12) (n : Nat) : NibAct :=
  sStoreAt c [c.k ra] rs (unsigned 64 (c.r ra + simm imm)) n []

def actLB (c : NibCtx) (rd ra : BitVec 5) (imm : BitVec 12) : NibAct := sLoad c rd ra imm 1 true
def actLH (c : NibCtx) (rd ra : BitVec 5) (imm : BitVec 12) : NibAct := sLoad c rd ra imm 2 true
def actLW (c : NibCtx) (rd ra : BitVec 5) (imm : BitVec 12) : NibAct := sLoad c rd ra imm 4 true
def actLD (c : NibCtx) (rd ra : BitVec 5) (imm : BitVec 12) : NibAct := sLoad c rd ra imm 8 false
def actLBU (c : NibCtx) (rd ra : BitVec 5) (imm : BitVec 12) : NibAct := sLoad c rd ra imm 1 false
def actLHU (c : NibCtx) (rd ra : BitVec 5) (imm : BitVec 12) : NibAct := sLoad c rd ra imm 2 false
def actLWU (c : NibCtx) (rd ra : BitVec 5) (imm : BitVec 12) : NibAct := sLoad c rd ra imm 4 false
def actSB (c : NibCtx) (rs ra : BitVec 5) (imm : BitVec 12) : NibAct := sStore c rs ra imm 1
def actSH (c : NibCtx) (rs ra : BitVec 5) (imm : BitVec 12) : NibAct := sStore c rs ra imm 2
def actSW (c : NibCtx) (rs ra : BitVec 5) (imm : BitVec 12) : NibAct := sStore c rs ra imm 4
def actSD (c : NibCtx) (rs ra : BitVec 5) (imm : BitVec 12) : NibAct := sStore c rs ra imm 8

/-- The pointer register BREG of a circular descriptor, its value, and the effects of the post-modify (R212, R213). -/
def NibCtx.circ (c : NibCtx) (cb : BitVec 3) (incsel : Bool) (inc : BitVec 13) : BitVec 5 × List Nat × List Eff :=
  let cfg := c.x.sys (0x31 + 2 * cb.toNat)
  let breg := BitVec.ofNat 5 (bitsOf cfg 36 32)
  let rinc := BitVec.ofNat 5 inc.toNat
  let d : Int := if incsel then s64 (c.r rinc) else simm inc
  let p := circNext (c.x.sys (0x30 + 2 * cb.toNat)) (bitsOf cfg 31 0) (c.r breg) d
  (breg, (if incsel then [c.k breg, c.k rinc] else [c.k breg]),
    .reg (c.k breg) p.1 1 :: (if p.2 then [.sticky (2 ^ 27), .freeze 1] else []))

def actLDC (c : NibCtx) (rd : BitVec 5) (cb : BitVec 3) (size : BitVec 2) (sgn incsel : Bool) (inc : BitVec 13) : NibAct :=
  let p := c.circ cb incsel inc
  sLoadAt c p.2.1 rd (c.r p.1) (2 ^ size.toNat) sgn p.2.2
def actSTC (c : NibCtx) (rs : BitVec 5) (cb : BitVec 3) (size : BitVec 2) (incsel : Bool) (inc : BitVec 13) : NibAct :=
  let p := c.circ cb incsel inc
  sStoreAt c p.2.1 rs (c.r p.1) (2 ^ size.toNat) p.2.2

/-- An atomic of n bytes on the word at ra with operand rb; rd receives the old value. -/
def sAmo (c : NibCtx) (rd ra rb : BitVec 5) (n op : Nat) : NibAct :=
  let g := c.r ra
  let a : NibAct :=
    { cls := 2, uses := [c.k rd, c.k ra, c.k rb], effs := .amo (c.k rd) g n op (c.r rb) (c.r rd) :: c.pathWait g }
  c.s.nibAccess c.i a g n .amo

def actAMOADDW (c : NibCtx) (rd ra rb : BitVec 5) : NibAct := sAmo c rd ra rb 4 0
def actAMOADDD (c : NibCtx) (rd ra rb : BitVec 5) : NibAct := sAmo c rd ra rb 8 0
def actAMOSWAPW (c : NibCtx) (rd ra rb : BitVec 5) : NibAct := sAmo c rd ra rb 4 1
def actAMOSWAPD (c : NibCtx) (rd ra rb : BitVec 5) : NibAct := sAmo c rd ra rb 8 1
def actAMOCASW (c : NibCtx) (rd ra rb : BitVec 5) : NibAct := sAmo c rd ra rb 4 2
def actAMOCASD (c : NibCtx) (rd ra rb : BitVec 5) : NibAct := sAmo c rd ra rb 8 2
def actAMOANDD (c : NibCtx) (rd ra rb : BitVec 5) : NibAct := sAmo c rd ra rb 8 3
def actAMOORD (c : NibCtx) (rd ra rb : BitVec 5) : NibAct := sAmo c rd ra rb 8 4

end Sys2Proof.Machine
end

