-- ==== Sys2Proof/Machine/NibVector.lean ====
section
/-! DEFINITION. The vector-slot instructions of a Nib as they stand in a bundle (chapter 7). -/

namespace Sys2Proof.Machine

/-! ## Form, groups, elements (R232 to R234) -/

/-- Component width and components per element. -/
def etypeComp (e : Nat) : Nat × Nat :=
  match e with
  | 4 => (16, 2)
  | 5 => (32, 2)
  | e => (etypeSew e, 1)

namespace NibCtx
def etype (c : NibCtx) : Nat := c.x.sys 0x80 % 8
def lig (c : NibCtx) : Nat := c.x.sys 0x80 / 8 % 4
def grp (c : NibCtx) : Nat := 2 ^ c.lig
def sew (c : NibCtx) : Nat := etypeSew c.etype
def cw (c : NibCtx) : Nat := (etypeComp c.etype).1
def nc (c : NibCtx) : Nat := (etypeComp c.etype).2
def vl (c : NibCtx) : Nat := c.x.sys 0x81
def rm (c : NibCtx) : Nat := bitsOf (c.x.sys 0) 26 25

/-- A group of g registers as one number. -/
def group (c : NibCtx) (v g : Nat) : Nat :=
  (List.range g).foldl (fun t k => t + c.x.get (64 + v + k) * 2 ^ (vlen * k)) 0

/-- Bit i of a predicate; p0 reads all ones (R230). -/
def pbit (c : NibCtx) (p i : Nat) : Bool := p == 0 || bitOf (c.x.get (96 + p)) i

/-- The active elements (R241). -/
def active (c : NibCtx) (pg : BitVec 3) : List Nat := (List.range c.vl).filter (c.pbit pg.toNat)
end NibCtx

/-- Element i of width w of a group. -/
def elem (w v i : Nat) : Nat := v / 2 ^ (w * i) % 2 ^ w

/-- The components of an element, real part first. -/
def comps (cw n v : Nat) : List Nat := (List.range n).map fun k => elem cw v k

/-- An element of its components. -/
def ofComps (cw : Nat) : List Nat → Nat
  | [] => 0
  | v :: r => v % 2 ^ cw + 2 ^ cw * ofComps cw r

/-- Registers of a group as keys. -/
def vkeys (v g : Nat) : List Nat := (List.range g).map fun k => 64 + v + k

/-- Key of a predicate. -/
def pkey (p : BitVec 3) : Nat := 96 + p.toNat

/-- Whether two groups overlap. -/
def grpOverlap (a n b m : Nat) : Bool := a < b + m && b < a + n

/-- The registers of a destination group with elements (index, value) of width w written; a register none of whose elements
is written keeps what it holds. -/
def vWrite (c : NibCtx) (vd g w : Nat) (es : List (Nat × Nat)) (lat : Nat) : List Eff :=
  (List.range g).filterMap fun k =>
    let mine := es.filter fun p => p.1 * w / vlen == k
    if mine.isEmpty then none else
    some (.reg (64 + vd + k) (mine.foldl (fun v p => let o := p.1 * w % vlen; putBits v (o + w - 1) o p.2) (c.x.get (64 + vd + k))) lat)

/-- Sticky bits of STATUS (R274). -/
def stSAT : Nat := 2 ^ 22
def stACCOV : Nat := 2 ^ 21
def stFX : Nat := 2 ^ 20
def stickIf (b : Bool) (m : Nat) : List Eff := if b then [.sticky m] else []

/-- Type sets of R270. -/
def tInt : List Nat := [0, 1, 2, 3]
def tIntC : List Nat := [0, 1, 2, 3, 4, 5]
def tAll : List Nat := [0, 1, 2, 3, 4, 5, 6, 7]
def tCplx : List Nat := [4, 5]
def tNarrow : List Nat := [0, 1, 2]
def tFloat : List Nat := [6, 7]

/-- Beats of R238: same-width instructions, and multiplies. -/
def beatsAlu (c : NibCtx) : Nat := c.grp
def beatsMul (c : NibCtx) : Nat :=
  match c.etype with
  | 4 => 2 * c.grp
  | 2 => 2 * c.grp
  | 5 => 4 * c.grp
  | 3 => 4 * c.grp
  | _ => c.grp

/-- The b operand of element i: a vector element, the low SEW bits of a scalar, or IMM5, signed or not. -/
def bElem (c : NibCtx) (b : VSrc) (sgn : Bool) (i : Nat) : Nat :=
  match b with
  | .v r => elem c.sew (c.group r.toNat c.grp) i
  | .x r => c.r r % 2 ^ c.sew
  | .xh r => c.r r / 2 ^ c.sew % 2 ^ c.sew
  | .i imm => if sgn then unsigned c.sew (simm imm) else imm.toNat

/-- Registers the b operand reads. -/
def bUses (c : NibCtx) (b : VSrc) : List Nat :=
  match b with
  | .v r => vkeys r.toNat c.grp
  | .x r => [c.k r]
  | .xh r => [c.k r]
  | .i _ => []

/-- Whether the b operand names a whole group (R233) in a form the opcode has (immediates only under MAJOR 0x23). -/
def bOk (c : NibCtx) (b : VSrc) (imm : Bool) : Bool :=
  match b with
  | .v r => r.toNat % c.grp == 0
  | .x _ => true
  | .xh _ => false
  | .i _ => imm

/-- A same-width instruction: f gives the components of a result from those of a and b and the element b, and whether a
component clamped. Inactive elements keep their value. -/
def vSame (c : NibCtx) (types : List Nat) (lat beats : Nat) (imm sgn : Bool) (vd a : BitVec 5) (b : VSrc) (pg : BitVec 3)
    (f : List Nat → List Nat → Nat → List Nat × Bool) : NibAct :=
  let g := c.grp
  if ! types.contains c.etype || vd.toNat % g ≠ 0 || a.toNat % g ≠ 0 || ! bOk c b imm then c.x.illegal 1 else
  let va := c.group a.toNat g
  let es := (c.active pg).map fun i =>
    let bv := bElem c b sgn i
    let r := f (comps c.cw c.nc (elem c.sew va i)) (comps c.cw c.nc bv) bv
    (i, ofComps c.cw r.1, r.2)
  let out := es.map fun e => (e.1, e.2.1)
  { cls := 1, uses := vkeys vd.toNat g ++ vkeys a.toNat g ++ bUses c b ++ [pkey pg],
    effs := vWrite c vd.toNat g c.sew out (lat + (beats - 1)) ++ stickIf (es.any (·.2.2)) stSAT ++ [.beats beats] }

/-- Componentwise operation on numbers of the component's width. -/
def compwise (f : Nat → Nat → Nat × Bool) (a b : List Nat) : List Nat × Bool :=
  let r := List.zipWith f a b
  (r.map (·.1), r.any (·.2))

/-- A signed result saturated to w bits, and whether it clamped. -/
def satTo (w : Nat) (y : Int) : Nat × Bool := (unsigned w (satW w y).1, (satW w y).2)
def satUTo (w : Nat) (y : Int) : Nat × Bool := (unsigned w (satUW w y).1, (satUW w y).2)

/-- A wrapping integer operation, componentwise. -/
def vWrap (c : NibCtx) (types : List Nat) (vd a : BitVec 5) (b : VSrc) (pg : BitVec 3) (f : Nat → Nat → Nat) : NibAct :=
  vSame c types 2 (beatsAlu c) true true vd a b pg fun x y _ =>
    compwise (fun p q => (f p q % 2 ^ c.cw, false)) x y

/-! ## Wrapping and comparing (MAJOR 0x21 to 0x23) -/

def actVADD (c : NibCtx) (vd a : BitVec 5) (b : VSrc) (pg : BitVec 3) : NibAct := vWrap c tIntC vd a b pg fun x y => x + y
def actVSUB (c : NibCtx) (vd a : BitVec 5) (b : VSrc) (pg : BitVec 3) : NibAct :=
  vWrap c tIntC vd a b pg fun x y => x + 2 ^ c.cw - y
def actVAND (c : NibCtx) (vd a : BitVec 5) (b : VSrc) (pg : BitVec 3) : NibAct := vWrap c tAll vd a b pg Nat.land
def actVOR (c : NibCtx) (vd a : BitVec 5) (b : VSrc) (pg : BitVec 3) : NibAct := vWrap c tAll vd a b pg Nat.lor
def actVXOR (c : NibCtx) (vd a : BitVec 5) (b : VSrc) (pg : BitVec 3) : NibAct := vWrap c tAll vd a b pg Nat.xor
def actVMIN (c : NibCtx) (vd a : BitVec 5) (b : VSrc) (pg : BitVec 3) : NibAct :=
  vWrap c tInt vd a b pg fun x y => if signed c.cw y < signed c.cw x then y else x
def actVMAX (c : NibCtx) (vd a : BitVec 5) (b : VSrc) (pg : BitVec 3) : NibAct :=
  vWrap c tInt vd a b pg fun x y => if signed c.cw x < signed c.cw y then y else x
def actVMINU (c : NibCtx) (vd a : BitVec 5) (b : VSrc) (pg : BitVec 3) : NibAct := vWrap c tInt vd a b pg min
def actVMAXU (c : NibCtx) (vd a : BitVec 5) (b : VSrc) (pg : BitVec 3) : NibAct := vWrap c tInt vd a b pg max

/-- A shift: the amount is the low 7 bits of the element of b (R245), the same for both components. -/
def vShift (c : NibCtx) (imm : Bool) (vd a : BitVec 5) (b : VSrc) (pg : BitVec 3) (f : Nat → Nat → Nat × Bool) : NibAct :=
  vSame c tIntC 2 (beatsAlu c) imm false vd a b pg fun x _ e =>
    compwise (fun p _ => f p (e % 128)) x x

def actVSLL (c : NibCtx) (vd a : BitVec 5) (b : VSrc) (pg : BitVec 3) : NibAct :=
  vShift c true vd a b pg fun x n => (x * 2 ^ n % 2 ^ c.cw, false)
def actVSRL (c : NibCtx) (vd a : BitVec 5) (b : VSrc) (pg : BitVec 3) : NibAct :=
  vShift c true vd a b pg fun x n => (x / 2 ^ n, false)
def actVSRA (c : NibCtx) (vd a : BitVec 5) (b : VSrc) (pg : BitVec 3) : NibAct :=
  vShift c true vd a b pg fun x n => (unsigned c.cw (Int.fdiv (signed c.cw x) (2 ^ n : Nat)), false)

/-- A multiply: latency 3, beats of R238. -/
def vMulOp (c : NibCtx) (types : List Nat) (imm : Bool) (vd a : BitVec 5) (b : VSrc) (pg : BitVec 3)
    (f : Nat → Nat → Nat × Bool) : NibAct :=
  vSame c types 3 (beatsMul c) imm true vd a b pg fun x y _ => compwise f x y

def actVMUL (c : NibCtx) (vd a : BitVec 5) (b : VSrc) (pg : BitVec 3) : NibAct :=
  vMulOp c tInt true vd a b pg fun x y => (x * y % 2 ^ c.cw, false)
def actVMULH (c : NibCtx) (vd a : BitVec 5) (b : VSrc) (pg : BitVec 3) : NibAct :=
  vMulOp c tInt true vd a b pg fun x y =>
    (unsigned c.cw (Int.fdiv (signed c.cw x * signed c.cw y) (2 ^ c.cw : Nat)), false)
def actVMULHU (c : NibCtx) (vd a : BitVec 5) (b : VSrc) (pg : BitVec 3) : NibAct :=
  vMulOp c tInt true vd a b pg fun x y => (x * y / 2 ^ c.cw, false)

/-- VMERGE: pg selects, and every element below VL is written (R241). -/
def actVMERGE (c : NibCtx) (vd a : BitVec 5) (b : VSrc) (pg : BitVec 3) : NibAct :=
  let g := c.grp
  if vd.toNat % g ≠ 0 || a.toNat % g ≠ 0 || ! bOk c b true then c.x.illegal 1 else
  let va := c.group a.toNat g
  let es := (List.range c.vl).map fun i => (i, if c.pbit pg.toNat i then elem c.sew va i else bElem c b true i)
  { cls := 1, uses := vkeys vd.toNat g ++ vkeys a.toNat g ++ bUses c b ++ [pkey pg],
    effs := vWrite c vd.toNat g c.sew es (2 + (beatsAlu c - 1)) ++ [.beats (beatsAlu c)] }

def actVMV (c : NibCtx) (vd : BitVec 5) (b : VSrc) (pg : BitVec 3) : NibAct :=
  vSame c tAll 2 (beatsAlu c) true true vd vd b pg fun _ y _ => (y, false)

/-! ## Saturating, fractional and complex (MAJOR 0x24, 0x25) -/

/-- A saturating componentwise operation on integers; no immediate form. -/
def vSatOp (c : NibCtx) (types : List Nat) (vd a : BitVec 5) (b : VSrc) (pg : BitVec 3) (f : Nat → Nat → Nat × Bool) : NibAct :=
  vSame c types 2 (beatsAlu c) false true vd a b pg fun x y _ => compwise f x y

def actVSADD (c : NibCtx) (vd a : BitVec 5) (b : VSrc) (pg : BitVec 3) : NibAct :=
  vSatOp c tIntC vd a b pg fun x y => satTo c.cw (signed c.cw x + signed c.cw y)
def actVSSUB (c : NibCtx) (vd a : BitVec 5) (b : VSrc) (pg : BitVec 3) : NibAct :=
  vSatOp c tIntC vd a b pg fun x y => satTo c.cw (signed c.cw x - signed c.cw y)
def actVSADDU (c : NibCtx) (vd a : BitVec 5) (b : VSrc) (pg : BitVec 3) : NibAct :=
  vSatOp c tIntC vd a b pg fun x y => satUTo c.cw (x + y)
def actVSSUBU (c : NibCtx) (vd a : BitVec 5) (b : VSrc) (pg : BitVec 3) : NibAct :=
  vSatOp c tIntC vd a b pg fun x y => satUTo c.cw ((x : Int) - y)
def actVAVG (c : NibCtx) (vd a : BitVec 5) (b : VSrc) (pg : BitVec 3) : NibAct :=
  vSatOp c tIntC vd a b pg fun x y => (unsigned c.cw (roundShift (signed c.cw x + signed c.cw y) 1 c.rm), false)
def actVMULQ (c : NibCtx) (vd a : BitVec 5) (b : VSrc) (pg : BitVec 3) : NibAct :=
  vMulOp c tNarrow false vd a b pg fun x y => satTo c.cw (roundShift (signed c.cw x * signed c.cw y) (c.cw - 1) c.rm)
def actVSSLL (c : NibCtx) (vd a : BitVec 5) (b : VSrc) (pg : BitVec 3) : NibAct :=
  vShift c false vd a b pg fun x n => satTo c.cw (signed c.cw x * (2 ^ n : Nat))
def actVSRAR (c : NibCtx) (vd a : BitVec 5) (b : VSrc) (pg : BitVec 3) : NibAct :=
  vShift c false vd a b pg fun x n => (unsigned c.cw (roundShift (signed c.cw x) n c.rm), false)

/-- A unary componentwise operation. -/
def vUnary (c : NibCtx) (types : List Nat) (lat : Nat) (vd a : BitVec 5) (pg : BitVec 3) (f : List Nat → List Nat × Bool) : NibAct :=
  vSame c types lat (beatsAlu c) false true vd a (.v a) pg fun x _ _ => f x

def actVSABS (c : NibCtx) (vd a : BitVec 5) (pg : BitVec 3) : NibAct :=
  vUnary c tInt 2 vd a pg fun x => compwise (fun p _ => satTo c.cw (signed c.cw p).natAbs) x x
def actVSNEG (c : NibCtx) (vd a : BitVec 5) (pg : BitVec 3) : NibAct :=
  vUnary c tIntC 2 vd a pg fun x => compwise (fun p _ => satTo c.cw (-(signed c.cw p))) x x
def actVCONJ (c : NibCtx) (vd a : BitVec 5) (pg : BitVec 3) : NibAct :=
  vUnary c tCplx 2 vd a pg fun x =>
    let i := satTo c.cw (-(signed c.cw (x.getD 1 0)))
    ([x.getD 0 0, i.1], i.2)

/-- The two parts of a complex product of w-bit components, exact; conj takes a × conj(b) (R246). -/
def cprod (w : Nat) (conj : Bool) (x y : List Nat) : Int × Int :=
  let ar := signed w (x.getD 0 0)
  let ai := signed w (x.getD 1 0)
  let br := signed w (y.getD 0 0)
  let bi := signed w (y.getD 1 0)
  if conj then (ar * br + ai * bi, ai * br - ar * bi) else (ar * br - ai * bi, ai * br + ar * bi)

/-- A complex multiply, each part rounded and saturated. -/
def vCmul (c : NibCtx) (conj : Bool) (vd a : BitVec 5) (b : VSrc) (pg : BitVec 3) : NibAct :=
  vSame c tCplx 3 (beatsMul c) false true vd a b pg fun x y _ =>
    let p := cprod c.cw conj x y
    let re := satTo c.cw (roundShift p.1 (c.cw - 1) c.rm)
    let im := satTo c.cw (roundShift p.2 (c.cw - 1) c.rm)
    ([re.1, im.1], re.2 || im.2)

def actVCMUL (c : NibCtx) (vd a : BitVec 5) (b : VSrc) (pg : BitVec 3) : NibAct := vCmul c false vd a b pg
def actVCMULJ (c : NibCtx) (vd a : BitVec 5) (b : VSrc) (pg : BitVec 3) : NibAct := vCmul c true vd a b pg

/-! ## Widening and narrowing (MAJOR 0x26, R233) -/

/-- A widening instruction: the destination is a group of 2G of elements of 2 SEW. -/
def vWiden (c : NibCtx) (types : List Nat) (lat : Nat) (vd a : BitVec 5) (b : VSrc) (pg : BitVec 3) (twoSrc : Bool)
    (f : List Nat → List Nat → List Nat) : NibAct :=
  let g := c.grp
  let bad := match b with
    | .v r => twoSrc && grpOverlap vd.toNat (2 * g) r.toNat g
    | _ => false
  if ! types.contains c.etype || g = 8 || vd.toNat % (2 * g) ≠ 0 || a.toNat % g ≠ 0 || ! bOk c b false ||
      grpOverlap vd.toNat (2 * g) a.toNat g || bad then c.x.illegal 1 else
  let va := c.group a.toNat g
  let es := (c.active pg).map fun i =>
    (i, ofComps (2 * c.cw) (f (comps c.cw c.nc (elem c.sew va i)) (comps c.cw c.nc (bElem c b true i))))
  { cls := 1, uses := vkeys vd.toNat (2 * g) ++ vkeys a.toNat g ++ bUses c b ++ [pkey pg],
    effs := vWrite c vd.toNat (2 * g) (2 * c.sew) es (lat + (2 * g - 1)) ++ [.beats (2 * g)] }

def actVWADD (c : NibCtx) (vd a : BitVec 5) (b : VSrc) (pg : BitVec 3) : NibAct :=
  vWiden c tNarrow 2 vd a b pg true fun x y => List.zipWith (fun p q => unsigned (2 * c.cw) (signed c.cw p + signed c.cw q)) x y
def actVWSUB (c : NibCtx) (vd a : BitVec 5) (b : VSrc) (pg : BitVec 3) : NibAct :=
  vWiden c tNarrow 2 vd a b pg true fun x y => List.zipWith (fun p q => unsigned (2 * c.cw) (signed c.cw p - signed c.cw q)) x y
def actVWMUL (c : NibCtx) (vd a : BitVec 5) (b : VSrc) (pg : BitVec 3) : NibAct :=
  vWiden c tNarrow 3 vd a b pg true fun x y => List.zipWith (fun p q => unsigned (2 * c.cw) (signed c.cw p * signed c.cw q)) x y
def actVWMULU (c : NibCtx) (vd a : BitVec 5) (b : VSrc) (pg : BitVec 3) : NibAct :=
  vWiden c tNarrow 3 vd a b pg true fun x y => List.zipWith (fun p q => p * q) x y
def actVWCMUL (c : NibCtx) (vd a : BitVec 5) (b : VSrc) (pg : BitVec 3) : NibAct :=
  vWiden c [4] 3 vd a b pg true fun x y =>
    let p := cprod c.cw false x y
    [unsigned 32 p.1, unsigned 32 p.2]
def actVSEXT (c : NibCtx) (vd a : BitVec 5) (pg : BitVec 3) : NibAct :=
  vWiden c tNarrow 2 vd a (.v a) pg false fun x _ => x.map fun p => unsigned (2 * c.cw) (signed c.cw p)
def actVZEXT (c : NibCtx) (vd a : BitVec 5) (pg : BitVec 3) : NibAct :=
  vWiden c tNarrow 2 vd a (.v a) pg false fun x _ => x

/-- A narrowing instruction: the source a is a group of 2G of elements of 2 SEW; f answers each component and whether it
clamped. -/
def vNarrow (c : NibCtx) (types : List Nat) (lat : Nat) (vd a : BitVec 5) (b : VSrc) (pg : BitVec 3)
    (f : Nat → Nat → Nat × Bool) : NibAct :=
  let g := c.grp
  let bad := match b with
    | .v r => r ≠ a && grpOverlap vd.toNat g r.toNat g
    | _ => false
  if ! types.contains c.etype || g = 8 || vd.toNat % g ≠ 0 || a.toNat % (2 * g) ≠ 0 || ! bOk c b false ||
      grpOverlap vd.toNat g a.toNat (2 * g) || bad then c.x.illegal 1 else
  let va := c.group a.toNat (2 * g)
  let es := (c.active pg).map fun i =>
    let r := (comps (2 * c.cw) c.nc (elem (2 * c.sew) va i)).map fun p => f p (bElem c b true i % 128)
    (i, ofComps c.cw (r.map (·.1)), r.any (·.2))
  let out := es.map fun e => (e.1, e.2.1)
  { cls := 1, uses := vkeys vd.toNat g ++ vkeys a.toNat (2 * g) ++ bUses c b ++ [pkey pg],
    effs := vWrite c vd.toNat g c.sew out (lat + (2 * g - 1)) ++ stickIf (es.any (·.2.2)) stSAT ++ [.beats (2 * g)] }

def actVNSRA (c : NibCtx) (vd a : BitVec 5) (b : VSrc) (pg : BitVec 3) : NibAct :=
  vNarrow c [0, 1, 2, 4] 2 vd a b pg fun x n => (unsigned c.cw (roundShift (signed (2 * c.cw) x) n c.rm), false)
def actVNCLIP (c : NibCtx) (vd a : BitVec 5) (b : VSrc) (pg : BitVec 3) : NibAct :=
  vNarrow c [0, 1, 2, 4] 2 vd a b pg fun x n => satTo c.cw (roundShift (signed (2 * c.cw) x) n c.rm)
def actVNCLIPU (c : NibCtx) (vd a : BitVec 5) (b : VSrc) (pg : BitVec 3) : NibAct :=
  vNarrow c [0, 1, 2, 4] 2 vd a b pg fun x n => satUTo c.cw (roundShift x n c.rm)

/-! ## Accumulators (R247 to R252) -/

/-- Lane l of accumulator a, and its sticky flag. -/
def NibCtx.lane (c : NibCtx) (a l : Nat) : Nat := c.x.get (1000 + 64 * a + l)
def NibCtx.accf (c : NibCtx) (a : Nat) : Nat := c.x.get (4096 + 0x84 + a)

/-- A lane set to an exact result (R250): the lane, whether it overflowed. -/
def laneSet (wrap : Bool) (y : Int) : Nat × Bool :=
  let r := satW 40 y
  (if wrap then unsigned 40 y else unsigned 40 r.1, r.2)

/-- A MAC on one lane: new lane, its flag, and whether it overflowed. -/
def laneMac (wrap z flag : Bool) (old : Nat) (d : Int) : Nat × Bool × Bool :=
  if z then let r := laneSet wrap d; (r.1, r.2, r.2)
  else if flag && ! wrap then (old, flag, false)
  else let r := laneSet wrap (signed 40 old + d); (r.1, flag || r.2, r.2)

/-- Lanes of an accumulator changed, (lane, exact addend) each. -/
def macEffs (c : NibCtx) (acc : Nat) (z : Bool) (ds : List (Nat × Int)) : List Eff :=
  let wrap := bitOf (c.x.sys 0) 24
  let f0 := c.accf acc
  let rs := ds.map fun p => (p.1, laneMac wrap z (bitOf f0 p.1) (c.lane acc p.1) p.2)
  let f := rs.foldl (fun f r => putBits f r.1 r.1 (b2n r.2.2.1)) f0
  rs.map (fun r => Eff.put (1000 + 64 * acc + r.1) r.2.1) ++ [.put (4096 + 0x84 + acc) f] ++
    stickIf (rs.any (·.2.2.2)) stACCOV

/-- A MAC of int16 (typ 0) or cint16 (typ 4) elements; f answers the addends of an element's lanes. -/
def vMac (c : NibCtx) (typ : Nat) (z : Bool) (acc : BitVec 2) (a : BitVec 5) (b : VSrc) (pg : BitVec 3)
    (f : List Nat → List Nat → List Int) : NibAct :=
  let ok := match b with
    | .i _ => false
    | _ => true
  if c.etype ≠ typ || c.lig ≠ 0 || ! ok then c.x.illegal 1 else
  let va := c.group a.toNat 1
  let ds := (c.active pg).flatMap fun i =>
    (f (comps c.cw c.nc (elem c.sew va i)) (comps c.cw c.nc (bElem c b true i))).zipIdx.map fun p => (c.nc * i + p.2, p.1)
  { cls := 1, uses := (105 + acc.toNat) :: (vkeys a.toNat 1 ++ bUses c b ++ [pkey pg]),
    effs := macEffs c acc.toNat z ds ++ [.beats (beatsMul c)] }

def rprod (w : Nat) (x y : List Nat) : Int := signed w (x.getD 0 0) * signed w (y.getD 0 0)

def actVMAC (c : NibCtx) (acc : BitVec 2) (a : BitVec 5) (b : VSrc) (pg : BitVec 3) : NibAct :=
  vMac c 0 false acc a b pg fun x y => [rprod 16 x y]
def actVMSU (c : NibCtx) (acc : BitVec 2) (a : BitVec 5) (b : VSrc) (pg : BitVec 3) : NibAct :=
  vMac c 0 false acc a b pg fun x y => [-(rprod 16 x y)]
def actVMACZ (c : NibCtx) (acc : BitVec 2) (a : BitVec 5) (b : VSrc) (pg : BitVec 3) : NibAct :=
  vMac c 0 true acc a b pg fun x y => [rprod 16 x y]
def actVCMAC (c : NibCtx) (acc : BitVec 2) (a : BitVec 5) (b : VSrc) (pg : BitVec 3) : NibAct :=
  vMac c 4 false acc a b pg fun x y => let p := cprod 16 false x y; [p.1, p.2]
def actVCMACJ (c : NibCtx) (acc : BitVec 2) (a : BitVec 5) (b : VSrc) (pg : BitVec 3) : NibAct :=
  vMac c 4 false acc a b pg fun x y => let p := cprod 16 true x y; [p.1, p.2]
def actVCMACZ (c : NibCtx) (acc : BitVec 2) (a : BitVec 5) (b : VSrc) (pg : BitVec 3) : NibAct :=
  vMac c 4 true acc a b pg fun x y => let p := cprod 16 false x y; [p.1, p.2]
def actVCMSU (c : NibCtx) (acc : BitVec 2) (a : BitVec 5) (b : VSrc) (pg : BitVec 3) : NibAct :=
  vMac c 4 false acc a b pg fun x y => let p := cprod 16 false x y; [-p.1, -p.2]

/-- VAEXT (R251, R252). -/
def actVAEXT (c : NibCtx) (vd : BitVec 5) (acc : BitVec 2) (sh : BitVec 5) (pg : BitVec 3) : NibAct :=
  let a := acc.toNat
  if (c.etype ≠ 0 && c.etype ≠ 4) || c.lig ≠ 0 then c.x.illegal 1
  else if bitOf (c.x.sys 0) 23 && c.accf a % 2 ^ (c.nc * c.vl) ≠ 0 then { cls := 1, effs := [.fault 0x10 a] }
  else
    let es := (c.active pg).map fun i =>
      let r := (List.range c.nc).map fun k => satTo 16 (roundShift (signed 40 (c.lane a (c.nc * i + k))) sh.toNat c.rm)
      (i, ofComps 16 (r.map (·.1)), r.any (·.2))
    let out := es.map fun e => (e.1, e.2.1)
    { cls := 1, uses := [64 + vd.toNat, 105 + a, pkey pg],
      effs := vWrite c vd.toNat 1 c.sew out 3 ++ stickIf (es.any (·.2.2)) stSAT ++ [.beats 1] }

/-- VAMOV: lane = sext(component) << SH, flag cleared; an overflow of the lane follows R250. -/
def actVAMOV (c : NibCtx) (v : BitVec 5) (acc : BitVec 2) (sh : BitVec 5) (pg : BitVec 3) : NibAct :=
  if (c.etype ≠ 0 && c.etype ≠ 4) || c.lig ≠ 0 then c.x.illegal 1 else
  let vv := c.group v.toNat 1
  let ds := (c.active pg).flatMap fun i =>
    (comps 16 c.nc (elem c.sew vv i)).zipIdx.map fun p => (c.nc * i + p.2, signed 16 p.1 * ((2 ^ sh.toNat : Nat) : Int))
  { cls := 1, uses := [64 + v.toNat, 105 + acc.toNat, pkey pg], effs := macEffs c acc.toNat true ds ++ [.beats 1] }

def actVACLR (_c : NibCtx) (acc : BitVec 2) : NibAct :=
  let a := acc.toNat
  { cls := 1, uses := [105 + a],
    effs := (List.range 64).map (fun l => Eff.put (1000 + 64 * a + l) 0) ++ [.put (4096 + 0x84 + a) 0, .beats 1] }
def actVACLRF (_c : NibCtx) (acc : BitVec 2) : NibAct :=
  { cls := 1, uses := [105 + acc.toNat], effs := [.put (4096 + 0x84 + acc.toNat) 0, .beats 1] }

/-! ## Vector length and status (R235, R269) -/

def actVSPAN (c : NibCtx) (rd rs : BitVec 5) (etype : BitVec 3) (lig : BitVec 2) : NibAct :=
  let n := c.r rs
  let v := min n (vlcap etype.toNat lig.toNat)
  { cls := 1, uses := [c.k rd, c.k rs],
    effs := [.put (4096 + 0x80) (lig.toNat * 8 + etype.toNat), .put (4096 + 0x81) v, .reg (c.k rd) (n - v) 1, .beats 1] }
def actVCAPI (c : NibCtx) (rd : BitVec 5) (etype : BitVec 3) (lig : BitVec 2) : NibAct :=
  { cls := 1, uses := [c.k rd], effs := [.reg (c.k rd) (vlcap etype.toNat lig.toNat) 1, .beats 1] }
def actVCTL (c : NibCtx) (bits : BitVec 9) : NibAct :=
  if bitOf bits.toNat 4 then c.x.illegal 1 else { cls := 1, effs := [.vctl bits.toNat, .beats 1] }

/-! ## Compares and predicates (R241, R242) -/

/-- A predicate of the bits of a list. -/
def ofBits (l : List Nat) : Nat := l.foldl (fun t i => t + 2 ^ i) 0

/-- A compare to a predicate: bits that are inactive or at or above VL are 0. -/
def vCmp (c : NibCtx) (types : List Nat) (pd : BitVec 3) (a : BitVec 5) (b : VSrc) (pg : BitVec 3)
    (f : List Nat → List Nat → Bool) : NibAct :=
  let g := c.grp
  if ! types.contains c.etype || a.toNat % g ≠ 0 || ! bOk c b false then c.x.illegal 1 else
  let va := c.group a.toNat g
  let hit := (c.active pg).filter fun i =>
    f (comps c.cw c.nc (elem c.sew va i)) (comps c.cw c.nc (bElem c b true i))
  { cls := 1, uses := pkey pd :: vkeys a.toNat g ++ bUses c b ++ [pkey pg],
    effs := [.reg (pkey pd) (ofBits hit) (2 + (beatsAlu c - 1)), .beats (beatsAlu c)] }

/-- A compare of integers by their signed readings. -/
def vCmpS (c : NibCtx) (pd : BitVec 3) (a : BitVec 5) (b : VSrc) (pg : BitVec 3) (f : Int → Int → Bool) : NibAct :=
  vCmp c tInt pd a b pg fun x y => f (signed c.cw (x.getD 0 0)) (signed c.cw (y.getD 0 0))

def actVCMPEQ (c : NibCtx) (pd : BitVec 3) (a : BitVec 5) (b : VSrc) (pg : BitVec 3) : NibAct :=
  vCmp c tIntC pd a b pg fun x y => x == y
def actVCMPNE (c : NibCtx) (pd : BitVec 3) (a : BitVec 5) (b : VSrc) (pg : BitVec 3) : NibAct :=
  vCmp c tIntC pd a b pg fun x y => x != y
def actVCMPLT (c : NibCtx) (pd : BitVec 3) (a : BitVec 5) (b : VSrc) (pg : BitVec 3) : NibAct :=
  vCmpS c pd a b pg fun x y => x < y
def actVCMPLE (c : NibCtx) (pd : BitVec 3) (a : BitVec 5) (b : VSrc) (pg : BitVec 3) : NibAct :=
  vCmpS c pd a b pg fun x y => x ≤ y
def actVCMPLTU (c : NibCtx) (pd : BitVec 3) (a : BitVec 5) (b : VSrc) (pg : BitVec 3) : NibAct :=
  vCmp c tInt pd a b pg fun x y => x.getD 0 0 < y.getD 0 0
def actVCMPLEU (c : NibCtx) (pd : BitVec 3) (a : BitVec 5) (b : VSrc) (pg : BitVec 3) : NibAct :=
  vCmp c tInt pd a b pg fun x y => x.getD 0 0 ≤ y.getD 0 0
def actVCMPGT (c : NibCtx) (pd : BitVec 3) (a : BitVec 5) (b : VSrc) (pg : BitVec 3) : NibAct :=
  vCmpS c pd a b pg fun x y => y < x
def actVCMPGE (c : NibCtx) (pd : BitVec 3) (a : BitVec 5) (b : VSrc) (pg : BitVec 3) : NibAct :=
  vCmpS c pd a b pg fun x y => y ≤ x

/-- A predicate instruction that writes pd bit by bit. -/
def pWrite (c : NibCtx) (pd pg : BitVec 3) (uses : List Nat) (f : Nat → Bool) : NibAct :=
  { cls := 1, uses := pkey pd :: pkey pg :: uses, effs := [.reg (pkey pd) (ofBits ((c.active pg).filter f)) 2, .beats 1] }

def actPAND (c : NibCtx) (pd ps1 ps2 pg : BitVec 3) : NibAct :=
  pWrite c pd pg [pkey ps1, pkey ps2] fun i => c.pbit ps1.toNat i && c.pbit ps2.toNat i
def actPOR (c : NibCtx) (pd ps1 ps2 pg : BitVec 3) : NibAct :=
  pWrite c pd pg [pkey ps1, pkey ps2] fun i => c.pbit ps1.toNat i || c.pbit ps2.toNat i
def actPXOR (c : NibCtx) (pd ps1 ps2 pg : BitVec 3) : NibAct :=
  pWrite c pd pg [pkey ps1, pkey ps2] fun i => xor (c.pbit ps1.toNat i) (c.pbit ps2.toNat i)
def actPANDN (c : NibCtx) (pd ps1 ps2 pg : BitVec 3) : NibAct :=
  pWrite c pd pg [pkey ps1, pkey ps2] fun i => c.pbit ps1.toNat i && ! c.pbit ps2.toNat i
def actPFFGET (c : NibCtx) (pd pg : BitVec 3) : NibAct :=
  pWrite c pd pg [104] fun i => bitOf (c.x.get 104) i
def actPWHILE (c : NibCtx) (pd : BitVec 3) (rs : BitVec 5) (pg : BitVec 3) : NibAct :=
  pWrite c pd pg [c.k rs] fun i => i < c.r rs

/-- A vector instruction that writes a scalar register at +2. -/
def vToRd (c : NibCtx) (rd : BitVec 5) (uses : List Nat) (v : Nat) : NibAct :=
  { cls := 1, uses := c.k rd :: uses, effs := [.reg (c.k rd) v 2, .beats 1] }

def actPCNT (c : NibCtx) (rd : BitVec 5) (ps1 _pg : BitVec 3) : NibAct :=
  vToRd c rd [pkey ps1] ((List.range c.vl).filter (c.pbit ps1.toNat)).length
def actPFIRST (c : NibCtx) (rd : BitVec 5) (ps1 _pg : BitVec 3) : NibAct :=
  vToRd c rd [pkey ps1] (((List.range c.vl).find? (c.pbit ps1.toNat)).getD c.vl)
def actPFFLEN (c : NibCtx) (rd : BitVec 5) : NibAct :=
  vToRd c rd [104] (((List.range c.vl).find? fun i => ! bitOf (c.x.get 104) i).getD c.vl)
def actPFFPUT (c : NibCtx) (ps1 : BitVec 3) : NibAct :=
  { cls := 1, uses := [104, pkey ps1],
    effs := [.reg 104 (ofBits ((List.range c.vl).filter (c.pbit ps1.toNat))) 2, .beats 1] }

/-! ## Permutes (MAJOR 0x2C) -/

/-- A permute of elements: f answers the new value of an active element, or none to keep it. -/
def vPerm (c : NibCtx) (vd : BitVec 5) (srcs : List (BitVec 5)) (more : List Nat) (pg : BitVec 3) (apart : Bool)
    (f : Nat → Option Nat) : NibAct :=
  let g := c.grp
  if vd.toNat % g ≠ 0 || srcs.any (fun r => r.toNat % g ≠ 0) ||
      (apart && srcs.any fun r => grpOverlap vd.toNat g r.toNat g) then c.x.illegal 1 else
  let es := (c.active pg).filterMap fun i => (f i).map fun v => (i, v)
  { cls := 1, uses := vkeys vd.toNat g ++ srcs.flatMap (fun r => vkeys r.toNat g) ++ pkey pg :: more,
    effs := vWrite c vd.toNat g c.sew es (3 + (beatsAlu c - 1)) ++ [.beats (beatsAlu c)] }

def actVBCAST (c : NibCtx) (vd rs : BitVec 5) (pg : BitVec 3) : NibAct :=
  vPerm c vd [] [c.k rs] pg false fun _ => some (c.r rs % 2 ^ c.sew)
def actVSLIDEDN (c : NibCtx) (vd a rs : BitVec 5) (pg : BitVec 3) : NibAct :=
  vPerm c vd [a] [c.k rs] pg true fun i =>
    some (if i + c.r rs < vlcap c.etype c.lig then elem c.sew (c.group a.toNat c.grp) (i + c.r rs) else 0)
def actVSLIDEUP (c : NibCtx) (vd a rs : BitVec 5) (pg : BitVec 3) : NibAct :=
  vPerm c vd [a] [c.k rs] pg true fun i =>
    if c.r rs ≤ i then some (elem c.sew (c.group a.toNat c.grp) (i - c.r rs)) else none
def actVMVXS (c : NibCtx) (rd a : BitVec 5) : NibAct :=
  if a.toNat % c.grp ≠ 0 then c.x.illegal 1 else
  vToRd c rd [64 + a.toNat] (sext c.sew (elem c.sew (c.group a.toNat 1) 0))
def actVMVSX (c : NibCtx) (vd rs : BitVec 5) (pg : BitVec 3) : NibAct :=
  vPerm c vd [] [c.k rs] pg false fun i => if i = 0 then some (c.r rs % 2 ^ c.sew) else none
def actVPERM (c : NibCtx) (vd a b : BitVec 5) (pg : BitVec 3) : NibAct :=
  vPerm c vd [a, b] [] pg true fun i =>
    let j := elem c.sew (c.group b.toNat c.grp) i
    some (if j < vlcap c.etype c.lig then elem c.sew (c.group a.toNat c.grp) j else 0)
def actVSWAPIQ (c : NibCtx) (vd a : BitVec 5) (pg : BitVec 3) : NibAct :=
  vUnary c tCplx 3 vd a pg fun x => ([x.getD 1 0, x.getD 0 0], false)

/-! ## Reductions (MAJOR 0x2D) -/

/-- A reduction of the active elements to rd; without an active element and a value for it, a free value. -/
def vReduce (c : NibCtx) (types : List Nat) (rd a : BitVec 5) (pg : BitVec 3) (f : List Nat → Option Int) : NibAct :=
  let g := c.grp
  if ! types.contains c.etype || a.toNat % g ≠ 0 then c.x.illegal 1 else
  let va := c.group a.toNat g
  let lat := 4 + (beatsAlu c - 1)
  let es := (c.active pg).flatMap fun i => comps c.cw c.nc (elem c.sew va i)
  { cls := 1, uses := c.k rd :: vkeys a.toNat g ++ [pkey pg],
    effs := (match f es with
      | some v => [.reg (c.k rd) (unsigned 64 v) lat]
      | none => [.reg (c.k rd) (Config.freeVal c.s.free % 2 ^ 64) lat, .free 1]) ++ [.beats (beatsAlu c)] }

/-- The largest of a list by a measure. -/
def bestOf (better : Int → Int → Bool) : List Int → Option Int
  | [] => none
  | v :: r => some (r.foldl (fun m x => if better x m then x else m) v)

def actVRSUM (c : NibCtx) (rd a : BitVec 5) (pg : BitVec 3) : NibAct :=
  vReduce c tInt rd a pg fun es => some (es.foldl (fun t v => t + signed c.cw v) 0)
def actVRMAX (c : NibCtx) (rd a : BitVec 5) (pg : BitVec 3) : NibAct :=
  vReduce c tInt rd a pg fun es => bestOf (fun x m => m < x) (es.map (signed c.cw))
def actVRMIN (c : NibCtx) (rd a : BitVec 5) (pg : BitVec 3) : NibAct :=
  vReduce c tInt rd a pg fun es => bestOf (fun x m => x < m) (es.map (signed c.cw))
def actVRMAXABS (c : NibCtx) (rd a : BitVec 5) (pg : BitVec 3) : NibAct :=
  vReduce c tInt rd a pg fun es => bestOf (fun x m => m < x) (es.map fun v => ((signed c.cw v).natAbs : Int))
def actVRMINCLS (c : NibCtx) (rd a : BitVec 5) (pg : BitVec 3) : NibAct :=
  vReduce c [0, 1, 2, 4, 5] rd a pg fun es =>
    some (es.foldl (fun m v => min m (clsW c.cw (signed c.cw v))) (c.cw - 1) : Nat)

/-! ## Exponents and block floating point (R253 to R259) -/

def actVCLS (c : NibCtx) (vd a : BitVec 5) (pg : BitVec 3) : NibAct :=
  if c.etype = 3 then c.x.illegal 1 else
  vUnary c tIntC 2 vd a pg fun x => (x.map fun v => clsW c.cw (signed c.cw v), false)
def actVNORM (c : NibCtx) (vd a : BitVec 5) (pg : BitVec 3) : NibAct :=
  if c.etype = 3 then c.x.illegal 1 else
  vUnary c tIntC 3 vd a pg fun x => (x.map fun v => v * 2 ^ clsW c.cw (signed c.cw v) % 2 ^ c.cw, false)

/-- Mantissa width and group size of BFPCFG; none for a reserved GSEL (R254). -/
def NibCtx.bfp (c : NibCtx) : Option (Nat × Nat) :=
  let w := c.x.sys 0x83
  let m := if w % 16 = 0 then 16 else w % 16
  (match w / 16 % 8 with
    | 0 => some 24 | 1 => some 4 | 2 => some 8 | 3 => some 12 | 4 => some 16 | 5 => some 32 | _ => none).map fun g => (m, g)

/-- Component j of a group read as 16-bit components, and whether it is active and below VL (R255). -/
def NibCtx.comp16 (c : NibCtx) (va j : Nat) : Nat := elem 16 va j
def NibCtx.compOn (c : NibCtx) (pg : BitVec 3) (j : Nat) : Bool := j / c.nc < c.vl && c.pbit pg.toNat (j / c.nc)

/-- A block instruction checks type, GSEL and groups. -/
def bfpOk (c : NibCtx) (regs : List Nat) : Bool :=
  (c.etype == 0 || c.etype == 4) && c.bfp.isSome && regs.all fun r => r % c.grp == 0

/-- VBEXP: e = max(0, 16 − c − M) of each group, written to its active components (R256). -/
def actVBEXP (c : NibCtx) (vd a : BitVec 5) (pg : BitVec 3) : NibAct :=
  if ! bfpOk c [vd.toNat, a.toNat] then c.x.illegal 1 else
  let (m, gs) := c.bfp.getD (16, 24)
  let va := c.group a.toNat c.grp
  let js := (List.range (c.nc * c.vl)).filter (c.compOn pg)
  let es := js.map fun j =>
    let mates := js.filter fun k => k / gs == j / gs
    let cl := mates.foldl (fun t k => min t (clsW 16 (signed 16 (c.comp16 va k)))) 15
    let zero := mates.all fun k => c.comp16 va k == 0
    (j, if zero then 0 else 16 - cl - m)
  { cls := 1, uses := vkeys vd.toNat c.grp ++ vkeys a.toNat c.grp ++ [pkey pg],
    effs := vWrite c vd.toNat c.grp 16 es (3 + (beatsAlu c - 1)) ++ [.beats (beatsAlu c)] }

/-- VBSCL: each active component sat_M(round_shift(a, e)), sign-extended to 16 bits (R257). -/
def actVBSCL (c : NibCtx) (vd a b : BitVec 5) (pg : BitVec 3) : NibAct :=
  if ! bfpOk c [vd.toNat, a.toNat, b.toNat] then c.x.illegal 1 else
  let m := (c.bfp.getD (16, 24)).1
  let va := c.group a.toNat c.grp
  let vb := c.group b.toNat c.grp
  let es := ((List.range (c.nc * c.vl)).filter (c.compOn pg)).map fun j =>
    let r := satW m (roundShift (signed 16 (c.comp16 va j)) (c.comp16 vb j % 16) c.rm)
    (j, unsigned 16 r.1, r.2)
  let out := es.map fun e => (e.1, e.2.1)
  { cls := 1, uses := vkeys vd.toNat c.grp ++ vkeys a.toNat c.grp ++ vkeys b.toNat c.grp ++ [pkey pg],
    effs := vWrite c vd.toNat c.grp 16 out (3 + (beatsAlu c - 1)) ++ stickIf (es.any (·.2.2)) stSAT ++ [.beats (beatsAlu c)] }

/-- Bits, most significant first, packed into bytes with zero bits at the end. -/
def packBits : List Bool → List Nat
  | b7 :: b6 :: b5 :: b4 :: b3 :: b2 :: b1 :: b0 :: r =>
    (b2n b7 * 128 + b2n b6 * 64 + b2n b5 * 32 + b2n b4 * 16 + b2n b3 * 8 + b2n b2 * 4 + b2n b1 * 2 + b2n b0) :: packBits r
  | [] => []
  | bs => [(bs.zipIdx).foldl (fun t p => t + b2n p.1 * 2 ^ (7 - p.2)) 0]

/-- The m low bits of a number, most significant first. -/
def bitsMsb (m v : Nat) : List Bool := (List.range m).map fun k => bitOf v (m - 1 - k)

/-- Bytes as a number, byte 0 lowest. -/
def natOfBytes : List Nat → Nat
  | [] => 0
  | b :: r => b + 256 * natOfBytes r

/-- The groups of n components in groups of gs: first component and length of each. -/
def bfpGroups (n gs : Nat) : List (Nat × Nat) :=
  (List.range ((n + gs - 1) / gs)).map fun k => (k * gs, min gs (n - k * gs))

/-- VBPACK (R258): per group an exponent byte and the mantissas, packed, then zero bytes to the end of the group of 2G. -/
def actVBPACK (c : NibCtx) (vd a b : BitVec 5) (pg : BitVec 3) : NibAct :=
  let g := c.grp
  if ! bfpOk c [a.toNat, b.toNat] || g = 8 || vd.toNat % (2 * g) ≠ 0 || grpOverlap vd.toNat (2 * g) a.toNat g ||
      grpOverlap vd.toNat (2 * g) b.toNat g then c.x.illegal 1 else
  let (m, gs) := c.bfp.getD (16, 24)
  let va := c.group a.toNat g
  let vb := c.group b.toNat g
  let bytes := (bfpGroups (c.nc * c.vl) gs).flatMap fun p =>
    c.comp16 vb p.1 % 16 ::
      packBits ((List.range p.2).flatMap fun k => bitsMsb m (if c.compOn pg (p.1 + k) then c.comp16 va (p.1 + k) else 0))
  let v := natOfBytes bytes
  let lat := 4 + (2 * g - 1)
  { cls := 1, uses := vkeys vd.toNat (2 * g) ++ vkeys a.toNat g ++ vkeys b.toNat g ++ [pkey pg],
    effs := (if c.vl = 0 then [] else (List.range (2 * g)).map fun k => Eff.reg (64 + vd.toNat + k) (elem vlen v k) lat) ++ [.beats (2 * g)] }

/-- A number read from m bits, most significant first, from bit o of a byte string. -/
def readMsb (v o m : Nat) : Nat :=
  (List.range m).foldl (fun t k => 2 * t + b2n (bitOf (elem 8 v ((o + k) / 8)) (7 - (o + k) % 8))) 0

/-- VBUNPK (R259): sat_16(sext_M(mantissa) × 2^e). -/
def actVBUNPK (c : NibCtx) (vd a : BitVec 5) (pg : BitVec 3) : NibAct :=
  let g := c.grp
  if ! bfpOk c [vd.toNat] || g = 8 || a.toNat % (2 * g) ≠ 0 || grpOverlap vd.toNat g a.toNat (2 * g) then c.x.illegal 1 else
  let (m, gs) := c.bfp.getD (16, 24)
  let v := c.group a.toNat (2 * g)
  let stride := 1 + (gs * m + 7) / 8
  let es := ((List.range (c.nc * c.vl)).filter (c.compOn pg)).map fun j =>
    let o := j / gs * stride
    let r := satW 16 (signed m (readMsb v (8 * (o + 1) + j % gs * m) m) * ((2 ^ (elem 8 v o % 16) : Nat) : Int))
    (j, unsigned 16 r.1, r.2)
  let out := es.map fun e => (e.1, e.2.1)
  { cls := 1, uses := vkeys vd.toNat g ++ vkeys a.toNat (2 * g) ++ [pkey pg],
    effs := vWrite c vd.toNat g 16 out (4 + (2 * g - 1)) ++ stickIf (es.any (·.2.2)) stSAT ++ [.beats (2 * g)] }

/-! ## Floating point (R260) -/

/-- A floating-point instruction on elements: f is given an index for a free value and answers bits and FX. -/
def vFloat (c : NibCtx) (vd : BitVec 5) (srcs : List (BitVec 5)) (pg : BitVec 3) (f : Bool → Nat → Nat × Bool) : NibAct :=
  let g := c.grp
  if ! tFloat.contains c.etype || vd.toNat % g ≠ 0 || srcs.any (fun r => r.toNat % g ≠ 0) then c.x.illegal 1 else
  let es := (c.active pg).map fun i => let r := f (c.etype == 6) i; (i, r.1, r.2)
  let out := es.map fun e => (e.1, e.2.1)
  { cls := 1, uses := vkeys vd.toNat g ++ srcs.flatMap (fun r => vkeys r.toNat g) ++ [pkey pg],
    effs := vWrite c vd.toNat g c.sew out (4 + (beatsAlu c - 1)) ++ stickIf (es.any (·.2.2)) stFX ++
      [.beats (beatsAlu c), .free c.vl] }

/-- Element i of a register group as a floating-point value. -/
def NibCtx.fEl (c : NibCtx) (bf : Bool) (v : BitVec 5) (i : Nat) : FVal := fRead bf (elem c.sew (c.group v.toNat c.grp) i)

def actVFADD (c : NibCtx) (vd a b : BitVec 5) (pg : BitVec 3) : NibAct :=
  vFloat c vd [a, b] pg fun bf i => fAdd bf (c.fEl bf a i) (c.fEl bf b i)
def actVFSUB (c : NibCtx) (vd a b : BitVec 5) (pg : BitVec 3) : NibAct :=
  vFloat c vd [a, b] pg fun bf i => fAdd bf (c.fEl bf a i) (c.fEl bf b i).neg
def actVFMUL (c : NibCtx) (vd a b : BitVec 5) (pg : BitVec 3) : NibAct :=
  vFloat c vd [a, b] pg fun bf i => fMul bf (c.fEl bf a i) (c.fEl bf b i)
def actVFMA (c : NibCtx) (vd a b : BitVec 5) (pg : BitVec 3) : NibAct :=
  vFloat c vd [a, b, vd] pg fun bf i => fMulAdd bf (c.fEl bf vd i) (c.fEl bf a i) (c.fEl bf b i)

/-- Minimum or maximum: with a NaN operand, or between zeros of two signs, the manual gives no result and the value is free. -/
def fPick (c : NibCtx) (bf : Bool) (i : Nat) (x y : FVal) (takeY : Bool) : Nat × Bool :=
  let z := match x, y with
    | .fin n1 0 _, .fin n2 0 _ => n1 != n2
    | _, _ => false
  if x.isNan || y.isNan then (Config.freeVal (c.s.free + i) % 2 ^ (if bf then 16 else 32), x.isSig || y.isSig)
  else if z then fWrite bf (.fin (Config.freeVal (c.s.free + i) % 2 == 1) 0 0)
  else fWrite bf (if takeY then y else x)

def actVFMIN (c : NibCtx) (vd a b : BitVec 5) (pg : BitVec 3) : NibAct :=
  vFloat c vd [a, b] pg fun bf i =>
    fPick c bf i (c.fEl bf a i) (c.fEl bf b i) (fLess (c.fEl bf b i) (c.fEl bf a i))
def actVFMAX (c : NibCtx) (vd a b : BitVec 5) (pg : BitVec 3) : NibAct :=
  vFloat c vd [a, b] pg fun bf i =>
    fPick c bf i (c.fEl bf a i) (c.fEl bf b i) (fLess (c.fEl bf a i) (c.fEl bf b i))
def actVFABS (c : NibCtx) (vd a : BitVec 5) (pg : BitVec 3) : NibAct :=
  vFloat c vd [a] pg fun bf i =>
    (match c.fEl bf a i with
     | .nan _ => (fNaN bf, false)
     | .inf _ => (fInf bf false, false)
     | .fin _ m e => fRound bf false m e)
def actVFNEG (c : NibCtx) (vd a : BitVec 5) (pg : BitVec 3) : NibAct :=
  vFloat c vd [a] pg fun bf i => ((fWrite bf (c.fEl bf a i).neg).1, false)

/-- A floating-point compare to a predicate; a NaN compares false. -/
def vFcmp (c : NibCtx) (pd : BitVec 3) (a b : BitVec 5) (pg : BitVec 3) (f : FVal → FVal → Bool × Bool) : NibAct :=
  let g := c.grp
  if ! tFloat.contains c.etype || a.toNat % g ≠ 0 || b.toNat % g ≠ 0 then c.x.illegal 1 else
  let bf := c.etype == 6
  let rs := (c.active pg).map fun i => let r := f (c.fEl bf a i) (c.fEl bf b i); (i, r.1, r.2)
  let hit := (rs.filter (·.2.1)).map (·.1)
  { cls := 1, uses := pkey pd :: vkeys a.toNat g ++ vkeys b.toNat g ++ [pkey pg],
    effs := [.reg (pkey pd) (ofBits hit) (2 + (beatsAlu c - 1))] ++ stickIf (rs.any (·.2.2)) stFX ++ [.beats (beatsAlu c)] }

def actVFCMPLT (c : NibCtx) (pd : BitVec 3) (a b : BitVec 5) (pg : BitVec 3) : NibAct :=
  vFcmp c pd a b pg fun x y => if x.isNan || y.isNan then (false, true) else (fLess x y, false)
def actVFCMPEQ (c : NibCtx) (pd : BitVec 3) (a b : BitVec 5) (pg : BitVec 3) : NibAct :=
  vFcmp c pd a b pg fun x y =>
    if x.isNan || y.isNan then (false, x.isSig || y.isSig) else (! fLess x y && ! fLess y x, false)

/-- A conversion between 32-bit elements. -/
def vCvt (c : NibCtx) (vd a : BitVec 5) (pg : BitVec 3) (f : Nat → Nat × Nat) : NibAct :=
  let g := c.grp
  if (c.etype ≠ 2 && c.etype ≠ 7) || vd.toNat % g ≠ 0 || a.toNat % g ≠ 0 then c.x.illegal 1 else
  let es := (c.active pg).map fun i => let r := f (elem 32 (c.group a.toNat g) i); (i, r.1, r.2)
  let out := es.map fun e => (e.1, e.2.1)
  { cls := 1, uses := vkeys vd.toNat g ++ vkeys a.toNat g ++ [pkey pg],
    effs := vWrite c vd.toNat g 32 out (4 + (beatsAlu c - 1)) ++ es.map (fun e => Eff.sticky e.2.2) ++ [.beats (beatsAlu c)] }

def actVCVTIF (c : NibCtx) (vd a : BitVec 5) (pg : BitVec 3) : NibAct :=
  vCvt c vd a pg fun v => ((fWrite false (fOfInt (signed 32 v) 0)).1, 0)
/-- VCVTFI rounds per RM and saturates to int32 with SAT; a NaN converts to 0 and sets FX. -/
def actVCVTFI (c : NibCtx) (vd a : BitVec 5) (pg : BitVec 3) : NibAct :=
  vCvt c vd a pg fun v =>
    let r := fToInt 32 c.rm 0 (fRead32 v)
    (unsigned 32 r.1, (if r.2.1 then stSAT else 0) + (if r.2.2 then stFX else 0))

/-- VCVTFB: fp32 group of 2G to bf16. -/
def actVCVTFB (c : NibCtx) (vd a : BitVec 5) (pg : BitVec 3) : NibAct :=
  let g := c.grp
  if c.etype ≠ 6 || g = 8 || vd.toNat % g ≠ 0 || a.toNat % (2 * g) ≠ 0 || grpOverlap vd.toNat g a.toNat (2 * g) then c.x.illegal 1 else
  let es := (c.active pg).map fun i => let r := fWrite true (fRead32 (elem 32 (c.group a.toNat (2 * g)) i)); (i, r.1, r.2)
  let out := es.map fun e => (e.1, e.2.1)
  { cls := 1, uses := vkeys vd.toNat g ++ vkeys a.toNat (2 * g) ++ [pkey pg],
    effs := vWrite c vd.toNat g 16 out (4 + (2 * g - 1)) ++ stickIf (es.any (·.2.2)) stFX ++ [.beats (2 * g)] }

/-- VCVTBF: bf16 to an fp32 group of 2G. -/
def actVCVTBF (c : NibCtx) (vd a : BitVec 5) (pg : BitVec 3) : NibAct :=
  let g := c.grp
  if c.etype ≠ 6 || g = 8 || vd.toNat % (2 * g) ≠ 0 || a.toNat % g ≠ 0 || grpOverlap vd.toNat (2 * g) a.toNat g then c.x.illegal 1 else
  let es := (c.active pg).map fun i => let r := fWrite false (fRead16 (elem 16 (c.group a.toNat g) i)); (i, r.1, r.2)
  let out := es.map fun e => (e.1, e.2.1)
  { cls := 1, uses := vkeys vd.toNat (2 * g) ++ vkeys a.toNat g ++ [pkey pg],
    effs := vWrite c vd.toNat (2 * g) 32 out (4 + (2 * g - 1)) ++ stickIf (es.any (·.2.2)) stFX ++ [.beats (2 * g)] }

end Sys2Proof.Machine
end

