-- ==== Sys2Proof/Machine/NibMem.lean ====
section
/-! DEFINITION. The vector loads and stores of a Nib as they stand in a bundle (R261 to R268). -/

namespace Sys2Proof.Machine

/-- What a vector element access raises: as a scalar access of its size, but an address in the CSR region is a BUS_ERROR
(R262). -/
def NibCtx.elFault (c : NibCtx) (g n : Nat) (k : Acc) : Option (Nat × Nat) :=
  match c.s.nibPath c.i g with
  | .csr => if g % n ≠ 0 then some (cMISALIGNED, g) else some (cBUS_ERROR, g)
  | _ => c.s.nibFault c.i g n n k

/-- The first of a list of elements (index, address) whose access would fault. -/
def NibCtx.firstFault (c : NibCtx) (n : Nat) (k : Acc) : List (Nat × Nat) → Option (Nat × Nat × Nat)
  | [] => none
  | (i, g) :: r =>
    match c.elFault g n k with
    | some (cause, f) => some (i, cause, f)
    | none => NibCtx.firstFault c n k r

/-- A watchpoint match of any element, the halting ones first (R228, R268). -/
def NibCtx.elWatch (c : NibCtx) (n : Nat) (k : Acc) (es : List (Nat × Nat)) : Option (Bool × Nat) :=
  let hits := es.filterMap fun e =>
    (pickMatch (c.s.wpHits c.i e.2 n k) fun w => c.s.bit (Reg.NIB_WP_CTL c.i w) 30).map fun m => (m.2, e.2)
  match hits.find? (·.1) with
  | some h => some h
  | none => hits.head?

/-- The value an element load reads; a peer's memory gives a free value (R17). -/
def State.elValue (s : State) (i j g n : Nat) : Nat :=
  match s.nibPath i g, s.localOf g with
  | .remote, _ => Config.freeVal (s.free + j) % 2 ^ (8 * n)
  | _, some a => s.load a n
  | _, none => 0

/-- Bank of a Quire Inkwell that an address lies in (R377). -/
def inkBank (a : Nat) : Nat := Nat.xor (bitsOf a 11 6) (bitsOf a 17 12)

/-- Values without repeats. -/
def distinct (l : List Nat) : List Nat := l.foldl setIns []

/-- The bank conflicts of one beat (R378): lines touched in each bank, minus one, summed. -/
def beatConflicts (lines : List Nat) : Nat :=
  let ls := distinct lines
  ls.length - (distinct (ls.map fun l => inkBank (64 * l))).length

/-- The bank conflicts of elements taken eight to a beat. -/
def conflicts : Nat → List Nat → Nat
  | 0, _ => 0
  | n + 1, as => if as.isEmpty then 0 else beatConflicts ((as.take 8).map (· / 64)) + conflicts n (as.drop 8)

/-- Beats of a unit-stride access (R263). -/
def NibCtx.unitBeats (c : NibCtx) (g n : Nat) : Nat :=
  if n = 0 then 1 else
  match c.s.nibPath c.i g with
  | .own => max 1 ((8 * n + 1023) / 1024)
  | _ => (g + n - 1) / 128 - g / 128 + 1

/-- Beats of a strided or indexed access. -/
def NibCtx.elBeats (c : NibCtx) (as : List Nat) : Nat :=
  if as.all fun a => c.s.nibPath c.i a == .own then max 1 ((as.length + 7) / 8 + conflicts as.length as)
  else max 1 as.length

/-- The freeze of a vector memory instruction: B_m − 1 Nib cycles, and a free number where it leaves the direct path and L1. -/
def NibCtx.memFreeze (c : NibCtx) (beats : Nat) (as : List Nat) : List Eff :=
  .freeze (beats - 1) ::
    (if as.all fun a => c.s.nibPath c.i a == .own || c.s.nibPath c.i a == .cached then [] else c.wait)

/-- Cache lines the elements need. -/
def NibCtx.elLines (c : NibCtx) (n : Nat) (as : List Nat) : List Nat :=
  distinct (as.flatMap fun a => c.s.needLines c.i a n)

/-- A vector load (R261, R264, R266, R267): addr gives each element's address, beats the beats from the addresses of the
active elements; unit says whether its post-increment register and step apply. -/
def vLoad (c : NibCtx) (ff : Bool) (vd : BitVec 5) (pg : BitVec 3) (uses : List Nat) (regs : List Nat) (addr : Nat → Nat)
    (beats : List Nat → Nat) (post : Nat → List Eff) : NibAct :=
  let g := c.grp
  let n := c.sew / 8
  if regs.any (fun r => r % g ≠ 0) then c.x.illegal 2 else
  let es := (c.active pg).map fun i => (i, addr i)
  match c.elWatch n .read es with
  | some (h, a) => { cls := 2, effs := [.watch h a] }
  | none =>
    let stop := c.firstFault n .read es
    let first := (es.head?.map (·.1)).getD 0
    let bad := match stop with
      | some (i, _, _) => ! ff || i == first
      | none => false
    if bad then { cls := 2, effs := (stop.map fun p => Eff.fault p.2.1 p.2.2).toList } else
    let k := (stop.map (·.1)).getD c.vl
    let got := es.filter fun e => e.1 < k
    let vals := got.map fun e => (e.1, c.s.elValue c.i e.1 e.2 n)
    let zeros := ((List.range c.vl).filter fun i => k ≤ i).map fun i => (i, 0)
    let as := got.map (·.2)
    { cls := 2, uses := vkeys vd.toNat g ++ pkey pg :: uses ++ (if ff then [104] else []),
      lines := c.elLines n as, reads := as.map fun a => (a, n),
      effs := vWrite c vd.toNat g c.sew (vals ++ zeros) 4 ++ (if ff then [.reg 104 (2 ^ k - 1) 4] else []) ++
        post k ++ c.memFreeze (beats as) as ++ [.free c.vl] }

/-- A vector store (R261, R264): elements written in element order. -/
def vStore (c : NibCtx) (vs : BitVec 5) (pg : BitVec 3) (uses : List Nat) (regs : List Nat) (addr : Nat → Nat)
    (beats : List Nat → Nat) (post : List Eff) : NibAct :=
  let g := c.grp
  let n := c.sew / 8
  if regs.any (fun r => r % g ≠ 0) then c.x.illegal 2 else
  let es := (c.active pg).map fun i => (i, addr i)
  match c.elWatch n .write es with
  | some (h, a) => { cls := 2, effs := [.watch h a] }
  | none =>
    match c.firstFault n .write es with
    | some p => { cls := 2, effs := [.fault p.2.1 p.2.2] }
    | none =>
      let as := es.map (·.2)
      { cls := 2, uses := vkeys vs.toNat g ++ pkey pg :: uses, lines := c.elLines n as,
        effs := es.map (fun e => Eff.store e.2 n (elem c.sew (c.group vs.toNat g) e.1)) ++ post ++ c.memFreeze (beats as) as }

/-- The post-increment of ra by a number of elements. -/
def postInc (c : NibCtx) (pi : Bool) (ra : BitVec 5) (n lat : Nat) : List Eff :=
  if pi then [.reg (c.k ra) (add64 (c.r ra) (n * (c.sew / 8))) lat] else []

def actVLD (c : NibCtx) (ff pi : Bool) (vd ra : BitVec 5) (pg : BitVec 3) : NibAct :=
  vLoad c ff vd pg [c.k ra] [vd.toNat] (fun i => add64 (c.r ra) (i * (c.sew / 8)))
    (fun _ => c.unitBeats (c.r ra) (c.vl * (c.sew / 8))) fun k =>
      if ff then postInc c pi ra k 4 else postInc c pi ra c.vl 1
def actVST (c : NibCtx) (pi : Bool) (vs ra : BitVec 5) (pg : BitVec 3) : NibAct :=
  vStore c vs pg [c.k ra] [vs.toNat] (fun i => add64 (c.r ra) (i * (c.sew / 8)))
    (fun _ => c.unitBeats (c.r ra) (c.vl * (c.sew / 8))) (postInc c pi ra c.vl 1)

/-- Address of a strided element; the stride is signed. -/
def NibCtx.strided (c : NibCtx) (ra rb : BitVec 5) (i : Nat) : Nat := unsigned 64 (c.r ra + i * s64 (c.r rb))

def actVLDS (c : NibCtx) (ff : Bool) (vd ra rb : BitVec 5) (pg : BitVec 3) : NibAct :=
  vLoad c ff vd pg [c.k ra, c.k rb] [vd.toNat] (c.strided ra rb) c.elBeats fun _ => []
def actVSTS (c : NibCtx) (vs ra rb : BitVec 5) (pg : BitVec 3) : NibAct :=
  vStore c vs pg [c.k ra, c.k rb] [vs.toNat] (c.strided ra rb) c.elBeats []

/-- Address of an indexed element. -/
def NibCtx.indexed (c : NibCtx) (ra b : BitVec 5) (scale : BitVec 2) (i : Nat) : Nat :=
  add64 (c.r ra) (elem c.sew (c.group b.toNat c.grp) i * 2 ^ scale.toNat)

def actVLDG (c : NibCtx) (ff : Bool) (scale : BitVec 2) (vd ra b : BitVec 5) (pg : BitVec 3) : NibAct :=
  vLoad c ff vd pg (c.k ra :: vkeys b.toNat c.grp) [vd.toNat, b.toNat] (c.indexed ra b scale) c.elBeats fun _ => []
def actVSTG (c : NibCtx) (scale : BitVec 2) (vs ra b : BitVec 5) (pg : BitVec 3) : NibAct :=
  vStore c vs pg (c.k ra :: vkeys b.toNat c.grp) [vs.toNat, b.toNat] (c.indexed ra b scale) c.elBeats []

/-! ## Whole registers (R265) -/

/-- A whole-register access of n bytes at s[ra], 8-byte aligned, under p0. -/
def vWhole (c : NibCtx) (k : Acc) (n beats : Nat) (idle : Bool) (ra : BitVec 5) (pg : BitVec 3) (ok : Bool) (uses : List Nat)
    (effs : Nat → List Eff) : NibAct :=
  let g := c.r ra
  if pg ≠ 0 || ! ok then c.x.illegal 2 else
  match pickMatch (c.s.wpHits c.i g n k) fun w => c.s.bit (Reg.NIB_WP_CTL c.i w) 30 with
  | some (_, h) => { cls := 2, effs := [.watch h g] }
  | none =>
    match (match c.s.nibPath c.i g with | .csr => some (cBUS_ERROR, g) | _ => c.s.nibFault c.i g n 8 k) with
    | some p => { cls := 2, effs := [.fault p.1 p.2] }
    | none =>
      let ls := (List.range (n / 64)).map fun j => g + 64 * j
      { cls := 2, idle := idle, uses := c.k ra :: uses, lines := c.elLines 64 ls,
        reads := if k = .write then [] else [(g, n)], effs := effs g ++ c.memFreeze beats [g] }

/-- Image of an accumulator: 64 lanes of 5 bytes, then ACCF. -/
def NibCtx.accImage (c : NibCtx) (a : Nat) : Nat :=
  (List.range 64).foldl (fun t l => t + c.lane a l * 2 ^ (40 * l)) (c.accf a * 2 ^ 2560)

def actVLDR (c : NibCtx) (vd ra : BitVec 5) (pg : BitVec 3) : NibAct :=
  vWhole c .read 128 1 false ra pg true [64 + vd.toNat] fun g => [.reg (64 + vd.toNat) (c.s.elValue c.i 0 g 128) 4, .free 1]
def actVSTR (c : NibCtx) (vs ra : BitVec 5) (pg : BitVec 3) : NibAct :=
  vWhole c .write 128 1 false ra pg true [64 + vs.toNat] fun g => [.store g 128 (c.x.get (64 + vs.toNat))]
def actVLDRP (c : NibCtx) (p ra : BitVec 5) (pg : BitVec 3) : NibAct :=
  vWhole c .read 128 1 false ra pg (p.toNat ≤ 8) [96 + p.toNat] fun g =>
    [.reg (96 + p.toNat) (c.s.elValue c.i 0 g 128) 4, .free 1]
def actVSTRP (c : NibCtx) (p ra : BitVec 5) (pg : BitVec 3) : NibAct :=
  vWhole c .write 128 1 false ra pg (p.toNat ≤ 8) [96 + p.toNat] fun g =>
    [.store g 128 (if p = 0 then 2 ^ vlen - 1 else c.x.get (96 + p.toNat))]
def actVLDRA (c : NibCtx) (acc ra : BitVec 5) (pg : BitVec 3) : NibAct :=
  vWhole c .read 384 3 true ra pg (acc.toNat < 4) [105 + acc.toNat] fun g =>
    [.reg (105 + acc.toNat) (c.s.elValue c.i 0 g 384) 4, .free 1]
def actVSTRA (c : NibCtx) (acc ra : BitVec 5) (pg : BitVec 3) : NibAct :=
  vWhole c .write 384 3 true ra pg (acc.toNat < 4) [105 + acc.toNat] fun g => [.store g 384 (c.accImage acc.toNat)]

end Sys2Proof.Machine
end

