-- ==== Sys2Proof/Machine/NibFer.lean ====
section
/-! DEFINITION. The Ferrule instructions of a Nib as they stand in a bundle (R285 to R292). -/

namespace Sys2Proof.Machine

/-- Tags of Ferrule f that are busy. -/
def State.tagsBusy (s : State) (f : Nat) : Nat := s.fld (Reg.FER_STATUS f) 23 16

/-- A Ferrule instruction whose unused fields are not zero is ILLEGAL (R285). -/
def ferForm (c : NibCtx) (unusedZero : Bool) (a : NibAct) : NibAct := if unusedZero then a else c.x.illegal 0

/-- A fault of a Ferrule instruction with FADDR the bundle address. -/
def ferFault (c : NibCtx) (cause : Nat) : NibAct := { cls := 0, effs := [.fault cause c.x.pc] }

/-- The Ferrule of the Nib's Quire that MOD [0] names. -/
def ferOf (c : NibCtx) (md : BitVec 2) : Nat := 2 * (c.i / 16) + md.toNat % 2

/-- FLOCK (func 0) and FLOCKNB (func 1): a thread that holds the other Ferrule raises FER_LOCK_NEST (R289). -/
def ferLockAct (c : NibCtx) (func : Nat) (f : FFmt) : NibAct :=
  ferForm c (f.ra == 0 && f.rb == 0 && ! bitOf f.md.toNat 1)
    (if c.s.nibThread c.i = 0 then ferFault c 0x18
     else match c.s.ferHeld c.i with
      | some h => if h = ferOf c f.md then { cls := 0, uses := [c.k f.rd], effs := [.fer func f.md.toNat f.tag.toNat 0 (c.k f.rd)] }
                  else ferFault c 0x1B
      | none => { cls := 0, uses := [c.k f.rd], effs := [.fer func f.md.toNat f.tag.toNat 0 (c.k f.rd)] })

def actFLOCK (c : NibCtx) (f : FFmt) : NibAct := ferLockAct c 0 f
def actFLOCKNB (c : NibCtx) (f : FFmt) : NibAct := ferLockAct c 1 f

/-- FUNLOCK: held until every tag is clear (R290). -/
def actFUNLOCK (c : NibCtx) (f : FFmt) : NibAct :=
  ferForm c (f.rd == 0 && f.ra == 0 && f.rb == 0 && f.md == 0)
    (match c.s.ferHeld c.i with
     | none => ferFault c 0x18
     | some h => { cls := 0, hold := c.s.tagsBusy h ≠ 0, effs := [.fer 2 0 0 0 0] })

/-- FWAIT: one tag or all tags (R297). A thread that holds no Ferrule has no tag to wait for and reads 0. -/
def actFWAIT (c : NibCtx) (f : FFmt) : NibAct :=
  ferForm c (f.ra == 0 && f.rb == 0 && ! bitOf f.md.toNat 1)
    (match c.s.ferHeld c.i with
     | none => { cls := 0, uses := [c.k f.rd], effs := [.reg (c.k f.rd) 0 4] }
     | some h =>
       let busy := if f.md = 0 then bitOf (c.s.tagsBusy h) f.tag.toNat else c.s.tagsBusy h ≠ 0
       { cls := 0, hold := busy, uses := [c.k f.rd],
         effs := [.reg (c.k f.rd) (if f.md = 0 then sget (c.s.ferSt h).last f.tag.toNat 0
                                   else c.s.fld (Reg.FER_STATUS h) 15 8) 4] })

/-- FGET (R298). -/
def actFGET (c : NibCtx) (f : FFmt) : NibAct :=
  ferForm c (f.ra == 0 && f.rb == 0 && f.md == 0)
    (match c.s.ferHeld c.i with
     | none => { cls := 0, uses := [c.k f.rd], effs := [.reg (c.k f.rd) 0 4] }
     | some h => { cls := 0, uses := [c.k f.rd], hold := (c.s.ferSt h).queue.isEmpty && c.s.tagsBusy h ≠ 0,
                   effs := [.fer 4 0 0 0 (c.k f.rd)] })

/-- FSAVE and FRESTORE (R304): the holder only; a 64-byte-aligned address in the own Quire's Inkwell, else BUS_ERROR. -/
def ferMove (c : NibCtx) (func : Nat) (f : FFmt) : NibAct :=
  if c.s.ferHeld c.i ≠ some (ferOf c f.md) then ferFault c 0x18
  else if c.r f.ra % 64 ≠ 0 || ! inQuireInk (c.i / 16) (c.r f.ra) || ! c.s.nibAdmits c.i (c.r f.ra) 64 then
    { cls := 0, effs := [.fault cBUS_ERROR (c.r f.ra)] }
  else { cls := 0, uses := [c.k f.ra], effs := .fer func f.md.toNat 0 (c.r f.ra) 0 :: c.wait }

def actFSAVE (c : NibCtx) (f : FFmt) : NibAct :=
  ferForm c (f.rd == 0 && f.rb == 0) (c.x.priv (ferMove c 5 f))
def actFRESTORE (c : NibCtx) (f : FFmt) : NibAct :=
  ferForm c (f.rd == 0 && f.rb == 0 && ! bitOf f.md.toNat 1) (c.x.priv (ferMove c 6 f))

/-- A compute command: the holder with its own configuration; held while its tag is busy or fewer regions are free than it
needs (R287, R299, R303). -/
def ferCompute (c : NibCtx) (major func : Nat) (f : FFmt) : NibAct :=
  match c.ferCheck with
  | some e => { cls := 0, effs := [e] }
  | none =>
    let h := (c.s.ferHeld c.i).getD 0
    let cfg := (List.range 16).map (c.s.fcfg h)
    let cmd := FerCmd.mk major func f.md.toNat f.tag.toNat (c.r f.rd) (c.r f.ra) (c.r f.rb) (f.rb == 0) cfg (c.s.nibTag c.i) []
    let regs := c.s.ferRegions cmd
    let inUse := ((c.s.ferSt h).cmds.flatMap (·.regions)).length
    { cls := 0, uses := [c.k f.rd, c.k f.ra, c.k f.rb],
      hold := bitOf (c.s.tagsBusy h) f.tag.toNat || 4 < inUse + regs.length,
      effs := [.ferCmd { cmd with regions := regs }] }

def actFMUL (c : NibCtx) (f : FFmt) : NibAct := ferCompute c 0x3D 0 f
def actFHERM (c : NibCtx) (f : FFmt) : NibAct := ferForm c (! bitOf f.md.toNat 1) (ferCompute c 0x3D 1 f)
def actFCHOL (c : NibCtx) (f : FFmt) : NibAct := ferForm c (f.md == 0 && f.rb == 0) (ferCompute c 0x3E 0 f)
def actFTRSM (c : NibCtx) (f : FFmt) : NibAct := ferForm c (! bitOf f.md.toNat 1) (ferCompute c 0x3E 1 f)
def actFQR (c : NibCtx) (f : FFmt) : NibAct := ferForm c (f.md == 0) (ferCompute c 0x3E 2 f)
def actFINV (c : NibCtx) (f : FFmt) : NibAct := ferForm c (! bitOf f.md.toNat 1 && f.rb == 0) (ferCompute c 0x3E 3 f)
def actFEIG (c : NibCtx) (f : FFmt) : NibAct := ferForm c (f.md == 0) (ferCompute c 0x3E 4 f)

end Sys2Proof.Machine
end

