-- ==== Sys2Proof/Machine/Colophon.lean ====
section
/-! DEFINITION. Byte strings and the Colophon (R572, R573), the flash and its directory (R576 to R578). -/

namespace Sys2Proof.Machine

/-! ## Byte strings -/

/-- n bytes of a byte string from an offset. -/
def cutB (bs : List Byte) (o n : Nat) : List Byte := (bs.drop o).take n

/-- An n-byte little-endian field of a byte string. -/
def numB (bs : List Byte) (o n : Nat) : Nat := leNat (cutB bs o n)

/-- n zero bytes. -/
def zeros (n : Nat) : List Byte := List.replicate n 0

/-- The n output bytes of a cryptographic operation on its inputs. -/
def cryptOut (k : Nat) (xs : List (List Byte)) (n : Nat) : List Byte := (List.range n).map (Config.cryptByte k xs)

/-- The unit number as the 8 bytes that UNIT_HASH covers. -/
def unitBytes : List Byte := leBytes 8 Config.unitNumber.toNat

/-- The bit of this stepping, B1, in a STEPPING_MASK (R1, R32). -/
def steppingBit : Nat := 5

/-! ## The Colophon -/

/-- Length of a Colophon. -/
def colLen : Nat := 7680

/-- Steps 1 to 5 of R573 on an image and its Colophon. -/
def State.colophon (s : State) (img c : List Byte) : Nat :=
  let key := numB c 9 1
  let msg := img ++ cutB c 0 0xB88
  if ! (c.length == colLen && numB c 0 4 == 0x4C4F4331 && numB c 5 1 == 1 && numB c 6 2 == colLen) then St.VERSION_MISMATCH
  else if ! (key < 4 && ! s.chp.revoked.contains key && Config.sha384 (cutB c 0x100 2696) == Config.rootHash key) then St.SIGNATURE_FAIL
  else if ! (cutB c 0x20 48 == Config.sha384 img) then St.SIGNATURE_FAIL
  else if ! (Config.cryptOk 4 [cutB c 0x100 104, msg, cutB c 0xB88 96] && Config.cryptOk 5 [cutB c 0x168 2592, msg, cutB c 0xBE8 4632])
  then St.SIGNATURE_FAIL
  else if ! (numB c 0xC 2 == 0x9648 && bitOf (numB c 0xE 2) steppingBit && (! bitOf (numB c 0xA 2) 1 || cutB c 0x50 48 == Config.sha384 unitBytes))
  then St.BINDING_FAIL
  else St.OK

/-! ## The header of a Vellum -/

namespace VlmSt
def MALFORMED : Nat := 0x80
def CONFLICT : Nat := 0x81
def OVERCOMMIT : Nat := 0x82
def SCOPE : Nat := 0x83
def ROLLBACK : Nat := 0x84
end VlmSt

/-- Step 1 of R51 (R32, R33, R633): status and offset of the faulty field. part: whether PARTIAL must be 1. -/
def vlmHeader (bs : List Byte) (part : Bool) : Nat × Nat :=
  let total := numB bs 8 4
  let count := numB bs 0x14 4
  let flags := numB bs 0x1A 2
  if numB bs 0 4 ≠ 0x564C4D31 then (VlmSt.MALFORMED, 0)
  else if numB bs 5 1 ≠ 1 then (St.VERSION_MISMATCH, 4)
  else if numB bs 6 2 ≠ 64 then (VlmSt.MALFORMED, 6)
  else if numB bs 0x1C 4 ≠ 64 then (VlmSt.MALFORMED, 0x1C)
  else if total % 8 ≠ 0 || total < 64 + 8 * count then (VlmSt.MALFORMED, 8)
  else if count < 2 || 65535 < count then (VlmSt.MALFORMED, 0x14)
  else if flags / 2 ≠ 0 then (VlmSt.MALFORMED, 0x1A)
  else if numB bs 0x28 24 ≠ 0 then (VlmSt.MALFORMED, 0x28)
  else if bs.length < total then (VlmSt.MALFORMED, 8)
  else if (flags == 1) ≠ part then (St.BAD_PARAM, 0x1A)
  else if (if part then 2 ^ 20 else 2 ^ 24) < total then (St.BAD_PARAM, 8)
  else (St.OK, 0)

/-! ## Flash -/

/-- One byte of flash: what the device has written there, else what the factory left. -/
def State.flByte (s : State) (a : Nat) : Byte := sget s.pal.flash a (Config.flashByte a)

/-- n bytes of flash. -/
def State.flBytes (s : State) (a n : Nat) : List Byte := (List.range n).map fun k => s.flByte (a + k)

/-- Palimpsest's state replaced. -/
def State.setPal (s : State) (p : PalState) : State := { s with pal := p }

/-- A byte string set in flash (erased and programmed). -/
def State.flSet (s : State) (a : Nat) : List Byte → State
  | [] => s
  | b :: r => State.flSet (s.setPal { s.pal with flash := sput s.pal.flash a b (Config.flashByte a) }) (a + 1) r

/-- Offset and size of a component's region (R577), components in counter order. -/
def flRegion (c : Nat) : Nat × Nat :=
  match c with
  | 0 => (0x1A00000, 0x1000000)
  | 1 => (0x2A00000, 0x800000)
  | 2 => (0x3200000, 0x800000)
  | 3 => (0x3A00000, 0x400000)
  | 4 => (0x1900000, 0x100000)
  | _ => (0x3E00000, 0x1400000)

/-- Whether directory copy k is valid. -/
def State.dirValid (s : State) (k : Nat) : Bool :=
  let d := s.flBytes (0x10000 * k) 0xF8
  numB d 0 4 == 0x52494431 && Config.sha384 (cutB d 0 0xC8) == cutB d 0xC8 48

/-- SEQ of directory copy k. -/
def State.dirSeqOf (s : State) (k : Nat) : Nat := leNat (s.flBytes (0x10000 * k + 4) 4)

/-- The directory copy that rules; none when neither is valid. -/
def State.dirRules (s : State) : Option Nat :=
  if s.dirValid 0 && s.dirValid 1 then some (if s.dirSeqOf 0 < s.dirSeqOf 1 then 1 else 0)
  else if s.dirValid 0 then some 0 else if s.dirValid 1 then some 1 else none

/-- SEQ of the ruling directory. -/
def State.dirSeq (s : State) : Nat := s.dirRules.elim 0 s.dirSeqOf

/-- The ruling entry of component c: IMAGE_LEN, VERSION, STATE (0 EMPTY, 1 ACTIVE, 2 TRIAL). -/
def State.dirEntry (s : State) (c : Nat) : Nat × Nat × Nat :=
  match s.dirRules with
  | some k =>
    let e := s.flBytes (0x10000 * k + 8 + 32 * c) 9
    (numB e 0 4, numB e 4 4, numB e 8 1)
  | none => (0, 0, 0)

/-- A directory with component c's entry changed, written to the other copy with SEQ + 1. -/
def State.dirWrite (s : State) (c len version st : Nat) : State :=
  let k := s.dirRules
  let seq := (s.dirSeq + 1) % 2 ^ 32
  let old := k.elim (zeros 192) fun k => s.flBytes (0x10000 * k + 8) 192
  let entry := leBytes 4 len ++ leBytes 4 version ++ leBytes 1 st ++ zeros 23
  let body := leBytes 4 0x52494431 ++ leBytes 4 seq ++ cutB old 0 (32 * c) ++ entry ++ old.drop (32 * c + 32)
  s.flSet (0x10000 * (1 - k.getD 1)) (body ++ Config.sha384 body)

/-- Bytes from the start of a component's image to its Colophon: for VELM the SIGNATURE record's header lies between (R572). -/
def colOffset (comp len : Nat) : Nat := if comp = 5 then len + 8 else len

/-- The installed image of component c passes R573 (the anti-rollback step included) in the role of c. -/
def State.installedOk (s : State) (c : Nat) : Bool :=
  let e := s.dirEntry c
  let a := (flRegion c).1
  let col := s.flBytes (a + colOffset c e.1) colLen
  e.2.2 ≠ 0 && colOffset c e.1 + colLen ≤ (flRegion c).2 && numB col 0x10 4 == e.1 && numB col 8 1 == c
    && s.colophon (s.flBytes a e.1) col == St.OK && (c == 5 || s.rdN (Reg.CHP_ARB c) ≤ numB col 0x18 4)

/-! ## Registers of PAL that follow the state -/

/-- State of R579: 0 IDLE, 1 STAGED, 2 WRITING, 3 ACTIVATING, 4 TRIAL, 5 RESTORING. -/
def State.palMode (s : State) : Nat := s.fld Reg.PAL_STATE 31 29

/-- Seconds of the trial left (PAL.TRIAL_LEFT), rounded up. -/
def State.trialLeft (s : State) : Nat :=
  if s.palMode = 4 then (s.pal.at_ - s.chp.clk + 10 ^ 9 - 1) / 10 ^ 9 else 0

/-- A write of FL_CMD: no effect while BUSY. -/
def State.flStart (s : State) (op : Nat) : State :=
  if s.bit Reg.PAL_FL_STAT 31 then s else
  (s.setPal { s.pal with fl := some (op, s.rdN Reg.PAL_FL_ADDR, s.rdN Reg.PAL_FL_LEN, cat64 (s.rd Reg.PAL_FL_BUF_LO) (s.rd Reg.PAL_FL_BUF_HI)) }).wrN
    Reg.PAL_FL_STAT (2 ^ 31)

end Sys2Proof.Machine
end

