-- ==== Sys2Proof/Machine/EvtOps.lean ====
section
/-! DEFINITION. Registers of the event router and the Blotters that single effects have (R605, R613, R614). -/

namespace Sys2Proof.Machine

/-- Whether event e is pending for control core c: its PEND bit, and a present route that names the core. -/
def State.coreSees (s : State) (c e : Nat) : Bool :=
  s.bit (Reg.EVT_PEND (e / 32)) (e % 32) && s.bit (Reg.EVT_ROUTE_W0 e) 31 && s.fld (Reg.EVT_ROUTE_W0 e) 26 24 == c

/-- CORE[c].NEXT: the lowest event pending for core c, or 0x400. -/
def State.coreNext (s : State) (c : Nat) : Nat := ((List.range 1024).find? (s.coreSees c)).getD 0x400

/-- CFG.CLEAR of Blotter n: WPTR and RPTR become 0. -/
def State.bltClear (s : State) (n : Nat) : State := (s.wr (Reg.BLT_WPTR n) 0).wr (Reg.BLT_RPTR n) 0

/-- CFG of Blotter n written: CLEAR acts and reads 0. -/
def State.bltConfig (s : State) (n : Nat) (v : W32) : State :=
  let s := if wbit v 29 then s.bltClear n else s
  (s.setFld (Reg.BLT_CFG n) 31 30 (wfld v 31 30)).setFld (Reg.BLT_CFG n) 29 29 0

end Sys2Proof.Machine
end

