-- ==== Sys2Proof/Machine/Dsp.lean ====
section
/-! DEFINITION. Signal arithmetic shared by the vector unit and the accelerators: rounding and saturation (R243, R244),
transforms (R332, R333), soft demapping (R336), rate recovery (R334) and the scrambling sequence. -/

namespace Sys2Proof.Machine

/-! ## Rounding and saturation -/

/-- Integer shifted right by sh bits, to nearest with ties to even (R243 under RNE). -/
def roundEven (x : Int) (sh : Nat) : Int :=
  let q := x / 2 ^ sh
  let r := x % 2 ^ sh
  if 2 * r < 2 ^ sh then q else if 2 ^ sh < 2 * r then q + 1 else if q % 2 = 0 then q else q + 1

/-- Clamp to W-bit two's complement (R244). -/
def satS (w : Nat) (y : Int) : Int := max (-(2 ^ (w - 1) : Int)) (min y (2 ^ (w - 1) - 1))

/-- Clamp to W-bit unsigned. -/
def satU (w : Nat) (y : Int) : Int := max 0 (min y (2 ^ w - 1))

/-! ## Sines and cosines

Values are fixed-point integers with 128 fraction bits, from the power series with 160 bits. A result that lies within
2^-60 of a rounding boundary is taken to lie on it: the exact values of R333 are sums of roots of unity (notes/assumptions/8.md). -/

/-- π times 10^62, rounded down. -/
def piNum : Nat := 314159265358979323846264338327950288419716939937510582097494459

/-- Terms of a power series: each is the last times −t²/((m+1)(m+2)), in 2^-160. -/
def series (t2 : Int) : Nat → Nat → Int → Int → Int
  | 0, _, _, acc => acc
  | n + 1, m, term, acc =>
    let next := -(term * t2 / 2 ^ 160) / ((m + 1) * (m + 2) : Nat)
    series t2 n (m + 2) next (acc + term)

/-- cos and sin of π x / (4 n), for 0 ≤ x ≤ n, in 2^-128. -/
def cosEighth (n x : Nat) : Int :=
  let t : Int := (piNum * x * 2 ^ 160 / (10 ^ 62 * (4 * n)) : Nat)
  series (t * t / 2 ^ 160) 30 0 (2 ^ 160) 0 / 2 ^ 32

def sinEighth (n x : Nat) : Int :=
  let t : Int := (piNum * x * 2 ^ 160 / (10 ^ 62 * (4 * n)) : Nat)
  series (t * t / 2 ^ 160) 30 1 t 0 / 2 ^ 32

/-- cos(2πk/n) in 2^-128. -/
def cosTurn (n : Nat) (k : Int) : Int :=
  let a := 8 * (k % n).toNat
  let x := a % n
  match a / n with
  | 0 => cosEighth n x
  | 1 => sinEighth n (n - x)
  | 2 => -(sinEighth n x)
  | 3 => -(cosEighth n (n - x))
  | 4 => -(cosEighth n x)
  | 5 => -(sinEighth n (n - x))
  | 6 => sinEighth n x
  | _ => cosEighth n (n - x)

/-- sin(2πk/n) in 2^-128: the cosine a quarter turn back. -/
def sinTurn (n : Nat) (k : Int) : Int := cosTurn (4 * n) (4 * k - n)

/-- A value with 142 fraction bits shifted right by s and rounded to the nearest integer, ties to even, a value within 2^82
of a tie (2^-60) counting as one. -/
def roundFar (v : Int) (s : Nat) : Int :=
  let n := 142 + s
  let q := v / 2 ^ n
  let d := 2 * (v % 2 ^ n) - 2 ^ n
  if d < -(2 ^ 82) then q else if 2 ^ 82 < d then q + 1 else if q % 2 = 0 then q else q + 1

/-! ## Transforms (R332, R333) -/

/-- A complex sample. -/
abbrev Cx := Int × Int

def cmul (a b : Cx) : Cx := (a.1 * b.1 - a.2 * b.2, a.1 * b.2 + a.2 * b.1)
def cadd (a b : Cx) : Cx := (a.1 + b.1, a.2 + b.2)

/-- The sample of a cint16 word: real part low, imaginary part high. -/
def cint16 (w : Nat) : Cx := (signed 16 w, signed 16 (w / 65536))

/-- The cint16 word of a sample already within range. -/
def cint16Word (c : Cx) : Nat := unsigned 16 c.1 + 65536 * unsigned 16 c.2

/-- e^(j 2π k / n) in 2^-128. -/
def turn (n : Nat) (k : Int) : Cx := (cosTurn n k, sinTurn n k)

/-- Bin k of the forward transform of samples x_0, x_1, …: the sum of x_i e^(−j2πki/n), the half-bin shift included, with 142
fraction bits; ph is the symbol's phase in 2^-14. -/
def forwardBin (n : Nat) (half : Bool) (xs : List Cx) (ph : Cx) (k : Int) : Cx :=
  let sum := (xs.zipIdx).foldl (fun (a : Cx) p =>
    cadd a (cmul p.1 (turn (2 * n) (((if half then 1 else 0) - 2 * k) * (p.2 : Int))))) (0, 0)
  cmul sum ph

/-- Sample i of the inverse transform of bins (index, value), with 142 fraction bits. -/
def inverseSample (n : Nat) (half : Bool) (bins : List (Int × Cx)) (ph : Cx) (i : Nat) : Cx :=
  let sum := bins.foldl (fun (a : Cx) p =>
    cadd a (cmul p.2 (turn (2 * n) ((2 * p.1 + (if half then 1 else 0)) * (i : Int))))) (0, 0)
  cmul sum ph

/-- Whether a component clamps to 16 bits at shift s. -/
def clamps (c : Cx) (s : Nat) : Bool :=
  decide (satS 16 (roundFar c.1 s) ≠ roundFar c.1 s) || decide (satS 16 (roundFar c.2 s) ≠ roundFar c.2 s)

/-- Shift of a symbol (R333): SCALE, or under AUTO the smallest of at least SCALE at which nothing clamps. -/
def symShift (auto : Bool) (scale : Nat) (cs : List Cx) : Nat :=
  if auto then ((List.range 64).find? fun k => ! cs.any fun c => clamps c (scale + k)).elim scale (scale + ·) else scale

/-- The words of a symbol at a shift. -/
def symWords (s : Nat) (cs : List Cx) : List Nat :=
  cs.map fun c => cint16Word (satS 16 (roundFar c.1 s), satS 16 (roundFar c.2 s))

/-! ## Scrambling sequence (38.211 §5.2.1, named by R336) -/

/-- One step of a length-31 shift register with feedback taps, oldest bit lowest. -/
def lfsr (taps : List Nat) (x : Nat) : Nat :=
  x / 2 + 2 ^ 30 * (taps.foldl (fun b t => b ^^^ (x / 2 ^ t % 2)) 0)

/-- n steps of both registers from their start. -/
def goldState (cinit : Nat) (n : Nat) : Nat × Nat :=
  (List.range n).foldl (fun p _ => (lfsr [3, 0] p.1, lfsr [3, 2, 1, 0] p.2)) (1, cinit % 2 ^ 31)

/-- c(m) to c(m + len − 1). -/
def gold (cinit m len : Nat) : List Bool :=
  ((List.range len).foldl (fun (a : (Nat × Nat) × List Bool) _ =>
    ((lfsr [3, 0] a.1.1, lfsr [3, 2, 1, 0] a.1.2), xor (bitOf a.1.1 0) (bitOf a.1.2 0) :: a.2))
    (goldState cinit (1600 + m), [])).2.reverse

/-! ## Soft demapping (R336), constellations of 38.211 §5.1 -/

/-- Unnormalised coordinate that the bits of one axis select, first bit the sign: 1, 2 − …, as the nested form of 38.211. -/
def axisVal : List Bool → Int
  | [] => 1
  | b :: r => (if b then -1 else 1) * (2 ^ r.length - (if r.isEmpty then 0 else axisVal r))

/-- Sum of squares by which a constellation is normalised: 2, 10, 42, 170, 682. -/
def qamNorm (qm : Nat) : Nat := 2 * (4 ^ (qm / 2) - 1) / 3

/-- Square root of n·2^256, rounded down: √n in 2^-128. -/
def sqrtFix (n : Nat) : Nat := Nat.sqrt (n * 2 ^ 256)

/-- |y − s|² − |y|² for a point a of one axis and y in units of 2^-13, in 2^-128: a²·2^26/norm − 2·y·a·2^13/√norm. -/
def axisMetric (norm : Nat) (y a : Int) : Int :=
  a * a * 2 ^ 26 * 2 ^ 128 / norm - 2 * y * a * 2 ^ 13 * (sqrtFix norm : Int) / norm

/-- All bit patterns of n bits. -/
def patterns : Nat → List (List Bool)
  | 0 => [[]]
  | n + 1 => (patterns n).flatMap fun p => [false :: p, true :: p]

/-- Least metric of one axis over the patterns whose bit k is b. -/
def axisBest (norm bits k : Nat) (b : Bool) (y : Int) : Int :=
  let ms := ((patterns bits).filter fun p => p.getD k false == b).map fun p => axisMetric norm y (axisVal p)
  match ms with
  | [] => 0
  | m :: r => r.foldl min m

/-- Λ of bit b of a symbol, with 128 fraction bits: bits alternate between the real and the imaginary axis. For π/2-BPSK the
point is (1 − 2b)(1 + j)/√2, turned by π/2 for an odd index. -/
def demapMetric (qm : Nat) (odd : Bool) (y : Cx) (b : Nat) : Int :=
  if qm = 1 then
    let d := if odd then y.2 - y.1 else y.1 + y.2
    -- min over b = 1 minus min over b = 0: 4 · d · 2^13 / √2
    4 * d * 2 ^ 13 * (sqrtFix 2 : Int) / 2
  else
    let n := qamNorm qm
    let bits := qm / 2
    let v := if b % 2 = 0 then y.1 else y.2
    axisBest n bits (b / 2) true v - axisBest n bits (b / 2) false v

/-- LLR of a metric times a weight, shifted by sh and rounded, clamped to ±127; whether it clamped. -/
def demapLlr (metric : Int) (w sh : Nat) : Int × Bool :=
  let x := metric * w
  let n := 128 + sh
  let q := x / 2 ^ n
  let d := 2 * (x % 2 ^ n) - 2 ^ n
  let v := if d < -(2 ^ 68) then q else if 2 ^ 68 < d then q + 1 else if q % 2 = 0 then q else q + 1
  (max (-127) (min v 127), decide (v < -127) || decide (127 < v))

/-! ## Soft buffers and rate recovery (R326, R334) -/

/-- Width of an LLR in a soft buffer. -/
def llrWidth (fmt : Nat) : Nat := if fmt = 0 then 8 else if fmt = 1 then 6 else 4

/-- Bytes of one segment of a soft buffer. -/
def segBytes (ncb fmt : Nat) : Nat := ((ncb * llrWidth fmt + 7) / 8 + 63) / 64 * 64

/-- Value m of a segment's bytes. -/
def llrAt (fmt : Nat) (seg : List Byte) (m : Nat) : Int :=
  if fmt = 0 then signed 8 (seg.getD m 0).toNat
  else if fmt = 1 then signed 6 (leNat ((seg.drop (m / 4 * 3)).take 3) / 2 ^ (6 * (m % 4)))
  else signed 4 ((seg.getD (m / 2) 0).toNat / 2 ^ (4 * (m % 2)))

/-- Bytes of a segment from its values. -/
def llrPack (fmt : Nat) (vs : List Int) : List Byte :=
  let n := segBytes vs.length fmt
  let w := llrWidth fmt
  let all := (vs.zipIdx).foldl (fun t p => t + unsigned w p.1 * 2 ^ (w * p.2)) 0
  leBytes n all

/-- An int8 LLR, −128 read as −127, in a soft buffer's width: sat_w(round_shift(x, 8 − w)). -/
def llrConvert (fmt : Nat) (x : Int) : Int :=
  satS (llrWidth fmt) (roundEven (max (-127) x) (8 - llrWidth fmt))

/-- k0 of 38.212 Table 5.4.2.1-2. -/
def k0nr (bg z ncb rv : Nat) : Nat :=
  let full := if bg = 0 then 66 else 50
  let m := if bg = 0 then [0, 17, 33, 56] else [0, 13, 25, 43]
  (m.getD rv 0 * ncb / (full * z)) * z

/-- Filler positions of the circular buffer of 38.212 §5.4.2: bits K − F to K − 1 less the 2Z punctured columns. -/
def fillerNr (bg z f p : Nat) : Bool :=
  let k := (if bg = 0 then 22 else 10) * z
  k - f - 2 * z ≤ p && p < k - 2 * z

/-- Column permutation of 36.212 Table 5.1.4-1. -/
def ltePerm : List Nat := [0, 16, 8, 24, 4, 20, 12, 28, 2, 18, 10, 26, 6, 22, 14, 30, 1, 17, 9, 25, 5, 21, 13, 29, 3, 19, 11, 27, 7, 23,
  15, 31]

/-- NULL positions of the circular buffer of 36.212 §5.1.4.1.2 for a block of K bits with f filler bits. -/
def nullLte (k f p : Nat) : Bool :=
  let d := k + 4
  let r := (d + 31) / 32
  let kp := 32 * r
  let nd := kp - d
  let at0 := fun i => ltePerm.getD (i / r) 0 + 32 * (i % r)
  let dead := fun (stream i : Nat) => i < nd || (stream < 2 && i - nd < f)
  if p < kp then dead 0 (at0 p)
  else if (p - kp) % 2 = 0 then dead 1 (at0 ((p - kp) / 2))
  else dead 2 ((at0 ((p - kp) / 2) + 1) % kp)

/-- k0 of 36.212 §5.1.4.1.2. -/
def k0lte (k ncb rv : Nat) : Nat :=
  let r := (k + 4 + 31) / 32
  r * (2 * ((ncb + 8 * r - 1) / (8 * r)) * rv + 2)

/-- The positions of a circular buffer in the order received LLRs land, from k0, skipping some. -/
def landing (ncb k0 n : Nat) (skip : Nat → Bool) : List Nat :=
  let order := ((List.range ncb).map fun i => (k0 + i) % ncb).filter fun p => ! skip p
  if order.isEmpty then [] else (List.range n).map fun i => order.getD (i % order.length) 0

/-- LLRs de-interleaved over QM: entry i + j·QM of the received order is entry j + i·(E/QM) of the coded order. -/
def deinterleave (qm : Nat) (xs : List Int) : List Int :=
  let e := xs.length
  (List.range e).map fun n => xs.getD (n / (e / qm) + n % (e / qm) * qm) 0

/-- One block combined: every position gets the old value plus all that lands on it, clamped; how many clamped. -/
def combineBlock (fmt : Nat) (old : List Int) (lands : List Nat) (xs : List Int) : List Int × Nat :=
  let adds := lands.zip xs
  let sums := (old.zipIdx).map fun p =>
    adds.foldl (fun t a => if a.1 = p.2 then t + llrConvert fmt a.2 else t) p.1
  let w := llrWidth fmt
  (sums.map (satS w), (sums.filter fun v => satS w v ≠ v).length)

end Sys2Proof.Machine
end

