-- ==== Sys2Proof/Machine/Ordinator.lean ====
section
/-! DEFINITION. The Ordinator's commands and events (chapter 4, rows FOLIO_SUBMIT to HARQ_DEMOTION_START). -/

namespace Sys2Proof.Machine

/-- Status codes of R158. -/
def ORD_NO_TEMPLATE : Nat := 0x80
def ORD_HORIZON : Nat := 0x81
def ORD_INFEASIBLE : Nat := 0x82
def ORD_PIN_FENCED : Nat := 0x83
def ORD_HARQ_FULL : Nat := 0x84

/-- A template of a realm. -/
def State.template (s : State) (r id : Nat) : Option VRec := (s.recs 0x30 r).find? fun t => t.num 8 2 == id

/-- Signed 32-bit field of a record. -/
def VRec.int (r : VRec) (o : Nat) : Int := signed 32 (r.num o 4)

/-- Start of the target slot (R130): the first instant at or after `now` at which (SFN, SLOT) starts on a grid. -/
def State.targetStart (s : State) (g sfn slot : Nat) (now : Int) : Int :=
  let ty := s.gridTy g
  let cp := s.gridCp g
  let at_ := fun F : Int => (s.frameStart g F + symStart ty cp slot 0 + 65535) / 65536
  let F0 := s.frameAt g (65536 * now)
  let F1 := if at_ (F0 - 1) ≥ now then F0 - 1 else if at_ F0 ≥ now then F0 else F0 + 1
  at_ (F1 + ((sfn : Int) - F1) % 1024)

/-- Entries of a realm's completion queue that are taken (R154). -/
def State.cqTaken (s : State) (r : Nat) : Nat :=
  let k := s.cqSize r
  (s.ord.folios.filter (·.realm == r)).length +
    (s.fld (Reg.ORD_RLM_CQ_PROD r) 15 0 + k - s.fld (Reg.ORD_RLM_CQ_CONS r) 15 0) % max k 1

/-- The Folio that a FOLIO_SUBMIT asks for, its instance number apart (R128 to R130). -/
def State.submitted (s : State) (d : Desc) (t : VRec) : Folio :=
  let r := d.tgt
  let g := t.num 0xE 1
  let tb := s.gridTb g
  let pol := bitsOf (d.n 3) 9 8
  let target := s.targetStart g (bitsOf (d.n 4) 29 20) (bitsOf (d.n 4) 19 12) (s.tbNs tb)
  { realm := r, inst := sget s.ord.nextInst r 0, tmpl := t, policy := if pol = 0 then t.num 0xF 1 else pol - 1,
    tag := s.load (s.descLocal (ringBase (.cmd d.ring))) 2, seq := d.seq.toNat, targetWord := Nat.land (d.n 4) 0x3FFFF000,
    slot := d.slotId, tb := tb, target := target, release := target + t.int 0x10, deadline := target + t.num 0x14 4,
    pblk := cat64 (d.word 5) (d.word 6), plen := bitsOf (d.n 7) 16 0, prio := s.realmNum r 0x1C 1, state := 0, tasks := [],
    objs := [], cb := 0, harq := [], errTask := 255, errStatus := 0, degraded := false, replaced := false, due := false }

/-- FOLIO_SUBMIT: checked at acceptance (R128, R130, R131, R154), then QUEUED; its slot ends at the decision. -/
def execFolioSubmit (d : Desc) (s : State) : Out :=
  let r := d.tgt
  let chk := fun s : State =>
    let t := s.template r (d.n 3 % 256)
    let basic := firstFail [need (r < 16) St.BAD_PARAM, runningCheck s d, notExpert s 0x60,
      need (d.n 3 < 1024 && d.n 7 ≤ 65536 && d.n 5 % 64 = 0) St.BAD_PARAM, need t.isSome ORD_NO_TEMPLATE]
    if basic.1 ≠ St.OK then basic else
    match t with
    | none => (ORD_NO_TEMPLATE, 0)
    | some t =>
      let f := s.submitted d t
      let now : Int := s.tbNs f.tb
      let slots := slotsPerFrame (s.gridTy (t.num 0xE 1))
      if bitsOf (d.n 4) 19 12 ≥ slots then (St.BAD_PARAM, 0)
      else if f.target - now > 8 * (10000000 / slots : Nat) || f.release - now < 20000 then (ORD_HORIZON, 0)
      else if 1024 ≤ s.queued.length then (St.NO_RESOURCE, 2)
      else if s.cqSize r ≤ s.cqTaken r + 1 then (St.NO_RESOURCE, 3)
      else (St.OK, 0)
  .next (command 0x10 d chk (fun s =>
    match s.template r (d.n 3 % 256) with
    | none => s
    | some t =>
      let f := s.submitted d t
      (s.setOrd { s.ord with folios := s.ord.folios ++ [f], nextInst := sput s.ord.nextInst r ((f.inst + 1) % 0xFFFF) 0 }).ordSync) s)

/-! ## The decision -/

/-- Status of a device read that does not succeed; OK when it does. -/
def State.readStatus (s : State) (g n : Nat) : Nat :=
  match s.localOf g with
  | none => St.FABRIC_UNREACHABLE
  | some a => if ! s.memOk a n then St.ACCESS_DENIED else if s.poisoned a n then St.POISONED
    else if s.lost a n then St.RETENTION_LOST else St.OK

/-- The Folio at the head of the queue: highest PLACE_PRIO, then first accepted (R131). -/
def State.headFolio (s : State) : Option Folio :=
  s.queued.foldl (fun b f => match b with
    | none => some f
    | some g => if g.prio < f.prio then some f else some g) none

/-- The parameter block read (R129): bindings (object, size, address), overrides (task, WIDTH, COST) and HARQ keys; or the
refusal status. -/
def State.readPblk (s : State) (f : Folio) : Except Nat (List (Nat × Nat × Nat) × List (Nat × Nat × Nat) × List Nat) :=
  if f.pblk = 0 then .ok ([], [], []) else
  if f.plen < 16 then .error St.BAD_PARAM else
  let st := s.readStatus f.pblk 16
  if st ≠ St.OK then .error st else
  let a := (s.localOf f.pblk).getD 0
  let nb := s.load a 1
  let no := s.load (a + 1) 1
  let nh := s.load (a + 2) 2
  let len := 16 + 16 * nb + 8 * no + 8 * nh
  if 64 < nb || 64 < no || 1024 < nh || f.plen < len then .error St.BAD_PARAM else
  let st := s.readStatus f.pblk len
  if st ≠ St.OK then .error st else
  let o := a + 16 + 16 * nb
  let h := o + 8 * no
  .ok ((List.range nb).map fun k => (s.load (a + 16 + 16 * k) 1, s.load (a + 16 + 16 * k + 4) 4, s.load (a + 16 + 16 * k + 8) 8),
    (List.range no).map fun k => (s.load (o + 8 * k) 1 % 64, s.load (o + 8 * k + 1) 1, s.load (o + 8 * k + 4) 4),
    (List.range nh).map fun k => s.load (h + 8 * k) 8)

/-- Whether a WIDTH is in range for a class (R124). -/
def widthOk (cls w : Nat) : Bool := 1 ≤ w && (if cls = 0 then w ≤ 16 else if cls = 1 then w = 1 else w ≤ 255)

/-- Tasks and objects of an instance with its bindings and overrides; none for one that R129 refuses. -/
def Folio.bind (f : Folio) (bs os : List (Nat × Nat × Nat)) : Option Folio :=
  let t := f.tmpl
  let ext := fun k => bitOf (t.obj k 5 1) 0
  if bs.any (fun b => t.nobj ≤ b.1 || ! ext b.1) || os.any (fun o => t.ntask ≤ o.1 || ! widthOk (t.task o.1 0 1) o.2.1) ||
    (List.range t.nobj).any (fun k => ext k && ! bs.any (·.1 == k)) then none
  else
    let tasks := (List.range t.ntask).map fun k =>
      match os.find? (·.1 == k) with
      | some o => FTask.blank (t.task k 0 1) o.2.1 o.2.2
      | none => FTask.blank (t.task k 0 1) (t.task k 2 1) (t.task k 4 4)
    let objs := (List.range t.nobj).map fun k =>
      match bs.find? (·.1 == k) with
      | some b => FObj.mk b.2.2 b.2.1 (t.obj k 4 1) true 0
      | none => FObj.mk 0 (t.obj k 0 4) (t.obj k 4 1) false 0
    some { f with tasks := tasks, objs := objs }

/-- Tasks placed with or without their OPTIONAL ones, as the deadline and the policy have it (R140). -/
def State.placeWork (s : State) (f : Folio) (settled : List (Nat × Option (Nat × Int))) : Verdict :=
  let degrade :=
    match placeTasks true settled f.tmpl.order s f none with
    | .placed s2 f2 => if f2.predicted ≤ f.deadline then .placed s2 { f2 with degraded := true } else .refused ORD_INFEASIBLE 0 0xFF
    | v => v
  match placeTasks false settled f.tmpl.order s f none with
  | .placed s1 f1 =>
    if f1.predicted ≤ f.deadline || f.policy = 0 then .placed s1 f1
    else if f.policy = 1 then degrade else .refused ORD_INFEASIBLE 0 0xFF
  | .refused st dt t => if st = ORD_INFEASIBLE && f.policy = 1 then degrade else .refused st dt t
  | .offer t => .offer t

/-- The whole decision on a Folio: horizon, parameter block, tasks, objects, soft buffers, control block. -/
def State.judge (s : State) (f : Folio) (settled : List (Nat × Option (Nat × Int))) : Verdict :=
  let now : Int := s.tbNs f.tb
  if f.release < now + 2000 then .refused ORD_HORIZON 0 0xFF else
  match s.readPblk f with
  | .error st => .refused st 0 0xFF
  | .ok (bs, os, keys) =>
    match f.bind bs os with
    | none => .refused St.BAD_PARAM 0 0xFF
    | some f =>
      let harqObjs := (List.range f.objs.length).filter fun k => bitOf (f.tmpl.obj k 5 1) 2
      if keys.any (fun k => ! (HKey.of k).ok) ||
        harqObjs.any (fun k => ((f.objs[k]?).elim 0 (·.size)) < 16 * keys.length) then .refused St.BAD_PARAM 0 0xFF
      else if ! keys.isEmpty && s.expertHeld 0x260 then .refused St.BLOCK_IN_EXPERT 0 0xFF
      else
        match s.placeWork f settled with
        | .placed s f =>
          let off := s.toTb0 f.tb
          let lo := f.release + off
          let hi := f.predicted + off
          (match placeObjs lo hi (List.range f.objs.length) s f with
           | .placed s f =>
             let g := grantKeys lo hi keys 0 [] s f
             (match g.1 with
              | .placed s f =>
                let c := s.allocIn (s.placeable f.realm 8) (s.usedRanges (now + off) hi) 2112 64
                (match c.1 with
                 | none => .refused St.NO_RESOURCE 4 0xFF
                 | some a =>
                   let m : MBook := MBook.mk a 2112 f.realm f.inst 64 (now + off) hi
                   let s := c.2.setOrd { c.2.ord with mems := c.2.ord.mems ++ [m] }
                   let f := { f with cb := a, state := 1 }
                   let s := harqObjs.foldl (fun s k => (s.devWrite ((f.objs[k]?).elim 0 (·.addr)) g.2.flatten).getD s) s
                   .placed (s.cbWrite f) f)
              | v => v)
           | v => v)
        | v => v

/-- Peers to offer a task to (R504): reachable, in PLACE_MASK, by hop count and then device ID. -/
def State.peers (s : State) : List Nat :=
  let mask := ((s.recsAny 0x21).head?.elim 0 fun x => x.num 0x10 8)
  let ok := (List.range 64).filter fun d => bitOf mask d && s.bit (Reg.YLK_PEER_W0 0 d) 31
  (List.range 9).flatMap fun h => ok.filter fun d => s.fld (Reg.YLK_PEER_W0 0 d) 27 24 == h

/-- Trace records of a decision that placed a Folio (R155). -/
def State.traceFolio (s : State) (f : Folio) : State :=
  let s := (List.range f.tasks.length).foldl (fun s t =>
    let x := f.taskAt t
    s.ordTrace 1 f.realm f.inst f.tb (2 ^ 26 * t + 2 ^ 22 * x.reason + x.cls * 2 ^ 8 + x.unit % 256) (tsOf x.fin)) s
  (List.range f.objs.length).foldl (fun s k =>
    match f.objs[k]? with
    | none => s
    | some o => s.ordTrace 2 f.realm f.inst f.tb (2 ^ 26 * k + 2 ^ 22 * o.reason + o.addr / 2 ^ 32 % 65536) o.addr) s

/-- A Folio placed (R131, R132): its threads created, traced, its slot OK with handle and predicted end. -/
def State.decPlaced (s' : State) (f f' : Folio) : State :=
  let s := s'.setFolio f'
  let s := s.setOrd { s.ord with offer := none }
  let s := s.ordTrace 0 f.realm f.inst f.tb (f.tmpl.num 8 2) f.targetWord
  let s := s.traceFolio f'
  let s := (List.range f'.tasks.length).foldl (fun s t =>
    if (f'.taskAt t).peer.isNone && ! (f'.taskAt t).skipped then s.taskThreads f' t else s) s
  (s.slotEnd f.slot St.OK [w32 f.handle, w32 (tsOf f'.predicted)]).ordSync

/-- A Folio refused at its decision: no completion entry, its slot shows the status (R132). -/
def State.decRefused (s : State) (f : Folio) (st dt t : Nat) : State :=
  let s := s.setOrd { s.ord with offer := none, folios := s.ord.folios.filter fun g => ! (g.realm == f.realm && g.inst == f.inst) }
  let s := s.ordTrace 0 f.realm f.inst f.tb (f.tmpl.num 8 2) f.targetWord
  let s := s.ordTrace 8 f.realm f.inst f.tb (st + dt * 256) t
  ((s.bump (Reg.ORD_RLM_CNT_REFUSED f.realm) 1).slotEnd f.slot st []).ordSync

/-- A verdict carried out: an offer goes to the first of the peers. -/
def State.carry (s : State) (f : Folio) (settled : List (Nat × Option (Nat × Int))) : Verdict → State
  | .placed s' f' => s'.decPlaced f f'
  | .refused st dt t => s.decRefused f st dt t
  | .offer t =>
    match s.peers with
    | [] => s
    | p :: rest => s.setOrd { s.ord with offer := some (Offer.mk f.realm f.inst t p rest settled) }

/-- The decision on the head of the queue; one decision at a time (R122). With no peer to ask, no task is offered. -/
def execPlacementDecision (s : State) : Out :=
  if s.ord.offer.isSome then .next s else
  match s.headFolio with
  | none => .next s
  | some f =>
    let settled := if s.peers.isEmpty then (List.range 64).map fun k => (k, none) else []
    .next (s.carry f settled (s.judge f settled))

/-- The peer asked answers (R139): it takes the task and promises an end (ns from now), or the next peer is asked; a task
that no peer takes stays local. PEER record. -/
def execPeerOfferAnswer (accept : Bool) (finish : BitVec 32) (s : State) : Out :=
  match s.ord.offer with
  | none => .next s
  | some o =>
    match s.folio o.realm o.inst with
    | none => .next (s.setOrd { s.ord with offer := none })
    | some f =>
      let s := s.ordTrace 0xC f.realm f.inst f.tb (o.peer + (if accept then St.OK else ORD_INFEASIBLE) * 256) o.task
      let go := fun settled => s.carry f settled (s.judge f settled)
      .next (if accept then go (o.settled ++ [(o.task, some (o.peer, (s.tbNs f.tb : Int) + finish.toNat))])
        else match o.rest with
          | p :: rest => s.setOrd { s.ord with offer := some { o with peer := p, rest := rest } }
          | [] => go (o.settled ++ [(o.task, none)]))

/-- An offer from a peer (R504): a task entry of R124 for realm r, ready and due in ns from now. Accepted only when the
FABRIC_PLACE realm of the same number can place it in time; it is then booked. -/
def execPeerOfferReceived (peer : Fin 64) (r : Fin 16) (task : BitVec 128) (ready deadline : BitVec 32) (s : State) : Out :=
  let w := task.toNat
  let now : Int := s.tbNs 0
  let f : Folio := { realm := r, inst := 0x10000 + peer, tmpl := { typ := 0x30, realm := r, rflags := 0, bytes := [] }, policy := 0,
                     tag := 0, seq := 0, targetWord := 0, slot := { ring := 0, slot := 0 }, tb := 0, target := now,
                     release := now + ready.toNat, deadline := now + deadline.toNat, pblk := 0, plen := 0, prio := 0, state := 1,
                     tasks := [FTask.blank (bitsOf w 7 0) (bitsOf w 23 16) (bitsOf w 63 32)], objs := [], cb := 0, harq := [],
                     errTask := 255, errStatus := 0, degraded := false, replaced := false, due := false }
  let x := f.taskAt 0
  let ok := s.realmState r == 2 && s.realmFlag r 3 && x.cls ≤ 10 && widthOk x.cls x.width
  let fs := s.fits r (s.cands f 0 none none true) f.release (durNs x.cls x.cost)
  match (if ok then bestFit fs else none) with
  | some b =>
    if b.hi ≤ f.deadline then
      let s := (s.bookTask f 0 b (fitReason fs b) 0).1
      .next (s.setOrd { s.ord with answer := some (peer, true) })
    else .next (s.setOrd { s.ord with answer := some (peer, false) })
  | none => .next (s.setOrd { s.ord with answer := some (peer, false) })

/-! ## Release, deadline, cancel, query -/

/-- Objects of a Folio that overlap space held by Folios running past their predicted end are moved (R140): within the
carve-out, then down the tiers; none when no tier has space. -/
def State.moveObjs (f0 : Folio) : List Nat → State → Folio → Option (State × Folio)
  | [], s, f => some (s, f)
  | k :: rest, s, f =>
    match f.objs[k]? with
    | none => some (s, f)
    | some o =>
      let now : Int := s.tbNs 0
      let clash := ! o.ext && s.ord.mems.any fun m => ! (m.realm == f.realm && m.inst == f.inst) && m.hi < now &&
        m.addr < o.addr + o.size && o.addr < m.addr + m.size
      if ! clash then State.moveObjs f0 rest s f else
      let mine := fun m : MBook => m.realm == f.realm && m.inst == f.inst && m.obj == k
      let used := ((s.ord.mems.filter fun m => ! mine m && (m.hi < now || (m.lo < (f.predicted + s.toTb0 f.tb) && now < m.hi))).map
        fun m => (m.addr, m.size)) ++ s.ord.hbuf.map fun b => (b.addr, b.size)
      let align := 2 ^ f.tmpl.obj k 6 1
      let same := (s.carves f.realm).filter fun c => c.cBase ≤ o.addr && o.addr + o.size ≤ c.cBase + c.cSize
      let down := if bitOf (f.tmpl.obj k 5 1) 1 then [] else
        (List.range 4).filter (o.tier < ·)
      let tries : List (Nat × List VRec) := (o.tier, same) :: down.map fun t =>
        (t, (tierCode t f.home).elim [] (s.placeable f.realm))
      let got := tries.foldl (fun (p : Option (Nat × Nat) × State) t => match p.1 with
        | some _ => p
        | none => let a := p.2.allocIn t.2 used o.size align; (a.1.map fun x => (x, t.1), a.2)) (none, s)
      match got.1 with
      | none => none
      | some (x, tier) =>
        let s := got.2
        let s := s.setOrd { s.ord with mems := s.ord.mems.map fun m => if mine m then { m with addr := x } else m }
        let f := { f with objs := f.objs.set k { o with addr := x, tier := tier, reason := 9 } }
        let s := (s.cbObj f k).ordTrace 2 f.realm f.inst f.tb (2 ^ 26 * k + 9 * 2 ^ 22 + x / 2 ^ 32 % 65536) x
        State.moveObjs f0 rest s f

/-- Channel that releases a Folio (R127): the one of TC000 to TC095 armed on its grid with its RELEASE_NS. -/
def State.releaseChannel (s : State) (f : Folio) : Nat :=
  ((List.range 96).find? fun c => s.chState c == cARMED && s.chGrid c == f.grid &&
    s.rdN (Reg.TRG_CH_WHEN1 c) == f.tmpl.num 0x10 4).getD 0

/-- The release of a PLACED Folio whose channel has fired (R140, R132). -/
def execFolioRelease (r : Fin 16) (inst : BitVec 16) (s : State) : Out :=
  match s.folio r inst.toNat with
  | none => .next s
  | some f =>
    if f.state ≠ 1 || ! f.due then .next s else
    let s := s.ordTrace 3 f.realm f.inst f.tb (s.releaseChannel f) (tsOf f.deadline)
    match State.moveObjs f (List.range f.objs.length) s f with
    | none => .next (s.folioDone f St.NO_RESOURCE 2 false)
    | some (s, f) =>
      let f := { f with state := 2 }
      let s := s.setFolio f
      let p := s.degradeCheck f
      let f := p.2
      let s := p.1.setFolio f
      let root := fun t => ! (f.taskAt t).ended && (f.tmpl.preds t).all fun k => (f.taskAt k).ended
      .next ((List.range f.tasks.length).foldl (fun s t => if root t then s.readyTask f t else s) s)

/-- The deadline of a Folio under DROP (R141): its threads end, jobs not started are withdrawn, and it is DONE once no job
is in flight. -/
def execFolioDeadline (r : Fin 16) (inst : BitVec 16) (s : State) : Out :=
  match s.folio r inst.toNat with
  | none => .next s
  | some f =>
    if f.policy ≠ 2 || f.state ≠ 2 || (s.tbNs f.tb : Int) < f.deadline then .next s else
    let p := s.endThreads f 2
    let s := p.1.ordTrace 6 f.realm f.inst f.tb (p.2 % 256) 0
    .next ((s.setFolio { f with state := 3 }).drainCheck f.realm f.inst)

/-- The Folio a command names: realm TARGET, instance word 3 [15:0]. -/
def State.cmdFolio (s : State) (d : Desc) : Option Folio := s.folio d.tgt (d.n 3 % 65536)

/-- FOLIO_CANCEL (R133). -/
def execFolioCancel (d : Desc) (s : State) : Out :=
  .next (commandNow 0x11 d (fun s => firstFail [runningCheck s d, notExpert s 0x60,
      need ((s.cmdFolio d).any fun f => f.state == 1) St.WRONG_STATE])
    (fun s => match s.cmdFolio d with
      | some f => (s.folioDone f St.ABORTED 2 false, St.OK, [])
      | none => (s, St.OK, [])) s)

/-- FOLIO_QUERY: state, predicted end, control block address. -/
def execFolioQuery (d : Desc) (s : State) : Out :=
  .next (commandNow 0x12 d (fun s => firstFail [runningCheck s d, need (s.cmdFolio d).isSome St.WRONG_STATE])
    (fun s => match s.cmdFolio d with
      | some f => (s, St.OK, [w32 f.state, w32 (tsOf f.predicted), w32 f.cb, w32 (f.cb / 2 ^ 32)])
      | none => (s, St.OK, [])) s)

/-- Whether a PIN_UNIT lies in a realm's shares for a class (R126, R143). -/
def State.pinInShare (s : State) (r cls u : Nat) : Bool :=
  if cls = 0 then (s.quireShare r (u % 8)).elim false fun x => x.num 0xA 2 ≠ 0
  else if cls = 1 then s.ferRealm (u % 8) (u / 8 % 2) == r
  else if cls ≤ 9 then u < poolCount (cls - 2) && s.share r (cls - 2) u ≠ 0
  else u < 4

/-- ORD_PIN (R143): until the realm's next REALM_APPLY. -/
def execOrdPin (d : Desc) (s : State) : Out :=
  let r := d.tgt
  let id := d.n 3 % 256
  let t := bitsOf (d.n 3) 13 8
  let pin := bitsOf (d.n 3) 17 16
  let u := d.n 4 % 65536
  .next (commandNow 0x13 d (fun s =>
      let tm := s.template r id
      firstFail [runningCheck s d, notExpert s 0x60, need (r < 16 && tm.isSome) ORD_NO_TEMPLATE,
        need (pin ≠ 3 && tm.all fun x => t < x.ntask) St.BAD_PARAM,
        need (pin = 0 || tm.all fun x => s.pinInShare r (x.task t 0 1) u) St.ACCESS_DENIED])
    (fun s =>
      let old := (s.template r id).elim (0, 0) fun x => s.pinOf r x t
      let rest := s.ord.pins.filter fun p => ! (p.realm == r && p.tmpl == id && p.task == t)
      (s.setOrd { s.ord with pins := rest ++ [Pin.mk r id t pin u] }, St.OK, [w32 old.1, w32 old.2])) s)

/-- ORD_CONFIG (R157). A reserved LOG2_SIZE or EVMODE keeps the field (R12). -/
def execOrdConfig (d : Desc) (s : State) : Out :=
  let r := d.tgt
  let keep := bitOf (d.n 7) 0
  let hi := d.n 6 % 256
  let lo := bitsOf (d.n 6) 15 8
  let rate := bitsOf (d.n 6) 24 16
  let a := Reg.ORD_RLM_CQ_CFG r
  .next (commandNow 0x14 d (fun s => firstFail [need (r < 16) St.BAD_PARAM,
      need (if keep then s.realmState r ≠ 4
        else s.realmState r == 1 || (s.realmState r == 2 && ! s.ord.folios.any (·.realm == r))) St.WRONG_STATE,
      need (lo ≤ hi && lo ≤ 100 && hi ≤ 100 && rate ≤ 256) St.BAD_PARAM])
    (fun s =>
      let s := (s.setFld a 31 24 hi).setFld a 7 2 (lo / 2)
      let s := if rate = 0 then s else s.setFld (Reg.ORD_RLM_HARQ_CFG r) 8 0 rate
      let s := if keep then s else
        let s := s.wrN (Reg.ORD_RLM_CQ_BASE_LO r) (d.n 3 / 32 * 32)
        let s := s.wr (Reg.ORD_RLM_CQ_BASE_HI r) (d.word 4)
        let k := bitsOf (d.n 5) 20 16
        let s := if 6 ≤ k && k ≤ 16 then s.setFld a 20 16 k else s
        let s := s.setFld a 15 8 (bitsOf (d.n 5) 15 8)
        let s := if d.n 5 % 4 = 3 then s else s.setFld a 1 0 (d.n 5 % 4)
        let s := (s.wr (Reg.ORD_RLM_CQ_PROD r) 0).wr (Reg.ORD_RLM_CQ_CONS r) 0
        let s := { s with batch := sput s.batch a 0 0 }
        s.setOrd { s.ord with cqPhase := sput s.ord.cqPhase r 0 0 }
      (s, St.OK, [s.rd (Reg.ORD_RLM_CQ_BASE_LO r), s.rd (Reg.ORD_RLM_CQ_BASE_HI r), s.rd a, s.rd (Reg.ORD_RLM_HARQ_CFG r)])) s)

/-- ORD_QUERY: share, booked time in this window and the next, fenced. -/
def execOrdQuery (d : Desc) (s : State) : Out :=
  let r := d.tgt
  let p := d.n 3 % 16
  let i := d.n 4 % 16
  .next (commandNow 0x15 d (fun s => firstFail [runningCheck s d, need (r < 16 && p < 8 && i < poolCount p && s.share r p i ≠ 0) St.ACCESS_DENIED])
    (fun s =>
      let bs := s.unitBooks 2 (serialOf p i)
      let off := -(s.toTb0 (s.defaultTb r))
      let w : Int := s.tbNs (s.defaultTb r) / 1000000
      (s, St.OK, [w32 (s.share r p i), w32 (bookedIn bs (some r) off w).toNat, w32 (bookedIn bs (some r) off (w + 1)).toNat,
        w32 (b2n (s.ord.fenced.contains (2, serialOf p i)))])) s)

/-- ORD_TRACE. -/
def execOrdTrace (d : Desc) (s : State) : Out :=
  .next (commandNow 0x16 d (fun _ => need (d.ring.val = 16 && d.tgt == 255) St.ACCESS_DENIED)
    (fun s =>
      let s := s.wrN Reg.ORD_TRACE_CFG (2 ^ 31 * wfld (d.word 3) 31 31 + wfld (d.word 3) 12 0)
      (s, St.OK, [s.rd Reg.ORD_TRACE_CFG])) s)

/-! ## Faults and re-placement (R148 to R151) -/

/-- A fault notice (R148) from row src of R538. -/
def execFaultNotice (src : Fin 13) (kind : Fin 4) (unit : Fin 64) (event : Fin 1024) (s : State) : Out :=
  .next ((s.raise event).notice src kind unit event)

/-- Whether a task stands on a fenced unit; kind 64 is a peer that was lost (R152). -/
def FTask.onUnit (x : FTask) (kind unit : Nat) : Bool :=
  if kind = 64 then ! x.ended && x.peer == some unit else
  ! x.ended && x.peer.isNone &&
    (match kind with
     | 0 => x.cls < 2 && x.quire == unit
     | 1 => x.cls == 1 && 2 * x.quire + x.unit / 8 % 2 == unit
     | 2 => 2 ≤ x.cls && x.cls ≤ 9 && serialOf (x.cls - 2) x.unit == unit
     | _ => x.cls == 10 && x.unit == unit)

/-- Folios in the order of R150: deadline (on TB0), then PLACE_PRIO. -/
def State.byDeadline (s : State) : List Folio :=
  let key := fun f : Folio => (f.deadline + s.toTb0 f.tb, f.prio)
  let ins := fun (l : List Folio) (f : Folio) =>
    let before := fun g : Folio => decide ((key g).1 < (key f).1) || (decide ((key g).1 = (key f).1) && decide ((key f).2 ≤ (key g).2))
    l.takeWhile before ++ [f] ++ l.dropWhile before
  (s.ord.folios.filter fun f => f.state == 1 || f.state == 2).foldl ins []

/-- Spare units for a NIB or FER task (R150 step 4): spare Nibs, and unassigned Ferrules, of unfenced Quires. -/
def State.spareCands (s : State) (f : Folio) (t : Nat) : List Cand :=
  let x := f.taskAt t
  (List.range 8).flatMap fun q =>
    let spare := (List.range 16).filter fun n => s.nibRealm q n == 16 && ! s.expertHeld (0x100 + 16 * q + n)
    if s.unitOut 0 q || spare.isEmpty || (s.freeTcbs q).length < x.threads then []
    else if x.cls = 0 then
      [{ shown := q, kind := 0, unit := 16 * q + 16 * 8, cap := spare.length, need := x.width, quire := q, quota := none }]
    else (List.range 2).filterMap fun k =>
      if s.ferRealm q k ≠ 16 || s.unitOut 1 (2 * q + k) then none
      else some { shown := q + 8 * k, kind := 1, unit := 2 * q + k, cap := 1, need := 1, quire := q, quota := none }

/-- Journal entry of TCB i of Quire q: the words of R182. -/
def State.journal (s : State) (q i w : Nat) : Nat := s.load (s.jrnlBase q + 64 * i + w) 4

/-- Threads of a task that the journal of Quire q holds, not FREE: their TCB numbers. -/
def State.journalled (s : State) (f : Folio) (t q : Nat) : List Nat :=
  (List.range 512).filter fun i =>
    bitsOf (s.journal q i 0) 31 29 ≠ 0 && bitOf (s.journal q i 4) 30 && bitsOf (s.journal q i 0) 27 24 == f.realm &&
      bitsOf (s.journal q i 8) 31 16 == f.inst && bitsOf (s.journal q i 8) 13 8 == t

/-- The threads of a task moved from Quire q to Quire q2 (R185): new DORMANT threads from the journal of q, bound to spare
Nibs where spare says so, READY when the task is; REPLAY records. The old ones of an unfenced Quire are freed. -/
def State.moveThreads (s : State) (f : Folio) (t q q2 : Nat) (spare ready : Bool) : State :=
  let olds := s.journalled f t q
  let nibs := (List.range 16).filter fun n => s.nibRealm q2 n == 16
  let s := olds.foldl (fun s i =>
    let k := s.journal q i 8 % 16
    let bound := if spare then nibs[k % max nibs.length 1]? else none
    let s := s.ducTrace q2 0xB f.realm 0 i (q + i * 2 ^ 9) (s.journal q i 0xC)
    s.folioThread f t k q2 bound (s.journal q i 0xC) (s.journal q i 0x20, s.journal q i 0x24)) s
  let s := if s.fencedQ q then s else olds.foldl (fun s i => s.endThread q i St.ABORTED 2 none) s
  if ready then (s.threadsOf f t q2).foldl (fun s i => if s.tcbState q2 i = tDORMANT then s.makeReady q2 i else s) s else s

/-- Semaphores and flag groups of realm r recreated in Quire q2 with the journal values of Quire q, where their number is
free there (R185), and event routes that wake the old Quire moved to the new one (R149). -/
def State.moveObjects (s : State) (r q q2 : Nat) : State :=
  let jb := s.jrnlBase q
  let s := (List.range 256).foldl (fun s g =>
    let v := s.load (jb + 0x8000 + 8 * g) 4
    let o := s.load (jb + 0x8004 + 8 * g) 4
    if bitOf o 31 && bitsOf o 27 24 == r && ! s.bit (Reg.DUC_FLAG_OWNER q2 g) 31 then
      (s.wrN (Reg.DUC_FLAG_VALUE q2 g) v).wrN (Reg.DUC_FLAG_OWNER q2 g) (2 ^ 31 + 2 ^ 24 * r) |>.jrnlFlag q2 g
    else s) s
  let s := (List.range 1024).foldl (fun s e =>
    let w := s.rd (Reg.EVT_ROUTE_W1 e)
    if s.bit (Reg.EVT_ROUTE_W0 e) 29 && wfld w 18 16 == q && s.targetOf w r
    then s.setFld (Reg.EVT_ROUTE_W1 e) 18 16 q2 else s) s
  (List.range 256).foldl (fun s g =>
    let v := s.load (jb + 0x8800 + 8 * g) 4
    let o := s.load (jb + 0x8804 + 8 * g) 4
    if bitOf o 31 && bitsOf o 27 24 == r && ! s.bit (Reg.DUC_SEM_STATE q2 g) 31 then
      (s.wrN (Reg.DUC_SEM_MAX q2 g) (v / 65536)).wrN (Reg.DUC_SEM_STATE q2 g) (2 ^ 31 + 2 ^ 24 * r + v % 65536) |>.jrnlSem q2 g
    else s) s

/-- One task of a Folio re-placed (R150): its realm's units first, then spare ones; without deadline or share. The row is
marked REPLACED and the move traced. Threads of a task that a lost peer held start again here (R152). -/
def State.replaceTask (s : State) (f : Folio) (t : Nat) : State × Folio :=
  let x := f.taskAt t
  let off := s.toTb0 f.tb
  let now : Int := s.tbNs f.tb
  let d := durNs x.cls x.cost
  let own := s.fits f.realm (s.cands { f with tasks := f.tasks.set t { x with fin := 0 } } t none none false) (max now (f.readyAt t) + off) d
  let fs := if own.isEmpty && x.cls < 2 then s.fits f.realm (s.spareCands f t) (max now (f.readyAt t) + off) d else own
  match bestFit fs with
  | none => (s, f)
  | some b =>
    let reason := if own.isEmpty then 7 else 8
    let p := s.bookTask f t b reason off
    let f := { p.2 with replaced := true }
    let f := f.setTask t { f.taskAt t with replaced := true, peer := none }
    let s := p.1
    let s := if x.peer.isSome then
        let nibs := (List.range 16).filter fun n => s.nibRealm b.cand.quire n == 16
        let s := (List.range (f.taskAt t).threads).foldl (fun s k =>
          s.folioThread f t k b.cand.quire (if own.isEmpty then nibs[k % max nibs.length 1]? else none) 0 (0, 0)) s
        if f.state = 2 && (f.tmpl.preds t).all fun k => (f.taskAt k).ended then s.readyTask f t else s
      else if x.cls < 2 then
        let ready := f.state = 2 && (f.tmpl.preds t).all fun k => (f.taskAt k).ended
        (s.moveThreads f t x.quire b.cand.quire own.isEmpty ready).moveObjects f.realm x.quire b.cand.quire
      else s
    let s := s.cbTask f t
    (s.ordTrace 0xA f.realm f.inst f.tb (2 ^ 26 * t + 2 ^ 22 * reason + x.cls * 256 + b.cand.shown) (tsOf (f.taskAt t).fin), f)

/-- The re-placement of the oldest notice (R150): every unfinished task on its unit, Folio by Folio; REPLACE_STAT, EV1019. -/
def execReplacement (s : State) : Out :=
  match s.ord.notices with
  | [] => .next s
  | n :: rest =>
    let s := s.setOrd { s.ord with notices := rest }
    let r := s.byDeadline.foldl (fun (p : State × Nat) f =>
      let ts := (List.range f.tasks.length).filter fun t => (f.taskAt t).onUnit n.kind n.unit
      if ts.isEmpty then p else
      let m := ts.foldl (fun (a : State × Folio) t => a.1.replaceTask a.2 t) (p.1, f)
      (m.1.setFolio m.2, p.2 + ts.length)) (s, 0)
    let s := r.1.wrN Reg.ORD_REPLACE_STAT (2 ^ 22 * min r.2 512 + min (s.tbNs 0 - n.at_) 65535)
    let s := if rest.isEmpty then s.setFld Reg.ORD_STATUS 8 8 0 else s
    let w := sget s.avl.log n.logRec []
    let s := { s with avl := { s.avl with log := sput s.avl.log n.logRec (w.take 3 ++ [2 ^ 16 * s.fld Reg.ORD_REPLACE_STAT 31 22 + s.fld Reg.ORD_REPLACE_STAT 15 0]) [] } }
    .next (s.raise 1019)

/-! ## Demotion (R146) -/

/-- A demotion starts while the realm's HBM use exceeds HARQ_HI, or HARQ_LO in a series under way: the least recently
combined IDLE buffer is copied to DDR on channel 14 or 15 of a Chancery engine, at the realm's HARQ_RATE. -/
def execHarqDemotionStart (r : Fin 16) (engine : Fin 4) (upper : Bool) (s : State) : Out :=
  let go := s.harqAbove r (s.fld (Reg.ORD_RLM_CQ_CFG r) 31 24) || (s.ord.demoting.contains r && s.harqAbove r (s.harqLo r))
  let c := 14 + b2n upper
  if ! go || s.expertHeld 0x260 || s.ord.demos.any (fun d => d.engine == engine.val && d.chan == c) then .next s else
  match s.oldest r (s.demotable r) with
  | none => .next s
  | some e =>
    let now : Int := s.tbNs 0
    let size := wfld (s.entW e 1) 23 0 * 64
    let a := s.allocIn (s.placeable r 10) (s.usedRanges now (now + 1)) size 64
    match a.1 with
    | none => .next a.2
    | some x =>
      let b : HBuf := HBuf.mk x size r 1 e
      let dm : Demotion := Demotion.mk e r engine c
      let s := a.2
      let s := s.setOrd { s.ord with hbuf := s.ord.hbuf ++ [b], demos := s.ord.demos ++ [dm], demoting := setIns s.ord.demoting r }
      let s := ((s.entSetAddr e 6 x).setEntW e 3 (w32 (0xFFFF * 2 ^ 16))).entSetState e 2
      let s := s.setFld (Reg.SCB_CH_RATE (8 + engine) c) 8 0 (s.fld (Reg.ORD_RLM_HARQ_CFG r) 8 0)
      let key := 32 * engine.val + c
      let s := { s with scb := { s.scb with lines := sput s.scb.lines key (size / 64) 0,
                                            tok := sput s.scb.tok key (0, s.tbNs 0) (0, 0) } }
      .next ((s.setFld (Reg.SCB_CH_CFG (8 + engine) c) 31 31 1).hdySync r)

end Sys2Proof.Machine
end

