-- ==== Sys2Proof/Machine/Pools.lean ====
section
/-! DEFINITION. The accelerator pools and the HARQ Directory's commands (chapter 9). -/

namespace Sys2Proof.Machine

/-- Status codes of R347. -/
def ACC_FENCED : Nat := 0x80
def HC_KEY_BUSY : Nat := 0x81
def HDY_NOT_FOUND : Nat := 0x82

/-! ## Units: pool instances 0 to 55, RA engines 56 and 57 -/

/-- Pool of a unit. -/
def unitPool (x : Nat) : Nat := if x < 56 then poolOf x else 7

/-- Instance number of a unit. -/
def unitInst (x : Nat) : Nat := if x < 56 then x - poolFirst (poolOf x) else x - 56

/-- Ring of realm r on a unit. -/
def unitRing (x r : Nat) : RingId :=
  if x < 56 then .pool (Fin.ofNat 56 x) (Fin.ofNat 16 r) else .ra (Fin.ofNat 2 (x - 56)) (Fin.ofNat 16 r)

/-- The unit and realm of a ring of the pools or the RA engines. -/
def ringUnit : RingId → Option (Nat × Nat)
  | .pool u r => some (u, r)
  | .ra e r => some (56 + e, r)
  | _ => none

def aCtl (x : Nat) : Nat := if x < 56 then Reg.POOL_CTL (poolBase x) else Reg.RAE_CTL (x - 56)
def aStatus (x : Nat) : Nat := if x < 56 then Reg.POOL_STATUS (poolBase x) else Reg.RAE_STATUS (x - 56)
def aErr (x : Nat) : Nat := if x < 56 then Reg.POOL_ERR_INFO (poolBase x) else Reg.RAE_ERR_INFO (x - 56)
def aJobs (x : Nat) : Nat := if x < 56 then Reg.POOL_JOBS (poolBase x) else Reg.RAE_OCCS (x - 56)
def aWork (x : Nat) : Nat := if x < 56 then Reg.POOL_WORK (poolBase x) else Reg.RAE_WORK (x - 56)
def aCredit (x r : Nat) : Nat := if x < 56 then Reg.POOL_RING_CREDIT (poolBase x) r else Reg.RAE_RING_CREDIT (x - 56) r
def aRjobs (x r : Nat) : Nat := if x < 56 then Reg.POOL_RING_RJOBS (poolBase x) r else Reg.RAE_RING_RJOBS (x - 56) r

/-! ## Arbitration (R317, R324) -/

/-- Whether a unit is fenced. -/
def State.unitFenced (s : State) (u : Nat) : Bool := s.ord.fenced.contains (2, u)

/-- The unit that executes ring r of unit u: itself, or its adopter (none: no adopter exists). -/
def State.executor (s : State) (u r : Nat) : Option Nat :=
  if s.unitFenced u then (s.adopter u r).map fun i => serialOf (unitPool u) i else some u

/-- Realms with a descriptor waiting for unit x: on its own ring, or on one it has adopted. -/
def State.waitingFor (s : State) (x : Nat) : List Nat :=
  (List.range 16).filter fun r =>
    (List.range (poolCount (unitPool x))).any fun i =>
      let u := serialOf (unitPool x) i
      s.executor u r == some x && s.ringReady (unitRing u r)

def State.credit (s : State) (x r : Nat) : Int := signed 32 (s.rdN (aCredit x r))
def State.setCredit (s : State) (x r : Nat) (v : Int) : State := s.wrN (aCredit x r) (unsigned 32 v)

/-- Deficit round robin (R317): the realm unit x serves next and the credits after the visits that lead to it. -/
def State.drr (s : State) (x : Nat) : Option (Nat × List (Nat × Int)) :=
  let w := s.waitingFor x
  let last := sget s.served x 15
  if w.contains last && 0 < s.credit x last then some (last, []) else
  let order := (List.range 16).map fun k => (last + 1 + k) % 16
  let gain := fun r : Nat => ((max (s.share r (unitPool x) (unitInst x)) 1 * 64 : Nat) : Int)
  let visits := fun r : Nat => max 1 ((1 - s.credit x r + gain r - 1) / gain r)
  let pick := (order.filter w.contains).foldl (fun (b : Option Nat) r => match b with
    | none => some r
    | some q => if visits r < visits q then some r else some q) none
  pick.map fun r =>
    let pos := order.idxOf r
    (r, order.map fun q =>
      if ! w.contains q then (q, 0)
      else (q, s.credit x q + (visits r - (if order.idxOf q ≤ pos then 0 else 1)) * gain q))

/-! ## Starting and ending a job (R319 to R322) -/

/-- What a job will have done when it ends: status, RESULT, output (global address, bytes), work cycles. -/
structure JobEnd where
  status : Nat
  result : Nat
  data : List (Nat × List Byte)
  work : Nat

/-- Whether every bit of words 0 to 12 outside the masks is zero. -/
def wordsOk (j : Job) (masks : List Nat) : Bool :=
  (List.range 13).all fun w => Nat.land (j.n w) (2 ^ 32 - 1 - masks.getD w 0) == 0

/-- Masks of the common words 0 to 5, and of a pool's words 6 onward. -/
def poolMasks (m : List Nat) : List Nat :=
  [0xC0FFFFFF, 0xBF00FFFF, 0xFFFFFFC0, 0xFFFFFFFF, 0xFFFFFFC0, 0xFFFFFFFF] ++ m

def jIn (j : Job) : Nat := cat64 (j.word 2) (j.word 3)
def jOut (j : Job) : Nat := cat64 (j.word 4) (j.word 5)

/-- Whether a range lies in a carve-out of the realm in on-device memory (R320). -/
def State.rangeOk (s : State) (r : Nat) (g : Nat × Nat) : Bool :=
  g.2 == 0 || (match s.localOf g.1 with
    | some a => s.memOk a g.2 && a < 0x100000000000 && s.inRealm r a g.2
    | none => false)

/-- Whether two ranges share a byte. -/
def overlaps (a b : Nat × Nat) : Bool := a.1 < b.1 + b.2 && b.1 < a.1 + a.2

/-- Bytes at a global address that the checks have admitted. -/
def State.gbytes (s : State) (g n : Nat) : List Byte := s.bytes ((s.localOf g).getD 0) n

/-- Status of reading ranges: the first error found (R322). -/
def State.readsStatus (s : State) (rs : List (Nat × Nat)) : Nat :=
  (rs.filter fun g => g.2 ≠ 0).foldl (fun st g => if st = St.OK then s.readStatus g.1 g.2 else st) St.OK

/-- The descriptor at the head of a ring ends unexecuted or executed on unit x: RESULT, counters, completion. -/
def State.poolDone (s : State) (r : RingId) (x status detail result : Nat) : State :=
  let b := ringBase r
  let s := writeBack b (ringDescAddr s b + 52) (leBytes 4 result) s
  let s := s.bump (aJobs x) 1
  let s := match ringUnit r with
    | some (u, q) => s.bump (aRjobs u q) 1
    | none => s
  s.complete r status detail

/-- DETAIL of an execution on unit x of a descriptor of unit u's ring (R319, R324). -/
def adoptDetail (u x : Nat) : Nat := if u = x then 0 else 2 ^ 15 + unitInst x * 2 ^ 11

/-- A job started on unit x (R317). -/
def State.startJob (s : State) (x r : Nat) (p : PoolJob) : State :=
  let s := { s with eng := sput s.eng x (some p) none }
  (s.setFld (aStatus x) 24 24 1).setFld (aStatus x) 23 20 r

/-- What is checked before a job is executed (R319 to R321): none when it may run, else status and the low bit of DETAIL. -/
def State.jobRefusal (s : State) (r : Nat) (j : Job) (ok : Bool) (reads outs : List (Nat × Nat)) (place : Bool) : Option (Nat × Nat) :=
  let fv := bitOf (j.n 1) 31
  let fol := s.folio r (j.n 1 % 65536)
  if ! ok then some (St.BAD_PARAM, 0)
  else if ! (reads ++ outs).all (s.rangeOk r) then some (St.ACCESS_DENIED, 0)
  else if ! place && outs.any (fun o => reads.any (overlaps o)) then some (St.BAD_PARAM, 0)
  else if fv && fol.any (·.state == 3) then some (St.LATE, 1)
  else if fv && fol.isNone then some (St.ABORTED, 1)
  else none

/-- One job at the head of a ring of a pool: it starts when its unit (or its adopter) is free, not paused, and its realm's
turn has come (R317). ok says that its fields are in range; reads and outs are the byte ranges it will touch; place says
that OUT may be IN (R334); run answers how it ends. -/
def poolJob (pool : Nat) (j : Job) (ok : Bool) (reads outs : List (Nat × Nat)) (place : Bool) (dets : List RaDet)
    (run : State → State × JobEnd) (s : State) : State :=
  match ringUnit j.ring with
  | none => s
  | some (u, r) =>
    if unitPool u ≠ pool || ! s.ringReady j.ring then s else
    match s.executor u r with
    | none => s.poolDone j.ring u ACC_FENCED 0 0
    | some x =>
      if (sget s.eng x none).isSome || ! s.domUp (unitDomain x) || ! s.domUp 47 || s.bit (aCtl x) 31 || s.underTest (unitDomain x) || (s.drr x).map (·.1) ≠ some r then s else
      let s := (((s.drr x).map (·.2)).getD []).foldl (fun s c => s.setCredit x c.1 c.2) s
      let s := { s with served := sput s.served x r 15 }
      let det := adoptDetail u x
      match s.jobRefusal r j ok reads outs place with
      | some e => s.poolDone j.ring x e.1 (det + e.2) 0
      | none =>
        let st := s.readsStatus reads
        let e := if st = St.OK then run s
          else
            let d := outs.foldl (fun (a : List (Nat × List Byte) × State) o => let f := a.2.freeBytes o.2; (a.1 ++ [(o.1, f.1)], f.2)) ([], s)
            (d.2, { status := st, result := 0, data := d.1, work := 0 })
        let s := e.1
        if e.2.status = HC_KEY_BUSY || (e.2.status = St.BAD_PARAM && e.2.data.isEmpty) then s.poolDone j.ring x e.2.status det 0 else
        let fv := bitOf (j.n 1) 31
        let t := bitsOf (j.n 1) 29 24
        let s := match (if fv then s.folio r (j.n 1 % 65536) else none) with
          | some f => s.setFolio (f.setTask t { f.taskAt t with going := true })
          | none => s
        let ws := e.2.data.map fun w => ((s.localOf w.1).getD 0, w.2)
        s.startJob x r { job := j, status := e.2.status, detail := det, result := e.2.result, writes := ws, work := e.2.work,
                         folio := if fv then some (r, j.n 1 % 65536) else none, dets := if st = St.OK then dets else [] }

/-- First job error recorded since ERR_INFO was last read (R322). -/
def State.errInfo (s : State) (a realm op status : Nat) : State :=
  if s.rdN a = 0 then s.wrN a (2 ^ 20 * realm + op * 2 ^ 8 + status) else s

/-- Statuses that end a job partway (R322). -/
def jobError (st : Nat) : Bool := st == St.POISONED || st == St.ECC_UNCORRECTABLE || st == St.DOMAIN_LOST || st == St.RETENTION_LOST

/-- A job of unit x ends (R317, R335): its output lands, a Directory switch follows an OK combine, then RESULT and the
completion; credit and counters follow. -/
def State.endPoolJob (s : State) (x : Nat) (p : PoolJob) : State :=
  let s := { s with eng := sput s.eng x none none }
  let s := p.writes.foldl (fun s w => (s.setBytes w.1 w.2).unpoison w.1 w.2.length) s
  match ringUnit p.job.ring with
  | none => s
  | some (_, r) =>
    let s := if jobError p.status then s.errInfo (aErr x) r (bitsOf (p.job.n 0) 23 16) p.status else s
    let s := if unitPool x = 5 && bitOf (p.job.n 6) 19 && p.status = St.OK then s.entSwitch (bitsOf (p.job.n 12) 16 0) else s
    let s := s.setCredit x r (s.credit x r - p.work)
    let s := s.bump (aWork x) p.work
    let s := (s.setFld (aStatus x) 24 24 0).setFld (aStatus x) 23 20 0
    let s := s.poolDone p.job.ring x p.status p.detail p.result
    match p.folio with
    | some f => s.drainCheck f.1 f.2
    | none => s

/-! ## LDPC, polar and turbo (R327 to R331)

The coding itself is that of 38.212 and 36.212, which the manual names and does not restate: the bits it produces are free
values (notes/assumptions/9.md). -/

/-- Lifting sizes of 38.212 Table 5.3.2-1. -/
def liftOk (z : Nat) : Bool :=
  2 ≤ z && z ≤ 384 && ([2, 3, 5, 7, 9, 11, 13, 15].any fun a => (List.range 8).any fun k => a * 2 ^ k == z)

/-- Block sizes of 36.212 Table 5.1.3-3. -/
def turboOk (k : Nat) : Bool :=
  (40 ≤ k && k ≤ 512 && k % 8 == 0) || (528 ≤ k && k ≤ 1024 && k % 16 == 0) || (1056 ≤ k && k ≤ 2048 && k % 32 == 0) ||
    (2112 ≤ k && k ≤ 6144 && k % 64 == 0)

def ceilDiv (a b : Nat) : Nat := (a + b - 1) / b

/-- Length of the transport block's CRC. -/
def crcLen (t : Nat) : Nat := if t = 1 then 24 else if t = 2 then 16 else 0

/-- Whether C blocks of K bits with F filler bits carry A bits and their CRCs (R327). -/
def blocksOk (c k f a l : Nat) : Bool := f + (if 1 < c then 24 else 0) ≤ k && c * (k - f - (if 1 < c then 24 else 0)) == a + l

/-- A free block of n bytes for an address. -/
def State.freeOut (s : State) (g n : Nat) : State × (Nat × List Byte) := let f := s.freeBytes n; (f.2, (g, f.1))

def execLdpcDecode (j : Job) (s : State) : Out :=
  let bg := j.n 6 % 2
  let z := bitsOf (j.n 6) 9 1
  let it := bitsOf (j.n 6) 21 16
  let et := bitOf (j.n 6) 22
  let cb := bitOf (j.n 6) 23
  let tb := bitsOf (j.n 6) 25 24
  let fmt := bitsOf (j.n 6) 27 26
  let c := j.n 7 % 65536
  let f := j.n 7 / 65536
  let ncb := j.n 8
  let a := j.n 9
  let k := (if bg = 0 then 22 else 10) * z
  let l := crcLen tb
  let ok := wordsOk j (poolMasks [0x0FFF03FF, 0xFFFFFFFF, 0x7FFF, 0xFFFFFF, 0, 0, 0]) && liftOk z && 1 ≤ it && it ≤ 32 &&
    (! cb || 1 < c) && tb ≠ 3 && fmt ≠ 3 && 1 ≤ c && c ≤ 256 && 2 * z + k ≤ ncb && ncb ≤ (if bg = 0 then 66 else 50) * z &&
    blocksOk c k f a l
  let n := (a + l + 7) / 8
  .next (poolJob 0 j ok [(jIn j, c * segBytes ncb fmt)] [(jOut j, n)] false [] (fun s =>
    let o := s.freeOut (jOut j) n
    let failed := o.1.free1 (c + 1)
    let pass := failed.2.free1 2
    let most := pass.2.free1 it
    let runs := most.2.free1 (c * most.1 + 1)
    let its := if et then most.1 + 1 else it
    let total := if et then its + (c - 1) + min runs.1 ((c - 1) * most.1) else c * it
    let good := if tb = 0 then failed.1 == 0 else pass.1 == 1
    (runs.2, { status := if good then St.OK else St.CRC_FAIL,
               result := 2 ^ 16 * failed.1 + its * 2 ^ 8 + (if tb = 0 then 0 else pass.1),
               data := [o.2], work := 72 * c + total * ceilDiv (((if bg = 0 then 22 else 10) + 4) * z) 64 })) s)

def execLdpcEncode (j : Job) (s : State) : Out :=
  let bg := j.n 6 % 2
  let z := bitsOf (j.n 6) 9 1
  let tb := bitsOf (j.n 6) 25 24
  let qm := bitsOf (j.n 6) 31 28
  let c := j.n 7 % 65536
  let f := j.n 7 / 65536
  let ncb := j.n 8
  let a := j.n 9
  let k := (if bg = 0 then 22 else 10) * z
  let e0 := j.n 10
  let e1 := j.n 11
  let c0 := j.n 12
  let g := c0 * e0 + (c - c0) * e1
  let ok := wordsOk j (poolMasks [0xFF0003FF, 0xFFFFFFFF, 0x7FFF, 0xFFFFFF, 0xFFFFFF, 0xFFFFFF, 0xFFFF]) && liftOk z && tb ≠ 3 &&
    [1, 2, 4, 6, 8, 10].contains qm && 1 ≤ c && c ≤ 256 && 2 * z + k ≤ ncb && ncb ≤ (if bg = 0 then 66 else 50) * z &&
    c0 ≤ c && e0 % qm == 0 && e1 % qm == 0 && blocksOk c k f a (crcLen tb)
  .next (poolJob 1 j ok [(jIn j, (a + 7) / 8)] [(jOut j, (g + 7) / 8)] false [] (fun s =>
    let o := s.freeOut (jOut j) ((g + 7) / 8)
    (o.1, { status := St.OK, result := 0, data := [o.2],
            work := c * (20 + ceilDiv k 32) + c0 * ceilDiv e0 256 + (c - c0) * ceilDiv e1 256 })) s)

/-- Length of a polar CRC. -/
def polarCrc (t : Nat) : Nat := if t = 0 then 6 else if t = 1 then 11 else 24

/-- Whether the fields of a polar job are in range (R330). -/
def polarOk (j : Job) : Bool :=
  let k := j.n 6 % 1024
  let n := bitsOf (j.n 6) 13 10
  wordsOk j (poolMasks [0x000FFFFF, 0xFFFFFFFF, 0, 0, 0, 0, 0]) && 12 ≤ k && k ≤ 1023 && 5 ≤ n && n ≤ 10 && k ≤ 2 ^ n &&
    bitsOf (j.n 6) 17 16 ≠ 3 && k ≤ j.n 7 % 65536 && j.n 7 % 65536 ≤ 8192 && (bitsOf (j.n 6) 17 16 == 2 || j.n 7 / 65536 == 0) &&
    polarCrc (bitsOf (j.n 6) 17 16) ≤ k

def execPolarDecode (j : Job) (s : State) : Out :=
  let k := j.n 6 % 1024
  let n := bitsOf (j.n 6) 13 10
  let l := 2 ^ bitsOf (j.n 6) 15 14
  .next (poolJob 2 j (polarOk j) [(jIn j, j.n 7 % 65536)] [(jOut j, (k + 7) / 8)] false [] (fun s =>
    let o := s.freeOut (jOut j) ((k + 7) / 8)
    let metric := o.1.free1 65536
    let path := metric.2.free1 l
    let pass := path.2.free1 2
    (pass.2, { status := if pass.1 = 1 then St.OK else St.CRC_FAIL, result := 2 ^ 16 * metric.1 + path.1 * 2 + pass.1,
               data := [o.2], work := 24 + ceilDiv (2 ^ n * n) 16 + k * ceilDiv l 4 })) s)

def execPolarEncode (j : Job) (s : State) : Out :=
  let k := j.n 6 % 1024
  let n := bitsOf (j.n 6) 13 10
  let e := j.n 7 % 65536
  .next (poolJob 2 j (polarOk j) [(jIn j, (k - polarCrc (bitsOf (j.n 6) 17 16) + 7) / 8)] [(jOut j, (e + 7) / 8)] false [] (fun s =>
    let o := s.freeOut (jOut j) ((e + 7) / 8)
    (o.1, { status := St.OK, result := 0, data := [o.2], work := 16 + ceilDiv (2 ^ n) 32 + ceilDiv e 128 })) s)

def execTurboDecode (j : Job) (s : State) : Out :=
  let k := j.n 6 % 8192
  let it := bitsOf (j.n 6) 20 16
  let et := bitOf (j.n 6) 21
  let crc := bitsOf (j.n 6) 23 22
  let fmt := bitsOf (j.n 6) 25 24
  let c := j.n 7 % 65536
  let f := j.n 7 / 65536
  let ncb := j.n 8
  let n := (c * k - f + 7) / 8
  let ok := wordsOk j (poolMasks [0x03FF1FFF, 0xFFFFFFFF, 0x7FFF, 0, 0, 0, 0]) && turboOk k && 1 ≤ it && it ≤ 16 && crc ≠ 3 && fmt ≠ 3 &&
    1 ≤ c && c ≤ 256 && f ≤ k && ncb ≤ 96 * ceilDiv (k + 4) 32
  .next (poolJob 3 j ok [(jIn j, c * segBytes ncb fmt)] [(jOut j, n)] false [] (fun s =>
    let o := s.freeOut (jOut j) n
    let failed := o.1.free1 (c + 1)
    let pass := failed.2.free1 2
    let most := pass.2.free1 it
    let runs := most.2.free1 (c * most.1 + 1)
    let its := if et then most.1 + 1 else it
    let total := if et then its + (c - 1) + min runs.1 ((c - 1) * most.1) else c * it
    (runs.2, { status := if (if crc = 0 then failed.1 == 0 else pass.1 == 1) then St.OK else St.CRC_FAIL,
               result := 2 ^ 16 * failed.1 + its * 2 ^ 8 + (if crc = 0 then 0 else pass.1), data := [o.2],
               work := 64 * c + 2 * total * (ceilDiv k 24 + 80) })) s)

def execTurboEncode (j : Job) (s : State) : Out :=
  let k := j.n 6 % 8192
  let qm := bitsOf (j.n 6) 31 28
  let c := j.n 7 % 65536
  let f := j.n 7 / 65536
  let e0 := j.n 9
  let e1 := j.n 10
  let c0 := j.n 11
  let g := c0 * e0 + (c - c0) * e1
  let ok := wordsOk j (poolMasks [0xFC001FFF, 0xFFFFFFFF, 0x7FFF, 0xFFFFFF, 0xFFFFFF, 0xFFFF, 0]) && turboOk k &&
    [2, 4, 6, 8].contains qm && 1 ≤ c && c ≤ 256 && f ≤ k && j.n 8 ≤ 96 * ceilDiv (k + 4) 32 && c0 ≤ c && e0 % qm == 0 && e1 % qm == 0
  .next (poolJob 3 j ok [(jIn j, (c * k - f + 7) / 8)] [(jOut j, (g + 7) / 8)] false [] (fun s =>
    let o := s.freeOut (jOut j) ((g + 7) / 8)
    (o.1, { status := St.OK, result := 0, data := [o.2],
            work := c * (32 + ceilDiv k 16) + c0 * ceilDiv e0 64 + (c - c0) * ceilDiv e1 64 })) s)

/-! ## Transforms (R332, R333) -/

/-- Sizes of the DFT opcodes. -/
def dftOk (n : Nat) : Bool :=
  12 ≤ n && n ≤ 3240 && ((List.range 9).any fun a => (List.range 6).any fun b => (List.range 4).any fun c => 12 * 2 ^ a * 3 ^ b * 5 ^ c == n)

/-- Sizes of the FFT opcodes. -/
def fftOk (n : Nat) : Bool := [128, 256, 512, 1024, 2048, 4096, 8192].contains n

/-- The cint16 word at index i of a byte list. -/
def wordAt (bs : List Byte) (i : Nat) : Nat := leNat ((bs.drop (4 * i)).take 4)

/-- One transform of a symbol: its values with 142 fraction bits, in output order. -/
def symbol (inv half : Bool) (n cp nout : Nat) (first : Int) (xs : List Cx) (ph : Cx) : List Cx :=
  if inv then
    let bins := (xs.zipIdx).map fun p => ((first + (p.2 : Int)) % n, p.1)
    let ys := (List.range n).map (inverseSample n half bins ph)
    ys.drop (n - cp) ++ ys
  else
    (List.range nout).map fun k => forwardBin n half (xs.drop cp) ph ((first + (k : Int)) % n)

/-- An FT job (R332, R333). -/
def ftJob (inv : Bool) (sizeOk : Nat → Bool) (j : Job) (s : State) : State :=
  let n := j.n 6 % 16384
  let cp := bitsOf (j.n 6) 29 16
  let nsym := j.n 7
  let nout := bitsOf (j.n 8) 13 0
  let first := signed 16 (j.n 8 / 65536)
  let scale := j.n 9 % 32
  let auto := bitOf (j.n 9) 5
  let half := bitOf (j.n 9) 6
  let pha := cat64 (j.word 10) (j.word 11)
  let ok := wordsOk j (poolMasks [0x3FFF3FFF, 0xFFFF, 0xFFFF3FFF, 0x7F, 0xFFFFFFFF, 0xFFFFFFFF, 0]) && sizeOk n && cp ≤ n && 1 ≤ nsym &&
    nsym ≤ 1024 && 1 ≤ nout && nout ≤ n && decide (-((n / 2 : Nat) : Int) ≤ first) && decide (first < n) && scale ≤ 13
  let ins := if inv then nout else n + cp
  let outs := if inv then n + cp else nout
  let dataLen := nsym * outs * 4
  let outLen := if auto then (dataLen + 63) / 64 * 64 + nsym else dataLen
  let rds := [(jIn j, nsym * ins * 4)] ++ (if pha = 0 then [] else [(pha, nsym * 4)])
  poolJob 4 j ok rds [(jOut j, outLen)] false [] (fun s =>
    let src := s.gbytes (jIn j) (nsym * ins * 4)
    let phs := if pha = 0 then [] else s.gbytes pha (nsym * 4)
    let syms := (List.range nsym).map fun k =>
      let xs := (List.range ins).map fun i => cint16 (wordAt src (k * ins + i))
      let cs := symbol inv half n cp nout first xs (if pha = 0 then (2 ^ 14, 0) else cint16 (wordAt phs k))
      (cs, symShift auto scale cs)
    let bytes := syms.flatMap fun p => (symWords p.2 p.1).flatMap (leBytes 4)
    let tail := if auto then [(jOut j + (dataLen + 63) / 64 * 64, syms.map fun p => BitVec.ofNat 8 p.2)] else []
    let sat := syms.any fun p => p.1.any fun c => clamps c p.2
    (s, { status := St.OK, result := syms.foldl (fun m p => max m p.2) 0 % 32 + 2 ^ 16 * b2n sat, data := (jOut j, bytes) :: tail,
          work := nsym * (8 + ceilDiv (n + cp) 4) })) s

def execFft (j : Job) (s : State) : Out := .next (ftJob false fftOk j s)
def execIfft (j : Job) (s : State) : Out := .next (ftJob true fftOk j s)
def execDft (j : Job) (s : State) : Out := .next (ftJob false dftOk j s)
def execIdft (j : Job) (s : State) : Out := .next (ftJob true dftOk j s)

/-! ## HARQ combine (R334, R335) -/

/-- A combine job; lte selects LTE_COMBINE. -/
def combineJob (lte : Bool) (j : Job) (s : State) : State :=
  let bg := j.n 6 % 2
  let z := bitsOf (j.n 6) 9 1
  let rv := bitsOf (j.n 6) 11 10
  let qm := bitsOf (j.n 6) 15 12
  let new := bitOf (j.n 6) 18
  let dirv := bitOf (j.n 6) 19
  let c := j.n 7 % 65536
  let f := j.n 7 / 65536
  let ncb := j.n 8 % 32768
  let k := bitsOf (j.n 8) 30 16
  let e0 := j.n 9
  let e1 := j.n 10
  let c0 := j.n 11
  let g := c0 * e0 + (c - c0) * e1
  let ent := bitsOf (j.n 12) 16 0
  let ring := match j.ring with
    | .pool _ r => r.val
    | _ => 16
  let fmt := if dirv then wfld (s.entW ent 0) 26 25 else bitsOf (j.n 6) 17 16
  let seg := segBytes ncb fmt
  let kk := (if bg = 0 then 22 else 10) * z
  let m6 := if lte then 0x000FFC00 else 0x000FFFFF
  let ok := wordsOk j (poolMasks [m6, 0xFFFFFFFF, if lte then 0x7FFF7FFF else 0x7FFF, 0xFFFFFF, 0xFFFFFF, 0xFFFF,
      if dirv then 0x1FFFF else 0]) && 1 ≤ c && c ≤ 256 && 1 ≤ ncb && c0 ≤ c && (dirv || fmt ≠ 3) &&
    (if lte then turboOk k && f ≤ k && ncb ≤ 96 * ceilDiv (k + 4) 32 && [2, 4, 6, 8].contains qm
     else liftOk z && [1, 2, 4, 6, 8, 10].contains qm && e0 % qm == 0 && e1 % qm == 0 && f ≤ kk &&
       2 * z + kk ≤ ncb && ncb ≤ (if bg = 0 then 66 else 50) * z) && (! dirv || jOut j == 0)
  let outs := if dirv then [] else [(jOut j, c * seg)]
  poolJob 5 j ok ([(jIn j, g)] ++ (if dirv then [] else [(jOut j, c * seg)])) outs true [] (fun s =>
    let owned := s.entValid ent && s.entRealm ent == ring && s.entState ent == 1 && bitOf (j.n 1) 31 && s.entOwner ent == j.n 1 % 65536
    if dirv && ! owned then (s, { status := HC_KEY_BUSY, result := 0, data := [], work := 0 })
    else if dirv && wfld (s.entW ent 1) 23 0 * 64 < c * seg then (s, { status := St.BAD_PARAM, result := 0, data := [], work := 0 })
    else
      let zero := new || (dirv && s.ord.fresh.contains ent)
      let oldAt := if dirv then s.entCur ent else (s.localOf (jOut j)).getD 0
      let dst := if dirv then s.entPend ent else jOut j
      if ! zero && s.poisoned oldAt (c * seg) then (s, { status := St.POISONED, result := 0, data := [], work := 0 }) else
      let llrs := (s.gbytes (jIn j) g).map fun b => signed 8 b.toNat
      let blocks := (List.range c).map fun i =>
        let e := if i < c0 then e0 else e1
        let at_ := if i < c0 then i * e0 else c0 * e0 + (i - c0) * e1
        let xs := (llrs.drop at_).take e
        let xs := if lte then xs else deinterleave qm xs
        let skip := if lte then nullLte k (if i = 0 then f else 0) else fillerNr bg z f
        let k0 := if lte then k0lte k ncb rv else k0nr bg z ncb rv
        let segB := s.bytes (oldAt + i * seg) seg
        let old := (List.range ncb).map fun p => if zero then 0 else llrAt fmt segB p
        combineBlock fmt old (landing ncb k0 e skip) xs
      let bytes := blocks.flatMap fun b => llrPack fmt b.1
      let clamped := blocks.foldl (fun t b => t + b.2) 0
      (s, { status := St.OK, result := min clamped (2 ^ 24 - 1), data := [(dst, bytes)],
            work := c0 * (4 + ceilDiv (max e0 ncb) 256) + (c - c0) * (4 + ceilDiv (max e1 ncb) 256) })) s

def execNrCombine (j : Job) (s : State) : Out := .next (combineJob false j s)
def execLteCombine (j : Job) (s : State) : Out := .next (combineJob true j s)

/-! ## Soft demapper (R336) -/

def execDemap (j : Job) (s : State) : Out :=
  let qm := j.n 6 % 16
  let scr := bitOf (j.n 6) 4
  let odd := bitOf (j.n 6) 5
  let sh := bitsOf (j.n 6) 13 8
  let nre := j.n 7
  let wgt := cat64 (j.word 10) (j.word 11)
  let grp := j.n 12
  let ok := wordsOk j (poolMasks [0x3F3F, 0xFFFFFF, 0x7FFFFFFF, 0xFFFFFFFF, 0xFFFFFFFF, 0xFFFFFFFF, 0xFFFF]) &&
    [1, 2, 4, 6, 8, 10].contains qm && sh ≤ 47 && 1 ≤ nre && (wgt = 0 || 1 ≤ grp)
  let wlen := if wgt = 0 then 0 else ceilDiv nre (max grp 1) * 2
  .next (poolJob 6 j ok ([(jIn j, nre * 4)] ++ (if wgt = 0 then [] else [(wgt, wlen)])) [(jOut j, nre * qm)] false [] (fun s =>
    let src := s.gbytes (jIn j) (nre * 4)
    let ws := if wgt = 0 then [] else s.gbytes wgt wlen
    let cs := if scr then gold (j.n 8) (j.n 9) (nre * qm) else []
    let llrs := (List.range nre).flatMap fun i =>
      let y := cint16 (wordAt src i)
      let w := if wgt = 0 then 1 else leNat ((ws.drop (i / max grp 1 * 2)).take 2)
      let o := xor odd (i % 2 == 1)
      (List.range qm).map fun b => demapLlr (demapMetric qm o y b) w sh
    let out := (llrs.zipIdx).map fun p => if scr && cs.getD p.2 false then -p.1.1 else p.1.1
    let clamped := (llrs.filter (·.2)).length
    (s, { status := St.OK, result := clamped % 2 ^ 24, data := [(jOut j, out.map fun v => BitVec.ofInt 8 v)],
          work := 16 + ceilDiv nre (if qm = 10 then 8 else 16) })) s)

/-! ## Overrun (R323) and the commands (R346) -/

/-- A job's work passes twice its cycles plus 10,000: a fault notice of the instance, EV0344 + j. -/
def execJobOverrun (x : Fin 58) (s : State) : Out :=
  let ev := if x.val < 56 then 344 + x.val else 450 + (x.val - 56)
  .next (if (sget s.eng x.val none).isSome then (s.raise ev).notice 7 2 x ev else s)

/-- POOL and instance of a pool command, as a unit. -/
def cmdUnit (d : Desc) : Nat := serialOf (d.n 3 % 16) (bitsOf (d.n 3) 7 4)
def cmdUnitOk (d : Desc) : Bool := d.n 3 % 16 ≤ 6 && bitsOf (d.n 3) 7 4 < poolCount (d.n 3 % 16)

/-- A command that is accepted in STOPPED as well as in RUNNING. -/
def stoppedOrRunning (s : State) (d : Desc) : Nat × Nat :=
  need (16 ≤ d.tgt || s.realmState d.tgt == 1 || s.realmState d.tgt == 2) St.WRONG_STATE

def State.cmdShare (s : State) (d : Desc) : Nat := if d.tgt < 16 then s.share d.tgt (d.n 3 % 16) (bitsOf (d.n 3) 7 4) else 0

/-- ACC_QUERY. -/
def execAccQuery (d : Desc) (s : State) : Out :=
  let b := poolBase (cmdUnit d)
  .next (commandNow 0x40 d (fun s => firstFail [runningCheck s d, need (cmdUnitOk d) St.BAD_PARAM, need (s.cmdShare d ≠ 0) St.ACCESS_DENIED])
    (fun s => (s, St.OK, [s.rd (Reg.POOL_STATUS b), s.rd (Reg.POOL_RING_HEAD b d.tgt), s.rd (Reg.POOL_RING_CREDIT b d.tgt),
      s.rd (Reg.POOL_RING_RJOBS b d.tgt)])) s)

/-- RING_CONFIG (R346, R318). -/
def execRingConfig (d : Desc) (s : State) : Out :=
  let u := cmdUnit d
  let ring : RingId := .pool (Fin.ofNat 56 u) (Fin.ofNat 16 d.tgt)
  let b := ringBase ring
  let en := wbit (d.word 6) 31
  .next (commandNow 0x41 d (fun s => firstFail [stoppedOrRunning s d, need (cmdUnitOk d) St.BAD_PARAM,
      need (s.cmdShare d ≠ 0) St.ACCESS_DENIED, notExpert s (poolLock u), need (! (en && ringEnabled s b)) St.WRONG_STATE,
      need (! wbit (d.word 9) 31 || s.targetOf (d.word 10) d.tgt) St.ACCESS_DENIED])
    (fun s =>
      let s := if en then s else s.ringCfgWrite ring (d.word 6)
      let s := (s.ringBaseWrite ring (d.word 4) (d.word 5)).ringHeadwbWrite ring (d.word 7) (d.word 8)
      let s := s.wrN (Reg.POOL_RING_NOTIFY_CTL (poolBase u) d.tgt) (2 ^ 31 * wfld (d.word 9) 31 31)
      let s := s.wr (Reg.POOL_RING_NOTIFY_TGT (poolBase u) d.tgt) (d.word 10)
      let s := if en then s.ringCfgWrite ring (d.word 6) else s
      (s, St.OK, [s.rd (b + 8)])) s)

/-- Checks of the Directory commands. -/
def hdyCheck (s : State) (d : Desc) (more : List (Nat × Nat)) : Nat × Nat :=
  firstFail ([need (d.tgt < 16) St.BAD_PARAM, stoppedOrRunning s d, notExpert s 0x260] ++ more)

/-- The valid entry of a key given in words 3 and 4. -/
def State.keyEntry (s : State) (d : Desc) : Option Nat :=
  let k := HKey.of (cat64 (d.word 3) (d.word 4))
  ((s.hdyFind d.tgt k).map fun i => 16 * i + k.proc).filter fun e => s.entValid e

/-- HARQ_LOOKUP. -/
def execHarqLookup (d : Desc) (s : State) : Out :=
  .next (commandNow 0x42 d (fun s => hdyCheck s d [need (s.keyEntry d).isSome HDY_NOT_FOUND])
    (fun s => match s.keyEntry d with
      | some e => (s.bump Reg.HDY_LOOKUPS 1, St.OK, w32 e :: (List.range 8).map (s.entW e))
      | none => (s, St.OK, [])) s)

/-- HARQ_FREE: IDLE entries only (R342). -/
def execHarqFree (d : Desc) (s : State) : Out :=
  .next (commandNow 0x43 d (fun s => hdyCheck s d [need (s.keyEntry d).isSome HDY_NOT_FOUND,
      need ((s.keyEntry d).all fun e => s.entState e == 0) St.WRONG_STATE])
    (fun s => match s.keyEntry d with
      | some e => ((s.bump Reg.HDY_LOOKUPS 1).entFree e, St.OK, [])
      | none => (s, St.OK, [])) s)

/-- HARQ_FREE_UE: IDLE entries of a UE, of a cell, or both. -/
def execHarqFreeUe (d : Desc) (s : State) : Out :=
  .next (commandNow 0x44 d (fun s => hdyCheck s d [])
    (fun s =>
      let hit := (s.entsOf d.tgt).filter fun e =>
        (! bitOf (d.n 4) 0 || wfld (s.recW (e / 16) 1) 15 0 == d.n 3 % 65536) &&
          (! bitOf (d.n 4) 1 || wfld (s.recW (e / 16) 0) 23 12 == bitsOf (d.n 3) 27 16)
      let idle := hit.filter fun e => s.entState e == 0
      (idle.foldl State.entFree s, St.OK, [w32 idle.length, w32 (hit.length - idle.length)])) s)

/-- HARQ_USAGE. -/
def execHarqUsage (d : Desc) (s : State) : Out :=
  .next (commandNow 0x45 d (fun s => firstFail [need (d.tgt < 16) St.BAD_PARAM, stoppedOrRunning s d])
    (fun s => (s, St.OK, [w32 (s.recsOf d.tgt).length, w32 ((s.recsOf d.tgt).length * 16), w32 (s.harqUse d.tgt 0), w32 (s.harqUse d.tgt 1)])) s)

/-! ## Indirect access to the Directory (R350) -/

/-- ACC written with READ: the item at IDX is copied to DATA. -/
def execHdyAccRead (who : Requester) (s : State) : Out :=
  .next (accessHeld who Reg.HDY_ACC (fun s =>
    let i := s.fld Reg.HDY_IDX 16 0
    let isRec := s.bit Reg.HDY_IDX 31
    (List.range 8).foldl (fun s w => s.wr (Reg.HDY_DATA w) (if isRec then (if w < 4 then s.recW i w else 0) else s.entW i w)) s) s)

/-- ACC written with WRITE: DATA is stored at IDX; an entry in PENDING or MOVING keeps its content and sets WR_REJ. -/
def execHdyAccWrite (who : Requester) (s : State) : Out :=
  .next (accessHeld who Reg.HDY_ACC (fun s =>
    let i := s.fld Reg.HDY_IDX 16 0
    let ws := (List.range 8).map fun w => s.rd (Reg.HDY_DATA w)
    if s.bit Reg.HDY_IDX 31 then
      let s := s.setRec (i % 8192) (ws.take 4)
      (List.range 16).foldl State.hdySync s
    else if s.entValid i && s.entState i ≠ 0 then s.setBit Reg.HDY_STATUS 30
    else
      let s := s.setEnt i ws
      (List.range 16).foldl State.hdySync s) s)

end Sys2Proof.Machine
end

