-- ==== Sys2Proof/Machine/Noc.lean ====
section
/-! DEFINITION. The memory units and the network on chip (chapter 11): scrub, repair and training, links and routers, route
tables and epochs, and their commands. -/

namespace Sys2Proof.Machine

def State.setNoc (s : State) (x : NocState) : State := { s with noc := x }

/-- CSR base of memory unit u (R410): 0 and 1 HBM, 2 to 5 DDM, 6 to 14 INK. -/
def memBase (u : Nat) : Nat :=
  if u < 2 then 0x3100000 + 0x10000 * u else if u < 6 then 0x3200000 + 0x10000 * (u - 2) else 0x3000000 + 0x10000 * (u - 6)

/-! ## Errors, scrub and repair (R379 to R381, R389, R390) -/

/-- A corrected error in a unit: ECC_CORR, and at CE_THRESH its event, once. -/
def State.eccCorrected (s : State) (u : Nat) : State :=
  let b := memBase u
  let s := s.bumpSat (Reg.MEMC_ECC_CORR b) 31 0 1
  let th := s.fld (Reg.MEMC_THRESH b) 31 16
  if th ≠ 0 && th ≤ s.rdN (Reg.MEMC_ECC_CORR b) && ! s.bit (Reg.MEMC_STATUS b) 28 then
    (s.setBit (Reg.MEMC_STATUS b) 28).raise (847 + u)
  else s

/-- An uncorrectable error in the line of an address: counted, recorded, every word of the line poisoned, EV0832 + u. -/
def State.eccUncorrectable (s : State) (u a : Nat) : State :=
  let b := memBase u
  let l := a / 64 * 64
  let s := s.bumpSat (Reg.MEMC_ECC_UC b) 31 0 1
  let s := (s.wrN (Reg.MEMC_ERR_ADDR_LO b) l).wrN (Reg.MEMC_ERR_ADDR_HI b) (l / 2 ^ 32 % 2 ^ 16)
  ({ s with poison := (List.range 8).foldl (fun p k => setIns p (l / 8 + k)) s.poison }).raise (832 + u)

/-- Whether a power domain is at D0. -/
def State.atD0 (s : State) (d : Nat) : Bool := s.domUp d

/-- SCRUB_LINE (R389): the patrol scrub of unit `unit` reads the line of an address and finds it clean (0), corrects it (1) or finds
it uncorrectable (2); `ends` says that it ends a pass. Nothing happens while the unit's domain is below D0 or the scrub is off. -/
def execScrubLine (unit : Fin 15) (addr : BitVec 48) (err : Fin 3) (ends : Bool) (s : State) : Out :=
  let u := unit.val
  let b := memBase u
  if ! s.atD0 (memDomain u) || ! s.bit (Reg.MEMC_SCRUB_CFG b) 31 || s.unitOf addr.toNat ≠ some u then .next s else
  let s := match err.val with
    | 0 => s
    | 1 => s.eccCorrected u
    | _ => s.eccUncorrectable u addr.toNat
  let start := sget s.noc.pass u 0
  let s := if start + 10 ^ 9 * (2 * s.fld (Reg.MEMC_SCRUB_CFG b) 19 0) < s.tbNs 0 then s.setBit (Reg.MEMC_STATUS b) 30 else s
  if ends then .next ((s.setNoc { s.noc with pass := sput s.noc.pass u (s.tbNs 0) 0 }).setFld (Reg.MEMC_STATUS b) 7 0 100)
  else
    let r := s.free1 101
    .next (r.2.setFld (Reg.MEMC_STATUS b) 7 0 r.1)

/-- A scrub pass starts now. -/
def State.passNow (s : State) (u : Nat) : State :=
  (s.setNoc { s.noc with pass := sput s.noc.pass u (s.tbNs 0) 0 }).setFld (Reg.MEMC_STATUS (memBase u)) 7 0 0

/-- SCRUB_PASS_NOW. -/
def execScrubPassNow (who : Requester) (unit : Fin 15) (s : State) : Out :=
  .next (accessHeld who (Reg.MEMC_SCRUB_CFG (memBase unit)) (fun s => s.passNow unit) s)

/-- ECC_CORR_READ (R381): the count, cleared with CE_OVER, which rearms the threshold event. -/
def execEccCorrRead (who : Requester) (unit : Fin 15) (s : State) : Out :=
  let b := memBase unit
  .next (access who (Reg.MEMC_ECC_CORR b) (fun s =>
    ((s.wr (Reg.MEMC_ECC_CORR b) 0).setFld (Reg.MEMC_STATUS b) 28 28 0, s.rdN (Reg.MEMC_ECC_CORR b))) s)

/-- ROW_REPAIR (R390): an HBM or DDR controller starts a row repair; in a bank group without a spare it sets NOSPARE and raises
EV0863 instead. -/
def execRowRepair (unit : Fin 15) (spare : Bool) (s : State) : Out :=
  let b := memBase unit
  if 6 ≤ unit.val then .next s
  else if spare then .next (s.setBit (Reg.MEMC_STATUS b) 27)
  else .next ((s.setBit (Reg.MEMC_STATUS b) 29).raise 863)

/-- ROW_REPAIR_COMPLETE: the repair is logged (RANK, CHAN, BANK and ROW in place) and EV0862 raised. -/
def execRowRepairComplete (unit : Fin 15) (place : BitVec 30) (s : State) : Out :=
  let b := memBase unit
  if ! s.bit (Reg.MEMC_STATUS b) 27 then .next s else
  let s := s.setFld (Reg.MEMC_STATUS b) 27 27 0
  let s := s.wrN (Reg.MEMC_SPARE_LOG b) (2 ^ 31 + place.toNat)
  let s := s.setNoc { s.noc with repairs := sput s.noc.repairs unit (sget s.noc.repairs unit 0 + 1) 0 }
  .next (s.raise 862)

/-- MEMORY_TRAINING (R388, R632): a stack trains to 24 GiB or fails, a channel to its ranks' capacity in MiB, 0 where it is
unpopulated or fails; a failure sets TRAIN_FAIL and raises EV0869. Unpopulated and failed memory stays in D3 (R514). -/
def execMemoryTraining (hbm : BitVec 2) (lanes : BitVec 8) (caps : Vector W32 4) (bad : BitVec 4) (s : State) : Out :=
  let fail := fun (s : State) (u : Nat) => (s.setBit (Reg.MEMC_STATUS (memBase u)) 31).raise 869
  let s := (List.range 2).foldl (fun s h =>
    let s := s.wrN (Reg.MEMC_CAPACITY (memBase h)) (if bitOf hbm.toNat h then 24576 else 0)
    let s := s.setFld (Reg.MEMC_STATUS (memBase h)) 15 8 lanes.toNat
    if bitOf hbm.toNat h then s else (fail s h).setFld (Reg.PWM_D_STATE (56 + h)) 31 30 3) s
  let s := (List.range 4).foldl (fun s c =>
    let s := s.wr (Reg.MEMC_CAPACITY (memBase (2 + c))) (if bitOf bad.toNat c then 0 else caps.toList.getD c 0)
    if bitOf bad.toNat c then fail s (2 + c) else s) s
  .next ((List.range 2).foldl (fun s h =>
    if s.rdN (Reg.MEMC_CAPACITY (memBase (2 + 2 * h))) = 0 && s.rdN (Reg.MEMC_CAPACITY (memBase (3 + 2 * h))) = 0 then
      s.setFld (Reg.PWM_D_STATE (58 + h)) 31 30 3 else s) s)

/-- REFRESH (R388): no stall beyond refresh, and no effect that software sees. -/
def execRefresh (_unit : Fin 15) (s : State) : Out := .next s

/-! ## Links and routers (R395 to R398, R409) -/

/-- Stop of a site on the wide ring (R396), and the site of a stop. -/
def ringStop (n : Nat) : Nat := if n / 8 % 2 = 0 then n else 8 * (n / 8) + 7 - n % 8
def stopSite (t : Nat) : Nat := ringStop t

/-- The site that link k of site n leads to (1 north, 2 east, 3 south, 4 west). -/
def linkPeer (n k : Nat) : Nat :=
  match k with
  | 1 => n - 8 | 2 => n + 1 | 3 => n + 8 | 4 => n - 1 | _ => stopSite ((ringStop n + 1) % 48)

/-- STATE of a link. -/
def State.linkState (s : State) (n k : Nat) : Nat := s.fld (Reg.NOC_LINK_STAT n k) 31 30

/-- A link fenced (R395): its traffic takes the ring, EV0864; tests since the fence start anew. -/
def State.fenceLink (s : State) (n k : Nat) (ev : Bool) : State :=
  let s := s.setFld (Reg.NOC_LINK_STAT n k) 31 30 1
  let s := if k ≤ 4 then s.setBit (Reg.NOC_LINK_STAT n k) 29 else s
  let s := s.setNoc { s.noc with tested := s.noc.tested.filter (· ≠ 8 * n + k) }
  if ev then (s.setBit (Reg.NOC_LINK_STAT n k) 0).raise 864 else s

/-- FLIT_CRC_ERROR (R395): attempt `retry` of a flit on a link fails its CRC. The link is fenced when 4 retries failed, or at 256
errors within 1 ms (2,000,000 NoC cycles). -/
def execFlitCrcError (site : Fin 48) (link : Fin 6) (retry : Fin 5) (s : State) : Out :=
  let n := site.val
  let k := link.val
  if k = 0 || s.linkState n k = 3 then .next s else
  let s := s.bumpSat (Reg.NOC_LINK_CRC_CNT n k) 31 0 1
  let now := s.tbNs 0
  let recent := (sget s.noc.crc (8 * n + k) []).filter (fun t => now < t + 1000000) ++ [now]
  let s := s.setNoc { s.noc with crc := sput s.noc.crc (8 * n + k) recent [] }
  .next (if (retry.val = 4 || 256 ≤ recent.length) && s.linkState n k = 0 then s.fenceLink n k true else s)

/-- Fence units with an initiator port at a site (R391), as (kind, unit). -/
def siteUnits (n : Nat) : List (Nat × Nat) :=
  let q := if 8 ≤ n && n < 16 then some ((n - 8) / 2) else if 32 ≤ n && n < 40 then some ((n - 24) / 2) else none
  match q with
  | some q => [(0, q), (1, 2 * q + n % 2)]
  | none =>
    match n with
    | 16 => (List.range 8).map fun j => (2, j)
    | 17 => (List.range 8).map fun j => (2, 8 + j)
    | 18 => (List.range 16).map fun j => (2, 16 + j)
    | 19 => (List.range 8).map fun j => (2, 32 + j)
    | 20 => (List.range 8).map fun j => (2, 40 + j)
    | 21 => (List.range 10).map fun j => (2, 48 + j)
    | 22 => (List.range 4).map fun j => (3, j)
    | _ => []

/-- The neighbours' links that lead to a site. -/
def linksTo (n : Nat) : List (Nat × Nat) :=
  [(1, 3), (2, 4), (3, 1), (4, 2)].filterMap fun p => if meshEdge n p.1 then none else some (linkPeer n p.1, p.2)

/-- FENCED of a router, with its bit in FENCE_LO and FENCE_HI. -/
def State.showRouter (s : State) (n v : Nat) : State :=
  let s := s.setFld (Reg.NOC_STATUS n) 31 31 v
  if n < 32 then s.setFld Reg.NOCG_FENCE_LO n n v else s.setFld Reg.NOCG_FENCE_HI (n - 32) (n - 32) v

/-- ROUTER_ERROR (R398): the router is fenced, its neighbours treat their links to it as fenced, the fault is logged for the site
and a notice goes out for each fence unit with an initiator port there; EV0865. -/
def execRouterError (site : Fin 48) (s : State) : Out :=
  let n := site.val
  let s := s.setBit (Reg.NOC_STATUS n) 30
  if s.bit (Reg.NOC_STATUS n) 31 then .next s else
  let s := s.showRouter n 1
  let s := (linksTo n).foldl (fun s p => if s.linkState p.1 p.2 = 0 then s.fenceLink p.1 p.2 false else s) s
  let s := s.raise 865
  let s := if (siteUnits n).isEmpty then (s.faultLog 9 5 n 865).1 else s
  .next ((siteUnits n).foldl (fun s u => s.notice 9 u.1 u.2 865) s)

/-! ## Route tables and epochs (R400 to R404) -/

/-- The dimension-order next hop from a site toward another (0 local, 1 north, 2 east, 3 south, 4 west); yx for the YX path. -/
def nextHop (yx : Bool) (n dst : Nat) : Nat :=
  let row := if dst / 8 < n / 8 then 1 else if n / 8 < dst / 8 then 3 else 0
  let col := if n % 8 < dst % 8 then 2 else if dst % 8 < n % 8 then 4 else 0
  if yx then (if row ≠ 0 then row else col) else (if col ≠ 0 then col else row)

/-- A route-table entry of the device's own making (R400). -/
def routeEntry (qos : Nat) (yx : Bool) (n dst : Nat) : Nat := qos * 16 + b2n yx * 8 + nextHop yx n dst

/-- Key of a route-table entry. -/
def routeKey (bank n grp dst : Nat) : Nat := ((bank * 48 + n) * 17 + grp) * 48 + dst

/-- An entry: XY and class 1 where no record and no write gave another (R401). -/
def State.route (s : State) (bank n grp dst : Nat) : Nat :=
  sget s.noc.routes (routeKey bank n grp dst) (routeEntry 1 false n dst)
def State.setRoute (s : State) (bank n grp dst v : Nat) : State :=
  s.setNoc { s.noc with routes := sput s.noc.routes (routeKey bank n grp dst) v (routeEntry 1 false n dst) }

/-- The injection epoch, and the packets in flight of an epoch. -/
def State.epoch (s : State) : Nat := s.fld Reg.NOCG_EPOCH_CTL 0 0
def drainReg (b : Nat) : Nat := if b = 0 then Reg.NOCG_DRAIN0 else Reg.NOCG_DRAIN1

/-- A flip (R403): the epoch changes; the packets then in flight in the old one are a free number. -/
def State.epochFlip (s : State) : State :=
  let e := s.epoch
  let s := s.setFld Reg.NOCG_EPOCH_CTL 0 0 (1 - e)
  let r := s.free1 (2 ^ 32)
  (r.2.wrN (drainReg e) r.1).setNoc { r.2.noc with draining := true }

/-- EPOCH_FLIP. -/
def execEpochFlip (who : Requester) (s : State) : Out :=
  .next (accessHeld who Reg.NOCG_EPOCH_CTL (fun s =>
    if s.rdN (drainReg (1 - s.epoch)) = 0 then s.epochFlip else s.setBit Reg.NOCG_EPOCH_CTL 8) s)

/-- EPOCH_DRAIN_COMPLETE: DRAIN of the old epoch is zero, EV0867. -/
def execEpochDrainComplete (s : State) : Out :=
  .next (if s.noc.draining then
    ((s.wr (drainReg (1 - s.epoch)) 0).setNoc { s.noc with draining := false }).raise 867 else s)

/-- Bank, router, group and destination of RT_IDX. -/
def State.rtIdx (s : State) : Nat × Nat × Nat × Nat :=
  (s.fld Reg.NOCG_RT_IDX 24 24, s.fld Reg.NOCG_RT_IDX 21 16, s.fld Reg.NOCG_RT_IDX 12 8, s.fld Reg.NOCG_RT_IDX 5 0)
def State.rtStatus (s : State) (v : Nat) : State := s.setFld Reg.NOCG_RT_ACC 7 0 v

def execRtAccRead (who : Requester) (s : State) : Out :=
  .next (accessHeld who Reg.NOCG_RT_ACC (fun s =>
    let (b, n, g, d) := s.rtIdx
    (s.setFld Reg.NOCG_RT_DATA 7 0 (s.route b n g d)).rtStatus St.OK) s)

/-- RT_ACC_WRITE: only to the drained, inactive bank; a reserved entry is BAD_PARAM. -/
def execRtAccWrite (who : Requester) (s : State) : Out :=
  .next (accessHeld who Reg.NOCG_RT_ACC (fun s =>
    let (b, n, g, d) := s.rtIdx
    let v := s.fld Reg.NOCG_RT_DATA 7 0
    if b = s.epoch || s.rdN (drainReg b) ≠ 0 then s.rtStatus St.EPOCH_RETIRED
    else if 64 ≤ v || 4 < v % 8 then s.rtStatus St.BAD_PARAM
    else (s.setRoute b n g d v).rtStatus St.OK) s)

/-- The active bank copied into the other at every site. -/
def State.copyBank (s : State) : State :=
  let e := s.epoch
  let lo := routeKey (1 - e) 0 0 0
  let hi := routeKey (2 - e) 0 0 0
  let from_ := s.noc.routes.filter fun p => routeKey e 0 0 0 ≤ p.1 && p.1 < routeKey (e + 1) 0 0 0
  let keep := s.noc.routes.filter fun p => p.1 < lo || hi ≤ p.1
  let moved := from_.map fun p => (p.1 - routeKey e 0 0 0 + lo, p.2)
  s.setNoc { s.noc with routes := if e = 0 then keep ++ moved else moved ++ keep }

def execRtAccCopy (who : Requester) (s : State) : Out :=
  .next (accessHeld who Reg.NOCG_RT_ACC (fun s =>
    if s.rdN (drainReg (1 - s.epoch)) ≠ 0 then s.rtStatus St.EPOCH_RETIRED else s.copyBank.rtStatus St.OK) s)

/-- The group of a NOC_ROUTE record written into a bank (R401): later rules override earlier ones. -/
def State.routeGroup (s : State) (bank grp : Nat) (r : Option VRec) : State :=
  let path := fun (dst : Nat) => match r with
    | none => (0, 1)
    | some r =>
      (List.range (r.num 8 2)).foldl (fun p i =>
        if bitOf (r.num (0x10 + 16 * i) 8) dst then (r.num (0x18 + 16 * i) 1, r.num (0x19 + 16 * i) 1) else p)
        (r.num 0xA 1, r.num 0xB 1)
  (List.range 48).foldl (fun s n => (List.range 48).foldl (fun s dst =>
    let p := path dst
    s.setRoute bank n grp dst (routeEntry p.2 (p.1 == 1) n dst)) s) s

/-! ## Commands (R410) -/

/-- Commands accepted only through CMD[16]. -/
def ring16 (d : Desc) : Nat × Nat := need (d.ring.val = 16) St.ACCESS_DENIED

/-- MEM_QUERY. -/
def execMemQuery (d : Desc) (s : State) : Out :=
  let u := d.n 3 % 16
  let b := memBase u
  .next (commandNow 0x58 d (fun s => firstFail [ring16 d, runningCheck s d, need (u ≤ 14) St.BAD_PARAM])
    (fun s => (s, St.OK, [s.rd (Reg.MEMC_ECC_CORR b), s.rd (Reg.MEMC_ECC_UC b), s.rd (Reg.MEMC_ERR_ADDR_LO b),
      s.rd (Reg.MEMC_ERR_ADDR_HI b), w32 (if u < 6 then Config.rowSpares u - sget s.noc.repairs u 0 else 0)])) s)

/-- MEM_SCRUB: PERIOD_S 0 stops the scrub. -/
def execMemScrub (d : Desc) (s : State) : Out :=
  let u := d.n 3 % 16
  let a := Reg.MEMC_SCRUB_CFG (memBase u)
  .next (commandNow 0x59 d (fun s => firstFail [ring16 d, runningCheck s d,
      need (u ≤ 14 && d.n 4 ≤ 604800) St.BAD_PARAM, notExpert s (memBase u / 0x10000)])
    (fun s =>
      let s := if d.n 4 = 0 then s.setFld a 31 31 0 else (s.setFld a 31 31 1).setFld a 19 0 (d.n 4)
      let s := if wbit (d.word 5) 0 then s.passNow u else s
      (s, St.OK, [s.rd a])) s)

/-- NOC_STAT: the counters depend on how accesses split into requests and on their times, which the manual does not give: free
values. A realm names only its own Nibs and Ferrules. -/
def execNocStat (d : Desc) (s : State) : Out :=
  let i := d.n 3 % 256
  .next (commandNow 0x5A d (fun s => firstFail [stoppedOrRunning s d, need (i ≤ 239) St.BAD_PARAM,
      need (16 ≤ d.tgt || (i < 128 && s.nibRealm (i / 16) (i % 16) == d.tgt) ||
        (128 ≤ i && i < 144 && s.ferRealm ((i - 128) / 2) (i % 2) == d.tgt)) St.ACCESS_DENIED])
    (fun s =>
      let r := (List.range 5).foldl (fun (p : State × List W32) _ => let f := p.1.free1 (2 ^ 32); (f.2, p.2 ++ [w32 f.1])) (s, [])
      (r.1, St.OK, r.2)) s)

/-- Whether a segment of the ring that the detour of a link needs is fenced: the shorter way between the two stops. -/
def State.ringFenced (s : State) (n k : Nat) : Bool :=
  let a := ringStop n
  let b := ringStop (linkPeer n k)
  let up := (b + 48 - a) % 48
  let stops := if up ≤ 24 then (List.range up).map fun j => (a + j) % 48 else (List.range (48 - up)).map fun j => (b + j) % 48
  k ≤ 4 && stops.any fun t => s.linkState (stopSite t) 5 == 1

/-- Whether any detour is active. -/
def State.anyDetour (s : State) : Bool :=
  (List.range 48).any fun n => [1, 2, 3, 4].any fun k => s.bit (Reg.NOC_LINK_STAT n k) 29

/-- NOC_LINK_TEST (R409): the link goes to TEST and its traffic to the ring; the slot completes when the test ends. -/
def execNocLinkTest (d : Desc) (s : State) : Out :=
  let n := d.n 3 % 64
  let k := bitsOf (d.n 3) 10 8
  .next (command 0x5B d (fun s => firstFail [ring16 d, runningCheck s d,
      need (n < 48 && 1 ≤ k && k ≤ 5 && d.n 4 % 4 ≤ 2 && 1 ≤ d.n 5 && d.n 5 ≤ 1000000 && s.linkState n k ≠ 3) St.BAD_PARAM,
      notExpert s (0x340 + n), need (s.linkState n k ≠ 2 && ! (k = 5 && s.anyDetour)) St.WRONG_STATE,
      need (! s.ringFenced n k) 0x80])
    (fun s =>
      let s := s.setNoc { s.noc with tests := s.noc.tests ++ [LinkTest.mk d.slotId n k (s.rd (Reg.NOC_LINK_STAT n k))] }
      let s := s.setFld (Reg.NOC_LINK_STAT n k) 31 30 2
      if k ≤ 4 then s.setBit (Reg.NOC_LINK_STAT n k) 29 else s) s)

/-- LINK_TEST_END: the link returns to the state it had, with the flits checked and the errors found; EV0866. -/
def execLinkTestEnd (site : Fin 48) (link : Fin 6) (flits : W64) (errors : W32) (s : State) : Out :=
  let n := site.val
  let k := link.val
  match s.noc.tests.find? fun t => t.site == n && t.link == k with
  | none => .next s
  | some t =>
    let tested := if errors = 0 then setIns s.noc.tested (8 * n + k) else s.noc.tested
    let s := s.setNoc { s.noc with tests := s.noc.tests.filter (· ≠ t), tested := tested }
    let s := (s.setFld (Reg.NOC_LINK_STAT n k) 31 30 (wfld t.prior 31 30)).setFld (Reg.NOC_LINK_STAT n k) 29 29 (wfld t.prior 29 29)
    let s := (s.wrN (Reg.NOC_TEST_CNT_LO n) flits.toNat).wrN (Reg.NOC_TEST_CNT_HI n) (flits.toNat / 2 ^ 32)
    let s := (s.wr (Reg.NOC_TEST_ERR n) errors).raise 866
    .next (s.slotEnd t.slot St.OK [w32 flits.toNat, w32 (flits.toNat / 2 ^ 32), errors])

/-- NOC_QUERY. -/
def execNocQuery (d : Desc) (s : State) : Out :=
  let n := d.n 3 % 64
  .next (commandNow 0x5C d (fun s => firstFail [ring16 d, runningCheck s d, need (n < 48) St.BAD_PARAM])
    (fun s => (s, St.OK, s.rd (Reg.NOC_STATUS n) :: ([1, 2, 3, 4, 5].map fun k => s.rd (Reg.NOC_LINK_STAT n k)) ++
      [s.rd Reg.NOCG_EPOCH_CTL, s.rd Reg.NOCG_DRAIN0, s.rd Reg.NOCG_DRAIN1])) s)

/-- A fenced link returns to service. -/
def State.restoreLink (s : State) (n k : Nat) : State :=
  (s.setFld (Reg.NOC_LINK_STAT n k) 31 30 0).setFld (Reg.NOC_LINK_STAT n k) 29 29 0

/-- NOC_LINK_RESTORE (R409): a fenced link, or a fenced router, after a test of each of its links since the fence without errors. -/
def execNocLinkRestore (d : Desc) (s : State) : Out :=
  let n := d.n 3 % 64
  let k := bitsOf (d.n 3) 10 8
  let own := fun (s : State) => [1, 2, 3, 4, 5].filter fun j => s.linkState n j ≠ 3
  .next (commandNow 0x5D d (fun s => firstFail [ring16 d, runningCheck s d, need (n < 48 && k ≤ 5) St.BAD_PARAM,
      notExpert s (0x340 + n),
      need (if k = 0 then s.bit (Reg.NOC_STATUS n) 31 && (own s).all (fun j => s.noc.tested.contains (8 * n + j))
            else s.linkState n k == 1 && s.noc.tested.contains (8 * n + k)) St.WRONG_STATE])
    (fun s =>
      let s := if k ≠ 0 then s.restoreLink n k else
        let s := s.showRouter n 0
        (linksTo n).foldl (fun s p => if s.linkState p.1 p.2 = 1 then s.restoreLink p.1 p.2 else s) s
      (s, St.OK, [])) s)

end Sys2Proof.Machine
end

