-- ==== Sys2Proof/Machine/CalOps.lean ====
section
/-! DEFINITION. Calibrated quantities (R445, R552, R553): factory, user and effective values. -/

namespace Sys2Proof.Machine

/-- Number of places an item of R552 has; 0 for no item. -/
def calCount (item : Nat) : Nat :=
  match item with
  | 1 => 32 | 2 => 32 | 3 => 8 | 4 => 8 | 5 => 4 | 6 => 16 | 7 => 1 | _ => 0

/-- Whether an item and index name a quantity. -/
def calValid (item idx : Nat) : Bool := idx < calCount item

/-- User range of an item: nanoseconds in 2^-16, sixteenths of a degree, millivolts. -/
def calUserOk (item : Nat) (v : Int) : Bool :=
  if item ≤ 5 then decide (-65536000 ≤ v) && decide (v ≤ 65536000)
  else if item = 6 then decide (-128 ≤ v) && decide (v ≤ 128)
  else decide (0 ≤ v) && decide (v ≤ 20)

/-- An effective value within its limit. For item 7 the limit is that of the supply, which the setpoint applies (R620). -/
def calClamp (item : Nat) (v : Int) : Int :=
  if item = 7 then v else
  let m : Int := if item ≤ 4 then 131072000 else if item = 5 then 65536000 else 160
  if v < -m then -m else if v > m then m else v

/-- Factory value (OTP); zero for the asymmetry of item 5. -/
def calFact (item idx : Nat) : Int := if item = 5 then 0 else signed 32 (Config.calFactory item idx).toNat

/-- User value. -/
def State.calUser (s : State) (item idx : Nat) : Int := sget s.avl.cal (256 * item + idx) 0

/-- Effective value: factory plus user, clamped. -/
def State.calEff (s : State) (item idx : Nat) : Int := calClamp item (calFact item idx + s.calUser item idx)

/-- Whether the clamp changes the effective value. -/
def State.calClamped (s : State) (item idx : Nat) : Bool := s.calEff item idx != calFact item idx + s.calUser item idx

/-- The registers that show a quantity follow its user value: the port's offsets (items 1, 2), CAL_ASYM (item 5). -/
def State.calShow (s : State) (item idx : Nat) : State :=
  let u := unsigned 32 (s.calUser item idx)
  let e := unsigned 32 (s.calEff item idx)
  match item with
  | 1 => (s.wrN (Reg.ETH_TS_TX_USER idx) u).wrN (Reg.ETH_TS_TX_EFF idx) e
  | 2 => (s.wrN (Reg.ETH_TS_RX_USER idx) u).wrN (Reg.ETH_TS_RX_EFF idx) e
  | 5 => s.wrN (Reg.YLK_CAL_ASYM idx) u
  | _ => s

/-- A user value written (R552): a value outside its range has no effect (R12); a clamp is recorded and raises EV0937. -/
def State.calSet (s : State) (item idx : Nat) (v : Int) : State :=
  if ! calValid item idx || ! calUserOk item v then s else
  let s := { s with avl := { s.avl with cal := sput s.avl.cal (256 * item + idx) v 0 } }
  let s := s.calShow item idx
  if s.calClamped item idx then
    ((s.setBit Reg.CAL_STATUS 31).setFld Reg.CAL_STATUS 15 0 (idx * 256 + item)).raise 937
  else s

/-- Whether realm r may name a quantity (R553): that of a port, input or output in its PORT_MAP. -/
def State.calOwned (s : State) (r item idx : Nat) : Bool :=
  match item with
  | 1 => s.portBit r 8 4 idx
  | 2 => s.portBit r 8 4 idx
  | 3 => s.portBit r 0x14 1 idx
  | 4 => s.portBit r 0x15 1 idx
  | _ => false

end Sys2Proof.Machine
end

