-- ==== Sys2Proof/Machine/FhOps.lean ====
section
/-! DEFINITION. Fronthaul operations (chapter 13): the stream table, the compression formats, headers, windows. -/

namespace Sys2Proof.Machine

def State.setFh (s : State) (x : FhState) : State := { s with fh := x }

/-! ## The stream table (R451, R452) -/

/-- Word w of stream-table entry i. -/
def State.stW (s : State) (i w : Nat) : Nat := ((sget s.fh.st i []).getD w 0).toNat

/-- Words of an entry replaced; an entry of zeros is not listed. -/
def State.setSt (s : State) (i : Nat) (ws : List W32) : State :=
  s.setFh { s.fh with st := sput s.fh.st i (if ws.all (· == 0) then [] else ws) [] }

/-- One word of an entry replaced. -/
def State.setStW (s : State) (i w v : Nat) : State :=
  s.setSt i ((List.range 16).map fun k => if k = w then w32 v else w32 (s.stW i k))

def State.stValid (s : State) (i : Nat) : Bool := bitOf (s.stW i 0) 31
/-- KEY without VALID: PLANE, DIR, PORT, EAXC. -/
def State.stKey (s : State) (i : Nat) : Nat := s.stW i 0 % 2 ^ 31
def stCplane (k : Nat) : Bool := bitOf k 29
def stEgress (k : Nat) : Bool := bitOf k 28
def stPort (k : Nat) : Nat := bitsOf k 20 16
/-- udIqWidth and udCompMeth of an entry's word 1. -/
def stWidth (w1 : Nat) : Nat := if bitsOf w1 7 4 = 0 then 16 else bitsOf w1 7 4
def stMeth (w1 : Nat) : Nat := bitsOf w1 3 0
def stStatic (w1 : Nat) : Bool := bitOf w1 8
def stPass (w1 : Nat) : Bool := bitOf w1 9
def stSeqchk (w1 : Nat) : Bool := bitOf w1 10
def stHdr (w1 : Nat) : Nat := bitsOf w1 23 16
def stWgrp (w1 : Nat) : Nat := bitsOf w1 31 24
def stStart (w2 : Nat) : Nat := bitsOf w2 15 0
def stNprb (w2 : Nat) : Nat := bitsOf w2 31 16
def stNslot (w3 : Nat) : Nat := bitsOf w3 7 0
def stMcd (w3 : Nat) : Nat := bitsOf w3 31 16

/-- Bytes of one PRB on the wire (R454 to R457). -/
def prbBytes (meth width : Nat) : Nat := match meth with
  | 1 => 1 + 3 * width
  | 3 => 1 + 3 * width
  | 4 => 3 * width
  | _ => 48

/-- Whether a method and width are taken for a direction (R448). -/
def methOk (egress : Bool) (meth width : Nat) : Bool :=
  (meth == 0 && width == 16) || meth == 1 || (meth == 3 && 5 ≤ width && width ≤ 12) || (egress && meth == 4 && width ≤ 5)

/-- Valid entries by index. -/
def State.stFind (s : State) (key : Nat) : Option Nat :=
  (s.fh.st.find? fun e => (e.2.getD 0 0).toNat == 2 ^ 31 + key).map (·.1)

/-- Whether realm r may write entry i (R48, R452). -/
def State.stMine (s : State) (r i : Nat) : Bool :=
  s.recNum 0x15 r 0xC 2 ≤ i && i < s.recNum 0x15 r 0xC 2 + s.recNum 0x15 r 0xE 2

/-- Realm whose stream range holds entry i; 16 for none. -/
def State.stRealm (s : State) (i : Nat) : Nat := ((List.range 16).find? fun r => s.stMine r i).getD 16

/-- Whether a realm may use a port: its own, or one listed device-wide. -/
def State.portUsable (s : State) (r p : Nat) : Bool := r == 16 || s.portBit r 8 4 p || s.portBit 0xFF 8 4 p

/-- Bytes from the first to past the last of an ingress entry's arena. -/
def arenaLen (w : Nat → Nat) : Nat :=
  (stNslot (w 3) - 1) * w 6 + (stNprb (w 2) - 1) * bitsOf (w 7) 15 0 +
    (if stPass (w 1) then prbBytes (stMeth (w 1)) (stWidth (w 1)) else 48)

/-- Whether a range of local addresses is memory of realm r on the device. -/
def State.arenaOk (s : State) (r a n : Nat) : Bool :=
  a < 0x100000000000 && s.memOk a n && (if r < 16 then s.inRealm r a n else true)

/-- FH_EAXC_DUP of R467. -/
def FH_NO_LINK : Nat := 0x80
def FH_EAXC_DUP : Nat := 0x81
def FH_TRUNCATED : Nat := 0x82

/-- Whether an image's fields are in range (R451). -/
def stFields (w : Nat → Nat) : Bool :=
  let k := w 0
  let eg := stEgress k
  let c := stCplane k
  bitsOf k 27 21 == 0 && ! bitOf k 30 && bitsOf (w 1) 15 11 == 0 && stHdr (w 1) ≤ 63 && stWgrp (w 1) ≤ 63 &&
    bitsOf (w 3) 15 8 == 0 && bitsOf (w 7) 31 16 == 0 &&
    (c || (stStart (w 2) ≤ 272 && 1 ≤ stNprb (w 2) && stStart (w 2) + stNprb (w 2) ≤ 273)) &&
    (c || methOk eg (stMeth (w 1)) (stWidth (w 1))) &&
    (c || eg || (1 ≤ stNslot (w 3) && stNslot (w 3) ≤ 28 && w 8 % 4 == 0 &&
      (if stPass (w 1) then prbBytes (stMeth (w 1)) (stWidth (w 1)) else 48) ≤ bitsOf (w 7) 15 0))

/-- The checks of R452 on an image for entry i written by realm r (16: control firmware, which writes for the realm whose range
holds the entry). -/
def State.stCheck (s : State) (r i : Nat) (w : Nat → Nat) : Nat :=
  let own := if r < 16 then r else s.stRealm i
  if r < 16 && ! s.stMine r i then St.ACCESS_DENIED
  else if ! bitOf (w 0) 31 then St.OK
  else if ! s.portUsable own (stPort (w 0)) then St.ACCESS_DENIED
  else if ! stFields w then St.BAD_PARAM
  else
    let arena := w 4 + 2 ^ 32 * w 5
    let stat := w 8 + 2 ^ 32 * w 9
    if ! stCplane (w 0) && ! stEgress (w 0) &&
        (! s.arenaOk own arena (arenaLen w) || (stat ≠ 0 && ! s.arenaOk own stat (4 * stNslot (w 3)))) then St.ACCESS_DENIED
    else if s.fh.st.any fun e => e.1 ≠ i && (e.2.getD 0 0).toNat == 2 ^ 31 + w 0 % 2 ^ 31 then FH_EAXC_DUP
    else St.OK

/-- An entry written: words 0 to 9; SEQ and the counters keep theirs. -/
def State.stWrite (s : State) (i : Nat) (w : Nat → Nat) : State :=
  s.setSt i ((List.range 16).map fun k => w32 (if k < 10 then w k else s.stW i k))

/-- A counter of an entry (word 11 onward) rises by n. -/
def State.stCount (s : State) (i w n : Nat) : State := s.setStW i w (s.stW i w + n)

/-! ## Compression formats (R454 to R457) -/

/-- Big-endian bits of fields of a width, packed into whole bytes. -/
def wirePack (w : Nat) (xs : List Nat) : List Byte :=
  let n := xs.foldl (fun a x => a * 2 ^ w + x % 2 ^ w) 0
  let bits := w * xs.length
  let pad := (8 - bits % 8) % 8
  let m := n * 2 ^ pad
  let len := (bits + pad) / 8
  (List.range len).map fun k => BitVec.ofNat 8 (m / 2 ^ (8 * (len - 1 - k)))

/-- Fields of a width read big-endian from bytes. -/
def wireUnpack (w n : Nat) (bs : List Byte) : List Nat :=
  let v := bs.foldl (fun a b => a * 256 + b.toNat) 0
  let bits := 8 * bs.length
  (List.range n).map fun k => v / 2 ^ (bits - w * (k + 1)) % 2 ^ w

/-- The exponent of R256 over some components. -/
def bfpExp (m : Nat) (xs : List Int) : Nat :=
  16 - (xs.foldl (fun c x => min c (clsW 16 x)) 15) - m

/-- A μ-law code of R455 of an already shifted component. -/
def mulawCode (k w : Nat) (y : Int) : Nat :=
  let neg := decide (y < 0)
  let a := min y.natAbs 32767
  let p := if a < 256 then (0, a / 2 ^ (8 - k)) else
    let g := bitLen a - 8
    (g, (a - 2 ^ (7 + g)) / 2 ^ (7 + g - k))
  b2n neg * 2 ^ (w - 1) + p.1 * 2 ^ k + p.2

/-- One PRB of 24 components as it goes on the wire, and how many components clamped. -/
def prbPack (meth width mcd : Nat) (xs : List Int) : List Byte × Nat :=
  match meth with
  | 1 =>
    let e := bfpExp width xs
    let rs := xs.map fun x => satW width (roundShift x e 1)
    (BitVec.ofNat 8 e :: wirePack width (rs.map fun r => unsigned width r.1), (rs.filter (·.2)).length)
  | 3 =>
    let sh := min 15 (xs.foldl (fun c x => min c (clsW 16 x)) 15)
    (BitVec.ofNat 8 sh :: wirePack width (xs.map fun x => mulawCode (width - 4) width (x * (2 ^ sh : Nat))), 0)
  | 4 =>
    let q := fun x : Int => Int.fdiv x (2 * (max mcd 1 : Nat)) + (2 ^ (width - 1) : Nat)
    let k := fun x : Int => max 0 (min (q x) ((2 ^ width : Nat) - 1))
    (wirePack width (xs.map fun x => unsigned width (k x - (2 ^ (width - 1) : Nat))), 0)
  | _ => (wirePack 16 (xs.map (unsigned 16)), 0)

/-- One PRB of the wire as 24 components. -/
def prbUnpack (meth width : Nat) (bs : List Byte) : List Int :=
  match meth with
  | 1 =>
    let e := (bs.headD 0).toNat % 16
    (wireUnpack width 24 (bs.drop 1)).map fun m => (satW 16 (signed width m * (2 ^ e : Nat))).1
  | 3 =>
    let sh := (bs.headD 0).toNat % 16
    let k := width - 4
    (wireUnpack width 24 (bs.drop 1)).map fun c =>
      let g := c / 2 ^ k % 8
      let m := c % 2 ^ k
      let d := if g = 0 then 8 - k else 7 + g - k
      let a : Int := ((if g = 0 then 0 else 2 ^ (7 + g)) + m * 2 ^ d + (if 1 ≤ d then 2 ^ (d - 1) else 0) : Nat)
      (satW 16 (roundShift (if bitOf c (width - 1) then -a else a) sh 1)).1
  | _ => (wireUnpack 16 24 bs).map (signed 16)

/-- cint16 elements as bytes of memory, and back (I before Q, each little-endian). -/
def compBytes (xs : List Int) : List Byte := xs.flatMap fun x => leBytes 2 (unsigned 16 x)
def bytesComp (bs : List Byte) : List Int := (List.range (bs.length / 2)).map fun k => signed 16 (leNat ((bs.drop (2 * k)).take 2))

/-! ## Frames -/

/-- Big-endian fields of a frame. -/
def be16 (f : List Byte) (o : Nat) : Nat := (f.getD o 0).toNat * 256 + (f.getD (o + 1) 0).toNat
def fb (f : List Byte) (o : Nat) : Nat := (f.getD o 0).toNat
def beBytes (n v : Nat) : List Byte := (leBytes n v).reverse

/-- Ethertype and the offset of what follows, at most one 802.1Q tag. -/
def ethType (f : List Byte) : Nat × Nat := if be16 f 12 = 0x8100 then (be16 f 16, 18) else (be16 f 12, 14)

/-- UDP destination port and payload offset of an IPv4 (no options) or IPv6 (no extension headers) packet. -/
def udpOf (f : List Byte) : Option (Nat × Nat) :=
  let t := ethType f
  if t.1 = 0x0800 && fb f t.2 % 16 = 5 && fb f (t.2 + 9) = 17 then some (be16 f (t.2 + 22), t.2 + 28)
  else if t.1 = 0x86DD && fb f (t.2 + 6) = 17 then some (be16 f (t.2 + 42), t.2 + 48)
  else none

/-- Offset of the eCPRI header of a frame (R448). -/
def State.ecpriAt (s : State) (port : Nat) (f : List Byte) : Option Nat :=
  let t := ethType f
  if t.1 = 0xAEFE then some t.2
  else match udpOf f with
    | some u => if u.1 = s.fld (Reg.ETH_ECPRI_UDP port) 15 0 && u.1 ≠ 0 then some u.2 else none
    | none => none

/-- The one's complement sum of 16-bit words, folded. -/
def csum (bs : List Byte) (start : Nat) : Nat :=
  let t := (List.range ((bs.length + 1) / 2)).foldl (fun a k => a + be16 bs (2 * k)) start
  let t := t % 65536 + t / 65536
  let t := t % 65536 + t / 65536
  65535 - (t % 65536 + t / 65536) % 65536

/-- Header template t of realm r on engine f. -/
def State.hdrTpl (s : State) (f r t : Nat) : List Byte := sget s.fh.hdr ((16 * f + r) * 64 + t) []

/-- A frame around an eCPRI message by a template (R450): lengths and checksums filled in; the UDP checksum is 0 on IPv4. -/
def wrapFrame (h : List Byte) (msg : List Byte) : List Byte :=
  let vlan := if bitOf (fb h 0xC) 0 then beBytes 2 0x8100 ++ beBytes 2 (leNat ((h.drop 0xE).take 2)) else []
  let mac := h.take 12 ++ vlan
  let sp := leNat ((h.drop 0x14).take 2)
  let dp := leNat ((h.drop 0x16).take 2)
  let udpLen := msg.length + 8
  match fb h 0x10 with
  | 1 =>
    let src := (h.drop 0x20).take 4
    let dst := (h.drop 0x30).take 4
    let ip := fun c => [0x45, (h.getD 0x11 0)] ++ beBytes 2 (udpLen + 20) ++ beBytes 2 0 ++ beBytes 2 0 ++ [(h.getD 0x12 0), 17] ++
      beBytes 2 c ++ src ++ dst
    mac ++ beBytes 2 0x0800 ++ ip (csum (ip 0) 0) ++ beBytes 2 sp ++ beBytes 2 dp ++ beBytes 2 udpLen ++ beBytes 2 0 ++ msg
  | 2 =>
    let src := (h.drop 0x20).take 16
    let dst := (h.drop 0x30).take 16
    let ip := beBytes 4 (0x60000000 + 2 ^ 20 * fb h 0x11) ++ beBytes 2 udpLen ++ [17, (h.getD 0x12 0)] ++ src ++ dst
    let udp := fun c => beBytes 2 sp ++ beBytes 2 dp ++ beBytes 2 udpLen ++ beBytes 2 c ++ msg
    let c := csum (src ++ dst ++ beBytes 4 udpLen ++ beBytes 4 17 ++ udp 0) 0
    mac ++ beBytes 2 0x86DD ++ ip ++ udp (if c = 0 then 65535 else c)
  | _ => mac ++ beBytes 2 0xAEFE ++ msg

/-- Bytes of a frame before its eCPRI header. -/
def wrapLen (h : List Byte) : Nat :=
  14 + (if bitOf (fb h 0xC) 0 then 4 else 0) + (match fb h 0x10 with | 1 => 28 | 2 => 48 | _ => 0)

/-! ## Ports (R443 to R445) -/

/-- Fronthaul engine of a port. -/
def portEngine (p : Nat) : Nat := p / 16

/-- State of a port: 0 DISABLED, 1 LINKING, 2 UP. -/
def State.ethState (s : State) (p : Nat) : Nat := s.fld (Reg.ETH_STATUS p) 31 30

/-- A port changes state: CHANGED and EV0672 + n. -/
def State.setEth (s : State) (p st : Nat) : State :=
  if s.ethState p = st then s else
  ((s.setFld (Reg.ETH_STATUS p) 31 30 st).setBit (Reg.ETH_STATUS p) 24).raise (672 + p)

/-- Realm that owns a port; 16 for a device-wide one. -/
def State.ethOwner (s : State) (p : Nat) : Nat := s.portOwner 8 4 p

/-- Ingress timestamp on a time base (R109, R445) in 2^-16 ns: the factory offset removes the device's own delay, so what is left
of the correction is the difference of the two offsets. -/
def State.rxStamp (s : State) (p tb : Nat) : Int := s.nowInst tb + calFact 2 p - s.calEff 2 p

/-- Egress timestamp on a time base. -/
def State.txStamp (s : State) (p tb : Nat) : Int := s.nowInst tb - calFact 1 p + s.calEff 1 p

/-- TS80 of an instant in 2^-16 ns, as three words. -/
def ts80Of (t : Int) (tb : Nat) : List W32 := ts80 (t / 65536).toNat tb

/-- Offset of a PTP message in a frame: Ethertype 0x88F7, or UDP 319 or 320. -/
def ptpAt (f : List Byte) : Option Nat :=
  if (ethType f).1 = 0x88F7 then some (ethType f).2
  else match udpOf f with
    | some u => if u.1 = 319 || u.1 = 320 then some u.2 else none
    | none => none

/-- The time base a PTP event message of a port is stamped in (R110). -/
def State.ptpTb (s : State) (p : Nat) (f : List Byte) (o : Nat) : Nat :=
  match (s.recsAny 0x14).find? fun r => (r.num 0xA 1 == 1 || r.num 0xA 1 == 3) && r.num 0xC 1 == fb f (o + 4) && r.num 9 1 == 0 with
  | some r => r.num 8 1 % 8
  | none => s.defaultTb (s.ethOwner p)

/-! ## Windows (R458 to R461) -/

/-- A grid's units in a frame, and slots in a subframe. -/
def State.gridSyms (s : State) (g : Nat) : Nat := symsPerSlot (s.gridTy g) (s.gridCp g)
def State.gridUnits (s : State) (g : Nat) : Nat := slotsPerFrame (s.gridTy g) * s.gridSyms g
def State.slotsPerSub (s : State) (g : Nat) : Nat := max 1 (slotsPerFrame (s.gridTy g) / 10)

/-- Instant of symbol index n (frames times symbols, R453) of a grid. -/
def State.symInst (s : State) (g : Nat) (n : Int) : Int :=
  let u : Int := s.gridUnits g
  let k := (n % u).toNat
  s.frameStart g (n / u) + symStart (s.gridTy g) (s.gridCp g) (k / s.gridSyms g) (k % s.gridSyms g)

/-- Window group registers. -/
def State.wgGrid (s : State) (f g : Nat) : Nat := s.fld (Reg.FHE_WG_CFG f g) 23 16
def State.wgOfs (s : State) (f g : Nat) : Int := 65536 * signed 32 (s.rdN (Reg.FHE_WG_OPEN_OFS f g))
def State.wgLen (s : State) (f g : Nat) : Int := (65536 * s.rdN (Reg.FHE_WG_LEN f g) : Nat)
def State.wgEgress (s : State) (f g : Nat) : Bool := s.bit (Reg.FHE_WG_CFG f g) 30

/-- Member streams of an ingress group: entries of the table. -/
def State.wgMembers (s : State) (f g : Nat) : List Nat :=
  (s.fh.st.filter fun e =>
    let k := (e.2.getD 0 0).toNat
    bitOf k 31 && ! stCplane k && ! stEgress k && portEngine (stPort k) == f && stWgrp ((e.2.getD 1 0).toNat) == g).map (·.1)

/-- Address of the status word of entry i for symbol n; none when it has none. -/
def State.statAt (s : State) (i : Nat) (n : Int) : Option Nat :=
  let a := s.stW i 8 + 2 ^ 32 * s.stW i 9
  if a = 0 then none else some (a + 4 * (n % (max 1 (stNslot (s.stW i 3)) : Nat)).toNat)

/-- The status word of an entry for a symbol rewritten. -/
def State.setStat (s : State) (i : Nat) (n : Int) (f : Nat → Nat) : State :=
  match s.statAt i n with
  | some a => s.store a 4 (f (s.load a 4))
  | none => s

/-- The opening of a window by the firing for symbol n at instant t (R459); closed windows of two seconds and more ago are forgotten. -/
def State.windowOpen (s : State) (f g : Nat) (n : Int) (t : Int) : State :=
  if ! s.bit (Reg.FHE_WG_CFG f g) 31 then s else
  let G := s.wgGrid f g
  let sfn := (n / (s.gridUnits G : Int) % 1024).toNat
  let s := if s.wgEgress f g then s else
    (s.wgMembers f g).foldl (fun s i => s.setStat i n fun _ => 2 ^ 16 * sfn) s
  let keep := s.fh.wins.filter fun w => ! w.closed || t - w.hi < 2000000000 * 65536
  s.setFh { s.fh with wins := keep ++ [FhWin.mk (64 * f + g) n (s.gridTb G) t (t + s.wgLen f g) false false []] }

/-- The window of a group for symbol n. -/
def State.windowFor (s : State) (f g : Nat) (n : Int) : Option FhWin := s.fh.wins.find? fun w => w.grp == 64 * f + g && w.idx == n

/-- A window replaced. -/
def State.setWindow (s : State) (w : FhWin) : State :=
  s.setFh { s.fh with wins := s.fh.wins.map fun x => if x.grp = w.grp && x.idx = w.idx then w else x }

/-- Whether every member stream of a window is COMPLETE. -/
def State.windowFull (s : State) (w : FhWin) : Bool :=
  (s.wgMembers (w.grp / 64) (w.grp % 64)).all fun i => stNprb (s.stW i 2) ≤ sget w.cnt i 0

/-- The wake of a group for a symbol, once (R460). -/
def State.windowWake (s : State) (w : FhWin) : State :=
  if w.woke || ! s.bit (Reg.FHE_WG_CFG (w.grp / 64) (w.grp % 64)) 29 then s
  else (s.setWindow { w with woke := true }).wakeTarget (s.rd (Reg.FHE_WG_WAKE_TGT (w.grp / 64) (w.grp % 64)))

/-- The close of a window (R460). -/
def State.windowClose (s : State) (w : FhWin) : State :=
  let f := w.grp / 64
  let g := w.grp % 64
  let w' := { w with closed := true }
  let s := s.setWindow w'
  if s.wgEgress f g then s.windowWake w' else
  let s := (s.wgMembers f g).foldl (fun s i => s.setStat i w.idx fun v => putBits v 30 30 1) s
  let s := if s.windowFull w then s else (s.bumpSat (Reg.FHE_WG_STAT f g) 15 0 1).raise (740 + f)
  s.windowWake w'

/-- A group freed (R458). -/
def State.windowFree (s : State) (f g : Nat) : State :=
  let s := s.wrWords (Reg.FHE_WG_CFG f g) [0, 0, 0, 0]
  s.setFh { s.fh with wins := s.fh.wins.filter (·.grp ≠ 64 * f + g) }

/-- The symbol index nearest an instant with a frameId (SFN mod 256) and a place in the frame (R459). -/
def State.symNear (s : State) (g : Nat) (modulus frame : Nat) (pos : Nat) (t : Int) : Int :=
  let u : Int := s.gridUnits g
  let F0 := s.frameAt g t
  let d := ((frame : Int) - F0) % (modulus : Int)
  let c1 := (F0 + d) * u + pos
  let c0 := (F0 + d - (modulus : Int)) * u + pos
  if (t - s.symInst g c0).natAbs < (s.symInst g c1 - t).natAbs then c0 else c1

end Sys2Proof.Machine
end

