-- ==== Sys2Proof/Machine/RadOps.lean ====
section
/-! DEFINITION. Radio-direct operations (chapter 14): links, LEMC edges, converter starts, paths, the PA sequencer. -/

namespace Sys2Proof.Machine

def State.setRad (s : State) (x : RadState) : State := { s with rad := x }

/-! ## Links (R472 to R474): quad k, direction (true: receive), link m -/

def jCfg0 (k : Nat) (rx : Bool) (m : Nat) : Nat := if rx then Reg.JES_RX_CFG0 k m else Reg.JES_TX_CFG0 k m
def jCfg1 (k : Nat) (rx : Bool) (m : Nat) : Nat := if rx then Reg.JES_RX_CFG1 k m else Reg.JES_TX_CFG1 k m
def jStat (k : Nat) (rx : Bool) (m : Nat) : Nat := if rx then Reg.JES_RX_STAT k m else Reg.JES_TX_STAT k m
def jLat (k : Nat) (rx : Bool) (m : Nat) : Nat := if rx then Reg.JES_RX_LAT k m else Reg.JES_TX_LAT k m

/-- Parameters of a link from its configuration words: L, M, S, F, E, RATE, first lane, first stream, N. -/
structure LinkCfg where
  l : Nat
  m : Nat
  ss : Nat
  f : Nat
  e : Nat
  rate : Nat
  lane : Nat
  stream : Nat
  n : Nat

def linkCfg (c0 c1 : Nat) : LinkCfg :=
  { l := 2 ^ bitsOf c0 28 27, m := bitsOf c0 24 21 + 1, ss := 2 ^ bitsOf c0 20 19, f := bitsOf c0 12 8 + 1,
    e := bitsOf c1 31 27 + 1, rate := bitsOf c0 30 29, lane := bitsOf c0 26 25, stream := bitsOf c1 4 0, n := bitsOf c0 18 14 }

def State.link (s : State) (k : Nat) (rx : Bool) (m : Nat) : LinkCfg := linkCfg (s.rdN (jCfg0 k rx m)) (s.rdN (jCfg1 k rx m))

/-- State of a link: 0 DOWN, 1 SYNCING, 2 UP. -/
def State.jesState (s : State) (k : Nat) (rx : Bool) (m : Nat) : Nat := s.fld (jStat k rx m) 31 30

/-- A link changes state: EV0768 + ℓ for TX, EV0776 + ℓ for RX. -/
def State.setJes (s : State) (k : Nat) (rx : Bool) (m st : Nat) : State :=
  if s.jesState k rx m = st then s else
  (s.setFld (jStat k rx m) 31 30 st).raise ((if rx then 776 else 768) + 2 * k + m)

/-- Streams of a link, and whether it carries one. -/
def LinkCfg.carries (c : LinkCfg) (st : Nat) : Bool := c.stream ≤ st && st < c.stream + c.m / 2

/-- The enabled link that carries an antenna stream in a direction: (quad, link). -/
def State.streamLink (s : State) (rx : Bool) (st : Nat) : Option (Nat × Nat) :=
  ((List.range 8).find? fun i => s.bit (jCfg0 (i / 2) rx (i % 2)) 31 && (s.link (i / 2) rx (i % 2)).carries st).map
    fun i => (i / 2, i % 2)

/-- LEMC period as a fraction of 2^-16 ns: 256 * E * S / (F * Fs), with 1 / Fs = 3125 / (384 * 2^RATE) ns. -/
def LinkCfg.lemc (c : LinkCfg) : Nat × Nat := (65536 * (256 * c.e * c.ss) * 3125, 384 * c.f * 2 ^ c.rate)

/-- Edge j after a reference. -/
def LinkCfg.edge (c : LinkCfg) (ref : Int) (j : Int) : Int := ref + Int.fdiv (j * c.lemc.1) c.lemc.2

/-- Index of the first edge at or after an instant. -/
def LinkCfg.edgeAfter (c : LinkCfg) (ref t : Int) : Int := -(Int.fdiv (-(t - ref) * c.lemc.2) c.lemc.1)

/-- Distance of an instant from the nearest edge. -/
def LinkCfg.offEdge (c : LinkCfg) (ref t : Int) : Nat :=
  let j := c.edgeAfter ref t
  min (c.edge ref j - t).natAbs (t - c.edge ref (j - 1)).natAbs

/-- Time base of a quad's SYSREF stamps. -/
def State.sysTb (s : State) (k : Nat) : Nat := s.fld (Reg.JES_SYSREF_CFG k) 2 0

/-! ## Paths (R479 to R481)

The layout of the path CFG word and the place of PHASE are the model's (notes/assumptions/11.md): CFG [0] direction (1 receive),
[5:1] antenna stream, [9:8] log2 R; NCO high word [15:0] frequency [47:32], [31:16] PHASE. -/

def DfePath.rx (p : DfePath) : Bool := bitOf p.cfg 0
def DfePath.stream (p : DfePath) : Nat := bitsOf p.cfg 5 1
def DfePath.ratio (p : DfePath) : Nat := 2 ^ bitsOf p.cfg 9 8

def State.path (s : State) (c : Nat) : Option DfePath := sget s.rad.paths c none
/-- State of a path: 0 STOPPED, 1 ARMED, 2 RUNNING. -/
def State.pathState (s : State) (c : Nat) : Nat := s.fld (Reg.DFE_PATH_CTL c) 1 0
def State.setPathState (s : State) (c st : Nat) : State := s.setFld (Reg.DFE_PATH_CTL c) 1 0 st

/-- Paths of a link. -/
def State.linkPaths (s : State) (k : Nat) (rx : Bool) (m : Nat) : List Nat :=
  (List.range 64).filter fun c => (s.path c).any fun p => p.rx == rx && (s.link k rx m).carries p.stream

/-- The shadow of a path becomes active (R104, R481). -/
def State.pathHandover (s : State) (c : Nat) : State :=
  match s.path c with
  | none => s
  | some p =>
    let p' := { p with nco := s.rdN (Reg.DFE_PATH_SH_NCO_LO c) + 2 ^ 32 * s.rdN (Reg.DFE_PATH_SH_NCO_HI c),
                       gain := s.rdN (Reg.DFE_PATH_SH_GAIN c) % 65536 }
    let s := s.setRad { s.rad with paths := sput s.rad.paths c (some p') none }
    (s.setFld (Reg.DFE_PATH_CTL c) 31 31 0).bump (Reg.DFE_PATH_HANDOVER_SEQ c) 1

/-- A start edge of a link (R478, R481): its ARMED paths run from sample 0, armed shadows are handed over. -/
def State.startEdge (s : State) (k : Nat) (rx : Bool) (m : Nat) (t : Int) : State :=
  let s := s.wrN (Reg.JES_START_TS k) ((t / 65536).toNat % 2 ^ 32)
  (s.linkPaths k rx m).foldl (fun s c =>
    let s := if s.pathState c = 1 then
        ((s.setPathState c 2).wr (Reg.DFE_PATH_PROD c) 0).setRad { s.rad with acc := sput s.rad.acc c 0 0 } else s
    if s.bit (Reg.DFE_PATH_CTL c) 31 then s.pathHandover c else s) s

/-! ## The PA sequencer (R484 to R486) -/

def State.paSt (s : State) (p : Nat) : PaSt := sget s.rad.pa p PaSt.init
def State.setPa (s : State) (p : Nat) (x : PaSt) : State := s.setRad { s.rad with pa := sput s.rad.pa p x PaSt.init }
/-- State of an interface: 0 OFF, 1 RAMP_UP, 2 ON, 3 RAMP_DOWN, 4 MUTED, 5 TEST. -/
def State.paState (s : State) (p : Nat) : Nat := s.fld (Reg.DFE_PA_STAT p) 31 29
def State.setPaState (s : State) (p v : Nat) : State := s.setFld (Reg.DFE_PA_STAT p) 31 29 v

/-- Steps of a program up to its end: (DUR, OUT, SHAPE, GAIN). -/
def paSteps (ws : List Nat) : List (Nat × Nat × Nat × Nat) :=
  (ws.map fun w => (bitsOf w 63 48, bitsOf w 47 44, bitsOf w 43 42, bitsOf w 31 16)).takeWhile fun x => x.1 ≠ 0

/-- A program starts: the outputs take its first step's levels. -/
def State.paStart (s : State) (p prog : Nat) : State :=
  let x := s.paSt p
  let s := s.setPa p { x with prog := some prog, queued := none }
  match (paSteps (sget x.progs prog [])).head? with
  | some st => s.setFld (Reg.DFE_PA_STAT p) 27 24 st.2.1
  | none => s

/-- A request (R485): 0 UP, 1 DOWN, 2 MUTE, 3 TEST. -/
def State.paReq (s : State) (p req : Nat) : State :=
  let st := s.paState p
  let queue := fun (s : State) (q : Nat) =>
    ((s.setPa p { s.paSt p with queued := some q }).bumpSat (Reg.DFE_PA_OVERLAP p) 31 0 1).raise 787
  match req with
  | 0 => if st = 0 then (s.setPaState p 1).paStart p 0 else if st = 3 then queue s 0 else s
  | 1 => if st = 2 then (s.setPaState p 3).paStart p 1 else if st = 1 then queue s 1 else s
  | 2 => if st = 4 then s else
      (((s.setPaState p 4).paStart p 2).bumpSat (Reg.DFE_PA_MUTES p) 31 0 1).raise 786
  | _ => if st = 0 then (s.setPaState p 5).paStart p 3 else s

/-- A running program ends: the outputs and the gain hold its last step's; the interface moves on and a queued request starts. -/
def State.paEnd (s : State) (p : Nat) : State :=
  let x := s.paSt p
  match x.prog with
  | none => s
  | some k =>
    let s := match (paSteps (sget x.progs k [])).getLast? with
      | some st => (s.setFld (Reg.DFE_PA_STAT p) 27 24 st.2.1).setFld (Reg.DFE_PA_STAT p) 15 0 st.2.2.2
      | none => s
    let s := s.setPa p { x with prog := none, queued := none }
    let st := s.paState p
    let s := if st = 1 then s.setPaState p 2 else if st = 3 || st = 5 then s.setPaState p 0 else s
    match x.queued with
    | some q => s.paReq p q
    | none => s

/-- MUTE of every interface bound to a stream for which a condition holds (R483, R486). -/
def State.muteStreams (s : State) (cond : Nat → Bool) : State :=
  (List.range 16).foldl (fun s p =>
    if (s.paSt p).bound && cond (s.fld (Reg.DFE_PA_STAT p) 20 16) then s.paReq p 2 else s) s

/-- A realm reset mutes the interfaces of realm r (R486), stops its paths and frees its links' paths. -/
def State.radioRealmReset (s : State) (r : Nat) : State :=
  let s := (List.range 16).foldl (fun s p => if s.portBit r 0x16 2 p then s.paReq p 2 else s) s
  (List.range 64).foldl (fun s c => if (s.path c).any (·.realm == r) then s.setPathState c 0 else s) s

/-! ## Kind 2 actions (R477, R478) -/

/-- Whether a TARGET word has the layout of R477. -/
def radioTargetOk (t : Nat) : Bool :=
  match t / 2 ^ 12 with
  | 0 => t % 2 ^ 12 < 32 && ! bitOf t 1
  | 1 => t % 2 ^ 12 < 16
  | 2 => t % 2 ^ 12 < 16
  | _ => false

/-- Whether realm r holds a kind 2 target: every lane of the link, or the interface. -/
def State.radioTargetMine (s : State) (r t : Nat) : Bool :=
  if t / 2 ^ 12 = 0 then
    let k := bitsOf t 4 3
    let c := s.link k (bitOf t 2) (bitsOf t 0 0)
    (List.range c.l).all fun i => s.portBit r (if bitOf t 2 then 0x12 else 0x10) 2 (4 * k + c.lane + i)
  else s.portBit r 0x16 2 (t % 16)

/-- A kind 2 firing at an instant of time base tb: a converter start waits for its edge; a PA program is requested. -/
def State.radioFire (s : State) (t : Nat) (inst : Int) (tb : Nat) : State :=
  match t / 2 ^ 12 with
  | 0 => s.setRad { s.rad with starts := s.rad.starts ++ [(4 * bitsOf t 4 3 + 2 * bitsOf t 2 2 + bitsOf t 0 0, (inst, tb))] }
  | 1 => s.paReq (t % 16) 0
  | 2 => s.paReq (t % 16) 1
  | _ => s

/-! ## Samples (R480) -/

/-- Time of the paths moved on by one nanosecond: a RUNNING path has output or written as many samples as its rate gives since the
start edge. A receive path writes its ring (samples of the air are free values); the gain and sum stages may clamp. -/
def State.pathTick (s : State) (c : Nat) : State :=
  if s.pathState c ≠ 2 then s else
  match s.path c with
  | none => s
  | some p =>
    match s.streamLink p.rx p.stream with
    | none => s
    | some (k, m) =>
      let rate := (s.link k p.rx m).rate
      let t := sget s.rad.acc c 0 + 384 * 2 ^ rate
      let more := t / (3125 * p.ratio)
      let n := s.rdN (Reg.DFE_PATH_PROD c)
      let s := s.setRad { s.rad with acc := sput s.rad.acc c (t % (3125 * p.ratio)) 0 }
      let s := s.bump (Reg.DFE_PATH_PROD c) more
      let s := if p.rx then
          (List.range more).foldl (fun s i =>
            let b := s.freeBytes 4
            b.2.setBytes (p.ring + 4 * ((n + i) % max p.len 1)) b.1) s
        else s
      let f := s.free1 (more + 1)
      let s := f.2.bumpSat (Reg.DFE_PATH_SAT c) 31 0 f.1
      if p.rx then s else
      let g := s.free1 (more + 1)
      g.2.bumpSat (Reg.DFE_STREAM_SUMSAT p.stream) 31 0 g.1

end Sys2Proof.Machine
end

