-- ==== Sys2Proof/Machine/RandomAccess.lean ====
section
/-! DEFINITION. The random-access engines (chapter 10) and the end of a pool or RA job. -/

namespace Sys2Proof.Machine

/-- RA_CTX_FULL (R373). -/
def RA_CTX_FULL : Nat := 0x80

/-! ## Formats (R354, R355), as 38.211 and 36.211 define them -/

/-- CP and sequence length in Ts of 1/30.72 µs at the base subcarrier spacing, sequences, for each opcode and FORMAT. -/
def raFormat (op fmt : Nat) : Option (Nat × Nat × Nat) :=
  match op, fmt with
  | 1, 0 => some (3168, 24576, 1) | 1, 1 => some (21024, 24576, 2) | 1, 2 => some (4688, 24576, 4) | 1, 3 => some (3168, 6144, 4)
  | 1, 4 => some (288, 2048, 2) | 1, 5 => some (576, 2048, 4) | 1, 6 => some (864, 2048, 6) | 1, 7 => some (216, 2048, 2)
  | 1, 8 => some (936, 2048, 12) | 1, 9 => some (1240, 2048, 1) | 1, 10 => some (2048, 2048, 4) | 1, 11 => some (288, 2048, 2)
  | 1, 12 => some (576, 2048, 4) | 1, 13 => some (864, 2048, 6)
  | 2, 0 => some (3168, 24576, 1) | 2, 1 => some (21024, 24576, 1) | 2, 2 => some (6240, 24576, 2) | 2, 3 => some (21024, 24576, 2)
  | 2, 4 => some (448, 4096, 1)
  | 3, 0 => some (4 * 2048, 8192, 20) | 3, 1 => some (4 * 8192, 8192, 20) | 3, 2 => some (6 * 24576, 24576, 18)
  | _, _ => none

/-- Subcarrier spacing of an SCS code in Hz. -/
def raScs (c : Nat) : Nat := [1250, 5000, 15000, 30000, 60000, 120000, 3750, 7500].getD c 1250

/-- Sequence length LZC. -/
def raLzc (op fmt seq : Nat) : Nat :=
  if op = 1 then (if fmt ≤ 3 then 839 else if seq = 1 then 571 else if seq = 2 then 1151 else 139)
  else if op = 2 then (if fmt ≤ 3 then 839 else 139) else 1

/-- Correlation size. -/
def raNfft (lzc : Nat) : Nat := if lzc = 139 then 256 else if lzc = 1151 then 2048 else 1024

/-- Whether FORMAT, SCS, SEQ and SET belong together (R355). -/
def raCombo (op fmt scs seq set : Nat) : Bool :=
  if op = 1 then
    (if fmt ≤ 2 then scs == 0 && seq == 0 && set ≤ 2 else if fmt = 3 then scs == 1 && seq == 0 && set ≤ 2
     else fmt ≤ 13 && set == 0 && 2 ≤ scs && scs ≤ 5 && (seq == 0 || (seq == 1 && scs == 3) || (seq == 2 && scs == 2)))
  else if op = 2 then
    (if fmt ≤ 3 then scs == 0 && seq == 0 && set ≤ 2 else fmt == 4 && scs == 7 && seq == 0 && set == 0)
  else (if fmt ≤ 1 then scs == 6 else fmt == 2 && scs == 0) && seq == 0 && set == 0

/-- The fields of an occasion. -/
structure Occasion where
  op : Nat
  rep : Nat
  thset : Nat
  na : Nat
  ntn : Bool
  afc : Bool
  set : Nat
  rate : Nat
  domain : Bool
  scs : Nat
  seq : Nat
  fmt : Nat
  nroot : Nat
  u0 : Nat
  npre : Nat
  ncs : Nat
  occ : Nat
  astride : Nat
  start : Int
  len : Nat

def Occasion.of (op : Nat) (j : Job) : Occasion :=
  let w := j.n 6
  { op := op, rep := bitsOf w 31 24, thset := bitsOf w 23 22, na := bitsOf w 21 16 + 1, ntn := bitOf w 15, afc := bitOf w 14,
    set := bitsOf w 13 12, rate := bitsOf w 11 10, domain := bitOf w 9, scs := bitsOf w 8 6, seq := bitsOf w 5 4, fmt := bitsOf w 3 0,
    nroot := bitsOf (j.n 7) 22 16, u0 := bitsOf (j.n 7) 9 0, npre := bitsOf (j.n 8) 22 16, ncs := bitsOf (j.n 8) 9 0,
    occ := bitsOf (j.n 9) 31 16, astride := bitsOf (j.n 9) 15 0, start := signed 32 (j.n 10), len := j.n 11 }

def Occasion.lzc (o : Occasion) : Nat := raLzc o.op o.fmt o.seq
/-- Sequences of one preamble. -/
def Occasion.seqs (o : Occasion) : Nat := ((raFormat o.op o.fmt).getD (0, 0, 1)).2.2

/-- Window samples of the correlation (R370). -/
def Occasion.nwin (o : Occasion) : Nat :=
  if o.domain then ceilDiv (o.len * raNfft o.lzc * raScs o.scs) (10 ^ 9) else 0

/-- Whether an occasion's fields are in range (R355, R357). -/
def Occasion.ok (o : Occasion) (j : Job) : Bool :=
  wordsOk j (poolMasks [0xFFFFFFFF, 0x007F03FF, 0x007F03FF, 0xFFFFFFFF, 0xFFFFFFFF, 0xFFFFFFFF, 0xFFFFFFFF]) &&
    raCombo o.op o.fmt o.scs o.seq o.set && 1 ≤ o.rep && o.rep ≤ 128 && (o.op ≠ 1 || o.rep == 1) &&
    1 ≤ o.nroot && o.nroot ≤ 64 && (o.op ≠ 3 || o.nroot == 1) && o.u0 < 1024 &&
    (if o.op = 3 then [12, 24, 36, 48].contains o.npre else 1 ≤ o.npre && o.npre ≤ 64) && o.ncs < max o.lzc 1 &&
    decide (-200000 ≤ o.start) && decide (o.start ≤ 1400000) && o.len ≤ 1400000 && decide (o.start + o.len ≤ 1400000) &&
    (o.domain || o.len * raScs o.scs ≤ 10 ^ 9)

/-- Bytes of one antenna's block (R356). -/
def Occasion.block (o : Occasion) : Nat :=
  if o.domain then
    let f := (raFormat o.op o.fmt).getD (0, 0, 1)
    -- short formats shrink with the subcarrier spacing from 15 kHz
    let div := if o.op = 1 && 4 ≤ o.fmt then raScs o.scs / 15000 else 1
    let ts := (f.1 + f.2.1 * f.2.2) * o.rep
    4 * (ceilDiv (ts * 2 ^ o.rate) div + ceilDiv (o.len * 3072 * 2 ^ o.rate) 100000)
  else 4 * o.lzc * o.seqs * o.rep

/-- Work cycles of an occasion with d detections (R370). -/
def Occasion.work (o : Occasion) (d : Nat) : Nat :=
  if o.op = 3 then 64 + o.na * o.rep * o.npre * 4 + 200 * d
  else 64 + o.na * o.nroot * (o.seqs * o.rep) * ceilDiv (raNfft o.lzc + o.nwin) 8 + 200 * d

/-! ## Thresholds (R360) -/

/-- Terms of x^k/k! summed for k < n, x in 2^-128. -/
def expTerms (x : Nat) : Nat → Nat → Nat → Nat → Nat
  | 0, _, _, acc => acc
  | n + 1, k, term, acc => expTerms x n (k + 1) (term * x / 2 ^ 128 / (k + 1)) (acc + term)

/-- Q(L, x) = e^-x times the sum of x^k/k! for k < L, in 2^-128. -/
def gammaQ (l x : Nat) : Nat := expTerms x l 0 (2 ^ 128) 0 * 2 ^ 128 / max 1 (expTerms x (1200 + 2 * (x / 2 ^ 128)) 0 (2 ^ 128) 0)

/-- p to the power n, p in 2^-128, by repeated squaring over the bits of n. -/
def powFix (p : Nat) : Nat → Nat → Nat
  | 0, _ => 2 ^ 128
  | fuel + 1, n =>
    if n = 0 then 2 ^ 128 else
    let h := powFix (p * p / 2 ^ 128) fuel (n / 2)
    if n % 2 = 1 then h * p / 2 ^ 128 else h

/-- Whether a threshold of t/256 meets the target 10^(−v/40) (R360): both sides to the 40th power. -/
def thrMeets (l w v t : Nat) : Bool :=
  let q := gammaQ l (l * t * 2 ^ 120)
  let p := 2 ^ 128 - powFix (2 ^ 128 - min q (2 ^ 128)) 40 w
  decide (p ^ 40 * 10 ^ v ≤ (2 ^ 128) ^ 40)

/-- Threshold of one root in 1/256: an entry's absolute value, or the smallest that meets its target. -/
def raThreshold (entry l w : Nat) : Nat :=
  if bitOf entry 15 then entry % 2 ^ 15
  else ((List.range 65536).find? fun t => thrMeets l w (entry % 2 ^ 15) t).getD 65535

/-- Threshold entry k of set t of realm r on engine e. -/
def State.thrEntry (s : State) (e r t k : Nat) : Nat :=
  bitsOf (s.rdN (Reg.RAE_THR_SET_W e r t (k / 2))) (16 * (k % 2) + 15) (16 * (k % 2))

/-- Preambles on one root. -/
def Occasion.onRoot (o : Occasion) : Nat := if o.ncs = 0 then 1 else max 1 (min o.npre (o.lzc / o.ncs))

/-- Threshold of root k of an occasion. -/
def State.occThr (s : State) (e r : Nat) (o : Occasion) (k : Nat) : Nat :=
  let pos := if o.op = 3 then 1 else if o.domain then o.nwin else if o.ncs = 0 then o.lzc else o.ncs
  raThreshold (s.thrEntry e r o.thset (if o.op = 3 then 0 else k)) (o.na * o.seqs * o.rep) (pos * o.onRoot)

/-! ## Contexts and records -/

def State.raCtx (s : State) (e c : Nat) : Option RaCtx := sget s.ra.ctx (32 * e + c) none

/-- CTX[c] follows the context; STATUS counts the busy ones. -/
def State.setCtx (s : State) (e c : Nat) (x : Option RaCtx) : State :=
  let s := { s with ra := { s.ra with ctx := sput s.ra.ctx (32 * e + c) x none } }
  let a := Reg.RAE_CTX_STATE e c
  let s := match x with
    | none => (s.setFld a 30 28 0).setFld a 21 0 0
    | some k => ((s.setFld a 30 28 k.state).setFld a 21 16 k.det.preamble).setFld a 15 0 k.det.metric.toNat
  let s := s.wrN (Reg.RAE_CTX_CFO e c) (x.elim 0 fun k => k.det.cfo.toNat)
  s.setFld (Reg.RAE_STATUS e) 19 14 ((List.range 32).filter fun c => (s.raCtx e c).isSome).length

/-- Contexts allotted to a realm on an engine. -/
def State.ctxOf (s : State) (e r : Nat) : List Nat :=
  (List.range 32).filter fun c => s.bit (Reg.RAE_CTX_STATE e c) 31 && s.fld (Reg.RAE_CTX_STATE e c) 27 24 == r

/-- Contexts given out anew (R352): floor(QUOTA × 32 / 256) each, lowest-numbered first in ascending realm order. -/
def State.raAllot (s : State) (e : Nat) : State :=
  let owners := (List.range 16).flatMap fun r => List.replicate (s.share r 7 e * 32 / 256) r
  (List.range 32).foldl (fun s c =>
    let a := Reg.RAE_CTX_STATE e c
    match owners[c]? with
    | some r => (s.setFld a 31 31 1).setFld a 27 24 r
    | none => (s.setFld a 31 31 0).setFld a 27 24 0) s

/-- A record written to a realm's queue on an engine (R368, R369); dropped when the queue is full or not configured. -/
def State.raRecord (s : State) (e r : Nat) (k : RaCtx) (status ctx plen slotIter : Nat) (payload : Bool) : State :=
  let a := Reg.RAE_RQ_CFG e r
  let log := s.fld a 20 16
  let size := 2 ^ log
  let p := s.fld (Reg.RAE_RQ_PROD e r) 15 0
  if log = 0 || (p + size - s.fld (Reg.RAE_RQ_CONS e r) 15 0) % size = size - 1 then
    (s.bumpSat (Reg.RAE_RQ_DROP e r) 31 0 1).raise (452 + e)
  else
    let tb := s.defaultTb r
    let pass := sget s.ra.phase (16 * e + r) 0
    let flags := b2n payload + b2n k.det.multi * 2 + b2n k.ntn * 4 + tb * 8
    let body := leBytes 4 (s.ts32 tb) ++ leBytes 2 k.occ ++ leBytes 2 k.tag ++
      [BitVec.ofNat 8 status, BitVec.ofNat 8 flags, BitVec.ofNat 8 k.det.preamble, BitVec.ofNat 8 ctx] ++
      leBytes 2 k.det.metric.toNat ++ leBytes 2 k.rootIdx ++ leBytes 4 k.det.delay.toNat ++ leBytes 4 k.det.cfo.toNat ++
      leBytes 2 plen ++ [BitVec.ofNat 8 slotIter, 0]
    let g := cat64 (s.rd (Reg.RAE_RQ_BASE_LO e r)) (s.rd (Reg.RAE_RQ_BASE_HI e r)) + 32 * p
    let s := (s.devWrite g body).getD s
    let s := (s.devWrite (g + 28) (leBytes 4 ((if pass % 2 = 0 then 2 ^ 31 else 0) + k.inst))).getD s
    let s := s.setFld (Reg.RAE_RQ_PROD e r) 15 0 ((p + 1) % size)
    let s := if p + 1 = size then { s with ra := { s.ra with phase := sput s.ra.phase (16 * e + r) (pass + 1) 0 } } else s
    let ev := evSignal (s.fld a 1 0) (s.fld a 15 8) (sget s.batch a 0) false
    let s := { s with batch := sput s.batch a ev.2 0 }
    if ev.1 then s.raise (416 + 16 * e + r) else s

/-- A payload context ends (R361): PAYLOAD record, then FREE. -/
def State.payloadEnd (s : State) (e c : Nat) (k : RaCtx) (status plen slotIter : Nat) : State :=
  let s := s.raRecord e k.realm k status c plen slotIter true
  let s := if sget s.ra.run e 0 = c + 1 then { s with ra := { s.ra with run := sput s.ra.run e 0 0 } } else s
  s.setCtx e c none

/-- Whether a payload table entry's fields are in range (R366). -/
def entryOk (bs : List Byte) : Bool :=
  let n := fun o k => leNat ((bs.drop o).take k)
  bitOf (n 0xF 1) 0 && ! bitOf (n 0xF 1) 1 && n 0xF 1 < 4 && 1 ≤ n 0xA 1 && n 0xA 1 ≤ 32 && 1 ≤ n 0xB 1 && n 0xB 1 ≤ 14 &&
    8 ≤ n 0xC 2 && n 0xC 2 ≤ 3824 && [1, 2, 4, 6].contains (n 0xE 1) && n 0x10 2 < 2 ^ 14 && n 0x14 4 < 2 ^ 31 && n 0x1C 1 < 8 &&
    n 0x1D 3 == 0

/-- The weakest context of a realm that may be pre-empted: least metric, then highest number (R363). -/
def State.weakest (s : State) (e r : Nat) : Option (Nat × RaCtx) :=
  (s.ctxOf e r).foldl (fun (b : Option (Nat × RaCtx)) c =>
    match s.raCtx e c, b with
    | some k, none => if k.state = 1 then b else some (c, k)
    | some k, some (_, m) => if k.state ≠ 1 && k.det.metric.toNat ≤ m.det.metric.toNat then some (c, k) else b
    | none, _ => b) none

/-- One detection of an occasion (R363): a FREE context, a weaker one pre-empted, or RA_CTX_FULL. Counts are
(pre-emptions, full, taken). -/
def State.raDetect (s : State) (e r : Nat) (k : RaCtx) (ptab : Nat) (n : Nat × Nat × Nat) : State × (Nat × Nat × Nat) :=
  let give := fun (s : State) (c : Nat) =>
    let bs := if ptab = 0 then [] else s.gbytes (ptab + 32 * k.det.preamble) 32
    let valid := ptab ≠ 0 && entryOk bs
    let s := if ptab ≠ 0 && bitOf (leNat ((bs.drop 0xF).take 1)) 0 && ! entryOk bs then
        s.errInfo (Reg.RAE_ERR_INFO e) r 0 St.BAD_PARAM else s
    let s := s.setCtx e c (some { k with state := 1 })
    let s := s.raRecord e r k St.OK c 0 0 false
    s.setCtx e c (if valid then some { k with state := 2, entry := bs } else none)
  match (s.ctxOf e r).find? fun c => (s.raCtx e c).isNone with
  | some c => (give s c, (n.1, n.2.1, n.2.2 + 1))
  | none =>
    match s.weakest e r with
    | some (c, m) =>
      if m.det.metric.toNat < k.det.metric.toNat then
        let s := s.bump (Reg.RAE_PREEMPTS e) 1
        (give (s.payloadEnd e c m St.PREEMPTED 0 0) c, (n.1 + 1, n.2.1, n.2.2 + 1))
      else
        let full := { k with det := { k.det with cfo := 0 } }
        ((s.bump (Reg.RAE_CTXFULL e) 1).raRecord e r full RA_CTX_FULL 255 0 0 false, (n.1, n.2.1 + 1, n.2.2))
    | none =>
      let full := { k with det := { k.det with cfo := 0 } }
      ((s.bump (Reg.RAE_CTXFULL e) 1).raRecord e r full RA_CTX_FULL 255 0 0 false, (n.1, n.2.1 + 1, n.2.2))

/-- Detections in the order of R363: descending metric, lower preamble first. -/
def detOrder (ds : List RaDet) : List RaDet :=
  let ins := fun (l : List RaDet) (d : RaDet) =>
    let before := fun x : RaDet => d.metric.toNat < x.metric.toNat || (d.metric = x.metric && x.preamble.val ≤ d.preamble.val)
    l.takeWhile before ++ [d] ++ l.dropWhile before
  ds.foldl ins []

/-- Detections that an occasion reports (R359): one per preamble of the occasion, above its root's threshold. -/
def State.reported (s : State) (e r : Nat) (o : Occasion) (ds : List RaDet) : List RaDet :=
  ds.foldl (fun l d =>
    if d.preamble.val < o.npre && d.root.val < o.nroot && ! l.any (fun x => x.preamble == d.preamble) &&
      s.occThr e r o d.root < d.metric.toNat then l ++ [d] else l) []

/-- An occasion job (R355): it starts as a job of pool 7 does. -/
def occasionJob (op : Nat) (j : Job) (ds : List RaDet) (s : State) : State :=
  let o := Occasion.of op j
  let e := match j.ring with
    | .ra e _ => e.val
    | _ => 0
  let r := ((ringUnit j.ring).map (·.2)).getD 0
  let ptab := jOut j
  let reads := ((List.range o.na).map fun k => (jIn j + k * o.astride * 64, o.block)) ++ (if ptab = 0 then [] else [(ptab, 32 * o.npre)])
  let x := (s.executor (56 + e) r).getD (56 + e) - 56
  let ds := if o.ok j then detOrder (s.reported x r o ds) else []
  poolJob 7 j (o.ok j) reads [] true ds (fun s =>
    let s := s.wrN (Reg.RAE_RQ_LAST_THR x r) (s.occThr x r o 0)
    (s, { status := St.OK, result := 0, data := [], work := o.work ds.length })) s

def execNrPrach (j : Job) (ds : List RaDet) (s : State) : Out := .next (occasionJob 1 j ds s)
def execLtePrach (j : Job) (ds : List RaDet) (s : State) : Out := .next (occasionJob 2 j ds s)
def execNprach (j : Job) (ds : List RaDet) (s : State) : Out := .next (occasionJob 3 j ds s)

/-- The detections of an occasion that ends on engine e: contexts, records, counters; answers RESULT. -/
def State.occasionEnd (s : State) (e r : Nat) (p : PoolJob) : State × Nat :=
  let j := p.job
  let o := Occasion.of (bitsOf (j.n 0) 23 16) j
  let mk := fun d : RaDet =>
    let d := if o.afc then d else { d with cfo := 0 }
    ({ state := 1, realm := r, det := d, occ := o.occ, tag := j.n 0 % 65536, inst := j.n 1 % 65536,
       rootIdx := if o.op = 3 then o.u0 else (o.u0 + d.root) % (o.lzc - 1), ntn := o.ntn, na := o.na, entry := [] } : RaCtx)
  let q := p.dets.foldl (fun (a : State × (Nat × Nat × Nat)) d => a.1.raDetect e r (mk d) (jOut j) a.2) (s, (0, 0, 0))
  (q.1.bump (Reg.RAE_DETS e) p.dets.length,
    2 ^ 24 * min q.2.1 255 + 2 ^ 16 * q.2.2.1 + q.2.2.2 * 2 ^ 8 + p.dets.length)

/-- The job that a pool unit or RA engine runs ends, and its descriptor is written back in ring order (R317). -/
def execPoolJobComplete (x : Fin 58) (s : State) : Out :=
  match sget s.eng x.val none with
  | none => .next s
  | some p =>
    if x.val < 56 then .next (s.endPoolJob x p)
    else
      let q := s.occasionEnd (x - 56) (((ringUnit p.job.ring).map (·.2)).getD 0) p
      .next (q.1.endPoolJob x { p with result := q.2 })

/-! ## Payloads (R361, R367) -/

/-- PREADY of a context and the time base it is on. -/
def RaCtx.pready (k : RaCtx) : Nat × Nat := (leNat ((k.entry.drop 0x18).take 4), leNat ((k.entry.drop 0x1C).take 1) % 8)

/-- The time base reaches PREADY: the payload is queued. -/
def execPreadyReached (e : Fin 2) (c : Fin 32) (s : State) : Out :=
  match s.raCtx e c with
  | none => .next s
  | some k =>
    let p := k.pready
    if k.state = 2 && 0 ≤ signed 32 (s.ts32 p.2 + 2 ^ 32 - p.1) then .next (s.setCtx e c (some { k with state := 3 })) else .next s

/-- The engine, idle, starts the queued payload whose PREADY is earliest (R370). -/
def execPayloadProcess (e : Fin 2) (s : State) : Out :=
  if (sget s.eng (56 + e) none).isSome || sget s.ra.run e.val 0 ≠ 0 then .next s else
  let late := fun k : RaCtx => signed 32 (s.ts32 k.pready.2 + 2 ^ 32 - k.pready.1)
  let first := (List.range 32).foldl (fun (b : Option (Nat × Int)) c => match s.raCtx e c, b with
    | some k, none => if k.state = 3 then some (c, late k) else none
    | some k, some (_, l) => if k.state = 3 && l < late k then some (c, late k) else b
    | none, _ => b) none
  match first with
  | some (c, _) => .next { s with ra := { s.ra with run := sput s.ra.run e.val (c + 1) 0 } }
  | none => .next s

/-- Slot of a context's payload area (R367): 0 or 1 alternately, and its local address. -/
def State.paySlot (s : State) (e c : Nat) (k : RaCtx) : Nat × Nat :=
  let t := sget s.ra.tog (32 * e + c) 0
  let base := cat64 (s.rd (Reg.RAE_RQ_PAY_LO e k.realm)) (s.rd (Reg.RAE_RQ_PAY_HI e k.realm))
  let first := (s.ctxOf e k.realm).headD c
  (t, base + 512 * (2 * (c - first) + t))

/-- The payload an engine decodes ends (R361): its CRC passes or fails, or its samples cannot be read (R322). -/
def execPayloadComplete (e : Fin 2) (pass : Bool) (s : State) : Out :=
  match sget s.ra.run e.val 0 with
  | 0 => .next s
  | c + 1 =>
    match s.raCtx e c with
    | none => .next { s with ra := { s.ra with run := sput s.ra.run e.val 0 0 } }
    | some k =>
      let n := fun o w => leNat ((k.entry.drop o).take w)
      let len := n 0xB 1 * n 0xA 1 * 12 * 4
      let st := s.readsStatus ((List.range k.na).map fun a => (n 0 8 + a * n 8 2 * 64, len))
      let slot := s.paySlot e c k
      let bytes := (n 0xC 2 + 7) / 8
      let f := s.freeBytes bytes
      let it := f.2.free1 20
      let s := it.2.setBytes slot.2 f.1
      let s := { s with ra := { s.ra with tog := sput s.ra.tog (32 * e + c) (1 - slot.1) 0 } }
      let it := it.1 + 1
      let s := s.bump (Reg.RAE_WORK e) (120 + ceilDiv (k.na * n 0xA 1 * 12 * n 0xB 1) 16 + it)
      if st ≠ St.OK then
        .next ((s.errInfo (Reg.RAE_ERR_INFO e) k.realm 0 st).payloadEnd e c k st 0 (slot.1 * 32 + it))
      else if pass then .next (s.payloadEnd e c k St.OK bytes (slot.1 * 32 + it))
      else .next ((s.bump (Reg.RAE_CRCFAIL e) 1).payloadEnd e c k St.CRC_FAIL 0 (slot.1 * 32 + it))

/-! ## Commands (R372) -/

def cmdRae (d : Desc) : Nat := d.n 3 % 2
def State.raShare (s : State) (d : Desc) : Bool := d.tgt < 16 && s.share d.tgt 7 (cmdRae d) ≠ 0

/-- RA_RING: as RING_CONFIG. -/
def execRaRing (d : Desc) (s : State) : Out :=
  let e := cmdRae d
  let ring : RingId := .ra (Fin.ofNat 2 e) (Fin.ofNat 16 d.tgt)
  let b := ringBase ring
  let en := wbit (d.word 6) 31
  .next (commandNow 0x50 d (fun s => firstFail [stoppedOrRunning s d, need (s.raShare d) St.ACCESS_DENIED, notExpert s (0x280 + e),
      need (! (en && ringEnabled s b)) St.WRONG_STATE, need (! wbit (d.word 9) 31 || s.targetOf (d.word 10) d.tgt) St.ACCESS_DENIED])
    (fun s =>
      let s := if en then s else s.ringCfgWrite ring (d.word 6)
      let s := (s.ringBaseWrite ring (d.word 4) (d.word 5)).ringHeadwbWrite ring (d.word 7) (d.word 8)
      let s := s.wrN (Reg.RAE_RING_NOTIFY_CTL e d.tgt) (2 ^ 31 * wfld (d.word 9) 31 31)
      let s := s.wr (Reg.RAE_RING_NOTIFY_TGT e d.tgt) (d.word 10)
      let s := if en then s.ringCfgWrite ring (d.word 6) else s
      (s, St.OK, [s.rd (b + 8)])) s)

/-- RA_CONFIG. -/
def execRaConfig (d : Desc) (s : State) : Out :=
  let e := cmdRae d
  let r := d.tgt
  let q := cat64 (d.word 4) (d.word 5)
  let pay := cat64 (d.word 7) (d.word 8)
  let k := bitsOf (d.n 6) 20 16
  let inMine := fun (s : State) (g n : Nat) => (s.localOf g).any fun a => s.inRealm r a n
  .next (commandNow 0x51 d (fun s => firstFail [stoppedOrRunning s d, need (s.raShare d) St.ACCESS_DENIED, notExpert s (0x280 + e),
      need (! s.bit (Reg.RAE_RING_CFG e r) 31 && (s.ctxOf e r).all fun c => (s.raCtx e c).isNone) St.WRONG_STATE,
      need (6 ≤ k && k ≤ 16 && d.n 6 % 4 ≠ 3 && q % 32 == 0 && pay % 64 == 0) St.BAD_PARAM,
      need (inMine s q (32 * 2 ^ k) && inMine s pay ((s.ctxOf e r).length * 1024)) St.ACCESS_DENIED])
    (fun s =>
      let s := s.wrWords (Reg.RAE_RQ_BASE_LO e r) [d.word 4, d.word 5, w32 (2 ^ 16 * k + bitsOf (d.n 6) 15 8 * 2 ^ 8 + d.n 6 % 4), 0, 0,
        d.word 7, w32 (d.n 8 % 65536)]
      let s := { s with ra := { s.ra with phase := sput s.ra.phase (16 * e + r) 0 0 } }
      (s, St.OK, [d.word 4, d.word 5, s.rd (Reg.RAE_RQ_CFG e r), d.word 7, d.word 8])) s)

/-- RA_THRESH: entries from memory, from the next occasion. -/
def execRaThresh (d : Desc) (s : State) : Out :=
  let e := cmdRae d
  let set := bitsOf (d.n 3) 5 4
  let first := bitsOf (d.n 3) 13 8
  let n := bitsOf (d.n 3) 22 16
  let g := cat64 (d.word 4) (d.word 5)
  .next (commandNow 0x52 d (fun s => firstFail [runningCheck s d, need (s.raShare d) St.ACCESS_DENIED, notExpert s (0x280 + e),
      need (1 ≤ n && first + n ≤ 64) St.BAD_PARAM, need (s.rangeOk d.tgt (g, 2 * n)) St.ACCESS_DENIED,
      let st := s.readStatus g (2 * n); (st, 0)])
    (fun s =>
      let bs := s.gbytes g (2 * n)
      ((List.range n).foldl (fun s i =>
        let k := first + i
        s.setFld (Reg.RAE_THR_SET_W e d.tgt set (k / 2)) (16 * (k % 2) + 15) (16 * (k % 2)) (leNat ((bs.drop (2 * i)).take 2))) s,
        St.OK, [w32 n])) s)

/-- RA_QUERY. -/
def execRaQuery (d : Desc) (s : State) : Out :=
  let e := cmdRae d
  .next (commandNow 0x53 d (fun s => firstFail [runningCheck s d, need (s.raShare d) St.ACCESS_DENIED])
    (fun s => (s, St.OK, [w32 (s.ctxOf e d.tgt).length, w32 ((s.ctxOf e d.tgt).filter fun c => (s.raCtx e c).isSome).length,
      s.rd (Reg.RAE_RQ_PROD e d.tgt), s.rd (Reg.RAE_RQ_CONS e d.tgt), s.rd (Reg.RAE_RQ_DROP e d.tgt), s.rd (Reg.RAE_RQ_LAST_THR e d.tgt)])) s)

/-- RA_ABORT: payload contexts end ABORTED (R361). -/
def execRaAbort (d : Desc) (s : State) : Out :=
  let e := cmdRae d
  .next (commandNow 0x54 d (fun s => firstFail [runningCheck s d, need (s.raShare d) St.ACCESS_DENIED, notExpert s (0x280 + e)])
    (fun s =>
      let cs := (s.ctxOf e d.tgt).filter fun c => (s.raCtx e c).any fun k => k.state ≠ 1
      (cs.foldl (fun s c => match s.raCtx e c with
        | some k => s.payloadEnd e c k St.ABORTED 0 0
        | none => s) s, St.OK, [w32 cs.length])) s)

end Sys2Proof.Machine
end

