-- ==== Sys2Proof/Machine/Scribe.lean ====
section
/-! DEFINITION. The Scribes (chapter 12): copy descriptors, the Chancery rate limiter, channel claims and timed rounds. -/

namespace Sys2Proof.Machine

def SCB_FENCED : Nat := 0x80

def State.setScb (s : State) (x : ScbState) : State := { s with scb := x }

/-! ## Address checks (R423) -/

/-- Whether the device may reach the host window for realm r (R597): Bus Master Enable of VF r + 1, or of the PF. -/
def State.hostOk (s : State) (r : Nat) : Bool := s.host.bme.contains (if r < 16 then r + 1 else 0)

/-- Whether a Scribe descriptor of realm r (16: of the device) may name n bytes at a global address: a carve-out, the host window
through the realm's function, or a remote address, which the peer checks. -/
def State.scribeOk (s : State) (r g n : Nat) : Bool :=
  match s.localOf g with
  | some a => s.memOk a n && (if 0x100000000000 ≤ a then s.hostOk r
      else if r < 16 then s.inRealm r a n else (List.range 16).any (s.inRealm · a n) || s.inRealm 255 a n)
  | none => bitOf g 63 && ! bitOf g 62 && bitsOf g 55 48 == 0

/-! ## What a descriptor moves (R422) -/

/-- One run of bytes of a descriptor: source, destination, length. -/
structure Seg where
  src : Nat
  dst : Nat
  len : Nat

/-- A 64-bit sum that wraps. -/
def addG (a : Nat) (d : Int) : Nat := unsigned 64 ((a : Int) + d)

def jSrc (j : Job) : Nat := cat64 (j.word 2) (j.word 3)
def jDst (j : Job) : Nat := cat64 (j.word 4) (j.word 5)
def jOp (j : Job) : Nat := bitsOf (j.n 0) 23 16

/-- The runs of a copy in order, k outermost. -/
def copySegs (j : Job) (n1 n2 : Nat) : List Seg :=
  (List.range n2).flatMap fun k => (List.range n1).map fun i =>
    Seg.mk (addG (jSrc j) (k * signed 32 (j.n 10) + i * signed 32 (j.n 8)))
      (addG (jDst j) (k * signed 32 (j.n 11) + i * signed 32 (j.n 9))) (j.n 6)

/-- The runs of a gather or scatter, its index table read. -/
def gatherSegs (s : State) (j : Job) : List Seg :=
  let iw := if bitOf (j.n 10) 0 then 8 else 4
  let tab := (s.localOf (cat64 (j.word 8) (j.word 9))).getD 0
  let n := bitsOf (j.n 6) 16 0
  (List.range (bitsOf (j.n 7) 23 0)).map fun i =>
    let x := s.load (tab + iw * i) iw
    if bitOf (j.n 10) 1 then Seg.mk (addG (jSrc j) (i * n : Nat)) (addG (jDst j) x) n
    else Seg.mk (addG (jSrc j) x) (addG (jDst j) (i * n : Nat)) n

/-! ## The move -/

/-- A move under way: the state with what is written so far, the runs written (local address, bytes; newest first), bytes done, and
the failure that ended it (status, whether on a write). -/
structure Move where
  st : State
  out : List (Nat × List Byte)
  n : Nat
  fail : Option (Nat × Bool)

/-- Bytes readable in order at a global address before the first failing one, and that failure's status: R380, R399, R528. -/
def State.readable (s : State) (g n : Nat) : Nat × Nat :=
  match s.localOf g with
  | none => if s.remoteOk g then (n, St.OK) else (0, St.FABRIC_UNREACHABLE)
  | some a =>
    if ! s.memOk a n then (0, St.ACCESS_DENIED)
    else if s.markOf a n = 0 then (n, St.OK)
    else match (List.range n).find? fun k => s.markOf (a + k) 1 ≠ 0 with
      | some k => (k, if s.markOf (a + k) 1 = 1 then St.POISONED else St.RETENTION_LOST)
      | none => (n, St.OK)

/-- Byte k of a run's source: a byte this descriptor has overwritten reads as it stood before or as written, a free choice (R422);
a peer's byte is a free value. -/
def srcByte (s0 s : State) (f : Nat) (g k : Nat) : Byte :=
  match s.localOf g with
  | some a => if (Config.freeByte f k).toNat % 2 = 1 then s0.byte (a + k) else s.byte (a + k)
  | none => Config.freeByte f k

/-- One run moved. After a failure every later byte may or may not be written (R428). -/
def moveSeg (s0 : State) (r : Nat) (chk : Bool) (m : Move) (g : Seg) : Move :=
  let s := m.st
  let f := s.free
  let s := { s with free := f + 1 }
  match m.fail with
  | some _ =>
    (match s.localOf g.dst with
     | some a =>
       let w := (List.range g.len).filterMap fun k =>
         if (Config.freeByte f k).toNat / 2 % 2 = 1 then some (a + k, [srcByte s0 s f g.src k]) else none
       { st := w.foldl (fun s b => s.setBytes b.1 b.2) s, out := w.reverse ++ m.out, n := m.n, fail := m.fail }
     | none => { st := s, out := m.out, n := m.n, fail := m.fail })
  | none =>
    if chk && ! s.scribeOk r g.src g.len then { st := s, out := m.out, n := m.n, fail := some (St.ACCESS_DENIED, false) }
    else if chk && ! s.scribeOk r g.dst g.len then { st := s, out := m.out, n := m.n, fail := some (St.ACCESS_DENIED, true) }
    else
      let q := s.readable g.src g.len
      let bs := (List.range q.1).map (srcByte s0 s f g.src)
      match s.localOf g.dst with
      | none =>
        if s.remoteOk g.dst then { st := s, out := m.out, n := m.n + q.1, fail := if q.2 = St.OK then none else some (q.2, false) }
        else { st := s, out := m.out, n := m.n, fail := some (St.FABRIC_UNREACHABLE, true) }
      | some a =>
        { st := s.setBytes a bs, out := (a, bs) :: m.out, n := m.n + q.1,
          fail := if q.2 = St.OK then none else some (q.2, false) }

/-- How a descriptor will end: status, RESULT, the DETAIL of its status, what it will have written, and the state that has taken its
free values. -/
def State.scribeRun (s : State) (r : Nat) (chk : Bool) (segs : List Seg) : State × JobEnd × Nat :=
  let m := segs.foldl (moveSeg s r chk) { st := s, out := [], n := 0, fail := none }
  let st := m.fail.elim St.OK (·.1)
  ({ s with free := m.st.free }, { status := st, result := m.n, data := m.out.reverse, work := 0 },
    m.fail.elim 0 fun f => b2n f.2)

/-- Lines that some runs write. -/
def linesOf (l : List Seg) : Nat := l.foldl (fun t g => t + ((g.dst + g.len + 63) / 64 - g.dst / 64)) 0

/-! ## Descriptors (R421, R427) -/

/-- Masks of the fields of each opcode (R421). -/
def scribeMasks (op : Nat) : List Nat :=
  let f := 0xFFFFFFFF
  [0xC0FFFFFF, 0xBF00FFFF, f, f, f, f] ++
    (match op with
     | 1 => [f, 0, 0, 0, 0, 0, 0]
     | 2 => [f, 0xFFFF, f, f, 0, 0, 0]
     | 3 => [f, f, f, f, f, f, 0]
     | _ => [0x1FFFF, 0xFFFFFF, f, f, 3, 0, 0])

/-- CNT1 and CNT2. -/
def counts (j : Job) : Nat × Nat :=
  match jOp j with
  | 2 => (bitsOf (j.n 7) 15 0, 1)
  | 3 => (bitsOf (j.n 7) 15 0, bitsOf (j.n 7) 31 16)
  | _ => (1, 1)

/-- Whether the fields are in range. -/
def scribeFields (j : Job) : Bool :=
  wordsOk j (scribeMasks (jOp j)) &&
    (if jOp j = 4 then
      let e := bitsOf (j.n 6) 16 0
      let n := bitsOf (j.n 7) 23 0
      1 ≤ e && e ≤ 65536 && 1 ≤ n && e * n < 2 ^ 32 && cat64 (j.word 8) (j.word 9) % (if bitOf (j.n 10) 0 then 8 else 4) == 0
     else
      let c := counts j
      1 ≤ jOp j && jOp j ≤ 3 && 1 ≤ j.n 6 && 1 ≤ c.1 && 1 ≤ c.2 && j.n 6 * c.1 * c.2 < 2 ^ 32)

/-- A descriptor of realm r as it will end (R421, R423, R427): job record and lines to be written. -/
def State.scribeJob (s : State) (r : Nat) (j : Job) : State × PoolJob × Nat :=
  let fv := bitOf (j.n 1) 31
  let fol := s.folio r (j.n 1 % 65536)
  let stop := fun (st : Nat) => (s, PoolJob.mk j st 0 0 [] 0 none [], 0)
  if ! scribeFields j then stop St.BAD_PARAM else
  let segs := if jOp j = 4 then [] else copySegs j (counts j).1 (counts j).2
  let tab := cat64 (j.word 8) (j.word 9)
  let tabLen := (if bitOf (j.n 10) 0 then 8 else 4) * bitsOf (j.n 7) 23 0
  if jOp j = 4 && ! s.scribeOk r tab tabLen || segs.any (fun g => ! s.scribeOk r g.src g.len || ! s.scribeOk r g.dst g.len) then
    stop St.ACCESS_DENIED
  else if fv && fol.any (·.state == 3) then stop St.LATE
  else if fv && fol.isNone then stop St.ABORTED
  else if jOp j = 4 && (s.readable tab tabLen).2 ≠ St.OK then stop (s.readable tab tabLen).2
  else
    let segs := if jOp j = 4 then gatherSegs s j else segs
    let e := s.scribeRun r (jOp j == 4) segs
    (e.1, PoolJob.mk j e.2.1.status e.2.2 e.2.1.result e.2.1.data 0 (if fv then some (r, j.n 1 % 65536) else none) [], linesOf segs)

/-- Keys of running work: a channel's descriptor, a timed round. -/
def scbKey (e c : Nat) : Nat := 1000 + 32 * e + c
def roundKey (e c : Nat) : Nat := 1400 + 8 * e + c

/-- First descriptor of a Scribe that ended with a status other than OK since ERR_INFO was read, and the block's error event. -/
def State.scbError (s : State) (e c status : Nat) : State :=
  if status = St.OK then s else
  let a := Reg.SCB_ERR_INFO e
  let s := if s.rdN a = 0 then s.wrN a (2 ^ 20 * (s.scribeRealm e c % 16) + c * 2 ^ 8 + status) else s
  s.raise (if e < 8 then 488 + e else 512 + (e - 8))

/-- DETAIL bit 0 belongs to the statuses of a failing access only (R428). -/
def hasOffset (st : Nat) : Bool :=
  [St.POISONED, St.ECC_UNCORRECTABLE, St.TIMEOUT, St.FABRIC_UNREACHABLE, St.ACCESS_DENIED, St.RETENTION_LOST].contains st

/-- A descriptor of channel c of Scribe e ends on engine x (R428, R440). -/
def State.scribeDone (s : State) (e : Fin 12) (c : Fin 32) (x status detail result : Nat) : State :=
  let b := ringBase (.scribe e c)
  let res := if status = St.OK || hasOffset status || status = St.DOMAIN_LOST then result else 0
  let det := (if hasOffset status then detail else 0) + (if x = e.val then 0 else 2 ^ 15 + (x - 8) * 2 ^ 11)
  let idx := ringHead s b
  let s := writeBack b (ringDescAddr s b + 52) (leBytes 4 res) s
  let s := s.bump (Reg.SCB_DESCS x) 1
  let s := if status = St.OK then s.bump (Reg.SCB_BYTES x) ((result + 63) / 64) else s
  let s := s.wrN (Reg.SCB_CH_LAST e c) (idx * 2 ^ 8 + status)
  let s := s.scbError e c status
  s.complete (.scribe e c) status det

/-- The engine that serves channel c of Scribe e (R432): itself; of a fenced Chancery engine, for realm XFER channels, the lowest
unfenced one; none when the channel has no adopter. -/
def State.scribeExec (s : State) (e c : Nat) : Option Nat :=
  if ! s.bit (Reg.SCB_STATUS e) 31 then some e
  else if c < 16 then none
  else ((List.range 4).find? fun x => ! s.bit (Reg.SCB_STATUS (8 + x)) 31).map (8 + ·)

/-- One descriptor at the head of a channel's ring starts (R426, R429). -/
def scribeStart (op : Nat) (j : Job) (s : State) : State :=
  match j.ring with
  | .scribe e c =>
    if jOp j ≠ op || ! s.ringReady j.ring || s.bit (Reg.SCB_CH_CTL e c) 31 || s.timedRing j.ring then s
    else if e.val < 8 && s.fencedQ e then s
    else match s.scribeExec e c with
      | none => s.scribeDone e c e SCB_FENCED 0 0
      | some x =>
        if (sget s.eng (scbKey x c) none).isSome || ! s.domUp (if x < 8 then 24 + x else 61) then s else
        let w := s.scribeJob (s.scribeRealm e c) j
        let s := w.1
        if w.2.1.writes.isEmpty && w.2.1.status ≠ St.OK && w.2.2 = 0 then s.scribeDone e c x w.2.1.status w.2.1.detail 0 else
        let s := s.wr (Reg.SCB_CH_PROGRESS e c) 0
        let s := match w.2.1.folio with
          | some f => (s.folio f.1 f.2).elim s fun fo =>
              s.setFolio (fo.setTask (bitsOf (j.n 1) 29 24) { fo.taskAt (bitsOf (j.n 1) 29 24) with going := true })
          | none => s
        let s := if e.val < 8 then s else s.setScb { s.scb with lines := sput s.scb.lines (32 * (x - 8) + c) w.2.2 0 }
        { s with eng := sput s.eng (scbKey x c) (some w.2.1) none }
  | _ => s

def execCopy1d (j : Job) (s : State) : Out := .next (scribeStart 1 j s)
def execCopy2d (j : Job) (s : State) : Out := .next (scribeStart 2 j s)
def execCopy3d (j : Job) (s : State) : Out := .next (scribeStart 3 j s)
def execGather (j : Job) (s : State) : Out := .next (scribeStart 4 j s)

/-! ## The rate limiter (R433, R434) -/

/-- BURST of a Chancery channel in lines. -/
def State.burst (s : State) (e c : Nat) : Nat :=
  let b := s.fld (Reg.SCB_CH_RATE (8 + e) c) 19 16
  if b = 0 then 16 else b

/-- TOKENS of a Chancery channel now: RATE for each of the two NoC cycles in a nanosecond, at most 256 * BURST. -/
def State.tokens (s : State) (e c : Nat) : Nat :=
  let t := sget s.scb.tok (32 * e + c) (0, 0)
  min (t.1 + s.fld (Reg.SCB_CH_RATE (8 + e) c) 8 0 * 2 * (s.tbNs 0 - t.2)) (256 * s.burst e c)

/-- BURST_GRANT (R434): of the channels whose burst is ready, the next in round-robin order that has the tokens is granted it. -/
def execBurstGrant (ready : BitVec 128) (s : State) : Out :=
  let need_ := fun i => min (s.burst (i / 32) (i % 32)) (sget s.scb.lines i 0)
  let ok := fun i => bitOf ready.toNat i && 0 < need_ i && 256 * need_ i ≤ s.tokens (i / 32) (i % 32)
  match ((List.range 128).map fun k => (s.scb.last + 1 + k) % 128).find? ok with
  | none => .next s
  | some i =>
    let b := need_ i
    let s' := s.setScb { s.scb with
      tok := sput s.scb.tok i (s.tokens (i / 32) (i % 32) - 256 * b, s.tbNs 0) (0, 0),
      lines := sput s.scb.lines i (sget s.scb.lines i 0 - b) 0, last := i }
    .next (s'.bump (Reg.SCB_CH_PROGRESS (8 + i / 32) (i % 32)) (64 * b))

/-! ## Completion -/

/-- The bytes of running work land. -/
def State.landJob (s : State) (p : PoolJob) : State :=
  p.writes.foldl (fun s w => (s.setBytes w.1 w.2).unpoison w.1 w.2.length) s

/-- SCRIBE_DESCRIPTOR_COMPLETE (R426 to R428): the descriptor that engine e runs on channel c ends; a Chancery copy that succeeds
ends once its lines have been granted. The copy of a demotion (R146) ends the demotion. -/
def execScribeDescriptorComplete (e : Fin 12) (c : Fin 32) (s : State) : Out :=
  let key := scbKey e c
  let left := if e.val < 8 then 0 else sget s.scb.lines (32 * (e.val - 8) + c.val) 0
  match sget s.eng key none with
  | some p =>
    if p.status = St.OK && left ≠ 0 then .next s else
    let s := { s with eng := sput s.eng key none none }
    let s := (s.landJob p).setScb { s.scb with lines := sdel s.scb.lines (32 * (e.val - 8) + c.val) }
    let s := s.wrN (Reg.SCB_CH_PROGRESS e c) p.result
    (match p.job.ring with
     | .scribe e' c' =>
       let s := s.scribeDone e' c' e p.status p.detail p.result
       .next (match p.folio with
         | some f => s.drainCheck f.1 f.2
         | none => s)
     | _ => .next s)
  | none =>
    match s.ord.demos.find? fun d => d.engine + 8 == e.val && d.chan == c.val with
    | some d =>
      if left ≠ 0 then .next s else
      let n := wfld (s.entW d.ent 1) 23 0 * 64
      let s := (s.bump (Reg.SCB_DESCS e) 1).bump (Reg.SCB_BYTES e) ((n + 63) / 64)
      let s := s.setFld (Reg.SCB_CH_CFG e c) 31 31 0
      .next (s.demoDone d)
    | none => .next s

/-! ## Channel control (R419, R429) -/

/-- CH_CTL_STOP: CTL of a channel takes STOP and NOTIFY; STOP starts no further descriptor. -/
def execChCtlStop (who : Requester) (e : Fin 12) (c : Fin 32) (value : W32) (s : State) : Out :=
  .next (accessHeld who (Reg.SCB_CH_CTL e c) (fun s => s.setFld (Reg.SCB_CH_CTL e c) 31 30 (wfld value 31 30)) s)

/-- Whether some realm owns Chancery channel c of Scribe e. -/
def State.claimed (s : State) (e c : Nat) : Bool := (List.range 16).any fun r => s.bit (Reg.SCB_RLM_OWNED e r) c

/-- CHANNEL_CLAIM: each channel of the mask that nobody owns becomes realm r's. -/
def execChannelClaim (who : Requester) (e : Fin 12) (r : Fin 16) (mask : BitVec 14) (s : State) : Out :=
  .next (access who (Reg.SCB_RLM_OWNED e r) (fun s =>
    (if e.val < 8 then s else (List.range 14).foldl (fun s c =>
      if bitOf mask.toNat c && ! s.claimed e c then s.setBit (Reg.SCB_RLM_OWNED e r) c else s) s, 0)) s)

/-- CHANNEL_RELEASE: each channel of the mask that realm r owns is released when its ring is disabled, else REL_REJ. -/
def execChannelRelease (who : Requester) (e : Fin 12) (r : Fin 16) (mask : BitVec 14) (s : State) : Out :=
  .next (access who (Reg.SCB_RLM_OWNED e r) (fun s =>
    (if e.val < 8 then s else (List.range 14).foldl (fun s c =>
      if ! bitOf mask.toNat c || ! s.bit (Reg.SCB_RLM_OWNED e r) c then s
      else if s.bit (Reg.SCB_CH_CFG e c) 31 then s.setBit (Reg.SCB_STATUS e) 30
      else s.setFld (Reg.SCB_RLM_OWNED e r) c c 0) s, 0)) s)

/-- A realm reset disables the Chancery channels of realm r and releases them (R419). -/
def State.scribeRealmReset (s : State) (r : Nat) : State :=
  (List.range 4).foldl (fun s e => (List.range 32).foldl (fun s c =>
    if s.scribeRealm (8 + e) c ≠ r then s else
    if h : 8 + e < 12 ∧ c < 32 then
      let s := (s.setFld (Reg.SCB_CH_CFG (8 + e) c) 31 31 0).abandon (.scribe ⟨8 + e, h.1⟩ ⟨c, h.2⟩)
      let s := if c < 8 then s.setFld (Reg.SCB_TPL_TCTL (8 + e) c) 30 30 0 else s
      if c < 14 then s.setFld (Reg.SCB_RLM_OWNED (8 + e) r) c c 0 else s
    else s) s) s

/-! ## Timed rounds (R435 to R437) -/

/-- The shadow template of a channel becomes the active one (R104, R437). -/
def State.tplHandover (s : State) (e c : Nat) : State :=
  let s := (List.range 16).foldl (fun s w => s.wr (Reg.SCB_TPL_ACT e c w) (s.rd (Reg.SCB_TPL_SH e c w))) s
  let s := s.setFld (Reg.SCB_TPL_TCTL e c) 31 31 0
  s.setFld (Reg.SCB_TPL_TCOUNTS e c) 31 16 (s.fld (Reg.SCB_TPL_TCOUNTS e c) 31 16 + 1)

/-- A write of TCTL: EVSEL (48 to 63 reserved, R12), ENABLE, which needs the ring disabled and whose clearing abandons a round, and
COMMIT, which hands over at once while ENABLE is 0. -/
def State.tctlWrite (s : State) (e : Fin 12) (c : Fin 8) (v : W32) : State :=
  if e.val < 8 then s else
  let a := Reg.SCB_TPL_TCTL e c
  let s := if wfld v 5 0 < 48 then s.setFld a 5 0 (wfld v 5 0) else s
  let s := if wbit v 30 && ! s.bit a 30 then
      (if s.bit (Reg.SCB_CH_CFG e c) 31 then s.setBit (Reg.SCB_STATUS e) 29 else s.setFld a 30 30 1)
    else if ! wbit v 30 && s.bit a 30 then
      (s.setFld a 30 30 0).abandon (.scribe e ⟨c.val, by omega⟩)
    else s
  let s := s.setFld a 31 31 (wfld v 31 31)
  if s.bit a 31 && ! s.bit a 30 then s.tplHandover e c else s

/-- TCTL_COMMIT: a write of TCTL with COMMIT 1. -/
def execTctlCommit (who : Requester) (e : Fin 12) (c : Fin 8) (value : W32) (s : State) : Out :=
  .next (accessHeld who (Reg.SCB_TPL_TCTL e c) (fun s => s.tctlWrite e c (wsetFld value 31 31 1)) s)

/-- TCTL_ENABLE: a write of TCTL that sets or clears ENABLE. -/
def execTctlEnable (who : Requester) (e : Fin 12) (c : Fin 8) (value : W32) (s : State) : Out :=
  .next (accessHeld who (Reg.SCB_TPL_TCTL e c) (fun s => s.tctlWrite e c value) s)

/-- The active template of a timed channel as a descriptor; OWN is ignored. -/
def State.tplJob (s : State) (e : Fin 12) (c : Fin 8) : Job :=
  Job.mk (.scribe e ⟨c.val, by omega⟩) (wsetFld (s.rd (Reg.SCB_TPL_ACT e c 0)) 31 31 0 ::
    (List.range 15).map fun w => s.rd (Reg.SCB_TPL_ACT e c (w + 1)))

/-- Address of the round record. -/
def State.recordAddr (s : State) (e c : Nat) : Nat := cat64 (s.rd (Reg.SCB_TPL_ACT e c 14)) (s.rd (Reg.SCB_TPL_ACT e c 15))

/-- TIMED_ROUND_START (R435, R437): a start event that has reached the channel begins a round from the active template, whose
boundary edge then takes an armed shadow; while a round runs it counts OVERRUN and raises EV0516 + e. -/
def execTimedRoundStart (e : Fin 4) (c : Fin 8) (s : State) : Out :=
  let k := 8 * e.val + c.val
  let b : Fin 12 := ⟨8 + e.val, by omega⟩
  if ! s.scb.starts.contains k then .next s else
  let s := s.setScb { s.scb with starts := s.scb.starts.erase k }
  if ! s.bit (Reg.SCB_TPL_TCTL b c) 30 || s.bit (Reg.SCB_STATUS b) 31 then .next s
  else if (sget s.eng (roundKey e c) none).isSome then
    .next ((s.bumpSat (Reg.SCB_TPL_TCOUNTS b c) 15 0 1).raise (516 + e))
  else
    let r := s.scribeRealm b c
    let w := if s.recordAddr b c % 16 = 0 then (if s.scribeOk r (s.recordAddr b c) 16 then s.scribeJob r (s.tplJob b c)
        else (s, PoolJob.mk (s.tplJob b c) St.ACCESS_DENIED 0 0 [] 0 none [], 0))
      else (s, PoolJob.mk (s.tplJob b c) St.BAD_PARAM 0 0 [] 0 none [], 0)
    let s := { w.1 with eng := sput w.1.eng (roundKey e c) (some w.2.1) none }
    let s := s.setScb { s.scb with lines := sput s.scb.lines (32 * e.val + c.val) w.2.2 0 }
    .next (if s.bit (Reg.SCB_TPL_TCTL b c) 31 then s.tplHandover b c else s)

/-- TIMED_ROUND_COMPLETE (R436): the round's writes land; words 0 to 2 of its record, then word 3; completion event and wake as
under EVMODE 0b01. -/
def execTimedRoundComplete (e : Fin 4) (c : Fin 8) (s : State) : Out :=
  let b : Fin 12 := ⟨8 + e.val, by omega⟩
  let ring : RingId := .scribe b ⟨c.val, by omega⟩
  match sget s.eng (roundKey e c) none with
  | none => .next s
  | some p =>
    if p.status = St.OK && sget s.scb.lines (32 * e.val + c.val) 0 ≠ 0 then .next s else
    let s := ({ s with eng := sput s.eng (roundKey e c) none none }).landJob p
    let s := s.setScb { s.scb with lines := sdel s.scb.lines (32 * e.val + c.val) }
    let s := s.bump (Reg.SCB_TPL_ROUNDS b c) 1
    let n := s.rdN (Reg.SCB_TPL_ROUNDS b c) % 65536
    let tb := s.ringTb ring
    let res := if p.status = St.OK || hasOffset p.status then p.result else 0
    let det := if hasOffset p.status then p.detail else 0
    let g := cat64 (p.job.word 14) (p.job.word 15)
    let s := if g % 16 ≠ 0 || ! s.scribeOk (s.scribeRealm b c) g 16 then s else
      writeBack (ringBase ring) g (leBytes 4 (s.ts32 tb) ++ leBytes 4 (2 ^ 24 * tb + det * 2 ^ 8 + p.status) ++ leBytes 4 res) s
    let s := if g % 16 ≠ 0 || ! s.scribeOk (s.scribeRealm b c) g 16 then s else
      writeBack (ringBase ring) (g + 12) (leBytes 4 (2 ^ 16 * s.fld (Reg.SCB_TPL_TCOUNTS b c) 31 16 + n)) s
    let s := (s.bump (Reg.SCB_DESCS b) 1).wrN (Reg.SCB_CH_LAST b c) (n * 2 ^ 8 + p.status)
    let s := if p.status = St.OK then s.bump (Reg.SCB_BYTES b) ((p.result + 63) / 64) else s
    .next ((s.scbError b c p.status).notifyRing ring)

end Sys2Proof.Machine
end

