-- ==== Sys2Proof/Machine/PwrOps.lean ====
section
/-! DEFINITION. Power domains (chapter 16): limits, policies, votes, targets, wakes and windows. -/

namespace Sys2Proof.Machine

def PWR_VOTED : Nat := 0x80

def State.setPwr (s : State) (x : PwrState) : State := { s with pwr := x }

/-- State of a power domain: 0 to 3 for D0 to D3. -/
def State.domState (s : State) (d : Nat) : Nat := s.fld (Reg.PWM_D_STATE d) 31 30

/-! ## States, limits and policies (R512 to R516) -/

/-- Restore time added to the exit from D3, in ns (R512); memories have none (R529). -/
def restoreNs (d : Nat) : Nat :=
  if d < 16 then 1000 else if d < 24 then 0 else if d < 32 then 4000 else if d < 56 then 2000 else if d < 60 then 0
  else if d = 60 then 8000 else 2000

/-- Exit latency from state k in ns (R513). -/
def exitLat (d k : Nat) : Nat := match k with
  | 0 => 0
  | 1 => 20
  | 2 => 2000
  | _ => 40000 + restoreNs d

/-- Whether a domain permits a state: D2 is for PD16 to PD31 and PD56 to PD60. -/
def permitsState (d k : Nat) : Bool := k ≠ 2 || (16 ≤ d && d < 32) || (56 ≤ d && d ≤ 60)

/-- Lanes of Ethernet port p by its MODE (R441). -/
def ethLanes (mode : Nat) : Nat := [0, 1, 1, 1, 1, 2, 4, 2, 4, 4, 8].getD mode 0
def State.ethWidth (s : State) (p : Nat) : Nat := ethLanes (s.fld (Reg.ETH_CFG p) 27 24)

/-- Domains that a carve-out's tier holds (R638). -/
def tierDomains (t : Nat) : List Nat := if t < 8 then [24 + t] else if t = 8 then [60] else if t = 9 then [56, 57] else [58, 59]

/-- Whether the memory of PD56 to PD59 is populated. -/
def State.memPopulated (s : State) (d : Nat) : Bool :=
  if d < 58 then s.rdN (Reg.MEMC_CAPACITY (0x3100000 + 0x10000 * (d - 56))) ≠ 0
  else s.rdN (Reg.MEMC_CAPACITY (0x3200000 + 0x20000 * (d - 58))) ≠ 0 || s.rdN (Reg.MEMC_CAPACITY (0x3210000 + 0x20000 * (d - 58))) ≠ 0

/-- SYS_CACHE of the DEVICE record (R37, R383). -/
def State.sysCache (s : State) : Nat := s.recNum 1 0xFF 0xC 1 % 16

/-- Whether a domain holds a carve-out with RETAIN. -/
def State.retains (s : State) (d : Nat) : Bool :=
  (s.recsAny 0x13).any fun r => bitOf (r.num 9 1) 2 && (tierDomains r.cTier).contains d

/-- Deepest state that the structural limits allow (R514). -/
def State.deepLimit (s : State) (d : Nat) : Nat :=
  let lim := fun (c : Bool) (k m : Nat) => if c then min k m else m
  lim (d = 47 && (List.range 15).any fun k => s.domState (32 + k) ≠ 3) 0
    (lim (s.retains d) 2
      (lim (d = 60 && s.sysCache ≠ 0) 1
        (lim (d = 46 && ! s.recsUsed.isEmpty) 1
          (lim (d = 52 && s.fh.st.any fun e => bitOf (e.2.getD 0 0).toNat 31) 1
            (lim (56 ≤ d && d < 60 && s.memPopulated d) 2
              (lim (d = 63 && s.bit Reg.PCI_LINK 31) 1
                (lim (16 ≤ d && d < 24 && [2 * (d - 16), 2 * (d - 16) + 1].any fun f =>
                  s.bit (Reg.FER_LOCK f) 31 || s.bit (Reg.FER_LOCK f) 30) 1 3)))))))

/-- One entry of a POWER_POLICY record (R515). -/
structure PolEntry where
  realm : Nat
  dom : Nat
  flags : Nat
  holdoff : Nat
  tol : Nat

/-- Entries of a POWER_POLICY record. -/
def polEntries (r : VRec) : List PolEntry :=
  (List.range (r.num 8 1)).map fun i => PolEntry.mk r.realm (r.num (0x10 + 8 * i) 1) (r.num (0x11 + 8 * i) 1) (r.num (0x12 + 8 * i) 2)
    (r.num (0x14 + 8 * i) 4)

/-- The entries in force that name a domain. -/
def State.polFor (s : State) (d : Nat) : List PolEntry := ((s.recsAny 0x16).flatMap polEntries).filter (·.dom == d)

/-- Effective DEEPEST (R516): the shallowest named, D1 where none is, within the limits of R514. -/
def State.effDeepest (s : State) (d : Nat) : Nat :=
  let ps := s.polFor d
  min (s.deepLimit d) (if ps.isEmpty then 1 else ps.foldl (fun m p => min m (p.flags % 4)) 3)

/-- Effective HOLDOFF_US (R516): the largest named, 100 where none is. -/
def State.effHoldoff (s : State) (d : Nat) : Nat :=
  let ps := s.polFor d
  if ps.isEmpty then 100 else ps.foldl (fun m p => max m p.holdoff) 0

/-- Whether a realm holds a domain (R638). -/
def State.holdsDomain (s : State) (r d : Nat) : Bool :=
  let qs := s.recs 0x11 r
  let share := fun (p i : Nat) => s.share r p i ≠ 0
  (d < 16 && qs.any fun x => x.num 8 1 == d / 2 && bitsOf (x.num 0xA 2) (8 * (d % 2) + 7) (8 * (d % 2)) ≠ 0) ||
  (16 ≤ d && d < 24 && qs.any fun x => x.num 8 1 == d - 16 && x.num 9 1 % 4 ≠ 0) ||
  (24 ≤ d && d < 32 && qs.any fun x => x.num 8 1 == d - 24) ||
  (s.carves r).any (fun c => (tierDomains c.cTier).contains d) ||
  ((List.range 7).any fun p => (List.range (poolCount p)).any fun i =>
    share p i && (d == 47 || unitDomain (poolFirst p + i) == d)) ||
  (d = 62 && (share 7 0 || share 7 1)) ||
  ((d = 46 || d = 47) && (s.recs 0x12 r).any fun x => x.num 8 1 == 8) ||
  (48 ≤ d && d < 52 && (List.range 32).any fun p => s.portBit r 8 4 p && (List.range (max 1 (s.ethWidth p))).any fun l =>
    (p + l) / 8 == d - 48) ||
  (d = 52 && (s.recNum 0x15 r 8 4 ≠ 0 || s.recNum 0x15 r 0xE 2 ≠ 0)) ||
  (d = 53 && (s.recNum 0x15 r 0x10 2 ≠ 0 || s.recNum 0x15 r 0x12 2 ≠ 0 || s.recNum 0x15 r 0x16 2 ≠ 0))

/-! ## Votes (R517, R518) -/

/-- A vote on a domain: its class, T in ns (none: a D0 vote), and the number a last-wake record shows for it (R526). -/
structure Vote where
  cls : Nat
  tol : Option Nat
  src : Nat
  id : Nat

/-- A stored vote: T + 1, or 0 for a D0 vote. -/
def Vote.of (cls src id v : Nat) : Vote := Vote.mk cls (if v = 0 then none else some (v - 1)) src id

/-- A D0 vote of a class. -/
def d0If (c : Bool) (cls : Nat) : List Vote := if c then [Vote.mk cls none 0 cls] else []

/-- HOST votes: those of PWR_VOTE by realm, and the policies of RUNNING realms (R516). -/
def State.votesHost (s : State) (d : Nat) : List Vote :=
  (List.range 16).filterMap (fun r => (sget s.pwr.host (16 * d + r) none).map (Vote.of 0 4 r)) ++
  (s.polFor d).flatMap fun p =>
    if p.realm < 16 && s.realmState p.realm = 2 then
      d0If (bitOf p.flags 4) 0 ++ (if p.tol = 0xFFFFFFFF then [] else [Vote.mk 0 (some p.tol) 0 0])
    else []

/-- Domains of the unit a booking lies on. -/
def bookDomains (s : State) (b : UBook) : List Nat :=
  match b.kind with
  | 0 => [0, 1].filterMap fun h =>
      if (List.range 8).any fun n => s.nibRealm (b.unit / 16) (8 * h + n) == b.unit % 16 then some (2 * (b.unit / 16) + h) else none
  | 1 => [16 + b.unit / 2]
  | 2 => if b.unit < 56 then [unitDomain b.unit, 47] else [62]
  | _ => [61]

/-- Domains that a Folio's unfinished tasks are booked on (R518). -/
def State.folioDomains (s : State) (f : Folio) : List Nat :=
  (s.ord.books.filter fun b => b.realm == f.realm && b.inst == f.inst &&
    ! (f.taskAt b.task).ended && ! (f.taskAt b.task).skipped).flatMap (bookDomains s)

/-- Threads that need a Nib half (R518): one runs on it, or a READY one may. -/
def State.halfWanted (s : State) (d : Nat) : Bool :=
  let q := d / 2
  let h := d % 2
  (List.range 8).any (fun n => s.runOn q (8 * h + n) ≠ 0) ||
    (s.ducSt q).ready.any fun i => bitsOf (s.tcbAff q i) (8 * h + 7) (8 * h) ≠ 0

/-- Domains that running Scribe work has reached (R431): those of its source, its destination and every byte it writes. -/
def scribeReach (s : State) (p : PoolJob) : List Nat :=
  let dom := fun a => s.addrDomain a
  ([jSrc p.job, jDst p.job].filterMap fun g => (s.localOf g).map dom) ++ p.writes.map fun w => dom w.1

/-- Whether a ring is enabled and not empty (R315). -/
def State.ringBusy (s : State) (r : RingId) : Bool := ringEnabled s (ringBase r) && ! ringEmpty s (ringBase r)

/-- Whether unit j (RA engines 56, 57) has a ring with work. -/
def State.unitBusy (s : State) (j : Nat) : Bool :=
  (List.range 16).any fun r => if h : r < 16 then
      (if hj : j < 56 then s.ringBusy (.pool ⟨j, hj⟩ ⟨r, h⟩) else if he : j - 56 < 2 then s.ringBusy (.ra ⟨j - 56, he⟩ ⟨r, h⟩) else false)
    else false

/-- SCRIBE votes: channels with work on their Scribe's domain, running work on the domains it has reached. -/
def State.votesScribe (s : State) (d : Nat) : List Vote :=
  let busy := (List.range 12).any fun e => (if e < 8 then 24 + e else 61) == d && (List.range 32).any fun c =>
    if h : e < 12 ∧ c < 32 then s.ringBusy (.scribe ⟨e, h.1⟩ ⟨c, h.2⟩) else false
  let run := s.eng.any fun e => 1000 ≤ e.1 && (match e.2 with
    | some p => (scribeReach s p).contains d
    | none => false)
  d0If (busy || run) 3

/-- RING votes (R315, R371, R447). -/
def State.votesRing (s : State) (d : Nat) : List Vote :=
  let pool := (List.range 58).any fun j => unitDomain j == d && s.unitBusy j
  let ctx := d = 62 && s.ra.ctx.any fun e => e.2.isSome
  let fh := d = 52 && (List.range 2).any fun f => (List.range 17).any fun r =>
    if h : f < 2 ∧ r < 17 then s.ringBusy (.fhTx ⟨f, h.1⟩ ⟨r, h.2⟩) else false
  d0If (pool || ctx || fh) 4

/-- PORT votes (R443, R471, R493). -/
def State.votesPort (s : State) (d : Nat) : List Vote :=
  let eth := (48 ≤ d && d ≤ 52) && (List.range 32).any fun p => s.ethState p ≠ 0 &&
    (d == 52 || (List.range (s.ethWidth p)).any fun l => (p + l) / 8 == d - 48)
  let jes := d = 53 && ((List.range 4).any (fun k => [false, true].any fun rx => [0, 1].any fun m => s.jesState k rx m ≠ 0) ||
    (List.range 64).any fun c => s.pathState c ≠ 0)
  let ylk := (54 ≤ d && d < 56) && [2 * (d - 54), 2 * (d - 54) + 1].any fun p => (s.fld (Reg.YLK_STATUS p) 31 29 == 1 || s.fld (Reg.YLK_STATUS p) 31 29 == 2)
  d0If (eth || jes || ylk) 5

/-- Whether a firing of channel c at an instant releases a PLACED Folio (R127, R132): its grid, RELEASE_NS and release instant. -/
def State.releasesAt (s : State) (c : Nat) (f : Folio) (inst : Int) : Bool :=
  f.state == 1 && c < 96 && s.chGrid c == f.grid && s.rdN (Reg.TRG_CH_WHEN1 c) == f.tmpl.num 0x10 4 &&
    decide (65536 * f.release < inst + 65536)

/-- Domains that an armed channel's action needs (R99, R518, R531). -/
def State.trigDomains (s : State) (c : Nat) (o : Occ) : List Nat :=
  let t := s.rdN (Reg.TRG_CH_TARGET c)
  match s.chKind c with
  | 0 => if (s.timedOn (s.fld (Reg.TRG_CH_CFG c) 5 0)).isEmpty then [] else [61]
  | 1 => (s.ord.folios.filter fun f => s.releasesAt c f o.inst).flatMap s.folioDomains
  | 2 => [53]
  | 3 => [52]
  | 6 => (List.range 64).filter fun d => s.fld (Reg.PWM_WIN_CFG (t % 32)) 1 0 = 0 &&
      s.bit (if d < 32 then Reg.PWM_WIN_MASK_LO (t % 32) else Reg.PWM_WIN_MASK_HI (t % 32)) (d % 32)
  | _ => []

/-- Armed channels whose pre-wake of a domain has begun (R99): the exit latency of its present state before the instant. -/
def State.preWakes (s : State) (d : Nat) : List Nat :=
  (s.time.trigs.filterMap fun e => match e.2.next with
    | some o => if s.chState e.1 = cARMED && (s.trigDomains e.1 o).contains d &&
        o.inst - s.nowInst (s.chTb e.1) ≤ ((65536 * exitLat d (s.domState d) : Nat) : Int) then some e.1 else none
    | none => none)

/-- Whether window w has domain d in its mask. -/
def State.winMask (s : State) (w d : Nat) : Bool :=
  s.bit (if d < 32 then Reg.PWM_WIN_MASK_LO w else Reg.PWM_WIN_MASK_HI w) (d % 32)

/-- TRIGGER votes: pre-wakes and running windows (R531). -/
def State.votesTrigger (s : State) (d : Nat) : List Vote :=
  (s.preWakes d).map (fun c => Vote.mk 8 none 2 c) ++
  (List.range 32).filterMap fun w =>
    if (sget s.pwr.wins w none).isSome && s.winMask w d then
      let l := s.fld (Reg.PWM_WIN_CFG w) 1 0
      some (Vote.mk 8 (if l = 0 then none else some (exitLat d l)) 3 w)
    else none

/-- HOLD votes: held requests, and an interrupt line set for a Nib of a half (R405, R518). -/
def State.votesHold (s : State) (d : Nat) : List Vote :=
  d0If (s.noc.held.any (·.dom == d) || (d < 16 && ! s.domUp d && (List.range 8).any fun n => sget s.ipend (8 * d + n) 0 ≠ 0)) 9

/-- Every vote on a domain. -/
def State.votes (s : State) (d : Nat) : List Vote :=
  s.votesHost d ++
  d0If (s.ord.folios.any fun f => (f.state == 2 || f.state == 3) && (s.folioDomains f).contains d) 1 ++
  d0If ((d < 16 && s.halfWanted d) || (24 ≤ d && d < 32 && (List.range 512).any fun i => s.tcbState (d - 24) i ≠ tFREE)) 2 ++
  s.votesScribe d ++ s.votesRing d ++ s.votesPort d ++
  d0If (16 ≤ d && d < 24 && [2 * (d - 16), 2 * (d - 16) + 1].any fun f => s.fld (Reg.FER_STATUS f) 23 16 ≠ 0) 6 ++
  (List.range 64).filterMap (fun v => (sget s.pwr.fabric (64 * d + v) none).map (Vote.of 7 0 7)) ++
  s.votesTrigger d ++ s.votesHold d ++
  ((sget s.pwr.firm d none).map (Vote.of 10 0 10)).toList ++
  d0If (s.avl.tests.any fun t => t.dom == d && t.phase == 2) 11

/-! ## Targets (R519) -/

/-- The deepest state no deeper than k that meets a tolerance and that the domain permits. -/
def deepWithin (d : Nat) (t : Option Nat) : Nat → Nat
  | 0 => 0
  | k + 1 =>
    let late := match t with
      | some n => n < exitLat d (k + 1)
      | none => false
    if late || ! permitsState d (k + 1) then deepWithin d t k else k + 1

/-- The smallest tolerance of some votes. -/
def minTol (vs : List Vote) : Option Nat :=
  vs.foldl (fun m v => match v.tol, m with
    | some t, some x => some (min t x)
    | some t, none => some t
    | none, m => m) none

/-- A memory domain held in D3: unpopulated, failed (R385, R514), or forced down since the last reset (R529). -/
def State.heldDown (s : State) (d : Nat) : Bool :=
  56 ≤ d && d < 60 && s.domState d = 3 && (! s.memPopulated d || sget s.pwr.cause (64 + d) 0 ≠ 0)

/-- Target of a domain (R519). -/
def State.target (s : State) (d : Nat) : Nat :=
  if s.domForced d || s.heldDown d then 3 else
  let vs := s.votes d
  if vs.any (·.tol.isNone) then 0 else deepWithin d (minTol vs) (s.effDeepest d)

/-- The live registers of a domain (R537). -/
def State.pwrShow (s : State) (d : Nat) : State :=
  let vs := s.votes d
  let cls := fun (p : Vote → Bool) => (List.range 12).foldl (fun n c => if vs.any (fun v => v.cls == c && p v) then n + 2 ^ c else n) 0
  let s := s.setFld (Reg.PWM_D_STATE d) 29 28 (s.target d)
  let s := s.wrN (Reg.PWM_D_VOTES d) (2 ^ 16 * cls (·.tol.isSome) + cls (·.tol.isNone))
  let s := s.wrN (Reg.PWM_D_TOL d) ((minTol vs).getD 0xFFFFFFFF)
  s.wrN (Reg.PWM_D_POLICY d) (2 ^ 16 * s.effHoldoff d + s.effDeepest d)

/-- Voter class bits and state as PWR_QUERY and PWR_VOTE answer them. -/
def State.stateWord (s : State) (d : Nat) : W32 := (s.pwrShow d).rd (Reg.PWM_D_STATE d)

/-! ## Wakes (R522, R526) -/

/-- The wake that a record names among those pending against state k (R526): first access, trigger, window, vote; the lowest number of
a kind. -/
def State.pickWake (s : State) (d k : Nat) : Option (Nat × Nat) :=
  let vs := (s.votes d).filter fun v => match v.tol with
    | none => true
    | some t => t < exitLat d k
  let least := fun (srcs : List Nat) =>
    (vs.filter fun v => srcs.contains v.src).foldl (fun (m : Option (Nat × Nat)) v => match m with
      | some p => if v.id < p.2 then some (v.src, v.id) else some p
      | none => some (v.src, v.id)) none
  match sget s.pwr.first d none with
  | some c => some (1, c)
  | none => match least [2], least [3], least [0, 4] with
    | some w, _, _ => some w
    | _, some w, _ => some w
    | _, _, w => w

def State.trans (s : State) (d : Nat) : Option PTrans := sget s.pwr.trans d none
def State.setTrans (s : State) (d : Nat) (t : Option PTrans) : State := s.setPwr { s.pwr with trans := sput s.pwr.trans d t none }

/-- A wake as it is accepted now. -/
def State.wakeNow (s : State) (w : Nat × Nat) : Wake := Wake.mk w.1 w.2 (s.ts32 (s.fld Reg.PWM_CFG 2 0)) (s.tbNs 0)

/-- One CD88 cycle of the power manager for a domain (R519, R520): since when its target has been deeper than its state, and, in an
entry, the first wake that is pending. -/
def State.pwrTick (s : State) (d : Nat) : State :=
  match s.trans d with
  | some t =>
    if t.exit then s else
    match s.pickWake d t.target, t.wake with
    | some w, none => s.setTrans d (some { t with wake := some (s.wakeNow w) })
    | none, some _ => s.setTrans d (some { t with wake := none })
    | _, _ => s
  | none =>
    let deeper := decide (s.domState d < s.target d)
    match sget s.pwr.deep d none with
    | some _ => if deeper then s else s.setPwr { s.pwr with deep := sput s.pwr.deep d none none }
    | none => if deeper then s.setPwr { s.pwr with deep := sput s.pwr.deep d (some (s.tbNs 0)) none } else s

/-- Power domains whose D0 lets clock domain c run (R532); none for PDAON. -/
def clockDomains (c : Nat) : List Nat :=
  if c < 8 then [2 * c, 2 * c + 1] else if c < 16 then [8 + c] else if c < 24 then [8 + c] else if c < 38 then [8 + c]
  else if c < 40 then [62] else if c < 44 then [] else if c < 46 then [60] else if c < 48 then [10 + c] else if c < 52 then [58 + (c - 48) / 2]
  else if c < 60 then [48 + (c - 52) / 2] else if c < 62 then [52] else if c < 66 then [54 + (c - 62) / 2] else if c < 71 then [53]
  else if c < 73 then [63] else if 78 ≤ c && c < 82 then [61] else if 93 ≤ c && c < 96 then [52] else []

/-- CD[c].STAT now (R533): it runs while its power domain is at D0 and its source runs. -/
def State.clockStat (s : State) (c : Nat) : Nat :=
  let w := s.rdN (Reg.CLK_CD_STAT c) % 2 ^ 31
  let src := bitsOf w 30 27
  let on := (src > 8 || s.bit (Reg.CLK_PLL_STAT src) 31) && ((clockDomains c).isEmpty || (clockDomains c).any s.domUp)
  w + 2 ^ 31 * b2n on

/-- Every domain's cycle; the time each spends at D0 counts in µs. -/
def State.pwrCycle (s : State) : State :=
  (List.range 64).foldl (fun s d =>
    let s := s.pwrTick d
    if s.tbNs 0 % 1000 = 0 && s.domUp d then s.bump (Reg.PWM_D_D0_US d) 1 else s) s

/-! ## Windows (R531) -/

/-- A window fires on a time base: its votes stand for DURATION_NS from now. -/
def State.winFire (s : State) (w tb : Nat) : State :=
  if ! s.bit (Reg.PWM_WIN_CFG w) 31 then s else
  s.setPwr { s.pwr with wins := sput s.pwr.wins w (some (s.tbNs tb + s.rdN (Reg.PWM_WIN_DURATION w), tb)) none }

/-- A window freed. -/
def State.winFree (s : State) (w : Nat) : State :=
  let s := s.wrWords (Reg.PWM_WIN_MASK_LO w) [0, 0, 0, 0]
  s.setPwr { s.pwr with wins := sput s.pwr.wins w none none }

/-- A realm reset frees the realm's windows and ends its votes (R517, R531). -/
def State.pwrRealmReset (s : State) (r : Nat) : State :=
  let s := (List.range 32).foldl (fun s w =>
    if s.bit (Reg.PWM_WIN_CFG w) 31 && ! s.bit (Reg.PWM_WIN_CFG w) 23 && s.fld (Reg.PWM_WIN_CFG w) 27 24 = r then s.winFree w else s) s
  s.setPwr { s.pwr with host := s.pwr.host.filter fun e => e.1 % 16 ≠ r }

end Sys2Proof.Machine
end

