-- ==== Sys2Proof/Machine/Triggers.lean ====
section
/-! DEFINITION. Trigger channels (R95 to R105): planning, firing, hand-over, snapshots, and the commands and events that drive them. -/

namespace Sys2Proof.Machine

/-! ## Snapshots (R112 to R114) -/

/-- Name of the live counter of a shadow register: its name without SH_; the shadow sets of R104 are no counters. -/
def liveName (n : String) : Option String :=
  if n.startsWith "SH_" then some ((n.drop 3).toString)
  else if n.startsWith "RLM_SH_" then some ("RLM_" ++ (n.drop 7).toString)
  else if n.startsWith "D_SH_" then some ("D_" ++ (n.drop 5).toString)
  else if n.startsWith "INIT_SH_" then some ("INIT_" ++ (n.drop 8).toString)
  else none

/-- Address of the live counter that shadow register a copies. -/
def liveAddr (a : Nat) : Option Nat :=
  match csrRow a with
  | none => none
  | some (b0, r, _) =>
    (liveName r.name).bind fun n => ((blockOf b0).bind fun t => t.2.find? fun x => x.name == n).map fun x => a - r.off + x.off

/-- Address of the shadow of live counter a. -/
def shadowAddr (a : Nat) : Option Nat :=
  match csrRow a with
  | none => none
  | some (b0, r, _) =>
    ((blockOf b0).bind fun t => t.2.find? fun x => liveName x.name == some r.name).map fun x => a - r.off + x.off

/-- Every counter copied into its shadow: those whose counter or shadow is listed, and the cycle and bundle counts of the Nibs. -/
def State.snapCopy (s : State) : State :=
  let s0 := s
  let s := s0.csr.foldl (fun s e => match liveAddr e.1 with
    | some l => s.wr e.1 (s0.rd l)
    | none => match shadowAddr e.1 with
      | some x => s.wr x (s0.rd e.1)
      | none => s) s
  s0.nib.foldl (fun s e =>
    s.wrWords (Reg.NIB_SH_CYCLE_LO e.1) [w32 e.2.cyc, w32 (e.2.cyc / 2 ^ 32), w32 e.2.bundles, w32 (e.2.bundles / 2 ^ 32)]) s

/-- A snapshot at an instant of a time base for a channel (none: SNAP_REQUEST): less than 10 µs after the last one it copies nothing. -/
def State.snapshot (s : State) (c : Option Nat) (inst : Int) (tb : Nat) : State :=
  let recent := match s.time.lastSnap with
    | some t => decide (s.tbNs 0 < t + 10000)
    | none => false
  if recent then
    let s := s.bumpSat Reg.TRG_SNAP_STAT 31 16 1
    match c with
    | some c => (s.missed c 1).raise 609
    | none => s
  else
    let s := { s with time := { s.time with lastSnap := some (s.tbNs 0) } }
    let s := s.bump Reg.TRG_SNAP_GEN 1
    let s := s.wrN Reg.TRG_SNAP_TIME (tsOf (inst / 65536))
    (s.setFld Reg.TRG_SNAP_STAT 2 0 tb).snapCopy

/-! ## Actions (R97) -/

/-- The action of channel c for occurrence index i. -/
def State.fireAction (s : State) (c : Nat) (i : Int) : State :=
  let tb := s.chTb c
  let inst := s.chInst c i
  let t := s.rdN (Reg.TRG_CH_TARGET c) % 65536
  let s := match s.chKind c with
    | 1 => s.setOrd { s.ord with folios := s.ord.folios.map fun f => if s.releasesAt c f inst then { f with due := true } else f }
    | 2 => s.radioFire t inst tb
    | 3 => s.windowOpen (t / 64 % 2) (t % 64) i inst
    | 4 => s.snapshot (some c) inst tb
    | 5 =>
      let e := s.tbNs 0 + s.fld (Reg.PNC_WIN_LEN_US (t % 16)) 31 0 * 1000
      { s with avl := { s.avl with wins := sput s.avl.wins (t % 16) (some e) none } }
    | 6 => s.winFire (t % 32) tb
    | 7 => if s.bit (Reg.RUL_TOUT_CFG (t % 8)) 31 then
        { s with time := { s.time with pulse := sput s.time.pulse (t % 8) true false } } else s
    | _ => s
  if s.chKind c = 0 || s.bit (Reg.TRG_CH_CFG c) 7 then s.raise (624 + s.fld (Reg.TRG_CH_CFG c) 5 0) else s

/-- A firing: the action, LAST_FIRE, and, when late, STAT.LATE and EV0609 (R100). -/
def State.chFire (s : State) (c : Nat) (i : Int) (late : Bool) : State :=
  let v := s.chInst c i
  let s := s.wrN (Reg.TRG_CH_LAST_FIRE c) (tsOf (v / 65536))
  let s := if late then (s.setBit (Reg.TRG_CH_STAT c) 0).raise 609 else s
  s.fireAction c i

/-! ## Planning (R96, R100, R101, R105) -/

/-- Occurrences missed, with EV0609. -/
def State.chMiss (s : State) (c n : Nat) : State := if n = 0 then s else (s.missed c n).raise 609

/-- From index i onward, by steps, the first that is generated (R94), and how many were not; at most 64 are looked at. -/
def State.chExists (s : State) (c : Nat) (i : Int) : Nat → Int × Nat
  | 0 => (i, 0)
  | n + 1 => if s.chGenerated c i then (i, 0) else
    let r := State.chExists s c (i + s.chStep c) n
    (r.1, r.2 + 1)

/-- First occurrence of the active set after an instant, after a hand-over at a firing (R105): the pattern of a periodic set with
ANY_SFN runs on from the latest frame that has begun it; a mode 1 one-shot at or before the instant has none. -/
def State.chAfter (s : State) (c : Nat) (v : Int) : Option Int :=
  let i := s.chFirst c v
  if s.chOneShot c then (if s.chMode c = 1 && s.chInst c i ≤ v then none else some i)
  else if s.chMode c = 1 then some (i + s.chSkip c i v)
  else if s.bit (Reg.TRG_CH_WHEN0 c) 21 then
    let b := i - s.chUnits c
    some (b + s.chSkip c b v * s.chStep c)
  else some i

/-- What a channel does next: occurrence i becomes its next one (after a step or grid change: stepped), or occurrence i has fired. -/
inductive ChMove where
  | plan (i : Int) (stepped : Bool)
  | fired (i : Int)

/-- Whether the timing of a channel's active set stands: a mode 0 set names a configured grid. -/
def State.chTimed (s : State) (c : Nat) : Bool := s.chMode c ≠ 0 || s.gridValid (s.chGrid c)

/-- One move of a channel (R100 to R105), and the move that follows it at once, if any: a past occurrence fires late or is skipped;
a firing samples COMMIT and plans on. -/
def State.chMove (s : State) (c : Nat) : ChMove → Option ChMove × State
  | .plan i stepped =>
    if ! s.chTimed c then (none, s.chDisarm c) else
    let e := s.chExists c i 64
    let s := (s.chMiss c e.2).setNext c (some { idx := e.1, inst := s.chInst c e.1 })
    let lim := s.nowInst (s.chTb c) + 13107200
    if s.chInst c e.1 > lim then (none, s) else
    let s := if stepped then s.setBit (Reg.TRG_CH_STAT c) 1 else s
    let k := if s.chOneShot c then 1 else s.chSkip c e.1 lim
    if s.chPast c = 0 then
      let last := e.1 + ((k - 1 : Nat) : Int) * s.chStep c
      let s := (s.missed c (k - 1)).chFire c last true
      (some (.fired last), s)
    else
      let s := s.chMiss c k
      if s.chOneShot c then (none, s.chDisarm c) else (some (.plan (e.1 + (k : Int) * s.chStep c) false), s)
  | .fired i =>
    let v := s.chInst c i
    let tb := s.chTb c
    if s.bit (Reg.TRG_CH_CTL c) 31 then
      let one := s.chOneShot c
      let s := s.chHandover c
      if one && s.fld (Reg.TRG_CH_CFG c) 17 16 = 1 then (none, (s.chSetState c cWAIT).setNext c none)
      else if ! s.chTimed c then (none, s.chDisarm c)
      else
        let v := if s.chTb c = tb then v else s.nowInst (s.chTb c)
        match s.chAfter c v with
        | some j => (some (.plan j false), s)
        | none => (none, s.chDisarm c)
    else if s.chOneShot c then (none, s.chDisarm c)
    else (some (.plan (i + s.chStep c) false), s)

/-- Moves of a channel until none follows at once. A late firing, its hand-over and the late firing of the new set are the longest
chain; the fuel is well above it. -/
def State.chRun : Nat → Nat → ChMove → State → State
  | 0, _, _, s => s
  | n + 1, c, m, s =>
    match s.chMove c m with
    | (some m, s) => State.chRun n c m s
    | (none, s) => s

/-- Fuel for the longest chain. -/
def chFuel : Nat := 8

/-- A channel becomes ARMED with the first occurrence after now (R96). -/
def State.chArmNow (s : State) (c : Nat) : State :=
  let s := s.chSetState c cARMED
  if ! s.chTimed c then s.chDisarm c else
  State.chRun chFuel c (.plan (s.chFirst c (s.nowInst (s.chTb c))) false) s

/-- COMMIT set on a channel (R102, R104): on an idle one the hand-over is at once. -/
def State.chCommit (s : State) (c : Nat) : State :=
  let s := s.setFld (Reg.TRG_CH_CTL c) 31 31 1
  if s.chState c = cIDLE then
    let s := s.chHandover c
    if s.fld (Reg.TRG_CH_CFG c) 17 16 = 1 then s.chSetState c cWAIT else s.chArmNow c
  else if s.chState c = cFREE then s.setFld (Reg.TRG_CH_CTL c) 31 31 0
  else s

/-- The six shadow words written and committed. -/
def State.chArm (s : State) (c : Nat) (ws : List W32) : State := (s.wrWords (Reg.TRG_CH_SH_CFG c) ws).chCommit c

/-- A routed event reaches a channel (R102): it arms a waiting one. -/
def State.chEvent (s : State) (c : Nat) : State := if s.chState c = cWAIT then s.chArmNow c else s

/-! ## Events -/

/-- TRIGGER_FIRE (R98, R102): the next occurrence of an ARMED channel, once its instant has come. -/
def execTriggerFire (c : Fin 512) (s : State) : Out :=
  match s.chNext c with
  | some o =>
    if s.chState c ≠ cARMED || o.inst > s.nowInst (s.chTb c) then .next s
    else if ! s.chTimed c then .next (s.chDisarm c)
    else .next (State.chRun chFuel c (.fired o.idx) (s.chFire c o.idx false))
  | none => .next s

/-- ARMED channels that meet a condition. -/
def State.armedOf (s : State) (p : Nat → Bool) : List Nat :=
  (s.time.trigs.map (·.1)).filter fun c => s.chState c == cARMED && p c

/-- TIME_BASE_STEP_APPLY (R84, R101): the step asked for is applied or refused; occurrences it passes are past. -/
def execTimeBaseStepApply (b : Fin 8) (s : State) : Out :=
  match sget s.time.steps b none with
  | none => .next s
  | some q =>
    let s := { s with time := { s.time with steps := sput s.time.steps b none none } }
    let new := (s.tbCount b : Int) + q.delta
    let st := if 2 ≤ s.tbState b then St.WRONG_STATE else if new < 0 then St.BAD_PARAM else St.OK
    let s := if st = St.OK then
        let v := (new % (2 ^ 48 * 10 ^ 9 * 2 ^ 48 : Int)).toNat
        let s := { s with time := { s.time with count := sput s.time.count b v 0 } }
        let s := s.setFld (Reg.TMB_STATE b) 31 16 (s.fld (Reg.TMB_STATE b) 31 16 + 1)
        let s := (s.setBit (Reg.TMB_STATUS b) 0).raise (584 + b)
        (s.armedOf fun c => s.chTb c == b.val).foldl (fun s c => match s.chNext c with
          | some o => if o.inst ≤ s.nowInst b then State.chRun chFuel c (.plan o.idx true) s else s
          | none => s) s
      else s.setBit (Reg.TMB_STATUS b) 2
    .next (match q.slot with
      | some k => s.slotEnd k st [w32 (s.fld (Reg.TMB_STATE b) 31 16)]
      | none => s)

/-- GRID_FRAME_BOUNDARY (R94, R104): the boundary of the frame that starts within this cycle; channels on the grid follow its
change. -/
def execGridFrameBoundary (g : Fin 256) (s : State) : Out :=
  if ! s.gridValid g then .next s else
  let now := s.nowInst (s.gridTb g)
  let F := s.frameAt g now
  if now - s.frameStart g F ≥ 2 * 65536 || ! s.bit (Reg.RUL_GRID_SH_CTL g) 31 then .next s else
  let s := s.gridBoundary g F
  .next ((s.armedOf fun c => s.chMode c == 0 && s.chGrid c == g.val).foldl (fun s c => match s.chNext c with
    | some o => State.chRun chFuel c (.plan o.idx (decide (s.chInst c o.idx ≤ now))) s
    | none => s) s)

/-! ## Commands (R103, R115) -/

/-- Whether the six words of a set are values that R95 and the field tables give (BAD_PARAM otherwise), the grid apart. -/
def chWordsOk (s : State) (ws : Nat → Nat) : Bool :=
  let cfg := ws 0
  let mode := bitsOf cfg 31 28
  let unit := bitsOf cfg 27 24
  let kind := bitsOf cfg 23 20
  let g := bitsOf cfg 15 8
  let t := ws 5
  mode ≤ 1 && kind ≤ 7 && bitsOf cfg 19 18 ≤ 1 && bitsOf cfg 17 16 ≤ 1 && bitsOf cfg 5 0 ≤ 47 && t < 65536 &&
    (if mode = 0 then
      unit ≤ 3 && (! s.gridValid g || (bitsOf (ws 1) 20 13 < slotsPerFrame (s.gridTy g) && bitsOf (ws 1) 12 9 < s.gridSyms g)) &&
        decide ((signed 32 (ws 2)).natAbs ≤ 10000000) && (unit = 0 || ws 4 ≠ 0)
     else (unit == 0 || unit == 4) && g ≤ 7 && ws 1 ≤ 999999999 && (unit = 0 || 1000 ≤ ws 4)) &&
    (match kind with
     | 2 => radioTargetOk t
     | 3 => t < 128
     | 5 => t < 16
     | 6 => t < 32
     | 7 => t < 8
     | _ => true)

/-- Whether a realm may arm a set (R103, R115, R477): kinds 1 and 4 are not its own, and kinds 2 and 7 need its PORT_MAP. -/
def chAllowed (s : State) (r : Nat) (ws : Nat → Nat) : Bool :=
  match bitsOf (ws 0) 23 20 with
  | 2 => s.radioTargetMine r (ws 5)
  | 4 => false
  | 7 => s.portBit r 0x15 1 (ws 5 % 8)
  | _ => true

/-- Whether a command may act on channel c: its realm owns it, or CMD[16] with TARGET 0xFF. -/
def trgMine (s : State) (d : Desc) (c : Nat) : Bool := (d.ring.val = 16 && d.tgt == 255) || s.trigOwner c == d.tgt

/-- Channel number of a command: word 3 [8:0]. -/
def dChan (d : Desc) : Nat := d.n 3 % 512

/-- TRG_ALLOC (R103): a FREE channel of TC128 to TC511 for a realm with fewer than 128, of TC096 to TC127 for the device. -/
def execTrgAlloc (d : Desc) (s : State) : Out :=
  let dev := d.tgt = 255
  let free := fun (s : State) => (List.range 512).filter fun c =>
    (if dev then 96 ≤ c && c < 128 else 128 ≤ c) && s.chState c == cFREE
  .next (commandNow 0x36 d (fun s => firstFail [runningCheck s d,
      need (! (free s).isEmpty && (dev || ((List.range 512).filter fun c => s.trigOwner c == d.tgt).length < 128)) St.NO_RESOURCE])
    (fun s => match s.pick (free s) with
      | (some c, s) => (s.chAssign c (if dev then 16 else d.tgt), St.OK, [w32 c])
      | (none, s) => (s, St.NO_RESOURCE, [])) s)

/-- TRG_ARM: the six words become the shadow set, with COMMIT. -/
def execTrgArm (d : Desc) (s : State) : Out :=
  let c := dChan d
  let ws := fun k => d.n (4 + k)
  .next (commandNow 0x37 d (fun s => firstFail [runningCheck s d,
      need (trgMine s d c) St.ACCESS_DENIED, need (s.chState c ≠ cFREE) St.WRONG_STATE,
      need (chWordsOk s ws) St.BAD_PARAM, need (d.ring.val = 16 || chAllowed s d.tgt ws) St.ACCESS_DENIED,
      need (bitsOf (ws 0) 31 28 ≠ 0 || (s.gridValid (bitsOf (ws 0) 15 8) &&
        (d.tgt = 255 || s.gridVisible (bitsOf (ws 0) 15 8) d.tgt))) RUL_GRID_UNBOUND])
    (fun s =>
      let q := s.fld (Reg.TRG_CH_COUNTS c) 31 16
      (s.chArm c ((List.range 6).map fun k => w32 (ws k)), St.OK, [w32 q])) s)

/-- TRG_DISARM. -/
def execTrgDisarm (d : Desc) (s : State) : Out :=
  let c := dChan d
  .next (commandNow 0x38 d (fun s => firstFail [runningCheck s d, need (trgMine s d c) St.ACCESS_DENIED,
      need (s.chState c == cARMED || s.chState c == cWAIT) St.WRONG_STATE])
    (fun s => (s.chDisarm c, St.OK, [w32 (s.fld (Reg.TRG_CH_COUNTS c) 15 0)])) s)

/-- TRG_FREE. -/
def execTrgFree (d : Desc) (s : State) : Out :=
  let c := dChan d
  .next (commandNow 0x39 d (fun s => firstFail [runningCheck s d, need (trgMine s d c) St.ACCESS_DENIED,
      need (s.chState c == cIDLE) St.WRONG_STATE])
    (fun s => (s.chFree c, St.OK, [])) s)

/-- TRG_QUERY: MISSED is not cleared. -/
def execTrgQuery (d : Desc) (s : State) : Out :=
  let c := dChan d
  .next (commandNow 0x3A d (fun s => firstFail [runningCheck s d, need (trgMine s d c) St.ACCESS_DENIED,
      need (s.chState c ≠ cFREE) St.WRONG_STATE])
    (fun s => (s, St.OK, [w32 (s.chState c), w32 (s.fld (Reg.TRG_CH_COUNTS c) 31 16), w32 (s.fld (Reg.TRG_CH_COUNTS c) 15 0),
      s.rd (Reg.TRG_CH_LAST_FIRE c)])) s)

/-! ## Registers (R104, R118, R121) -/

/-- A field of a shadow word takes a value only when it is no reserved encoding (R12). -/
def shField (old new hi lo limit : Nat) : Nat := (if bitsOf new hi lo ≤ limit then bitsOf new hi lo else bitsOf old hi lo) * 2 ^ lo

/-- A shadow word as a write leaves it. -/
def shWord (w old new : Nat) : Nat :=
  match w with
  | 0 => shField old new 31 28 1 + shField old new 27 24 4 + shField old new 23 20 7 + shField old new 19 18 1 +
      shField old new 17 16 1 + shField old new 15 8 255 + shField old new 7 7 1 + shField old new 5 0 47
  | 5 => new % 65536
  | _ => new

/-- TRG_SHADOW_WRITE: a shadow word written; COMMIT clears. -/
def execTrgShadowWrite (who : Requester) (c : Fin 512) (w : Fin 6) (value : W32) (s : State) : Out :=
  let a := Reg.TRG_CH_SH_CFG c + 4 * w
  .next (accessHeld who a (fun s =>
    (s.wrN a (shWord w (s.rdN a) value.toNat)).setFld (Reg.TRG_CH_CTL c) 31 31 0) s)

/-- A write of CTL with COMMIT: the shadow armed; a set that only CMD[16] and control firmware may arm is not (R103). -/
def execTrgCtlCommit (who : Requester) (c : Fin 512) (s : State) : Out :=
  .next (accessHeld who (Reg.TRG_CH_CTL c) (fun s =>
    let ws := fun k => s.rdN (Reg.TRG_CH_SH_CFG c + 4 * k)
    if isFirmware who || chAllowed s (s.whoRealm who) ws then s.chCommit c else s) s)

/-- A write of CTL with DISARM (R102). -/
def execTrgCtlDisarm (who : Requester) (c : Fin 512) (s : State) : Out :=
  .next (accessHeld who (Reg.TRG_CH_CTL c) (fun s =>
    if s.chState c = cARMED || s.chState c = cWAIT then s.chDisarm c else s) s)

/-! ## Ticks -/

/-- Snapshots asked for by SNAP_REQUEST whose instant has come (R115). -/
def State.snapDue (s : State) : State :=
  let due := s.time.snapReq.filter fun q => q.1 ≤ s.tbNs 0
  if due.isEmpty then s else
  let s := { s with time := { s.time with snapReq := s.time.snapReq.filter fun q => s.tbNs 0 < q.1 } }
  due.foldl (fun s q =>
    let s := s.snapshot none (65536 * q.1 : Nat) 0
    s.slotEnd q.2 St.OK (s.rd Reg.TRG_SNAP_GEN :: ts80 q.1 0)) s

end Sys2Proof.Machine
end

