-- ==== Sys2Proof/Machine/Fronthaul.lean ====
section
/-! DEFINITION. Ethernet ports and fronthaul engines (rows of chapter 13): configuration, ingress, egress, windows. -/

namespace Sys2Proof.Machine

/-! ## Ports (R441 to R445) -/

/-- Lane signalling rates by MODE (R441): 1 10.3125, 2 25.78125, 3 53.125, 4 106.25 Gb/s. -/
def ethRate (mode : Nat) : Nat := [0, 1, 2, 3, 4, 3, 2, 4, 3, 4, 3].getD mode 0

/-- FEC codes permitted for a MODE (R441). -/
def ethFecOk (mode fec : Nat) : Bool :=
  match mode with
  | 0 => true
  | 1 => fec ≤ 1
  | 2 => fec ≤ 2
  | 6 => fec == 2
  | _ => fec == 3

def State.ethMode (s : State) (p : Nat) : Nat := s.fld (Reg.ETH_CFG p) 27 24

/-- Whether MODE and FEC suit port n beside the other ports (R442). -/
def State.ethLaneOk (s : State) (n mode fec : Nat) : Bool :=
  let w := ethLanes mode
  let lanes := (List.range w).map (n + ·)
  let listed := fun r => lanes.all fun l => s.portBit r 8 4 l
  mode ≤ 10 && ethFecOk mode fec && n % max w 1 == 0 && n + w ≤ 32 &&
    ((List.range 32).all fun m => m == n || s.ethMode m == 0 ||
      (lanes.all (fun l => ! (m ≤ l && l < m + s.ethWidth m)) && ! (m ≤ n && n < m + s.ethWidth m && mode ≠ 0) &&
        (! ((List.range (s.ethWidth m)).any fun k => lanes.any fun l => l / 4 == (m + k) / 4) || ethRate (s.ethMode m) == ethRate mode))) &&
    (mode == 0 || ((List.range 16).any listed || listed 0xFF))

/-- Whether a command may act on port n: its realm owns it, or CMD[16]. -/
def portMine (s : State) (d : Desc) (n : Nat) : Bool := d.ring.val = 16 || s.portBit d.tgt 8 4 n

/-- ETH_CONFIG (R442, R444). -/
def execEthConfig (d : Desc) (s : State) : Out :=
  let n := d.n 3 % 32
  let v := d.word 4
  .next (commandNow 0x60 d (fun s => firstFail [stoppedOrRunning s d, need (portMine s d n) St.ACCESS_DENIED, notExpert s (0x500 + n),
      need (wfld v 29 28 ≠ 3 && 64 ≤ wfld v 13 0 && wfld v 13 0 ≤ 9600 && s.ethLaneOk n (wfld v 27 24) (wfld v 23 22) &&
        (wfld v 27 24 ≠ 0 || ! wbit v 31)) St.BAD_PARAM,
      need (s.ethState n == 0 || (wfld v 29 22 == s.fld (Reg.ETH_CFG n) 29 22)) St.WRONG_STATE])
    (fun s =>
      let s := s.wrN (Reg.ETH_CFG n) (Nat.land v.toNat 0xFFC03FFF)
      let s := s.wrN (Reg.ETH_ECPRI_UDP n) (d.n 5 % 65536)
      let s := (s.wr (Reg.ETH_MAC_LO n) (d.word 6)).wrN (Reg.ETH_MAC_HI n) (d.n 7 % 65536)
      let s := if wbit v 31 then (if s.ethState n = 0 then s.setEth n 1 else s)
        else (s.setFld (Reg.ETH_STATUS n) 29 25 0).setEth n 0
      (s, St.OK, [s.rd (Reg.ETH_STATUS n)])) s)

/-- Whether the domains a port lies in are at D0. -/
def State.ethPowered (s : State) (p : Nat) : Bool :=
  s.domUp 52 && (List.range (max 1 (s.ethWidth p))).all fun l => s.domUp (48 + (p + l) / 8)

/-- PORT_LINK_UP: a LINKING port enters UP. -/
def execPortLinkUp (port : Fin 32) (s : State) : Out :=
  if s.ethState port ≠ 1 || ! s.ethPowered port then .next s else
  let fec := s.fld (Reg.ETH_CFG port) 23 22
  .next ((s.setFld (Reg.ETH_STATUS port) 29 25 (16 + (if fec ≠ 0 then 8 else 0))).setEth port 2)

/-- PORT_LINK_DOWN: an UP port returns to LINKING; what it was sending is lost. -/
def State.ethDown (s : State) (p : Nat) : State :=
  if s.ethState p ≠ 2 then s else
  ((s.setFld (Reg.ETH_STATUS p) 29 28 0).bump (Reg.ETH_LINK_DOWN p) 1).setEth p 1

def execPortLinkDown (port : Fin 32) (s : State) : Out := .next (s.ethDown port)

/-- ETH_QUERY. -/
def execEthQuery (d : Desc) (s : State) : Out :=
  let n := d.n 3 % 32
  .next (commandNow 0x61 d (fun s => firstFail [stoppedOrRunning s d, need (portMine s d n) St.ACCESS_DENIED])
    (fun s => (s, St.OK, [s.rd (Reg.ETH_STATUS n), s.rd (Reg.ETH_RX_FRAMES n), s.rd (Reg.ETH_RX_BAD n), s.rd (Reg.ETH_TX_FRAMES n),
      s.rd (Reg.ETH_FEC_CORR n), s.rd (Reg.ETH_FEC_UNCORR n), s.rd (Reg.ETH_LINK_DOWN n)])) s)

/-- ETH_CAL (R445): the port's user offsets. -/
def execEthCal (d : Desc) (s : State) : Out :=
  let n := d.n 3 % 32
  let tx := signed 32 (d.n 4)
  let rx := signed 32 (d.n 5)
  .next (commandNow 0x67 d (fun s => firstFail [stoppedOrRunning s d, need (portMine s d n) St.ACCESS_DENIED, notExpert s (0x500 + n),
      need (calUserOk 1 tx && calUserOk 2 rx) St.BAD_PARAM])
    (fun s =>
      let s := (s.calSet 1 n tx).calSet 2 n rx
      (s, St.OK, [w32 (unsigned 32 (s.calEff 1 n)), w32 (unsigned 32 (s.calEff 2 n))])) s)

/-! ## Tables and rings (R447 to R452, R458, R466) -/

/-- Realm of a command: 16 for the device. -/
def dRealm (d : Desc) : Nat := if d.tgt < 16 then d.tgt else 16

/-- Whether a realm may use engine f: it owns one of its ports, or holds streams on a device-wide one. -/
def State.engineOk (s : State) (r f : Nat) : Bool :=
  r == 16 || bitsOf (s.recNum 0x15 r 8 4) (16 * f + 15) (16 * f) ≠ 0 ||
    (s.recNum 0x15 r 0xE 2 ≠ 0 && bitsOf (s.recNum 0x15 0xFF 8 4) (16 * f + 15) (16 * f) ≠ 0)

/-- n words of a table image at a global address. -/
def State.imageW (s : State) (g : Nat) (w : Nat) : Nat := s.load ((s.localOf (g + 4 * w)).getD 0) 4

/-- Entries written in index order until one fails: how many, and the failure. -/
def State.stWriteAll (s : State) (r g : Nat) : List Nat → State × Nat × Nat × Nat
  | [] => (s, 0, 0xFFFF, St.OK)
  | i :: rest =>
    let st := if 16384 ≤ i then St.BAD_PARAM else s.stCheck r i (s.imageW g)
    if st ≠ St.OK then (s, 0, i, st) else
    let q := State.stWriteAll (s.stWrite i (s.imageW g)) r (g + 64) rest
    (q.1, q.2.1 + 1, q.2.2)

/-- FH_STREAM (R452). -/
def execFhStream (d : Desc) (s : State) : Out :=
  let first := d.n 3 % 16384
  let n := bitsOf (d.n 3) 24 16
  let g := cat64 (d.word 4) (d.word 5)
  let r := dRealm d
  .next (commandNow 0x62 d (fun s => firstFail [stoppedOrRunning s d, need (1 ≤ n && n ≤ 256) St.BAD_PARAM,
      need (r == 16 || s.recNum 0x15 r 0xE 2 ≠ 0) St.ACCESS_DENIED, need (s.reachable r g (64 * n)) St.ACCESS_DENIED])
    (fun s =>
      let q := s.stWriteAll r g ((List.range n).map (first + ·))
      (q.1, q.2.2.2, [w32 q.2.1, w32 q.2.2.1])) s)

/-- Shortest symbol of a grid in 2^-16 ns. -/
def State.shortSym (s : State) (g : Nat) : Nat :=
  let ty := s.gridTy g
  let cp := s.gridCp g
  let n := s.gridSyms g
  let units := slotsPerFrame ty * n
  (List.range units).foldl (fun m k =>
    let k' := k + 1
    let e := if k' = units then frameLen.toNat else symStart ty cp (k' / n) (k' % n)
    min m (e - symStart ty cp (k / n) (k % n))) frameLen.toNat

/-- The channel set of a window group (R458). -/
def windowSet (f g grid : Nat) (ofs : W32) : List W32 :=
  [w32 (2 ^ 24 + 3 * 2 ^ 20 + grid * 2 ^ 8), w32 (2 ^ 21), ofs, 0, 1, w32 (64 * f + g)]

/-- FH_WINDOW (R458): a group set and its channel armed; LEN 0 frees it. -/
def execFhWindow (d : Desc) (s : State) : Out :=
  let f := d.n 3 % 2
  let g := bitsOf (d.n 3) 13 8
  let grid := bitsOf (d.n 3) 31 24
  let ofs := signed 32 (d.n 4)
  let len := d.n 5
  let c := d.n 6 % 512
  let wake := bitOf (d.n 8) 0
  let a := Reg.FHE_WG_CFG f g
  .next (commandNow 0x63 d (fun s => firstFail [runningCheck s d, need (s.engineOk (dRealm d) f) St.ACCESS_DENIED,
      need (d.tgt < 16 && trgMine s d c) St.ACCESS_DENIED, need (! s.bit a 31 || s.fld a 27 24 == d.tgt) St.ACCESS_DENIED,
      notExpert s (0x520 + f), need (s.chState c ≠ cFREE) St.WRONG_STATE,
      need (len = 0 || (ofs.natAbs ≤ 1000000 && 1000 ≤ len && len ≤ 1000000)) St.BAD_PARAM,
      need (len = 0 || (s.gridValid grid && s.gridVisible grid d.tgt)) RUL_GRID_UNBOUND,
      need (len = 0 || 65536 * len ≤ 7 * s.shortSym grid) St.BAD_PARAM,
      need (len = 0 || ! wake || s.targetOf (d.word 7) d.tgt) St.ACCESS_DENIED])
    (fun s =>
      let q := s.fld (Reg.TRG_CH_COUNTS c) 31 16
      let old := s.fld a 8 0
      let s := if s.bit a 31 && (len = 0 || old ≠ c) then s.chDisarm old else s
      if len = 0 then (s.windowFree f g, St.OK, [w32 q]) else
      let cfg := 2 ^ 31 + 2 ^ 30 * bitsOf (d.n 3) 16 16 + 2 ^ 29 * b2n wake + 2 ^ 24 * d.tgt + 2 ^ 16 * grid + c
      let s := s.wrWords a [w32 cfg, d.word 4, d.word 5, d.word 7]
      (s.chArm c (windowSet f g grid (d.word 4)), St.OK, [w32 q])) s)

/-- A realm reset frees the realm's window groups (R458). -/
def State.windowRealmReset (s : State) (r : Nat) : State :=
  (List.range 128).foldl (fun s k =>
    let a := Reg.FHE_WG_CFG (k / 64) (k % 64)
    if s.bit a 31 && s.fld a 27 24 = r then s.windowFree (k / 64) (k % 64) else s) s

/-- FH_RING (R466, as RING_CONFIG of R346). -/
def execFhRing (d : Desc) (s : State) : Out :=
  let f := d.n 3 % 2
  let r := dRealm d
  let k : Fin 17 := Fin.ofNat 17 r
  let ring : RingId := if bitOf (d.n 3) 1 then .fhRx (Fin.ofNat 2 f) k else .fhTx (Fin.ofNat 2 f) k
  let b := ringBase ring
  let en := wbit (d.word 6) 31
  .next (commandNow 0x64 d (fun s => firstFail [stoppedOrRunning s d, need (s.engineOk r f) St.ACCESS_DENIED, notExpert s (0x520 + f),
      need (! (en && ringEnabled s b)) St.WRONG_STATE,
      need (wfld (d.word 9) 31 30 = 0 || r = 16 || s.targetOf (d.word 10) r) St.ACCESS_DENIED])
    (fun s =>
      let s := if en then s else s.ringCfgWrite ring (d.word 6)
      let s := (s.ringBaseWrite ring (d.word 4) (d.word 5)).ringHeadwbWrite ring (d.word 7) (d.word 8)
      let s := s.wrN (Reg.FHE_RING_NOTIFY_CTL f r) (2 ^ 30 * wfld (d.word 9) 31 30)
      let s := s.wr (Reg.FHE_RING_NOTIFY_TGT f r) (d.word 10)
      let s := if en then s.ringCfgWrite ring (d.word 6) else s
      (s, St.OK, [s.rd (b + 8)])) s)

/-- Whether the image of a header template has every reserved byte zero (R450). -/
def hdrOk (h : List Byte) : Bool :=
  let z := fun o n => leNat ((h.drop o).take n) == 0
  fb h 0xC ≤ 1 && z 0xD 1 && fb h 0x10 ≤ 2 && z 0x13 1 && z 0x18 8 && (fb h 0x10 ≠ 1 || (z 0x24 12 && z 0x34 12))

/-- FH_HDR (R450): a header template of the realm. -/
def execFhHdr (d : Desc) (s : State) : Out :=
  let f := d.n 3 % 2
  let t := bitsOf (d.n 3) 13 8
  let g := cat64 (d.word 4) (d.word 5)
  let img := fun (s : State) => s.bytes ((s.localOf g).getD 0) 64
  .next (commandNow 0x65 d (fun s => firstFail [stoppedOrRunning s d, need (d.tgt < 16) St.BAD_PARAM,
      need (s.engineOk d.tgt f && s.reachable d.tgt g 64) St.ACCESS_DENIED, notExpert s (0x520 + f), need (hdrOk (img s)) St.BAD_PARAM])
    (fun s => (s.setFh { s.fh with hdr := sput s.fh.hdr ((16 * f + d.tgt) * 64 + t) (img s) [] }, St.OK, [])) s)

/-- STREAM_TABLE_ERROR (R452): VALID clears; EV0746 + f. -/
def execStreamTableError (f : Fin 2) (idx : Fin 16384) (s : State) : Out :=
  let s := s.setStW idx 0 (s.stW idx 0 % 2 ^ 31)
  .next ((s.setBit (Reg.FHE_STATUS f) 31).raise (746 + f))

/-- ST_ACC_READ (R470): the entry of ST_IDX copied into ST_DATA. -/
def execStAccRead (who : Requester) (f : Fin 2) (s : State) : Out :=
  .next (accessHeld who (Reg.FHE_ST_ACC f) (fun s =>
    let i := s.fld (Reg.FHE_ST_IDX f) 13 0
    (s.wrWords (Reg.FHE_ST_DATA f 0) ((List.range 16).map fun w => w32 (s.stW i w))).setFld (Reg.FHE_ST_ACC f) 7 0 St.OK) s)

/-- ST_ACC_WRITE: ST_DATA stored at ST_IDX under R452. -/
def execStAccWrite (who : Requester) (f : Fin 2) (s : State) : Out :=
  .next (accessHeld who (Reg.FHE_ST_ACC f) (fun s =>
    let i := s.fld (Reg.FHE_ST_IDX f) 13 0
    let w := fun k => s.rdN (Reg.FHE_ST_DATA f k)
    let st := s.stCheck 16 i w
    let s := s.setFld (Reg.FHE_ST_ACC f) 7 0 st
    if st = St.OK then s.stWrite i w else s.setBit (Reg.FHE_STATUS f) 30) s)

/-! ## MACsec (R464, R465) -/

/-- Frames that pass unprotected: EAPOL always, PTP and ESMC with BYPASS_SYNC. -/
def isEsmc (f : List Byte) : Bool := (ethType f).1 == 0x8809 && fb f (ethType f).2 == 0x0A
def State.msecExempt (s : State) (p : Nat) (f : List Byte) : Bool :=
  (ethType f).1 == 0x888E || (s.bit (Reg.ETH_MSEC_CFG p) 24 && ((ptpAt f).isSome || isEsmc f))

def State.macSa (s : State) (k : Nat) : Option MacSa := sget s.fh.sa k none
def State.setMacSa (s : State) (k : Nat) (x : Option MacSa) : State := s.setFh { s.fh with sa := sput s.fh.sa k x none }

/-- Whether a key slot lies in a realm's SECURITY_DOMAIN range (R50). -/
def State.keyMine (s : State) (r k : Nat) : Bool :=
  r == 16 || (s.recs 0x17 r).any fun x => x.num 8 1 ≤ k && k < x.num 8 1 + x.num 9 1

/-- MACSEC_SA (R465): word 3 names port, direction, SC and AN. -/
def execMacsecSa (d : Desc) (s : State) : Out :=
  let p := d.n 3 % 32
  let rx := bitOf (d.n 3) 8
  let sc := bitsOf (d.n 3) 11 9
  let an := bitsOf (d.n 3) 13 12
  let ins := bitOf (d.n 3) 16
  let k := 64 * p + (if rx then 32 + 4 * sc else 0) + an
  let key := d.n 4 % 256
  let pn := cat64 (d.word 5) (d.word 6)
  .next (commandNow 0x66 d (fun s => firstFail [stoppedOrRunning s d, need (portMine s d p) St.ACCESS_DENIED, notExpert s (0x500 + p),
      need (! ins || s.keyMine (dRealm d) key) St.ACCESS_DENIED,
      need ((rx || sc = 0) && (! ins || pn ≠ 0)) St.BAD_PARAM,
      need (! ins || (match sget s.chp.keys key none with
        | some x => x.typ == 1
        | none => false)) St.BAD_PARAM,
      need (rx || (s.macSa k).isNone || s.fld (Reg.ETH_MSEC_CFG p) 23 22 ≠ an) St.WRONG_STATE])
    (fun s =>
      let sa := { key := key, pn := pn, salt := [d.n 7, d.n 8, d.n 9], ssci := d.n 10, sci := cat64 (d.word 11) (d.word 12),
                  warned := false : MacSa }
      (s.setMacSa k (if ins then some sa else none), St.OK, [])) s)

/-- The SecY on a frame to be sent: whether it goes out, the packet number counted and its threshold signalled (R465). -/
def State.msecTx (s : State) (p : Nat) (f : List Byte) : State × Bool :=
  if ! s.bit (Reg.ETH_MSEC_CFG p) 31 || s.msecExempt p f then (s, true) else
  let k := 64 * p + s.fld (Reg.ETH_MSEC_CFG p) 23 22
  let L := if s.bit (Reg.ETH_MSEC_CFG p) 30 then 64 else 32
  match s.macSa k with
  | none => (s, false)
  | some a =>
    if 2 ^ L ≤ a.pn then (s.bump (Reg.ETH_OUT_PN_EXH p) 1, false) else
    let hit := ! a.warned && s.rdN (Reg.ETH_MSEC_THRESH p) * 2 ^ (L - 32) ≤ a.pn + 1
    let s := (s.setMacSa k (some { a with pn := a.pn + 1, warned := a.warned || hit })).bump (Reg.ETH_OUT_PROT p) 1
    (if hit then s.raise (744 + portEngine p) else s, true)

/-- The SecY on a frame received; msec says how the frame stands: 0 unprotected, 1 protected and valid, 2 protected and not valid,
3 outside the replay window. Answers whether it is passed on. -/
def State.msecRx (s : State) (p : Nat) (f : List Byte) (msec : Nat) : State × Bool :=
  if ! s.bit (Reg.ETH_MSEC_CFG p) 31 || s.msecExempt p f then (s, true) else
  let strict := s.fld (Reg.ETH_MSEC_CFG p) 29 28 = 2
  match msec with
  | 1 => (s.bump (Reg.ETH_IN_OK p) 1, true)
  | 2 => (s.bump (Reg.ETH_IN_NOTVALID p) 1, ! strict)
  | 3 => (s.bump (Reg.ETH_IN_LATE p) 1, false)
  | _ => (s, ! strict)

/-! ## Egress (R461, R462) -/

/-- A frame leaves a port (without FCS). -/
def State.sendFrame (s : State) (p : Nat) (f : List Byte) : State :=
  let r := s.msecTx p f
  if ! r.2 then r.1 else
  let s := r.1
  let s := s.setFh { s.fh with sent := sput s.fh.sent p f [] }
  (s.bump (Reg.ETH_TX_FRAMES p) 1).bump (Reg.FHE_TX_PKTS (portEngine p)) 1

/-- A transmit descriptor ends: words written from word o on, ERR_INFO for the first failure, completion. -/
def State.fhDone (s : State) (r : RingId) (f realm status o : Nat) (ws : List Nat) : State :=
  let b := ringBase r
  let s := if ws.isEmpty then s else writeBack b (ringDescAddr s b + 4 * o) (ws.flatMap (leBytes 4)) s
  let s := if status ≠ St.OK && s.rdN (Reg.FHE_ERR_INFO f) = 0 then s.wrN (Reg.FHE_ERR_INFO f) (2 ^ 20 * (realm % 16) + status) else s
  s.complete r status 0

/-- Whether a range at a global address is memory of realm r on the device (16: any of its memory). -/
def State.fhRange (s : State) (r g n : Nat) : Bool :=
  match s.localOf g with
  | some a => s.arenaOk r a n
  | none => false

/-- Status of reading a range: RETENTION_LOST or POISONED by its lowest marked word, DOMAIN_LOST of memory forced down. -/
def State.fhReadSt (s : State) (g n : Nat) : Nat :=
  let a := (s.localOf g).getD 0
  if s.domForced (s.addrDomain a) then St.DOMAIN_LOST
  else match s.markOf a n with
    | 0 => St.OK
    | 1 => St.POISONED
    | _ => St.RETENTION_LOST

/-- Symbol index that word 5 names on a grid, nearest now; none for a position the grid does not have. -/
def State.symOf (s : State) (G w5 : Nat) : Option Int :=
  let slot := bitsOf w5 21 14
  let sym := bitsOf w5 13 10
  if slot < slotsPerFrame (s.gridTy G) && sym < s.gridSyms G then
    some (s.symNear G 1024 (bitsOf w5 31 22) (slot * s.gridSyms G + sym) (s.nowInst (s.gridTb G)))
  else none

/-- What a transmit descriptor's window allows now: 0 wait, 1 open, 2 past; and its close. -/
def State.txWindow (s : State) (f g : Nat) (n : Int) : Nat × Int :=
  let G := s.wgGrid f g
  let lo := s.symInst G n + s.wgOfs f g
  let hi := lo + s.wgLen f g
  let now := s.nowInst (s.gridTb G)
  match s.windowFor f g n with
  | some w => (if w.closed || w.hi < now then 2 else if w.lo ≤ now then 1 else 0, w.hi)
  | none => (if hi < now then 2 else 0, hi)

/-- Standing of the descriptor at a ring's head for a port (R461): class 0 FRAME_TX, 1 an open window, and its close. -/
def State.txRank (s : State) (f r p : Nat) : Option (Nat × Int × Nat) :=
  let b := Reg.FHE_TXR_BASE_LO f r
  if ! (ringEnabled s b && ! ringEmpty s b && ! s.stalled.contains b) then none else
  let w := fun k => s.load (s.descLocal b + 4 * k) 4
  let op := bitsOf (w 0) 23 16
  if op = 3 then (if w 4 % 32 = p then some (0, 0, r) else none)
  else if op = 1 || op = 2 then
    let i := w 4 % 16384
    let g := stWgrp (s.stW i 1)
    if ! s.stValid i || stPort (s.stKey i) ≠ p then none else
    match s.symOf (s.wgGrid f g) (w 5) with
    | some n => let t := s.txWindow f g n; if t.1 = 1 then some (1, t.2, r) else none
    | none => none
  else none

/-- Whether a ring's descriptor goes first on its port. -/
def State.txFirst (s : State) (f r p : Nat) : Bool :=
  match s.txRank f r p with
  | none => true
  | some a => (List.range 17).all fun k => k == r || (match s.txRank f k p with
    | none => true
    | some b => if a.1 = 0 then true else if b.1 = 0 then false else
        decide (a.2.1 < b.2.1) || (a.2.1 == b.2.1 && a.2.2 < b.2.2))

/-- The eCPRI common header (R448): revision 1, no concatenation. -/
def ecpriHdr (typ : Nat) (body : List Byte) : List Byte := [0x10, BitVec.ofNat 8 typ] ++ beBytes 2 body.length ++ body

/-- frameId, subframeId, slotId and symbolId of word 5 (R462). -/
def State.radioTime (s : State) (G w5 : Nat) : List Byte :=
  let per := s.slotsPerSub G
  let slot := bitsOf w5 21 14
  BitVec.ofNat 8 (bitsOf w5 31 22) :: beBytes 2 (slot / per % 16 * 2 ^ 12 + slot % per % 64 * 2 ^ 6 + bitsOf w5 13 10)

/-- Largest number of PRBs in a U-plane frame of a stream (R462). -/
def State.framePrbs (s : State) (p i : Nat) (h : List Byte) : Nat :=
  let w1 := s.stW i 1
  (s.fld (Reg.ETH_CFG p) 13 0 - 4 - wrapLen h - 16 - (if stStatic w1 then 0 else 2)) / prbBytes (stMeth w1) (stWidth w1)

/-- One U-plane frame: PRBs from first on, already in wire format. -/
def State.uFrame (s : State) (p i G w5 first n sect : Nat) (h data : List Byte) : List Byte :=
  let w1 := s.stW i 1
  let all := first = stStart (s.stW i 2) && n = stNprb (s.stW i 2)
  let num := if all && 255 < n then 0 else n
  let seq := (s.stW i 10 % 256 + 1) % 256
  let _ := p
  let comp := if stStatic w1 then [] else [BitVec.ofNat 8 (stWidth w1 % 16 * 16 + stMeth w1), 0]
  let body := beBytes 2 (s.stKey i % 65536) ++ [BitVec.ofNat 8 seq, 0x80] ++ (0x90 : Byte) :: s.radioTime G w5 ++
    beBytes 3 (sect * 2 ^ 12 + first) ++ [BitVec.ofNat 8 num] ++ comp ++ data
  wrapFrame h (ecpriHdr 0 body)

/-- A frame of a stream counted: its seqId, and TX_TOTAL. -/
def State.txCount (s : State) (i : Nat) : State :=
  let s := s.setStW i 10 (s.stW i 10 - s.stW i 10 % 256 + (s.stW i 10 % 256 + 1) % 256)
  s.stCount i 11 1

/-- Frames of a U_TX one after another: PRBs (wire bytes each) in pieces of at most per, while room lasts. -/
def State.uSend (s : State) (p i G w5 sect per : Nat) (h : List Byte) : Nat → Nat → List (List Byte) → Nat → State × Nat
  | 0, _, _, n => (s, n)
  | room + 1, first, prbs, n =>
    if prbs.isEmpty then (s, n) else
    let k := min per prbs.length
    let fr := s.uFrame p i G w5 first k sect h (prbs.take k).flatten
    State.uSend ((s.sendFrame p fr).txCount i) p i G w5 sect per h room (first + k) (prbs.drop k) (n + 1)

/-- A run of bytes cut into n pieces of k. -/
def pieces (k : Nat) : Nat → List Byte → List (List Byte)
  | 0, _ => []
  | n + 1, bs => bs.take k :: pieces k n (bs.drop k)

/-- Common checks of U_TX and C_TX: status, or the stream's group, grid, symbol and header. -/
def State.txCheck (s : State) (f r : Nat) (j : Job) (masks : List Nat) (cplane : Bool) (bytes : Nat → Nat) : Nat × Nat × Nat × Option Int :=
  let i := j.n 4 % 16384
  let k := s.stKey i
  let g := stWgrp (s.stW i 1)
  let G := s.wgGrid f g
  let n := s.symOf G (j.n 5)
  let fv := bitOf (j.n 1) 31
  let fol := s.folio r (j.n 1 % 65536)
  let st := if ! wordsOk j masks then St.BAD_PARAM
    else if r < 16 && ! s.stMine r i then St.ACCESS_DENIED
    else if ! s.stValid i || stCplane k ≠ cplane || ! stEgress k || portEngine (stPort k) ≠ f || n.isNone then St.BAD_PARAM
    else if ! s.fhRange r (jIn j) (bytes i) then St.ACCESS_DENIED
    else if fv && fol.any (·.state == 3) then St.LATE
    else if fv && fol.isNone then St.ABORTED
    else if s.ethState (stPort k) ≠ 2 then FH_NO_LINK
    else s.fhReadSt (jIn j) (bytes i)
  (st, g, G, n)

/-- The ring of a transmit descriptor: engine, realm. -/
def txRing (r : RingId) : Option (Nat × Nat) :=
  match r with
  | .fhTx f r => some (f, r)
  | _ => none

/-- U_TX (R461, R462) at the head of its ring; room is how many of its frames can start before the close. -/
def execUTx (j : Job) (room : BitVec 16) (s : State) : Out :=
  match txRing j.ring with
  | none => .next s
  | some (f, r) =>
    if bitsOf (j.n 0) 23 16 ≠ 1 || ! s.ringReady j.ring || ! s.domUp 52 then .next s else
    let first := j.n 6 % 512
    let cnt := bitsOf (j.n 6) 17 9
    let size := fun i => if stPass (s.stW i 1) then prbBytes (stMeth (s.stW i 1)) (stWidth (s.stW i 1)) else 48
    let c := s.txCheck f r j [0xC0FFFFFF, 0xBF00FFFF, 0xFFFFFFFF, 0xFFFFFFFF, 0x3FFF, 0xFFFFFC00, 0x3FFFFFFF] false
      (fun i => cnt * size i)
    let i := j.n 4 % 16384
    let p := stPort (s.stKey i)
    let w2 := s.stW i 2
    let h := s.hdrTpl f (s.stRealm i) (stHdr (s.stW i 1))
    let per := min (s.framePrbs p i h) (if s.framePrbs p i h < cnt || cnt ≠ stNprb w2 then 255 else cnt)
    let st := if c.1 = St.BAD_PARAM || c.1 = St.ACCESS_DENIED then c.1
      else if cnt = 0 || 273 < cnt || first < stStart w2 || stStart w2 + stNprb w2 < first + cnt || per = 0 then St.BAD_PARAM else c.1
    if st ≠ St.OK then .next (s.fhDone j.ring f r st 13 [0]) else
    let win := s.txWindow f c.2.1 (c.2.2.2.getD 0)
    if win.1 = 2 then .next ((s.stCount i 12 1).fhDone j.ring f r St.LATE 13 [0])
    else if win.1 = 0 || ! s.txFirst f r p then .next s else
    let src := s.gbytes (jIn j) (cnt * size i)
    let w1 := s.stW i 1
    let packed := (pieces (size i) cnt src).map fun b =>
      if stPass w1 then (b, 0) else prbPack (stMeth w1) (stWidth w1) (stMcd (s.stW i 3)) (bytesComp b)
    let q := s.uSend p i c.2.2.1 (j.n 5) (bitsOf (j.n 6) 29 18) per h room.toNat first (packed.map (·.1)) 0
    let need := (cnt + per - 1) / per
    let clamps := packed.foldl (fun n x => n + x.2) 0
    let res := [q.2 % 65536 + 65536 * (clamps % 65536)]
    if q.2 = need then .next (q.1.fhDone j.ring f r St.OK 13 res)
    else .next ((q.1.stCount i 12 1).fhDone j.ring f r St.LATE 13 res)

/-- C_TX (R462): the message with its time fields overwritten; room says whether it can start before the close. -/
def execCTx (j : Job) (room : Bool) (s : State) : Out :=
  match txRing j.ring with
  | none => .next s
  | some (f, r) =>
    if bitsOf (j.n 0) 23 16 ≠ 2 || ! s.ringReady j.ring || ! s.domUp 52 then .next s else
    let len := j.n 6 % 16384
    let c := s.txCheck f r j [0xC0FFFFFF, 0xBF00FFFF, 0xFFFFFFFF, 0xFFFFFFFF, 0x3FFF, 0xFFFFFC00, 0x3FFF] true (fun _ => len)
    let i := j.n 4 % 16384
    let p := stPort (s.stKey i)
    let h := s.hdrTpl f (s.stRealm i) (stHdr (s.stW i 1))
    let msg := s.gbytes (jIn j) len
    let bad := len < 8 || 9500 < len || ! [0, 1, 3, 5, 6].contains (fb msg 5) ||
      s.fld (Reg.ETH_CFG p) 13 0 < wrapLen h + 12 + len
    let st := if c.1 ≠ St.BAD_PARAM && c.1 ≠ St.ACCESS_DENIED && bad then St.BAD_PARAM else c.1
    if st ≠ St.OK then .next (s.fhDone j.ring f r st 13 [0]) else
    let win := s.txWindow f c.2.1 (c.2.2.2.getD 0)
    if win.1 = 2 || (win.1 = 1 && ! room) then .next ((s.stCount i 12 1).fhDone j.ring f r St.LATE 13 [0])
    else if win.1 = 0 || ! s.txFirst f r p then .next s else
    let seq := (s.stW i 10 % 256 + 1) % 256
    let body := msg.take 1 ++ s.radioTime c.2.2.1 (j.n 5) ++ msg.drop 4
    let fr := wrapFrame h (ecpriHdr 2 (beBytes 2 (s.stKey i % 65536) ++ [BitVec.ofNat 8 seq, 0x80] ++ body))
    .next (((s.sendFrame p fr).txCount i).fhDone j.ring f r St.OK 13 [1])

/-- Bytes of a frame replaced from an offset. -/
def patch (f : List Byte) (o : Nat) (bs : List Byte) : List Byte := f.take o ++ bs ++ f.drop (o + bs.length)

/-- A nonzero UDP checksum follows a change of the datagram's bytes. -/
def fixUdp (old new : List Byte) : List Byte :=
  match udpOf old with
  | none => new
  | some u =>
    let o := u.2 - 8
    let c := be16 old (o + 6)
    if c = 0 then new else
    let t := (List.range ((old.length - o + 1) / 2)).foldl (fun t k => t + (65535 - be16 old (o + 2 * k)) + be16 new (o + 2 * k)) (65535 - c)
    let t := t % 65536 + t / 65536
    let t := t % 65536 + t / 65536
    let t := 65535 - (t % 65536 + t / 65536) % 65536
    patch new (o + 6) (beBytes 2 (if t = 0 then 65535 else t))

/-- FRAME_TX (R462): a raw frame, with its egress timestamp written back and inserted as TSMODE says. -/
def execFrameTx (j : Job) (s : State) : Out :=
  match txRing j.ring with
  | none => .next s
  | some (f, r) =>
    if bitsOf (j.n 0) 23 16 ≠ 3 || ! s.ringReady j.ring || ! s.domUp 52 then .next s else
    let p := j.n 4 % 32
    let len := j.n 6 % 16384
    let mode := j.n 7 % 4
    let o := bitsOf (j.n 7) 15 4
    let full := 0xFFFFFFFF
    let ts := if mode = 3 then full else 0
    let fv := bitOf (j.n 1) 31
    let fol := s.folio r (j.n 1 % 65536)
    let st := if ! wordsOk j [0xC0FFFFFF, 0xBF00FFFF, full, full, 0x1F, 0, 0x3FFF, 0x7FFF3, ts, ts, ts, full, full] then St.BAD_PARAM
      else if r < 16 && ! s.portBit r 8 4 p then St.ACCESS_DENIED
      else if portEngine p ≠ f || len < 60 || s.fld (Reg.ETH_CFG p) 13 0 < len + 4 || (mode = 2 && len < o + 10) || (mode = 3 && len < o + 8)
        then St.BAD_PARAM
      else if ! s.fhRange r (jIn j) len then St.ACCESS_DENIED
      else if fv && fol.any (·.state == 3) then St.LATE
      else if fv && fol.isNone then St.ABORTED
      else if s.ethState p ≠ 2 then FH_NO_LINK
      else s.fhReadSt (jIn j) len
    if st ≠ St.OK then .next (s.fhDone j.ring f r st 11 []) else
    let fr := s.gbytes (jIn j) len
    let tb := match ptpAt fr with
      | some q => if fb fr q % 16 < 4 then s.ptpTb p fr q else bitsOf (j.n 7) 18 16
      | none => bitsOf (j.n 7) 18 16
    let t := (s.txStamp p tb / 65536).toNat
    let w := ts80 t tb
    let sec := t / 10 ^ 9
    let ing := (j.n 8 : Int) + 10 ^ 9 * ((j.n 9 + 2 ^ 32 * bitsOf (j.n 10) 15 0 : Nat) : Int)
    let new := match mode with
      | 2 => patch fr o (beBytes 6 sec ++ beBytes 4 (t % 10 ^ 9))
      | 3 =>
        let v := signed 64 (leNat ((fr.drop o).take 8).reverse) + 65536 * ((t : Int) - ing)
        patch fr o (beBytes 8 (unsigned 64 v))
      | _ => fr
    let s := s.sendFrame p (if 2 ≤ mode then fixUdp fr new else fr)
    .next (s.fhDone j.ring f r St.OK 11 (if mode = 0 then [] else w.map (·.toNat)))

/-! ## Ingress (R448, R449, R459, R460, R463) -/

/-- A section of a U-plane message: first PRB, count, method and width, its bytes. -/
structure USect where
  first : Nat
  n : Nat
  meth : Nat
  width : Nat
  data : List Byte

/-- Sections of a message from an offset (R448): none where one breaks R448, or reaches outside the stream's range. -/
def uSections (w1 w2 : Nat) (m : List Byte) : Nat → Nat → Option (List USect)
  | 0, _ => none
  | fuel + 1, o =>
    if m.length ≤ o then some [] else
    let hd := leNat ((m.drop o).take 3).reverse
    let start := hd % 1024
    let num := fb m (o + 3)
    let n := if num = 0 then stNprb w2 else num
    let first := if num = 0 then stStart w2 else start
    let ud := fb m (o + 4)
    let meth := if stStatic w1 then stMeth w1 else ud % 16
    let width := if stStatic w1 then stWidth w1 else if ud / 16 = 0 then 16 else ud / 16
    let at_ := o + 4 + (if stStatic w1 then 0 else 2)
    let len := n * prbBytes meth width
    if bitOf hd 11 || bitOf hd 10 || ! methOk false meth width || first < stStart w2 || stStart w2 + stNprb w2 < first + n ||
      m.length < at_ + len then none
    else (uSections w1 w2 m fuel (at_ + len)).map (USect.mk first n meth width ((m.drop at_).take len) :: ·)

/-- eCPRI messages of a frame from an offset (R448): offset and length of each, C = 1 going on 4-byte aligned. -/
def ecpriMsgs (f : List Byte) : Nat → Nat → Option (List (Nat × Nat))
  | 0, _ => none
  | fuel + 1, o =>
    let n := be16 f (o + 2)
    if fb f o / 16 ≠ 1 || f.length < o + 4 + n then none
    else if fb f o % 2 = 1 then (ecpriMsgs f fuel (o + (4 + n + 3) / 4 * 4)).map ((o, n) :: ·)
    else some [(o, n)]

/-- Memory written by an engine; a domain below D0 wakes, one forced down loses the write. -/
def State.fhWrite (s : State) (f a : Nat) (bs : List Byte) : State :=
  let d := s.addrDomain a
  if s.domForced d then s else ((s.setBytes a bs).unpoison a bs.length).firstWake d (214 + f)

/-- One section's PRBs written into the arena for symbol n (R453). -/
def State.writeSect (s : State) (f i : Nat) (n : Int) (u : USect) : State :=
  let base := s.stW i 4 + 2 ^ 32 * s.stW i 5 + (n % (max 1 (stNslot (s.stW i 3)) : Nat)).toNat * s.stW i 6
  let stride := bitsOf (s.stW i 7) 15 0
  ((pieces (prbBytes u.meth u.width) u.n u.data).zipIdx).foldl (fun s b =>
    s.fhWrite f (base + (u.first + b.2 - stStart (s.stW i 2)) * stride)
      (if stPass (s.stW i 1) then b.1 else compBytes (prbUnpack u.meth u.width b.1))) s

/-- One U-plane message (common header on) of a port for entry i, judged and written. -/
def State.uMessage (s : State) (p i : Nat) (m : List Byte) : State :=
  let f := portEngine p
  let g := stWgrp (s.stW i 1)
  let G := s.wgGrid f g
  let ts := leNat ((m.drop 10).take 2).reverse
  let slot := ts / 2 ^ 12 * s.slotsPerSub G + ts / 2 ^ 6 % 64
  let sym := ts % 64
  let w1 := s.stW i 1
  match uSections w1 (s.stW i 2) m (m.length + 1) 12 with
  | none => s.stCount i 14 1
  | some us =>
    if m.length < 12 || fb m 7 ≠ 0x80 || fb m 8 / 16 % 8 ≠ 1 || slotsPerFrame (s.gridTy G) ≤ slot || s.gridSyms G ≤ sym then s.stCount i 14 1 else
    let seq := fb m 6
    let s := if stSeqchk w1 && seq ≠ (s.stW i 10 % 256 + 1) % 256 then s.stCount i 15 1 else s
    let s := s.setStW i 10 (s.stW i 10 - s.stW i 10 % 256 + seq)
    let ta := s.rxStamp p (s.gridTb G)
    let n := s.symNear G 256 (fb m 9) (slot * s.gridSyms G + sym) ta
    match s.windowFor f g n with
    | none => s.stCount i 12 1
    | some w =>
      if ta < w.lo then s.stCount i 12 1
      else if w.hi < ta || w.closed then s.stCount i 13 1
      else
        let s := us.foldl (fun s u => s.writeSect f i n u) s
        let k := us.foldl (fun k u => k + u.n) 0
        let w := { w with cnt := sput w.cnt i (sget w.cnt i 0 + k) 0 }
        let s := s.setWindow w
        let s := s.setStat i n fun v => putBits (putBits v 15 0 (min (v % 65536 + k) 65535)) 31 31
          (if stNprb (s.stW i 2) ≤ sget w.cnt i 0 then 1 else bitsOf v 31 31)
        let s := (s.stCount i 11 1).bump (Reg.FHE_RX_PKTS f) 1
        if s.windowFull w then s.windowWake w else s

/-- The entry a U-plane message at offset o of a frame belongs to. -/
def State.uEntry (s : State) (p : Nat) (f : List Byte) (o : Nat) : Option Nat :=
  if fb f (o + 1) = 0 then s.stFind (2 ^ 16 * p + be16 f (o + 4)) else none

/-- Whether a frame counts as a U-plane frame of the stream table: its first message belongs to an entry. -/
def State.uPlane (s : State) (p : Nat) (f : List Byte) : Option (List (Nat × Nat)) :=
  match s.ecpriAt p f with
  | none => none
  | some o => if (s.uEntry p f o).isSome then some ((ecpriMsgs f 64 o).getD [(o, 0)]) else none

/-- Whether a frame reaches the engine: the port UP, its domain up, FCS good, length and destination accepted. -/
def State.rxAccept (s : State) (p : Nat) (f : List Byte) (fcsOk : Bool) : State × Bool :=
  let mac := 2 ^ 32 * s.fld (Reg.ETH_MAC_HI p) 15 0 + s.rdN (Reg.ETH_MAC_LO p)
  let s := s.bump (Reg.ETH_RX_FRAMES p) 1
  if ! fcsOk then (s.bump (Reg.ETH_RX_BAD p) 1, false)
  else if f.length < 60 || s.fld (Reg.ETH_CFG p) 13 0 < f.length + 4 then (s, false)
  else (s, bitOf (fb f 0) 0 || leNat (f.take 6).reverse == mac)

/-- U_PLANE_INGRESS (R459): a U-plane frame (without FCS) of a stream in the table. -/
def execUPlaneIngress (port : Fin 32) (frame : List Byte) (fcsOk : Bool) (msec : Fin 4) (s : State) : Out :=
  let p := port.val
  if s.ethState p ≠ 2 || ! s.domUp 52 then .next s else
  match s.uPlane p frame with
  | none => .next s
  | some ms =>
    let r := s.rxAccept p frame fcsOk
    if ! r.2 then .next r.1 else
    let r := r.1.msecRx p frame msec
    if ! r.2 then .next r.1 else
    .next (ms.foldl (fun s m => match s.uEntry p frame m.1 with
      | some i => if m.2 = 0 then s.stCount i 14 1 else s.uMessage p i ((frame.drop m.1).take (4 + m.2))
      | none => s.bumpSat (Reg.FHE_RX_UNMATCHED (portEngine p)) 31 0 1) r.1)

/-- CLASS of a frame of no stream (R463). -/
def State.rxClass (s : State) (p : Nat) (f : List Byte) : Nat :=
  if (ptpAt f).isSome then 0 else if isEsmc f then 1 else
  match s.ecpriAt p f with
  | some o => match fb f (o + 1) with
    | 5 => 2
    | 2 => 3
    | 0 => 4
    | _ => 5
  | none => 5

/-- Status of the receive buffer descriptor at the head of a ring: OK when it can take a frame. -/
def State.rxBuf (s : State) (r : RingId) (realm : Nat) (w : Nat → Nat) : Nat :=
  let _ := r
  if bitsOf (w 0) 23 16 ≠ 16 || w 6 % 16384 < 64 || w 4 ≠ 0 || w 5 ≠ 0 || 16384 ≤ w 6 then St.BAD_PARAM
  else if ! s.fhRange realm (w 2 + 2 ^ 32 * w 3) (w 6) then St.ACCESS_DENIED
  else St.OK

/-- A frame into the first good buffer of a ring; a bad descriptor completes with its status. False when no buffer is left. -/
def State.rxDeliver (s : State) (f : Nat) (r : RingId) (realm p cls : Nat) (stamp : List W32) (fr : List Byte) : Nat → State × Bool
  | 0 => (s, false)
  | fuel + 1 =>
    if ! s.ringReady r then (s, false) else
    let b := ringBase r
    let w := fun k => s.load (s.descLocal b + 4 * k) 4
    let st := s.rxBuf r realm w
    if st ≠ St.OK then State.rxDeliver (s.fhDone r f realm st 7 []) f r realm p cls stamp fr fuel else
    let a := (s.localOf (w 2 + 2 ^ 32 * w 3)).getD 0
    let s := s.fhWrite f a (fr.take (w 6))
    let s := writeBack b (ringDescAddr s b + 28) (leBytes 4 (fr.length % 16384 + 2 ^ 16 * p + 2 ^ 21 * cls)) s
    (s.fhDone r f realm (if w 6 < fr.length then FH_TRUNCATED else St.OK) 11 (stamp.map (·.toNat)), true)

/-- FRAME_INGRESS (R463): any other frame (without FCS). -/
def execFrameIngress (port : Fin 32) (frame : List Byte) (fcsOk : Bool) (msec : Fin 4) (s : State) : Out :=
  let p := port.val
  if s.ethState p ≠ 2 || ! s.domUp 52 || (s.uPlane p frame).isSome then .next s else
  let r := s.rxAccept p frame fcsOk
  if ! r.2 then .next r.1 else
  let r := r.1.msecRx p frame msec
  if ! r.2 then .next r.1 else
  let s := r.1
  let f := portEngine p
  let cls := s.rxClass p frame
  let own := s.ethOwner p
  let s := if cls = 4 then s.bumpSat (Reg.FHE_RX_UNMATCHED f) 31 0 1 else s
  let realm := if cls < 2 then 16 else own
  let tb := match ptpAt frame with
    | some o => s.ptpTb p frame o
    | none => s.defaultTb own
  let ring : RingId := .fhRx (Fin.ofNat 2 f) (Fin.ofNat 17 realm)
  let d := s.rxDeliver f ring realm p cls (ts80Of (s.rxStamp p tb) tb) frame 64
  if d.2 then .next d.1 else .next ((d.1.bumpSat (Reg.FHE_RX_NOBUF f) 31 0 1).raise (742 + f))

/-- RX_BUF (R463): a receive buffer descriptor at the head of its ring waits for a frame; one that cannot take any ends at once. -/
def execRxBuf (j : Job) (s : State) : Out :=
  match j.ring with
  | .fhRx f r =>
    if ! s.ringReady j.ring then .next s else
    let st := s.rxBuf j.ring r j.n
    if st = St.OK then .next s else .next (s.fhDone j.ring f r st 7 [])
  | _ => .next s

/-- WINDOW_CLOSE (R460): a window of a group whose close instant has passed closes. -/
def execWindowClose (f : Fin 2) (g : Fin 64) (s : State) : Out :=
  match s.fh.wins.find? fun w => w.grp == 64 * f.val + g.val && ! w.closed && decide (w.hi < s.nowInst w.tb) with
  | none => .next s
  | some w => .next (s.windowClose w)

end Sys2Proof.Machine
end

