-- ==== Sys2Proof/Machine/Radio.lean ====
section
/-! DEFINITION. The radio-direct port (rows of chapter 14). -/

namespace Sys2Proof.Machine

def JES_LINK_DOWN : Nat := 0x80
def PA_MUTED : Nat := 0x81

/-! ## Links (R472 to R476) -/

/-- Lane rate of a link in kHz (R472): M × 16 × Fs × 66 / (64 × L). -/
def LinkCfg.laneRate (c : LinkCfg) : Nat := c.m * 16 * (122880 * 2 ^ c.rate) * 66 / (64 * c.l)

/-- Fs of a link in kHz. -/
def LinkCfg.fs (c : LinkCfg) : Nat := 122880 * 2 ^ c.rate

/-- Whether link parameters are ones R472 supports. -/
def linkOk (c0 c1 : Nat) (rx : Bool) : Bool :=
  let c := linkCfg c0 c1
  c.rate ≤ 2 && bitsOf c0 28 27 ≤ 2 && bitsOf c0 20 19 ≤ 2 && c0 % 256 == 0 && bitsOf c1 21 5 == 0 && (rx || bitsOf c1 26 22 == 0) &&
    c.lane % c.l == 0 && c.lane + c.l ≤ 4 && c.m % 2 == 0 && 12 ≤ c.n && c.n ≤ 16 && c.f * 8 * c.l == c.m * c.ss * 16 &&
    256 * c.e % c.f == 0 && c.stream + c.m / 2 ≤ 32 && 6000000 * 64 * c.l ≤ c.m * 16 * c.fs * 66 &&
    c.m * 16 * c.fs * 66 ≤ 32500000 * 64 * c.l

/-- Enabled links other than one: (quad, direction, link). -/
def State.otherLinks (s : State) (k : Nat) (rx : Bool) (m : Nat) : List (Nat × Bool × Nat) :=
  ((List.range 4).flatMap fun q => [(q, false, 0), (q, false, 1), (q, true, 0), (q, true, 1)]).filter fun x =>
    x != (k, rx, m) && s.bit (jCfg0 x.1 x.2.1 x.2.2) 31

/-- Whether a realm's masks hold every lane of a link. -/
def State.linkMine (s : State) (r k : Nat) (rx : Bool) (c : LinkCfg) : Bool :=
  r == 16 || (List.range c.l).all fun i => s.portBit r (if rx then 0x12 else 0x10) 2 (4 * k + c.lane + i)

/-- Converter rate in use in a direction, in kHz times streams. -/
def State.dfeLoad (s : State) (rx : Bool) : Nat :=
  (List.range 8).foldl (fun t i =>
    if s.bit (jCfg0 (i / 2) rx (i % 2)) 31 then t + (s.link (i / 2) rx (i % 2)).m / 2 * (s.link (i / 2) rx (i % 2)).fs else t) 0

/-- DFE.LOAD follows the links. -/
def State.showLoad (s : State) : State := s.wrN Reg.DFE_LOAD (2 ^ 16 * (s.dfeLoad false / 1000) + s.dfeLoad true / 1000)

/-- A link leaves UP: its TX streams are muted (R486). -/
def State.linkMute (s : State) (k : Nat) (rx : Bool) (m : Nat) : State :=
  if rx then s else s.muteStreams fun st => (s.link k rx m).carries st

/-- The paths of a link return to STOPPED. -/
def State.linkStop (s : State) (k : Nat) (rx : Bool) (m : Nat) : State :=
  (s.linkPaths k rx m).foldl (fun s c => s.setPathState c 0) s

/-- Domain and lock of a quad free for a command. -/
def quadFree (s : State) (k : Nat) : Nat × Nat := notExpert s (0x530 + k)

/-- JES_LINK (R472 to R474). -/
def execJesLink (d : Desc) (s : State) : Out :=
  let k := d.n 3 % 4
  let rx := bitOf (d.n 3) 2
  let m := bitsOf (d.n 3) 3 3
  let c0 := d.n 4
  let c1 := d.n 5
  let c := linkCfg c0 c1
  let on := bitOf c0 31
  let r := dRealm d
  let lanes := fun (x : LinkCfg) (i : Nat) => x.lane ≤ i && i < x.lane + x.l
  .next (commandNow 0x68 d (fun s =>
      let os := s.otherLinks k rx m
      let same := os.filter fun x => x.2.1 == rx
      let load := same.foldl (fun t x => t + (s.link x.1 rx x.2.2).m / 2 * (s.link x.1 rx x.2.2).fs) 0
      firstFail [stoppedOrRunning s d, need (s.linkMine r k rx c) St.ACCESS_DENIED, quadFree s k,
        need (linkOk c0 c1 rx && os.all fun x => x.1 ≠ k || ((s.link k x.2.1 x.2.2).laneRate == c.laneRate &&
          (x.2.1 != rx || (List.range 4).all fun i => ! (lanes c i && lanes (s.link k rx x.2.2) i)))) St.BAD_PARAM,
        need (s.jesState k rx m = 0 || (c0 % 2 ^ 31 == s.rdN (jCfg0 k rx m) % 2 ^ 31 && c1 == s.rdN (jCfg1 k rx m))) St.WRONG_STATE,
        (if on && (load + c.m / 2 * c.fs > 7864320 || same.any fun x => (List.range 32).any fun st =>
            c.carries st && (s.link x.1 rx x.2.2).carries st) then (St.NO_RESOURCE, 5) else (St.OK, 0))])
    (fun s =>
      let up := s.jesState k rx m = 2
      let s := if on then s else if up then (s.linkMute k rx m).linkStop k rx m else s.linkStop k rx m
      let s := ((s.wrN (jCfg0 k rx m) c0).wrN (jCfg1 k rx m) c1).showLoad
      let s := if on then (if s.jesState k rx m = 0 then s.setJes k rx m 1 else s)
        else (s.setFld (jStat k rx m) 29 0 0).setJes k rx m 0
      (s, St.OK, [s.rd (jStat k rx m)])) s)

/-- JES_LINK_UP (R474, R476): a SYNCING link locked on every lane and aligned to SYSREF enters UP; its latency is the one its
configuration always has. -/
def execJesLinkUp (k : Fin 4) (rx : Bool) (m : Fin 2) (s : State) : Out :=
  if s.jesState k rx m ≠ 1 || ! s.domUp 53 || ! s.bit (Reg.JES_SYSREF_STAT k) 31 then .next s else
  let c := s.link k rx m
  let most := 400 * c.fs / 1000000 + (if rx then 0 else 96)
  let s := (s.setFld (jStat k rx m) 3 0 (2 ^ c.l - 1)).setFld (jStat k rx m) 29 29 0
  let s := s.wrN (jLat k rx m) (Config.jesLat rx (s.rdN (jCfg0 k rx m) % 2 ^ 31) (s.rdN (jCfg1 k rx m)) % (most + 1))
  .next (s.setJes k rx m 2)

/-- JES_LINK_LOSS (R474, R476): cause 0 loss of lock on a lane, 1 sixteen CRC-12 errors in a row, 2 a lane later than RBD. -/
def execJesLinkLoss (k : Fin 4) (rx : Bool) (m : Fin 2) (cause : Fin 3) (lane : Fin 4) (s : State) : Out :=
  if s.jesState k rx m ≠ 2 then .next s else
  let s := match cause.val with
    | 0 => if lane.val < (s.link k rx m).l then s.setFld (jStat k rx m) lane lane 0 else s
    | 1 => s.bump (Reg.JES_CRC_ERR k) 16
    | _ => if rx then s.setBit (jStat k rx m) 29 else s
  .next ((s.setJes k rx m 1).linkMute k rx m)

/-- SYSREF at the deframers and framers of RF tile k (R475): its timestamp; the reference where none is held or no link is up, a
misplaced edge reported. -/
def State.sysref (s : State) (k : Nat) : State :=
  let t := s.nowInst (s.sysTb k)
  let s := (s.wrN (Reg.JES_SYSREF_TS k) (s.ts32 (s.sysTb k))).setBit (Reg.JES_SYSREF_STAT k) 31
  let up := [(false, 0), (false, 1), (true, 0), (true, 1)].filter fun x => s.jesState k x.1 x.2 ≠ 0
  let take := s.setRad { s.rad with lemc := sput s.rad.lemc k (some t) none }
  match sget s.rad.lemc k none with
  | some ref =>
    if up.isEmpty then take
    else if up.any fun x => 65536 ≤ (s.link k x.1 x.2).offEdge ref t then (s.setBit (Reg.JES_SYSREF_STAT k) 30).raise 784
    else s
  | none => take

/-- SYSREF_EDGE (R475): the edge is stamped; each quad realigns its LEMC, or, not DOWN and off its edges, sets ALIGN_ERR. An edge
within 1 ns of an LEMC edge lies on it (notes/assumptions/12.md). -/
def execSysrefEdge (s : State) : Out := .next ((List.range 4).foldl State.sysref s)

/-- CONVERTER_START (R478): the oldest start that waits for a link is missed, or takes its edge once that has come. -/
def execConverterStart (k : Fin 4) (rx : Bool) (m : Fin 2) (s : State) : Out :=
  let key := 4 * k.val + 2 * b2n rx + m.val
  match s.rad.starts.find? fun x => x.1 == key with
  | none => .next s
  | some w =>
    let rest := s.rad.starts.erase w
    let tb := s.sysTb k
    match sget s.rad.lemc k none, s.jesState k rx m == 2 with
    | some ref, true =>
      let c := s.link k rx m
      let now := s.nowInst tb
      let t := w.2.1 + (now - s.nowInst w.2.2)
      let j := c.edgeAfter ref t
      let near := decide (c.offEdge ref t ≤ 2 * 65536)
      let j := if near && decide ((t - c.edge ref (j - 1)).natAbs < (c.edge ref j - t).natAbs) then j - 1 else j
      if c.edge ref j > now then .next s
      else if ! near then .next ((s.setRad { s.rad with starts := rest }).startEdge k rx m (c.edge ref j))
      else
        let f := s.free1 2
        if f.1 = 0 then .next ((f.2.setRad { f.2.rad with starts := rest }).startEdge k rx m (c.edge ref j))
        else .next (f.2.setRad { f.2.rad with starts := (key, (c.edge ref j + 3 * 65536, tb)) :: rest })
    | _, _ => .next (((s.setRad { s.rad with starts := rest }).setBit (Reg.JES_STATUS k) 31).raise 790)

/-- JES_QUERY. -/
def execJesQuery (d : Desc) (s : State) : Out :=
  let k := d.n 3 % 4
  .next (commandNow 0x69 d (fun s => firstFail [stoppedOrRunning s d,
      need (d.ring.val = 16 || (List.range 4).any fun i => s.portBit d.tgt 0x10 2 (4 * k + i) || s.portBit d.tgt 0x12 2 (4 * k + i))
        St.ACCESS_DENIED])
    (fun s => (s, St.OK, [s.rd (Reg.JES_STATUS k), s.rd (Reg.JES_TX_STAT k 0), s.rd (Reg.JES_TX_STAT k 1), s.rd (Reg.JES_RX_STAT k 0),
      s.rd (Reg.JES_RX_STAT k 1), s.rd (Reg.JES_SYSREF_STAT k), s.rd (Reg.JES_START_TS k)])) s)

/-! ## Paths (R479 to R481) -/

/-- Whether the link that carries a stream is the realm's. -/
def State.streamMine (s : State) (r : Nat) (rx : Bool) (st : Nat) : Bool :=
  match s.streamLink rx st with
  | some (k, m) => s.linkMine r k rx (s.link k rx m)
  | none => false

/-- DFE_PATH (R479 to R481). -/
def execDfePath (d : Desc) (s : State) : Out :=
  let c := d.n 3 % 64
  let cfg := d.n 4
  let ring := cat64 (d.word 8) (d.word 9)
  let len := d.n 10
  let g := cat64 (d.word 11) (d.word 12)
  let taps := d.n 13 % 256
  let r := dRealm d
  let rx := bitOf cfg 0
  let st := bitsOf cfg 5 1
  .next (commandNow 0x6A d (fun s =>
      let others := (List.range 64).filter fun x => x ≠ c && (s.path x).any fun p => ! p.rx && p.stream == st
      firstFail [stoppedOrRunning s d, need ((s.path c).all fun p => r == 16 || p.realm == r || p.realm == 16) St.ACCESS_DENIED,
        need (s.streamMine r rx st) St.ACCESS_DENIED, notExpert s 0x540, need (s.pathState c == 0) St.WRONG_STATE,
        need (Nat.land cfg (2 ^ 32 - 1 - 0x33F) = 0 && taps ≤ 128 && 1 ≤ len && (rx || others.length < 4)) St.BAD_PARAM,
        need (s.fhRange r ring (4 * len) && (taps = 0 || s.reachable r g (2 * taps))) St.ACCESS_DENIED])
    (fun s =>
      let co := bytesComp (s.gbytes g (2 * taps))
      let p := { cfg := cfg, nco := cat64 (d.word 5) (d.word 6), gain := d.n 7 % 65536, ring := (s.localOf ring).getD 0, len := len,
                 taps := co, realm := r : DfePath }
      (s.setRad { s.rad with paths := sput s.rad.paths c (some p) none }, St.OK, [])) s)

/-- Link of a path. -/
def State.pathLink (s : State) (c : Nat) : Option (Bool × Nat × Nat) :=
  (s.path c).bind fun p => (s.streamLink p.rx p.stream).map fun x => (p.rx, x.1, x.2)

/-- DFE_PATH_CTL: the checks its three forms share. -/
def pathCtl (d : Desc) (more : State → Nat × Nat) (act : State → State) (s : State) : State :=
  let c := d.n 3 % 64
  let r := dRealm d
  commandNow 0x6B d (fun s => firstFail [runningCheck s d,
      need ((s.path c).any fun p => r == 16 || p.realm == r) St.ACCESS_DENIED, notExpert s 0x540, more s])
    (fun s => let s := act s; (s, St.OK, [s.rd (Reg.DFE_PATH_HANDOVER_SEQ c)])) s

/-- DFE_PATH_CTL ARM; a descriptor of no form of the command is refused here. -/
def execDfePathCtlArm (d : Desc) (s : State) : Out :=
  let c := d.n 3 % 64
  if d.n 4 % 4 = 2 || d.n 4 % 4 = 3 then .next s else
  .next (pathCtl d (fun s => firstFail [need (d.n 4 % 4 = 1) St.BAD_PARAM,
    need ((s.pathLink c).any fun x => s.jesState x.2.1 x.1 x.2.2 == 2) JES_LINK_DOWN]) (fun s => s.setPathState c 1) s)

/-- DFE_PATH_CTL STOP. -/
def execDfePathCtlStop (d : Desc) (s : State) : Out :=
  if d.n 4 % 4 ≠ 2 then .next s else
  .next (pathCtl d (fun _ => (St.OK, 0)) (fun s => s.setPathState (d.n 3 % 64) 0) s)

/-- DFE_PATH_CTL COMMIT: the shadow words, then COMMIT. -/
def execDfePathCtlCommit (d : Desc) (s : State) : Out :=
  let c := d.n 3 % 64
  if d.n 4 % 4 ≠ 3 then .next s else
  .next (pathCtl d (fun _ => (St.OK, 0)) (fun s =>
    ((s.wrWords (Reg.DFE_PATH_SH_NCO_LO c) [d.word 5, d.word 6]).wrN (Reg.DFE_PATH_SH_GAIN c) (d.n 7 % 65536)).setBit (Reg.DFE_PATH_CTL c) 31) s)

/-- PATH_UNDERRUN (R480): a RUNNING TX path has reached WR_IDX. -/
def execPathUnderrun (c : Fin 64) (s : State) : Out :=
  let ahead := signed 32 ((s.rdN (Reg.DFE_PATH_WR_IDX c) + 2 ^ 32 - s.rdN (Reg.DFE_PATH_PROD c)) % 2 ^ 32)
  if s.pathState c ≠ 2 || ! (s.path c).any (fun p => ! p.rx) || ahead > 0 then .next s
  else .next ((s.bumpSat (Reg.DFE_PATH_UNDERRUN c) 31 0 1).raise 789)

/-- PATH_OVERRUN (R480): a RUNNING RX path has written a sample past RD_IDX. -/
def execPathOverrun (c : Fin 64) (s : State) : Out :=
  let level := (s.rdN (Reg.DFE_PATH_PROD c) + 2 ^ 32 - s.rdN (Reg.DFE_PATH_RD_IDX c)) % 2 ^ 32
  if s.pathState c ≠ 2 || ! (s.path c).any (fun p => p.rx && p.len < level) then .next s
  else .next (s.bumpSat (Reg.DFE_PATH_UNDERRUN c) 31 0 1)

/-! ## Streams (R482, R483) -/

/-- DFE_CFR. -/
def execDfeCfr (d : Desc) (s : State) : Out :=
  let st := d.n 3 % 32
  let it := bitsOf (d.n 4) 18 16
  .next (commandNow 0x6C d (fun s => firstFail [runningCheck s d, need (s.streamMine (dRealm d) false st) St.ACCESS_DENIED, notExpert s 0x540,
      need (1 ≤ it && it ≤ 4) St.BAD_PARAM])
    (fun s => (s.setRad { s.rad with cfr := sput s.rad.cfr st (d.n 4 % 2 ^ 19) 0 }, St.OK, [])) s)

/-- CFR_PEAK_INTERVAL: the samples of a stream clipped in the 64 µs interval that ends; EV0788 above PEAK_LIM. -/
def execCfrPeakInterval (st : Fin 32) (clipped : BitVec 16) (s : State) : Out :=
  if sget s.rad.cfr st 0 % 65536 = 0 then .next s else
  let n := clipped.toNat
  let s := s.bumpSat (Reg.DFE_STREAM_PEAKS st) 31 0 n
  .next (if s.rdN (Reg.DFE_STREAM_PEAK_LIM st) < n then s.raise 788 else s)

/-- DFE_MASK: the monitor of a stream starts afresh. -/
def execDfeMask (d : Desc) (s : State) : Out :=
  let st := d.n 3 % 32
  let g := cat64 (d.word 5) (d.word 6)
  .next (commandNow 0x6D d (fun s => firstFail [runningCheck s d, need (s.streamMine (dRealm d) false st) St.ACCESS_DENIED, notExpert s 0x540,
      need (Nat.land (d.n 4) 0xFF0000FE = 0 && bitsOf (d.n 4) 23 16 ≠ 0) St.BAD_PARAM, need (s.reachable (dRealm d) g 64) St.ACCESS_DENIED])
    (fun s =>
      let x := { cfg := d.n 4, bands := s.gbytes g 64, frames := 0, sums := List.replicate 8 0, high := List.replicate 8 0 : MaskSt }
      (s.setRad { s.rad with masks := sput s.rad.masks st x MaskSt.init }, St.OK, [])) s)

/-- Width and LIMIT of band b: bytes 4 and 5, and, signed in 0.25 dB, bytes 6 and 7 of its image (notes/assumptions/11.md). -/
def MaskSt.band (x : MaskSt) (b : Nat) : Nat × Int :=
  (leNat ((x.bands.drop (8 * b + 4)).take 2), signed 16 (leNat ((x.bands.drop (8 * b + 6)).take 2)))

/-- MASK_MONITOR_FRAME (R483): one frame of a stream, with the measured power of each band in 0.25 dB relative to the path bands. -/
def execMaskMonitorFrame (st : Fin 32) (power : Vector (BitVec 16) 8) (s : State) : Out :=
  let x := sget s.rad.masks st MaskSt.init
  if x.bands.isEmpty then .next s else
  let bound := (List.range 16).filter fun p => (s.paSt p).bound && s.fld (Reg.DFE_PA_STAT p) 20 16 = st.val
  if bound.any fun p => s.paState p ≠ 2 then .next (s.bumpSat (Reg.DFE_STREAM_SKIPPED st) 31 0 1) else
  let pw := power.toList.map fun v => signed 16 v.toNat
  let sums := (List.range 8).map fun b => x.sums.getD b 0 + pw.getD b 0
  let navg := bitsOf x.cfg 15 8 + 1
  let set := fun (s : State) (y : MaskSt) => s.setRad { s.rad with masks := sput s.rad.masks st y MaskSt.init }
  if x.frames + 1 < navg then .next (set s { x with frames := x.frames + 1, sums := sums }) else
  let above := fun b => (x.band b).1 ≠ 0 && decide ((x.band b).2 * (navg : Int) < sums.getD b 0)
  let high := (List.range 8).map fun b => if above b then x.high.getD b 0 + 1 else 0
  let cnt := bitsOf x.cfg 23 16
  let hit := (List.range 8).filter fun b => cnt ≤ high.getD b 0
  let y := { x with frames := 0, sums := List.replicate 8 0, high := (List.range 8).map fun b => if hit.contains b then 0 else high.getD b 0 }
  let s := set s y
  if hit.isEmpty then .next s else
  let s := (hit.foldl (fun s b => s.setBit (Reg.DFE_STREAM_MASK_STAT st) b) (s.setBit (Reg.DFE_STREAM_MASK_STAT st) 31)).raise 785
  .next (if bitOf x.cfg 0 then s.muteStreams (· == st.val) else s)

/-! ## The PA sequencer (R484 to R487) -/

/-- Whether a command may act on interface p. -/
def paMine (s : State) (d : Desc) (p : Nat) : Bool := d.ring.val = 16 || s.portBit d.tgt 0x16 2 p

/-- Whether a step word has reserved bits clear, a known SHAPE, and a GAIN of at most 0x8000. -/
def paStepOk (w : Nat) : Bool := bitsOf w 41 32 == 0 && w % 65536 == 0 && bitsOf w 43 42 ≠ 3 && bitsOf w 31 16 ≤ 0x8000

/-- PA_PROGRAM. -/
def execPaProgram (d : Desc) (s : State) : Out :=
  let p := d.n 3 % 16
  let g := cat64 (d.word 4) (d.word 5)
  let ws := fun (s : State) => (List.range 8).map fun i => leNat (s.gbytes (g + 8 * i) 8)
  .next (commandNow 0x6E d (fun s => firstFail [stoppedOrRunning s d, need (paMine s d p) St.ACCESS_DENIED, notExpert s 0x540,
      need (s.paState p == 0 || s.paState p == 4) St.WRONG_STATE, need (s.reachable (dRealm d) g 64) St.ACCESS_DENIED,
      need ((ws s).all paStepOk) St.BAD_PARAM])
    (fun s =>
      let x := s.paSt p
      let s := s.setPa p { x with progs := sput x.progs (bitsOf (d.n 3) 5 4) (ws s) [], bound := true }
      (s.setFld (Reg.DFE_PA_STAT p) 20 16 (bitsOf (d.n 3) 12 8), St.OK, [])) s)

/-- PA_REQ: the checks its forms share; the state after is the result. -/
def paCmd (d : Desc) (accept : State → Nat × Nat) (more : State → Nat × Nat) (act : State → State) (s : State) : State :=
  let p := d.n 3 % 16
  commandNow 0x6F d (fun s => firstFail [accept s, need (paMine s d p) St.ACCESS_DENIED, notExpert s 0x540, more s])
    (fun s => let s := act s; (s, St.OK, [w32 (s.paState p)])) s

/-- PA_REQ UP; a descriptor of no form of the command is refused here. -/
def execPaReqUp (d : Desc) (s : State) : Out :=
  let p := d.n 3 % 16
  let k := d.n 4 % 8
  if 2 ≤ k && k ≤ 5 then .next s else
  .next (paCmd d (fun s => runningCheck s d) (fun s => firstFail [need (k = 1) St.BAD_PARAM, need (s.paState p ≠ 4) PA_MUTED])
    (fun s => s.paReq p 0) s)

/-- PA_REQ DOWN. -/
def execPaReqDown (d : Desc) (s : State) : Out :=
  if d.n 4 % 8 ≠ 2 then .next s else
  .next (paCmd d (fun s => runningCheck s d) (fun _ => (St.OK, 0)) (fun s => s.paReq (d.n 3 % 16) 1) s)

/-- PA_REQ MUTE. -/
def execPaReqMute (d : Desc) (s : State) : Out :=
  if d.n 4 % 8 ≠ 3 then .next s else
  .next (paCmd d (fun s => runningCheck s d) (fun _ => (St.OK, 0)) (fun s => s.paReq (d.n 3 % 16) 2) s)

/-- PA_REQ TEST. -/
def execPaReqTest (d : Desc) (s : State) : Out :=
  if d.n 4 % 8 ≠ 4 then .next s else
  .next (paCmd d (fun s => runningCheck s d) (fun s => need (s.paState (d.n 3 % 16) == 0) St.WRONG_STATE)
    (fun s => s.paReq (d.n 3 % 16) 3) s)

/-- PA_REQ CLEAR: a MUTED interface with FLT_N high returns to OFF; its outputs stay. -/
def execPaReqClear (d : Desc) (s : State) : Out :=
  let p := d.n 3 % 16
  if d.n 4 % 8 ≠ 5 then .next s else
  .next (paCmd d (fun s => stoppedOrRunning s d) (fun _ => (St.OK, 0))
    (fun s => if s.paState p = 4 && ! s.bit (Reg.DFE_PA_STAT p) 28 then s.setPaState p 0 else s) s)

/-- PA_PROGRAM_END. -/
def execPaProgramEnd (p : Fin 16) (s : State) : Out := .next (s.paEnd p)

/-- PA_FAULT (R486): FLT_N held low for two cycles, or high again. -/
def execPaFault (p : Fin 16) (low : Bool) (s : State) : Out :=
  let s := s.setFld (Reg.DFE_PA_STAT p) 28 28 (b2n low)
  .next (if low then s.paReq p 2 else s)

end Sys2Proof.Machine
end

