-- ==== Sys2Proof/Machine/RegOps.lean ====
section
/-! DEFINITION. Reads and writes of registers with the effects that single registers have: the rings, the Ruling, the Ductus ports,
the Scribes and the indirect tables. A register none of these names follows its access code alone (R10). -/

namespace Sys2Proof.Machine

/-- The state a meaning answers. -/
def outState (s : State) (o : Out) : State := match o with
  | .next t => t
  | _ => s

/-- A read that another row of the command table gives its meaning: the state and the data. -/
def viaRead (s : State) (f : State → Out) : State × Nat := let t := outState s (f s); (t, t.resp.data)

/-- A write that another row of the command table gives its meaning. -/
def viaWrite (s : State) (f : State → Out) : State := outState s (f s)

/-! ## Rings (R21, R30) -/

/-- The ring whose register set holds a CSR address, and the offset in that set. -/
def ringAt (a : Nat) : Option (RingId × Nat) :=
  let blk := a / 0x10000
  let o := a % 0x10000
  match blockOf blk with
  | none => none
  | some (b0, _) =>
    let n := blk - b0
    match b0 with
    | 0x10 => if o < 0x20 then some (.cmd (Fin.ofNat 17 n), o) else none
    | 0x280 =>
      if 0x1000 ≤ o && o < 0x1400 && o % 64 < 0x20 then some (.ra (Fin.ofNat 2 n) (Fin.ofNat 16 ((o - 0x1000) / 64)), o % 64) else none
    | 0x400 =>
      if 0x1000 ≤ o && o < 0x1800 && o % 64 < 0x20 then some (.scribe (Fin.ofNat 12 n) (Fin.ofNat 32 ((o - 0x1000) / 64)), o % 64) else none
    | 0x520 =>
      if 0x1000 ≤ o && o < 0x1000 + 17 * 128 then
        let r := Fin.ofNat 17 ((o - 0x1000) / 128)
        if o % 128 < 0x20 then some (.fhTx (Fin.ofNat 2 n) r, o % 128)
        else if o % 128 < 0x40 then some (.fhRx (Fin.ofNat 2 n) r, o % 128 - 0x20) else none
      else none
    | _ =>
      if 0x200 ≤ b0 && b0 ≤ 0x270 && b0 ≠ 0x260 && 0x1000 ≤ o && o < 0x1400 && o % 64 < 0x20 then
        let p := if b0 = 0x270 then 6 else (b0 - 0x200) / 0x10
        some (.pool (Fin.ofNat 56 (poolFirst p + n)) (Fin.ofNat 16 ((o - 0x1000) / 64)), o % 64)
      else none

/-- A write of one register of a ring's set: BASE only while ENABLE is 0, CFG and TAIL with their effects. -/
def State.ringRegWrite (s : State) (who : Requester) (r : RingId) (o a v : Nat) : State :=
  match o with
  | 0 => if ringEnabled s (ringBase r) then s else s.plainWrite who a v
  | 4 => if ringEnabled s (ringBase r) then s else s.plainWrite who a v
  | 8 => if s.holds who a then s.ringCfgWrite r (w32 v) else s
  | 0xC => s.ringTailWrite r v
  | _ => s.plainWrite who a v

/-! ## Reads -/

/-- Effects of a read of one register of instance n of the block whose first number is b0. -/
def State.readSpecial (s : State) (who : Requester) (b0 n : Nat) (name : String) (i : Nat) : Option (State × Nat) :=
  match b0 with
  | 0x40 => if name = "NOW_NS" then some (viaRead s (execNowNsRead who (Fin.ofNat 8 n))) else none
  | 0x50 =>
    if name = "GRID_POS" then some (viaRead s (execGridPosRead who (Fin.ofNat 256 i)))
    else if name = "CAP_NS" then some (viaRead s (execCapNsRead who (Fin.ofNat 8 i)))
    else none
  | 0x70 =>
    let nib := Fin.ofNat 128 (16 * n + i)
    if name = "PORT_RES_LO" then some (viaRead s (execResLoRead who nib))
    else if name = "PORT_NEXT" then some (viaRead s (execNextRead who nib))
    else none
  | 0x300 => if name = "ECC_CORR" then some (viaRead s (execEccCorrRead who (Fin.ofNat 15 (6 + n)))) else none
  | 0x310 => if name = "ECC_CORR" then some (viaRead s (execEccCorrRead who (Fin.ofNat 15 n))) else none
  | 0x320 => if name = "ECC_CORR" then some (viaRead s (execEccCorrRead who (Fin.ofNat 15 (2 + n)))) else none
  | 0x550 =>
    -- PEER[d].W1: µs since the last heartbeat, saturating
    if name = "PEER_W1" && n = 0 then some (s, match sget s.ylk.peers i none with
      | some p => if p.beat = 0 then 0 else min ((s.tbNs 0 - p.beat) / 1000) 0xFFFFFFFF
      | none => 0)
    else none
  | 0x600 =>
    if (name = "D_STATE" || name = "D_VOTES" || name = "D_TOL" || name = "D_POLICY") && i < 64 then
      let t := s.pwrShow i
      some (t, t.rdN (if name = "D_STATE" then Reg.PWM_D_STATE i else if name = "D_VOTES" then Reg.PWM_D_VOTES i
        else if name = "D_TOL" then Reg.PWM_D_TOL i else Reg.PWM_D_POLICY i))
    else none
  | 0x640 =>
    let item := s.fld Reg.CAL_IDX 7 0
    let idx := s.fld Reg.CAL_IDX 15 8
    let v := fun (x : Int) => if calValid item idx then unsigned 32 x else 0
    if name = "FACT" then some (s, v (calFact item idx)) else if name = "USER" then some (s, v (s.calUser item idx))
    else if name = "EFF" then some (s, v (s.calEff item idx)) else none
  | 0x610 => if name = "CD_STAT" then some (s, s.clockStat i) else none
  | 0x650 => if name = "CORE_NEXT" then some (s, s.coreNext i) else none
  | 0xF10 =>
    if name = "TRIAL_LEFT" then some (s, s.trialLeft) else if name = "VERSION" then some (s, (s.dirEntry i).2.1) else none
  | 0x620 =>
    let w := sget s.avl.log (s.rdN Reg.AVL_LOG_IDX % 64) []
    if name = "LOG_DATA0" then some (s, w.getD 0 0) else if name = "LOG_DATA1" then some (s, w.getD 1 0)
    else if name = "LOG_DATA2" then some (s, w.getD 2 0) else if name = "LOG_DATA3" then some (s, w.getD 3 0) else none
  | _ => none

/-- A register read by a requester that may read it, with the effects of the read. -/
def State.regRead (s : State) (who : Requester) (a : Nat) : State × Nat :=
  match csrRow a with
  | none => (s, 0)
  | some (b0, r, ix) => (s.readSpecial who b0 (a / 0x10000 - b0) r.name ix.1).getD (s.plainRead a)

/-! ## Writes -/

/-- The service request of R180: SVC_LO and SVC_HI written at once. An operation number that R181 does not list answers BAD_PARAM
(notes/assumptions/13.md). -/
def State.svcRequest (s : State) (nib : Fin 128) (lo hi : W32) : State :=
  let a := BitVec.ofNat 24 (wfld lo 23 0)
  let go := fun (f : Fin 128 → BitVec 24 → W32 → State → Out) => viaWrite s (f nib a hi)
  match wfld lo 31 24 with
  | 0x01 => go execYield
  | 0x02 => go execExit
  | 0x03 => go execDelay
  | 0x04 => go execSemWait
  | 0x05 => go execSvcSemPost
  | 0x06 => go execFlagWait
  | 0x07 => go execSvcFlagSet
  | 0x08 => go execFlagClear
  | 0x09 => go execTaskEnd
  | 0x0A => go execCheckpoint
  | 0x0B => go execSetPrio
  | op => service op nib a hi (fun q n _ s => s.svcDone q n 0 St.BAD_PARAM 0) s

/-- A write of RLM_OWNED (R419). -/
def State.ownedWrite (s : State) (who : Requester) (e r v : Nat) : State :=
  let m := BitVec.ofNat 14 v
  match bitsOf v 31 30 with
  | 1 => viaWrite s (execChannelClaim who (Fin.ofNat 12 e) (Fin.ofNat 16 r) m)
  | 2 => viaWrite s (execChannelRelease who (Fin.ofNat 12 e) (Fin.ofNat 16 r) m)
  | _ => s

/-- A write of a shadow register of a carrier path clears COMMIT of the path (R481). -/
def State.pathShadow (s : State) (who : Requester) (c a v : Nat) : State :=
  if s.holds who a then (s.plainWrite who a v).setFld (Reg.DFE_PATH_CTL c) 31 31 0 else s

/-- Effects of a write of one register of instance n of the block whose first number is b0. -/
def State.writeSpecial (s : State) (who : Requester) (b0 n : Nat) (name : String) (ix : Nat × Nat × Nat) (a v : Nat) : Option State :=
  let i := ix.1
  let w := w32 v
  match b0 with
  | 0x40 =>
    let b := Fin.ofNat 8 n
    if name = "FREQ_ADJ_HI" then some (viaWrite s (execFreqAdjHiWrite who b w))
    else if name = "STEP_CTL" then some (viaWrite s (execStepCtlGo who b w))
    else if name = "STATE" then some (viaWrite s (execTbStateWrite who b w))
    else none
  | 0x50 =>
    if name = "GRID_SH_OFFSET" then some (viaWrite s (execGridShadowWrite who (Fin.ofNat 256 i) false w))
    else if name = "GRID_SH_CTL" then some (viaWrite s (execGridShadowWrite who (Fin.ofNat 256 i) true w))
    else if name = "TOUT_CFG" then some (viaWrite s (execToutCfgWrite who (Fin.ofNat 8 i) w))
    else none
  | 0x51 =>
    let c := Fin.ofNat 512 i
    let o := (a % 0x10000 - 0x1000) % 64
    if name = "CH_CTL" then
      let s := if bitOf v 30 then viaWrite s (execTrgCtlDisarm who c) else s
      some (if bitOf v 31 then viaWrite s (execTrgCtlCommit who c) else s)
    else if a % 0x10000 ≥ 0x1000 && o < 0x18 then some (viaWrite s (execTrgShadowWrite who c (Fin.ofNat 6 (o / 4)) w))
    else none
  | 0x70 =>
    if name = "TCB_W" then some (viaWrite s (execTcbWrite who (Fin.ofNat 8 n) (Fin.ofNat 512 i) (Fin.ofNat 16 ix.2.1) w))
    else if name = "PORT_SVC_LO" || name = "PORT_SVC_HI" then some s
    else none
  | 0x100 => if name = "DOORBELL" then some (s.setIpend n 2 true) else none
  | 0x180 => if name = "CTL" then some (if bitOf v 31 && s.holds who a then s.ferAbort n else s) else none
  | 0x260 =>
    if name = "ACC" then
      let s := if bitOf v 31 then viaWrite s (execHdyAccRead who) else s
      some (if bitOf v 30 then viaWrite s (execHdyAccWrite who) else s)
    else none
  | 0x370 =>
    if name = "RT_ACC" then
      let s := if bitOf v 31 then viaWrite s (execRtAccRead who) else s
      let s := if bitOf v 30 then viaWrite s (execRtAccWrite who) else s
      some (if bitOf v 29 then viaWrite s (execRtAccCopy who) else s)
    else if name = "EPOCH_CTL" then some (if bitOf v 31 then viaWrite s (execEpochFlip who) else s)
    else none
  | 0x400 =>
    if name = "RLM_OWNED" then some (s.ownedWrite who n i v)
    else if name = "TPL_SH" && 8 ≤ n then
      some (if s.holds who a then (s.plainWrite who a v).setFld (Reg.SCB_TPL_TCTL n i) 31 31 0 else s)
    else if name = "TPL_TCTL" then some (viaWrite s (execTctlEnable who (Fin.ofNat 12 n) (Fin.ofNat 8 i) w))
    else none
  | 0x500 =>
    if name = "TS_TX_USER" then some (if s.holds who a then s.calSet 1 n (signed 32 v) else s)
    else if name = "TS_RX_USER" then some (if s.holds who a then s.calSet 2 n (signed 32 v) else s)
    else none
  | 0x550 => if name = "CAL_ASYM" then some (if s.holds who a then s.calSet 5 n (signed 32 v) else s) else none
  | 0x640 =>
    if name = "USER" then some (if s.holds who a then s.calSet (s.fld Reg.CAL_IDX 7 0) (s.fld Reg.CAL_IDX 15 8) (signed 32 v) else s)
    else none
  | 0x520 =>
    if name = "ST_ACC" then
      let s := if bitOf v 31 then viaWrite s (execStAccRead who (Fin.ofNat 2 n)) else s
      some (if bitOf v 30 then viaWrite s (execStAccWrite who (Fin.ofNat 2 n)) else s)
    else none
  | 0x650 => if name = "SWSET" then some (s.raise 1023) else none
  | 0x660 => if name = "CFG" then some (if s.holds who a then s.bltConfig n w else s) else none
  | 0xF10 => if name = "FL_CMD" then some (if 1 ≤ v % 256 && v % 256 ≤ 3 then s.flStart (v % 256) else s) else none
  | 0x540 =>
    if name = "PATH_SH_NCO_LO" || name = "PATH_SH_NCO_HI" || name = "PATH_SH_GAIN" then some (s.pathShadow who i a v) else none
  | _ => if name = "SCRUB_CFG" && s.holds who a then
      let t := (s.plainWrite who a v).setFld a 30 30 0
      let u := if b0 = 0x300 then 6 + n else if b0 = 0x310 then n else 2 + n
      some (if bitOf v 30 then t.passNow u else t)
    else none

/-- A register written by a requester that may reach it, with the effects of the write. -/
def State.regWrite (s : State) (who : Requester) (a v : Nat) : State :=
  match ringAt a with
  | some (r, o) => s.ringRegWrite who r o a v
  | none =>
    match csrRow a with
    | none => s
    | some (b0, r, ix) => (s.writeSpecial who b0 (a / 0x10000 - b0) r.name ix a v).getD (s.plainWrite who a v)

/-! ## Accesses of 4 and 8 bytes (R19) -/

/-- A CSR read of 4 or 8 bytes, the lower address first. -/
def State.busRead (s : State) (who : Requester) (a n : Nat) : State × Nat :=
  let r := s.regRead who a
  if n = 8 then let r2 := r.1.regRead who (a + 4); (r2.1, r.2 + 2 ^ 32 * r2.2) else r

/-- The Ductus port whose SVC_LO lies at a CSR address. -/
def svcPortAt (a : Nat) : Option (Fin 128) :=
  let o := a % 0x10000
  if 0x70 ≤ a / 0x10000 && a / 0x10000 < 0x78 && 0x100 ≤ o && o < 0x300 && o % 32 = 0 then
    some (Fin.ofNat 128 (16 * (a / 0x10000 - 0x70) + (o - 0x100) / 32))
  else none

/-- A CSR write of 4 or 8 bytes, the lower address first. A service request is one write of 8 bytes. -/
def State.busWrite (s : State) (who : Requester) (a n v : Nat) : State :=
  match n, svcPortAt a with
  | 8, some nib => s.svcRequest nib (w32 v) (w32 (v / 2 ^ 32))
  | _, _ =>
    let s := s.regWrite who a (v % 2 ^ 32)
    if n = 8 then s.regWrite who (a + 4) (v / 2 ^ 32) else s

end Sys2Proof.Machine
end

