-- ==== Sys2Proof/Machine/NibBundle.lean ====
section
/-! DEFINITION. How a Nib issues a bundle (R195, R199 to R203, R217 to R223): the effects of its instructions at commit, freezes,
exceptions and their entry. -/

namespace Sys2Proof.Machine

/-- A reserved encoding. -/
def actILLEGAL (c : NibCtx) : NibAct := c.x.illegal 3

/-- What an instruction of a bundle does. -/
def nibAct (i : NibIns) (c : NibCtx) : NibAct :=
  match i with
  | .add rd ra rb => actADD c rd ra rb
  | .sub rd ra rb => actSUB c rd ra rb
  | .and rd ra rb => actAND c rd ra rb
  | .or rd ra rb => actOR c rd ra rb
  | .xor rd ra rb => actXOR c rd ra rb
  | .sll rd ra rb => actSLL c rd ra rb
  | .srl rd ra rb => actSRL c rd ra rb
  | .sra rd ra rb => actSRA c rd ra rb
  | .slt rd ra rb => actSLT c rd ra rb
  | .sltu rd ra rb => actSLTU c rd ra rb
  | .min rd ra rb => actMIN c rd ra rb
  | .max rd ra rb => actMAX c rd ra rb
  | .minu rd ra rb => actMINU c rd ra rb
  | .maxu rd ra rb => actMAXU c rd ra rb
  | .addw rd ra rb => actADDW c rd ra rb
  | .subw rd ra rb => actSUBW c rd ra rb
  | .addsw rd ra rb => actADDSW c rd ra rb
  | .subsw rd ra rb => actSUBSW c rd ra rb
  | .mul rd ra rb => actMUL c rd ra rb
  | .mulh rd ra rb => actMULH c rd ra rb
  | .mulhu rd ra rb => actMULHU c rd ra rb
  | .mulw rd ra rb => actMULW c rd ra rb
  | .clz rd ra => actCLZ c rd ra
  | .popc rd ra => actPOPC c rd ra
  | .addi rd ra imm => actADDI c rd ra imm
  | .andi rd ra imm => actANDI c rd ra imm
  | .ori rd ra imm => actORI c rd ra imm
  | .xori rd ra imm => actXORI c rd ra imm
  | .slli rd ra imm => actSLLI c rd ra imm
  | .srli rd ra imm => actSRLI c rd ra imm
  | .srai rd ra imm => actSRAI c rd ra imm
  | .slti rd ra imm => actSLTI c rd ra imm
  | .jalr rd ra imm => actJALR c rd ra imm
  | .lb rd ra imm => actLB c rd ra imm
  | .lh rd ra imm => actLH c rd ra imm
  | .lw rd ra imm => actLW c rd ra imm
  | .ld rd ra imm => actLD c rd ra imm
  | .lbu rd ra imm => actLBU c rd ra imm
  | .lhu rd ra imm => actLHU c rd ra imm
  | .lwu rd ra imm => actLWU c rd ra imm
  | .lui rd imm => actLUI c rd imm
  | .addpc rd imm => actADDPC c rd imm
  | .extu rd ra pos wid => actEXTU c rd ra pos wid
  | .exts rd ra pos wid => actEXTS c rd ra pos wid
  | .ins rd ra pos wid => actINS c rd ra pos wid
  | .sel rd ra rb rc => actSEL c rd ra rb rc
  | .beq ra rb off => actBEQ c ra rb off
  | .bne ra rb off => actBNE c ra rb off
  | .blt ra rb off => actBLT c ra rb off
  | .bge ra rb off => actBGE c ra rb off
  | .bltu ra rb off => actBLTU c ra rb off
  | .bgeu ra rb off => actBGEU c ra rb off
  | .jal rd off => actJAL c rd off
  | .mfsr rd num => actMFSR c rd num
  | .mtsr ra num => actMTSR c ra num
  | .mftb rd num => actMFTB c rd num
  | .mttb ra num => actMTTB c ra num
  | .trap imm => actTRAP c imm
  | .rfe => actRFE c
  | .wait => actWAIT c
  | .bkpt => actBKPT c
  | .icinvAll => actICINVALL c
  | .dflushAll => actDFLUSHALL c
  | .dclean ra imm => actDCLEAN c ra imm
  | .dinv ra imm => actDINV c ra imm
  | .dflush ra imm => actDFLUSH c ra imm
  | .dpref ra imm => actDPREF c ra imm
  | .icinv ra imm => actICINV c ra imm
  | .sb rs ra imm => actSB c rs ra imm
  | .sh rs ra imm => actSH c rs ra imm
  | .sw rs ra imm => actSW c rs ra imm
  | .sd rs ra imm => actSD c rs ra imm
  | .ldc rd cb size sgn incsel inc => actLDC c rd cb size sgn incsel inc
  | .stc rs cb size incsel inc => actSTC c rs cb size incsel inc
  | .amoaddW rd ra rb => actAMOADDW c rd ra rb
  | .amoaddD rd ra rb => actAMOADDD c rd ra rb
  | .amoswapW rd ra rb => actAMOSWAPW c rd ra rb
  | .amoswapD rd ra rb => actAMOSWAPD c rd ra rb
  | .amocasW rd ra rb => actAMOCASW c rd ra rb
  | .amocasD rd ra rb => actAMOCASD c rd ra rb
  | .amoandD rd ra rb => actAMOANDD c rd ra rb
  | .amoorD rd ra rb => actAMOORD c rd ra rb
  | .nibFence kind => actFENCE c kind
  | .illegalEncoding => actILLEGAL c
  | .vspan rd rs etype lig => actVSPAN c rd rs etype lig
  | .vcapi rd etype lig => actVCAPI c rd etype lig
  | .vctl bits => actVCTL c bits
  | .vadd vd a b pg => actVADD c vd a b pg
  | .vsub vd a b pg => actVSUB c vd a b pg
  | .vand vd a b pg => actVAND c vd a b pg
  | .vor vd a b pg => actVOR c vd a b pg
  | .vxor vd a b pg => actVXOR c vd a b pg
  | .vmin vd a b pg => actVMIN c vd a b pg
  | .vmax vd a b pg => actVMAX c vd a b pg
  | .vminu vd a b pg => actVMINU c vd a b pg
  | .vmaxu vd a b pg => actVMAXU c vd a b pg
  | .vsll vd a b pg => actVSLL c vd a b pg
  | .vsrl vd a b pg => actVSRL c vd a b pg
  | .vsra vd a b pg => actVSRA c vd a b pg
  | .vmul vd a b pg => actVMUL c vd a b pg
  | .vmulh vd a b pg => actVMULH c vd a b pg
  | .vmulhu vd a b pg => actVMULHU c vd a b pg
  | .vmerge vd a b pg => actVMERGE c vd a b pg
  | .vsadd vd a b pg => actVSADD c vd a b pg
  | .vssub vd a b pg => actVSSUB c vd a b pg
  | .vsaddu vd a b pg => actVSADDU c vd a b pg
  | .vssubu vd a b pg => actVSSUBU c vd a b pg
  | .vavg vd a b pg => actVAVG c vd a b pg
  | .vmulq vd a b pg => actVMULQ c vd a b pg
  | .vssll vd a b pg => actVSSLL c vd a b pg
  | .vsrar vd a b pg => actVSRAR c vd a b pg
  | .vcmul vd a b pg => actVCMUL c vd a b pg
  | .vcmulj vd a b pg => actVCMULJ c vd a b pg
  | .vwadd vd a b pg => actVWADD c vd a b pg
  | .vwsub vd a b pg => actVWSUB c vd a b pg
  | .vwmul vd a b pg => actVWMUL c vd a b pg
  | .vwmulu vd a b pg => actVWMULU c vd a b pg
  | .vwcmul vd a b pg => actVWCMUL c vd a b pg
  | .vnsra vd a b pg => actVNSRA c vd a b pg
  | .vnclip vd a b pg => actVNCLIP c vd a b pg
  | .vnclipu vd a b pg => actVNCLIPU c vd a b pg
  | .vmv vd b pg => actVMV c vd b pg
  | .vsabs vd a pg => actVSABS c vd a pg
  | .vsneg vd a pg => actVSNEG c vd a pg
  | .vconj vd a pg => actVCONJ c vd a pg
  | .vsext vd a pg => actVSEXT c vd a pg
  | .vzext vd a pg => actVZEXT c vd a pg
  | .vswapiq vd a pg => actVSWAPIQ c vd a pg
  | .vcls vd a pg => actVCLS c vd a pg
  | .vnorm vd a pg => actVNORM c vd a pg
  | .vbexp vd a pg => actVBEXP c vd a pg
  | .vbunpk vd a pg => actVBUNPK c vd a pg
  | .vfabs vd a pg => actVFABS c vd a pg
  | .vfneg vd a pg => actVFNEG c vd a pg
  | .vcvtif vd a pg => actVCVTIF c vd a pg
  | .vcvtfi vd a pg => actVCVTFI c vd a pg
  | .vcvtfb vd a pg => actVCVTFB c vd a pg
  | .vcvtbf vd a pg => actVCVTBF c vd a pg
  | .vmac acc a b pg => actVMAC c acc a b pg
  | .vmsu acc a b pg => actVMSU c acc a b pg
  | .vmacz acc a b pg => actVMACZ c acc a b pg
  | .vcmac acc a b pg => actVCMAC c acc a b pg
  | .vcmacj acc a b pg => actVCMACJ c acc a b pg
  | .vcmacz acc a b pg => actVCMACZ c acc a b pg
  | .vcmsu acc a b pg => actVCMSU c acc a b pg
  | .vaext vd acc sh pg => actVAEXT c vd acc sh pg
  | .vamov v acc sh pg => actVAMOV c v acc sh pg
  | .vaclr acc => actVACLR c acc
  | .vaclrf acc => actVACLRF c acc
  | .vcmpeq pd a b pg => actVCMPEQ c pd a b pg
  | .vcmpne pd a b pg => actVCMPNE c pd a b pg
  | .vcmplt pd a b pg => actVCMPLT c pd a b pg
  | .vcmple pd a b pg => actVCMPLE c pd a b pg
  | .vcmpltu pd a b pg => actVCMPLTU c pd a b pg
  | .vcmpleu pd a b pg => actVCMPLEU c pd a b pg
  | .vcmpgt pd a b pg => actVCMPGT c pd a b pg
  | .vcmpge pd a b pg => actVCMPGE c pd a b pg
  | .pand pd ps1 ps2 pg => actPAND c pd ps1 ps2 pg
  | .por pd ps1 ps2 pg => actPOR c pd ps1 ps2 pg
  | .pxor pd ps1 ps2 pg => actPXOR c pd ps1 ps2 pg
  | .pandn pd ps1 ps2 pg => actPANDN c pd ps1 ps2 pg
  | .pffget pd pg => actPFFGET c pd pg
  | .pwhile pd rs pg => actPWHILE c pd rs pg
  | .pcnt rd ps1 pg => actPCNT c rd ps1 pg
  | .pfirst rd ps1 pg => actPFIRST c rd ps1 pg
  | .pfflen rd => actPFFLEN c rd
  | .pffput ps1 => actPFFPUT c ps1
  | .vbcast vd rs pg => actVBCAST c vd rs pg
  | .vslidedn vd a rs pg => actVSLIDEDN c vd a rs pg
  | .vslideup vd a rs pg => actVSLIDEUP c vd a rs pg
  | .vmvxs rd a => actVMVXS c rd a
  | .vmvsx vd rs pg => actVMVSX c vd rs pg
  | .vperm vd a b pg => actVPERM c vd a b pg
  | .vrsum rd a pg => actVRSUM c rd a pg
  | .vrmax rd a pg => actVRMAX c rd a pg
  | .vrmin rd a pg => actVRMIN c rd a pg
  | .vrmaxabs rd a pg => actVRMAXABS c rd a pg
  | .vrmincls rd a pg => actVRMINCLS c rd a pg
  | .vbscl vd a b pg => actVBSCL c vd a b pg
  | .vbpack vd a b pg => actVBPACK c vd a b pg
  | .vfadd vd a b pg => actVFADD c vd a b pg
  | .vfsub vd a b pg => actVFSUB c vd a b pg
  | .vfmul vd a b pg => actVFMUL c vd a b pg
  | .vfma vd a b pg => actVFMA c vd a b pg
  | .vfmin vd a b pg => actVFMIN c vd a b pg
  | .vfmax vd a b pg => actVFMAX c vd a b pg
  | .vfcmplt pd a b pg => actVFCMPLT c pd a b pg
  | .vfcmpeq pd a b pg => actVFCMPEQ c pd a b pg
  | .vld ff pi vd ra pg => actVLD c ff pi vd ra pg
  | .vlds ff vd ra rb pg => actVLDS c ff vd ra rb pg
  | .vldg ff scale vd ra b pg => actVLDG c ff scale vd ra b pg
  | .vst pi vs ra pg => actVST c pi vs ra pg
  | .vsts vs ra rb pg => actVSTS c vs ra rb pg
  | .vstg scale vs ra b pg => actVSTG c scale vs ra b pg
  | .vldr vd ra pg => actVLDR c vd ra pg
  | .vstr vs ra pg => actVSTR c vs ra pg
  | .vldrp p ra pg => actVLDRP c p ra pg
  | .vstrp p ra pg => actVSTRP c p ra pg
  | .vldra acc ra pg => actVLDRA c acc ra pg
  | .vstra acc ra pg => actVSTRA c acc ra pg
  | .flock f => actFLOCK c f
  | .flocknb f => actFLOCKNB c f
  | .funlock f => actFUNLOCK c f
  | .fwait f => actFWAIT c f
  | .fget f => actFGET c f
  | .fsave f => actFSAVE c f
  | .frestore f => actFRESTORE c f
  | .fmul f => actFMUL c f
  | .fherm f => actFHERM c f
  | .fchol f => actFCHOL c f
  | .ftrsm f => actFTRSM c f
  | .fqr f => actFQR c f
  | .finv f => actFINV c f
  | .feig f => actFEIG c f

/-! ## System registers written (R215, R216, R275, R302, R306) -/

/-- A configuration word with its reserved bits zero; a field written with a reserved encoding keeps its value (R12, R302). -/
def fcfgPut (w old v : Nat) : Nat :=
  match w with
  | 0 => bitsOf v 5 3 * 8 + (if v % 8 < 5 then v % 8 else old % 8)
  | 1 =>
    let fs := bitsOf v 15 8
    let os := bitsOf v 5 0
    (if fs < 64 || 192 ≤ fs then fs else bitsOf old 15 8) * 256 + (if os ≤ 47 then os else bitsOf old 5 0)
  | 2 => v % 2 ^ 32
  | 3 => bitsOf v 12 8 * 256 + (if bitsOf v 5 0 ≤ 32 then bitsOf v 5 0 else bitsOf old 5 0)
  | w => if w < 8 then 0 else v % 2 ^ 32

def State.setFcfg (s : State) (f w v : Nat) : State :=
  s.setFer f { s.ferSt f with cfg := sput (s.ferSt f).cfg w (fcfgPut w (s.fcfg f w) v) 0 }

/-- A write of FSTAT (R306): SAT, QOVF and ERR clear where 1 is written, by the lock owner. ERR_INFO's status clears with
ERR. -/
def State.setFstat (s : State) (f v : Nat) : State :=
  let s := if bitOf v 9 then s.setFld (Reg.FER_STATUS f) 3 3 0 else s
  let s := if bitOf v 10 then s.setFld (Reg.FER_STATUS f) 2 2 0 else s
  if bitOf v 8 then (s.setFld (Reg.FER_STATUS f) 30 30 0).setFld (Reg.FER_ERR_INFO f) 7 0 0 else s

/-- A system register of Nib i written with the rights of its mode. -/
def State.nibSysWrite (s : State) (i n v : Nat) : State :=
  let x := s.nibSt i
  if n = 0 then
    s.setNib i (x.setSys 0 (if x.kernel then Nat.land v statusMask else putBits (x.sys 0) 27 27 (bitsOf v 27 27)))
  else if n = 8 then (if bitOf v 2 then s.setIpend i 2 false else s)
  else if n = 0xA || n = 0xC || n = 0x82 then s
  else if n = 0x81 then
    s.setNib i (x.setSys n (min v (vlcap (x.sys 0x80 % 8) (x.sys 0x80 / 8 % 4))))
  else if 0x84 ≤ n && n ≤ 0x87 then s.setNib i (x.setSys n (Nat.land (x.sys n) v))
  else if n = 0x110 then (match s.ferHeld i with | some f => s.setFstat f v | none => s)
  else if 0x100 ≤ n then (match s.ferHeld i with | some f => s.setFcfg f (n - 0x100) v | none => s)
  else s.setNib i (x.setSys n (Nat.land v (keyMask (x.sysKey n))))

/-! ## L1D (R204 to R206) -/

/-- A line the Nib is about to write: its bytes behind the cache are kept from the first write on. -/
def State.l1Dirty (s : State) (i l : Nat) (before : List Byte) : State :=
  let x := s.nibSt i
  match sget x.l1d l none with
  | none => s
  | some y =>
    let behind := if y.dirty && y.cur == before then y.behind else before
    s.setNib i { x with l1d := sput x.l1d l (some (L1Line.mk true behind (s.bytes (64 * l) 64))) none }

/-- A store to memory at a local address, and, in cacheable memory, its mark in L1D. -/
def State.nibStore (s : State) (i : Nat) (lines : List Nat) (a n v : Nat) : State :=
  let befores := lines.map fun l => (l, s.bytes (64 * l) 64)
  let s := (s.store a n v).unpoison a n
  befores.foldl (fun s p => s.l1Dirty i p.1 p.2) s

/-- DINV: a dirty line is discarded, and memory keeps what it held without it. -/
def State.l1Discard (s : State) (i l : Nat) : State :=
  let x := s.nibSt i
  let s' := s.setNib i { x with l1d := sdel x.l1d l }
  match sget x.l1d l none with
  | some y => if y.dirty && y.cur == s.bytes (64 * l) 64 then s'.setBytes (64 * l) y.behind else s'
  | none => s'

/-- A cache operation (R198). Written-back lines already stand in memory. -/
def State.cacheOp (s : State) (i op g : Nat) : State :=
  let x := s.nibSt i
  let l := (s.localOf g).getD 0 / 64
  match op with
  | 0 => match sget x.l1d l none with
    | some _ => s.setNib i { x with l1d := sput x.l1d l (some (L1Line.mk false [] [])) none }
    | none => s
  | 1 => s.l1Discard i l
  | 2 => s.setNib i { x with l1d := sdel x.l1d l }
  | 3 => if (s.needLines i g 1).isEmpty || (sget x.l1d l none).isSome then s
         else s.setNib i { x with l1d := sput x.l1d l (some (L1Line.mk false [] [])) none }
  | 4 => s.setNib i { x with l1i := x.l1i.filter (· ≠ l) }
  | 5 => s.setNib i { x with l1i := [] }
  | _ => s.setNib i { x with l1d := [] }

/-! ## Effects at commit -/

/-- What the commit of a bundle has gathered: the state, the next pc, frozen cycles, empty issue cycles, and an exception that
follows the bundle. -/
structure Commit where
  s : State
  pc : Nat
  frozen : Nat
  empties : Nat
  after : Option (Nat × Nat)

/-- A result put in flight. -/
def State.nibLand (s : State) (i t key val lat : Nat) : State :=
  let x := s.nibSt i
  s.setNib i { x with land := x.land ++ [Land.mk (t + lat) key val x.sb] }

/-- FLOCK and FLOCKNB (R289): the new state, rd, and whether the thread now waits. -/
def State.ferLock (s : State) (i f : Nat) (blocking : Bool) : State × Nat × Bool :=
  let t := s.nibThread i
  if s.bit (Reg.FER_STATUS f) 31 then (s, 2, false)
  else if ! s.bit (Reg.FER_LOCK f) 31 then ((s.setFld (Reg.FER_LOCK f) 31 31 1).setFld (Reg.FER_LOCK f) 8 0 (t - 1), 0, false)
  else if s.fld (Reg.FER_LOCK f) 8 0 + 1 = t then (s, 0, false)
  else if blocking then
    (if s.runOn (i / 16) (i % 16) ≠ 0 then s.enterWait (i / 16) (t - 1) wFER (f % 2) 0 false none else s, 1, true)
  else (s, 1, false)

/-- A Ferrule control instruction at commit. -/
def State.ferControl (s : State) (i t func md a key : Nat) : State × Option (Nat × Nat) :=
  let f := 2 * (i / 16) + md % 2
  let h := (s.ferHeld i).getD f
  if func ≤ 1 then
    let r := s.ferLock i f (func == 0)
    (r.1.nibLand i t key r.2.1 4, if r.2.2 then some (0x1A, f % 2) else none)
  else if func = 2 then (s.ferRelease h, none)
  else if func = 4 then
    match (s.ferSt h).queue with
    | [] => ((s.setFer h { s.ferSt h with empty := true }).nibLand i t key 0 4, none)
    | v :: r => (((s.setFer h { s.ferSt h with queue := r, empty := false }).ferShow h).nibLand i t key v 4, none)
  else if func = 5 then
    let s := (List.range 16).foldl (fun s w => s.store (a + 4 * w) 4 (s.fcfg h w)) s
    let s := s.unpoison a 64
    (if bitOf md 1 then s.setFld (Reg.FER_LOCK h) 30 30 0 else s, none)
  else
    let s := (List.range 16).foldl (fun s w => s.setFcfg h w (s.load (a + 4 * w) 4)) s
    ((s.setFld (Reg.FER_LOCK h) 30 30 1).setFld (Reg.FER_LOCK h) 24 16 (s.nibThread i - 1), none)

/-- A Ferrule command at commit (R296, R308): its tag is busy; with ERR standing it ends at once with ABORTED. -/
def State.ferPush (s : State) (i : Nat) (c : FerCmd) : State :=
  let h := (s.ferHeld i).getD 0
  let s := s.setBit (Reg.FER_STATUS h) (16 + c.tag)
  if s.bit (Reg.FER_STATUS h) 30 then s.ferTagEnd h c.tag St.ABORTED
  else (s.setFer h { s.ferSt h with cmds := (s.ferSt h).cmds ++ [c] }).ferShow h

/-- The new value of an atomic (R198). -/
def amoValue (op n old b cmp : Nat) : Nat :=
  let b := b % 2 ^ (8 * n)
  match op with
  | 0 => (old + b) % 2 ^ (8 * n)
  | 1 => b
  | 2 => if old = cmp % 2 ^ (8 * n) then b else old
  | 3 => Nat.land old b
  | _ => Nat.lor old b

/-- VCTL on a STATUS word (R269). -/
def vctlPut (st bits : Nat) : Nat :=
  let st := if bitOf bits 3 then putBits st 26 25 (bitsOf bits 8 7) else st
  let st := if bitOf bits 2 then putBits st 24 24 (bitsOf bits 6 6) else st
  let st := if bitOf bits 1 then putBits st 23 23 (bitsOf bits 5 5) else st
  if bitOf bits 0 then putBits st 22 20 0 else st

/-- One effect of Nib i's bundle that issued in cycle t. -/
def applyEff (i t : Nat) (lines : List Nat) (m : Commit) (e : Eff) : Commit :=
  let x := m.s.nibSt i
  match e with
  | .fault _ _ => m
  | .watch _ _ => m
  | .reg k v lat => { m with s := m.s.nibLand i t k v lat }
  | .put k v => { m with s := m.s.setNib i (x.put k v) }
  | .sys n v => { m with s := m.s.nibSysWrite i n v }
  | .sticky b => { m with s := m.s.setNib i (x.setSys 0 (Nat.lor (x.sys 0) b)) }
  | .vctl b => { m with s := m.s.setNib i (x.setSys 0 (vctlPut (x.sys 0) b)) }
  | .store g n v =>
    { m with s := match m.s.nibPath i g, m.s.localOf g with
        | .csr, some a => m.s.busWrite (.nib (Fin.ofNat 128 i)) a n v
        | .none, _ => m.s
        | .remote, _ => m.s
        | _, some a => m.s.nibStore i (lines.filter fun l => a / 64 ≤ l && l ≤ (a + n - 1) / 64) a n v
        | _, none => m.s }
  | .load k g n sgn =>
    let r := match m.s.nibPath i g, m.s.localOf g with
      | .csr, some a => m.s.busRead (.nib (Fin.ofNat 128 i)) a n
      | .remote, _ => ({ m.s with free := m.s.free + 1 }, Config.freeVal m.s.free % 2 ^ (8 * n))
      | _, some a => (m.s, m.s.load a n)
      | _, none => (m.s, 0)
    { m with s := r.1.nibLand i t k (if sgn then sext (8 * n) r.2 else r.2) 4 }
  | .amo k g n op b cmp =>
    let a := (m.s.localOf g).getD 0
    let old := m.s.load a n
    let s := m.s.nibStore i (lines.filter (· == a / 64)) a n (amoValue op n old b cmp)
    { m with s := s.nibLand i t k (sext (8 * n) old) 4 }
  | .jump g => { m with pc := g, empties := m.empties + 2 }
  | .rfe =>
    { m with s := m.s.setNib i { x with sb := false }, pc := x.sys 1, empties := m.empties + 2 }
  | .wait =>
    if Nat.land (m.s.nibIpend i) (x.sys 9) = 0 then { m with s := m.s.setNibRun i 2 0 } else m
  | .cache op g => { m with s := m.s.cacheOp i op g }
  | .freeze n => { m with frozen := m.frozen + n }
  | .beats n => { m with s := m.s.setNib i { x with vbusy := t + n } }
  | .free n => { m with s := { m.s with free := m.s.free + n } }
  | .fer func md _ a k =>
    let r := m.s.ferControl i t func md a k
    { m with s := r.1, after := match r.2 with | some p => some p | none => m.after }
  | .ferCmd c => { m with s := m.s.ferPush i c }

/-! ## Halting, exceptions and interrupts (R219, R220, R223, R227, R228) -/

/-- Cycles pass for Nib i: CYCLE, FREEZE_CYC and the low counters shown. -/
def State.nibTime (s : State) (i n frozen : Nat) : State :=
  let x := s.nibSt i
  let s := s.setNib i { x with cyc := (x.cyc + n + frozen) % 2 ^ 64 }
  let s := s.bump (Reg.NIB_FREEZE_CYC i) frozen
  let s := s.wrN (Reg.NIB_CYCLE_LO i) (x.cyc + n + frozen)
  s.wrN (Reg.NIB_BUNDLES_LO i) x.bundles

/-- Nib i stops: in-flight results land, RUN and HALT_CAUSE show why, EV0000 + i. -/
def State.nibHalt (s : State) (i run cause : Nat) : State :=
  let x := s.nibSt i
  let y := x.landAll
  let s := s.setNib i { y with halt := false, stepping := false, icyc := x.land.foldl (fun m l => max m l.due) x.icyc }
  let s := s.wrN (Reg.NIB_PC_LO i) x.pc
  let s := s.wrN (Reg.NIB_PC_HI i) (x.pc / 2 ^ 32)
  ((s.setNibRun i run cause).nibShow i).raise i

/-- A bundle boundary: a step that is done or a halt that was asked for takes effect. -/
def State.nibBoundary (s : State) (i : Nat) : State :=
  let x := s.nibSt i
  if x.stepping then s.nibHalt i 3 2
  else if x.halt then s.nibHalt i 3 1
  else s.nibShow i

/-- Entry to the shadow bank (R220): EPC, CAUSE and FADDR written, SB set, the shadow STATUS in kernel mode with all else 0,
and three empty issue cycles. -/
def State.nibEnter (s : State) (i cause faddr epc off : Nat) : State :=
  let x := s.nibSt i
  let y := (((x.put 4097 epc).put 4098 cause).put 4099 faddr).put 8192 (2 ^ 31)
  let y := { y with sb := true, pc := add64 (y.get 4100) off, icyc := x.icyc + 3, bundle := [], frozen := false, line := none }
  ((s.setNib i y).nibTime i 3 0).nibBoundary i

/-- An exception (R217, R223): entry with SB = 0, a double fault with SB = 1. -/
def State.nibExcept (s : State) (i cause faddr epc : Nat) : State :=
  let x := s.nibSt i
  let s := if cause = 0x19 then (match s.ferHeld i with | some f => s.bump (Reg.FER_LAZY f) 1 | none => s) else s
  if x.sb then
    let s := (s.setNib i { x with bundle := [], frozen := false, line := none }).nibHalt i 4 5
    s.notice 1 0 (i / 16) i
  else s.nibEnter i cause faddr epc 0

/-! ## Issue -/

/-- The instructions of a bundle as they issue in a state. -/
def State.nibActs (s : State) (i : Nat) : List NibAct :=
  let x := s.nibSt i
  x.bundle.map fun ins => nibAct ins (NibCtx.mk s i (add64 x.pc (4 * x.bundle.length)))

/-- The cycle in which a bundle issues: held by the busy vector slot (R239, R249) and by writes of the other bank's context to
registers it accesses (R221). -/
def NibSt.issueCycle (x : NibSt) (acts : List NibAct) : Nat :=
  let t := if acts.any fun a => a.cls == 1 || a.idle then max x.icyc x.vbusy else x.icyc
  (x.land.filter fun l => l.shadow != x.sb && acts.any fun a => a.uses.contains l.dst).foldl (fun t l => max t l.due) t

/-- What the fetch of a bundle of n bytes raises (R204, R211, R218). -/
def State.fetchFault (s : State) (i n : Nat) : Option (Nat × Nat) :=
  let x := s.nibSt i
  if ! x.winOk 2 x.pc n then some (cFETCH_WINDOW, if x.winOk 2 x.pc 1 then (x.pc + n - 1) / 4096 * 4096 else x.pc)
  else match s.nibPath i x.pc with
    | .csr => some (cBUS_ERROR, x.pc)
    | _ =>
      if ! s.nibAdmits i x.pc n then some (cBUS_ERROR, x.pc)
      else if s.poisoned ((s.localOf x.pc).getD 0) n then some (cPOISONED, x.pc) else none

/-- Lines of L1I that a bundle needs and L1I does not hold. -/
def State.fetchMiss (s : State) (i n : Nat) : Option Nat :=
  let x := s.nibSt i
  let a := (s.localOf x.pc).getD (x.pc % 2 ^ 48)
  [a / 64, (a + n - 1) / 64].find? fun l => ! x.l1i.contains l

/-- Whether the slot classes of a bundle break R195. -/
def badSlots (acts : List NibAct) : Bool :=
  [0, 1, 2].any fun c => 1 < (acts.filter (·.cls == c)).length

/-- Whether a load of a bundle meets a destination region of the Ferrule its thread holds (R299). -/
def State.regionHold (s : State) (i : Nat) (acts : List NibAct) : Bool :=
  match s.ferHeld i with
  | none => false
  | some f =>
    let rs := (s.ferSt f).cmds.flatMap (·.regions)
    acts.any fun a => a.reads.any fun r => rs.any fun g => r.1 < g.1 + g.2 && g.1 < r.1 + r.2

/-- Nib i is frozen with its bundle held; w is the cache line it waits for. -/
def State.nibFreeze (s : State) (i : Nat) (w : Option Nat) : State :=
  let x := s.nibSt i
  (s.setNib i { x with frozen := true, line := w }).nibShow i

/-- Domains below D0 that the accesses of a bundle meet (R201, R524); an access that L1D serves meets none. -/
def State.sleeping (s : State) (i : Nat) (acts : List NibAct) : List Nat :=
  let met := acts.flatMap fun a => a.reads.map (·.1) ++ a.effs.filterMap fun e => match e with
    | .store g _ _ => some g
    | _ => none
  met.filterMap fun g =>
    if s.nibPath i g = .cached then none else
    match s.localOf g with
    | some a => if s.domUp (s.addrDomain a) then none else some (s.addrDomain a)
    | none => none

/-- Whether a bundle reads RES_LO of a Ductus port whose request is outstanding (R180). -/
def State.portStall (s : State) (acts : List NibAct) : Bool :=
  acts.any fun a => a.reads.any fun r => match s.localOf r.1 with
    | some a => 0x700000 ≤ a && a < 0x780000 && (match svcPortAt (a - 16) with
        | some nib => (s.ducSt (nib.val / 16)).busy.contains (nib.val % 16)
        | none => false)
    | none => false

/-- The bundle that Nib i holds commits. -/
def State.nibCommit (s : State) (i t : Nat) (acts : List NibAct) : State :=
  let x := s.nibSt i
  let nxt := add64 x.pc (4 * x.bundle.length)
  let m := acts.foldl (fun m a => a.effs.foldl (applyEff i t a.lines) m) (Commit.mk s nxt 0 0 none)
  let y := m.s.nibSt i
  let s := m.s.setNib i { y with pc := m.pc, icyc := t + 1 + m.empties, bundles := (x.bundles + 1) % 2 ^ 64, bundle := [],
                                 frozen := false, line := none }
  let s := s.nibTime i (t + 1 + m.empties - x.icyc) m.frozen
  match m.after with
  | some (cause, faddr) => s.nibExcept i cause faddr m.pc
  | none => if s.nibRun i = 2 then s.nibShow i else s.nibBoundary i

/-- The bundle that Nib i holds issues: breakpoints, fetch, the rules of R195, then its exceptions, freezes or commit. whole says
that its last instruction has EOB = 1. -/
def State.nibTry (s : State) (i : Nat) (whole : Bool) : State :=
  let x := s.nibSt i
  let n := 4 * x.bundle.length
  let bps := (List.range 4).filter fun b =>
    modeOk (s.rd (Reg.NIB_BP_CTL i b)) x.kernel &&
      cat64 (s.rd (Reg.NIB_BP_ADDR_LO i b)) (s.rd (Reg.NIB_BP_ADDR_HI i b)) / 4 == x.pc / 4
  match pickMatch bps fun b => s.bit (Reg.NIB_BP_CTL i b) 30 with
  | some (_, true) => (s.setNib i { x with bundle := [], frozen := false, line := none }).nibHalt i 3 3
  | some (_, false) => s.nibExcept i cBREAKPOINT x.pc x.pc
  | none =>
    match s.fetchFault i n with
    | some (c, f) => s.nibExcept i c f x.pc
    | none =>
      let t := x.issueCycle (s.nibActs i)
      let s1 := s.setNib i (x.landUpTo t)
      let acts := s1.nibActs i
      let effs := acts.flatMap (·.effs)
      let flt := effs.findSome? fun e => match e with
        | .fault c f => some (c, f)
        | .watch false a => some (cWATCHPOINT, a)
        | _ => none
      let late := fun (s : State) => s.setNib i { s.nibSt i with icyc := t + 3 }
      if ! whole || badSlots acts then (late s1).nibExcept i cILLEGAL x.pc x.pc
      else if effs.any (fun e => match e with | .watch true _ => true | _ => false) then
        (s1.setNib i { s1.nibSt i with bundle := [], frozen := false, line := none }).nibHalt i 3 4
      else match flt with
        | some (c, f) => (late s1).nibExcept i c f x.pc
        | none =>
          match s.fetchMiss i n with
          | some l => s.nibFreeze i (some (2 * l))
          | none =>
            match (acts.flatMap (·.lines)).find? fun l => (sget x.l1d l none).isNone with
            | some l => s.nibFreeze i (some (2 * l + 1))
            | none =>
              let asleep := s1.sleeping i acts
              if ! asleep.isEmpty then (asleep.foldl (fun s d => s.firstWake d i) s).nibFreeze i none
              else if acts.any (·.hold) || s1.regionHold i acts || s1.portStall acts then s.nibFreeze i none
              else s1.nibCommit i t acts

/-- An instruction joins the bundle of its Nib, which issues with the instruction whose EOB is 1; a third instruction without
it is illegal (R195). A Nib that is not running, or is frozen, issues nothing. -/
def nibIssue (o : NibOp) (ins : NibIns) (s : State) : State :=
  let i := o.nib.val
  let x := s.nibSt i
  if s.nibRun i ≠ 1 || x.frozen || ! s.domUp (i / 8) then s else
  let b := x.bundle ++ [ins]
  let s := s.setNib i { x with bundle := b }
  if o.eob then s.nibTry i true else if 3 ≤ b.length then s.nibTry i false else s

/-- A frozen Nib's bundle tries again. -/
def State.nibRetry (s : State) (i : Nat) : State :=
  let x := s.nibSt i
  if x.frozen && x.line.isNone then s.nibTry i true else s

/-- An interrupt is due (R219): the lowest line set in IPEND and IMASK. -/
def State.nibDue (s : State) (i : Nat) : Option Nat :=
  let x := s.nibSt i
  if x.sb || ! bitOf (x.sys 0) 29 then none else
  (List.range 4).find? fun l => bitOf (s.nibIpend i) l && bitOf (x.sys 9) l

/-- Interrupt entry; FADDR is not stated for an interrupt and takes a free value. -/
def State.nibInterrupt (s : State) (i l : Nat) : State :=
  let x := s.nibSt i
  let r := s.free1 (2 ^ 64)
  r.2.nibEnter i (2 ^ 31 + l) r.1 x.pc 256

end Sys2Proof.Machine
end

