-- ==== Sys2Proof/Machine/NibEvents.lean ====
section
/-! DEFINITION. What happens to a Nib beside its instructions: results landing, cache fills, interrupts, wakes, its control and debug
registers (R200, R201, R219, R224, R226 to R229, R277), and its reset. -/

namespace Sys2Proof.Machine

/-- NIB_WAIT_WAKE (R224): a waiting Nib continues once a line set in IMASK is pending. -/
def execNibWaitWake (nib : Fin 128) (s : State) : Out :=
  let i := nib.val
  .next (if s.nibRun i = 2 && Nat.land (s.nibIpend i) ((s.nibSt i).sys 9) ≠ 0 then s.setNibRun i 1 0 else s)

/-- DEFERRED_RESULT_LANDING (R200): the issue cycle of the next result in flight comes, and it lands; not in a freeze. -/
def execDeferredResultLanding (nib : Fin 128) (s : State) : Out :=
  let i := nib.val
  let x := s.nibSt i
  match x.land with
  | [] => .next s
  | l :: r =>
    if x.frozen then .next s else
    let t := max x.icyc (r.foldl (fun m y => min m y.due) l.due)
    .next ((s.setNib i { x.landUpTo t with icyc := t }).nibTime i (t - x.icyc) 0)

/-- The set of a line in L1I (256 sets) and L1D (128 sets), R205. -/
def setOfL1i (l : Nat) : Nat := l % 256
def setOfL1d (l : Nat) : Nat := l % 128

/-- CACHE_LINE_FILL (R201): the line the frozen Nib waits for is delivered, in place of the line of a way when its set is full
(a dirty one is written back), and the held bundle goes on. The freeze took a free number of Nib cycles. -/
def execCacheLineFill (nib : Fin 128) (way : BitVec 4) (s : State) : Out :=
  let i := nib.val
  let x := s.nibSt i
  match x.line with
  | none => .next s
  | some w =>
    let l := w / 2
    if ! s.domUp (s.addrDomain (64 * l)) then .next (s.firstWake (s.addrDomain (64 * l)) i) else
    let x :=
      if w % 2 = 0 then
        let mates := x.l1i.filter fun m => setOfL1i m == setOfL1i l
        let out := if mates.length < 4 then [] else (mates.drop (way.toNat % mates.length)).take 1
        { x with l1i := setIns (x.l1i.filter fun m => ! out.contains m) l, line := none }
      else
        let mates := (x.l1d.map (·.1)).filter fun m => setOfL1d m == setOfL1d l
        let out := if mates.length < 8 then [] else (mates.drop (way.toNat % mates.length)).take 1
        let kept := x.l1d.filter fun m => ! out.contains m.1
        { x with l1d := sput kept l (some (L1Line.mk false [] [])) none, line := none }
    let f := s.free1 (2 ^ 16)
    .next (((f.2.setNib i x).nibTime i 0 f.1).nibRetry i)

/-- INTERRUPT_ENTRY (R219): between bundles, with SB = 0 and IE = 1, the lowest line set in IPEND and IMASK is taken. -/
def execInterruptEntry (nib : Fin 128) (s : State) : Out :=
  let i := nib.val
  let x := s.nibSt i
  if s.nibRun i ≠ 1 || x.frozen || x.bundle ≠ [] then .next s else
  match s.nibDue i with
  | none => .next s
  | some l => .next (s.nibInterrupt i l)

/-- NIB_TIMER_EXPIRY (R219): the time until CYCLE reaches TIMER_CMP has passed, in empty issue cycles or in a freeze. -/
def execNibTimerExpiry (nib : Fin 128) (s : State) : Out :=
  let i := nib.val
  let x := s.nibSt i
  let n := x.sys 0xD - x.cyc
  if x.frozen then .next (s.nibTime i 0 n)
  else .next ((s.setNib i { x.landUpTo (x.icyc + n) with icyc := x.icyc + n }).nibTime i n 0)

/-- DOORBELL_WRITE: any write sets IPEND bit 2. -/
def execDoorbellWrite (who : Requester) (nib : Fin 128) (s : State) : Out :=
  .next (access who (Reg.NIB_DOORBELL nib) (fun s => (s.setIpend nib 2 true, 0)) s)

/-- RESET_PC of a Nib. -/
def State.resetPc (s : State) (i : Nat) : Nat := cat64 (s.rd (Reg.NIB_RESET_PC_LO i)) (s.rd (Reg.NIB_RESET_PC_HI i)) / 4 * 4

/-- CTL.RUN (R226): a Nib in RESET starts in kernel mode at RESET_PC, with SB 0, IE 0 and VBASE from RESET_PC. -/
def State.nibStart (s : State) (i : Nat) : State :=
  if s.nibRun i ≠ 0 then s else
  let pc := s.resetPc i
  let x := s.nibSt i
  let y := (x.put 4096 (2 ^ 31)).put 4100 (pc / 256 * 256)
  ((s.setNib i { y with pc := pc }).setNibRun i 1 0).nibShow i

/-- CTL.HALT (R227): a Nib that runs or waits halts at the next bundle boundary, after any freeze. -/
def State.nibStop (s : State) (i : Nat) : State :=
  let x := s.nibSt i
  if s.nibRun i ≠ 1 && s.nibRun i ≠ 2 then s
  else if x.bundle = [] then s.nibHalt i 3 1 else s.setNib i { x with halt := true }

/-- CTL.RESUME and CTL.STEP of a halted Nib. A step takes a due interrupt as its entry sequence. -/
def State.nibResume (s : State) (i : Nat) : State := if s.nibRun i = 3 then (s.setNibRun i 1 0).nibShow i else s
def State.nibStep (s : State) (i : Nat) : State :=
  if s.nibRun i ≠ 3 then s else
  let s := s.setNib i { s.nibSt i with stepping := true }
  let s := (s.setNibRun i 1 0).nibShow i
  match s.nibDue i with
  | some l => s.nibInterrupt i l
  | none => s

def execNibCtlRun (who : Requester) (nib : Fin 128) (s : State) : Out :=
  .next (accessHeld who (Reg.NIB_CTL nib) (fun s => s.nibStart nib) s)
def execNibCtlHalt (who : Requester) (nib : Fin 128) (s : State) : Out :=
  .next (accessHeld who (Reg.NIB_CTL nib) (fun s => s.nibStop nib) s)
def execNibCtlResume (who : Requester) (nib : Fin 128) (s : State) : Out :=
  .next (accessHeld who (Reg.NIB_CTL nib) (fun s => s.nibResume nib) s)
def execNibCtlStep (who : Requester) (nib : Fin 128) (s : State) : Out :=
  .next (accessHeld who (Reg.NIB_CTL nib) (fun s => s.nibStep nib) s)

/-! ## Debug access (R227, R229, R277) -/

/-- A vector-state word by INDEX of SPACE 0x4: the register key and the word's number; VGRAN and the other system registers
apart. -/
def dbgVector (n : Nat) : Option (Nat × Nat) :=
  if n < 0x200 then some (64 + n / 16, n % 16)
  else if n < 0x200 + 16 * 9 then some (96 + (n - 0x200) / 16, n % 16)
  else if 0x300 ≤ n && n < 0x300 + 192 then some (105 + (n - 0x300) / 48, (n - 0x300) % 48)
  else none

/-- The system register that INDEX 0x3C0 to 0x3C3 names. -/
def dbgSys (n : Nat) : Option Nat :=
  match n with
  | 0x3C0 => some 0x80 | 0x3C1 => some 0x81 | 0x3C2 => some 0x83 | 0x3C3 => some 0x82 | _ => none

/-- A system register with the shadow or the thread bank selected. -/
def State.withBank (s : State) (i : Nat) (sb : Bool) : State := s.setNib i { s.nibSt i with sb := sb }

/-- A register as the debug path reads it; none for a selector that names none. -/
def State.dbgRead (s : State) (i : Nat) : Option Nat :=
  let sp := s.fld (Reg.NIB_DBG_SEL i) 15 12
  let n := s.fld (Reg.NIB_DBG_SEL i) 11 0
  let x := s.nibSt i
  match sp with
  | 0 => if n < 32 then some (x.get n) else none
  | 1 => if 16 ≤ n && n < 32 then some (x.get (32 + n)) else none
  | 2 => if sysExists n then some ((NibCtx.mk (s.withBank i false) i 0).sysRead n) else none
  | 3 => if sysExists n then some ((NibCtx.mk (s.withBank i true) i 0).sysRead n) else none
  | _ =>
    match dbgSys n, dbgVector n with
    | some m, _ => some ((NibCtx.mk s i 0).sysRead m)
    | none, some (k, w) =>
      if 105 ≤ k then some (elem 64 ((NibCtx.mk s i 0).accImage (k - 105)) w)
      else if k = 96 then some (2 ^ 64 - 1) else some (elem 64 (x.get k) w)
    | none, none => none

/-- A register written through the debug path. -/
def State.dbgWrite (s : State) (i v : Nat) : State :=
  let sp := s.fld (Reg.NIB_DBG_SEL i) 15 12
  let n := s.fld (Reg.NIB_DBG_SEL i) 11 0
  let x := s.nibSt i
  let bad := s.setBit (Reg.NIB_STATUS i) 22
  let sys := fun (sb : Bool) =>
    if ! sysExists n then bad else
    -- the debug path writes with kernel rights
    let y := { x with sb := sb }
    if n = 0 then s.setNib i ({ y.setSys 0 (Nat.land v statusMask) with sb := x.sb })
    else (((s.withBank i sb).nibSysWrite i n v).withBank i x.sb)
  match sp with
  | 0 => if n < 32 then s.setNib i (if n = 0 then x else x.put n v) else bad
  | 1 => if 16 ≤ n && n < 32 then s.setNib i (x.put (32 + n) v) else bad
  | 2 => sys false
  | 3 => sys true
  | _ =>
    match dbgSys n, dbgVector n with
    | some m, _ => s.nibSysWrite i m v
    | none, some (k, w) =>
      if 105 ≤ k then
        s.setNib i (x.landOne k (putBits ((NibCtx.mk s i 0).accImage (k - 105)) (64 * w + 63) (64 * w) v))
      else s.setNib i (x.landOne k (putBits (x.get k) (64 * w + 63) (64 * w) v))
    | none, none => bad

/-- Whether the debug path reaches a Nib: only while it is halted. -/
def State.dbgOpen (s : State) (i : Nat) : Bool := s.nibRun i == 3 || s.nibRun i == 4

/-- DBG_DATA_READ: the selected register is fetched; a Nib that is not halted gives zero and DBG_ERR. -/
def execDbgDataRead (who : Requester) (nib : Fin 128) (s : State) : Out :=
  let i := nib.val
  .next (access who (Reg.NIB_DBG_DATA_LO i) (fun s =>
    match (if s.dbgOpen i then s.dbgRead i else none) with
    | some v => ((s.wrN (Reg.NIB_DBG_DATA_LO i) v).wrN (Reg.NIB_DBG_DATA_HI i) (v / 2 ^ 32), v % 2 ^ 32)
    | none => (((s.setBit (Reg.NIB_STATUS i) 22).wrN (Reg.NIB_DBG_DATA_LO i) 0).wrN (Reg.NIB_DBG_DATA_HI i) 0, 0)) s)

/-- DBG_DATA_WRITE: the value and DBG_DATA_HI are committed; without effect, and with DBG_ERR, unless the Nib is halted. -/
def execDbgDataWrite (who : Requester) (nib : Fin 128) (value : W32) (s : State) : Out :=
  let i := nib.val
  .next (accessHeld who (Reg.NIB_DBG_DATA_LO i) (fun s =>
    if s.dbgOpen i then (s.wr (Reg.NIB_DBG_DATA_LO i) value).dbgWrite i (cat64 value (s.rd (Reg.NIB_DBG_DATA_HI i)))
    else s.setBit (Reg.NIB_STATUS i) 22) s)

/-- CYCLE_LO_READ: the low word, CYCLE_HI latched. Time no command showed may have passed since the last one: a free number of
cycles. -/
def execCycleLoRead (who : Requester) (nib : Fin 128) (s : State) : Out :=
  let i := nib.val
  .next (access who (Reg.NIB_CYCLE_LO i) (fun s =>
    let f := s.free1 (2 ^ 32)
    let s := f.2.nibTime i f.1 0
    (s.wrN (Reg.NIB_CYCLE_HI i) ((s.nibSt i).cyc / 2 ^ 32), (s.nibSt i).cyc % 2 ^ 32)) s)

/-- BUNDLES_LO_READ: the low word, BUNDLES_HI latched. -/
def execBundlesLoRead (who : Requester) (nib : Fin 128) (s : State) : Out :=
  let i := nib.val
  .next (access who (Reg.NIB_BUNDLES_LO i) (fun s =>
    (s.wrN (Reg.NIB_BUNDLES_HI i) ((s.nibSt i).bundles / 2 ^ 32), (s.nibSt i).bundles % 2 ^ 32)) s)

/-- The reset of a Nib (R226, R276): RESET, registers and vector state zero, VBASE from RESET_PC, caches empty (dirty lines
already stand in memory). -/
def State.nibReset (s : State) (i : Nat) : State :=
  let s := s.setNib i (NibSt.init.put 4100 (s.resetPc i / 256 * 256))
  let s := { s with ipend := sput s.ipend i 0 0 }
  (s.setNibRun i 0 0).nibShow i

end Sys2Proof.Machine
end

