-- ==== Sys2Proof/Machine/Hold.lean ====
section
/-! DEFINITION. Accesses of any initiator to registers and memory, and the requests held for domains below D0 (R399, R405, R406,
R524). -/

namespace Sys2Proof.Machine

/-! ## Registers of the Nibs (R227, R229) -/

/-- A register read, those of the Nibs with the effects of their rows. -/
def State.nibRegRead (s : State) (who : Requester) (a : Nat) : State × Nat :=
  match csrRow a with
  | some (0x100, r, _) =>
    let i := Fin.ofNat 128 (a / 0x10000 - 0x100)
    if r.name = "CYCLE_LO" then viaRead s (execCycleLoRead who i)
    else if r.name = "BUNDLES_LO" then viaRead s (execBundlesLoRead who i)
    else if r.name = "DBG_DATA_LO" then viaRead s (execDbgDataRead who i)
    else s.regRead who a
  | _ => s.regRead who a

/-- A register written, those of the Nibs with the effects of their rows: CTL acts on each bit written 1. -/
def State.nibRegWrite (s : State) (who : Requester) (a v : Nat) : State :=
  match csrRow a with
  | some (0x100, r, _) =>
    let i := Fin.ofNat 128 (a / 0x10000 - 0x100)
    if r.name = "CTL" then
      let s := if bitOf v 31 then viaWrite s (execNibCtlRun who i) else s
      let s := if bitOf v 30 then viaWrite s (execNibCtlHalt who i) else s
      let s := if bitOf v 29 then viaWrite s (execNibCtlResume who i) else s
      if bitOf v 28 then viaWrite s (execNibCtlStep who i) else s
    else if r.name = "DBG_DATA_LO" then viaWrite s (execDbgDataWrite who i (w32 v))
    else s.regWrite who a v
  | _ => s.regWrite who a v

/-- A CSR read of 4 or 8 bytes, the lower address first. -/
def State.anyRead (s : State) (who : Requester) (a n : Nat) : State × Nat :=
  let r := s.nibRegRead who a
  if n = 8 then let r2 := r.1.nibRegRead who (a + 4); (r2.1, r.2 + 2 ^ 32 * r2.2) else r

/-- A CSR write of 4 or 8 bytes, the lower address first; a Ductus service request is one write of 8 bytes. -/
def State.anyWrite (s : State) (who : Requester) (a n v : Nat) : State :=
  if (svcPortAt a).isSome then s.busWrite who a n v else
  let s := s.nibRegWrite who a (v % 2 ^ 32)
  if n = 8 then s.nibRegWrite who (a + 4) (v / 2 ^ 32) else s

/-! ## One access -/

/-- Whether a local address lies in a Blotter's capture memory, and which. -/
def blotterAt (a : Nat) : Option Nat :=
  if 0x8000000 ≤ a && a < 0x8000000 + 9 * 0x100000 then some ((a - 0x8000000) / 0x100000) else none

/-- Whether a requester may read the capture memory of Blotter n (R608): control firmware, the physical function, the lock
holder. -/
def State.blotterOk (s : State) (who : Requester) (n : Nat) : Bool := isFirmware who || isPf who || s.lockHolder who (0x660 + n)

/-- One access at a local address: state, status, data. Registers per R19 and R20; memory by a carve-out of realm r, or by an
initiator without a realm (r = 16); marks on data read report their status. -/
def State.doAccess (s : State) (who : Requester) (r : Nat) (write : Bool) (a n data : Nat) : State × Nat × Nat :=
  match blotterAt a with
  | some b => if write || ! s.blotterOk who b then (s, St.ACCESS_DENIED, 0) else (s, St.OK, s.load a n)
  | none =>
    if a < 0x10000000 then
      if ! csrOk a n || ! s.permits who a then (s, St.ACCESS_DENIED, 0)
      else if write then (s.anyWrite who a n data, St.OK, 0)
      else let x := s.anyRead who a n; (x.1, St.OK, x.2)
    else if ! s.memOk a n || (r < 16 && ! s.inRealm r a n) then (s, St.ACCESS_DENIED, 0)
    else if write then ((s.store a n data).unpoison a n, St.OK, 0)
    else match s.markOf a n with
      | 0 => (s, St.OK, s.load a n)
      | 1 => (s, St.POISONED, 0)
      | _ => (s, St.RETENTION_LOST, 0)

/-- An access by a requester answered. -/
def State.respond (s : State) (x : State × Nat × Nat) : State := { x.1 with resp := { status := x.2.1, data := x.2.2 } }

/-- An access that may meet a domain below D0: forced down it ends with DOMAIN_LOST (R524); else it is held, up to 32 of a domain,
with a HOLD response (R405); past 32 it waits in the network. code is the wake's initiator. -/
def State.holdOr (s : State) (who : Requester) (code r : Nat) (write : Bool) (a n data : Nat) : State :=
  let d := s.addrDomain a
  if s.domForced d then { s with resp := { status := St.DOMAIN_LOST, data := 0 } }
  else if s.domUp d then s.respond (s.doAccess who r write a n data)
  else
    let s := s.firstWake d code
    if 32 ≤ (s.noc.held.filter (·.dom == d)).length then s else
    let q := HeldReq.mk d who write a n data (s.tbNs 0)
    { s with noc := { s.noc with held := s.noc.held ++ [q] }, resp := { status := St.HOLD, data := 0 } }

/-! ## Rows of chapter 11 -/

/-- FIRST_ACCESS (R524): an access that meets a domain below D0. -/
def execFirstAccess (who : Requester) (write : Bool) (addr : BitVec 48) (bytes : BitVec 10) (data : W64) (s : State) : Out :=
  if s.domUp (s.addrDomain addr.toNat) then .next s else
  .next (s.holdOr who (whoInit who) (s.whoRealm who) write addr.toNat bytes.toNat data.toNat)

/-- HELD_REQUEST_PERFORM (R405): the oldest request held for a domain at D0. -/
def execHeldRequestPerform (dom : Fin 64) (s : State) : Out :=
  if ! s.domUp dom then .next s else
  match s.noc.held.find? (·.dom == dom.val) with
  | none => .next s
  | some q =>
    let s := { s with noc := { s.noc with held := s.noc.held.erase q } }
    .next (s.respond (s.doAccess q.who (s.whoRealm q.who) q.write q.addr q.bytes q.data))

/-- HOLD_TIMEOUT (R406): the oldest request held for HOLD_TMO_US ends with TIMEOUT and EV0868; the wake goes on. -/
def execHoldTimeout (dom : Fin 64) (s : State) : Out :=
  match s.noc.held.find? (·.dom == dom.val) with
  | none => .next s
  | some q =>
    if s.domUp dom || s.tbNs 0 < q.since + 1000 * s.fld Reg.NOCG_CFG 31 16 then .next s else
    let s := { s with noc := { s.noc with held := s.noc.held.erase q }, resp := { status := St.TIMEOUT, data := 0 } }
    .next (s.raise 868)

/-- Requests held for a domain that is forced down end with DOMAIN_LOST (R406). -/
def State.heldLost (s : State) (d : Nat) : State :=
  if s.noc.held.any (·.dom == d) then
    { s with noc := { s.noc with held := s.noc.held.filter (·.dom != d) }, resp := { status := St.DOMAIN_LOST, data := 0 } }
  else s

/-- The descriptor that runs from a ring will end with a status in place of its own; its data is partly written (R399). -/
def State.jobFails (s : State) (r : RingId) (status : Nat) : State :=
  s.eng.foldl (fun s e => match e.2 with
    | some p => if p.job.ring = r then
        let s := s.partly p.writes
        let p := { p with status := status, writes := [] }
        { s with eng := sput s.eng e.1 (some p) none }
      else s
    | none => s) s

/-- RESPONSE_TIMEOUT (R399): a request without a response when RESP_TMO_US expires. A Nib whose bundle is held takes BUS_ERROR at
the first address it accesses; a descriptor engine ends the descriptor of its ring with TIMEOUT. -/
def execResponseTimeout (who : Requester) (ring : Option RingId) (s : State) : Out :=
  match ring, who with
  | some r, _ => .next (s.jobFails r St.TIMEOUT)
  | none, .nib i =>
    let x := s.nibSt i
    if ! x.frozen then .next s else
    let g := ((s.nibActs i).flatMap fun a => a.reads.map (·.1) ++ a.effs.filterMap fun e => match e with
      | .store g _ _ => some g
      | _ => none).head?.getD x.pc
    .next (s.nibExcept i cBUS_ERROR g x.pc)
  | none, _ => .next { s with resp := { status := St.TIMEOUT, data := 0 } }

/-- RESPONSE_ARRIVAL (R201): what a frozen Nib waits for has come, after a free number of Nib cycles, and its bundle tries again. -/
def execResponseArrival (nib : Fin 128) (s : State) : Out :=
  let x := s.nibSt nib
  if ! x.frozen || x.line.isSome then .next s else
  let f := s.free1 (2 ^ 16)
  .next ((f.2.nibTime nib 0 f.1).nibRetry nib)

/-- FER_CTL_ABORT (R308): a write of CTL.ABORT. -/
def execFerCtlAbort (who : Requester) (f : Fin 16) (s : State) : Out :=
  .next (accessHeld who (Reg.FER_CTL f) (fun s => s.ferAbort f) s)

end Sys2Proof.Machine
end

