-- ==== Sys2Proof/Machine/Fabric.lean ====
section
/-! DEFINITION. The YilkuLink fabric (rows of chapter 15): links, identity, routes, peers, remote requests, time and snapshots. -/

namespace Sys2Proof.Machine

def YLK_SOLE_PATH : Nat := 0x80

def State.setYlk (s : State) (x : YlkState) : State := { s with ylk := x }

/-- State of a port: 0 DOWN, 1 TRAINING, 2 UP, 3 ISOLATED. -/
def State.ylkState (s : State) (p : Nat) : Nat := s.fld (Reg.YLK_STATUS p) 31 29

/-- A field of the FABRIC record (R496); 0 without one. -/
def State.fabNum (s : State) (o n : Nat) : Nat := s.recNum 0x21 0xFF o n

/-- Whether the device is a member of a fabric. -/
def State.member (s : State) : Bool := ! (s.recs 0x21 0xFF).isEmpty

/-- The device's own ID, once it holds one. -/
def State.selfId (s : State) : Option Nat :=
  if s.bit (Reg.YLK_FAB_STATUS 0) 31 then some (s.fld (Reg.YLK_FAB_STATUS 0) 5 0) else none

/-- Unit number at the far end of a port. -/
def State.farUnit (s : State) (p : Nat) : Nat := cat64 (s.rd (Reg.YLK_PEER_UNIT_LO p)) (s.rd (Reg.YLK_PEER_UNIT_HI p))

/-- UP ports whose far device holds an ID: (device, port). -/
def State.neighbours (s : State) (skip : Nat) : List (Nat × Nat) :=
  (List.range 4).filterMap fun p =>
    let id := (sget s.ylk.units (s.farUnit p) (255, false)).1
    if s.ylkState p = 2 && p ≠ skip && id < 64 then some (id, p) else none

/-! ## Routes (R500, R501) -/

/-- Breadth-first search: devices first met at each hop, from a front, along a neighbour function. -/
def bfs (next : Nat → List Nat) : Nat → Nat → List Nat → List (Nat × Nat) → List (Nat × Nat)
  | 0, _, _, seen => seen
  | f + 1, h, front, seen =>
    let new := ((front.flatMap next).filter fun d => ! seen.any (·.1 == d)).foldl setIns []
    bfs next f (h + 1) new (seen ++ new.map fun d => (d, h + 1))

/-- Paths to a device through each neighbour: (hops, next-hop device, local port), up to 8 hops. -/
def State.pathsTo (s : State) (skip d : Nat) : List (Nat × Nat × Nat) :=
  let self := (s.selfId).getD 64
  let next := fun v => (sget s.ylk.adj v []).map (·.2.1) |>.filter (· ≠ self)
  (s.neighbours skip).filterMap fun n =>
    ((bfs next 7 1 [n.1] [(n.1, 1)]).find? (·.1 == d)).map fun x => (x.2, n.1, n.2)

/-- The least of some triples, first component first. -/
def leastTriple : List (Nat × Nat × Nat) → Option (Nat × Nat × Nat)
  | [] => none
  | x :: r => match leastTriple r with
    | none => some x
    | some y =>
      if x.1 < y.1 || (x.1 == y.1 && (x.2.1 < y.2.1 || (x.2.1 == y.2.1 && x.2.2 ≤ y.2.2))) then some x else some y

/-- The route to a device (R500): the fewest hops, then the lower next-hop ID, then the lower port; none to the device itself. -/
def State.fabRoute (s : State) (skip d : Nat) : Option (Nat × Nat × Nat) :=
  if s.selfId = some d then none else leastTriple (s.pathsTo skip d)

/-- A peer is lost (R503): not reachable, EV0804, its FABRIC votes end (R517), an offer to it counts as refused, and a
fault notice re-places its tasks (R152, R538). -/
def State.peerLost (s : State) (d : Nat) : State :=
  let s := (s.setFld (Reg.YLK_PEER_W0 0 d) 31 31 0).raise 804
  let s := { s with pwr := { s.pwr with fabric := s.pwr.fabric.filter fun e => e.1 % 64 ≠ d } }
  let s := match s.ord.offer with
    | some o => if o.peer = d then outState s (execPeerOfferAnswer false 0 s) else s
    | none => s
  let r := s.faultLog 11 6 d 804
  let n := Notice.mk 64 d 804 (s.tbNs 0) r.2
  (r.1.setOrd { r.1.ord with notices := r.1.ord.notices ++ [n] }).setBit Reg.ORD_STATUS 8

/-- The route tables after a change: HOPS and PORT of every peer, the time of a changed route, EV0806 for a change, and the loss of
the peers left without a route. -/
def State.reroute (s : State) : State :=
  let t := s
  let new := (List.range 64).map fun d => t.fabRoute 4 d
  let old := fun d => s.rdN (Reg.YLK_PEER_W0 0 d) % 2 ^ 28
  let w := fun (r : Option (Nat × Nat × Nat)) => match r with
    | some x => 2 ^ 24 * x.1 + 2 ^ 16 * x.2.2
    | none => 0
  let moved := (List.range 64).filter fun d => old d ≠ w ((new.getD d none))
  let s := moved.foldl (fun s d =>
    let s := s.wrN (Reg.YLK_PEER_W0 0 d) (2 ^ 28 * bitsOf (s.rdN (Reg.YLK_PEER_W0 0 d)) 31 28 + w (new.getD d none))
    let p : YPeer := { beat := ((sget s.ylk.peers d none).map (·.beat)).getD 0, routed := s.tbNs 0 }
    s.setYlk { s.ylk with peers := sput s.ylk.peers d (some p) none }) s
  let s := if moved.isEmpty then s else s.raise 806
  (moved.filter fun d => (new.getD d none).isNone && s.bit (Reg.YLK_PEER_W0 0 d) 31).foldl (fun s d => s.peerLost d) s

/-! ## Ports and identity (R495, R498, R499) -/

/-- A port enters a state: CHANGED, EV0800 + p. -/
def State.setPort (s : State) (p st : Nat) : State :=
  if s.ylkState p = st then s else
  ((s.setFld (Reg.YLK_STATUS p) 31 29 st).setBit (Reg.YLK_STATUS p) 28).raise (800 + p)

/-- What a port shows of its far end is gone. -/
def State.portClear (s : State) (p : Nat) : State :=
  let s := (s.setFld (Reg.YLK_STATUS p) 25 23 0).setFld (Reg.YLK_STATUS p) 22 0 0
  (s.wr (Reg.YLK_PEER_UNIT_LO p) 0).wr (Reg.YLK_PEER_UNIT_HI p) 0

/-- The device isolates itself (R499): every link ISOLATED with REASON 3, EV0807. -/
def State.isolate (s : State) : State :=
  let s := s.setBit (Reg.YLK_FAB_STATUS 0) 30
  let s := (List.range 4).foldl (fun s p =>
    if s.ylkState p = 0 then s else ((s.portClear p).setFld (Reg.YLK_STATUS p) 27 26 3).setPort p 3) s
  (s.raise 807).reroute

/-- A unit number is heard of with the ID it announces; an automatic one stays known as automatic. A higher unit number isolates
itself when another holds its ID. -/
def State.learn (s : State) (unit dev : Nat) : State :=
  let auto := (sget s.ylk.units unit (255, false)).2 || dev = 255
  let s := s.setYlk { s.ylk with units := sput s.ylk.units unit (dev, auto) (255, false) }
  if dev < 64 && s.selfId = some dev && unit < Config.unitNumber.toNat && ! s.bit (Reg.YLK_FAB_STATUS 0) 30 then s.isolate else s

/-- An ID taken by the device: SETTLED. -/
def State.takeId (s : State) (id : Nat) : State :=
  let s := (s.setFld (Reg.YLK_FAB_STATUS 0) 5 0 id).setBit (Reg.YLK_FAB_STATUS 0) 31
  (s.setFld (Reg.YLK_PEER_W0 0 id) 30 30 1).reroute

/-- A link test on a port ends without a result. -/
def State.testDrop (s : State) (p : Nat) : State :=
  match sget s.ylk.tests p none with
  | some k => (s.slotEnd k St.ABORTED []).setYlk { s.ylk with tests := sput s.ylk.tests p none none }
  | none => s

/-- Commands that only CMD[16] gives. -/
def only16 (d : Desc) : Nat × Nat := need (d.ring.val = 16) St.ACCESS_DENIED

/-- FAB_QUERY. -/
def execFabQuery (d : Desc) (s : State) : Out :=
  .next (commandNow 0x70 d (fun s => stoppedOrRunning s d) (fun s =>
    let m := (List.range 64).foldl (fun m v => if s.bit (Reg.YLK_PEER_W0 0 v) 31 then m + 2 ^ v else m) 0
    (s, St.OK, [s.rd (Reg.YLK_FAB_STATUS 0), w32 m, w32 (m / 2 ^ 32)] ++ (List.range 4).map fun p => s.rd (Reg.YLK_STATUS p))) s)

/-- FAB_PORT (R495): ENABLE 1 takes a DOWN port to TRAINING, ENABLE 0 takes any port DOWN. -/
def execFabPort (d : Desc) (s : State) : Out :=
  let p := d.n 3 % 4
  let v := d.n 4
  .next (commandNow 0x71 d (fun s => firstFail [runningCheck s d, only16 d, notExpert s (0x550 + p), need (bitsOf v 29 0 = 0) St.BAD_PARAM,
      need (s.ylkState p = 0 || bitOf v 30 == s.bit (Reg.YLK_CFG p) 30) St.WRONG_STATE])
    (fun s =>
      let s := s.wrN (Reg.YLK_CFG p) v
      let s := if bitOf v 31 then (if s.ylkState p = 0 then s.setPort p (if s.bit (Reg.YLK_FAB_STATUS 0) 30 then 3 else 1) else s)
        else
          let up := s.ylkState p = 2
          let s := (((s.testDrop p).portClear p).setFld (Reg.YLK_STATUS p) 27 26 0).setPort p 0
          if up then s.reroute else s
      (s, St.OK, [s.rd (Reg.YLK_STATUS p)])) s)

/-- YLK_HELLO (R497, R498): the far end's HELLO on a port in TRAINING whose lanes are locked. -/
def execYlkHello (p : Fin 4) (fabric : W32) (dev : BitVec 8) (unit : W64) (ver : BitVec 8) (farPort : Fin 4) (two : Bool) (s : State) : Out :=
  if s.ylkState p ≠ 1 || ! s.domUp (54 + p / 2) || (sget s.ylk.tests p none).isSome || (two && s.bit (Reg.YLK_CFG p) 30) then .next s else
  let own := s.fld (Reg.YLK_FAB_STATUS 0) 15 8
  let refuse := fun (r : Nat) => (s.setFld (Reg.YLK_STATUS p) 27 26 r).setPort p 3
  if fabric ≠ s.rd (Reg.YLK_FABRIC_ID 0) then .next (refuse 1)
  else if own + 2 ≤ ver.toNat || ver.toNat + 2 ≤ own then .next (refuse 2)
  else if s.bit (Reg.YLK_FAB_STATUS 0) 30 then .next (refuse 3)
  else
    let s := (s.wrN (Reg.YLK_PEER_UNIT_LO p) unit.toNat).wrN (Reg.YLK_PEER_UNIT_HI p) (unit.toNat / 2 ^ 32)
    let s := s.setFld (Reg.YLK_STATUS p) 27 16 ((if two then 2 else 4) * 2 ^ 7 + min own ver.toNat % 2 ^ 7)
    let s := s.setFld (Reg.YLK_STATUS p) 7 0 (dev.toNat % 64 * 4 + farPort)
    let s := s.setPort p 2
    let s := s.setYlk { s.ylk with vers := sput s.ylk.vers unit.toNat (some ver.toNat) none }
    let s := if s.ylk.settle.isNone && ! s.ylk.ended then s.setYlk { s.ylk with settle := some (s.tbNs 0 + 100000000) } else s
    .next ((s.learn unit.toNat dev.toNat).reroute)

/-- YLK_LINK_FAILURE (R495): retries or silence (0 lanes), or lanes that lost lock: an UP port trains again. -/
def execYlkLinkFailure (p : Fin 4) (lanes : Fin 5) (s : State) : Out :=
  if s.ylkState p ≠ 2 then .next s else
  let s := if lanes.val = 0 then s.bump (Reg.YLK_RETRIES p) 8 else s
  let s := s.setFld (Reg.YLK_STATUS p) 25 23 0
  .next ((s.setPort p 1).reroute)

/-- YLK_TRAINING_RETRY (R495): training begins again; nothing that a register shows changes. -/
def execYlkTrainingRetry (p : Fin 4) (s : State) : Out :=
  .next (if s.ylkState p = 1 then s.setFld (Reg.YLK_STATUS p) 25 23 (if (sget s.ylk.tests p none).isSome then s.fld (Reg.YLK_STATUS p) 25 23 else 0) else s)

/-- SETTLING_WINDOW_END (R499): an automatic device takes the free ID of its rank, or isolates itself for want of one. -/
def execSettlingWindowEnd (s : State) : Out :=
  match s.ylk.settle with
  | none => .next s
  | some t =>
    if s.tbNs 0 < t then .next s else
    let s := s.setYlk { s.ylk with settle := none, ended := true }
    if s.selfId.isSome || s.fabNum 8 1 ≠ 255 then .next s else
    let own := Config.unitNumber.toNat
    let rank := (s.ylk.units.filter fun u => u.2.1 == 255 && u.1 < own).length
    let taken := (s.ylk.units.map (·.2.1)).filter (· < 64)
    .next (match ((List.range 64).filter fun i => ! taken.contains i)[rank]? with
      | some id => s.takeId id
      | none => s.isolate)

/-- ADJACENCY_FRAME (R500): the list of a device, and its unit number. -/
def execAdjacencyFrame (dev : Fin 64) (unit : W64) (links : List FabLink) (s : State) : Out :=
  if (s.neighbours 4).isEmpty && ! (List.range 4).any (fun p => s.ylkState p == 2) then .next s else
  let s := s.learn unit.toNat dev
  let s := s.setYlk { s.ylk with adj := sput s.ylk.adj dev (links.map fun l => (l.port.val, l.far.val, l.farPort.val)) [] }
  let s := (List.range 4).foldl (fun s p =>
    if s.ylkState p = 2 && s.farUnit p = unit.toNat then s.setFld (Reg.YLK_STATUS p) 7 2 dev else s) s
  .next s.reroute

/-! ## Peers (R503) -/

/-- HEARTBEAT_SEND (R503): sent to each device the table holds as reachable; nothing of this device changes. -/
def execHeartbeatSend (s : State) : Out := .next s

/-- HEARTBEAT_RECEIVE (R503): the peer's count starts again; its first heartbeat makes it reachable. -/
def execHeartbeatReceive (dev : Fin 64) (s : State) : Out :=
  if s.fld (Reg.YLK_PEER_W0 0 dev) 27 24 = 0 then .next s else
  let p : YPeer := { beat := s.tbNs 0, routed := ((sget s.ylk.peers dev none).map (·.routed)).getD 0 }
  let s := s.setYlk { s.ylk with peers := sput s.ylk.peers dev (some p) none }
  .next (if s.bit (Reg.YLK_PEER_W0 0 dev) 31 then s else (s.setBit (Reg.YLK_PEER_W0 0 dev) 31).raise 805)

/-- PEER_LOSS (R503): 8 µs without a heartbeat since the later of the last one and the last change of the route. -/
def execPeerLoss (dev : Fin 64) (s : State) : Out :=
  let late := match sget s.ylk.peers dev none with
    | some p => max p.beat p.routed + 8000 ≤ s.tbNs 0
    | none => true
  .next (if s.bit (Reg.YLK_PEER_W0 0 dev) 31 && (late || s.fld (Reg.YLK_PEER_W0 0 dev) 27 24 = 0) then s.peerLost dev else s)

/-- FAB_PEER_QUERY. -/
def execFabPeerQuery (d : Desc) (s : State) : Out :=
  .next (commandNow 0x74 d (fun s => firstFail [stoppedOrRunning s d, need (d.n 3 < 64) St.BAD_PARAM])
    (fun s => (s, St.OK, [s.rd (Reg.YLK_PEER_W0 0 (d.n 3)), w32 (s.regRead .engine (Reg.YLK_PEER_W1 0 (d.n 3))).2])) s)

/-! ## Remote requests (R501, R502) -/

/-- The requester that a remote request stands for at its target: its realm's, or control firmware or the physical function. -/
def remoteWho (q : RemoteReq) : Option Requester :=
  if h : q.realm.val < 16 then some (.vf ⟨q.realm.val, h⟩)
  else if q.origin = 1 then some (.core 0)
  else if q.origin = 2 then some .pf
  else none

/-- REMOTE_REQUEST: forwarded, or answered FABRIC_UNREACHABLE where it has no route or would take a ninth hop; at its target
performed in the order of its flow, as an access by the realm of the same number. One ahead of its turn waits. -/
def execRemoteRequest (q : RemoteReq) (s : State) : Out :=
  if s.selfId ≠ some q.dst.val then
    .next (if q.hops.val < 8 && s.fld (Reg.YLK_PEER_W0 0 q.dst) 27 24 ≠ 0 then { s with resp := { status := St.OK, data := 0 } }
      else { s with resp := { status := St.FABRIC_UNREACHABLE, data := 0 } })
  else
    let key := 65536 * q.dev.val + q.init.toNat
    if sget s.ylk.flows key 0 ≠ q.seq.toNat then .next s else
    let s := s.setYlk { s.ylk with flows := sput s.ylk.flows key ((q.seq.toNat + 1) % 256) 0 }
    match remoteWho q with
    | none => .next { s with resp := { status := St.ACCESS_DENIED, data := 0 } }
    | some w => .next (s.holdOr w 0xFFFF q.realm.val q.write q.addr.toNat q.bytes.toNat q.data.toNat)

/-! ## Time (R505, R506) -/

/-- Whether the device masters or follows a time base over the fabric. -/
def State.fabTb (s : State) (b : Nat) : Bool :=
  s.fld (Reg.TMB_STATE b) 10 8 == 4 || s.selfId == some (s.fabNum (0x18 + b) 1)

/-- The parent port of a time base: the UP port on a shortest path to its master, the lower port first. -/
def State.parentPort (s : State) (b : Nat) : Option Nat :=
  if s.fld (Reg.TMB_STATE b) 10 8 ≠ 4 then none else
  (leastTriple ((s.pathsTo 4 (s.fabNum (0x18 + b) 1)).map fun x => (x.1, x.2.2, 0))).map (·.2.1)

/-- TIME_FRAME_SEND: the stamps of the frame at the balls of the port's lanes, one for each time base it carries. -/
def execTimeFrameSend (p : Fin 4) (s : State) : Out :=
  if s.ylkState p ≠ 2 then .next s else
  .next ((List.range 8).foldl (fun s b =>
    if s.fabTb b then s.setYlk { s.ylk with sentAt := sput s.ylk.sentAt (8 * p.val + b) (s.tbInst b) 0 } else s) s)

/-- TIME_FRAME_RECEIVE: with the parent's stamps, the exchange of each time base that this port parents completes (R506). -/
def execTimeFrameReceive (p : Fin 4) (stamps : List FabStamp) (s : State) : Out :=
  if s.ylkState p ≠ 2 then .next s else
  let done := stamps.filter fun x => s.parentPort x.tb == some p.val && sget s.ylk.sentAt (8 * p.val + x.tb) 0 != 0
  let s' := done.foldl (fun s x =>
    let t2 : Int := s.tbInst x.tb
    let t3 : Int := ((sget s.ylk.sentAt (8 * p.val + x.tb) 0 : Nat) : Int)
    let down := t2 - x.t1
    let up := (x.t4 : Int) - t3
    let off := unsigned 64 ((down - up) / 2 + s.calUser 5 p)
    let s := s.wrN (Reg.YLK_DELAY p) (unsigned 32 ((down + up) / 2))
    (s.wrN (Reg.YLK_OFFSET_LO p x.tb) off).wrN (Reg.YLK_OFFSET_HI p x.tb) (off / 2 ^ 32)) s
  .next (if done.isEmpty then s else (s'.bump (Reg.YLK_SEQ p) 1).raise (808 + p))

/-! ## Snapshots (R508) -/

/-- One of the device's own kind 4 channels armed in mode 1 at an instant of a time base; none where that cannot be. -/
def State.snapArm (s : State) (b sec ns : Nat) : Option State :=
  if s.tbState b ≠ 2 || 10 ^ 9 * sec + ns ≤ s.tbNs b then none else
  ((List.range 32).map (96 + ·)).find? (fun c => s.chState c == cFREE) |>.map fun c =>
    (s.chAssign c 16).chArm c [w32 (2 ^ 28 + 4 * 2 ^ 20 + b * 2 ^ 8), w32 ns, w32 sec, w32 (sec / 2 ^ 32 % 2 ^ 16), 0, 0]

/-- FAB_SNAP: the request goes to every reachable member; the device arms its own channel. -/
def execFabSnap (d : Desc) (s : State) : Out :=
  let b := d.n 3 % 8
  let sec := 2 ^ 32 * (d.n 6 % 2 ^ 16) + d.n 5
  let ns := d.n 4
  .next (command 0x72 d (fun s => firstFail [runningCheck s d, only16 d,
      need (ns < 10 ^ 9 && s.tbNs b + 200000 ≤ 10 ^ 9 * sec + ns) St.BAD_PARAM])
    (fun s =>
      let peers := (List.range 64).filter fun v => s.bit (Reg.YLK_PEER_W0 0 v) 31
      let own := s.snapArm b sec ns
      let asked := if own.isSome then setIns peers ((s.selfId).getD 0) else peers
      let s := own.getD s
      let q := FabSnap.mk d.slotId asked (s.tbNs 0)
      s.setYlk { s.ylk with snaps := s.ylk.snaps ++ [q] }) s)

/-- FAB_SNAP_ARM_REQUEST: a member arms, or answers with a refusal. -/
def execFabSnapArmRequest (tb : Fin 8) (sec : BitVec 48) (ns : W32) (s : State) : Out :=
  .next (match s.snapArm tb sec.toNat ns.toNat with
    | some s => { s with resp := { status := St.OK, data := 0 } }
    | none => { s with resp := { status := St.WRONG_STATE, data := 0 } })

/-- FAB_SNAP_ANSWERS_COMPLETE: the result of the oldest FAB_SNAP lists the members that armed and answered; EV0812 for one that did
not answer. -/
def execFabSnapAnswersComplete (armed answered : W64) (s : State) : Out :=
  match s.ylk.snaps with
  | [] => .next s
  | q :: rest =>
    let s := s.setYlk { s.ylk with snaps := rest }
    let self := s.selfId.getD 0
    let m := q.asked.foldl (fun m v => if v = self || (bitOf armed.toNat v && bitOf answered.toNat v) then m + 2 ^ v else m) 0
    let s := if q.asked.any fun v => v ≠ self && ! bitOf answered.toNat v then s.raise 812 else s
    .next (s.slotEnd q.slot St.OK [w32 m, w32 (m / 2 ^ 32)])

/-! ## Link tests (R509) -/

/-- FAB_LINK_TEST: an UP port goes to TRAINING toward its peer; the tables change first. -/
def execFabLinkTest (d : Desc) (s : State) : Out :=
  let p := d.n 3 % 4
  .next (command 0x73 d (fun s => firstFail [runningCheck s d, only16 d, notExpert s (0x550 + p),
      need (d.n 4 % 4 ≠ 3 && 1 ≤ d.n 5 && d.n 5 ≤ 1000000) St.BAD_PARAM, need (s.ylkState p = 2) St.WRONG_STATE,
      need ((List.range 64).all fun v => ! s.bit (Reg.YLK_PEER_W0 0 v) 31 || (s.fabRoute p v).isSome) YLK_SOLE_PATH])
    (fun s =>
      let s := s.setYlk { s.ylk with tests := sput s.ylk.tests p (some d.slotId) none }
      (s.setPort p 1).reroute) s)

/-- FAB_LINK_TEST_END: the port is UP again, EV0808 + p, and the slot completes. -/
def execFabLinkTestEnd (p : Fin 4) (bits : W64) (errors : W32) (s : State) : Out :=
  match sget s.ylk.tests p none with
  | none => .next s
  | some k =>
    let s := s.setYlk { s.ylk with tests := sput s.ylk.tests p none none }
    let s := (s.setPort p 2).reroute
    .next ((s.raise (808 + p)).slotEnd k St.OK [w32 bits.toNat, w32 (bits.toNat / 2 ^ 32), errors])

end Sys2Proof.Machine
end

