-- ==== Sys2Proof/Machine/BlockReset.lean ====
section
/-! DEFINITION. The reset of one block (R13, R14): its registers return to their reset values, but for those the tables keep, and
its work ends as its chapter says. -/

namespace Sys2Proof.Machine

/-- Offsets that a block reset leaves as they are: registers whose Reset cell keeps them (R14), and the capacity that training
found (notes/assumptions/14.md). -/
def keptOffset (b0 o : Nat) : Bool :=
  match b0 with
  | 0x500 => o == 0x20 || o == 0x24
  | 0x550 => o == 0x18
  | 0x640 => true
  | 0x310 => o == 0x38
  | 0x320 => o == 0x38
  | 0x300 => o == 0x38
  | 0x370 => o == 0x8
  | 0xF00 => o == 8
  | _ => false

/-- The registers of a block from offset lo to hi return to their reset values. -/
def State.blockClear (s : State) (b0 blk lo hi : Nat) : State :=
  { s with csr := s.csr.filter fun e => ! (e.1 / 0x10000 == blk && lo ≤ e.1 % 0x10000 && e.1 % 0x10000 < hi && ! keptOffset b0 (e.1 % 0x10000)) }

/-- The ring sets of a block are abandoned (R29). -/
def State.abandonAll (s : State) (rs : List RingId) : State := rs.foldl (fun s r => s.abandon r) s

/-- Serial number of pool unit n of the block whose first number is b0. -/
def poolSerial (b0 n : Nat) : Nat := poolFirst (if b0 = 0x270 then 6 else (b0 - 0x200) / 0x10) + n

/-- A Ductus after a block reset (R192): every TCB, semaphore and group FREE; commands that waited for the journal end with
ABORTED. -/
def State.ducReset (s : State) (q : Nat) : State :=
  let jq := (s.ducSt q).jq
  let s := s.setDuc q DucSt.init
  let s := (List.range 16).foldl (fun s n => { s.setIpend (16 * q + n) 0 false with spareTag := sdel s.spareTag (16 * q + n) }) s
  jq.foldl (fun s r => r.slot.elim s fun k => s.slotEnd k St.ABORTED []) s

/-- Work of a pool unit ends without write-back (R325). rings says whether its ring sets are reset as well. -/
def State.poolReset (s : State) (j : Nat) (rings : Bool) : State :=
  let rs := (List.range 16).filterMap fun r => if h : j < 56 ∧ r < 16 then some (RingId.pool ⟨j, h.1⟩ ⟨r, h.2⟩) else none
  let s := if rings then s.abandonAll rs else s
  { s with eng := sput s.eng j none none }

/-- An RA engine after a block reset (R361): its payload contexts end with ABORTED, the others without a record. -/
def State.raReset (s : State) (e : Nat) (rings : Bool) : State :=
  let s := (List.range 32).foldl (fun s c => match s.raCtx e c with
    | some k => if k.state = 1 then s.setCtx e c none else s.payloadEnd e c k St.ABORTED 0 0
    | none => s) s
  let rs := (List.range 16).filterMap fun r => if h : e < 2 ∧ r < 16 then some (RingId.ra ⟨e, h.1⟩ ⟨r, h.2⟩) else none
  let s := if rings then s.abandonAll rs else s
  { s with eng := sput s.eng (56 + e) none none }

/-- The channels of Scribe b stop; timed starts and tokens are gone. -/
def State.scribeReset (s : State) (b : Nat) : State :=
  let s := s.scribeStop b
  if b < 8 then s else
  { s with scb := { s.scb with tok := s.scb.tok.filter fun e => e.1 / 32 ≠ b - 8,
                               starts := s.scb.starts.filter fun k => k / 8 ≠ b - 8 } }

/-- Links of a JESD quad leave UP; their paths stop. -/
def State.jesReset (s : State) (k : Nat) : State :=
  [(false, 0), (false, 1), (true, 0), (true, 1)].foldl (fun s x =>
    if s.jesState k x.1 x.2 = 0 then s else ((s.linkMute k x.1 x.2).linkStop k x.1 x.2).setJes k x.1 x.2 0) s

/-- A block reset. rings is false for the datapath resets of Pounce (R547), which leave the ring sets. -/
def State.blockResetOf (s : State) (blk : Nat) (rings : Bool) : State :=
  match blockOf blk with
  | none => s
  | some (b0, _) =>
    let n := blk - b0
    let clear := fun (s : State) => s.blockClear b0 blk 0 0x10000
    match b0 with
    | 0x0 => s
    | 0x10 => s
    | 0x70 => clear (s.ducReset n)
    | 0x100 => let s := clear s; s.nibReset n
    | 0x180 => clear (s.ferReset n)
    | 0x280 =>
      let s := s.raReset n rings
      let s := if rings then clear s else s.blockClear b0 blk 0 0x1000
      s.raAllot n
    | 0x400 => if rings then clear (s.scribeReset n) else s.blockClear b0 blk 0 0x40
    | 0x500 =>
      let s := clear (s.setEth n 0)
      (s.calShow 1 n).calShow 2 n
    | 0x520 =>
      let rs := (List.range 17).flatMap fun r => if h : n < 2 ∧ r < 17 then [RingId.fhTx ⟨n, h.1⟩ ⟨r, h.2⟩, RingId.fhRx ⟨n, h.1⟩ ⟨r, h.2⟩] else []
      let s := s.abandonAll rs
      let fh := { s.fh with wins := s.fh.wins.filter fun w => w.grp / 64 ≠ n }
      clear { s with fh := fh }
    | 0x530 => clear (s.jesReset n)
    | 0x540 => clear ((List.range 64).foldl (fun s c => s.setPathState c 0) s)
    | 0x550 =>
      let up := s.ylkState n = 2
      let s := clear (((s.testDrop n).portClear n).setPort n 0)
      if up then s.reroute else s
    | _ =>
      if 0x200 ≤ b0 && b0 ≤ 0x270 && b0 ≠ 0x260 then
        let s := s.poolReset (poolSerial b0 n) rings
        if rings then clear s else s.blockClear b0 blk 0 0x1000
      else clear s

/-- The reset of one block (R13). -/
def State.blockReset (s : State) (blk : Nat) : State := s.blockResetOf blk true

end Sys2Proof.Machine
end

