-- ==== Sys2Proof/Machine/Power.lean ====
section
/-! DEFINITION. Power domains in motion (rows of chapter 16): votes and windows by command, entries, exits, retention, forced
power-down, clocks. -/

namespace Sys2Proof.Machine

/-! ## Registers of a domain -/

/-- CHG of a domain. -/
def State.domChanged (s : State) (d : Nat) : State := if d < 32 then s.setBit Reg.PWM_CHG_LO d else s.setBit Reg.PWM_CHG_HI (d - 32)

/-- A domain shows a state; a change sets CHG. -/
def State.setDomState (s : State) (d k : Nat) : State :=
  if s.domState d = k then s else (s.setFld (Reg.PWM_D_STATE d) 31 30 k).domChanged d

/-- ENTERING, EXITING and AP. -/
def State.showTrans (s : State) (d : Nat) (entering exiting : Bool) (ap : Nat) : State :=
  ((s.setFld (Reg.PWM_D_STATE d) 27 27 (b2n entering)).setFld (Reg.PWM_D_STATE d) 26 26 (b2n exiting)).setFld (Reg.PWM_D_STATE d) 24 22 ap

def State.clearDeep (s : State) (d : Nat) : State := s.setPwr { s.pwr with deep := sput s.pwr.deep d none none }

/-! ## Commands (R517, R531, R534) -/

/-- Domain of a command: word 3 [5:0]. -/
def dDom (d : Desc) : Nat := d.n 3 % 64

/-- A realm's command may name a domain that the realm holds (R534). -/
def domMine (s : State) (d : Desc) (k : Nat) : Nat × Nat := need (16 ≤ d.tgt || s.holdsDomain d.tgt k) St.ACCESS_DENIED

/-- The vote of a PWR_VOTE as the model stores it: T + 1, 0 a D0 vote, none withdrawn. -/
def voteOf (kind t : Nat) : Option Nat := if kind = 0 then some 0 else if kind = 1 then some (t + 1) else none

/-- PWR_VOTE, for the kinds that a row names; a descriptor of another kind is another row's. With TARGET 0xFF the vote is control
firmware's, class FIRMWARE (notes/assumptions/15.md). A remote vote goes to the peer, whose STATE comes back. -/
def pwrVote (kinds : List Nat) (d : Desc) (s : State) : State :=
  let k := bitsOf (d.n 3) 9 8
  let dom := dDom d
  let remote := bitOf (d.n 3) 16
  if ! kinds.contains k then s else
  commandNow 0x78 d (fun s => firstFail [runningCheck s d, need (! remote || d.ring.val = 16) St.ACCESS_DENIED, need (k ≠ 3) St.BAD_PARAM,
      (if remote then need (s.bit (Reg.YLK_PEER_W0 0 (bitsOf (d.n 3) 29 24)) 31) St.FABRIC_UNREACHABLE else domMine s d dom)])
    (fun s =>
      if remote then let f := s.free1 (2 ^ 32); (f.2, St.OK, [w32 f.1]) else
      let v := voteOf k (d.n 4)
      let s := if d.tgt < 16 then s.setPwr { s.pwr with host := sput s.pwr.host (16 * dom + d.tgt) v none }
        else s.setPwr { s.pwr with firm := sput s.pwr.firm dom v none }
      (s, St.OK, [s.stateWord dom])) s

def execPwrVoteD0 (d : Desc) (s : State) : Out := .next (pwrVote [0, 3] d s)
def execPwrVoteTolerance (d : Desc) (s : State) : Out := .next (pwrVote [1] d s)
def execPwrVoteWithdraw (d : Desc) (s : State) : Out := .next (pwrVote [2] d s)

/-- PEER_PWR_VOTE (R517): the vote of class FABRIC of a reachable peer. -/
def execPeerPwrVote (dev dom : Fin 64) (kind : Fin 3) (tol : W32) (s : State) : Out :=
  if ! s.bit (Reg.YLK_PEER_W0 0 dev) 31 then .next s else
  .next (s.setPwr { s.pwr with fabric := sput s.pwr.fabric (64 * dom.val + dev.val) (voteOf kind tol.toNat) none })

/-- PWR_QUERY. -/
def execPwrQuery (d : Desc) (s : State) : Out :=
  let k := dDom d
  .next (commandNow 0x79 d (fun s => firstFail [stoppedOrRunning s d, domMine s d k]) (fun s =>
    let t := s.pwrShow k
    (t, St.OK, [t.rd (Reg.PWM_D_STATE k), t.rd (Reg.PWM_D_VOTES k), t.rd (Reg.PWM_D_TOL k), t.rd (Reg.PWM_D_WAKE0 k),
      t.rd (Reg.PWM_D_WAKE1 k), t.rd (Reg.PWM_D_WAKE2 k), t.rd (Reg.PWM_D_WAKE3 k)])) s)

/-- Whether votes and the limits of R514 let a domain go as deep as k. -/
def State.mayEnter (s : State) (d k : Nat) : Bool :=
  let vs := s.votes d
  ! vs.any (·.tol.isNone) && decide (k ≤ s.deepLimit d) && (match minTol vs with
    | some t => decide (exitLat d k ≤ t)
    | none => true)

/-- The last step done, or not needed, by a domain in a state (R521). -/
def stepOf (k : Nat) : Nat := if k = 0 then 0 else if k = 1 then 1 else if k = 2 then 4 else 5

/-- An entry begins (R520, R534). -/
def State.enterBegin (s : State) (d target : Nat) (slot : Option SlotId) : State :=
  let t := PTrans.mk target (stepOf (s.domState d)) false (s.domState d) none slot
  ((s.setTrans d (some t)).showTrans d true false (stepOf (s.domState d))).clearDeep d

/-- An entry is abandoned at abort point k (R522): EV0881; the way back to D0 is an exit. -/
def State.enterAbandon (s : State) (d k : Nat) (t : PTrans) (w : Wake) : State :=
  let t := { t with exit := true, step := k, wake := some w }
  (((s.setTrans d (some t)).showTrans d false true k).bump (Reg.PWM_D_ABANDONED d) 1).raise 881

/-- The abort points from k on are sampled: a wake pending now, with the time at which the first was accepted. -/
def State.sampleWake (s : State) (d : Nat) (t : PTrans) : Option Wake :=
  match s.pickWake d t.target with
  | none => none
  | some w => some (t.wake.getD (s.wakeNow w))

/-- PWR_ENTER. -/
def execPwrEnter (d : Desc) (s : State) : Out :=
  let k := dDom d
  let target := bitsOf (d.n 3) 9 8
  .next (command 0x7A d (fun s => firstFail [runningCheck s d, only16 d, need (target ≠ 0 && permitsState k target) St.BAD_PARAM,
      need ((s.trans k).isNone && s.domState k < target && ! s.domForced k) St.WRONG_STATE, need (s.mayEnter k target) PWR_VOTED])
    (fun s =>
      let s := s.enterBegin k target (some d.slotId)
      match s.trans k with
      | some t => match s.sampleWake k t with
        | some w => s.enterAbandon k (stepOf (s.domState k)) t w
        | none => s
      | none => s) s)

/-- Owner of a window: a realm, 16 the device, none. -/
def State.winOwner (s : State) (w : Nat) : Option Nat :=
  let a := Reg.PWM_WIN_CFG w
  if ! s.bit a 31 then none else some (if s.bit a 23 then 16 else s.fld a 27 24)

/-- PWR_WINDOW (R531): a window claimed or changed, or with a duration of 0 freed. -/
def execPwrWindow (d : Desc) (s : State) : Out :=
  let w := d.n 3 % 32
  let me := if d.tgt < 16 then d.tgt else 16
  let m := cat64 (d.word 4) (d.word 5)
  let n := d.n 7
  .next (commandNow 0x7B d (fun s => firstFail [runningCheck s d, need (n = 0 || 1000 ≤ n) St.BAD_PARAM,
      need (match s.winOwner w with | some o => o == me | none => true) St.ACCESS_DENIED,
      need (n = 0 || me = 16 || (List.range 64).all fun k => ! bitOf m k || s.holdsDomain me k) St.ACCESS_DENIED])
    (fun s =>
      if n = 0 then (s.winFree w, St.OK, []) else
      let cfg := 2 ^ 31 + (if me = 16 then 2 ^ 23 else 2 ^ 24 * me) + d.n 6 % 4
      (s.wrWords (Reg.PWM_WIN_MASK_LO w) [d.word 4, d.word 5, w32 cfg, w32 n], St.OK, [])) s)

/-- PWR_FORCE_CLEAR (R530): a domain that a thermal emergency forced down may rise again. -/
def execPwrForceClear (d : Desc) (s : State) : Out :=
  let k := dDom d
  .next (commandNow 0x7C d (fun s => firstFail [runningCheck s d, only16 d,
      need (s.domForced k && sget s.pwr.cause k 0 ≠ 2 && ! s.bit Reg.PWM_THERM_STAT 30) St.WRONG_STATE])
    (fun s =>
      let s := s.setFld (Reg.PWM_D_STATE k) 25 25 0
      let s := if k < 32 then s.setFld Reg.PWM_FORCED_LO k k 0 else s.setFld Reg.PWM_FORCED_HI (k - 32) (k - 32) 0
      (s.setPwr { s.pwr with cause := sput s.pwr.cause k 4 0 }, St.OK, [])) s)

/-- CLK_QUERY. -/
def execClkQuery (d : Desc) (s : State) : Out :=
  let c := d.n 3 % 128
  .next (commandNow 0x7D d (fun s => firstFail [stoppedOrRunning s d, need (c < 100) St.BAD_PARAM]) (fun s =>
    let src := bitsOf (s.clockStat c) 30 27
    (s, St.OK, [w32 (s.clockStat c), if src < 9 then s.rd (Reg.CLK_PLL_STAT src) else 0])) s)

/-! ## Entries (R520 to R523) -/

/-- POWER_ENTRY_START (R520): the target has been deeper for HOLDOFF_US; AP0 is sampled. -/
def execPowerEntryStart (dom : Fin 64) (s : State) : Out :=
  let d := dom.val
  if (s.trans d).isSome || s.domForced d || s.heldDown d || s.target d ≤ s.domState d then .next s else
  match sget s.pwr.deep d none with
  | none => .next s
  | some t0 =>
    if s.tbNs 0 < t0 + 1000 * s.effHoldoff d then .next s else
    let ap := stepOf (s.domState d)
    let s := s.enterBegin d (s.target d) none
    .next (match s.trans d with
      | some t => match s.sampleWake d t with
        | some w => s.enterAbandon d ap t w
        | none => s
      | none => s)

/-- The step that an entry toward a state performs after step k (R521); none when it has performed its last. -/
def nextStep (target k : Nat) : Option Nat :=
  ((match target with | 1 => [1] | 2 => [1, 2, 3, 4] | _ => [1, 2, 3, 5]) : List Nat).find? (k < ·)

/-- What a step does that shows: clocks stopped (D1), caches written back and invalidated (a dirty line already stands in memory),
retention supply (D2), supply off (D3). -/
def State.stepDone (s : State) (d k : Nat) : State :=
  match k with
  | 1 => s.setDomState d 1
  | 2 => if d < 16 then (List.range 8).foldl (fun s n => s.setNib (8 * d + n) { s.nibSt (8 * d + n) with l1i := [], l1d := [] }) s else s
  | 3 => s.setPwr { s.pwr with excur := sdel s.pwr.excur d }
  | 4 => s.setDomState d 2
  | _ => s.setDomState d 3

/-- POWER_ENTRY_STEP_COMPLETE (R521, R522): the step under way ends, the abort points up to the next step are sampled, and after the
last one the entry is complete. -/
def execPowerEntryStepComplete (dom : Fin 64) (s : State) : Out :=
  let d := dom.val
  match s.trans d with
  | none => .next s
  | some t =>
    if t.exit then .next s else
    match nextStep t.target t.step with
    | none => .next s
    | some k =>
      let s := s.stepDone d k
      let t := { t with step := k }
      match s.sampleWake d t with
      | some w => .next (s.enterAbandon d k t w)
      | none =>
        match nextStep t.target k with
        | some n => .next ((s.setTrans d (some t)).showTrans d true false (n - 1))
        | none =>
          let s := ((s.setTrans d none).showTrans d false false 0).clearDeep d
          let s := ((s.bump (Reg.PWM_D_ENTRIES d) 1).domChanged d).raise 880
          .next (t.slot.elim s fun q => s.slotEnd q St.OK [s.stateWord d])

/-! ## Exits and retention (R520, R526 to R529) -/

/-- POWER_EXIT (R520): a shallower target or a first access starts an exit; with no vote of its own it is for a dependency of
R514. -/
def execPowerExit (dom : Fin 64) (s : State) : Out :=
  let d := dom.val
  let k := s.domState d
  if (s.trans d).isSome || k = 0 || s.domForced d || s.heldDown d || ! (s.target d < k || (sget s.pwr.first d none).isSome) then .next s else
  let w := s.wakeNow ((s.pickWake d k).getD (5, 0))
  let t := PTrans.mk 0 0 true k (some w) none
  .next (((s.setTrans d (some t)).showTrans d false true 0).clearDeep d)

/-- Address range of an Inkwell domain. -/
def inkRange (d : Nat) : Option (Nat × Nat) :=
  if 24 ≤ d && d < 32 then some (0x10000000 + 0x1000000 * (d - 24), 0x10000000 + 0x1000000 * (d - 23))
  else if d = 60 then some (0x20000000, 0x24000000) else none

/-- Inkwell banks of a domain: its retention banks come first, those of its blocks after them. -/
def inkBanks (d : Nat) : Nat := if 24 ≤ d && d < 32 then 64 else if d = 60 then 128 else 0

/-- Blocks of a domain, as CSR block numbers. -/
def domBlocks (d : Nat) : List Nat := ((List.range 0x542).map (0x70 + ·)).filter fun b => (blockOf b).isSome && blockDomain b == d

/-- Retention banks of a domain. -/
def retBanks (d : Nat) : Nat := inkBanks d + (if permitsState d 2 then (domBlocks d).length else 0)

/-- Words of a range lose their contents (R527, R529): retention poison in every word of it, of one bank when bank is given. -/
def State.loseWords (s : State) (lo hi : Nat) (bank : Option Nat) : State :=
  let m := LostMark.mk lo hi bank []
  { s with poison := s.poison.filter fun w => ! m.holds w, retLost := s.retLost ++ [m] }

/-- A bank marked lost (R527): an Inkwell bank's words, or the block whose retention cells failed. -/
def State.loseBank (s : State) (d b : Nat) : State :=
  if b < inkBanks d then
    (match inkRange d with
     | some r => s.loseWords r.1 r.2 (some b)
     | none => s)
  else match (domBlocks d)[b - inkBanks d]? with
    | some blk => s.blockReset blk
    | none => s

/-- What an exit from D3 finds (R512, R529): Nibs in RESET, Inkwell lost, Ethernet ports that train again; after a forced
power-down, whose state was not saved, blocks reset but for their ring sets (notes/assumptions/16.md). -/
def State.leaveD3 (s : State) (d : Nat) : State :=
  let s := if sget s.pwr.cause d 0 = 4 then
      let s := (domBlocks d).foldl (fun s b => s.blockResetOf b false) s
      s.setPwr { s.pwr with cause := sput s.pwr.cause d 0 0 }
    else s
  let s := if d < 16 then (List.range 8).foldl (fun s n => s.nibReset (8 * d + n)) s else s
  let s := match inkRange d with
    | some r =>
      let s := { s with retLost := s.retLost.filter fun m => ! (r.1 ≤ m.lo && m.hi ≤ r.2) }
      s.loseWords r.1 r.2 none
    | none => s
  if 48 ≤ d && d < 52 then
    (List.range 32).foldl (fun s p => if (List.range (s.ethWidth p)).any fun l => (p + l) / 8 == d - 48 then s.ethDown p else s) s
  else s

/-- POWER_EXIT_COMPLETE (R526 to R529): the domain is at D0 and its last-wake record is written. bad lists the banks whose
canaries do not match. -/
def execPowerExitComplete (dom : Fin 64) (bad : BitVec 128) (s : State) : Out :=
  let d := dom.val
  match s.trans d with
  | none => .next s
  | some t =>
    if ! t.exit then .next s else
    let gone := t.target ≠ 0
    let k := if gone then s.domState d else t.from_
    let lost := if ! gone && k = 2 then
        (List.range (min (retBanks d) 128)).filter fun b => bitOf bad.toNat b || (sget s.pwr.excur d []).contains b
      else []
    let w := t.wake.getD (s.wakeNow (5, 0))
    let s := lost.foldl (fun s b => s.loseBank d b) s
    let s := if ! gone && k = 3 then s.leaveD3 d else s
    let w0 := 2 ^ 31 + 2 ^ 30 * b2n gone + 2 ^ 29 * b2n (! lost.isEmpty) + 2 ^ 27 * k + 2 ^ 24 * (if gone then t.step else 0) +
      2 ^ 16 * w.src + w.id
    let s := s.wrWords (Reg.PWM_D_WAKE0 d) [w32 w0, w32 w.ts, w32 (2 ^ 16 * lost.length + lost.head?.getD 0), w32 (s.tbNs 0 - w.ns)]
    let s := (((s.setDomState d 0).setTrans d none).showTrans d false false 0).clearDeep d
    let s := s.setPwr { s.pwr with first := sput s.pwr.first d none none, excur := sdel s.pwr.excur d }
    let s := (s.domChanged d).raise 880
    let s := if lost.isEmpty then s else
      (if d < 32 then s.setBit Reg.PWM_LOST_LO d else s.setBit Reg.PWM_LOST_HI (d - 32)).raise 882
    .next (t.slot.elim s fun q => s.slotEnd q St.ABORTED [s.stateWord d])

/-- RETENTION_EXCURSION (R527): the monitor of a bank logs an excursion while the domain is at D2. -/
def execRetentionExcursion (dom : Fin 64) (bank : Fin 128) (s : State) : Out :=
  if s.domState dom ≠ 2 || retBanks dom ≤ bank then .next s else
  .next (s.setPwr { s.pwr with excur := sput s.pwr.excur dom (setIns (sget s.pwr.excur dom []) bank) [] })

/-! ## Forced power-down (R530) -/

/-- The job of a pool unit or RA engine ends with DOMAIN_LOST, its output partly written (R315, R322). -/
def State.unitLost (s : State) (j : Nat) : State :=
  match sget s.eng j none with
  | none => s
  | some p => (s.partly p.writes).endPoolJob j { p with status := St.DOMAIN_LOST, writes := [] }

/-- Running Scribe work that needs a domain ends with DOMAIN_LOST (R431). -/
def State.scribeLost (s : State) (d : Nat) : State :=
  s.eng.foldl (fun s e => match e.2 with
    | some p =>
      if e.1 < 1000 then s else
      let b := (e.1 - 1000) / 32
      if (if b < 8 then 24 + b else 61) = d || (scribeReach s p).contains d then
        let s := s.jobFails p.job.ring St.DOMAIN_LOST
        let s := if b < 8 then s else { s with scb := { s.scb with lines := sdel s.scb.lines (e.1 - 1000 - 256) } }
        outState s (execScribeDescriptorComplete (Fin.ofNat 12 b) (Fin.ofNat 32 ((e.1 - 1000) % 32)) s)
      else s
    | none => s) s

/-- Commands of Ferrule f that a condition names end with DOMAIN_LOST and set ERR (R308). -/
def State.ferLost (s : State) (f : Nat) (p : FerCmd → Bool) : State :=
  let cs := (s.ferSt f).cmds.filter p
  if cs.isEmpty then s else
  let s := s.setFer f { s.ferSt f with cmds := (s.ferSt f).cmds.filter fun c => ! p c }
  let s := (cs.foldl (fun s c => s.ferTagEnd f c.tag St.DOMAIN_LOST) s).ferShow f
  s.ferError f St.DOMAIN_LOST 0

/-- Every OUT of the PA interfaces goes low and every gain to 0; no program runs (R486). -/
def State.paSafe (s : State) : State :=
  (List.range 16).foldl (fun s p =>
    let s := s.setPa p { s.paSt p with prog := none, queued := none }
    ((s.setFld (Reg.DFE_PA_STAT p) 27 24 0).setFld (Reg.DFE_PA_STAT p) 15 0 0).setPaState p 0) s

/-- Operations that need a domain end in the manner of their chapters (R530). -/
def State.opsLost (s : State) (d : Nat) : State :=
  let s := (List.range 58).foldl (fun s j => if unitDomain j = d || (d = 47 && j < 56) then s.unitLost j else s) s
  let s := s.scribeLost d
  let s := (List.range 16).foldl (fun s f => s.ferLost f fun c => d == 16 + f / 2 ||
    c.regions.any fun r => match s.localOf r.1 with
      | some a => s.addrDomain a == d
      | none => false) s
  let s := if d ≠ 62 then s else (List.range 64).foldl (fun s x => match s.raCtx (x / 32) (x % 32) with
    | some k => if k.state = 1 then s.setCtx (x / 32) (x % 32) none else s.payloadEnd (x / 32) (x % 32) k St.DOMAIN_LOST 0 0
    | none => s) s
  let s := if 48 ≤ d && d ≤ 52 then (List.range 32).foldl (fun s p =>
      if d = 52 || (List.range (s.ethWidth p)).any (fun l => (p + l) / 8 == d - 48) then s.ethDown p else s) s else s
  let s := if d ≠ 53 then s else
    let s := (List.range 4).foldl (fun s k => [(false, 0), (false, 1), (true, 0), (true, 1)].foldl (fun s x =>
      let s := s.linkStop k x.1 x.2
      if s.jesState k x.1 x.2 = 2 then s.setJes k x.1 x.2 1 else s) s) s
    s.paSafe
  let s := if 54 ≤ d && d < 56 then [2 * (d - 54), 2 * (d - 54) + 1].foldl (fun s p => outState s (execYlkLinkFailure (Fin.ofNat 4 p) 0 s)) s else s
  (s.heldLost d).pncAbandon d St.ABORTED

/-- A domain forced down: cause 1 thermal, 2 zeroisation. Memory forced down stays down until a reset trains it (R529). -/
def State.forceDown (s : State) (d cause : Nat) : State :=
  if s.domForced d then s.setPwr { s.pwr with cause := sput s.pwr.cause d (max cause (sget s.pwr.cause d 0)) 0 } else
  let s := s.opsLost d
  let s := match s.trans d with
    | some t => t.slot.elim s fun q => s.slotEnd q St.ABORTED [s.stateWord d]
    | none => s
  let s := (((s.setTrans d none).showTrans d false false 0).clearDeep d).setDomState d 3
  let s := (s.setBit (Reg.PWM_D_STATE d) 25).setFld (Reg.PWM_D_STATE d) 29 28 3
  let s := if d < 32 then s.setBit Reg.PWM_FORCED_LO d else s.setBit Reg.PWM_FORCED_HI (d - 32)
  let c := sput s.pwr.cause d cause 0
  let c := if 56 ≤ d && d < 60 then sput c (64 + d) 1 0 else c
  (s.setPwr { s.pwr with cause := c, first := sput s.pwr.first d none none }).raise 883

/-- FORCED_POWER_DOWN: the domains of EMERG_MASK while the emergency stands, or all of them in zeroisation (R571). -/
def execForcedPowerDown (zero : Bool) (s : State) : Out :=
  if zero then
    (if s.fld Reg.CHP_STATE 31 29 = 5 then .next ((List.range 64).foldl (fun s d => s.forceDown d 2) s) else .next s)
  else if s.bit Reg.PWM_THERM_STAT 30 then
    .next ((List.range 64).foldl (fun s d =>
      if s.bit (if d < 32 then Reg.PWM_EMERG_MASK_LO else Reg.PWM_EMERG_MASK_HI) (d % 32) then s.forceDown d 1 else s) s)
  else .next s

/-! ## Windows and clocks (R531, R533) -/

/-- POWER_WINDOW_EXPIRY: the duration of a window is over. -/
def execPowerWindowExpiry (w : Fin 32) (s : State) : Out :=
  match sget s.pwr.wins w none with
  | some (t, b) => if t ≤ s.tbNs b then .next (s.setPwr { s.pwr with wins := sput s.pwr.wins w none none }) else .next s
  | none => .next s

/-- Fence units that a PLL clocks (R532): kinds and numbers as a fault notice names them. -/
def pllUnits (k : Nat) : List (Nat × Nat) :=
  let quires := (List.range 8).map fun q => (0, q)
  match k with
  | 0 => quires
  | 1 => ((List.range 16).map fun f => (1, f)) ++ (List.range 8).map fun i => (2, 40 + i)
  | 2 => quires ++ ((List.range 40).map fun j => (2, j)) ++ ((List.range 10).map fun j => (2, 48 + j)) ++ (List.range 4).map fun e => (3, e)
  | _ => []

/-- PLL_LOSS_OF_LOCK (R533): LOL, EV0884, a fault notice for every fence unit the PLL clocks. -/
def execPllLossOfLock (k : Fin 9) (s : State) : Out :=
  if ! s.bit (Reg.CLK_PLL_STAT k) 31 then .next s else
  let s := ((s.setFld (Reg.CLK_PLL_STAT k) 31 31 0).setBit (Reg.CLK_PLL_STAT k) 30).raise 884
  .next ((pllUnits k).foldl (fun s u => s.notice 10 u.1 u.2 884) s)

end Sys2Proof.Machine
end

