-- ==== Sys2Proof/Machine/Avail.lean ====
section
/-! DEFINITION. Availability, self-test and calibration (rows of chapter 17). -/

namespace Sys2Proof.Machine

def PNC_FAIL : Nat := 0x80
def PNC_DEFERRED : Nat := 0x81
def AVL_NOT_TESTED : Nat := 0x82

def State.setAvl (s : State) (x : AvlState) : State := { s with avl := x }

/-! ## Fault log and return to service (R539 to R542) -/

/-- NIB_WATCHDOG_EXPIRY (R539): the dispatch interrupt has stood for WDOG_US without a NEXT read, halts apart. -/
def execNibWatchdogExpiry (nib : Fin 128) (s : State) : Out :=
  let q := nib.val / 16
  if ! bitOf (sget s.ipend nib.val 0) 0 || s.nibRun nib = 3 || s.nibRun nib = 4 then .next s else
  .next ((s.raise (938 + q)).notice 2 0 q (938 + q))

/-- AVL_QUERY. -/
def execAvlQuery (d : Desc) (s : State) : Out :=
  .next (commandNow 0x80 d (fun s => firstFail [runningCheck s d, only16 d, need (d.n 3 < 64) St.BAD_PARAM]) (fun s =>
    let w := sget s.avl.log (d.n 3) []
    (s, St.OK, (List.range 4).map (fun k => w32 (w.getD k 0)) ++ [s.rd Reg.AVL_FENCED_Q, s.rd Reg.AVL_FENCED_F, s.rd Reg.AVL_FENCED_P_LO,
      s.rd Reg.AVL_FENCED_P_HI])) s)

/-- A unit kind and number of AVL_RETURN as the fences number them: kind 3 is an RA engine, 4 a Chancery engine. -/
def returnUnit (kind unit : Nat) : Option (Nat × Nat) :=
  match kind with
  | 0 => if unit < 8 then some (0, unit) else none
  | 1 => if unit < 16 then some (1, unit) else none
  | 2 => if unit < 56 then some (2, unit) else none
  | 3 => if unit < 2 then some (2, 56 + unit) else none
  | 4 => if unit < 4 then some (3, unit) else none
  | _ => none

/-- Blocks of a fence unit, as CSR block numbers. -/
def unitBlocks (kind unit : Nat) : List Nat :=
  match kind with
  | 0 => (List.range 16).map (0x100 + 16 * unit + ·) ++ [0x70 + unit, 0x400 + unit]
  | 1 => [0x180 + unit]
  | 2 => if unit < 56 then [poolBase unit / 0x10000] else [0x280 + (unit - 56)]
  | _ => [0x408 + unit]

/-- A fenced unit returns to service (R542): block resets, FENCED clear, EV0930. -/
def State.unitReturn (s : State) (kind unit : Nat) : State :=
  let s := (unitBlocks kind unit).foldl State.blockReset s
  let s := s.setOrd { s.ord with fenced := s.ord.fenced.filter (· != (kind, unit)) }
  let s := s.setAvl { s.avl with fencedAt := sdel s.avl.fencedAt (256 * kind + unit) }
  let s := match kind with
    | 0 => ((s.setFld Reg.AVL_FENCED_Q unit unit 0).setFld Reg.ORD_STATUS unit unit 0).setFld (Reg.DUC_STATUS unit) 31 31 0
    | 1 => (s.setFld Reg.AVL_FENCED_F unit unit 0).setFld (Reg.FER_STATUS unit) 31 31 0
    | 2 =>
      let s := if unit < 56 then s.setFld (Reg.POOL_STATUS (poolBase unit)) 31 26 0 else s.setFld (Reg.RAE_STATUS (unit - 56)) 31 31 0
      if unit < 32 then s.setFld Reg.AVL_FENCED_P_LO unit unit 0 else s.setFld Reg.AVL_FENCED_P_HI (unit - 32) (unit - 32) 0
    | _ => (s.setFld (Reg.SCB_STATUS (8 + unit)) 31 31 0).setFld Reg.AVL_FENCED_P_HI (26 + unit) (26 + unit) 0
  s.raise 930

/-- AVL_RETURN: every domain that Pounce tests for the unit has passed since the fence. -/
def execAvlReturn (d : Desc) (s : State) : Out :=
  let u := returnUnit (d.n 3 % 8) (bitsOf (d.n 3) 15 8)
  .next (commandNow 0x81 d (fun s => firstFail [runningCheck s d, only16 d, need u.isSome St.BAD_PARAM,
      need (u.any fun u => s.ord.fenced.contains u) St.WRONG_STATE,
      need (u.any fun u => (pncDomains u.1 u.2).all fun k => match sget s.avl.passed k none with
        | some t => sget s.avl.fencedAt (256 * u.1 + u.2) 0 ≤ t + 1
        | none => false) AVL_NOT_TESTED])
    (fun s => match u with
      | some u => (s.unitReturn u.1 u.2, St.OK, [])
      | none => (s, St.OK, [])) s)

/-! ## Pounce (R545 to R548) -/

/-- Whether Pounce tests a domain in the field. -/
def pncTests (d : Nat) : Bool := d < 24 || (32 ≤ d && d < 48) || d == 61 || d == 62

/-- Longest test of a domain in ns (R545). -/
def pncNs (d : Nat) : Int := if d < 16 then 1800000 else if d < 24 then 1200000 else if d < 46 then 1500000 else 800000

/-- What an exclusion of a domain books (R547): unit kind, unit, capacity, how many of it. -/
def State.pncUnits (s : State) (d : Nat) : List (Nat × Nat × Nat × Nat) :=
  if d < 16 then
    (List.range 16).filterMap fun r =>
      let own := (List.range 16).filter fun n => s.nibRealm (d / 2) n == r
      let half := own.filter fun n => n / 8 == d % 2
      if half.isEmpty then none else some (0, 16 * (d / 2) + r, own.length, half.length)
  else if d < 24 then [(1, 2 * (d - 16), 1, 1), (1, 2 * (d - 16) + 1, 1, 1)]
  else if d = 61 then (List.range 4).map fun e => (3, e, 1, 1)
  else (List.range 58).filterMap fun j => if unitDomain j = d || (d = 47 && j < 56) then some (2, j, 1, 1) else none

/-- The earliest instant at or after t at which an exclusion of length n finds every unit of a domain unbooked. -/
def State.pncStart (s : State) (d : Nat) (n : Int) : Nat → Int → Int
  | 0, t => t
  | f + 1, t =>
    let t' := (s.pncUnits d).foldl (fun m u => max m ((firstFit (s.unitBooks u.1 u.2.1) u.2.2.1 u.2.2.2 t n).getD t)) t
    if t' = t then t else State.pncStart s d n f t'

/-- A test of a domain is requested (R547): its exclusion is booked from S, at least 20 µs ahead. -/
def State.pncRequest (s : State) (d : Nat) (always : Bool) (slot : Option SlotId) : State :=
  let n := pncNs d + 50000
  let lo := s.pncStart d n (s.ord.books.length + 1) ((s.tbNs 0 : Int) + 20000)
  let bs := (s.pncUnits d).map fun u => UBook.mk u.1 u.2.1 u.2.2.2 16 d 0 lo (lo + n)
  let t := PncTest.mk d 0 lo.toNat always slot
  let s := s.setOrd { s.ord with books := s.ord.books ++ bs }
  s.setAvl { s.avl with tests := s.avl.tests ++ [t] }

/-- Whether some kind 5 window is open (R546). -/
def State.pncOpen (s : State) : Bool := s.avl.wins.any fun e => e.2.any (s.tbNs 0 < ·)

/-- Whether every sensor reads below TJ_STOP. -/
def State.pncCool (s : State) : Bool :=
  (List.range 16).all fun i => ! s.bit (Reg.PWM_SENSOR i) 31 ||
    decide (signed 12 (s.fld (Reg.PWM_SENSOR i) 11 0) < ((16 * s.fld Reg.PNC_CFG 15 8 : Nat) : Int))

/-- PNC_RUN: a test at once. A domain that already has a test gives NO_RESOURCE (notes/assumptions/17.md). -/
def execPncRun (d : Desc) (s : State) : Out :=
  let k := d.n 3 % 64
  if bitOf (d.n 4) 1 then .next s else
  .next (command 0x82 d (fun s => firstFail [runningCheck s d, only16 d, need (pncTests k) St.BAD_PARAM,
      need (! s.domForced k) St.ABORTED, need (! s.avl.tests.any (·.dom == k)) St.NO_RESOURCE])
    (fun s => s.pncRequest k (bitOf (d.n 4) 0) (some d.slotId)) s)

/-- PNC_RUN with ABORT (R548): the domain's test is abandoned. -/
def execPncRunAbort (d : Desc) (s : State) : Out :=
  let k := d.n 3 % 64
  if ! bitOf (d.n 4) 1 then .next s else
  .next (commandNow 0x82 d (fun s => firstFail [runningCheck s d, only16 d, need (pncTests k) St.BAD_PARAM])
    (fun s => (s.pncAbandon k St.ABORTED, St.OK, [])) s)

/-- PNC_SCHED: PNC.CFG written whole. -/
def execPncSched (d : Desc) (s : State) : Out :=
  let v := d.n 3
  .next (commandNow 0x83 d (fun s => firstFail [runningCheck s d, only16 d,
      need (bitsOf v 29 24 = 0 && 1 ≤ bitsOf v 23 16 && 60 ≤ bitsOf v 15 8 && bitsOf v 15 8 ≤ 110 && 10 ≤ v % 256) St.BAD_PARAM])
    (fun s => (s.wrN Reg.PNC_CFG v, St.OK, [w32 v])) s)

/-- Time of the last pass of a domain; 0 for none. -/
def State.lastPass (s : State) (d : Nat) : Nat := (sget s.avl.passed d none).getD 0

/-- INTERVAL_H in ns. -/
def State.pncInterval (s : State) : Nat := 10 ^ 9 * (s.fld Reg.PNC_CFG 23 16 * 3600)

/-- POUNCE_SELECT (R546): the due domain with the oldest last pass, the lowest number first. -/
def execPounceSelect (s : State) : Out :=
  let now := s.tbNs 0
  let quires := (s.avl.tests.filter (·.dom < 24)).length
  let groups := s.avl.tests.length - quires
  let due := (List.range 64).filter fun k => pncTests k && ! s.avl.tests.any (·.dom == k) && ! s.domForced k &&
    s.lastPass k + s.pncInterval ≤ now && (if k < 24 then quires < 2 else groups < 2)
  let ready := s.bit Reg.PNC_CFG 31 && s.pncCool && (! s.bit Reg.PNC_CFG 30 || s.pncOpen) &&
    (match s.avl.started with | some t => t + 100000 ≤ now | none => true)
  if ! ready then .next s else
  match due with
  | [] => .next s
  | k :: r =>
    let k := r.foldl (fun m x => if s.lastPass x < s.lastPass m then x else m) k
    .next ((s.pncRequest k false none).setAvl { (s.pncRequest k false none).avl with started := some now })

/-- A test of a domain enters a phase. -/
def State.pncPhase (s : State) (d p t : Nat) : State :=
  s.setAvl { s.avl with tests := s.avl.tests.map fun x => if x.dom = d then { x with phase := p, at_ := t } else x }

/-- POUNCE_EXCLUSION_START (R547): at S the domain's Nibs leave dispatch and its pool units start no further job. No test starts while a
sensor reads TJ_STOP or more, or, with WINMODE 1, outside a window. -/
def execPounceExclusionStart (dom : Fin 64) (s : State) : Out :=
  let d := dom.val
  match s.avl.tests.find? (·.dom == d) with
  | none => .next s
  | some t =>
    if t.phase ≠ 0 || s.tbNs 0 < t.at_ || ! s.pncCool || (s.bit Reg.PNC_CFG 30 && ! t.always && ! s.pncOpen) then .next s else
    let s := s.pncPhase d 1 (s.tbNs 0)
    let s := if d < 32 then s.setBit Reg.PNC_ACTIVE_LO d else s.setBit Reg.PNC_ACTIVE_HI (d - 32)
    .next (if d < 16 then
        let s := (List.range 8).foldl (fun s n => if s.runOn (d / 2) (8 * (d % 2) + n) = 0 then s else s.setIpend (8 * d + n) 0 true) s
        s.dispatch (d / 2)
      else s)

/-- Whether a domain under test is idle (R547 step 3). -/
def State.pncIdle (s : State) (d : Nat) : Bool :=
  if d < 16 then (List.range 8).all fun n => s.runOn (d / 2) (8 * (d % 2) + n) == 0
  else if d < 24 then [2 * (d - 16), 2 * (d - 16) + 1].all fun f => ! s.bit (Reg.FER_LOCK f) 31 && ! s.bit (Reg.FER_LOCK f) 30
  else if d = 61 then s.eng.all fun e => e.1 < 1256 || e.2.isNone
  else (List.range 58).all fun j => ! (unitDomain j == d || (d == 47 && j < 56)) || (sget s.eng j none).isNone

/-- POUNCE_DRAINED (R547): the domain is idle; the patterns run under the PNC vote. -/
def execPounceDrained (dom : Fin 64) (s : State) : Out :=
  if s.avl.tests.any (fun t => t.dom == dom.val && t.phase == 1) && s.pncIdle dom then .next (s.pncPhase dom 2 (s.tbNs 0)) else .next s

/-- POUNCE_DRAIN_TIMEOUT (R547): the drain has taken DRAIN_US; the test is put off. -/
def execPounceDrainTimeout (dom : Fin 64) (s : State) : Out :=
  match s.avl.tests.find? (·.dom == dom.val) with
  | none => .next s
  | some t =>
    if t.phase ≠ 1 || s.tbNs 0 < t.at_ + 1000 * s.fld Reg.PNC_CFG 7 0 then .next s else .next (s.pncAbandon dom PNC_DEFERRED)

/-- Fence units of a domain (R547 step 6). -/
def pncFences (d : Nat) : List (Nat × Nat) :=
  if d < 16 then [(0, d / 2)] else if d < 24 then [(1, 2 * (d - 16)), (1, 2 * (d - 16) + 1)]
  else if d = 61 then (List.range 4).map fun e => (3, e)
  else (List.range 58).filterMap fun j => if unitDomain j = d || (d = 47 && j < 56) then some (2, j) else none

/-- POUNCE_TEST_END (R547): a pass resets the blocks of the domain, pool datapaths without their rings, and their Nib kernels start
again; a failure fences the domain's units. Time of the last pass and coverage are recorded. -/
def execPounceTestEnd (dom : Fin 64) (pass : Bool) (coverage : BitVec 12) (duration : BitVec 16) (s : State) : Out :=
  let d := dom.val
  match s.avl.tests.find? (·.dom == d) with
  | none => .next s
  | some t =>
    if t.phase ≠ 2 || ! s.domUp d then .next s else
    let s := s.pncRelease d
    let s := s.wrN (Reg.PNC_DOM_STAT d) (2 ^ 30 * (if pass then 1 else 2) + 2 ^ 16 * coverage.toNat + duration.toNat)
    let s := if pass then
        let s := (domBlocks d).foldl (fun s b => s.blockResetOf b false) s
        let s := if d < 16 then (List.range 8).foldl (fun s n => s.nibStart (8 * d + n)) s else s
        let s := s.setAvl { s.avl with passed := sput s.avl.passed d (some (s.tbNs 0)) none, overdue := s.avl.overdue.filter (· != d) }
        let s := s.wrN (Reg.PNC_DOM_LAST_SEC d) (s.tbNs 0 / 10 ^ 9)
        (s.bump (Reg.PNC_DOM_PASSES d) 1).raise 931
      else
        let s := (s.bump (Reg.PNC_DOM_FAILS d) 1).raise 932
        (pncFences d).foldl (fun s u => s.notice 12 u.1 u.2 932) s
    let st := if pass then St.OK else PNC_FAIL
    .next (t.slot.elim s fun k => s.slotEnd k st [w32 duration.toNat, w32 st])

/-- POUNCE_WINDOW_CLOSE (R546): LEN_US of a window is over. -/
def execPounceWindowClose (w : Fin 16) (s : State) : Out :=
  match sget s.avl.wins w none with
  | some t => if t ≤ s.tbNs 0 then .next (s.setAvl { s.avl with wins := sput s.avl.wins w none none }) else .next s
  | none => .next s

/-- POUNCE_OVERDUE (R548): twice INTERVAL_H since the last pass; EV0933 once. -/
def execPounceOverdue (dom : Fin 64) (s : State) : Out :=
  if ! pncTests dom || s.avl.overdue.contains dom.val || s.tbNs 0 < s.lastPass dom + 2 * s.pncInterval then .next s else
  .next ((s.setAvl { s.avl with overdue := setIns s.avl.overdue dom }).raise 933)

/-! ## SerDes tests (R551) -/

/-- Whether a MODE signals PAM4 (R441). -/
def pam4 (mode : Nat) : Bool := [3, 4, 5, 7, 8, 9, 10].contains mode

/-- Key of a lane under test: Ethernet lanes, then JESD TX and RX lanes. -/
def laneKey (jesd rx : Bool) (lane : Nat) : Nat := if jesd then 64 + (if rx then 32 else 0) + lane else lane

/-- SERDES_TEST: a lane of a DISABLED port or a DOWN link. -/
def execSerdesTest (d : Desc) (s : State) : Out :=
  let jesd := bitOf (d.n 3) 0
  let lane := bitsOf (d.n 3) 5 1
  let rx := bitOf (d.n 3) 8
  let pat := d.n 4 % 8
  let ports := (List.range 32).filter fun p => p ≤ lane && lane < p + max 1 (s.ethWidth p)
  .next (command 0x84 d (fun s => firstFail [runningCheck s d, only16 d,
      need (pat ≤ 5 && 1 ≤ d.n 5 && d.n 5 ≤ 1000000 && (! jesd || lane < 16) &&
        (pat ≠ 5 || (! jesd && pam4 (s.fld (Reg.ETH_CFG lane) 27 24)))) St.BAD_PARAM,
      need (if jesd then [0, 1].all fun m => s.jesState (lane / 4) rx m = 0 ||
          ! (let c := s.link (lane / 4) rx m; c.lane ≤ lane % 4 && lane % 4 < c.lane + c.l)
        else ports.all fun p => s.ethState p = 0) St.WRONG_STATE,
      need (sget s.avl.serdes (laneKey jesd rx lane) none).isNone St.NO_RESOURCE])
    (fun s => s.setAvl { s.avl with serdes := sput s.avl.serdes (laneKey jesd rx lane) (some d.slotId) none }) s)

/-- SERDES_TEST_END: bits checked and errors; EV0936. -/
def execSerdesTestEnd (jesd rx : Bool) (lane : Fin 32) (bits : W64) (errors : W32) (s : State) : Out :=
  match sget s.avl.serdes (laneKey jesd rx lane) none with
  | none => .next s
  | some k =>
    let s := s.setAvl { s.avl with serdes := sput s.avl.serdes (laneKey jesd rx lane) none none }
    .next ((s.raise 936).slotEnd k St.OK [w32 bits.toNat, w32 (bits.toNat / 2 ^ 32), errors])

/-! ## Calibration (R552, R553) -/

/-- ITEM and INDEX of a command. -/
def dItem (d : Desc) : Nat := d.n 3 % 256
def dIdx (d : Desc) : Nat := bitsOf (d.n 3) 15 8

/-- CAL_SET. -/
def execCalSet (d : Desc) (s : State) : Out :=
  .next (commandNow 0x85 d (fun s => firstFail [runningCheck s d,
      need (calValid (dItem d) (dIdx d) && calUserOk (dItem d) (signed 32 (d.n 4))) St.BAD_PARAM,
      need (d.ring.val = 16 || s.calOwned d.tgt (dItem d) (dIdx d)) St.ACCESS_DENIED, notExpert s 0x640])
    (fun s =>
      let s := s.calSet (dItem d) (dIdx d) (signed 32 (d.n 4))
      (s, St.OK, [w32 (unsigned 32 (calFact (dItem d) (dIdx d))), w32 (unsigned 32 (s.calEff (dItem d) (dIdx d))),
        w32 (b2n (s.calClamped (dItem d) (dIdx d)))])) s)

/-- CAL_QUERY. -/
def execCalQuery (d : Desc) (s : State) : Out :=
  .next (commandNow 0x86 d (fun s => firstFail [stoppedOrRunning s d, only16 d, need (calValid (dItem d) (dIdx d)) St.BAD_PARAM])
    (fun s => (s, St.OK, [w32 (unsigned 32 (calFact (dItem d) (dIdx d))), w32 (unsigned 32 (s.calUser (dItem d) (dIdx d))),
      w32 (unsigned 32 (s.calEff (dItem d) (dIdx d)))])) s)

/-- CAL_USER_WRITE: a write of USER for the item that IDX names; an IDX that names none has no effect. -/
def execCalUserWrite (who : Requester) (value : W32) (s : State) : Out :=
  .next (accessHeld who Reg.CAL_USER (fun s => s.calSet (s.fld Reg.CAL_IDX 7 0) (s.fld Reg.CAL_IDX 15 8) (signed 32 value.toNat)) s)

/-! ## Headroom (R543) -/

/-- The least of some margins with the place of it, the lowest place first. -/
def leastAt : List (Int × Nat) → Option (Int × Nat)
  | [] => none
  | x :: r => match leastAt r with
    | some y => if y.1 < x.1 then some y else some x
    | none => some x

/-- Nib and Ferrule margins of realm r for the fence of each Quire, in the window that runs on TB0 + off. units q answers how many
units of r lie in Quire q with those that stand by for it, and the ns r has booked there. -/
def quireMargins (units : Nat → Nat × Int) (held : Nat → Bool) : Option (Int × Nat) :=
  let qs := (List.range 8).filter held
  leastAt (qs.map fun q =>
    let others := (List.range 8).filter (· ≠ q)
    (others.foldl (fun t o => t + 1000000 * ((units o).1 : Int) - (units o).2) 0 - (units q).2, q))

/-- AVL_HEADROOM: the smallest margins of the current window. A kind of unit in which the realm has nothing has no margin: a free
value (notes/assumptions/18.md). -/
def execAvlHeadroom (d : Desc) (s : State) : Out :=
  let r := d.n 3 % 16
  .next (commandNow 0x87 d (fun s => firstFail [stoppedOrRunning s d, need (d.ring.val = 16 || d.ring.val = r) St.ACCESS_DENIED]) (fun s =>
    let tb := s.defaultTb r
    let off : Int := - s.toTb0 tb
    let w : Int := (s.tbNs tb : Int) / 1000000
    let booked := fun (k u : Nat) (who : Option Nat) => bookedIn (s.unitBooks k u) who off w
    let nibs := fun q => ((((List.range 16).filter fun n => s.nibRealm q n == r).length + bitsOf (s.recNum 1 0xFF 8 4) (4 * q + 3) (4 * q), booked 0 (16 * q + r) none) : Nat × Int)
    let fers := fun q => ((((List.range 2).filter fun f => s.ferRealm q f == r || s.ferRealm q f == 16).length,
      booked 1 (2 * q) (some r) + booked 1 (2 * q + 1) (some r)) : Nat × Int)
    let a := quireMargins nibs fun q => (List.range 16).any fun n => s.nibRealm q n == r
    let b := quireMargins fers fun q => (List.range 2).any fun f => s.ferRealm q f == r
    let pool := fun p =>
      let mine := (List.range (poolCount p)).filter fun i => s.share r p i ≠ 0
      leastAt (mine.map fun i =>
        let adopter := mine.find? fun k => k ≠ i && ! s.ord.fenced.contains (2, serialOf p k)
        let room := match adopter with
          | some k => (1000000 : Int) - booked 2 (serialOf p k) none
          | none => 0
        (room - booked 2 (serialOf p i) (some r), i))
    let put := fun (x : State × List W32) (m : Option (Int × Nat)) (place : Bool) => match m with
      | some m => (x.1, x.2 ++ [w32 (unsigned 32 m.1)] ++ (if place then [w32 m.2] else []))
      | none =>
        let f := x.1.free1 (2 ^ 32)
        let g := f.2.free1 8
        (if place then g.2 else f.2, x.2 ++ [w32 f.1] ++ (if place then [w32 g.1] else []))
    let x := put (put (s, []) a true) b true
    let x := (List.range 7).foldl (fun x p => put x (pool p) false) x
    (x.1, St.OK, x.2)) s)

end Sys2Proof.Machine
end

