-- ==== Sys2Proof/Machine/Chop.lean ====
section
/-! DEFINITION. The Chop (R559 to R571): roles and sessions, key slots, counters, services, self-tests, tamper and zeroisation. -/

namespace Sys2Proof.Machine

/-! ## Status codes of R590 -/

namespace ChpSt
def NOT_AUTH : Nat := 0x80
def ERROR_STATE : Nat := 0x81
def KEY_EMPTY : Nat := 0x82
def ARB_MAX : Nat := 0x83
def CHECK_FAIL : Nat := 0x84
end ChpSt

/-! ## State, roles and sessions -/

/-- The Chop's state replaced. -/
def State.setChp (s : State) (c : ChpState) : State := { s with chp := c }

/-- Module state of R569: 0 POWER_ON, 1 SELF_TEST, 2 OPERATIONAL, 3 SOFT_ERROR, 4 HARD_ERROR, 5 ZEROISING, 6 ZEROISED. -/
def State.chpMode (s : State) : Nat := s.fld Reg.CHP_STATE 31 29

def State.setChpMode (s : State) (m : Nat) : State := s.setFld Reg.CHP_STATE 31 29 m

/-- Holder of a Crypto Officer session that a command's ring is bound to: CMD[16], or the NSP session. -/
def coHolder (d : Desc) : Nat := if nspSlot d.slotId then 17 else 16

/-- Whether a command holds the Crypto Officer role (R561). -/
def State.holdsCo (s : State) (d : Desc) : Bool := d.ring.val = 16 && s.chp.co.contains (coHolder d)

/-- Whether a command holds the User role of its ring's realm. -/
def State.holdsUser (s : State) (d : Desc) : Bool := d.ring.val < 16 && s.bit Reg.CHP_STATE d.ring

/-- A session of holder w opens: a User's for w below 16. -/
def State.chpOpen (s : State) (w : Nat) : State :=
  if w < 16 then s.setBit Reg.CHP_STATE w else (s.setChp { s.chp with co := setIns s.chp.co w }).setBit Reg.CHP_STATE 23

/-- The session of holder w ends (R562), if it is open. -/
def State.chpEnd (s : State) (w : Nat) : State :=
  if w < 16 then s.setFld Reg.CHP_STATE w w 0 else
  let co := s.chp.co.filter (· ≠ w)
  (s.setChp { s.chp with co := co }).setFld Reg.CHP_STATE 23 23 (b2n (! co.isEmpty))

/-- The NSP session ends, and with it the Crypto Officer session bound to it; EV0993 (R588, R591). -/
def State.nspEnd (s : State) : State :=
  if s.nsp.open_ then
    ((({ s with nsp := { s.nsp with hello := none, open_ := false, cmdSeq := none } }).chpEnd 17).setFld Reg.SVC_STATUS 30 30 0).raise 993
  else { s with nsp := { s.nsp with hello := none } }

/-- Role of an authentication: 0 to 15 the User of that realm, 16 the Crypto Officer. -/
def authRole (d : Desc) : Nat := if bitOf (d.n 3) 8 then d.ring.val else 16

/-- Nanoseconds of a role's lockout that are left (R562); 0 when it is not locked out. -/
def State.lockLeft (s : State) (role : Nat) : Nat :=
  match sget s.chp.lock role none with
  | some t => t - s.chp.clk
  | none => 0

/-- An authentication of a role fails: EV0993; the tenth failure in a row locks the role out for 60 s of CD97. -/
def State.authFail (s : State) (role : Nat) : State :=
  let n := sget s.chp.fails role 0 + 1
  let s := if 10 ≤ n then
      s.setChp { s.chp with fails := sput s.chp.fails role 0 0, lock := sput s.chp.lock role (some (s.chp.clk + 60 * 10 ^ 9)) none }
    else s.setChp { s.chp with fails := sput s.chp.fails role n 0 }
  s.raise 993

/-- A SECURITY_DOMAIN field of realm r (R50). -/
def State.secDom (s : State) (r o n : Nat) : Nat := s.recNum 0x17 r o n

/-- Realms whose credential lies in key slot k (R561). -/
def State.credentialSlot (s : State) (k : Nat) : Bool :=
  (List.range 16).any fun r => s.secDom r 9 1 ≠ 0 && s.secDom r 8 1 == k

/-- Whether a command's role reaches key slot k for an operation of CHP_KEY: device slots and the slots of role credentials for the
Crypto Officer, the realm's slots for its User. -/
def State.slotCheck (s : State) (d : Desc) (k : Nat) : Nat × Nat :=
  if s.holdsCo d then need (k < 32 || s.credentialSlot k) St.ACCESS_DENIED
  else if s.holdsUser d then need (s.secDom d.ring 8 1 ≤ k && k < s.secDom d.ring 8 1 + s.secDom d.ring 9 1) St.ACCESS_DENIED
  else (ChpSt.NOT_AUTH, 0)

/-- Whether a command's role reaches counter c. -/
def State.counterCheck (s : State) (d : Desc) (c : Nat) : Nat × Nat :=
  if s.holdsCo d then need (c < 8) St.ACCESS_DENIED
  else if s.holdsUser d then need (s.secDom d.ring 0xA 1 ≤ c && c < s.secDom d.ring 0xA 1 + s.secDom d.ring 0xB 1) St.ACCESS_DENIED
  else (ChpSt.NOT_AUTH, 0)

/-- Every service but the query needs the module OPERATIONAL. -/
def State.chpUp (s : State) : Nat × Nat := need (s.chpMode == 2) ChpSt.ERROR_STATE

/-! ## Buffers (R589: checked per R423) -/

/-- Whether a command may name n bytes at a global address. -/
def State.bufCheck (s : State) (d : Desc) (g n : Nat) : Nat × Nat := need (n = 0 || s.scribeOk d.ring g n) St.ACCESS_DENIED

/-- Bytes of a buffer; those of a peer are free values. -/
def State.bufRead (s : State) (g n : Nat) : List Byte × State :=
  match s.localOf g with
  | some a => (s.bytes a n, s)
  | none => s.freeBytes n

/-- A buffer written; bytes sent to a peer leave the device. -/
def State.bufWrite (s : State) (g : Nat) (bs : List Byte) : State :=
  match s.localOf g with
  | some a => (s.setBytes a bs).unpoison a bs.length
  | none => s

/-- The status that marks in a source give a service (R380, R528): OK for none. -/
def State.bufMark (s : State) (g n : Nat) : Nat := (s.readable g n).2

/-! ## Key slots (R563, R564) -/

/-- Key slot k. -/
def State.keySlot (s : State) (k : Nat) : KeySlot := (sget s.chp.keys k none).getD { typ := 0, pub := [], sec := [] }

/-- Key slot k set; none empties it. -/
def State.setKey (s : State) (k : Nat) (v : Option KeySlot) : State := s.setChp { s.chp with keys := sput s.chp.keys k v none }

/-- Bytes of the public part of a key type: an uncompressed P-384 point, an ML-DSA-87 public key, both for a credential. -/
def pubLen (t : Nat) : Nat :=
  match t with
  | 3 => 97
  | 4 => 2592
  | 5 => 97
  | 6 => 2689
  | _ => 0

/-- Bytes of the secret part of a key type. -/
def secLen (t : Nat) : Nat :=
  match t with
  | 1 => 32
  | 2 => 48
  | 3 => 48
  | 4 => 4896
  | 5 => 48
  | _ => 0

/-- A secret part as it leaves and enters under AES-256-KW: eight bytes longer. -/
def wrappedLen (t : Nat) : Nat := if secLen t = 0 then 0 else secLen t + 8

/-- A conditional self-test fails (R569): SOFT_ERROR, EV0977. -/
def State.softError (s : State) : State :=
  if s.chpMode = 2 then (s.setChpMode 3).raise 977 else s

/-! ## Services. Each answers the state, the final status and the result words -/

def kSlot (d : Desc) : Nat := bitsOf (d.n 3) 15 8
def kType (d : Desc) : Nat := bitsOf (d.n 3) 18 16
def kWrap (d : Desc) : Nat := bitsOf (d.n 3) 31 24
def kBuf (d : Desc) : Nat := cat64 (d.word 4) (d.word 5)
def kLen (d : Desc) : Nat := d.n 6

/-- An advance of counter c to v (R565). -/
def State.advance (s : State) (c v : Nat) : State × Nat :=
  let cur := s.rdN (Reg.CHP_ARB c)
  let n := sget s.chp.adv c 0
  if v = cur then (s, St.OK)
  else if v < cur then (s, St.BAD_PARAM)
  else if 4096 ≤ n then (s, ChpSt.ARB_MAX)
  else ((s.setChp { s.chp with adv := sput s.chp.adv c (n + 1) 0 }).wrN (Reg.CHP_ARB c) v, St.OK)

def svcReadCounter (d : Desc) (s : State) : State × Nat × List W32 :=
  (s, St.OK, [s.rd Reg.CHP_STATE, s.rd Reg.CHP_TAMPER, s.rd (Reg.CHP_ARB (bitsOf (d.n 3) 13 8))])

def svcAdvance (d : Desc) (s : State) : State × Nat × List W32 :=
  let c := bitsOf (d.n 3) 13 8
  let r := s.advance c (d.n 4)
  (r.1, r.2, [r.1.rd Reg.CHP_STATE, r.1.rd Reg.CHP_TAMPER, r.1.rd (Reg.CHP_ARB c)])

/-- Result of a role that is locked out: seconds left, rounded up. -/
def State.lockedOut (s : State) (role : Nat) : State × Nat × List W32 :=
  (s, ChpSt.NOT_AUTH, [w32 ((s.lockLeft role + 10 ^ 9 - 1) / 10 ^ 9)])

def svcChallenge (d : Desc) (s : State) : State × Nat × List W32 :=
  let role := authRole d
  if s.lockLeft role ≠ 0 then s.lockedOut role else
  let r := s.freeBytes 48
  let s := r.2.setChp { r.2.chp with nonce := sput r.2.chp.nonce role r.1 [] }
  (s, St.OK, (List.range 12).map fun k => w32 (numB r.1 (4 * k) 4))

/-- Both signatures over the nonce of a role verify (R562): under the credential in slot KEY_FIRST for a User, under the credential whose
hash is in OTP for the Crypto Officer. -/
def State.authOk (s : State) (role : Nat) (nonce sigs : List Byte) : Bool :=
  let cred := s.keySlot (s.secDom role 8 1)
  nonce ≠ [] &&
    (if role < 16 then s.secDom role 9 1 ≠ 0 && cred.typ == 6 && Config.cryptOk 0 [cred.pub, nonce, sigs] else Config.cryptOk 1 [nonce, sigs])

def svcRespond (d : Desc) (s : State) : State × Nat × List W32 :=
  let role := authRole d
  if s.lockLeft role ≠ 0 then s.lockedOut role else
  let r := s.bufRead (kBuf d) 4728
  let s := r.2
  let nonce := sget s.chp.nonce role []
  let s := s.setChp { s.chp with nonce := sput s.chp.nonce role [] [] }
  if s.authOk role nonce r.1 then
    let s := s.setChp { s.chp with fails := sput s.chp.fails role 0 0 }
    (s.chpOpen (if role < 16 then role else coHolder d), St.OK, [])
  else (s.authFail role, ChpSt.NOT_AUTH, [])

def svcLogout (d : Desc) (s : State) : State × Nat × List W32 :=
  let w := if bitOf (d.n 3) 8 then d.ring.val else coHolder d
  (s.chpEnd w, St.OK, [])

def svcGenerate (d : Desc) (s : State) : State × Nat × List W32 :=
  let t := kType d
  let p := s.freeBytes (pubLen t)
  let q := p.2.freeBytes (secLen t)
  let s := q.2
  if 3 ≤ t && ! Config.cryptOk 2 [p.1, q.1] then (s.softError, ChpSt.ERROR_STATE, [])
  else (s.setKey (kSlot d) (some { typ := t, pub := p.1, sec := q.1 }), St.OK, [w32 t, 0])

/-- A plaintext public part, then, unless only that much is given, the secret part under AES-256-KW. -/
def svcImport (d : Desc) (s : State) : State × Nat × List W32 :=
  let t := kType d
  let m := s.bufMark (kBuf d) (kLen d)
  let w := s.keySlot (kWrap d)
  let r := s.bufRead (kBuf d) (kLen d)
  let pub := cutB r.1 0 (pubLen t)
  let wrapped := r.1.drop (pubLen t)
  if m ≠ St.OK then (s, m, [])
  else if wrapped = [] then (r.2.setKey (kSlot d) (some { typ := t, pub := pub, sec := [] }), St.OK, [w32 t, 0])
  else if w.typ ≠ 1 then (s, ChpSt.KEY_EMPTY, [])
  else if ! Config.cryptOk 3 [w.sec, wrapped] then (r.2, St.BAD_PARAM, [])
  else (r.2.setKey (kSlot d) (some { typ := t, pub := pub, sec := cryptOut 3 [w.sec, wrapped] (secLen t) }), St.OK, [w32 t, 0])

def svcExport (d : Desc) (s : State) : State × Nat × List W32 :=
  let k := s.keySlot (kSlot d)
  let w := s.keySlot (kWrap d)
  let n := pubLen k.typ + (if k.sec = [] then 0 else wrappedLen k.typ)
  if k.typ = 0 then (s, ChpSt.KEY_EMPTY, [])
  else if k.sec ≠ [] && w.typ ≠ 1 then (s, ChpSt.KEY_EMPTY, [])
  else if kLen d < n then (s, St.BAD_PARAM, [])
  else
    let out := k.pub ++ (if k.sec = [] then [] else cryptOut 6 [w.sec, k.sec] (wrappedLen k.typ))
    (s.bufWrite (kBuf d) out, St.OK, [w32 k.typ, w32 n])

def svcDelete (d : Desc) (s : State) : State × Nat × List W32 :=
  let k := s.keySlot (kSlot d)
  if k.typ = 0 then (s, ChpSt.KEY_EMPTY, []) else (s.setKey (kSlot d) none, St.OK, [w32 k.typ, 0])

def svcKeyQuery (d : Desc) (s : State) : State × Nat × List W32 := (s, St.OK, [w32 (s.keySlot (kSlot d)).typ, 0])

/-! ### CHP_CRYPT -/

def cIn (d : Desc) : Nat := cat64 (d.word 4) (d.word 5)
def cInLen (d : Desc) : Nat := d.n 6
def cOut (d : Desc) : Nat := cat64 (d.word 7) (d.word 8)
def cOutLen (d : Desc) : Nat := d.n 9
def cAux (d : Desc) : Nat := cat64 (d.word 10) (d.word 11)
def cAuxLen (d : Desc) : Nat := d.n 12
def cSecond (d : Desc) : Nat := bitsOf (d.n 3) 23 16

/-- A CHP_CRYPT operation: its input and auxiliary data read, its key of one of the types named, its output written only with OK. f is
given the key, the input, the auxiliary data and the state, and answers state, status and output. -/
def cryptOp (types : List Nat) (f : KeySlot → List Byte → List Byte → State → State × Nat × List Byte) (d : Desc) (s : State) :
    State × Nat × List W32 :=
  let m := s.bufMark (cIn d) (cInLen d)
  let m' := s.bufMark (cAux d) (cAuxLen d)
  let k := s.keySlot (kSlot d)
  if types ≠ [] && ! types.contains k.typ then (s, ChpSt.KEY_EMPTY, [])
  else if cInLen d ≠ 0 && m ≠ St.OK then (s, m, [])
  else if cAuxLen d ≠ 0 && m' ≠ St.OK then (s, m', [])
  else
    let i := s.bufRead (cIn d) (cInLen d)
    let x := i.2.bufRead (cAux d) (cAuxLen d)
    let r := f k i.1 x.1 x.2
    if r.2.1 ≠ St.OK then (r.1, r.2.1, [])
    else if cOutLen d < r.2.2.length then (s, St.BAD_PARAM, [])
    else (r.1.bufWrite (cOut d) r.2.2, St.OK, [w32 r.2.2.length])

/-- AES-256-GCM: the ciphertext and its 16-byte tag; the auxiliary data are the nonce and the additional data. -/
def svcEncrypt := cryptOp [1] fun k i x s => (s, St.OK, cryptOut 10 [k.sec, x, i] (i.length + 16))

def svcDecrypt := cryptOp [1] fun k i x s =>
  if 16 ≤ i.length && Config.cryptOk 10 [k.sec, x, i] then (s, St.OK, cryptOut 11 [k.sec, x, i] (i.length - 16)) else (s, ChpSt.CHECK_FAIL, [])

/-- SHA-384, or SHA3-512 when the output is 64 bytes. -/
def svcHash (d : Desc) (s : State) : State × Nat × List W32 :=
  cryptOp [] (fun _ i _ s => (s, St.OK, if cOutLen d = 64 then cryptOut 12 [i] 64 else Config.sha384 i)) d s

def svcHmac := cryptOp [2] fun k i _ s => (s, St.OK, cryptOut 13 [k.sec, i] 48)

def svcSign := cryptOp [3, 4] fun k i _ s => (s, St.OK, cryptOut 14 [leBytes 1 k.typ, k.sec, i] (if k.typ = 3 then 96 else 4627))

def svcVerify := cryptOp [3, 4] fun k i x s =>
  if Config.cryptOk 14 [leBytes 1 k.typ, k.pub, i, x] then (s, St.OK, []) else (s, ChpSt.CHECK_FAIL, [])

def svcRandom (d : Desc) (s : State) : State × Nat × List W32 :=
  let r := s.freeBytes (cOutLen d)
  (r.2.bufWrite (cOut d) r.1, St.OK, [w32 (cOutLen d)])

/-- SP 800-108: an AES-256 key derived into the second slot. -/
def svcKdf (d : Desc) (s : State) : State × Nat × List W32 :=
  cryptOp [2] (fun k i _ s => (s.setKey (cSecond d) (some { typ := 1, pub := [], sec := cryptOut 15 [k.sec, i] 32 }), St.OK, [])) d s

/-- ECDH: the shared secret, as an HMAC key for the derivation, into the second slot. -/
def svcEcdh (d : Desc) (s : State) : State × Nat × List W32 :=
  cryptOp [5] (fun k i _ s => (s.setKey (cSecond d) (some { typ := 2, pub := [], sec := cryptOut 16 [k.sec, i] 48 }), St.OK, [])) d s

/-! ### Attestation (R566, R567) -/

/-- IMAGE_HASH of component k as CHP.MEAS holds it. -/
def State.measBytes (s : State) (k : Nat) : List Byte := (List.range 12).flatMap fun w => leBytes 4 (s.rdN (Reg.CHP_MEAS_W k w))

/-- What fixes an attestation identity: the measurements of CHOP and CTRL, and for a realm its number and REALM_SERIAL. -/
def State.identity (s : State) (r : Nat) : List (List Byte) :=
  [unitBytes, s.measBytes 4, s.measBytes 0, leBytes 1 r, if r < 16 then leBytes 4 (s.rdN (Reg.VLM_REALM_SERIAL r)) else []]

/-- Realm of an attestation: 255 for the device's key. -/
def attRealm (d : Desc) : Nat := if bitOf (d.n 3) 1 then d.tgt else 255

/-- Bytes 0x000 to 0x1BF of a report. -/
def State.reportBody (s : State) (r : Nat) (nonce : List Byte) : List Byte :=
  leBytes 4 0x52545441 ++ leBytes 2 0x0100 ++ leBytes 2 5176 ++ unitBytes ++ leBytes 1 s.chpMode ++ leBytes 1 r ++ zeros 2
    ++ leBytes 4 (s.rdN Reg.VLM_ACTIVE_SERIAL) ++ (if r < 16 then leBytes 4 (s.rdN (Reg.VLM_REALM_SERIAL r)) else zeros 4) ++ zeros 4 ++ nonce
    ++ ((List.range 6).flatMap s.measBytes) ++ ((List.range 6).flatMap fun c => leBytes 4 (s.dirEntry c).2.1)
    ++ ((List.range 6).flatMap fun c => leBytes 4 (s.rdN (Reg.CHP_ARB c))) ++ ((ts80 (s.tbNs 0) 0).flatMap fun w => leBytes 4 w.toNat) ++ zeros 4

def svcReport (d : Desc) (s : State) : State × Nat × List W32 :=
  let r := attRealm d
  let n := cat64 (d.word 7) (d.word 8)
  let m := s.bufMark n 64
  if m ≠ St.OK then (s, m, []) else
  let x := s.bufRead n 64
  let s := x.2
  let body := s.reportBody r x.1
  let id := s.identity r
  (s.bufWrite (kBuf d) (body ++ cryptOut 20 (id ++ [body]) 96 ++ cryptOut 21 (id ++ [body]) 4627 ++ zeros 5), St.OK, [w32 5176])

def chainKind (d : Desc) : Nat := bitsOf (d.n 3) 8 8

def svcChain (d : Desc) (s : State) : State × Nat × List W32 :=
  let r := attRealm d
  let n := Config.chainLen (chainKind d) r
  (s.bufWrite (kBuf d) (cryptOut (22 + chainKind d) (s.identity r) n), St.OK, [w32 n])

/-! ## Zeroisation (R570, R571) -/

/-- Zeroisation begins with a cause bit of TAMPER: sessions end, EV0978, PD00 to PD63 forced down; services in progress end. -/
def State.zeroise (s : State) (cause : Nat) : State :=
  let s := s.setBit Reg.CHP_TAMPER cause
  if s.chpMode = 5 || s.chpMode = 6 then s else
  let s := (s.setChpMode 5).nspEnd
  let s := (List.range 19).foldl (fun s w => s.chpEnd w) s
  let s := s.chp.waiting.foldl (fun s x => s.slotEnd x.2.slotId ChpSt.ERROR_STATE []) s
  let s := s.chp.slot.elim s fun k => s.slotEnd k ChpSt.ERROR_STATE []
  let s := (s.setChp { s.chp with nonce := [], waiting := [], slot := none, testing := false }).raise 978
  (List.range 64).foldl (fun s p => s.forceDown p 2) s

/-- The slot result is written before the rest. -/
def svcZeroise (d : Desc) (s : State) : State := (s.slotEnd d.slotId St.OK []).zeroise 0

/-! ## Services that wait for a self-test run (R568) -/

/-- A requested self-test run begins. -/
def svcSelfTest (d : Desc) (s : State) : State := s.setChp { s.chp with testing := true, slot := some d.slotId }

/-- A service done at once ends its slot with its status and words. -/
def svcEnds (f : Desc → State → State × Nat × List W32) (d : Desc) (s : State) : State :=
  let r := f d s
  r.1.slotEnd d.slotId r.2.1 r.2.2

/-- What each service does (R589). -/
def chpServe (k : ChpSvc) (d : Desc) (s : State) : State :=
  match k with
  | .selfTest => svcSelfTest d s
  | .readCounter => svcEnds svcReadCounter d s
  | .advance => svcEnds svcAdvance d s
  | .challenge => svcEnds svcChallenge d s
  | .respond => svcEnds svcRespond d s
  | .logout => svcEnds svcLogout d s
  | .generate => svcEnds svcGenerate d s
  | .importKey => svcEnds svcImport d s
  | .exportKey => svcEnds svcExport d s
  | .deleteKey => svcEnds svcDelete d s
  | .keyQuery => svcEnds svcKeyQuery d s
  | .encrypt => svcEnds svcEncrypt d s
  | .decrypt => svcEnds svcDecrypt d s
  | .hash => svcEnds svcHash d s
  | .hmac => svcEnds svcHmac d s
  | .sign => svcEnds svcSign d s
  | .verify => svcEnds svcVerify d s
  | .random => svcEnds svcRandom d s
  | .kdf => svcEnds svcKdf d s
  | .ecdh => svcEnds svcEcdh d s
  | .report => svcEnds svcReport d s
  | .chain => svcEnds svcChain d s
  | .zeroise => svcZeroise d s

/-- A service that is accepted: done at once, or, while a self-test run is in progress, when that ends. -/
def State.serve (s : State) (k : ChpSvc) (d : Desc) : State :=
  if s.chp.testing then s.setChp { s.chp with waiting := s.chp.waiting ++ [(k, d)] } else chpServe k d s

/-- The services that waited, in order; in a module no longer OPERATIONAL they end with CHP_ERROR_STATE. One that starts another run
leaves those behind it waiting. -/
def serveWaiting : List (ChpSvc × Desc) → State → State
  | [], s => s
  | x :: r, s =>
    let s := if s.chp.testing then s.setChp { s.chp with waiting := s.chp.waiting ++ [x] }
      else if s.chpMode = 2 || (x.1 == .selfTest && s.chpMode = 3) then chpServe x.1 x.2 s else s.slotEnd x.2.slotId ChpSt.ERROR_STATE []
    serveWaiting r s

/-- One command of the Chop: its row acts when the kind is its own; checks, then the service. -/
def chpRow (k : ChpSvc) (op : Nat) (mine : Bool) (chk : State → Nat × Nat) (d : Desc) (s : State) : Out :=
  if mine then .next (command op d (fun s => firstFail [stoppedOrRunning s d, chk s]) (fun s => s.serve k d) s) else .next s

/-! ## CHP_STATE, CHP_AUTH -/

/-- CHP_STATE query: in every state of the module, for every requester. -/
def execChpStateQuery (d : Desc) (s : State) : Out :=
  if d.n 3 % 4 ≠ 0 then .next s else
  .next (commandNow 0x88 d (fun s => stoppedOrRunning s d) (fun s => (s, St.OK, [s.rd Reg.CHP_STATE, s.rd Reg.CHP_TAMPER])) s)

/-- CHP_STATE self-test run: for either role; the one service that SOFT_ERROR accepts, since R569 leaves it by such a run. -/
def execChpStateSelfTest (d : Desc) (s : State) : Out :=
  chpRow .selfTest 0x88 (d.n 3 % 4 == 1) (fun s => firstFail [need (s.chpMode == 2 || s.chpMode == 3) ChpSt.ERROR_STATE,
    need (s.holdsCo d || s.holdsUser d) ChpSt.NOT_AUTH]) d s

def execChpStateReadCounter (d : Desc) (s : State) : Out :=
  chpRow .readCounter 0x88 (d.n 3 % 4 == 2) (fun s => firstFail [s.chpUp, s.counterCheck d (bitsOf (d.n 3) 13 8)]) d s

def execChpStateAdvanceCounter (d : Desc) (s : State) : Out :=
  chpRow .advance 0x88 (d.n 3 % 4 == 3) (fun s => firstFail [s.chpUp, s.counterCheck d (bitsOf (d.n 3) 13 8)]) d s

/-- The role a command names is that of its ring (R561): the User's on CMD[r], the Crypto Officer's on CMD[16] or NSP. -/
def roleRing (d : Desc) : Nat × Nat := need (bitOf (d.n 3) 8 == decide (d.ring.val < 16)) ChpSt.NOT_AUTH

/-- CHP_AUTH challenge; the row also answers BAD_PARAM to the kind 3 that is not assigned. -/
def execChpAuthChallenge (d : Desc) (s : State) : Out :=
  chpRow .challenge 0x89 (d.n 3 % 4 == 0 || d.n 3 % 4 == 3) (fun s => firstFail [s.chpUp, need (d.n 3 % 4 == 0) St.BAD_PARAM, roleRing d]) d s

def execChpAuthRespond (d : Desc) (s : State) : Out :=
  chpRow .respond 0x89 (d.n 3 % 4 == 1) (fun s => firstFail [s.chpUp, roleRing d, s.bufCheck d (kBuf d) 4728]) d s

def execChpAuthLogout (d : Desc) (s : State) : Out :=
  chpRow .logout 0x89 (d.n 3 % 4 == 2) (fun s => firstFail [s.chpUp, roleRing d, need (s.holdsCo d || s.holdsUser d) ChpSt.NOT_AUTH]) d s

/-- AUTH_LOCKOUT_EXPIRY: the 60 s of a role's lockout are over. -/
def execAuthLockoutExpiry (role : Fin 17) (s : State) : Out :=
  match sget s.chp.lock role none with
  | some t => if t ≤ s.chp.clk then .next (s.setChp { s.chp with lock := sput s.chp.lock role none none }) else .next s
  | none => .next s

/-! ## CHP_KEY -/

/-- CHP_KEY generate, of types 1 to 5; the row also answers BAD_PARAM to the kinds 5 to 7 that are not assigned. -/
def execChpKeyGenerate (d : Desc) (s : State) : Out :=
  let k := d.n 3 % 8
  chpRow .generate 0x8A (k == 0 || 5 ≤ k) (fun s => firstFail [s.chpUp, need (k == 0) St.BAD_PARAM, s.slotCheck d (kSlot d),
    need (1 ≤ kType d && kType d ≤ 5 && (kSlot d < 32 || s.holdsUser d)) St.BAD_PARAM]) d s

/-- Lengths that an import of a type may have. -/
def importLenOk (t n : Nat) : Bool := (pubLen t ≠ 0 && n == pubLen t) || (secLen t ≠ 0 && n == pubLen t + wrappedLen t)

def execChpKeyImport (d : Desc) (s : State) : Out :=
  let t := kType d
  chpRow .importKey 0x8A (d.n 3 % 8 == 1) (fun s => firstFail [s.chpUp, s.slotCheck d (kSlot d),
    need (1 ≤ t && t ≤ 6 && importLenOk t (kLen d) && (t == 6 || kSlot d < 32 || s.holdsUser d)) St.BAD_PARAM,
    if kLen d == pubLen t then (St.OK, 0) else s.slotCheck d (kWrap d), s.bufCheck d (kBuf d) (kLen d)]) d s

def execChpKeyExport (d : Desc) (s : State) : Out :=
  chpRow .exportKey 0x8A (d.n 3 % 8 == 2) (fun s => firstFail [s.chpUp, s.slotCheck d (kSlot d),
    if secLen (s.keySlot (kSlot d)).typ = 0 then (St.OK, 0) else s.slotCheck d (kWrap d), s.bufCheck d (kBuf d) (kLen d)]) d s

def execChpKeyDelete (d : Desc) (s : State) : Out :=
  chpRow .deleteKey 0x8A (d.n 3 % 8 == 3) (fun s => firstFail [s.chpUp, s.slotCheck d (kSlot d)]) d s

def execChpKeyQuery (d : Desc) (s : State) : Out :=
  chpRow .keyQuery 0x8A (d.n 3 % 8 == 4) (fun s => firstFail [s.chpUp, s.slotCheck d (kSlot d)]) d s

/-! ## CHP_CRYPT -/

/-- Checks of CHP_CRYPT: the User role unless the service is for all, the key slots, the buffers of R423. -/
def cryptCheck (s : State) (d : Desc) (role keyed second : Bool) : Nat × Nat :=
  firstFail [s.chpUp, need (! role || s.holdsUser d) ChpSt.NOT_AUTH, if keyed then s.slotCheck d (kSlot d) else (St.OK, 0),
    if second then s.slotCheck d (cSecond d) else (St.OK, 0), s.bufCheck d (cIn d) (cInLen d), s.bufCheck d (cOut d) (cOutLen d),
    s.bufCheck d (cAux d) (cAuxLen d)]

/-- CHP_CRYPT GCM encrypt; the row also answers BAD_PARAM to the kinds 9 to 15 that are not assigned. -/
def execChpCryptGcmEncrypt (d : Desc) (s : State) : Out :=
  let k := d.n 3 % 16
  chpRow .encrypt 0x8B (k == 0 || 9 ≤ k) (fun s => firstFail [need (k == 0) St.BAD_PARAM, cryptCheck s d true true false]) d s
def execChpCryptGcmDecrypt (d : Desc) (s : State) : Out :=
  chpRow .decrypt 0x8B (d.n 3 % 16 == 1) (fun s => cryptCheck s d true true false) d s
def execChpCryptHash (d : Desc) (s : State) : Out :=
  chpRow .hash 0x8B (d.n 3 % 16 == 2) (fun s => cryptCheck s d false false false) d s
def execChpCryptHmac (d : Desc) (s : State) : Out :=
  chpRow .hmac 0x8B (d.n 3 % 16 == 3) (fun s => cryptCheck s d true true false) d s
def execChpCryptSign (d : Desc) (s : State) : Out :=
  chpRow .sign 0x8B (d.n 3 % 16 == 4) (fun s => cryptCheck s d true true false) d s
def execChpCryptVerify (d : Desc) (s : State) : Out :=
  chpRow .verify 0x8B (d.n 3 % 16 == 5) (fun s => cryptCheck s d true true false) d s
def execChpCryptRandom (d : Desc) (s : State) : Out :=
  chpRow .random 0x8B (d.n 3 % 16 == 6) (fun s => cryptCheck s d false false false) d s
def execChpCryptKdf (d : Desc) (s : State) : Out :=
  chpRow .kdf 0x8B (d.n 3 % 16 == 7) (fun s => cryptCheck s d true true true) d s
def execChpCryptEcdh (d : Desc) (s : State) : Out :=
  chpRow .ecdh 0x8B (d.n 3 % 16 == 8) (fun s => cryptCheck s d true true true) d s

/-! ## CHP_ATTEST, CHP_ZEROISE -/

/-- Checks of CHP_ATTEST: for the realm's keys a realm with SFLAGS.ATTEST and its User's role. -/
def attestCheck (s : State) (d : Desc) (n : Nat) : Nat × Nat :=
  firstFail [s.chpUp, need (! bitOf (d.n 3) 1 || (d.tgt < 16 && bitOf (s.secDom d.tgt 0xC 4) 0)) St.ACCESS_DENIED,
    need (! bitOf (d.n 3) 1 || s.holdsUser d) ChpSt.NOT_AUTH, need (n ≤ kLen d) St.BAD_PARAM, s.bufCheck d (kBuf d) n]

def execChpAttestReport (d : Desc) (s : State) : Out :=
  chpRow .report 0x8C (d.n 3 % 2 == 0) (fun s => firstFail [attestCheck s d 5176, s.bufCheck d (cat64 (d.word 7) (d.word 8)) 64]) d s

def execChpAttestChain (d : Desc) (s : State) : Out :=
  chpRow .chain 0x8C (d.n 3 % 2 == 1) (fun s => attestCheck s d (Config.chainLen (chainKind d) (attRealm d))) d s

def execChpZeroise (d : Desc) (s : State) : Out :=
  chpRow .zeroise 0x8D true (fun s => firstFail [s.chpUp, need (s.holdsCo d) ChpSt.NOT_AUTH, need (d.n 3 = 0x5A5AA5A5) St.BAD_PARAM]) d s

/-! ## Tamper and self-tests -/

/-- TAMPER_DETECT: a sensor of R570 fires. -/
def execTamperDetect (cause : Tamper) (s : State) : Out :=
  .next (s.zeroise (match cause with
    | .light => 1
    | .clock => 2
    | .temp => 3
    | .volt => 4
    | .shield => 5))

/-- ZEROISATION_COMPLETE: every CSP erased, the next fuse blown, ZEROISED, EV0979. -/
def execZeroisationComplete (s : State) : Out :=
  if s.chpMode ≠ 5 then .next s else
  let left := s.fld Reg.CHP_STATE 28 24
  let s := s.setChp { s.chp with keys := [], blown := s.chp.blown + (if left = 0 then 0 else 1), dead := s.chp.dead || left = 0 }
  .next (((s.setFld Reg.CHP_STATE 28 24 (left - 1)).setChpMode 6).raise 979)

/-- SELF_TEST_PERIODIC: a run every 24 h of CD97. -/
def execSelfTestPeriodic (s : State) : Out :=
  if s.chpMode = 2 && ! s.chp.testing && s.chp.tested + 86400 * 10 ^ 9 ≤ s.chp.clk then
    .next (s.setChp { s.chp with testing := true, slot := none, tested := s.chp.clk })
  else .next s

/-- A run's outcome moves the module (R569). asked tells a requested run. -/
def State.testOutcome (s : State) (pass asked : Bool) : State :=
  let n := if pass then 0 else s.chp.badRuns + 1
  let s := s.setChp { s.chp with badRuns := n }
  if s.chpMode ≤ 1 then (if pass then (s.setChpMode 2).raise 976 else (s.setChpMode 4).raise 977)
  else if s.chpMode = 2 then (if pass then s else s.softError)
  else if s.chpMode = 3 then
    (if pass then (if asked then (s.setChpMode 2).raise 976 else s)
     else if 3 ≤ n then (s.setChpMode 4).raise 977 else s.raise 977)
  else s

/-- SELF_TEST_COMPLETE: the tests of a boot, or a run in progress, end; failed is the index of the first failing test, 0xFF for
none. The services that waited follow. -/
def execSelfTestComplete (failed : BitVec 8) (s : State) : Out :=
  if ! s.chp.testing && 1 < s.chpMode then .next s else
  let pass := failed.toNat == 0xFF
  let s := (s.setFld Reg.CHP_SELFTEST 31 31 (b2n pass)).setFld Reg.CHP_SELFTEST 23 16 failed.toNat
  let s := s.setFld Reg.CHP_SELFTEST 15 0 (s.fld Reg.CHP_SELFTEST 15 0 + 1)
  let k := s.chp.slot
  let s := s.testOutcome pass k.isSome
  let s := k.elim s fun k => s.slotEnd k (if pass then St.OK else ChpSt.ERROR_STATE) [s.rd Reg.CHP_STATE, s.rd Reg.CHP_TAMPER]
  let w := s.chp.waiting
  .next (serveWaiting w (s.setChp { s.chp with testing := false, slot := none, waiting := [] }))

/-- TRNG_SAMPLE_FAILURE. -/
def execTrngSampleFailure (s : State) : Out := .next s.softError

end Sys2Proof.Machine
end

