-- ==== Sys2Proof/Machine/VlmCheck.lean ====
section
/-! DEFINITION. The checks of a Vellum in the order of R51: header, signature, binding, rollback, framing and scope, field ranges, and
the rules between records. The rules between records read the configuration the Vellum would make: a state whose records in force
are that configuration. -/

namespace Sys2Proof.Machine

/-- A check that failed: status, index of the record (65535 for the header), byte offset. -/
structure VFault where
  status : Nat
  index : Nat
  offset : Nat
deriving DecidableEq, Repr

/-- A record where it stands: its index and its byte offset in the Vellum. -/
structure VAt where
  i : Nat
  off : Nat
  r : VRec
deriving DecidableEq, Repr

/-- A record of n bytes at an offset of a byte string. -/
def recAt (bs : List Byte) (off n : Nat) : VRec :=
  VRec.mk (numB bs off 2) (numB bs (off + 2) 1) (numB bs (off + 3) 1) (cutB bs off n)

/-! ## Step 2: the chain and the signature -/

/-- The record chain walked by LENGTH (R34, R35): rem records are still expected, the first of them record i at off; last is where
the record before it starts. -/
def vlmWalk (bs : List Byte) (total : Nat) : Nat → Nat → Nat → Nat → Except VFault (List VAt)
  | 0, i, off, _ => if off = total then .ok [] else .error (VFault.mk VlmSt.MALFORMED i off)
  | rem + 1, i, off, last =>
    if total ≤ off then .error (VFault.mk VlmSt.MALFORMED (i - 1) last) else
    let len := numB bs (off + 4) 4
    if len % 8 ≠ 0 || len < 8 || total < off + len then .error (VFault.mk VlmSt.MALFORMED i (off + 4)) else
    match vlmWalk bs total rem (i + 1) (off + len) off with
    | .ok l => .ok (VAt.mk i off (recAt bs off len) :: l)
    | .error f => .error f

/-- Step 2 of R51: the chain, then the Colophon of the last record over the bytes before it. -/
def State.vlmSigned (s : State) (bs : List Byte) : Except VFault (List VAt) :=
  match vlmWalk bs (numB bs 8 4) (numB bs 0x14 4) 0 64 64 with
  | .error f => .error f
  | .ok l =>
    match l.getLast? with
    | none => .error (VFault.mk VlmSt.MALFORMED 0xFFFF 0x14)
    | some g =>
      if g.r.typ ≠ 0xFF then .error (VFault.mk VlmSt.MALFORMED g.i g.off)
      else if g.r.realm ≠ 0xFF then .error (VFault.mk VlmSt.MALFORMED g.i (g.off + 2))
      else
        let col := g.r.bytes.drop 8
        let st := s.colophon (cutB bs 0 g.off) col
        if st ≠ St.OK then .error (VFault.mk st g.i g.off)
        else if numB col 8 1 ≠ 5 then .error (VFault.mk St.SIGNATURE_FAIL g.i (g.off + 16))
        else if numB col 0x10 4 ≠ g.off then .error (VFault.mk St.SIGNATURE_FAIL g.i (g.off + 24))
        else .ok l

/-! ## Step 5: framing, order, scope -/

/-- Which REALM values a record type takes (R37): 0 only 0xFF, 1 only 0 to 15, 2 either, 3 any (PAD); none for a type the device
does not know. -/
def vlmScope (typ : Nat) : Option Nat :=
  if typ = 1 || typ = 0x21 || typ = 0xFF then some 0
  else if typ = 0x10 || typ = 0x11 || typ = 0x12 || typ = 0x17 || typ = 0x30 then some 1
  else if typ = 0x13 || typ = 0x14 || typ = 0x15 || typ = 0x16 || typ = 0x20 || typ = 0x31 || typ = 0x40 then some 2
  else if typ = 0xFE then some 3 else none

/-- Whether a REALM value is one R37 allows for the type. -/
def scopeOk (k realm : Nat) : Bool :=
  match k with
  | 0 => realm == 0xFF
  | 1 => realm < 16
  | 2 => realm < 16 || realm == 0xFF
  | _ => true

/-- The LENGTH that a record of its type has; none where the type leaves it free (PAD, SIGNATURE). -/
def recLength (r : VRec) : Option Nat :=
  match r.typ with
  | 0x01 => some 32
  | 0x10 => some 32
  | 0x11 => some 24
  | 0x12 => some 16
  | 0x13 => some 32
  | 0x14 => some 16
  | 0x15 => some 32
  | 0x16 => some (16 + 8 * r.num 8 1)
  | 0x17 => some 16
  | 0x20 => some (16 + 16 * r.num 8 2)
  | 0x21 => some 32
  | 0x30 => some ((48 + 16 * r.ntask + 16 * r.nobj + 4 * r.nedge + 7) / 8 * 8)
  | 0x31 => some 24
  | 0x40 => some (16 + 8 * r.num 8 2)
  | _ => none

/-- Whether a record may stand once only for its key, refused at step 5 (R634). -/
def onceAt5 (typ : Nat) : Bool := typ == 1 || typ == 0x21 || typ == 0x10 || typ == 0x17 || typ == 0x15 || typ == 0x20

/-- One record at step 5: the records before it, whether it is the last, the realm of a partial Vellum. -/
def vlmFrame (part : Option Nat) (before : List VAt) (last : Bool) (x : VAt) : Option (Nat × Nat) :=
  let r := x.r
  let first := before.isEmpty
  if 2 ≤ r.rflags then some (VlmSt.MALFORMED, 3)
  else if last ≠ (r.typ == 0xFF) then some (VlmSt.MALFORMED, 0)
  else if first && r.typ ≠ (if part.isSome then 0x10 else 1) then some (VlmSt.MALFORMED, 0)
  else match vlmScope r.typ with
    | none => if r.rflags = 1 then some (St.VERSION_MISMATCH, 0) else none
    | some k =>
      if ! scopeOk k r.realm then some (VlmSt.MALFORMED, 2)
      else if (recLength r).any fun n => n ≠ r.bytes.length then some (VlmSt.MALFORMED, 4)
      else if part.any fun p => r.typ ≠ 0xFF && (if r.realm < 16 then r.realm ≠ p else r.typ ≠ 0xFE) then some (VlmSt.SCOPE, 2)
      else if onceAt5 r.typ && before.any fun y => y.r.typ = r.typ && y.r.realm = r.realm then some (VlmSt.MALFORMED, 0)
      else if r.realm < 16 && r.typ ≠ 0x10 && ! before.any fun y => y.r.typ = 0x10 && y.r.realm = r.realm then some (VlmSt.MALFORMED, 0)
      else none

/-- The records from some point on at step 5; before is what precedes them, newest first. -/
def vlmFrames (part : Option Nat) : List VAt → List VAt → Option VFault
  | _, [] => none
  | before, x :: rest =>
    match vlmFrame part before rest.isEmpty x with
    | some (st, o) => some (VFault.mk st x.i (x.off + o))
    | none => vlmFrames part (x :: before) rest

/-- Step 5 of R51 as a whole: the records in order, FABRIC as DFLAGS.FABRIC_MEMBER says (R496), REALM_MASK. -/
def vlmStep5 (bs : List Byte) (part : Option Nat) (l : List VAt) : Option VFault :=
  match vlmFrames part [] l with
  | some f => some f
  | none =>
    let fab := l.find? fun x => x.r.typ = 0x21
    let member := (l.head?).any fun x => x.r.typ = 1 && bitOf (x.r.num 0x10 4) 0
    let mask := (List.range 16).foldl (fun m r => if l.any fun x => x.r.typ = 0x10 && x.r.realm = r then m + 2 ^ r else m) 0
    if member && fab.isNone then some (VFault.mk VlmSt.MALFORMED 0 (64 + 0x10))
    else match (if member then none else fab) with
      | some x => some (VFault.mk VlmSt.MALFORMED x.i x.off)
      | none => if mask ≠ numB bs 0x18 2 then some (VFault.mk VlmSt.MALFORMED 0xFFFF 0x18) else none

/-! ## Step 6: field ranges -/

/-- The first breach of a list of (breach, offset in the record). -/
def firstOff : List (Bool × Nat) → Option Nat
  | [] => none
  | (b, o) :: r => if b then some o else firstOff r

/-- A field is nonzero that must be zero. -/
def rsvd (r : VRec) (o n : Nat) : Bool × Nat := (r.num o n ≠ 0, o)

/-- Units a pool's INST_MASK may name (R42, R314). -/
def instMask (pool : Nat) : Nat := if pool < 8 then 2 ^ poolCount pool else 1

/-- Ranges of one task entry (R124). -/
def taskBad (r : VRec) (t : Nat) : Option Nat :=
  let o := 0x30 + 16 * t
  let cls := r.task t 0 1
  let w := r.task t 2 1
  firstOff [(10 < cls, o), (32 ≤ r.task t 1 1 || r.task t 1 1 % 4 = 3, o + 1),
    (w = 0 || (cls = 0 && 16 < w) || (cls = 1 && w ≠ 1), o + 2), (63 < r.task t 3 1, o + 3),
    (2 ≤ cls && r.task t 8 4 ≠ 0, o + 8), (r.task t 0xE 2 ≠ 0, o + 0xE)]

/-- Ranges of one object entry (R125). -/
def objBad (r : VRec) (k : Nat) : Option Nat :=
  let o := 0x30 + 16 * r.ntask + 16 * k
  firstOff [(r.obj k 0 4 = 0, o), (3 < r.obj k 4 1, o + 4), (8 ≤ r.obj k 5 1, o + 5), (r.obj k 6 1 < 6 || 21 < r.obj k 6 1, o + 6),
    (r.obj k 7 1 ≠ 0, o + 7), (r.obj k 0xA 6 ≠ 0, o + 0xA)]

/-- Ranges of one edge entry (R126); OBJ is read only with OBJ_VALID. -/
def edgeBad (r : VRec) (e : Nat) : Option Nat :=
  let w := r.edge e
  let o := 0x30 + 16 * r.ntask + 16 * r.nobj + 4 * e
  firstOff [(r.ntask ≤ bitsOf w 5 0 || r.ntask ≤ bitsOf w 13 8 || (bitOf w 22 && r.nobj ≤ bitsOf w 21 16) ||
    bitsOf w 7 6 ≠ 0 || bitsOf w 15 14 ≠ 0 || bitsOf w 31 24 ≠ 0, o)]

/-- Ranges of a FOLIO_TEMPLATE record (R123 to R126). -/
def templateBad (r : VRec) : Option Nat :=
  let rel := signed 32 (r.num 0x10 4)
  let dl := r.num 0x14 4
  let len := 48 + 16 * r.ntask + 16 * r.nobj + 4 * r.nedge
  match firstOff [(255 < r.num 8 2, 8), (r.ntask = 0 || 64 < r.ntask, 0xA), (64 < r.nobj, 0xB), (512 < r.nedge, 0xC),
      (2 < r.num 0xF 1, 0xF), (decide (rel < -1000000) || decide (1000000 < rel), 0x10),
      (dl < 1000 || 20000000 < dl || decide ((dl : Int) ≤ rel), 0x14), rsvd r 0x1A 6] with
  | some o => some o
  | none =>
    match (List.range r.ntask).findSome? (taskBad r) with
    | some o => some o
    | none =>
      match (List.range r.nobj).findSome? (objBad r) with
      | some o => some o
      | none =>
        match (List.range r.nedge).findSome? (edgeBad r) with
        | some o => some o
        | none => firstOff [(r.num len (r.bytes.length - len) ≠ 0, len)]

/-- Ranges of one rule of a NOC_ROUTE record (R401). -/
def ruleBad (r : VRec) (i : Nat) : Option Nat :=
  let o := 0x10 + 16 * i
  firstOff [(r.num o 8 = 0 || 2 ^ 48 ≤ r.num o 8, o), (1 < r.num (o + 8) 1, o + 8),
    ((if r.realm < 16 then 2 else 3) < r.num (o + 9) 1, o + 9), rsvd r (o + 0xA) 6]

/-- First address of a carve-out's tier, and the end of what may be carved there (R15, R45): System Inkwell without the cache
portion, DDR as populated. -/
def State.tierSpan (s : State) (tier : Nat) : Nat × Nat :=
  if tier < 8 then (0x10000000 + 0x1000000 * tier, 0x11000000 + 0x1000000 * tier)
  else if tier = 8 then (0x20000000, 0x24000000 - 2 ^ 22 * ((s.recsAny 1).head?.elim 0 fun d => d.num 0xC 4 % 16))
  else if tier = 9 then (0x1000000000, if s.rdN (Reg.MEMC_CAPACITY 0x3100000) = 0 && s.rdN (Reg.MEMC_CAPACITY 0x3110000) = 0
    then 0x1000000000 else 0x1C00000000)
  else (0x10000000000, 0x10000000000 + s.ddrBytes)

/-- Alignment and placement of a carve-out (R45). -/
def State.carveBad (s : State) (r : VRec) : Option Nat :=
  let al := if r.cTier ≤ 8 then 2 ^ 12 else 2 ^ 21
  let span := s.tierSpan r.cTier
  firstOff [(10 < r.cTier, 8), (16 ≤ r.num 9 1, 9), rsvd r 0xC 4,
    (r.cBase % al ≠ 0 || r.cBase < span.1 || span.2 < r.cBase, 0x10), (r.cSize % al ≠ 0 || span.2 < r.cBase + r.cSize, 0x18)]

/-- Whether SOURCE 4 of time base b has its master (R496): TB_MASTER byte b of the FABRIC record names another device. -/
def State.fabricMaster (s : State) (b : Nat) : Bool :=
  (s.recsAny 0x21).any fun f => f.num (0x18 + b) 1 < 64 && f.num (0x18 + b) 1 ≠ f.num 8 1 &&
    (f.num 8 1 ≠ 0xFF || s.selfId ≠ some (f.num (0x18 + b) 1))

/-- Field ranges of a record (step 6 of R51), by type, in the configuration that s holds. -/
def State.rangeBad (s : State) (part : Bool) (r : VRec) : Option Nat :=
  match r.typ with
  | 0x01 => firstOff [((List.range 8).any (fun q => 4 < bitsOf (r.num 8 4) (4 * q + 3) (4 * q)), 8), (8 < r.num 0xC 4, 0xC),
      (1 < r.num 0x10 4, 0x10), rsvd r 0x14 12]
  | 0x10 => firstOff [(32 ≤ r.num 0x18 4 || (! part && bitOf (r.num 0x18 4) 4), 0x18), (7 < r.num 0x1C 1, 0x1C), (7 < r.num 0x1D 1, 0x1D),
      rsvd r 0x1E 2]
  | 0x11 => firstOff [(7 < r.num 8 1, 8), (3 < r.num 9 1, 9), (r.num 0xC 4 % 256 ≠ 0 || 16384 < r.num 0xC 4, 0xC), (512 < r.num 0x10 2, 0x10),
      (63 < r.num 0x12 1, 0x12), (63 < r.num 0x13 1 || r.num 0x13 1 < r.num 0x12 1, 0x13), rsvd r 0x14 4]
  | 0x12 =>
    let p := r.num 8 1
    let q := r.num 0xC 4
    firstOff [(8 < p, 8), rsvd r 9 1, (instMask p ≤ r.num 0xA 2, 0xA),
      (if p = 8 then q = 0 || 131072 < q else q < (if p = 7 then 8 else 1) || 256 < q, 0xC)]
  | 0x13 => s.carveBad r
  | 0x14 =>
    let src := r.num 0xA 1
    firstOff [(7 < r.num 8 1, 8), (1 < r.num 9 1, 9), (4 < src || (src = 4 && r.num 9 1 = 0 && ! s.fabricMaster (r.num 8 1)), 0xA),
      ((if src = 2 then 7 else 31) < r.num 0xB 1, 0xB), (1 < r.num 0xD 1, 0xD), rsvd r 0xE 2]
  | 0x15 => firstOff [(16383 < r.num 0xC 2, 0xC), (16384 < r.num 0xC 2 + r.num 0xE 2, 0xE), rsvd r 0x1C 4]
  | 0x16 =>
    match firstOff [(r.num 8 1 = 0 || 64 < r.num 8 1, 8), rsvd r 9 7] with
    | some o => some o
    | none => (List.range (r.num 8 1)).findSome? fun i =>
      let o := 0x10 + 8 * i
      let d := r.num o 1
      let g := r.num (o + 1) 1
      firstOff [(63 < d || (List.range i).any (fun j => r.num (0x10 + 8 * j) 1 = d), o),
        (bitsOf g 3 2 ≠ 0 || 32 ≤ g || ! permitsState d (g % 4), o + 1)]
  | 0x17 =>
    let kf := r.num 8 1
    let kn := r.num 9 1
    let af := r.num 0xA 1
    let an := r.num 0xB 1
    firstOff [(kn ≠ 0 && (kf < 32 || 256 < kf + kn), 8), (63 < af || (an ≠ 0 && af < 8), 0xA), (64 < af + an, 0xB), (1 < r.num 0xC 4, 0xC)]
  | 0x20 =>
    match firstOff [(r.num 8 2 = 0 || 48 < r.num 8 2, 8), (1 < r.num 0xA 1, 0xA), ((if r.realm < 16 then 2 else 3) < r.num 0xB 1, 0xB),
        rsvd r 0xC 4] with
    | some o => some o
    | none => (List.range (r.num 8 2)).findSome? (ruleBad r)
  | 0x21 => firstOff [(63 < r.num 8 1 && r.num 8 1 ≠ 0xFF, 8), (15 < r.num 9 1, 9),
      ((List.range 4).any (fun p => bitOf (r.num 0xA 1) (2 * p + 1)), 0xA), rsvd r 0xB 1, (r.num 0xC 4 = 0, 0xC),
      ((List.range 8).any (fun b => 63 < r.num (0x18 + b) 1 && r.num (0x18 + b) 1 ≠ 0xFF), 0x18)]
  | 0x30 => templateBad r
  | 0x31 =>
    let ofs := signed 32 (r.num 0xC 4)
    firstOff [(7 < r.num 9 1, 9), (6 < r.num 0xA 1, 0xA), (1 < r.num 0xB 1 || (r.num 0xB 1 = 1 && r.num 0xA 1 ≠ 2 && r.num 0xA 1 ≠ 5), 0xB),
      (decide (ofs < -5000000) || decide (5000000 < ofs), 0xC), rsvd r 0x12 6]
  | 0x40 =>
    match firstOff [(r.num 8 2 = 0 || 120 < r.num 8 2, 8), rsvd r 0xA 6] with
    | some o => some o
    | none => (List.range (r.num 8 2)).findSome? fun i =>
      let o := 0x10 + 8 * i
      firstOff [(! calValid (r.num o 1) (r.num (o + 1) 1), o), rsvd r (o + 2) 2,
        (! calUserOk (r.num o 1) (signed 32 (r.num (o + 4) 4)), o + 4)]
  | _ => none

/-- The quantities a CAL_USER record names: (ITEM, INDEX). -/
def calNames (r : VRec) : List (Nat × Nat) := (List.range (r.num 8 2)).map fun i => (r.num (0x10 + 8 * i) 1, r.num (0x11 + 8 * i) 1)

/-- References at step 6 that are conflicts: a domain the realm does not hold (R515), a quantity outside the realm's resources or
named before in the Vellum (R554). before holds the Vellum's earlier records. -/
def State.refBad (s : State) (before : List VRec) (r : VRec) : Option Nat :=
  match r.typ with
  | 0x16 =>
    if 16 ≤ r.realm then none else
    (List.range (r.num 8 1)).findSome? fun i => if s.holdsDomain r.realm (r.num (0x10 + 8 * i) 1) then none else some (0x10 + 8 * i)
  | 0x40 =>
    let ns := calNames r
    let earlier := (before.filter (·.typ = 0x40)).flatMap calNames
    (List.range ns.length).findSome? fun i =>
      match ns[i]? with
      | some n => if earlier.contains n || (ns.take i).contains n || (r.realm < 16 && ! s.calOwned r.realm n.1 n.2) then some (0x10 + 8 * i)
        else none
      | none => none
  | _ => none

/-- The records of a Vellum at step 6, in order. t holds the configuration with the Vellum's own records. -/
def State.vlmStep6 (t : State) (part : Bool) : List VRec → List VAt → Option VFault
  | _, [] => none
  | before, x :: rest =>
    match t.rangeBad part x.r with
    | some o => some (VFault.mk St.BAD_PARAM x.i (x.off + o))
    | none =>
      match t.refBad before x.r with
      | some o => some (VFault.mk VlmSt.CONFLICT x.i (x.off + o))
      | none => State.vlmStep6 t part (x.r :: before) rest

/-! ## Step 7: rules between records -/

/-- Bits set in the low n bits of a mask. -/
def bitCount (m n : Nat) : Nat := ((List.range n).filter (bitOf m)).length

/-- Whether two ranges (first, count) share a number. -/
def rangesMeet (a n b m : Nat) : Bool := n ≠ 0 && m ≠ 0 && a < b + m && b < a + n

/-- The first rule a record breaks, as (broken, status, offset in the record). -/
def firstRule : List (Bool × Nat × Nat) → Option (Nat × Nat)
  | [] => none
  | (b, st, o) :: r => if b then some (st, o) else firstRule r

/-- QUIRE_SHARE against those of the same Quire before it (R41, R634). -/
def State.quireRule (t : State) (ys : List VRec) (r : VRec) : Option (Nat × Nat) :=
  let q := r.num 8 1
  let ys := ys.filter fun y => y.typ == 0x11 && y.num 8 1 == q
  let all := r :: ys
  let sum := fun (f : VRec → Nat) => all.foldl (fun n y => n + f y) 0
  let res := (t.recsAny 1).head?.elim 0 fun d => bitsOf (d.num 8 4) (4 * q + 3) (4 * q)
  firstRule [(ys.any (·.realm == r.realm), VlmSt.CONFLICT, 8),
    (ys.any (fun y => Nat.land (y.num 9 1) (r.num 9 1) ≠ 0), VlmSt.CONFLICT, 9),
    (ys.any (fun y => Nat.land (y.num 0xA 2) (r.num 0xA 2) ≠ 0), VlmSt.CONFLICT, 0xA),
    (ys.any (fun y => y.num 0x12 1 ≤ r.num 0x13 1 && r.num 0x12 1 ≤ y.num 0x13 1), VlmSt.CONFLICT, 0x12),
    (16 - res < sum (fun y => bitCount (y.num 0xA 2) 16), VlmSt.OVERCOMMIT, 0xA),
    (16384 < sum (·.num 0xC 4), VlmSt.OVERCOMMIT, 0xC),
    (512 < sum (·.num 0x10 2), VlmSt.OVERCOMMIT, 0x10)]

/-- ACCEL_SHARE against those of the same pool before it (R43, R634). -/
def accelRule (ys : List VRec) (r : VRec) : Option (Nat × Nat) :=
  let p := r.num 8 1
  let ys := ys.filter fun y => y.typ == 0x12 && y.num 8 1 == p
  let all := r :: ys
  firstRule [(ys.any (·.realm == r.realm), VlmSt.CONFLICT, 8),
    (if p = 8 then 131072 < all.foldl (fun n y => n + y.num 0xC 4) 0
     else (List.range 16).any fun i => 256 < all.foldl (fun n y => if bitOf (y.num 0xA 2) i then n + y.num 0xC 4 else n) 0,
     VlmSt.OVERCOMMIT, 0xC)]

/-- MEM_CARVE: handles of one owner differ, owners do not overlap (R45, R634). -/
def carveRule (ys : List VRec) (r : VRec) : Option (Nat × Nat) :=
  let ys := ys.filter (·.typ == 0x13)
  firstRule [(ys.any (fun y => y.realm == r.realm && y.cId == r.cId), VlmSt.CONFLICT, 0xA),
    (ys.any (fun y => y.realm ≠ r.realm && rangesMeet y.cBase y.cSize r.cBase r.cSize), VlmSt.CONFLICT, 0x10)]

/-- TIME_BIND: one record per realm and time base, one owner per time base (R47, R634). -/
def bindRule (ys : List VRec) (r : VRec) : Option (Nat × Nat) :=
  let ys := ys.filter fun y => y.typ == 0x14 && y.num 8 1 == r.num 8 1
  firstRule [(ys.any (·.realm == r.realm), VlmSt.CONFLICT, 8),
    (r.num 9 1 = 0 && ys.any (·.num 9 1 == 0), VlmSt.CONFLICT, 9)]

/-- PORT_MAP: masks and stream ranges are disjoint (R49). -/
def portRule (ys : List VRec) (r : VRec) : Option (Nat × Nat) :=
  let ys := ys.filter (·.typ == 0x15)
  let meet := fun (o n : Nat) => (ys.any (fun y => Nat.land (y.num o n) (r.num o n) ≠ 0), VlmSt.CONFLICT, o)
  firstRule [meet 8 4, (ys.any (fun y => rangesMeet (y.num 0xC 2) (y.num 0xE 2) (r.num 0xC 2) (r.num 0xE 2)), VlmSt.CONFLICT, 0xC),
    meet 0x10 2, meet 0x12 2, meet 0x14 1, meet 0x15 1, meet 0x16 2, meet 0x18 4]

/-- SECURITY_DOMAIN: key slots and counters are not shared (R50). -/
def secRule (ys : List VRec) (r : VRec) : Option (Nat × Nat) :=
  let ys := ys.filter (·.typ == 0x17)
  let meet := fun (o : Nat) => (ys.any (fun y => rangesMeet (y.num o 1) (y.num (o + 1) 1) (r.num o 1) (r.num (o + 1) 1)), VlmSt.CONFLICT, o)
  firstRule [meet 8, meet 0xA]

/-- RULING_GRID: records of one grid have one body (R90). -/
def gridRule (ys : List VRec) (r : VRec) : Option (Nat × Nat) :=
  firstRule [(ys.any (fun y => y.typ == 0x31 && y.num 8 1 == r.num 8 1 && y.bytes.drop 8 ≠ r.bytes.drop 8), VlmSt.CONFLICT, 8)]

/-- Quires a NIB or FER task can use (R124, R136): the pinned one under a strict pin, else those where the realm holds units of the
class. -/
def State.taskQuires (t : State) (r : VRec) (k : Nat) : List VRec :=
  if r.task k 1 1 % 4 = 2 then (t.quireShare r.realm (r.task k 0xC 2 % 8)).toList
  else (t.recs 0x11 r.realm).filter fun x => x.num 0xA 2 ≠ 0 && (r.task k 0 1 = 0 || x.num 9 1 ≠ 0)

/-- One task of a template against the realm's shares (R126). -/
def State.taskRule (t : State) (r : VRec) (k : Nat) : Option (Nat × Nat) :=
  let cls := r.task k 0 1
  let pin := r.task k 1 1 % 4
  let u := r.task k 0xC 2
  let o := 0x30 + 16 * k
  let fits := t.pinInShare r.realm cls u && (cls ≠ 0 || u < 8) && (cls ≠ 1 || u < 16)
  firstRule [(pin ≠ 0 && ! fits, VlmSt.CONFLICT, o + 0xC),
    (cls < 2 && (t.taskQuires r k).any (fun x => r.task k 3 1 < x.num 0x12 1 || x.num 0x13 1 < r.task k 3 1), VlmSt.CONFLICT, o + 3)]

/-- One object of a template against the realm's carve-outs (R126). -/
def State.objRule (t : State) (r : VRec) (k : Nat) : Option (Nat × Nat) :=
  let c := r.obj k 8 2
  firstRule [(! bitOf (r.obj k 5 1) 0 && c ≠ 0xFFFF && ! (t.carves r.realm).any (fun x => x.cId == c && x.cPlaceable), VlmSt.CONFLICT,
    0x30 + 16 * r.ntask + 16 * k + 8)]

/-- Pairs of GRID and RELEASE_NS that templates name (R127), each once. -/
def releasePairs (ts : List VRec) : List (Nat × Nat) :=
  ts.foldl (fun l r => if l.contains (r.num 0xE 1, r.num 0x10 4) then l else l ++ [(r.num 0xE 1, r.num 0x10 4)]) []

/-- A FOLIO_TEMPLATE against those before it and against the realm's configuration (R126, R127, R634). -/
def State.templateRule (t : State) (ys : List VRec) (r : VRec) : Option (Nat × Nat) :=
  let ys := ys.filter (·.typ == 0x30)
  let g := r.num 0xE 1
  match firstRule [(ys.any (fun y => y.realm == r.realm && y.num 8 2 == r.num 8 2), VlmSt.CONFLICT, 8),
      (r.order.length ≠ r.ntask, VlmSt.MALFORMED, 0x30 + 16 * r.ntask + 16 * r.nobj),
      (! t.gridVisible g r.realm, VlmSt.CONFLICT, 0xE),
      ((List.range r.ntask).any (fun k => r.task k 0 1 < 2) && ! (t.carves r.realm).any (fun c => c.cId == r.num 0x18 2), VlmSt.CONFLICT, 0x18)] with
  | some f => some f
  | none =>
    match (List.range r.ntask).findSome? (t.taskRule r) with
    | some f => some f
    | none =>
      match (List.range r.nobj).findSome? (t.objRule r) with
      | some f => some f
      | none => firstRule [(256 ≤ (ys.filter (·.realm == r.realm)).length || 1024 ≤ ys.length || 96 < (releasePairs (ys ++ [r])).length,
          VlmSt.OVERCOMMIT, 8)]

/-- The rules between records for one record: ys holds the configuration of others and the Vellum's earlier records. -/
def State.crossRule (t : State) (ys : List VRec) (r : VRec) : Option (Nat × Nat) :=
  match r.typ with
  | 0x11 => t.quireRule ys r
  | 0x12 => accelRule ys r
  | 0x13 => carveRule ys r
  | 0x14 => bindRule ys r
  | 0x15 => portRule ys r
  | 0x17 => secRule ys r
  | 0x30 => t.templateRule ys r
  | 0x31 => gridRule ys r
  | _ => none

/-- The records of a Vellum at step 7, in order. -/
def State.vlmStep7 (t : State) : List VRec → List VAt → Option VFault
  | _, [] => none
  | ys, x :: rest =>
    match t.crossRule ys x.r with
    | some (st, o) => some (VFault.mk st x.i (x.off + o))
    | none => State.vlmStep7 t (x.r :: ys) rest

/-! ## The whole check -/

/-- Records that are configuration: of a known type, PAD and SIGNATURE apart (R35, R37). -/
def confRecs (l : List VAt) : List VRec := (l.map (·.r)).filter fun r => (vlmScope r.typ).isSome && r.typ ≠ 0xFE && r.typ ≠ 0xFF

/-- The records in force of every owner but realm r. -/
def State.liveBut (s : State) (r : Nat) : List VRec := s.vlm.live.filter (·.realm != r)

/-- Whether a partial Vellum removes its realm (R39). -/
def removes (rs : List VRec) : Bool := rs.any fun r => r.typ = 0x10 && bitOf (r.num 0x18 4) 4

/-- The state as it would be with given records in force. -/
def State.withLive (s : State) (rs : List VRec) : State := { s with vlm := { s.vlm with live := rs } }

/-- R51 on a byte string: a partial Vellum of realm r, or a device Vellum. Answers the configuration records, or the failure. A
Vellum that removes its realm claims nothing, so no rule between records concerns it but R634. -/
def State.vlmCheck (s : State) (bs : List Byte) (part : Option Nat) : Except VFault (List VRec) :=
  let h := vlmHeader bs part.isSome
  if h.1 ≠ St.OK then .error (VFault.mk h.1 0xFFFF h.2) else
  match s.vlmSigned bs with
  | .error f => .error f
  | .ok l =>
    let serial := numB bs 0x10 4
    if numB bs 0xC 2 ≠ 0x9648 then .error (VFault.mk St.BINDING_FAIL 0xFFFF 0xC)
    else if ! bitOf (numB bs 0xE 2) steppingBit then .error (VFault.mk St.BINDING_FAIL 0xFFFF 0xE)
    else if part.elim (decide (serial < s.rdN (Reg.CHP_ARB 5))) (fun r => decide (serial ≤ s.rdN (Reg.VLM_REALM_SERIAL r))) then .error (VFault.mk VlmSt.ROLLBACK 0xFFFF 0x10)
    else
      match vlmStep5 bs part l with
      | some f => .error f
      | none =>
        let rs := confRecs l
        let known := l.filter fun x => (vlmScope x.r.typ).isSome
        let others := match part with
          | some r => s.liveBut r
          | none => []
        let t := s.withLive (others ++ rs)
        match t.vlmStep6 part.isSome [] known with
        | some f => .error f
        | none =>
          match t.vlmStep7 (if removes rs then [] else others) known with
          | some f => .error f
          | none => .ok rs

end Sys2Proof.Machine
end

