-- ==== Sys2Proof/Machine/RealmOps.lean ====
section
/-! DEFINITION. What the realm commands share: realm states (R56), expert locks (R73 to R78), the realm reset (R13), and a Vellum's
records coming into force (R54, R58). -/

namespace Sys2Proof.Machine

def State.setVlm (s : State) (x : VlmState) : State := { s with vlm := x }

/-- A realm changes state; every change raises EV1017 (R79). -/
def State.realmTo (s : State) (r st : Nat) : State :=
  if s.realmState r = st then s else (s.setFld (Reg.VLM_REALM_STATE r) 2 0 st).raise 1017

/-- The staged partial Vellum of a realm. -/
def State.stagedOf (s : State) (r : Nat) : Option Staged := sget s.vlm.staged r none

/-- A staged Vellum set or discarded; REALM_STATE.STAGED shows it. -/
def State.setStaged (s : State) (r : Nat) (x : Option Staged) : State :=
  (s.setVlm { s.vlm with staged := sput s.vlm.staged r x none }).setFld (Reg.VLM_REALM_STATE r) 4 4 (b2n x.isSome)

/-! ## Expert locks -/

/-- Whether an instance number names a lockable unit (R73): a block instance, those that are not lockable apart. -/
def lockable (i : Nat) : Bool :=
  match blockOf i with
  | none => false
  | some (b0, _) => b0 ≠ 0x0 && b0 ≠ 0x10 && b0 ≠ 0x600 && b0 ≠ 0x610 && b0 ≠ 0x620 && b0 ≠ 0x630 && b0 ≠ 0x650 && b0 ≠ 0xF00 && b0 ≠ 0xF10
      && i ≠ 0x668

/-- The realm whose requests may lock an instance (R74): the one to which the Vellum assigns it alone, for a pool instance the one
with a share of 256; 16 for a device-wide instance, 17 for a pool instance that no realm holds whole. -/
def State.lockOwner (s : State) (i : Nat) : Nat :=
  match blockOf i with
  | none => 17
  | some (b0, _) =>
    let n := i - b0
    let whole := fun (p k : Nat) => ((List.range 16).find? fun r => s.share r p k = 256).getD 17
    match b0 with
    | 0x70 => ((List.range 16).find? (s.ducAlone n)).getD 16
    | 0x100 => s.nibRealm (n / 16) (n % 16)
    | 0x180 => s.ferRealm (n / 2) (n % 2)
    | 0x280 => whole 7 n
    | 0x500 => s.portOwner 8 4 n
    | 0x530 => s.jesRealm n
    | _ => if 0x200 ≤ b0 && b0 ≤ 0x270 && b0 ≠ 0x260 then whole (if b0 = 0x270 then 6 else (b0 - 0x200) / 0x10) n else 16

/-- The realm for which a lock is held; 16 for a device-wide one. -/
def State.lockRealm (s : State) (i : Nat) : Nat := sget s.vlm.lockOf i 16

/-- Instances whose lock a realm holds. -/
def State.locksOf (s : State) (r : Nat) : List Nat := (s.vlm.lockOf.filter fun e => e.2 == r).map (·.1)

/-- REALM_STATE.LOCKS follows the locks a realm holds. -/
def State.showLocks (s : State) (r : Nat) : State :=
  if r < 16 then s.setFld (Reg.VLM_REALM_STATE r) 5 5 (b2n (! (s.locksOf r).isEmpty)) else s

/-- A lock set for a realm (or 16) and a holder. -/
def State.lockSet (s : State) (i r : Nat) (who : Requester) : State :=
  let k := whoKind who
  let s := s.wrN (Reg.VLM_LOCK i) (2 ^ 31 + 2 ^ 20 * (r % 16) + 2 ^ 18 * k.1 + k.2)
  (s.setVlm { s.vlm with lockOf := sput s.vlm.lockOf i r 16 }).showLocks r

/-- Channels that release Folios (R127): one of TC000 to TC095 for each pair of GRID and RELEASE_NS among the templates in force,
armed in mode 0 with ANY_SFN, PUNIT slot and PERIOD 1; a channel whose pair is gone is freed. -/
def State.releaseChannels (s : State) : State :=
  let want := releasePairs (s.recsAny 0x30)
  let pairOf := fun (s : State) (c : Nat) => (s.chGrid c, s.rdN (Reg.TRG_CH_WHEN1 c))
  let busy := fun (s : State) (c : Nat) => s.chState c ≠ cFREE && s.chKind c == 1
  let s := (List.range 96).foldl (fun s c => if busy s c && ! want.contains (pairOf s c) then s.chFree c else s) s
  want.foldl (fun s p =>
    if (List.range 96).any fun c => busy s c && pairOf s c == p then s else
    match (List.range 96).find? fun c => s.chState c == cFREE with
    | none => s
    | some c => (s.chAssign c 16).chArm c [w32 (2 ^ 24 + 2 ^ 20 + p.1 * 2 ^ 8), w32 (2 ^ 21), w32 p.2, 0, 1, 0]) s

/-- Route groups rewritten from the records in force, in a bank (R401): every realm's and group 16. -/
def State.routeAll (s : State) (bank : Nat) : State :=
  (List.range 17).foldl (fun s g => s.routeGroup bank g (s.recs 0x20 (if g < 16 then g else 255)).head?) s

/-- The source that owns a time base, as STATE.SOURCE shows it (R83): 0 without an owner. -/
def State.tbSource (s : State) (b : Nat) : Nat := (s.tbOwnerRec b).elim 0 fun r => r.num 0xA 1

/-- The state beside the registers of a block that is released from an expert lock. -/
def State.releaseInner (s : State) (i : Nat) : State :=
  if 0x40 ≤ i && i < 0x48 then
    let b := i - 0x40
    let s := s.tbSetState b 0
    { s with time := { s.time with freq := sdel s.time.freq b, steps := sdel s.time.steps b } }
  else if i = 0x50 then { s with time := { s.time with grids := [], caps := [], pulse := [] } }
  else if i = 0x51 then (List.range 512).foldl State.chFree s
  else s

/-- Control firmware restores a block's basic-level configuration from the Vellum (R78). -/
def State.releaseRestore (s : State) (i : Nat) : State :=
  if 0x40 ≤ i && i < 0x48 then s.setFld (Reg.TMB_STATE (i - 0x40)) 10 8 (s.tbSource (i - 0x40))
  else if i = 0x50 then (s.recsAny 0x31).foldl State.gridConfig s
  else if i = 0x51 then s.releaseChannels
  else if i = 0x60 then s.ordSync
  else if i = 0x260 then (List.range 16).foldl State.hdySync s
  else if i = 0x370 then (s.routeAll 0).routeAll 1
  else s

/-- A lock released (R78): block reset, the basic-level configuration restored; EV1018 for a cause other than EXPERT_RELEASE. -/
def State.lockDrop (s : State) (i : Nat) (ev : Bool) : State :=
  if ! s.bit (Reg.VLM_LOCK i) 31 then s else
  let r := s.lockRealm i
  let s := (s.wr (Reg.VLM_LOCK i) 0).setVlm { s.vlm with lockOf := sdel s.vlm.lockOf i }
  let s := ((s.showLocks r).releaseInner i).blockReset i
  let s := s.releaseRestore i
  if ev then s.raise 1018 else s

/-- Lock requests accepted and not yet set for a realm end with ABORTED. -/
def State.lockReqsEnd (s : State) (r : Nat) : State :=
  s.vlm.lockReqs.foldl (fun s e => match e.2 with
    | some c => if c.d.tgt = r then
        (s.setVlm { s.vlm with lockReqs := sdel s.vlm.lockReqs e.1 }).slotEnd c.d.slotId St.ABORTED [] else s
    | none => s) s

/-- Every expert lock of a realm released (R78). -/
def State.realmUnlock (s : State) (r : Nat) : State := (s.locksOf r).foldl (fun s i => s.lockDrop i true) (s.lockReqsEnd r)

/-- Every expert lock that a function holds released, on its reset (R598). f is 0 for the physical function, r + 1 for a VF. -/
def State.functionUnlock (s : State) (f : Nat) : State :=
  (s.csr.filterMap fun e => if 0x4000 ≤ e.1 && e.1 < 0x8000 then some ((e.1 - 0x4000) / 4) else none).foldl (fun s i =>
    if s.fld (Reg.VLM_LOCK i) 19 18 = (if f = 0 then 0 else 1) && s.fld (Reg.VLM_LOCK i) 15 0 = f then s.lockDrop i true else s) s

/-! ## Realm reset -/

/-- A Folio ends ABORTED (R56, R57); cause is its threads' (R187). One still QUEUED never reaches its decision: its slot ends with
it. -/
def State.folioAbort (s : State) (f : Folio) (cause : Nat) : State :=
  let s := if s.ord.offer.any fun o => o.realm == f.realm && o.inst == f.inst then s.setOrd { s.ord with offer := none } else s
  let s := s.folioDone f St.ABORTED cause false
  if f.state = 0 then s.slotEnd f.slot St.ABORTED [] else s

/-- Folios of a realm, outstanding. -/
def State.foliosOf (s : State) (r : Nat) : List Folio := s.ord.folios.filter (·.realm == r)

/-- Changes that wait for the journal on behalf of a realm end: their commands with ABORTED. -/
def State.ducRealmJobs (s : State) (q r : Nat) : State :=
  let mine := fun (j : JReq) => j.port.any (fun n => s.nibTag (16 * q + n) == r) ||
    j.slot.any fun k => (s.running k).any fun c => c.d.tgt == r
  let out := (s.ducSt q).jq.filter mine
  let s := s.setDuc q { s.ducSt q with jq := (s.ducSt q).jq.filter fun j => ! mine j }
  out.foldl (fun s j => j.slot.elim s fun k => s.slotEnd k St.ABORTED []) s

/-- A realm reset in Quire q (R192): its threads, semaphores and groups FREE, with their journal entries. -/
def State.ducRealmReset (s : State) (q r : Nat) : State :=
  let s := s.ducRealmJobs q r
  let s := (s.tcbsOf q r).foldl (fun s i =>
    let waits := ((s.ducSt q).leaving.filter (·.tid == i)).filterMap (·.slot)
    let s := s.freeThread q i St.ABORTED 3
    waits.foldl (fun s k => s.slotEnd k St.ABORTED []) s) s
  let s := (List.range 256).foldl (fun s o =>
    if s.semOf q o r then ((s.wr (Reg.DUC_SEM_STATE q o) 0).wr (Reg.DUC_SEM_MAX q o) 0).jrnlSem q o else s) s
  let s := (List.range 256).foldl (fun s o =>
    if s.flagOf q o r then ((s.wr (Reg.DUC_FLAG_OWNER q o) 0).wr (Reg.DUC_FLAG_VALUE q o) 0).jrnlFlag q o else s) s
  (List.range 16).foldl (fun s n =>
    if s.nibTag (16 * q + n) ≠ r then s else
    s.setDuc q { s.ducSt q with busy := (s.ducSt q).busy.filter (· ≠ n), held := sdel (s.ducSt q).held n }) s

/-- The rings of a realm on the pools and the RA engines stop, with CREDIT 0 (R325, R353). -/
def State.poolRealmReset (s : State) (r : Nat) : State :=
  (List.range 58).foldl (fun s j =>
    if h : j < 56 ∧ r < 16 then
      let k := RingId.pool ⟨j, h.1⟩ ⟨r, h.2⟩
      ((s.setFld (ringBase k + 8) 31 31 0).abandon k).wr (aCredit j r) 0
    else if r < 16 then
      let k := RingId.ra (Fin.ofNat 2 (j - 56)) (Fin.ofNat 16 r)
      ((s.setFld (ringBase k + 8) 31 31 0).abandon k).wr (aCredit j r) 0
    else s) s

/-- RA contexts of a realm FREE without a record, its thresholds at their reset values (R361). -/
def State.raRealmReset (s : State) (r : Nat) : State :=
  (List.range 2).foldl (fun s e =>
    let s := (List.range 32).foldl (fun s c => if (s.raCtx e c).any (·.realm == r) then s.setCtx e c none else s) s
    s.csrClear (Reg.RAE_THR_SET_W e r 0 0) (Reg.RAE_THR_SET_W e r 0 0 + 512)) s

/-- The Quire Scribe channels of a realm's Nibs are disabled (R419). -/
def State.quireScribeReset (s : State) (r : Nat) : State :=
  (List.range 8).foldl (fun s e => (List.range 16).foldl (fun s c =>
    if s.nibTag (16 * e + c) ≠ r then s else
    if h : e < 12 ∧ c < 32 then (s.setFld (Reg.SCB_CH_CFG e c) 31 31 0).abandon (.scribe ⟨e, h.1⟩ ⟨c, h.2⟩) else s) s) s

/-- Blocks that the Vellum assigns to a realm, as CSR block numbers: Nibs, Ferrules, Ethernet ports, JESD quads (R13, R20). -/
def State.realmBlocks (s : State) (r : Nat) : List Nat :=
  ((List.range 128).filter fun i => s.nibRealm (i / 16) (i % 16) == r).map (0x100 + ·) ++
  ((List.range 16).filter fun f => s.ferRealm (f / 2) (f % 2) == r).map (0x180 + ·) ++
  ((List.range 32).filter fun n => s.portBit r 8 4 n).map (0x500 + ·) ++
  ((List.range 4).filter fun k => s.jesRealm k == r).map (0x530 + ·)

/-- Event routes that a realm wrote are zeroed (R607). -/
def State.routeRealmReset (s : State) (r : Nat) : State :=
  (List.range 1024).foldl (fun s e =>
    if s.bit (Reg.EVT_ROUTE_W2 e) 16 && s.fld (Reg.EVT_ROUTE_W2 e) 23 20 = r then
      ((s.wr (Reg.EVT_ROUTE_W0 e) 0).wr (Reg.EVT_ROUTE_W1 e) 0).wr (Reg.EVT_ROUTE_W2 e) 0 else s) s

/-- A realm reset (R13) and what the chapters say of it: Folios end ABORTED; threads and objects FREE; rings stop; windows, votes,
contexts, Directory entries and channels go; PA interfaces are muted; its blocks are reset; its User session and routes end. -/
def State.realmReset (s : State) (r : Nat) : State :=
  let s := (s.foliosOf r).foldl (fun s f => s.folioAbort f 3) s
  let s := (List.range 8).foldl (fun s q => s.ducRealmReset q r) s
  let s := (s.poolRealmReset r).raRealmReset r
  let s := (s.scribeRealmReset r).quireScribeReset r
  let s := s.setOrd { s.ord with demos := s.ord.demos.filter (·.realm ≠ r), demoting := s.ord.demoting.filter (· ≠ r) }
  let s := (s.hdyRealmReset r).wrN (Reg.ORD_RLM_HARQ_CFG r) 16
  let s := ((s.windowRealmReset r).radioRealmReset r).pwrRealmReset r
  let s := (List.range 512).foldl (fun s c => if s.trigOwner c = r then s.chFree c else s) s
  let blocks := s.realmBlocks r
  let s := { s with spareTag := s.spareTag.filter fun e => e.2 ≠ r }
  ((blocks.foldl State.blockReset s).chpEnd r).routeRealmReset r

/-! ## Records in force -/

/-- Whether a record type is loaded at step 7 of R58; the others are claimed at step 5. -/
def atStep7 (typ : Nat) : Bool := typ == 0x30 || typ == 0x31 || typ == 0x14 || typ == 0x16 || typ == 0x17 || typ == 0x40

/-- Records that a realm's partial Vellum puts in force: none when it removes the realm. -/
def claims (rs : List VRec) : List VRec := if removes rs then [] else rs

/-- Time bases after the owners' records changed (R83): one whose owner or binding differs enters FREERUN and shows its SOURCE. -/
def State.bindChange (s : State) (old : State) : State :=
  (List.range 8).foldl (fun s b =>
    if old.tbOwnerRec b = s.tbOwnerRec b then s
    else (s.tbSetState b 0).setFld (Reg.TMB_STATE b) 10 8 (s.tbSource b)) s

/-- Grids after the records changed (R90): configured from the records in force, or removed. -/
def State.gridChange (s : State) : State :=
  let s := (s.recsAny 0x31).foldl State.gridConfig s
  (List.range 256).foldl (fun s g =>
    if s.gridValid g && ! (s.recsAny 0x31).any fun r => r.num 8 1 = g then s.gridRemove g else s) s

/-- The values a CAL_USER record names are written (R553). -/
def State.calLoad (s : State) (r : VRec) : State :=
  (List.range (r.num 8 2)).foldl (fun s i =>
    s.calSet (r.num (0x10 + 8 * i) 1) (r.num (0x11 + 8 * i) 1) (signed 32 (r.num (0x14 + 8 * i) 4))) s

/-- What follows the records of chapters other than this one, once they are in force: RA contexts, Directory quotas. -/
def State.shareChange (s : State) : State := (List.range 16).foldl State.hdySync ((s.raAllot 0).raAllot 1)

/-- Steps 2 to 6 of R58 for realm r and its records: locks released, realm reset, resources returned and claimed, the routes
written to the inactive bank, the epoch flipped. -/
def State.applyClaim (s : State) (r : Nat) (rs : List VRec) : State :=
  let s := (s.realmUnlock r).realmReset r
  let keep := (s.vlm.live.filter fun x => x.realm == r && atStep7 x.typ)
  let s := s.withLive (s.liveBut r ++ (claims rs).filter (fun x => ! atStep7 x.typ) ++ keep)
  let s := (s.shareChange).copyBank
  let s := s.routeGroup (1 - s.epoch) r (s.recs 0x20 r).head?
  s.epochFlip

/-- Step 7 of R58: templates, grids, bindings, policies, security domain and calibration of realm r. ORD_PIN's replacements end
(R143). -/
def State.applyLoad (s : State) (r : Nat) (rs : List VRec) : State :=
  let old := s
  let s := s.withLive ((s.vlm.live.filter fun x => x.realm != r || ! atStep7 x.typ) ++ (claims rs).filter fun x => atStep7 x.typ)
  let s := s.setOrd { s.ord with pins := s.ord.pins.filter (·.realm ≠ r) }
  let s := (s.bindChange old).gridChange
  let s := ((claims rs).filter (·.typ == 0x40)).foldl State.calLoad s
  s.releaseChannels

end Sys2Proof.Machine
end

