-- ==== Sys2Proof/Machine/Host.lean ====
section
/-! DEFINITION. The host interface (R593 to R598), the control cores 4 to 7, GPIO and test access (R599, R600, R609). -/

namespace Sys2Proof.Machine

def State.setHost (s : State) (x : HostState) : State := { s with host := x }

/-- The response of an access: status and data. -/
def State.answer (s : State) (status data : Nat) : State := { s with resp := { status := status, data := data } }

/-! ## Functions -/

/-- Vectors in the MSI-X table of function f (R607). -/
def msixSize (f : Nat) : Nat := if f = 0 then 64 else 124

/-- Entry v of function f's table: address, data, mask; masked after a reset. -/
def State.msixEntry (s : State) (f v : Nat) : Nat × Nat × Bool := sget s.host.msix (128 * f + v) (0, 0, true)

/-- Whether function f may send vector v: Bus Master Enable, MSI-X enabled, neither the function nor the vector masked. -/
def State.msixOpen (s : State) (f v : Nat) : Bool :=
  s.host.bme.contains f && s.host.msixOn.contains f && ! s.host.msixOn.contains (32 + f) && ! (s.msixEntry f v).2.2

/-- One message of function f asked for (R605): sent, kept pending, or dropped with DROPS. -/
def State.msixRaise (s : State) (f v : Nat) : State :=
  if msixSize f ≤ v || s.host.flr.contains f then s.bumpSat Reg.EVT_DROPS 31 0 1
  else if s.msixOpen f v then s.setHost { s.host with msgs := s.host.msgs ++ [(f, v)] }
  else s.setHost { s.host with msixPend := setIns s.host.msixPend (128 * f + v) }

/-- The pending messages of function f that nothing holds back any more are sent. -/
def State.msixFlush (s : State) (f : Nat) : State :=
  (s.host.msixPend.filter fun k => k / 128 == f).foldl (fun s k =>
    if s.msixOpen f (k % 128) then
      s.setHost { s.host with msixPend := s.host.msixPend.filter (· ≠ k), msgs := s.host.msgs ++ [(f, k % 128)] }
    else s) s

/-- A list with an element set or cleared. -/
def setMember (l : List Nat) (k : Nat) (on : Bool) : List Nat := if on then setIns l k else l.filter (· ≠ k)

/-- The carve-outs with HOST_VISIBLE that function f reaches through BAR2 (R596). -/
def State.hostCarves (s : State) (f : Nat) : List VRec :=
  (s.recsAny 0x13).filter fun c => bitOf (c.num 9 1) 1 && (f == 0 || c.realm + 1 == f)

/-- Whether n bytes at a lie in them. -/
def State.hostReach (s : State) (f a n : Nat) : Bool :=
  a + n ≤ coverEnd (s.hostCarves f) (s.hostCarves f).length a

/-! ## Configuration space -/

/-- Word of the MSI-X capability that holds Message Control. -/
def msixWord : Nat := 16 + Config.msixCap % 1008

/-- Word w of function f's configuration space: identity (R594), Bus Master Enable, MSI-X Message Control; what no rule gives
stands in Config. -/
def State.confRead (s : State) (f w : Nat) : Nat :=
  let other := Config.confWord f w % 2 ^ 32
  if w = 0 then (if f = 0 then 0x96481F5B else 0x96491F5B)
  else if w = 1 then putBits other 2 2 (b2n (s.host.bme.contains f))
  else if w = 2 then 0x12000021
  else if w = msixWord then
    putBits (putBits (putBits other 31 31 (b2n (s.host.msixOn.contains f))) 30 30 (b2n (s.host.msixOn.contains (32 + f)))) 26 16 (msixSize f - 1)
  else other

/-- A word of configuration space written. -/
def State.confWrite (s : State) (f w v : Nat) : State :=
  if w = 1 then (s.setHost { s.host with bme := setMember s.host.bme f (bitOf v 2) }).msixFlush f
  else if w = msixWord then
    (s.setHost { s.host with msixOn := setMember (setMember s.host.msixOn f (bitOf v 31)) (32 + f) (bitOf v 30) }).msixFlush f
  else s

/-! ## MSI-X table and Pending Bit Array (BAR4, R595) -/

/-- The 32-bit word at an offset of BAR4. -/
def State.msixRead (s : State) (f o : Nat) : Nat :=
  let v := o / 16
  if o < 16 * msixSize f then
    (match o % 16 / 4 with
     | 0 => (s.msixEntry f v).1 % 2 ^ 32
     | 1 => (s.msixEntry f v).1 / 2 ^ 32
     | 2 => (s.msixEntry f v).2.1
     | _ => b2n (s.msixEntry f v).2.2)
  else if 0x8000 ≤ o && o < 0x8010 then
    (s.host.msixPend.filter fun k => k / 128 == f && k % 128 / 32 == (o - 0x8000) / 4).foldl (fun m k => m + 2 ^ (k % 32)) 0
  else 0

/-- A 32-bit word of BAR4 written; the Pending Bit Array is read-only. -/
def State.msixWrite (s : State) (f o x : Nat) : State :=
  if 16 * msixSize f ≤ o then s else
  let v := o / 16
  let e := s.msixEntry f v
  let e : Nat × Nat × Bool := match o % 16 / 4 with
    | 0 => (2 ^ 32 * (e.1 / 2 ^ 32) + x / 4 * 4, e.2)
    | 1 => (x * 2 ^ 32 + e.1 % 2 ^ 32, e.2)
    | 2 => (e.1, x, e.2.2)
    | _ => (e.1, e.2.1, bitOf x 0)
  (s.setHost { s.host with msix := sput s.host.msix (128 * f + v) e (0, 0, true) }).msixFlush f

/-! ## Host accesses (R596) -/

/-- The requester that function f's accesses count as. -/
def funcWho (f : Nat) : Requester := if f = 0 then .pf else .vf (Fin.ofNat 16 (f - 1))

/-- A refused access: a read completes with Unsupported Request; a write is dropped and sets PCI.STATUS.REFUSED. -/
def State.hostRefuse (s : State) (write : Bool) : State :=
  let s := s.answer St.ACCESS_DENIED 0
  if write then s.setBit Reg.PCI_STATUS 31 else s

/-- An access of function f through BAR0: the CSR region, offset for offset. A poisoned write is refused: registers hold no poison. -/
def State.bar0 (s : State) (f : Nat) (write ep : Bool) (a n data : Nat) : State :=
  let who := funcWho f
  let ok := a < 0x10000000 && (match blotterAt a with
    | some b => ! write && s.blotterOk who b
    | none => csrOk a n && s.permits who a)
  if ok && ! (write && ep) then s.holdOr who (whoInit who) (if f = 0 then 16 else f - 1) write a n data
  else s.hostRefuse write

/-- An access of function f through BAR2: memory in HOST_VISIBLE carve-outs. A poisoned write poisons every word it touches. -/
def State.bar2 (s : State) (f : Nat) (write ep : Bool) (a n data : Nat) : State :=
  let who := funcWho f
  if ! (0x10000000 ≤ a && a + n ≤ 2 ^ 41 && s.memOk a n && s.hostReach f a n) then s.hostRefuse write
  else if write && ep then
    (if s.domUp (s.addrDomain a) then { s with poison := (wordsOf a n).foldl setIns s.poison }.answer St.OK 0
     else (s.firstWake (s.addrDomain a) (whoInit who)).answer St.HOLD 0)
  else s.holdOr who (whoInit who) (if f = 0 then 16 else f - 1) write a n data

/-- An access of function f through BAR4: aligned words of 4 or 8 bytes. -/
def State.bar4 (s : State) (f : Nat) (write ep : Bool) (o n data : Nat) : State :=
  if ! (o + n ≤ 0x10000 && (n == 4 || n == 8) && o % n == 0) || (write && ep) then s.hostRefuse write
  else if write then
    let s := s.msixWrite f o (data % 2 ^ 32)
    (if n = 8 then s.msixWrite f (o + 4) (data / 2 ^ 32) else s).answer St.OK 0
  else s.answer St.OK (s.msixRead f o + (if n = 8 then 2 ^ 32 * s.msixRead f (o + 4) else 0))

/-- A configuration request of up to 4 bytes inside a word: Retry Status until the physical function is ready, and while the function
is in reset. -/
def State.config (s : State) (f : Nat) (write ep : Bool) (o n data : Nat) : State :=
  if ! s.host.booted || s.host.flr.contains f then s.answer St.NOT_READY 0
  else if n = 0 || 4 < o % 4 + n || (write && ep) then s.hostRefuse write
  else
    let sh := 8 * (o % 4)
    let v := s.confRead f (o / 4)
    if write then (s.confWrite f (o / 4) (putBits v (sh + 8 * n - 1) sh data)).answer St.OK 0
    else s.answer St.OK (bitsOf v (sh + 8 * n - 1) sh)

/-- HOST_ACCESS (R596): space 0 BAR0, 1 BAR2, 2 BAR4, 3 configuration. Through the BARs a VF whose realm is ABSENT, and a function in
reset, answers Unsupported Request. A read of poisoned data answers POISONED: the EP bit set. -/
def execHostAccess (func : Fin 17) (space : Fin 4) (write ep : Bool) (addr : BitVec 48) (bytes : BitVec 13) (data : List Byte)
    (s : State) : Out :=
  let f := func.val
  let a := addr.toNat
  let n := if write then data.length else bytes.toNat
  let x := leNat data
  .next (if space.val = 3 then s.config f write ep a n x
    else if n = 0 || (f ≠ 0 && s.realmState (f - 1) = 0) || s.host.flr.contains f then s.hostRefuse write
    else match space.val with
      | 0 => s.bar0 f write ep a n x
      | 1 => s.bar2 f write ep a n x
      | _ => s.bar4 f write ep a n x)

/-! ## The host window (R597) -/

/-- Function whose requester ID a TLP carries. -/
def State.tlpFunc (s : State) (who : Requester) : Nat := if s.whoRealm who < 16 then s.whoRealm who + 1 else 0

/-- HOST_WINDOW_ACCESS: without Bus Master Enable ACCESS_DENIED and no TLP; else a TLP joins those in flight. A write is posted: its
bytes are the host's, and the access completes. -/
def execHostWindowAccess (who : Requester) (write : Bool) (addr : BitVec 48) (bytes : BitVec 10) (data : W64) (s : State) : Out :=
  let a := addr.toNat
  if a < 0x100000000000 then .next s
  else if ! s.host.bme.contains (s.tlpFunc who) then .next (s.answer St.ACCESS_DENIED 0)
  else
    let t := HostTlp.mk who write (a - 0x100000000000) bytes.toNat data.toNat
    let s := s.setHost { s.host with tlps := s.host.tlps ++ [t] }
    .next (if write then ((s.store a bytes.toNat data.toNat).unpoison a bytes.toNat).answer St.OK 0 else s)

/-- HOST_COMPLETION: TLP number index is done. kind 0 a completion with data, 1 Unsupported Request or Completer Abort, 2 the EP bit
set, 3 none ever. For a posted write it only leaves. -/
def execHostCompletion (index : Fin 1024) (kind : Fin 4) (data : List Byte) (s : State) : Out :=
  match s.host.tlps[index.val]? with
  | none => .next s
  | some t =>
    let s := s.setHost { s.host with tlps := s.host.tlps.eraseIdx index.val }
    if t.write then .next s else
    let a := 0x100000000000 + t.addr
    let got := (List.range t.bytes).map fun i => data.getD i 0
    .next (match kind.val with
      | 0 => ((s.setBytes a got).unpoison a t.bytes).answer St.OK (leNat got)
      | 1 => s.answer St.ACCESS_DENIED 0
      | 2 => { s with poison := (wordsOf a t.bytes).foldl setIns s.poison }.answer St.POISONED 0
      | _ => s.answer St.TIMEOUT 0)

/-! ## Function resets and the link (R598) -/

/-- The command ring that function f serves. -/
def funcRing (f : Nat) : Fin 17 := if f = 0 then 16 else Fin.ofNat 17 (f - 1)

/-- The ring register set, REJ_CNT and EVSRC of a command ring return to their reset values; its result slots stay (R80). -/
def State.cmdReset (s : State) (k : Fin 17) : State :=
  let b := ringBase (.cmd k)
  let s := (s.abandon (.cmd k)).csrClear (Reg.CMD_RING_BASE_LO k) (Reg.CMD_EVSRC k + 4)
  { s with batch := sput s.batch b 0 0, stalled := s.stalled.filter (· ≠ b) }

/-- Effects of a reset of function f: its command ring, its expert locks, its Chop session, its enables and vectors. -/
def State.funcReset (s : State) (f : Nat) : State :=
  let s := ((s.cmdReset (funcRing f)).functionUnlock f).chpEnd (funcRing f)
  let h := s.host
  (s.setHost { h with
    bme := h.bme.filter (· ≠ f), msixOn := h.msixOn.filter fun k => k % 32 ≠ f, msix := h.msix.filter fun e => e.1 / 128 ≠ f,
    msixPend := h.msixPend.filter fun k => k / 128 ≠ f, flr := setIns h.flr f }).setBit Reg.PCI_STATUS f

/-- FUNCTION_LEVEL_RESET: it begins, with its effects, FLRS and EV1021; done: the function answers again. -/
def execFunctionLevelReset (func : Fin 17) (done : Bool) (s : State) : Out :=
  if done then .next (s.setHost { s.host with flr := s.host.flr.filter (· ≠ func.val) })
  else .next (((s.funcReset func).bump Reg.PCI_FLRS 1).raise 1021)

/-- LINK set; EV1021 when the link's state changes. -/
def State.setLink (s : State) (v : Nat) : State :=
  if s.rdN Reg.PCI_LINK = v then s else (s.wrN Reg.PCI_LINK v).raise 1021

/-- PCIE_PERST: asserted, the effects of a function reset on every function at once, and the link goes down to retrain; released, the
functions answer again. -/
def execPciePerst (low : Bool) (s : State) : Out :=
  if ! low then .next (s.setHost { s.host with flr := [] }) else
  let s := ((List.range 17).foldl State.funcReset s).setBit Reg.PCI_STATUS 30
  .next (s.setLink 0)

/-- PCIE_LINK_CHANGE: rate 0 is link down. -/
def execPcieLinkChange (rate : Fin 7) (width : Fin 17) (flit : Bool) (s : State) : Out :=
  .next (s.setLink (if rate.val = 0 then 0 else 2 ^ 31 + 2 ^ 30 * b2n flit + 2 ^ 20 * rate.val + width.val * 2 ^ 15))

/-! ## HOST_QUERY, DEV_RESET, CORE_CTL -/

/-- HOST_QUERY: STATUS, LINK, function-level resets, VFs enabled (R594: 16). -/
def execHostQuery (d : Desc) (s : State) : Out :=
  .next (commandNow 0x90 d (fun s => firstFail [stoppedOrRunning s d, only16 d])
    (fun s => (s, St.OK, [s.rd Reg.PCI_STATUS, s.rd Reg.PCI_LINK, s.rd Reg.PCI_FLRS, 16])) s)

/-- DEV_RESET: a warm reset is asked for; the slot never becomes final (R604). -/
def execDevReset (d : Desc) (s : State) : Out :=
  .next (command 0x91 d (fun s => firstFail [stoppedOrRunning s d, only16 d, need (d.n 3 = 0xA55A0000) St.BAD_PARAM])
    (fun s => s.setHost { s.host with warmReq := true }) s)

/-- Core of a CORE_CTL, 4 to 7. -/
def ctlCore (d : Desc) : Nat := 4 + d.n 3 % 4

/-- CORE_CTL START: at an entry address in a carve-out that the physical function reaches. -/
def execCoreCtlStart (d : Desc) (s : State) : Out :=
  let e := cat64 (d.word 4) (d.word 5)
  if ! bitOf (d.n 3) 8 then .next s else
  .next (commandNow 0x92 d (fun s => firstFail [stoppedOrRunning s d, only16 d,
      need ((s.localOf e).any fun a => s.memOk a 4 && s.hostReach 0 a 4) St.BAD_PARAM,
      need (sget s.host.cores (ctlCore d) none).isNone St.WRONG_STATE])
    (fun s => (s.setHost { s.host with cores := sput s.host.cores (ctlCore d) (some e) none }, St.OK, [1])) s)

/-- CORE_CTL STOP: the core is held in reset. -/
def execCoreCtlStop (d : Desc) (s : State) : Out :=
  if bitOf (d.n 3) 8 then .next s else
  .next (commandNow 0x92 d (fun s => firstFail [stoppedOrRunning s d, only16 d])
    (fun s => (s.setHost { s.host with cores := sput s.host.cores (ctlCore d) none none }, St.OK, [0])) s)

/-! ## GPIO (R600) -/

def gpioPin (d : Desc) : Nat := d.n 3 % 32

/-- Level of a pin: the one driven, or the one at the input. -/
def State.gpioLevel (s : State) (p : Nat) : Bool :=
  if s.host.gpioOut.contains p then s.host.gpioDrive.contains p else s.host.gpioPin.contains p

/-- A GPIO_CTL command on a pin of the realm's GPIO_MASK; through CMD[16] with TARGET 0xFF, on any pin. -/
def gpioCtl (d : Desc) (mine : Bool) (ok : Bool) (act : State → State) (s : State) : Out :=
  if ! mine then .next s else
  .next (commandNow 0x97 d (fun s => firstFail [stoppedOrRunning s d, need (16 ≤ d.tgt || s.portBit d.tgt 0x18 4 (gpioPin d)) St.ACCESS_DENIED,
      need ok St.BAD_PARAM])
    (fun s => let s := act s; (s, St.OK, [w32 (b2n (s.gpioLevel (gpioPin d)))])) s)

/-- GPIO_CTL read. The row also answers BAD_PARAM to the kind that is not assigned. -/
def execGpioCtlRead (d : Desc) (s : State) : Out :=
  let k := bitsOf (d.n 3) 9 8
  gpioCtl d (k == 0 || k == 3) (k == 0) (fun s => s) s

/-- GPIO_CTL drive: an output at a level. -/
def execGpioCtlDrive (d : Desc) (s : State) : Out :=
  gpioCtl d (bitsOf (d.n 3) 9 8 == 1) true (fun s =>
    let p := gpioPin d
    s.setHost { s.host with gpioOut := setIns s.host.gpioOut p, gpioDrive := setMember s.host.gpioDrive p (bitOf (d.n 3) 10),
                            gpioEdge := sput s.host.gpioEdge p 0 0 }) s

/-- GPIO_CTL input: an input with edge detection. -/
def execGpioCtlInput (d : Desc) (s : State) : Out :=
  gpioCtl d (bitsOf (d.n 3) 9 8 == 2) true (fun s =>
    let p := gpioPin d
    s.setHost { s.host with gpioOut := s.host.gpioOut.filter (· ≠ p), gpioEdge := sput s.host.gpioEdge p (bitsOf (d.n 3) 13 12) 0 }) s

/-- GPIO_EDGE: the level at a pin changes; EV1022 on an input whose edge detection sees it (1 rising, 2 falling, 3 both). -/
def execGpioEdge (pin : Fin 32) (level : Bool) (s : State) : Out :=
  let p := pin.val
  if s.host.gpioPin.contains p = level then .next s else
  let e := sget s.host.gpioEdge p 0
  let s := s.setHost { s.host with gpioPin := setMember s.host.gpioPin p level }
  .next (if ! s.host.gpioOut.contains p && bitOf e (if level then 0 else 1) then s.raise 1022 else s)

/-! ## Test access (R609) -/

/-- DEBUG_TOKEN: one that verifies, bound to this unit, opens the test network and counts as a Crypto Officer session. -/
def execDebugToken (token : List Byte) (s : State) : Out :=
  if s.chpMode = 2 && Config.cryptOk 7 [unitBytes, token] then .next ((s.setHost { s.host with tap := true }).chpOpen 18) else .next s

end Sys2Proof.Machine
end

