-- ==== Sys2Proof/Machine/Events.lean ====
section
/-! DEFINITION. The event router (R605 to R607, R635), its commands and the Blotter's (R610, R614). -/

namespace Sys2Proof.Machine

/-! ## Ties of events to realms (R635) -/

/-- The realm of a list that stands alone in it; 16 otherwise. -/
def soleRealm (l : List Nat) : Nat := match l with
  | [r] => r
  | _ => 16

/-- The realm that alone holds a share of a unit, by its serial number (RA engines as 56 and 57). -/
def State.soleShare (s : State) (j : Nat) : Nat :=
  soleRealm ((List.range 16).filter fun r => if j < 56 then s.share r (poolOf j) (j - poolFirst (poolOf j)) ≠ 0 else s.share r 7 (j - 56) ≠ 0)

/-- The realm to which a Ductus counts as assigned alone. -/
def State.ducRealm (s : State) (q : Nat) : Nat := ((List.range 16).find? (s.ducAlone q)).getD 16

/-- The realm whose lane masks hold every lane of a JESD link ℓ in a direction. -/
def State.linkRealm (s : State) (rx : Bool) (l : Nat) : Nat :=
  let c := s.link (l / 2) rx (l % 2)
  ((List.range 16).find? fun r => (List.range c.l).all fun i => s.portBit r (if rx then 0x12 else 0x10) 2 (4 * (l / 2) + c.lane + i)).getD 16

/-- The realm to which event e is tied alone; 16 for an event of the device. -/
def State.tiedTo (s : State) (e : Nat) : Nat :=
  if e < 128 then s.nibRealm (e / 16) (e % 16)
  else if e < 160 then s.ferRealm ((e - 128) / 4) ((e - 128) / 2 % 2)
  else if e < 288 then s.ducRealm ((e - 160) / 16)
  else if e < 344 then s.soleShare (e - 288)
  else if e < 400 then s.soleShare (e - 344)
  else if e < 416 then 16
  else if e < 448 then (e - 416) % 16
  else if e < 454 then s.soleShare (56 + (e - 448) % 2)
  else if e < 480 then 16
  else if e < 496 then s.ducRealm ((e - 480) % 8)
  else if e < 576 then 16
  else if e < 592 then soleRealm ((List.range 16).filter fun r => (s.recs 0x14 r).any fun x => x.num 8 1 == (e - 576) % 8)
  else if e < 608 then s.portOwner 0x14 1 ((e - 592) % 8)
  else if e < 672 then 16
  else if e < 704 then s.portOwner 8 4 (e - 672)
  else if e < 736 then (e - 704) % 16
  else if e < 768 then 16
  else if e < 776 then s.linkRealm false (e - 768)
  else if e < 784 then s.linkRealm true (e - 776)
  else if e < 938 then 16
  else if e < 946 then s.ducRealm (e - 938)
  else if 1000 ≤ e && e < 1016 then e - 1000
  else 16

/-! ## Delivery (R605) -/

/-- Whether a route was written by a realm through EVT_ROUTE, and which (R607): 16 for none. -/
def routeWriter (w2 : W32) : Nat := if wbit w2 16 then wfld w2 23 20 else 16

/-- A raise dropped or without effect. -/
def State.dropRaise (s : State) : State := s.bumpSat Reg.EVT_DROPS 31 0 1

/-- The Ductus target of a route, with the writer check of R607. -/
def State.deliverWake (s : State) (w1 w2 : W32) : State :=
  let r := routeWriter w2
  if r = 16 || s.targetOf w1 r then s.wakeTarget w1
  else (s.setBit (Reg.DUC_STATUS (wfld w1 18 16)) 28).dropRaise

/-- The trigger target of a route, with the writer check of R607. -/
def State.deliverTrigger (s : State) (w2 : W32) : State :=
  let r := routeWriter w2
  let c := wfld w2 8 0
  if r = 16 || s.trigOwner c = r then s.chEvent c else s.dropRaise

/-- The trace record of an event (R605); a Blotter that cannot take it leaves it out. -/
def State.deliverTrace (s : State) (e : Nat) : State :=
  let b := s.fld Reg.EVT_CFG 2 0
  (s.blotter 8 [s.ts32 b, b * 2 ^ 29 + 0x1F * 2 ^ 24 + e, 0, 0]).getD s

/-- A raise of event e delivered to every target that its present route enables. -/
def State.deliver (s : State) (e : Nat) : State :=
  let w0 := s.rd (Reg.EVT_ROUTE_W0 e)
  let w1 := s.rd (Reg.EVT_ROUTE_W1 e)
  let w2 := s.rd (Reg.EVT_ROUTE_W2 e)
  let s := if wbit w0 31 then s.setBit (Reg.EVT_PEND (e / 32)) (e % 32) else s
  let s := if wbit w0 30 then s.msixRaise (wfld w0 20 16) (wfld w0 10 0) else s
  let s := if wbit w0 29 then s.deliverWake w1 w2 else s
  let s := if wbit w0 28 then s.deliverTrigger w2 else s
  if wbit w0 27 then s.deliverTrace e else s

/-- The lowest number of a list. -/
def lowest : List Nat → Option Nat
  | [] => none
  | e :: r => some ((lowest r).elim e (min e))

/-- EVENT_DELIVERY (R606): of the sixteen oldest raises that wait, the one with the lowest event number. -/
def execEventDelivery (s : State) : Out :=
  match lowest (s.evq.take 16) with
  | none => .next s
  | some e =>
    let q := s.evq.erase e
    .next (({ s with evq := q }.setFld Reg.EVT_STATUS 8 0 q.length).deliver e)

/-! ## Commands (R610) -/

/-- Whether a realm may write a route (R607): an event tied to it, and targets of its own alone. -/
def State.routeAllowed (s : State) (r e : Nat) (w0 w1 w2 : W32) : Bool :=
  s.tiedTo e == r && ! wbit w0 31 && ! wbit w0 27 && (! wbit w0 30 || wfld w0 20 16 == r + 1)
    && (! wbit w0 29 || s.targetOf w1 r) && (! wbit w0 28 || s.trigOwner (wfld w2 8 0) == r)

/-- Whether a route's function and vector exist. -/
def routeVector (w0 : W32) : Bool := wfld w0 20 16 ≤ 16 && (! wbit w0 30 || wfld w0 10 0 < msixSize (wfld w0 20 16))

/-- A route's words as the registers hold them: defined bits alone. -/
def State.writeRoute (s : State) (e : Nat) (w0 w1 w2 : Nat) : State :=
  ((s.wrN (Reg.EVT_ROUTE_W0 e) (Nat.land w0 0xFF1F07FF)).wrN (Reg.EVT_ROUTE_W1 e) w1).wrN (Reg.EVT_ROUTE_W2 e) (Nat.land w2 0x00F101FF)

/-- EVT_ROUTE: from CMD[r] with WRV set and WREALM r. -/
def execEvtRoute (d : Desc) (s : State) : Out :=
  let e := d.n 3 % 1024
  let r := d.ring.val
  .next (commandNow 0x93 d (fun s => firstFail [stoppedOrRunning s d,
      need (r = 16 || s.routeAllowed r e (d.word 4) (d.word 5) (d.word 6)) St.ACCESS_DENIED, need (routeVector (d.word 4)) St.BAD_PARAM])
    (fun s =>
      let old := s.rd (Reg.EVT_ROUTE_W0 e)
      let w2 := if r = 16 then d.n 6 else d.n 6 % 512 + 2 ^ 16 + 2 ^ 20 * r
      (s.writeRoute e (d.n 4) (d.n 5) w2, St.OK, [old])) s)

/-- EVT_QUERY: route words 0 to 3 and the PEND bit. -/
def execEvtQuery (d : Desc) (s : State) : Out :=
  let e := d.n 3 % 1024
  .next (commandNow 0x94 d (fun s => firstFail [stoppedOrRunning s d, need (d.ring.val = 16 || s.tiedTo e = d.ring.val) St.ACCESS_DENIED])
    (fun s => (s, St.OK, [s.rd (Reg.EVT_ROUTE_W0 e), s.rd (Reg.EVT_ROUTE_W1 e), s.rd (Reg.EVT_ROUTE_W2 e), s.rd (Reg.EVT_ROUTE_COUNT e),
      w32 (b2n (s.bit (Reg.EVT_PEND (e / 32)) (e % 32)))])) s)

/-- EVT_RAISE: EV1023. -/
def execEvtRaise (d : Desc) (s : State) : Out :=
  .next (commandNow 0x95 d (fun s => stoppedOrRunning s d)
    (fun s => let s := s.raise 1023; (s, St.OK, [s.rd (Reg.EVT_ROUTE_COUNT 1023)])) s)

/-- SWSET_WRITE: any value raises EV1023. -/
def execSwsetWrite (who : Requester) (_value : W32) (s : State) : Out :=
  .next (access who Reg.EVT_SWSET (fun s => (s.raise 1023, 0)) s)

/-- BLT_CONFIG. -/
def execBltConfig (d : Desc) (s : State) : Out :=
  let n := d.n 3 % 16
  .next (commandNow 0x96 d (fun s => firstFail [stoppedOrRunning s d, only16 d, need (n ≤ 8) St.BAD_PARAM, notExpert s (0x660 + n)])
    (fun s => let s := s.bltConfig n (d.word 4); (s, St.OK, [s.rd (Reg.BLT_WPTR n)])) s)

/-- BLT_CFG_CLEAR: CFG.CLEAR written 1. -/
def execBltCfgClear (who : Requester) (n : Fin 9) (s : State) : Out :=
  .next (accessHeld who (Reg.BLT_CFG n) (fun s => s.bltClear n) s)

end Sys2Proof.Machine
end

