-- ==== Sys2Proof/Machine/Pal.lean ====
section
/-! DEFINITION. Palimpsest (R579 to R584) and the flash accesses of control firmware (R592). -/

namespace Sys2Proof.Machine

namespace PalSt
def ROLLBACK : Nat := 0x85
def REQUIRES : Nat := 0x86
def FABRIC_SKEW : Nat := 0x87
def FELL_BACK : Nat := 0x88
end PalSt

/-! ## The update's state -/

/-- A transition: the new state, EV0984. -/
def State.setPalMode (s : State) (m : Nat) : State := (s.setFld Reg.PAL_STATE 31 29 m).raise 984

/-- RESTORING with a cause. -/
def State.palFall (s : State) (cause : Nat) : State :=
  ((s.setPal { s.pal with cause := cause, warm := false }).setFld Reg.PAL_STATE 8 0 0).setPalMode 5

/-- Whether the 3 s of an activation are over. -/
def State.activationOver (s : State) : Bool := s.palMode == 3 && decide (s.pal.at_ + 3 * 10 ^ 9 ≤ s.chp.clk)

/-- Whether a trial's timer has expired. -/
def State.trialOver (s : State) : Bool := s.palMode == 4 && decide (s.pal.at_ ≤ s.chp.clk)

/-- Blocks of 64 KiB that an image with its Colophon covers. -/
def palBlocks (img : PalImg) : Nat := (img.size + 65535) / 65536

/-- Place of the journal's data in flash (R577). -/
def journalBase : Nat := 0x500000

/-- The write of an image begins (R580): JHDR programmed, WRITING. -/
def State.palBegin (s : State) (img : PalImg) : State :=
  let e := s.dirEntry img.comp
  let s := s.setPal { s.pal with
    cur := some img, journal := some { comp := img.comp, oldLen := e.1, oldVersion := e.2.1, seq := s.dirSeq, recs := [] } }
  ((s.setFld Reg.PAL_STATE 27 24 img.comp).setFld Reg.PAL_STATE 8 0 0).setPalMode 2

/-- LAST_RESULT and the START slot. -/
def State.palEnd (s : State) (comp cause status : Nat) : State :=
  let s := s.wrN Reg.PAL_LAST_RESULT (2 ^ 28 * comp + cause * 2 ^ 8 + status)
  let s := s.pal.slot.elim s fun k =>
    s.slotEnd k status [w32 s.pal.done, w32 (if status = St.OK then 0 else comp), w32 cause]
  s.setPal { s.pal with staged := [], cur := none, slot := none, journal := none, done := 0, warm := false }

/-! ## PAL_STAGE (R573, R577, R583) -/

/-- An image's Colophon as staged data. -/
def palImg (addr size len : Nat) (c : List Byte) : PalImg :=
  { comp := numB c 8 1, addr := addr, size := size, len := len, version := numB c 0x14 4, svn := numB c 0x18 4, cflags := numB c 0xA 2,
    trial := numB c 0x1C 2, key := numB c 9 1, proto := numB c 0x1F 1,
    reqs := (List.range (numB c 0x1E 1)).map fun k =>
      (numB c (0x80 + 16 * k) 1, numB c (0x84 + 16 * k) 4, numB c (0x88 + 16 * k) 4),
    hash := cutB c 0x20 48 }

/-- A Vellum given as component VELM: its header (R633), its Colophon, the header's binding, SERIAL against the counter. -/
def State.stageVellum (s : State) (addr : Nat) (bs : List Byte) : Nat × Option PalImg :=
  let h := vlmHeader bs false
  let total := numB bs 8 4
  let len := total - colLen - 8
  let c := cutB bs (len + 8) colLen
  let st := s.colophon (cutB bs 0 len) c
  let serial := numB bs 0x10 4
  if h.1 ≠ St.OK then (h.1, none)
  else if st ≠ St.OK then (st, none)
  else if numB c 8 1 ≠ 5 || numB c 0x10 4 ≠ len then (St.SIGNATURE_FAIL, none)
  else if numB bs 0xC 2 ≠ 0x9648 || ! bitOf (numB bs 0xE 2) steppingBit then (St.BINDING_FAIL, none)
  else if serial < s.rdN (Reg.CHP_ARB 5) then (VlmSt.ROLLBACK, none)
  else (St.OK, some { palImg addr total len c with svn := serial })

/-- Any other image: the Colophon closes the bytes given. -/
def State.stageImage (s : State) (addr : Nat) (bs : List Byte) : Nat × Option PalImg :=
  let len := bs.length - colLen
  let c := cutB bs len colLen
  let st := s.colophon (cutB bs 0 len) c
  if bs.length < colLen || len % 8 ≠ 0 then (St.BAD_PARAM, none)
  else if st ≠ St.OK then (st, none)
  else if numB c 0x10 4 ≠ len || 5 ≤ numB c 8 1 then (St.BAD_PARAM, none)
  else if numB c 0x18 4 < s.rdN (Reg.CHP_ARB (numB c 8 1)) then (PalSt.ROLLBACK, none)
  else (St.OK, some (palImg addr bs.length len c))

/-- One entry of the list: address and length. The Boot ROM's recovery takes CHOP and CTRL alone (R575). -/
def State.stageOne (s : State) (d : Desc) (g n : Nat) : Nat × Option PalImg :=
  match s.localOf g with
  | none => (St.ACCESS_DENIED, none)
  | some a =>
    if ! s.scribeOk d.ring g n then (St.ACCESS_DENIED, none)
    else if s.markOf a n ≠ 0 then ((s.readable g n).2, none)
    else
      let bs := s.bytes a n
      let r := if numB bs 0 4 = 0x564C4D31 then s.stageVellum a bs else s.stageImage a bs
      match r.2 with
      | none => r
      | some i => if (flRegion i.comp).2 < i.size || 8 < i.reqs.length || (s.pal.recovery = 2 && i.comp ≠ 0 && i.comp ≠ 4) then (St.BAD_PARAM, none) else r

/-- The images of a list from entry k on: status, failing index, images so far. -/
def State.stageAll (s : State) (d : Desc) (tab : Nat) : Nat → Nat → List PalImg → Nat × Nat × List PalImg
  | 0, _, acc => (St.OK, 0, acc)
  | n + 1, k, acc =>
    let r := s.stageOne d (s.load (tab + 16 * k) 8) (s.load (tab + 16 * k + 8) 8)
    match r.2 with
    | none => (r.1, k, [])
    | some i => if acc.any (·.comp == i.comp) then (St.BAD_PARAM, k, []) else State.stageAll s d tab n (k + 1) (acc ++ [i])

/-- Whether a version meets a REQUIRES entry. -/
def reqMet (e : Nat × (Nat × Nat)) (version : Nat) : Bool := e.2.1 ≤ version && (e.2.2 = 0xFFFFFFFF || version ≤ e.2.2)

/-- Whether a staged image satisfies an entry. -/
def imgMeets (i : PalImg) (e : Nat × (Nat × Nat)) : Bool := i.comp == e.1 && reqMet e i.version

/-- The lowest component of a list. -/
def lowestImg : List PalImg → Option PalImg
  | [] => none
  | i :: r => match lowestImg r with
    | none => some i
    | some j => some (if i.comp ≤ j.comp then i else j)

/-- The order of R583; what stays unplaced lies on a cycle. -/
def palOrder : Nat → List PalImg → List PalImg × List PalImg
  | 0, rest => ([], rest)
  | n + 1, rest =>
    match lowestImg (rest.filter fun i => rest.all fun o => o.comp == i.comp || ! i.reqs.any (imgMeets o)) with
    | none => ([], rest)
    | some i =>
      let r := palOrder n (rest.filter (·.comp != i.comp))
      (i :: r.1, r.2)

/-- The first image with an entry that neither an installed version nor an image before it meets. -/
def State.unmet (s : State) : List PalImg → List PalImg → Option Nat
  | _, [] => none
  | before, i :: r =>
    if i.reqs.all fun e => ((s.dirEntry e.1).2.2 ≠ 0 && e.1 < 6 && reqMet e (s.dirEntry e.1).2.1) || before.any (imgMeets · e) then
      State.unmet s (before ++ [i]) r
    else some i.comp

/-- Checks that Palimpsest's commands share: the module OPERATIONAL (the recovery of R575 apart) and the Crypto Officer role. -/
def State.palCheck (s : State) (d : Desc) : Nat × Nat :=
  firstFail [need (s.chpMode == 2 || (s.pal.recovery ≠ 0 && nspSlot d.slotId)) ChpSt.ERROR_STATE, need (s.holdsCo d) ChpSt.NOT_AUTH]

/-- PAL_STAGE. -/
def execPalStage (d : Desc) (s : State) : Out :=
  let n := d.n 3 % 8
  let tab := cat64 (d.word 4) (d.word 5)
  .next (commandNow 0x8E d (fun s => firstFail [stoppedOrRunning s d, s.palCheck d, need (s.palMode ≤ 1) St.WRONG_STATE,
      need (1 ≤ n && n ≤ 6) St.BAD_PARAM, s.bufCheck d tab (16 * n), need (s.localOf tab).isSome St.ACCESS_DENIED]) (fun s =>
    let r := s.stageAll d ((s.localOf tab).getD 0) n 0 []
    let o := palOrder 6 r.2.2
    let order := (List.range o.1.length).foldl (fun m k => m + ((o.1.map (·.comp)).getD k 0) * 16 ^ k) 0
    if r.1 ≠ St.OK then (s, r.1, [0, w32 r.2.1])
    else match o.2.head?, s.unmet [] o.1 with
      | some i, _ => (s, PalSt.REQUIRES, [0, w32 i.comp])
      | none, some c => (s, PalSt.REQUIRES, [0, w32 c])
      | none, none => ((s.setPal { s.pal with staged := o.1 }).setPalMode 1, St.OK, [w32 order])) s)

/-! ## PAL_CTL -/

/-- Whether the protocol version of a CTRL image differs by 2 or more from that of a reachable peer (R584), as its HELLO told it. -/
def State.fabricSkew (s : State) (proto : Nat) : Bool :=
  (List.range 64).any fun v => s.bit (Reg.YLK_PEER_W0 0 v) 31 && s.ylk.units.any fun u => u.2.1 == v &&
    (match sget s.ylk.vers u.1 none with
     | some w => decide (w + 2 ≤ proto) || decide (proto + 2 ≤ w)
     | none => false)

def palKind (d : Desc) : Nat := d.n 3 % 8

/-- A PAL_CTL command that ends as it is accepted, in a state of R579. -/
def palCtl (d : Desc) (kind mode : Nat) (chk : State → Nat × Nat) (act : State → State) (s : State) : Out :=
  if palKind d ≠ kind then .next s else
  .next (commandNow 0x8F d (fun s => firstFail [stoppedOrRunning s d, s.palCheck d, chk s, need (s.palMode == mode && ! s.trialOver) St.WRONG_STATE])
    (fun s => (act s, St.OK, [])) s)

/-- PAL_CTL START: its slot stays NOT_READY until the last component is confirmed or falls back. The row also answers BAD_PARAM to the
kinds 5 to 7 that are not assigned. -/
def execPalCtlStart (d : Desc) (s : State) : Out :=
  if 1 ≤ palKind d && palKind d ≤ 4 then .next s else
  .next (command 0x8F d (fun s => firstFail [stoppedOrRunning s d, s.palCheck d, need (palKind d == 0) St.BAD_PARAM, need (s.palMode == 1) St.WRONG_STATE,
      need (s.pal.staged.all fun i => i.comp ≠ 0 || ! s.fabricSkew i.proto) PalSt.FABRIC_SKEW]) (fun s =>
    let s := s.setPal { s.pal with slot := some d.slotId, done := 0 }
    s.pal.staged.head?.elim s s.palBegin) s)

/-- A confirmation (R582): DIR entry ACTIVE, JHDR erased, REVOKE, the counter; then the next component, or IDLE. -/
def State.palConfirm (s : State) : State :=
  match s.pal.cur with
  | none => s
  | some i =>
    let s := s.dirWrite i.comp i.len i.version 1
    let s := s.setPal { s.pal with journal := none, done := s.pal.done + 1, staged := s.pal.staged.drop 1 }
    let s := if bitOf i.cflags 2 then s.setChp { s.chp with revoked := (List.range (min i.key 4)).foldl setIns s.chp.revoked } else s
    let s := if bitOf i.cflags 0 then (s.advance i.comp i.svn).1 else s
    let s := s.raise 986
    match s.pal.staged.head? with
    | some j => s.palBegin j
    | none => (s.setPalMode 0).palEnd i.comp 0 St.OK

def execPalCtlConfirm (d : Desc) (s : State) : Out :=
  palCtl d 1 4 (fun _ => need (match d.who with
    | .core c => decide (c.val < 4)
    | _ => false) St.ACCESS_DENIED) State.palConfirm s

def execPalCtlReject (d : Desc) (s : State) : Out :=
  palCtl d 2 4 (fun _ => (St.OK, 0)) (fun s => s.palFall (d.n 4 % 256)) s

def execPalCtlDiscard (d : Desc) (s : State) : Out :=
  palCtl d 3 1 (fun _ => (St.OK, 0)) (fun s => (s.setPal { s.pal with staged := [] }).setPalMode 0) s

/-- PAL_CTL QUERY: STATE, TRIAL_LEFT and LAST_RESULT. -/
def execPalCtlQuery (d : Desc) (s : State) : Out :=
  if palKind d ≠ 4 then .next s else
  .next (commandNow 0x8F d (fun s => firstFail [stoppedOrRunning s d, s.palCheck d])
    (fun s => (s, St.OK, [s.rd Reg.PAL_STATE, w32 s.trialLeft, s.rd Reg.PAL_LAST_RESULT])) s)

/-! ## Writing, starting and restoring (R579 to R581) -/

/-- PAL_BLOCK_WRITTEN: the old block in the journal with its CRC-32, the new one in place, its record WRITTEN. -/
def execPalBlockWritten (s : State) : Out :=
  match s.pal.cur, s.pal.journal with
  | some i, some j =>
    let k := j.recs.length
    if s.palMode ≠ 2 || palBlocks i ≤ k then .next s else
    let a := (flRegion i.comp).1 + 65536 * k
    let old := s.flBytes a 65536
    let new := s.bytes (i.addr + 65536 * k) (min 65536 (i.size - 65536 * k))
    let s := (s.flSet (journalBase + 65536 * k) old).flSet a (new ++ List.replicate (65536 - new.length) 255)
    let s := s.setPal { s.pal with journal := some { j with recs := j.recs ++ [(Config.crc32 old, 0x3F)] } }
    .next (s.setFld Reg.PAL_STATE 8 0 (k + 1))
  | _, _ => .next s

/-- PAL_WRITE_COMPLETE: the region verified again; the directory entry becomes TRIAL, or the old image is restored. An image other
than CTRL starts by a warm reset that Palimpsest requests. -/
def execPalWriteComplete (s : State) : Out :=
  match s.pal.cur, s.pal.journal with
  | some i, some j =>
    if s.palMode ≠ 2 || j.recs.length < palBlocks i then .next s else
    let a := (flRegion i.comp).1
    if s.colophon (s.flBytes a i.len) (s.flBytes (a + colOffset i.comp i.len) colLen) = St.OK then
      let s := s.dirWrite i.comp i.len i.version 2
      .next ((s.setPal { s.pal with at_ := s.chp.clk, warm := i.comp ≠ 0 }).setPalMode 3)
    else .next (s.palFall St.SIGNATURE_FAIL)
  | _, _ => .next s

/-- PAL_IMAGE_STARTED: the trial and its timer begin. -/
def execPalImageStarted (s : State) : Out :=
  match s.pal.cur with
  | some i =>
    if s.palMode ≠ 3 || s.activationOver || s.pal.warm then .next s else
    .next (((s.setPal { s.pal with at_ := s.chp.clk + 10 ^ 9 * i.trial }).setPalMode 4).raise 985)
  | none => .next s

/-- PAL_ACTIVATION_TIMEOUT: not started within 3 s. -/
def execPalActivationTimeout (s : State) : Out := .next (if s.activationOver then s.palFall St.TIMEOUT else s)

/-- PAL_TRIAL_EXPIRY. -/
def execPalTrialExpiry (s : State) : Out := .next (if s.trialOver then s.palFall St.TIMEOUT else s)

/-- The journal replayed (R581): every block back in place, the old entry in a new directory, JHDR erased. -/
def State.replay (s : State) (j : PalJournal) : State :=
  let s := (List.range j.recs.length).foldl (fun s k =>
    s.flSet ((flRegion j.comp).1 + 65536 * k) (s.flBytes (journalBase + 65536 * k) 65536)) s
  let s := s.dirWrite j.comp j.oldLen j.oldVersion (if j.oldLen = 0 then 0 else 1)
  (s.setPal { s.pal with journal := none }).setFld Reg.PAL_STATE 8 0 j.recs.length

/-- PAL_RESTORE_COMPLETE: replay done and the old image started. -/
def execPalRestoreComplete (s : State) : Out :=
  match s.pal.journal with
  | some j =>
    if s.palMode ≠ 5 then .next s else
    .next ((((s.replay j).setPalMode 0).raise 987).palEnd j.comp s.pal.cause PalSt.FELL_BACK)
  | none => .next s

/-- What the Boot ROM finds in JHDR (R581): a confirmed update's is erased; any other leads to RESTORING, with a cause the manual does
not state: a free value. The image that a warm reset of Palimpsest starts goes on ACTIVATING. -/
def State.palBoot (s : State) : State :=
  if s.pal.warm && s.palMode = 3 then s.setPal { s.pal with warm := false, fl := none } else
  let p := s.pal
  let s := s.setPal { p with staged := [], cur := none, slot := none, fl := none, done := 0, warm := false }
  let s := (s.setFld Reg.PAL_STATE 31 29 0).setFld Reg.PAL_STATE 27 24 0
  match p.journal with
  | none => s
  | some j =>
    if j.seq < s.dirSeq && (s.dirEntry j.comp).2.2 = 1 then s.setPal { s.pal with journal := none }
    else
      let c := s.free1 256
      (c.2.setFld Reg.PAL_STATE 27 24 j.comp).palFall c.1

/-! ## Flash accesses (R592) -/

def execFlRead (who : Requester) (s : State) : Out := .next (access who Reg.PAL_FL_CMD (fun s => (s.flStart 1, 0)) s)
def execFlProgram (who : Requester) (s : State) : Out := .next (access who Reg.PAL_FL_CMD (fun s => (s.flStart 2, 0)) s)
def execFlErase (who : Requester) (s : State) : Out := .next (access who Reg.PAL_FL_CMD (fun s => (s.flStart 3, 0)) s)

/-- Flash as FL_READ shows it: the journal header and the key store, whose layout the manual does not give, read free values. -/
def State.flShown (s : State) (k a : Nat) : Byte :=
  if 0x40000 ≤ a && a < 0x100000 then Config.freeByte k a else s.flByte a

/-- Status of a flash access: operation, address, length, buffer. -/
def State.flStatus (s : State) (op a n g : Nat) : Nat :=
  if n = 0 || 2 ^ 20 < n || Config.flashSize < a + n then St.BAD_PARAM
  else if op = 3 && (a % 65536 ≠ 0 || n % 65536 ≠ 0) then St.BAD_PARAM
  else if op ≠ 1 && ! (0x100000 ≤ a && a + n ≤ 0x500000) && a < 0x5200000 then St.ACCESS_DENIED
  else if op ≠ 3 && ! (s.scribeOk 16 g n && (s.localOf g).isSome) then St.BAD_PARAM
  else St.OK

/-- FL_ACCESS_COMPLETE: a program only clears bits; an erase sets every one; EV0988. -/
def execFlAccessComplete (s : State) : Out :=
  match s.pal.fl with
  | none => .next s
  | some (op, a, n, g) =>
    let st := s.flStatus op a n g
    let l := (s.localOf g).getD 0
    let s := s.setPal { s.pal with fl := none }
    let k := s.free
    let s := if st ≠ St.OK then s
      else if op = 1 then { ((s.setBytes l ((List.range n).map fun i => s.flShown k (a + i))).unpoison l n) with free := k + 1 }
      else if op = 2 then s.flSet a ((List.range n).map fun i => s.flByte (a + i) &&& s.byte (l + i))
      else s.flSet a (List.replicate n 255)
    .next ((s.wrN Reg.PAL_FL_STAT st).raise 988)

end Sys2Proof.Machine
end

