-- ==== Sys2Proof/Machine/Sensors.lean ====
section
/-! DEFINITION. Temperature sensors and adaptive voltage scaling (R620, R628 to R630). -/

namespace Sys2Proof.Machine

/-- A sensor's reading corrected per item 6 of R552, in sixteenths of a degree. -/
def State.corrected (s : State) (i : Nat) (raw : BitVec 12) : Int :=
  let v := signed 12 raw.toNat + s.calEff 6 i
  if v < -2048 then -2048 else if v > 2047 then 2047 else v

/-- The highest of some readings and its first index. -/
def hottest : List Int → Nat → Int × Nat → Int × Nat
  | [], _, b => b
  | v :: r, k, b => hottest r (k + 1) (if v > b.1 then (v, k) else b)

/-- The thresholds of R629 judged on a sample of corrected readings. -/
def State.thermal (s : State) (vs : List Int) : State :=
  let al : Int := 16 * (s.fld Reg.PWM_THERM_CFG 31 24 : Nat)
  let em : Int := 16 * (s.fld Reg.PWM_THERM_CFG 23 16 : Nat)
  let s := if vs.any fun v => decide (al ≤ v) then s.setBit Reg.PWM_THERM_STAT 31
    else if vs.all fun v => decide (v < al - 48) then s.setFld Reg.PWM_THERM_STAT 31 31 0 else s
  let n := if vs.any fun v => decide (em ≤ v) then s.pwr.hot + 1 else 0
  let s := s.setPwr { s.pwr with hot := min n 4 }
  let s := if 4 ≤ n then
      (List.range 64).foldl (fun s d =>
        if s.bit (if d < 32 then Reg.PWM_EMERG_MASK_LO else Reg.PWM_EMERG_MASK_HI) (d % 32) then s.forceDown d 1 else s)
        (s.setBit Reg.PWM_THERM_STAT 30)
    else if vs.all fun v => decide (v ≤ em - 160) then s.setFld Reg.PWM_THERM_STAT 30 30 0 else s
  if vs.any fun v => decide (2000 < v) then (s.setPwr { s.pwr with trip := true }).zeroise 3 else s

/-- SENSOR_SAMPLE: sixteen readings, in sixteenths of a degree before correction. -/
def execSensorSample (temps : Vector (BitVec 12) 16) (s : State) : Out :=
  let vs := (List.range 16).map fun i => s.corrected i (temps.toList.getD i 0)
  let s := (List.range 16).foldl (fun s i => s.wrN (Reg.PWM_SENSOR i) (2 ^ 31 + unsigned 12 (vs.getD i 0))) s
  let h := hottest (vs.drop 1) 1 (vs.getD 0 0, 0)
  let s := (s.setFld Reg.PWM_THERM_STAT 19 16 h.2).setFld Reg.PWM_THERM_STAT 11 0 (unsigned 12 h.1)
  .next (s.thermal vs)

/-! ## Adaptive voltage scaling (R620) -/

/-- The setpoint wanted, in millivolts: the fuse table's for the hottest sensor plus the margin of item 7, in steps of 5 mV within 700
to 800. -/
def State.setpointWanted (s : State) : Nat :=
  let v : Int := (Config.avsTable (signed 12 (s.fld Reg.PWM_THERM_STAT 11 0)) : Int) + s.calEff 7 0
  min (max ((v.toNat + 4) / 5 * 5) 700) 800

/-- AVS_SETPOINT_STEP: at most one step of 5 mV in 100 µs; without an acknowledgement 0.80 V is requested. -/
def execAvsSetpointStep (ack : Bool) (s : State) : Out :=
  let p := s.pwr
  let w := s.setpointWanted
  if p.unacked || s.chp.clk < p.setAt + 100000 || w = p.setpoint then .next s
  else if ack then .next (s.setPwr { p with setpoint := if p.setpoint < w then p.setpoint + 5 else p.setpoint - 5, setAt := s.chp.clk })
  else .next (s.setPwr { p with setpoint := 800, unacked := true, setAt := s.chp.clk })

/-- AVS_RETRY: 0.80 V is requested again every 1 ms until the regulator acknowledges. -/
def execAvsRetry (ack : Bool) (s : State) : Out :=
  if ! s.pwr.unacked || s.chp.clk < s.pwr.setAt + 1000000 then .next s
  else .next (s.setPwr { s.pwr with setpoint := 800, unacked := ! ack, setAt := s.chp.clk })

end Sys2Proof.Machine
end

