-- ==== Sys2Proof/Machine/Vellum.lean ====
section
/-! DEFINITION. The commands of the Vellum (R56 to R72), expert locks (R73 to R78), and the accesses to registers that no other row
names (R10, R28, R30, R67). -/

namespace Sys2Proof.Machine

/-! ## Registers (R10, R11, R19, R20) -/

/-- REGISTER_WRITE: a write of 4 or 8 bytes in the CSR region, by the access codes and holders of what it covers. -/
def execRegisterWrite (who : Requester) (addr : BitVec 48) (bytes : Nat) (value : BitVec 64) (s : State) : Out :=
  if 0x10000000 ≤ addr.toNat then .next s else
  .next (s.holdOr who (whoInit who) (s.whoRealm who) true addr.toNat bytes value.toNat)

/-- RC_FIELD_READ: a read of 4 or 8 bytes in the CSR region; RC fields return to their reset values. -/
def execRcFieldRead (who : Requester) (addr : BitVec 48) (bytes : Nat) (s : State) : Out :=
  if 0x10000000 ≤ addr.toNat then .next s else
  .next (s.holdOr who (whoInit who) (s.whoRealm who) false addr.toNat bytes 0)

/-- TAIL_WRITE (R28). -/
def execTailWrite (who : Requester) (ring : RingId) (value : W32) (s : State) : Out :=
  .next (access who (ringBase ring + 0xC) (fun s => (s.ringTailWrite ring value.toNat, 0)) s)

/-- RING_CFG_WRITE (R29, R30). -/
def execRingCfgWrite (who : Requester) (ring : RingId) (value : W32) (s : State) : Out :=
  .next (accessHeld who (ringBase ring + 8) (fun s => s.ringCfgWrite ring value) s)

/-- Whether a command code is assigned (R67 and the chapters' tables). -/
def cmdAssigned (op : Nat) : Bool :=
  (1 ≤ op && op ≤ 9) || (0x10 ≤ op && op ≤ 0x16) || (0x20 ≤ op && op ≤ 0x2F) || (0x30 ≤ op && op ≤ 0x3E) || (0x40 ≤ op && op ≤ 0x45) ||
  (0x50 ≤ op && op ≤ 0x54) || (0x58 ≤ op && op ≤ 0x5D) || (0x60 ≤ op && op ≤ 0x74) || (0x78 ≤ op && op ≤ 0x7D) || (0x80 ≤ op && op ≤ 0x97)

/-- Opcodes of a pool (R327 to R336, R354): the highest assigned; all count from 1. -/
def poolOpcodes (p : Nat) : Nat := [1, 1, 2, 2, 4, 2, 1, 3].getD p 0

/-- UNASSIGNED_OPCODE (R67, R319, R421): the descriptor at the head of its ring completes with BAD_PARAM. -/
def execUnassignedOpcode (j : Job) (s : State) : Out :=
  let op := bitsOf (j.n 0) 23 16
  match j.ring with
  | .cmd r =>
    if cmdAssigned op || ! s.ringReady j.ring then .next s else
    .next ((s.bumpSat (Reg.CMD_REJ_CNT r) 31 0 1).complete j.ring St.BAD_PARAM 0)
  | .scribe _ _ => if 1 ≤ op && op ≤ 4 then .next s else .next (scribeStart op j s)
  | r =>
    match ringUnit r with
    | none => .next s
    | some (u, _) =>
      if 1 ≤ op && op ≤ poolOpcodes (unitPool u) then .next s else
      .next (poolJob (unitPool u) j false [] [] true [] (fun s => (s, { status := St.BAD_PARAM, result := 0, data := [], work := 0 })) s)

/-! ## Staging (R72) -/

/-- Checks of a command on a realm: TARGET is a realm, its state is one of a list (R63). -/
def realmIn (s : State) (d : Desc) (states : List Nat) : Nat × Nat :=
  firstFail [need (d.tgt < 16) St.BAD_PARAM, need (states.contains (s.realmState d.tgt)) St.WRONG_STATE]

/-- On CMD[r], VLM_STAGE, VLM_DISCARD and REALM_APPLY need SELF_RECONFIG (R69). -/
def selfReconfig (s : State) (d : Desc) : Nat × Nat := need (d.ring.val = 16 || s.realmFlag d.tgt 2) St.ACCESS_DENIED

/-- VLM_STAGE. -/
def execVlmStage (d : Desc) (s : State) : Out :=
  .next (command 0x01 d (fun s => firstFail [selfReconfig s d, realmIn s d [0, 1, 2, 3],
    need (d.n 3 % 8 = 0 && d.n 5 ≤ 2 ^ 20) St.BAD_PARAM]) id s)

/-- Result words of a validation. -/
def vlmWords (f : VFault) (serial : Nat) : List W32 := [w32 f.index, w32 f.offset, w32 serial]

/-- Status of reading n bytes at a global address for a ring of a realm (16: the device's own). -/
def State.sourceStatus (s : State) (r g n : Nat) : Nat :=
  if s.readStatus g n ≠ St.OK then s.readStatus g n else if s.reachable r g n then St.OK else St.ACCESS_DENIED

/-- VLM_STAGE_COMPLETE: the copy is made and checked; one that fails changes nothing. -/
def execVlmStageComplete (slot : SlotId) (s : State) : Out :=
  match s.running slot with
  | none => .next s
  | some c =>
    if c.op ≠ 0x01 then .next s else
    let r := c.d.tgt
    let g := cat64 (c.d.word 3) (c.d.word 4)
    let n := c.d.n 5
    let st := s.sourceStatus (if c.d.ring.val < 16 then c.d.ring else 16) g n
    if st ≠ St.OK then .next (s.slotEnd slot st []) else
    let bs := s.bytes ((s.localOf g).getD 0) n
    let serial := numB bs 0x10 4
    match s.vlmCheck bs (some r) with
    | .error f => .next (s.slotEnd slot f.status (vlmWords f serial))
    | .ok _ => .next ((s.setStaged r (some { serial := serial, bytes := bs })).slotEnd slot St.OK [0, 0, w32 serial])

/-- VLM_DISCARD. -/
def execVlmDiscard (d : Desc) (s : State) : Out :=
  .next (commandNow 0x02 d (fun s => firstFail [selfReconfig s d, realmIn s d [0, 1, 2, 3],
    need (s.stagedOf d.tgt).isSome St.WRONG_STATE]) (fun s => (s.setStaged d.tgt none, St.OK, [])) s)

/-! ## Realm states (R56, R57) -/

/-- Whether a START_D0 domain of a realm is forced down (R516). -/
def State.startBlocked (s : State) (r : Nat) : Bool :=
  ((s.recs 0x16 r).flatMap polEntries).any fun p => bitOf p.flags 4 && s.domForced p.dom

/-- REALM_START. -/
def execRealmStart (d : Desc) (s : State) : Out :=
  .next (commandNow 0x03 d (fun s => realmIn s d [1]) (fun s =>
    if s.startBlocked d.tgt then (s, St.NO_RESOURCE, []) else (s.realmTo d.tgt 2, St.OK, [])) s)

/-- REALM_STOP (R57): with MODE 1 Folios not yet released end with ABORTED. Its slot ends at STOPPED. -/
def execRealmStop (d : Desc) (s : State) : Out :=
  let r := d.tgt
  .next (command 0x04 d (fun s => realmIn s d [2]) (fun s =>
    let fs := if bitOf (d.n 3) 0 then (s.foliosOf r).filter (·.state < 2) else []
    let s := fs.foldl (fun s f => s.folioAbort f 2) s
    let s := s.realmTo r 3
    s.setVlm { s.vlm with stops := sput s.vlm.stops r (some (d.slotId, fs.length, s.rdN (Reg.ORD_RLM_CNT_DONE r))) none }) s)

/-- A REALM_STOP that runs ends with OK: Folios aborted, Folios completed; now is CNT_DONE at the count. -/
def State.stopEnd (s : State) (r now : Nat) : State :=
  match sget s.vlm.stops r none with
  | none => s
  | some (k, n, base) =>
    (s.setVlm { s.vlm with stops := sdel s.vlm.stops r }).slotEnd k St.OK [w32 n, w32 (now + 2 ^ 32 - base)]

/-- REALM_STOPPED: a STOPPING realm without an outstanding Folio enters STOPPED; its HOST votes end (R517). -/
def execRealmStopped (r : Fin 16) (s : State) : Out :=
  if s.realmState r ≠ 3 || ! (s.foliosOf r).isEmpty then .next s else
  let s := s.setPwr { s.pwr with host := s.pwr.host.filter fun e => e.1 % 16 ≠ r.val }
  .next ((s.realmTo r 1).stopEnd r (s.rdN (Reg.ORD_RLM_CNT_DONE r)))

/-- REALM_RESET: locks released, realm reset, STOPPED. A REALM_STOP that runs ends as STOPPED is reached. -/
def execRealmReset (d : Desc) (s : State) : Out :=
  let r := d.tgt
  .next (commandNow 0x06 d (fun s => realmIn s d [1, 2, 3]) (fun s =>
    let n := (s.foliosOf r).length
    let done := s.rdN (Reg.ORD_RLM_CNT_DONE r)
    let s := (s.realmUnlock r).realmReset r
    ((s.realmTo r 1).stopEnd r done, St.OK, [w32 n])) s)

/-- REALM_QUERY. -/
def execRealmQuery (d : Desc) (s : State) : Out :=
  let r := d.tgt
  .next (commandNow 0x07 d (fun s => realmIn s d [0, 1, 2, 3, 4]) (fun s =>
    (s, St.OK, [s.rd (Reg.VLM_REALM_STATE r), s.rd (Reg.VLM_REALM_SERIAL r), w32 ((s.stagedOf r).elim 0 (·.serial))])) s)

/-! ## REALM_APPLY (R58 to R62) -/

/-- REALM_APPLY: accepted behind the applies before it. -/
def execRealmApply (d : Desc) (s : State) : Out :=
  let r := d.tgt
  .next (command 0x05 d (fun s => firstFail [selfReconfig s d, realmIn s d [0, 1], need (s.stagedOf r).isSome St.WRONG_STATE]) (fun s =>
    let a : ApplyReq := { realm := r, slot := d.slotId, started := false, recs := [], serial := 0 }
    (s.realmTo r 4).setVlm { s.vlm with applies := s.vlm.applies ++ [a] }) s)

/-- The state before an apply of a realm: STOPPED, or ABSENT without a REALM record. -/
def State.applyBack (s : State) (r : Nat) : State := s.realmTo r (if (s.recs 0x10 r).isEmpty then 0 else 1)

/-- REALM_APPLY_EXECUTE: the oldest apply is validated against the configuration as it stands, and runs steps 2 to 6; one that fails,
or meets a lock on NOC[48] (R404), keeps the old configuration, and its staged Vellum is discarded. It waits while an epoch drains. -/
def execRealmApplyExecute (s : State) : Out :=
  match s.vlm.applies with
  | [] => .next s
  | a :: rest =>
    if a.started || s.noc.draining then .next s else
    let r := a.realm
    let bs := (s.stagedOf r).elim [] (·.bytes)
    let serial := numB bs 0x10 4
    let t := (s.setStaged r none)
    let fail := fun (f : VFault) => ((t.setVlm { t.vlm with applies := rest }).applyBack r).slotEnd a.slot f.status (vlmWords f serial)
    if s.bit (Reg.VLM_LOCK 0x370) 31 then .next (fail (VFault.mk St.BLOCK_IN_EXPERT 0xFFFF 0)) else
    match s.vlmCheck bs (some r) with
    | .error f => .next (fail f)
    | .ok rs =>
      let t := t.applyClaim r rs
      .next (t.setVlm { t.vlm with applies := { a with started := true, recs := rs, serial := serial } :: rest })

/-- REALM_APPLY_COMPLETE: once the old epoch has drained, steps 7 and 8; fault is the status of a hardware fault met on the way (R60),
OK for none. -/
def execRealmApplyComplete (fault : BitVec 8) (s : State) : Out :=
  match s.vlm.applies with
  | [] => .next s
  | a :: rest =>
    if ! a.started || s.noc.draining then .next s else
    let r := a.realm
    let s := s.applyLoad r a.recs
    let s := (s.wrN (Reg.VLM_REALM_SERIAL r) a.serial).bump Reg.VLM_APPLY_SEQ 1
    let s := s.setVlm { s.vlm with applies := rest }
    let s := s.applyBack r
    let s := if s.realmFlag r 0 && fault = 0 then s.realmTo r 2 else s
    .next (s.slotEnd a.slot fault.toNat [0, 0, w32 a.serial])

/-! ## Expert locks (R73 to R78) -/

/-- Who issued a command: the VF of its ring, or, on CMD[16], the physical function or a core of the control firmware. -/
def cmdWho (d : Desc) : Requester :=
  if d.ring.val < 16 then .vf (Fin.ofNat 16 d.ring) else
  match d.who with
  | .core c => if c.val < 4 then .core c else .pf
  | _ => .pf

/-- The realm for which a command asks: 16 for the device. -/
def cmdRealm (d : Desc) : Nat := if d.tgt < 16 then d.tgt else 16

/-- EXPERT_ACQUIRE: accepted; the lock is set once earlier commands to the instance have ended. -/
def execExpertAcquire (d : Desc) (s : State) : Out :=
  let i := d.n 3 % 4096
  .next (command 0x08 d (fun s => firstFail [if d.tgt = 255 then (St.OK, 0) else realmIn s d [1, 2], need (lockable i) St.BAD_PARAM,
      need (s.lockOwner i = cmdRealm d && (d.tgt = 255 || s.realmFlag d.tgt 1)) St.ACCESS_DENIED, notExpert s i])
    (fun s => s.setVlm { s.vlm with lockReqs := sput s.vlm.lockReqs i (some { op := 0x08, d := d }) none }) s)

/-- The block instance that a command still running acts on, where it acts on one. -/
def cmdInstance (c : RunCmd) : Option Nat :=
  if c.op = 0x10 then some 0x60
  else if 0x20 ≤ c.op && c.op ≤ 0x2C then some (0x70 + dQuire c.d)
  else if c.op = 0x32 then some (0x40 + c.d.n 3 % 8)
  else if c.op = 0x3B then some 0x51
  else if c.op = 0x5B then some (0x340 + c.d.n 3 % 64)
  else if c.op = 0x72 then some 0x550
  else if c.op = 0x73 then some (0x550 + c.d.n 3 % 4)
  else if c.op = 0x84 then some (if bitOf (c.d.n 3) 0 then 0x530 + bitsOf (c.d.n 3) 5 1 / 4 else 0x500 + bitsOf (c.d.n 3) 5 1)
  else none

/-- The unit of placement that a block instance is (R144), by the kinds of `UBook`, kind 0 a Quire by its DUC. -/
def lockUnit (i : Nat) : Option (Nat × Nat) :=
  if 0x70 ≤ i && i < 0x78 then some (0, i - 0x70)
  else if 0x180 ≤ i && i < 0x190 then some (1, i - 0x180)
  else if 0x408 ≤ i && i < 0x40C then some (3, i - 0x408)
  else ((List.range 58).find? fun j => poolLock j == i).map fun j => (2, j)

/-- Folios PLACED on a unit that goes under an expert lock are re-placed as on a fence (R144). -/
def State.lockReplace (s : State) (kind unit : Nat) : State :=
  (s.byDeadline.filter (·.state == 1)).foldl (fun s f =>
    let ts := (List.range f.tasks.length).filter fun t => (f.taskAt t).onUnit kind unit
    if ts.isEmpty then s else
    let s := s.setOrd { s.ord with books := s.ord.books.filter fun b => ! (b.realm == f.realm && b.inst == f.inst && ts.contains b.task) }
    let m := ts.foldl (fun (a : State × Folio) t => a.1.replaceTask a.2 t) (s, f)
    m.1.setFolio m.2) s

/-- EXPERT_LOCK_SET (R76): with no earlier command to the instance running, the lock is set and the slot shows OK. -/
def execExpertLockSet (inst : BitVec 12) (s : State) : Out :=
  let i := inst.toNat
  match sget s.vlm.lockReqs i none with
  | none => .next s
  | some c =>
    if s.vlm.cmds.any fun e => e.2.any fun x => cmdInstance x == some i then .next s else
    let s := s.setVlm { s.vlm with lockReqs := sdel s.vlm.lockReqs i }
    let s := s.lockSet i (cmdRealm c.d) (cmdWho c.d)
    let s := (lockUnit i).elim s fun u => s.lockReplace u.1 u.2
    .next (s.slotEnd c.d.slotId St.OK [s.rd (Reg.VLM_LOCK i)])

/-- EXPERT_RELEASE: by the holder alone; block reset, the basic-level configuration restored (R78). -/
def execExpertRelease (d : Desc) (s : State) : Out :=
  let i := d.n 3 % 4096
  .next (commandNow 0x09 d (fun s => firstFail [if d.tgt = 255 then (St.OK, 0) else realmIn s d [1, 2, 3],
      need (s.lockHolder (cmdWho d) i) St.ACCESS_DENIED])
    (fun s => let s := s.lockDrop i false; (s, St.OK, [s.rd (Reg.VLM_LOCK i)])) s)

end Sys2Proof.Machine
end

