-- ==== Sys2Proof/WellFormed.lean ====
section
/-! DEFINITION. Which commands can be sent at all: descriptors of 16 words that name a slot of a ring (R22, R66), packets within the
limits of their protocols (R587, R588, R593), units and banks that exist (R376, R538). -/

namespace Sys2Proof

/-- Parameters of a command descriptor: words 3 to 13. -/
def wfPar (d : Desc) : Bool := decide (d.par.length ≤ 11)

/-- A command descriptor of a ring: slots 0 to 63. -/
def wfDesc (d : Desc) : Bool := wfPar d && decide (d.slot.val < 64)

/-- A job descriptor: words 0 to 13. -/
def wfJob (j : Job) : Bool := decide (j.words.length ≤ 14)

/-- A host TLP: payload up to 512 bytes, reads up to 4,096. -/
def wfHost (write : Bool) (bytes : BitVec 13) (data : List Byte) : Bool :=
  if write then decide (data.length ≤ 512) else decide (bytes.toNat ≤ 4096)

/-- A PCIe link state: up at a rate with 1, 2, 4, 8 or 16 lanes, or down. -/
def wfLink (rate : Fin 7) (width : Fin 17) : Bool :=
  if rate.val = 0 then width.val == 0 else [1, 2, 4, 8, 16].contains width.val

/-- A fence unit: kind 0 Quire, 1 Ferrule, 2 pool unit or RA engine, 3 Chancery engine. -/
def wfUnit (u : Nat × Nat) : Bool :=
  match u.1 with
  | 0 => decide (u.2 < 8)
  | 1 => decide (u.2 < 16)
  | 2 => decide (u.2 < 58)
  | 3 => decide (u.2 < 4)
  | _ => false

/-- An Inkwell bank: 64 in each Quire, 128 in System Inkwell (8). -/
def wfBank (b : Nat × Nat) : Bool := if b.1 < 8 then decide (b.2 < 64) else b.1 == 8 && decide (b.2 < 128)

/-- Whether a command is well formed. -/
def Instr.wf : Instr → Bool
  | .registerWrite _ _ _ _ => true
  | .tailWrite _ _ _ => true
  | .ringCfgWrite _ _ _ => true
  | .vlmStage d => wfDesc d
  | .vlmStageComplete slot => decide (slot.slot.val < 64)
  | .vlmDiscard d => wfDesc d
  | .realmStart d => wfDesc d
  | .realmStop d => wfDesc d
  | .realmStopped _ => true
  | .realmReset d => wfDesc d
  | .realmQuery d => wfDesc d
  | .realmApply d => wfDesc d
  | .realmApplyExecute => true
  | .realmApplyComplete _ => true
  | .expertAcquire d => wfDesc d
  | .expertLockSet _ => true
  | .expertRelease d => wfDesc d
  | .tbQuery d => wfDesc d
  | .tbDisciplineStart d => wfDesc d
  | .tbDisciplineStop d => wfDesc d
  | .tbStep d => wfDesc d
  | .tbFreq d => wfDesc d
  | .stepCtlGo _ _ _ => true
  | .timeBaseStepApply _ => true
  | .freqAdjHiWrite _ _ _ => true
  | .tbStateWrite _ _ _ => true
  | .nowNsRead _ _ => true
  | .gridQuery d => wfDesc d
  | .gridOffset d => wfDesc d
  | .gridShadowWrite _ _ _ _ => true
  | .gridPosRead _ _ => true
  | .gridFrameBoundary _ => true
  | .trgAlloc d => wfDesc d
  | .trgArm d => wfDesc d
  | .trgDisarm d => wfDesc d
  | .trgFree d => wfDesc d
  | .trgQuery d => wfDesc d
  | .trgShadowWrite _ _ _ _ => true
  | .trgCtlCommit _ _ => true
  | .trgCtlDisarm _ _ => true
  | .triggerFire _ => true
  | .snapshotCopyComplete _ => true
  | .snapRequest d => wfDesc d
  | .timeInEdge _ _ => true
  | .capNsRead _ _ => true
  | .capRead d => wfDesc d
  | .tioConfig d => wfDesc d
  | .synceSelect d => wfDesc d
  | .timeOutPulseEnd _ => true
  | .toutCfgWrite _ _ _ => true
  | .synceSquelch _ _ => true
  | .folioSubmit d => wfDesc d
  | .placementDecision => true
  | .peerOfferAnswer _ _ => true
  | .peerOfferReceived _ _ _ _ _ => true
  | .folioRelease _ _ => true
  | .folioDeadline _ _ => true
  | .folioCancel d => wfDesc d
  | .folioQuery d => wfDesc d
  | .ordPin d => wfDesc d
  | .ordConfig d => wfDesc d
  | .ordQuery d => wfDesc d
  | .ordTrace d => wfDesc d
  | .faultNotice _ _ _ _ => true
  | .replacement => true
  | .harqDemotionStart _ _ _ => true
  | .threadCreate d => wfDesc d
  | .threadStart d => wfDesc d
  | .threadSuspend d => wfDesc d
  | .threadResume d => wfDesc d
  | .threadKill d => wfDesc d
  | .threadPrio d => wfDesc d
  | .threadQuery d => wfDesc d
  | .semAlloc d => wfDesc d
  | .semFree d => wfDesc d
  | .semPost d => wfDesc d
  | .flagAlloc d => wfDesc d
  | .flagFree d => wfDesc d
  | .flagSet d => wfDesc d
  | .tickConfig d => wfDesc d
  | .ducTrace d => wfDesc d
  | .ducQuery d => wfDesc d
  | .yield _ _ _ => true
  | .exit _ _ _ => true
  | .delay _ _ _ => true
  | .semWait _ _ _ => true
  | .svcSemPost _ _ _ => true
  | .flagWait _ _ _ => true
  | .svcFlagSet _ _ _ => true
  | .flagClear _ _ _ => true
  | .taskEnd _ _ _ => true
  | .checkpoint _ _ _ => true
  | .setPrio _ _ _ => true
  | .resLoRead _ _ => true
  | .nextRead _ _ => true
  | .tick _ _ _ => true
  | .tickExpiry _ => true
  | .journalWriteFailure _ => true
  | .tcbWrite _ _ _ _ _ => true
  | .add _ _ _ _ => true
  | .sub _ _ _ _ => true
  | .and _ _ _ _ => true
  | .or _ _ _ _ => true
  | .xor _ _ _ _ => true
  | .sll _ _ _ _ => true
  | .srl _ _ _ _ => true
  | .sra _ _ _ _ => true
  | .slt _ _ _ _ => true
  | .sltu _ _ _ _ => true
  | .min _ _ _ _ => true
  | .max _ _ _ _ => true
  | .minu _ _ _ _ => true
  | .maxu _ _ _ _ => true
  | .clz _ _ _ => true
  | .popc _ _ _ => true
  | .addw _ _ _ _ => true
  | .subw _ _ _ _ => true
  | .addsw _ _ _ _ => true
  | .subsw _ _ _ _ => true
  | .addi _ _ _ _ => true
  | .andi _ _ _ _ => true
  | .ori _ _ _ _ => true
  | .xori _ _ _ _ => true
  | .slli _ _ _ _ => true
  | .srli _ _ _ _ => true
  | .srai _ _ _ _ => true
  | .slti _ _ _ _ => true
  | .lui _ _ _ => true
  | .addpc _ _ _ => true
  | .mul _ _ _ _ => true
  | .mulh _ _ _ _ => true
  | .mulhu _ _ _ _ => true
  | .mulw _ _ _ _ => true
  | .extu _ _ _ _ _ => true
  | .exts _ _ _ _ _ => true
  | .ins _ _ _ _ _ => true
  | .sel _ _ _ _ _ => true
  | .beq _ _ _ _ => true
  | .bne _ _ _ _ => true
  | .blt _ _ _ _ => true
  | .bge _ _ _ _ => true
  | .bltu _ _ _ _ => true
  | .bgeu _ _ _ _ => true
  | .jal _ _ _ => true
  | .jalr _ _ _ _ => true
  | .mfsr _ _ _ => true
  | .mtsr _ _ _ => true
  | .mftb _ _ _ => true
  | .mttb _ _ _ => true
  | .trap _ _ => true
  | .rfe _ => true
  | .wait _ => true
  | .nibWaitWake _ => true
  | .bkpt _ => true
  | .dclean _ _ _ => true
  | .dinv _ _ _ => true
  | .dflush _ _ _ => true
  | .dpref _ _ _ => true
  | .icinv _ _ _ => true
  | .icinvAll _ => true
  | .dflushAll _ => true
  | .lb _ _ _ _ => true
  | .lh _ _ _ _ => true
  | .lw _ _ _ _ => true
  | .ld _ _ _ _ => true
  | .lbu _ _ _ _ => true
  | .lhu _ _ _ _ => true
  | .lwu _ _ _ _ => true
  | .sb _ _ _ _ => true
  | .sh _ _ _ _ => true
  | .sw _ _ _ _ => true
  | .sd _ _ _ _ => true
  | .ldc _ _ _ _ _ _ _ => true
  | .stc _ _ _ _ _ _ => true
  | .amoaddW _ _ _ _ => true
  | .amoaddD _ _ _ _ => true
  | .amoswapW _ _ _ _ => true
  | .amoswapD _ _ _ _ => true
  | .amocasW _ _ _ _ => true
  | .amocasD _ _ _ _ => true
  | .amoandD _ _ _ _ => true
  | .amoorD _ _ _ _ => true
  | .deferredResultLanding _ => true
  | .cacheLineFill _ _ => true
  | .interruptEntry _ => true
  | .nibTimerExpiry _ => true
  | .doorbellWrite _ _ => true
  | .nibCtlRun _ _ => true
  | .nibCtlHalt _ _ => true
  | .nibCtlResume _ _ => true
  | .nibCtlStep _ _ => true
  | .dbgDataRead _ _ => true
  | .dbgDataWrite _ _ _ => true
  | .cycleLoRead _ _ => true
  | .bundlesLoRead _ _ => true
  | .vspan _ _ _ _ _ => true
  | .vctl _ _ => true
  | .vcapi _ _ _ _ => true
  | .vadd _ _ _ _ _ => true
  | .vsub _ _ _ _ _ => true
  | .vand _ _ _ _ _ => true
  | .vor _ _ _ _ _ => true
  | .vxor _ _ _ _ _ => true
  | .vmin _ _ _ _ _ => true
  | .vmax _ _ _ _ _ => true
  | .vminu _ _ _ _ _ => true
  | .vmaxu _ _ _ _ _ => true
  | .vsll _ _ _ _ _ => true
  | .vsrl _ _ _ _ _ => true
  | .vsra _ _ _ _ _ => true
  | .vmul _ _ _ _ _ => true
  | .vmulh _ _ _ _ _ => true
  | .vmulhu _ _ _ _ _ => true
  | .vmerge _ _ _ _ _ => true
  | .vmv _ _ _ _ => true
  | .vsadd _ _ _ _ _ => true
  | .vssub _ _ _ _ _ => true
  | .vsaddu _ _ _ _ _ => true
  | .vssubu _ _ _ _ _ => true
  | .vavg _ _ _ _ _ => true
  | .vmulq _ _ _ _ _ => true
  | .vssll _ _ _ _ _ => true
  | .vsrar _ _ _ _ _ => true
  | .vsabs _ _ _ _ => true
  | .vsneg _ _ _ _ => true
  | .vcmul _ _ _ _ _ => true
  | .vcmulj _ _ _ _ _ => true
  | .vconj _ _ _ _ => true
  | .vwadd _ _ _ _ _ => true
  | .vwsub _ _ _ _ _ => true
  | .vwmul _ _ _ _ _ => true
  | .vwmulu _ _ _ _ _ => true
  | .vwcmul _ _ _ _ _ => true
  | .vnsra _ _ _ _ _ => true
  | .vnclip _ _ _ _ _ => true
  | .vnclipu _ _ _ _ _ => true
  | .vsext _ _ _ _ => true
  | .vzext _ _ _ _ => true
  | .vmac _ _ _ _ _ => true
  | .vmsu _ _ _ _ _ => true
  | .vmacz _ _ _ _ _ => true
  | .vcmac _ _ _ _ _ => true
  | .vcmacj _ _ _ _ _ => true
  | .vcmacz _ _ _ _ _ => true
  | .vcmsu _ _ _ _ _ => true
  | .vaext _ _ _ _ _ => true
  | .vamov _ _ _ _ _ => true
  | .vaclr _ _ => true
  | .vaclrf _ _ => true
  | .vcmpeq _ _ _ _ _ => true
  | .vcmpne _ _ _ _ _ => true
  | .vcmplt _ _ _ _ _ => true
  | .vcmple _ _ _ _ _ => true
  | .vcmpltu _ _ _ _ _ => true
  | .vcmpleu _ _ _ _ _ => true
  | .vcmpgt _ _ _ _ _ => true
  | .vcmpge _ _ _ _ _ => true
  | .pand _ _ _ _ _ => true
  | .por _ _ _ _ _ => true
  | .pxor _ _ _ _ _ => true
  | .pandn _ _ _ _ _ => true
  | .pffget _ _ _ => true
  | .pwhile _ _ _ _ => true
  | .pcnt _ _ _ _ => true
  | .pfirst _ _ _ _ => true
  | .pfflen _ _ => true
  | .pffput _ _ => true
  | .vbcast _ _ _ _ => true
  | .vslidedn _ _ _ _ _ => true
  | .vslideup _ _ _ _ _ => true
  | .vmvxs _ _ _ => true
  | .vmvsx _ _ _ _ => true
  | .vperm _ _ _ _ _ => true
  | .vswapiq _ _ _ _ => true
  | .vrsum _ _ _ _ => true
  | .vrmax _ _ _ _ => true
  | .vrmin _ _ _ _ => true
  | .vrmaxabs _ _ _ _ => true
  | .vrmincls _ _ _ _ => true
  | .vcls _ _ _ _ => true
  | .vnorm _ _ _ _ => true
  | .vbexp _ _ _ _ => true
  | .vbscl _ _ _ _ _ => true
  | .vbpack _ _ _ _ _ => true
  | .vbunpk _ _ _ _ => true
  | .vfadd _ _ _ _ _ => true
  | .vfsub _ _ _ _ _ => true
  | .vfmul _ _ _ _ _ => true
  | .vfma _ _ _ _ _ => true
  | .vfmin _ _ _ _ _ => true
  | .vfmax _ _ _ _ _ => true
  | .vfcmplt _ _ _ _ _ => true
  | .vfcmpeq _ _ _ _ _ => true
  | .vfabs _ _ _ _ => true
  | .vfneg _ _ _ _ => true
  | .vcvtif _ _ _ _ => true
  | .vcvtfi _ _ _ _ => true
  | .vcvtfb _ _ _ _ => true
  | .vcvtbf _ _ _ _ => true
  | .vld _ _ _ _ _ _ => true
  | .vlds _ _ _ _ _ _ => true
  | .vldg _ _ _ _ _ _ _ => true
  | .vst _ _ _ _ _ => true
  | .vsts _ _ _ _ _ => true
  | .vstg _ _ _ _ _ _ => true
  | .vldr _ _ _ _ => true
  | .vstr _ _ _ _ => true
  | .vldrp _ _ _ _ => true
  | .vstrp _ _ _ _ => true
  | .vldra _ _ _ _ => true
  | .vstra _ _ _ _ => true
  | .flock _ _ => true
  | .flocknb _ _ => true
  | .funlock _ _ => true
  | .fwait _ _ => true
  | .fget _ _ => true
  | .fsave _ _ => true
  | .frestore _ _ => true
  | .fmul _ _ => true
  | .fherm _ _ => true
  | .fchol _ _ => true
  | .ftrsm _ _ => true
  | .fqr _ _ => true
  | .finv _ _ => true
  | .feig _ _ => true
  | .ferruleCommandComplete _ _ => true
  | .ferCtlAbort _ _ => true
  | .accQuery d => wfDesc d
  | .ringConfig d => wfDesc d
  | .harqLookup d => wfDesc d
  | .harqFree d => wfDesc d
  | .harqFreeUe d => wfDesc d
  | .harqUsage d => wfDesc d
  | .ldpcDecode j => wfJob j
  | .ldpcEncode j => wfJob j
  | .polarDecode j => wfJob j
  | .polarEncode j => wfJob j
  | .turboDecode j => wfJob j
  | .turboEncode j => wfJob j
  | .fft j => wfJob j
  | .ifft j => wfJob j
  | .dft j => wfJob j
  | .idft j => wfJob j
  | .nrCombine j => wfJob j
  | .lteCombine j => wfJob j
  | .demap j => wfJob j
  | .poolJobComplete _ => true
  | .jobOverrun _ => true
  | .hdyAccRead _ => true
  | .hdyAccWrite _ => true
  | .nrPrach j _ => wfJob j
  | .ltePrach j _ => wfJob j
  | .nprach j _ => wfJob j
  | .preadyReached _ _ => true
  | .payloadProcess _ => true
  | .payloadComplete _ _ => true
  | .raRing d => wfDesc d
  | .raConfig d => wfDesc d
  | .raThresh d => wfDesc d
  | .raQuery d => wfDesc d
  | .raAbort d => wfDesc d
  | .flitCrcError _ _ _ => true
  | .routerError _ => true
  | .responseTimeout _ _ => true
  | .firstAccess _ _ _ _ _ => true
  | .heldRequestPerform _ => true
  | .holdTimeout _ => true
  | .scrubLine _ _ _ _ => true
  | .rowRepair _ _ => true
  | .rowRepairComplete _ _ => true
  | .scrubPassNow _ _ => true
  | .eccCorrRead _ _ => true
  | .memoryTraining _ _ _ _ => true
  | .refresh _ => true
  | .epochFlip _ => true
  | .epochDrainComplete => true
  | .rtAccRead _ => true
  | .rtAccWrite _ => true
  | .rtAccCopy _ => true
  | .memQuery d => wfDesc d
  | .memScrub d => wfDesc d
  | .nocStat d => wfDesc d
  | .nocLinkTest d => wfDesc d
  | .linkTestEnd _ _ _ _ => true
  | .nocQuery d => wfDesc d
  | .nocLinkRestore d => wfDesc d
  | .copy1d j => wfJob j
  | .copy2d j => wfJob j
  | .copy3d j => wfJob j
  | .gather j => wfJob j
  | .burstGrant _ => true
  | .scribeDescriptorComplete _ _ => true
  | .chCtlStop _ _ _ _ => true
  | .channelClaim _ _ _ _ => true
  | .channelRelease _ _ _ _ => true
  | .tctlCommit _ _ _ _ => true
  | .tctlEnable _ _ _ _ => true
  | .timedRoundStart _ _ => true
  | .timedRoundComplete _ _ => true
  | .ethConfig d => wfDesc d
  | .portLinkUp _ => true
  | .portLinkDown _ => true
  | .ethQuery d => wfDesc d
  | .fhStream d => wfDesc d
  | .fhWindow d => wfDesc d
  | .fhRing d => wfDesc d
  | .fhHdr d => wfDesc d
  | .macsecSa d => wfDesc d
  | .ethCal d => wfDesc d
  | .uPlaneIngress _ _ _ _ => true
  | .windowClose _ _ => true
  | .frameIngress _ _ _ _ => true
  | .uTx j _ => wfJob j
  | .cTx j _ => wfJob j
  | .frameTx j => wfJob j
  | .rxBuf j => wfJob j
  | .streamTableError _ _ => true
  | .stAccRead _ _ => true
  | .stAccWrite _ _ => true
  | .jesLink d => wfDesc d
  | .jesLinkUp _ _ _ => true
  | .jesLinkLoss _ _ _ _ _ => true
  | .sysrefEdge => true
  | .converterStart _ _ _ => true
  | .jesQuery d => wfDesc d
  | .dfePath d => wfDesc d
  | .dfePathCtlArm d => wfDesc d
  | .dfePathCtlStop d => wfDesc d
  | .dfePathCtlCommit d => wfDesc d
  | .dfeCfr d => wfDesc d
  | .dfeMask d => wfDesc d
  | .pathUnderrun _ => true
  | .maskMonitorFrame _ _ => true
  | .cfrPeakInterval _ _ => true
  | .paProgram d => wfDesc d
  | .paReqUp d => wfDesc d
  | .paReqDown d => wfDesc d
  | .paReqMute d => wfDesc d
  | .paReqTest d => wfDesc d
  | .paReqClear d => wfDesc d
  | .paProgramEnd _ => true
  | .paFault _ _ => true
  | .fabQuery d => wfDesc d
  | .fabPort d => wfDesc d
  | .fabSnap d => wfDesc d
  | .fabSnapArmRequest _ _ _ => true
  | .fabSnapAnswersComplete _ _ => true
  | .fabLinkTest d => wfDesc d
  | .fabLinkTestEnd _ _ _ => true
  | .fabPeerQuery d => wfDesc d
  | .ylkHello _ _ _ _ _ _ _ => true
  | .ylkLinkFailure _ _ => true
  | .ylkTrainingRetry _ => true
  | .settlingWindowEnd => true
  | .adjacencyFrame _ _ _ => true
  | .heartbeatSend => true
  | .heartbeatReceive _ => true
  | .peerLoss _ => true
  | .remoteRequest _ => true
  | .timeFrameSend _ => true
  | .timeFrameReceive _ _ => true
  | .pwrVoteD0 d => wfDesc d
  | .pwrVoteTolerance d => wfDesc d
  | .pwrVoteWithdraw d => wfDesc d
  | .pwrQuery d => wfDesc d
  | .pwrEnter d => wfDesc d
  | .pwrWindow d => wfDesc d
  | .pwrForceClear d => wfDesc d
  | .clkQuery d => wfDesc d
  | .powerEntryStart _ => true
  | .powerEntryStepComplete _ => true
  | .powerExit _ => true
  | .powerExitComplete _ _ => true
  | .retentionExcursion _ _ => true
  | .forcedPowerDown _ => true
  | .powerWindowExpiry _ => true
  | .pllLossOfLock _ => true
  | .sensorSample _ => true
  | .avsSetpointStep _ => true
  | .avsRetry _ => true
  | .nibWatchdogExpiry _ => true
  | .avlQuery d => wfDesc d
  | .avlReturn d => wfDesc d
  | .pncRun d => wfDesc d
  | .pncRunAbort d => wfDesc d
  | .pncSched d => wfDesc d
  | .serdesTest d => wfDesc d
  | .serdesTestEnd _ _ _ _ _ => true
  | .calSet d => wfDesc d
  | .calQuery d => wfDesc d
  | .avlHeadroom d => wfDesc d
  | .calUserWrite _ _ => true
  | .pounceSelect => true
  | .pounceExclusionStart _ => true
  | .pounceDrained _ => true
  | .pounceDrainTimeout _ => true
  | .pounceTestEnd _ _ _ _ => true
  | .chpStateQuery d => wfDesc d
  | .chpStateSelfTest d => wfDesc d
  | .chpStateReadCounter d => wfDesc d
  | .chpStateAdvanceCounter d => wfDesc d
  | .chpAuthChallenge d => wfDesc d
  | .chpAuthRespond d => wfDesc d
  | .chpAuthLogout d => wfDesc d
  | .authLockoutExpiry _ => true
  | .chpKeyGenerate d => wfDesc d
  | .chpKeyImport d => wfDesc d
  | .chpKeyExport d => wfDesc d
  | .chpKeyDelete d => wfDesc d
  | .chpKeyQuery d => wfDesc d
  | .chpCryptGcmEncrypt d => wfDesc d
  | .chpCryptGcmDecrypt d => wfDesc d
  | .chpCryptHash d => wfDesc d
  | .chpCryptHmac d => wfDesc d
  | .chpCryptSign d => wfDesc d
  | .chpCryptVerify d => wfDesc d
  | .chpCryptRandom d => wfDesc d
  | .chpCryptKdf d => wfDesc d
  | .chpCryptEcdh d => wfDesc d
  | .chpAttestReport d => wfDesc d
  | .chpAttestChain d => wfDesc d
  | .chpZeroise d => wfDesc d
  | .tamperDetect _ => true
  | .zeroisationComplete => true
  | .selfTestPeriodic => true
  | .selfTestComplete _ => true
  | .palStage d => wfDesc d
  | .palCtlStart d => wfDesc d
  | .palCtlConfirm d => wfDesc d
  | .palCtlReject d => wfDesc d
  | .palCtlDiscard d => wfDesc d
  | .palCtlQuery d => wfDesc d
  | .palBlockWritten => true
  | .palWriteComplete => true
  | .palImageStarted => true
  | .palActivationTimeout => true
  | .palTrialExpiry => true
  | .palRestoreComplete => true
  | .flRead _ => true
  | .flProgram _ => true
  | .flErase _ => true
  | .flAccessComplete => true
  | .nspHello _ => true
  | .nspAuth _ sigs => decide (sigs.length ≤ 5600)
  | .nspCommand _ _ d => wfPar d
  | .nspData _ _ data => decide (data.length ≤ 1396)
  | .nspClose _ => true
  | .nspSessionTimeout => true
  | .serviceLinkChange _ => true
  | .hostAccess _ _ write _ _ bytes data => wfHost write bytes data
  | .hostWindowAccess _ _ _ _ _ => true
  | .hostCompletion _ _ _ => true
  | .functionLevelReset _ _ => true
  | .pciePerst _ => true
  | .pcieLinkChange rate width _ => wfLink rate width
  | .hostQuery d => wfDesc d
  | .devReset d => wfDesc d
  | .coreCtlStart d => wfDesc d
  | .coreCtlStop d => wfDesc d
  | .evtRoute d => wfDesc d
  | .evtQuery d => wfDesc d
  | .evtRaise d => wfDesc d
  | .swsetWrite _ _ => true
  | .bltConfig d => wfDesc d
  | .bltCfgClear _ _ => true
  | .gpioCtlRead d => wfDesc d
  | .gpioCtlDrive d => wfDesc d
  | .gpioCtlInput d => wfDesc d
  | .gpioEdge _ _ => true
  | .eventDelivery => true
  | .debugToken _ => true
  | .coldReset _ _ => true
  | .bootBistComplete _ _ _ _ fences banks => fences.all wfUnit && banks.all wfBank
  | .memoryInitialisation => true
  | .bootVellumApply => true
  | .warmReset _ => true
  | .nibFence _ _ => true
  | .illegalEncoding _ => true
  | .unassignedOpcode j => wfJob j
  | .rcFieldRead _ _ _ => true
  | .responseArrival _ => true
  | .journalWriteComplete _ => true
  | .pathOverrun _ => true
  | .peerPwrVote _ _ _ _ => true
  | .pounceWindowClose _ => true
  | .pounceOverdue _ => true
  | .trngSampleFailure => true

end Sys2Proof
end

