-- ==== Sys2Proof/Machine/Boot.lean ====
section
/-! DEFINITION. Reset and boot (R13, R549, R574, R575, R601 to R604, R626): the two device resets, the boot tests and images, the
training of memory, the boot Vellum (R54, R55). -/

namespace Sys2Proof.Machine

/-! ## What a device reset leaves -/

/-- Host memory as the device has written it, which no reset of the device reaches. -/
def hostKept (a : Nat) : Bool := 0x100000000000 ≤ a

/-- HBM, DDR and the host's: they keep their contents through a warm reset (R383). -/
def warmKept (a : Nat) : Bool := (0x1000000000 ≤ a && a < 0x1C00000000) || (0x10000000000 ≤ a && a < 0x14000000000) || hostKept a

/-- The state right after a reset of the whole device, with the memory that keeps says, the anti-rollback fuses, the fuse epochs, the
Chop's keys, flash, and what stands at the pins. -/
def State.afterReset (s : State) (keeps : Nat → Bool) : State :=
  let r := State.reset
  let t : State :=
    { r with csr := s.csr.filter (fun e => Reg.CHP_ARB 0 ≤ e.1 && e.1 ≤ Reg.CHP_ARB 63), mem := s.mem.filter (fun c => keeps c.1),
             poison := s.poison.filter (fun w => keeps (8 * w)), retLost := s.retLost.filter (fun m => keeps m.lo),
             free := s.free, pending := s.pending }
  let t := t.setChp { ChpState.init with
    keys := s.chp.keys, adv := s.chp.adv, blown := s.chp.blown, dead := s.chp.dead, revoked := s.chp.revoked }
  let t := t.setPal { s.pal with recovery := 0 }
  let t := t.setHost { HostState.init with gpioPin := s.host.gpioPin }
  t.setFld Reg.CHP_STATE 28 24 (s.fld Reg.CHP_STATE 28 24)

/-- COLD_RESET (R601, R626): everything but fuses, keys and flash; the straps are sampled, the Boot ROM looks at the journal, the Chop
tests itself, or stays in HARD_ERROR when a zeroisation found no fuse left (R571). All of HBM and DDR is to be initialised. -/
def execColdReset (mode : BitVec 2) (refSel : Bool) (s : State) : Out :=
  let t := s.afterReset hostKept
  let t := t.setHost { t.host with bootMode := mode.toNat, refSel := b2n refSel, initMem := List.range 6 }
  let t := (t.setPal { t.pal with warm := false }).palBoot
  .next (t.setChpMode (if s.chp.dead then 4 else 1))

/-- Memory units (R410) in D3. -/
def State.memOff (s : State) : List Nat := (List.range 6).filter fun u => s.fld (Reg.PWM_D_STATE (memDomain u)) 31 30 == 3

/-- WARM_RESET (R604): asked for by DEV_RESET, by NSP, by Palimpsest or by the pin; one in progress is not disturbed. HBM and DDR keep
their contents but for units in D3. The module state stays where only a cold reset leads out of it (R569); so do CHP.TAMPER, the
lockouts, the test network and the straps. An image that Palimpsest starts keeps its START slot. -/
def execWarmReset (pin : Bool) (s : State) : Out :=
  let ours := s.pal.warm && s.palMode = 3
  if s.host.resetting || ! (pin || s.host.warmReq || ours) then .next s else
  let t := s.afterReset warmKept
  let t := t.setHost { t.host with
    bootMode := s.host.bootMode, refSel := s.host.refSel, tap := s.host.tap, resetting := true, initMem := s.memOff }
  let t := t.setChp { t.chp with fails := s.chp.fails, lock := s.chp.lock, clk := s.chp.clk, tested := s.chp.tested }
  let t := t.wr Reg.CHP_TAMPER (s.rd Reg.CHP_TAMPER)
  let t := if ours then
      let t := t.wr Reg.PAL_STATE (s.rd Reg.PAL_STATE)
      s.pal.slot.elim t fun k => t.setRunning k (s.running k)
    else t
  let t := t.palBoot
  .next (t.setChpMode (if 4 ≤ s.chpMode then s.chpMode else 1))

/-! ## Boot tests and images -/

/-- The boot chain ends before its last image (R575): NSP recovery, served by the Chop and control firmware (1) or by the Boot ROM (2). -/
def State.bootStop (s : State) (rcv : Nat) : State :=
  ((s.setPal { s.pal with recovery := rcv }).setHost { s.host with resetting := false }).setBit Reg.SVC_CFG 31

/-- A verified image is measured; a confirmed one with ARB_ADVANCE whose SVN exceeds its counter advances it (R574). col is its
Colophon, svn the number that counts. -/
def State.measure (s : State) (c svn : Nat) (col : List Byte) : State :=
  let h := cutB col 0x20 48
  let s := (List.range 12).foldl (fun s w => s.wrN (Reg.CHP_MEAS_W c w) (numB h (4 * w) 4)) s
  if (s.dirEntry c).2.2 = 1 && bitOf (numB col 0xA 2) 0 && s.rdN (Reg.CHP_ARB c) < svn then (s.advance c svn).1 else s

/-- The images of some components verified and started in order; the state, and whether all of them passed. -/
def State.bootImages (s : State) : List Nat → State × Bool
  | [] => (s, true)
  | c :: r =>
    if s.installedOk c then
      let col := s.flBytes ((flRegion c).1 + colOffset c (s.dirEntry c).1) colLen
      State.bootImages (s.measure c (numB col 0x18 4) col) r
    else (s, false)

/-- The chain of R574 up to NIBK: CHOP; CTRL, with which the physical function is ready; SRDS, ACCM and NIBK. -/
def State.bootChain (s : State) : State :=
  if s.chpMode = 4 then s.bootStop 2
  else if s.host.bootMode = 3 then s.setHost { s.host with resetting := false }
  else
    let a := s.bootImages [4]
    if ! a.2 then a.1.bootStop 2
    else if s.host.bootMode = 1 then a.1.bootStop 1
    else
      let b := a.1.bootImages [0]
      if ! b.2 then b.1.bootStop 2
      else
        let c := (b.1.setHost { b.1.host with booted := true }).bootImages [3, 2, 1]
        if c.2 then c.1 else c.1.bootStop 1

/-- Words of Inkwell bank b of Quire q, or of System Inkwell (q = 8). -/
def bankWords (q b : Nat) : List Nat :=
  let lo := if q < 8 then 0x10000000 + 0x1000000 * q else 0x20000000
  ((List.range (if q < 8 then 0x200000 else 0x800000)).map (lo / 8 + ·)).filter fun w => inkBankOf (8 * w) == b

/-- BOOT_BIST_COMPLETE (R549, R602): boot Pounce and memory BIST end. logic lists the domains that failed, fails and repaired count
arrays, fences the fence units with an array beyond repair, banks the Inkwell banks (Quire, or 8; bank) whose words are poisoned. In
PDAON a failure is fatal and the boot stops. The images follow. It waits for a journal replay (R574). -/
def execBootBistComplete (fatal : Bool) (logic : List (Fin 64)) (fails repaired : BitVec 8) (fences banks : List (Nat × Nat))
    (s : State) : Out :=
  if s.bit Reg.AVL_BOOT_STAT 31 || s.bit Reg.AVL_BOOT_STAT 30 || s.palMode = 5 then .next s
  else if fatal then .next ((s.setHost { s.host with resetting := false }).setBit Reg.AVL_BOOT_STAT 30)
  else
    let s := s.wrN Reg.AVL_BOOT_STAT (2 ^ 31 + 2 ^ 16 * min logic.length 255 + fails.toNat * 2 ^ 8 + repaired.toNat)
    let s := s.raise 935
    let s := logic.foldl (fun s d => (pncFences d).foldl (fun s u => s.notice 12 u.1 u.2 932) s) s
    let s := (fences.filter wfUnit).foldl (fun s u => (s.fenceUnit u.1 u.2).showFenced u.1 u.2) s
    let s := (banks.filter wfBank).foldl (fun s b => { s with poison := (bankWords b.1 b.2).foldl setIns s.poison }) s
    .next s.bootChain

/-! ## Memory (R603) -/

/-- MEMORY_INITIALISATION, once training has ended: the units this boot initialises hold zeros with valid check bits. -/
def execMemoryInitialisation (s : State) : Out :=
  let fresh := fun (a : Nat) => (s.unitOf a).any s.host.initMem.contains
  let t := s.setHost { s.host with initMem := [] }
  .next { t with
    mem := s.mem.filter (fun c => ! fresh c.1), poison := s.poison.filter (fun w => ! fresh (8 * w)),
    retLost := s.retLost.filter (fun m => ! fresh m.lo) }

/-! ## The boot Vellum (R54, R55) -/

/-- LOAD_STATUS of a failure; no realm exists. -/
def State.bootVellumFails (s : State) (f : VFault) : State := (s.wrN Reg.VLM_LOAD_STATUS (f.index % 2 ^ 16 * 2 ^ 8 + f.status)).bootStop 1

/-- The FABRIC record takes effect (R496, R499): FABRIC_ID, the ports enabled at boot, a fixed ID; a device that is no member holds
ID 0. -/
def State.fabricBoot (s : State) : State :=
  if ! s.member then (s.setFld (Reg.YLK_FAB_STATUS 0) 5 0 0).setBit (Reg.YLK_FAB_STATUS 0) 31 else
  let s := s.wrN (Reg.YLK_FABRIC_ID 0) (s.fabNum 0xC 4)
  let s := (List.range 4).foldl (fun s p =>
    let on := bitOf (s.fabNum 9 1) p
    let s := s.wrN (Reg.YLK_CFG p) (2 ^ 31 * b2n on + 2 ^ 30 * bitsOf (s.fabNum 0xA 1) (2 * p + 1) (2 * p))
    if on then s.setPort p 1 else s) s
  if s.fabNum 8 1 < 64 then s.takeId (s.fabNum 8 1) else s

/-- Every record of a device Vellum comes into force. -/
def State.bootLoad (s : State) (rs : List VRec) : State :=
  let old := s
  let s := s.withLive rs
  let s := ((s.bindChange old).gridChange).shareChange
  let s := (rs.filter (·.typ == 0x40)).foldl State.calLoad s
  let s := ((s.routeAll 0).routeAll 1).releaseChannels
  s.fabricBoot

/-- BOOT_VELLUM_APPLY: once the images run, the Vellum in flash is validated (R51) and all its realms applied: AUTOSTART realms RUNNING,
the others STOPPED. -/
def execBootVellumApply (s : State) : Out :=
  if ! s.host.booted || s.pal.recovery ≠ 0 || s.fld Reg.VLM_LOAD_STATUS 7 0 ≠ St.NOT_READY then .next s else
  let e := s.dirEntry 5
  let bs := s.flBytes (flRegion 5).1 (colOffset 5 e.1 + colLen)
  if e.2.2 = 0 then .next (s.bootVellumFails (VFault.mk VlmSt.MALFORMED 0xFFFF 0)) else
  match s.vlmCheck bs none with
  | .error f => .next (s.bootVellumFails f)
  | .ok rs =>
    let serial := numB bs 0x10 4
    let s := s.measure 5 serial (cutB bs (colOffset 5 e.1) colLen)
    let s := ((s.bootLoad rs).wr Reg.VLM_LOAD_STATUS 0).wrN Reg.VLM_ACTIVE_SERIAL serial
    let s := ((List.range 16).filter fun r => ! (s.recs 0x10 r).isEmpty).foldl (fun s r =>
      (s.wrN (Reg.VLM_REALM_SERIAL r) serial).realmTo r (if s.realmFlag r 0 && ! s.startBlocked r then 2 else 1)) s
    .next (s.setHost { s.host with resetting := false })

end Sys2Proof.Machine
end

