-- ==== Sys2Proof/Machine/Ferrule.lean ====
section
/-! DEFINITION. The end of a Ferrule command (R292 to R298, R308). -/

namespace Sys2Proof.Machine

/-- Free bytes over the elements of a matrix. -/
def State.freeMatrix (s : State) (d : MDesc) : State :=
  let es := (List.range d.batch).flatMap fun k => (List.range d.rows).flatMap fun r => (List.range d.cols).map fun c => d.at_ k r c
  let b := s.freeBytes (es.length * d.es)
  es.zipIdx.foldl (fun s e => s.setBytes e.1 ((b.1.drop (e.2 * d.es)).take d.es)) b.2

/-- A scalar result enters the queue of 8; a ninth is discarded with QOVF (R298). -/
def State.ferQueue (s : State) (f v : Nat) : State :=
  let x := s.ferSt f
  if 8 ≤ x.queue.length then s.setBit (Reg.FER_STATUS f) 2
  else (s.setFer f { x with queue := x.queue ++ [v] }).ferShow f

/-- The first command leaves the queue; its regions free. -/
def State.ferPop (s : State) (f : Nat) : State :=
  (s.setFer f { s.ferSt f with cmds := (s.ferSt f).cmds.drop 1 }).ferShow f

/-- A command ends with a status that sets ERR (R308): its destination is written to a free extent with free bytes when the
Ferrule may write it, the first error is recorded, and every other outstanding command ends with ABORTED. -/
def State.ferFail (s : State) (f : Nat) (j : FerJob) (status addr : Nat) : State :=
  let q := f / 2
  let okD := s.mdescCheck q j.c.realm j.c.d j.d true = 0
  let w := s.free1 2
  let s := if okD && w.1 = 1 then w.2.freeMatrix j.d else w.2
  let s := (s.ferPop f).ferTagEnd f j.c.tag status
  let s := s.ferError f (2 ^ 24 * j.c.tag + 2 ^ 22 * (j.c.major - 0x3C) + 2 ^ 16 * j.c.func + status) addr
  (s.bump (Reg.FER_CMDS f) 1).ferAbortAll f

/-- The results of a command whose operands are sound: the state with D (and Q or V) written, its status and, where it pushes
one, its scalar result; and the sweeps of FEIG. The factorisations and the cfp32 products round after every operation in an
order the manual does not give: their elements, conditions and scalar results are free values. -/
def State.ferCompute (s : State) (f : Nat) (j : FerJob) (m n k : Nat) : State × Nat × Option Nat × Nat :=
  if j.c.major = 0x3D && j.c.prec ≠ 4 then
    let es := s.ferProduct j m n k
    let s := es.foldl (fun s e => s.store e.1 j.d.es e.2.1) s
    (if es.any (·.2.2) then s.setBit (Reg.FER_STATUS f) 3 else s, 0, none, 0)
  else
    let s := s.freeMatrix j.d
    let s := match j.b with
      | some b => if j.dest2 then s.freeMatrix b else s
      | none => s
    let sat := s.free1 2
    let s := if sat.1 = 1 then sat.2.setBit (Reg.FER_STATUS f) 3 else sat.2
    if j.c.major = 0x3D || j.c.func = 1 then (s, 0, none, 0)
    else
      -- FCHOL writes the upper triangle of D as zero
      let s := if j.c.func ≠ 0 then s else
        ((List.range j.d.batch).flatMap fun it => (List.range n).flatMap fun r =>
          ((List.range n).filter fun c => r < c).map fun c => j.d.at_ it r c).foldl (fun s a => s.store a j.d.es 0) s
      let cnt := s.free1 (j.d.batch + 1)
      let items := if j.c.func = 2 then 0 else cnt.1
      let first := cnt.2.free1 j.d.batch
      let sw := first.2.free1 (let w := bitsOf (j.c.cfg.getD 3 0) 5 0; if w = 0 then 8 else w)
      let low := sw.2.free1 (2 ^ 32)
      let lo := if j.c.func = 4 then sw.1 + 1 else low.1
      let v := 2 ^ 48 * min items 0xFFFF + 2 ^ 32 * (if items = 0 then 0xFFFF else first.1) + lo
      (low.2, if items = 0 then 0 else ferNUMERIC, some v, sw.1 + 1)

/-- FERRULE_COMMAND_COMPLETE (R296): the oldest command of the Ferrule ends, stall cycles later than R293 counts; loads, tags
and queue reads that waited for it go on. -/
def execFerruleCommandComplete (f : Fin 16) (stall : W32) (s : State) : Out :=
  match (s.ferSt f).cmds with
  | [] => .next s
  | c :: _ =>
    let q := f.val / 2
    let j := s.ferJob c
    let chk := s.ferCheckJob q j
    let src := match s.ferSrcFault j.a, (if j.dest2 then none else j.b) with
      | (0, _), some b => s.ferSrcFault b
      | r, _ => r
    let s :=
      if chk.1 ≠ 0 then s.ferFail f j chk.1 chk.2
      else if src.1 ≠ 0 then s.ferFail f j src.1 src.2
      else
        let d := j.dims.getD (1, 1, 1)
        let r := s.ferCompute f j d.1 d.2.1 d.2.2
        let s := match r.2.2.1 with
          | some v => r.1.ferQueue f v
          | none => r.1
        let s := (s.ferPop f).ferTagEnd f c.tag r.2.1
        let s := s.bump (Reg.FER_CMDS f) 1
        let s := s.bump (Reg.FER_BUSY f) (j.cycles d.1 d.2.1 d.2.2 r.2.2.2 + stall.toNat)
        s.bump (Reg.FER_INK_STALL f) stall.toNat
    let s := s.ferOrphan f
    .next ((List.range 16).foldl (fun s n => s.nibRetry (16 * q + n)) s)

end Sys2Proof.Machine
end

