-- ==== Sys2Proof/Machine/NibExec.lean ====
section
/-! DEFINITION. The Nib instructions as commands (R198, R270, R286, R292): each joins the bundle its Nib issues. -/

namespace Sys2Proof.Machine

/-- ADD (R198). -/
def execAdd (o : NibOp) (rd ra rb : BitVec 5) (s : State) : Out := .next (nibIssue o (.add rd ra rb) s)
/-- SUB (R198). -/
def execSub (o : NibOp) (rd ra rb : BitVec 5) (s : State) : Out := .next (nibIssue o (.sub rd ra rb) s)
/-- AND (R198). -/
def execAnd (o : NibOp) (rd ra rb : BitVec 5) (s : State) : Out := .next (nibIssue o (.and rd ra rb) s)
/-- OR (R198). -/
def execOr (o : NibOp) (rd ra rb : BitVec 5) (s : State) : Out := .next (nibIssue o (.or rd ra rb) s)
/-- XOR (R198). -/
def execXor (o : NibOp) (rd ra rb : BitVec 5) (s : State) : Out := .next (nibIssue o (.xor rd ra rb) s)
/-- SLL (R198). -/
def execSll (o : NibOp) (rd ra rb : BitVec 5) (s : State) : Out := .next (nibIssue o (.sll rd ra rb) s)
/-- SRL (R198). -/
def execSrl (o : NibOp) (rd ra rb : BitVec 5) (s : State) : Out := .next (nibIssue o (.srl rd ra rb) s)
/-- SRA (R198). -/
def execSra (o : NibOp) (rd ra rb : BitVec 5) (s : State) : Out := .next (nibIssue o (.sra rd ra rb) s)
/-- SLT (R198). -/
def execSlt (o : NibOp) (rd ra rb : BitVec 5) (s : State) : Out := .next (nibIssue o (.slt rd ra rb) s)
/-- SLTU (R198). -/
def execSltu (o : NibOp) (rd ra rb : BitVec 5) (s : State) : Out := .next (nibIssue o (.sltu rd ra rb) s)
/-- MIN (R198). -/
def execMin (o : NibOp) (rd ra rb : BitVec 5) (s : State) : Out := .next (nibIssue o (.min rd ra rb) s)
/-- MAX (R198). -/
def execMax (o : NibOp) (rd ra rb : BitVec 5) (s : State) : Out := .next (nibIssue o (.max rd ra rb) s)
/-- MINU (R198). -/
def execMinu (o : NibOp) (rd ra rb : BitVec 5) (s : State) : Out := .next (nibIssue o (.minu rd ra rb) s)
/-- MAXU (R198). -/
def execMaxu (o : NibOp) (rd ra rb : BitVec 5) (s : State) : Out := .next (nibIssue o (.maxu rd ra rb) s)
/-- ADDW (R198). -/
def execAddw (o : NibOp) (rd ra rb : BitVec 5) (s : State) : Out := .next (nibIssue o (.addw rd ra rb) s)
/-- SUBW (R198). -/
def execSubw (o : NibOp) (rd ra rb : BitVec 5) (s : State) : Out := .next (nibIssue o (.subw rd ra rb) s)
/-- ADDSW (R198). -/
def execAddsw (o : NibOp) (rd ra rb : BitVec 5) (s : State) : Out := .next (nibIssue o (.addsw rd ra rb) s)
/-- SUBSW (R198). -/
def execSubsw (o : NibOp) (rd ra rb : BitVec 5) (s : State) : Out := .next (nibIssue o (.subsw rd ra rb) s)
/-- MUL (R198). -/
def execMul (o : NibOp) (rd ra rb : BitVec 5) (s : State) : Out := .next (nibIssue o (.mul rd ra rb) s)
/-- MULH (R198). -/
def execMulh (o : NibOp) (rd ra rb : BitVec 5) (s : State) : Out := .next (nibIssue o (.mulh rd ra rb) s)
/-- MULHU (R198). -/
def execMulhu (o : NibOp) (rd ra rb : BitVec 5) (s : State) : Out := .next (nibIssue o (.mulhu rd ra rb) s)
/-- MULW (R198). -/
def execMulw (o : NibOp) (rd ra rb : BitVec 5) (s : State) : Out := .next (nibIssue o (.mulw rd ra rb) s)
/-- CLZ (R198). -/
def execClz (o : NibOp) (rd ra : BitVec 5) (s : State) : Out := .next (nibIssue o (.clz rd ra) s)
/-- POPC (R198). -/
def execPopc (o : NibOp) (rd ra : BitVec 5) (s : State) : Out := .next (nibIssue o (.popc rd ra) s)
/-- ADDI (R198). -/
def execAddi (o : NibOp) (rd ra : BitVec 5) (imm : BitVec 12) (s : State) : Out := .next (nibIssue o (.addi rd ra imm) s)
/-- ANDI (R198). -/
def execAndi (o : NibOp) (rd ra : BitVec 5) (imm : BitVec 12) (s : State) : Out := .next (nibIssue o (.andi rd ra imm) s)
/-- ORI (R198). -/
def execOri (o : NibOp) (rd ra : BitVec 5) (imm : BitVec 12) (s : State) : Out := .next (nibIssue o (.ori rd ra imm) s)
/-- XORI (R198). -/
def execXori (o : NibOp) (rd ra : BitVec 5) (imm : BitVec 12) (s : State) : Out := .next (nibIssue o (.xori rd ra imm) s)
/-- SLLI (R198). -/
def execSlli (o : NibOp) (rd ra : BitVec 5) (imm : BitVec 12) (s : State) : Out := .next (nibIssue o (.slli rd ra imm) s)
/-- SRLI (R198). -/
def execSrli (o : NibOp) (rd ra : BitVec 5) (imm : BitVec 12) (s : State) : Out := .next (nibIssue o (.srli rd ra imm) s)
/-- SRAI (R198). -/
def execSrai (o : NibOp) (rd ra : BitVec 5) (imm : BitVec 12) (s : State) : Out := .next (nibIssue o (.srai rd ra imm) s)
/-- SLTI (R198). -/
def execSlti (o : NibOp) (rd ra : BitVec 5) (imm : BitVec 12) (s : State) : Out := .next (nibIssue o (.slti rd ra imm) s)
/-- JALR (R198). -/
def execJalr (o : NibOp) (rd ra : BitVec 5) (imm : BitVec 12) (s : State) : Out := .next (nibIssue o (.jalr rd ra imm) s)
/-- LB (R198). -/
def execLb (o : NibOp) (rd ra : BitVec 5) (imm : BitVec 12) (s : State) : Out := .next (nibIssue o (.lb rd ra imm) s)
/-- LH (R198). -/
def execLh (o : NibOp) (rd ra : BitVec 5) (imm : BitVec 12) (s : State) : Out := .next (nibIssue o (.lh rd ra imm) s)
/-- LW (R198). -/
def execLw (o : NibOp) (rd ra : BitVec 5) (imm : BitVec 12) (s : State) : Out := .next (nibIssue o (.lw rd ra imm) s)
/-- LD (R198). -/
def execLd (o : NibOp) (rd ra : BitVec 5) (imm : BitVec 12) (s : State) : Out := .next (nibIssue o (.ld rd ra imm) s)
/-- LBU (R198). -/
def execLbu (o : NibOp) (rd ra : BitVec 5) (imm : BitVec 12) (s : State) : Out := .next (nibIssue o (.lbu rd ra imm) s)
/-- LHU (R198). -/
def execLhu (o : NibOp) (rd ra : BitVec 5) (imm : BitVec 12) (s : State) : Out := .next (nibIssue o (.lhu rd ra imm) s)
/-- LWU (R198). -/
def execLwu (o : NibOp) (rd ra : BitVec 5) (imm : BitVec 12) (s : State) : Out := .next (nibIssue o (.lwu rd ra imm) s)
/-- LUI (R198). -/
def execLui (o : NibOp) (rd : BitVec 5) (imm : BitVec 20) (s : State) : Out := .next (nibIssue o (.lui rd imm) s)
/-- ADDPC (R198). -/
def execAddpc (o : NibOp) (rd : BitVec 5) (imm : BitVec 20) (s : State) : Out := .next (nibIssue o (.addpc rd imm) s)
/-- EXTU (R198). -/
def execExtu (o : NibOp) (rd ra : BitVec 5) (pos wid : BitVec 6) (s : State) : Out := .next (nibIssue o (.extu rd ra pos wid) s)
/-- EXTS (R198). -/
def execExts (o : NibOp) (rd ra : BitVec 5) (pos wid : BitVec 6) (s : State) : Out := .next (nibIssue o (.exts rd ra pos wid) s)
/-- INS (R198). -/
def execIns (o : NibOp) (rd ra : BitVec 5) (pos wid : BitVec 6) (s : State) : Out := .next (nibIssue o (.ins rd ra pos wid) s)
/-- SEL (R198). -/
def execSel (o : NibOp) (rd ra rb rc : BitVec 5) (s : State) : Out := .next (nibIssue o (.sel rd ra rb rc) s)
/-- BEQ (R198). -/
def execBeq (o : NibOp) (ra rb : BitVec 5) (off : BitVec 12) (s : State) : Out := .next (nibIssue o (.beq ra rb off) s)
/-- BNE (R198). -/
def execBne (o : NibOp) (ra rb : BitVec 5) (off : BitVec 12) (s : State) : Out := .next (nibIssue o (.bne ra rb off) s)
/-- BLT (R198). -/
def execBlt (o : NibOp) (ra rb : BitVec 5) (off : BitVec 12) (s : State) : Out := .next (nibIssue o (.blt ra rb off) s)
/-- BGE (R198). -/
def execBge (o : NibOp) (ra rb : BitVec 5) (off : BitVec 12) (s : State) : Out := .next (nibIssue o (.bge ra rb off) s)
/-- BLTU (R198). -/
def execBltu (o : NibOp) (ra rb : BitVec 5) (off : BitVec 12) (s : State) : Out := .next (nibIssue o (.bltu ra rb off) s)
/-- BGEU (R198). -/
def execBgeu (o : NibOp) (ra rb : BitVec 5) (off : BitVec 12) (s : State) : Out := .next (nibIssue o (.bgeu ra rb off) s)
/-- JAL (R198). -/
def execJal (o : NibOp) (rd : BitVec 5) (off : BitVec 20) (s : State) : Out := .next (nibIssue o (.jal rd off) s)
/-- MFSR (R215). -/
def execMfsr (o : NibOp) (rd : BitVec 5) (num : BitVec 12) (s : State) : Out := .next (nibIssue o (.mfsr rd num) s)
/-- MTSR (R215). -/
def execMtsr (o : NibOp) (ra : BitVec 5) (num : BitVec 12) (s : State) : Out := .next (nibIssue o (.mtsr ra num) s)
/-- MFTB (R222). -/
def execMftb (o : NibOp) (rd : BitVec 5) (num : BitVec 12) (s : State) : Out := .next (nibIssue o (.mftb rd num) s)
/-- MTTB (R222). -/
def execMttb (o : NibOp) (ra : BitVec 5) (num : BitVec 12) (s : State) : Out := .next (nibIssue o (.mttb ra num) s)
/-- TRAP (R218). -/
def execTrap (o : NibOp) (imm : BitVec 12) (s : State) : Out := .next (nibIssue o (.trap imm) s)
/-- RFE (R220). -/
def execRfe (o : NibOp) (s : State) : Out := .next (nibIssue o (.rfe) s)
/-- WAIT (R224). -/
def execWait (o : NibOp) (s : State) : Out := .next (nibIssue o (.wait) s)
/-- BKPT (R218). -/
def execBkpt (o : NibOp) (s : State) : Out := .next (nibIssue o (.bkpt) s)
/-- ICINV_ALL (R198). -/
def execIcinvAll (o : NibOp) (s : State) : Out := .next (nibIssue o (.icinvAll) s)
/-- DFLUSH_ALL (R198). -/
def execDflushAll (o : NibOp) (s : State) : Out := .next (nibIssue o (.dflushAll) s)
/-- DCLEAN (R198). -/
def execDclean (o : NibOp) (ra : BitVec 5) (imm : BitVec 12) (s : State) : Out := .next (nibIssue o (.dclean ra imm) s)
/-- DINV (R198). -/
def execDinv (o : NibOp) (ra : BitVec 5) (imm : BitVec 12) (s : State) : Out := .next (nibIssue o (.dinv ra imm) s)
/-- DFLUSH (R198). -/
def execDflush (o : NibOp) (ra : BitVec 5) (imm : BitVec 12) (s : State) : Out := .next (nibIssue o (.dflush ra imm) s)
/-- DPREF (R198). -/
def execDpref (o : NibOp) (ra : BitVec 5) (imm : BitVec 12) (s : State) : Out := .next (nibIssue o (.dpref ra imm) s)
/-- ICINV (R198). -/
def execIcinv (o : NibOp) (ra : BitVec 5) (imm : BitVec 12) (s : State) : Out := .next (nibIssue o (.icinv ra imm) s)
/-- SB (R198). -/
def execSb (o : NibOp) (rs ra : BitVec 5) (imm : BitVec 12) (s : State) : Out := .next (nibIssue o (.sb rs ra imm) s)
/-- SH (R198). -/
def execSh (o : NibOp) (rs ra : BitVec 5) (imm : BitVec 12) (s : State) : Out := .next (nibIssue o (.sh rs ra imm) s)
/-- SW (R198). -/
def execSw (o : NibOp) (rs ra : BitVec 5) (imm : BitVec 12) (s : State) : Out := .next (nibIssue o (.sw rs ra imm) s)
/-- SD (R198). -/
def execSd (o : NibOp) (rs ra : BitVec 5) (imm : BitVec 12) (s : State) : Out := .next (nibIssue o (.sd rs ra imm) s)
/-- LDC (R212). -/
def execLdc (o : NibOp) (rd : BitVec 5) (cb : BitVec 3) (size : BitVec 2) (sgn incsel : Bool) (inc : BitVec 13) (s : State) : Out := .next (nibIssue o (.ldc rd cb size sgn incsel inc) s)
/-- STC (R212). -/
def execStc (o : NibOp) (rs : BitVec 5) (cb : BitVec 3) (size : BitVec 2) (incsel : Bool) (inc : BitVec 13) (s : State) : Out := .next (nibIssue o (.stc rs cb size incsel inc) s)
/-- AMOADD_W (R209). -/
def execAmoaddW (o : NibOp) (rd ra rb : BitVec 5) (s : State) : Out := .next (nibIssue o (.amoaddW rd ra rb) s)
/-- AMOADD_D (R209). -/
def execAmoaddD (o : NibOp) (rd ra rb : BitVec 5) (s : State) : Out := .next (nibIssue o (.amoaddD rd ra rb) s)
/-- AMOSWAP_W (R209). -/
def execAmoswapW (o : NibOp) (rd ra rb : BitVec 5) (s : State) : Out := .next (nibIssue o (.amoswapW rd ra rb) s)
/-- AMOSWAP_D (R209). -/
def execAmoswapD (o : NibOp) (rd ra rb : BitVec 5) (s : State) : Out := .next (nibIssue o (.amoswapD rd ra rb) s)
/-- AMOCAS_W (R209). -/
def execAmocasW (o : NibOp) (rd ra rb : BitVec 5) (s : State) : Out := .next (nibIssue o (.amocasW rd ra rb) s)
/-- AMOCAS_D (R209). -/
def execAmocasD (o : NibOp) (rd ra rb : BitVec 5) (s : State) : Out := .next (nibIssue o (.amocasD rd ra rb) s)
/-- AMOAND_D (R209). -/
def execAmoandD (o : NibOp) (rd ra rb : BitVec 5) (s : State) : Out := .next (nibIssue o (.amoandD rd ra rb) s)
/-- AMOOR_D (R209). -/
def execAmoorD (o : NibOp) (rd ra rb : BitVec 5) (s : State) : Out := .next (nibIssue o (.amoorD rd ra rb) s)
/-- NIB_FENCE (R208). -/
def execNibFence (o : NibOp) (kind : BitVec 2) (s : State) : Out := .next (nibIssue o (.nibFence kind) s)
/-- ILLEGAL_ENCODING (R195). -/
def execIllegalEncoding (o : NibOp) (s : State) : Out := .next (nibIssue o (.illegalEncoding) s)
/-- VSPAN (R235). -/
def execVspan (o : NibOp) (rd rs : BitVec 5) (etype : BitVec 3) (lig : BitVec 2) (s : State) : Out := .next (nibIssue o (.vspan rd rs etype lig) s)
/-- VCAPI (R235). -/
def execVcapi (o : NibOp) (rd : BitVec 5) (etype : BitVec 3) (lig : BitVec 2) (s : State) : Out := .next (nibIssue o (.vcapi rd etype lig) s)
/-- VCTL (R269). -/
def execVctl (o : NibOp) (bits : BitVec 9) (s : State) : Out := .next (nibIssue o (.vctl bits) s)
/-- VADD (R270). -/
def execVadd (o : NibOp) (vd a : BitVec 5) (b : VSrc) (pg : BitVec 3) (s : State) : Out := .next (nibIssue o (.vadd vd a b pg) s)
/-- VSUB (R270). -/
def execVsub (o : NibOp) (vd a : BitVec 5) (b : VSrc) (pg : BitVec 3) (s : State) : Out := .next (nibIssue o (.vsub vd a b pg) s)
/-- VAND (R270). -/
def execVand (o : NibOp) (vd a : BitVec 5) (b : VSrc) (pg : BitVec 3) (s : State) : Out := .next (nibIssue o (.vand vd a b pg) s)
/-- VOR (R270). -/
def execVor (o : NibOp) (vd a : BitVec 5) (b : VSrc) (pg : BitVec 3) (s : State) : Out := .next (nibIssue o (.vor vd a b pg) s)
/-- VXOR (R270). -/
def execVxor (o : NibOp) (vd a : BitVec 5) (b : VSrc) (pg : BitVec 3) (s : State) : Out := .next (nibIssue o (.vxor vd a b pg) s)
/-- VMIN (R270). -/
def execVmin (o : NibOp) (vd a : BitVec 5) (b : VSrc) (pg : BitVec 3) (s : State) : Out := .next (nibIssue o (.vmin vd a b pg) s)
/-- VMAX (R270). -/
def execVmax (o : NibOp) (vd a : BitVec 5) (b : VSrc) (pg : BitVec 3) (s : State) : Out := .next (nibIssue o (.vmax vd a b pg) s)
/-- VMINU (R270). -/
def execVminu (o : NibOp) (vd a : BitVec 5) (b : VSrc) (pg : BitVec 3) (s : State) : Out := .next (nibIssue o (.vminu vd a b pg) s)
/-- VMAXU (R270). -/
def execVmaxu (o : NibOp) (vd a : BitVec 5) (b : VSrc) (pg : BitVec 3) (s : State) : Out := .next (nibIssue o (.vmaxu vd a b pg) s)
/-- VSLL (R245). -/
def execVsll (o : NibOp) (vd a : BitVec 5) (b : VSrc) (pg : BitVec 3) (s : State) : Out := .next (nibIssue o (.vsll vd a b pg) s)
/-- VSRL (R245). -/
def execVsrl (o : NibOp) (vd a : BitVec 5) (b : VSrc) (pg : BitVec 3) (s : State) : Out := .next (nibIssue o (.vsrl vd a b pg) s)
/-- VSRA (R245). -/
def execVsra (o : NibOp) (vd a : BitVec 5) (b : VSrc) (pg : BitVec 3) (s : State) : Out := .next (nibIssue o (.vsra vd a b pg) s)
/-- VMUL (R246). -/
def execVmul (o : NibOp) (vd a : BitVec 5) (b : VSrc) (pg : BitVec 3) (s : State) : Out := .next (nibIssue o (.vmul vd a b pg) s)
/-- VMULH (R246). -/
def execVmulh (o : NibOp) (vd a : BitVec 5) (b : VSrc) (pg : BitVec 3) (s : State) : Out := .next (nibIssue o (.vmulh vd a b pg) s)
/-- VMULHU (R246). -/
def execVmulhu (o : NibOp) (vd a : BitVec 5) (b : VSrc) (pg : BitVec 3) (s : State) : Out := .next (nibIssue o (.vmulhu vd a b pg) s)
/-- VMERGE (R241). -/
def execVmerge (o : NibOp) (vd a : BitVec 5) (b : VSrc) (pg : BitVec 3) (s : State) : Out := .next (nibIssue o (.vmerge vd a b pg) s)
/-- VSADD (R246). -/
def execVsadd (o : NibOp) (vd a : BitVec 5) (b : VSrc) (pg : BitVec 3) (s : State) : Out := .next (nibIssue o (.vsadd vd a b pg) s)
/-- VSSUB (R246). -/
def execVssub (o : NibOp) (vd a : BitVec 5) (b : VSrc) (pg : BitVec 3) (s : State) : Out := .next (nibIssue o (.vssub vd a b pg) s)
/-- VSADDU (R246). -/
def execVsaddu (o : NibOp) (vd a : BitVec 5) (b : VSrc) (pg : BitVec 3) (s : State) : Out := .next (nibIssue o (.vsaddu vd a b pg) s)
/-- VSSUBU (R246). -/
def execVssubu (o : NibOp) (vd a : BitVec 5) (b : VSrc) (pg : BitVec 3) (s : State) : Out := .next (nibIssue o (.vssubu vd a b pg) s)
/-- VAVG (R246). -/
def execVavg (o : NibOp) (vd a : BitVec 5) (b : VSrc) (pg : BitVec 3) (s : State) : Out := .next (nibIssue o (.vavg vd a b pg) s)
/-- VMULQ (R246). -/
def execVmulq (o : NibOp) (vd a : BitVec 5) (b : VSrc) (pg : BitVec 3) (s : State) : Out := .next (nibIssue o (.vmulq vd a b pg) s)
/-- VSSLL (R246). -/
def execVssll (o : NibOp) (vd a : BitVec 5) (b : VSrc) (pg : BitVec 3) (s : State) : Out := .next (nibIssue o (.vssll vd a b pg) s)
/-- VSRAR (R246). -/
def execVsrar (o : NibOp) (vd a : BitVec 5) (b : VSrc) (pg : BitVec 3) (s : State) : Out := .next (nibIssue o (.vsrar vd a b pg) s)
/-- VCMUL (R246). -/
def execVcmul (o : NibOp) (vd a : BitVec 5) (b : VSrc) (pg : BitVec 3) (s : State) : Out := .next (nibIssue o (.vcmul vd a b pg) s)
/-- VCMULJ (R246). -/
def execVcmulj (o : NibOp) (vd a : BitVec 5) (b : VSrc) (pg : BitVec 3) (s : State) : Out := .next (nibIssue o (.vcmulj vd a b pg) s)
/-- VWADD (R246). -/
def execVwadd (o : NibOp) (vd a : BitVec 5) (b : VSrc) (pg : BitVec 3) (s : State) : Out := .next (nibIssue o (.vwadd vd a b pg) s)
/-- VWSUB (R246). -/
def execVwsub (o : NibOp) (vd a : BitVec 5) (b : VSrc) (pg : BitVec 3) (s : State) : Out := .next (nibIssue o (.vwsub vd a b pg) s)
/-- VWMUL (R246). -/
def execVwmul (o : NibOp) (vd a : BitVec 5) (b : VSrc) (pg : BitVec 3) (s : State) : Out := .next (nibIssue o (.vwmul vd a b pg) s)
/-- VWMULU (R246). -/
def execVwmulu (o : NibOp) (vd a : BitVec 5) (b : VSrc) (pg : BitVec 3) (s : State) : Out := .next (nibIssue o (.vwmulu vd a b pg) s)
/-- VWCMUL (R246). -/
def execVwcmul (o : NibOp) (vd a : BitVec 5) (b : VSrc) (pg : BitVec 3) (s : State) : Out := .next (nibIssue o (.vwcmul vd a b pg) s)
/-- VNSRA (R246). -/
def execVnsra (o : NibOp) (vd a : BitVec 5) (b : VSrc) (pg : BitVec 3) (s : State) : Out := .next (nibIssue o (.vnsra vd a b pg) s)
/-- VNCLIP (R246). -/
def execVnclip (o : NibOp) (vd a : BitVec 5) (b : VSrc) (pg : BitVec 3) (s : State) : Out := .next (nibIssue o (.vnclip vd a b pg) s)
/-- VNCLIPU (R246). -/
def execVnclipu (o : NibOp) (vd a : BitVec 5) (b : VSrc) (pg : BitVec 3) (s : State) : Out := .next (nibIssue o (.vnclipu vd a b pg) s)
/-- VMV (R270). -/
def execVmv (o : NibOp) (vd : BitVec 5) (b : VSrc) (pg : BitVec 3) (s : State) : Out := .next (nibIssue o (.vmv vd b pg) s)
/-- VSABS (R246). -/
def execVsabs (o : NibOp) (vd a : BitVec 5) (pg : BitVec 3) (s : State) : Out := .next (nibIssue o (.vsabs vd a pg) s)
/-- VSNEG (R246). -/
def execVsneg (o : NibOp) (vd a : BitVec 5) (pg : BitVec 3) (s : State) : Out := .next (nibIssue o (.vsneg vd a pg) s)
/-- VCONJ (R246). -/
def execVconj (o : NibOp) (vd a : BitVec 5) (pg : BitVec 3) (s : State) : Out := .next (nibIssue o (.vconj vd a pg) s)
/-- VSEXT (R246). -/
def execVsext (o : NibOp) (vd a : BitVec 5) (pg : BitVec 3) (s : State) : Out := .next (nibIssue o (.vsext vd a pg) s)
/-- VZEXT (R246). -/
def execVzext (o : NibOp) (vd a : BitVec 5) (pg : BitVec 3) (s : State) : Out := .next (nibIssue o (.vzext vd a pg) s)
/-- VSWAPIQ (R270). -/
def execVswapiq (o : NibOp) (vd a : BitVec 5) (pg : BitVec 3) (s : State) : Out := .next (nibIssue o (.vswapiq vd a pg) s)
/-- VCLS (R253). -/
def execVcls (o : NibOp) (vd a : BitVec 5) (pg : BitVec 3) (s : State) : Out := .next (nibIssue o (.vcls vd a pg) s)
/-- VNORM (R253). -/
def execVnorm (o : NibOp) (vd a : BitVec 5) (pg : BitVec 3) (s : State) : Out := .next (nibIssue o (.vnorm vd a pg) s)
/-- VBEXP (R256). -/
def execVbexp (o : NibOp) (vd a : BitVec 5) (pg : BitVec 3) (s : State) : Out := .next (nibIssue o (.vbexp vd a pg) s)
/-- VBUNPK (R259). -/
def execVbunpk (o : NibOp) (vd a : BitVec 5) (pg : BitVec 3) (s : State) : Out := .next (nibIssue o (.vbunpk vd a pg) s)
/-- VFABS (R260). -/
def execVfabs (o : NibOp) (vd a : BitVec 5) (pg : BitVec 3) (s : State) : Out := .next (nibIssue o (.vfabs vd a pg) s)
/-- VFNEG (R260). -/
def execVfneg (o : NibOp) (vd a : BitVec 5) (pg : BitVec 3) (s : State) : Out := .next (nibIssue o (.vfneg vd a pg) s)
/-- VCVTIF (R260). -/
def execVcvtif (o : NibOp) (vd a : BitVec 5) (pg : BitVec 3) (s : State) : Out := .next (nibIssue o (.vcvtif vd a pg) s)
/-- VCVTFI (R260). -/
def execVcvtfi (o : NibOp) (vd a : BitVec 5) (pg : BitVec 3) (s : State) : Out := .next (nibIssue o (.vcvtfi vd a pg) s)
/-- VCVTFB (R260). -/
def execVcvtfb (o : NibOp) (vd a : BitVec 5) (pg : BitVec 3) (s : State) : Out := .next (nibIssue o (.vcvtfb vd a pg) s)
/-- VCVTBF (R260). -/
def execVcvtbf (o : NibOp) (vd a : BitVec 5) (pg : BitVec 3) (s : State) : Out := .next (nibIssue o (.vcvtbf vd a pg) s)
/-- VMAC (R248). -/
def execVmac (o : NibOp) (acc : BitVec 2) (a : BitVec 5) (b : VSrc) (pg : BitVec 3) (s : State) : Out := .next (nibIssue o (.vmac acc a b pg) s)
/-- VMSU (R248). -/
def execVmsu (o : NibOp) (acc : BitVec 2) (a : BitVec 5) (b : VSrc) (pg : BitVec 3) (s : State) : Out := .next (nibIssue o (.vmsu acc a b pg) s)
/-- VMACZ (R248). -/
def execVmacz (o : NibOp) (acc : BitVec 2) (a : BitVec 5) (b : VSrc) (pg : BitVec 3) (s : State) : Out := .next (nibIssue o (.vmacz acc a b pg) s)
/-- VCMAC (R248). -/
def execVcmac (o : NibOp) (acc : BitVec 2) (a : BitVec 5) (b : VSrc) (pg : BitVec 3) (s : State) : Out := .next (nibIssue o (.vcmac acc a b pg) s)
/-- VCMACJ (R248). -/
def execVcmacj (o : NibOp) (acc : BitVec 2) (a : BitVec 5) (b : VSrc) (pg : BitVec 3) (s : State) : Out := .next (nibIssue o (.vcmacj acc a b pg) s)
/-- VCMACZ (R248). -/
def execVcmacz (o : NibOp) (acc : BitVec 2) (a : BitVec 5) (b : VSrc) (pg : BitVec 3) (s : State) : Out := .next (nibIssue o (.vcmacz acc a b pg) s)
/-- VCMSU (R248). -/
def execVcmsu (o : NibOp) (acc : BitVec 2) (a : BitVec 5) (b : VSrc) (pg : BitVec 3) (s : State) : Out := .next (nibIssue o (.vcmsu acc a b pg) s)
/-- VAEXT (R252). -/
def execVaext (o : NibOp) (vd : BitVec 5) (acc : BitVec 2) (sh : BitVec 5) (pg : BitVec 3) (s : State) : Out := .next (nibIssue o (.vaext vd acc sh pg) s)
/-- VAMOV (R270). -/
def execVamov (o : NibOp) (v : BitVec 5) (acc : BitVec 2) (sh : BitVec 5) (pg : BitVec 3) (s : State) : Out := .next (nibIssue o (.vamov v acc sh pg) s)
/-- VACLR (R270). -/
def execVaclr (o : NibOp) (acc : BitVec 2) (s : State) : Out := .next (nibIssue o (.vaclr acc) s)
/-- VACLRF (R270). -/
def execVaclrf (o : NibOp) (acc : BitVec 2) (s : State) : Out := .next (nibIssue o (.vaclrf acc) s)
/-- VCMPEQ (R270). -/
def execVcmpeq (o : NibOp) (pd : BitVec 3) (a : BitVec 5) (b : VSrc) (pg : BitVec 3) (s : State) : Out := .next (nibIssue o (.vcmpeq pd a b pg) s)
/-- VCMPNE (R270). -/
def execVcmpne (o : NibOp) (pd : BitVec 3) (a : BitVec 5) (b : VSrc) (pg : BitVec 3) (s : State) : Out := .next (nibIssue o (.vcmpne pd a b pg) s)
/-- VCMPLT (R270). -/
def execVcmplt (o : NibOp) (pd : BitVec 3) (a : BitVec 5) (b : VSrc) (pg : BitVec 3) (s : State) : Out := .next (nibIssue o (.vcmplt pd a b pg) s)
/-- VCMPLE (R270). -/
def execVcmple (o : NibOp) (pd : BitVec 3) (a : BitVec 5) (b : VSrc) (pg : BitVec 3) (s : State) : Out := .next (nibIssue o (.vcmple pd a b pg) s)
/-- VCMPLTU (R270). -/
def execVcmpltu (o : NibOp) (pd : BitVec 3) (a : BitVec 5) (b : VSrc) (pg : BitVec 3) (s : State) : Out := .next (nibIssue o (.vcmpltu pd a b pg) s)
/-- VCMPLEU (R270). -/
def execVcmpleu (o : NibOp) (pd : BitVec 3) (a : BitVec 5) (b : VSrc) (pg : BitVec 3) (s : State) : Out := .next (nibIssue o (.vcmpleu pd a b pg) s)
/-- VCMPGT (R270). -/
def execVcmpgt (o : NibOp) (pd : BitVec 3) (a : BitVec 5) (b : VSrc) (pg : BitVec 3) (s : State) : Out := .next (nibIssue o (.vcmpgt pd a b pg) s)
/-- VCMPGE (R270). -/
def execVcmpge (o : NibOp) (pd : BitVec 3) (a : BitVec 5) (b : VSrc) (pg : BitVec 3) (s : State) : Out := .next (nibIssue o (.vcmpge pd a b pg) s)
/-- PAND (R270). -/
def execPand (o : NibOp) (pd ps1 ps2 pg : BitVec 3) (s : State) : Out := .next (nibIssue o (.pand pd ps1 ps2 pg) s)
/-- POR (R270). -/
def execPor (o : NibOp) (pd ps1 ps2 pg : BitVec 3) (s : State) : Out := .next (nibIssue o (.por pd ps1 ps2 pg) s)
/-- PXOR (R270). -/
def execPxor (o : NibOp) (pd ps1 ps2 pg : BitVec 3) (s : State) : Out := .next (nibIssue o (.pxor pd ps1 ps2 pg) s)
/-- PANDN (R270). -/
def execPandn (o : NibOp) (pd ps1 ps2 pg : BitVec 3) (s : State) : Out := .next (nibIssue o (.pandn pd ps1 ps2 pg) s)
/-- PFFGET (R242). -/
def execPffget (o : NibOp) (pd pg : BitVec 3) (s : State) : Out := .next (nibIssue o (.pffget pd pg) s)
/-- PWHILE (R270). -/
def execPwhile (o : NibOp) (pd : BitVec 3) (rs : BitVec 5) (pg : BitVec 3) (s : State) : Out := .next (nibIssue o (.pwhile pd rs pg) s)
/-- PCNT (R270). -/
def execPcnt (o : NibOp) (rd : BitVec 5) (ps1 pg : BitVec 3) (s : State) : Out := .next (nibIssue o (.pcnt rd ps1 pg) s)
/-- PFIRST (R270). -/
def execPfirst (o : NibOp) (rd : BitVec 5) (ps1 pg : BitVec 3) (s : State) : Out := .next (nibIssue o (.pfirst rd ps1 pg) s)
/-- PFFLEN (R270). -/
def execPfflen (o : NibOp) (rd : BitVec 5) (s : State) : Out := .next (nibIssue o (.pfflen rd) s)
/-- PFFPUT (R242). -/
def execPffput (o : NibOp) (ps1 : BitVec 3) (s : State) : Out := .next (nibIssue o (.pffput ps1) s)
/-- VBCAST (R270). -/
def execVbcast (o : NibOp) (vd rs : BitVec 5) (pg : BitVec 3) (s : State) : Out := .next (nibIssue o (.vbcast vd rs pg) s)
/-- VSLIDEDN (R270). -/
def execVslidedn (o : NibOp) (vd a rs : BitVec 5) (pg : BitVec 3) (s : State) : Out := .next (nibIssue o (.vslidedn vd a rs pg) s)
/-- VSLIDEUP (R270). -/
def execVslideup (o : NibOp) (vd a rs : BitVec 5) (pg : BitVec 3) (s : State) : Out := .next (nibIssue o (.vslideup vd a rs pg) s)
/-- VMVXS (R270). -/
def execVmvxs (o : NibOp) (rd a : BitVec 5) (s : State) : Out := .next (nibIssue o (.vmvxs rd a) s)
/-- VMVSX (R270). -/
def execVmvsx (o : NibOp) (vd rs : BitVec 5) (pg : BitVec 3) (s : State) : Out := .next (nibIssue o (.vmvsx vd rs pg) s)
/-- VPERM (R270). -/
def execVperm (o : NibOp) (vd a b : BitVec 5) (pg : BitVec 3) (s : State) : Out := .next (nibIssue o (.vperm vd a b pg) s)
/-- VRSUM (R270). -/
def execVrsum (o : NibOp) (rd a : BitVec 5) (pg : BitVec 3) (s : State) : Out := .next (nibIssue o (.vrsum rd a pg) s)
/-- VRMAX (R270). -/
def execVrmax (o : NibOp) (rd a : BitVec 5) (pg : BitVec 3) (s : State) : Out := .next (nibIssue o (.vrmax rd a pg) s)
/-- VRMIN (R270). -/
def execVrmin (o : NibOp) (rd a : BitVec 5) (pg : BitVec 3) (s : State) : Out := .next (nibIssue o (.vrmin rd a pg) s)
/-- VRMAXABS (R270). -/
def execVrmaxabs (o : NibOp) (rd a : BitVec 5) (pg : BitVec 3) (s : State) : Out := .next (nibIssue o (.vrmaxabs rd a pg) s)
/-- VRMINCLS (R253). -/
def execVrmincls (o : NibOp) (rd a : BitVec 5) (pg : BitVec 3) (s : State) : Out := .next (nibIssue o (.vrmincls rd a pg) s)
/-- VBSCL (R257). -/
def execVbscl (o : NibOp) (vd a b : BitVec 5) (pg : BitVec 3) (s : State) : Out := .next (nibIssue o (.vbscl vd a b pg) s)
/-- VBPACK (R258). -/
def execVbpack (o : NibOp) (vd a b : BitVec 5) (pg : BitVec 3) (s : State) : Out := .next (nibIssue o (.vbpack vd a b pg) s)
/-- VFADD (R260). -/
def execVfadd (o : NibOp) (vd a b : BitVec 5) (pg : BitVec 3) (s : State) : Out := .next (nibIssue o (.vfadd vd a b pg) s)
/-- VFSUB (R260). -/
def execVfsub (o : NibOp) (vd a b : BitVec 5) (pg : BitVec 3) (s : State) : Out := .next (nibIssue o (.vfsub vd a b pg) s)
/-- VFMUL (R260). -/
def execVfmul (o : NibOp) (vd a b : BitVec 5) (pg : BitVec 3) (s : State) : Out := .next (nibIssue o (.vfmul vd a b pg) s)
/-- VFMA (R260). -/
def execVfma (o : NibOp) (vd a b : BitVec 5) (pg : BitVec 3) (s : State) : Out := .next (nibIssue o (.vfma vd a b pg) s)
/-- VFMIN (R260). -/
def execVfmin (o : NibOp) (vd a b : BitVec 5) (pg : BitVec 3) (s : State) : Out := .next (nibIssue o (.vfmin vd a b pg) s)
/-- VFMAX (R260). -/
def execVfmax (o : NibOp) (vd a b : BitVec 5) (pg : BitVec 3) (s : State) : Out := .next (nibIssue o (.vfmax vd a b pg) s)
/-- VFCMPLT (R260). -/
def execVfcmplt (o : NibOp) (pd : BitVec 3) (a b : BitVec 5) (pg : BitVec 3) (s : State) : Out := .next (nibIssue o (.vfcmplt pd a b pg) s)
/-- VFCMPEQ (R260). -/
def execVfcmpeq (o : NibOp) (pd : BitVec 3) (a b : BitVec 5) (pg : BitVec 3) (s : State) : Out := .next (nibIssue o (.vfcmpeq pd a b pg) s)
/-- VLD (R261). -/
def execVld (o : NibOp) (ff pi : Bool) (vd ra : BitVec 5) (pg : BitVec 3) (s : State) : Out := .next (nibIssue o (.vld ff pi vd ra pg) s)
/-- VLDS (R261). -/
def execVlds (o : NibOp) (ff : Bool) (vd ra rb : BitVec 5) (pg : BitVec 3) (s : State) : Out := .next (nibIssue o (.vlds ff vd ra rb pg) s)
/-- VLDG (R261). -/
def execVldg (o : NibOp) (ff : Bool) (scale : BitVec 2) (vd ra b : BitVec 5) (pg : BitVec 3) (s : State) : Out := .next (nibIssue o (.vldg ff scale vd ra b pg) s)
/-- VST (R261). -/
def execVst (o : NibOp) (pi : Bool) (vs ra : BitVec 5) (pg : BitVec 3) (s : State) : Out := .next (nibIssue o (.vst pi vs ra pg) s)
/-- VSTS (R264). -/
def execVsts (o : NibOp) (vs ra rb : BitVec 5) (pg : BitVec 3) (s : State) : Out := .next (nibIssue o (.vsts vs ra rb pg) s)
/-- VSTG (R264). -/
def execVstg (o : NibOp) (scale : BitVec 2) (vs ra b : BitVec 5) (pg : BitVec 3) (s : State) : Out := .next (nibIssue o (.vstg scale vs ra b pg) s)
/-- VLDR (R265). -/
def execVldr (o : NibOp) (vd ra : BitVec 5) (pg : BitVec 3) (s : State) : Out := .next (nibIssue o (.vldr vd ra pg) s)
/-- VSTR (R265). -/
def execVstr (o : NibOp) (vs ra : BitVec 5) (pg : BitVec 3) (s : State) : Out := .next (nibIssue o (.vstr vs ra pg) s)
/-- VLDRP (R265). -/
def execVldrp (o : NibOp) (p ra : BitVec 5) (pg : BitVec 3) (s : State) : Out := .next (nibIssue o (.vldrp p ra pg) s)
/-- VSTRP (R265). -/
def execVstrp (o : NibOp) (p ra : BitVec 5) (pg : BitVec 3) (s : State) : Out := .next (nibIssue o (.vstrp p ra pg) s)
/-- VLDRA (R265). -/
def execVldra (o : NibOp) (acc ra : BitVec 5) (pg : BitVec 3) (s : State) : Out := .next (nibIssue o (.vldra acc ra pg) s)
/-- VSTRA (R265). -/
def execVstra (o : NibOp) (acc ra : BitVec 5) (pg : BitVec 3) (s : State) : Out := .next (nibIssue o (.vstra acc ra pg) s)
/-- FLOCK (R289). -/
def execFlock (o : NibOp) (f : FFmt) (s : State) : Out := .next (nibIssue o (.flock f) s)
/-- FLOCKNB (R289). -/
def execFlocknb (o : NibOp) (f : FFmt) (s : State) : Out := .next (nibIssue o (.flocknb f) s)
/-- FUNLOCK (R290). -/
def execFunlock (o : NibOp) (f : FFmt) (s : State) : Out := .next (nibIssue o (.funlock f) s)
/-- FWAIT (R297). -/
def execFwait (o : NibOp) (f : FFmt) (s : State) : Out := .next (nibIssue o (.fwait f) s)
/-- FGET (R298). -/
def execFget (o : NibOp) (f : FFmt) (s : State) : Out := .next (nibIssue o (.fget f) s)
/-- FSAVE (R304). -/
def execFsave (o : NibOp) (f : FFmt) (s : State) : Out := .next (nibIssue o (.fsave f) s)
/-- FRESTORE (R304). -/
def execFrestore (o : NibOp) (f : FFmt) (s : State) : Out := .next (nibIssue o (.frestore f) s)
/-- FMUL (R292). -/
def execFmul (o : NibOp) (f : FFmt) (s : State) : Out := .next (nibIssue o (.fmul f) s)
/-- FHERM (R292). -/
def execFherm (o : NibOp) (f : FFmt) (s : State) : Out := .next (nibIssue o (.fherm f) s)
/-- FCHOL (R292). -/
def execFchol (o : NibOp) (f : FFmt) (s : State) : Out := .next (nibIssue o (.fchol f) s)
/-- FTRSM (R292). -/
def execFtrsm (o : NibOp) (f : FFmt) (s : State) : Out := .next (nibIssue o (.ftrsm f) s)
/-- FQR (R292). -/
def execFqr (o : NibOp) (f : FFmt) (s : State) : Out := .next (nibIssue o (.fqr f) s)
/-- FINV (R292). -/
def execFinv (o : NibOp) (f : FFmt) (s : State) : Out := .next (nibIssue o (.finv f) s)
/-- FEIG (R292). -/
def execFeig (o : NibOp) (f : FFmt) (s : State) : Out := .next (nibIssue o (.feig f) s)

end Sys2Proof.Machine
end

