-- ==== Sys2Proof/Machine/Nsp.lean ====
section
/-! DEFINITION. The service port (R587, R588): frames, the NSP session, and the commands and data it carries. -/

namespace Sys2Proof.Machine

def State.setNsp (s : State) (x : NspState) : State := { s with nsp := x }

/-- What the port takes at all: NSP frames of version 1 addressed to it, and, of HELLO, to broadcast. -/
def nspTaken (f : NspFrame) (hello : Bool) : Bool :=
  f.etype.toNat == 0x88B5 && f.ver.toNat == 1 && f.len.toNat ≤ 1400 && (f.dst.val == 0 || (hello && f.dst.val == 1))

/-- A frame at the port: nothing while the port is disabled; dropped with RX_DROP; counted in RX_FRAMES and handled. -/
def nspFrame (f : NspFrame) (hello : Bool) (act : State → State) (s : State) : State :=
  if ! s.bit Reg.SVC_CFG 31 then s
  else if ! nspTaken f hello then s.bump Reg.SVC_RX_DROP 1
  else act (s.bump Reg.SVC_RX_FRAMES 1)

/-- A frame of an open session: its tag verifies and its SEQ exceeds the last; else it is dropped with AUTH_FAIL. -/
def nspSession (f : NspFrame) (act : State → State) (s : State) : State :=
  if ! s.bit Reg.SVC_CFG 31 then s
  else if ! nspTaken f false then s.bump Reg.SVC_RX_DROP 1
  else if ! (s.nsp.open_ && f.tag && s.nsp.seq < f.seq.toNat) then s.bump Reg.SVC_AUTH_FAIL 1
  else act ((s.setNsp { s.nsp with seq := f.seq.toNat, at_ := s.chp.clk }).bump Reg.SVC_RX_FRAMES 1)

/-- NSP_HELLO: answered with a nonce, or, while a session has been active in the last 60 s, with ERROR. -/
def execNspHello (f : NspFrame) (s : State) : Out :=
  .next (nspFrame f true (fun s =>
    if s.nsp.open_ && s.chp.clk ≤ s.nsp.at_ + 60 * 10 ^ 9 then s else
    let r := s.freeBytes 48
    r.2.setNsp { r.2.nsp with hello := some r.1 }) s)

/-- NSP_AUTH: the Crypto Officer's signatures over the nonce; a new session takes the place of an old one. -/
def execNspAuth (f : NspFrame) (sigs : List Byte) (s : State) : Out :=
  .next (nspFrame f false (fun s =>
    match s.nsp.hello with
    | none => s.bump Reg.SVC_AUTH_FAIL 1
    | some nonce =>
      let s := s.setNsp { s.nsp with hello := none }
      if s.lockLeft 16 ≠ 0 then s.bump Reg.SVC_AUTH_FAIL 1
      else if s.authOk 16 nonce sigs then
        let s := s.nspEnd
        let s := s.setNsp { s.nsp with open_ := true, seq := f.seq.toNat, at_ := s.chp.clk, cmdSeq := none, result := [] }
        (((s.setChp { s.chp with fails := sput s.chp.fails 16 0 0 }).chpOpen 17).setBit Reg.SVC_STATUS 30).raise 992
      else (s.authFail 16).bump Reg.SVC_AUTH_FAIL 1) s)

/-- The meanings of the commands of an opcode (R67, and the command tables of the chapters). -/
def opMeanings (op : Nat) (d : Desc) : List (State → Out) :=
  match op with
  | 0x01 => [execVlmStage d]
  | 0x02 => [execVlmDiscard d]
  | 0x03 => [execRealmStart d]
  | 0x04 => [execRealmStop d]
  | 0x05 => [execRealmApply d]
  | 0x06 => [execRealmReset d]
  | 0x07 => [execRealmQuery d]
  | 0x08 => [execExpertAcquire d]
  | 0x09 => [execExpertRelease d]
  | 0x10 => [execFolioSubmit d]
  | 0x11 => [execFolioCancel d]
  | 0x12 => [execFolioQuery d]
  | 0x13 => [execOrdPin d]
  | 0x14 => [execOrdConfig d]
  | 0x15 => [execOrdQuery d]
  | 0x16 => [execOrdTrace d]
  | 0x20 => [execThreadCreate d]
  | 0x21 => [execThreadStart d]
  | 0x22 => [execThreadSuspend d]
  | 0x23 => [execThreadResume d]
  | 0x24 => [execThreadKill d]
  | 0x25 => [execThreadPrio d]
  | 0x26 => [execThreadQuery d]
  | 0x27 => [execSemAlloc d]
  | 0x28 => [execSemFree d]
  | 0x29 => [execSemPost d]
  | 0x2A => [execFlagAlloc d]
  | 0x2B => [execFlagFree d]
  | 0x2C => [execFlagSet d]
  | 0x2D => [execTickConfig d]
  | 0x2E => [execDucTrace d]
  | 0x2F => [execDucQuery d]
  | 0x30 => [execTbQuery d]
  | 0x31 => [execTbDisciplineStart d, execTbDisciplineStop d]
  | 0x32 => [execTbStep d]
  | 0x33 => [execTbFreq d]
  | 0x34 => [execGridQuery d]
  | 0x35 => [execGridOffset d]
  | 0x36 => [execTrgAlloc d]
  | 0x37 => [execTrgArm d]
  | 0x38 => [execTrgDisarm d]
  | 0x39 => [execTrgFree d]
  | 0x3A => [execTrgQuery d]
  | 0x3B => [execSnapRequest d]
  | 0x3C => [execCapRead d]
  | 0x3D => [execTioConfig d]
  | 0x3E => [execSynceSelect d]
  | 0x40 => [execAccQuery d]
  | 0x41 => [execRingConfig d]
  | 0x42 => [execHarqLookup d]
  | 0x43 => [execHarqFree d]
  | 0x44 => [execHarqFreeUe d]
  | 0x45 => [execHarqUsage d]
  | 0x50 => [execRaRing d]
  | 0x51 => [execRaConfig d]
  | 0x52 => [execRaThresh d]
  | 0x53 => [execRaQuery d]
  | 0x54 => [execRaAbort d]
  | 0x58 => [execMemQuery d]
  | 0x59 => [execMemScrub d]
  | 0x5A => [execNocStat d]
  | 0x5B => [execNocLinkTest d]
  | 0x5C => [execNocQuery d]
  | 0x5D => [execNocLinkRestore d]
  | 0x60 => [execEthConfig d]
  | 0x61 => [execEthQuery d]
  | 0x62 => [execFhStream d]
  | 0x63 => [execFhWindow d]
  | 0x64 => [execFhRing d]
  | 0x65 => [execFhHdr d]
  | 0x66 => [execMacsecSa d]
  | 0x67 => [execEthCal d]
  | 0x68 => [execJesLink d]
  | 0x69 => [execJesQuery d]
  | 0x6A => [execDfePath d]
  | 0x6B => [execDfePathCtlArm d, execDfePathCtlStop d, execDfePathCtlCommit d]
  | 0x6C => [execDfeCfr d]
  | 0x6D => [execDfeMask d]
  | 0x6E => [execPaProgram d]
  | 0x6F => [execPaReqUp d, execPaReqDown d, execPaReqMute d, execPaReqTest d, execPaReqClear d]
  | 0x70 => [execFabQuery d]
  | 0x71 => [execFabPort d]
  | 0x72 => [execFabSnap d]
  | 0x73 => [execFabLinkTest d]
  | 0x74 => [execFabPeerQuery d]
  | 0x78 => [execPwrVoteD0 d, execPwrVoteTolerance d, execPwrVoteWithdraw d]
  | 0x79 => [execPwrQuery d]
  | 0x7A => [execPwrEnter d]
  | 0x7B => [execPwrWindow d]
  | 0x7C => [execPwrForceClear d]
  | 0x7D => [execClkQuery d]
  | 0x80 => [execAvlQuery d]
  | 0x81 => [execAvlReturn d]
  | 0x82 => [execPncRun d, execPncRunAbort d]
  | 0x83 => [execPncSched d]
  | 0x84 => [execSerdesTest d]
  | 0x85 => [execCalSet d]
  | 0x86 => [execCalQuery d]
  | 0x87 => [execAvlHeadroom d]
  | 0x88 => [execChpStateQuery d, execChpStateSelfTest d, execChpStateReadCounter d, execChpStateAdvanceCounter d]
  | 0x89 => [execChpAuthChallenge d, execChpAuthRespond d, execChpAuthLogout d]
  | 0x8A => [execChpKeyGenerate d, execChpKeyImport d, execChpKeyExport d, execChpKeyDelete d, execChpKeyQuery d]
  | 0x8B => [execChpCryptGcmEncrypt d, execChpCryptGcmDecrypt d, execChpCryptHash d, execChpCryptHmac d,
      execChpCryptSign d, execChpCryptVerify d, execChpCryptRandom d, execChpCryptKdf d, execChpCryptEcdh d]
  | 0x8C => [execChpAttestReport d, execChpAttestChain d]
  | 0x8D => [execChpZeroise d]
  | 0x8E => [execPalStage d]
  | 0x8F => [execPalCtlStart d, execPalCtlConfirm d, execPalCtlReject d, execPalCtlDiscard d, execPalCtlQuery d]
  | 0x90 => [execHostQuery d]
  | 0x91 => [execDevReset d]
  | 0x92 => [execCoreCtlStart d, execCoreCtlStop d]
  | 0x93 => [execEvtRoute d]
  | 0x94 => [execEvtQuery d]
  | 0x95 => [execEvtRaise d]
  | 0x96 => [execBltConfig d]
  | 0x97 => [execGpioCtlRead d, execGpioCtlDrive d, execGpioCtlInput d]
  | _ => []

/-- NSP_COMMAND: the descriptor run as on CMD[16], its result that of slot 64; in recovery CHP_STATE, PAL_STAGE and PAL_CTL alone
(R575). One that repeats the last SEQ runs nothing. -/
def execNspCommand (f : NspFrame) (op : BitVec 8) (d : Desc) (s : State) : Out :=
  let d := { d with ring := 16, slot := 64, who := .pf }
  let n := op.toNat
  .next (nspSession f (fun s =>
    if s.nsp.cmdSeq = some d.seq.toNat then s else
    let s := s.setNsp { s.nsp with cmdSeq := some d.seq.toNat }
    let ms := opMeanings n d
    if ms.isEmpty || (s.pal.recovery ≠ 0 && n ≠ 0x88 && n ≠ 0x8E && n ≠ 0x8F) then s.nspResult d.seq.toNat n St.BAD_PARAM []
    else ms.foldl (fun s m => outState s (m s)) s) s)

/-- NSP_DATA: written at BUF_BASE + offset; beyond BUF_SIZE it is refused. -/
def execNspData (f : NspFrame) (offset : W32) (data : List Byte) (s : State) : Out :=
  .next (nspSession f (fun s =>
    if s.rdN Reg.SVC_BUF_SIZE < offset.toNat + data.length then s else
    (s.devWrite (cat64 (s.rd Reg.SVC_BUF_BASE_LO) (s.rd Reg.SVC_BUF_BASE_HI) + offset.toNat) data).getD s) s)

/-- NSP_CLOSE. -/
def execNspClose (f : NspFrame) (s : State) : Out := .next (nspSession f State.nspEnd s)

/-- NSP_SESSION_TIMEOUT: 300 s without a frame. -/
def execNspSessionTimeout (s : State) : Out :=
  .next (if s.nsp.open_ && s.nsp.at_ + 300 * 10 ^ 9 ≤ s.chp.clk then s.nspEnd else s)

/-- SERVICE_LINK_CHANGE: LINK, CHANGED, EV0994; a link lost ends the session. -/
def execServiceLinkChange (up : Bool) (s : State) : Out :=
  if s.bit Reg.SVC_STATUS 31 = up then .next s else
  let s := ((s.setFld Reg.SVC_STATUS 31 31 (b2n up)).setBit Reg.SVC_STATUS 29).raise 994
  .next (if up then s else s.nspEnd)

end Sys2Proof.Machine
end

