-- ==== Sys2Proof/Machine/Dispatch.lean ====
section
/-! DEFINITION. One arm per command: each calls its meaning. -/

namespace Sys2Proof.Machine

/-- The effect of one command on the state (the queue apart). -/
def exec (i : Instr) (s : State) : Host.Outcome State Fault Refusal :=
  match i with
  | .registerWrite who addr bytes value => Sys2Proof.Machine.execRegisterWrite who addr bytes value s
  | .tailWrite who ring value => Sys2Proof.Machine.execTailWrite who ring value s
  | .ringCfgWrite who ring value => Sys2Proof.Machine.execRingCfgWrite who ring value s
  | .vlmStage d => Sys2Proof.Machine.execVlmStage d s
  | .vlmStageComplete slot => Sys2Proof.Machine.execVlmStageComplete slot s
  | .vlmDiscard d => Sys2Proof.Machine.execVlmDiscard d s
  | .realmStart d => Sys2Proof.Machine.execRealmStart d s
  | .realmStop d => Sys2Proof.Machine.execRealmStop d s
  | .realmStopped r => Sys2Proof.Machine.execRealmStopped r s
  | .realmReset d => Sys2Proof.Machine.execRealmReset d s
  | .realmQuery d => Sys2Proof.Machine.execRealmQuery d s
  | .realmApply d => Sys2Proof.Machine.execRealmApply d s
  | .realmApplyExecute => Sys2Proof.Machine.execRealmApplyExecute s
  | .realmApplyComplete fault => Sys2Proof.Machine.execRealmApplyComplete fault s
  | .expertAcquire d => Sys2Proof.Machine.execExpertAcquire d s
  | .expertLockSet inst => Sys2Proof.Machine.execExpertLockSet inst s
  | .expertRelease d => Sys2Proof.Machine.execExpertRelease d s
  | .tbQuery d => Sys2Proof.Machine.execTbQuery d s
  | .tbDisciplineStart d => Sys2Proof.Machine.execTbDisciplineStart d s
  | .tbDisciplineStop d => Sys2Proof.Machine.execTbDisciplineStop d s
  | .tbStep d => Sys2Proof.Machine.execTbStep d s
  | .tbFreq d => Sys2Proof.Machine.execTbFreq d s
  | .stepCtlGo who b value => Sys2Proof.Machine.execStepCtlGo who b value s
  | .timeBaseStepApply b => Sys2Proof.Machine.execTimeBaseStepApply b s
  | .freqAdjHiWrite who b value => Sys2Proof.Machine.execFreqAdjHiWrite who b value s
  | .tbStateWrite who b value => Sys2Proof.Machine.execTbStateWrite who b value s
  | .nowNsRead who b => Sys2Proof.Machine.execNowNsRead who b s
  | .gridQuery d => Sys2Proof.Machine.execGridQuery d s
  | .gridOffset d => Sys2Proof.Machine.execGridOffset d s
  | .gridShadowWrite who g ctl value => Sys2Proof.Machine.execGridShadowWrite who g ctl value s
  | .gridPosRead who g => Sys2Proof.Machine.execGridPosRead who g s
  | .gridFrameBoundary g => Sys2Proof.Machine.execGridFrameBoundary g s
  | .trgAlloc d => Sys2Proof.Machine.execTrgAlloc d s
  | .trgArm d => Sys2Proof.Machine.execTrgArm d s
  | .trgDisarm d => Sys2Proof.Machine.execTrgDisarm d s
  | .trgFree d => Sys2Proof.Machine.execTrgFree d s
  | .trgQuery d => Sys2Proof.Machine.execTrgQuery d s
  | .trgShadowWrite who c w value => Sys2Proof.Machine.execTrgShadowWrite who c w value s
  | .trgCtlCommit who c => Sys2Proof.Machine.execTrgCtlCommit who c s
  | .trgCtlDisarm who c => Sys2Proof.Machine.execTrgCtlDisarm who c s
  | .triggerFire c => Sys2Proof.Machine.execTriggerFire c s
  | .snapshotCopyComplete blk => Sys2Proof.Machine.execSnapshotCopyComplete blk s
  | .snapRequest d => Sys2Proof.Machine.execSnapRequest d s
  | .timeInEdge xi falling => Sys2Proof.Machine.execTimeInEdge xi falling s
  | .capNsRead who xi => Sys2Proof.Machine.execCapNsRead who xi s
  | .capRead d => Sys2Proof.Machine.execCapRead d s
  | .tioConfig d => Sys2Proof.Machine.execTioConfig d s
  | .synceSelect d => Sys2Proof.Machine.execSynceSelect d s
  | .timeOutPulseEnd xi => Sys2Proof.Machine.execTimeOutPulseEnd xi s
  | .toutCfgWrite who xi value => Sys2Proof.Machine.execToutCfgWrite who xi value s
  | .synceSquelch k lol => Sys2Proof.Machine.execSynceSquelch k lol s
  | .folioSubmit d => Sys2Proof.Machine.execFolioSubmit d s
  | .placementDecision => Sys2Proof.Machine.execPlacementDecision s
  | .peerOfferAnswer accept finish => Sys2Proof.Machine.execPeerOfferAnswer accept finish s
  | .peerOfferReceived peer r task ready deadline => Sys2Proof.Machine.execPeerOfferReceived peer r task ready deadline s
  | .folioRelease r inst => Sys2Proof.Machine.execFolioRelease r inst s
  | .folioDeadline r inst => Sys2Proof.Machine.execFolioDeadline r inst s
  | .folioCancel d => Sys2Proof.Machine.execFolioCancel d s
  | .folioQuery d => Sys2Proof.Machine.execFolioQuery d s
  | .ordPin d => Sys2Proof.Machine.execOrdPin d s
  | .ordConfig d => Sys2Proof.Machine.execOrdConfig d s
  | .ordQuery d => Sys2Proof.Machine.execOrdQuery d s
  | .ordTrace d => Sys2Proof.Machine.execOrdTrace d s
  | .faultNotice src kind unit event => Sys2Proof.Machine.execFaultNotice src kind unit event s
  | .replacement => Sys2Proof.Machine.execReplacement s
  | .harqDemotionStart r engine upper => Sys2Proof.Machine.execHarqDemotionStart r engine upper s
  | .threadCreate d => Sys2Proof.Machine.execThreadCreate d s
  | .threadStart d => Sys2Proof.Machine.execThreadStart d s
  | .threadSuspend d => Sys2Proof.Machine.execThreadSuspend d s
  | .threadResume d => Sys2Proof.Machine.execThreadResume d s
  | .threadKill d => Sys2Proof.Machine.execThreadKill d s
  | .threadPrio d => Sys2Proof.Machine.execThreadPrio d s
  | .threadQuery d => Sys2Proof.Machine.execThreadQuery d s
  | .semAlloc d => Sys2Proof.Machine.execSemAlloc d s
  | .semFree d => Sys2Proof.Machine.execSemFree d s
  | .semPost d => Sys2Proof.Machine.execSemPost d s
  | .flagAlloc d => Sys2Proof.Machine.execFlagAlloc d s
  | .flagFree d => Sys2Proof.Machine.execFlagFree d s
  | .flagSet d => Sys2Proof.Machine.execFlagSet d s
  | .tickConfig d => Sys2Proof.Machine.execTickConfig d s
  | .ducTrace d => Sys2Proof.Machine.execDucTrace d s
  | .ducQuery d => Sys2Proof.Machine.execDucQuery d s
  | .yield nib a b => Sys2Proof.Machine.execYield nib a b s
  | .exit nib a b => Sys2Proof.Machine.execExit nib a b s
  | .delay nib a b => Sys2Proof.Machine.execDelay nib a b s
  | .semWait nib a b => Sys2Proof.Machine.execSemWait nib a b s
  | .svcSemPost nib a b => Sys2Proof.Machine.execSvcSemPost nib a b s
  | .flagWait nib a b => Sys2Proof.Machine.execFlagWait nib a b s
  | .svcFlagSet nib a b => Sys2Proof.Machine.execSvcFlagSet nib a b s
  | .flagClear nib a b => Sys2Proof.Machine.execFlagClear nib a b s
  | .taskEnd nib a b => Sys2Proof.Machine.execTaskEnd nib a b s
  | .checkpoint nib a b => Sys2Proof.Machine.execCheckpoint nib a b s
  | .setPrio nib a b => Sys2Proof.Machine.execSetPrio nib a b s
  | .resLoRead who nib => Sys2Proof.Machine.execResLoRead who nib s
  | .nextRead who nib => Sys2Proof.Machine.execNextRead who nib s
  | .tick q t n => Sys2Proof.Machine.execTick q t n s
  | .tickExpiry q => Sys2Proof.Machine.execTickExpiry q s
  | .journalWriteFailure q => Sys2Proof.Machine.execJournalWriteFailure q s
  | .tcbWrite who q xi w value => Sys2Proof.Machine.execTcbWrite who q xi w value s
  | .add o rd ra rb => Sys2Proof.Machine.execAdd o rd ra rb s
  | .sub o rd ra rb => Sys2Proof.Machine.execSub o rd ra rb s
  | .and o rd ra rb => Sys2Proof.Machine.execAnd o rd ra rb s
  | .or o rd ra rb => Sys2Proof.Machine.execOr o rd ra rb s
  | .xor o rd ra rb => Sys2Proof.Machine.execXor o rd ra rb s
  | .sll o rd ra rb => Sys2Proof.Machine.execSll o rd ra rb s
  | .srl o rd ra rb => Sys2Proof.Machine.execSrl o rd ra rb s
  | .sra o rd ra rb => Sys2Proof.Machine.execSra o rd ra rb s
  | .slt o rd ra rb => Sys2Proof.Machine.execSlt o rd ra rb s
  | .sltu o rd ra rb => Sys2Proof.Machine.execSltu o rd ra rb s
  | .min o rd ra rb => Sys2Proof.Machine.execMin o rd ra rb s
  | .max o rd ra rb => Sys2Proof.Machine.execMax o rd ra rb s
  | .minu o rd ra rb => Sys2Proof.Machine.execMinu o rd ra rb s
  | .maxu o rd ra rb => Sys2Proof.Machine.execMaxu o rd ra rb s
  | .clz o rd ra => Sys2Proof.Machine.execClz o rd ra s
  | .popc o rd ra => Sys2Proof.Machine.execPopc o rd ra s
  | .addw o rd ra rb => Sys2Proof.Machine.execAddw o rd ra rb s
  | .subw o rd ra rb => Sys2Proof.Machine.execSubw o rd ra rb s
  | .addsw o rd ra rb => Sys2Proof.Machine.execAddsw o rd ra rb s
  | .subsw o rd ra rb => Sys2Proof.Machine.execSubsw o rd ra rb s
  | .addi o rd ra imm => Sys2Proof.Machine.execAddi o rd ra imm s
  | .andi o rd ra imm => Sys2Proof.Machine.execAndi o rd ra imm s
  | .ori o rd ra imm => Sys2Proof.Machine.execOri o rd ra imm s
  | .xori o rd ra imm => Sys2Proof.Machine.execXori o rd ra imm s
  | .slli o rd ra imm => Sys2Proof.Machine.execSlli o rd ra imm s
  | .srli o rd ra imm => Sys2Proof.Machine.execSrli o rd ra imm s
  | .srai o rd ra imm => Sys2Proof.Machine.execSrai o rd ra imm s
  | .slti o rd ra imm => Sys2Proof.Machine.execSlti o rd ra imm s
  | .lui o rd imm => Sys2Proof.Machine.execLui o rd imm s
  | .addpc o rd imm => Sys2Proof.Machine.execAddpc o rd imm s
  | .mul o rd ra rb => Sys2Proof.Machine.execMul o rd ra rb s
  | .mulh o rd ra rb => Sys2Proof.Machine.execMulh o rd ra rb s
  | .mulhu o rd ra rb => Sys2Proof.Machine.execMulhu o rd ra rb s
  | .mulw o rd ra rb => Sys2Proof.Machine.execMulw o rd ra rb s
  | .extu o rd ra pos wid => Sys2Proof.Machine.execExtu o rd ra pos wid s
  | .exts o rd ra pos wid => Sys2Proof.Machine.execExts o rd ra pos wid s
  | .ins o rd ra pos wid => Sys2Proof.Machine.execIns o rd ra pos wid s
  | .sel o rd ra rb rc => Sys2Proof.Machine.execSel o rd ra rb rc s
  | .beq o ra rb off => Sys2Proof.Machine.execBeq o ra rb off s
  | .bne o ra rb off => Sys2Proof.Machine.execBne o ra rb off s
  | .blt o ra rb off => Sys2Proof.Machine.execBlt o ra rb off s
  | .bge o ra rb off => Sys2Proof.Machine.execBge o ra rb off s
  | .bltu o ra rb off => Sys2Proof.Machine.execBltu o ra rb off s
  | .bgeu o ra rb off => Sys2Proof.Machine.execBgeu o ra rb off s
  | .jal o rd off => Sys2Proof.Machine.execJal o rd off s
  | .jalr o rd ra imm => Sys2Proof.Machine.execJalr o rd ra imm s
  | .mfsr o rd num => Sys2Proof.Machine.execMfsr o rd num s
  | .mtsr o ra num => Sys2Proof.Machine.execMtsr o ra num s
  | .mftb o rd num => Sys2Proof.Machine.execMftb o rd num s
  | .mttb o ra num => Sys2Proof.Machine.execMttb o ra num s
  | .trap o imm => Sys2Proof.Machine.execTrap o imm s
  | .rfe o => Sys2Proof.Machine.execRfe o s
  | .wait o => Sys2Proof.Machine.execWait o s
  | .nibWaitWake nib => Sys2Proof.Machine.execNibWaitWake nib s
  | .bkpt o => Sys2Proof.Machine.execBkpt o s
  | .dclean o ra imm => Sys2Proof.Machine.execDclean o ra imm s
  | .dinv o ra imm => Sys2Proof.Machine.execDinv o ra imm s
  | .dflush o ra imm => Sys2Proof.Machine.execDflush o ra imm s
  | .dpref o ra imm => Sys2Proof.Machine.execDpref o ra imm s
  | .icinv o ra imm => Sys2Proof.Machine.execIcinv o ra imm s
  | .icinvAll o => Sys2Proof.Machine.execIcinvAll o s
  | .dflushAll o => Sys2Proof.Machine.execDflushAll o s
  | .lb o rd ra imm => Sys2Proof.Machine.execLb o rd ra imm s
  | .lh o rd ra imm => Sys2Proof.Machine.execLh o rd ra imm s
  | .lw o rd ra imm => Sys2Proof.Machine.execLw o rd ra imm s
  | .ld o rd ra imm => Sys2Proof.Machine.execLd o rd ra imm s
  | .lbu o rd ra imm => Sys2Proof.Machine.execLbu o rd ra imm s
  | .lhu o rd ra imm => Sys2Proof.Machine.execLhu o rd ra imm s
  | .lwu o rd ra imm => Sys2Proof.Machine.execLwu o rd ra imm s
  | .sb o rs ra imm => Sys2Proof.Machine.execSb o rs ra imm s
  | .sh o rs ra imm => Sys2Proof.Machine.execSh o rs ra imm s
  | .sw o rs ra imm => Sys2Proof.Machine.execSw o rs ra imm s
  | .sd o rs ra imm => Sys2Proof.Machine.execSd o rs ra imm s
  | .ldc o rd cb size sgn incsel inc => Sys2Proof.Machine.execLdc o rd cb size sgn incsel inc s
  | .stc o rs cb size incsel inc => Sys2Proof.Machine.execStc o rs cb size incsel inc s
  | .amoaddW o rd ra rb => Sys2Proof.Machine.execAmoaddW o rd ra rb s
  | .amoaddD o rd ra rb => Sys2Proof.Machine.execAmoaddD o rd ra rb s
  | .amoswapW o rd ra rb => Sys2Proof.Machine.execAmoswapW o rd ra rb s
  | .amoswapD o rd ra rb => Sys2Proof.Machine.execAmoswapD o rd ra rb s
  | .amocasW o rd ra rb => Sys2Proof.Machine.execAmocasW o rd ra rb s
  | .amocasD o rd ra rb => Sys2Proof.Machine.execAmocasD o rd ra rb s
  | .amoandD o rd ra rb => Sys2Proof.Machine.execAmoandD o rd ra rb s
  | .amoorD o rd ra rb => Sys2Proof.Machine.execAmoorD o rd ra rb s
  | .deferredResultLanding nib => Sys2Proof.Machine.execDeferredResultLanding nib s
  | .cacheLineFill nib way => Sys2Proof.Machine.execCacheLineFill nib way s
  | .interruptEntry nib => Sys2Proof.Machine.execInterruptEntry nib s
  | .nibTimerExpiry nib => Sys2Proof.Machine.execNibTimerExpiry nib s
  | .doorbellWrite who nib => Sys2Proof.Machine.execDoorbellWrite who nib s
  | .nibCtlRun who nib => Sys2Proof.Machine.execNibCtlRun who nib s
  | .nibCtlHalt who nib => Sys2Proof.Machine.execNibCtlHalt who nib s
  | .nibCtlResume who nib => Sys2Proof.Machine.execNibCtlResume who nib s
  | .nibCtlStep who nib => Sys2Proof.Machine.execNibCtlStep who nib s
  | .dbgDataRead who nib => Sys2Proof.Machine.execDbgDataRead who nib s
  | .dbgDataWrite who nib value => Sys2Proof.Machine.execDbgDataWrite who nib value s
  | .cycleLoRead who nib => Sys2Proof.Machine.execCycleLoRead who nib s
  | .bundlesLoRead who nib => Sys2Proof.Machine.execBundlesLoRead who nib s
  | .vspan o rd rs etype lig => Sys2Proof.Machine.execVspan o rd rs etype lig s
  | .vctl o bits => Sys2Proof.Machine.execVctl o bits s
  | .vcapi o rd etype lig => Sys2Proof.Machine.execVcapi o rd etype lig s
  | .vadd o vd a b pg => Sys2Proof.Machine.execVadd o vd a b pg s
  | .vsub o vd a b pg => Sys2Proof.Machine.execVsub o vd a b pg s
  | .vand o vd a b pg => Sys2Proof.Machine.execVand o vd a b pg s
  | .vor o vd a b pg => Sys2Proof.Machine.execVor o vd a b pg s
  | .vxor o vd a b pg => Sys2Proof.Machine.execVxor o vd a b pg s
  | .vmin o vd a b pg => Sys2Proof.Machine.execVmin o vd a b pg s
  | .vmax o vd a b pg => Sys2Proof.Machine.execVmax o vd a b pg s
  | .vminu o vd a b pg => Sys2Proof.Machine.execVminu o vd a b pg s
  | .vmaxu o vd a b pg => Sys2Proof.Machine.execVmaxu o vd a b pg s
  | .vsll o vd a b pg => Sys2Proof.Machine.execVsll o vd a b pg s
  | .vsrl o vd a b pg => Sys2Proof.Machine.execVsrl o vd a b pg s
  | .vsra o vd a b pg => Sys2Proof.Machine.execVsra o vd a b pg s
  | .vmul o vd a b pg => Sys2Proof.Machine.execVmul o vd a b pg s
  | .vmulh o vd a b pg => Sys2Proof.Machine.execVmulh o vd a b pg s
  | .vmulhu o vd a b pg => Sys2Proof.Machine.execVmulhu o vd a b pg s
  | .vmerge o vd a b pg => Sys2Proof.Machine.execVmerge o vd a b pg s
  | .vmv o vd b pg => Sys2Proof.Machine.execVmv o vd b pg s
  | .vsadd o vd a b pg => Sys2Proof.Machine.execVsadd o vd a b pg s
  | .vssub o vd a b pg => Sys2Proof.Machine.execVssub o vd a b pg s
  | .vsaddu o vd a b pg => Sys2Proof.Machine.execVsaddu o vd a b pg s
  | .vssubu o vd a b pg => Sys2Proof.Machine.execVssubu o vd a b pg s
  | .vavg o vd a b pg => Sys2Proof.Machine.execVavg o vd a b pg s
  | .vmulq o vd a b pg => Sys2Proof.Machine.execVmulq o vd a b pg s
  | .vssll o vd a b pg => Sys2Proof.Machine.execVssll o vd a b pg s
  | .vsrar o vd a b pg => Sys2Proof.Machine.execVsrar o vd a b pg s
  | .vsabs o vd a pg => Sys2Proof.Machine.execVsabs o vd a pg s
  | .vsneg o vd a pg => Sys2Proof.Machine.execVsneg o vd a pg s
  | .vcmul o vd a b pg => Sys2Proof.Machine.execVcmul o vd a b pg s
  | .vcmulj o vd a b pg => Sys2Proof.Machine.execVcmulj o vd a b pg s
  | .vconj o vd a pg => Sys2Proof.Machine.execVconj o vd a pg s
  | .vwadd o vd a b pg => Sys2Proof.Machine.execVwadd o vd a b pg s
  | .vwsub o vd a b pg => Sys2Proof.Machine.execVwsub o vd a b pg s
  | .vwmul o vd a b pg => Sys2Proof.Machine.execVwmul o vd a b pg s
  | .vwmulu o vd a b pg => Sys2Proof.Machine.execVwmulu o vd a b pg s
  | .vwcmul o vd a b pg => Sys2Proof.Machine.execVwcmul o vd a b pg s
  | .vnsra o vd a b pg => Sys2Proof.Machine.execVnsra o vd a b pg s
  | .vnclip o vd a b pg => Sys2Proof.Machine.execVnclip o vd a b pg s
  | .vnclipu o vd a b pg => Sys2Proof.Machine.execVnclipu o vd a b pg s
  | .vsext o vd a pg => Sys2Proof.Machine.execVsext o vd a pg s
  | .vzext o vd a pg => Sys2Proof.Machine.execVzext o vd a pg s
  | .vmac o acc a b pg => Sys2Proof.Machine.execVmac o acc a b pg s
  | .vmsu o acc a b pg => Sys2Proof.Machine.execVmsu o acc a b pg s
  | .vmacz o acc a b pg => Sys2Proof.Machine.execVmacz o acc a b pg s
  | .vcmac o acc a b pg => Sys2Proof.Machine.execVcmac o acc a b pg s
  | .vcmacj o acc a b pg => Sys2Proof.Machine.execVcmacj o acc a b pg s
  | .vcmacz o acc a b pg => Sys2Proof.Machine.execVcmacz o acc a b pg s
  | .vcmsu o acc a b pg => Sys2Proof.Machine.execVcmsu o acc a b pg s
  | .vaext o vd acc sh pg => Sys2Proof.Machine.execVaext o vd acc sh pg s
  | .vamov o v acc sh pg => Sys2Proof.Machine.execVamov o v acc sh pg s
  | .vaclr o acc => Sys2Proof.Machine.execVaclr o acc s
  | .vaclrf o acc => Sys2Proof.Machine.execVaclrf o acc s
  | .vcmpeq o pd a b pg => Sys2Proof.Machine.execVcmpeq o pd a b pg s
  | .vcmpne o pd a b pg => Sys2Proof.Machine.execVcmpne o pd a b pg s
  | .vcmplt o pd a b pg => Sys2Proof.Machine.execVcmplt o pd a b pg s
  | .vcmple o pd a b pg => Sys2Proof.Machine.execVcmple o pd a b pg s
  | .vcmpltu o pd a b pg => Sys2Proof.Machine.execVcmpltu o pd a b pg s
  | .vcmpleu o pd a b pg => Sys2Proof.Machine.execVcmpleu o pd a b pg s
  | .vcmpgt o pd a b pg => Sys2Proof.Machine.execVcmpgt o pd a b pg s
  | .vcmpge o pd a b pg => Sys2Proof.Machine.execVcmpge o pd a b pg s
  | .pand o pd ps1 ps2 pg => Sys2Proof.Machine.execPand o pd ps1 ps2 pg s
  | .por o pd ps1 ps2 pg => Sys2Proof.Machine.execPor o pd ps1 ps2 pg s
  | .pxor o pd ps1 ps2 pg => Sys2Proof.Machine.execPxor o pd ps1 ps2 pg s
  | .pandn o pd ps1 ps2 pg => Sys2Proof.Machine.execPandn o pd ps1 ps2 pg s
  | .pffget o pd pg => Sys2Proof.Machine.execPffget o pd pg s
  | .pwhile o pd rs pg => Sys2Proof.Machine.execPwhile o pd rs pg s
  | .pcnt o rd ps1 pg => Sys2Proof.Machine.execPcnt o rd ps1 pg s
  | .pfirst o rd ps1 pg => Sys2Proof.Machine.execPfirst o rd ps1 pg s
  | .pfflen o rd => Sys2Proof.Machine.execPfflen o rd s
  | .pffput o ps1 => Sys2Proof.Machine.execPffput o ps1 s
  | .vbcast o vd rs pg => Sys2Proof.Machine.execVbcast o vd rs pg s
  | .vslidedn o vd a rs pg => Sys2Proof.Machine.execVslidedn o vd a rs pg s
  | .vslideup o vd a rs pg => Sys2Proof.Machine.execVslideup o vd a rs pg s
  | .vmvxs o rd a => Sys2Proof.Machine.execVmvxs o rd a s
  | .vmvsx o vd rs pg => Sys2Proof.Machine.execVmvsx o vd rs pg s
  | .vperm o vd a b pg => Sys2Proof.Machine.execVperm o vd a b pg s
  | .vswapiq o vd a pg => Sys2Proof.Machine.execVswapiq o vd a pg s
  | .vrsum o rd a pg => Sys2Proof.Machine.execVrsum o rd a pg s
  | .vrmax o rd a pg => Sys2Proof.Machine.execVrmax o rd a pg s
  | .vrmin o rd a pg => Sys2Proof.Machine.execVrmin o rd a pg s
  | .vrmaxabs o rd a pg => Sys2Proof.Machine.execVrmaxabs o rd a pg s
  | .vrmincls o rd a pg => Sys2Proof.Machine.execVrmincls o rd a pg s
  | .vcls o vd a pg => Sys2Proof.Machine.execVcls o vd a pg s
  | .vnorm o vd a pg => Sys2Proof.Machine.execVnorm o vd a pg s
  | .vbexp o vd a pg => Sys2Proof.Machine.execVbexp o vd a pg s
  | .vbscl o vd a b pg => Sys2Proof.Machine.execVbscl o vd a b pg s
  | .vbpack o vd a b pg => Sys2Proof.Machine.execVbpack o vd a b pg s
  | .vbunpk o vd a pg => Sys2Proof.Machine.execVbunpk o vd a pg s
  | .vfadd o vd a b pg => Sys2Proof.Machine.execVfadd o vd a b pg s
  | .vfsub o vd a b pg => Sys2Proof.Machine.execVfsub o vd a b pg s
  | .vfmul o vd a b pg => Sys2Proof.Machine.execVfmul o vd a b pg s
  | .vfma o vd a b pg => Sys2Proof.Machine.execVfma o vd a b pg s
  | .vfmin o vd a b pg => Sys2Proof.Machine.execVfmin o vd a b pg s
  | .vfmax o vd a b pg => Sys2Proof.Machine.execVfmax o vd a b pg s
  | .vfcmplt o pd a b pg => Sys2Proof.Machine.execVfcmplt o pd a b pg s
  | .vfcmpeq o pd a b pg => Sys2Proof.Machine.execVfcmpeq o pd a b pg s
  | .vfabs o vd a pg => Sys2Proof.Machine.execVfabs o vd a pg s
  | .vfneg o vd a pg => Sys2Proof.Machine.execVfneg o vd a pg s
  | .vcvtif o vd a pg => Sys2Proof.Machine.execVcvtif o vd a pg s
  | .vcvtfi o vd a pg => Sys2Proof.Machine.execVcvtfi o vd a pg s
  | .vcvtfb o vd a pg => Sys2Proof.Machine.execVcvtfb o vd a pg s
  | .vcvtbf o vd a pg => Sys2Proof.Machine.execVcvtbf o vd a pg s
  | .vld o ff pi vd ra pg => Sys2Proof.Machine.execVld o ff pi vd ra pg s
  | .vlds o ff vd ra rb pg => Sys2Proof.Machine.execVlds o ff vd ra rb pg s
  | .vldg o ff scale vd ra b pg => Sys2Proof.Machine.execVldg o ff scale vd ra b pg s
  | .vst o pi vs ra pg => Sys2Proof.Machine.execVst o pi vs ra pg s
  | .vsts o vs ra rb pg => Sys2Proof.Machine.execVsts o vs ra rb pg s
  | .vstg o scale vs ra b pg => Sys2Proof.Machine.execVstg o scale vs ra b pg s
  | .vldr o vd ra pg => Sys2Proof.Machine.execVldr o vd ra pg s
  | .vstr o vs ra pg => Sys2Proof.Machine.execVstr o vs ra pg s
  | .vldrp o p ra pg => Sys2Proof.Machine.execVldrp o p ra pg s
  | .vstrp o p ra pg => Sys2Proof.Machine.execVstrp o p ra pg s
  | .vldra o acc ra pg => Sys2Proof.Machine.execVldra o acc ra pg s
  | .vstra o acc ra pg => Sys2Proof.Machine.execVstra o acc ra pg s
  | .flock o f => Sys2Proof.Machine.execFlock o f s
  | .flocknb o f => Sys2Proof.Machine.execFlocknb o f s
  | .funlock o f => Sys2Proof.Machine.execFunlock o f s
  | .fwait o f => Sys2Proof.Machine.execFwait o f s
  | .fget o f => Sys2Proof.Machine.execFget o f s
  | .fsave o f => Sys2Proof.Machine.execFsave o f s
  | .frestore o f => Sys2Proof.Machine.execFrestore o f s
  | .fmul o f => Sys2Proof.Machine.execFmul o f s
  | .fherm o f => Sys2Proof.Machine.execFherm o f s
  | .fchol o f => Sys2Proof.Machine.execFchol o f s
  | .ftrsm o f => Sys2Proof.Machine.execFtrsm o f s
  | .fqr o f => Sys2Proof.Machine.execFqr o f s
  | .finv o f => Sys2Proof.Machine.execFinv o f s
  | .feig o f => Sys2Proof.Machine.execFeig o f s
  | .ferruleCommandComplete f stall => Sys2Proof.Machine.execFerruleCommandComplete f stall s
  | .ferCtlAbort who f => Sys2Proof.Machine.execFerCtlAbort who f s
  | .accQuery d => Sys2Proof.Machine.execAccQuery d s
  | .ringConfig d => Sys2Proof.Machine.execRingConfig d s
  | .harqLookup d => Sys2Proof.Machine.execHarqLookup d s
  | .harqFree d => Sys2Proof.Machine.execHarqFree d s
  | .harqFreeUe d => Sys2Proof.Machine.execHarqFreeUe d s
  | .harqUsage d => Sys2Proof.Machine.execHarqUsage d s
  | .ldpcDecode j => Sys2Proof.Machine.execLdpcDecode j s
  | .ldpcEncode j => Sys2Proof.Machine.execLdpcEncode j s
  | .polarDecode j => Sys2Proof.Machine.execPolarDecode j s
  | .polarEncode j => Sys2Proof.Machine.execPolarEncode j s
  | .turboDecode j => Sys2Proof.Machine.execTurboDecode j s
  | .turboEncode j => Sys2Proof.Machine.execTurboEncode j s
  | .fft j => Sys2Proof.Machine.execFft j s
  | .ifft j => Sys2Proof.Machine.execIfft j s
  | .dft j => Sys2Proof.Machine.execDft j s
  | .idft j => Sys2Proof.Machine.execIdft j s
  | .nrCombine j => Sys2Proof.Machine.execNrCombine j s
  | .lteCombine j => Sys2Proof.Machine.execLteCombine j s
  | .demap j => Sys2Proof.Machine.execDemap j s
  | .poolJobComplete x => Sys2Proof.Machine.execPoolJobComplete x s
  | .jobOverrun x => Sys2Proof.Machine.execJobOverrun x s
  | .hdyAccRead who => Sys2Proof.Machine.execHdyAccRead who s
  | .hdyAccWrite who => Sys2Proof.Machine.execHdyAccWrite who s
  | .nrPrach j ds => Sys2Proof.Machine.execNrPrach j ds s
  | .ltePrach j ds => Sys2Proof.Machine.execLtePrach j ds s
  | .nprach j ds => Sys2Proof.Machine.execNprach j ds s
  | .preadyReached e c => Sys2Proof.Machine.execPreadyReached e c s
  | .payloadProcess e => Sys2Proof.Machine.execPayloadProcess e s
  | .payloadComplete e pass => Sys2Proof.Machine.execPayloadComplete e pass s
  | .raRing d => Sys2Proof.Machine.execRaRing d s
  | .raConfig d => Sys2Proof.Machine.execRaConfig d s
  | .raThresh d => Sys2Proof.Machine.execRaThresh d s
  | .raQuery d => Sys2Proof.Machine.execRaQuery d s
  | .raAbort d => Sys2Proof.Machine.execRaAbort d s
  | .flitCrcError site link retry => Sys2Proof.Machine.execFlitCrcError site link retry s
  | .routerError site => Sys2Proof.Machine.execRouterError site s
  | .responseTimeout who ring => Sys2Proof.Machine.execResponseTimeout who ring s
  | .firstAccess who write addr bytes data => Sys2Proof.Machine.execFirstAccess who write addr bytes data s
  | .heldRequestPerform dom => Sys2Proof.Machine.execHeldRequestPerform dom s
  | .holdTimeout dom => Sys2Proof.Machine.execHoldTimeout dom s
  | .scrubLine unit addr err ends => Sys2Proof.Machine.execScrubLine unit addr err ends s
  | .rowRepair unit spare => Sys2Proof.Machine.execRowRepair unit spare s
  | .rowRepairComplete unit place => Sys2Proof.Machine.execRowRepairComplete unit place s
  | .scrubPassNow who unit => Sys2Proof.Machine.execScrubPassNow who unit s
  | .eccCorrRead who unit => Sys2Proof.Machine.execEccCorrRead who unit s
  | .memoryTraining hbm lanes caps bad => Sys2Proof.Machine.execMemoryTraining hbm lanes caps bad s
  | .refresh unit => Sys2Proof.Machine.execRefresh unit s
  | .epochFlip who => Sys2Proof.Machine.execEpochFlip who s
  | .epochDrainComplete => Sys2Proof.Machine.execEpochDrainComplete s
  | .rtAccRead who => Sys2Proof.Machine.execRtAccRead who s
  | .rtAccWrite who => Sys2Proof.Machine.execRtAccWrite who s
  | .rtAccCopy who => Sys2Proof.Machine.execRtAccCopy who s
  | .memQuery d => Sys2Proof.Machine.execMemQuery d s
  | .memScrub d => Sys2Proof.Machine.execMemScrub d s
  | .nocStat d => Sys2Proof.Machine.execNocStat d s
  | .nocLinkTest d => Sys2Proof.Machine.execNocLinkTest d s
  | .linkTestEnd site link flits errors => Sys2Proof.Machine.execLinkTestEnd site link flits errors s
  | .nocQuery d => Sys2Proof.Machine.execNocQuery d s
  | .nocLinkRestore d => Sys2Proof.Machine.execNocLinkRestore d s
  | .copy1d j => Sys2Proof.Machine.execCopy1d j s
  | .copy2d j => Sys2Proof.Machine.execCopy2d j s
  | .copy3d j => Sys2Proof.Machine.execCopy3d j s
  | .gather j => Sys2Proof.Machine.execGather j s
  | .burstGrant ready => Sys2Proof.Machine.execBurstGrant ready s
  | .scribeDescriptorComplete e c => Sys2Proof.Machine.execScribeDescriptorComplete e c s
  | .chCtlStop who e c value => Sys2Proof.Machine.execChCtlStop who e c value s
  | .channelClaim who e r mask => Sys2Proof.Machine.execChannelClaim who e r mask s
  | .channelRelease who e r mask => Sys2Proof.Machine.execChannelRelease who e r mask s
  | .tctlCommit who e c value => Sys2Proof.Machine.execTctlCommit who e c value s
  | .tctlEnable who e c value => Sys2Proof.Machine.execTctlEnable who e c value s
  | .timedRoundStart e c => Sys2Proof.Machine.execTimedRoundStart e c s
  | .timedRoundComplete e c => Sys2Proof.Machine.execTimedRoundComplete e c s
  | .ethConfig d => Sys2Proof.Machine.execEthConfig d s
  | .portLinkUp port => Sys2Proof.Machine.execPortLinkUp port s
  | .portLinkDown port => Sys2Proof.Machine.execPortLinkDown port s
  | .ethQuery d => Sys2Proof.Machine.execEthQuery d s
  | .fhStream d => Sys2Proof.Machine.execFhStream d s
  | .fhWindow d => Sys2Proof.Machine.execFhWindow d s
  | .fhRing d => Sys2Proof.Machine.execFhRing d s
  | .fhHdr d => Sys2Proof.Machine.execFhHdr d s
  | .macsecSa d => Sys2Proof.Machine.execMacsecSa d s
  | .ethCal d => Sys2Proof.Machine.execEthCal d s
  | .uPlaneIngress port frame fcsOk msec => Sys2Proof.Machine.execUPlaneIngress port frame fcsOk msec s
  | .windowClose f g => Sys2Proof.Machine.execWindowClose f g s
  | .frameIngress port frame fcsOk msec => Sys2Proof.Machine.execFrameIngress port frame fcsOk msec s
  | .uTx j room => Sys2Proof.Machine.execUTx j room s
  | .cTx j room => Sys2Proof.Machine.execCTx j room s
  | .frameTx j => Sys2Proof.Machine.execFrameTx j s
  | .rxBuf j => Sys2Proof.Machine.execRxBuf j s
  | .streamTableError f idx => Sys2Proof.Machine.execStreamTableError f idx s
  | .stAccRead who f => Sys2Proof.Machine.execStAccRead who f s
  | .stAccWrite who f => Sys2Proof.Machine.execStAccWrite who f s
  | .jesLink d => Sys2Proof.Machine.execJesLink d s
  | .jesLinkUp k rx m => Sys2Proof.Machine.execJesLinkUp k rx m s
  | .jesLinkLoss k rx m cause lane => Sys2Proof.Machine.execJesLinkLoss k rx m cause lane s
  | .sysrefEdge => Sys2Proof.Machine.execSysrefEdge s
  | .converterStart k rx m => Sys2Proof.Machine.execConverterStart k rx m s
  | .jesQuery d => Sys2Proof.Machine.execJesQuery d s
  | .dfePath d => Sys2Proof.Machine.execDfePath d s
  | .dfePathCtlArm d => Sys2Proof.Machine.execDfePathCtlArm d s
  | .dfePathCtlStop d => Sys2Proof.Machine.execDfePathCtlStop d s
  | .dfePathCtlCommit d => Sys2Proof.Machine.execDfePathCtlCommit d s
  | .dfeCfr d => Sys2Proof.Machine.execDfeCfr d s
  | .dfeMask d => Sys2Proof.Machine.execDfeMask d s
  | .pathUnderrun c => Sys2Proof.Machine.execPathUnderrun c s
  | .maskMonitorFrame st power => Sys2Proof.Machine.execMaskMonitorFrame st power s
  | .cfrPeakInterval st clipped => Sys2Proof.Machine.execCfrPeakInterval st clipped s
  | .paProgram d => Sys2Proof.Machine.execPaProgram d s
  | .paReqUp d => Sys2Proof.Machine.execPaReqUp d s
  | .paReqDown d => Sys2Proof.Machine.execPaReqDown d s
  | .paReqMute d => Sys2Proof.Machine.execPaReqMute d s
  | .paReqTest d => Sys2Proof.Machine.execPaReqTest d s
  | .paReqClear d => Sys2Proof.Machine.execPaReqClear d s
  | .paProgramEnd p => Sys2Proof.Machine.execPaProgramEnd p s
  | .paFault p low => Sys2Proof.Machine.execPaFault p low s
  | .fabQuery d => Sys2Proof.Machine.execFabQuery d s
  | .fabPort d => Sys2Proof.Machine.execFabPort d s
  | .fabSnap d => Sys2Proof.Machine.execFabSnap d s
  | .fabSnapArmRequest tb sec ns => Sys2Proof.Machine.execFabSnapArmRequest tb sec ns s
  | .fabSnapAnswersComplete armed answered => Sys2Proof.Machine.execFabSnapAnswersComplete armed answered s
  | .fabLinkTest d => Sys2Proof.Machine.execFabLinkTest d s
  | .fabLinkTestEnd p bits errors => Sys2Proof.Machine.execFabLinkTestEnd p bits errors s
  | .fabPeerQuery d => Sys2Proof.Machine.execFabPeerQuery d s
  | .ylkHello p fabric dev unit ver farPort two => Sys2Proof.Machine.execYlkHello p fabric dev unit ver farPort two s
  | .ylkLinkFailure p lanes => Sys2Proof.Machine.execYlkLinkFailure p lanes s
  | .ylkTrainingRetry p => Sys2Proof.Machine.execYlkTrainingRetry p s
  | .settlingWindowEnd => Sys2Proof.Machine.execSettlingWindowEnd s
  | .adjacencyFrame dev unit links => Sys2Proof.Machine.execAdjacencyFrame dev unit links s
  | .heartbeatSend => Sys2Proof.Machine.execHeartbeatSend s
  | .heartbeatReceive dev => Sys2Proof.Machine.execHeartbeatReceive dev s
  | .peerLoss dev => Sys2Proof.Machine.execPeerLoss dev s
  | .remoteRequest q => Sys2Proof.Machine.execRemoteRequest q s
  | .timeFrameSend p => Sys2Proof.Machine.execTimeFrameSend p s
  | .timeFrameReceive p stamps => Sys2Proof.Machine.execTimeFrameReceive p stamps s
  | .pwrVoteD0 d => Sys2Proof.Machine.execPwrVoteD0 d s
  | .pwrVoteTolerance d => Sys2Proof.Machine.execPwrVoteTolerance d s
  | .pwrVoteWithdraw d => Sys2Proof.Machine.execPwrVoteWithdraw d s
  | .pwrQuery d => Sys2Proof.Machine.execPwrQuery d s
  | .pwrEnter d => Sys2Proof.Machine.execPwrEnter d s
  | .pwrWindow d => Sys2Proof.Machine.execPwrWindow d s
  | .pwrForceClear d => Sys2Proof.Machine.execPwrForceClear d s
  | .clkQuery d => Sys2Proof.Machine.execClkQuery d s
  | .powerEntryStart dom => Sys2Proof.Machine.execPowerEntryStart dom s
  | .powerEntryStepComplete dom => Sys2Proof.Machine.execPowerEntryStepComplete dom s
  | .powerExit dom => Sys2Proof.Machine.execPowerExit dom s
  | .powerExitComplete dom bad => Sys2Proof.Machine.execPowerExitComplete dom bad s
  | .retentionExcursion dom bank => Sys2Proof.Machine.execRetentionExcursion dom bank s
  | .forcedPowerDown zero => Sys2Proof.Machine.execForcedPowerDown zero s
  | .powerWindowExpiry w => Sys2Proof.Machine.execPowerWindowExpiry w s
  | .pllLossOfLock k => Sys2Proof.Machine.execPllLossOfLock k s
  | .sensorSample temps => Sys2Proof.Machine.execSensorSample temps s
  | .avsSetpointStep ack => Sys2Proof.Machine.execAvsSetpointStep ack s
  | .avsRetry ack => Sys2Proof.Machine.execAvsRetry ack s
  | .nibWatchdogExpiry nib => Sys2Proof.Machine.execNibWatchdogExpiry nib s
  | .avlQuery d => Sys2Proof.Machine.execAvlQuery d s
  | .avlReturn d => Sys2Proof.Machine.execAvlReturn d s
  | .pncRun d => Sys2Proof.Machine.execPncRun d s
  | .pncRunAbort d => Sys2Proof.Machine.execPncRunAbort d s
  | .pncSched d => Sys2Proof.Machine.execPncSched d s
  | .serdesTest d => Sys2Proof.Machine.execSerdesTest d s
  | .serdesTestEnd jesd rx lane bits errors => Sys2Proof.Machine.execSerdesTestEnd jesd rx lane bits errors s
  | .calSet d => Sys2Proof.Machine.execCalSet d s
  | .calQuery d => Sys2Proof.Machine.execCalQuery d s
  | .avlHeadroom d => Sys2Proof.Machine.execAvlHeadroom d s
  | .calUserWrite who value => Sys2Proof.Machine.execCalUserWrite who value s
  | .pounceSelect => Sys2Proof.Machine.execPounceSelect s
  | .pounceExclusionStart dom => Sys2Proof.Machine.execPounceExclusionStart dom s
  | .pounceDrained dom => Sys2Proof.Machine.execPounceDrained dom s
  | .pounceDrainTimeout dom => Sys2Proof.Machine.execPounceDrainTimeout dom s
  | .pounceTestEnd dom pass coverage duration => Sys2Proof.Machine.execPounceTestEnd dom pass coverage duration s
  | .chpStateQuery d => Sys2Proof.Machine.execChpStateQuery d s
  | .chpStateSelfTest d => Sys2Proof.Machine.execChpStateSelfTest d s
  | .chpStateReadCounter d => Sys2Proof.Machine.execChpStateReadCounter d s
  | .chpStateAdvanceCounter d => Sys2Proof.Machine.execChpStateAdvanceCounter d s
  | .chpAuthChallenge d => Sys2Proof.Machine.execChpAuthChallenge d s
  | .chpAuthRespond d => Sys2Proof.Machine.execChpAuthRespond d s
  | .chpAuthLogout d => Sys2Proof.Machine.execChpAuthLogout d s
  | .authLockoutExpiry role => Sys2Proof.Machine.execAuthLockoutExpiry role s
  | .chpKeyGenerate d => Sys2Proof.Machine.execChpKeyGenerate d s
  | .chpKeyImport d => Sys2Proof.Machine.execChpKeyImport d s
  | .chpKeyExport d => Sys2Proof.Machine.execChpKeyExport d s
  | .chpKeyDelete d => Sys2Proof.Machine.execChpKeyDelete d s
  | .chpKeyQuery d => Sys2Proof.Machine.execChpKeyQuery d s
  | .chpCryptGcmEncrypt d => Sys2Proof.Machine.execChpCryptGcmEncrypt d s
  | .chpCryptGcmDecrypt d => Sys2Proof.Machine.execChpCryptGcmDecrypt d s
  | .chpCryptHash d => Sys2Proof.Machine.execChpCryptHash d s
  | .chpCryptHmac d => Sys2Proof.Machine.execChpCryptHmac d s
  | .chpCryptSign d => Sys2Proof.Machine.execChpCryptSign d s
  | .chpCryptVerify d => Sys2Proof.Machine.execChpCryptVerify d s
  | .chpCryptRandom d => Sys2Proof.Machine.execChpCryptRandom d s
  | .chpCryptKdf d => Sys2Proof.Machine.execChpCryptKdf d s
  | .chpCryptEcdh d => Sys2Proof.Machine.execChpCryptEcdh d s
  | .chpAttestReport d => Sys2Proof.Machine.execChpAttestReport d s
  | .chpAttestChain d => Sys2Proof.Machine.execChpAttestChain d s
  | .chpZeroise d => Sys2Proof.Machine.execChpZeroise d s
  | .tamperDetect cause => Sys2Proof.Machine.execTamperDetect cause s
  | .zeroisationComplete => Sys2Proof.Machine.execZeroisationComplete s
  | .selfTestPeriodic => Sys2Proof.Machine.execSelfTestPeriodic s
  | .selfTestComplete failed => Sys2Proof.Machine.execSelfTestComplete failed s
  | .palStage d => Sys2Proof.Machine.execPalStage d s
  | .palCtlStart d => Sys2Proof.Machine.execPalCtlStart d s
  | .palCtlConfirm d => Sys2Proof.Machine.execPalCtlConfirm d s
  | .palCtlReject d => Sys2Proof.Machine.execPalCtlReject d s
  | .palCtlDiscard d => Sys2Proof.Machine.execPalCtlDiscard d s
  | .palCtlQuery d => Sys2Proof.Machine.execPalCtlQuery d s
  | .palBlockWritten => Sys2Proof.Machine.execPalBlockWritten s
  | .palWriteComplete => Sys2Proof.Machine.execPalWriteComplete s
  | .palImageStarted => Sys2Proof.Machine.execPalImageStarted s
  | .palActivationTimeout => Sys2Proof.Machine.execPalActivationTimeout s
  | .palTrialExpiry => Sys2Proof.Machine.execPalTrialExpiry s
  | .palRestoreComplete => Sys2Proof.Machine.execPalRestoreComplete s
  | .flRead who => Sys2Proof.Machine.execFlRead who s
  | .flProgram who => Sys2Proof.Machine.execFlProgram who s
  | .flErase who => Sys2Proof.Machine.execFlErase who s
  | .flAccessComplete => Sys2Proof.Machine.execFlAccessComplete s
  | .nspHello f => Sys2Proof.Machine.execNspHello f s
  | .nspAuth f sigs => Sys2Proof.Machine.execNspAuth f sigs s
  | .nspCommand f op d => Sys2Proof.Machine.execNspCommand f op d s
  | .nspData f offset data => Sys2Proof.Machine.execNspData f offset data s
  | .nspClose f => Sys2Proof.Machine.execNspClose f s
  | .nspSessionTimeout => Sys2Proof.Machine.execNspSessionTimeout s
  | .serviceLinkChange up => Sys2Proof.Machine.execServiceLinkChange up s
  | .hostAccess func space write ep addr bytes data => Sys2Proof.Machine.execHostAccess func space write ep addr bytes data s
  | .hostWindowAccess who write addr bytes data => Sys2Proof.Machine.execHostWindowAccess who write addr bytes data s
  | .hostCompletion index kind data => Sys2Proof.Machine.execHostCompletion index kind data s
  | .functionLevelReset func done => Sys2Proof.Machine.execFunctionLevelReset func done s
  | .pciePerst low => Sys2Proof.Machine.execPciePerst low s
  | .pcieLinkChange rate width flit => Sys2Proof.Machine.execPcieLinkChange rate width flit s
  | .hostQuery d => Sys2Proof.Machine.execHostQuery d s
  | .devReset d => Sys2Proof.Machine.execDevReset d s
  | .coreCtlStart d => Sys2Proof.Machine.execCoreCtlStart d s
  | .coreCtlStop d => Sys2Proof.Machine.execCoreCtlStop d s
  | .evtRoute d => Sys2Proof.Machine.execEvtRoute d s
  | .evtQuery d => Sys2Proof.Machine.execEvtQuery d s
  | .evtRaise d => Sys2Proof.Machine.execEvtRaise d s
  | .swsetWrite who value => Sys2Proof.Machine.execSwsetWrite who value s
  | .bltConfig d => Sys2Proof.Machine.execBltConfig d s
  | .bltCfgClear who n => Sys2Proof.Machine.execBltCfgClear who n s
  | .gpioCtlRead d => Sys2Proof.Machine.execGpioCtlRead d s
  | .gpioCtlDrive d => Sys2Proof.Machine.execGpioCtlDrive d s
  | .gpioCtlInput d => Sys2Proof.Machine.execGpioCtlInput d s
  | .gpioEdge pin level => Sys2Proof.Machine.execGpioEdge pin level s
  | .eventDelivery => Sys2Proof.Machine.execEventDelivery s
  | .debugToken token => Sys2Proof.Machine.execDebugToken token s
  | .coldReset mode refSel => Sys2Proof.Machine.execColdReset mode refSel s
  | .bootBistComplete fatal logic fails repaired fences banks => Sys2Proof.Machine.execBootBistComplete fatal logic fails repaired fences banks s
  | .memoryInitialisation => Sys2Proof.Machine.execMemoryInitialisation s
  | .bootVellumApply => Sys2Proof.Machine.execBootVellumApply s
  | .warmReset pin => Sys2Proof.Machine.execWarmReset pin s
  | .nibFence o kind => Sys2Proof.Machine.execNibFence o kind s
  | .illegalEncoding o => Sys2Proof.Machine.execIllegalEncoding o s
  | .unassignedOpcode j => Sys2Proof.Machine.execUnassignedOpcode j s
  | .rcFieldRead who addr bytes => Sys2Proof.Machine.execRcFieldRead who addr bytes s
  | .responseArrival nib => Sys2Proof.Machine.execResponseArrival nib s
  | .journalWriteComplete q => Sys2Proof.Machine.execJournalWriteComplete q s
  | .pathOverrun c => Sys2Proof.Machine.execPathOverrun c s
  | .peerPwrVote dev dom kind tol => Sys2Proof.Machine.execPeerPwrVote dev dom kind tol s
  | .pounceWindowClose w => Sys2Proof.Machine.execPounceWindowClose w s
  | .pounceOverdue dom => Sys2Proof.Machine.execPounceOverdue dom s
  | .trngSampleFailure => Sys2Proof.Machine.execTrngSampleFailure s

end Sys2Proof.Machine
end

