-- ==== Sys2Proof/Machine/Clock.lean ====
section
/-! DEFINITION. What happens with the clock alone (notes/assumptions/20.md): one nanosecond, a cycle of CD82, with no command
waiting. -/

namespace Sys2Proof.Machine

/-- One nanosecond: the time bases advance (R81), snapshots that are due are taken (R115), carrier paths move on (R480), the power
manager looks at every domain (R519, R520), the Chop's CD97 counts, frozen Nibs try again (R201). -/
def State.tick (s : State) : State :=
  let s := (s.advanceTime).snapDue
  let s := (List.range 64).foldl State.pathTick s
  let s := s.pwrCycle
  let s := { s with chp := { s.chp with clk := s.chp.clk + 1 } }
  (List.range 128).foldl State.nibRetry s

end Sys2Proof.Machine
end

