-- ==== Sys2Proof/Safety.lean ====
section
/-! DEFINITION. What a sound state is, in the terms the statements use: sparse maps in canonical form, commands in the queue well
formed. -/

namespace Sys2Proof.Machine

/-- Memory is canonical: addresses rise, and no entry equals what an unlisted byte reads as. -/
def Memory.wf (m : List Host.Cell) : Bool := swf (fun _ => (0 : Byte)) m

/-- The register map is canonical: no entry equals its register's reset value. -/
def Registers.wf (m : List (Nat × W32)) : Bool := swf csrReset m

/-- A list of numbers that rises. -/
def rising (l : List Nat) : Bool := decide (l.Pairwise (· < ·))

/-- A state is sound: memory and registers canonical. -/
def State.sound (s : State) : Bool := Memory.wf s.mem && Registers.wf s.csr

/-- Every command that waits is well formed. -/
def State.queueWf (s : State) : Bool := s.pending.all Instr.wf

/-- An outcome is a next state with a property. -/
def Answers (o : Host.Outcome State Fault Refusal) (p : State → Prop) : Prop := ∃ t, o = .next t ∧ p t

/-! ## When a command has its own effect -/

/-- A command is admitted: it comes in an NSP frame, or its ring has it at HEAD (R28), and permission (R69) and slot (R71) let it
pass. -/
def State.admits (s : State) (d : Desc) : Bool :=
  (nspSlot d.slotId || s.ringReady (.cmd d.ring)) && commonCheck s d == (St.OK, 0)

/-- The state in which an admitted command takes effect: its slot shows NOT_READY (R70). -/
def State.begun (s : State) (op : Nat) (d : Desc) : State := s.slotBegin d.slotId { op := op, d := d }

/-- The descriptor of an accepted command completes with OK (R70); a command of an NSP frame has none. -/
def State.ended (s : State) (d : Desc) : State := if nspSlot d.slotId then s else s.complete (.cmd d.ring) St.OK 0

/-- A register is open to a requester: its domain is at D0 and R20 lets the requester reach it. -/
def State.opens (s : State) (who : Requester) (a : Nat) : Bool := s.domUp (s.addrDomain a) && s.permits who a

/-- A service request as its port's registers show it (R180). -/
def State.asks (s : State) (op : Nat) (nib : Fin 128) (a : BitVec 24) (b : W32) : State :=
  (s.wrN (Reg.DUC_PORT_SVC_LO (nib.val / 16) (nib.val % 16)) (2 ^ 24 * op + a.toNat)).wr
    (Reg.DUC_PORT_SVC_HI (nib.val / 16) (nib.val % 16)) b

/-- A service request is served: no other is outstanding on its port, its Quire is not fenced, its Nib runs a thread. -/
def State.serves (s : State) (nib : Fin 128) : Bool :=
  ! (s.ducSt (nib.val / 16)).busy.contains (nib.val % 16) && ! s.fencedQ (nib.val / 16) &&
    s.runOn (nib.val / 16) (nib.val % 16) ≠ 0

/-! ## When a Nib commits a bundle -/

/-- The state in which an instruction has joined its Nib's bundle. -/
def State.fetched (s : State) (o : NibOp) (ins : NibIns) : State :=
  s.setNib o.nib { s.nibSt o.nib with bundle := (s.nibSt o.nib).bundle ++ [ins] }

/-- The issue cycle of the bundle that an instruction ends (R221, R239, R249). -/
def State.issueAt (s : State) (o : NibOp) (ins : NibIns) : Nat :=
  ((s.fetched o ins).nibSt o.nib).issueCycle ((s.fetched o ins).nibActs o.nib)

/-- The state that the bundle's instructions read: every result due by the issue cycle has landed (R200). -/
def State.atIssue (s : State) (o : NibOp) (ins : NibIns) : State :=
  (s.fetched o ins).setNib o.nib (((s.fetched o ins).nibSt o.nib).landUpTo (s.issueAt o ins))

/-- What the bundle's last instruction sees. -/
def State.seen (s : State) (o : NibOp) (ins : NibIns) : NibCtx :=
  NibCtx.mk (s.atIssue o ins) o.nib
    (add64 ((s.atIssue o ins).nibSt o.nib).pc (4 * ((s.atIssue o ins).nibSt o.nib).bundle.length))

/-- Breakpoints of Nib i that match its pc (R228). -/
def State.bpHits (s : State) (i : Nat) : List Nat :=
  (List.range 4).filter fun b =>
    modeOk (s.rd (Reg.NIB_BP_CTL i b)) (s.nibSt i).kernel &&
      cat64 (s.rd (Reg.NIB_BP_ADDR_LO i b)) (s.rd (Reg.NIB_BP_ADDR_HI i b)) / 4 == (s.nibSt i).pc / 4

/-- Whether an effect is an exception or a watchpoint match. -/
def Eff.stops : Eff → Bool
  | .fault _ _ => true
  | .watch _ _ => true
  | _ => false

/-- Whether the bundle that a Nib holds in state v, whose instructions read state u and do acts, meets nothing that stops or
holds it: no fetch fault, slot clash (R195), exception, watchpoint, missing cache line, sleeping domain, Ferrule or port it waits
for. -/
def State.clear (v u : State) (i : Nat) (acts : List NibAct) : Bool :=
  (v.fetchFault i (4 * (v.nibSt i).bundle.length)).isNone && ! badSlots acts && (acts.flatMap (·.effs)).all (fun e => ! e.stops) &&
    (v.fetchMiss i (4 * (v.nibSt i).bundle.length)).isNone &&
    (acts.flatMap (·.lines)).all (fun l => (sget (v.nibSt i).l1d l none).isSome) && (u.sleeping i acts).isEmpty &&
    ! acts.any (·.hold) && ! u.regionHold i acts && ! u.portStall acts

/-- An instruction ends a bundle that commits: its Nib runs and is not frozen, its domain is up, its EOB bit is 1, and nothing
stops or holds the bundle. -/
def State.issues (s : State) (o : NibOp) (ins : NibIns) : Bool :=
  s.nibRun o.nib == 1 && ! (s.nibSt o.nib).frozen && s.domUp (o.nib.val / 8) && o.eob &&
    ((s.fetched o ins).bpHits o.nib).isEmpty && (s.fetched o ins).clear (s.atIssue o ins) o.nib ((s.atIssue o ins).nibActs o.nib)

/-- The commit of the bundle that an instruction ends, the effects of the instruction itself given by a. -/
def State.commits (s : State) (o : NibOp) (ins : NibIns) (a : NibCtx → NibAct) : State :=
  (s.atIssue o ins).nibCommit o.nib (s.issueAt o ins)
    (((s.atIssue o ins).nibActs o.nib).dropLast ++ [a (s.seen o ins)])

/-- The command c, which is instruction ins with o, answers the commit of its bundle whenever the bundle commits, its own
effects those of a. -/
def Commits (c : Instr) (o : NibOp) (ins : NibIns) (a : NibCtx → NibAct) : Prop :=
  ∀ s : State, s.issues o ins = true → exec c s = .next (s.commits o ins a)

/-- An instruction is a whole bundle that issues: its Nib runs, is not frozen and holds no bundle, its domain is up, its EOB bit is
1, no breakpoint matches and the fetch raises nothing. -/
def State.alone (s : State) (o : NibOp) (ins : NibIns) : Bool :=
  s.nibRun o.nib == 1 && ! (s.nibSt o.nib).frozen && s.domUp (o.nib.val / 8) && o.eob && (s.nibSt o.nib).bundle.isEmpty &&
    ((s.fetched o ins).bpHits o.nib).isEmpty && ((s.fetched o ins).fetchFault o.nib 4).isNone

/-- The state in which the exception of an instruction is taken: three issue cycles have passed (R220). -/
def State.late (s : State) (o : NibOp) (ins : NibIns) : State :=
  (s.atIssue o ins).setNib o.nib { (s.atIssue o ins).nibSt o.nib with icyc := s.issueAt o ins + 3 }

/-! ## When a unit takes a job -/

/-- Realm r has had its turn on unit x (R317): the credits of the round counted, r served last. -/
def State.turn (s : State) (x r : Nat) : State :=
  let t := (((s.drr x).map (·.2)).getD []).foldl (fun s c => s.setCredit x c.1 c.2) s
  { t with served := sput t.served x r 15 }

/-- Unit x takes the job at the head of realm r's ring of unit u, of a pool (R317 to R321): the ring is ready, x runs the ring,
is idle, powered, not paused and not under test, the turn is r's, and the job's fields (ok), ranges, Folio and sources let it run. -/
def State.poolTakes (s : State) (pool : Nat) (j : Job) (u r x : Nat) (ok : Bool) (reads outs : List (Nat × Nat)) (place : Bool) : Bool :=
  ringUnit j.ring == some (u, r) && unitPool u == pool && s.ringReady j.ring && s.executor u r == some x &&
    ! (sget s.eng x none).isSome && s.domUp (unitDomain x) && s.domUp 47 && ! s.bit (aCtl x) 31 && ! s.underTest (unitDomain x) &&
    (s.drr x).map (·.1) == some r && ((s.turn x r).jobRefusal r j ok reads outs place).isNone && (s.turn x r).readsStatus reads == St.OK

/-- What a job answers that ends its descriptor at once. -/
def JobEnd.refused (e : JobEnd) : Bool := e.status == HC_KEY_BUSY || (e.status == St.BAD_PARAM && e.data.isEmpty)

/-- The job of realm r's ring of unit u runs on unit x and will end as e says; its Folio's task is under way. -/
def State.jobStarts (s : State) (j : Job) (u x r : Nat) (e : JobEnd) (dets : List RaDet) : State :=
  let fv := bitOf (j.n 1) 31
  let t := bitsOf (j.n 1) 29 24
  let s := match (if fv then s.folio r (j.n 1 % 65536) else none) with
    | some f => s.setFolio (f.setTask t { f.taskAt t with going := true })
    | none => s
  s.startJob x r { job := j, status := e.status, detail := adoptDetail u x, result := e.result,
                   writes := e.data.map fun w => ((s.localOf w.1).getD 0, w.2), work := e.work,
                   folio := if fv then some (r, j.n 1 % 65536) else none, dets := dets }

/-- Engine x takes the descriptor at the head of channel c's ring of Scribe e (R426 to R432). -/
def State.scribeTakes (s : State) (op : Nat) (j : Job) (e : Fin 12) (c : Fin 32) (x : Nat) : Bool :=
  j.ring == .scribe e c && jOp j == op && s.ringReady j.ring && ! s.bit (Reg.SCB_CH_CTL e c) 31 && ! s.timedRing j.ring &&
    ! (decide (e.val < 8) && s.fencedQ e) && s.scribeExec e c == some x && ! (sget s.eng (scbKey x c) none).isSome &&
    s.domUp (if x < 8 then 24 + x else 61)

/-- The descriptor of channel c runs on engine x: w is what it will do (R429, R433). -/
def State.copyStarts (s : State) (j : Job) (e : Fin 12) (c : Fin 32) (x : Nat) (w : PoolJob) (lines : Nat) : State :=
  let s := s.wr (Reg.SCB_CH_PROGRESS e c) 0
  let s := match w.folio with
    | some f => (s.folio f.1 f.2).elim s fun fo =>
        s.setFolio (fo.setTask (bitsOf (j.n 1) 29 24) { fo.taskAt (bitsOf (j.n 1) 29 24) with going := true })
    | none => s
  let s := if e.val < 8 then s else s.setScb { s.scb with lines := sput s.scb.lines (32 * (x - 8) + c) lines 0 }
  { s with eng := sput s.eng (scbKey x c) (some w) none }

end Sys2Proof.Machine
end

