-- ==== Sys2Proof/Certificates/Slice0/Obligations.lean ====
section
/-! DEFINITION. The statements. -/

open Sys2Proof Sys2Proof.Machine

/-- For every state whose queue has a command in front, the step's outcome is that of exec on this command, in the state with the
queue's rest. (95_what_each_step_holds) -/
def Obligations.FrontCommandRuns : Prop :=
  ∀ (c : Instr) (rest : List Instr) (s : State), s.pending = c :: rest → step s = exec c { s with pending := rest }

/-- The model's choice (log entry 20): with no command waiting, a step is one CD82 cycle. It answers the state after one such
cycle, which begins with the time bases: each advances by (1 + FREQ_ADJ x 2^-48) ns, modulo its 48-bit seconds, counted in
units of 2^-48 ns, as R81 says; memory is not touched by that advance. (R81) -/
def Obligations.IdleStepIsOneNanosecond : Prop :=
  ∀ s : State, s.pending = [] → step s = .next s.tick ∧ (∀ a, s.advanceTime.byte a = s.byte a) ∧
    ∀ b < 8, s.advanceTime.tbCount b = (((s.tbCount b : Nat) : Int) + 2 ^ 48 + s.freqAdj b) % (2 ^ 48 * 10 ^ 9 * 2 ^ 48 : Int)

/-- State.reset meets the invariant of the tier 3 statements: memory and the register map are in canonical form, and the queue of
commands is empty, so every command in it is well formed. The canonical form is the model's own way of keeping memory (log
entry 3). (R13, R14) -/
def Obligations.ResetIsSound : Prop :=
  State.reset.sound = true ∧ State.reset.queueWf = true ∧ State.reset.pending = []

/-- Right after reset a register of each kind of block holds what its Reset cell says: ID registers of the endpoint and of the
event router, THERM_CFG, SCRUB configuration and capture set-up, NOW_NS of every time base, CTL of the first and the last
trigger channel, and memory reads as the model chose (zero, log entry 3). (R13, R14, R119, R121, R613, R630) -/
def Obligations.ResetRegisters : Prop :=
  State.reset.rd Reg.PCI_ID = 0x96480021 ∧ State.reset.rd Reg.EVT_ID = 0x01000000 ∧ State.reset.rd Reg.PWM_THERM_CFG = 0x69730000 ∧
    (∀ b < 8, State.reset.rd (Reg.TMB_NOW_NS b) = 0) ∧ (∀ i < 8, State.reset.rd (Reg.RUL_CAP_CFG i) = 0) ∧
    State.reset.rd (Reg.TRG_CH_CTL 0) = 0 ∧ State.reset.rd (Reg.TRG_CH_CTL 511) = 0 ∧ ∀ a, State.reset.byte a = 0

/-- For every command with any operands, in every state whose memory and registers are in canonical form, exec answers a next
state (neither a fault nor a refusal) whose queue is that of the state before: no command of this device stops the model, and
none changes what waits. (R2, R4) -/
def Obligations.NoCommandStops : Prop :=
  ∀ (c : Instr) (s : State), s.sound = true → Answers (exec c s) fun t => t.pending = s.pending

/-- In every sound state, reached or not, a step answers a next state, and the queue of that state is the queue before without its
first command (empty where it was empty). (R2, R4) -/
def Obligations.EveryStepGoesOn : Prop :=
  ∀ s : State, s.sound = true → Answers (step s) fun t => t.pending = s.pending.tail

/-- For every sound state, if a step answers a next state, that state is sound: no entry of memory or of the register map equals
what an unlisted address reads as, and addresses rise, so that two machines with equal contents are equal data. The canonical
form is the model's own (log entry 3); what it says of the hardware is that every command's writes are plain updates of bytes
and registers. (R13, R15) -/
def Obligations.SoundnessIsKept : Prop :=
  ∀ s t : State, s.sound = true → step s = .next t → t.sound = true

/-- For each register operation named (reads and writes of the time bases, the grids, the captures, the trigger channels, the HARQ
Directory, the routers and the Scribes): if the block's domain is at D0 and the requester is neither control firmware, nor the
lock's holder, nor one the block's chapter admits, the outcome is the state before with ACCESS_DENIED and data zero as the
answer, and nothing else changes. (R20, R119, R120, R121, R316, R350) -/
def Obligations.AccessDenied : Prop :=
  ∀ (who : Requester) (s : State),
    let denied := fun (c : Instr) (a : Nat) => s.domUp (s.addrDomain a) = true → s.permits who a = false →
      exec c s = .next (s.answer St.ACCESS_DENIED 0)
    (∀ b, denied (.nowNsRead who b) (Reg.TMB_NOW_NS b)) ∧ (∀ b v, denied (.stepCtlGo who b v) (Reg.TMB_STEP_CTL b)) ∧
    (∀ b v, denied (.freqAdjHiWrite who b v) (Reg.TMB_FREQ_ADJ_HI b)) ∧ (∀ b v, denied (.tbStateWrite who b v) (Reg.TMB_STATE b)) ∧
    (∀ g v, denied (.gridShadowWrite who g false v) (Reg.RUL_GRID_SH_OFFSET g)) ∧
    (∀ g, denied (.gridPosRead who g) (Reg.RUL_GRID_POS g)) ∧ (∀ i, denied (.capNsRead who i) (Reg.RUL_CAP_NS i)) ∧
    (∀ i v, denied (.toutCfgWrite who i v) (Reg.RUL_TOUT_CFG i)) ∧ (∀ c v, denied (.trgCtlCommit who c) (Reg.TRG_CH_CTL c) ∧
      denied (.trgShadowWrite who c 0 v) (Reg.TRG_CH_SH_CFG c)) ∧
    (∀ u, denied (.bundlesLoRead who u) (Reg.NIB_BUNDLES_LO u)) ∧ denied (.hdyAccRead who) Reg.HDY_ACC ∧
    denied (.rtAccRead who) Reg.NOCG_RT_ACC

/-- For each write named: if the register is open to the requester (domain at D0, access admitted) but the requester is no holder
of its RWL fields, the access completes normally with data zero and the state is otherwise the state before. (R10, R118, R350) -/
def Obligations.OtherWritersHaveNoEffect : Prop :=
  ∀ (who : Requester) (s : State),
    let idle := fun (c : Instr) (a : Nat) => s.opens who a = true → s.holds who a = false → exec c s = .next (s.answer St.OK 0)
    (∀ b v, idle (.stepCtlGo who b v) (Reg.TMB_STEP_CTL b)) ∧ (∀ b v, idle (.freqAdjHiWrite who b v) (Reg.TMB_FREQ_ADJ_HI b)) ∧
    (∀ b v, idle (.tbStateWrite who b v) (Reg.TMB_STATE b)) ∧ (∀ g v, idle (.gridShadowWrite who g false v) (Reg.RUL_GRID_SH_OFFSET g)) ∧
    (∀ i v, idle (.toutCfgWrite who i v) (Reg.RUL_TOUT_CFG i)) ∧ (∀ c, idle (.trgCtlCommit who c) (Reg.TRG_CH_CTL c)) ∧
    idle (.hdyAccRead who) Reg.HDY_ACC ∧ idle (.hdyAccWrite who) Reg.HDY_ACC ∧ idle (.rtAccRead who) Reg.NOCG_RT_ACC

/-- A read of CAP[i].NS that is admitted answers the nanoseconds of the oldest capture, latches its SEC_LO, SEC_HI and SEQ, and
takes it from the queue; with an empty queue it answers zero and leaves CFG as it is and the queue empty. An edge that arrives
with four captures queued leaves the queue as it is and sets CFG.OVR. Memory and the other inputs' queues are unchanged.
(R107) -/
def Obligations.CaptureQueue : Prop :=
  (∀ (who : Requester) (i : Fin 8) (s : State) (c : Capture) (r : List Capture), s.opens who (Reg.RUL_CAP_NS i) = true →
      s.capQ i = c :: r →
      Answers (exec (.capNsRead who i) s) fun t => t.resp = Resp.mk St.OK (c.ns % 2 ^ 32) ∧ t.capQ i = r ∧
        t.rd (Reg.RUL_CAP_SEC_LO i) = w32 c.sec ∧ t.rd (Reg.RUL_CAP_SEC_HI i) = w32 (c.sec / 2 ^ 32 % 65536 + 65536 * c.frac) ∧
        t.fld (Reg.RUL_CAP_CFG i) 23 16 = c.seq % 256 ∧ (∀ k ≠ i.val, t.capQ k = s.capQ k) ∧ ∀ a, t.byte a = s.byte a) ∧
    (∀ (who : Requester) (i : Fin 8) (s : State), s.opens who (Reg.RUL_CAP_NS i) = true → s.capQ i = [] →
      Answers (exec (.capNsRead who i) s) fun t => t.resp = Resp.mk St.OK 0 ∧ t.capQ i = [] ∧
        t.rd (Reg.RUL_CAP_CFG i) = s.rd (Reg.RUL_CAP_CFG i) ∧ (∀ k ≠ i.val, t.capQ k = s.capQ k) ∧ ∀ a, t.byte a = s.byte a) ∧
    ∀ (i : Fin 8) (falling : Bool) (s : State), s.bit (Reg.RUL_CAP_CFG i) 31 = true →
      s.bit (Reg.RUL_CAP_CFG i) (if falling then 9 else 8) = true → 4 ≤ (s.capQ i).length →
      Answers (exec (.timeInEdge i falling) s) fun t => t.capQ i = s.capQ i ∧ t.bit (Reg.RUL_CAP_CFG i) 30 = true ∧
        (∀ k, t.capQ k = s.capQ k) ∧ ∀ a, t.byte a = s.byte a

/-- A write of FREQ_ADJ_HI by a holder of the register applies the signed 64-bit value it completes, clamped to the nearer of plus
and minus 2^38; STATUS.FCLAMP is set where the value lay outside. The counts and states of all time bases, the FREQ_ADJ of the
others and memory are unchanged. (R85, R82) -/
def Obligations.FrequencyIsClamped : Prop :=
  ∀ (who : Requester) (b : Fin 8) (value : W32) (s : State), s.opens who (Reg.TMB_FREQ_ADJ_HI b) = true →
    s.holds who (Reg.TMB_FREQ_ADJ_HI b) = true →
    let v := signed 64 (cat64 (s.rd (Reg.TMB_FREQ_ADJ_LO b)) value)
    Answers (exec (.freqAdjHiWrite who b value) s) fun t => t.freqAdj b = max (-(2 ^ 38)) (min (2 ^ 38) v) ∧
      ((v < -(2 ^ 38) ∨ 2 ^ 38 < v) → t.bit (Reg.TMB_STATUS b) 1 = true) ∧
      (∀ k, k ≠ b.val → t.freqAdj k = s.freqAdj k) ∧ (∀ k, t.tbCount k = s.tbCount k ∧ t.tbState k = s.tbState k) ∧
      ∀ a, t.byte a = s.byte a

/-- A write of STATE.STATE by a holder takes effect when it names ACQUIRING from FREERUN with SOURCE 1 to 4, LOCKED from
ACQUIRING, HOLDOVER from LOCKED, ACQUIRING from HOLDOVER, or FREERUN from any other state, and then raises EV0576 + b; any
other write leaves STATE unchanged and sets STATUS.STATE_REJ. The states, counts and FREQ_ADJ of the other time bases and
memory are unchanged. (R83) -/
def Obligations.TimeBaseStates : Prop :=
  ∀ (who : Requester) (b : Fin 8) (value : W32) (s : State), s.opens who (Reg.TMB_STATE b) = true →
    s.holds who (Reg.TMB_STATE b) = true →
    let old := s.tbState b
    let new := wfld value 1 0
    let source := s.fld (Reg.TMB_STATE b) 10 8
    let takes := (old = 0 ∧ new = 1 ∧ 1 ≤ source ∧ source ≤ 4) ∨ (old = 1 ∧ new = 2) ∨ (old = 2 ∧ new = 3) ∨ (old = 3 ∧ new = 1) ∨
      (old ≠ 0 ∧ new = 0)
    Answers (exec (.tbStateWrite who b value) s) fun t =>
      (takes → t.tbState b = new ∧ t.rdN (Reg.EVT_ROUTE_COUNT (576 + b)) = (s.rdN (Reg.EVT_ROUTE_COUNT (576 + b)) + 1) % 2 ^ 32) ∧
      (¬ takes → t.rd (Reg.TMB_STATE b) = s.rd (Reg.TMB_STATE b) ∧ t.bit (Reg.TMB_STATUS b) 3 = true) ∧
      (∀ k < 8, k ≠ b.val → t.rd (Reg.TMB_STATE k) = s.rd (Reg.TMB_STATE k)) ∧
      (∀ k, t.tbCount k = s.tbCount k ∧ t.freqAdj k = s.freqAdj k) ∧ ∀ a, t.byte a = s.byte a

/-- A write by a holder of a grid's SH_OFFSET, or of one of the six shadow words of a trigger channel, stores the word and clears
COMMIT of the grid or channel, so that a half-written shadow is never used; the active OFFSET, and the channel's six active
words, keep their values, and so does memory. (R104, R121) -/
def Obligations.ShadowWriteDisarms : Prop :=
  (∀ (who : Requester) (g : Fin 256) (value : W32) (s : State), s.opens who (Reg.RUL_GRID_SH_OFFSET g) = true →
      s.holds who (Reg.RUL_GRID_SH_OFFSET g) = true →
      Answers (exec (.gridShadowWrite who g false value) s) fun t => t.bit (Reg.RUL_GRID_SH_CTL g) 31 = false ∧
        t.rd (Reg.RUL_GRID_SH_OFFSET g) = value ∧ t.gridOff g = s.gridOff g ∧ ∀ a, t.byte a = s.byte a) ∧
    ∀ (who : Requester) (c : Fin 512) (w : Fin 6) (value : W32) (s : State), s.opens who (Reg.TRG_CH_SH_CFG c + 4 * w.val) = true →
      s.holds who (Reg.TRG_CH_SH_CFG c + 4 * w.val) = true →
      Answers (exec (.trgShadowWrite who c w value) s) fun t => t.bit (Reg.TRG_CH_CTL c) 31 = false ∧
        (∀ k < 6, t.rd (Reg.TRG_CH_CFG c + 4 * k) = s.rd (Reg.TRG_CH_CFG c + 4 * k)) ∧ ∀ a, t.byte a = s.byte a

/-- For each command named, one of several chapters: where its ring has it at the head and its result slot is not the service
port's, a target other than the ring's own realm is rejected with ACCESS_DENIED, and, the target allowed, a slot whose
previous command is still running is rejected with NO_RESOURCE and DETAIL 1. Rejected means that the rejection (REJ_CNT and
the descriptor's completion with this status) is all that happens to the state. (R68, R69, R71) -/
def Obligations.CommandsTurnedAway : Prop :=
  let turned := fun (cmd : Desc → Instr) => ∀ (d : Desc) (s : State), s.ringReady (.cmd d.ring) = true → nspSlot d.slotId = false →
    (d.ring.val < 16 → d.tgt ≠ d.ring.val → exec (cmd d) s = .next (s.reject d St.ACCESS_DENIED 0)) ∧
    ((d.ring.val < 16 → d.tgt = d.ring.val) → (d.tgt < 16 ∨ d.tgt = 255) → (s.running d.slotId).isSome = true →
      exec (cmd d) s = .next (s.reject d St.NO_RESOURCE 1))
  turned .vlmDiscard ∧ turned .realmStart ∧ turned .tbQuery ∧ turned .tbStep ∧ turned .tbFreq ∧ turned .gridQuery ∧ turned .snapRequest ∧
    turned .capRead ∧ turned .synceSelect ∧ turned .raQuery ∧ turned .memQuery ∧ turned .nocQuery ∧ turned .ethQuery ∧
    turned .jesQuery ∧ turned .fabQuery ∧ turned .pwrQuery ∧ turned .avlQuery ∧ turned .calQuery ∧ turned .evtQuery ∧ turned .evtRaise

/-- When a command that runs on a CMD ring ends, its slot shows the SEQ, the operation code and the final status in word 0, the
command's result words from word 3 on, and no longer counts as running; the slots of all other commands, and memory, are
unchanged. (R70) -/
def Obligations.SlotBecomesFinal : Prop :=
  ∀ (s : State) (k : SlotId) (c : RunCmd) (status : Nat) (ws : List W32), s.running k = some c → nspSlot k = false → status < 256 →
    c.op < 256 →
    let t := s.slotEnd k status ws
    t.rdN (Reg.CMD_RSLT_W0 k.ring k.slot) = 2 ^ 16 * c.d.seq.toNat + 256 * c.op + status ∧
    (∀ n < 13, t.rd (Reg.CMD_RSLT_W0 k.ring k.slot + 4 * (n + 3)) = ws.getD n 0) ∧ t.running k = none ∧
    (∀ j : SlotId, j ≠ k → t.running j = s.running j) ∧
    (∀ j : SlotId, j ≠ k → nspSlot j = false → ∀ n < 16,
      t.rd (Reg.CMD_RSLT_W0 j.ring j.slot + 4 * n) = s.rd (Reg.CMD_RSLT_W0 j.ring j.slot + 4 * n)) ∧ ∀ a, t.byte a = s.byte a

/-- A post of n to a semaphore on which no thread waits leaves COUNT at the lesser of COUNT + n and MAX, and reports an overflow
exactly when COUNT + n exceeds MAX. A post of 1 to a semaphore with waiters makes the first of them in priority and then wait
order READY with WAKE_STATUS OK and, where COUNT is at most MAX, leaves COUNT as it was and reports no overflow. (R175) -/
def Obligations.SemaphorePost : Prop :=
  (∀ (s : State) (q i n : Nat) (routed : Bool), q < 8 → i < 256 → s.waitersOn q i [1] = [] →
      let c := s.fld (Reg.DUC_SEM_STATE q i) 15 0 + n
      let m := s.fld (Reg.DUC_SEM_MAX q i) 15 0
      (s.semPost q i n routed).1.fld (Reg.DUC_SEM_STATE q i) 15 0 = min c m ∧ (s.semPost q i n routed).2 = decide (m < c)) ∧
    ∀ (s : State) (q i t : Nat) (r : List Nat) (routed : Bool), q < 8 → i < 256 → t < 512 → s.waitersOn q i [1] = t :: r →
      s.fld (Reg.DUC_SEM_STATE q i) 15 0 ≤ s.fld (Reg.DUC_SEM_MAX q i) 15 0 →
      (s.semPost q i 1 routed).1.tcbState q t = tREADY ∧ (s.semPost q i 1 routed).1.fld (Reg.DUC_TCB_W q t 12) 7 0 = 0 ∧
      (s.semPost q i 1 routed).1.fld (Reg.DUC_SEM_STATE q i) 15 0 = s.fld (Reg.DUC_SEM_STATE q i) 15 0 ∧
      (s.semPost q i 1 routed).2 = false

/-- When a thread of a Quire ends and its TCB becomes FREE, each of the Quire's two Ferrules whose CFG_OWNER holds its TID has
CFGV clear afterwards, and the CFGV of a Ferrule whose CFG_OWNER holds another TID is unchanged; the TCB is FREE. (R305, R164) -/
def Obligations.FreeThreadIsDisowned : Prop :=
  ∀ (s : State) (q i status cause f : Nat), q < 8 → i < 512 → f / 2 = q → (∀ t ∈ (s.ducSt q).waiting, t < 512) →
    (s.freeThread q i status cause).tcbState q i = tFREE ∧
    (s.fld (Reg.FER_LOCK f) 24 16 = i → (s.freeThread q i status cause).bit (Reg.FER_LOCK f) 30 = false) ∧
    (s.fld (Reg.FER_LOCK f) 24 16 ≠ i → (s.freeThread q i status cause).bit (Reg.FER_LOCK f) 30 = s.bit (Reg.FER_LOCK f) 30)

/-- For the thread that Nib i runs and a Ferrule of its Quire: a fenced Ferrule gives rd = 2, no wait and no change; a free lock
is acquired, rd = 0; a lock the thread holds already gives rd = 0 and no change; a lock held by another thread gives rd = 1,
with no change for FLOCKNB and with a wait for FLOCK. Memory is unchanged by all but the wait. (R289) -/
def Obligations.FerruleLockTable : Prop :=
  ∀ (s : State) (i f t : Nat) (blocking : Bool), s.nibThread i = t + 1 → t < 512 →
    let held := s.bit (Reg.FER_LOCK f) 31
    let owner := s.fld (Reg.FER_LOCK f) 8 0
    let r := s.ferLock i f blocking
    (s.bit (Reg.FER_STATUS f) 31 = true → r = (s, 2, false)) ∧
    (s.bit (Reg.FER_STATUS f) 31 = false → held = false → r.2 = (0, false) ∧ r.1.bit (Reg.FER_LOCK f) 31 = true ∧
      r.1.fld (Reg.FER_LOCK f) 8 0 = t ∧ ∀ a, r.1.byte a = s.byte a) ∧
    (s.bit (Reg.FER_STATUS f) 31 = false → held = true → owner = t → r = (s, 0, false)) ∧
    (s.bit (Reg.FER_STATUS f) 31 = false → held = true → owner ≠ t → blocking = false → r = (s, 1, false)) ∧
    (s.bit (Reg.FER_STATUS f) 31 = false → held = true → owner ≠ t → blocking = true → r.2 = (1, true))

/-- For ADD, SUB, AND, OR, XOR, MINU and MAXU that make up a whole bundle which commits on a Nib not about to halt: the next state
holds, behind the results still in flight, one result for the destination register (due one issue cycle after the bundle's),
with the value R198 gives of the operands as they stood at issue; no register of the Nib has changed but by results that were
due, the pc is the next bundle's, no other Nib and no byte of memory has changed. A result for s0 is discarded when it lands.
(R198, R199, R200) -/
def Obligations.RegisterResultsLand : Prop :=
  (∀ (x : NibSt) (v : Nat), x.landOne 0 v = x ∧ x.sreg 0 = 0) ∧
  let result := fun (c : Instr) (o : NibOp) (ins : NibIns) (rd ra rb : BitVec 5) (f : Nat → Nat → Nat) => ∀ s : State,
    s.issues o ins = true → (s.nibSt o.nib).bundle = [] → (s.nibSt o.nib).halt = false → (s.nibSt o.nib).stepping = false →
    let x := (s.atIssue o ins).nibSt o.nib
    Answers (exec c s) fun t => (t.nibSt o.nib).land = x.land ++ [Land.mk (s.issueAt o ins + 1) (x.key rd)
        (f (x.sreg ra) (x.sreg rb) % 2 ^ 64) x.sb] ∧
      (t.nibSt o.nib).reg = x.reg ∧ (t.nibSt o.nib).pc = add64 (s.nibSt o.nib).pc 4 ∧
      (∀ k, k ≠ o.nib.val → t.nibSt k = s.nibSt k) ∧ ∀ a, t.byte a = s.byte a
  ∀ (o : NibOp) (rd ra rb : BitVec 5), result (.add o rd ra rb) o (.add rd ra rb) rd ra rb (fun a b => a + b) ∧
    result (.sub o rd ra rb) o (.sub rd ra rb) rd ra rb (fun a b => a + 2 ^ 64 - b) ∧
    result (.and o rd ra rb) o (.and rd ra rb) rd ra rb Nat.land ∧ result (.or o rd ra rb) o (.or rd ra rb) rd ra rb Nat.lor ∧
    result (.xor o rd ra rb) o (.xor rd ra rb) rd ra rb Nat.xor ∧ result (.minu o rd ra rb) o (.minu rd ra rb) rd ra rb min ∧
    result (.maxu o rd ra rb) o (.maxu rd ra rb) rd ra rb max

/-- For SB, SH, SW and SD that make up a whole bundle which commits, at a global address that lies in the Nib's own Quire Inkwell:
the 1, 2, 4 or 8 bytes from the local address of ra + sext(IMM12) hold the low bytes of rs, little-endian, and every other
byte of memory is unchanged. The registers of the Nib change by results that were due alone, and no result is put in flight.
(R198, R204, R209) -/
def Obligations.StoresWriteTheirBytes : Prop :=
  let stores := fun (c : Instr) (o : NibOp) (ins : NibIns) (rs ra : BitVec 5) (imm : BitVec 12) (n : Nat) => ∀ (s : State) (a : Nat),
    s.issues o ins = true → (s.nibSt o.nib).bundle = [] → (s.nibSt o.nib).halt = false → (s.nibSt o.nib).stepping = false →
    let x := (s.atIssue o ins).nibSt o.nib
    let g := unsigned 64 (x.sreg ra + simm imm)
    (s.atIssue o ins).nibPath o.nib g = .own → (s.atIssue o ins).localOf g = some a →
    Answers (exec c s) fun t => (∀ k < n, t.byte (a + k) = BitVec.ofNat 8 (x.sreg rs / 2 ^ (8 * k))) ∧
      (∀ b, (b < a ∨ a + n ≤ b) → t.byte b = s.byte b) ∧ (t.nibSt o.nib).land = x.land ∧ (t.nibSt o.nib).reg = x.reg
  ∀ (o : NibOp) (rs ra : BitVec 5) (imm : BitVec 12), stores (.sb o rs ra imm) o (.sb rs ra imm) rs ra imm 1 ∧
    stores (.sh o rs ra imm) o (.sh rs ra imm) rs ra imm 2 ∧ stores (.sw o rs ra imm) o (.sw rs ra imm) rs ra imm 4 ∧
    stores (.sd o rs ra imm) o (.sd rs ra imm) rs ra imm 8

/-- Entry of a Nib that is not about to halt writes EPC, CAUSE and FADDR, sets SB, makes the shadow STATUS that of kernel mode
with everything else zero, continues at VBASE plus the offset after three empty issue cycles and drops the bundle. The general
registers, the windows and every other register of the Nib, every other Nib and memory are unchanged. (R220, R215, R216) -/
def Obligations.ExceptionEntry : Prop :=
  ∀ (s : State) (i cause faddr epc off : Nat), (s.nibSt i).halt = false → (s.nibSt i).stepping = false →
    let x := s.nibSt i
    let y := (s.nibEnter i cause faddr epc off).nibSt i
    y.get 4097 = epc ∧ y.get 4098 = cause ∧ y.get 4099 = faddr ∧ y.sb = true ∧ y.sys 0 = 2 ^ 31 ∧ y.kernel = true ∧
      y.pc = add64 (x.get 4100) off ∧ y.icyc = x.icyc + 3 ∧ y.bundle = [] ∧
      (∀ k, k ≠ 4097 → k ≠ 4098 → k ≠ 4099 → k ≠ 8192 → y.get k = x.get k) ∧
      (∀ j, j ≠ i → (s.nibEnter i cause faddr epc off).nibSt j = s.nibSt j) ∧
      ∀ a, (s.nibEnter i cause faddr epc off).byte a = s.byte a

/-- RFE or WAIT that alone makes up the bundle of a running Nib in thread mode, in the thread bank, has none of its effect: the
Nib enters the shadow bank with cause PRIVILEGED (0x02), FADDR and EPC at the bundle's address. (R217, R218, R220) -/
def Obligations.PrivilegedInThreadMode : Prop :=
  let traps := fun (c : Instr) (o : NibOp) (ins : NibIns) => ∀ s : State, s.alone o ins = true → (s.nibSt o.nib).sb = false →
    ((s.atIssue o ins).nibSt o.nib).kernel = false →
    exec c s = .next ((s.late o ins).nibEnter o.nib 0x02 (s.nibSt o.nib).pc (s.nibSt o.nib).pc 0)
  ∀ o : NibOp, traps (.rfe o) o .rfe ∧ traps (.wait o) o .wait

/-- HDY.ACC written with WRITE by a holder, while IDX names a valid entry that is PENDING or MOVING, sets STATUS.WR_REJ; the
access answers OK, and the Directory's records and entries, the buffers and memory are unchanged. (R350) -/
def Obligations.HarqEntryInUse : Prop :=
  ∀ (who : Requester) (s : State), s.opens who Reg.HDY_ACC = true → s.holds who Reg.HDY_ACC = true → s.bit Reg.HDY_IDX 31 = false →
    s.entValid (s.fld Reg.HDY_IDX 16 0) = true → s.entState (s.fld Reg.HDY_IDX 16 0) ≠ 0 →
    Answers (exec (.hdyAccWrite who) s) fun t => t.bit Reg.HDY_STATUS 30 = true ∧ t.ord = s.ord ∧
      t.resp = Resp.mk St.OK 0 ∧ ∀ a, t.byte a = s.byte a

/-- A read of a memory unit's ECC_CORR that is admitted answers the count of corrected errors and returns the register to zero in
the same access, so a second read answers zero; the other units' counts and memory are unchanged. (R10, R410) -/
def Obligations.CorrectedCountClears : Prop :=
  ∀ (who : Requester) (u : Fin 15) (s : State), s.opens who (Reg.MEMC_ECC_CORR (memBase u)) = true →
    Answers (exec (.eccCorrRead who u) s) fun t => t.resp = Resp.mk St.OK (s.rdN (Reg.MEMC_ECC_CORR (memBase u))) ∧
      t.rd (Reg.MEMC_ECC_CORR (memBase u)) = 0 ∧
      (∀ v : Fin 15, v ≠ u → t.rd (Reg.MEMC_ECC_CORR (memBase v)) = s.rd (Reg.MEMC_ECC_CORR (memBase v))) ∧ ∀ a, t.byte a = s.byte a

/-- A claim of channels 0 to 13 of a Chancery Scribe by realm r makes r the owner of each named channel that no realm has claimed,
keeps those it owns, and changes nothing for a named channel that another realm has claimed or for a channel not named. On a
Quire Scribe a claim has no effect. Memory is unchanged. (R420) -/
def Obligations.ChannelsAreClaimedOnce : Prop :=
  ∀ (who : Requester) (e : Fin 12) (r : Fin 16) (mask : BitVec 14) (s : State), s.opens who (Reg.SCB_RLM_OWNED e r) = true →
    Answers (exec (.channelClaim who e r mask) s) fun t =>
      (8 ≤ e.val → ∀ c < 14, t.bit (Reg.SCB_RLM_OWNED e r) c =
        (s.bit (Reg.SCB_RLM_OWNED e r) c || (bitOf mask.toNat c && ! s.claimed e c))) ∧
      (e.val < 8 → t.rd (Reg.SCB_RLM_OWNED e r) = s.rd (Reg.SCB_RLM_OWNED e r)) ∧
      (∀ q : Fin 16, q ≠ r → t.rd (Reg.SCB_RLM_OWNED e q) = s.rd (Reg.SCB_RLM_OWNED e q)) ∧ ∀ a, t.byte a = s.byte a

/-- For any 24 int16 components, udCompMeth 0 with udIqWidth 16 puts 48 bytes on the wire: byte 2k is the most significant and
byte 2k + 1 the least significant byte of component k. Reading such a PRB from the wire gives the components back. (R457) -/
def Obligations.UncompressedPrb : Prop :=
  ∀ (xs : List Int) (d : Nat), xs.length = 24 → (∀ x ∈ xs, -32768 ≤ x ∧ x < 32768) →
    let w := (prbPack 0 16 d xs).1
    w.length = 48 ∧ (∀ k < 24, w.getD (2 * k) 0 = BitVec.ofNat 8 (unsigned 16 (xs.getD k 0) / 256) ∧
      w.getD (2 * k + 1) 0 = BitVec.ofNat 8 (unsigned 16 (xs.getD k 0))) ∧ prbUnpack 0 16 w = xs

/-- A time frame received on an UP port with the stamps t1 and t4 of one time base, for which the port is the parent port and has
sent a frame (t3 its send stamp, t2 the receive stamp now), writes DELAY = ((t2 - t1) + (t4 - t3)) / 2 and OFFSET[b] = ((t2 -
t1) - (t4 - t3)) / 2 + CAL_ASYM, in units of 2^-16 ns; the time base itself and memory are unchanged. (R506) -/
def Obligations.TimeFrameFormulas : Prop :=
  ∀ (p : Fin 4) (x : FabStamp) (s : State), s.ylkState p = 2 → s.parentPort x.tb = some p.val →
    sget s.ylk.sentAt (8 * p.val + x.tb) 0 ≠ 0 → x.tb < 8 →
    let t2 : Int := s.tbInst x.tb
    let t3 : Int := ((sget s.ylk.sentAt (8 * p.val + x.tb) 0 : Nat) : Int)
    let off := unsigned 64 (((t2 - x.t1) - (x.t4 - t3)) / 2 + s.calUser 5 p)
    Answers (exec (.timeFrameReceive p [x]) s) fun t => t.rd (Reg.YLK_DELAY p) = w32 (unsigned 32 (((t2 - x.t1) + (x.t4 - t3)) / 2)) ∧
      cat64 (t.rd (Reg.YLK_OFFSET_LO p x.tb)) (t.rd (Reg.YLK_OFFSET_HI p x.tb)) = off ∧
      (∀ b, t.tbCount b = s.tbCount b) ∧ ∀ a, t.byte a = s.byte a

/-- The target of a domain forced down is D3. Otherwise a D0 vote makes it D0; else it is at most the domain's effective DEEPEST,
it is D0 or a state permitted for the domain whose exit latency no tolerance vote forbids, and every deeper state up to the
effective DEEPEST is either not permitted or forbidden by a tolerance vote. (R519, R512, R513, R516) -/
def Obligations.PowerTarget : Prop :=
  ∀ (s : State) (d : Nat), (s.domForced d = true → s.target d = 3) ∧
    (s.domForced d = false → s.heldDown d = false → (∃ v ∈ s.votes d, v.tol = none) → s.target d = 0) ∧
    (s.domForced d = false → s.heldDown d = false → (∀ v ∈ s.votes d, v.tol ≠ none) →
      let fits := fun k => permitsState d k = true ∧ ∀ v ∈ s.votes d, ∀ n, v.tol = some n → exitLat d k ≤ n
      s.target d ≤ s.effDeepest d ∧ (s.target d = 0 ∨ fits (s.target d)) ∧ ∀ k, s.target d < k → k ≤ s.effDeepest d → ¬ fits k)

/-- A fault notice fills the log record that LOG_HEAD names with the time stamp of AVL.CFG.TB, the time base, the source, the
unit's kind and number and the event; LOG_HEAD moves on around the 64 records, the other records keep their contents, EV0928
is counted as raised, and memory is unchanged. (R541) -/
def Obligations.FaultLogRecord : Prop :=
  ∀ (s : State) (src kind unit event : Nat), src < 32 → kind < 256 → unit < 65536 →
    let h := s.fld Reg.AVL_LOG_HEAD 5 0
    let tb := s.fld Reg.AVL_CFG 2 0
    let t := (s.faultLog src kind unit event).1
    sget t.avl.log h [] = [s.ts32 tb, 2 ^ 29 * tb + 2 ^ 24 * src + 2 ^ 16 * kind + unit, event, 0] ∧
      (s.faultLog src kind unit event).2 = h ∧ t.fld Reg.AVL_LOG_HEAD 5 0 = (h + 1) % 64 ∧
      (∀ k, k ≠ h → sget t.avl.log k [] = sget s.avl.log k []) ∧
      t.rdN (Reg.EVT_ROUTE_COUNT 928) = (s.rdN (Reg.EVT_ROUTE_COUNT 928) + 1) % 2 ^ 32 ∧ ∀ a, t.byte a = s.byte a

/-- PAL_CTL CONFIRM that its ring has at the head, whose target, slot, realm state and role pass, but whose requester is not one
of the control cores 0 to 3, is rejected with ACCESS_DENIED: the update's state, the flash and everything else but the
rejection stays. (R582, R70) -/
def Obligations.ConfirmIsFirmwareAlone : Prop :=
  ∀ (d : Desc) (s : State), palKind d = 1 → s.ringReady (.cmd d.ring) = true → nspSlot d.slotId = false →
    commonCheck s d = (St.OK, 0) → stoppedOrRunning s d = (St.OK, 0) → s.palCheck d = (St.OK, 0) → (∀ c : Fin 8, c.val < 4 → d.who ≠ .core c) →
    exec (.palCtlConfirm d) s = .next (s.reject d St.ACCESS_DENIED 0)

/-- A raise of an event adds 1 to ROUTE[e].COUNT (modulo 2^32). While fewer than 256 raises wait, it joins the end of the queue;
with 256 waiting the queue stays as it is, DROPS rises by 1 (up to its largest value) and STATUS.OVF is set. A raise of EV1023
comes from EVT.SWSET with the same effect. Memory is unchanged. (R606) -/
def Obligations.EventQueue : Prop :=
  (∀ (s : State) (e : Nat), e < 1024 →
      (s.raise e).rdN (Reg.EVT_ROUTE_COUNT e) = (s.rdN (Reg.EVT_ROUTE_COUNT e) + 1) % 2 ^ 32 ∧
      (s.evq.length < 256 → (s.raise e).evq = s.evq ++ [e] ∧ (s.raise e).rd Reg.EVT_DROPS = s.rd Reg.EVT_DROPS) ∧
      (256 ≤ s.evq.length → (s.raise e).evq = s.evq ∧ (s.raise e).bit Reg.EVT_STATUS 31 = true ∧
        (s.raise e).rdN Reg.EVT_DROPS = min (s.rdN Reg.EVT_DROPS + 1) (2 ^ 32 - 1)) ∧ ∀ a, (s.raise e).byte a = s.byte a) ∧
    ∀ (who : Requester) (v : W32) (s : State), s.opens who Reg.EVT_SWSET = true →
      exec (.swsetWrite who v) s = .next ((s.raise 1023).answer St.OK 0)

/-- A command, data or close frame reaches nothing while the service port is disabled; while it is enabled, a frame of another
Ethertype, version, length or address is dropped and counted in RX_DROP, and one outside an open session, with a bad tag or
with a sequence number that is not above the last is dropped and counted in AUTH_FAIL. Nothing else changes. (R587, R588) -/
def Obligations.ServicePortGuards : Prop :=
  let guarded := fun (c : NspFrame → Instr) => ∀ (f : NspFrame) (s : State),
    (s.bit Reg.SVC_CFG 31 = false → exec (c f) s = .next s) ∧
    (s.bit Reg.SVC_CFG 31 = true → nspTaken f false = false → exec (c f) s = .next (s.bump Reg.SVC_RX_DROP 1)) ∧
    (s.bit Reg.SVC_CFG 31 = true → nspTaken f false = true → (s.nsp.open_ = false ∨ f.tag = false ∨ f.seq.toNat ≤ s.nsp.seq) →
      exec (c f) s = .next (s.bump Reg.SVC_AUTH_FAIL 1))
  (∀ op d, guarded fun f => .nspCommand f op d) ∧ (∀ off data, guarded fun f => .nspData f off data) ∧ guarded .nspClose

/-- For each of these commands, in every state and with operands that meet the conditions its clause names (for a command:
admitted by its ring and slot, and its checks pass; for a register: open to the requester and held by it; for an event: the
unit is in the state the event presupposes), exec answers the next state that is the effect its rule gives, written out in the
clause. (02_vellum_and_control.md, R56, R66, R70, R78) -/
def Obligations.VellumCommandsComplete : Prop :=
  (∀ (who : Requester) (addr : BitVec 48) (bytes : Nat) (value : BitVec 64) (s : State),
    addr.toNat < 0x8000000 → csrOk addr.toNat bytes → s.opens who addr.toNat → ¬ s.domForced (s.addrDomain addr.toNat) →
    exec (.registerWrite who addr bytes value) s =
      .next ((s.anyWrite who addr.toNat bytes value.toNat).answer St.OK 0)) ∧

  (∀ (who : Requester) (ring : RingId) (value : W32) (s : State),
    s.opens who (ringBase ring + 0xC) →
    exec (.tailWrite who ring value) s = .next (
      let r := (s.ringTailWrite ring value.toNat, 0)
      r.1.answer St.OK r.2)) ∧

  (∀ (who : Requester) (ring : RingId) (value : W32) (s : State),
    s.opens who (ringBase ring + 8) → s.holds who (ringBase ring + 8) →
    exec (.ringCfgWrite who ring value) s = .next (
      let t := s.ringCfgWrite ring value
      t.answer St.OK 0)) ∧

  (∀ (d : Desc) (s : State),
    s.admits d →
    firstFail [selfReconfig s d, realmIn s d [0, 1, 2, 3],
    need (d.n 3 % 8 = 0 && d.n 5 ≤ 2 ^ 20) St.BAD_PARAM] = (St.OK, 0) →
    exec (.vlmStage d) s = .next (
      let s := s.begun 0x01 d
      let t := s
      t.ended d)) ∧

  (∀ (slot : SlotId) (c : RunCmd) (rs : List VRec) (s : State),
    s.running slot = some c → c.op = 0x01 →
    let g := cat64 (c.d.word 3) (c.d.word 4)
    let bs := s.bytes ((s.localOf g).getD 0) (c.d.n 5)
    s.sourceStatus (if c.d.ring.val < 16 then c.d.ring else 16) g (c.d.n 5) = St.OK →
    s.vlmCheck bs (some c.d.tgt) = .ok rs →
    exec (.vlmStageComplete slot) s = .next (
      let serial := numB bs 0x10 4
      (s.setStaged c.d.tgt (some { serial := serial, bytes := bs })).slotEnd slot St.OK [0, 0, w32 serial])) ∧

  (∀ (d : Desc) (s : State),
    s.admits d →
    firstFail [selfReconfig s d, realmIn s d [0, 1, 2, 3],
    need (s.stagedOf d.tgt).isSome St.WRONG_STATE] = (St.OK, 0) →
    exec (.vlmDiscard d) s = .next (
      let s := s.begun 0x02 d
      let r := (s.setStaged d.tgt none, St.OK, [])
      (r.1.slotEnd d.slotId r.2.1 r.2.2).ended d)) ∧

  (∀ (d : Desc) (s : State),
    s.admits d →
    realmIn s d [1] = (St.OK, 0) →
    exec (.realmStart d) s = .next (
      let s := s.begun 0x03 d
      let r := if s.startBlocked d.tgt then (s, St.NO_RESOURCE, []) else (s.realmTo d.tgt 2, St.OK, [])
      (r.1.slotEnd d.slotId r.2.1 r.2.2).ended d)) ∧

  (∀ (d : Desc) (s : State),
    let r := d.tgt
    s.admits d →
    realmIn s d [2] = (St.OK, 0) →
    exec (.realmStop d) s = .next (
      let s := s.begun 0x04 d
      let t :=
        let fs := if bitOf (d.n 3) 0 then (s.foliosOf r).filter (·.state < 2) else []
        let s := fs.foldl (fun s f => s.folioAbort f 2) s
        let s := s.realmTo r 3
        s.setVlm { s.vlm with stops := sput s.vlm.stops r (some (d.slotId, fs.length, s.rdN (Reg.ORD_RLM_CNT_DONE r))) none }
      t.ended d)) ∧

  (∀ (r : Fin 16) (z : State),
    let s := z
    ¬ (s.realmState r ≠ 3 || ! (s.foliosOf r).isEmpty) →
    let s := s.setPwr { s.pwr with host := s.pwr.host.filter fun e => e.1 % 16 ≠ r.val }
    exec (.realmStopped r) z = .next ((s.realmTo r 1).stopEnd r (s.rdN (Reg.ORD_RLM_CNT_DONE r)))) ∧

  (∀ (d : Desc) (s : State),
    let r := d.tgt
    s.admits d →
    realmIn s d [1, 2, 3] = (St.OK, 0) →
    exec (.realmReset d) s = .next (
      let s := s.begun 0x06 d
      let r :=
        let n := (s.foliosOf r).length
        let done := s.rdN (Reg.ORD_RLM_CNT_DONE r)
        let s := (s.realmUnlock r).realmReset r
        ((s.realmTo r 1).stopEnd r done, St.OK, [w32 n])
      (r.1.slotEnd d.slotId r.2.1 r.2.2).ended d)) ∧

  (∀ (d : Desc) (s : State),
    let r := d.tgt
    s.admits d →
    realmIn s d [0, 1, 2, 3, 4] = (St.OK, 0) →
    exec (.realmQuery d) s = .next (
      let s := s.begun 0x07 d
      let r := (s, St.OK, [s.rd (Reg.VLM_REALM_STATE r), s.rd (Reg.VLM_REALM_SERIAL r), w32 ((s.stagedOf r).elim 0 (·.serial))])
      (r.1.slotEnd d.slotId r.2.1 r.2.2).ended d)) ∧

  (∀ (d : Desc) (s : State),
    let r := d.tgt
    s.admits d →
    firstFail [selfReconfig s d, realmIn s d [0, 1], need (s.stagedOf r).isSome St.WRONG_STATE] = (St.OK, 0) →
    exec (.realmApply d) s = .next (
      let s := s.begun 0x05 d
      let t :=
        let a : ApplyReq := { realm := r, slot := d.slotId, started := false, recs := [], serial := 0 }
        (s.realmTo r 4).setVlm { s.vlm with applies := s.vlm.applies ++ [a] }
      t.ended d)) ∧

  (∀ (s : State),
    ∀ a rest, s.vlm.applies = a :: rest →
    ¬ (a.started || s.noc.draining) →
    let r := a.realm
    let bs := (s.stagedOf r).elim [] (·.bytes)
    let serial := numB bs 0x10 4
    let t := (s.setStaged r none)
    let fail := fun (f : VFault) => ((t.setVlm { t.vlm with applies := rest }).applyBack r).slotEnd a.slot f.status (vlmWords f serial)
    ¬ (s.bit (Reg.VLM_LOCK 0x370) 31) →
    ∀ rs, s.vlmCheck bs (some r) = .ok rs →
    let t := t.applyClaim r rs
    exec (.realmApplyExecute) s = .next (t.setVlm { t.vlm with applies := { a with started := true, recs := rs, serial := serial } :: rest })) ∧

  (∀ (fault : BitVec 8) (z : State),
    let s := z
    ∀ a rest, s.vlm.applies = a :: rest →
    ¬ (! a.started || s.noc.draining) →
    let r := a.realm
    let s := s.applyLoad r a.recs
    let s := (s.wrN (Reg.VLM_REALM_SERIAL r) a.serial).bump Reg.VLM_APPLY_SEQ 1
    let s := s.setVlm { s.vlm with applies := rest }
    let s := s.applyBack r
    let s := if s.realmFlag r 0 && fault = 0 then s.realmTo r 2 else s
    exec (.realmApplyComplete fault) z = .next (s.slotEnd a.slot fault.toNat [0, 0, w32 a.serial])) ∧

  (∀ (d : Desc) (s : State),
    let i := d.n 3 % 4096
    s.admits d →
    firstFail [if d.tgt = 255 then (St.OK, 0) else realmIn s d [1, 2], need (lockable i) St.BAD_PARAM,
    need (s.lockOwner i = cmdRealm d && (d.tgt = 255 || s.realmFlag d.tgt 1)) St.ACCESS_DENIED, notExpert s i] = (St.OK, 0) →
    exec (.expertAcquire d) s = .next (
      let s := s.begun 0x08 d
      let t := s.setVlm { s.vlm with lockReqs := sput s.vlm.lockReqs i (some { op := 0x08, d := d }) none }
      t.ended d)) ∧

  (∀ (inst : BitVec 12) (z : State),
    let s := z
    let i := inst.toNat
    ∀ c, sget s.vlm.lockReqs i none = some c →
    ¬ (s.vlm.cmds.any fun e => e.2.any fun x => cmdInstance x == some i) →
    let s := s.setVlm { s.vlm with lockReqs := sdel s.vlm.lockReqs i }
    let s := s.lockSet i (cmdRealm c.d) (cmdWho c.d)
    let s := (lockUnit i).elim s fun u => s.lockReplace u.1 u.2
    exec (.expertLockSet inst) z = .next (s.slotEnd c.d.slotId St.OK [s.rd (Reg.VLM_LOCK i)])) ∧

  (∀ (d : Desc) (s : State),
    let i := d.n 3 % 4096
    s.admits d →
    firstFail [if d.tgt = 255 then (St.OK, 0) else realmIn s d [1, 2, 3],
    need (s.lockHolder (cmdWho d) i) St.ACCESS_DENIED] = (St.OK, 0) →
    exec (.expertRelease d) s = .next (
      let s := s.begun 0x09 d
      let r := let s := s.lockDrop i false; (s, St.OK, [s.rd (Reg.VLM_LOCK i)])
      (r.1.slotEnd d.slotId r.2.1 r.2.2).ended d)) ∧

  (∀ (j : Job) (s : State) (r : Fin 17),
    j.ring = .cmd r → ¬ cmdAssigned (bitsOf (j.n 0) 23 16) → s.ringReady (.cmd r) →
    exec (.unassignedOpcode j) s =
      .next ((s.bumpSat (Reg.CMD_REJ_CNT r) 31 0 1).complete (.cmd r) St.BAD_PARAM 0)) ∧

  (∀ (who : Requester) (addr : BitVec 48) (bytes : Nat) (s : State),
    addr.toNat < 0x8000000 → csrOk addr.toNat bytes → s.opens who addr.toNat → ¬ s.domForced (s.addrDomain addr.toNat) →
    exec (.rcFieldRead who addr bytes) s = .next (
      let r := s.anyRead who addr.toNat bytes
      r.1.answer St.OK r.2))

/-- For each of these commands, in every state and with operands that meet the conditions its clause names (for a command:
admitted by its ring and slot, and its checks pass; for a register: open to the requester and held by it; for an event: the
unit is in the state the event presupposes), exec answers the next state that is the effect its rule gives, written out in the
clause. (03_ruling_time.md, R83, R94, R102, R107, R115) -/
def Obligations.RulingCommandsComplete : Prop :=
  (∀ (d : Desc) (s : State),
    let b := d.n 3 % 8
    s.admits d →
    firstFail [runningCheck s d, need (tbReadable s d b) St.ACCESS_DENIED] = (St.OK, 0) →
    exec (.tbQuery d) s = .next (
      let s := s.begun 0x30 d
      let r :=
        (s, St.OK, [s.rd (Reg.TMB_STATE b)] ++ nowWords s b ++
        [w32 (unsigned 64 (s.freqAdj b) % 2 ^ 32), w32 (unsigned 64 (s.freqAdj b) / 2 ^ 32)])
      (r.1.slotEnd d.slotId r.2.1 r.2.2).ended d)) ∧

  (∀ (d : Desc) (s : State),
    let b := d.n 3 % 8
    s.admits d →
    firstFail [runningCheck s d, need (tbOwned s d b) St.ACCESS_DENIED, notExpert s (0x40 + b),
    need (s.fld (Reg.TMB_STATE b) 10 8 ≠ 0) St.BAD_PARAM, need (s.tbState b == 0) St.WRONG_STATE] = (St.OK, 0) →
    exec (.tbDisciplineStart d) s = .next (
      let s := s.begun 0x31 d
      let r := let s := s.tbSetState b 1; (s, St.OK, [s.rd (Reg.TMB_STATE b)])
      (r.1.slotEnd d.slotId r.2.1 r.2.2).ended d)) ∧

  (∀ (d : Desc) (s : State),
    let b := d.n 3 % 8
    s.admits d →
    firstFail [runningCheck s d, need (tbOwned s d b) St.ACCESS_DENIED, notExpert s (0x40 + b),
    need (s.tbState b ≠ 0) St.WRONG_STATE] = (St.OK, 0) →
    exec (.tbDisciplineStop d) s = .next (
      let s := s.begun 0x31 d
      let r := let s := s.tbSetState b 0; (s, St.OK, [s.rd (Reg.TMB_STATE b)])
      (r.1.slotEnd d.slotId r.2.1 r.2.2).ended d)) ∧

  (∀ (d : Desc) (s : State),
    let b := d.n 3 % 8
    s.admits d →
    firstFail [runningCheck s d, need (tbOwned s d b) St.ACCESS_DENIED, notExpert s (0x40 + b),
    need (d.n 5 ≤ 999999999) St.BAD_PARAM] = (St.OK, 0) →
    exec (.tbStep d) s = .next (
      let s := s.begun 0x32 d
      let t := s.askStep b (d.n 4) (d.n 5) (d.n 6) (some d.slotId)
      t.ended d)) ∧

  (∀ (d : Desc) (s : State),
    let b := d.n 3 % 8
    let v := signed 64 (cat64 (d.word 4) (d.word 5))
    s.admits d →
    firstFail [runningCheck s d, need (tbOwned s d b) St.ACCESS_DENIED, notExpert s (0x40 + b),
    need (decide (-(2 ^ 38) ≤ v) && decide (v ≤ 2 ^ 38)) St.BAD_PARAM, need (s.tbState b == 0) St.WRONG_STATE] = (St.OK, 0) →
    exec (.tbFreq d) s = .next (
      let s := s.begun 0x33 d
      let r := let s := s.applyFreq b v; (s, St.OK, [s.rd (Reg.TMB_FREQ_ADJ_LO b), s.rd (Reg.TMB_FREQ_ADJ_HI b)])
      (r.1.slotEnd d.slotId r.2.1 r.2.2).ended d)) ∧

  (∀ (who : Requester) (b : Fin 8) (value : W32) (s : State),
    s.opens who (Reg.TMB_STEP_CTL b) → s.holds who (Reg.TMB_STEP_CTL b) →
    exec (.stepCtlGo who b value) s = .next (
      let t :=
        let s := s.wrN (Reg.TMB_STEP_CTL b) (wfld value 15 0)
        if wbit value 31 then s.askStep b (s.rdN (Reg.TMB_STEP_SEC b)) (s.rdN (Reg.TMB_STEP_NS b)) (wfld value 15 0) none else s
      t.answer St.OK 0)) ∧

  (∀ (b : Fin 8) (z : State) (q : StepReq) (k : SlotId),
    sget z.time.steps b none = some q → q.slot = some k →
    let s := { z with time := { z.time with steps := sput z.time.steps b none none } }
    let new := (s.tbCount b : Int) + q.delta
    ¬ 2 ≤ s.tbState b → ¬ new < 0 →
    exec (.timeBaseStepApply b) z = .next (
      let v := (new % (2 ^ 48 * 10 ^ 9 * 2 ^ 48 : Int)).toNat
      let s := { s with time := { s.time with count := sput s.time.count b v 0 } }
      let s := s.setFld (Reg.TMB_STATE b) 31 16 (s.fld (Reg.TMB_STATE b) 31 16 + 1)
      let s := (s.setBit (Reg.TMB_STATUS b) 0).raise (584 + b)
      let s := (s.armedOf fun c => s.chTb c == b.val).foldl (fun s c => match s.chNext c with
        | some o => if o.inst ≤ s.nowInst b then State.chRun chFuel c (.plan o.idx true) s else s
        | none => s) s
      s.slotEnd k St.OK [w32 (s.fld (Reg.TMB_STATE b) 31 16)])) ∧

  (∀ (who : Requester) (b : Fin 8) (value : W32) (s : State),
    s.opens who (Reg.TMB_FREQ_ADJ_HI b) → s.holds who (Reg.TMB_FREQ_ADJ_HI b) →
    exec (.freqAdjHiWrite who b value) s = .next (
      let t := s.applyFreq b (signed 64 (cat64 (s.rd (Reg.TMB_FREQ_ADJ_LO b)) value))
      t.answer St.OK 0)) ∧

  (∀ (who : Requester) (b : Fin 8) (value : W32) (s : State),
    s.opens who (Reg.TMB_STATE b) → s.holds who (Reg.TMB_STATE b) →
    exec (.tbStateWrite who b value) s = .next (
      let t :=
        if tbTransition (s.tbState b) (wfld value 1 0) (s.fld (Reg.TMB_STATE b) 10 8) then s.tbSetState b (wfld value 1 0)
        else s.setBit (Reg.TMB_STATUS b) 3
      t.answer St.OK 0)) ∧

  (∀ (who : Requester) (b : Fin 8) (s : State),
    s.opens who (Reg.TMB_NOW_NS b) →
    exec (.nowNsRead who b) s = .next (
      let r := ((s.wrWords (Reg.TMB_NOW_NS b) (nowWords s b)).wrN (Reg.TMB_NOW_TS32 b) (s.ts32 b), s.tbNs b % 10 ^ 9)
      r.1.answer St.OK r.2)) ∧

  (∀ (d : Desc) (s : State),
    let g := d.n 3 % 256
    s.admits d →
    firstFail [runningCheck s d, need (gridSeen s d g) RUL_GRID_UNBOUND] = (St.OK, 0) →
    exec (.gridQuery d) s = .next (
      let s := s.begun 0x34 d
      let r :=
        let b := s.gridTb g
        let p := s.posAt g (s.nowInst b)
        let nb := (s.frameStart g (p.1 + 1) / 65536).toNat
        (s, St.OK, [w32 (2 ^ 20 * (p.1 % 1024).toNat + p.2.1 * 2 ^ 12 + p.2.2 * 2 ^ 8), w32 (p.1 / 1024 % 1024).toNat] ++
          ts80 nb b ++ [s.rd (Reg.RUL_GRID_HANDOVER_SEQ g)])
      (r.1.slotEnd d.slotId r.2.1 r.2.2).ended d)) ∧

  (∀ (d : Desc) (s : State),
    let g := d.n 3 % 256
    let new := 65536 * signed 32 (d.n 4) + (d.n 5 % 65536 : Nat)
    s.admits d →
    firstFail [runningCheck s d, need (gridSeen s d g) RUL_GRID_UNBOUND,
    need (gridChangeable s d g) St.ACCESS_DENIED, notExpert s 0x50, need (gridChangeOk (s.gridOff g) new) St.BAD_PARAM] = (St.OK, 0) →
    exec (.gridOffset d) s = .next (
      let s := s.begun 0x35 d
      let r :=
        let seq := s.rd (Reg.RUL_GRID_HANDOVER_SEQ g)
        let s := s.wr (Reg.RUL_GRID_SH_OFFSET g) (d.word 4)
        let s := s.wrN (Reg.RUL_GRID_SH_CTL g) (2 ^ 31 + 2 ^ 30 * s.fld (Reg.RUL_GRID_SH_CTL g) 30 30 + d.n 5 % 65536)
        (s, St.OK, [seq])
      (r.1.slotEnd d.slotId r.2.1 r.2.2).ended d)) ∧

  (∀ (who : Requester) (g : Fin 256) (value : W32) (s : State),
    (s.opens who (Reg.RUL_GRID_SH_CTL g) → s.holds who (Reg.RUL_GRID_SH_CTL g) →
      exec (.gridShadowWrite who g true value) s = .next (
        let rej := if wbit value 30 then 0 else s.fld (Reg.RUL_GRID_SH_CTL g) 30 30
        (s.wrN (Reg.RUL_GRID_SH_CTL g) (2 ^ 31 * wfld value 31 31 + 2 ^ 30 * rej + wfld value 15 0)).answer St.OK 0)) ∧
    (s.opens who (Reg.RUL_GRID_SH_OFFSET g) → s.holds who (Reg.RUL_GRID_SH_OFFSET g) →
      exec (.gridShadowWrite who g false value) s =
        .next (((s.setFld (Reg.RUL_GRID_SH_CTL g) 31 31 0).wr (Reg.RUL_GRID_SH_OFFSET g) value).answer St.OK 0))) ∧

  (∀ (who : Requester) (g : Fin 256) (s : State),
    s.opens who (Reg.RUL_GRID_POS g) →
    exec (.gridPosRead who g) s = .next (
      let r :=
        let s := if s.gridValid g then s.latchPos g else s
        (s, s.rdN (Reg.RUL_GRID_POS g))
      r.1.answer St.OK r.2)) ∧

  (∀ (g : Fin 256) (z : State),
    let s := z
    ¬ (! s.gridValid g) →
    let now := s.nowInst (s.gridTb g)
    let F := s.frameAt g now
    ¬ (now - s.frameStart g F ≥ 2 * 65536 || ! s.bit (Reg.RUL_GRID_SH_CTL g) 31) →
    let s := s.gridBoundary g F
    exec (.gridFrameBoundary g) z = .next ((s.armedOf fun c => s.chMode c == 0 && s.chGrid c == g.val).foldl (fun s c => match s.chNext c with
      | some o => State.chRun chFuel c (.plan o.idx (decide (s.chInst c o.idx ≤ now))) s
      | none => s) s)) ∧

  (∀ (d : Desc) (s t : State) (c : Nat),
    let dev := d.tgt = 255
    let free := fun (s : State) => (List.range 512).filter fun c =>
      (if dev then 96 ≤ c && c < 128 else 128 ≤ c) && s.chState c == cFREE
    s.admits d →
    firstFail [runningCheck s d,
      need (! (free s).isEmpty && (dev || ((List.range 512).filter fun c => s.trigOwner c == d.tgt).length < 128)) St.NO_RESOURCE] =
      (St.OK, 0) →
    (s.begun 0x36 d).pick (free (s.begun 0x36 d)) = (some c, t) →
    exec (.trgAlloc d) s = .next (((t.chAssign c (if dev then 16 else d.tgt)).slotEnd d.slotId St.OK [w32 c]).ended d)) ∧

  (∀ (d : Desc) (s : State),
    let c := dChan d
    let ws := fun k => d.n (4 + k)
    s.admits d →
    firstFail [runningCheck s d,
    need (trgMine s d c) St.ACCESS_DENIED, need (s.chState c ≠ cFREE) St.WRONG_STATE,
    need (chWordsOk s ws) St.BAD_PARAM, need (d.ring.val = 16 || chAllowed s d.tgt ws) St.ACCESS_DENIED,
    need (bitsOf (ws 0) 31 28 ≠ 0 || (s.gridValid (bitsOf (ws 0) 15 8) &&
      (d.tgt = 255 || s.gridVisible (bitsOf (ws 0) 15 8) d.tgt))) RUL_GRID_UNBOUND] = (St.OK, 0) →
    exec (.trgArm d) s = .next (
      let s := s.begun 0x37 d
      let r :=
        let q := s.fld (Reg.TRG_CH_COUNTS c) 31 16
        (s.chArm c ((List.range 6).map fun k => w32 (ws k)), St.OK, [w32 q])
      (r.1.slotEnd d.slotId r.2.1 r.2.2).ended d)) ∧

  (∀ (d : Desc) (s : State),
    let c := dChan d
    s.admits d →
    firstFail [runningCheck s d, need (trgMine s d c) St.ACCESS_DENIED,
    need (s.chState c == cARMED || s.chState c == cWAIT) St.WRONG_STATE] = (St.OK, 0) →
    exec (.trgDisarm d) s = .next (
      let s := s.begun 0x38 d
      let r := (s.chDisarm c, St.OK, [w32 (s.fld (Reg.TRG_CH_COUNTS c) 15 0)])
      (r.1.slotEnd d.slotId r.2.1 r.2.2).ended d)) ∧

  (∀ (d : Desc) (s : State),
    let c := dChan d
    s.admits d →
    firstFail [runningCheck s d, need (trgMine s d c) St.ACCESS_DENIED,
    need (s.chState c == cIDLE) St.WRONG_STATE] = (St.OK, 0) →
    exec (.trgFree d) s = .next (
      let s := s.begun 0x39 d
      let r := (s.chFree c, St.OK, [])
      (r.1.slotEnd d.slotId r.2.1 r.2.2).ended d)) ∧

  (∀ (d : Desc) (s : State),
    let c := dChan d
    s.admits d →
    firstFail [runningCheck s d, need (trgMine s d c) St.ACCESS_DENIED,
    need (s.chState c ≠ cFREE) St.WRONG_STATE] = (St.OK, 0) →
    exec (.trgQuery d) s = .next (
      let s := s.begun 0x3A d
      let r :=
        (s, St.OK, [w32 (s.chState c), w32 (s.fld (Reg.TRG_CH_COUNTS c) 31 16), w32 (s.fld (Reg.TRG_CH_COUNTS c) 15 0),
        s.rd (Reg.TRG_CH_LAST_FIRE c)])
      (r.1.slotEnd d.slotId r.2.1 r.2.2).ended d)) ∧

  (∀ (who : Requester) (c : Fin 512) (w : Fin 6) (value : W32) (s : State),
    let a := Reg.TRG_CH_SH_CFG c + 4 * w
    s.opens who a → s.holds who a →
    exec (.trgShadowWrite who c w value) s = .next (
      let t := (s.wrN a (shWord w (s.rdN a) value.toNat)).setFld (Reg.TRG_CH_CTL c) 31 31 0
      t.answer St.OK 0)) ∧

  (∀ (who : Requester) (c : Fin 512) (s : State),
    s.opens who (Reg.TRG_CH_CTL c) → s.holds who (Reg.TRG_CH_CTL c) →
    exec (.trgCtlCommit who c) s = .next (
      let t :=
        let ws := fun k => s.rdN (Reg.TRG_CH_SH_CFG c + 4 * k)
        if isFirmware who || chAllowed s (s.whoRealm who) ws then s.chCommit c else s
      t.answer St.OK 0)) ∧

  (∀ (who : Requester) (c : Fin 512) (s : State),
    s.opens who (Reg.TRG_CH_CTL c) → s.holds who (Reg.TRG_CH_CTL c) →
    exec (.trgCtlDisarm who c) s = .next (
      let t := if s.chState c = cARMED || s.chState c = cWAIT then s.chDisarm c else s
      t.answer St.OK 0)) ∧

  (∀ (c : Fin 512) (s : State),
    ∀ o, s.chNext c = some o →
    ¬ (s.chState c ≠ cARMED || o.inst > s.nowInst (s.chTb c)) →
    ¬ (! s.chTimed c) →
    exec (.triggerFire c) s = .next (State.chRun chFuel c (.fired o.idx) (s.chFire c o.idx false))) ∧

  (∀ (blk : Fin 4096) (s : State),
    ∀ a, snapGenAddr blk = some a →
    exec (.snapshotCopyComplete blk) s = .next ((s.wr a (s.rd Reg.TRG_SNAP_GEN)).raise 608)) ∧

  (∀ (d : Desc) (s : State),
    s.admits d →
    need (d.ring.val = 16 && d.tgt == 255) St.ACCESS_DENIED = (St.OK, 0) →
    exec (.snapRequest d) s = .next (
      let s := s.begun 0x3B d
      let t := { s with time := { s.time with snapReq := s.time.snapReq ++ [(s.tbNs 0 + 2000, d.slotId)] } }
      t.ended d)) ∧

  (∀ (i : Fin 8) (falling : Bool) (z : State),
    let s := z
    let cfg := s.rd (Reg.RUL_CAP_CFG i)
    ¬ (! (wbit cfg 31 && wbit cfg (if falling then 9 else 8))) →
    ¬ (4 ≤ (s.capQ i).length) →
    let b := wfld cfg 2 0
    let n := sget s.time.capSeq i 0
    let c : Capture := { tb := b, sec := s.tbNs b / 10 ^ 9, ns := s.tbNs b % 10 ^ 9, frac := s.tbInst b % 65536, seq := n }
    let s := { s with time := { s.time with capSeq := sput s.time.capSeq i ((n + 1) % 256) 0 } }
    exec (.timeInEdge i falling) z = .next ((s.setCapQ i (s.capQ i ++ [c])).raise (592 + i))) ∧

  (∀ (who : Requester) (i : Fin 8) (s : State),
    s.opens who (Reg.RUL_CAP_NS i) →
    exec (.capNsRead who i) s = .next (
      let r := let s := s.popCap i; (s, s.rdN (Reg.RUL_CAP_NS i))
      r.1.answer St.OK r.2)) ∧

  (∀ (d : Desc) (s : State),
    let i := d.n 3 % 8
    s.admits d →
    firstFail [runningCheck s d, need (d.ring.val = 16 || s.portBit d.ring 0x14 1 i) St.ACCESS_DENIED,
    notExpert s 0x50, need (! (s.capQ i).isEmpty) St.NO_RESOURCE] = (St.OK, 0) →
    exec (.capRead d) s = .next (
      let s := s.begun 0x3C d
      let r :=
        match s.capQ i with
        | [] => (s, St.OK, [])
        | c :: _ => (s.popCap i, St.OK, ts80 (10 ^ 9 * c.sec + c.ns) c.tb ++ [w32 c.seq])
      (r.1.slotEnd d.slotId r.2.1 r.2.2).ended d)) ∧

  (∀ (d : Desc) (s : State),
    let i := d.n 3 % 8
    let out := bitOf (d.n 3) 3
    s.admits d →
    firstFail [runningCheck s d,
    need (d.ring.val = 16 || s.portBit d.ring (if out then 0x15 else 0x14) 1 i) St.ACCESS_DENIED, notExpert s 0x50] = (St.OK, 0) →
    exec (.tioConfig d) s = .next (
      let s := s.begun 0x3D d
      let r :=
        if out then let s := s.toutWrite i (d.word 4); (s, St.OK, [s.rd (Reg.RUL_TOUT_CFG i)])
        else let s := s.capWrite i (d.word 4); (s, St.OK, [s.rd (Reg.RUL_CAP_CFG i)])
      (r.1.slotEnd d.slotId r.2.1 r.2.2).ended d)) ∧

  (∀ (d : Desc) (s : State),
    let k := d.n 3 % 2
    let a := Reg.RUL_SYNCE_CFG k
    s.admits d →
    firstFail [runningCheck s d,
    need (d.ring.val = 16 || s.portBit d.ring 8 4 (wfld (d.word 4) 12 8)) St.ACCESS_DENIED, notExpert s 0x50] = (St.OK, 0) →
    exec (.synceSelect d) s = .next (
      let s := s.begun 0x3E d
      let r :=
        let s := (s.setFld a 31 31 (wfld (d.word 4) 31 31)).setFld a 12 8 (wfld (d.word 4) 12 8)
        let s := if wfld (d.word 4) 2 0 ≤ 3 then s.setFld a 2 0 (wfld (d.word 4) 2 0) else s
        (s, St.OK, [s.rd a])
      (r.1.slotEnd d.slotId r.2.1 r.2.2).ended d)) ∧

  (∀ (i : Fin 8) (s : State),
    exec (.timeOutPulseEnd i) s = .next { s with time := { s.time with pulse := sput s.time.pulse i false false } }) ∧

  (∀ (who : Requester) (i : Fin 8) (value : W32) (s : State),
    s.opens who (Reg.RUL_TOUT_CFG i) → s.holds who (Reg.RUL_TOUT_CFG i) →
    exec (.toutCfgWrite who i value) s = .next (
      let t := s.toutWrite i value
      t.answer St.OK 0)) ∧

  (∀ (k : Fin 2) (lol : Bool) (z : State),
    let s := z
    ¬ (! s.bit (Reg.RUL_SYNCE_CFG k) 31) →
    let s := s.setBit (Reg.RUL_SYNCE_STAT k) 0
    let s := if lol then s.setBit (Reg.RUL_SYNCE_STAT k) 1 else s
    exec (.synceSquelch k lol) z = .next (s.raise (610 + k)))

/-- For each of these commands, in every state and with operands that meet the conditions its clause names (for a command:
admitted by its ring and slot, and its checks pass; for a register: open to the requester and held by it; for an event: the
unit is in the state the event presupposes), exec answers the next state that is the effect its rule gives, written out in the
clause. (04_ordinator.md, R132, R143, R157) -/
def Obligations.OrdinatorCommandsComplete : Prop :=
  (∀ (d : Desc) (s : State),
    let r := d.tgt
    let chk := fun s : State =>
      let t := s.template r (d.n 3 % 256)
      let basic := firstFail [need (r < 16) St.BAD_PARAM, runningCheck s d, notExpert s 0x60,
        need (d.n 3 < 1024 && d.n 7 ≤ 65536 && d.n 5 % 64 = 0) St.BAD_PARAM, need t.isSome ORD_NO_TEMPLATE]
      if basic.1 ≠ St.OK then basic else
      match t with
      | none => (ORD_NO_TEMPLATE, 0)
      | some t =>
        let f := s.submitted d t
        let now : Int := s.tbNs f.tb
        let slots := slotsPerFrame (s.gridTy (t.num 0xE 1))
        if bitsOf (d.n 4) 19 12 ≥ slots then (St.BAD_PARAM, 0)
        else if f.target - now > 8 * (10000000 / slots : Nat) || f.release - now < 20000 then (ORD_HORIZON, 0)
        else if 1024 ≤ s.queued.length then (St.NO_RESOURCE, 2)
        else if s.cqSize r ≤ s.cqTaken r + 1 then (St.NO_RESOURCE, 3)
        else (St.OK, 0)
    s.admits d →
    chk s = (St.OK, 0) →
    exec (.folioSubmit d) s = .next (
      let s := s.begun 0x10 d
      let t :=
        match s.template r (d.n 3 % 256) with
        | none => s
        | some t =>
          let f := s.submitted d t
          (s.setOrd { s.ord with folios := s.ord.folios ++ [f], nextInst := sput s.ord.nextInst r ((f.inst + 1) % 0xFFFF) 0 }).ordSync
      t.ended d)) ∧

  (∀ (s : State),
    ¬ (s.ord.offer.isSome) →
    ∀ f, s.headFolio = some f →
    let settled := if s.peers.isEmpty then (List.range 64).map fun k => (k, none) else []
    exec (.placementDecision) s = .next (s.carry f settled (s.judge f settled))) ∧

  (∀ (finish : BitVec 32) (z : State) (o : Offer) (f : Folio),
    z.ord.offer = some o → z.folio o.realm o.inst = some f →
    let s := z.ordTrace 0xC f.realm f.inst f.tb (o.peer + St.OK * 256) o.task
    let settled := o.settled ++ [(o.task, some (o.peer, (s.tbNs f.tb : Int) + finish.toNat))]
    exec (.peerOfferAnswer true finish) z = .next (s.carry f settled (s.judge f settled))) ∧

  (∀ (peer : Fin 64) (r : Fin 16) (task : BitVec 128) (ready deadline : BitVec 32) (z : State),
    let s := z
    let w := task.toNat
    let now : Int := s.tbNs 0
    let f : Folio := { realm := r, inst := 0x10000 + peer, tmpl := { typ := 0x30, realm := r, rflags := 0, bytes := [] }, policy := 0,
                       tag := 0, seq := 0, targetWord := 0, slot := { ring := 0, slot := 0 }, tb := 0, target := now,
                       release := now + ready.toNat, deadline := now + deadline.toNat, pblk := 0, plen := 0, prio := 0, state := 1,
                       tasks := [FTask.blank (bitsOf w 7 0) (bitsOf w 23 16) (bitsOf w 63 32)], objs := [], cb := 0, harq := [],
                       errTask := 255, errStatus := 0, degraded := false, replaced := false, due := false }
    let x := f.taskAt 0
    let ok := s.realmState r == 2 && s.realmFlag r 3 && x.cls ≤ 10 && widthOk x.cls x.width
    let fs := s.fits r (s.cands f 0 none none true) f.release (durNs x.cls x.cost)
    (if ok then bestFit fs else none) = none →
    exec (.peerOfferReceived peer r task ready deadline) z = .next (s.setOrd { s.ord with answer := some (peer, false) })) ∧

  (∀ (r : Fin 16) (inst : BitVec 16) (s : State) (f : Folio) (m : State × Folio),
    s.folio r inst.toNat = some f → f.state = 1 → f.due →
    State.moveObjs f (List.range f.objs.length) (s.ordTrace 3 f.realm f.inst f.tb (s.releaseChannel f) (tsOf f.deadline)) f = some m →
    exec (.folioRelease r inst) s = .next (
      let g := { m.2 with state := 2 }
      let p := (m.1.setFolio g).degradeCheck g
      let root := fun t => ! (p.2.taskAt t).ended && (p.2.tmpl.preds t).all fun k => (p.2.taskAt k).ended
      (List.range p.2.tasks.length).foldl (fun s t => if root t then s.readyTask p.2 t else s) (p.1.setFolio p.2))) ∧

  (∀ (r : Fin 16) (inst : BitVec 16) (z : State),
    let s := z
    ∀ f, s.folio r inst.toNat = some f →
    ¬ (f.policy ≠ 2 || f.state ≠ 2 || (s.tbNs f.tb : Int) < f.deadline) →
    let p := s.endThreads f 2
    let s := p.1.ordTrace 6 f.realm f.inst f.tb (p.2 % 256) 0
    exec (.folioDeadline r inst) z = .next ((s.setFolio { f with state := 3 }).drainCheck f.realm f.inst)) ∧

  (∀ (d : Desc) (s : State),
    s.admits d →
    firstFail [runningCheck s d, notExpert s 0x60,
    need ((s.cmdFolio d).any fun f => f.state == 1) St.WRONG_STATE] = (St.OK, 0) →
    exec (.folioCancel d) s = .next (
      let s := s.begun 0x11 d
      let r :=
        match s.cmdFolio d with
        | some f => (s.folioDone f St.ABORTED 2 false, St.OK, [])
        | none => (s, St.OK, [])
      (r.1.slotEnd d.slotId r.2.1 r.2.2).ended d)) ∧

  (∀ (d : Desc) (s : State),
    s.admits d →
    firstFail [runningCheck s d, need (s.cmdFolio d).isSome St.WRONG_STATE] = (St.OK, 0) →
    exec (.folioQuery d) s = .next (
      let s := s.begun 0x12 d
      let r :=
        match s.cmdFolio d with
        | some f => (s, St.OK, [w32 f.state, w32 (tsOf f.predicted), w32 f.cb, w32 (f.cb / 2 ^ 32)])
        | none => (s, St.OK, [])
      (r.1.slotEnd d.slotId r.2.1 r.2.2).ended d)) ∧

  (∀ (d : Desc) (s : State),
    let r := d.tgt
    let id := d.n 3 % 256
    let t := bitsOf (d.n 3) 13 8
    let pin := bitsOf (d.n 3) 17 16
    let u := d.n 4 % 65536
    s.admits d →
    let tm := s.template r id
    firstFail [runningCheck s d, notExpert s 0x60, need (r < 16 && tm.isSome) ORD_NO_TEMPLATE,
      need (pin ≠ 3 && tm.all fun x => t < x.ntask) St.BAD_PARAM,
      need (pin = 0 || tm.all fun x => s.pinInShare r (x.task t 0 1) u) St.ACCESS_DENIED] = (St.OK, 0) →
    exec (.ordPin d) s = .next (
      let s := s.begun 0x13 d
      let r :=
        let old := (s.template r id).elim (0, 0) fun x => s.pinOf r x t
        let rest := s.ord.pins.filter fun p => ! (p.realm == r && p.tmpl == id && p.task == t)
        (s.setOrd { s.ord with pins := rest ++ [Pin.mk r id t pin u] }, St.OK, [w32 old.1, w32 old.2])
      (r.1.slotEnd d.slotId r.2.1 r.2.2).ended d)) ∧

  (∀ (d : Desc) (s : State),
    let r := d.tgt
    let keep := bitOf (d.n 7) 0
    let hi := d.n 6 % 256
    let lo := bitsOf (d.n 6) 15 8
    let rate := bitsOf (d.n 6) 24 16
    let a := Reg.ORD_RLM_CQ_CFG r
    s.admits d →
    firstFail [need (r < 16) St.BAD_PARAM,
    need (if keep then s.realmState r ≠ 4
      else s.realmState r == 1 || (s.realmState r == 2 && ! s.ord.folios.any (·.realm == r))) St.WRONG_STATE,
    need (lo ≤ hi && lo ≤ 100 && hi ≤ 100 && rate ≤ 256) St.BAD_PARAM] = (St.OK, 0) →
    exec (.ordConfig d) s = .next (
      let s := s.begun 0x14 d
      let r :=
        let s := (s.setFld a 31 24 hi).setFld a 7 2 (lo / 2)
        let s := if rate = 0 then s else s.setFld (Reg.ORD_RLM_HARQ_CFG r) 8 0 rate
        let s := if keep then s else
          let s := s.wrN (Reg.ORD_RLM_CQ_BASE_LO r) (d.n 3 / 32 * 32)
          let s := s.wr (Reg.ORD_RLM_CQ_BASE_HI r) (d.word 4)
          let k := bitsOf (d.n 5) 20 16
          let s := if 6 ≤ k && k ≤ 16 then s.setFld a 20 16 k else s
          let s := s.setFld a 15 8 (bitsOf (d.n 5) 15 8)
          let s := if d.n 5 % 4 = 3 then s else s.setFld a 1 0 (d.n 5 % 4)
          let s := (s.wr (Reg.ORD_RLM_CQ_PROD r) 0).wr (Reg.ORD_RLM_CQ_CONS r) 0
          let s := { s with batch := sput s.batch a 0 0 }
          s.setOrd { s.ord with cqPhase := sput s.ord.cqPhase r 0 0 }
        (s, St.OK, [s.rd (Reg.ORD_RLM_CQ_BASE_LO r), s.rd (Reg.ORD_RLM_CQ_BASE_HI r), s.rd a, s.rd (Reg.ORD_RLM_HARQ_CFG r)])
      (r.1.slotEnd d.slotId r.2.1 r.2.2).ended d)) ∧

  (∀ (d : Desc) (s : State),
    let r := d.tgt
    let p := d.n 3 % 16
    let i := d.n 4 % 16
    s.admits d →
    firstFail [runningCheck s d, need (r < 16 && p < 8 && i < poolCount p && s.share r p i ≠ 0) St.ACCESS_DENIED] = (St.OK, 0) →
    exec (.ordQuery d) s = .next (
      let s := s.begun 0x15 d
      let r :=
        let bs := s.unitBooks 2 (serialOf p i)
        let off := -(s.toTb0 (s.defaultTb r))
        let w : Int := s.tbNs (s.defaultTb r) / 1000000
        (s, St.OK, [w32 (s.share r p i), w32 (bookedIn bs (some r) off w).toNat, w32 (bookedIn bs (some r) off (w + 1)).toNat,
          w32 (b2n (s.ord.fenced.contains (2, serialOf p i)))])
      (r.1.slotEnd d.slotId r.2.1 r.2.2).ended d)) ∧

  (∀ (d : Desc) (s : State),
    s.admits d →
    need (d.ring.val = 16 && d.tgt == 255) St.ACCESS_DENIED = (St.OK, 0) →
    exec (.ordTrace d) s = .next (
      let s := s.begun 0x16 d
      let r :=
        let s := s.wrN Reg.ORD_TRACE_CFG (2 ^ 31 * wfld (d.word 3) 31 31 + wfld (d.word 3) 12 0)
        (s, St.OK, [s.rd Reg.ORD_TRACE_CFG])
      (r.1.slotEnd d.slotId r.2.1 r.2.2).ended d)) ∧

  (∀ (src : Fin 13) (kind : Fin 4) (unit : Fin 64) (event : Fin 1024) (s : State),
    exec (.faultNotice src kind unit event) s = .next ((s.raise event).notice src kind unit event)) ∧

  (∀ (z : State),
    let s := z
    ∀ n rest, s.ord.notices = n :: rest →
    let s := s.setOrd { s.ord with notices := rest }
    let r := s.byDeadline.foldl (fun (p : State × Nat) f =>
      let ts := (List.range f.tasks.length).filter fun t => (f.taskAt t).onUnit n.kind n.unit
      if ts.isEmpty then p else
      let m := ts.foldl (fun (a : State × Folio) t => a.1.replaceTask a.2 t) (p.1, f)
      (m.1.setFolio m.2, p.2 + ts.length)) (s, 0)
    let s := r.1.wrN Reg.ORD_REPLACE_STAT (2 ^ 22 * min r.2 512 + min (s.tbNs 0 - n.at_) 65535)
    let s := if rest.isEmpty then s.setFld Reg.ORD_STATUS 8 8 0 else s
    let w := sget s.avl.log n.logRec []
    let s := { s with avl := { s.avl with log := sput s.avl.log n.logRec (w.take 3 ++ [2 ^ 16 * s.fld Reg.ORD_REPLACE_STAT 31 22 + s.fld Reg.ORD_REPLACE_STAT 15 0]) [] } }
    exec (.replacement) z = .next (s.raise 1019)) ∧

  (∀ (r : Fin 16) (engine : Fin 4) (upper : Bool) (z : State),
    let s := z
    let go := s.harqAbove r (s.fld (Reg.ORD_RLM_CQ_CFG r) 31 24) || (s.ord.demoting.contains r && s.harqAbove r (s.harqLo r))
    let c := 14 + b2n upper
    ¬ (! go || s.expertHeld 0x260 || s.ord.demos.any (fun d => d.engine == engine.val && d.chan == c)) →
    ∀ e, s.oldest r (s.demotable r) = some e →
    let now : Int := s.tbNs 0
    let size := wfld (s.entW e 1) 23 0 * 64
    let a := s.allocIn (s.placeable r 10) (s.usedRanges now (now + 1)) size 64
    ∀ x, a.1 = some x →
    let b : HBuf := HBuf.mk x size r 1 e
    let dm : Demotion := Demotion.mk e r engine c
    let s := a.2
    let s := s.setOrd { s.ord with hbuf := s.ord.hbuf ++ [b], demos := s.ord.demos ++ [dm], demoting := setIns s.ord.demoting r }
    let s := ((s.entSetAddr e 6 x).setEntW e 3 (w32 (0xFFFF * 2 ^ 16))).entSetState e 2
    let s := s.setFld (Reg.SCB_CH_RATE (8 + engine) c) 8 0 (s.fld (Reg.ORD_RLM_HARQ_CFG r) 8 0)
    let key := 32 * engine.val + c
    let s := { s with scb := { s.scb with lines := sput s.scb.lines key (size / 64) 0,
                                          tok := sput s.scb.tok key (0, s.tbNs 0) (0, 0) } }
    exec (.harqDemotionStart r engine upper) z = .next ((s.setFld (Reg.SCB_CH_CFG (8 + engine) c) 31 31 1).hdySync r))

/-- For each of these commands, in every state and with operands that meet the conditions its clause names (for a command:
admitted by its ring and slot, and its checks pass; for a register: open to the requester and held by it; for an event: the
unit is in the state the event presupposes), exec answers the next state that is the effect its rule gives, written out in the
clause. (05_ductus.md, R164, R171) -/
def Obligations.DuctusCommandsComplete : Prop :=
  (∀ (d : Desc) (s : State),
    let q := dQuire d
    s.admits d →
    let share := (s.quireShare d.tgt q).elim 0 fun x => x.num 0xA 2
    ducCheck d s [need (s.inBand q d.tgt (bitsOf (d.n 3) 21 16)) St.BAD_PARAM,
      need (Nat.land (d.n 4 % 65536) share == d.n 4 % 65536) St.BAD_PARAM,
      need (s.inRealm d.tgt (cat64 (d.word 5) (d.word 6)) 4) St.BAD_PARAM,
      need ((s.tcbsOf q d.tgt).length < ((s.quireShare d.tgt q).elim 0 fun x => x.num 0x10 2)) St.NO_RESOURCE,
      need (! (s.freeTcbs q).isEmpty) St.NO_RESOURCE] = (St.OK, 0) →
    exec (.threadCreate d) s = .next (
      let s := s.begun 0x20 d
      let t := s.cmdJournal d 0x120 0 0 0 0
      t.ended d)) ∧

  (∀ (d : Desc) (s : State),
    s.admits d →
    thrCheck d false [tDORMANT] s [] = (St.OK, 0) →
    exec (.threadStart d) s = .next (
      let s := s.begun 0x21 d
      let r := (s.makeReady (dQuire d) (dObj d), St.OK, [])
      (r.1.slotEnd d.slotId r.2.1 r.2.2).ended d)) ∧

  (∀ (d : Desc) (s : State),
    let q := dQuire d
    let i := dObj d
    s.admits d →
    thrCheck d false [tREADY, tRUNNING] s [] = (St.OK, 0) →
    exec (.threadSuspend d) s = .next (
      let s := s.begun 0x22 d
      let t :=
        if s.tcbState q i = tRUNNING then
          let l : Leave := { tid := i, cause := 9, status := 0, slot := some d.slotId }
          (s.setDuc q { s.ducSt q with leaving := (s.ducSt q).leaving ++ [l] }).dispatch q
        else
          let s := (s.unlist q i).setTcbState q i tSUSPENDED
          (s.ducTrace q 9 (s.tcbRealm q i) (s.fld (Reg.DUC_TCB_W q i 1) 3 0) i 1 0).slotEnd d.slotId St.OK []
      t.ended d)) ∧

  (∀ (d : Desc) (s : State),
    let q := dQuire d
    let i := dObj d
    s.admits d →
    thrCheck d false [tSUSPENDED] s [] = (St.OK, 0) →
    exec (.threadResume d) s = .next (
      let s := s.begun 0x23 d
      let r := ((s.ducTrace q 9 (s.tcbRealm q i) (s.fld (Reg.DUC_TCB_W q i 1) 3 0) i 0 0).makeReady q i, St.OK, [])
      (r.1.slotEnd d.slotId r.2.1 r.2.2).ended d)) ∧

  (∀ (d : Desc) (s : State),
    let q := dQuire d
    let i := dObj d
    s.admits d →
    thrCheck d false [tDORMANT, tREADY, tRUNNING, tWAITING, tSUSPENDED] s [] = (St.OK, 0) →
    exec (.threadKill d) s = .next (
      let s := s.begun 0x24 d
      let t :=
        if s.tcbState q i = tRUNNING then s.endThread q i St.ABORTED 1 (some d.slotId)
        else s.cmdJournal d 0x124 i 0 0 0
      t.ended d)) ∧

  (∀ (d : Desc) (s : State),
    let q := dQuire d
    let i := dObj d
    s.admits d →
    thrCheck d false [tDORMANT, tREADY, tRUNNING, tWAITING, tSUSPENDED] s
    [need (s.inBand q d.tgt (d.n 4 % 64)) St.BAD_PARAM] = (St.OK, 0) →
    exec (.threadPrio d) s = .next (
      let s := s.begun 0x25 d
      let r := let old := s.tcbPrio q i; (s.changePrio q i (d.n 4 % 64), St.OK, [w32 old])
      (r.1.slotEnd d.slotId r.2.1 r.2.2).ended d)) ∧

  (∀ (d : Desc) (s : State),
    s.admits d →
    thrCheck d true [tDORMANT, tREADY, tRUNNING, tWAITING, tSUSPENDED] s [] = (St.OK, 0) →
    exec (.threadQuery d) s = .next (
      let s := s.begun 0x26 d
      let r := (s, St.OK, [0, 1, 2, 3, 8, 9, 12, 13].map fun w => s.rd (Reg.DUC_TCB_W (dQuire d) (dObj d) w))
      (r.1.slotEnd d.slotId r.2.1 r.2.2).ended d)) ∧

  (∀ (d : Desc) (s : State),
    let q := dQuire d
    let ini := d.n 4 % 65536
    let mx := bitsOf (d.n 4) 31 16
    s.admits d →
    ducCheck d s [need (mx ≠ 0 && ini ≤ mx) St.BAD_PARAM,
    need ((List.range 256).any fun o => ! s.bit (Reg.DUC_SEM_STATE q o) 31) St.NO_RESOURCE] = (St.OK, 0) →
    exec (.semAlloc d) s = .next (
      let s := s.begun 0x27 d
      let t := s.cmdJournal d 0x127 0 ini mx d.tgt
      t.ended d)) ∧

  (∀ (d : Desc) (s : State),
    let o := dObj d % 256
    s.admits d →
    semCheck d s [need (s.waitersOn (dQuire d) o [wSEM]).isEmpty St.WRONG_STATE] = (St.OK, 0) →
    exec (.semFree d) s = .next (
      let s := s.begun 0x28 d
      let t := s.cmdJournal d 0x128 0 o 0 0
      t.ended d)) ∧

  (∀ (d : Desc) (s : State),
    s.admits d →
    semCheck d s [need (d.n 4 ≠ 0 && d.n 4 ≤ 65535) St.BAD_PARAM] = (St.OK, 0) →
    exec (.semPost d) s = .next (
      let s := s.begun 0x29 d
      let t := s.cmdJournal d 0x129 0 (dObj d % 256) (d.n 4) 0
      t.ended d)) ∧

  (∀ (d : Desc) (s : State),
    let q := dQuire d
    s.admits d →
    ducCheck d s
    [need ((List.range 256).any fun o => ! s.bit (Reg.DUC_FLAG_OWNER q o) 31) St.NO_RESOURCE] = (St.OK, 0) →
    exec (.flagAlloc d) s = .next (
      let s := s.begun 0x2A d
      let t := s.cmdJournal d 0x12A 0 (d.n 4) 0 d.tgt
      t.ended d)) ∧

  (∀ (d : Desc) (s : State),
    let o := dObj d % 256
    s.admits d →
    flagCheck d s [need (s.waitersOn (dQuire d) o [wANY, wALL]).isEmpty St.WRONG_STATE] = (St.OK, 0) →
    exec (.flagFree d) s = .next (
      let s := s.begun 0x2B d
      let t := s.cmdJournal d 0x12B 0 o 0 0
      t.ended d)) ∧

  (∀ (d : Desc) (s : State),
    s.admits d →
    flagCheck d s [] = (St.OK, 0) →
    exec (.flagSet d) s = .next (
      let s := s.begun 0x2C d
      let t := s.cmdJournal d 0x12C 0 (dObj d % 256) (d.n 4) (d.n 5)
      t.ended d)) ∧

  (∀ (d : Desc) (s : State),
    let q := bitsOf (d.n 3) 18 16
    let t := d.n 3 % 4
    s.admits d →
    firstFail [need (d.ring.val = 16) St.ACCESS_DENIED, need (! s.fencedQ q) DUC_QUIRE_FENCED,
    notExpert s (0x70 + q), need ((List.range 512).all fun i => s.tcbState q i == tFREE || s.tcbTick q i ≠ t) St.WRONG_STATE] = (St.OK, 0) →
    exec (.tickConfig d) s = .next (
      let s := s.begun 0x2D d
      let r := (s.tickWrite q t (d.word 4), St.OK, [])
      (r.1.slotEnd d.slotId r.2.1 r.2.2).ended d)) ∧

  (∀ (d : Desc) (s : State),
    let q := dQuire d
    s.admits d →
    firstFail [need (d.ring.val = 16) St.ACCESS_DENIED, need (! s.fencedQ q) DUC_QUIRE_FENCED,
    notExpert s (0x70 + q)] = (St.OK, 0) →
    exec (.ducTrace d) s = .next (
      let s := s.begun 0x2E d
      let r := (s.wrN (Reg.DUC_TRACE_CFG q) (2 ^ 31 * wfld (d.word 4) 31 31 + wfld (d.word 4) 11 0), St.OK, [])
      (r.1.slotEnd d.slotId r.2.1 r.2.2).ended d)) ∧

  (∀ (d : Desc) (s : State),
    let q := dQuire d
    s.admits d →
    ducCheck d s [] = (St.OK, 0) →
    exec (.ducQuery d) s = .next (
      let s := s.begun 0x2F d
      let r := (s, St.OK, [w32 (s.freeTcbs q).length, w32 (s.tcbsOf q d.tgt).length, s.rd (Reg.DUC_STATUS q)])
      (r.1.slotEnd d.slotId r.2.1 r.2.2).ended d)) ∧

  (∀ (nib : Fin 128) (a : BitVec 24) (b : W32) (s : State),
    let t := s.asks 0x01 nib a b
    t.serves nib →
    exec (.yield nib a b) s = .next ((fun q n i s => s.yieldThread q n i) (nib.val / 16) (nib.val % 16) (t.runOn (nib.val / 16) (nib.val % 16) - 1) t)) ∧

  (∀ (nib : Fin 128) (a : BitVec 24) (b : W32) (s : State),
    let t := s.asks 0x02 nib a b
    t.serves nib →
    exec (.exit nib a b) s = .next ((fun q n i s => s.svcJournal q n i 0x02 (a.toNat % 256) 0) (nib.val / 16) (nib.val % 16) (t.runOn (nib.val / 16) (nib.val % 16) - 1) t)) ∧

  (∀ (nib : Fin 128) (a : BitVec 24) (b : W32) (s : State),
    let t := s.asks 0x03 nib a b
    t.serves nib →
    exec (.delay nib a b) s = .next ((fun q n i s =>
      if b.toNat = 0 then s.yieldThread q n i
      else if 2 ^ 31 ≤ b.toNat then s.svcDone q n 0 St.BAD_PARAM 0
      else (s.enterWait q i wDELAY 0 0 false (some b.toNat)).svcLeft q n St.OK) (nib.val / 16) (nib.val % 16) (t.runOn (nib.val / 16) (nib.val % 16) - 1) t)) ∧

  (∀ (nib : Fin 128) (a : BitVec 24) (b : W32) (s : State),
    let t := s.asks 0x04 nib a b
    t.serves nib →
    exec (.semWait nib a b) s = .next ((fun q n i s =>
      let o := a.toNat % 256
      if badTmo (s.rdN (Reg.DUC_PORT_TMO q n)) then s.svcDone q n 0 St.BAD_PARAM 0
      else if ! s.semOf q o (s.tcbRealm q i) then s.svcDone q n 0 St.ACCESS_DENIED 0
      else if s.fld (Reg.DUC_SEM_STATE q o) 15 0 = 0 then s.svcWait q n i wSEM o 0 false
      else s.svcJournal q n i 0x04 o 0) (nib.val / 16) (nib.val % 16) (t.runOn (nib.val / 16) (nib.val % 16) - 1) t)) ∧

  (∀ (nib : Fin 128) (a : BitVec 24) (b : W32) (s : State),
    let t := s.asks 0x05 nib a b
    t.serves nib →
    exec (.svcSemPost nib a b) s = .next ((fun q n i s =>
      let o := a.toNat % 256
      if ! s.semOf q o (s.tcbRealm q i) then s.svcDone q n 0 St.ACCESS_DENIED 0
      else if b.toNat = 0 || 65535 < b.toNat then s.svcDone q n 0 St.BAD_PARAM 0
      else s.svcJournal q n i 0x05 o b.toNat) (nib.val / 16) (nib.val % 16) (t.runOn (nib.val / 16) (nib.val % 16) - 1) t)) ∧

  (∀ (nib : Fin 128) (a : BitVec 24) (b : W32) (s : State),
    let t := s.asks 0x06 nib a b
    t.serves nib →
    exec (.flagWait nib a b) s = .next ((fun q n i s =>
      let o := a.toNat % 256
      let all := bitOf a.toNat 8
      let clr := bitOf a.toNat 9
      if badTmo (s.rdN (Reg.DUC_PORT_TMO q n)) || b = 0 then s.svcDone q n 0 St.BAD_PARAM 0
      else if ! s.flagOf q o (s.tcbRealm q i) then s.svcDone q n 0 St.ACCESS_DENIED 0
      else if ! s.flagHit q o b.toNat all then s.svcWait q n i (if all then wALL else wANY) o b.toNat clr
      else if clr then s.svcJournal q n i 0x06 (a.toNat % 1024) b.toNat
      else s.svcDone q n 0 St.OK (s.rdN (Reg.DUC_FLAG_VALUE q o))) (nib.val / 16) (nib.val % 16) (t.runOn (nib.val / 16) (nib.val % 16) - 1) t)) ∧

  (∀ (nib : Fin 128) (a : BitVec 24) (b : W32) (s : State),
    let t := s.asks 0x07 nib a b
    t.serves nib →
    exec (.svcFlagSet nib a b) s = .next ((fun q n i s =>
      let o := a.toNat % 256
      if ! s.flagOf q o (s.tcbRealm q i) then s.svcDone q n 0 St.ACCESS_DENIED 0
      else s.svcJournal q n i 0x07 o b.toNat) (nib.val / 16) (nib.val % 16) (t.runOn (nib.val / 16) (nib.val % 16) - 1) t)) ∧

  (∀ (nib : Fin 128) (a : BitVec 24) (b : W32) (s : State),
    let t := s.asks 0x08 nib a b
    t.serves nib →
    exec (.flagClear nib a b) s = .next ((fun q n i s =>
      let o := a.toNat % 256
      if ! s.flagOf q o (s.tcbRealm q i) then s.svcDone q n 0 St.ACCESS_DENIED 0
      else s.svcJournal q n i 0x08 o b.toNat) (nib.val / 16) (nib.val % 16) (t.runOn (nib.val / 16) (nib.val % 16) - 1) t)) ∧

  (∀ (nib : Fin 128) (a : BitVec 24) (b : W32) (z : State),
    let s := z
    let t := s.asks 0x09 nib a b
    t.serves nib →
    exec (.taskEnd nib a b) z = .next ((fun q n i s =>
      let t := a.toNat % 64
      let st := bitsOf a.toNat 15 8
      match (if s.tcbFolio q i then s.folio (s.tcbRealm q i) (s.fld (Reg.DUC_TCB_W q i 8) 31 16) else none) with
      | none => s.svcDone q n 0 St.BAD_PARAM 0
      | some f =>
        if f.tasks.length ≤ t || (f.taskAt t).cls < 2 || (f.taskAt t).ended then s.svcDone q n 0 St.BAD_PARAM 0
        else
          let s := s.ducTrace q 7 (s.tcbRealm q i) n i (t + st * 256) 0
          (s.svcDone q n 0 St.OK 0).taskEnd f t st) (nib.val / 16) (nib.val % 16) (t.runOn (nib.val / 16) (nib.val % 16) - 1) t)) ∧

  (∀ (nib : Fin 128) (a : BitVec 24) (b : W32) (s : State),
    let t := s.asks 0x0A nib a b
    t.serves nib →
    exec (.checkpoint nib a b) s = .next ((fun q n i s =>
      if a = 0 then s.svcDone q n 0 St.BAD_PARAM 0 else s.svcJournal q n i 0x0A a.toNat 0) (nib.val / 16) (nib.val % 16) (t.runOn (nib.val / 16) (nib.val % 16) - 1) t)) ∧

  (∀ (nib : Fin 128) (a : BitVec 24) (b : W32) (s : State),
    let t := s.asks 0x0B nib a b
    t.serves nib →
    exec (.setPrio nib a b) s = .next ((fun q n i s =>
      let p := a.toNat % 64
      if ! s.inBand q (s.tcbRealm q i) p then s.svcDone q n 0 St.BAD_PARAM 0
      else
        let old := s.tcbPrio q i
        (s.changePrio q i p).svcDone q n 0 St.OK old) (nib.val / 16) (nib.val % 16) (t.runOn (nib.val / 16) (nib.val % 16) - 1) t)) ∧

  (∀ (who : Requester) (nib : Fin 128) (s : State),
    let a := Reg.DUC_PORT_RES_LO (nib.val / 16) (nib.val % 16)
    ¬ (s.ducSt (nib.val / 16)).busy.contains (nib.val % 16) → s.opens who a →
    exec (.resLoRead who nib) s = .next (s.answer St.OK (s.rdN a))) ∧

  (∀ (who : Requester) (nib : Fin 128) (s : State),
    let q := nib.val / 16
    let n := nib.val % 16
    s.opens who (Reg.DUC_PORT_NEXT q n) →
    exec (.nextRead who nib) s = .next (
      let r := let s := s.nextRead q n; (s, s.rdN (Reg.DUC_PORT_NEXT q n))
      r.1.answer St.OK r.2)) ∧

  (∀ (q : Fin 8) (t : Fin 4) (n : BitVec 32) (s : State),
    ¬ (s.fencedQ q) →
    exec (.tick q t n) s = .next (if s.bit (Reg.DUC_TICK_CFG q t) 31 then s.bump (Reg.DUC_TICK_COUNT q t) n.toNat else s)) ∧

  (∀ (q : Fin 8) (z : State),
    let s := z
    ¬ (s.fencedQ q) →
    ∀ i, s.firstDue q = some i →
    let k := s.waitKind q i
    let g := s.waitObj q i
    let s := s.wake q i (if k = wDELAY then St.OK else St.TIMEOUT) 0 1
    exec (.tickExpiry q) z = .next (if k = wANY || k = wALL then s.countWaiters q g else s)) ∧

  (∀ (q : Fin 8) (z : State) (r : JReq) (rest : List JReq) (k : SlotId),
    (z.ducSt q).jq = r :: rest → r.slot = some k →
    exec (.journalWriteFailure q) z = .next (
      let s := z.setDuc q { z.ducSt q with jq := rest }
      let s := ((s.setBit (Reg.DUC_STATUS q) 30).raise (160 + 16 * q + 1)).notice 3 0 q (160 + 16 * q + 1)
      s.slotEnd k DUC_QUIRE_FENCED [])) ∧

  (∀ (q : Fin 8) (s : State),
    ¬ (s.fencedQ q) →
    ∀ r rest, (s.ducSt q).jq = r :: rest →
    exec (.journalWriteComplete q) s = .next ((s.setDuc q { s.ducSt q with jq := rest }).jEffect q r)) ∧

  (∀ (who : Requester) (q : Fin 8) (i : Fin 512) (w : Fin 16) (value : W32) (s : State),
    let a := Reg.DUC_TCB_W q i w
    s.opens who a → s.holds who a →
    exec (.tcbWrite who q i w value) s = .next (
      let t :=
        let st := s.tcbState q i
        if ! (st == tFREE || st == tDORMANT || st == tSUSPENDED) then s.setBit (Reg.DUC_STATUS q) 29
        else
          let v := w32 (Nat.land value.toNat (tcbMask w))
          if w.val ≠ 0 then s.wr a v
          else
            let new := wfld v 31 29
            let s := s.wr a (wsetFld v 31 29 st)
            if new = tREADY then s.makeReady q i
            else if new = tFREE || new = tDORMANT || new = tSUSPENDED then s.setTcbState q i new else s
      t.answer St.OK 0))

/-- For each of these commands, in every state and with operands that meet the conditions its clause names (for a command:
admitted by its ring and slot, and its checks pass; for a register: open to the requester and held by it; for an event: the
unit is in the state the event presupposes), exec answers the next state that is the effect its rule gives, written out in the
clause. (06_nib_core.md, 07_nib_vector.md, 08_ferrule.md, R224, R226) -/
def Obligations.NibControlCompletes : Prop :=
  (∀ (nib : Fin 128) (s : State),
    s.nibRun nib = 2 → Nat.land (s.nibIpend nib) ((s.nibSt nib).sys 9) ≠ 0 →
    exec (.nibWaitWake nib) s = .next (s.setNibRun nib 1 0)) ∧

  (∀ (nib : Fin 128) (s : State),
    let i := nib.val
    let x := s.nibSt i
    ∀ l r, x.land = l :: r →
    ¬ (x.frozen) →
    let t := max x.icyc (r.foldl (fun m y => min m y.due) l.due)
    exec (.deferredResultLanding nib) s = .next ((s.setNib i { x.landUpTo t with icyc := t }).nibTime i (t - x.icyc) 0)) ∧

  (∀ (nib : Fin 128) (way : BitVec 4) (s : State),
    let i := nib.val
    let x := s.nibSt i
    ∀ w, x.line = some w →
    let l := w / 2
    ¬ (! s.domUp (s.addrDomain (64 * l))) →
    let x :=
      if w % 2 = 0 then
        let mates := x.l1i.filter fun m => setOfL1i m == setOfL1i l
        let out := if mates.length < 4 then [] else (mates.drop (way.toNat % mates.length)).take 1
        { x with l1i := setIns (x.l1i.filter fun m => ! out.contains m) l, line := none }
      else
        let mates := (x.l1d.map (·.1)).filter fun m => setOfL1d m == setOfL1d l
        let out := if mates.length < 8 then [] else (mates.drop (way.toNat % mates.length)).take 1
        let kept := x.l1d.filter fun m => ! out.contains m.1
        { x with l1d := sput kept l (some (L1Line.mk false [] [])) none, line := none }
    let f := s.free1 (2 ^ 16)
    exec (.cacheLineFill nib way) s = .next (((f.2.setNib i x).nibTime i 0 f.1).nibRetry i)) ∧

  (∀ (nib : Fin 128) (s : State),
    let i := nib.val
    let x := s.nibSt i
    ¬ (s.nibRun i ≠ 1 || x.frozen || x.bundle ≠ []) →
    ∀ l, s.nibDue i = some l →
    exec (.interruptEntry nib) s = .next (s.nibInterrupt i l)) ∧

  (∀ (nib : Fin 128) (s : State),
    let i := nib.val
    let x := s.nibSt i
    let n := x.sys 0xD - x.cyc
    ¬ (x.frozen) →
    exec (.nibTimerExpiry nib) s = .next ((s.setNib i { x.landUpTo (x.icyc + n) with icyc := x.icyc + n }).nibTime i n 0)) ∧

  (∀ (who : Requester) (nib : Fin 128) (s : State),
    s.opens who (Reg.NIB_DOORBELL nib) →
    exec (.doorbellWrite who nib) s = .next (
      let r := (s.setIpend nib 2 true, 0)
      r.1.answer St.OK r.2)) ∧

  (∀ (who : Requester) (nib : Fin 128) (s : State),
    s.opens who (Reg.NIB_CTL nib) → s.holds who (Reg.NIB_CTL nib) →
    exec (.nibCtlRun who nib) s = .next (
      let t := s.nibStart nib
      t.answer St.OK 0)) ∧

  (∀ (who : Requester) (nib : Fin 128) (s : State),
    s.opens who (Reg.NIB_CTL nib) → s.holds who (Reg.NIB_CTL nib) →
    exec (.nibCtlHalt who nib) s = .next (
      let t := s.nibStop nib
      t.answer St.OK 0)) ∧

  (∀ (who : Requester) (nib : Fin 128) (s : State),
    s.opens who (Reg.NIB_CTL nib) → s.holds who (Reg.NIB_CTL nib) →
    exec (.nibCtlResume who nib) s = .next (
      let t := s.nibResume nib
      t.answer St.OK 0)) ∧

  (∀ (who : Requester) (nib : Fin 128) (s : State),
    s.opens who (Reg.NIB_CTL nib) → s.holds who (Reg.NIB_CTL nib) →
    exec (.nibCtlStep who nib) s = .next (
      let t := s.nibStep nib
      t.answer St.OK 0)) ∧

  (∀ (who : Requester) (nib : Fin 128) (s : State),
    let i := nib.val
    s.opens who (Reg.NIB_DBG_DATA_LO i) →
    exec (.dbgDataRead who nib) s = .next (
      let r :=
        match (if s.dbgOpen i then s.dbgRead i else none) with
        | some v => ((s.wrN (Reg.NIB_DBG_DATA_LO i) v).wrN (Reg.NIB_DBG_DATA_HI i) (v / 2 ^ 32), v % 2 ^ 32)
        | none => (((s.setBit (Reg.NIB_STATUS i) 22).wrN (Reg.NIB_DBG_DATA_LO i) 0).wrN (Reg.NIB_DBG_DATA_HI i) 0, 0)
      r.1.answer St.OK r.2)) ∧

  (∀ (who : Requester) (nib : Fin 128) (value : W32) (s : State),
    let i := nib.val
    s.opens who (Reg.NIB_DBG_DATA_LO i) → s.holds who (Reg.NIB_DBG_DATA_LO i) →
    exec (.dbgDataWrite who nib value) s = .next (
      let t :=
        if s.dbgOpen i then (s.wr (Reg.NIB_DBG_DATA_LO i) value).dbgWrite i (cat64 value (s.rd (Reg.NIB_DBG_DATA_HI i)))
        else s.setBit (Reg.NIB_STATUS i) 22
      t.answer St.OK 0)) ∧

  (∀ (who : Requester) (nib : Fin 128) (s : State),
    let i := nib.val
    s.opens who (Reg.NIB_CYCLE_LO i) →
    exec (.cycleLoRead who nib) s = .next (
      let r :=
        let f := s.free1 (2 ^ 32)
        let s := f.2.nibTime i f.1 0
        (s.wrN (Reg.NIB_CYCLE_HI i) ((s.nibSt i).cyc / 2 ^ 32), (s.nibSt i).cyc % 2 ^ 32)
      r.1.answer St.OK r.2)) ∧

  (∀ (who : Requester) (nib : Fin 128) (s : State),
    let i := nib.val
    s.opens who (Reg.NIB_BUNDLES_LO i) →
    exec (.bundlesLoRead who nib) s = .next (
      let r := (s.wrN (Reg.NIB_BUNDLES_HI i) ((s.nibSt i).bundles / 2 ^ 32), (s.nibSt i).bundles % 2 ^ 32)
      r.1.answer St.OK r.2)) ∧

  (∀ (f : Fin 16) (stall : W32) (s : State) (c : FerCmd) (rest : List FerCmd),
    (s.ferSt f).cmds = c :: rest →
    let q := f.val / 2
    let j := s.ferJob c
    (s.ferCheckJob q j).1 = 0 → (s.ferSrcFault j.a).1 = 0 →
    (∀ b, (if j.dest2 then none else j.b) = some b → (s.ferSrcFault b).1 = 0) →
    exec (.ferruleCommandComplete f stall) s = .next (
      let d := j.dims.getD (1, 1, 1)
      let r := s.ferCompute f j d.1 d.2.1 d.2.2
      let t := r.2.2.1.elim r.1 (r.1.ferQueue f)
      let t := ((t.ferPop f).ferTagEnd f c.tag r.2.1).bump (Reg.FER_CMDS f) 1
      let t := t.bump (Reg.FER_BUSY f) (j.cycles d.1 d.2.1 d.2.2 r.2.2.2 + stall.toNat)
      let t := (t.bump (Reg.FER_INK_STALL f) stall.toNat).ferOrphan f
      (List.range 16).foldl (fun s n => s.nibRetry (16 * q + n)) t))

/-- For each of these commands, in every state and with operands that meet the conditions its clause names (for a command:
admitted by its ring and slot, and its checks pass; for a register: open to the requester and held by it; for an event: the
unit is in the state the event presupposes), exec answers the next state that is the effect its rule gives, written out in the
clause. (09_accelerator_pools.md, R317, R319, R346) -/
def Obligations.PoolCommandsComplete : Prop :=
  (∀ (d : Desc) (s : State),
    let b := poolBase (cmdUnit d)
    s.admits d →
    firstFail [runningCheck s d, need (cmdUnitOk d) St.BAD_PARAM, need (s.cmdShare d ≠ 0) St.ACCESS_DENIED] = (St.OK, 0) →
    exec (.accQuery d) s = .next (
      let s := s.begun 0x40 d
      let r :=
        (s, St.OK, [s.rd (Reg.POOL_STATUS b), s.rd (Reg.POOL_RING_HEAD b d.tgt), s.rd (Reg.POOL_RING_CREDIT b d.tgt),
        s.rd (Reg.POOL_RING_RJOBS b d.tgt)])
      (r.1.slotEnd d.slotId r.2.1 r.2.2).ended d)) ∧

  (∀ (d : Desc) (s : State),
    let u := cmdUnit d
    let ring : RingId := .pool (Fin.ofNat 56 u) (Fin.ofNat 16 d.tgt)
    let b := ringBase ring
    let en := wbit (d.word 6) 31
    s.admits d →
    firstFail [stoppedOrRunning s d, need (cmdUnitOk d) St.BAD_PARAM,
    need (s.cmdShare d ≠ 0) St.ACCESS_DENIED, notExpert s (poolLock u), need (! (en && ringEnabled s b)) St.WRONG_STATE,
    need (! wbit (d.word 9) 31 || s.targetOf (d.word 10) d.tgt) St.ACCESS_DENIED] = (St.OK, 0) →
    exec (.ringConfig d) s = .next (
      let s := s.begun 0x41 d
      let r :=
        let s := if en then s else s.ringCfgWrite ring (d.word 6)
        let s := (s.ringBaseWrite ring (d.word 4) (d.word 5)).ringHeadwbWrite ring (d.word 7) (d.word 8)
        let s := s.wrN (Reg.POOL_RING_NOTIFY_CTL (poolBase u) d.tgt) (2 ^ 31 * wfld (d.word 9) 31 31)
        let s := s.wr (Reg.POOL_RING_NOTIFY_TGT (poolBase u) d.tgt) (d.word 10)
        let s := if en then s.ringCfgWrite ring (d.word 6) else s
        (s, St.OK, [s.rd (b + 8)])
      (r.1.slotEnd d.slotId r.2.1 r.2.2).ended d)) ∧

  (∀ (d : Desc) (s : State),
    s.admits d →
    hdyCheck s d [need (s.keyEntry d).isSome HDY_NOT_FOUND] = (St.OK, 0) →
    exec (.harqLookup d) s = .next (
      let s := s.begun 0x42 d
      let r :=
        match s.keyEntry d with
        | some e => (s.bump Reg.HDY_LOOKUPS 1, St.OK, w32 e :: (List.range 8).map (s.entW e))
        | none => (s, St.OK, [])
      (r.1.slotEnd d.slotId r.2.1 r.2.2).ended d)) ∧

  (∀ (d : Desc) (s : State),
    s.admits d →
    hdyCheck s d [need (s.keyEntry d).isSome HDY_NOT_FOUND,
    need ((s.keyEntry d).all fun e => s.entState e == 0) St.WRONG_STATE] = (St.OK, 0) →
    exec (.harqFree d) s = .next (
      let s := s.begun 0x43 d
      let r :=
        match s.keyEntry d with
        | some e => ((s.bump Reg.HDY_LOOKUPS 1).entFree e, St.OK, [])
        | none => (s, St.OK, [])
      (r.1.slotEnd d.slotId r.2.1 r.2.2).ended d)) ∧

  (∀ (d : Desc) (s : State),
    s.admits d →
    hdyCheck s d [] = (St.OK, 0) →
    exec (.harqFreeUe d) s = .next (
      let s := s.begun 0x44 d
      let r :=
        let hit := (s.entsOf d.tgt).filter fun e =>
          (! bitOf (d.n 4) 0 || wfld (s.recW (e / 16) 1) 15 0 == d.n 3 % 65536) &&
            (! bitOf (d.n 4) 1 || wfld (s.recW (e / 16) 0) 23 12 == bitsOf (d.n 3) 27 16)
        let idle := hit.filter fun e => s.entState e == 0
        (idle.foldl State.entFree s, St.OK, [w32 idle.length, w32 (hit.length - idle.length)])
      (r.1.slotEnd d.slotId r.2.1 r.2.2).ended d)) ∧

  (∀ (d : Desc) (s : State),
    s.admits d →
    firstFail [need (d.tgt < 16) St.BAD_PARAM, stoppedOrRunning s d] = (St.OK, 0) →
    exec (.harqUsage d) s = .next (
      let s := s.begun 0x45 d
      let r := (s, St.OK, [w32 (s.recsOf d.tgt).length, w32 ((s.recsOf d.tgt).length * 16), w32 (s.harqUse d.tgt 0), w32 (s.harqUse d.tgt 1)])
      (r.1.slotEnd d.slotId r.2.1 r.2.2).ended d)) ∧

  (∀ (j : Job) (s : State),
    let bg := j.n 6 % 2
    let z := bitsOf (j.n 6) 9 1
    let it := bitsOf (j.n 6) 21 16
    let et := bitOf (j.n 6) 22
    let cb := bitOf (j.n 6) 23
    let tb := bitsOf (j.n 6) 25 24
    let fmt := bitsOf (j.n 6) 27 26
    let c := j.n 7 % 65536
    let f := j.n 7 / 65536
    let ncb := j.n 8
    let a := j.n 9
    let k := (if bg = 0 then 22 else 10) * z
    let l := crcLen tb
    let ok := wordsOk j (poolMasks [0x0FFF03FF, 0xFFFFFFFF, 0x7FFF, 0xFFFFFF, 0, 0, 0]) && liftOk z && 1 ≤ it && it ≤ 32 &&
      (! cb || 1 < c) && tb ≠ 3 && fmt ≠ 3 && 1 ≤ c && c ≤ 256 && 2 * z + k ≤ ncb && ncb ≤ (if bg = 0 then 66 else 50) * z &&
      blocksOk c k f a l
    let n := (a + l + 7) / 8
    ∀ u r x, s.poolTakes 0 j u r x ok [(jIn j, c * segBytes ncb fmt)] [(jOut j, n)] false →
    let e :=
      let s := s.turn x r
      let o := s.freeOut (jOut j) n
      let failed := o.1.free1 (c + 1)
      let pass := failed.2.free1 2
      let most := pass.2.free1 it
      let runs := most.2.free1 (c * most.1 + 1)
      let its := if et then most.1 + 1 else it
      let total := if et then its + (c - 1) + min runs.1 ((c - 1) * most.1) else c * it
      let good := if tb = 0 then failed.1 == 0 else pass.1 == 1
      (runs.2, { status := if good then St.OK else St.CRC_FAIL,
                 result := 2 ^ 16 * failed.1 + its * 2 ^ 8 + (if tb = 0 then 0 else pass.1),
                 data := [o.2], work := 72 * c + total * ceilDiv (((if bg = 0 then 22 else 10) + 4) * z) 64 })
    ¬ e.2.refused →
    exec (.ldpcDecode j) s = .next (e.1.jobStarts j u x r e.2 [])) ∧

  (∀ (j : Job) (s : State),
    let bg := j.n 6 % 2
    let z := bitsOf (j.n 6) 9 1
    let tb := bitsOf (j.n 6) 25 24
    let qm := bitsOf (j.n 6) 31 28
    let c := j.n 7 % 65536
    let f := j.n 7 / 65536
    let ncb := j.n 8
    let a := j.n 9
    let k := (if bg = 0 then 22 else 10) * z
    let e0 := j.n 10
    let e1 := j.n 11
    let c0 := j.n 12
    let g := c0 * e0 + (c - c0) * e1
    let ok := wordsOk j (poolMasks [0xFF0003FF, 0xFFFFFFFF, 0x7FFF, 0xFFFFFF, 0xFFFFFF, 0xFFFFFF, 0xFFFF]) && liftOk z && tb ≠ 3 &&
      [1, 2, 4, 6, 8, 10].contains qm && 1 ≤ c && c ≤ 256 && 2 * z + k ≤ ncb && ncb ≤ (if bg = 0 then 66 else 50) * z &&
      c0 ≤ c && e0 % qm == 0 && e1 % qm == 0 && blocksOk c k f a (crcLen tb)
    ∀ u r x, s.poolTakes 1 j u r x ok [(jIn j, (a + 7) / 8)] [(jOut j, (g + 7) / 8)] false →
    let e :=
      let s := s.turn x r
      let o := s.freeOut (jOut j) ((g + 7) / 8)
      (o.1, { status := St.OK, result := 0, data := [o.2],
              work := c * (20 + ceilDiv k 32) + c0 * ceilDiv e0 256 + (c - c0) * ceilDiv e1 256 })
    ¬ e.2.refused →
    exec (.ldpcEncode j) s = .next (e.1.jobStarts j u x r e.2 [])) ∧

  (∀ (j : Job) (s : State),
    let k := j.n 6 % 1024
    let n := bitsOf (j.n 6) 13 10
    let l := 2 ^ bitsOf (j.n 6) 15 14
    ∀ u r x, s.poolTakes 2 j u r x (polarOk j) [(jIn j, j.n 7 % 65536)] [(jOut j, (k + 7) / 8)] false →
    let e :=
      let s := s.turn x r
      let o := s.freeOut (jOut j) ((k + 7) / 8)
      let metric := o.1.free1 65536
      let path := metric.2.free1 l
      let pass := path.2.free1 2
      (pass.2, { status := if pass.1 = 1 then St.OK else St.CRC_FAIL, result := 2 ^ 16 * metric.1 + path.1 * 2 + pass.1,
                 data := [o.2], work := 24 + ceilDiv (2 ^ n * n) 16 + k * ceilDiv l 4 })
    ¬ e.2.refused →
    exec (.polarDecode j) s = .next (e.1.jobStarts j u x r e.2 [])) ∧

  (∀ (j : Job) (s : State),
    let k := j.n 6 % 1024
    let n := bitsOf (j.n 6) 13 10
    let e := j.n 7 % 65536
    ∀ u r x, s.poolTakes 2 j u r x (polarOk j) [(jIn j, (k - polarCrc (bitsOf (j.n 6) 17 16) + 7) / 8)] [(jOut j, (e + 7) / 8)] false →
    let e :=
      let s := s.turn x r
      let o := s.freeOut (jOut j) ((e + 7) / 8)
      (o.1, { status := St.OK, result := 0, data := [o.2], work := 16 + ceilDiv (2 ^ n) 32 + ceilDiv e 128 })
    ¬ e.2.refused →
    exec (.polarEncode j) s = .next (e.1.jobStarts j u x r e.2 [])) ∧

  (∀ (j : Job) (s : State),
    let k := j.n 6 % 8192
    let it := bitsOf (j.n 6) 20 16
    let et := bitOf (j.n 6) 21
    let crc := bitsOf (j.n 6) 23 22
    let fmt := bitsOf (j.n 6) 25 24
    let c := j.n 7 % 65536
    let f := j.n 7 / 65536
    let ncb := j.n 8
    let n := (c * k - f + 7) / 8
    let ok := wordsOk j (poolMasks [0x03FF1FFF, 0xFFFFFFFF, 0x7FFF, 0, 0, 0, 0]) && turboOk k && 1 ≤ it && it ≤ 16 && crc ≠ 3 && fmt ≠ 3 &&
      1 ≤ c && c ≤ 256 && f ≤ k && ncb ≤ 96 * ceilDiv (k + 4) 32
    ∀ u r x, s.poolTakes 3 j u r x ok [(jIn j, c * segBytes ncb fmt)] [(jOut j, n)] false →
    let e :=
      let s := s.turn x r
      let o := s.freeOut (jOut j) n
      let failed := o.1.free1 (c + 1)
      let pass := failed.2.free1 2
      let most := pass.2.free1 it
      let runs := most.2.free1 (c * most.1 + 1)
      let its := if et then most.1 + 1 else it
      let total := if et then its + (c - 1) + min runs.1 ((c - 1) * most.1) else c * it
      (runs.2, { status := if (if crc = 0 then failed.1 == 0 else pass.1 == 1) then St.OK else St.CRC_FAIL,
                 result := 2 ^ 16 * failed.1 + its * 2 ^ 8 + (if crc = 0 then 0 else pass.1), data := [o.2],
                 work := 64 * c + 2 * total * (ceilDiv k 24 + 80) })
    ¬ e.2.refused →
    exec (.turboDecode j) s = .next (e.1.jobStarts j u x r e.2 [])) ∧

  (∀ (j : Job) (s : State),
    let k := j.n 6 % 8192
    let qm := bitsOf (j.n 6) 31 28
    let c := j.n 7 % 65536
    let f := j.n 7 / 65536
    let e0 := j.n 9
    let e1 := j.n 10
    let c0 := j.n 11
    let g := c0 * e0 + (c - c0) * e1
    let ok := wordsOk j (poolMasks [0xFC001FFF, 0xFFFFFFFF, 0x7FFF, 0xFFFFFF, 0xFFFFFF, 0xFFFF, 0]) && turboOk k &&
      [2, 4, 6, 8].contains qm && 1 ≤ c && c ≤ 256 && f ≤ k && j.n 8 ≤ 96 * ceilDiv (k + 4) 32 && c0 ≤ c && e0 % qm == 0 && e1 % qm == 0
    ∀ u r x, s.poolTakes 3 j u r x ok [(jIn j, (c * k - f + 7) / 8)] [(jOut j, (g + 7) / 8)] false →
    let e :=
      let s := s.turn x r
      let o := s.freeOut (jOut j) ((g + 7) / 8)
      (o.1, { status := St.OK, result := 0, data := [o.2],
              work := c * (32 + ceilDiv k 16) + c0 * ceilDiv e0 64 + (c - c0) * ceilDiv e1 64 })
    ¬ e.2.refused →
    exec (.turboEncode j) s = .next (e.1.jobStarts j u x r e.2 [])) ∧

  (∀ (c : Instr) (inv : Bool) (sizeOk : Nat → Bool) (j : Job) (s : State),
    (c = .fft j ∧ inv = false ∧ sizeOk = fftOk) ∨ (c = .ifft j ∧ inv = true ∧ sizeOk = fftOk) ∨
      (c = .dft j ∧ inv = false ∧ sizeOk = dftOk) ∨ (c = .idft j ∧ inv = true ∧ sizeOk = dftOk) →
    let n := j.n 6 % 16384
    let cp := bitsOf (j.n 6) 29 16
    let nsym := j.n 7
    let nout := bitsOf (j.n 8) 13 0
    let first := signed 16 (j.n 8 / 65536)
    let scale := j.n 9 % 32
    let auto := bitOf (j.n 9) 5
    let half := bitOf (j.n 9) 6
    let pha := cat64 (j.word 10) (j.word 11)
    let ok := wordsOk j (poolMasks [0x3FFF3FFF, 0xFFFF, 0xFFFF3FFF, 0x7F, 0xFFFFFFFF, 0xFFFFFFFF, 0]) && sizeOk n && cp ≤ n && 1 ≤ nsym &&
      nsym ≤ 1024 && 1 ≤ nout && nout ≤ n && decide (-((n / 2 : Nat) : Int) ≤ first) && decide (first < n) && scale ≤ 13
    let ins := if inv then nout else n + cp
    let outs := if inv then n + cp else nout
    let dataLen := nsym * outs * 4
    let outLen := if auto then (dataLen + 63) / 64 * 64 + nsym else dataLen
    let rds := [(jIn j, nsym * ins * 4)] ++ (if pha = 0 then [] else [(pha, nsym * 4)])
    ∀ u r x, s.poolTakes 4 j u r x ok rds [(jOut j, outLen)] false →
    let e : State × JobEnd :=
      let s := s.turn x r
      let src := s.gbytes (jIn j) (nsym * ins * 4)
      let phs := if pha = 0 then [] else s.gbytes pha (nsym * 4)
      let syms := (List.range nsym).map fun k =>
        let xs := (List.range ins).map fun i => cint16 (wordAt src (k * ins + i))
        let cs := symbol inv half n cp nout first xs (if pha = 0 then (2 ^ 14, 0) else cint16 (wordAt phs k))
        (cs, symShift auto scale cs)
      let bytes := syms.flatMap fun p => (symWords p.2 p.1).flatMap (leBytes 4)
      let tail := if auto then [(jOut j + (dataLen + 63) / 64 * 64, syms.map fun p => BitVec.ofNat 8 p.2)] else []
      let sat := syms.any fun p => p.1.any fun c => clamps c p.2
      (s, { status := St.OK, result := syms.foldl (fun m p => max m p.2) 0 % 32 + 2 ^ 16 * b2n sat, data := (jOut j, bytes) :: tail,
            work := nsym * (8 + ceilDiv (n + cp) 4) })
    ¬ e.2.refused →
    exec c s = .next (e.1.jobStarts j u x r e.2 [])) ∧

  (∀ (j : Job) (s : State),
    exec (.ifft j) s = .next (ftJob true fftOk j s)) ∧

  (∀ (j : Job) (s : State),
    exec (.dft j) s = .next (ftJob false dftOk j s)) ∧

  (∀ (j : Job) (s : State),
    exec (.idft j) s = .next (ftJob true dftOk j s)) ∧

  (∀ (j : Job) (s : State),
    exec (.nrCombine j) s = .next (combineJob false j s)) ∧

  (∀ (j : Job) (s : State),
    exec (.lteCombine j) s = .next (combineJob true j s)) ∧

  (∀ (j : Job) (s : State),
    let qm := j.n 6 % 16
    let scr := bitOf (j.n 6) 4
    let odd := bitOf (j.n 6) 5
    let sh := bitsOf (j.n 6) 13 8
    let nre := j.n 7
    let wgt := cat64 (j.word 10) (j.word 11)
    let grp := j.n 12
    let ok := wordsOk j (poolMasks [0x3F3F, 0xFFFFFF, 0x7FFFFFFF, 0xFFFFFFFF, 0xFFFFFFFF, 0xFFFFFFFF, 0xFFFF]) &&
      [1, 2, 4, 6, 8, 10].contains qm && sh ≤ 47 && 1 ≤ nre && (wgt = 0 || 1 ≤ grp)
    let wlen := if wgt = 0 then 0 else ceilDiv nre (max grp 1) * 2
    ∀ u r x, s.poolTakes 6 j u r x ok ([(jIn j, nre * 4)] ++ (if wgt = 0 then [] else [(wgt, wlen)])) [(jOut j, nre * qm)] false →
    let e :=
      let s := s.turn x r
      let src := s.gbytes (jIn j) (nre * 4)
      let ws := if wgt = 0 then [] else s.gbytes wgt wlen
      let cs := if scr then gold (j.n 8) (j.n 9) (nre * qm) else []
      let llrs := (List.range nre).flatMap fun i =>
        let y := cint16 (wordAt src i)
        let w := if wgt = 0 then 1 else leNat ((ws.drop (i / max grp 1 * 2)).take 2)
        let o := xor odd (i % 2 == 1)
        (List.range qm).map fun b => demapLlr (demapMetric qm o y b) w sh
      let out := (llrs.zipIdx).map fun p => if scr && cs.getD p.2 false then -p.1.1 else p.1.1
      let clamped := (llrs.filter (·.2)).length
      (s, { status := St.OK, result := clamped % 2 ^ 24, data := [(jOut j, out.map fun v => BitVec.ofInt 8 v)],
            work := 16 + ceilDiv nre (if qm = 10 then 8 else 16) })
    ¬ e.2.refused →
    exec (.demap j) s = .next (e.1.jobStarts j u x r e.2 [])) ∧

  (∀ (x : Fin 58) (s : State),
    ∀ p, sget s.eng x.val none = some p →
    ¬ (x.val < 56) →
    let q := s.occasionEnd (x - 56) (((ringUnit p.job.ring).map (·.2)).getD 0) p
    exec (.poolJobComplete x) s = .next (q.1.endPoolJob x { p with result := q.2 })) ∧

  (∀ (x : Fin 58) (s : State),
    let ev := if x.val < 56 then 344 + x.val else 450 + (x.val - 56)
    (sget s.eng x.val none).isSome →
    exec (.jobOverrun x) s = .next ((s.raise ev).notice 7 2 x ev)) ∧

  (∀ (who : Requester) (s : State),
    s.opens who Reg.HDY_ACC → s.holds who Reg.HDY_ACC →
    exec (.hdyAccRead who) s = .next (
      let t :=
        let i := s.fld Reg.HDY_IDX 16 0
        let isRec := s.bit Reg.HDY_IDX 31
        (List.range 8).foldl (fun s w => s.wr (Reg.HDY_DATA w) (if isRec then (if w < 4 then s.recW i w else 0) else s.entW i w)) s
      t.answer St.OK 0)) ∧

  (∀ (who : Requester) (s : State),
    s.opens who Reg.HDY_ACC → s.holds who Reg.HDY_ACC →
    exec (.hdyAccWrite who) s = .next (
      let t :=
        let i := s.fld Reg.HDY_IDX 16 0
        let ws := (List.range 8).map fun w => s.rd (Reg.HDY_DATA w)
        if s.bit Reg.HDY_IDX 31 then
          let s := s.setRec (i % 8192) (ws.take 4)
          (List.range 16).foldl State.hdySync s
        else if s.entValid i && s.entState i ≠ 0 then s.setBit Reg.HDY_STATUS 30
        else
          let s := s.setEnt i ws
          (List.range 16).foldl State.hdySync s
      t.answer St.OK 0))

/-- For each of these commands, in every state and with operands that meet the conditions its clause names (for a command:
admitted by its ring and slot, and its checks pass; for a register: open to the requester and held by it; for an event: the
unit is in the state the event presupposes), exec answers the next state that is the effect its rule gives, written out in the
clause. (10_random_access.md, R353, R355) -/
def Obligations.RandomAccessCommandsComplete : Prop :=
  (∀ (c : Instr) (op : Nat) (j : Job) (ds : List RaDet) (s : State),
    (c = .nrPrach j ds ∧ op = 1) ∨ (c = .ltePrach j ds ∧ op = 2) ∨ (c = .nprach j ds ∧ op = 3) →
    ∀ (e : Fin 2) (r : Fin 16) (x : Nat), j.ring = .ra e r →
    let o := Occasion.of op j
    let reads := ((List.range o.na).map fun k => (jIn j + k * o.astride * 64, o.block)) ++
      (if jOut j = 0 then [] else [(jOut j, 32 * o.npre)])
    o.ok j → s.poolTakes 7 j (56 + e.val) r x true reads [] true →
    let ds := detOrder (s.reported (x - 56) r o ds)
    exec c s = .next (
      let s := s.turn x r
      let t := s.wrN (Reg.RAE_RQ_LAST_THR (x - 56) r) (s.occThr (x - 56) r o 0)
      t.jobStarts j (56 + e.val) x r { status := St.OK, result := 0, data := [], work := o.work ds.length } ds)) ∧

  (∀ (j : Job) (ds : List RaDet) (s : State),
    exec (.ltePrach j ds) s = .next (occasionJob 2 j ds s)) ∧

  (∀ (j : Job) (ds : List RaDet) (s : State),
    exec (.nprach j ds) s = .next (occasionJob 3 j ds s)) ∧

  (∀ (e : Fin 2) (c : Fin 32) (s : State),
    ∀ k, s.raCtx e c = some k →
    let p := k.pready
    (k.state = 2 && 0 ≤ signed 32 (s.ts32 p.2 + 2 ^ 32 - p.1)) →
    exec (.preadyReached e c) s = .next (s.setCtx e c (some { k with state := 3 }))) ∧

  (∀ (e : Fin 2) (c : Nat) (l : Int) (s : State),
    ¬ ((sget s.eng (56 + e) none).isSome || sget s.ra.run e.val 0 ≠ 0) →
    let late := fun k : RaCtx => signed 32 (s.ts32 k.pready.2 + 2 ^ 32 - k.pready.1)
    ((List.range 32).foldl (fun (b : Option (Nat × Int)) c => match s.raCtx e c, b with
      | some k, none => if k.state = 3 then some (c, late k) else none
      | some k, some (_, l) => if k.state = 3 && l < late k then some (c, late k) else b
      | none, _ => b) none) = some (c, l) →
    exec (.payloadProcess e) s = .next { s with ra := { s.ra with run := sput s.ra.run e.val (c + 1) 0 } }) ∧

  (∀ (e : Fin 2) (pass : Bool) (c : Nat) (k : RaCtx) (s : State),
    sget s.ra.run e.val 0 = c + 1 → s.raCtx e c = some k →
    let n := fun o w => leNat ((k.entry.drop o).take w)
    s.readsStatus ((List.range k.na).map fun a => (n 0 8 + a * n 8 2 * 64, n 0xB 1 * n 0xA 1 * 12 * 4)) = St.OK →
    exec (.payloadComplete e pass) s = .next (
      let slot := s.paySlot e c k
      let bytes := (n 0xC 2 + 7) / 8
      let f := s.freeBytes bytes
      let it := f.2.free1 20
      let t := it.2.setBytes slot.2 f.1
      let t := { t with ra := { t.ra with tog := sput t.ra.tog (32 * e + c) (1 - slot.1) 0 } }
      let t := t.bump (Reg.RAE_WORK e) (120 + ceilDiv (k.na * n 0xA 1 * 12 * n 0xB 1) 16 + (it.1 + 1))
      if pass then t.payloadEnd e c k St.OK bytes (slot.1 * 32 + (it.1 + 1))
      else (t.bump (Reg.RAE_CRCFAIL e) 1).payloadEnd e c k St.CRC_FAIL 0 (slot.1 * 32 + (it.1 + 1)))) ∧

  (∀ (d : Desc) (s : State),
    let e := cmdRae d
    let ring : RingId := .ra (Fin.ofNat 2 e) (Fin.ofNat 16 d.tgt)
    let b := ringBase ring
    let en := wbit (d.word 6) 31
    s.admits d →
    firstFail [stoppedOrRunning s d, need (s.raShare d) St.ACCESS_DENIED, notExpert s (0x280 + e),
    need (! (en && ringEnabled s b)) St.WRONG_STATE, need (! wbit (d.word 9) 31 || s.targetOf (d.word 10) d.tgt) St.ACCESS_DENIED] = (St.OK, 0) →
    exec (.raRing d) s = .next (
      let s := s.begun 0x50 d
      let r :=
        let s := if en then s else s.ringCfgWrite ring (d.word 6)
        let s := (s.ringBaseWrite ring (d.word 4) (d.word 5)).ringHeadwbWrite ring (d.word 7) (d.word 8)
        let s := s.wrN (Reg.RAE_RING_NOTIFY_CTL e d.tgt) (2 ^ 31 * wfld (d.word 9) 31 31)
        let s := s.wr (Reg.RAE_RING_NOTIFY_TGT e d.tgt) (d.word 10)
        let s := if en then s.ringCfgWrite ring (d.word 6) else s
        (s, St.OK, [s.rd (b + 8)])
      (r.1.slotEnd d.slotId r.2.1 r.2.2).ended d)) ∧

  (∀ (d : Desc) (s : State),
    let e := cmdRae d
    let r := d.tgt
    let q := cat64 (d.word 4) (d.word 5)
    let pay := cat64 (d.word 7) (d.word 8)
    let k := bitsOf (d.n 6) 20 16
    let inMine := fun (s : State) (g n : Nat) => (s.localOf g).any fun a => s.inRealm r a n
    s.admits d →
    firstFail [stoppedOrRunning s d, need (s.raShare d) St.ACCESS_DENIED, notExpert s (0x280 + e),
    need (! s.bit (Reg.RAE_RING_CFG e r) 31 && (s.ctxOf e r).all fun c => (s.raCtx e c).isNone) St.WRONG_STATE,
    need (6 ≤ k && k ≤ 16 && d.n 6 % 4 ≠ 3 && q % 32 == 0 && pay % 64 == 0) St.BAD_PARAM,
    need (inMine s q (32 * 2 ^ k) && inMine s pay ((s.ctxOf e r).length * 1024)) St.ACCESS_DENIED] = (St.OK, 0) →
    exec (.raConfig d) s = .next (
      let s := s.begun 0x51 d
      let r :=
        let s := s.wrWords (Reg.RAE_RQ_BASE_LO e r) [d.word 4, d.word 5, w32 (2 ^ 16 * k + bitsOf (d.n 6) 15 8 * 2 ^ 8 + d.n 6 % 4), 0, 0,
          d.word 7, w32 (d.n 8 % 65536)]
        let s := { s with ra := { s.ra with phase := sput s.ra.phase (16 * e + r) 0 0 } }
        (s, St.OK, [d.word 4, d.word 5, s.rd (Reg.RAE_RQ_CFG e r), d.word 7, d.word 8])
      (r.1.slotEnd d.slotId r.2.1 r.2.2).ended d)) ∧

  (∀ (d : Desc) (s : State),
    let e := cmdRae d
    let set := bitsOf (d.n 3) 5 4
    let first := bitsOf (d.n 3) 13 8
    let n := bitsOf (d.n 3) 22 16
    let g := cat64 (d.word 4) (d.word 5)
    s.admits d →
    firstFail [runningCheck s d, need (s.raShare d) St.ACCESS_DENIED, notExpert s (0x280 + e),
    need (1 ≤ n && first + n ≤ 64) St.BAD_PARAM, need (s.rangeOk d.tgt (g, 2 * n)) St.ACCESS_DENIED,
    let st := s.readStatus g (2 * n); (st, 0)] = (St.OK, 0) →
    exec (.raThresh d) s = .next (
      let s := s.begun 0x52 d
      let r :=
        let bs := s.gbytes g (2 * n)
        ((List.range n).foldl (fun s i =>
          let k := first + i
          s.setFld (Reg.RAE_THR_SET_W e d.tgt set (k / 2)) (16 * (k % 2) + 15) (16 * (k % 2)) (leNat ((bs.drop (2 * i)).take 2))) s,
          St.OK, [w32 n])
      (r.1.slotEnd d.slotId r.2.1 r.2.2).ended d)) ∧

  (∀ (d : Desc) (s : State),
    let e := cmdRae d
    s.admits d →
    firstFail [runningCheck s d, need (s.raShare d) St.ACCESS_DENIED] = (St.OK, 0) →
    exec (.raQuery d) s = .next (
      let s := s.begun 0x53 d
      let r :=
        (s, St.OK, [w32 (s.ctxOf e d.tgt).length, w32 ((s.ctxOf e d.tgt).filter fun c => (s.raCtx e c).isSome).length,
        s.rd (Reg.RAE_RQ_PROD e d.tgt), s.rd (Reg.RAE_RQ_CONS e d.tgt), s.rd (Reg.RAE_RQ_DROP e d.tgt), s.rd (Reg.RAE_RQ_LAST_THR e d.tgt)])
      (r.1.slotEnd d.slotId r.2.1 r.2.2).ended d)) ∧

  (∀ (d : Desc) (s : State),
    let e := cmdRae d
    s.admits d →
    firstFail [runningCheck s d, need (s.raShare d) St.ACCESS_DENIED, notExpert s (0x280 + e)] = (St.OK, 0) →
    exec (.raAbort d) s = .next (
      let s := s.begun 0x54 d
      let r :=
        let cs := (s.ctxOf e d.tgt).filter fun c => (s.raCtx e c).any fun k => k.state ≠ 1
        (cs.foldl (fun s c => match s.raCtx e c with
          | some k => s.payloadEnd e c k St.ABORTED 0 0
          | none => s) s, St.OK, [w32 cs.length])
      (r.1.slotEnd d.slotId r.2.1 r.2.2).ended d))

/-- For each of these commands, in every state and with operands that meet the conditions its clause names (for a command:
admitted by its ring and slot, and its checks pass; for a register: open to the requester and held by it; for an event: the
unit is in the state the event presupposes), exec answers the next state that is the effect its rule gives, written out in the
clause. (11_inkwell_noc.md, R410) -/
def Obligations.MemoryCommandsComplete : Prop :=
  (∀ (site : Fin 48) (link : Fin 6) (retry : Fin 5) (z : State),
    let s := z
    let n := site.val
    let k := link.val
    ¬ (k = 0 || s.linkState n k = 3) →
    let s := s.bumpSat (Reg.NOC_LINK_CRC_CNT n k) 31 0 1
    let now := s.tbNs 0
    let recent := (sget s.noc.crc (8 * n + k) []).filter (fun t => now < t + 1000000) ++ [now]
    let s := s.setNoc { s.noc with crc := sput s.noc.crc (8 * n + k) recent [] }
    exec (.flitCrcError site link retry) z = .next (if (retry.val = 4 || 256 ≤ recent.length) && s.linkState n k = 0 then s.fenceLink n k true else s)) ∧

  (∀ (site : Fin 48) (z : State),
    let s := z
    let n := site.val
    let s := s.setBit (Reg.NOC_STATUS n) 30
    ¬ (s.bit (Reg.NOC_STATUS n) 31) →
    let s := s.showRouter n 1
    let s := (linksTo n).foldl (fun s p => if s.linkState p.1 p.2 = 0 then s.fenceLink p.1 p.2 false else s) s
    let s := s.raise 865
    let s := if (siteUnits n).isEmpty then (s.faultLog 9 5 n 865).1 else s
    exec (.routerError site) z = .next ((siteUnits n).foldl (fun s u => s.notice 9 u.1 u.2 865) s)) ∧

  (∀ (who : Requester) (s : State),
    (∀ r, exec (.responseTimeout who (some r)) s = .next (s.jobFails r St.TIMEOUT)) ∧
    (∀ i : Fin 128, (s.nibSt i).frozen →
      let g := ((s.nibActs i).flatMap fun a => a.reads.map (·.1) ++ a.effs.filterMap fun e => match e with
        | .store g _ _ => some g
        | _ => none).head?.getD (s.nibSt i).pc
      exec (.responseTimeout (.nib i) none) s = .next (s.nibExcept i cBUS_ERROR g (s.nibSt i).pc)) ∧
    exec (.responseTimeout .engine none) s = .next { s with resp := { status := St.TIMEOUT, data := 0 } }) ∧

  (∀ (who : Requester) (write : Bool) (addr : BitVec 48) (bytes : BitVec 10) (data : W64) (s : State),
    let d := s.addrDomain addr.toNat
    let t := s.firstWake d (whoInit who)
    ¬ s.domUp d → ¬ s.domForced d → (t.noc.held.filter (·.dom == d)).length < 32 →
    exec (.firstAccess who write addr bytes data) s = .next (
      let q := HeldReq.mk d who write addr.toNat bytes.toNat data.toNat (t.tbNs 0)
      { t with noc := { t.noc with held := t.noc.held ++ [q] }, resp := { status := St.HOLD, data := 0 } })) ∧

  (∀ (dom : Fin 64) (z : State),
    let s := z
    ¬ (! s.domUp dom) →
    ∀ q, s.noc.held.find? (·.dom == dom.val) = some q →
    let s := { s with noc := { s.noc with held := s.noc.held.erase q } }
    exec (.heldRequestPerform dom) z = .next (s.respond (s.doAccess q.who (s.whoRealm q.who) q.write q.addr q.bytes q.data))) ∧

  (∀ (dom : Fin 64) (z : State),
    let s := z
    ∀ q, s.noc.held.find? (·.dom == dom.val) = some q →
    ¬ (s.domUp dom || s.tbNs 0 < q.since + 1000 * s.fld Reg.NOCG_CFG 31 16) →
    let s := { s with noc := { s.noc with held := s.noc.held.erase q }, resp := { status := St.TIMEOUT, data := 0 } }
    exec (.holdTimeout dom) z = .next (s.raise 868)) ∧

  (∀ (unit : Fin 15) (addr : BitVec 48) (err : Fin 3) (ends : Bool) (z : State),
    let s := z
    let u := unit.val
    let b := memBase u
    ¬ (! s.atD0 (memDomain u) || ! s.bit (Reg.MEMC_SCRUB_CFG b) 31 || s.unitOf addr.toNat ≠ some u) →
    let s := match err.val with
      | 0 => s
      | 1 => s.eccCorrected u
      | _ => s.eccUncorrectable u addr.toNat
    let start := sget s.noc.pass u 0
    let s := if start + 10 ^ 9 * (2 * s.fld (Reg.MEMC_SCRUB_CFG b) 19 0) < s.tbNs 0 then s.setBit (Reg.MEMC_STATUS b) 30 else s
    ¬ (ends) →
    let r := s.free1 101
    exec (.scrubLine unit addr err ends) z = .next (r.2.setFld (Reg.MEMC_STATUS b) 7 0 r.1)) ∧

  (∀ (unit : Fin 15) (spare : Bool) (s : State),
    let b := memBase unit
    ¬ (6 ≤ unit.val) →
    ¬ (spare) →
    exec (.rowRepair unit spare) s = .next ((s.setBit (Reg.MEMC_STATUS b) 29).raise 863)) ∧

  (∀ (unit : Fin 15) (place : BitVec 30) (z : State),
    let s := z
    let b := memBase unit
    ¬ (! s.bit (Reg.MEMC_STATUS b) 27) →
    let s := s.setFld (Reg.MEMC_STATUS b) 27 27 0
    let s := s.wrN (Reg.MEMC_SPARE_LOG b) (2 ^ 31 + place.toNat)
    let s := s.setNoc { s.noc with repairs := sput s.noc.repairs unit (sget s.noc.repairs unit 0 + 1) 0 }
    exec (.rowRepairComplete unit place) z = .next (s.raise 862)) ∧

  (∀ (who : Requester) (unit : Fin 15) (s : State),
    s.opens who (Reg.MEMC_SCRUB_CFG (memBase unit)) → s.holds who (Reg.MEMC_SCRUB_CFG (memBase unit)) →
    exec (.scrubPassNow who unit) s = .next (
      let t := s.passNow unit
      t.answer St.OK 0)) ∧

  (∀ (who : Requester) (unit : Fin 15) (s : State),
    let b := memBase unit
    s.opens who (Reg.MEMC_ECC_CORR b) →
    exec (.eccCorrRead who unit) s = .next (
      let r := ((s.wr (Reg.MEMC_ECC_CORR b) 0).setFld (Reg.MEMC_STATUS b) 28 28 0, s.rdN (Reg.MEMC_ECC_CORR b))
      r.1.answer St.OK r.2)) ∧

  (∀ (hbm : BitVec 2) (lanes : BitVec 8) (caps : Vector W32 4) (bad : BitVec 4) (z : State),
    let s := z
    let fail := fun (s : State) (u : Nat) => (s.setBit (Reg.MEMC_STATUS (memBase u)) 31).raise 869
    let s := (List.range 2).foldl (fun s h =>
      let s := s.wrN (Reg.MEMC_CAPACITY (memBase h)) (if bitOf hbm.toNat h then 24576 else 0)
      let s := s.setFld (Reg.MEMC_STATUS (memBase h)) 15 8 lanes.toNat
      if bitOf hbm.toNat h then s else (fail s h).setFld (Reg.PWM_D_STATE (56 + h)) 31 30 3) s
    let s := (List.range 4).foldl (fun s c =>
      let s := s.wr (Reg.MEMC_CAPACITY (memBase (2 + c))) (if bitOf bad.toNat c then 0 else caps.toList.getD c 0)
      if bitOf bad.toNat c then fail s (2 + c) else s) s
    exec (.memoryTraining hbm lanes caps bad) z = .next ((List.range 2).foldl (fun s h =>
      if s.rdN (Reg.MEMC_CAPACITY (memBase (2 + 2 * h))) = 0 && s.rdN (Reg.MEMC_CAPACITY (memBase (3 + 2 * h))) = 0 then
        s.setFld (Reg.PWM_D_STATE (58 + h)) 31 30 3 else s) s)) ∧

  (∀ (_unit : Fin 15) (s : State),
    exec (.refresh _unit) s = .next s) ∧

  (∀ (who : Requester) (s : State),
    s.opens who Reg.NOCG_EPOCH_CTL → s.holds who Reg.NOCG_EPOCH_CTL →
    exec (.epochFlip who) s = .next (
      let t := if s.rdN (drainReg (1 - s.epoch)) = 0 then s.epochFlip else s.setBit Reg.NOCG_EPOCH_CTL 8
      t.answer St.OK 0)) ∧

  (∀ (s : State),
    s.noc.draining →
    exec (.epochDrainComplete) s =
      .next (((s.wr (drainReg (1 - s.epoch)) 0).setNoc { s.noc with draining := false }).raise 867)) ∧

  (∀ (who : Requester) (s : State),
    s.opens who Reg.NOCG_RT_ACC → s.holds who Reg.NOCG_RT_ACC →
    exec (.rtAccRead who) s = .next (
      let t :=
        let (b, n, g, d) := s.rtIdx
        (s.setFld Reg.NOCG_RT_DATA 7 0 (s.route b n g d)).rtStatus St.OK
      t.answer St.OK 0)) ∧

  (∀ (who : Requester) (s : State),
    s.opens who Reg.NOCG_RT_ACC → s.holds who Reg.NOCG_RT_ACC →
    exec (.rtAccWrite who) s = .next (
      let t :=
        let (b, n, g, d) := s.rtIdx
        let v := s.fld Reg.NOCG_RT_DATA 7 0
        if b = s.epoch || s.rdN (drainReg b) ≠ 0 then s.rtStatus St.EPOCH_RETIRED
        else if 64 ≤ v || 4 < v % 8 then s.rtStatus St.BAD_PARAM
        else (s.setRoute b n g d v).rtStatus St.OK
      t.answer St.OK 0)) ∧

  (∀ (who : Requester) (s : State),
    s.opens who Reg.NOCG_RT_ACC → s.holds who Reg.NOCG_RT_ACC →
    exec (.rtAccCopy who) s = .next (
      let t := if s.rdN (drainReg (1 - s.epoch)) ≠ 0 then s.rtStatus St.EPOCH_RETIRED else s.copyBank.rtStatus St.OK
      t.answer St.OK 0)) ∧

  (∀ (d : Desc) (s : State),
    let u := d.n 3 % 16
    let b := memBase u
    s.admits d →
    firstFail [ring16 d, runningCheck s d, need (u ≤ 14) St.BAD_PARAM] = (St.OK, 0) →
    exec (.memQuery d) s = .next (
      let s := s.begun 0x58 d
      let r :=
        (s, St.OK, [s.rd (Reg.MEMC_ECC_CORR b), s.rd (Reg.MEMC_ECC_UC b), s.rd (Reg.MEMC_ERR_ADDR_LO b),
        s.rd (Reg.MEMC_ERR_ADDR_HI b), w32 (if u < 6 then Config.rowSpares u - sget s.noc.repairs u 0 else 0)])
      (r.1.slotEnd d.slotId r.2.1 r.2.2).ended d)) ∧

  (∀ (d : Desc) (s : State),
    let u := d.n 3 % 16
    let a := Reg.MEMC_SCRUB_CFG (memBase u)
    s.admits d →
    firstFail [ring16 d, runningCheck s d,
    need (u ≤ 14 && d.n 4 ≤ 604800) St.BAD_PARAM, notExpert s (memBase u / 0x10000)] = (St.OK, 0) →
    exec (.memScrub d) s = .next (
      let s := s.begun 0x59 d
      let r :=
        let s := if d.n 4 = 0 then s.setFld a 31 31 0 else (s.setFld a 31 31 1).setFld a 19 0 (d.n 4)
        let s := if wbit (d.word 5) 0 then s.passNow u else s
        (s, St.OK, [s.rd a])
      (r.1.slotEnd d.slotId r.2.1 r.2.2).ended d)) ∧

  (∀ (d : Desc) (s : State),
    let i := d.n 3 % 256
    s.admits d →
    firstFail [stoppedOrRunning s d, need (i ≤ 239) St.BAD_PARAM,
    need (16 ≤ d.tgt || (i < 128 && s.nibRealm (i / 16) (i % 16) == d.tgt) ||
      (128 ≤ i && i < 144 && s.ferRealm ((i - 128) / 2) (i % 2) == d.tgt)) St.ACCESS_DENIED] = (St.OK, 0) →
    exec (.nocStat d) s = .next (
      let s := s.begun 0x5A d
      let r :=
        let r := (List.range 5).foldl (fun (p : State × List W32) _ => let f := p.1.free1 (2 ^ 32); (f.2, p.2 ++ [w32 f.1])) (s, [])
        (r.1, St.OK, r.2)
      (r.1.slotEnd d.slotId r.2.1 r.2.2).ended d)) ∧

  (∀ (d : Desc) (s : State),
    let n := d.n 3 % 64
    let k := bitsOf (d.n 3) 10 8
    s.admits d →
    firstFail [ring16 d, runningCheck s d,
    need (n < 48 && 1 ≤ k && k ≤ 5 && d.n 4 % 4 ≤ 2 && 1 ≤ d.n 5 && d.n 5 ≤ 1000000 && s.linkState n k ≠ 3) St.BAD_PARAM,
    notExpert s (0x340 + n), need (s.linkState n k ≠ 2 && ! (k = 5 && s.anyDetour)) St.WRONG_STATE,
    need (! s.ringFenced n k) 0x80] = (St.OK, 0) →
    exec (.nocLinkTest d) s = .next (
      let s := s.begun 0x5B d
      let t :=
        let s := s.setNoc { s.noc with tests := s.noc.tests ++ [LinkTest.mk d.slotId n k (s.rd (Reg.NOC_LINK_STAT n k))] }
        let s := s.setFld (Reg.NOC_LINK_STAT n k) 31 30 2
        if k ≤ 4 then s.setBit (Reg.NOC_LINK_STAT n k) 29 else s
      t.ended d)) ∧

  (∀ (site : Fin 48) (link : Fin 6) (flits : W64) (errors : W32) (z : State),
    let s := z
    let n := site.val
    let k := link.val
    ∀ t, s.noc.tests.find? fun t => t.site == n && t.link == k = some t →
    let tested := if errors = 0 then setIns s.noc.tested (8 * n + k) else s.noc.tested
    let s := s.setNoc { s.noc with tests := s.noc.tests.filter (· ≠ t), tested := tested }
    let s := (s.setFld (Reg.NOC_LINK_STAT n k) 31 30 (wfld t.prior 31 30)).setFld (Reg.NOC_LINK_STAT n k) 29 29 (wfld t.prior 29 29)
    let s := (s.wrN (Reg.NOC_TEST_CNT_LO n) flits.toNat).wrN (Reg.NOC_TEST_CNT_HI n) (flits.toNat / 2 ^ 32)
    let s := (s.wr (Reg.NOC_TEST_ERR n) errors).raise 866
    exec (.linkTestEnd site link flits errors) z = .next (s.slotEnd t.slot St.OK [w32 flits.toNat, w32 (flits.toNat / 2 ^ 32), errors])) ∧

  (∀ (d : Desc) (s : State),
    let n := d.n 3 % 64
    s.admits d →
    firstFail [ring16 d, runningCheck s d, need (n < 48) St.BAD_PARAM] = (St.OK, 0) →
    exec (.nocQuery d) s = .next (
      let s := s.begun 0x5C d
      let r :=
        (s, St.OK, s.rd (Reg.NOC_STATUS n) :: ([1, 2, 3, 4, 5].map fun k => s.rd (Reg.NOC_LINK_STAT n k)) ++
        [s.rd Reg.NOCG_EPOCH_CTL, s.rd Reg.NOCG_DRAIN0, s.rd Reg.NOCG_DRAIN1])
      (r.1.slotEnd d.slotId r.2.1 r.2.2).ended d)) ∧

  (∀ (d : Desc) (s : State),
    let n := d.n 3 % 64
    let k := bitsOf (d.n 3) 10 8
    let own := fun (s : State) => [1, 2, 3, 4, 5].filter fun j => s.linkState n j ≠ 3
    s.admits d →
    firstFail [ring16 d, runningCheck s d, need (n < 48 && k ≤ 5) St.BAD_PARAM,
    notExpert s (0x340 + n),
    need (if k = 0 then s.bit (Reg.NOC_STATUS n) 31 && (own s).all (fun j => s.noc.tested.contains (8 * n + j))
          else s.linkState n k == 1 && s.noc.tested.contains (8 * n + k)) St.WRONG_STATE] = (St.OK, 0) →
    exec (.nocLinkRestore d) s = .next (
      let s := s.begun 0x5D d
      let r :=
        let s := if k ≠ 0 then s.restoreLink n k else
          let s := s.showRouter n 0
          (linksTo n).foldl (fun s p => if s.linkState p.1 p.2 = 1 then s.restoreLink p.1 p.2 else s) s
        (s, St.OK, [])
      (r.1.slotEnd d.slotId r.2.1 r.2.2).ended d))

/-- For each of these commands, in every state and with operands that meet the conditions its clause names (for a command:
admitted by its ring and slot, and its checks pass; for a register: open to the requester and held by it; for an event: the
unit is in the state the event presupposes), exec answers the next state that is the effect its rule gives, written out in the
clause. (12_scribe.md, R420, R429) -/
def Obligations.ScribeCommandsComplete : Prop :=
  (∀ (i : Instr) (op : Nat) (j : Job) (s : State) (e : Fin 12) (c : Fin 32) (x : Nat),
    (i = .copy1d j ∧ op = 1) ∨ (i = .copy2d j ∧ op = 2) ∨ (i = .copy3d j ∧ op = 3) ∨ (i = .gather j ∧ op = 4) →
    s.scribeTakes op j e c x →
    let w := s.scribeJob (s.scribeRealm e c) j
    ¬ (w.2.1.writes.isEmpty && w.2.1.status ≠ St.OK && w.2.2 = 0) →
    exec i s = .next (w.1.copyStarts j e c x w.2.1 w.2.2)) ∧

  (∀ (j : Job) (s : State),
    exec (.copy2d j) s = .next (scribeStart 2 j s)) ∧

  (∀ (j : Job) (s : State),
    exec (.copy3d j) s = .next (scribeStart 3 j s)) ∧

  (∀ (j : Job) (s : State),
    exec (.gather j) s = .next (scribeStart 4 j s)) ∧

  (∀ (ready : BitVec 128) (s : State),
    let need_ := fun i => min (s.burst (i / 32) (i % 32)) (sget s.scb.lines i 0)
    let ok := fun i => bitOf ready.toNat i && 0 < need_ i && 256 * need_ i ≤ s.tokens (i / 32) (i % 32)
    ∀ i, ((List.range 128).map fun k => (s.scb.last + 1 + k) % 128).find? ok = some i →
    let b := need_ i
    let s' := s.setScb { s.scb with
      tok := sput s.scb.tok i (s.tokens (i / 32) (i % 32) - 256 * b, s.tbNs 0) (0, 0),
      lines := sput s.scb.lines i (sget s.scb.lines i 0 - b) 0, last := i }
    exec (.burstGrant ready) s = .next (s'.bump (Reg.SCB_CH_PROGRESS (8 + i / 32) (i % 32)) (64 * b))) ∧

  (∀ (e : Fin 12) (c : Fin 32) (z : State),
    let s := z
    let key := scbKey e c
    let left := if e.val < 8 then 0 else sget s.scb.lines (32 * (e.val - 8) + c.val) 0
    sget s.eng key none = none →
    ∀ d, s.ord.demos.find? fun d => d.engine + 8 == e.val && d.chan == c.val = some d →
    ¬ (left ≠ 0) →
    let n := wfld (s.entW d.ent 1) 23 0 * 64
    let s := (s.bump (Reg.SCB_DESCS e) 1).bump (Reg.SCB_BYTES e) ((n + 63) / 64)
    let s := s.setFld (Reg.SCB_CH_CFG e c) 31 31 0
    exec (.scribeDescriptorComplete e c) z = .next (s.demoDone d)) ∧

  (∀ (who : Requester) (e : Fin 12) (c : Fin 32) (value : W32) (s : State),
    s.opens who (Reg.SCB_CH_CTL e c) → s.holds who (Reg.SCB_CH_CTL e c) →
    exec (.chCtlStop who e c value) s = .next (
      let t := s.setFld (Reg.SCB_CH_CTL e c) 31 30 (wfld value 31 30)
      t.answer St.OK 0)) ∧

  (∀ (who : Requester) (e : Fin 12) (r : Fin 16) (mask : BitVec 14) (s : State),
    s.opens who (Reg.SCB_RLM_OWNED e r) →
    exec (.channelClaim who e r mask) s = .next (
      let r :=
        (if e.val < 8 then s else (List.range 14).foldl (fun s c =>
          if bitOf mask.toNat c && ! s.claimed e c then s.setBit (Reg.SCB_RLM_OWNED e r) c else s) s, 0)
      r.1.answer St.OK r.2)) ∧

  (∀ (who : Requester) (e : Fin 12) (r : Fin 16) (mask : BitVec 14) (s : State),
    s.opens who (Reg.SCB_RLM_OWNED e r) →
    exec (.channelRelease who e r mask) s = .next (
      let r :=
        (if e.val < 8 then s else (List.range 14).foldl (fun s c =>
          if ! bitOf mask.toNat c || ! s.bit (Reg.SCB_RLM_OWNED e r) c then s
          else if s.bit (Reg.SCB_CH_CFG e c) 31 then s.setBit (Reg.SCB_STATUS e) 30
          else s.setFld (Reg.SCB_RLM_OWNED e r) c c 0) s, 0)
      r.1.answer St.OK r.2)) ∧

  (∀ (who : Requester) (e : Fin 12) (c : Fin 8) (value : W32) (s : State),
    s.opens who (Reg.SCB_TPL_TCTL e c) → s.holds who (Reg.SCB_TPL_TCTL e c) →
    exec (.tctlCommit who e c value) s = .next (
      let t := s.tctlWrite e c (wsetFld value 31 31 1)
      t.answer St.OK 0)) ∧

  (∀ (who : Requester) (e : Fin 12) (c : Fin 8) (value : W32) (s : State),
    s.opens who (Reg.SCB_TPL_TCTL e c) → s.holds who (Reg.SCB_TPL_TCTL e c) →
    exec (.tctlEnable who e c value) s = .next (
      let t := s.tctlWrite e c value
      t.answer St.OK 0)) ∧

  (∀ (e : Fin 4) (c : Fin 8) (s : State),
    let k := 8 * e.val + c.val
    let b : Fin 12 := ⟨8 + e.val, by omega⟩
    s.scb.starts.contains k → s.bit (Reg.SCB_TPL_TCTL b c) 30 → ¬ s.bit (Reg.SCB_STATUS b) 31 →
    ¬ (sget s.eng (roundKey e c) none).isSome →
    let t := s.setScb { s.scb with starts := s.scb.starts.erase k }
    t.recordAddr b c % 16 = 0 → t.scribeOk (t.scribeRealm b c) (t.recordAddr b c) 16 →
    exec (.timedRoundStart e c) s = .next (
      let w := t.scribeJob (t.scribeRealm b c) (t.tplJob b c)
      let t := { w.1 with eng := sput w.1.eng (roundKey e c) (some w.2.1) none }
      let t := t.setScb { t.scb with lines := sput t.scb.lines (32 * e.val + c.val) w.2.2 0 }
      if t.bit (Reg.SCB_TPL_TCTL b c) 31 then t.tplHandover b c else t)) ∧

  (∀ (e : Fin 4) (c : Fin 8) (z : State),
    let s := z
    let b : Fin 12 := ⟨8 + e.val, by omega⟩
    let ring : RingId := .scribe b ⟨c.val, by omega⟩
    ∀ p, sget s.eng (roundKey e c) none = some p →
    ¬ (p.status = St.OK && sget s.scb.lines (32 * e.val + c.val) 0 ≠ 0) →
    let s := ({ s with eng := sput s.eng (roundKey e c) none none }).landJob p
    let s := s.setScb { s.scb with lines := sdel s.scb.lines (32 * e.val + c.val) }
    let s := s.bump (Reg.SCB_TPL_ROUNDS b c) 1
    let n := s.rdN (Reg.SCB_TPL_ROUNDS b c) % 65536
    let tb := s.ringTb ring
    let res := if p.status = St.OK || hasOffset p.status then p.result else 0
    let det := if hasOffset p.status then p.detail else 0
    let g := cat64 (p.job.word 14) (p.job.word 15)
    let s := if g % 16 ≠ 0 || ! s.scribeOk (s.scribeRealm b c) g 16 then s else
      writeBack (ringBase ring) g (leBytes 4 (s.ts32 tb) ++ leBytes 4 (2 ^ 24 * tb + det * 2 ^ 8 + p.status) ++ leBytes 4 res) s
    let s := if g % 16 ≠ 0 || ! s.scribeOk (s.scribeRealm b c) g 16 then s else
      writeBack (ringBase ring) (g + 12) (leBytes 4 (2 ^ 16 * s.fld (Reg.SCB_TPL_TCOUNTS b c) 31 16 + n)) s
    let s := (s.bump (Reg.SCB_DESCS b) 1).wrN (Reg.SCB_CH_LAST b c) (n * 2 ^ 8 + p.status)
    let s := if p.status = St.OK then s.bump (Reg.SCB_BYTES b) ((p.result + 63) / 64) else s
    exec (.timedRoundComplete e c) z = .next ((s.scbError b c p.status).notifyRing ring))

/-- For each of these commands, in every state and with operands that meet the conditions its clause names (for a command:
admitted by its ring and slot, and its checks pass; for a register: open to the requester and held by it; for an event: the
unit is in the state the event presupposes), exec answers the next state that is the effect its rule gives, written out in the
clause. (13_fronthaul.md, R461, R462, R466) -/
def Obligations.FronthaulCommandsComplete : Prop :=
  (∀ (d : Desc) (s : State),
    let n := d.n 3 % 32
    let v := d.word 4
    s.admits d →
    firstFail [stoppedOrRunning s d, need (portMine s d n) St.ACCESS_DENIED, notExpert s (0x500 + n),
    need (wfld v 29 28 ≠ 3 && 64 ≤ wfld v 13 0 && wfld v 13 0 ≤ 9600 && s.ethLaneOk n (wfld v 27 24) (wfld v 23 22) &&
      (wfld v 27 24 ≠ 0 || ! wbit v 31)) St.BAD_PARAM,
    need (s.ethState n == 0 || (wfld v 29 22 == s.fld (Reg.ETH_CFG n) 29 22)) St.WRONG_STATE] = (St.OK, 0) →
    exec (.ethConfig d) s = .next (
      let s := s.begun 0x60 d
      let r :=
        let s := s.wrN (Reg.ETH_CFG n) (Nat.land v.toNat 0xFFC03FFF)
        let s := s.wrN (Reg.ETH_ECPRI_UDP n) (d.n 5 % 65536)
        let s := (s.wr (Reg.ETH_MAC_LO n) (d.word 6)).wrN (Reg.ETH_MAC_HI n) (d.n 7 % 65536)
        let s := if wbit v 31 then (if s.ethState n = 0 then s.setEth n 1 else s)
          else (s.setFld (Reg.ETH_STATUS n) 29 25 0).setEth n 0
        (s, St.OK, [s.rd (Reg.ETH_STATUS n)])
      (r.1.slotEnd d.slotId r.2.1 r.2.2).ended d)) ∧

  (∀ (port : Fin 32) (s : State),
    ¬ (s.ethState port ≠ 1 || ! s.ethPowered port) →
    let fec := s.fld (Reg.ETH_CFG port) 23 22
    exec (.portLinkUp port) s = .next ((s.setFld (Reg.ETH_STATUS port) 29 25 (16 + (if fec ≠ 0 then 8 else 0))).setEth port 2)) ∧

  (∀ (port : Fin 32) (s : State),
    exec (.portLinkDown port) s = .next (s.ethDown port)) ∧

  (∀ (d : Desc) (s : State),
    let n := d.n 3 % 32
    s.admits d →
    firstFail [stoppedOrRunning s d, need (portMine s d n) St.ACCESS_DENIED] = (St.OK, 0) →
    exec (.ethQuery d) s = .next (
      let s := s.begun 0x61 d
      let r :=
        (s, St.OK, [s.rd (Reg.ETH_STATUS n), s.rd (Reg.ETH_RX_FRAMES n), s.rd (Reg.ETH_RX_BAD n), s.rd (Reg.ETH_TX_FRAMES n),
        s.rd (Reg.ETH_FEC_CORR n), s.rd (Reg.ETH_FEC_UNCORR n), s.rd (Reg.ETH_LINK_DOWN n)])
      (r.1.slotEnd d.slotId r.2.1 r.2.2).ended d)) ∧

  (∀ (d : Desc) (s : State),
    let first := d.n 3 % 16384
    let n := bitsOf (d.n 3) 24 16
    let g := cat64 (d.word 4) (d.word 5)
    let r := dRealm d
    s.admits d →
    firstFail [stoppedOrRunning s d, need (1 ≤ n && n ≤ 256) St.BAD_PARAM,
    need (r == 16 || s.recNum 0x15 r 0xE 2 ≠ 0) St.ACCESS_DENIED, need (s.reachable r g (64 * n)) St.ACCESS_DENIED] = (St.OK, 0) →
    exec (.fhStream d) s = .next (
      let s := s.begun 0x62 d
      let r :=
        let q := s.stWriteAll r g ((List.range n).map (first + ·))
        (q.1, q.2.2.2, [w32 q.2.1, w32 q.2.2.1])
      (r.1.slotEnd d.slotId r.2.1 r.2.2).ended d)) ∧

  (∀ (d : Desc) (s : State),
    let f := d.n 3 % 2
    let g := bitsOf (d.n 3) 13 8
    let grid := bitsOf (d.n 3) 31 24
    let ofs := signed 32 (d.n 4)
    let len := d.n 5
    let c := d.n 6 % 512
    let wake := bitOf (d.n 8) 0
    let a := Reg.FHE_WG_CFG f g
    s.admits d →
    firstFail [runningCheck s d, need (s.engineOk (dRealm d) f) St.ACCESS_DENIED,
    need (d.tgt < 16 && trgMine s d c) St.ACCESS_DENIED, need (! s.bit a 31 || s.fld a 27 24 == d.tgt) St.ACCESS_DENIED,
    notExpert s (0x520 + f), need (s.chState c ≠ cFREE) St.WRONG_STATE,
    need (len = 0 || (ofs.natAbs ≤ 1000000 && 1000 ≤ len && len ≤ 1000000)) St.BAD_PARAM,
    need (len = 0 || (s.gridValid grid && s.gridVisible grid d.tgt)) RUL_GRID_UNBOUND,
    need (len = 0 || 65536 * len ≤ 7 * s.shortSym grid) St.BAD_PARAM,
    need (len = 0 || ! wake || s.targetOf (d.word 7) d.tgt) St.ACCESS_DENIED] = (St.OK, 0) →
    exec (.fhWindow d) s = .next (
      let s := s.begun 0x63 d
      let r :=
        let q := s.fld (Reg.TRG_CH_COUNTS c) 31 16
        let old := s.fld a 8 0
        let s := if s.bit a 31 && (len = 0 || old ≠ c) then s.chDisarm old else s
        if len = 0 then (s.windowFree f g, St.OK, [w32 q]) else
        let cfg := 2 ^ 31 + 2 ^ 30 * bitsOf (d.n 3) 16 16 + 2 ^ 29 * b2n wake + 2 ^ 24 * d.tgt + 2 ^ 16 * grid + c
        let s := s.wrWords a [w32 cfg, d.word 4, d.word 5, d.word 7]
        (s.chArm c (windowSet f g grid (d.word 4)), St.OK, [w32 q])
      (r.1.slotEnd d.slotId r.2.1 r.2.2).ended d)) ∧

  (∀ (d : Desc) (s : State),
    let f := d.n 3 % 2
    let r := dRealm d
    let k : Fin 17 := Fin.ofNat 17 r
    let ring : RingId := if bitOf (d.n 3) 1 then .fhRx (Fin.ofNat 2 f) k else .fhTx (Fin.ofNat 2 f) k
    let b := ringBase ring
    let en := wbit (d.word 6) 31
    s.admits d →
    firstFail [stoppedOrRunning s d, need (s.engineOk r f) St.ACCESS_DENIED, notExpert s (0x520 + f),
    need (! (en && ringEnabled s b)) St.WRONG_STATE,
    need (wfld (d.word 9) 31 30 = 0 || r = 16 || s.targetOf (d.word 10) r) St.ACCESS_DENIED] = (St.OK, 0) →
    exec (.fhRing d) s = .next (
      let s := s.begun 0x64 d
      let r :=
        let s := if en then s else s.ringCfgWrite ring (d.word 6)
        let s := (s.ringBaseWrite ring (d.word 4) (d.word 5)).ringHeadwbWrite ring (d.word 7) (d.word 8)
        let s := s.wrN (Reg.FHE_RING_NOTIFY_CTL f r) (2 ^ 30 * wfld (d.word 9) 31 30)
        let s := s.wr (Reg.FHE_RING_NOTIFY_TGT f r) (d.word 10)
        let s := if en then s.ringCfgWrite ring (d.word 6) else s
        (s, St.OK, [s.rd (b + 8)])
      (r.1.slotEnd d.slotId r.2.1 r.2.2).ended d)) ∧

  (∀ (d : Desc) (s : State),
    let f := d.n 3 % 2
    let t := bitsOf (d.n 3) 13 8
    let g := cat64 (d.word 4) (d.word 5)
    let img := fun (s : State) => s.bytes ((s.localOf g).getD 0) 64
    s.admits d →
    firstFail [stoppedOrRunning s d, need (d.tgt < 16) St.BAD_PARAM,
    need (s.engineOk d.tgt f && s.reachable d.tgt g 64) St.ACCESS_DENIED, notExpert s (0x520 + f), need (hdrOk (img s)) St.BAD_PARAM] = (St.OK, 0) →
    exec (.fhHdr d) s = .next (
      let s := s.begun 0x65 d
      let r := (s.setFh { s.fh with hdr := sput s.fh.hdr ((16 * f + d.tgt) * 64 + t) (img s) [] }, St.OK, [])
      (r.1.slotEnd d.slotId r.2.1 r.2.2).ended d)) ∧

  (∀ (d : Desc) (s : State),
    let p := d.n 3 % 32
    let rx := bitOf (d.n 3) 8
    let sc := bitsOf (d.n 3) 11 9
    let an := bitsOf (d.n 3) 13 12
    let ins := bitOf (d.n 3) 16
    let k := 64 * p + (if rx then 32 + 4 * sc else 0) + an
    let key := d.n 4 % 256
    let pn := cat64 (d.word 5) (d.word 6)
    s.admits d →
    firstFail [stoppedOrRunning s d, need (portMine s d p) St.ACCESS_DENIED, notExpert s (0x500 + p),
    need (! ins || s.keyMine (dRealm d) key) St.ACCESS_DENIED,
    need ((rx || sc = 0) && (! ins || pn ≠ 0)) St.BAD_PARAM,
    need (! ins || (match sget s.chp.keys key none with
      | some x => x.typ == 1
      | none => false)) St.BAD_PARAM,
    need (rx || (s.macSa k).isNone || s.fld (Reg.ETH_MSEC_CFG p) 23 22 ≠ an) St.WRONG_STATE] = (St.OK, 0) →
    exec (.macsecSa d) s = .next (
      let s := s.begun 0x66 d
      let r :=
        let sa := { key := key, pn := pn, salt := [d.n 7, d.n 8, d.n 9], ssci := d.n 10, sci := cat64 (d.word 11) (d.word 12),
                    warned := false : MacSa }
        (s.setMacSa k (if ins then some sa else none), St.OK, [])
      (r.1.slotEnd d.slotId r.2.1 r.2.2).ended d)) ∧

  (∀ (d : Desc) (s : State),
    let n := d.n 3 % 32
    let tx := signed 32 (d.n 4)
    let rx := signed 32 (d.n 5)
    s.admits d →
    firstFail [stoppedOrRunning s d, need (portMine s d n) St.ACCESS_DENIED, notExpert s (0x500 + n),
    need (calUserOk 1 tx && calUserOk 2 rx) St.BAD_PARAM] = (St.OK, 0) →
    exec (.ethCal d) s = .next (
      let s := s.begun 0x67 d
      let r :=
        let s := (s.calSet 1 n tx).calSet 2 n rx
        (s, St.OK, [w32 (unsigned 32 (s.calEff 1 n)), w32 (unsigned 32 (s.calEff 2 n))])
      (r.1.slotEnd d.slotId r.2.1 r.2.2).ended d)) ∧

  (∀ (port : Fin 32) (frame : List Byte) (fcsOk : Bool) (msec : Fin 4) (s : State),
    let p := port.val
    ¬ (s.ethState p ≠ 2 || ! s.domUp 52) →
    ∀ ms, s.uPlane p frame = some ms →
    let r := s.rxAccept p frame fcsOk
    ¬ (! r.2) →
    let r := r.1.msecRx p frame msec
    ¬ (! r.2) →
    exec (.uPlaneIngress port frame fcsOk msec) s = .next (ms.foldl (fun s m => match s.uEntry p frame m.1 with
      | some i => if m.2 = 0 then s.stCount i 14 1 else s.uMessage p i ((frame.drop m.1).take (4 + m.2))
      | none => s.bumpSat (Reg.FHE_RX_UNMATCHED (portEngine p)) 31 0 1) r.1)) ∧

  (∀ (f : Fin 2) (g : Fin 64) (s : State) (w : FhWin),
    (s.fh.wins.find? fun w => w.grp == 64 * f.val + g.val && ! w.closed && decide (w.hi < s.nowInst w.tb)) = some w →
    exec (.windowClose f g) s = .next (s.windowClose w)) ∧

  (∀ (port : Fin 32) (frame : List Byte) (fcsOk : Bool) (msec : Fin 4) (z : State),
    let p := port.val
    ¬ (z.ethState p ≠ 2 || ! z.domUp 52 || (z.uPlane p frame).isSome) →
    let r := z.rxAccept p frame fcsOk
    r.2 →
    let m := r.1.msecRx p frame msec
    m.2 →
    let s := m.1
    let f := portEngine p
    let cls := s.rxClass p frame
    let own := s.ethOwner p
    let s := if cls = 4 then s.bumpSat (Reg.FHE_RX_UNMATCHED f) 31 0 1 else s
    let realm := if cls < 2 then 16 else own
    let tb := match ptpAt frame with
      | some o => s.ptpTb p frame o
      | none => s.defaultTb own
    let d := s.rxDeliver f (.fhRx (Fin.ofNat 2 f) (Fin.ofNat 17 realm)) realm p cls (ts80Of (s.rxStamp p tb) tb) frame 64
    d.2 →
    exec (.frameIngress port frame fcsOk msec) z = .next d.1) ∧

  (∀ (j : Job) (room : BitVec 16) (f r : Nat) (s : State),
    txRing j.ring = some (f, r) → bitsOf (j.n 0) 23 16 = 1 → s.ringReady j.ring → s.domUp 52 →
    let first := j.n 6 % 512
    let cnt := bitsOf (j.n 6) 17 9
    let size := fun i => if stPass (s.stW i 1) then prbBytes (stMeth (s.stW i 1)) (stWidth (s.stW i 1)) else 48
    let c := s.txCheck f r j [0xC0FFFFFF, 0xBF00FFFF, 0xFFFFFFFF, 0xFFFFFFFF, 0x3FFF, 0xFFFFFC00, 0x3FFFFFFF] false
      (fun i => cnt * size i)
    let i := j.n 4 % 16384
    let p := stPort (s.stKey i)
    let w2 := s.stW i 2
    let h := s.hdrTpl f (s.stRealm i) (stHdr (s.stW i 1))
    let per := min (s.framePrbs p i h) (if s.framePrbs p i h < cnt || cnt ≠ stNprb w2 then 255 else cnt)
    c.1 = St.OK →
    ¬ (cnt = 0 || 273 < cnt || first < stStart w2 || stStart w2 + stNprb w2 < first + cnt || per = 0) →
    (s.txWindow f c.2.1 (c.2.2.2.getD 0)).1 = 1 → s.txFirst f r p →
    exec (.uTx j room) s = .next (
      let src := s.gbytes (jIn j) (cnt * size i)
      let w1 := s.stW i 1
      let packed := (pieces (size i) cnt src).map fun b =>
        if stPass w1 then (b, 0) else prbPack (stMeth w1) (stWidth w1) (stMcd (s.stW i 3)) (bytesComp b)
      let q := s.uSend p i c.2.2.1 (j.n 5) (bitsOf (j.n 6) 29 18) per h room.toNat first (packed.map (·.1)) 0
      let res := [q.2 % 65536 + 65536 * (packed.foldl (fun n x => n + x.2) 0 % 65536)]
      if q.2 = (cnt + per - 1) / per then q.1.fhDone j.ring f r St.OK 13 res
      else (q.1.stCount i 12 1).fhDone j.ring f r St.LATE 13 res)) ∧

  (∀ (j : Job) (f r : Nat) (s : State),
    txRing j.ring = some (f, r) → bitsOf (j.n 0) 23 16 = 2 → s.ringReady j.ring → s.domUp 52 →
    let len := j.n 6 % 16384
    let c := s.txCheck f r j [0xC0FFFFFF, 0xBF00FFFF, 0xFFFFFFFF, 0xFFFFFFFF, 0x3FFF, 0xFFFFFC00, 0x3FFF] true (fun _ => len)
    let i := j.n 4 % 16384
    let p := stPort (s.stKey i)
    let h := s.hdrTpl f (s.stRealm i) (stHdr (s.stW i 1))
    let msg := s.gbytes (jIn j) len
    c.1 = St.OK →
    ¬ (len < 8 || 9500 < len || ! [0, 1, 3, 5, 6].contains (fb msg 5) || s.fld (Reg.ETH_CFG p) 13 0 < wrapLen h + 12 + len) →
    (s.txWindow f c.2.1 (c.2.2.2.getD 0)).1 = 1 → s.txFirst f r p →
    exec (.cTx j true) s = .next (
      let seq := (s.stW i 10 % 256 + 1) % 256
      let body := msg.take 1 ++ s.radioTime c.2.2.1 (j.n 5) ++ msg.drop 4
      let fr := wrapFrame h (ecpriHdr 2 (beBytes 2 (s.stKey i % 65536) ++ [BitVec.ofNat 8 seq, 0x80] ++ body))
      ((s.sendFrame p fr).txCount i).fhDone j.ring f r St.OK 13 [1])) ∧

  (∀ (j : Job) (f r : Nat) (s : State),
    txRing j.ring = some (f, r) → bitsOf (j.n 0) 23 16 = 3 → s.ringReady j.ring → s.domUp 52 →
    let p := j.n 4 % 32
    let len := j.n 6 % 16384
    let mode := j.n 7 % 4
    let o := bitsOf (j.n 7) 15 4
    let full := 0xFFFFFFFF
    let ts := if mode = 3 then full else 0
    wordsOk j [0xC0FFFFFF, 0xBF00FFFF, full, full, 0x1F, 0, 0x3FFF, 0x7FFF3, ts, ts, ts, full, full] →
    ¬ (r < 16 && ! s.portBit r 8 4 p) →
    ¬ (portEngine p ≠ f || len < 60 || s.fld (Reg.ETH_CFG p) 13 0 < len + 4 || (mode = 2 && len < o + 10) || (mode = 3 && len < o + 8)) →
    s.fhRange r (jIn j) len → ¬ bitOf (j.n 1) 31 → s.ethState p = 2 → s.fhReadSt (jIn j) len = St.OK →
    exec (.frameTx j) s = .next (
      let fr := s.gbytes (jIn j) len
      let tb := match ptpAt fr with
        | some q => if fb fr q % 16 < 4 then s.ptpTb p fr q else bitsOf (j.n 7) 18 16
        | none => bitsOf (j.n 7) 18 16
      let t := (s.txStamp p tb / 65536).toNat
      let ing := (j.n 8 : Int) + 10 ^ 9 * ((j.n 9 + 2 ^ 32 * bitsOf (j.n 10) 15 0 : Nat) : Int)
      let new := match mode with
        | 2 => patch fr o (beBytes 6 (t / 10 ^ 9) ++ beBytes 4 (t % 10 ^ 9))
        | 3 =>
          let v := signed 64 (leNat ((fr.drop o).take 8).reverse) + 65536 * ((t : Int) - ing)
          patch fr o (beBytes 8 (unsigned 64 v))
        | _ => fr
      let s := s.sendFrame p (if 2 ≤ mode then fixUdp fr new else fr)
      s.fhDone j.ring f r St.OK 11 (if mode = 0 then [] else (ts80 t tb).map (·.toNat)))) ∧

  (∀ (j : Job) (s : State),
    ∀ f r, j.ring = .fhRx f r →
    ¬ (! s.ringReady j.ring) →
    let st := s.rxBuf j.ring r j.n
    ¬ (st = St.OK) →
    exec (.rxBuf j) s = .next (s.fhDone j.ring f r st 7 [])) ∧

  (∀ (f : Fin 2) (idx : Fin 16384) (z : State),
    let s := z
    let s := s.setStW idx 0 (s.stW idx 0 % 2 ^ 31)
    exec (.streamTableError f idx) z = .next ((s.setBit (Reg.FHE_STATUS f) 31).raise (746 + f))) ∧

  (∀ (who : Requester) (f : Fin 2) (s : State),
    s.opens who (Reg.FHE_ST_ACC f) → s.holds who (Reg.FHE_ST_ACC f) →
    exec (.stAccRead who f) s = .next (
      let t :=
        let i := s.fld (Reg.FHE_ST_IDX f) 13 0
        (s.wrWords (Reg.FHE_ST_DATA f 0) ((List.range 16).map fun w => w32 (s.stW i w))).setFld (Reg.FHE_ST_ACC f) 7 0 St.OK
      t.answer St.OK 0)) ∧

  (∀ (who : Requester) (f : Fin 2) (s : State),
    s.opens who (Reg.FHE_ST_ACC f) → s.holds who (Reg.FHE_ST_ACC f) →
    exec (.stAccWrite who f) s = .next (
      let t :=
        let i := s.fld (Reg.FHE_ST_IDX f) 13 0
        let w := fun k => s.rdN (Reg.FHE_ST_DATA f k)
        let st := s.stCheck 16 i w
        let s := s.setFld (Reg.FHE_ST_ACC f) 7 0 st
        if st = St.OK then s.stWrite i w else s.setBit (Reg.FHE_STATUS f) 30
      t.answer St.OK 0))

/-- For each of these commands, in every state and with operands that meet the conditions its clause names (for a command:
admitted by its ring and slot, and its checks pass; for a register: open to the requester and held by it; for an event: the
unit is in the state the event presupposes), exec answers the next state that is the effect its rule gives, written out in the
clause. (14_radio_direct.md, R474, R481, R485, R488) -/
def Obligations.RadioCommandsComplete : Prop :=
  (∀ (d : Desc) (s : State),
    let k := d.n 3 % 4
    let rx := bitOf (d.n 3) 2
    let m := bitsOf (d.n 3) 3 3
    let c0 := d.n 4
    let c1 := d.n 5
    let c := linkCfg c0 c1
    let on := bitOf c0 31
    let r := dRealm d
    let lanes := fun (x : LinkCfg) (i : Nat) => x.lane ≤ i && i < x.lane + x.l
    s.admits d →
    let os := s.otherLinks k rx m
    let same := os.filter fun x => x.2.1 == rx
    let load := same.foldl (fun t x => t + (s.link x.1 rx x.2.2).m / 2 * (s.link x.1 rx x.2.2).fs) 0
    firstFail [stoppedOrRunning s d, need (s.linkMine r k rx c) St.ACCESS_DENIED, quadFree s k,
      need (linkOk c0 c1 rx && os.all fun x => x.1 ≠ k || ((s.link k x.2.1 x.2.2).laneRate == c.laneRate &&
        (x.2.1 != rx || (List.range 4).all fun i => ! (lanes c i && lanes (s.link k rx x.2.2) i)))) St.BAD_PARAM,
      need (s.jesState k rx m = 0 || (c0 % 2 ^ 31 == s.rdN (jCfg0 k rx m) % 2 ^ 31 && c1 == s.rdN (jCfg1 k rx m))) St.WRONG_STATE,
      (if on && (load + c.m / 2 * c.fs > 7864320 || same.any fun x => (List.range 32).any fun st =>
          c.carries st && (s.link x.1 rx x.2.2).carries st) then (St.NO_RESOURCE, 5) else (St.OK, 0))] = (St.OK, 0) →
    exec (.jesLink d) s = .next (
      let s := s.begun 0x68 d
      let r :=
        let up := s.jesState k rx m = 2
        let s := if on then s else if up then (s.linkMute k rx m).linkStop k rx m else s.linkStop k rx m
        let s := ((s.wrN (jCfg0 k rx m) c0).wrN (jCfg1 k rx m) c1).showLoad
        let s := if on then (if s.jesState k rx m = 0 then s.setJes k rx m 1 else s)
          else (s.setFld (jStat k rx m) 29 0 0).setJes k rx m 0
        (s, St.OK, [s.rd (jStat k rx m)])
      (r.1.slotEnd d.slotId r.2.1 r.2.2).ended d)) ∧

  (∀ (k : Fin 4) (rx : Bool) (m : Fin 2) (z : State),
    let s := z
    ¬ (s.jesState k rx m ≠ 1 || ! s.domUp 53 || ! s.bit (Reg.JES_SYSREF_STAT k) 31) →
    let c := s.link k rx m
    let most := 400 * c.fs / 1000000 + (if rx then 0 else 96)
    let s := (s.setFld (jStat k rx m) 3 0 (2 ^ c.l - 1)).setFld (jStat k rx m) 29 29 0
    let s := s.wrN (jLat k rx m) (Config.jesLat rx (s.rdN (jCfg0 k rx m) % 2 ^ 31) (s.rdN (jCfg1 k rx m)) % (most + 1))
    exec (.jesLinkUp k rx m) z = .next (s.setJes k rx m 2)) ∧

  (∀ (k : Fin 4) (rx : Bool) (m : Fin 2) (cause : Fin 3) (lane : Fin 4) (z : State),
    let s := z
    ¬ (s.jesState k rx m ≠ 2) →
    let s := match cause.val with
      | 0 => if lane.val < (s.link k rx m).l then s.setFld (jStat k rx m) lane lane 0 else s
      | 1 => s.bump (Reg.JES_CRC_ERR k) 16
      | _ => if rx then s.setBit (jStat k rx m) 29 else s
    exec (.jesLinkLoss k rx m cause lane) z = .next ((s.setJes k rx m 1).linkMute k rx m)) ∧

  (∀ (k : Fin 4) (rx : Bool) (m : Fin 2) (s : State) (w : Nat × Int × Nat) (ref : Int),
    let key := 4 * k.val + 2 * b2n rx + m.val
    (s.rad.starts.find? fun x => x.1 == key) = some w → sget s.rad.lemc k none = some ref → s.jesState k rx m = 2 →
    let rest := s.rad.starts.erase w
    let c := s.link k rx m
    let now := s.nowInst (s.sysTb k)
    let t := w.2.1 + (now - s.nowInst w.2.2)
    let j := c.edgeAfter ref t
    ¬ (c.offEdge ref t ≤ 2 * 65536) → ¬ (c.edge ref j > now) →
    exec (.converterStart k rx m) s = .next ((s.setRad { s.rad with starts := rest }).startEdge k rx m (c.edge ref j))) ∧

  (∀ (d : Desc) (s : State),
    let k := d.n 3 % 4
    s.admits d →
    firstFail [stoppedOrRunning s d,
    need (d.ring.val = 16 || (List.range 4).any fun i => s.portBit d.tgt 0x10 2 (4 * k + i) || s.portBit d.tgt 0x12 2 (4 * k + i))
      St.ACCESS_DENIED] = (St.OK, 0) →
    exec (.jesQuery d) s = .next (
      let s := s.begun 0x69 d
      let r :=
        (s, St.OK, [s.rd (Reg.JES_STATUS k), s.rd (Reg.JES_TX_STAT k 0), s.rd (Reg.JES_TX_STAT k 1), s.rd (Reg.JES_RX_STAT k 0),
        s.rd (Reg.JES_RX_STAT k 1), s.rd (Reg.JES_SYSREF_STAT k), s.rd (Reg.JES_START_TS k)])
      (r.1.slotEnd d.slotId r.2.1 r.2.2).ended d)) ∧

  (∀ (d : Desc) (s : State),
    let c := d.n 3 % 64
    let cfg := d.n 4
    let ring := cat64 (d.word 8) (d.word 9)
    let len := d.n 10
    let g := cat64 (d.word 11) (d.word 12)
    let taps := d.n 13 % 256
    let r := dRealm d
    let rx := bitOf cfg 0
    let st := bitsOf cfg 5 1
    s.admits d →
    let others := (List.range 64).filter fun x => x ≠ c && (s.path x).any fun p => ! p.rx && p.stream == st
    firstFail [stoppedOrRunning s d, need ((s.path c).all fun p => r == 16 || p.realm == r || p.realm == 16) St.ACCESS_DENIED,
      need (s.streamMine r rx st) St.ACCESS_DENIED, notExpert s 0x540, need (s.pathState c == 0) St.WRONG_STATE,
      need (Nat.land cfg (2 ^ 32 - 1 - 0x33F) = 0 && taps ≤ 128 && 1 ≤ len && (rx || others.length < 4)) St.BAD_PARAM,
      need (s.fhRange r ring (4 * len) && (taps = 0 || s.reachable r g (2 * taps))) St.ACCESS_DENIED] = (St.OK, 0) →
    exec (.dfePath d) s = .next (
      let s := s.begun 0x6A d
      let r :=
        let co := bytesComp (s.gbytes g (2 * taps))
        let p := { cfg := cfg, nco := cat64 (d.word 5) (d.word 6), gain := d.n 7 % 65536, ring := (s.localOf ring).getD 0, len := len,
                   taps := co, realm := r : DfePath }
        (s.setRad { s.rad with paths := sput s.rad.paths c (some p) none }, St.OK, [])
      (r.1.slotEnd d.slotId r.2.1 r.2.2).ended d)) ∧

  (∀ (d : Desc) (s : State),
    let c := d.n 3 % 64
    ¬ (d.n 4 % 4 = 2 || d.n 4 % 4 = 3) →
    exec (.dfePathCtlArm d) s = .next (pathCtl d (fun s => firstFail [need (d.n 4 % 4 = 1) St.BAD_PARAM,
      need ((s.pathLink c).any fun x => s.jesState x.2.1 x.1 x.2.2 == 2) JES_LINK_DOWN]) (fun s => s.setPathState c 1) s)) ∧

  (∀ (d : Desc) (s : State),
    ¬ (d.n 4 % 4 ≠ 2) →
    exec (.dfePathCtlStop d) s = .next (pathCtl d (fun _ => (St.OK, 0)) (fun s => s.setPathState (d.n 3 % 64) 0) s)) ∧

  (∀ (d : Desc) (s : State),
    let c := d.n 3 % 64
    ¬ (d.n 4 % 4 ≠ 3) →
    exec (.dfePathCtlCommit d) s = .next (pathCtl d (fun _ => (St.OK, 0)) (fun s =>
      ((s.wrWords (Reg.DFE_PATH_SH_NCO_LO c) [d.word 5, d.word 6]).wrN (Reg.DFE_PATH_SH_GAIN c) (d.n 7 % 65536)).setBit (Reg.DFE_PATH_CTL c) 31) s)) ∧

  (∀ (d : Desc) (s : State),
    let st := d.n 3 % 32
    let it := bitsOf (d.n 4) 18 16
    s.admits d →
    firstFail [runningCheck s d, need (s.streamMine (dRealm d) false st) St.ACCESS_DENIED, notExpert s 0x540,
    need (1 ≤ it && it ≤ 4) St.BAD_PARAM] = (St.OK, 0) →
    exec (.dfeCfr d) s = .next (
      let s := s.begun 0x6C d
      let r := (s.setRad { s.rad with cfr := sput s.rad.cfr st (d.n 4 % 2 ^ 19) 0 }, St.OK, [])
      (r.1.slotEnd d.slotId r.2.1 r.2.2).ended d)) ∧

  (∀ (d : Desc) (s : State),
    let st := d.n 3 % 32
    let g := cat64 (d.word 5) (d.word 6)
    s.admits d →
    firstFail [runningCheck s d, need (s.streamMine (dRealm d) false st) St.ACCESS_DENIED, notExpert s 0x540,
    need (Nat.land (d.n 4) 0xFF0000FE = 0 && bitsOf (d.n 4) 23 16 ≠ 0) St.BAD_PARAM, need (s.reachable (dRealm d) g 64) St.ACCESS_DENIED] = (St.OK, 0) →
    exec (.dfeMask d) s = .next (
      let s := s.begun 0x6D d
      let r :=
        let x := { cfg := d.n 4, bands := s.gbytes g 64, frames := 0, sums := List.replicate 8 0, high := List.replicate 8 0 : MaskSt }
        (s.setRad { s.rad with masks := sput s.rad.masks st x MaskSt.init }, St.OK, [])
      (r.1.slotEnd d.slotId r.2.1 r.2.2).ended d)) ∧

  (∀ (c : Fin 64) (s : State),
    let ahead := signed 32 ((s.rdN (Reg.DFE_PATH_WR_IDX c) + 2 ^ 32 - s.rdN (Reg.DFE_PATH_PROD c)) % 2 ^ 32)
    ¬ (s.pathState c ≠ 2 || ! (s.path c).any (fun p => ! p.rx) || ahead > 0) →
    exec (.pathUnderrun c) s = .next ((s.bumpSat (Reg.DFE_PATH_UNDERRUN c) 31 0 1).raise 789)) ∧

  (∀ (c : Fin 64) (s : State),
    let level := (s.rdN (Reg.DFE_PATH_PROD c) + 2 ^ 32 - s.rdN (Reg.DFE_PATH_RD_IDX c)) % 2 ^ 32
    ¬ (s.pathState c ≠ 2 || ! (s.path c).any (fun p => p.rx && p.len < level)) →
    exec (.pathOverrun c) s = .next (s.bumpSat (Reg.DFE_PATH_UNDERRUN c) 31 0 1)) ∧

  (∀ (st : Fin 32) (power : Vector (BitVec 16) 8) (z : State),
    let s := z
    let x := sget s.rad.masks st MaskSt.init
    ¬ (x.bands.isEmpty) →
    let bound := (List.range 16).filter fun p => (s.paSt p).bound && s.fld (Reg.DFE_PA_STAT p) 20 16 = st.val
    ¬ (bound.any fun p => s.paState p ≠ 2) →
    let pw := power.toList.map fun v => signed 16 v.toNat
    let sums := (List.range 8).map fun b => x.sums.getD b 0 + pw.getD b 0
    let navg := bitsOf x.cfg 15 8 + 1
    let set := fun (s : State) (y : MaskSt) => s.setRad { s.rad with masks := sput s.rad.masks st y MaskSt.init }
    ¬ (x.frames + 1 < navg) →
    let above := fun b => (x.band b).1 ≠ 0 && decide ((x.band b).2 * (navg : Int) < sums.getD b 0)
    let high := (List.range 8).map fun b => if above b then x.high.getD b 0 + 1 else 0
    let cnt := bitsOf x.cfg 23 16
    let hit := (List.range 8).filter fun b => cnt ≤ high.getD b 0
    let y := { x with frames := 0, sums := List.replicate 8 0, high := (List.range 8).map fun b => if hit.contains b then 0 else high.getD b 0 }
    let s := set s y
    ¬ (hit.isEmpty) →
    let s := (hit.foldl (fun s b => s.setBit (Reg.DFE_STREAM_MASK_STAT st) b) (s.setBit (Reg.DFE_STREAM_MASK_STAT st) 31)).raise 785
    exec (.maskMonitorFrame st power) z = .next (if bitOf x.cfg 0 then s.muteStreams (· == st.val) else s)) ∧

  (∀ (st : Fin 32) (clipped : BitVec 16) (z : State),
    let s := z
    ¬ (sget s.rad.cfr st 0 % 65536 = 0) →
    let n := clipped.toNat
    let s := s.bumpSat (Reg.DFE_STREAM_PEAKS st) 31 0 n
    exec (.cfrPeakInterval st clipped) z = .next (if s.rdN (Reg.DFE_STREAM_PEAK_LIM st) < n then s.raise 788 else s)) ∧

  (∀ (d : Desc) (s : State),
    let p := d.n 3 % 16
    let g := cat64 (d.word 4) (d.word 5)
    let ws := fun (s : State) => (List.range 8).map fun i => leNat (s.gbytes (g + 8 * i) 8)
    s.admits d →
    firstFail [stoppedOrRunning s d, need (paMine s d p) St.ACCESS_DENIED, notExpert s 0x540,
    need (s.paState p == 0 || s.paState p == 4) St.WRONG_STATE, need (s.reachable (dRealm d) g 64) St.ACCESS_DENIED,
    need ((ws s).all paStepOk) St.BAD_PARAM] = (St.OK, 0) →
    exec (.paProgram d) s = .next (
      let s := s.begun 0x6E d
      let r :=
        let x := s.paSt p
        let s := s.setPa p { x with progs := sput x.progs (bitsOf (d.n 3) 5 4) (ws s) [], bound := true }
        (s.setFld (Reg.DFE_PA_STAT p) 20 16 (bitsOf (d.n 3) 12 8), St.OK, [])
      (r.1.slotEnd d.slotId r.2.1 r.2.2).ended d)) ∧

  (∀ (d : Desc) (s : State),
    let p := d.n 3 % 16
    let k := d.n 4 % 8
    ¬ (2 ≤ k && k ≤ 5) →
    exec (.paReqUp d) s = .next (paCmd d (fun s => runningCheck s d) (fun s => firstFail [need (k = 1) St.BAD_PARAM, need (s.paState p ≠ 4) PA_MUTED])
      (fun s => s.paReq p 0) s)) ∧

  (∀ (d : Desc) (s : State),
    ¬ (d.n 4 % 8 ≠ 2) →
    exec (.paReqDown d) s = .next (paCmd d (fun s => runningCheck s d) (fun _ => (St.OK, 0)) (fun s => s.paReq (d.n 3 % 16) 1) s)) ∧

  (∀ (d : Desc) (s : State),
    ¬ (d.n 4 % 8 ≠ 3) →
    exec (.paReqMute d) s = .next (paCmd d (fun s => runningCheck s d) (fun _ => (St.OK, 0)) (fun s => s.paReq (d.n 3 % 16) 2) s)) ∧

  (∀ (d : Desc) (s : State),
    ¬ (d.n 4 % 8 ≠ 4) →
    exec (.paReqTest d) s = .next (paCmd d (fun s => runningCheck s d) (fun s => need (s.paState (d.n 3 % 16) == 0) St.WRONG_STATE)
      (fun s => s.paReq (d.n 3 % 16) 3) s)) ∧

  (∀ (d : Desc) (s : State),
    let p := d.n 3 % 16
    ¬ (d.n 4 % 8 ≠ 5) →
    exec (.paReqClear d) s = .next (paCmd d (fun s => stoppedOrRunning s d) (fun _ => (St.OK, 0))
      (fun s => if s.paState p = 4 && ! s.bit (Reg.DFE_PA_STAT p) 28 then s.setPaState p 0 else s) s)) ∧

  (∀ (p : Fin 16) (s : State),
    exec (.paProgramEnd p) s = .next (s.paEnd p)) ∧

  (∀ (p : Fin 16) (low : Bool) (z : State),
    let s := z
    let s := s.setFld (Reg.DFE_PA_STAT p) 28 28 (b2n low)
    exec (.paFault p low) z = .next (if low then s.paReq p 2 else s)) ∧

  (∀ (s : State), exec (.sysrefEdge) s = .next ((List.range 4).foldl State.sysref s))

/-- For each of these commands, in every state and with operands that meet the conditions its clause names (for a command:
admitted by its ring and slot, and its checks pass; for a register: open to the requester and held by it; for an event: the
unit is in the state the event presupposes), exec answers the next state that is the effect its rule gives, written out in the
clause. (15_yilkulink.md, R495, R498, R509) -/
def Obligations.FabricCommandsComplete : Prop :=
  (∀ (who : Requester) (f : Fin 16) (s : State),
    s.opens who (Reg.FER_CTL f) → s.holds who (Reg.FER_CTL f) →
    exec (.ferCtlAbort who f) s = .next (
      let t := s.ferAbort f
      t.answer St.OK 0)) ∧

  (∀ (nib : Fin 128) (s : State),
    let x := s.nibSt nib
    ¬ (! x.frozen || x.line.isSome) →
    let f := s.free1 (2 ^ 16)
    exec (.responseArrival nib) s = .next ((f.2.nibTime nib 0 f.1).nibRetry nib)) ∧

  (∀ (d : Desc) (s : State),
    s.admits d →
    stoppedOrRunning s d = (St.OK, 0) →
    exec (.fabQuery d) s = .next (
      let s := s.begun 0x70 d
      let r :=
        let m := (List.range 64).foldl (fun m v => if s.bit (Reg.YLK_PEER_W0 0 v) 31 then m + 2 ^ v else m) 0
        (s, St.OK, [s.rd (Reg.YLK_FAB_STATUS 0), w32 m, w32 (m / 2 ^ 32)] ++ (List.range 4).map fun p => s.rd (Reg.YLK_STATUS p))
      (r.1.slotEnd d.slotId r.2.1 r.2.2).ended d)) ∧

  (∀ (d : Desc) (s : State),
    let p := d.n 3 % 4
    let v := d.n 4
    s.admits d →
    firstFail [runningCheck s d, only16 d, notExpert s (0x550 + p), need (bitsOf v 29 0 = 0) St.BAD_PARAM,
    need (s.ylkState p = 0 || bitOf v 30 == s.bit (Reg.YLK_CFG p) 30) St.WRONG_STATE] = (St.OK, 0) →
    exec (.fabPort d) s = .next (
      let s := s.begun 0x71 d
      let r :=
        let s := s.wrN (Reg.YLK_CFG p) v
        let s := if bitOf v 31 then (if s.ylkState p = 0 then s.setPort p (if s.bit (Reg.YLK_FAB_STATUS 0) 30 then 3 else 1) else s)
          else
            let up := s.ylkState p = 2
            let s := (((s.testDrop p).portClear p).setFld (Reg.YLK_STATUS p) 27 26 0).setPort p 0
            if up then s.reroute else s
        (s, St.OK, [s.rd (Reg.YLK_STATUS p)])
      (r.1.slotEnd d.slotId r.2.1 r.2.2).ended d)) ∧

  (∀ (d : Desc) (s : State),
    let b := d.n 3 % 8
    let sec := 2 ^ 32 * (d.n 6 % 2 ^ 16) + d.n 5
    let ns := d.n 4
    s.admits d →
    firstFail [runningCheck s d, only16 d,
    need (ns < 10 ^ 9 && s.tbNs b + 200000 ≤ 10 ^ 9 * sec + ns) St.BAD_PARAM] = (St.OK, 0) →
    exec (.fabSnap d) s = .next (
      let s := s.begun 0x72 d
      let t :=
        let peers := (List.range 64).filter fun v => s.bit (Reg.YLK_PEER_W0 0 v) 31
        let own := s.snapArm b sec ns
        let asked := if own.isSome then setIns peers ((s.selfId).getD 0) else peers
        let s := own.getD s
        let q := FabSnap.mk d.slotId asked (s.tbNs 0)
        s.setYlk { s.ylk with snaps := s.ylk.snaps ++ [q] }
      t.ended d)) ∧

  (∀ (tb : Fin 8) (sec : BitVec 48) (ns : W32) (s : State),
    exec (.fabSnapArmRequest tb sec ns) s = .next (match s.snapArm tb sec.toNat ns.toNat with
      | some s => { s with resp := { status := St.OK, data := 0 } }
      | none => { s with resp := { status := St.WRONG_STATE, data := 0 } })) ∧

  (∀ (armed answered : W64) (z : State),
    let s := z
    ∀ q rest, s.ylk.snaps = q :: rest →
    let s := s.setYlk { s.ylk with snaps := rest }
    let self := s.selfId.getD 0
    let m := q.asked.foldl (fun m v => if v = self || (bitOf armed.toNat v && bitOf answered.toNat v) then m + 2 ^ v else m) 0
    let s := if q.asked.any fun v => v ≠ self && ! bitOf answered.toNat v then s.raise 812 else s
    exec (.fabSnapAnswersComplete armed answered) z = .next (s.slotEnd q.slot St.OK [w32 m, w32 (m / 2 ^ 32)])) ∧

  (∀ (d : Desc) (s : State),
    let p := d.n 3 % 4
    s.admits d →
    firstFail [runningCheck s d, only16 d, notExpert s (0x550 + p),
    need (d.n 4 % 4 ≠ 3 && 1 ≤ d.n 5 && d.n 5 ≤ 1000000) St.BAD_PARAM, need (s.ylkState p = 2) St.WRONG_STATE,
    need ((List.range 64).all fun v => ! s.bit (Reg.YLK_PEER_W0 0 v) 31 || (s.fabRoute p v).isSome) YLK_SOLE_PATH] = (St.OK, 0) →
    exec (.fabLinkTest d) s = .next (
      let s := s.begun 0x73 d
      let t :=
        let s := s.setYlk { s.ylk with tests := sput s.ylk.tests p (some d.slotId) none }
        (s.setPort p 1).reroute
      t.ended d)) ∧

  (∀ (p : Fin 4) (bits : W64) (errors : W32) (z : State),
    let s := z
    ∀ k, sget s.ylk.tests p none = some k →
    let s := s.setYlk { s.ylk with tests := sput s.ylk.tests p none none }
    let s := (s.setPort p 2).reroute
    exec (.fabLinkTestEnd p bits errors) z = .next ((s.raise (808 + p)).slotEnd k St.OK [w32 bits.toNat, w32 (bits.toNat / 2 ^ 32), errors])) ∧

  (∀ (d : Desc) (s : State),
    s.admits d →
    firstFail [stoppedOrRunning s d, need (d.n 3 < 64) St.BAD_PARAM] = (St.OK, 0) →
    exec (.fabPeerQuery d) s = .next (
      let s := s.begun 0x74 d
      let r := (s, St.OK, [s.rd (Reg.YLK_PEER_W0 0 (d.n 3)), w32 (s.regRead .engine (Reg.YLK_PEER_W1 0 (d.n 3))).2])
      (r.1.slotEnd d.slotId r.2.1 r.2.2).ended d)) ∧

  (∀ (p : Fin 4) (fabric : W32) (dev : BitVec 8) (unit : W64) (ver : BitVec 8) (farPort : Fin 4) (two : Bool) (z : State),
    let s := z
    ¬ (s.ylkState p ≠ 1 || ! s.domUp (54 + p / 2) || (sget s.ylk.tests p none).isSome || (two && s.bit (Reg.YLK_CFG p) 30)) →
    let own := s.fld (Reg.YLK_FAB_STATUS 0) 15 8
    let refuse := fun (r : Nat) => (s.setFld (Reg.YLK_STATUS p) 27 26 r).setPort p 3
    ¬ (fabric ≠ s.rd (Reg.YLK_FABRIC_ID 0)) →
    ¬ (own + 2 ≤ ver.toNat || ver.toNat + 2 ≤ own) →
    ¬ (s.bit (Reg.YLK_FAB_STATUS 0) 30) →
    let s := (s.wrN (Reg.YLK_PEER_UNIT_LO p) unit.toNat).wrN (Reg.YLK_PEER_UNIT_HI p) (unit.toNat / 2 ^ 32)
    let s := s.setFld (Reg.YLK_STATUS p) 27 16 ((if two then 2 else 4) * 2 ^ 7 + min own ver.toNat % 2 ^ 7)
    let s := s.setFld (Reg.YLK_STATUS p) 7 0 (dev.toNat % 64 * 4 + farPort)
    let s := s.setPort p 2
    let s := s.setYlk { s.ylk with vers := sput s.ylk.vers unit.toNat (some ver.toNat) none }
    let s := if s.ylk.settle.isNone && ! s.ylk.ended then s.setYlk { s.ylk with settle := some (s.tbNs 0 + 100000000) } else s
    exec (.ylkHello p fabric dev unit ver farPort two) z = .next ((s.learn unit.toNat dev.toNat).reroute)) ∧

  (∀ (p : Fin 4) (lanes : Fin 5) (z : State),
    let s := z
    ¬ (s.ylkState p ≠ 2) →
    let s := if lanes.val = 0 then s.bump (Reg.YLK_RETRIES p) 8 else s
    let s := s.setFld (Reg.YLK_STATUS p) 25 23 0
    exec (.ylkLinkFailure p lanes) z = .next ((s.setPort p 1).reroute)) ∧

  (∀ (p : Fin 4) (s : State),
    s.ylkState p = 1 → ¬ (sget s.ylk.tests p none).isSome →
    exec (.ylkTrainingRetry p) s = .next (s.setFld (Reg.YLK_STATUS p) 25 23 0)) ∧

  (∀ (z : State) (t id : Nat),
    z.ylk.settle = some t → ¬ z.tbNs 0 < t →
    let s := z.setYlk { z.ylk with settle := none, ended := true }
    ¬ (s.selfId.isSome || s.fabNum 8 1 ≠ 255) →
    let own := Config.unitNumber.toNat
    let rank := (s.ylk.units.filter fun u => u.2.1 == 255 && u.1 < own).length
    let taken := (s.ylk.units.map (·.2.1)).filter (· < 64)
    ((List.range 64).filter fun i => ! taken.contains i)[rank]? = some id →
    exec (.settlingWindowEnd) z = .next (s.takeId id)) ∧

  (∀ (dev : Fin 64) (unit : W64) (links : List FabLink) (z : State),
    let s := z
    ¬ ((s.neighbours 4).isEmpty && ! (List.range 4).any (fun p => s.ylkState p == 2)) →
    let s := s.learn unit.toNat dev
    let s := s.setYlk { s.ylk with adj := sput s.ylk.adj dev (links.map fun l => (l.port.val, l.far.val, l.farPort.val)) [] }
    let s := (List.range 4).foldl (fun s p =>
      if s.ylkState p = 2 && s.farUnit p = unit.toNat then s.setFld (Reg.YLK_STATUS p) 7 2 dev else s) s
    exec (.adjacencyFrame dev unit links) z = .next s.reroute) ∧

  (∀ (s : State),
    exec (.heartbeatSend) s = .next s) ∧

  (∀ (dev : Fin 64) (z : State),
    let s := z
    ¬ (s.fld (Reg.YLK_PEER_W0 0 dev) 27 24 = 0) →
    let p : YPeer := { beat := s.tbNs 0, routed := ((sget s.ylk.peers dev none).map (·.routed)).getD 0 }
    let s := s.setYlk { s.ylk with peers := sput s.ylk.peers dev (some p) none }
    exec (.heartbeatReceive dev) z = .next (if s.bit (Reg.YLK_PEER_W0 0 dev) 31 then s else (s.setBit (Reg.YLK_PEER_W0 0 dev) 31).raise 805)) ∧

  (∀ (dev : Fin 64) (s : State),
    s.bit (Reg.YLK_PEER_W0 0 dev) 31 → s.fld (Reg.YLK_PEER_W0 0 dev) 27 24 = 0 →
    exec (.peerLoss dev) s = .next (s.peerLost dev)) ∧

  (∀ (q : RemoteReq) (w : Requester) (s : State),
    s.selfId = some q.dst.val →
    let key := 65536 * q.dev.val + q.init.toNat
    sget s.ylk.flows key 0 = q.seq.toNat → remoteWho q = some w →
    exec (.remoteRequest q) s = .next (
      let s := s.setYlk { s.ylk with flows := sput s.ylk.flows key ((q.seq.toNat + 1) % 256) 0 }
      s.holdOr w 0xFFFF q.realm.val q.write q.addr.toNat q.bytes.toNat q.data.toNat)) ∧

  (∀ (p : Fin 4) (s : State),
    ¬ (s.ylkState p ≠ 2) →
    exec (.timeFrameSend p) s = .next ((List.range 8).foldl (fun s b =>
      if s.fabTb b then s.setYlk { s.ylk with sentAt := sput s.ylk.sentAt (8 * p.val + b) (s.tbInst b) 0 } else s) s)) ∧

  (∀ (p : Fin 4) (stamps : List FabStamp) (s : State),
    ¬ (s.ylkState p ≠ 2) →
    let done := stamps.filter fun x => s.parentPort x.tb == some p.val && sget s.ylk.sentAt (8 * p.val + x.tb) 0 != 0
    let s' := done.foldl (fun s x =>
      let t2 : Int := s.tbInst x.tb
      let t3 : Int := ((sget s.ylk.sentAt (8 * p.val + x.tb) 0 : Nat) : Int)
      let down := t2 - x.t1
      let up := (x.t4 : Int) - t3
      let off := unsigned 64 ((down - up) / 2 + s.calUser 5 p)
      let s := s.wrN (Reg.YLK_DELAY p) (unsigned 32 ((down + up) / 2))
      (s.wrN (Reg.YLK_OFFSET_LO p x.tb) off).wrN (Reg.YLK_OFFSET_HI p x.tb) (off / 2 ^ 32)) s
    exec (.timeFrameReceive p stamps) s = .next (if done.isEmpty then s else (s'.bump (Reg.YLK_SEQ p) 1).raise (808 + p)))

/-- For each of these commands, in every state and with operands that meet the conditions its clause names (for a command:
admitted by its ring and slot, and its checks pass; for a register: open to the requester and held by it; for an event: the
unit is in the state the event presupposes), exec answers the next state that is the effect its rule gives, written out in the
clause. (16_power_and_clocks.md, R517, R520, R534) -/
def Obligations.PowerCommandsComplete : Prop :=
  (∀ (c : Instr) (k : Nat) (d : Desc) (s : State),
    (c = .pwrVoteD0 d ∧ k = 0) ∨ (c = .pwrVoteTolerance d ∧ k = 1) ∨ (c = .pwrVoteWithdraw d ∧ k = 2) →
    bitsOf (d.n 3) 9 8 = k → ¬ bitOf (d.n 3) 16 → s.admits d →
    firstFail [runningCheck s d, domMine s d (dDom d)] = (St.OK, 0) →
    exec c s = .next (
      let s := s.begun 0x78 d
      let v := voteOf k (d.n 4)
      let s := if d.tgt < 16 then s.setPwr { s.pwr with host := sput s.pwr.host (16 * dDom d + d.tgt) v none }
        else s.setPwr { s.pwr with firm := sput s.pwr.firm (dDom d) v none }
      (s.slotEnd d.slotId St.OK [s.stateWord (dDom d)]).ended d)) ∧

  (∀ (d : Desc) (s : State),
    exec (.pwrVoteTolerance d) s = .next (pwrVote [1] d s)) ∧

  (∀ (d : Desc) (s : State),
    exec (.pwrVoteWithdraw d) s = .next (pwrVote [2] d s)) ∧

  (∀ (d : Desc) (s : State),
    let k := dDom d
    s.admits d →
    firstFail [stoppedOrRunning s d, domMine s d k] = (St.OK, 0) →
    exec (.pwrQuery d) s = .next (
      let s := s.begun 0x79 d
      let r :=
        let t := s.pwrShow k
        (t, St.OK, [t.rd (Reg.PWM_D_STATE k), t.rd (Reg.PWM_D_VOTES k), t.rd (Reg.PWM_D_TOL k), t.rd (Reg.PWM_D_WAKE0 k),
          t.rd (Reg.PWM_D_WAKE1 k), t.rd (Reg.PWM_D_WAKE2 k), t.rd (Reg.PWM_D_WAKE3 k)])
      (r.1.slotEnd d.slotId r.2.1 r.2.2).ended d)) ∧

  (∀ (d : Desc) (s : State),
    let k := dDom d
    let target := bitsOf (d.n 3) 9 8
    s.admits d →
    firstFail [runningCheck s d, only16 d, need (target ≠ 0 && permitsState k target) St.BAD_PARAM,
    need ((s.trans k).isNone && s.domState k < target && ! s.domForced k) St.WRONG_STATE, need (s.mayEnter k target) PWR_VOTED] = (St.OK, 0) →
    exec (.pwrEnter d) s = .next (
      let s := s.begun 0x7A d
      let t :=
        let s := s.enterBegin k target (some d.slotId)
        match s.trans k with
        | some t => match s.sampleWake k t with
          | some w => s.enterAbandon k (stepOf (s.domState k)) t w
          | none => s
        | none => s
      t.ended d)) ∧

  (∀ (d : Desc) (s : State),
    let w := d.n 3 % 32
    let me := if d.tgt < 16 then d.tgt else 16
    let m := cat64 (d.word 4) (d.word 5)
    let n := d.n 7
    s.admits d →
    firstFail [runningCheck s d, need (n = 0 || 1000 ≤ n) St.BAD_PARAM,
    need (match s.winOwner w with | some o => o == me | none => true) St.ACCESS_DENIED,
    need (n = 0 || me = 16 || (List.range 64).all fun k => ! bitOf m k || s.holdsDomain me k) St.ACCESS_DENIED] = (St.OK, 0) →
    exec (.pwrWindow d) s = .next (
      let s := s.begun 0x7B d
      let r :=
        if n = 0 then (s.winFree w, St.OK, []) else
        let cfg := 2 ^ 31 + (if me = 16 then 2 ^ 23 else 2 ^ 24 * me) + d.n 6 % 4
        (s.wrWords (Reg.PWM_WIN_MASK_LO w) [d.word 4, d.word 5, w32 cfg, w32 n], St.OK, [])
      (r.1.slotEnd d.slotId r.2.1 r.2.2).ended d)) ∧

  (∀ (d : Desc) (s : State),
    let k := dDom d
    s.admits d →
    firstFail [runningCheck s d, only16 d,
    need (s.domForced k && sget s.pwr.cause k 0 ≠ 2 && ! s.bit Reg.PWM_THERM_STAT 30) St.WRONG_STATE] = (St.OK, 0) →
    exec (.pwrForceClear d) s = .next (
      let s := s.begun 0x7C d
      let r :=
        let s := s.setFld (Reg.PWM_D_STATE k) 25 25 0
        let s := if k < 32 then s.setFld Reg.PWM_FORCED_LO k k 0 else s.setFld Reg.PWM_FORCED_HI (k - 32) (k - 32) 0
        (s.setPwr { s.pwr with cause := sput s.pwr.cause k 4 0 }, St.OK, [])
      (r.1.slotEnd d.slotId r.2.1 r.2.2).ended d)) ∧

  (∀ (d : Desc) (s : State),
    let c := d.n 3 % 128
    s.admits d →
    firstFail [stoppedOrRunning s d, need (c < 100) St.BAD_PARAM] = (St.OK, 0) →
    exec (.clkQuery d) s = .next (
      let s := s.begun 0x7D d
      let r :=
        let src := bitsOf (s.clockStat c) 30 27
        (s, St.OK, [w32 (s.clockStat c), if src < 9 then s.rd (Reg.CLK_PLL_STAT src) else 0])
      (r.1.slotEnd d.slotId r.2.1 r.2.2).ended d)) ∧

  (∀ (dom : Fin 64) (z : State) (t0 : Nat) (t : PTrans),
    let d := dom.val
    ¬ ((z.trans d).isSome || z.domForced d || z.heldDown d || z.target d ≤ z.domState d) →
    sget z.pwr.deep d none = some t0 → ¬ z.tbNs 0 < t0 + 1000 * z.effHoldoff d →
    let s := z.enterBegin d (z.target d) none
    s.trans d = some t → s.sampleWake d t = none →
    exec (.powerEntryStart dom) z = .next s) ∧

  (∀ (dom : Fin 64) (z : State),
    let s := z
    let d := dom.val
    ∀ t, s.trans d = some t →
    ¬ (t.exit) →
    ∀ k, nextStep t.target t.step = some k →
    let s := s.stepDone d k
    let t := { t with step := k }
    s.sampleWake d t = none →
    nextStep t.target k = none →
    let s := ((s.setTrans d none).showTrans d false false 0).clearDeep d
    let s := ((s.bump (Reg.PWM_D_ENTRIES d) 1).domChanged d).raise 880
    exec (.powerEntryStepComplete dom) z = .next (t.slot.elim s fun q => s.slotEnd q St.OK [s.stateWord d])) ∧

  (∀ (dom : Fin 64) (s : State),
    let d := dom.val
    let k := s.domState d
    ¬ ((s.trans d).isSome || k = 0 || s.domForced d || s.heldDown d || ! (s.target d < k || (sget s.pwr.first d none).isSome)) →
    let w := s.wakeNow ((s.pickWake d k).getD (5, 0))
    let t := PTrans.mk 0 0 true k (some w) none
    exec (.powerExit dom) s = .next (((s.setTrans d (some t)).showTrans d false true 0).clearDeep d)) ∧

  (∀ (dom : Fin 64) (bad : BitVec 128) (z : State),
    let s := z
    let d := dom.val
    ∀ t, s.trans d = some t →
    ¬ (! t.exit) →
    let gone := t.target ≠ 0
    let k := if gone then s.domState d else t.from_
    let lost := if ! gone && k = 2 then
        (List.range (min (retBanks d) 128)).filter fun b => bitOf bad.toNat b || (sget s.pwr.excur d []).contains b
      else []
    let w := t.wake.getD (s.wakeNow (5, 0))
    let s := lost.foldl (fun s b => s.loseBank d b) s
    let s := if ! gone && k = 3 then s.leaveD3 d else s
    let w0 := 2 ^ 31 + 2 ^ 30 * b2n gone + 2 ^ 29 * b2n (! lost.isEmpty) + 2 ^ 27 * k + 2 ^ 24 * (if gone then t.step else 0) +
      2 ^ 16 * w.src + w.id
    let s := s.wrWords (Reg.PWM_D_WAKE0 d) [w32 w0, w32 w.ts, w32 (2 ^ 16 * lost.length + lost.head?.getD 0), w32 (s.tbNs 0 - w.ns)]
    let s := (((s.setDomState d 0).setTrans d none).showTrans d false false 0).clearDeep d
    let s := s.setPwr { s.pwr with first := sput s.pwr.first d none none, excur := sdel s.pwr.excur d }
    let s := (s.domChanged d).raise 880
    let s := if lost.isEmpty then s else
      (if d < 32 then s.setBit Reg.PWM_LOST_LO d else s.setBit Reg.PWM_LOST_HI (d - 32)).raise 882
    exec (.powerExitComplete dom bad) z = .next (t.slot.elim s fun q => s.slotEnd q St.ABORTED [s.stateWord d])) ∧

  (∀ (dom : Fin 64) (bank : Fin 128) (s : State),
    ¬ (s.domState dom ≠ 2 || retBanks dom ≤ bank) →
    exec (.retentionExcursion dom bank) s = .next (s.setPwr { s.pwr with excur := sput s.pwr.excur dom (setIns (sget s.pwr.excur dom []) bank) [] })) ∧

  (∀ (s : State),
    (s.fld Reg.CHP_STATE 31 29 = 5 →
      exec (.forcedPowerDown true) s = .next ((List.range 64).foldl (fun s d => s.forceDown d 2) s)) ∧
    (s.bit Reg.PWM_THERM_STAT 30 →
      exec (.forcedPowerDown false) s = .next ((List.range 64).foldl (fun s d =>
        if s.bit (if d < 32 then Reg.PWM_EMERG_MASK_LO else Reg.PWM_EMERG_MASK_HI) (d % 32) then s.forceDown d 1 else s) s))) ∧

  (∀ (w : Fin 32) (t b : Nat) (s : State),
    sget s.pwr.wins w none = some (t, b) → t ≤ s.tbNs b →
    exec (.powerWindowExpiry w) s = .next (s.setPwr { s.pwr with wins := sput s.pwr.wins w none none })) ∧

  (∀ (k : Fin 9) (z : State),
    let s := z
    ¬ (! s.bit (Reg.CLK_PLL_STAT k) 31) →
    let s := ((s.setFld (Reg.CLK_PLL_STAT k) 31 31 0).setBit (Reg.CLK_PLL_STAT k) 30).raise 884
    exec (.pllLossOfLock k) z = .next ((pllUnits k).foldl (fun s u => s.notice 10 u.1 u.2 884) s)) ∧

  (∀ (temps : Vector (BitVec 12) 16) (z : State),
    let s := z
    let vs := (List.range 16).map fun i => s.corrected i (temps.toList.getD i 0)
    let s := (List.range 16).foldl (fun s i => s.wrN (Reg.PWM_SENSOR i) (2 ^ 31 + unsigned 12 (vs.getD i 0))) s
    let h := hottest (vs.drop 1) 1 (vs.getD 0 0, 0)
    let s := (s.setFld Reg.PWM_THERM_STAT 19 16 h.2).setFld Reg.PWM_THERM_STAT 11 0 (unsigned 12 h.1)
    exec (.sensorSample temps) z = .next (s.thermal vs)) ∧

  (∀ (s : State),
    ¬ (s.pwr.unacked || s.chp.clk < s.pwr.setAt + 100000 || s.setpointWanted = s.pwr.setpoint) →
    exec (.avsSetpointStep true) s = .next (s.setPwr { s.pwr with
        setpoint := if s.pwr.setpoint < s.setpointWanted then s.pwr.setpoint + 5 else s.pwr.setpoint - 5, setAt := s.chp.clk }) ∧
    exec (.avsSetpointStep false) s = .next (s.setPwr { s.pwr with setpoint := 800, unacked := true, setAt := s.chp.clk })) ∧

  (∀ (ack : Bool) (s : State),
    ¬ (! s.pwr.unacked || s.chp.clk < s.pwr.setAt + 1000000) →
    exec (.avsRetry ack) s = .next (s.setPwr { s.pwr with setpoint := 800, unacked := ! ack, setAt := s.chp.clk })) ∧

  (∀ (dev dom : Fin 64) (kind : Fin 3) (tol : W32) (s : State),
    ¬ (! s.bit (Reg.YLK_PEER_W0 0 dev) 31) →
    exec (.peerPwrVote dev dom kind tol) s = .next (s.setPwr { s.pwr with fabric := sput s.pwr.fabric (64 * dom.val + dev.val) (voteOf kind tol.toNat) none }))

/-- For each of these commands, in every state and with operands that meet the conditions its clause names (for a command:
admitted by its ring and slot, and its checks pass; for a register: open to the requester and held by it; for an event: the
unit is in the state the event presupposes), exec answers the next state that is the effect its rule gives, written out in the
clause. (17_availability_and_test.md, R538, R542, R547) -/
def Obligations.AvailabilityCommandsComplete : Prop :=
  (∀ (nib : Fin 128) (s : State),
    let q := nib.val / 16
    ¬ (! bitOf (sget s.ipend nib.val 0) 0 || s.nibRun nib = 3 || s.nibRun nib = 4) →
    exec (.nibWatchdogExpiry nib) s = .next ((s.raise (938 + q)).notice 2 0 q (938 + q))) ∧

  (∀ (d : Desc) (s : State),
    s.admits d →
    firstFail [runningCheck s d, only16 d, need (d.n 3 < 64) St.BAD_PARAM] = (St.OK, 0) →
    exec (.avlQuery d) s = .next (
      let s := s.begun 0x80 d
      let r :=
        let w := sget s.avl.log (d.n 3) []
        (s, St.OK, (List.range 4).map (fun k => w32 (w.getD k 0)) ++ [s.rd Reg.AVL_FENCED_Q, s.rd Reg.AVL_FENCED_F, s.rd Reg.AVL_FENCED_P_LO,
          s.rd Reg.AVL_FENCED_P_HI])
      (r.1.slotEnd d.slotId r.2.1 r.2.2).ended d)) ∧

  (∀ (d : Desc) (s : State),
    let u := returnUnit (d.n 3 % 8) (bitsOf (d.n 3) 15 8)
    s.admits d →
    firstFail [runningCheck s d, only16 d, need u.isSome St.BAD_PARAM,
    need (u.any fun u => s.ord.fenced.contains u) St.WRONG_STATE,
    need (u.any fun u => (pncDomains u.1 u.2).all fun k => match sget s.avl.passed k none with
      | some t => sget s.avl.fencedAt (256 * u.1 + u.2) 0 ≤ t + 1
      | none => false) AVL_NOT_TESTED] = (St.OK, 0) →
    exec (.avlReturn d) s = .next (
      let s := s.begun 0x81 d
      let r :=
        match u with
        | some u => (s.unitReturn u.1 u.2, St.OK, [])
        | none => (s, St.OK, [])
      (r.1.slotEnd d.slotId r.2.1 r.2.2).ended d)) ∧

  (∀ (d : Desc) (s : State),
    let k := d.n 3 % 64
    ¬ (bitOf (d.n 4) 1) →
    s.admits d →
    firstFail [runningCheck s d, only16 d, need (pncTests k) St.BAD_PARAM,
    need (! s.domForced k) St.ABORTED, need (! s.avl.tests.any (·.dom == k)) St.NO_RESOURCE] = (St.OK, 0) →
    exec (.pncRun d) s = .next (
      let s := s.begun 0x82 d
      let t := s.pncRequest k (bitOf (d.n 4) 0) (some d.slotId)
      t.ended d)) ∧

  (∀ (d : Desc) (s : State),
    let k := d.n 3 % 64
    ¬ (! bitOf (d.n 4) 1) →
    s.admits d →
    firstFail [runningCheck s d, only16 d, need (pncTests k) St.BAD_PARAM] = (St.OK, 0) →
    exec (.pncRunAbort d) s = .next (
      let s := s.begun 0x82 d
      let r := (s.pncAbandon k St.ABORTED, St.OK, [])
      (r.1.slotEnd d.slotId r.2.1 r.2.2).ended d)) ∧

  (∀ (d : Desc) (s : State),
    let v := d.n 3
    s.admits d →
    firstFail [runningCheck s d, only16 d,
    need (bitsOf v 29 24 = 0 && 1 ≤ bitsOf v 23 16 && 60 ≤ bitsOf v 15 8 && bitsOf v 15 8 ≤ 110 && 10 ≤ v % 256) St.BAD_PARAM] = (St.OK, 0) →
    exec (.pncSched d) s = .next (
      let s := s.begun 0x83 d
      let r := (s.wrN Reg.PNC_CFG v, St.OK, [w32 v])
      (r.1.slotEnd d.slotId r.2.1 r.2.2).ended d)) ∧

  (∀ (d : Desc) (s : State),
    let jesd := bitOf (d.n 3) 0
    let lane := bitsOf (d.n 3) 5 1
    let rx := bitOf (d.n 3) 8
    let pat := d.n 4 % 8
    let ports := (List.range 32).filter fun p => p ≤ lane && lane < p + max 1 (s.ethWidth p)
    s.admits d →
    firstFail [runningCheck s d, only16 d,
    need (pat ≤ 5 && 1 ≤ d.n 5 && d.n 5 ≤ 1000000 && (! jesd || lane < 16) &&
      (pat ≠ 5 || (! jesd && pam4 (s.fld (Reg.ETH_CFG lane) 27 24)))) St.BAD_PARAM,
    need (if jesd then [0, 1].all fun m => s.jesState (lane / 4) rx m = 0 ||
        ! (let c := s.link (lane / 4) rx m; c.lane ≤ lane % 4 && lane % 4 < c.lane + c.l)
      else ports.all fun p => s.ethState p = 0) St.WRONG_STATE,
    need (sget s.avl.serdes (laneKey jesd rx lane) none).isNone St.NO_RESOURCE] = (St.OK, 0) →
    exec (.serdesTest d) s = .next (
      let s := s.begun 0x84 d
      let t := s.setAvl { s.avl with serdes := sput s.avl.serdes (laneKey jesd rx lane) (some d.slotId) none }
      t.ended d)) ∧

  (∀ (jesd rx : Bool) (lane : Fin 32) (bits : W64) (errors : W32) (z : State),
    let s := z
    ∀ k, sget s.avl.serdes (laneKey jesd rx lane) none = some k →
    let s := s.setAvl { s.avl with serdes := sput s.avl.serdes (laneKey jesd rx lane) none none }
    exec (.serdesTestEnd jesd rx lane bits errors) z = .next ((s.raise 936).slotEnd k St.OK [w32 bits.toNat, w32 (bits.toNat / 2 ^ 32), errors])) ∧

  (∀ (d : Desc) (s : State),
    s.admits d →
    firstFail [runningCheck s d,
    need (calValid (dItem d) (dIdx d) && calUserOk (dItem d) (signed 32 (d.n 4))) St.BAD_PARAM,
    need (d.ring.val = 16 || s.calOwned d.tgt (dItem d) (dIdx d)) St.ACCESS_DENIED, notExpert s 0x640] = (St.OK, 0) →
    exec (.calSet d) s = .next (
      let s := s.begun 0x85 d
      let r :=
        let s := s.calSet (dItem d) (dIdx d) (signed 32 (d.n 4))
        (s, St.OK, [w32 (unsigned 32 (calFact (dItem d) (dIdx d))), w32 (unsigned 32 (s.calEff (dItem d) (dIdx d))),
          w32 (b2n (s.calClamped (dItem d) (dIdx d)))])
      (r.1.slotEnd d.slotId r.2.1 r.2.2).ended d)) ∧

  (∀ (d : Desc) (s : State),
    s.admits d →
    firstFail [stoppedOrRunning s d, only16 d, need (calValid (dItem d) (dIdx d)) St.BAD_PARAM] = (St.OK, 0) →
    exec (.calQuery d) s = .next (
      let s := s.begun 0x86 d
      let r :=
        (s, St.OK, [w32 (unsigned 32 (calFact (dItem d) (dIdx d))), w32 (unsigned 32 (s.calUser (dItem d) (dIdx d))),
        w32 (unsigned 32 (s.calEff (dItem d) (dIdx d)))])
      (r.1.slotEnd d.slotId r.2.1 r.2.2).ended d)) ∧

  (∀ (d : Desc) (s : State),
    let r := d.n 3 % 16
    s.admits d →
    firstFail [stoppedOrRunning s d, need (d.ring.val = 16 || d.ring.val = r) St.ACCESS_DENIED] = (St.OK, 0) →
    exec (.avlHeadroom d) s = .next (
      let s := s.begun 0x87 d
      let r :=
        let tb := s.defaultTb r
        let off : Int := - s.toTb0 tb
        let w : Int := (s.tbNs tb : Int) / 1000000
        let booked := fun (k u : Nat) (who : Option Nat) => bookedIn (s.unitBooks k u) who off w
        let nibs := fun q => ((((List.range 16).filter fun n => s.nibRealm q n == r).length + bitsOf (s.recNum 1 0xFF 8 4) (4 * q + 3) (4 * q), booked 0 (16 * q + r) none) : Nat × Int)
        let fers := fun q => ((((List.range 2).filter fun f => s.ferRealm q f == r || s.ferRealm q f == 16).length,
          booked 1 (2 * q) (some r) + booked 1 (2 * q + 1) (some r)) : Nat × Int)
        let a := quireMargins nibs fun q => (List.range 16).any fun n => s.nibRealm q n == r
        let b := quireMargins fers fun q => (List.range 2).any fun f => s.ferRealm q f == r
        let pool := fun p =>
          let mine := (List.range (poolCount p)).filter fun i => s.share r p i ≠ 0
          leastAt (mine.map fun i =>
            let adopter := mine.find? fun k => k ≠ i && ! s.ord.fenced.contains (2, serialOf p k)
            let room := match adopter with
              | some k => (1000000 : Int) - booked 2 (serialOf p k) none
              | none => 0
            (room - booked 2 (serialOf p i) (some r), i))
        let put := fun (x : State × List W32) (m : Option (Int × Nat)) (place : Bool) => match m with
          | some m => (x.1, x.2 ++ [w32 (unsigned 32 m.1)] ++ (if place then [w32 m.2] else []))
          | none =>
            let f := x.1.free1 (2 ^ 32)
            let g := f.2.free1 8
            (if place then g.2 else f.2, x.2 ++ [w32 f.1] ++ (if place then [w32 g.1] else []))
        let x := put (put (s, []) a true) b true
        let x := (List.range 7).foldl (fun x p => put x (pool p) false) x
        (x.1, St.OK, x.2)
      (r.1.slotEnd d.slotId r.2.1 r.2.2).ended d)) ∧

  (∀ (who : Requester) (value : W32) (s : State),
    s.opens who Reg.CAL_USER → s.holds who Reg.CAL_USER →
    exec (.calUserWrite who value) s = .next (
      let t := s.calSet (s.fld Reg.CAL_IDX 7 0) (s.fld Reg.CAL_IDX 15 8) (signed 32 value.toNat)
      t.answer St.OK 0)) ∧

  (∀ (s : State),
    let now := s.tbNs 0
    let quires := (s.avl.tests.filter (·.dom < 24)).length
    let groups := s.avl.tests.length - quires
    let due := (List.range 64).filter fun k => pncTests k && ! s.avl.tests.any (·.dom == k) && ! s.domForced k &&
      s.lastPass k + s.pncInterval ≤ now && (if k < 24 then quires < 2 else groups < 2)
    let ready := s.bit Reg.PNC_CFG 31 && s.pncCool && (! s.bit Reg.PNC_CFG 30 || s.pncOpen) &&
      (match s.avl.started with | some t => t + 100000 ≤ now | none => true)
    ¬ (! ready) →
    ∀ k r, due = k :: r →
    let k := r.foldl (fun m x => if s.lastPass x < s.lastPass m then x else m) k
    exec (.pounceSelect) s = .next ((s.pncRequest k false none).setAvl { (s.pncRequest k false none).avl with started := some now })) ∧

  (∀ (dom : Fin 64) (z : State),
    let s := z
    let d := dom.val
    ∀ t, s.avl.tests.find? (·.dom == d) = some t →
    ¬ (t.phase ≠ 0 || s.tbNs 0 < t.at_ || ! s.pncCool || (s.bit Reg.PNC_CFG 30 && ! t.always && ! s.pncOpen)) →
    let s := s.pncPhase d 1 (s.tbNs 0)
    let s := if d < 32 then s.setBit Reg.PNC_ACTIVE_LO d else s.setBit Reg.PNC_ACTIVE_HI (d - 32)
    exec (.pounceExclusionStart dom) z = .next (if d < 16 then
        let s := (List.range 8).foldl (fun s n => if s.runOn (d / 2) (8 * (d % 2) + n) = 0 then s else s.setIpend (8 * d + n) 0 true) s
        s.dispatch (d / 2)
      else s)) ∧

  (∀ (dom : Fin 64) (s : State),
    (s.avl.tests.any (fun t => t.dom == dom.val && t.phase == 1) && s.pncIdle dom) →
    exec (.pounceDrained dom) s = .next (s.pncPhase dom 2 (s.tbNs 0))) ∧

  (∀ (dom : Fin 64) (s : State),
    ∀ t, s.avl.tests.find? (·.dom == dom.val) = some t →
    ¬ (t.phase ≠ 1 || s.tbNs 0 < t.at_ + 1000 * s.fld Reg.PNC_CFG 7 0) →
    exec (.pounceDrainTimeout dom) s = .next (s.pncAbandon dom PNC_DEFERRED)) ∧

  (∀ (dom : Fin 64) (pass : Bool) (coverage : BitVec 12) (duration : BitVec 16) (z : State),
    let s := z
    let d := dom.val
    ∀ t, s.avl.tests.find? (·.dom == d) = some t →
    ¬ (t.phase ≠ 2 || ! s.domUp d) →
    let s := s.pncRelease d
    let s := s.wrN (Reg.PNC_DOM_STAT d) (2 ^ 30 * (if pass then 1 else 2) + 2 ^ 16 * coverage.toNat + duration.toNat)
    let s := if pass then
        let s := (domBlocks d).foldl (fun s b => s.blockResetOf b false) s
        let s := if d < 16 then (List.range 8).foldl (fun s n => s.nibStart (8 * d + n)) s else s
        let s := s.setAvl { s.avl with passed := sput s.avl.passed d (some (s.tbNs 0)) none, overdue := s.avl.overdue.filter (· != d) }
        let s := s.wrN (Reg.PNC_DOM_LAST_SEC d) (s.tbNs 0 / 10 ^ 9)
        (s.bump (Reg.PNC_DOM_PASSES d) 1).raise 931
      else
        let s := (s.bump (Reg.PNC_DOM_FAILS d) 1).raise 932
        (pncFences d).foldl (fun s u => s.notice 12 u.1 u.2 932) s
    let st := if pass then St.OK else PNC_FAIL
    exec (.pounceTestEnd dom pass coverage duration) z = .next (t.slot.elim s fun k => s.slotEnd k st [w32 duration.toNat, w32 st])) ∧

  (∀ (w : Fin 16) (s : State),
    ∀ t, sget s.avl.wins w none = some t →
    (t ≤ s.tbNs 0) →
    exec (.pounceWindowClose w) s = .next (s.setAvl { s.avl with wins := sput s.avl.wins w none none })) ∧

  (∀ (dom : Fin 64) (s : State),
    ¬ (! pncTests dom || s.avl.overdue.contains dom.val || s.tbNs 0 < s.lastPass dom + 2 * s.pncInterval) →
    exec (.pounceOverdue dom) s = .next ((s.setAvl { s.avl with overdue := setIns s.avl.overdue dom }).raise 933))

/-- For each of these commands, in every state and with operands that meet the conditions its clause names (for a command:
admitted by its ring and slot, and its checks pass; for a register: open to the requester and held by it; for an event: the
unit is in the state the event presupposes), exec answers the next state that is the effect its rule gives, written out in the
clause. (18_chop_and_palimpsest.md, R569, R589) -/
def Obligations.ChopCommandsComplete : Prop :=
  (∀ (d : Desc) (s : State),
    ¬ (d.n 3 % 4 ≠ 0) →
    s.admits d →
    stoppedOrRunning s d = (St.OK, 0) →
    exec (.chpStateQuery d) s = .next (
      let s := s.begun 0x88 d
      let r := (s, St.OK, [s.rd Reg.CHP_STATE, s.rd Reg.CHP_TAMPER])
      (r.1.slotEnd d.slotId r.2.1 r.2.2).ended d)) ∧

  (∀ (d : Desc) (s : State),
    d.n 3 % 4 == 1 →
    ¬ s.chp.testing → s.admits d →
    firstFail [stoppedOrRunning s d,
      firstFail [need (s.chpMode == 2 || s.chpMode == 3) ChpSt.ERROR_STATE,
      need (s.holdsCo d || s.holdsUser d) ChpSt.NOT_AUTH]] = (St.OK, 0) →
    exec (.chpStateSelfTest d) s = .next (
      let s := s.begun 0x88 d
      let t := svcSelfTest d s
      t.ended d)) ∧

  (∀ (d : Desc) (s : State),
    d.n 3 % 4 == 2 →
    ¬ s.chp.testing → s.admits d →
    firstFail [stoppedOrRunning s d,
      firstFail [s.chpUp, s.counterCheck d (bitsOf (d.n 3) 13 8)]] = (St.OK, 0) →
    exec (.chpStateReadCounter d) s = .next (
      (svcEnds svcReadCounter d (s.begun 0x88 d)).ended d)) ∧

  (∀ (d : Desc) (s : State),
    d.n 3 % 4 == 3 →
    ¬ s.chp.testing → s.admits d →
    firstFail [stoppedOrRunning s d,
      firstFail [s.chpUp, s.counterCheck d (bitsOf (d.n 3) 13 8)]] = (St.OK, 0) →
    exec (.chpStateAdvanceCounter d) s = .next (
      (svcEnds svcAdvance d (s.begun 0x88 d)).ended d)) ∧

  (∀ (d : Desc) (s : State),
    d.n 3 % 4 == 0 || d.n 3 % 4 == 3 →
    ¬ s.chp.testing → s.admits d →
    firstFail [stoppedOrRunning s d,
      firstFail [s.chpUp, need (d.n 3 % 4 == 0) St.BAD_PARAM, roleRing d]] = (St.OK, 0) →
    exec (.chpAuthChallenge d) s = .next (
      (svcEnds svcChallenge d (s.begun 0x89 d)).ended d)) ∧

  (∀ (d : Desc) (s : State),
    d.n 3 % 4 == 1 →
    ¬ s.chp.testing → s.admits d →
    firstFail [stoppedOrRunning s d,
      firstFail [s.chpUp, roleRing d, s.bufCheck d (kBuf d) 4728]] = (St.OK, 0) →
    exec (.chpAuthRespond d) s = .next (
      (svcEnds svcRespond d (s.begun 0x89 d)).ended d)) ∧

  (∀ (d : Desc) (s : State),
    d.n 3 % 4 == 2 →
    ¬ s.chp.testing → s.admits d →
    firstFail [stoppedOrRunning s d,
      firstFail [s.chpUp, roleRing d, need (s.holdsCo d || s.holdsUser d) ChpSt.NOT_AUTH]] = (St.OK, 0) →
    exec (.chpAuthLogout d) s = .next (
      (svcEnds svcLogout d (s.begun 0x89 d)).ended d)) ∧

  (∀ (d : Desc) (s : State),
    let k := d.n 3 % 8
    k == 0 || 5 ≤ k →
    ¬ s.chp.testing → s.admits d →
    firstFail [stoppedOrRunning s d,
      firstFail [s.chpUp, need (k == 0) St.BAD_PARAM, s.slotCheck d (kSlot d),
      need (1 ≤ kType d && kType d ≤ 5 && (kSlot d < 32 || s.holdsUser d)) St.BAD_PARAM]] = (St.OK, 0) →
    exec (.chpKeyGenerate d) s = .next (
      (svcEnds svcGenerate d (s.begun 0x8A d)).ended d)) ∧

  (∀ (d : Desc) (s : State),
    let t := kType d
    d.n 3 % 8 == 1 →
    ¬ s.chp.testing → s.admits d →
    firstFail [stoppedOrRunning s d,
      firstFail [s.chpUp, s.slotCheck d (kSlot d),
      need (1 ≤ t && t ≤ 6 && importLenOk t (kLen d) && (t == 6 || kSlot d < 32 || s.holdsUser d)) St.BAD_PARAM,
      if kLen d == pubLen t then (St.OK, 0) else s.slotCheck d (kWrap d), s.bufCheck d (kBuf d) (kLen d)]] = (St.OK, 0) →
    exec (.chpKeyImport d) s = .next (
      (svcEnds svcImport d (s.begun 0x8A d)).ended d)) ∧

  (∀ (d : Desc) (s : State),
    d.n 3 % 8 == 2 →
    ¬ s.chp.testing → s.admits d →
    firstFail [stoppedOrRunning s d,
      firstFail [s.chpUp, s.slotCheck d (kSlot d),
      if secLen (s.keySlot (kSlot d)).typ = 0 then (St.OK, 0) else s.slotCheck d (kWrap d), s.bufCheck d (kBuf d) (kLen d)]] = (St.OK, 0) →
    exec (.chpKeyExport d) s = .next (
      (svcEnds svcExport d (s.begun 0x8A d)).ended d)) ∧

  (∀ (d : Desc) (s : State),
    d.n 3 % 8 == 3 →
    ¬ s.chp.testing → s.admits d →
    firstFail [stoppedOrRunning s d,
      firstFail [s.chpUp, s.slotCheck d (kSlot d)]] = (St.OK, 0) →
    exec (.chpKeyDelete d) s = .next (
      (svcEnds svcDelete d (s.begun 0x8A d)).ended d)) ∧

  (∀ (d : Desc) (s : State),
    d.n 3 % 8 == 4 →
    ¬ s.chp.testing → s.admits d →
    firstFail [stoppedOrRunning s d,
      firstFail [s.chpUp, s.slotCheck d (kSlot d)]] = (St.OK, 0) →
    exec (.chpKeyQuery d) s = .next (
      (svcEnds svcKeyQuery d (s.begun 0x8A d)).ended d)) ∧

  (∀ (d : Desc) (s : State),
    let k := d.n 3 % 16
    k == 0 || 9 ≤ k →
    ¬ s.chp.testing → s.admits d →
    firstFail [stoppedOrRunning s d,
      firstFail [need (k == 0) St.BAD_PARAM, cryptCheck s d true true false]] = (St.OK, 0) →
    exec (.chpCryptGcmEncrypt d) s = .next (
      (svcEnds svcEncrypt d (s.begun 0x8B d)).ended d)) ∧

  (∀ (d : Desc) (s : State),
    d.n 3 % 16 == 1 →
    ¬ s.chp.testing → s.admits d →
    firstFail [stoppedOrRunning s d,
      cryptCheck s d true true false] = (St.OK, 0) →
    exec (.chpCryptGcmDecrypt d) s = .next (
      (svcEnds svcDecrypt d (s.begun 0x8B d)).ended d)) ∧

  (∀ (d : Desc) (s : State),
    d.n 3 % 16 == 2 →
    ¬ s.chp.testing → s.admits d →
    firstFail [stoppedOrRunning s d,
      cryptCheck s d false false false] = (St.OK, 0) →
    exec (.chpCryptHash d) s = .next (
      (svcEnds svcHash d (s.begun 0x8B d)).ended d)) ∧

  (∀ (d : Desc) (s : State),
    d.n 3 % 16 == 3 →
    ¬ s.chp.testing → s.admits d →
    firstFail [stoppedOrRunning s d,
      cryptCheck s d true true false] = (St.OK, 0) →
    exec (.chpCryptHmac d) s = .next (
      (svcEnds svcHmac d (s.begun 0x8B d)).ended d)) ∧

  (∀ (d : Desc) (s : State),
    d.n 3 % 16 == 4 →
    ¬ s.chp.testing → s.admits d →
    firstFail [stoppedOrRunning s d,
      cryptCheck s d true true false] = (St.OK, 0) →
    exec (.chpCryptSign d) s = .next (
      (svcEnds svcSign d (s.begun 0x8B d)).ended d)) ∧

  (∀ (d : Desc) (s : State),
    d.n 3 % 16 == 5 →
    ¬ s.chp.testing → s.admits d →
    firstFail [stoppedOrRunning s d,
      cryptCheck s d true true false] = (St.OK, 0) →
    exec (.chpCryptVerify d) s = .next (
      (svcEnds svcVerify d (s.begun 0x8B d)).ended d)) ∧

  (∀ (d : Desc) (s : State),
    d.n 3 % 16 == 6 →
    ¬ s.chp.testing → s.admits d →
    firstFail [stoppedOrRunning s d,
      cryptCheck s d false false false] = (St.OK, 0) →
    exec (.chpCryptRandom d) s = .next (
      (svcEnds svcRandom d (s.begun 0x8B d)).ended d)) ∧

  (∀ (d : Desc) (s : State),
    d.n 3 % 16 == 7 →
    ¬ s.chp.testing → s.admits d →
    firstFail [stoppedOrRunning s d,
      cryptCheck s d true true true] = (St.OK, 0) →
    exec (.chpCryptKdf d) s = .next (
      (svcEnds svcKdf d (s.begun 0x8B d)).ended d)) ∧

  (∀ (d : Desc) (s : State),
    d.n 3 % 16 == 8 →
    ¬ s.chp.testing → s.admits d →
    firstFail [stoppedOrRunning s d,
      cryptCheck s d true true true] = (St.OK, 0) →
    exec (.chpCryptEcdh d) s = .next (
      (svcEnds svcEcdh d (s.begun 0x8B d)).ended d)) ∧

  (∀ (d : Desc) (s : State),
    d.n 3 % 2 == 0 →
    ¬ s.chp.testing → s.admits d →
    firstFail [stoppedOrRunning s d,
      firstFail [attestCheck s d 5176, s.bufCheck d (cat64 (d.word 7) (d.word 8)) 64]] = (St.OK, 0) →
    exec (.chpAttestReport d) s = .next (
      (svcEnds svcReport d (s.begun 0x8C d)).ended d)) ∧

  (∀ (d : Desc) (s : State),
    d.n 3 % 2 == 1 →
    ¬ s.chp.testing → s.admits d →
    firstFail [stoppedOrRunning s d,
      attestCheck s d (Config.chainLen (chainKind d) (attRealm d))] = (St.OK, 0) →
    exec (.chpAttestChain d) s = .next (
      (svcEnds svcChain d (s.begun 0x8C d)).ended d)) ∧

  (∀ (d : Desc) (s : State),
    ¬ s.chp.testing → s.admits d →
    firstFail [stoppedOrRunning s d,
      firstFail [s.chpUp, need (s.holdsCo d) ChpSt.NOT_AUTH, need (d.n 3 = 0x5A5AA5A5) St.BAD_PARAM]] = (St.OK, 0) →
    exec (.chpZeroise d) s = .next (
      let s := s.begun 0x8D d
      let t := svcZeroise d s
      t.ended d))

/-- For each of these commands, in every state and with operands that meet the conditions its clause names (for a command:
admitted by its ring and slot, and its checks pass; for a register: open to the requester and held by it; for an event: the
unit is in the state the event presupposes), exec answers the next state that is the effect its rule gives, written out in the
clause. (18_chop_and_palimpsest.md, R579, R587, R588, R589) -/
def Obligations.PalimpsestCommandsComplete : Prop :=
  (∀ (role : Fin 17) (s : State),
    ∀ t, sget s.chp.lock role none = some t →
    (t ≤ s.chp.clk) →
    exec (.authLockoutExpiry role) s = .next (s.setChp { s.chp with lock := sput s.chp.lock role none none })) ∧

  (∀ (cause : Tamper) (s : State),
    exec (.tamperDetect cause) s = .next (s.zeroise (match cause with
      | .light => 1
      | .clock => 2
      | .temp => 3
      | .volt => 4
      | .shield => 5))) ∧

  (∀ (z : State),
    let s := z
    ¬ (s.chpMode ≠ 5) →
    let left := s.fld Reg.CHP_STATE 28 24
    let s := s.setChp { s.chp with keys := [], blown := s.chp.blown + (if left = 0 then 0 else 1), dead := s.chp.dead || left = 0 }
    exec (.zeroisationComplete) z = .next (((s.setFld Reg.CHP_STATE 28 24 (left - 1)).setChpMode 6).raise 979)) ∧

  (∀ (s : State),
    s.chpMode = 2 && ! s.chp.testing && s.chp.tested + 86400 * 10 ^ 9 ≤ s.chp.clk →
    exec (.selfTestPeriodic) s = .next (s.setChp { s.chp with testing := true, slot := none, tested := s.chp.clk })) ∧

  (∀ (failed : BitVec 8) (z : State),
    let s := z
    ¬ (! s.chp.testing && 1 < s.chpMode) →
    let pass := failed.toNat == 0xFF
    let s := (s.setFld Reg.CHP_SELFTEST 31 31 (b2n pass)).setFld Reg.CHP_SELFTEST 23 16 failed.toNat
    let s := s.setFld Reg.CHP_SELFTEST 15 0 (s.fld Reg.CHP_SELFTEST 15 0 + 1)
    let k := s.chp.slot
    let s := s.testOutcome pass k.isSome
    let s := k.elim s fun k => s.slotEnd k (if pass then St.OK else ChpSt.ERROR_STATE) [s.rd Reg.CHP_STATE, s.rd Reg.CHP_TAMPER]
    let w := s.chp.waiting
    exec (.selfTestComplete failed) z = .next (serveWaiting w (s.setChp { s.chp with testing := false, slot := none, waiting := [] }))) ∧

  (∀ (s : State),
    exec (.trngSampleFailure) s = .next s.softError) ∧

  (∀ (d : Desc) (s : State),
    let n := d.n 3 % 8
    let tab := cat64 (d.word 4) (d.word 5)
    s.admits d →
    firstFail [stoppedOrRunning s d, s.palCheck d, need (s.palMode ≤ 1) St.WRONG_STATE,
    need (1 ≤ n && n ≤ 6) St.BAD_PARAM, s.bufCheck d tab (16 * n), need (s.localOf tab).isSome St.ACCESS_DENIED] = (St.OK, 0) →
    exec (.palStage d) s = .next (
      let s := s.begun 0x8E d
      let r :=
        let r := s.stageAll d ((s.localOf tab).getD 0) n 0 []
        let o := palOrder 6 r.2.2
        let order := (List.range o.1.length).foldl (fun m k => m + ((o.1.map (·.comp)).getD k 0) * 16 ^ k) 0
        if r.1 ≠ St.OK then (s, r.1, [0, w32 r.2.1])
        else match o.2.head?, s.unmet [] o.1 with
          | some i, _ => (s, PalSt.REQUIRES, [0, w32 i.comp])
          | none, some c => (s, PalSt.REQUIRES, [0, w32 c])
          | none, none => ((s.setPal { s.pal with staged := o.1 }).setPalMode 1, St.OK, [w32 order])
      (r.1.slotEnd d.slotId r.2.1 r.2.2).ended d)) ∧

  (∀ (d : Desc) (s : State),
    ¬ (1 ≤ palKind d && palKind d ≤ 4) →
    s.admits d →
    firstFail [stoppedOrRunning s d, s.palCheck d, need (palKind d == 0) St.BAD_PARAM, need (s.palMode == 1) St.WRONG_STATE,
    need (s.pal.staged.all fun i => i.comp ≠ 0 || ! s.fabricSkew i.proto) PalSt.FABRIC_SKEW] = (St.OK, 0) →
    exec (.palCtlStart d) s = .next (
      let s := s.begun 0x8F d
      let t :=
        let s := s.setPal { s.pal with slot := some d.slotId, done := 0 }
        s.pal.staged.head?.elim s s.palBegin
      t.ended d)) ∧

  (∀ (d : Desc) (s : State),
    palKind d = 1 → s.admits d →
    firstFail [stoppedOrRunning s d, s.palCheck d, need (match d.who with
      | .core c => decide (c.val < 4)
      | _ => false) St.ACCESS_DENIED, need (s.palMode == 4 && ! s.trialOver) St.WRONG_STATE] = (St.OK, 0) →
    exec (.palCtlConfirm d) s = .next (((s.begun 0x8F d).palConfirm.slotEnd d.slotId St.OK []).ended d)) ∧

  (∀ (d : Desc) (s : State),
    palKind d = 2 → s.admits d →
    firstFail [stoppedOrRunning s d, s.palCheck d, need (s.palMode == 4 && ! s.trialOver) St.WRONG_STATE] = (St.OK, 0) →
    exec (.palCtlReject d) s = .next ((((s.begun 0x8F d).palFall (d.n 4 % 256)).slotEnd d.slotId St.OK []).ended d)) ∧

  (∀ (d : Desc) (s : State),
    palKind d = 3 → s.admits d →
    firstFail [stoppedOrRunning s d, s.palCheck d, need (s.palMode == 1 && ! s.trialOver) St.WRONG_STATE] = (St.OK, 0) →
    exec (.palCtlDiscard d) s = .next (
      let s := s.begun 0x8F d
      let t := (s.setPal { s.pal with staged := [] }).setPalMode 0
      (t.slotEnd d.slotId St.OK []).ended d)) ∧

  (∀ (d : Desc) (s : State),
    ¬ (palKind d ≠ 4) →
    s.admits d →
    firstFail [stoppedOrRunning s d, s.palCheck d] = (St.OK, 0) →
    exec (.palCtlQuery d) s = .next (
      let s := s.begun 0x8F d
      let r := (s, St.OK, [s.rd Reg.PAL_STATE, w32 s.trialLeft, s.rd Reg.PAL_LAST_RESULT])
      (r.1.slotEnd d.slotId r.2.1 r.2.2).ended d)) ∧

  (∀ (i : PalImg) (j : PalJournal) (s : State),
    s.pal.cur = some i → s.pal.journal = some j →
    let k := j.recs.length
    ¬ (s.palMode ≠ 2 || palBlocks i ≤ k) →
    exec (.palBlockWritten) s = .next (
      let a := (flRegion i.comp).1 + 65536 * k
      let old := s.flBytes a 65536
      let new := s.bytes (i.addr + 65536 * k) (min 65536 (i.size - 65536 * k))
      let s := (s.flSet (journalBase + 65536 * k) old).flSet a (new ++ List.replicate (65536 - new.length) 255)
      let s := s.setPal { s.pal with journal := some { j with recs := j.recs ++ [(Config.crc32 old, 0x3F)] } }
      s.setFld Reg.PAL_STATE 8 0 (k + 1))) ∧

  (∀ (i : PalImg) (j : PalJournal) (s : State),
    s.pal.cur = some i → s.pal.journal = some j → ¬ (s.palMode ≠ 2 || j.recs.length < palBlocks i) →
    let a := (flRegion i.comp).1
    s.colophon (s.flBytes a i.len) (s.flBytes (a + colOffset i.comp i.len) colLen) = St.OK →
    exec (.palWriteComplete) s = .next (
      let s := s.dirWrite i.comp i.len i.version 2
      (s.setPal { s.pal with at_ := s.chp.clk, warm := i.comp ≠ 0 }).setPalMode 3)) ∧

  (∀ (s : State),
    ∀ i, s.pal.cur = some i →
    ¬ (s.palMode ≠ 3 || s.activationOver || s.pal.warm) →
    exec (.palImageStarted) s = .next (((s.setPal { s.pal with at_ := s.chp.clk + 10 ^ 9 * i.trial }).setPalMode 4).raise 985)) ∧

  (∀ (s : State), s.activationOver → exec (.palActivationTimeout) s = .next (s.palFall St.TIMEOUT)) ∧

  (∀ (s : State), s.trialOver → exec (.palTrialExpiry) s = .next (s.palFall St.TIMEOUT)) ∧

  (∀ (s : State),
    ∀ j, s.pal.journal = some j →
    ¬ (s.palMode ≠ 5) →
    exec (.palRestoreComplete) s = .next ((((s.replay j).setPalMode 0).raise 987).palEnd j.comp s.pal.cause PalSt.FELL_BACK)) ∧

  (∀ (who : Requester) (s : State),
    s.opens who Reg.PAL_FL_CMD →
    exec (.flRead who) s = .next (
      let r := (s.flStart 1, 0)
      r.1.answer St.OK r.2)) ∧

  (∀ (who : Requester) (s : State),
    s.opens who Reg.PAL_FL_CMD →
    exec (.flProgram who) s = .next (
      let r := (s.flStart 2, 0)
      r.1.answer St.OK r.2)) ∧

  (∀ (who : Requester) (s : State),
    s.opens who Reg.PAL_FL_CMD →
    exec (.flErase who) s = .next (
      let r := (s.flStart 3, 0)
      r.1.answer St.OK r.2)) ∧

  (∀ (op a n g : Nat) (s : State),
    s.pal.fl = some (op, a, n, g) → s.flStatus op a n g = St.OK →
    exec (.flAccessComplete) s = .next (
      let l := (s.localOf g).getD 0
      let s := s.setPal { s.pal with fl := none }
      let k := s.free
      let s := if op = 1 then { ((s.setBytes l ((List.range n).map fun i => s.flShown k (a + i))).unpoison l n) with free := k + 1 }
        else if op = 2 then s.flSet a ((List.range n).map fun i => s.flByte (a + i) &&& s.byte (l + i))
        else s.flSet a (List.replicate n 255)
      (s.wrN Reg.PAL_FL_STAT St.OK).raise 988)) ∧

  (∀ (f : NspFrame) (s : State),
    s.bit Reg.SVC_CFG 31 → nspTaken f true → ¬ (s.nsp.open_ && s.chp.clk ≤ s.nsp.at_ + 60 * 10 ^ 9) →
    exec (.nspHello f) s = .next (
      let r := (s.bump Reg.SVC_RX_FRAMES 1).freeBytes 48
      r.2.setNsp { r.2.nsp with hello := some r.1 })) ∧

  (∀ (f : NspFrame) (sigs nonce : List Byte) (s : State),
    s.bit Reg.SVC_CFG 31 → nspTaken f false → s.nsp.hello = some nonce →
    let t := (s.bump Reg.SVC_RX_FRAMES 1).setNsp { s.nsp with hello := none }
    t.lockLeft 16 = 0 → t.authOk 16 nonce sigs →
    exec (.nspAuth f sigs) s = .next (
      let t := t.nspEnd
      let t := t.setNsp { t.nsp with open_ := true, seq := f.seq.toNat, at_ := t.chp.clk, cmdSeq := none, result := [] }
      (((t.setChp { t.chp with fails := sput t.chp.fails 16 0 0 }).chpOpen 17).setBit Reg.SVC_STATUS 30).raise 992)) ∧

  (∀ (f : NspFrame) (op : BitVec 8) (d : Desc) (s : State),
    s.bit Reg.SVC_CFG 31 → nspTaken f false → s.nsp.open_ && f.tag && s.nsp.seq < f.seq.toNat →
    let d := { d with ring := 16, slot := 64, who := .pf }
    let n := op.toNat
    let t := (s.setNsp { s.nsp with seq := f.seq.toNat, at_ := s.chp.clk }).bump Reg.SVC_RX_FRAMES 1
    ¬ t.nsp.cmdSeq = some d.seq.toNat → ¬ (opMeanings n d).isEmpty → s.pal.recovery = 0 →
    exec (.nspCommand f op d) s =
      .next ((opMeanings n d).foldl (fun s m => outState s (m s)) (t.setNsp { t.nsp with cmdSeq := some d.seq.toNat }))) ∧

  (∀ (f : NspFrame) (offset : W32) (data : List Byte) (s t : State),
    s.bit Reg.SVC_CFG 31 → nspTaken f false → s.nsp.open_ && f.tag && s.nsp.seq < f.seq.toNat →
    let u := (s.setNsp { s.nsp with seq := f.seq.toNat, at_ := s.chp.clk }).bump Reg.SVC_RX_FRAMES 1
    offset.toNat + data.length ≤ u.rdN Reg.SVC_BUF_SIZE →
    u.devWrite (cat64 (u.rd Reg.SVC_BUF_BASE_LO) (u.rd Reg.SVC_BUF_BASE_HI) + offset.toNat) data = some t →
    exec (.nspData f offset data) s = .next t) ∧

  (∀ (f : NspFrame) (s : State),
    s.bit Reg.SVC_CFG 31 → nspTaken f false → s.nsp.open_ && f.tag && s.nsp.seq < f.seq.toNat →
    exec (.nspClose f) s =
      .next ((s.setNsp { s.nsp with seq := f.seq.toNat, at_ := s.chp.clk }).bump Reg.SVC_RX_FRAMES 1).nspEnd) ∧

  (∀ (s : State),
    s.nsp.open_ && s.nsp.at_ + 300 * 10 ^ 9 ≤ s.chp.clk →
    exec (.nspSessionTimeout) s = .next s.nspEnd) ∧

  (∀ (up : Bool) (z : State),
    let s := z
    ¬ (s.bit Reg.SVC_STATUS 31 = up) →
    let s := ((s.setFld Reg.SVC_STATUS 31 31 (b2n up)).setBit Reg.SVC_STATUS 29).raise 994
    exec (.serviceLinkChange up) z = .next (if up then s else s.nspEnd))

/-- For each of these commands, in every state and with operands that meet the conditions its clause names (for a command:
admitted by its ring and slot, and its checks pass; for a register: open to the requester and held by it; for an event: the
unit is in the state the event presupposes), exec answers the next state that is the effect its rule gives, written out in the
clause. (19_host_boot_events.md, R598, R605, R610) -/
def Obligations.HostCommandsComplete : Prop :=
  (∀ (func : Fin 17) (write ep : Bool) (addr : BitVec 48) (bytes : BitVec 13) (data : List Byte) (s : State),
    let f := func.val
    let a := addr.toNat
    let n := if write then data.length else bytes.toNat
    let x := leNat data
    exec (.hostAccess func 3 write ep addr bytes data) s = .next (s.config f write ep a n x) ∧
    (¬ (n = 0 || (f ≠ 0 && s.realmState (f - 1) = 0) || s.host.flr.contains f) →
      exec (.hostAccess func 0 write ep addr bytes data) s = .next (s.bar0 f write ep a n x) ∧
      exec (.hostAccess func 1 write ep addr bytes data) s = .next (s.bar2 f write ep a n x) ∧
      exec (.hostAccess func 2 write ep addr bytes data) s = .next (s.bar4 f write ep a n x))) ∧

  (∀ (who : Requester) (write : Bool) (addr : BitVec 48) (bytes : BitVec 10) (data : W64) (z : State),
    let s := z
    let a := addr.toNat
    ¬ (a < 0x100000000000) →
    ¬ (! s.host.bme.contains (s.tlpFunc who)) →
    let t := HostTlp.mk who write (a - 0x100000000000) bytes.toNat data.toNat
    let s := s.setHost { s.host with tlps := s.host.tlps ++ [t] }
    exec (.hostWindowAccess who write addr bytes data) z = .next (if write then ((s.store a bytes.toNat data.toNat).unpoison a bytes.toNat).answer St.OK 0 else s)) ∧

  (∀ (index : Fin 1024) (data : List Byte) (z : State) (t : HostTlp),
    z.host.tlps[index.val]? = some t → ¬ t.write →
    exec (.hostCompletion index 0 data) z = .next (
      let s := z.setHost { z.host with tlps := z.host.tlps.eraseIdx index.val }
      let a := 0x100000000000 + t.addr
      let got := (List.range t.bytes).map fun i => data.getD i 0
      ((s.setBytes a got).unpoison a t.bytes).answer St.OK (leNat got))) ∧

  (∀ (func : Fin 17) (done : Bool) (s : State),
    ¬ (done) →
    exec (.functionLevelReset func done) s = .next (((s.funcReset func).bump Reg.PCI_FLRS 1).raise 1021)) ∧

  (∀ (low : Bool) (z : State),
    let s := z
    ¬ (! low) →
    let s := ((List.range 17).foldl State.funcReset s).setBit Reg.PCI_STATUS 30
    exec (.pciePerst low) z = .next (s.setLink 0)) ∧

  (∀ (rate : Fin 7) (width : Fin 17) (flit : Bool) (s : State),
    exec (.pcieLinkChange rate width flit) s = .next (s.setLink (if rate.val = 0 then 0 else 2 ^ 31 + 2 ^ 30 * b2n flit + 2 ^ 20 * rate.val + width.val * 2 ^ 15))) ∧

  (∀ (d : Desc) (s : State),
    s.admits d →
    firstFail [stoppedOrRunning s d, only16 d] = (St.OK, 0) →
    exec (.hostQuery d) s = .next (
      let s := s.begun 0x90 d
      let r := (s, St.OK, [s.rd Reg.PCI_STATUS, s.rd Reg.PCI_LINK, s.rd Reg.PCI_FLRS, 16])
      (r.1.slotEnd d.slotId r.2.1 r.2.2).ended d)) ∧

  (∀ (d : Desc) (s : State),
    s.admits d →
    firstFail [stoppedOrRunning s d, only16 d, need (d.n 3 = 0xA55A0000) St.BAD_PARAM] = (St.OK, 0) →
    exec (.devReset d) s = .next (
      let s := s.begun 0x91 d
      let t := s.setHost { s.host with warmReq := true }
      t.ended d)) ∧

  (∀ (d : Desc) (s : State),
    let e := cat64 (d.word 4) (d.word 5)
    ¬ (! bitOf (d.n 3) 8) →
    s.admits d →
    firstFail [stoppedOrRunning s d, only16 d,
    need ((s.localOf e).any fun a => s.memOk a 4 && s.hostReach 0 a 4) St.BAD_PARAM,
    need (sget s.host.cores (ctlCore d) none).isNone St.WRONG_STATE] = (St.OK, 0) →
    exec (.coreCtlStart d) s = .next (
      let s := s.begun 0x92 d
      let r := (s.setHost { s.host with cores := sput s.host.cores (ctlCore d) (some e) none }, St.OK, [1])
      (r.1.slotEnd d.slotId r.2.1 r.2.2).ended d)) ∧

  (∀ (d : Desc) (s : State),
    ¬ (bitOf (d.n 3) 8) →
    s.admits d →
    firstFail [stoppedOrRunning s d, only16 d] = (St.OK, 0) →
    exec (.coreCtlStop d) s = .next (
      let s := s.begun 0x92 d
      let r := (s.setHost { s.host with cores := sput s.host.cores (ctlCore d) none none }, St.OK, [0])
      (r.1.slotEnd d.slotId r.2.1 r.2.2).ended d)) ∧

  (∀ (d : Desc) (s : State),
    let e := d.n 3 % 1024
    let r := d.ring.val
    s.admits d →
    firstFail [stoppedOrRunning s d,
    need (r = 16 || s.routeAllowed r e (d.word 4) (d.word 5) (d.word 6)) St.ACCESS_DENIED, need (routeVector (d.word 4)) St.BAD_PARAM] = (St.OK, 0) →
    exec (.evtRoute d) s = .next (
      let s := s.begun 0x93 d
      let r :=
        let old := s.rd (Reg.EVT_ROUTE_W0 e)
        let w2 := if r = 16 then d.n 6 else d.n 6 % 512 + 2 ^ 16 + 2 ^ 20 * r
        (s.writeRoute e (d.n 4) (d.n 5) w2, St.OK, [old])
      (r.1.slotEnd d.slotId r.2.1 r.2.2).ended d)) ∧

  (∀ (d : Desc) (s : State),
    let e := d.n 3 % 1024
    s.admits d →
    firstFail [stoppedOrRunning s d, need (d.ring.val = 16 || s.tiedTo e = d.ring.val) St.ACCESS_DENIED] = (St.OK, 0) →
    exec (.evtQuery d) s = .next (
      let s := s.begun 0x94 d
      let r :=
        (s, St.OK, [s.rd (Reg.EVT_ROUTE_W0 e), s.rd (Reg.EVT_ROUTE_W1 e), s.rd (Reg.EVT_ROUTE_W2 e), s.rd (Reg.EVT_ROUTE_COUNT e),
        w32 (b2n (s.bit (Reg.EVT_PEND (e / 32)) (e % 32)))])
      (r.1.slotEnd d.slotId r.2.1 r.2.2).ended d)) ∧

  (∀ (d : Desc) (s : State),
    s.admits d →
    stoppedOrRunning s d = (St.OK, 0) →
    exec (.evtRaise d) s = .next (
      let s := s.begun 0x95 d
      let r := let s := s.raise 1023; (s, St.OK, [s.rd (Reg.EVT_ROUTE_COUNT 1023)])
      (r.1.slotEnd d.slotId r.2.1 r.2.2).ended d)) ∧

  (∀ (who : Requester) (_value : W32) (s : State),
    s.opens who Reg.EVT_SWSET →
    exec (.swsetWrite who _value) s = .next (
      let r := (s.raise 1023, 0)
      r.1.answer St.OK r.2)) ∧

  (∀ (d : Desc) (s : State),
    let n := d.n 3 % 16
    s.admits d →
    firstFail [stoppedOrRunning s d, only16 d, need (n ≤ 8) St.BAD_PARAM, notExpert s (0x660 + n)] = (St.OK, 0) →
    exec (.bltConfig d) s = .next (
      let s := s.begun 0x96 d
      let r := let s := s.bltConfig n (d.word 4); (s, St.OK, [s.rd (Reg.BLT_WPTR n)])
      (r.1.slotEnd d.slotId r.2.1 r.2.2).ended d)) ∧

  (∀ (who : Requester) (n : Fin 9) (s : State),
    s.opens who (Reg.BLT_CFG n) → s.holds who (Reg.BLT_CFG n) →
    exec (.bltCfgClear who n) s = .next (
      let t := s.bltClear n
      t.answer St.OK 0)) ∧

  (∀ (d : Desc) (s : State),
    bitsOf (d.n 3) 9 8 = 0 → s.admits d →
    firstFail [stoppedOrRunning s d, need (16 ≤ d.tgt || s.portBit d.tgt 0x18 4 (gpioPin d)) St.ACCESS_DENIED] = (St.OK, 0) →
    exec (.gpioCtlRead d) s = .next (
      let t := s.begun 0x97 d
      (t.slotEnd d.slotId St.OK [w32 (b2n (t.gpioLevel (gpioPin d)))]).ended d)) ∧

  (∀ (d : Desc) (s : State),
    bitsOf (d.n 3) 9 8 = 1 → s.admits d →
    firstFail [stoppedOrRunning s d, need (16 ≤ d.tgt || s.portBit d.tgt 0x18 4 (gpioPin d)) St.ACCESS_DENIED] = (St.OK, 0) →
    exec (.gpioCtlDrive d) s = .next (
      let s := s.begun 0x97 d
      let p := gpioPin d
      let t := s.setHost { s.host with gpioOut := setIns s.host.gpioOut p, gpioDrive := setMember s.host.gpioDrive p (bitOf (d.n 3) 10),
                                       gpioEdge := sput s.host.gpioEdge p 0 0 }
      (t.slotEnd d.slotId St.OK [w32 (b2n (t.gpioLevel p))]).ended d)) ∧

  (∀ (d : Desc) (s : State),
    bitsOf (d.n 3) 9 8 = 2 → s.admits d →
    firstFail [stoppedOrRunning s d, need (16 ≤ d.tgt || s.portBit d.tgt 0x18 4 (gpioPin d)) St.ACCESS_DENIED] = (St.OK, 0) →
    exec (.gpioCtlInput d) s = .next (
      let s := s.begun 0x97 d
      let p := gpioPin d
      let t := s.setHost { s.host with gpioOut := s.host.gpioOut.filter (· ≠ p), gpioEdge := sput s.host.gpioEdge p (bitsOf (d.n 3) 13 12) 0 }
      (t.slotEnd d.slotId St.OK [w32 (b2n (t.gpioLevel p))]).ended d)) ∧

  (∀ (pin : Fin 32) (level : Bool) (z : State),
    let s := z
    let p := pin.val
    ¬ (s.host.gpioPin.contains p = level) →
    let e := sget s.host.gpioEdge p 0
    let s := s.setHost { s.host with gpioPin := setMember s.host.gpioPin p level }
    exec (.gpioEdge pin level) z = .next (if ! s.host.gpioOut.contains p && bitOf e (if level then 0 else 1) then s.raise 1022 else s)) ∧

  (∀ (s : State),
    ∀ e, lowest (s.evq.take 16) = some e →
    let q := s.evq.erase e
    exec (.eventDelivery) s = .next (({ s with evq := q }.setFld Reg.EVT_STATUS 8 0 q.length).deliver e)) ∧

  (∀ (token : List Byte) (s : State),
    (s.chpMode = 2 && Config.cryptOk 7 [unitBytes, token]) →
    exec (.debugToken token) s = .next ((s.setHost { s.host with tap := true }).chpOpen 18)) ∧

  (∀ (mode : BitVec 2) (refSel : Bool) (s : State),
    let t := s.afterReset hostKept
    let t := t.setHost { t.host with bootMode := mode.toNat, refSel := b2n refSel, initMem := List.range 6 }
    let t := (t.setPal { t.pal with warm := false }).palBoot
    exec (.coldReset mode refSel) s = .next (t.setChpMode (if s.chp.dead then 4 else 1))) ∧

  (∀ (fatal : Bool) (logic : List (Fin 64)) (fails repaired : BitVec 8) (fences banks : List (Nat × Nat)) (z : State),
    let s := z
    ¬ (s.bit Reg.AVL_BOOT_STAT 31 || s.bit Reg.AVL_BOOT_STAT 30 || s.palMode = 5) →
    ¬ (fatal) →
    let s := s.wrN Reg.AVL_BOOT_STAT (2 ^ 31 + 2 ^ 16 * min logic.length 255 + fails.toNat * 2 ^ 8 + repaired.toNat)
    let s := s.raise 935
    let s := logic.foldl (fun s d => (pncFences d).foldl (fun s u => s.notice 12 u.1 u.2 932) s) s
    let s := (fences.filter wfUnit).foldl (fun s u => (s.fenceUnit u.1 u.2).showFenced u.1 u.2) s
    let s := (banks.filter wfBank).foldl (fun s b => { s with poison := (bankWords b.1 b.2).foldl setIns s.poison }) s
    exec (.bootBistComplete fatal logic fails repaired fences banks) z = .next s.bootChain) ∧

  (∀ (s : State),
    let fresh := fun (a : Nat) => (s.unitOf a).any s.host.initMem.contains
    let t := s.setHost { s.host with initMem := [] }
    exec (.memoryInitialisation) s = .next { t with
      mem := s.mem.filter (fun c => ! fresh c.1), poison := s.poison.filter (fun w => ! fresh (8 * w)),
      retLost := s.retLost.filter (fun m => ! fresh m.lo) }) ∧

  (∀ (z : State),
    let s := z
    ¬ (! s.host.booted || s.pal.recovery ≠ 0 || s.fld Reg.VLM_LOAD_STATUS 7 0 ≠ St.NOT_READY) →
    let e := s.dirEntry 5
    let bs := s.flBytes (flRegion 5).1 (colOffset 5 e.1 + colLen)
    ¬ (e.2.2 = 0) →
    ∀ rs, s.vlmCheck bs none = .ok rs →
    let serial := numB bs 0x10 4
    let s := s.measure 5 serial (cutB bs (colOffset 5 e.1) colLen)
    let s := ((s.bootLoad rs).wr Reg.VLM_LOAD_STATUS 0).wrN Reg.VLM_ACTIVE_SERIAL serial
    let s := ((List.range 16).filter fun r => ! (s.recs 0x10 r).isEmpty).foldl (fun s r =>
      (s.wrN (Reg.VLM_REALM_SERIAL r) serial).realmTo r (if s.realmFlag r 0 && ! s.startBlocked r then 2 else 1)) s
    exec (.bootVellumApply) z = .next (s.setHost { s.host with resetting := false })) ∧

  (∀ (pin : Bool) (s : State),
    let ours := s.pal.warm && s.palMode = 3
    ¬ (s.host.resetting || ! (pin || s.host.warmReq || ours)) →
    let t := s.afterReset warmKept
    let t := t.setHost { t.host with
      bootMode := s.host.bootMode, refSel := s.host.refSel, tap := s.host.tap, resetting := true, initMem := s.memOff }
    let t := t.setChp { t.chp with fails := s.chp.fails, lock := s.chp.lock, clk := s.chp.clk, tested := s.chp.tested }
    let t := t.wr Reg.CHP_TAMPER (s.rd Reg.CHP_TAMPER)
    let t := if ours then
        let t := t.wr Reg.PAL_STATE (s.rd Reg.PAL_STATE)
        s.pal.slot.elim t fun k => t.setRunning k (s.running k)
      else t
    let t := t.palBoot
    exec (.warmReset pin) s = .next (t.setChpMode (if 4 ≤ s.chpMode then s.chpMode else 1)))

/-- For each of these instructions, with every operand, in every state in which it ends a bundle that commits (its Nib runs, is
not frozen and is powered, EOB is 1, and nothing stops or holds the bundle): exec answers the next state that is the commit of
the bundle, with the effects the clause gives for this instruction (registers and the cycle each result lands, stores, the
next pc). (06_nib_core.md, R198, R201, R217) -/
def Obligations.ScalarInstructionsCommit : Prop :=
  (∀ (o : NibOp) (rd ra rb : BitVec 5), Commits (.add o rd ra rb) o (.add rd ra rb) fun c => sRRR c 1 rd ra rb fun a b => a + b) ∧

  (∀ (o : NibOp) (rd ra rb : BitVec 5), Commits (.sub o rd ra rb) o (.sub rd ra rb) fun c => sRRR c 1 rd ra rb fun a b => a + 2 ^ 64 - b) ∧

  (∀ (o : NibOp) (rd ra rb : BitVec 5), Commits (.and o rd ra rb) o (.and rd ra rb) fun c => sRRR c 1 rd ra rb Nat.land) ∧

  (∀ (o : NibOp) (rd ra rb : BitVec 5), Commits (.or o rd ra rb) o (.or rd ra rb) fun c => sRRR c 1 rd ra rb Nat.lor) ∧

  (∀ (o : NibOp) (rd ra rb : BitVec 5), Commits (.xor o rd ra rb) o (.xor rd ra rb) fun c => sRRR c 1 rd ra rb Nat.xor) ∧

  (∀ (o : NibOp) (rd ra rb : BitVec 5), Commits (.sll o rd ra rb) o (.sll rd ra rb) fun c => sRRR c 1 rd ra rb fun a b => a * 2 ^ (b % 64)) ∧

  (∀ (o : NibOp) (rd ra rb : BitVec 5), Commits (.srl o rd ra rb) o (.srl rd ra rb) fun c => sRRR c 1 rd ra rb fun a b => a / 2 ^ (b % 64)) ∧

  (∀ (o : NibOp) (rd ra rb : BitVec 5), Commits (.sra o rd ra rb) o (.sra rd ra rb) fun c =>
    sRRR c 1 rd ra rb fun a b => unsigned 64 (Int.fdiv (s64 a) (2 ^ (b % 64) : Nat))) ∧

  (∀ (o : NibOp) (rd ra rb : BitVec 5), Commits (.slt o rd ra rb) o (.slt rd ra rb) fun c => sRRR c 1 rd ra rb fun a b => b2n (s64 a < s64 b)) ∧

  (∀ (o : NibOp) (rd ra rb : BitVec 5), Commits (.sltu o rd ra rb) o (.sltu rd ra rb) fun c => sRRR c 1 rd ra rb fun a b => b2n (a < b)) ∧

  (∀ (o : NibOp) (rd ra rb : BitVec 5), Commits (.min o rd ra rb) o (.min rd ra rb) fun c => sRRR c 1 rd ra rb fun a b => if s64 b < s64 a then b else a) ∧

  (∀ (o : NibOp) (rd ra rb : BitVec 5), Commits (.max o rd ra rb) o (.max rd ra rb) fun c => sRRR c 1 rd ra rb fun a b => if s64 a < s64 b then b else a) ∧

  (∀ (o : NibOp) (rd ra rb : BitVec 5), Commits (.minu o rd ra rb) o (.minu rd ra rb) fun c => sRRR c 1 rd ra rb min) ∧

  (∀ (o : NibOp) (rd ra rb : BitVec 5), Commits (.maxu o rd ra rb) o (.maxu rd ra rb) fun c => sRRR c 1 rd ra rb max) ∧

  (∀ (o : NibOp) (rd ra : BitVec 5), Commits (.clz o rd ra) o (.clz rd ra) fun c => sRR c rd ra clz64) ∧

  (∀ (o : NibOp) (rd ra : BitVec 5), Commits (.popc o rd ra) o (.popc rd ra) fun c => sRR c rd ra popc64) ∧

  (∀ (o : NibOp) (rd ra rb : BitVec 5), Commits (.addw o rd ra rb) o (.addw rd ra rb) fun c =>
    sRRR c 1 rd ra rb fun a b => w64 (signed 32 a + signed 32 b)) ∧

  (∀ (o : NibOp) (rd ra rb : BitVec 5), Commits (.subw o rd ra rb) o (.subw rd ra rb) fun c =>
    sRRR c 1 rd ra rb fun a b => w64 (signed 32 a - signed 32 b)) ∧

  (∀ (o : NibOp) (rd ra rb : BitVec 5), Commits (.addsw o rd ra rb) o (.addsw rd ra rb) fun c =>
    sRRR c 1 rd ra rb fun a b => w64 (satW 32 (signed 32 a + signed 32 b)).1) ∧

  (∀ (o : NibOp) (rd ra rb : BitVec 5), Commits (.subsw o rd ra rb) o (.subsw rd ra rb) fun c =>
    sRRR c 1 rd ra rb fun a b => w64 (satW 32 (signed 32 a - signed 32 b)).1) ∧

  (∀ (o : NibOp) (rd ra : BitVec 5) (imm : BitVec 12), Commits (.addi o rd ra imm) o (.addi rd ra imm) fun c => sRR c rd ra fun a => unsigned 64 (a + simm imm)) ∧

  (∀ (o : NibOp) (rd ra : BitVec 5) (imm : BitVec 12), Commits (.andi o rd ra imm) o (.andi rd ra imm) fun c => sRR c rd ra fun a => Nat.land a (unsigned 64 (simm imm))) ∧

  (∀ (o : NibOp) (rd ra : BitVec 5) (imm : BitVec 12), Commits (.ori o rd ra imm) o (.ori rd ra imm) fun c => sRR c rd ra fun a => Nat.lor a (unsigned 64 (simm imm))) ∧

  (∀ (o : NibOp) (rd ra : BitVec 5) (imm : BitVec 12), Commits (.xori o rd ra imm) o (.xori rd ra imm) fun c => sRR c rd ra fun a => Nat.xor a (unsigned 64 (simm imm))) ∧

  (∀ (o : NibOp) (rd ra : BitVec 5) (imm : BitVec 12), Commits (.slli o rd ra imm) o (.slli rd ra imm) fun c => sShift c rd ra imm fun a n => a * 2 ^ n) ∧

  (∀ (o : NibOp) (rd ra : BitVec 5) (imm : BitVec 12), Commits (.srli o rd ra imm) o (.srli rd ra imm) fun c => sShift c rd ra imm fun a n => a / 2 ^ n) ∧

  (∀ (o : NibOp) (rd ra : BitVec 5) (imm : BitVec 12), Commits (.srai o rd ra imm) o (.srai rd ra imm) fun c =>
    sShift c rd ra imm fun a n => unsigned 64 (Int.fdiv (s64 a) (2 ^ n : Nat))) ∧

  (∀ (o : NibOp) (rd ra : BitVec 5) (imm : BitVec 12), Commits (.slti o rd ra imm) o (.slti rd ra imm) fun c => sRR c rd ra fun a => b2n (s64 a < simm imm)) ∧

  (∀ (o : NibOp) (rd : BitVec 5) (imm : BitVec 20), Commits (.lui o rd imm) o (.lui rd imm) fun c =>
    { cls := 0, uses := [c.k rd], effs := [.reg (c.k rd) (unsigned 64 (simm imm * 4096)) 1] }) ∧

  (∀ (o : NibOp) (rd : BitVec 5) (imm : BitVec 20), Commits (.addpc o rd imm) o (.addpc rd imm) fun c =>
    { cls := 0, uses := [c.k rd], effs := [.reg (c.k rd) (unsigned 64 (c.x.pc + simm imm * 4096)) 1] }) ∧

  (∀ (o : NibOp) (rd ra rb : BitVec 5), Commits (.mul o rd ra rb) o (.mul rd ra rb) fun c => sRRR c 3 rd ra rb fun a b => a * b) ∧

  (∀ (o : NibOp) (rd ra rb : BitVec 5), Commits (.mulh o rd ra rb) o (.mulh rd ra rb) fun c =>
    sRRR c 3 rd ra rb fun a b => unsigned 64 (Int.fdiv (s64 a * s64 b) (2 ^ 64 : Nat))) ∧

  (∀ (o : NibOp) (rd ra rb : BitVec 5), Commits (.mulhu o rd ra rb) o (.mulhu rd ra rb) fun c => sRRR c 3 rd ra rb fun a b => a * b / 2 ^ 64) ∧

  (∀ (o : NibOp) (rd ra rb : BitVec 5), Commits (.mulw o rd ra rb) o (.mulw rd ra rb) fun c =>
    sRRR c 3 rd ra rb fun a b => w64 (signed 32 a * signed 32 b)) ∧

  (∀ (o : NibOp) (rd ra : BitVec 5) (pos wid : BitVec 6), Commits (.extu o rd ra pos wid) o (.extu rd ra pos wid) fun c =>
    sField c rd ra pos wid fun a _ => bitsOf a (pos.toNat + wid.toNat) pos.toNat) ∧

  (∀ (o : NibOp) (rd ra : BitVec 5) (pos wid : BitVec 6), Commits (.exts o rd ra pos wid) o (.exts rd ra pos wid) fun c =>
    sField c rd ra pos wid fun a _ => sext (wid.toNat + 1) (bitsOf a (pos.toNat + wid.toNat) pos.toNat)) ∧

  (∀ (o : NibOp) (rd ra : BitVec 5) (pos wid : BitVec 6), Commits (.ins o rd ra pos wid) o (.ins rd ra pos wid) fun c =>
    sField c rd ra pos wid fun a d => putBits d (pos.toNat + wid.toNat) pos.toNat (bitsOf a wid.toNat 0)) ∧

  (∀ (o : NibOp) (rd ra rb rc : BitVec 5), Commits (.sel o rd ra rb rc) o (.sel rd ra rb rc) fun c =>
    { cls := 0, uses := [c.k rd, c.k ra, c.k rb, c.k rc],
      effs := [.reg (c.k rd) (if c.r rc ≠ 0 then c.r ra else c.r rb) 1] }) ∧

  (∀ (o : NibOp) (ra rb : BitVec 5) (off : BitVec 12), Commits (.beq o ra rb off) o (.beq ra rb off) fun c => sBranch c ra rb off (c.r ra == c.r rb)) ∧

  (∀ (o : NibOp) (ra rb : BitVec 5) (off : BitVec 12), Commits (.bne o ra rb off) o (.bne ra rb off) fun c => sBranch c ra rb off (c.r ra != c.r rb)) ∧

  (∀ (o : NibOp) (ra rb : BitVec 5) (off : BitVec 12), Commits (.blt o ra rb off) o (.blt ra rb off) fun c => sBranch c ra rb off (s64 (c.r ra) < s64 (c.r rb))) ∧

  (∀ (o : NibOp) (ra rb : BitVec 5) (off : BitVec 12), Commits (.bge o ra rb off) o (.bge ra rb off) fun c => sBranch c ra rb off (s64 (c.r rb) ≤ s64 (c.r ra))) ∧

  (∀ (o : NibOp) (ra rb : BitVec 5) (off : BitVec 12), Commits (.bltu o ra rb off) o (.bltu ra rb off) fun c => sBranch c ra rb off (c.r ra < c.r rb)) ∧

  (∀ (o : NibOp) (ra rb : BitVec 5) (off : BitVec 12), Commits (.bgeu o ra rb off) o (.bgeu ra rb off) fun c => sBranch c ra rb off (c.r rb ≤ c.r ra)) ∧

  (∀ (o : NibOp) (rd : BitVec 5) (off : BitVec 20), Commits (.jal o rd off) o (.jal rd off) fun c =>
    { cls := 0, uses := [c.k rd], effs := [.reg (c.k rd) c.nxt 1, .jump (unsigned 64 (c.x.pc + 4 * simm off))] }) ∧

  (∀ (o : NibOp) (rd ra : BitVec 5) (imm : BitVec 12), Commits (.jalr o rd ra imm) o (.jalr rd ra imm) fun c =>
    { cls := 0, uses := [c.k rd, c.k ra],
      effs := [.reg (c.k rd) c.nxt 1, .jump (unsigned 64 (c.r ra + simm imm) / 4 * 4)] }) ∧

  (∀ (o : NibOp) (rd : BitVec 5) (num : BitVec 12), Commits (.mfsr o rd num) o (.mfsr rd num) fun c =>
    actMFSR c rd num) ∧

  (∀ (o : NibOp) (ra : BitVec 5) (num : BitVec 12), Commits (.mtsr o ra num) o (.mtsr ra num) fun c =>
    actMTSR c ra num) ∧

  (∀ (o : NibOp) (rd : BitVec 5) (num : BitVec 12), Commits (.mftb o rd num) o (.mftb rd num) fun c =>
    match tbKey num.toNat with
    | none => c.x.illegal 0
    | some k => c.x.priv { cls := 0, uses := [c.k rd, k], effs := [.reg (c.k rd) (c.x.get k) 1] }) ∧

  (∀ (o : NibOp) (ra : BitVec 5) (num : BitVec 12), Commits (.mttb o ra num) o (.mttb ra num) fun c =>
    match tbKey num.toNat with
    | none => c.x.illegal 0
    | some k => c.x.priv { cls := 0, uses := [c.k ra, k], effs := [.put k (Nat.land (c.r ra) (keyMask k))] }) ∧

  (∀ (o : NibOp), Commits (.rfe o) o (.rfe) fun c => c.x.priv { cls := 0, effs := [.rfe] }) ∧

  (∀ (o : NibOp), Commits (.wait o) o (.wait) fun c => c.x.priv { cls := 0, effs := [.wait] }) ∧

  (∀ (o : NibOp) (ra : BitVec 5) (imm : BitVec 12), Commits (.dclean o ra imm) o (.dclean ra imm) fun c => sCache c 0 ra imm) ∧

  (∀ (o : NibOp) (ra : BitVec 5) (imm : BitVec 12), Commits (.dinv o ra imm) o (.dinv ra imm) fun c => c.x.priv (sCache c 1 ra imm)) ∧

  (∀ (o : NibOp) (ra : BitVec 5) (imm : BitVec 12), Commits (.dflush o ra imm) o (.dflush ra imm) fun c => sCache c 2 ra imm) ∧

  (∀ (o : NibOp) (ra : BitVec 5) (imm : BitVec 12), Commits (.dpref o ra imm) o (.dpref ra imm) fun c => sCache c 3 ra imm) ∧

  (∀ (o : NibOp) (ra : BitVec 5) (imm : BitVec 12), Commits (.icinv o ra imm) o (.icinv ra imm) fun c => sCache c 4 ra imm) ∧

  (∀ (o : NibOp), Commits (.icinvAll o) o (.icinvAll) fun c => c.x.priv { cls := 0, effs := [.cache 5 0] }) ∧

  (∀ (o : NibOp), Commits (.dflushAll o) o (.dflushAll) fun c => c.x.priv { cls := 0, effs := [.cache 6 0] })

/-- For each of these instructions, with every operand, in every state in which it ends a bundle that commits (its Nib runs, is
not frozen and is powered, EOB is 1, and nothing stops or holds the bundle): exec answers the next state that is the commit of
the bundle, with the effects the clause gives for this instruction (registers and the cycle each result lands, stores, the
next pc). (06_nib_core.md, R198) -/
def Obligations.ScalarMemoryInstructionsCommit : Prop :=
  (∀ (o : NibOp) (rd ra : BitVec 5) (imm : BitVec 12), Commits (.lb o rd ra imm) o (.lb rd ra imm) fun c => sLoad c rd ra imm 1 true) ∧

  (∀ (o : NibOp) (rd ra : BitVec 5) (imm : BitVec 12), Commits (.lh o rd ra imm) o (.lh rd ra imm) fun c => sLoad c rd ra imm 2 true) ∧

  (∀ (o : NibOp) (rd ra : BitVec 5) (imm : BitVec 12), Commits (.lw o rd ra imm) o (.lw rd ra imm) fun c => sLoad c rd ra imm 4 true) ∧

  (∀ (o : NibOp) (rd ra : BitVec 5) (imm : BitVec 12), Commits (.ld o rd ra imm) o (.ld rd ra imm) fun c => sLoad c rd ra imm 8 false) ∧

  (∀ (o : NibOp) (rd ra : BitVec 5) (imm : BitVec 12), Commits (.lbu o rd ra imm) o (.lbu rd ra imm) fun c => sLoad c rd ra imm 1 false) ∧

  (∀ (o : NibOp) (rd ra : BitVec 5) (imm : BitVec 12), Commits (.lhu o rd ra imm) o (.lhu rd ra imm) fun c => sLoad c rd ra imm 2 false) ∧

  (∀ (o : NibOp) (rd ra : BitVec 5) (imm : BitVec 12), Commits (.lwu o rd ra imm) o (.lwu rd ra imm) fun c => sLoad c rd ra imm 4 false) ∧

  (∀ (o : NibOp) (rs ra : BitVec 5) (imm : BitVec 12), Commits (.sb o rs ra imm) o (.sb rs ra imm) fun c => sStore c rs ra imm 1) ∧

  (∀ (o : NibOp) (rs ra : BitVec 5) (imm : BitVec 12), Commits (.sh o rs ra imm) o (.sh rs ra imm) fun c => sStore c rs ra imm 2) ∧

  (∀ (o : NibOp) (rs ra : BitVec 5) (imm : BitVec 12), Commits (.sw o rs ra imm) o (.sw rs ra imm) fun c => sStore c rs ra imm 4) ∧

  (∀ (o : NibOp) (rs ra : BitVec 5) (imm : BitVec 12), Commits (.sd o rs ra imm) o (.sd rs ra imm) fun c => sStore c rs ra imm 8) ∧

  (∀ (o : NibOp) (rd : BitVec 5) (cb : BitVec 3) (size : BitVec 2) (sgn incsel : Bool) (inc : BitVec 13), Commits (.ldc o rd cb size sgn incsel inc) o (.ldc rd cb size sgn incsel inc) fun c =>
    let p := c.circ cb incsel inc
    sLoadAt c p.2.1 rd (c.r p.1) (2 ^ size.toNat) sgn p.2.2) ∧

  (∀ (o : NibOp) (rs : BitVec 5) (cb : BitVec 3) (size : BitVec 2) (incsel : Bool) (inc : BitVec 13), Commits (.stc o rs cb size incsel inc) o (.stc rs cb size incsel inc) fun c =>
    let p := c.circ cb incsel inc
    sStoreAt c p.2.1 rs (c.r p.1) (2 ^ size.toNat) p.2.2) ∧

  (∀ (o : NibOp) (rd ra rb : BitVec 5), Commits (.amoaddW o rd ra rb) o (.amoaddW rd ra rb) fun c => sAmo c rd ra rb 4 0) ∧

  (∀ (o : NibOp) (rd ra rb : BitVec 5), Commits (.amoaddD o rd ra rb) o (.amoaddD rd ra rb) fun c => sAmo c rd ra rb 8 0) ∧

  (∀ (o : NibOp) (rd ra rb : BitVec 5), Commits (.amoswapW o rd ra rb) o (.amoswapW rd ra rb) fun c => sAmo c rd ra rb 4 1) ∧

  (∀ (o : NibOp) (rd ra rb : BitVec 5), Commits (.amoswapD o rd ra rb) o (.amoswapD rd ra rb) fun c => sAmo c rd ra rb 8 1) ∧

  (∀ (o : NibOp) (rd ra rb : BitVec 5), Commits (.amocasW o rd ra rb) o (.amocasW rd ra rb) fun c => sAmo c rd ra rb 4 2) ∧

  (∀ (o : NibOp) (rd ra rb : BitVec 5), Commits (.amocasD o rd ra rb) o (.amocasD rd ra rb) fun c => sAmo c rd ra rb 8 2) ∧

  (∀ (o : NibOp) (rd ra rb : BitVec 5), Commits (.amoandD o rd ra rb) o (.amoandD rd ra rb) fun c => sAmo c rd ra rb 8 3) ∧

  (∀ (o : NibOp) (rd ra rb : BitVec 5), Commits (.amoorD o rd ra rb) o (.amoorD rd ra rb) fun c => sAmo c rd ra rb 8 4)

/-- For each of these instructions, with every operand, in every state in which it ends a bundle that commits (its Nib runs, is
not frozen and is powered, EOB is 1, and nothing stops or holds the bundle): exec answers the next state that is the commit of
the bundle, with the effects the clause gives for this instruction (registers and the cycle each result lands, stores, the
next pc). (07_nib_vector.md, R269, R270) -/
def Obligations.VectorArithmeticCommits : Prop :=
  (∀ (o : NibOp) (rd rs : BitVec 5) (etype : BitVec 3) (lig : BitVec 2), Commits (.vspan o rd rs etype lig) o (.vspan rd rs etype lig) fun c =>
    let n := c.r rs
    let v := min n (vlcap etype.toNat lig.toNat)
    { cls := 1, uses := [c.k rd, c.k rs],
      effs := [.put (4096 + 0x80) (lig.toNat * 8 + etype.toNat), .put (4096 + 0x81) v, .reg (c.k rd) (n - v) 1, .beats 1] }) ∧

  (∀ (o : NibOp) (bits : BitVec 9), Commits (.vctl o bits) o (.vctl bits) fun c =>
    if bitOf bits.toNat 4 then c.x.illegal 1 else { cls := 1, effs := [.vctl bits.toNat, .beats 1] }) ∧

  (∀ (o : NibOp) (rd : BitVec 5) (etype : BitVec 3) (lig : BitVec 2), Commits (.vcapi o rd etype lig) o (.vcapi rd etype lig) fun c =>
    { cls := 1, uses := [c.k rd], effs := [.reg (c.k rd) (vlcap etype.toNat lig.toNat) 1, .beats 1] }) ∧

  (∀ (o : NibOp) (vd a : BitVec 5) (b : VSrc) (pg : BitVec 3), Commits (.vadd o vd a b pg) o (.vadd vd a b pg) fun c => vWrap c tIntC vd a b pg fun x y => x + y) ∧

  (∀ (o : NibOp) (vd a : BitVec 5) (b : VSrc) (pg : BitVec 3), Commits (.vsub o vd a b pg) o (.vsub vd a b pg) fun c => vWrap c tIntC vd a b pg fun x y => x + 2 ^ c.cw - y) ∧

  (∀ (o : NibOp) (vd a : BitVec 5) (b : VSrc) (pg : BitVec 3), Commits (.vand o vd a b pg) o (.vand vd a b pg) fun c => vWrap c tAll vd a b pg Nat.land) ∧

  (∀ (o : NibOp) (vd a : BitVec 5) (b : VSrc) (pg : BitVec 3), Commits (.vor o vd a b pg) o (.vor vd a b pg) fun c => vWrap c tAll vd a b pg Nat.lor) ∧

  (∀ (o : NibOp) (vd a : BitVec 5) (b : VSrc) (pg : BitVec 3), Commits (.vxor o vd a b pg) o (.vxor vd a b pg) fun c => vWrap c tAll vd a b pg Nat.xor) ∧

  (∀ (o : NibOp) (vd a : BitVec 5) (b : VSrc) (pg : BitVec 3), Commits (.vmin o vd a b pg) o (.vmin vd a b pg) fun c =>
    vWrap c tInt vd a b pg fun x y => if signed c.cw y < signed c.cw x then y else x) ∧

  (∀ (o : NibOp) (vd a : BitVec 5) (b : VSrc) (pg : BitVec 3), Commits (.vmax o vd a b pg) o (.vmax vd a b pg) fun c =>
    vWrap c tInt vd a b pg fun x y => if signed c.cw x < signed c.cw y then y else x) ∧

  (∀ (o : NibOp) (vd a : BitVec 5) (b : VSrc) (pg : BitVec 3), Commits (.vminu o vd a b pg) o (.vminu vd a b pg) fun c => vWrap c tInt vd a b pg min) ∧

  (∀ (o : NibOp) (vd a : BitVec 5) (b : VSrc) (pg : BitVec 3), Commits (.vmaxu o vd a b pg) o (.vmaxu vd a b pg) fun c => vWrap c tInt vd a b pg max) ∧

  (∀ (o : NibOp) (vd a : BitVec 5) (b : VSrc) (pg : BitVec 3), Commits (.vsll o vd a b pg) o (.vsll vd a b pg) fun c =>
    vShift c true vd a b pg fun x n => (x * 2 ^ n % 2 ^ c.cw, false)) ∧

  (∀ (o : NibOp) (vd a : BitVec 5) (b : VSrc) (pg : BitVec 3), Commits (.vsrl o vd a b pg) o (.vsrl vd a b pg) fun c => vShift c true vd a b pg fun x n => (x / 2 ^ n, false)) ∧

  (∀ (o : NibOp) (vd a : BitVec 5) (b : VSrc) (pg : BitVec 3), Commits (.vsra o vd a b pg) o (.vsra vd a b pg) fun c =>
    vShift c true vd a b pg fun x n => (unsigned c.cw (Int.fdiv (signed c.cw x) (2 ^ n : Nat)), false)) ∧

  (∀ (o : NibOp) (vd a : BitVec 5) (b : VSrc) (pg : BitVec 3), Commits (.vmul o vd a b pg) o (.vmul vd a b pg) fun c =>
    vMulOp c tInt true vd a b pg fun x y => (x * y % 2 ^ c.cw, false)) ∧

  (∀ (o : NibOp) (vd a : BitVec 5) (b : VSrc) (pg : BitVec 3), Commits (.vmulh o vd a b pg) o (.vmulh vd a b pg) fun c =>
    vMulOp c tInt true vd a b pg fun x y =>
      (unsigned c.cw (Int.fdiv (signed c.cw x * signed c.cw y) (2 ^ c.cw : Nat)), false)) ∧

  (∀ (o : NibOp) (vd a : BitVec 5) (b : VSrc) (pg : BitVec 3), Commits (.vmulhu o vd a b pg) o (.vmulhu vd a b pg) fun c =>
    vMulOp c tInt true vd a b pg fun x y => (x * y / 2 ^ c.cw, false)) ∧

  (∀ (o : NibOp) (vd a : BitVec 5) (b : VSrc) (pg : BitVec 3), Commits (.vmerge o vd a b pg) o (.vmerge vd a b pg) fun c =>
    actVMERGE c vd a b pg) ∧

  (∀ (o : NibOp) (vd : BitVec 5) (b : VSrc) (pg : BitVec 3), Commits (.vmv o vd b pg) o (.vmv vd b pg) fun c =>
    vSame c tAll 2 (beatsAlu c) true true vd vd b pg fun _ y _ => (y, false)) ∧

  (∀ (o : NibOp) (vd a : BitVec 5) (b : VSrc) (pg : BitVec 3), Commits (.vsadd o vd a b pg) o (.vsadd vd a b pg) fun c =>
    vSatOp c tIntC vd a b pg fun x y => satTo c.cw (signed c.cw x + signed c.cw y)) ∧

  (∀ (o : NibOp) (vd a : BitVec 5) (b : VSrc) (pg : BitVec 3), Commits (.vssub o vd a b pg) o (.vssub vd a b pg) fun c =>
    vSatOp c tIntC vd a b pg fun x y => satTo c.cw (signed c.cw x - signed c.cw y)) ∧

  (∀ (o : NibOp) (vd a : BitVec 5) (b : VSrc) (pg : BitVec 3), Commits (.vsaddu o vd a b pg) o (.vsaddu vd a b pg) fun c => vSatOp c tIntC vd a b pg fun x y => satUTo c.cw (x + y)) ∧

  (∀ (o : NibOp) (vd a : BitVec 5) (b : VSrc) (pg : BitVec 3), Commits (.vssubu o vd a b pg) o (.vssubu vd a b pg) fun c =>
    vSatOp c tIntC vd a b pg fun x y => satUTo c.cw ((x : Int) - y)) ∧

  (∀ (o : NibOp) (vd a : BitVec 5) (b : VSrc) (pg : BitVec 3), Commits (.vavg o vd a b pg) o (.vavg vd a b pg) fun c =>
    vSatOp c tIntC vd a b pg fun x y => (unsigned c.cw (roundShift (signed c.cw x + signed c.cw y) 1 c.rm), false)) ∧

  (∀ (o : NibOp) (vd a : BitVec 5) (b : VSrc) (pg : BitVec 3), Commits (.vmulq o vd a b pg) o (.vmulq vd a b pg) fun c =>
    vMulOp c tNarrow false vd a b pg fun x y => satTo c.cw (roundShift (signed c.cw x * signed c.cw y) (c.cw - 1) c.rm)) ∧

  (∀ (o : NibOp) (vd a : BitVec 5) (b : VSrc) (pg : BitVec 3), Commits (.vssll o vd a b pg) o (.vssll vd a b pg) fun c =>
    vShift c false vd a b pg fun x n => satTo c.cw (signed c.cw x * (2 ^ n : Nat))) ∧

  (∀ (o : NibOp) (vd a : BitVec 5) (b : VSrc) (pg : BitVec 3), Commits (.vsrar o vd a b pg) o (.vsrar vd a b pg) fun c =>
    vShift c false vd a b pg fun x n => (unsigned c.cw (roundShift (signed c.cw x) n c.rm), false)) ∧

  (∀ (o : NibOp) (vd a : BitVec 5) (pg : BitVec 3), Commits (.vsabs o vd a pg) o (.vsabs vd a pg) fun c =>
    vUnary c tInt 2 vd a pg fun x => compwise (fun p _ => satTo c.cw (signed c.cw p).natAbs) x x) ∧

  (∀ (o : NibOp) (vd a : BitVec 5) (pg : BitVec 3), Commits (.vsneg o vd a pg) o (.vsneg vd a pg) fun c =>
    vUnary c tIntC 2 vd a pg fun x => compwise (fun p _ => satTo c.cw (-(signed c.cw p))) x x) ∧

  (∀ (o : NibOp) (vd a : BitVec 5) (b : VSrc) (pg : BitVec 3), Commits (.vcmul o vd a b pg) o (.vcmul vd a b pg) fun c => vCmul c false vd a b pg) ∧

  (∀ (o : NibOp) (vd a : BitVec 5) (b : VSrc) (pg : BitVec 3), Commits (.vcmulj o vd a b pg) o (.vcmulj vd a b pg) fun c => vCmul c true vd a b pg) ∧

  (∀ (o : NibOp) (vd a : BitVec 5) (pg : BitVec 3), Commits (.vconj o vd a pg) o (.vconj vd a pg) fun c =>
    vUnary c tCplx 2 vd a pg fun x =>
      let i := satTo c.cw (-(signed c.cw (x.getD 1 0)))
      ([x.getD 0 0, i.1], i.2)) ∧

  (∀ (o : NibOp) (vd a : BitVec 5) (b : VSrc) (pg : BitVec 3), Commits (.vwadd o vd a b pg) o (.vwadd vd a b pg) fun c =>
    vWiden c tNarrow 2 vd a b pg true fun x y => List.zipWith (fun p q => unsigned (2 * c.cw) (signed c.cw p + signed c.cw q)) x y) ∧

  (∀ (o : NibOp) (vd a : BitVec 5) (b : VSrc) (pg : BitVec 3), Commits (.vwsub o vd a b pg) o (.vwsub vd a b pg) fun c =>
    vWiden c tNarrow 2 vd a b pg true fun x y => List.zipWith (fun p q => unsigned (2 * c.cw) (signed c.cw p - signed c.cw q)) x y) ∧

  (∀ (o : NibOp) (vd a : BitVec 5) (b : VSrc) (pg : BitVec 3), Commits (.vwmul o vd a b pg) o (.vwmul vd a b pg) fun c =>
    vWiden c tNarrow 3 vd a b pg true fun x y => List.zipWith (fun p q => unsigned (2 * c.cw) (signed c.cw p * signed c.cw q)) x y) ∧

  (∀ (o : NibOp) (vd a : BitVec 5) (b : VSrc) (pg : BitVec 3), Commits (.vwmulu o vd a b pg) o (.vwmulu vd a b pg) fun c =>
    vWiden c tNarrow 3 vd a b pg true fun x y => List.zipWith (fun p q => p * q) x y) ∧

  (∀ (o : NibOp) (vd a : BitVec 5) (b : VSrc) (pg : BitVec 3), Commits (.vwcmul o vd a b pg) o (.vwcmul vd a b pg) fun c =>
    vWiden c [4] 3 vd a b pg true fun x y =>
      let p := cprod c.cw false x y
      [unsigned 32 p.1, unsigned 32 p.2]) ∧

  (∀ (o : NibOp) (vd a : BitVec 5) (b : VSrc) (pg : BitVec 3), Commits (.vnsra o vd a b pg) o (.vnsra vd a b pg) fun c =>
    vNarrow c [0, 1, 2, 4] 2 vd a b pg fun x n => (unsigned c.cw (roundShift (signed (2 * c.cw) x) n c.rm), false)) ∧

  (∀ (o : NibOp) (vd a : BitVec 5) (b : VSrc) (pg : BitVec 3), Commits (.vnclip o vd a b pg) o (.vnclip vd a b pg) fun c =>
    vNarrow c [0, 1, 2, 4] 2 vd a b pg fun x n => satTo c.cw (roundShift (signed (2 * c.cw) x) n c.rm)) ∧

  (∀ (o : NibOp) (vd a : BitVec 5) (b : VSrc) (pg : BitVec 3), Commits (.vnclipu o vd a b pg) o (.vnclipu vd a b pg) fun c =>
    vNarrow c [0, 1, 2, 4] 2 vd a b pg fun x n => satUTo c.cw (roundShift x n c.rm)) ∧

  (∀ (o : NibOp) (vd a : BitVec 5) (pg : BitVec 3), Commits (.vsext o vd a pg) o (.vsext vd a pg) fun c =>
    vWiden c tNarrow 2 vd a (.v a) pg false fun x _ => x.map fun p => unsigned (2 * c.cw) (signed c.cw p)) ∧

  (∀ (o : NibOp) (vd a : BitVec 5) (pg : BitVec 3), Commits (.vzext o vd a pg) o (.vzext vd a pg) fun c => vWiden c tNarrow 2 vd a (.v a) pg false fun x _ => x) ∧

  (∀ (o : NibOp) (acc : BitVec 2) (a : BitVec 5) (b : VSrc) (pg : BitVec 3), Commits (.vmac o acc a b pg) o (.vmac acc a b pg) fun c => vMac c 0 false acc a b pg fun x y => [rprod 16 x y]) ∧

  (∀ (o : NibOp) (acc : BitVec 2) (a : BitVec 5) (b : VSrc) (pg : BitVec 3), Commits (.vmsu o acc a b pg) o (.vmsu acc a b pg) fun c => vMac c 0 false acc a b pg fun x y => [-(rprod 16 x y)]) ∧

  (∀ (o : NibOp) (acc : BitVec 2) (a : BitVec 5) (b : VSrc) (pg : BitVec 3), Commits (.vmacz o acc a b pg) o (.vmacz acc a b pg) fun c => vMac c 0 true acc a b pg fun x y => [rprod 16 x y]) ∧

  (∀ (o : NibOp) (acc : BitVec 2) (a : BitVec 5) (b : VSrc) (pg : BitVec 3), Commits (.vcmac o acc a b pg) o (.vcmac acc a b pg) fun c =>
    vMac c 4 false acc a b pg fun x y => let p := cprod 16 false x y; [p.1, p.2]) ∧

  (∀ (o : NibOp) (acc : BitVec 2) (a : BitVec 5) (b : VSrc) (pg : BitVec 3), Commits (.vcmacj o acc a b pg) o (.vcmacj acc a b pg) fun c =>
    vMac c 4 false acc a b pg fun x y => let p := cprod 16 true x y; [p.1, p.2]) ∧

  (∀ (o : NibOp) (acc : BitVec 2) (a : BitVec 5) (b : VSrc) (pg : BitVec 3), Commits (.vcmacz o acc a b pg) o (.vcmacz acc a b pg) fun c =>
    vMac c 4 true acc a b pg fun x y => let p := cprod 16 false x y; [p.1, p.2]) ∧

  (∀ (o : NibOp) (acc : BitVec 2) (a : BitVec 5) (b : VSrc) (pg : BitVec 3), Commits (.vcmsu o acc a b pg) o (.vcmsu acc a b pg) fun c =>
    vMac c 4 false acc a b pg fun x y => let p := cprod 16 false x y; [-p.1, -p.2]) ∧

  (∀ (o : NibOp) (vd : BitVec 5) (acc : BitVec 2) (sh : BitVec 5) (pg : BitVec 3), Commits (.vaext o vd acc sh pg) o (.vaext vd acc sh pg) fun c =>
    actVAEXT c vd acc sh pg) ∧

  (∀ (o : NibOp) (v : BitVec 5) (acc : BitVec 2) (sh : BitVec 5) (pg : BitVec 3), Commits (.vamov o v acc sh pg) o (.vamov v acc sh pg) fun c =>
    actVAMOV c v acc sh pg) ∧

  (∀ (o : NibOp) (acc : BitVec 2), Commits (.vaclr o acc) o (.vaclr acc) fun _ =>
    let a := acc.toNat
    { cls := 1, uses := [105 + a],
      effs := (List.range 64).map (fun l => Eff.put (1000 + 64 * a + l) 0) ++ [.put (4096 + 0x84 + a) 0, .beats 1] }) ∧

  (∀ (o : NibOp) (acc : BitVec 2), Commits (.vaclrf o acc) o (.vaclrf acc) fun _ =>
    { cls := 1, uses := [105 + acc.toNat], effs := [.put (4096 + 0x84 + acc.toNat) 0, .beats 1] })

/-- For each of these instructions, with every operand, in every state in which it ends a bundle that commits (its Nib runs, is
not frozen and is powered, EOB is 1, and nothing stops or holds the bundle): exec answers the next state that is the commit of
the bundle, with the effects the clause gives for this instruction (registers and the cycle each result lands, stores, the
next pc). (07_nib_vector.md, R269, R270) -/
def Obligations.VectorPredicatesCommit : Prop :=
  (∀ (o : NibOp) (pd : BitVec 3) (a : BitVec 5) (b : VSrc) (pg : BitVec 3), Commits (.vcmpeq o pd a b pg) o (.vcmpeq pd a b pg) fun c => vCmp c tIntC pd a b pg fun x y => x == y) ∧

  (∀ (o : NibOp) (pd : BitVec 3) (a : BitVec 5) (b : VSrc) (pg : BitVec 3), Commits (.vcmpne o pd a b pg) o (.vcmpne pd a b pg) fun c => vCmp c tIntC pd a b pg fun x y => x != y) ∧

  (∀ (o : NibOp) (pd : BitVec 3) (a : BitVec 5) (b : VSrc) (pg : BitVec 3), Commits (.vcmplt o pd a b pg) o (.vcmplt pd a b pg) fun c => vCmpS c pd a b pg fun x y => x < y) ∧

  (∀ (o : NibOp) (pd : BitVec 3) (a : BitVec 5) (b : VSrc) (pg : BitVec 3), Commits (.vcmple o pd a b pg) o (.vcmple pd a b pg) fun c => vCmpS c pd a b pg fun x y => x ≤ y) ∧

  (∀ (o : NibOp) (pd : BitVec 3) (a : BitVec 5) (b : VSrc) (pg : BitVec 3), Commits (.vcmpltu o pd a b pg) o (.vcmpltu pd a b pg) fun c => vCmp c tInt pd a b pg fun x y => x.getD 0 0 < y.getD 0 0) ∧

  (∀ (o : NibOp) (pd : BitVec 3) (a : BitVec 5) (b : VSrc) (pg : BitVec 3), Commits (.vcmpleu o pd a b pg) o (.vcmpleu pd a b pg) fun c => vCmp c tInt pd a b pg fun x y => x.getD 0 0 ≤ y.getD 0 0) ∧

  (∀ (o : NibOp) (pd : BitVec 3) (a : BitVec 5) (b : VSrc) (pg : BitVec 3), Commits (.vcmpgt o pd a b pg) o (.vcmpgt pd a b pg) fun c => vCmpS c pd a b pg fun x y => y < x) ∧

  (∀ (o : NibOp) (pd : BitVec 3) (a : BitVec 5) (b : VSrc) (pg : BitVec 3), Commits (.vcmpge o pd a b pg) o (.vcmpge pd a b pg) fun c => vCmpS c pd a b pg fun x y => y ≤ x) ∧

  (∀ (o : NibOp) (pd ps1 ps2 pg : BitVec 3), Commits (.pand o pd ps1 ps2 pg) o (.pand pd ps1 ps2 pg) fun c =>
    pWrite c pd pg [pkey ps1, pkey ps2] fun i => c.pbit ps1.toNat i && c.pbit ps2.toNat i) ∧

  (∀ (o : NibOp) (pd ps1 ps2 pg : BitVec 3), Commits (.por o pd ps1 ps2 pg) o (.por pd ps1 ps2 pg) fun c =>
    pWrite c pd pg [pkey ps1, pkey ps2] fun i => c.pbit ps1.toNat i || c.pbit ps2.toNat i) ∧

  (∀ (o : NibOp) (pd ps1 ps2 pg : BitVec 3), Commits (.pxor o pd ps1 ps2 pg) o (.pxor pd ps1 ps2 pg) fun c =>
    pWrite c pd pg [pkey ps1, pkey ps2] fun i => xor (c.pbit ps1.toNat i) (c.pbit ps2.toNat i)) ∧

  (∀ (o : NibOp) (pd ps1 ps2 pg : BitVec 3), Commits (.pandn o pd ps1 ps2 pg) o (.pandn pd ps1 ps2 pg) fun c =>
    pWrite c pd pg [pkey ps1, pkey ps2] fun i => c.pbit ps1.toNat i && ! c.pbit ps2.toNat i) ∧

  (∀ (o : NibOp) (pd pg : BitVec 3), Commits (.pffget o pd pg) o (.pffget pd pg) fun c => pWrite c pd pg [104] fun i => bitOf (c.x.get 104) i) ∧

  (∀ (o : NibOp) (pd : BitVec 3) (rs : BitVec 5) (pg : BitVec 3), Commits (.pwhile o pd rs pg) o (.pwhile pd rs pg) fun c => pWrite c pd pg [c.k rs] fun i => i < c.r rs) ∧

  (∀ (o : NibOp) (rd : BitVec 5) (ps1 _pg : BitVec 3), Commits (.pcnt o rd ps1 _pg) o (.pcnt rd ps1 _pg) fun c =>
    vToRd c rd [pkey ps1] ((List.range c.vl).filter (c.pbit ps1.toNat)).length) ∧

  (∀ (o : NibOp) (rd : BitVec 5) (ps1 _pg : BitVec 3), Commits (.pfirst o rd ps1 _pg) o (.pfirst rd ps1 _pg) fun c =>
    vToRd c rd [pkey ps1] (((List.range c.vl).find? (c.pbit ps1.toNat)).getD c.vl)) ∧

  (∀ (o : NibOp) (rd : BitVec 5), Commits (.pfflen o rd) o (.pfflen rd) fun c =>
    vToRd c rd [104] (((List.range c.vl).find? fun i => ! bitOf (c.x.get 104) i).getD c.vl)) ∧

  (∀ (o : NibOp) (ps1 : BitVec 3), Commits (.pffput o ps1) o (.pffput ps1) fun c =>
    { cls := 1, uses := [104, pkey ps1],
      effs := [.reg 104 (ofBits ((List.range c.vl).filter (c.pbit ps1.toNat))) 2, .beats 1] }) ∧

  (∀ (o : NibOp) (vd rs : BitVec 5) (pg : BitVec 3), Commits (.vbcast o vd rs pg) o (.vbcast vd rs pg) fun c =>
    vPerm c vd [] [c.k rs] pg false fun _ => some (c.r rs % 2 ^ c.sew)) ∧

  (∀ (o : NibOp) (vd a rs : BitVec 5) (pg : BitVec 3), Commits (.vslidedn o vd a rs pg) o (.vslidedn vd a rs pg) fun c =>
    vPerm c vd [a] [c.k rs] pg true fun i =>
      some (if i + c.r rs < vlcap c.etype c.lig then elem c.sew (c.group a.toNat c.grp) (i + c.r rs) else 0)) ∧

  (∀ (o : NibOp) (vd a rs : BitVec 5) (pg : BitVec 3), Commits (.vslideup o vd a rs pg) o (.vslideup vd a rs pg) fun c =>
    vPerm c vd [a] [c.k rs] pg true fun i =>
      if c.r rs ≤ i then some (elem c.sew (c.group a.toNat c.grp) (i - c.r rs)) else none) ∧

  (∀ (o : NibOp) (rd a : BitVec 5), Commits (.vmvxs o rd a) o (.vmvxs rd a) fun c =>
    if a.toNat % c.grp ≠ 0 then c.x.illegal 1 else
    vToRd c rd [64 + a.toNat] (sext c.sew (elem c.sew (c.group a.toNat 1) 0))) ∧

  (∀ (o : NibOp) (vd rs : BitVec 5) (pg : BitVec 3), Commits (.vmvsx o vd rs pg) o (.vmvsx vd rs pg) fun c =>
    vPerm c vd [] [c.k rs] pg false fun i => if i = 0 then some (c.r rs % 2 ^ c.sew) else none) ∧

  (∀ (o : NibOp) (vd a b : BitVec 5) (pg : BitVec 3), Commits (.vperm o vd a b pg) o (.vperm vd a b pg) fun c =>
    vPerm c vd [a, b] [] pg true fun i =>
      let j := elem c.sew (c.group b.toNat c.grp) i
      some (if j < vlcap c.etype c.lig then elem c.sew (c.group a.toNat c.grp) j else 0)) ∧

  (∀ (o : NibOp) (vd a : BitVec 5) (pg : BitVec 3), Commits (.vswapiq o vd a pg) o (.vswapiq vd a pg) fun c =>
    vUnary c tCplx 3 vd a pg fun x => ([x.getD 1 0, x.getD 0 0], false)) ∧

  (∀ (o : NibOp) (rd a : BitVec 5) (pg : BitVec 3), Commits (.vrsum o rd a pg) o (.vrsum rd a pg) fun c =>
    vReduce c tInt rd a pg fun es => some (es.foldl (fun t v => t + signed c.cw v) 0)) ∧

  (∀ (o : NibOp) (rd a : BitVec 5) (pg : BitVec 3), Commits (.vrmax o rd a pg) o (.vrmax rd a pg) fun c =>
    vReduce c tInt rd a pg fun es => bestOf (fun x m => m < x) (es.map (signed c.cw))) ∧

  (∀ (o : NibOp) (rd a : BitVec 5) (pg : BitVec 3), Commits (.vrmin o rd a pg) o (.vrmin rd a pg) fun c =>
    vReduce c tInt rd a pg fun es => bestOf (fun x m => x < m) (es.map (signed c.cw))) ∧

  (∀ (o : NibOp) (rd a : BitVec 5) (pg : BitVec 3), Commits (.vrmaxabs o rd a pg) o (.vrmaxabs rd a pg) fun c =>
    vReduce c tInt rd a pg fun es => bestOf (fun x m => m < x) (es.map fun v => ((signed c.cw v).natAbs : Int))) ∧

  (∀ (o : NibOp) (rd a : BitVec 5) (pg : BitVec 3), Commits (.vrmincls o rd a pg) o (.vrmincls rd a pg) fun c =>
    vReduce c [0, 1, 2, 4, 5] rd a pg fun es =>
      some (es.foldl (fun m v => min m (clsW c.cw (signed c.cw v))) (c.cw - 1) : Nat)) ∧

  (∀ (o : NibOp) (vd a : BitVec 5) (pg : BitVec 3), Commits (.vcls o vd a pg) o (.vcls vd a pg) fun c =>
    if c.etype = 3 then c.x.illegal 1 else
    vUnary c tIntC 2 vd a pg fun x => (x.map fun v => clsW c.cw (signed c.cw v), false)) ∧

  (∀ (o : NibOp) (vd a : BitVec 5) (pg : BitVec 3), Commits (.vnorm o vd a pg) o (.vnorm vd a pg) fun c =>
    if c.etype = 3 then c.x.illegal 1 else
    vUnary c tIntC 3 vd a pg fun x => (x.map fun v => v * 2 ^ clsW c.cw (signed c.cw v) % 2 ^ c.cw, false)) ∧

  (∀ (o : NibOp) (vd a : BitVec 5) (pg : BitVec 3), Commits (.vbexp o vd a pg) o (.vbexp vd a pg) fun c =>
    actVBEXP c vd a pg) ∧

  (∀ (o : NibOp) (vd a b : BitVec 5) (pg : BitVec 3), Commits (.vbscl o vd a b pg) o (.vbscl vd a b pg) fun c =>
    actVBSCL c vd a b pg) ∧

  (∀ (o : NibOp) (vd a b : BitVec 5) (pg : BitVec 3), Commits (.vbpack o vd a b pg) o (.vbpack vd a b pg) fun c =>
    actVBPACK c vd a b pg) ∧

  (∀ (o : NibOp) (vd a : BitVec 5) (pg : BitVec 3), Commits (.vbunpk o vd a pg) o (.vbunpk vd a pg) fun c =>
    actVBUNPK c vd a pg) ∧

  (∀ (o : NibOp) (vd a b : BitVec 5) (pg : BitVec 3), Commits (.vfadd o vd a b pg) o (.vfadd vd a b pg) fun c =>
    vFloat c vd [a, b] pg fun bf i => fAdd bf (c.fEl bf a i) (c.fEl bf b i)) ∧

  (∀ (o : NibOp) (vd a b : BitVec 5) (pg : BitVec 3), Commits (.vfsub o vd a b pg) o (.vfsub vd a b pg) fun c =>
    vFloat c vd [a, b] pg fun bf i => fAdd bf (c.fEl bf a i) (c.fEl bf b i).neg) ∧

  (∀ (o : NibOp) (vd a b : BitVec 5) (pg : BitVec 3), Commits (.vfmul o vd a b pg) o (.vfmul vd a b pg) fun c =>
    vFloat c vd [a, b] pg fun bf i => fMul bf (c.fEl bf a i) (c.fEl bf b i)) ∧

  (∀ (o : NibOp) (vd a b : BitVec 5) (pg : BitVec 3), Commits (.vfma o vd a b pg) o (.vfma vd a b pg) fun c =>
    vFloat c vd [a, b, vd] pg fun bf i => fMulAdd bf (c.fEl bf vd i) (c.fEl bf a i) (c.fEl bf b i)) ∧

  (∀ (o : NibOp) (vd a b : BitVec 5) (pg : BitVec 3), Commits (.vfmin o vd a b pg) o (.vfmin vd a b pg) fun c =>
    vFloat c vd [a, b] pg fun bf i =>
      fPick c bf i (c.fEl bf a i) (c.fEl bf b i) (fLess (c.fEl bf b i) (c.fEl bf a i))) ∧

  (∀ (o : NibOp) (vd a b : BitVec 5) (pg : BitVec 3), Commits (.vfmax o vd a b pg) o (.vfmax vd a b pg) fun c =>
    vFloat c vd [a, b] pg fun bf i =>
      fPick c bf i (c.fEl bf a i) (c.fEl bf b i) (fLess (c.fEl bf a i) (c.fEl bf b i))) ∧

  (∀ (o : NibOp) (pd : BitVec 3) (a b : BitVec 5) (pg : BitVec 3), Commits (.vfcmplt o pd a b pg) o (.vfcmplt pd a b pg) fun c =>
    vFcmp c pd a b pg fun x y => if x.isNan || y.isNan then (false, true) else (fLess x y, false)) ∧

  (∀ (o : NibOp) (pd : BitVec 3) (a b : BitVec 5) (pg : BitVec 3), Commits (.vfcmpeq o pd a b pg) o (.vfcmpeq pd a b pg) fun c =>
    vFcmp c pd a b pg fun x y =>
      if x.isNan || y.isNan then (false, x.isSig || y.isSig) else (! fLess x y && ! fLess y x, false)) ∧

  (∀ (o : NibOp) (vd a : BitVec 5) (pg : BitVec 3), Commits (.vfabs o vd a pg) o (.vfabs vd a pg) fun c =>
    actVFABS c vd a pg) ∧

  (∀ (o : NibOp) (vd a : BitVec 5) (pg : BitVec 3), Commits (.vfneg o vd a pg) o (.vfneg vd a pg) fun c =>
    vFloat c vd [a] pg fun bf i => ((fWrite bf (c.fEl bf a i).neg).1, false)) ∧

  (∀ (o : NibOp) (vd a : BitVec 5) (pg : BitVec 3), Commits (.vcvtif o vd a pg) o (.vcvtif vd a pg) fun c =>
    vCvt c vd a pg fun v => ((fWrite false (fOfInt (signed 32 v) 0)).1, 0)) ∧

  (∀ (o : NibOp) (vd a : BitVec 5) (pg : BitVec 3), Commits (.vcvtfi o vd a pg) o (.vcvtfi vd a pg) fun c =>
    vCvt c vd a pg fun v =>
      let r := fToInt 32 c.rm 0 (fRead32 v)
      (unsigned 32 r.1, (if r.2.1 then stSAT else 0) + (if r.2.2 then stFX else 0))) ∧

  (∀ (o : NibOp) (vd a : BitVec 5) (pg : BitVec 3), Commits (.vcvtfb o vd a pg) o (.vcvtfb vd a pg) fun c =>
    actVCVTFB c vd a pg) ∧

  (∀ (o : NibOp) (vd a : BitVec 5) (pg : BitVec 3), Commits (.vcvtbf o vd a pg) o (.vcvtbf vd a pg) fun c =>
    actVCVTBF c vd a pg)

/-- For each of these instructions, with every operand, in every state in which it ends a bundle that commits (its Nib runs, is
not frozen and is powered, EOB is 1, and nothing stops or holds the bundle): exec answers the next state that is the commit of
the bundle, with the effects the clause gives for this instruction (registers and the cycle each result lands, stores, the
next pc). (07_nib_vector.md, 08_ferrule.md, R265, R286, R292) -/
def Obligations.VectorMemoryAndFerruleCommit : Prop :=
  (∀ (o : NibOp) (ff pi : Bool) (vd ra : BitVec 5) (pg : BitVec 3), Commits (.vld o ff pi vd ra pg) o (.vld ff pi vd ra pg) fun c =>
    vLoad c ff vd pg [c.k ra] [vd.toNat] (fun i => add64 (c.r ra) (i * (c.sew / 8)))
      (fun _ => c.unitBeats (c.r ra) (c.vl * (c.sew / 8))) fun k =>
        if ff then postInc c pi ra k 4 else postInc c pi ra c.vl 1) ∧

  (∀ (o : NibOp) (ff : Bool) (vd ra rb : BitVec 5) (pg : BitVec 3), Commits (.vlds o ff vd ra rb pg) o (.vlds ff vd ra rb pg) fun c =>
    vLoad c ff vd pg [c.k ra, c.k rb] [vd.toNat] (c.strided ra rb) c.elBeats fun _ => []) ∧

  (∀ (o : NibOp) (ff : Bool) (scale : BitVec 2) (vd ra b : BitVec 5) (pg : BitVec 3), Commits (.vldg o ff scale vd ra b pg) o (.vldg ff scale vd ra b pg) fun c =>
    vLoad c ff vd pg (c.k ra :: vkeys b.toNat c.grp) [vd.toNat, b.toNat] (c.indexed ra b scale) c.elBeats fun _ => []) ∧

  (∀ (o : NibOp) (pi : Bool) (vs ra : BitVec 5) (pg : BitVec 3), Commits (.vst o pi vs ra pg) o (.vst pi vs ra pg) fun c =>
    vStore c vs pg [c.k ra] [vs.toNat] (fun i => add64 (c.r ra) (i * (c.sew / 8)))
      (fun _ => c.unitBeats (c.r ra) (c.vl * (c.sew / 8))) (postInc c pi ra c.vl 1)) ∧

  (∀ (o : NibOp) (vs ra rb : BitVec 5) (pg : BitVec 3), Commits (.vsts o vs ra rb pg) o (.vsts vs ra rb pg) fun c =>
    vStore c vs pg [c.k ra, c.k rb] [vs.toNat] (c.strided ra rb) c.elBeats []) ∧

  (∀ (o : NibOp) (scale : BitVec 2) (vs ra b : BitVec 5) (pg : BitVec 3), Commits (.vstg o scale vs ra b pg) o (.vstg scale vs ra b pg) fun c =>
    vStore c vs pg (c.k ra :: vkeys b.toNat c.grp) [vs.toNat, b.toNat] (c.indexed ra b scale) c.elBeats []) ∧

  (∀ (o : NibOp) (vd ra : BitVec 5) (pg : BitVec 3), Commits (.vldr o vd ra pg) o (.vldr vd ra pg) fun c =>
    vWhole c .read 128 1 false ra pg true [64 + vd.toNat] fun g => [.reg (64 + vd.toNat) (c.s.elValue c.i 0 g 128) 4, .free 1]) ∧

  (∀ (o : NibOp) (vs ra : BitVec 5) (pg : BitVec 3), Commits (.vstr o vs ra pg) o (.vstr vs ra pg) fun c =>
    vWhole c .write 128 1 false ra pg true [64 + vs.toNat] fun g => [.store g 128 (c.x.get (64 + vs.toNat))]) ∧

  (∀ (o : NibOp) (p ra : BitVec 5) (pg : BitVec 3), Commits (.vldrp o p ra pg) o (.vldrp p ra pg) fun c =>
    vWhole c .read 128 1 false ra pg (p.toNat ≤ 8) [96 + p.toNat] fun g =>
      [.reg (96 + p.toNat) (c.s.elValue c.i 0 g 128) 4, .free 1]) ∧

  (∀ (o : NibOp) (p ra : BitVec 5) (pg : BitVec 3), Commits (.vstrp o p ra pg) o (.vstrp p ra pg) fun c =>
    vWhole c .write 128 1 false ra pg (p.toNat ≤ 8) [96 + p.toNat] fun g =>
      [.store g 128 (if p = 0 then 2 ^ vlen - 1 else c.x.get (96 + p.toNat))]) ∧

  (∀ (o : NibOp) (acc ra : BitVec 5) (pg : BitVec 3), Commits (.vldra o acc ra pg) o (.vldra acc ra pg) fun c =>
    vWhole c .read 384 3 true ra pg (acc.toNat < 4) [105 + acc.toNat] fun g =>
      [.reg (105 + acc.toNat) (c.s.elValue c.i 0 g 384) 4, .free 1]) ∧

  (∀ (o : NibOp) (acc ra : BitVec 5) (pg : BitVec 3), Commits (.vstra o acc ra pg) o (.vstra acc ra pg) fun c =>
    vWhole c .write 384 3 true ra pg (acc.toNat < 4) [105 + acc.toNat] fun g => [.store g 384 (c.accImage acc.toNat)]) ∧

  (∀ (o : NibOp) (f : FFmt), Commits (.flock o f) o (.flock f) fun c => ferLockAct c 0 f) ∧

  (∀ (o : NibOp) (f : FFmt), Commits (.flocknb o f) o (.flocknb f) fun c => ferLockAct c 1 f) ∧

  (∀ (o : NibOp) (f : FFmt), Commits (.funlock o f) o (.funlock f) fun c =>
    ferForm c (f.rd == 0 && f.ra == 0 && f.rb == 0 && f.md == 0)
      (match c.s.ferHeld c.i with
       | none => ferFault c 0x18
       | some h => { cls := 0, hold := c.s.tagsBusy h ≠ 0, effs := [.fer 2 0 0 0 0] })) ∧

  (∀ (o : NibOp) (f : FFmt), Commits (.fwait o f) o (.fwait f) fun c =>
    actFWAIT c f) ∧

  (∀ (o : NibOp) (f : FFmt), Commits (.fget o f) o (.fget f) fun c =>
    actFGET c f) ∧

  (∀ (o : NibOp) (f : FFmt), Commits (.fsave o f) o (.fsave f) fun c =>
    ferForm c (f.rd == 0 && f.rb == 0) (c.x.priv (ferMove c 5 f))) ∧

  (∀ (o : NibOp) (f : FFmt), Commits (.frestore o f) o (.frestore f) fun c =>
    ferForm c (f.rd == 0 && f.rb == 0 && ! bitOf f.md.toNat 1) (c.x.priv (ferMove c 6 f))) ∧

  (∀ (o : NibOp) (f : FFmt), Commits (.fmul o f) o (.fmul f) fun c => ferCompute c 0x3D 0 f) ∧

  (∀ (o : NibOp) (f : FFmt), Commits (.fherm o f) o (.fherm f) fun c => ferForm c (! bitOf f.md.toNat 1) (ferCompute c 0x3D 1 f)) ∧

  (∀ (o : NibOp) (f : FFmt), Commits (.fchol o f) o (.fchol f) fun c => ferForm c (f.md == 0 && f.rb == 0) (ferCompute c 0x3E 0 f)) ∧

  (∀ (o : NibOp) (f : FFmt), Commits (.ftrsm o f) o (.ftrsm f) fun c => ferForm c (! bitOf f.md.toNat 1) (ferCompute c 0x3E 1 f)) ∧

  (∀ (o : NibOp) (f : FFmt), Commits (.fqr o f) o (.fqr f) fun c => ferForm c (f.md == 0) (ferCompute c 0x3E 2 f)) ∧

  (∀ (o : NibOp) (f : FFmt), Commits (.finv o f) o (.finv f) fun c =>
    ferForm c (! bitOf f.md.toNat 1 && f.rb == 0) (ferCompute c 0x3E 3 f)) ∧

  (∀ (o : NibOp) (f : FFmt), Commits (.feig o f) o (.feig f) fun c => ferForm c (f.md == 0) (ferCompute c 0x3E 4 f)) ∧

  (∀ (o : NibOp) (kind : BitVec 2), Commits (.nibFence o kind) o (.nibFence kind) fun c =>
    if kind = 3 then c.x.illegal 0 else { cls := 0, effs := c.wait })

/-- For each of these instructions that alone makes up the bundle of a running Nib (not frozen, powered, no breakpoint, no fetch
fault), exec answers the next state in which the Nib has entered the handler of its cause: TRAP, BKPT, ILLEGAL_ENCODING.
(06_nib_core.md, R217, R218, R219, R220) -/
def Obligations.ExceptionInstructionsEnter : Prop :=
  (∀ (o : NibOp) (imm : BitVec 12) (s : State),
    s.alone o (.trap imm) → (s.nibSt o.nib).sb = false →
    exec (.trap o imm) s = .next ((s.late o (.trap imm)).nibEnter o.nib cTRAP imm.toNat (s.nibSt o.nib).pc 0)) ∧

  (∀ (o : NibOp) (s : State),
    s.alone o .bkpt → (s.nibSt o.nib).sb = false →
    exec (.bkpt o) s = .next ((s.late o .bkpt).nibEnter o.nib cBREAKPOINT (s.nibSt o.nib).pc (s.nibSt o.nib).pc 0)) ∧

  (∀ (o : NibOp) (s : State),
    s.alone o .illegalEncoding → (s.nibSt o.nib).sb = false →
    exec (.illegalEncoding o) s =
      .next ((s.late o .illegalEncoding).nibEnter o.nib cILLEGAL (s.nibSt o.nib).pc (s.nibSt o.nib).pc 0))
end

