-- ==== Sys2Proof/Laws/Bits.lean ====
section
/-! SUPPORT. What setting a field of a word does to that field and to the others. -/

namespace Sys2Proof.Machine

/-- A field put into a number: what lies above it and below it stays. -/
theorem putBits_eq (w v : Nat) {hi lo : Nat} (h : lo ≤ hi) :
    putBits w hi lo v = 2 ^ (hi + 1) * (w / 2 ^ (hi + 1)) + (2 ^ lo * (v % 2 ^ (hi - lo + 1)) + w % 2 ^ lo) := by
  unfold putBits bitsOf
  obtain ⟨n, rfl⟩ := Nat.exists_eq_add_of_le h
  have e : lo + n - lo + 1 = n + 1 := by omega
  have e2 : 2 ^ (lo + n + 1) = 2 ^ lo * 2 ^ (n + 1) := by rw [← Nat.pow_add]; congr 1
  rw [e, e2, ← Nat.div_div_eq_div_mul]
  have h1 := Nat.div_add_mod w (2 ^ lo)
  have h2 := Nat.div_add_mod (w / 2 ^ lo) (2 ^ (n + 1))
  generalize w / 2 ^ lo / 2 ^ (n + 1) = A at *
  generalize w / 2 ^ lo % 2 ^ (n + 1) = F at *
  generalize v % 2 ^ (n + 1) = V at *
  generalize w % 2 ^ lo = B at *
  have h3 : w = 2 ^ lo * 2 ^ (n + 1) * A + 2 ^ lo * F + B := by
    rw [← h1, ← h2, Nat.mul_add, Nat.mul_assoc]
  rw [h3, Nat.mul_comm F, Nat.mul_comm V]
  omega

theorem putBits_lt (w v : Nat) {hi lo n : Nat} (h : lo ≤ hi) (hn : hi < n) (hw : w < 2 ^ n) : putBits w hi lo v < 2 ^ n := by
  rw [putBits_eq w v h]
  obtain ⟨k, rfl⟩ := Nat.exists_eq_add_of_lt hn
  have e : 2 ^ (hi + k + 1) = 2 ^ (hi + 1) * 2 ^ k := by rw [← Nat.pow_add]; congr 1; omega
  have e2 : 2 ^ (hi + 1) = 2 ^ lo * 2 ^ (hi - lo + 1) := by rw [← Nat.pow_add]; congr 1; omega
  have a : w / 2 ^ (hi + 1) < 2 ^ k := Nat.div_lt_of_lt_mul (by rw [← e]; exact hw)
  have b : v % 2 ^ (hi - lo + 1) < 2 ^ (hi - lo + 1) := Nat.mod_lt _ (Nat.two_pow_pos _)
  have c : w % 2 ^ lo < 2 ^ lo := Nat.mod_lt _ (Nat.two_pow_pos _)
  have d : 2 ^ lo * (v % 2 ^ (hi - lo + 1)) + w % 2 ^ lo < 2 ^ (hi + 1) := by
    rw [e2]
    calc _ < 2 ^ lo * (v % 2 ^ (hi - lo + 1)) + 2 ^ lo := by omega
      _ = 2 ^ lo * (v % 2 ^ (hi - lo + 1) + 1) := by rw [Nat.mul_add, Nat.mul_one]
      _ ≤ _ := Nat.mul_le_mul_left _ b
  rw [e]
  calc _ < 2 ^ (hi + 1) * (w / 2 ^ (hi + 1)) + 2 ^ (hi + 1) := by omega
    _ = 2 ^ (hi + 1) * (w / 2 ^ (hi + 1) + 1) := by rw [Nat.mul_add, Nat.mul_one]
    _ ≤ _ := Nat.mul_le_mul_left _ a

theorem toNat_wsetFld (w : W32) (v : Nat) {hi lo : Nat} (h : lo ≤ hi) (hn : hi < 32) :
    (wsetFld w hi lo v).toNat = putBits w.toNat hi lo v := by
  unfold wsetFld
  rw [BitVec.toNat_ofNat]
  exact Nat.mod_eq_of_lt (putBits_lt _ _ h hn w.isLt)

/-- The field set reads back, cut to its width. -/
theorem wfld_wsetFld_same (w : W32) (v : Nat) {hi lo : Nat} (h : lo ≤ hi) (hn : hi < 32) :
    wfld (wsetFld w hi lo v) hi lo = v % 2 ^ (hi - lo + 1) := by
  unfold wfld
  rw [toNat_wsetFld w v h hn, putBits_eq _ _ h]
  unfold bitsOf
  have e2 : 2 ^ (hi + 1) = 2 ^ lo * 2 ^ (hi - lo + 1) := by rw [← Nat.pow_add]; congr 1; omega
  rw [e2, Nat.mul_assoc, ← Nat.add_assoc, ← Nat.mul_add, Nat.mul_add_div (Nat.two_pow_pos _),
    Nat.div_eq_of_lt (Nat.mod_lt _ (Nat.two_pow_pos _)), Nat.add_zero, Nat.mul_add_mod, Nat.mod_mod]

/-- A field above the one set keeps its value. -/
theorem wfld_wsetFld_above (w : W32) (v : Nat) {hi lo hi' lo' : Nat} (h : lo ≤ hi) (hn : hi < 32) (ho : hi < lo') :
    wfld (wsetFld w hi lo v) hi' lo' = wfld w hi' lo' := by
  unfold wfld
  rw [toNat_wsetFld w v h hn, putBits_eq _ _ h]
  unfold bitsOf
  congr 1
  obtain ⟨k, rfl⟩ := Nat.exists_eq_add_of_lt ho
  have e : 2 ^ (hi + k + 1) = 2 ^ (hi + 1) * 2 ^ k := by rw [← Nat.pow_add]; congr 1; omega
  have e2 : 2 ^ (hi + 1) = 2 ^ lo * 2 ^ (hi - lo + 1) := by rw [← Nat.pow_add]; congr 1; omega
  have b : v % 2 ^ (hi - lo + 1) < 2 ^ (hi - lo + 1) := Nat.mod_lt _ (Nat.two_pow_pos _)
  have c : w.toNat % 2 ^ lo < 2 ^ lo := Nat.mod_lt _ (Nat.two_pow_pos _)
  have d : 2 ^ lo * (v % 2 ^ (hi - lo + 1)) + w.toNat % 2 ^ lo < 2 ^ (hi + 1) := by
    rw [e2]
    calc _ < 2 ^ lo * (v % 2 ^ (hi - lo + 1)) + 2 ^ lo := by omega
      _ = 2 ^ lo * (v % 2 ^ (hi - lo + 1) + 1) := by rw [Nat.mul_add, Nat.mul_one]
      _ ≤ _ := Nat.mul_le_mul_left _ b
  rw [e, ← Nat.div_div_eq_div_mul, ← Nat.div_div_eq_div_mul, Nat.mul_add_div (Nat.two_pow_pos _), Nat.div_eq_of_lt d, Nat.add_zero]

/-- A field below the one set keeps its value. -/
theorem wfld_wsetFld_below (w : W32) (v : Nat) {hi lo hi' lo' : Nat} (h : lo ≤ hi) (hn : hi < 32) (ho : hi' < lo) (hl : lo' ≤ hi') :
    wfld (wsetFld w hi lo v) hi' lo' = wfld w hi' lo' := by
  unfold wfld
  rw [toNat_wsetFld w v h hn, putBits_eq _ _ h]
  unfold bitsOf
  have a : ∀ x : Nat, x / 2 ^ lo' % 2 ^ (hi' - lo' + 1) = x % 2 ^ lo / 2 ^ lo' % 2 ^ (hi' - lo' + 1) := by
    intro x
    obtain ⟨k, rfl⟩ := Nat.exists_eq_add_of_lt ho
    have e : 2 ^ (hi' + k + 1) = 2 ^ lo' * 2 ^ (hi' - lo' + 1) * 2 ^ k := by
      rw [← Nat.pow_add, ← Nat.pow_add]; congr 1; omega
    rw [e, Nat.mul_assoc, Nat.mod_mul_right_div_self, Nat.mod_mul_right_mod]
  rw [a, a w.toNat]
  congr 2
  have e2 : 2 ^ (hi + 1) = 2 ^ lo * 2 ^ (hi - lo + 1) := by rw [← Nat.pow_add]; congr 1; omega
  rw [e2, Nat.mul_assoc, Nat.mul_add_mod, Nat.mul_add_mod, Nat.mod_mod]

theorem wbit_eq (w : W32) (n : Nat) : wbit w n = (wfld w n n == 1) := by
  unfold wbit wfld bitOf bitsOf
  simp

/-- A bit set reads 1. -/
theorem wbit_set1 (w : W32) {n : Nat} (h : n < 32) : wbit (wsetFld w n n 1) n = true := by
  rw [wbit_eq, wfld_wsetFld_same w 1 (Nat.le_refl _) h]
  simp

/-- A bit cleared reads 0. -/
theorem wbit_set0 (w : W32) {n : Nat} (h : n < 32) : wbit (wsetFld w n n 0) n = false := by
  rw [wbit_eq, wfld_wsetFld_same w 0 (Nat.le_refl _) h]
  simp

end Sys2Proof.Machine
end

