-- ==== Sys2Proof/Laws/Commands.lean ====
section
/-! SUPPORT. What the shared forms of a command, a register access and a service request answer when nothing turns them away. -/

namespace Sys2Proof.Machine

/-- An admitted command whose checks pass takes effect with its slot begun, and its descriptor completes. -/
theorem command_admitted {op : Nat} {d : Desc} {chk : State → Nat × Nat} {act : State → State} {s : State}
    (h : s.admits d = true) (hc : chk s = (St.OK, 0)) : command op d chk act s = (act (s.begun op d)).ended d := by
  unfold State.admits at h
  simp only [Bool.and_eq_true, Bool.or_eq_true, beq_iff_eq] at h
  unfold command State.ended State.begun
  rw [h.2]
  have e : (St.OK, 0).1 = St.OK := rfl
  simp only [e, if_true, hc]
  rcases hn : nspSlot d.slotId with _ | _
  · rcases h.1 with h1 | h1
    · rw [hn] at h1; cases h1
    · simp [h1]
  · simp

/-- The same for a command that ends as it is accepted: its slot ends with the status and the words of its effect. -/
theorem commandNow_admitted {op : Nat} {d : Desc} {chk : State → Nat × Nat} {act : State → State × Nat × List W32} {s : State}
    (h : s.admits d = true) (hc : chk s = (St.OK, 0)) :
    commandNow op d chk act s =
      ((act (s.begun op d)).1.slotEnd d.slotId (act (s.begun op d)).2.1 (act (s.begun op d)).2.2).ended d :=
  command_admitted h hc

/-- An access to an open register answers OK with the data of its effect. -/
theorem access_open {who : Requester} {a : Nat} {act : State → State × Nat} {s : State} (h : s.opens who a = true) :
    access who a act s = (act s).1.answer St.OK (act s).2 := by
  simp only [State.opens, Bool.and_eq_true] at h
  unfold access State.answer
  simp [h.1, h.2]

/-- A write of RWL fields by their holder has its effect. -/
theorem accessHeld_open {who : Requester} {a : Nat} {act : State → State} {s : State} (h : s.opens who a = true)
    (hh : s.holds who a = true) : accessHeld who a act s = (act s).answer St.OK 0 := by
  unfold accessHeld
  rw [access_open h]
  simp [hh]

/-- A write of RWL fields by another requester has no effect (R10). -/
theorem accessHeld_other {who : Requester} {a : Nat} {act : State → State} {s : State} (h : s.opens who a = true)
    (hh : s.holds who a = false) : accessHeld who a act s = s.answer St.OK 0 := by
  unfold accessHeld
  rw [access_open h]
  simp [hh]

/-- A service request that is served runs its operation. -/
theorem service_served {op : Nat} {nib : Fin 128} {a : BitVec 24} {b : W32} {act : Nat → Nat → Nat → State → State} {s : State}
    (h : (s.asks op nib a b).serves nib = true) :
    service op nib a b act s = act (nib.val / 16) (nib.val % 16)
      ((s.asks op nib a b).runOn (nib.val / 16) (nib.val % 16) - 1) (s.asks op nib a b) := by
  simp only [State.serves, Bool.and_eq_true, Bool.not_eq_true', decide_eq_true_eq, bne_iff_ne, ne_eq] at h
  unfold service
  change (if ((s.asks op nib a b).ducSt _).busy.contains _ = true then _ else if (s.asks op nib a b).fencedQ _ = true then _
    else if (s.asks op nib a b).runOn _ _ = 0 then _ else _) = _
  rw [if_neg (by rw [h.1.1]; decide), if_neg (by rw [h.1.2]; decide), if_neg h.2]
  rfl

end Sys2Proof.Machine
end

