-- ==== Sys2Proof/Laws/Chop.lean ====
section
/-! SUPPORT. What an accepted command of the Chop answers while no self-test runs. -/

namespace Sys2Proof.Machine

/-- Beginning a slot leaves the Chop as it is. -/
theorem begun_chp (s : State) (op : Nat) (d : Desc) : (s.begun op d).chp = s.chp := by
  unfold State.begun State.slotBegin
  split <;> rfl

/-- An accepted service runs at once while no self-test runs. -/
theorem chpRow_serves {k : ChpSvc} {op : Nat} {mine : Bool} {chk : State → Nat × Nat} {d : Desc} {s : State} (hm : mine = true)
    (ht : ¬ s.chp.testing = true) (h : s.admits d = true) (hc : firstFail [stoppedOrRunning s d, chk s] = (St.OK, 0)) :
    chpRow k op mine chk d s = .next ((chpServe k d (s.begun op d)).ended d) := by
  unfold chpRow
  rw [if_pos hm]
  refine congrArg Host.Outcome.next ((command_admitted h hc).trans ?_)
  unfold State.serve
  rw [begun_chp, if_neg ht]

end Sys2Proof.Machine
end

