-- ==== Sys2Proof/Laws/Jobs.lean ====
section
/-! SUPPORT. What a job or a copy descriptor answers when an engine takes it. -/

namespace Sys2Proof.Machine

/-- A job that its unit takes starts, and will end as run answers. -/
theorem poolJob_takes {pool : Nat} {j : Job} {u r x : Nat} {ok place : Bool} {reads outs : List (Nat × Nat)} {dets : List RaDet}
    {run : State → State × JobEnd} {s : State} (h : s.poolTakes pool j u r x ok reads outs place = true)
    (he : ¬ (run (s.turn x r)).2.refused = true) :
    poolJob pool j ok reads outs place dets run s = (run (s.turn x r)).1.jobStarts j u x r (run (s.turn x r)).2 dets := by
  simp only [State.poolTakes, Bool.and_eq_true, beq_iff_eq, Bool.not_eq_true', Option.isNone_iff_eq_none] at h
  obtain ⟨⟨⟨⟨⟨⟨⟨⟨⟨⟨⟨h1, h2⟩, h3⟩, h4⟩, h5⟩, h6⟩, h7⟩, h8⟩, h9⟩, h10⟩, h11⟩, h12⟩ := h
  unfold poolJob
  simp only [h1, h2, h3, h4, h5, h6, h7, h8, h9, h10, ne_eq, not_true_eq_false, decide_false, Bool.not_true, Bool.or_self,
    Bool.false_eq_true, if_false]
  have e1 : { (((s.drr x).map (·.2)).getD []).foldl (fun s c => s.setCredit x c.1 c.2) s with
      served := sput ((((s.drr x).map (·.2)).getD []).foldl (fun s c => s.setCredit x c.1 c.2) s).served x r 15 } = s.turn x r := rfl
  rw [e1, h11, h12]
  simp only [if_true]
  rw [if_neg (by simpa [JobEnd.refused] using he)]
  rfl

/-- A copy descriptor that its engine takes runs, unless it ends at once. -/
theorem scribeStart_takes {op : Nat} {j : Job} {e : Fin 12} {c : Fin 32} {x : Nat} {s : State} (h : s.scribeTakes op j e c x = true)
    (hw : ¬ (((s.scribeJob (s.scribeRealm e c) j).2.1.writes.isEmpty && (s.scribeJob (s.scribeRealm e c) j).2.1.status ≠ St.OK &&
      (s.scribeJob (s.scribeRealm e c) j).2.2 = 0) = true)) :
    scribeStart op j s = (s.scribeJob (s.scribeRealm e c) j).1.copyStarts j e c x (s.scribeJob (s.scribeRealm e c) j).2.1
      (s.scribeJob (s.scribeRealm e c) j).2.2 := by
  simp only [State.scribeTakes, Bool.and_eq_true, beq_iff_eq, Bool.not_eq_true'] at h
  obtain ⟨⟨⟨⟨⟨⟨⟨⟨h1, h2⟩, h3⟩, h4⟩, h5⟩, h6⟩, h7⟩, h8⟩, h9⟩ := h
  have g1 : ¬ ((jOp j ≠ op || ! s.ringReady j.ring || s.bit (Reg.SCB_CH_CTL e c) 31 || s.timedRing j.ring) = true) := by
    simp [h2, h3, h4, h5]
  have g2 : ¬ ((decide (e.val < 8) && s.fencedQ e) = true) := by rw [h6]; decide
  have g3 : ¬ (((sget s.eng (scbKey x c) none).isSome || ! s.domUp (if x < 8 then 24 + x else 61)) = true) := by
    simp [h8, h9]
  unfold scribeStart
  split
  · rename_i e' c' hr
    rw [hr] at h1
    cases h1
    rw [if_neg g1, if_neg g2, h7]
    dsimp only
    rw [if_neg g3, if_neg hw]
    rfl
  · rename_i hr
    exact absurd h1 (hr e c)

end Sys2Proof.Machine
end

