-- ==== Sys2Proof/Laws/Sparse.lean ====
section
/-! SUPPORT. Laws of the sparse maps: what a key reads after a change, and that changes keep the canonical form. -/

namespace Sys2Proof.Machine

variable {α : Type}

@[simp] theorem sget_nil (k : Nat) (d : α) : sget [] k d = d := rfl

theorem sget_sdel_same (m : List (Nat × α)) (k : Nat) (d : α) : sget (sdel m k) k d = d := by
  induction m with
  | nil => rfl
  | cons e r ih =>
    obtain ⟨k', v⟩ := e
    by_cases h : k' = k <;> simp [sdel, sget, h, ih]

theorem sget_sdel_ne (m : List (Nat × α)) {k k' : Nat} (h : k' ≠ k) (d : α) : sget (sdel m k) k' d = sget m k' d := by
  induction m with
  | nil => rfl
  | cons e r ih =>
    obtain ⟨k1, v⟩ := e
    by_cases h1 : k1 = k
    · subst h1; simp [sdel, sget, ih, Ne.symm h]
    · simp only [sdel, h1, if_false, sget, ih]

theorem sget_sins_ne (m : List (Nat × α)) {k k' : Nat} (h : k' ≠ k) (v d : α) : sget (sins m k v) k' d = sget m k' d := by
  induction m with
  | nil => simp [sins, sget, Ne.symm h]
  | cons e r ih =>
    obtain ⟨k1, v1⟩ := e
    by_cases h1 : k < k1
    · simp [sins, sget, h1, Ne.symm h]
    · simp [sins, sget, h1, ih]

theorem sget_sins_sdel (m : List (Nat × α)) (k : Nat) (v d : α) : sget (sins (sdel m k) k v) k d = v := by
  induction m with
  | nil => simp [sdel, sins, sget]
  | cons e r ih =>
    obtain ⟨k1, v1⟩ := e
    by_cases h1 : k1 = k
    · simpa [sdel, h1] using ih
    · by_cases h2 : k < k1
      · simp [sdel, h1, sins, h2, sget]
      · simp [sdel, h1, sins, h2, sget, ih]

variable [DecidableEq α]

/-- A key reads what was put there. -/
@[simp] theorem sget_sput_same (m : List (Nat × α)) (k : Nat) (v d : α) : sget (sput m k v d) k d = v := by
  unfold sput; split
  · next h => rw [sget_sdel_same, h]
  · exact sget_sins_sdel m k v d

/-- Every other key reads as before. -/
theorem sget_sput_ne (m : List (Nat × α)) {k k' : Nat} (h : k' ≠ k) (v d d' : α) : sget (sput m k v d) k' d' = sget m k' d' := by
  unfold sput; split
  · exact sget_sdel_ne m h d'
  · rw [sget_sins_ne _ h, sget_sdel_ne _ h]

theorem sget_sput (m : List (Nat × α)) (k k' : Nat) (v d : α) :
    sget (sput m k v d) k' d = if k' = k then v else sget m k' d := by
  split
  · next h => subst h; exact sget_sput_same m k' v d
  · next h => exact sget_sput_ne m h v d d

/-- The canonical form, said of the entries: keys rise, and every entry differs from what its key reads unlisted. -/
theorem swf_iff (d : Nat → α) (m : List (Nat × α)) :
    swf d m = true ↔ m.Pairwise (fun a b => a.1 < b.1) ∧ ∀ e ∈ m, e.2 ≠ d e.1 := by
  induction m with
  | nil => simp [swf]
  | cons e r ih =>
    obtain ⟨k, v⟩ := e
    cases r with
    | nil => simp [swf]
    | cons e' r' =>
      obtain ⟨k', v'⟩ := e'
      simp only [swf, Bool.and_eq_true, decide_eq_true_eq, ih, List.pairwise_cons, List.mem_cons]
      constructor
      · rintro ⟨⟨h1, h2⟩, ⟨h3, h4⟩, h5⟩
        refine ⟨⟨?_, h3, h4⟩, ?_⟩
        · rintro a (rfl | ha)
          · exact h2
          · exact lt_trans h2 (h3 a ha)
        · rintro a (rfl | ha)
          · simpa using h1
          · exact h5 a ha
      · rintro ⟨⟨h1, h3, h4⟩, h5⟩
        exact ⟨⟨by simpa using h5 (k, v) (Or.inl rfl), h1 (k', v') (Or.inl rfl)⟩, ⟨h3, h4⟩, fun a ha => h5 a (Or.inr ha)⟩

theorem mem_sdel {m : List (Nat × α)} {k : Nat} {e : Nat × α} : e ∈ sdel m k ↔ e ∈ m ∧ e.1 ≠ k := by
  induction m with
  | nil => simp [sdel]
  | cons x r ih =>
    obtain ⟨k1, v1⟩ := x
    by_cases h : k1 = k
    · simp only [sdel, h, if_true, ih, List.mem_cons]
      constructor
      · rintro ⟨h1, h2⟩; exact ⟨Or.inr h1, h2⟩
      · rintro ⟨rfl | h1, h2⟩
        · exact absurd rfl h2
        · exact ⟨h1, h2⟩
    · simp only [sdel, h, if_false, List.mem_cons, ih]
      constructor
      · rintro (rfl | ⟨h1, h2⟩)
        · exact ⟨Or.inl rfl, h⟩
        · exact ⟨Or.inr h1, h2⟩
      · rintro ⟨rfl | h1, h2⟩
        · exact Or.inl rfl
        · exact Or.inr ⟨h1, h2⟩

theorem mem_sins {m : List (Nat × α)} {k : Nat} {v : α} {e : Nat × α} : e ∈ sins m k v ↔ e = (k, v) ∨ e ∈ m := by
  induction m with
  | nil => simp [sins]
  | cons x r ih =>
    obtain ⟨k1, v1⟩ := x
    by_cases h : k < k1
    · simp [sins, h]
    · simp only [sins, h, if_false, List.mem_cons, ih]; tauto

theorem sdel_pairwise {m : List (Nat × α)} (h : m.Pairwise (fun a b => a.1 < b.1)) (k : Nat) :
    (sdel m k).Pairwise (fun a b => a.1 < b.1) := by
  induction m with
  | nil => simp [sdel]
  | cons x r ih =>
    obtain ⟨k1, v1⟩ := x
    rw [List.pairwise_cons] at h
    by_cases h1 : k1 = k
    · simpa [sdel, h1] using ih h.2
    · simp only [sdel, h1, if_false, List.pairwise_cons]
      exact ⟨fun a ha => h.1 a (mem_sdel.1 ha).1, ih h.2⟩

theorem sins_pairwise {m : List (Nat × α)} (h : m.Pairwise (fun a b => a.1 < b.1)) (k : Nat) (v : α) (hk : ∀ e ∈ m, e.1 ≠ k) :
    (sins m k v).Pairwise (fun a b => a.1 < b.1) := by
  induction m with
  | nil => simp [sins]
  | cons x r ih =>
    obtain ⟨k1, v1⟩ := x
    rw [List.pairwise_cons] at h
    by_cases h1 : k < k1
    · simp only [sins, h1, if_true, List.pairwise_cons, List.mem_cons]
      refine ⟨?_, h.1, h.2⟩
      rintro a (rfl | ha)
      · exact h1
      · exact lt_trans h1 (h.1 a ha)
    · simp only [sins, h1, if_false, List.pairwise_cons]
      have hne : k1 ≠ k := hk (k1, v1) (by simp)
      refine ⟨?_, ih h.2 fun e he => hk e (by simp [he])⟩
      intro a ha
      rcases mem_sins.1 ha with rfl | ha
      · exact lt_of_le_of_ne (not_lt.1 h1) hne
      · exact h.1 a ha

/-- Removing a key keeps the canonical form. -/
theorem swf_sdel (d : Nat → α) {m : List (Nat × α)} (h : swf d m = true) (k : Nat) : swf d (sdel m k) = true := by
  rw [swf_iff] at h ⊢
  exact ⟨sdel_pairwise h.1 k, fun e he => h.2 e (mem_sdel.1 he).1⟩

/-- A change of a key keeps the canonical form. -/
theorem swf_sput (d : Nat → α) {m : List (Nat × α)} (h : swf d m = true) (k : Nat) (v : α) : swf d (sput m k v (d k)) = true := by
  unfold sput; split
  · exact swf_sdel d h k
  · next hv =>
    rw [swf_iff] at h ⊢
    refine ⟨sins_pairwise (sdel_pairwise h.1 k) k v fun e he => (mem_sdel.1 he).2, fun e he => ?_⟩
    rcases mem_sins.1 he with rfl | he
    · exact hv
    · exact h.2 e (mem_sdel.1 he).1

/-- So does keeping some of the entries. -/
theorem swf_filter (d : Nat → α) {m : List (Nat × α)} (h : swf d m = true) (p : Nat × α → Bool) : swf d (m.filter p) = true := by
  rw [swf_iff] at h ⊢
  exact ⟨h.1.filter p, fun e he => h.2 e (List.mem_of_mem_filter he)⟩

end Sys2Proof.Machine
end

