-- ==== Sys2Proof/Laws/Memory.lean ====
section
/-! SUPPORT. Laws of memory and of the register map: a read after a write, and that every write keeps the canonical form. -/

namespace Sys2Proof.Machine

/-! ## One byte -/

@[simp] theorem byte_setByte_same (s : State) (a : Nat) (b : Byte) : (s.setByte a b).byte a = b := sget_sput_same s.mem a b 0

theorem byte_setByte_ne (s : State) {a a' : Nat} (h : a' ≠ a) (b : Byte) : (s.setByte a b).byte a' = s.byte a' :=
  sget_sput_ne s.mem h b 0 0

/-- Bytes below a run, and above it, read as before. -/
theorem byte_setBytes_outside (s : State) (a : Nat) (bs : List Byte) {a' : Nat} (h : a' < a ∨ a + bs.length ≤ a') :
    (s.setBytes a bs).byte a' = s.byte a' := by
  induction bs generalizing s a with
  | nil => rfl
  | cons b r ih =>
    simp only [List.length_cons] at h
    unfold State.setBytes
    rw [ih _ (a + 1) (by omega), byte_setByte_ne _ (by omega)]

/-- A byte of the run reads what was written there. -/
theorem byte_setBytes_inside (s : State) (a : Nat) (bs : List Byte) (i : Nat) (h : i < bs.length) :
    (s.setBytes a bs).byte (a + i) = bs[i] := by
  induction bs generalizing s a i with
  | nil => simp at h
  | cons b r ih =>
    unfold State.setBytes
    cases i with
    | zero =>
      rw [byte_setBytes_outside _ _ _ (Or.inl (by omega))]
      exact byte_setByte_same s a b
    | succ i =>
      rw [show a + (i + 1) = a + 1 + i from by omega, ih _ (a + 1) i (by simpa using h)]
      rfl

/-! ## Registers -/

@[simp] theorem rd_wr_same (s : State) (a : Nat) (v : W32) : (s.wr a v).rd a = v := sget_sput_same s.csr a v (csrReset a)

theorem rd_wr_ne (s : State) {a a' : Nat} (h : a' ≠ a) (v : W32) : (s.wr a v).rd a' = s.rd a' :=
  sget_sput_ne s.csr h v (csrReset a) (csrReset a')

@[simp] theorem byte_wr (s : State) (a a' : Nat) (v : W32) : (s.wr a v).byte a' = s.byte a' := rfl
@[simp] theorem rd_setByte (s : State) (a a' : Nat) (b : Byte) : (s.setByte a b).rd a' = s.rd a' := rfl

/-! ## The canonical forms -/

theorem reset_sound : State.reset.sound = true := rfl

theorem sound_wr {s : State} (h : s.sound = true) (a : Nat) (v : W32) : (s.wr a v).sound = true := by
  unfold State.sound Registers.wf at *
  rw [Bool.and_eq_true] at *
  exact ⟨h.1, swf_sput csrReset h.2 a v⟩

theorem sound_setByte {s : State} (h : s.sound = true) (a : Nat) (b : Byte) : (s.setByte a b).sound = true := by
  unfold State.sound Memory.wf at *
  rw [Bool.and_eq_true] at *
  exact ⟨swf_sput _ h.1 a b, h.2⟩

end Sys2Proof.Machine
end

