-- ==== Sys2Proof/Laws/Kept.lean ====
section
/-! SUPPORT. What every operation keeps: the queue of commands, and the canonical forms of memory and registers. The files KeptX say
so of each operation of X. -/

namespace Sys2Proof.Machine

/-- The queue is q, and memory and registers are canonical. -/
def Kept (q : List Instr) (s : State) : Prop := s.pending = q ∧ s.sound = true

/-- An outcome is a next state that keeps them. -/
def Goes (q : List Instr) (o : Out) : Prop := ∃ t, o = .next t ∧ Kept q t

theorem goes_next {q : List Instr} {s : State} (h : Kept q s) : Goes q (.next s) := ⟨s, rfl, h⟩

/-- A state with the same queue, memory and registers. -/
theorem kept_same {q : List Instr} {s t : State} (h : Kept q s) (hp : t.pending = s.pending) (hm : t.mem = s.mem) (hc : t.csr = s.csr) :
    Kept q t := by
  unfold Kept State.sound at *
  rw [hp, hm, hc]; exact h

/-- A state made with the queue, memory and registers of another. -/
theorem kept_mk {q : List Instr} {s : State} {poison : List Nat} {retLost : List LostMark} {resp : Resp} {vlm : VlmState} {time
    : TimeState} {evq : List Nat} {batch : List (Nat × Nat)} {duc : List (Nat × DucSt)} {ord : OrdState} {eng : List (Nat ×
    Option PoolJob)} {stalled : List Nat} {served : List (Nat × Nat)} {fer : List (Nat × FerSt)} {nib : List (Nat × NibSt)} {avl
    : AvlState} {noc : NocState} {ra : RaSt} {scb : ScbState} {fh : FhState} {rad : RadState} {ylk : YlkState} {pwr : PwrState}
    {chp : ChpState} {pal : PalState} {nsp : NspState} {host : HostState} {ipend : List (Nat × Nat)} {spareTag : List (Nat ×
    Nat)} {free : Nat}
    (h : Kept q s) :
    Kept q (State.mk s.csr s.mem poison retLost resp vlm time evq batch duc ord eng stalled served fer nib avl noc ra scb fh rad
    ylk pwr chp pal nsp host ipend spareTag free s.pending) := h

theorem kept_foldl {q : List Instr} {α : Type} {f : State → α → State} {l : List α} {s : State}
    (hf : ∀ s x, Kept q s → Kept q (f s x)) (h : Kept q s) : Kept q (l.foldl f s) := by
  induction l generalizing s with
  | nil => exact h
  | cons a r ih => exact ih (hf s a h)

/-- A fold over a pair whose first part is the state. -/
theorem kept_fold1 {q : List Instr} {α β : Type} {f : State × β → α → State × β} {l : List α} {p : State × β}
    (hf : ∀ p x, Kept q p.1 → Kept q (f p x).1) (h : Kept q p.1) : Kept q (l.foldl f p).1 := by
  induction l generalizing p with
  | nil => exact h
  | cons a r ih => exact ih (hf p a h)

/-- A fold over a pair whose second part is the state. -/
theorem kept_fold2 {q : List Instr} {α β : Type} {f : β × State → α → β × State} {l : List α} {p : β × State}
    (hf : ∀ p x, Kept q p.2 → Kept q (f p x).2) (h : Kept q p.2) : Kept q (l.foldl f p).2 := by
  induction l generalizing p with
  | nil => exact h
  | cons a r ih => exact ih (hf p a h)

/-! ### Steps of the proofs: a value named, a choice, a part of a pair -/

theorem kept_cut (q : List Instr) {P : Prop} (s : State) (h : Kept q s) (k : Kept q s → P) : P := k h
theorem kept_cut1 (q : List Instr) {P : Prop} {α : Type} (p : State × α) (h : Kept q p.1) (k : Kept q p.1 → P) : P := k h
theorem kept_cut2 (q : List Instr) {P : Prop} {α : Type} (p : α × State) (h : Kept q p.2) (k : Kept q p.2 → P) : P := k h
theorem kept_cutF (q : List Instr) {P : Prop} (f : State → State) (h : ∀ s, Kept q s → Kept q (f s))
    (k : (∀ s, Kept q s → Kept q (f s)) → P) : P := k h
theorem kept_cutG (q : List Instr) {P : Prop} {α : Type} (f : State → α → State) (h : ∀ s a, Kept q s → Kept q (f s a))
    (k : (∀ s a, Kept q s → Kept q (f s a)) → P) : P := k h
theorem kept_cutA (q : List Instr) {P : Prop} {α : Type} (f : α → State) (h : ∀ a, Kept q (f a))
    (k : (∀ a, Kept q (f a)) → P) : P := k h
theorem kept_ite {q : List Instr} {c : Prop} {_ : Decidable c} {a b : State} (ha : Kept q a) (hb : Kept q b) :
    Kept q (if c then a else b) := by split <;> assumption
theorem kept_pair1 {q : List Instr} {α : Type} {a : State} {b : α} (h : Kept q a) : Kept q (a, b).1 := h
theorem kept_pair2 {q : List Instr} {α : Type} {a : α} {b : State} (h : Kept q b) : Kept q (a, b).2 := h
theorem kept_elim {q : List Instr} {α : Type} {o : Option α} {s : State} {f : α → State} (hs : Kept q s) (hf : ∀ a, Kept q (f a)) :
    Kept q (o.elim s f) := by cases o <;> simp_all
theorem kept_getD {q : List Instr} {o : Option State} {s : State} (hs : Kept q s) (ho : ∀ t, o = some t → Kept q t) :
    Kept q (o.getD s) := by cases o <;> simp_all

/-! ### Optional states -/

theorem kept_none {q : List Instr} : ∀ t, (none : Option State) = some t → Kept q t := by simp
theorem kept_none1 {q : List Instr} {α : Type} : ∀ t, (none : Option (State × α)) = some t → Kept q t.1 := by simp
theorem kept_some {q : List Instr} {s : State} (h : Kept q s) : ∀ t, some s = some t → Kept q t := fun _ e => Option.some.inj e ▸ h
theorem kept_some1 {q : List Instr} {α : Type} {p : State × α} (h : Kept q p.1) : ∀ t, some p = some t → Kept q t.1 :=
  fun _ e => Option.some.inj e ▸ h
theorem kept_map {q : List Instr} {α : Type} {f : α → State} {o : Option α} (h : ∀ a, Kept q (f a)) :
    ∀ t, o.map f = some t → Kept q t := by cases o <;> simp_all
theorem kept_getD1 {q : List Instr} {α : Type} {o : Option (State × α)} {p : State × α} (hp : Kept q p.1)
    (ho : ∀ t, o = some t → Kept q t.1) : Kept q (o.getD p).1 := by cases o <;> simp_all

theorem wr_kept {q : List Instr} (s : State) (a : Nat) (v : W32) (h : Kept q s) : Kept q (s.wr a v) := ⟨h.1, sound_wr h.2 a v⟩

theorem setByte_kept {q : List Instr} (s : State) (a : Nat) (b : Byte) (h : Kept q s) : Kept q (s.setByte a b) :=
  ⟨h.1, sound_setByte h.2 a b⟩

theorem setBytes_kept {q : List Instr} (s : State) (a : Nat) (bs : List Byte) (h : Kept q s) : Kept q (s.setBytes a bs) := by
  induction bs generalizing s a with
  | nil => exact h
  | cons b r ih => exact ih (s.setByte a b) (a + 1) (setByte_kept s a b h)

/-- Registers and memory with some entries taken out. -/
theorem kept_filter {q : List Instr} {s t : State} (h : Kept q s) (hp : t.pending = s.pending)
    (hm : ∃ p, t.mem = s.mem.filter p) (hc : ∃ p, t.csr = s.csr.filter p) : Kept q t := by
  obtain ⟨p, hm⟩ := hm
  obtain ⟨p', hc⟩ := hc
  unfold Kept State.sound Memory.wf Registers.wf at *
  rw [hp, hm, hc]
  rw [Bool.and_eq_true] at *
  exact ⟨h.1, swf_filter _ h.2.1 p, swf_filter _ h.2.2 p'⟩

end Sys2Proof.Machine
end

