-- ==== Sys2Proof/Laws/KeptOps.lean ====
section
/-! SUPPORT. What the operations of Ops keep. -/

namespace Sys2Proof.Machine
open Sys2Proof

set_option linter.all false

theorem partly_kept {q : List Instr} (s : State) (ws : List (Nat × List Byte)) (hs : Kept q s) :
    Kept q (State.partly s ws) := by
  unfold State.partly
  repeat' first
    | with_reducible assumption
    | with_reducible refine kept_some ?_
    | with_reducible refine kept_some1 ?_
    | with_reducible exact kept_none
    | with_reducible exact kept_none1
    | with_reducible refine kept_map ?_
    | with_reducible intro _
    | with_reducible exact kept_mk (by with_reducible assumption)
    | (with_reducible extract_lets +onlyGivenNames x'; refine kept_cut q x' ?_ ?_; (focus (unfold x'; clear x')); rotate_left; (focus (intro _; clear_value x')))
    | (with_reducible extract_lets +onlyGivenNames x'; refine kept_cut1 q x' ?_ ?_; (focus (unfold x'; clear x')); rotate_left; (focus (intro _; clear_value x')))
    | (with_reducible extract_lets +onlyGivenNames x'; refine kept_cut2 q x' ?_ ?_; (focus (unfold x'; clear x')); rotate_left; (focus (intro _; clear_value x')))
    | (with_reducible extract_lets +onlyGivenNames x'; unfold x'; clear x')
    | with_reducible apply setByte_kept
    | with_reducible apply kept_foldl
    | with_reducible apply kept_fold1
    | with_reducible apply kept_fold2
    | with_reducible apply kept_ite
    | with_reducible apply goes_next
    | dsimp -zeta only
    | split

theorem wrN_kept {q : List Instr} (s : State) (a : Nat) (n : Nat) (hs : Kept q s) :
    Kept q (State.wrN s a n) := by
  unfold State.wrN
  repeat' first
    | (with_reducible first | assumption | intro _ | exact kept_mk (by assumption))
    | (with_reducible extract_lets +onlyGivenNames x'; unfold x'; clear x')
    | (with_reducible first | apply wr_kept | apply kept_foldl | apply kept_fold1 | apply kept_fold2 | apply kept_ite)
    | (with_reducible first | apply goes_next)
    | dsimp -zeta only
    | split

theorem setFld_kept {q : List Instr} (s : State) (a : Nat) (hi : Nat) (lo : Nat) (v : Nat) (hs : Kept q s) :
    Kept q (State.setFld s a hi lo v) := by
  unfold State.setFld
  repeat' first
    | (with_reducible first | assumption | intro _ | exact kept_mk (by assumption))
    | (with_reducible extract_lets +onlyGivenNames x'; unfold x'; clear x')
    | (with_reducible first | apply wr_kept | apply kept_foldl | apply kept_fold1 | apply kept_fold2 | apply kept_ite)
    | (with_reducible first | apply goes_next)
    | dsimp -zeta only
    | split

theorem free1_kept {q : List Instr} (s : State) (n : Nat) (hs : Kept q s) :
    Kept q (State.free1 s n).2 := by
  unfold State.free1
  repeat' first
    | (with_reducible first | assumption | intro _ | exact kept_mk (by assumption))
    | (with_reducible extract_lets +onlyGivenNames x'; unfold x'; clear x')
    | (with_reducible first | apply kept_foldl | apply kept_fold1 | apply kept_fold2 | apply kept_ite | apply goes_next)
    | dsimp -zeta only
    | split

theorem firstWake_kept {q : List Instr} (s : State) (d : Nat) (code : Nat) (hs : Kept q s) :
    Kept q (State.firstWake s d code) := by
  unfold State.firstWake
  repeat' first
    | (with_reducible first | assumption | intro _ | exact kept_mk (by assumption))
    | (with_reducible extract_lets +onlyGivenNames x'; unfold x'; clear x')
    | (with_reducible first | apply kept_foldl | apply kept_fold1 | apply kept_fold2 | apply kept_ite | apply goes_next)
    | dsimp -zeta only
    | split

theorem bump_kept {q : List Instr} (s : State) (a : Nat) (n : Nat) (hs : Kept q s) :
    Kept q (State.bump s a n) := by
  unfold State.bump
  repeat' first
    | (with_reducible first | assumption | intro _ | exact kept_mk (by assumption))
    | (with_reducible extract_lets +onlyGivenNames x'; unfold x'; clear x')
    | (with_reducible first | apply wrN_kept | apply kept_foldl | apply kept_fold1 | apply kept_fold2 | apply kept_ite)
    | (with_reducible first | apply goes_next)
    | dsimp -zeta only
    | split

theorem setBit_kept {q : List Instr} (s : State) (a : Nat) (n : Nat) (hs : Kept q s) :
    Kept q (State.setBit s a n) := by
  unfold State.setBit
  repeat' first
    | (with_reducible first | assumption | intro _ | exact kept_mk (by assumption))
    | (with_reducible extract_lets +onlyGivenNames x'; unfold x'; clear x')
    | (with_reducible first | apply setFld_kept | apply kept_foldl | apply kept_fold1 | apply kept_fold2 | apply kept_ite)
    | (with_reducible first | apply goes_next)
    | dsimp -zeta only
    | split

theorem wrWords_kept {q : List Instr} (s : State) (a : Nat) (x2 : List W32) (hs : Kept q s) :
    Kept q (State.wrWords s a x2) := by
  induction x2 generalizing s a with
  | nil => exact hs
  | cons w r ih => exact ih _ _ (wr_kept _ _ _ hs)

theorem bumpSat_kept {q : List Instr} (s : State) (a : Nat) (hi : Nat) (lo : Nat) (n : Nat) (hs : Kept q s) :
    Kept q (State.bumpSat s a hi lo n) := by
  unfold State.bumpSat
  repeat' first
    | (with_reducible first | assumption | intro _ | exact kept_mk (by assumption))
    | (with_reducible extract_lets +onlyGivenNames x'; unfold x'; clear x')
    | (with_reducible first | apply setFld_kept | apply kept_foldl | apply kept_fold1 | apply kept_fold2 | apply kept_ite)
    | (with_reducible first | apply goes_next)
    | dsimp -zeta only
    | split

theorem raise_kept {q : List Instr} (s : State) (e : Nat) (hs : Kept q s) :
    Kept q (State.raise s e) := by
  unfold State.raise
  repeat' first
    | with_reducible assumption
    | with_reducible refine kept_some ?_
    | with_reducible refine kept_some1 ?_
    | with_reducible exact kept_none
    | with_reducible exact kept_none1
    | with_reducible refine kept_map ?_
    | with_reducible intro _
    | with_reducible exact kept_mk (by with_reducible assumption)
    | (with_reducible extract_lets +onlyGivenNames x'; refine kept_cut q x' ?_ ?_; (focus (unfold x'; clear x')); rotate_left; (focus (intro _; clear_value x')))
    | (with_reducible extract_lets +onlyGivenNames x'; refine kept_cut1 q x' ?_ ?_; (focus (unfold x'; clear x')); rotate_left; (focus (intro _; clear_value x')))
    | (with_reducible extract_lets +onlyGivenNames x'; refine kept_cut2 q x' ?_ ?_; (focus (unfold x'; clear x')); rotate_left; (focus (intro _; clear_value x')))
    | (with_reducible extract_lets +onlyGivenNames x'; unfold x'; clear x')
    | with_reducible apply bump_kept
    | with_reducible apply setFld_kept
    | with_reducible apply setBit_kept
    | with_reducible apply bumpSat_kept
    | with_reducible apply kept_foldl
    | with_reducible apply kept_fold1
    | with_reducible apply kept_fold2
    | with_reducible apply kept_ite
    | with_reducible apply goes_next
    | dsimp -zeta only
    | split

theorem unpoison_kept {q : List Instr} (s : State) (a : Nat) (n : Nat) (hs : Kept q s) :
    Kept q (State.unpoison s a n) := by
  unfold State.unpoison
  repeat' first
    | (with_reducible first | assumption | intro _ | exact kept_mk (by assumption))
    | (with_reducible extract_lets +onlyGivenNames x'; unfold x'; clear x')
    | (with_reducible first | apply kept_foldl | apply kept_fold1 | apply kept_fold2 | apply kept_ite | apply goes_next)
    | dsimp -zeta only
    | split

theorem store_kept {q : List Instr} (s : State) (a : Nat) (n : Nat) (v : Nat) (hs : Kept q s) :
    Kept q (State.store s a n v) := by
  unfold State.store
  repeat' first
    | (with_reducible first | assumption | intro _ | exact kept_mk (by assumption))
    | (with_reducible extract_lets +onlyGivenNames x'; unfold x'; clear x')
    | (with_reducible first | apply setBytes_kept | apply kept_foldl | apply kept_fold1 | apply kept_fold2 | apply kept_ite)
    | (with_reducible first | apply goes_next)
    | dsimp -zeta only
    | split

theorem csrClear_kept {q : List Instr} (s : State) (lo : Nat) (hi : Nat) (hs : Kept q s) :
    Kept q (State.csrClear s lo hi) := by
  exact kept_filter hs rfl ⟨fun _ => true, by simp [State.csrClear]⟩ ⟨_, rfl⟩

theorem freeBytes_kept {q : List Instr} (s : State) (n : Nat) (hs : Kept q s) :
    Kept q (State.freeBytes s n).2 := by
  unfold State.freeBytes
  repeat' first
    | (with_reducible first | assumption | intro _ | exact kept_mk (by assumption))
    | (with_reducible extract_lets +onlyGivenNames x'; unfold x'; clear x')
    | (with_reducible first | apply kept_foldl | apply kept_fold1 | apply kept_fold2 | apply kept_ite | apply goes_next)
    | dsimp -zeta only
    | split

end Sys2Proof.Machine
end

