-- ==== Sys2Proof/Laws/KeptAccess.lean ====
section
/-! SUPPORT. What the operations of Access keep. -/

namespace Sys2Proof.Machine
open Sys2Proof

set_option linter.all false

theorem access_kept {q : List Instr} (who : Requester) (a : Nat) (act : State → State × Nat) (s : State) (hact : ∀ a0, Kept q a0 → Kept q (act a0).1) (hs : Kept q s) :
    Kept q (access who a act s) := by
  unfold access
  repeat' first
    | with_reducible assumption
    | with_reducible refine kept_some ?_
    | with_reducible refine kept_some1 ?_
    | with_reducible exact kept_none
    | with_reducible exact kept_none1
    | with_reducible refine kept_map ?_
    | with_reducible intro _
    | with_reducible exact kept_mk (by with_reducible assumption)
    | (with_reducible extract_lets +onlyGivenNames x'; refine kept_cut q x' ?_ ?_; (focus (unfold x'; clear x')); rotate_left; (focus (intro _; clear_value x')))
    | (with_reducible extract_lets +onlyGivenNames x'; refine kept_cut1 q x' ?_ ?_; (focus (unfold x'; clear x')); rotate_left; (focus (intro _; clear_value x')))
    | (with_reducible extract_lets +onlyGivenNames x'; refine kept_cut2 q x' ?_ ?_; (focus (unfold x'; clear x')); rotate_left; (focus (intro _; clear_value x')))
    | (with_reducible extract_lets +onlyGivenNames x'; unfold x'; clear x')
    | with_reducible apply firstWake_kept
    | with_reducible apply hact
    | with_reducible apply kept_foldl
    | with_reducible apply kept_fold1
    | with_reducible apply kept_fold2
    | with_reducible apply kept_ite
    | with_reducible apply goes_next
    | dsimp -zeta only
    | split

theorem accessHeld_kept {q : List Instr} (who : Requester) (a : Nat) (act : State → State) (s : State) (hact : ∀ a0, Kept q a0 → Kept q (act a0)) (hs : Kept q s) :
    Kept q (accessHeld who a act s) := by
  unfold accessHeld
  repeat' first
    | (with_reducible first | assumption | intro _ | exact kept_mk (by assumption))
    | (with_reducible extract_lets +onlyGivenNames x'; unfold x'; clear x')
    | (with_reducible first | apply access_kept | apply hact | apply kept_foldl | apply kept_fold1 | apply kept_fold2)
    | (with_reducible first | apply kept_ite | apply goes_next)
    | dsimp -zeta only
    | split

end Sys2Proof.Machine
end

