-- ==== Sys2Proof/Laws/KeptAlloc.lean ====
section
/-! SUPPORT. What the operations of Alloc keep. -/

namespace Sys2Proof.Machine
open Sys2Proof

set_option linter.all false

theorem allocIn_kept {q : List Instr} (s : State) (cs : List VRec) (used : List (Nat × Nat)) (size : Nat) (align : Nat) (hs : Kept q s) :
    Kept q (State.allocIn s cs used size align).2 := by
  unfold State.allocIn
  repeat' first
    | (with_reducible first | assumption | refine kept_some ?_ | refine kept_some1 ?_ | exact kept_none | exact kept_none1)
    | (with_reducible first | refine kept_map ?_ | intro _ | exact kept_mk (by assumption))
    | (with_reducible extract_lets +onlyGivenNames x'; unfold x'; clear x')
    | (with_reducible first | apply free1_kept | apply kept_foldl | apply kept_fold1 | apply kept_fold2 | apply kept_ite)
    | (with_reducible first | apply goes_next)
    | dsimp -zeta only
    | split

theorem setOrd_kept {q : List Instr} (s : State) (o : OrdState) (hs : Kept q s) :
    Kept q (State.setOrd s o) := by
  unfold State.setOrd
  repeat' first
    | (with_reducible first | assumption | intro _ | exact kept_mk (by assumption))
    | (with_reducible extract_lets +onlyGivenNames x'; unfold x'; clear x')
    | (with_reducible first | apply kept_foldl | apply kept_fold1 | apply kept_fold2 | apply kept_ite | apply goes_next)
    | dsimp -zeta only
    | split

theorem setEnt_kept {q : List Instr} (s : State) (e : Nat) (ws : List W32) (hs : Kept q s) :
    Kept q (State.setEnt s e ws) := by
  unfold State.setEnt
  repeat' first
    | (with_reducible first | assumption | intro _ | exact kept_mk (by assumption))
    | (with_reducible extract_lets +onlyGivenNames x'; unfold x'; clear x')
    | (with_reducible first | apply setOrd_kept | apply kept_foldl | apply kept_fold1 | apply kept_fold2 | apply kept_ite)
    | (with_reducible first | apply goes_next)
    | dsimp -zeta only
    | split

theorem setRec_kept {q : List Instr} (s : State) (i : Nat) (ws : List W32) (hs : Kept q s) :
    Kept q (State.setRec s i ws) := by
  unfold State.setRec
  repeat' first
    | (with_reducible first | assumption | intro _ | exact kept_mk (by assumption))
    | (with_reducible extract_lets +onlyGivenNames x'; unfold x'; clear x')
    | (with_reducible first | apply setOrd_kept | apply kept_foldl | apply kept_fold1 | apply kept_fold2 | apply kept_ite)
    | (with_reducible first | apply goes_next)
    | dsimp -zeta only
    | split

theorem hdySync_kept {q : List Instr} (s : State) (r : Nat) (hs : Kept q s) :
    Kept q (State.hdySync s r) := by
  unfold State.hdySync
  repeat' first
    | (with_reducible first | assumption | intro _ | exact kept_mk (by assumption))
    | (with_reducible extract_lets +onlyGivenNames x'; unfold x'; clear x')
    | (with_reducible first | apply wrN_kept | apply setFld_kept | apply kept_foldl | apply kept_fold1 | apply kept_fold2)
    | (with_reducible first | apply kept_ite | apply goes_next)
    | dsimp -zeta only
    | split

theorem entFree_kept {q : List Instr} (s : State) (e : Nat) (hs : Kept q s) :
    Kept q (State.entFree s e) := by
  unfold State.entFree
  repeat' first
    | (with_reducible first | assumption | intro _ | exact kept_mk (by assumption))
    | (with_reducible extract_lets +onlyGivenNames x'; unfold x'; clear x')
    | (with_reducible first | apply setOrd_kept | apply setEnt_kept | apply setRec_kept | apply hdySync_kept | apply kept_foldl)
    | (with_reducible first | apply kept_fold1 | apply kept_fold2 | apply kept_ite | apply goes_next)
    | dsimp -zeta only
    | split

theorem bufFree_kept {q : List Instr} (s : State) (e : Nat) (a : Nat) (hs : Kept q s) :
    Kept q (State.bufFree s e a) := by
  unfold State.bufFree
  repeat' first
    | (with_reducible first | assumption | intro _ | exact kept_mk (by assumption))
    | (with_reducible extract_lets +onlyGivenNames x'; unfold x'; clear x')
    | (with_reducible first | apply setOrd_kept | apply kept_foldl | apply kept_fold1 | apply kept_fold2 | apply kept_ite)
    | (with_reducible first | apply goes_next)
    | dsimp -zeta only
    | split

theorem setEntW_kept {q : List Instr} (s : State) (e : Nat) (w : Nat) (v : W32) (hs : Kept q s) :
    Kept q (State.setEntW s e w v) := by
  unfold State.setEntW
  repeat' first
    | (with_reducible first | assumption | intro _ | exact kept_mk (by assumption))
    | (with_reducible extract_lets +onlyGivenNames x'; unfold x'; clear x')
    | (with_reducible first | apply setEnt_kept | apply kept_foldl | apply kept_fold1 | apply kept_fold2 | apply kept_ite)
    | (with_reducible first | apply goes_next)
    | dsimp -zeta only
    | split

theorem entSetState_kept {q : List Instr} (s : State) (e : Nat) (st : Nat) (hs : Kept q s) :
    Kept q (State.entSetState s e st) := by
  unfold State.entSetState
  repeat' first
    | (with_reducible first | assumption | intro _ | exact kept_mk (by assumption))
    | (with_reducible extract_lets +onlyGivenNames x'; unfold x'; clear x')
    | (with_reducible first | apply setEntW_kept | apply kept_foldl | apply kept_fold1 | apply kept_fold2 | apply kept_ite)
    | (with_reducible first | apply goes_next)
    | dsimp -zeta only
    | split

theorem entSetAddr_kept {q : List Instr} (s : State) (e : Nat) (w : Nat) (a : Nat) (hs : Kept q s) :
    Kept q (State.entSetAddr s e w a) := by
  unfold State.entSetAddr
  repeat' first
    | (with_reducible first | assumption | intro _ | exact kept_mk (by assumption))
    | (with_reducible extract_lets +onlyGivenNames x'; unfold x'; clear x')
    | (with_reducible first | apply setEntW_kept | apply kept_foldl | apply kept_fold1 | apply kept_fold2 | apply kept_ite)
    | (with_reducible first | apply goes_next)
    | dsimp -zeta only
    | split

theorem entUnstage_kept {q : List Instr} (s : State) (e : Nat) (hs : Kept q s) :
    Kept q (State.entUnstage s e) := by
  unfold State.entUnstage
  repeat' first
    | (with_reducible first | assumption | intro _ | exact kept_mk (by assumption))
    | (with_reducible extract_lets +onlyGivenNames x'; unfold x'; clear x')
    | (with_reducible first | apply entFree_kept | apply bufFree_kept | apply entSetState_kept | apply setEntW_kept)
    | (with_reducible first | apply entSetAddr_kept | apply hdySync_kept | apply setOrd_kept | apply kept_foldl)
    | (with_reducible first | apply kept_fold1 | apply kept_fold2 | apply kept_ite | apply goes_next)
    | dsimp -zeta only
    | split

theorem hdyRealmReset_kept {q : List Instr} (s : State) (r : Nat) (hs : Kept q s) :
    Kept q (State.hdyRealmReset s r) := by
  unfold State.hdyRealmReset
  repeat' first
    | (with_reducible first | assumption | intro _ | exact kept_mk (by assumption))
    | (with_reducible extract_lets +onlyGivenNames x'; unfold x'; clear x')
    | (with_reducible first | apply entFree_kept | apply kept_foldl | apply kept_fold1 | apply kept_fold2 | apply kept_ite)
    | (with_reducible first | apply goes_next)
    | dsimp -zeta only
    | split

theorem pick_kept {q : List Instr} (s : State) (l : List Nat) (hs : Kept q s) :
    Kept q (State.pick s l).2 := by
  unfold State.pick
  repeat' first
    | (with_reducible first | assumption | refine kept_some ?_ | refine kept_some1 ?_ | exact kept_none | exact kept_none1)
    | (with_reducible first | refine kept_map ?_ | intro _ | exact kept_mk (by assumption))
    | (with_reducible extract_lets +onlyGivenNames x'; unfold x'; clear x')
    | (with_reducible first | apply free1_kept | apply kept_foldl | apply kept_fold1 | apply kept_fold2 | apply kept_ite)
    | (with_reducible first | apply goes_next)
    | dsimp -zeta only
    | split

theorem demoCancel_kept {q : List Instr} (s : State) (e : Nat) (hs : Kept q s) :
    Kept q (State.demoCancel s e) := by
  unfold State.demoCancel
  repeat' first
    | (with_reducible first | assumption | intro _ | exact kept_mk (by assumption))
    | (with_reducible extract_lets +onlyGivenNames x'; unfold x'; clear x')
    | (with_reducible first | apply setOrd_kept | apply setFld_kept | apply partly_kept | apply entSetAddr_kept)
    | (with_reducible first | apply bufFree_kept | apply hdySync_kept | apply entSetState_kept | apply setEntW_kept)
    | (with_reducible first | apply kept_foldl | apply kept_fold1 | apply kept_fold2 | apply kept_ite | apply goes_next)
    | dsimp -zeta only
    | split

theorem entSwitch_kept {q : List Instr} (s : State) (e : Nat) (hs : Kept q s) :
    Kept q (State.entSwitch s e) := by
  unfold State.entSwitch
  repeat' first
    | (with_reducible first | assumption | intro _ | exact kept_mk (by assumption))
    | (with_reducible extract_lets +onlyGivenNames x'; unfold x'; clear x')
    | (with_reducible first | apply bufFree_kept | apply setEnt_kept | apply hdySync_kept | apply setOrd_kept | apply kept_foldl)
    | (with_reducible first | apply kept_fold1 | apply kept_fold2 | apply kept_ite | apply goes_next)
    | dsimp -zeta only
    | split

theorem harqAlloc_kept {q : List Instr} (s : State) (r : Nat) (size : Nat) (lo : Int) (hi : Int) (hs : Kept q s) :
    Kept q (State.harqAlloc s r size lo hi).2 := by
  unfold State.harqAlloc
  repeat' first
    | (with_reducible first | assumption | refine kept_some ?_ | refine kept_some1 ?_ | exact kept_none | exact kept_none1)
    | (with_reducible first | refine kept_map ?_ | intro _ | exact kept_mk (by assumption))
    | (with_reducible extract_lets +onlyGivenNames x'; unfold x'; clear x')
    | (with_reducible first | apply allocIn_kept | apply kept_foldl | apply kept_fold1 | apply kept_fold2 | apply kept_ite)
    | (with_reducible first | apply goes_next)
    | dsimp -zeta only
    | split

theorem stage_kept {q : List Instr} (s : State) (r : Nat) (inst : Nat) (e : Nat) (k : HKey) (fresh : Bool) (lo : Int) (hi : Int) (hs : Kept q s) :
    Kept q (State.stage s r inst e k fresh lo hi).2 := by
  unfold State.stage
  repeat' first
    | (with_reducible first | assumption | refine kept_some ?_ | refine kept_some1 ?_ | exact kept_none | exact kept_none1)
    | (with_reducible first | refine kept_map ?_ | intro _ | exact kept_mk (by assumption))
    | (with_reducible extract_lets +onlyGivenNames x'; unfold x'; clear x')
    | (with_reducible first | apply harqAlloc_kept | apply setOrd_kept | apply setEnt_kept | apply hdySync_kept)
    | (with_reducible first | apply kept_foldl | apply kept_fold1 | apply kept_fold2 | apply kept_ite | apply goes_next)
    | dsimp -zeta only
    | split

theorem grantKey_kept {q : List Instr} (s : State) (r : Nat) (inst : Nat) (k : HKey) (lo : Int) (hi : Int) (hs : Kept q s) :
    Kept q (State.grantKey s r inst k lo hi).2 := by
  unfold State.grantKey
  repeat' first
    | (with_reducible first | assumption | refine kept_some ?_ | refine kept_some1 ?_ | exact kept_none | exact kept_none1)
    | (with_reducible first | refine kept_map ?_ | intro _ | exact kept_mk (by assumption))
    | (with_reducible extract_lets +onlyGivenNames x'; unfold x'; clear x')
    | (with_reducible first | apply bump_kept | apply setRec_kept | apply stage_kept | apply setEnt_kept | apply pick_kept)
    | (with_reducible first | apply demoCancel_kept | apply kept_foldl | apply kept_fold1 | apply kept_fold2 | apply kept_ite)
    | (with_reducible first | apply goes_next)
    | dsimp -zeta only
    | split

end Sys2Proof.Machine
end

