-- ==== Sys2Proof/Laws/KeptCalOps.lean ====
section
/-! SUPPORT. What the operations of CalOps keep. -/

namespace Sys2Proof.Machine
open Sys2Proof

set_option linter.all false

theorem calShow_kept {q : List Instr} (s : State) (item : Nat) (idx : Nat) (hs : Kept q s) :
    Kept q (State.calShow s item idx) := by
  unfold State.calShow
  repeat' first
    | (with_reducible first | assumption | intro _ | exact kept_mk (by assumption))
    | (with_reducible extract_lets +onlyGivenNames x'; unfold x'; clear x')
    | (with_reducible first | apply wrN_kept | apply kept_foldl | apply kept_fold1 | apply kept_fold2 | apply kept_ite)
    | (with_reducible first | apply goes_next)
    | dsimp -zeta only
    | split

theorem calSet_kept {q : List Instr} (s : State) (item : Nat) (idx : Nat) (v : Int) (hs : Kept q s) :
    Kept q (State.calSet s item idx v) := by
  unfold State.calSet
  repeat' first
    | (with_reducible first | assumption | intro _ | exact kept_mk (by assumption))
    | (with_reducible extract_lets +onlyGivenNames x'; unfold x'; clear x')
    | (with_reducible first | apply calShow_kept | apply raise_kept | apply setFld_kept | apply setBit_kept | apply kept_foldl)
    | (with_reducible first | apply kept_fold1 | apply kept_fold2 | apply kept_ite | apply goes_next)
    | dsimp -zeta only
    | split

end Sys2Proof.Machine
end

