-- ==== Sys2Proof/Laws/KeptDuctusOps.lean ====
section
/-! SUPPORT. What the operations of DuctusOps keep. -/

namespace Sys2Proof.Machine
open Sys2Proof

set_option linter.all false

theorem setIpend_kept {q : List Instr} (s : State) (nib : Nat) (line : Nat) (on : Bool) (hs : Kept q s) :
    Kept q (State.setIpend s nib line on) := by
  unfold State.setIpend
  repeat' first
    | (with_reducible first | assumption | intro _ | exact kept_mk (by assumption))
    | (with_reducible extract_lets +onlyGivenNames x'; unfold x'; clear x')
    | (with_reducible first | apply kept_foldl | apply kept_fold1 | apply kept_fold2 | apply kept_ite | apply goes_next)
    | dsimp -zeta only
    | split

theorem setDuc_kept {q : List Instr} (s : State) (q0 : Nat) (d : DucSt) (hs : Kept q s) :
    Kept q (State.setDuc s q0 d) := by
  unfold State.setDuc
  repeat' first
    | (with_reducible first | assumption | intro _ | exact kept_mk (by assumption))
    | (with_reducible extract_lets +onlyGivenNames x'; unfold x'; clear x')
    | (with_reducible first | apply kept_foldl | apply kept_fold1 | apply kept_fold2 | apply kept_ite | apply goes_next)
    | dsimp -zeta only
    | split

theorem setTcbState_kept {q : List Instr} (s : State) (q0 : Nat) (i : Nat) (st : Nat) (hs : Kept q s) :
    Kept q (State.setTcbState s q0 i st) := by
  unfold State.setTcbState
  repeat' first
    | (with_reducible first | assumption | intro _ | exact kept_mk (by assumption))
    | (with_reducible extract_lets +onlyGivenNames x'; unfold x'; clear x')
    | (with_reducible first | apply setFld_kept | apply kept_foldl | apply kept_fold1 | apply kept_fold2 | apply kept_ite)
    | (with_reducible first | apply goes_next)
    | dsimp -zeta only
    | split

theorem setRun_kept {q : List Instr} (s : State) (q0 : Nat) (n : Nat) (t : Nat) (hs : Kept q s) :
    Kept q (State.setRun s q0 n t) := by
  unfold State.setRun
  repeat' first
    | (with_reducible first | assumption | intro _ | exact kept_mk (by assumption))
    | (with_reducible extract_lets +onlyGivenNames x'; unfold x'; clear x')
    | (with_reducible first | apply setDuc_kept | apply kept_foldl | apply kept_fold1 | apply kept_fold2 | apply kept_ite)
    | (with_reducible first | apply goes_next)
    | dsimp -zeta only
    | split

theorem countRun_kept {q : List Instr} (s : State) (q0 : Nat) (n : Nat) (i : Nat) (hs : Kept q s) :
    Kept q (State.countRun s q0 n i) := by
  unfold State.countRun
  repeat' first
    | (with_reducible first | assumption | intro _ | exact kept_mk (by assumption))
    | (with_reducible extract_lets +onlyGivenNames x'; unfold x'; clear x')
    | (with_reducible first | apply wrN_kept | apply setDuc_kept | apply kept_foldl | apply kept_fold1 | apply kept_fold2)
    | (with_reducible first | apply kept_ite | apply goes_next)
    | dsimp -zeta only
    | split

theorem leaveNib_kept {q : List Instr} (s : State) (q0 : Nat) (i : Nat) (hs : Kept q s) :
    Kept q (State.leaveNib s q0 i) := by
  unfold State.leaveNib
  repeat' first
    | (with_reducible first | assumption | intro _ | exact kept_mk (by assumption))
    | (with_reducible extract_lets +onlyGivenNames x'; unfold x'; clear x')
    | (with_reducible first | apply setRun_kept | apply countRun_kept | apply kept_foldl | apply kept_fold1 | apply kept_fold2)
    | (with_reducible first | apply kept_ite | apply goes_next)
    | dsimp -zeta only
    | split

theorem blotter_kept {q : List Instr} (s : State) (n : Nat) (ws : List Nat) (hs : Kept q s) :
    ∀ t, State.blotter s n ws = some t → Kept q t := by
  intro t ht
  unfold State.blotter at ht
  dsimp only at ht
  split at ht
  · cases ht
  · split at ht
    · cases ht
    · cases ht
      exact bump_kept _ _ _ (setBytes_kept _ _ _ hs)

theorem ducTrace_kept {q : List Instr} (s : State) (q0 : Nat) (typ : Nat) (realm : Nat) (nib : Nat) (tid : Nat) (w2 : Nat) (w3 : Nat) (hs : Kept q s) :
    Kept q (State.ducTrace s q0 typ realm nib tid w2 w3) := by
  unfold State.ducTrace
  repeat' first
    | (with_reducible first | assumption | refine kept_some ?_ | refine kept_some1 ?_ | exact kept_none | exact kept_none1)
    | (with_reducible first | refine kept_map ?_ | intro _ | exact kept_mk (by assumption))
    | (with_reducible extract_lets +onlyGivenNames x'; unfold x'; clear x')
    | (with_reducible first | refine blotter_kept _ _ _ ?_ _ (by assumption) | apply raise_kept | apply bumpSat_kept)
    | (with_reducible first | apply kept_foldl | apply kept_fold1 | apply kept_fold2 | apply kept_ite | apply goes_next)
    | dsimp -zeta only
    | split

theorem countWaiters_kept {q : List Instr} (s : State) (q0 : Nat) (g : Nat) (hs : Kept q s) :
    Kept q (State.countWaiters s q0 g) := by
  unfold State.countWaiters
  repeat' first
    | (with_reducible first | assumption | intro _ | exact kept_mk (by assumption))
    | (with_reducible extract_lets +onlyGivenNames x'; unfold x'; clear x')
    | (with_reducible first | apply setFld_kept | apply kept_foldl | apply kept_fold1 | apply kept_fold2 | apply kept_ite)
    | (with_reducible first | apply goes_next)
    | dsimp -zeta only
    | split

theorem unlist_kept {q : List Instr} (s : State) (q0 : Nat) (i : Nat) (hs : Kept q s) :
    Kept q (State.unlist s q0 i) := by
  unfold State.unlist
  repeat' first
    | (with_reducible first | assumption | intro _ | exact kept_mk (by assumption))
    | (with_reducible extract_lets +onlyGivenNames x'; unfold x'; clear x')
    | (with_reducible first | apply setDuc_kept | apply countWaiters_kept | apply kept_foldl | apply kept_fold1)
    | (with_reducible first | apply kept_fold2 | apply kept_ite | apply goes_next)
    | dsimp -zeta only
    | split

theorem jrnlThread_kept {q : List Instr} (s : State) (q0 : Nat) (i : Nat) (hs : Kept q s) :
    Kept q (State.jrnlThread s q0 i) := by
  unfold State.jrnlThread
  repeat' first
    | (with_reducible first | assumption | intro _ | exact kept_mk (by assumption))
    | (with_reducible extract_lets +onlyGivenNames x'; unfold x'; clear x')
    | (with_reducible first | apply setDuc_kept | apply setBytes_kept | apply kept_foldl | apply kept_fold1 | apply kept_fold2)
    | (with_reducible first | apply kept_ite | apply goes_next)
    | dsimp -zeta only
    | split

theorem dispatch_kept {q : List Instr} (s : State) (q0 : Nat) (hs : Kept q s) :
    Kept q (State.dispatch s q0) := by
  unfold State.dispatch
  repeat' first
    | (with_reducible first | assumption | intro _ | exact kept_mk (by assumption))
    | (with_reducible extract_lets +onlyGivenNames x'; unfold x'; clear x')
    | (with_reducible first | apply setIpend_kept | apply kept_foldl | apply kept_fold1 | apply kept_fold2 | apply kept_ite)
    | (with_reducible first | apply goes_next)
    | dsimp -zeta only
    | split

theorem setFer_kept {q : List Instr} (s : State) (f : Nat) (x : FerSt) (hs : Kept q s) :
    Kept q (State.setFer s f x) := by
  unfold State.setFer
  repeat' first
    | (with_reducible first | assumption | intro _ | exact kept_mk (by assumption))
    | (with_reducible extract_lets +onlyGivenNames x'; unfold x'; clear x')
    | (with_reducible first | apply kept_foldl | apply kept_fold1 | apply kept_fold2 | apply kept_ite | apply goes_next)
    | dsimp -zeta only
    | split

theorem makeReady_kept {q : List Instr} (s : State) (q0 : Nat) (i : Nat) (hs : Kept q s) :
    Kept q (State.makeReady s q0 i) := by
  unfold State.makeReady
  repeat' first
    | (with_reducible first | assumption | intro _ | exact kept_mk (by assumption))
    | (with_reducible extract_lets +onlyGivenNames x'; unfold x'; clear x')
    | (with_reducible first | apply setTcbState_kept | apply dispatch_kept | apply setDuc_kept | apply kept_foldl)
    | (with_reducible first | apply kept_fold1 | apply kept_fold2 | apply kept_ite | apply goes_next)
    | dsimp -zeta only
    | split

theorem wake_kept {q : List Instr} (s : State) (q0 : Nat) (i : Nat) (status : Nat) (value : Nat) (cause : Nat) (hs : Kept q s) :
    Kept q (State.wake s q0 i status value cause) := by
  unfold State.wake
  repeat' first
    | (with_reducible first | assumption | intro _ | exact kept_mk (by assumption))
    | (with_reducible extract_lets +onlyGivenNames x'; unfold x'; clear x')
    | (with_reducible first | apply wr_kept | apply setFld_kept | apply wrN_kept | apply setDuc_kept | apply ducTrace_kept)
    | (with_reducible first | apply makeReady_kept | apply kept_foldl | apply kept_fold1 | apply kept_fold2 | apply kept_ite)
    | (with_reducible first | apply goes_next)
    | dsimp -zeta only
    | split

theorem ferRelease_kept {q : List Instr} (s : State) (f : Nat) (hs : Kept q s) :
    Kept q (State.ferRelease s f) := by
  unfold State.ferRelease
  repeat' first
    | (with_reducible first | assumption | intro _ | exact kept_mk (by assumption))
    | (with_reducible extract_lets +onlyGivenNames x'; unfold x'; clear x')
    | (with_reducible first | apply setFld_kept | apply setFer_kept | apply wake_kept | apply kept_foldl | apply kept_fold1)
    | (with_reducible first | apply kept_fold2 | apply kept_ite | apply goes_next)
    | dsimp -zeta only
    | split

theorem ferOrphan_kept {q : List Instr} (s : State) (f : Nat) (hs : Kept q s) :
    Kept q (State.ferOrphan s f) := by
  unfold State.ferOrphan
  repeat' first
    | (with_reducible first | assumption | intro _ | exact kept_mk (by assumption))
    | (with_reducible extract_lets +onlyGivenNames x'; unfold x'; clear x')
    | (with_reducible first | apply ferRelease_kept | apply kept_foldl | apply kept_fold1 | apply kept_fold2 | apply kept_ite)
    | (with_reducible first | apply goes_next)
    | dsimp -zeta only
    | split

theorem ferDisown_kept {q : List Instr} (s : State) (f : Nat) (i : Nat) (hs : Kept q s) :
    Kept q (State.ferDisown s f i) := by
  unfold State.ferDisown
  repeat' first
    | (with_reducible first | assumption | intro _ | exact kept_mk (by assumption))
    | (with_reducible extract_lets +onlyGivenNames x'; unfold x'; clear x')
    | (with_reducible first | apply setFld_kept | apply kept_foldl | apply kept_fold1 | apply kept_fold2 | apply kept_ite)
    | (with_reducible first | apply goes_next)
    | dsimp -zeta only
    | split

theorem freeThread_kept {q : List Instr} (s : State) (q0 : Nat) (i : Nat) (status : Nat) (cause : Nat) (hs : Kept q s) :
    Kept q (State.freeThread s q0 i status cause) := by
  unfold State.freeThread
  repeat' first
    | (with_reducible first | assumption | intro _ | exact kept_mk (by assumption))
    | (with_reducible extract_lets +onlyGivenNames x'; unfold x'; clear x')
    | (with_reducible first | apply unlist_kept | apply leaveNib_kept | apply ducTrace_kept | apply setDuc_kept)
    | (with_reducible first | apply jrnlThread_kept | apply setTcbState_kept | apply raise_kept | apply dispatch_kept)
    | (with_reducible first | apply ferOrphan_kept | apply ferDisown_kept | apply kept_foldl | apply kept_fold1)
    | (with_reducible first | apply kept_fold2 | apply kept_ite | apply goes_next)
    | dsimp -zeta only
    | split

theorem setHeld_kept {q : List Instr} (s : State) (q0 : Nat) (n : Nat) (t : Nat) (hs : Kept q s) :
    Kept q (State.setHeld s q0 n t) := by
  unfold State.setHeld
  repeat' first
    | (with_reducible first | assumption | intro _ | exact kept_mk (by assumption))
    | (with_reducible extract_lets +onlyGivenNames x'; unfold x'; clear x')
    | (with_reducible first | apply setDuc_kept | apply kept_foldl | apply kept_fold1 | apply kept_fold2 | apply kept_ite)
    | (with_reducible first | apply goes_next)
    | dsimp -zeta only
    | split

theorem endThread_kept {q : List Instr} (s : State) (q0 : Nat) (i : Nat) (status : Nat) (cause : Nat) (slot : Option SlotId) (hs : Kept q s) :
    Kept q (State.endThread s q0 i status cause slot) := by
  unfold State.endThread
  repeat' first
    | (with_reducible first | assumption | intro _ | exact kept_mk (by assumption))
    | (with_reducible extract_lets +onlyGivenNames x'; unfold x'; clear x')
    | (with_reducible first | apply dispatch_kept | apply setDuc_kept | apply freeThread_kept | apply kept_foldl)
    | (with_reducible first | apply kept_fold1 | apply kept_fold2 | apply kept_ite | apply goes_next)
    | dsimp -zeta only
    | split

theorem jrnlSem_kept {q : List Instr} (s : State) (q0 : Nat) (i : Nat) (hs : Kept q s) :
    Kept q (State.jrnlSem s q0 i) := by
  unfold State.jrnlSem
  repeat' first
    | (with_reducible first | assumption | intro _ | exact kept_mk (by assumption))
    | (with_reducible extract_lets +onlyGivenNames x'; unfold x'; clear x')
    | (with_reducible first | apply setBytes_kept | apply kept_foldl | apply kept_fold1 | apply kept_fold2 | apply kept_ite)
    | (with_reducible first | apply goes_next)
    | dsimp -zeta only
    | split

theorem jrnlFlag_kept {q : List Instr} (s : State) (q0 : Nat) (g : Nat) (hs : Kept q s) :
    Kept q (State.jrnlFlag s q0 g) := by
  unfold State.jrnlFlag
  repeat' first
    | (with_reducible first | assumption | intro _ | exact kept_mk (by assumption))
    | (with_reducible extract_lets +onlyGivenNames x'; unfold x'; clear x')
    | (with_reducible first | apply setBytes_kept | apply kept_foldl | apply kept_fold1 | apply kept_fold2 | apply kept_ite)
    | (with_reducible first | apply goes_next)
    | dsimp -zeta only
    | split

theorem tcbWrite_kept {q : List Instr} (s : State) (q0 : Nat) (i : Nat) (ws : List Nat) (hs : Kept q s) :
    Kept q (State.tcbWrite s q0 i ws) := by
  unfold State.tcbWrite
  repeat' first
    | (with_reducible first | assumption | intro _ | exact kept_mk (by assumption))
    | (with_reducible extract_lets +onlyGivenNames x'; unfold x'; clear x')
    | (with_reducible first | apply wrWords_kept | apply kept_foldl | apply kept_fold1 | apply kept_fold2 | apply kept_ite)
    | (with_reducible first | apply goes_next)
    | dsimp -zeta only
    | split

theorem createThread_kept {q : List Instr} (s : State) (q0 : Nat) (i : Nat) (ws : List Nat) (hs : Kept q s) :
    Kept q (State.createThread s q0 i ws) := by
  unfold State.createThread
  repeat' first
    | (with_reducible first | assumption | intro _ | exact kept_mk (by assumption))
    | (with_reducible extract_lets +onlyGivenNames x'; unfold x'; clear x')
    | (with_reducible first | apply setTcbState_kept | apply tcbWrite_kept | apply setFld_kept | apply wrN_kept)
    | (with_reducible first | apply jrnlThread_kept | apply ducTrace_kept | apply kept_foldl | apply kept_fold1)
    | (with_reducible first | apply kept_fold2 | apply kept_ite | apply goes_next)
    | dsimp -zeta only
    | split

theorem flagWake_kept {q : List Instr} (s : State) (q0 : Nat) (g : Nat) (x3 : List Nat) (hs : Kept q s) :
    Kept q (State.flagWake s q0 g x3) := by
  induction x3 generalizing s with
  | nil => exact hs
  | cons i r ih =>
    have h := fun f => countWaiters_kept _ q0 g (wake_kept s q0 i 0 f 0 hs)
    unfold State.flagWake
    dsimp only
    repeat' split
    all_goals first | exact ih _ hs | exact ih _ (wrN_kept _ _ _ (h _)) | exact ih _ (h _)

theorem flagChange_kept {q : List Instr} (s : State) (q0 : Nat) (g : Nat) (clr : Nat) (set : Nat) (routed : Bool) (hs : Kept q s) :
    Kept q (State.flagChange s q0 g clr set routed) := by
  unfold State.flagChange
  repeat' first
    | (with_reducible first | assumption | intro _ | exact kept_mk (by assumption))
    | (with_reducible extract_lets +onlyGivenNames x'; unfold x'; clear x')
    | (with_reducible first | apply wrN_kept | apply ducTrace_kept | apply jrnlFlag_kept | apply flagWake_kept)
    | (with_reducible first | apply kept_foldl | apply kept_fold1 | apply kept_fold2 | apply kept_ite | apply goes_next)
    | dsimp -zeta only
    | split

theorem semPost_kept {q : List Instr} (s : State) (q0 : Nat) (i : Nat) (n : Nat) (routed : Bool) (hs : Kept q s) :
    Kept q (State.semPost s q0 i n routed).1 := by
  unfold State.semPost
  repeat' first
    | (with_reducible first | assumption | intro _ | exact kept_mk (by assumption))
    | (with_reducible extract_lets +onlyGivenNames x'; unfold x'; clear x')
    | (with_reducible first | apply wake_kept | apply setFld_kept | apply jrnlSem_kept | apply ducTrace_kept | apply raise_kept)
    | (with_reducible first | apply kept_foldl | apply kept_fold1 | apply kept_fold2 | apply kept_ite | apply goes_next)
    | dsimp -zeta only
    | split

end Sys2Proof.Machine
end

