-- ==== Sys2Proof/Laws/KeptRings.lean ====
section
/-! SUPPORT. What the operations of Rings keep. -/

namespace Sys2Proof.Machine
open Sys2Proof

set_option linter.all false

theorem devWrite_kept {q : List Instr} (s : State) (g : Nat) (bs : List Byte) (hs : Kept q s) :
    ∀ t, State.devWrite s g bs = some t → Kept q t := by
  intro t ht
  unfold State.devWrite at ht
  split at ht
  · cases ht
  · split at ht
    · cases ht
      exact unpoison_kept _ _ _ (setBytes_kept _ _ _ hs)
    · cases ht

theorem tokReset_kept {q : List Instr} (s : State) (x1 : RingId) (hs : Kept q s) :
    Kept q (State.tokReset s x1) := by
  unfold State.tokReset
  repeat' first
    | (with_reducible first | assumption | intro _ | exact kept_mk (by assumption))
    | (with_reducible extract_lets +onlyGivenNames x'; unfold x'; clear x')
    | (with_reducible first | apply kept_foldl | apply kept_fold1 | apply kept_fold2 | apply kept_ite | apply goes_next)
    | dsimp -zeta only
    | split

theorem writeBack_kept {q : List Instr} (b : Nat) (g : Nat) (bs : List Byte) (s : State) (hs : Kept q s) :
    Kept q (writeBack b g bs s) := by
  unfold writeBack
  repeat' first
    | (with_reducible first | assumption | refine kept_some ?_ | refine kept_some1 ?_ | exact kept_none | exact kept_none1)
    | (with_reducible first | refine kept_map ?_ | intro _ | exact kept_mk (by assumption))
    | (with_reducible extract_lets +onlyGivenNames x'; unfold x'; clear x')
    | (with_reducible first | refine devWrite_kept _ _ _ ?_ _ (by assumption) | apply setBit_kept | apply kept_foldl)
    | (with_reducible first | apply kept_fold1 | apply kept_fold2 | apply kept_ite | apply goes_next)
    | dsimp -zeta only
    | split

end Sys2Proof.Machine
end

