-- ==== Sys2Proof/Laws/KeptCommands.lean ====
section
/-! SUPPORT. What the operations of Commands keep. -/

namespace Sys2Proof.Machine
open Sys2Proof

set_option linter.all false

theorem abandon_kept {q : List Instr} (s : State) (r : RingId) (hs : Kept q s) :
    Kept q (State.abandon s r) := by
  unfold State.abandon
  repeat' first
    | with_reducible assumption
    | with_reducible refine kept_some ?_
    | with_reducible refine kept_some1 ?_
    | with_reducible exact kept_none
    | with_reducible exact kept_none1
    | with_reducible refine kept_map ?_
    | with_reducible intro _
    | with_reducible exact kept_mk (by with_reducible assumption)
    | (with_reducible extract_lets +onlyGivenNames x'; refine kept_cut q x' ?_ ?_; (focus (unfold x'; clear x')); rotate_left; (focus (intro _; clear_value x')))
    | (with_reducible extract_lets +onlyGivenNames x'; refine kept_cut1 q x' ?_ ?_; (focus (unfold x'; clear x')); rotate_left; (focus (intro _; clear_value x')))
    | (with_reducible extract_lets +onlyGivenNames x'; refine kept_cut2 q x' ?_ ?_; (focus (unfold x'; clear x')); rotate_left; (focus (intro _; clear_value x')))
    | (with_reducible extract_lets +onlyGivenNames x'; unfold x'; clear x')
    | with_reducible apply partly_kept
    | with_reducible apply kept_foldl
    | with_reducible apply kept_fold1
    | with_reducible apply kept_fold2
    | with_reducible apply kept_ite
    | with_reducible apply goes_next
    | dsimp -zeta only
    | split

theorem setRunning_kept {q : List Instr} (s : State) (k : SlotId) (c : Option RunCmd) (hs : Kept q s) :
    Kept q (State.setRunning s k c) := by
  unfold State.setRunning
  repeat' first
    | (with_reducible first | assumption | intro _ | exact kept_mk (by assumption))
    | (with_reducible extract_lets +onlyGivenNames x'; unfold x'; clear x')
    | (with_reducible first | apply kept_foldl | apply kept_fold1 | apply kept_fold2 | apply kept_ite | apply goes_next)
    | dsimp -zeta only
    | split

theorem nspResult_kept {q : List Instr} (s : State) (seq : Nat) (op : Nat) (status : Nat) (ws : List W32) (hs : Kept q s) :
    Kept q (State.nspResult s seq op status ws) := by
  unfold State.nspResult
  repeat' first
    | (with_reducible first | assumption | intro _ | exact kept_mk (by assumption))
    | (with_reducible extract_lets +onlyGivenNames x'; unfold x'; clear x')
    | (with_reducible first | apply kept_foldl | apply kept_fold1 | apply kept_fold2 | apply kept_ite | apply goes_next)
    | dsimp -zeta only
    | split

theorem slotEnd_kept {q : List Instr} (s : State) (k : SlotId) (status : Nat) (ws : List W32) (hs : Kept q s) :
    Kept q (State.slotEnd s k status ws) := by
  unfold State.slotEnd
  repeat' first
    | (with_reducible first | assumption | intro _ | exact kept_mk (by assumption))
    | (with_reducible extract_lets +onlyGivenNames x'; unfold x'; clear x')
    | (with_reducible first | apply setRunning_kept | apply nspResult_kept | apply wrWords_kept | apply wrN_kept)
    | (with_reducible first | apply kept_foldl | apply kept_fold1 | apply kept_fold2 | apply kept_ite | apply goes_next)
    | dsimp -zeta only
    | split

theorem jPush_kept {q : List Instr} (s : State) (q0 : Nat) (r : JReq) (hs : Kept q s) :
    Kept q (State.jPush s q0 r) := by
  unfold State.jPush
  repeat' first
    | (with_reducible first | assumption | intro _ | exact kept_mk (by assumption))
    | (with_reducible extract_lets +onlyGivenNames x'; unfold x'; clear x')
    | (with_reducible first | apply setDuc_kept | apply kept_foldl | apply kept_fold1 | apply kept_fold2 | apply kept_ite)
    | (with_reducible first | apply goes_next)
    | dsimp -zeta only
    | split

theorem ringLook_kept {q : List Instr} (s : State) (r : RingId) (hs : Kept q s) :
    Kept q (State.ringLook s r) := by
  unfold State.ringLook
  repeat' first
    | with_reducible assumption
    | with_reducible refine kept_some ?_
    | with_reducible refine kept_some1 ?_
    | with_reducible exact kept_none
    | with_reducible exact kept_none1
    | with_reducible refine kept_map ?_
    | with_reducible intro _
    | with_reducible exact kept_mk (by with_reducible assumption)
    | (with_reducible extract_lets +onlyGivenNames x'; refine kept_cut q x' ?_ ?_; (focus (unfold x'; clear x')); rotate_left; (focus (intro _; clear_value x')))
    | (with_reducible extract_lets +onlyGivenNames x'; refine kept_cut1 q x' ?_ ?_; (focus (unfold x'; clear x')); rotate_left; (focus (intro _; clear_value x')))
    | (with_reducible extract_lets +onlyGivenNames x'; refine kept_cut2 q x' ?_ ?_; (focus (unfold x'; clear x')); rotate_left; (focus (intro _; clear_value x')))
    | (with_reducible extract_lets +onlyGivenNames x'; unfold x'; clear x')
    | with_reducible apply setBit_kept
    | with_reducible apply kept_foldl
    | with_reducible apply kept_fold1
    | with_reducible apply kept_fold2
    | with_reducible apply kept_ite
    | with_reducible apply goes_next
    | dsimp -zeta only
    | split

theorem ringCfgWrite_kept {q : List Instr} (s : State) (r : RingId) (v : W32) (hs : Kept q s) :
    Kept q (State.ringCfgWrite s r v) := by
  unfold State.ringCfgWrite
  repeat' first
    | (with_reducible first | assumption | intro _ | exact kept_mk (by assumption))
    | (with_reducible extract_lets +onlyGivenNames x'; unfold x'; clear x')
    | (with_reducible first | apply setFld_kept | apply wr_kept | apply abandon_kept | apply setBit_kept | apply ringLook_kept)
    | (with_reducible first | apply tokReset_kept | apply kept_foldl | apply kept_fold1 | apply kept_fold2 | apply kept_ite)
    | (with_reducible first | apply goes_next)
    | dsimp -zeta only
    | split

theorem ringTailWrite_kept {q : List Instr} (s : State) (r : RingId) (v : Nat) (hs : Kept q s) :
    Kept q (State.ringTailWrite s r v) := by
  unfold State.ringTailWrite
  repeat' first
    | (with_reducible first | assumption | intro _ | exact kept_mk (by assumption))
    | (with_reducible extract_lets +onlyGivenNames x'; unfold x'; clear x')
    | (with_reducible first | apply setBit_kept | apply ringLook_kept | apply wrN_kept | apply kept_foldl | apply kept_fold1)
    | (with_reducible first | apply kept_fold2 | apply kept_ite | apply goes_next)
    | dsimp -zeta only
    | split

theorem wakeTarget_kept {q : List Instr} (s : State) (w : W32) (hs : Kept q s) :
    Kept q (State.wakeTarget s w) := by
  unfold State.wakeTarget
  repeat' first
    | (with_reducible first | assumption | intro _ | exact kept_mk (by assumption))
    | (with_reducible extract_lets +onlyGivenNames x'; unfold x'; clear x')
    | (with_reducible first | apply jPush_kept | apply setBit_kept | apply kept_foldl | apply kept_fold1 | apply kept_fold2)
    | (with_reducible first | apply kept_ite | apply goes_next)
    | dsimp -zeta only
    | split

theorem notifyRing_kept {q : List Instr} (s : State) (x1 : RingId) (hs : Kept q s) :
    Kept q (State.notifyRing s x1) := by
  unfold State.notifyRing
  repeat' first
    | (with_reducible first | assumption | intro _ | exact kept_mk (by assumption))
    | (with_reducible extract_lets +onlyGivenNames x'; unfold x'; clear x')
    | (with_reducible first | apply raise_kept | apply setBit_kept | apply wakeTarget_kept | apply kept_foldl | apply kept_fold1)
    | (with_reducible first | apply kept_fold2 | apply kept_ite | apply goes_next)
    | dsimp -zeta only
    | split

theorem ringEvent_kept {q : List Instr} (s : State) (r : RingId) (hs : Kept q s) :
    Kept q (State.ringEvent s r) := by
  unfold State.ringEvent
  repeat' first
    | (with_reducible first | assumption | intro _ | exact kept_mk (by assumption))
    | (with_reducible extract_lets +onlyGivenNames x'; unfold x'; clear x')
    | (with_reducible first | apply setFld_kept | apply notifyRing_kept | apply kept_foldl | apply kept_fold1 | apply kept_fold2)
    | (with_reducible first | apply kept_ite | apply goes_next)
    | dsimp -zeta only
    | split

theorem complete_kept {q : List Instr} (s : State) (r : RingId) (status : Nat) (detail : Nat) (hs : Kept q s) :
    Kept q (State.complete s r status detail) := by
  unfold State.complete
  repeat' first
    | (with_reducible first | assumption | intro _ | exact kept_mk (by assumption))
    | (with_reducible extract_lets +onlyGivenNames x'; unfold x'; clear x')
    | (with_reducible first | apply writeBack_kept | apply wrN_kept | apply setBit_kept | apply tokReset_kept)
    | (with_reducible first | apply ringLook_kept | apply ringEvent_kept | apply kept_foldl | apply kept_fold1)
    | (with_reducible first | apply kept_fold2 | apply kept_ite | apply goes_next)
    | dsimp -zeta only
    | split

theorem reject_kept {q : List Instr} (s : State) (d : Desc) (status : Nat) (detail : Nat) (hs : Kept q s) :
    Kept q (State.reject s d status detail) := by
  unfold State.reject
  repeat' first
    | (with_reducible first | assumption | intro _ | exact kept_mk (by assumption))
    | (with_reducible extract_lets +onlyGivenNames x'; unfold x'; clear x')
    | (with_reducible first | apply complete_kept | apply bumpSat_kept | apply kept_foldl | apply kept_fold1 | apply kept_fold2)
    | (with_reducible first | apply kept_ite | apply goes_next)
    | dsimp -zeta only
    | split

theorem ringBaseWrite_kept {q : List Instr} (s : State) (r : RingId) (lo : W32) (hi : W32) (hs : Kept q s) :
    Kept q (State.ringBaseWrite s r lo hi) := by
  unfold State.ringBaseWrite
  repeat' first
    | (with_reducible first | assumption | intro _ | exact kept_mk (by assumption))
    | (with_reducible extract_lets +onlyGivenNames x'; unfold x'; clear x')
    | (with_reducible first | apply wr_kept | apply wrN_kept | apply kept_foldl | apply kept_fold1 | apply kept_fold2)
    | (with_reducible first | apply kept_ite | apply goes_next)
    | dsimp -zeta only
    | split

theorem ringHeadwbWrite_kept {q : List Instr} (s : State) (r : RingId) (lo : W32) (hi : W32) (hs : Kept q s) :
    Kept q (State.ringHeadwbWrite s r lo hi) := by
  unfold State.ringHeadwbWrite
  repeat' first
    | (with_reducible first | assumption | intro _ | exact kept_mk (by assumption))
    | (with_reducible extract_lets +onlyGivenNames x'; unfold x'; clear x')
    | (with_reducible first | apply wr_kept | apply wrN_kept | apply kept_foldl | apply kept_fold1 | apply kept_fold2)
    | (with_reducible first | apply kept_ite | apply goes_next)
    | dsimp -zeta only
    | split

theorem slotBegin_kept {q : List Instr} (s : State) (k : SlotId) (c : RunCmd) (hs : Kept q s) :
    Kept q (State.slotBegin s k c) := by
  unfold State.slotBegin
  repeat' first
    | (with_reducible first | assumption | intro _ | exact kept_mk (by assumption))
    | (with_reducible extract_lets +onlyGivenNames x'; unfold x'; clear x')
    | (with_reducible first | apply setRunning_kept | apply setFld_kept | apply kept_foldl | apply kept_fold1 | apply kept_fold2)
    | (with_reducible first | apply kept_ite | apply goes_next)
    | dsimp -zeta only
    | split

theorem command_kept {q : List Instr} (op : Nat) (d : Desc) (chk : State → Nat × Nat) (act : State → State) (s : State) (hact : ∀ a0, Kept q a0 → Kept q (act a0)) (hs : Kept q s) :
    Kept q (command op d chk act s) := by
  unfold command
  repeat' first
    | (with_reducible first | assumption | intro _ | exact kept_mk (by assumption))
    | (with_reducible extract_lets +onlyGivenNames x'; unfold x'; clear x')
    | (with_reducible first | apply slotBegin_kept | apply nspResult_kept | apply complete_kept | apply reject_kept | apply hact)
    | (with_reducible first | apply kept_foldl | apply kept_fold1 | apply kept_fold2 | apply kept_ite | apply goes_next)
    | dsimp -zeta only
    | split

theorem commandNow_kept {q : List Instr} (op : Nat) (d : Desc) (chk : State → Nat × Nat) (act : State → State × Nat × List W32) (s : State) (hact : ∀ a0, Kept q a0 → Kept q (act a0).1) (hs : Kept q s) :
    Kept q (commandNow op d chk act s) := by
  unfold commandNow
  repeat' first
    | (with_reducible first | assumption | intro _ | exact kept_mk (by assumption))
    | (with_reducible extract_lets +onlyGivenNames x'; unfold x'; clear x')
    | (with_reducible first | apply command_kept | apply slotEnd_kept | apply hact | apply kept_foldl | apply kept_fold1)
    | (with_reducible first | apply kept_fold2 | apply kept_ite | apply goes_next)
    | dsimp -zeta only
    | split

end Sys2Proof.Machine
end

