-- ==== Sys2Proof/Laws/KeptFerOps.lean ====
section
/-! SUPPORT. What the operations of FerOps keep. -/

namespace Sys2Proof.Machine
open Sys2Proof

set_option linter.all false

theorem ferError_kept {q : List Instr} (s : State) (f : Nat) (info : Nat) (addr : Nat) (hs : Kept q s) :
    Kept q (State.ferError s f info addr) := by
  unfold State.ferError
  repeat' first
    | (with_reducible first | assumption | intro _ | exact kept_mk (by assumption))
    | (with_reducible extract_lets +onlyGivenNames x'; unfold x'; clear x')
    | (with_reducible first | apply setBit_kept | apply wrN_kept | apply raise_kept | apply kept_foldl | apply kept_fold1)
    | (with_reducible first | apply kept_fold2 | apply kept_ite | apply goes_next)
    | dsimp -zeta only
    | split

theorem ferShow_kept {q : List Instr} (s : State) (f : Nat) (hs : Kept q s) :
    Kept q (State.ferShow s f) := by
  unfold State.ferShow
  repeat' first
    | (with_reducible first | assumption | intro _ | exact kept_mk (by assumption))
    | (with_reducible extract_lets +onlyGivenNames x'; unfold x'; clear x')
    | (with_reducible first | apply setFld_kept | apply kept_foldl | apply kept_fold1 | apply kept_fold2 | apply kept_ite)
    | (with_reducible first | apply goes_next)
    | dsimp -zeta only
    | split

theorem ferTagEnd_kept {q : List Instr} (s : State) (f : Nat) (t : Nat) (status : Nat) (hs : Kept q s) :
    Kept q (State.ferTagEnd s f t status) := by
  unfold State.ferTagEnd
  repeat' first
    | (with_reducible first | assumption | intro _ | exact kept_mk (by assumption))
    | (with_reducible extract_lets +onlyGivenNames x'; unfold x'; clear x')
    | (with_reducible first | apply setFer_kept | apply setFld_kept | apply kept_foldl | apply kept_fold1 | apply kept_fold2)
    | (with_reducible first | apply kept_ite | apply goes_next)
    | dsimp -zeta only
    | split

theorem ferAbortAll_kept {q : List Instr} (s : State) (f : Nat) (hs : Kept q s) :
    Kept q (State.ferAbortAll s f) := by
  unfold State.ferAbortAll
  repeat' first
    | (with_reducible first | assumption | intro _ | exact kept_mk (by assumption))
    | (with_reducible extract_lets +onlyGivenNames x'; unfold x'; clear x')
    | (with_reducible first | apply setFer_kept | apply ferShow_kept | apply ferTagEnd_kept | apply kept_foldl)
    | (with_reducible first | apply kept_fold1 | apply kept_fold2 | apply kept_ite | apply goes_next)
    | dsimp -zeta only
    | split

theorem ferAbort_kept {q : List Instr} (s : State) (f : Nat) (hs : Kept q s) :
    Kept q (State.ferAbort s f) := by
  unfold State.ferAbort
  repeat' first
    | (with_reducible first | assumption | intro _ | exact kept_mk (by assumption))
    | (with_reducible extract_lets +onlyGivenNames x'; unfold x'; clear x')
    | (with_reducible first | apply ferError_kept | apply ferAbortAll_kept | apply kept_foldl | apply kept_fold1)
    | (with_reducible first | apply kept_fold2 | apply kept_ite | apply goes_next)
    | dsimp -zeta only
    | split

theorem ferWakeAll_kept {q : List Instr} (s : State) (f : Nat) (status : Nat) (cause : Nat) (hs : Kept q s) :
    Kept q (State.ferWakeAll s f status cause) := by
  unfold State.ferWakeAll
  repeat' first
    | (with_reducible first | assumption | intro _ | exact kept_mk (by assumption))
    | (with_reducible extract_lets +onlyGivenNames x'; unfold x'; clear x')
    | (with_reducible first | apply wake_kept | apply kept_foldl | apply kept_fold1 | apply kept_fold2 | apply kept_ite)
    | (with_reducible first | apply goes_next)
    | dsimp -zeta only
    | split

theorem ferReset_kept {q : List Instr} (s : State) (f : Nat) (hs : Kept q s) :
    Kept q (State.ferReset s f) := by
  unfold State.ferReset
  repeat' first
    | (with_reducible first | assumption | intro _ | exact kept_mk (by assumption))
    | (with_reducible extract_lets +onlyGivenNames x'; unfold x'; clear x')
    | (with_reducible first | apply ferAbortAll_kept | apply ferShow_kept | apply setFer_kept | apply wr_kept)
    | (with_reducible first | apply setFld_kept | apply ferWakeAll_kept | apply kept_foldl | apply kept_fold1 | apply kept_fold2)
    | (with_reducible first | apply kept_ite | apply goes_next)
    | dsimp -zeta only
    | split

theorem ferFence_kept {q : List Instr} (s : State) (f : Nat) (hs : Kept q s) :
    Kept q (State.ferFence s f) := by
  exact ferWakeAll_kept _ _ _ _ (setBit_kept _ _ _ (setFld_kept _ _ _ _ _ (ferShow_kept _ _ (setFer_kept _ _ _
    (ferError_kept _ _ _ _ (ferAbortAll_kept _ _ hs))))))

end Sys2Proof.Machine
end

