-- ==== Sys2Proof/Laws/KeptOrdOps.lean ====
section
/-! SUPPORT. What the operations of OrdOps keep. -/

namespace Sys2Proof.Machine
open Sys2Proof

set_option linter.all false

theorem ordTrace_kept {q : List Instr} (s : State) (typ : Nat) (realm : Nat) (inst : Nat) (tb : Nat) (w2 : Nat) (w3 : Nat) (hs : Kept q s) :
    Kept q (State.ordTrace s typ realm inst tb w2 w3) := by
  unfold State.ordTrace
  repeat' first
    | (with_reducible first | assumption | refine kept_some ?_ | refine kept_some1 ?_ | exact kept_none | exact kept_none1)
    | (with_reducible first | refine kept_map ?_ | intro _ | exact kept_mk (by assumption))
    | (with_reducible extract_lets +onlyGivenNames x'; unfold x'; clear x')
    | (with_reducible first | refine blotter_kept _ _ _ ?_ _ (by assumption) | apply raise_kept | apply bumpSat_kept)
    | (with_reducible first | apply kept_foldl | apply kept_fold1 | apply kept_fold2 | apply kept_ite | apply goes_next)
    | dsimp -zeta only
    | split

theorem cbTask_kept {q : List Instr} (s : State) (f : Folio) (t : Nat) (hs : Kept q s) :
    Kept q (State.cbTask s f t) := by
  unfold State.cbTask
  repeat' first
    | (with_reducible first | assumption | intro _ | exact kept_mk (by assumption))
    | (with_reducible extract_lets +onlyGivenNames x'; unfold x'; clear x')
    | (with_reducible first | apply setBytes_kept | apply kept_foldl | apply kept_fold1 | apply kept_fold2 | apply kept_ite)
    | (with_reducible first | apply kept_getD | apply kept_getD1 | apply goes_next)
    | dsimp -zeta only
    | split

theorem degradeCheck_kept {q : List Instr} (s : State) (f : Folio) (hs : Kept q s) :
    Kept q (State.degradeCheck s f).1 := by
  unfold State.degradeCheck
  repeat' first
    | (with_reducible first | assumption | intro _ | exact kept_mk (by assumption))
    | (with_reducible extract_lets +onlyGivenNames x'; unfold x'; clear x')
    | (with_reducible first | apply endThread_kept | apply setBytes_kept | apply cbTask_kept | apply ordTrace_kept)
    | (with_reducible first | apply kept_foldl | apply kept_fold1 | apply kept_fold2 | apply kept_ite | apply goes_next)
    | dsimp -zeta only
    | split

theorem setFolio_kept {q : List Instr} (s : State) (f : Folio) (hs : Kept q s) :
    Kept q (State.setFolio s f) := by
  unfold State.setFolio
  repeat' first
    | (with_reducible first | assumption | intro _ | exact kept_mk (by assumption))
    | (with_reducible extract_lets +onlyGivenNames x'; unfold x'; clear x')
    | (with_reducible first | apply setOrd_kept | apply kept_foldl | apply kept_fold1 | apply kept_fold2 | apply kept_ite)
    | (with_reducible first | apply goes_next)
    | dsimp -zeta only
    | split

theorem endThreads_kept {q : List Instr} (s : State) (f : Folio) (cause : Nat) (hs : Kept q s) :
    Kept q (State.endThreads s f cause).1 := by
  unfold State.endThreads
  repeat' first
    | (with_reducible first | assumption | intro _ | exact kept_mk (by assumption))
    | (with_reducible extract_lets +onlyGivenNames x'; unfold x'; clear x')
    | (with_reducible first | apply endThread_kept | apply kept_foldl | apply kept_fold1 | apply kept_fold2 | apply kept_ite)
    | (with_reducible first | apply goes_next)
    | dsimp -zeta only
    | split

theorem unbook_kept {q : List Instr} (s : State) (f : Folio) (hs : Kept q s) :
    Kept q (State.unbook s f) := by
  unfold State.unbook
  repeat' first
    | (with_reducible first | assumption | intro _ | exact kept_mk (by assumption))
    | (with_reducible extract_lets +onlyGivenNames x'; unfold x'; clear x')
    | (with_reducible first | apply setOrd_kept | apply kept_foldl | apply kept_fold1 | apply kept_fold2 | apply kept_ite)
    | (with_reducible first | apply goes_next)
    | dsimp -zeta only
    | split

theorem ordSync_kept {q : List Instr} (s : State) (hs : Kept q s) :
    Kept q (State.ordSync s) := by
  unfold State.ordSync
  repeat' first
    | (with_reducible first | assumption | intro _ | exact kept_mk (by assumption))
    | (with_reducible extract_lets +onlyGivenNames x'; unfold x'; clear x')
    | (with_reducible first | apply setFld_kept | apply kept_foldl | apply kept_fold1 | apply kept_fold2 | apply kept_ite)
    | (with_reducible first | apply goes_next)
    | dsimp -zeta only
    | split

theorem cqWrite_kept {q : List Instr} (s : State) (r : Nat) (body : List Byte) (hs : Kept q s) :
    Kept q (State.cqWrite s r body) := by
  unfold State.cqWrite
  repeat' first
    | with_reducible assumption
    | with_reducible refine kept_some ?_
    | with_reducible refine kept_some1 ?_
    | with_reducible exact kept_none
    | with_reducible exact kept_none1
    | with_reducible refine kept_map ?_
    | with_reducible intro _
    | with_reducible exact kept_mk (by with_reducible assumption)
    | (with_reducible extract_lets +onlyGivenNames x'; refine kept_cut q x' ?_ ?_; (focus (unfold x'; clear x')); rotate_left; (focus (intro _; clear_value x')))
    | (with_reducible extract_lets +onlyGivenNames x'; refine kept_cut1 q x' ?_ ?_; (focus (unfold x'; clear x')); rotate_left; (focus (intro _; clear_value x')))
    | (with_reducible extract_lets +onlyGivenNames x'; refine kept_cut2 q x' ?_ ?_; (focus (unfold x'; clear x')); rotate_left; (focus (intro _; clear_value x')))
    | (with_reducible extract_lets +onlyGivenNames x'; unfold x'; clear x')
    | with_reducible refine devWrite_kept _ _ _ ?_ _ (by with_reducible assumption)
    | with_reducible apply setFld_kept
    | with_reducible apply setOrd_kept
    | with_reducible apply raise_kept
    | with_reducible apply setBit_kept
    | with_reducible apply kept_foldl
    | with_reducible apply kept_fold1
    | with_reducible apply kept_fold2
    | with_reducible apply kept_ite
    | with_reducible apply kept_getD
    | with_reducible apply kept_getD1
    | with_reducible apply goes_next
    | dsimp -zeta only
    | split

theorem folioDone_kept {q : List Instr} (s : State) (f : Folio) (status : Nat) (cause : Nat) (dropped : Bool) (hs : Kept q s) :
    Kept q (State.folioDone s f status cause dropped) := by
  unfold State.folioDone
  repeat' first
    | (with_reducible first | assumption | intro _ | exact kept_mk (by assumption))
    | (with_reducible extract_lets +onlyGivenNames x'; unfold x'; clear x')
    | (with_reducible first | apply endThreads_kept | apply unbook_kept | apply entUnstage_kept | apply setOrd_kept)
    | (with_reducible first | apply bump_kept | apply ordTrace_kept | apply ordSync_kept | apply cqWrite_kept | apply kept_foldl)
    | (with_reducible first | apply kept_fold1 | apply kept_fold2 | apply kept_ite | apply goes_next)
    | dsimp -zeta only
    | split

theorem readyTask_kept {q : List Instr} (s : State) (f : Folio) (t : Nat) (hs : Kept q s) :
    Kept q (State.readyTask s f t) := by
  unfold State.readyTask
  repeat' first
    | (with_reducible first | assumption | intro _ | exact kept_mk (by assumption))
    | (with_reducible extract_lets +onlyGivenNames x'; unfold x'; clear x')
    | (with_reducible first | apply makeReady_kept | apply kept_foldl | apply kept_fold1 | apply kept_fold2 | apply kept_ite)
    | (with_reducible first | apply goes_next)
    | dsimp -zeta only
    | split

theorem folioAdvance_kept {q : List Instr} (s : State) (f : Folio) (hs : Kept q s) :
    Kept q (State.folioAdvance s f) := by
  unfold State.folioAdvance
  repeat' first
    | (with_reducible first | assumption | intro _ | exact kept_mk (by assumption))
    | (with_reducible extract_lets +onlyGivenNames x'; unfold x'; clear x')
    | (with_reducible first | apply degradeCheck_kept | apply setFolio_kept | apply folioDone_kept | apply readyTask_kept)
    | (with_reducible first | apply kept_foldl | apply kept_fold1 | apply kept_fold2 | apply kept_ite | apply goes_next)
    | dsimp -zeta only
    | split

theorem taskEnd_kept {q : List Instr} (s : State) (f : Folio) (t : Nat) (status : Nat) (hs : Kept q s) :
    Kept q (State.taskEnd s f t status) := by
  unfold State.taskEnd
  repeat' first
    | (with_reducible first | assumption | intro _ | exact kept_mk (by assumption))
    | (with_reducible extract_lets +onlyGivenNames x'; unfold x'; clear x')
    | (with_reducible first | apply ordTrace_kept | apply folioAdvance_kept | apply setFolio_kept | apply kept_foldl)
    | (with_reducible first | apply kept_fold1 | apply kept_fold2 | apply kept_ite | apply goes_next)
    | dsimp -zeta only
    | split

theorem folioThread_kept {q : List Instr} (s : State) (f : Folio) (t : Nat) (k : Nat) (q0 : Nat) (bound : Option Nat) (ckpt : Nat) (ptr : Nat × Nat) (hs : Kept q s) :
    Kept q (State.folioThread s f t k q0 bound ckpt ptr) := by
  unfold State.folioThread
  repeat' first
    | (with_reducible first | assumption | refine kept_some ?_ | refine kept_some1 ?_ | exact kept_none | exact kept_none1)
    | (with_reducible first | refine kept_map ?_ | intro _ | exact kept_mk (by assumption))
    | (with_reducible extract_lets +onlyGivenNames x'; unfold x'; clear x')
    | (with_reducible first | apply pick_kept | apply createThread_kept | apply kept_foldl | apply kept_fold1 | apply kept_fold2)
    | (with_reducible first | apply kept_ite | apply goes_next)
    | dsimp -zeta only
    | split

theorem taskThreads_kept {q : List Instr} (s : State) (f : Folio) (t : Nat) (hs : Kept q s) :
    Kept q (State.taskThreads s f t) := by
  unfold State.taskThreads
  repeat' first
    | (with_reducible first | assumption | intro _ | exact kept_mk (by assumption))
    | (with_reducible extract_lets +onlyGivenNames x'; unfold x'; clear x')
    | (with_reducible first | apply folioThread_kept | apply kept_foldl | apply kept_fold1 | apply kept_fold2 | apply kept_ite)
    | (with_reducible first | apply goes_next)
    | dsimp -zeta only
    | split

theorem bookTask_kept {q : List Instr} (s : State) (f : Folio) (t : Nat) (b : Fit) (reason : Nat) (off : Int) (hs : Kept q s) :
    Kept q (State.bookTask s f t b reason off).1 := by
  unfold State.bookTask
  repeat' first
    | (with_reducible first | assumption | intro _ | exact kept_mk (by assumption))
    | (with_reducible extract_lets +onlyGivenNames x'; unfold x'; clear x')
    | (with_reducible first | apply setOrd_kept | apply kept_foldl | apply kept_fold1 | apply kept_fold2 | apply kept_ite)
    | (with_reducible first | apply goes_next)
    | dsimp -zeta only
    | split

theorem cbObj_kept {q : List Instr} (s : State) (f : Folio) (k : Nat) (hs : Kept q s) :
    Kept q (State.cbObj s f k) := by
  unfold State.cbObj
  repeat' first
    | (with_reducible first | assumption | intro _ | exact kept_mk (by assumption))
    | (with_reducible extract_lets +onlyGivenNames x'; unfold x'; clear x')
    | (with_reducible first | apply setBytes_kept | apply kept_foldl | apply kept_fold1 | apply kept_fold2 | apply kept_ite)
    | (with_reducible first | apply goes_next)
    | dsimp -zeta only
    | split

theorem cbWrite_kept {q : List Instr} (s : State) (f : Folio) (hs : Kept q s) :
    Kept q (State.cbWrite s f) := by
  unfold State.cbWrite
  repeat' first
    | (with_reducible first | assumption | intro _ | exact kept_mk (by assumption))
    | (with_reducible extract_lets +onlyGivenNames x'; unfold x'; clear x')
    | (with_reducible first | apply freeBytes_kept | apply setBytes_kept | apply cbTask_kept | apply cbObj_kept)
    | (with_reducible first | apply kept_foldl | apply kept_fold1 | apply kept_fold2 | apply kept_ite | apply goes_next)
    | dsimp -zeta only
    | split

theorem demoDone_kept {q : List Instr} (s : State) (d : Demotion) (hs : Kept q s) :
    Kept q (State.demoDone s d) := by
  unfold State.demoDone
  repeat' first
    | (with_reducible first | assumption | intro _ | exact kept_mk (by assumption))
    | (with_reducible extract_lets +onlyGivenNames x'; unfold x'; clear x')
    | (with_reducible first | apply setOrd_kept | apply setBytes_kept | apply bufFree_kept | apply setEnt_kept)
    | (with_reducible first | apply hdySync_kept | apply ordTrace_kept | apply kept_foldl | apply kept_fold1 | apply kept_fold2)
    | (with_reducible first | apply kept_ite | apply goes_next)
    | dsimp -zeta only
    | split

theorem drainCheck_kept {q : List Instr} (s : State) (r : Nat) (inst : Nat) (hs : Kept q s) :
    Kept q (State.drainCheck s r inst) := by
  unfold State.drainCheck
  repeat' first
    | (with_reducible first | assumption | intro _ | exact kept_mk (by assumption))
    | (with_reducible extract_lets +onlyGivenNames x'; unfold x'; clear x')
    | (with_reducible first | apply folioDone_kept | apply kept_foldl | apply kept_fold1 | apply kept_fold2 | apply kept_ite)
    | (with_reducible first | apply goes_next)
    | dsimp -zeta only
    | split

theorem fenceUnit_kept {q : List Instr} (s : State) (kind : Nat) (unit : Nat) (hs : Kept q s) :
    Kept q (State.fenceUnit s kind unit) := by
  unfold State.fenceUnit
  repeat' first
    | (with_reducible first | assumption | intro _ | exact kept_mk (by assumption))
    | (with_reducible extract_lets +onlyGivenNames x'; unfold x'; clear x')
    | (with_reducible first | apply setOrd_kept | apply raise_kept | apply setBit_kept | apply kept_foldl | apply kept_fold1)
    | (with_reducible first | apply kept_fold2 | apply kept_ite | apply goes_next)
    | dsimp -zeta only
    | split

theorem threadExit_kept {q : List Instr} (s : State) (r : Nat) (inst : Nat) (t : Nat) (status : Nat) (hs : Kept q s) :
    Kept q (State.threadExit s r inst t status) := by
  unfold State.threadExit
  repeat' first
    | (with_reducible first | assumption | intro _ | exact kept_mk (by assumption))
    | (with_reducible extract_lets +onlyGivenNames x'; unfold x'; clear x')
    | (with_reducible first | apply setFolio_kept | apply taskEnd_kept | apply kept_foldl | apply kept_fold1 | apply kept_fold2)
    | (with_reducible first | apply kept_ite | apply goes_next)
    | dsimp -zeta only
    | split

theorem objSpace_kept {q : List Instr} (s : State) (f : Folio) (k : Nat) (size : Nat) (lo : Int) (hi : Int) (x6 : List Nat) (hs : Kept q s) :
    Kept q (State.objSpace s f k size lo hi x6).2 := by
  induction x6 generalizing s with
  | nil => exact hs
  | cons t r ih =>
    unfold State.objSpace
    extract_lets carve pref cs fits a
    clear_value fits cs
    have ha : Kept q a.2 := by
      unfold a
      split
      · exact allocIn_kept _ _ _ _ _ hs
      · exact hs
    split
    · exact ha
    · exact ih _ ha

end Sys2Proof.Machine
end

