-- ==== Sys2Proof/Laws/KeptNotice.lean ====
section
/-! SUPPORT. What the operations of Notice keep. -/

namespace Sys2Proof.Machine
open Sys2Proof

set_option linter.all false

theorem scribeStop_kept {q : List Instr} (s : State) (b : Nat) (hs : Kept q s) :
    Kept q (State.scribeStop s b) := by
  unfold State.scribeStop
  repeat' first
    | (with_reducible first | assumption | intro _ | exact kept_mk (by assumption))
    | (with_reducible extract_lets +onlyGivenNames x'; unfold x'; clear x')
    | (with_reducible first | apply abandon_kept | apply kept_foldl | apply kept_fold1 | apply kept_fold2 | apply kept_ite)
    | (with_reducible first | apply goes_next)
    | dsimp -zeta only
    | split

theorem faultLog_kept {q : List Instr} (s : State) (src : Nat) (kind : Nat) (unit : Nat) (event : Nat) (hs : Kept q s) :
    Kept q (State.faultLog s src kind unit event).1 := by
  unfold State.faultLog
  repeat' first
    | (with_reducible first | assumption | intro _ | exact kept_mk (by assumption))
    | (with_reducible extract_lets +onlyGivenNames x'; unfold x'; clear x')
    | (with_reducible first | apply setFld_kept | apply raise_kept | apply bump_kept | apply kept_foldl | apply kept_fold1)
    | (with_reducible first | apply kept_fold2 | apply kept_ite | apply goes_next)
    | dsimp -zeta only
    | split

theorem pncRelease_kept {q : List Instr} (s : State) (d : Nat) (hs : Kept q s) :
    Kept q (State.pncRelease s d) := by
  unfold State.pncRelease
  repeat' first
    | (with_reducible first | assumption | intro _ | exact kept_mk (by assumption))
    | (with_reducible extract_lets +onlyGivenNames x'; unfold x'; clear x')
    | (with_reducible first | apply setOrd_kept | apply setFld_kept | apply kept_foldl | apply kept_fold1 | apply kept_fold2)
    | (with_reducible first | apply kept_ite | apply goes_next)
    | dsimp -zeta only
    | split

theorem pncAbandon_kept {q : List Instr} (s : State) (d : Nat) (status : Nat) (hs : Kept q s) :
    Kept q (State.pncAbandon s d status) := by
  unfold State.pncAbandon
  repeat' first
    | (with_reducible first | assumption | intro _ | exact kept_mk (by assumption))
    | (with_reducible extract_lets +onlyGivenNames x'; unfold x'; clear x')
    | (with_reducible first | apply raise_kept | apply setFld_kept | apply pncRelease_kept | apply slotEnd_kept)
    | (with_reducible first | apply kept_foldl | apply kept_fold1 | apply kept_fold2 | apply kept_ite | apply kept_elim)
    | (with_reducible first | apply goes_next)
    | dsimp -zeta only
    | split

theorem showFenced_kept {q : List Instr} (s : State) (kind : Nat) (unit : Nat) (hs : Kept q s) :
    Kept q (State.showFenced s kind unit) := by
  unfold State.showFenced
  repeat' first
    | (with_reducible first | assumption | intro _ | exact kept_mk (by assumption))
    | (with_reducible extract_lets +onlyGivenNames x'; unfold x'; clear x')
    | (with_reducible first | apply setBit_kept | apply kept_foldl | apply kept_fold1 | apply kept_fold2 | apply kept_ite)
    | (with_reducible first | apply goes_next)
    | dsimp -zeta only
    | split

theorem notice_kept {q : List Instr} (s : State) (src : Nat) (kind : Nat) (unit : Nat) (event : Nat) (hs : Kept q s) :
    Kept q (State.notice s src kind unit event) := by
  unfold State.notice
  repeat' first
    | with_reducible assumption
    | with_reducible refine kept_some ?_
    | with_reducible refine kept_some1 ?_
    | with_reducible exact kept_none
    | with_reducible exact kept_none1
    | with_reducible refine kept_map ?_
    | with_reducible intro _
    | with_reducible exact kept_mk (by with_reducible assumption)
    | (with_reducible extract_lets +onlyGivenNames x'; refine kept_cut q x' ?_ ?_; (focus (unfold x'; clear x')); rotate_left; (focus (intro _; clear_value x')))
    | (with_reducible extract_lets +onlyGivenNames x'; refine kept_cut1 q x' ?_ ?_; (focus (unfold x'; clear x')); rotate_left; (focus (intro _; clear_value x')))
    | (with_reducible extract_lets +onlyGivenNames x'; refine kept_cut2 q x' ?_ ?_; (focus (unfold x'; clear x')); rotate_left; (focus (intro _; clear_value x')))
    | (with_reducible extract_lets +onlyGivenNames x'; unfold x'; clear x')
    | with_reducible apply faultLog_kept
    | with_reducible apply pncAbandon_kept
    | with_reducible apply showFenced_kept
    | with_reducible apply fenceUnit_kept
    | with_reducible apply ordTrace_kept
    | with_reducible apply setFld_kept
    | with_reducible apply setBit_kept
    | with_reducible apply ferFence_kept
    | with_reducible apply scribeStop_kept
    | with_reducible apply raise_kept
    | with_reducible apply setOrd_kept
    | with_reducible apply kept_foldl
    | with_reducible apply kept_fold1
    | with_reducible apply kept_fold2
    | with_reducible apply kept_ite
    | with_reducible apply goes_next
    | dsimp -zeta only
    | split

end Sys2Proof.Machine
end

