-- ==== Sys2Proof/Laws/KeptDuctus.lean ====
section
/-! SUPPORT. What the operations of Ductus keep. -/

namespace Sys2Proof.Machine
open Sys2Proof

set_option linter.all false

theorem execResLoRead_kept {q : List Instr} (who : Requester) (nib : Fin 128) (s : State) (hs : Kept q s) :
    Goes q (execResLoRead who nib s) := by
  unfold execResLoRead
  repeat' first
    | (with_reducible first | assumption | intro _ | exact kept_mk (by assumption))
    | (with_reducible extract_lets +onlyGivenNames x'; unfold x'; clear x')
    | (with_reducible first | apply access_kept | apply kept_foldl | apply kept_fold1 | apply kept_fold2 | apply kept_ite)
    | (with_reducible first | apply goes_next)
    | dsimp -zeta only
    | split

theorem applyLeave_kept {q : List Instr} (s : State) (q0 : Nat) (l : Leave) (hs : Kept q s) :
    Kept q (State.applyLeave s q0 l) := by
  unfold State.applyLeave
  repeat' first
    | (with_reducible first | assumption | intro _ | exact kept_mk (by assumption))
    | (with_reducible extract_lets +onlyGivenNames x'; unfold x'; clear x')
    | (with_reducible first | apply setDuc_kept | apply setTcbState_kept | apply leaveNib_kept | apply ducTrace_kept)
    | (with_reducible first | apply slotEnd_kept | apply freeThread_kept | apply kept_foldl | apply kept_fold1)
    | (with_reducible first | apply kept_fold2 | apply kept_ite | apply kept_elim | apply kept_getD | apply kept_getD1)
    | (with_reducible first | apply goes_next)
    | dsimp -zeta only
    | split

theorem runThread_kept {q : List Instr} (s : State) (q0 : Nat) (n : Nat) (i : Nat) (t : Nat) (hs : Kept q s) :
    Kept q (State.runThread s q0 n i t) := by
  unfold State.runThread
  repeat' first
    | with_reducible assumption
    | with_reducible refine kept_some ?_
    | with_reducible refine kept_some1 ?_
    | with_reducible exact kept_none
    | with_reducible exact kept_none1
    | with_reducible refine kept_map ?_
    | with_reducible intro _
    | with_reducible exact kept_mk (by with_reducible assumption)
    | (with_reducible extract_lets +onlyGivenNames x'; refine kept_cut q x' ?_ ?_; (focus (unfold x'; clear x')); rotate_left; (focus (intro _; clear_value x')))
    | (with_reducible extract_lets +onlyGivenNames x'; refine kept_cut1 q x' ?_ ?_; (focus (unfold x'; clear x')); rotate_left; (focus (intro _; clear_value x')))
    | (with_reducible extract_lets +onlyGivenNames x'; refine kept_cut2 q x' ?_ ?_; (focus (unfold x'; clear x')); rotate_left; (focus (intro _; clear_value x')))
    | (with_reducible extract_lets +onlyGivenNames x'; unfold x'; clear x')
    | with_reducible apply setDuc_kept
    | with_reducible apply setRun_kept
    | with_reducible apply setTcbState_kept
    | with_reducible apply setFld_kept
    | with_reducible apply ducTrace_kept
    | with_reducible apply kept_foldl
    | with_reducible apply kept_fold1
    | with_reducible apply kept_fold2
    | with_reducible apply kept_ite
    | with_reducible apply goes_next
    | dsimp -zeta only
    | split

theorem nextRead_kept {q : List Instr} (s : State) (q0 : Nat) (n : Nat) (hs : Kept q s) :
    Kept q (State.nextRead s q0 n) := by
  unfold State.nextRead
  repeat' first
    | (with_reducible first | assumption | intro _ | exact kept_mk (by assumption))
    | (with_reducible extract_lets +onlyGivenNames x'; unfold x'; clear x')
    | (with_reducible first | apply setIpend_kept | apply wrN_kept | apply applyLeave_kept | apply setHeld_kept)
    | (with_reducible first | apply setTcbState_kept | apply leaveNib_kept | apply setDuc_kept | apply ducTrace_kept)
    | (with_reducible first | apply dispatch_kept | apply setBit_kept | apply runThread_kept | apply kept_foldl)
    | (with_reducible first | apply kept_fold1 | apply kept_fold2 | apply kept_ite | apply goes_next)
    | dsimp -zeta only
    | split

theorem execNextRead_kept {q : List Instr} (who : Requester) (nib : Fin 128) (s : State) (hs : Kept q s) :
    Goes q (execNextRead who nib s) := by
  unfold execNextRead
  repeat' first
    | (with_reducible first | assumption | intro _ | exact kept_mk (by assumption))
    | (with_reducible extract_lets +onlyGivenNames x'; unfold x'; clear x')
    | (with_reducible first | apply access_kept | apply nextRead_kept | apply kept_foldl | apply kept_fold1 | apply kept_fold2)
    | (with_reducible first | apply kept_ite | apply goes_next)
    | dsimp -zeta only
    | split

theorem svcDone_kept {q : List Instr} (s : State) (q0 : Nat) (n : Nat) (action : Nat) (status : Nat) (value : Nat) (hs : Kept q s) :
    Kept q (State.svcDone s q0 n action status value) := by
  unfold State.svcDone
  repeat' first
    | (with_reducible first | assumption | intro _ | exact kept_mk (by assumption))
    | (with_reducible extract_lets +onlyGivenNames x'; unfold x'; clear x')
    | (with_reducible first | apply wrN_kept | apply setDuc_kept | apply kept_foldl | apply kept_fold1 | apply kept_fold2)
    | (with_reducible first | apply kept_ite | apply goes_next)
    | dsimp -zeta only
    | split

theorem service_kept {q : List Instr} (op : Nat) (nib : Fin 128) (a : BitVec 24) (b : W32) (act : Nat → Nat → Nat → State → State) (s : State) (hact : ∀ a0 a1 a2 a3, Kept q a3 → Kept q (act a0 a1 a2 a3)) (hs : Kept q s) :
    Kept q (service op nib a b act s) := by
  unfold service
  repeat' first
    | (with_reducible first | assumption | intro _ | exact kept_mk (by assumption))
    | (with_reducible extract_lets +onlyGivenNames x'; unfold x'; clear x')
    | (with_reducible first | apply wrN_kept | apply wr_kept | apply svcDone_kept | apply hact | apply kept_foldl)
    | (with_reducible first | apply kept_fold1 | apply kept_fold2 | apply kept_ite | apply goes_next)
    | dsimp -zeta only
    | split

theorem svcLeft_kept {q : List Instr} (s : State) (q0 : Nat) (n : Nat) (status : Nat) (hs : Kept q s) :
    Kept q (State.svcLeft s q0 n status) := by
  unfold State.svcLeft
  repeat' first
    | (with_reducible first | assumption | intro _ | exact kept_mk (by assumption))
    | (with_reducible extract_lets +onlyGivenNames x'; unfold x'; clear x')
    | (with_reducible first | apply setBit_kept | apply svcDone_kept | apply kept_foldl | apply kept_fold1 | apply kept_fold2)
    | (with_reducible first | apply kept_ite | apply goes_next)
    | dsimp -zeta only
    | split

theorem yieldThread_kept {q : List Instr} (s : State) (q0 : Nat) (n : Nat) (i : Nat) (hs : Kept q s) :
    Kept q (State.yieldThread s q0 n i) := by
  unfold State.yieldThread
  repeat' first
    | (with_reducible first | assumption | intro _ | exact kept_mk (by assumption))
    | (with_reducible extract_lets +onlyGivenNames x'; unfold x'; clear x')
    | (with_reducible first | apply setHeld_kept | apply leaveNib_kept | apply svcLeft_kept | apply makeReady_kept)
    | (with_reducible first | apply kept_foldl | apply kept_fold1 | apply kept_fold2 | apply kept_ite | apply goes_next)
    | dsimp -zeta only
    | split

theorem execYield_kept {q : List Instr} (nib : Fin 128) (a : BitVec 24) (b : W32) (s : State) (hs : Kept q s) :
    Goes q (execYield nib a b s) := by
  unfold execYield
  repeat' first
    | (with_reducible first | assumption | intro _ | exact kept_mk (by assumption))
    | (with_reducible extract_lets +onlyGivenNames x'; unfold x'; clear x')
    | (with_reducible first | apply service_kept | apply yieldThread_kept | apply kept_foldl | apply kept_fold1)
    | (with_reducible first | apply kept_fold2 | apply kept_ite | apply goes_next)
    | dsimp -zeta only
    | split

theorem svcJournal_kept {q : List Instr} (s : State) (q0 : Nat) (n : Nat) (i : Nat) (op : Nat) (a : Nat) (b : Nat) (hs : Kept q s) :
    Kept q (State.svcJournal s q0 n i op a b) := by
  unfold State.svcJournal
  repeat' first
    | (with_reducible first | assumption | intro _ | exact kept_mk (by assumption))
    | (with_reducible extract_lets +onlyGivenNames x'; unfold x'; clear x')
    | (with_reducible first | apply setDuc_kept | apply jPush_kept | apply kept_foldl | apply kept_fold1 | apply kept_fold2)
    | (with_reducible first | apply kept_ite | apply goes_next)
    | dsimp -zeta only
    | split

theorem execExit_kept {q : List Instr} (nib : Fin 128) (a : BitVec 24) (b : W32) (s : State) (hs : Kept q s) :
    Goes q (execExit nib a b s) := by
  unfold execExit
  repeat' first
    | (with_reducible first | assumption | intro _ | exact kept_mk (by assumption))
    | (with_reducible extract_lets +onlyGivenNames x'; unfold x'; clear x')
    | (with_reducible first | apply service_kept | apply svcJournal_kept | apply kept_foldl | apply kept_fold1)
    | (with_reducible first | apply kept_fold2 | apply kept_ite | apply goes_next)
    | dsimp -zeta only
    | split

theorem enterWait_kept {q : List Instr} (s : State) (q0 : Nat) (i : Nat) (kind : Nat) (obj : Nat) (mask : Nat) (clr : Bool) (tmo : Option Nat) (hs : Kept q s) :
    Kept q (State.enterWait s q0 i kind obj mask clr tmo) := by
  unfold State.enterWait
  repeat' first
    | (with_reducible first | assumption | intro _ | exact kept_mk (by assumption))
    | (with_reducible extract_lets +onlyGivenNames x'; unfold x'; clear x')
    | (with_reducible first | apply wr_kept | apply wrN_kept | apply setTcbState_kept | apply leaveNib_kept | apply setDuc_kept)
    | (with_reducible first | apply setHeld_kept | apply countWaiters_kept | apply ducTrace_kept | apply kept_foldl)
    | (with_reducible first | apply kept_fold1 | apply kept_fold2 | apply kept_ite | apply kept_getD | apply kept_getD1)
    | (with_reducible first | apply goes_next)
    | dsimp -zeta only
    | split

theorem execDelay_kept {q : List Instr} (nib : Fin 128) (a : BitVec 24) (b : W32) (s : State) (hs : Kept q s) :
    Goes q (execDelay nib a b s) := by
  unfold execDelay
  repeat' first
    | (with_reducible first | assumption | intro _ | exact kept_mk (by assumption))
    | (with_reducible extract_lets +onlyGivenNames x'; unfold x'; clear x')
    | (with_reducible first | apply service_kept | apply yieldThread_kept | apply svcDone_kept | apply svcLeft_kept)
    | (with_reducible first | apply enterWait_kept | apply kept_foldl | apply kept_fold1 | apply kept_fold2 | apply kept_ite)
    | (with_reducible first | apply goes_next)
    | dsimp -zeta only
    | split

theorem svcWait_kept {q : List Instr} (s : State) (q0 : Nat) (n : Nat) (i : Nat) (kind : Nat) (obj : Nat) (mask : Nat) (clr : Bool) (hs : Kept q s) :
    Kept q (State.svcWait s q0 n i kind obj mask clr) := by
  unfold State.svcWait
  repeat' first
    | (with_reducible first | assumption | intro _ | exact kept_mk (by assumption))
    | (with_reducible extract_lets +onlyGivenNames x'; unfold x'; clear x')
    | (with_reducible first | apply svcDone_kept | apply enterWait_kept | apply svcLeft_kept | apply kept_foldl)
    | (with_reducible first | apply kept_fold1 | apply kept_fold2 | apply kept_ite | apply goes_next)
    | dsimp -zeta only
    | split

theorem execSemWait_kept {q : List Instr} (nib : Fin 128) (a : BitVec 24) (b : W32) (s : State) (hs : Kept q s) :
    Goes q (execSemWait nib a b s) := by
  unfold execSemWait
  repeat' first
    | (with_reducible first | assumption | intro _ | exact kept_mk (by assumption))
    | (with_reducible extract_lets +onlyGivenNames x'; unfold x'; clear x')
    | (with_reducible first | apply service_kept | apply svcDone_kept | apply svcWait_kept | apply svcJournal_kept)
    | (with_reducible first | apply kept_foldl | apply kept_fold1 | apply kept_fold2 | apply kept_ite | apply goes_next)
    | dsimp -zeta only
    | split

theorem execSvcSemPost_kept {q : List Instr} (nib : Fin 128) (a : BitVec 24) (b : W32) (s : State) (hs : Kept q s) :
    Goes q (execSvcSemPost nib a b s) := by
  unfold execSvcSemPost
  repeat' first
    | (with_reducible first | assumption | intro _ | exact kept_mk (by assumption))
    | (with_reducible extract_lets +onlyGivenNames x'; unfold x'; clear x')
    | (with_reducible first | apply service_kept | apply svcDone_kept | apply svcJournal_kept | apply kept_foldl)
    | (with_reducible first | apply kept_fold1 | apply kept_fold2 | apply kept_ite | apply goes_next)
    | dsimp -zeta only
    | split

theorem execFlagWait_kept {q : List Instr} (nib : Fin 128) (a : BitVec 24) (b : W32) (s : State) (hs : Kept q s) :
    Goes q (execFlagWait nib a b s) := by
  unfold execFlagWait
  repeat' first
    | (with_reducible first | assumption | intro _ | exact kept_mk (by assumption))
    | (with_reducible extract_lets +onlyGivenNames x'; unfold x'; clear x')
    | (with_reducible first | apply service_kept | apply svcDone_kept | apply svcWait_kept | apply svcJournal_kept)
    | (with_reducible first | apply kept_foldl | apply kept_fold1 | apply kept_fold2 | apply kept_ite | apply goes_next)
    | dsimp -zeta only
    | split

theorem execSvcFlagSet_kept {q : List Instr} (nib : Fin 128) (a : BitVec 24) (b : W32) (s : State) (hs : Kept q s) :
    Goes q (execSvcFlagSet nib a b s) := by
  unfold execSvcFlagSet
  repeat' first
    | (with_reducible first | assumption | intro _ | exact kept_mk (by assumption))
    | (with_reducible extract_lets +onlyGivenNames x'; unfold x'; clear x')
    | (with_reducible first | apply service_kept | apply svcDone_kept | apply svcJournal_kept | apply kept_foldl)
    | (with_reducible first | apply kept_fold1 | apply kept_fold2 | apply kept_ite | apply goes_next)
    | dsimp -zeta only
    | split

theorem execFlagClear_kept {q : List Instr} (nib : Fin 128) (a : BitVec 24) (b : W32) (s : State) (hs : Kept q s) :
    Goes q (execFlagClear nib a b s) := by
  unfold execFlagClear
  repeat' first
    | (with_reducible first | assumption | intro _ | exact kept_mk (by assumption))
    | (with_reducible extract_lets +onlyGivenNames x'; unfold x'; clear x')
    | (with_reducible first | apply service_kept | apply svcDone_kept | apply svcJournal_kept | apply kept_foldl)
    | (with_reducible first | apply kept_fold1 | apply kept_fold2 | apply kept_ite | apply goes_next)
    | dsimp -zeta only
    | split

theorem execTaskEnd_kept {q : List Instr} (nib : Fin 128) (a : BitVec 24) (b : W32) (s : State) (hs : Kept q s) :
    Goes q (execTaskEnd nib a b s) := by
  unfold execTaskEnd
  repeat' first
    | (with_reducible first | assumption | intro _ | exact kept_mk (by assumption))
    | (with_reducible extract_lets +onlyGivenNames x'; unfold x'; clear x')
    | (with_reducible first | apply service_kept | apply svcDone_kept | apply ducTrace_kept | apply taskEnd_kept)
    | (with_reducible first | apply kept_foldl | apply kept_fold1 | apply kept_fold2 | apply kept_ite | apply goes_next)
    | dsimp -zeta only
    | split

theorem execCheckpoint_kept {q : List Instr} (nib : Fin 128) (a : BitVec 24) (b : W32) (s : State) (hs : Kept q s) :
    Goes q (execCheckpoint nib a b s) := by
  unfold execCheckpoint
  repeat' first
    | (with_reducible first | assumption | intro _ | exact kept_mk (by assumption))
    | (with_reducible extract_lets +onlyGivenNames x'; unfold x'; clear x')
    | (with_reducible first | apply service_kept | apply svcDone_kept | apply svcJournal_kept | apply kept_foldl)
    | (with_reducible first | apply kept_fold1 | apply kept_fold2 | apply kept_ite | apply goes_next)
    | dsimp -zeta only
    | split

theorem changePrio_kept {q : List Instr} (s : State) (q0 : Nat) (i : Nat) (p : Nat) (hs : Kept q s) :
    Kept q (State.changePrio s q0 i p) := by
  unfold State.changePrio
  repeat' first
    | (with_reducible first | assumption | intro _ | exact kept_mk (by assumption))
    | (with_reducible extract_lets +onlyGivenNames x'; unfold x'; clear x')
    | (with_reducible first | apply setFld_kept | apply ducTrace_kept | apply dispatch_kept | apply setDuc_kept)
    | (with_reducible first | apply kept_foldl | apply kept_fold1 | apply kept_fold2 | apply kept_ite | apply goes_next)
    | dsimp -zeta only
    | split

theorem execSetPrio_kept {q : List Instr} (nib : Fin 128) (a : BitVec 24) (b : W32) (s : State) (hs : Kept q s) :
    Goes q (execSetPrio nib a b s) := by
  unfold execSetPrio
  repeat' first
    | (with_reducible first | assumption | intro _ | exact kept_mk (by assumption))
    | (with_reducible extract_lets +onlyGivenNames x'; unfold x'; clear x')
    | (with_reducible first | apply service_kept | apply svcDone_kept | apply changePrio_kept | apply kept_foldl)
    | (with_reducible first | apply kept_fold1 | apply kept_fold2 | apply kept_ite | apply goes_next)
    | dsimp -zeta only
    | split

theorem execTcbWrite_kept {q : List Instr} (who : Requester) (q0 : Fin 8) (i : Fin 512) (w : Fin 16) (value : W32) (s : State) (hs : Kept q s) :
    Goes q (execTcbWrite who q0 i w value s) := by
  unfold execTcbWrite
  repeat' first
    | (with_reducible first | assumption | intro _ | exact kept_mk (by assumption))
    | (with_reducible extract_lets +onlyGivenNames x'; unfold x'; clear x')
    | (with_reducible first | apply accessHeld_kept | apply setBit_kept | apply wr_kept | apply makeReady_kept)
    | (with_reducible first | apply setTcbState_kept | apply kept_foldl | apply kept_fold1 | apply kept_fold2 | apply kept_ite)
    | (with_reducible first | apply goes_next)
    | dsimp -zeta only
    | split

theorem cmdJournal_kept {q : List Instr} (s : State) (d : Desc) (op : Nat) (tid : Nat) (a : Nat) (b : Nat) (c : Nat) (hs : Kept q s) :
    Kept q (State.cmdJournal s d op tid a b c) := by
  unfold State.cmdJournal
  repeat' first
    | (with_reducible first | assumption | intro _ | exact kept_mk (by assumption))
    | (with_reducible extract_lets +onlyGivenNames x'; unfold x'; clear x')
    | (with_reducible first | apply jPush_kept | apply kept_foldl | apply kept_fold1 | apply kept_fold2 | apply kept_ite)
    | (with_reducible first | apply goes_next)
    | dsimp -zeta only
    | split

theorem createFrom_kept {q : List Instr} (s : State) (q0 : Nat) (d : Desc) (k : SlotId) (hs : Kept q s) :
    Kept q (State.createFrom s q0 d k) := by
  unfold State.createFrom
  repeat' first
    | (with_reducible first | assumption | refine kept_some ?_ | refine kept_some1 ?_ | exact kept_none | exact kept_none1)
    | (with_reducible first | refine kept_map ?_ | intro _ | exact kept_mk (by assumption))
    | (with_reducible extract_lets +onlyGivenNames x'; unfold x'; clear x')
    | (with_reducible first | apply pick_kept | apply slotEnd_kept | apply createThread_kept | apply makeReady_kept)
    | (with_reducible first | apply kept_foldl | apply kept_fold1 | apply kept_fold2 | apply kept_ite | apply goes_next)
    | dsimp -zeta only
    | split

theorem jSvc_kept {q : List Instr} (s : State) (q0 : Nat) (r : JReq) (status : Nat) (value : Nat) (hs : Kept q s) :
    Kept q (State.jSvc s q0 r status value) := by
  unfold State.jSvc
  repeat' first
    | (with_reducible first | assumption | intro _ | exact kept_mk (by assumption))
    | (with_reducible extract_lets +onlyGivenNames x'; unfold x'; clear x')
    | (with_reducible first | apply svcDone_kept | apply kept_foldl | apply kept_fold1 | apply kept_fold2 | apply kept_ite)
    | (with_reducible first | apply goes_next)
    | dsimp -zeta only
    | split

theorem jEffect_kept {q : List Instr} (s : State) (q0 : Nat) (r : JReq) (hs : Kept q s) :
    Kept q (State.jEffect s q0 r) := by
  unfold State.jEffect
  repeat' first
    | (with_reducible first | assumption | refine kept_some ?_ | refine kept_some1 ?_ | exact kept_none | exact kept_none1)
    | (with_reducible first | refine kept_map ?_ | intro _ | exact kept_mk (by assumption))
    | (with_reducible extract_lets +onlyGivenNames x'; unfold x'; clear x')
    | (with_reducible first | apply freeThread_kept | apply svcLeft_kept | apply threadExit_kept | apply svcWait_kept)
    | (with_reducible first | apply svcDone_kept | apply jrnlSem_kept | apply setFld_kept | apply semPost_kept | apply jSvc_kept)
    | (with_reducible first | apply jrnlFlag_kept | apply wrN_kept | apply flagChange_kept | apply wr_kept)
    | (with_reducible first | apply jrnlThread_kept | apply ducTrace_kept | apply createFrom_kept | apply slotEnd_kept)
    | (with_reducible first | apply pick_kept | apply kept_foldl | apply kept_fold1 | apply kept_fold2 | apply kept_ite)
    | (with_reducible first | apply kept_elim | apply kept_getD | apply kept_getD1 | apply goes_next)
    | dsimp -zeta only
    | split

theorem tickWrite_kept {q : List Instr} (s : State) (q0 : Nat) (t : Nat) (v : W32) (hs : Kept q s) :
    Kept q (State.tickWrite s q0 t v) := by
  unfold State.tickWrite
  repeat' first
    | (with_reducible first | assumption | intro _ | exact kept_mk (by assumption))
    | (with_reducible extract_lets +onlyGivenNames x'; unfold x'; clear x')
    | (with_reducible first | apply setFld_kept | apply kept_foldl | apply kept_fold1 | apply kept_fold2 | apply kept_ite)
    | (with_reducible first | apply goes_next)
    | dsimp -zeta only
    | split

theorem execThreadCreate_kept {q : List Instr} (d : Desc) (s : State) (hs : Kept q s) :
    Goes q (execThreadCreate d s) := by
  unfold execThreadCreate
  repeat' first
    | (with_reducible first | assumption | intro _ | exact kept_mk (by assumption))
    | (with_reducible extract_lets +onlyGivenNames x'; unfold x'; clear x')
    | (with_reducible first | apply command_kept | apply cmdJournal_kept | apply kept_foldl | apply kept_fold1)
    | (with_reducible first | apply kept_fold2 | apply kept_ite | apply kept_elim | apply goes_next)
    | dsimp -zeta only
    | split

theorem execThreadStart_kept {q : List Instr} (d : Desc) (s : State) (hs : Kept q s) :
    Goes q (execThreadStart d s) := by
  unfold execThreadStart
  repeat' first
    | (with_reducible first | assumption | intro _ | exact kept_mk (by assumption))
    | (with_reducible extract_lets +onlyGivenNames x'; unfold x'; clear x')
    | (with_reducible first | apply commandNow_kept | apply makeReady_kept | apply kept_foldl | apply kept_fold1)
    | (with_reducible first | apply kept_fold2 | apply kept_ite | apply goes_next)
    | dsimp -zeta only
    | split

theorem execThreadSuspend_kept {q : List Instr} (d : Desc) (s : State) (hs : Kept q s) :
    Goes q (execThreadSuspend d s) := by
  unfold execThreadSuspend
  repeat' first
    | (with_reducible first | assumption | intro _ | exact kept_mk (by assumption))
    | (with_reducible extract_lets +onlyGivenNames x'; unfold x'; clear x')
    | (with_reducible first | apply command_kept | apply dispatch_kept | apply setDuc_kept | apply setTcbState_kept)
    | (with_reducible first | apply unlist_kept | apply slotEnd_kept | apply ducTrace_kept | apply kept_foldl | apply kept_fold1)
    | (with_reducible first | apply kept_fold2 | apply kept_ite | apply goes_next)
    | dsimp -zeta only
    | split

theorem execThreadResume_kept {q : List Instr} (d : Desc) (s : State) (hs : Kept q s) :
    Goes q (execThreadResume d s) := by
  unfold execThreadResume
  repeat' first
    | (with_reducible first | assumption | intro _ | exact kept_mk (by assumption))
    | (with_reducible extract_lets +onlyGivenNames x'; unfold x'; clear x')
    | (with_reducible first | apply commandNow_kept | apply makeReady_kept | apply ducTrace_kept | apply kept_foldl)
    | (with_reducible first | apply kept_fold1 | apply kept_fold2 | apply kept_ite | apply goes_next)
    | dsimp -zeta only
    | split

theorem execThreadKill_kept {q : List Instr} (d : Desc) (s : State) (hs : Kept q s) :
    Goes q (execThreadKill d s) := by
  unfold execThreadKill
  repeat' first
    | (with_reducible first | assumption | intro _ | exact kept_mk (by assumption))
    | (with_reducible extract_lets +onlyGivenNames x'; unfold x'; clear x')
    | (with_reducible first | apply command_kept | apply endThread_kept | apply cmdJournal_kept | apply kept_foldl)
    | (with_reducible first | apply kept_fold1 | apply kept_fold2 | apply kept_ite | apply goes_next)
    | dsimp -zeta only
    | split

theorem execThreadPrio_kept {q : List Instr} (d : Desc) (s : State) (hs : Kept q s) :
    Goes q (execThreadPrio d s) := by
  unfold execThreadPrio
  repeat' first
    | (with_reducible first | assumption | intro _ | exact kept_mk (by assumption))
    | (with_reducible extract_lets +onlyGivenNames x'; unfold x'; clear x')
    | (with_reducible first | apply commandNow_kept | apply changePrio_kept | apply kept_foldl | apply kept_fold1)
    | (with_reducible first | apply kept_fold2 | apply kept_ite | apply goes_next)
    | dsimp -zeta only
    | split

theorem execThreadQuery_kept {q : List Instr} (d : Desc) (s : State) (hs : Kept q s) :
    Goes q (execThreadQuery d s) := by
  unfold execThreadQuery
  repeat' first
    | (with_reducible first | assumption | intro _ | exact kept_mk (by assumption))
    | (with_reducible extract_lets +onlyGivenNames x'; unfold x'; clear x')
    | (with_reducible first | apply commandNow_kept | apply kept_foldl | apply kept_fold1 | apply kept_fold2 | apply kept_ite)
    | (with_reducible first | apply goes_next)
    | dsimp -zeta only
    | split

theorem execSemAlloc_kept {q : List Instr} (d : Desc) (s : State) (hs : Kept q s) :
    Goes q (execSemAlloc d s) := by
  unfold execSemAlloc
  repeat' first
    | (with_reducible first | assumption | intro _ | exact kept_mk (by assumption))
    | (with_reducible extract_lets +onlyGivenNames x'; unfold x'; clear x')
    | (with_reducible first | apply command_kept | apply cmdJournal_kept | apply kept_foldl | apply kept_fold1)
    | (with_reducible first | apply kept_fold2 | apply kept_ite | apply goes_next)
    | dsimp -zeta only
    | split

theorem execSemFree_kept {q : List Instr} (d : Desc) (s : State) (hs : Kept q s) :
    Goes q (execSemFree d s) := by
  unfold execSemFree
  repeat' first
    | (with_reducible first | assumption | intro _ | exact kept_mk (by assumption))
    | (with_reducible extract_lets +onlyGivenNames x'; unfold x'; clear x')
    | (with_reducible first | apply command_kept | apply cmdJournal_kept | apply kept_foldl | apply kept_fold1)
    | (with_reducible first | apply kept_fold2 | apply kept_ite | apply goes_next)
    | dsimp -zeta only
    | split

theorem execSemPost_kept {q : List Instr} (d : Desc) (s : State) (hs : Kept q s) :
    Goes q (execSemPost d s) := by
  unfold execSemPost
  repeat' first
    | (with_reducible first | assumption | intro _ | exact kept_mk (by assumption))
    | (with_reducible extract_lets +onlyGivenNames x'; unfold x'; clear x')
    | (with_reducible first | apply command_kept | apply cmdJournal_kept | apply kept_foldl | apply kept_fold1)
    | (with_reducible first | apply kept_fold2 | apply kept_ite | apply goes_next)
    | dsimp -zeta only
    | split

theorem execFlagAlloc_kept {q : List Instr} (d : Desc) (s : State) (hs : Kept q s) :
    Goes q (execFlagAlloc d s) := by
  unfold execFlagAlloc
  repeat' first
    | (with_reducible first | assumption | intro _ | exact kept_mk (by assumption))
    | (with_reducible extract_lets +onlyGivenNames x'; unfold x'; clear x')
    | (with_reducible first | apply command_kept | apply cmdJournal_kept | apply kept_foldl | apply kept_fold1)
    | (with_reducible first | apply kept_fold2 | apply kept_ite | apply goes_next)
    | dsimp -zeta only
    | split

theorem execFlagFree_kept {q : List Instr} (d : Desc) (s : State) (hs : Kept q s) :
    Goes q (execFlagFree d s) := by
  unfold execFlagFree
  repeat' first
    | (with_reducible first | assumption | intro _ | exact kept_mk (by assumption))
    | (with_reducible extract_lets +onlyGivenNames x'; unfold x'; clear x')
    | (with_reducible first | apply command_kept | apply cmdJournal_kept | apply kept_foldl | apply kept_fold1)
    | (with_reducible first | apply kept_fold2 | apply kept_ite | apply goes_next)
    | dsimp -zeta only
    | split

theorem execFlagSet_kept {q : List Instr} (d : Desc) (s : State) (hs : Kept q s) :
    Goes q (execFlagSet d s) := by
  unfold execFlagSet
  repeat' first
    | (with_reducible first | assumption | intro _ | exact kept_mk (by assumption))
    | (with_reducible extract_lets +onlyGivenNames x'; unfold x'; clear x')
    | (with_reducible first | apply command_kept | apply cmdJournal_kept | apply kept_foldl | apply kept_fold1)
    | (with_reducible first | apply kept_fold2 | apply kept_ite | apply goes_next)
    | dsimp -zeta only
    | split

theorem execTickConfig_kept {q : List Instr} (d : Desc) (s : State) (hs : Kept q s) :
    Goes q (execTickConfig d s) := by
  unfold execTickConfig
  repeat' first
    | (with_reducible first | assumption | intro _ | exact kept_mk (by assumption))
    | (with_reducible extract_lets +onlyGivenNames x'; unfold x'; clear x')
    | (with_reducible first | apply commandNow_kept | apply tickWrite_kept | apply kept_foldl | apply kept_fold1)
    | (with_reducible first | apply kept_fold2 | apply kept_ite | apply goes_next)
    | dsimp -zeta only
    | split

theorem execDucTrace_kept {q : List Instr} (d : Desc) (s : State) (hs : Kept q s) :
    Goes q (execDucTrace d s) := by
  unfold execDucTrace
  repeat' first
    | (with_reducible first | assumption | intro _ | exact kept_mk (by assumption))
    | (with_reducible extract_lets +onlyGivenNames x'; unfold x'; clear x')
    | (with_reducible first | apply commandNow_kept | apply wrN_kept | apply kept_foldl | apply kept_fold1 | apply kept_fold2)
    | (with_reducible first | apply kept_ite | apply goes_next)
    | dsimp -zeta only
    | split

theorem execDucQuery_kept {q : List Instr} (d : Desc) (s : State) (hs : Kept q s) :
    Goes q (execDucQuery d s) := by
  unfold execDucQuery
  repeat' first
    | (with_reducible first | assumption | intro _ | exact kept_mk (by assumption))
    | (with_reducible extract_lets +onlyGivenNames x'; unfold x'; clear x')
    | (with_reducible first | apply commandNow_kept | apply kept_foldl | apply kept_fold1 | apply kept_fold2 | apply kept_ite)
    | (with_reducible first | apply goes_next)
    | dsimp -zeta only
    | split

theorem execTick_kept {q : List Instr} (q0 : Fin 8) (t : Fin 4) (n : BitVec 32) (s : State) (hs : Kept q s) :
    Goes q (execTick q0 t n s) := by
  unfold execTick
  repeat' first
    | (with_reducible first | assumption | intro _ | exact kept_mk (by assumption))
    | (with_reducible extract_lets +onlyGivenNames x'; unfold x'; clear x')
    | (with_reducible first | apply bump_kept | apply kept_foldl | apply kept_fold1 | apply kept_fold2 | apply kept_ite)
    | (with_reducible first | apply goes_next)
    | dsimp -zeta only
    | split

theorem execTickExpiry_kept {q : List Instr} (q0 : Fin 8) (s : State) (hs : Kept q s) :
    Goes q (execTickExpiry q0 s) := by
  unfold execTickExpiry
  repeat' first
    | (with_reducible first | assumption | intro _ | exact kept_mk (by assumption))
    | (with_reducible extract_lets +onlyGivenNames x'; unfold x'; clear x')
    | (with_reducible first | apply wake_kept | apply countWaiters_kept | apply kept_foldl | apply kept_fold1 | apply kept_fold2)
    | (with_reducible first | apply kept_ite | apply goes_next)
    | dsimp -zeta only
    | split

theorem execJournalWriteFailure_kept {q : List Instr} (q0 : Fin 8) (s : State) (hs : Kept q s) :
    Goes q (execJournalWriteFailure q0 s) := by
  unfold execJournalWriteFailure
  repeat' first
    | (with_reducible first | assumption | intro _ | exact kept_mk (by assumption))
    | (with_reducible extract_lets +onlyGivenNames x'; unfold x'; clear x')
    | (with_reducible first | apply setDuc_kept | apply notice_kept | apply raise_kept | apply setBit_kept | apply slotEnd_kept)
    | (with_reducible first | apply svcDone_kept | apply kept_foldl | apply kept_fold1 | apply kept_fold2 | apply kept_ite)
    | (with_reducible first | apply goes_next)
    | dsimp -zeta only
    | split

theorem execJournalWriteComplete_kept {q : List Instr} (q0 : Fin 8) (s : State) (hs : Kept q s) :
    Goes q (execJournalWriteComplete q0 s) := by
  unfold execJournalWriteComplete
  repeat' first
    | (with_reducible first | assumption | intro _ | exact kept_mk (by assumption))
    | (with_reducible extract_lets +onlyGivenNames x'; unfold x'; clear x')
    | (with_reducible first | apply jEffect_kept | apply setDuc_kept | apply kept_foldl | apply kept_fold1 | apply kept_fold2)
    | (with_reducible first | apply kept_ite | apply goes_next)
    | dsimp -zeta only
    | split

end Sys2Proof.Machine
end

