-- ==== Sys2Proof/Laws/KeptNibOps.lean ====
section
/-! SUPPORT. What the operations of NibOps keep. -/

namespace Sys2Proof.Machine
open Sys2Proof

set_option linter.all false

theorem setNib_kept {q : List Instr} (s : State) (i : Nat) (x : NibSt) (hs : Kept q s) :
    Kept q (State.setNib s i x) := by
  unfold State.setNib
  repeat' first
    | (with_reducible first | assumption | intro _ | exact kept_mk (by assumption))
    | (with_reducible extract_lets +onlyGivenNames x'; unfold x'; clear x')
    | (with_reducible first | apply kept_foldl | apply kept_fold1 | apply kept_fold2 | apply kept_ite | apply goes_next)
    | dsimp -zeta only
    | split

theorem nibShow_kept {q : List Instr} (s : State) (i : Nat) (hs : Kept q s) :
    Kept q (State.nibShow s i) := by
  unfold State.nibShow
  repeat' first
    | (with_reducible first | assumption | intro _ | exact kept_mk (by assumption))
    | (with_reducible extract_lets +onlyGivenNames x'; unfold x'; clear x')
    | (with_reducible first | apply setFld_kept | apply kept_foldl | apply kept_fold1 | apply kept_fold2 | apply kept_ite)
    | (with_reducible first | apply goes_next)
    | dsimp -zeta only
    | split

theorem setNibRun_kept {q : List Instr} (s : State) (i : Nat) (run : Nat) (cause : Nat) (hs : Kept q s) :
    Kept q (State.setNibRun s i run cause) := by
  unfold State.setNibRun
  repeat' first
    | (with_reducible first | assumption | intro _ | exact kept_mk (by assumption))
    | (with_reducible extract_lets +onlyGivenNames x'; unfold x'; clear x')
    | (with_reducible first | apply setFld_kept | apply kept_foldl | apply kept_fold1 | apply kept_fold2 | apply kept_ite)
    | (with_reducible first | apply goes_next)
    | dsimp -zeta only
    | split

end Sys2Proof.Machine
end

