-- ==== Sys2Proof/Laws/KeptBusOps.lean ====
section
/-! SUPPORT. What the operations of BusOps keep. -/

namespace Sys2Proof.Machine
open Sys2Proof

set_option linter.all false

theorem plainRead_kept {q : List Instr} (s : State) (a : Nat) (hs : Kept q s) :
    Kept q (State.plainRead s a).1 := by
  unfold State.plainRead
  repeat' first
    | (with_reducible first | assumption | intro _ | exact kept_mk (by assumption))
    | (with_reducible extract_lets +onlyGivenNames x'; unfold x'; clear x')
    | (with_reducible first | apply wrN_kept | apply kept_foldl | apply kept_fold1 | apply kept_fold2 | apply kept_ite)
    | (with_reducible first | apply goes_next)
    | dsimp -zeta only
    | split

theorem plainWrite_kept {q : List Instr} (s : State) (who : Requester) (a : Nat) (v : Nat) (hs : Kept q s) :
    Kept q (State.plainWrite s who a v) := by
  unfold State.plainWrite
  repeat' first
    | (with_reducible first | assumption | intro _ | exact kept_mk (by assumption))
    | (with_reducible extract_lets +onlyGivenNames x'; unfold x'; clear x')
    | (with_reducible first | apply wrN_kept | apply kept_foldl | apply kept_fold1 | apply kept_fold2 | apply kept_ite)
    | (with_reducible first | apply goes_next)
    | dsimp -zeta only
    | split

end Sys2Proof.Machine
end

