-- ==== Sys2Proof/Laws/KeptColophon.lean ====
section
/-! SUPPORT. What the operations of Colophon keep. -/

namespace Sys2Proof.Machine
open Sys2Proof

set_option linter.all false

theorem setPal_kept {q : List Instr} (s : State) (p : PalState) (hs : Kept q s) :
    Kept q (State.setPal s p) := by
  unfold State.setPal
  repeat' first
    | (with_reducible first | assumption | intro _ | exact kept_mk (by assumption))
    | (with_reducible extract_lets +onlyGivenNames x'; unfold x'; clear x')
    | (with_reducible first | apply kept_foldl | apply kept_fold1 | apply kept_fold2 | apply kept_ite | apply goes_next)
    | dsimp -zeta only
    | split

theorem flStart_kept {q : List Instr} (s : State) (op : Nat) (hs : Kept q s) :
    Kept q (State.flStart s op) := by
  unfold State.flStart
  repeat' first
    | (with_reducible first | assumption | intro _ | exact kept_mk (by assumption))
    | (with_reducible extract_lets +onlyGivenNames x'; unfold x'; clear x')
    | (with_reducible first | apply wrN_kept | apply setPal_kept | apply kept_foldl | apply kept_fold1 | apply kept_fold2)
    | (with_reducible first | apply kept_ite | apply goes_next)
    | dsimp -zeta only
    | split

theorem flSet_kept {q : List Instr} (s : State) (a : Nat) (x2 : List Byte) (hs : Kept q s) :
    Kept q (State.flSet s a x2) := by
  induction x2 generalizing s a with
  | nil => exact hs
  | cons b r ih => exact ih _ _ (setPal_kept _ _ hs)

theorem dirWrite_kept {q : List Instr} (s : State) (c : Nat) (len : Nat) (version : Nat) (st : Nat) (hs : Kept q s) :
    Kept q (State.dirWrite s c len version st) := by
  unfold State.dirWrite
  repeat' first
    | (with_reducible first | assumption | intro _ | exact kept_mk (by assumption))
    | (with_reducible extract_lets +onlyGivenNames x'; unfold x'; clear x')
    | (with_reducible first | apply flSet_kept | apply kept_foldl | apply kept_fold1 | apply kept_fold2 | apply kept_ite)
    | (with_reducible first | apply kept_elim | apply kept_getD | apply kept_getD1 | apply goes_next)
    | dsimp -zeta only
    | split

end Sys2Proof.Machine
end

