-- ==== Sys2Proof/Laws/KeptEvtOps.lean ====
section
/-! SUPPORT. What the operations of EvtOps keep. -/

namespace Sys2Proof.Machine
open Sys2Proof

set_option linter.all false

theorem bltClear_kept {q : List Instr} (s : State) (n : Nat) (hs : Kept q s) :
    Kept q (State.bltClear s n) := by
  unfold State.bltClear
  repeat' first
    | (with_reducible first | assumption | intro _ | exact kept_mk (by assumption))
    | (with_reducible extract_lets +onlyGivenNames x'; unfold x'; clear x')
    | (with_reducible first | apply wr_kept | apply kept_foldl | apply kept_fold1 | apply kept_fold2 | apply kept_ite)
    | (with_reducible first | apply goes_next)
    | dsimp -zeta only
    | split

theorem bltConfig_kept {q : List Instr} (s : State) (n : Nat) (v : W32) (hs : Kept q s) :
    Kept q (State.bltConfig s n v) := by
  unfold State.bltConfig
  repeat' first
    | (with_reducible first | assumption | intro _ | exact kept_mk (by assumption))
    | (with_reducible extract_lets +onlyGivenNames x'; unfold x'; clear x')
    | (with_reducible first | apply bltClear_kept | apply setFld_kept | apply kept_foldl | apply kept_fold1 | apply kept_fold2)
    | (with_reducible first | apply kept_ite | apply goes_next)
    | dsimp -zeta only
    | split

end Sys2Proof.Machine
end

