-- ==== Sys2Proof/Laws/KeptFhOps.lean ====
section
/-! SUPPORT. What the operations of FhOps keep. -/

namespace Sys2Proof.Machine
open Sys2Proof

set_option linter.all false

theorem setStat_kept {q : List Instr} (s : State) (i : Nat) (n : Int) (f : Nat → Nat) (hs : Kept q s) :
    Kept q (State.setStat s i n f) := by
  unfold State.setStat
  repeat' first
    | (with_reducible first | assumption | intro _ | exact kept_mk (by assumption))
    | (with_reducible extract_lets +onlyGivenNames x'; unfold x'; clear x')
    | (with_reducible first | apply store_kept | apply kept_foldl | apply kept_fold1 | apply kept_fold2 | apply kept_ite)
    | (with_reducible first | apply goes_next)
    | dsimp -zeta only
    | split

theorem setFh_kept {q : List Instr} (s : State) (x : FhState) (hs : Kept q s) :
    Kept q (State.setFh s x) := by
  unfold State.setFh
  repeat' first
    | (with_reducible first | assumption | intro _ | exact kept_mk (by assumption))
    | (with_reducible extract_lets +onlyGivenNames x'; unfold x'; clear x')
    | (with_reducible first | apply kept_foldl | apply kept_fold1 | apply kept_fold2 | apply kept_ite | apply goes_next)
    | dsimp -zeta only
    | split

theorem windowOpen_kept {q : List Instr} (s : State) (f : Nat) (g : Nat) (n : Int) (t : Int) (hs : Kept q s) :
    Kept q (State.windowOpen s f g n t) := by
  unfold State.windowOpen
  repeat' first
    | (with_reducible first | assumption | intro _ | exact kept_mk (by assumption))
    | (with_reducible extract_lets +onlyGivenNames x'; unfold x'; clear x')
    | (with_reducible first | apply setStat_kept | apply setFh_kept | apply kept_foldl | apply kept_fold1 | apply kept_fold2)
    | (with_reducible first | apply kept_ite | apply goes_next)
    | dsimp -zeta only
    | split

theorem setSt_kept {q : List Instr} (s : State) (i : Nat) (ws : List W32) (hs : Kept q s) :
    Kept q (State.setSt s i ws) := by
  unfold State.setSt
  repeat' first
    | (with_reducible first | assumption | intro _ | exact kept_mk (by assumption))
    | (with_reducible extract_lets +onlyGivenNames x'; unfold x'; clear x')
    | (with_reducible first | apply setFh_kept | apply kept_foldl | apply kept_fold1 | apply kept_fold2 | apply kept_ite)
    | (with_reducible first | apply goes_next)
    | dsimp -zeta only
    | split

theorem stWrite_kept {q : List Instr} (s : State) (i : Nat) (w : Nat → Nat) (hs : Kept q s) :
    Kept q (State.stWrite s i w) := by
  unfold State.stWrite
  repeat' first
    | (with_reducible first | assumption | intro _ | exact kept_mk (by assumption))
    | (with_reducible extract_lets +onlyGivenNames x'; unfold x'; clear x')
    | (with_reducible first | apply setSt_kept | apply kept_foldl | apply kept_fold1 | apply kept_fold2 | apply kept_ite)
    | (with_reducible first | apply goes_next)
    | dsimp -zeta only
    | split

theorem windowFree_kept {q : List Instr} (s : State) (f : Nat) (g : Nat) (hs : Kept q s) :
    Kept q (State.windowFree s f g) := by
  unfold State.windowFree
  repeat' first
    | (with_reducible first | assumption | intro _ | exact kept_mk (by assumption))
    | (with_reducible extract_lets +onlyGivenNames x'; unfold x'; clear x')
    | (with_reducible first | apply wrWords_kept | apply setFh_kept | apply kept_foldl | apply kept_fold1 | apply kept_fold2)
    | (with_reducible first | apply kept_ite | apply goes_next)
    | dsimp -zeta only
    | split

theorem setEth_kept {q : List Instr} (s : State) (p : Nat) (st : Nat) (hs : Kept q s) :
    Kept q (State.setEth s p st) := by
  unfold State.setEth
  repeat' first
    | (with_reducible first | assumption | intro _ | exact kept_mk (by assumption))
    | (with_reducible extract_lets +onlyGivenNames x'; unfold x'; clear x')
    | (with_reducible first | apply raise_kept | apply setBit_kept | apply setFld_kept | apply kept_foldl | apply kept_fold1)
    | (with_reducible first | apply kept_fold2 | apply kept_ite | apply goes_next)
    | dsimp -zeta only
    | split

theorem setStW_kept {q : List Instr} (s : State) (i : Nat) (w : Nat) (v : Nat) (hs : Kept q s) :
    Kept q (State.setStW s i w v) := by
  unfold State.setStW
  repeat' first
    | (with_reducible first | assumption | intro _ | exact kept_mk (by assumption))
    | (with_reducible extract_lets +onlyGivenNames x'; unfold x'; clear x')
    | (with_reducible first | apply setSt_kept | apply kept_foldl | apply kept_fold1 | apply kept_fold2 | apply kept_ite)
    | (with_reducible first | apply goes_next)
    | dsimp -zeta only
    | split

theorem setWindow_kept {q : List Instr} (s : State) (w : FhWin) (hs : Kept q s) :
    Kept q (State.setWindow s w) := by
  unfold State.setWindow
  repeat' first
    | (with_reducible first | assumption | intro _ | exact kept_mk (by assumption))
    | (with_reducible extract_lets +onlyGivenNames x'; unfold x'; clear x')
    | (with_reducible first | apply setFh_kept | apply kept_foldl | apply kept_fold1 | apply kept_fold2 | apply kept_ite)
    | (with_reducible first | apply goes_next)
    | dsimp -zeta only
    | split

theorem stCount_kept {q : List Instr} (s : State) (i : Nat) (w : Nat) (n : Nat) (hs : Kept q s) :
    Kept q (State.stCount s i w n) := by
  unfold State.stCount
  repeat' first
    | (with_reducible first | assumption | intro _ | exact kept_mk (by assumption))
    | (with_reducible extract_lets +onlyGivenNames x'; unfold x'; clear x')
    | (with_reducible first | apply setStW_kept | apply kept_foldl | apply kept_fold1 | apply kept_fold2 | apply kept_ite)
    | (with_reducible first | apply goes_next)
    | dsimp -zeta only
    | split

theorem windowWake_kept {q : List Instr} (s : State) (w : FhWin) (hs : Kept q s) :
    Kept q (State.windowWake s w) := by
  unfold State.windowWake
  repeat' first
    | (with_reducible first | assumption | intro _ | exact kept_mk (by assumption))
    | (with_reducible extract_lets +onlyGivenNames x'; unfold x'; clear x')
    | (with_reducible first | apply wakeTarget_kept | apply setWindow_kept | apply kept_foldl | apply kept_fold1)
    | (with_reducible first | apply kept_fold2 | apply kept_ite | apply goes_next)
    | dsimp -zeta only
    | split

theorem windowClose_kept {q : List Instr} (s : State) (w : FhWin) (hs : Kept q s) :
    Kept q (State.windowClose s w) := by
  unfold State.windowClose
  repeat' first
    | (with_reducible first | assumption | intro _ | exact kept_mk (by assumption))
    | (with_reducible extract_lets +onlyGivenNames x'; unfold x'; clear x')
    | (with_reducible first | apply setWindow_kept | apply windowWake_kept | apply setStat_kept | apply raise_kept)
    | (with_reducible first | apply bumpSat_kept | apply kept_foldl | apply kept_fold1 | apply kept_fold2 | apply kept_ite)
    | (with_reducible first | apply goes_next)
    | dsimp -zeta only
    | split

end Sys2Proof.Machine
end

