-- ==== Sys2Proof/Laws/KeptTimeOps.lean ====
section
/-! SUPPORT. What the operations of TimeOps keep. -/

namespace Sys2Proof.Machine
open Sys2Proof

set_option linter.all false

theorem advanceTime_kept {q : List Instr} (s : State) (hs : Kept q s) :
    Kept q (State.advanceTime s) := by
  unfold State.advanceTime
  repeat' first
    | (with_reducible first | assumption | intro _ | exact kept_mk (by assumption))
    | (with_reducible extract_lets +onlyGivenNames x'; unfold x'; clear x')
    | (with_reducible first | apply kept_foldl | apply kept_fold1 | apply kept_fold2 | apply kept_ite | apply goes_next)
    | dsimp -zeta only
    | split

theorem latchPos_kept {q : List Instr} (s : State) (g : Nat) (hs : Kept q s) :
    Kept q (State.latchPos s g) := by
  unfold State.latchPos
  repeat' first
    | (with_reducible first | assumption | intro _ | exact kept_mk (by assumption))
    | (with_reducible extract_lets +onlyGivenNames x'; unfold x'; clear x')
    | (with_reducible first | apply wrN_kept | apply kept_foldl | apply kept_fold1 | apply kept_fold2 | apply kept_ite)
    | (with_reducible first | apply goes_next)
    | dsimp -zeta only
    | split

theorem applyFreq_kept {q : List Instr} (s : State) (b : Nat) (v : Int) (hs : Kept q s) :
    Kept q (State.applyFreq s b v) := by
  unfold State.applyFreq
  repeat' first
    | with_reducible assumption
    | with_reducible refine kept_some ?_
    | with_reducible refine kept_some1 ?_
    | with_reducible exact kept_none
    | with_reducible exact kept_none1
    | with_reducible refine kept_map ?_
    | with_reducible intro _
    | with_reducible exact kept_mk (by with_reducible assumption)
    | (with_reducible extract_lets +onlyGivenNames x'; refine kept_cut q x' ?_ ?_; (focus (unfold x'; clear x')); rotate_left; (focus (intro _; clear_value x')))
    | (with_reducible extract_lets +onlyGivenNames x'; refine kept_cut1 q x' ?_ ?_; (focus (unfold x'; clear x')); rotate_left; (focus (intro _; clear_value x')))
    | (with_reducible extract_lets +onlyGivenNames x'; refine kept_cut2 q x' ?_ ?_; (focus (unfold x'; clear x')); rotate_left; (focus (intro _; clear_value x')))
    | (with_reducible extract_lets +onlyGivenNames x'; unfold x'; clear x')
    | with_reducible apply setBit_kept
    | with_reducible apply wrN_kept
    | with_reducible apply kept_foldl
    | with_reducible apply kept_fold1
    | with_reducible apply kept_fold2
    | with_reducible apply kept_ite
    | with_reducible apply goes_next
    | dsimp -zeta only
    | split

theorem askStep_kept {q : List Instr} (s : State) (b : Nat) (sec : Nat) (ns : Nat) (frac : Nat) (slot : Option SlotId) (hs : Kept q s) :
    Kept q (State.askStep s b sec ns frac slot) := by
  unfold State.askStep
  repeat' first
    | (with_reducible first | assumption | intro _ | exact kept_mk (by assumption))
    | (with_reducible extract_lets +onlyGivenNames x'; unfold x'; clear x')
    | (with_reducible first | apply kept_foldl | apply kept_fold1 | apply kept_fold2 | apply kept_ite | apply goes_next)
    | dsimp -zeta only
    | split

theorem tbSetState_kept {q : List Instr} (s : State) (b : Nat) (st : Nat) (hs : Kept q s) :
    Kept q (State.tbSetState s b st) := by
  unfold State.tbSetState
  repeat' first
    | (with_reducible first | assumption | intro _ | exact kept_mk (by assumption))
    | (with_reducible extract_lets +onlyGivenNames x'; unfold x'; clear x')
    | (with_reducible first | apply raise_kept | apply setFld_kept | apply kept_foldl | apply kept_fold1 | apply kept_fold2)
    | (with_reducible first | apply kept_ite | apply goes_next)
    | dsimp -zeta only
    | split

theorem setTrig_kept {q : List Instr} (s : State) (c : Nat) (t : Trig) (hs : Kept q s) :
    Kept q (State.setTrig s c t) := by
  unfold State.setTrig
  repeat' first
    | (with_reducible first | assumption | intro _ | exact kept_mk (by assumption))
    | (with_reducible extract_lets +onlyGivenNames x'; unfold x'; clear x')
    | (with_reducible first | apply kept_foldl | apply kept_fold1 | apply kept_fold2 | apply kept_ite | apply goes_next)
    | dsimp -zeta only
    | split

theorem setNext_kept {q : List Instr} (s : State) (c : Nat) (o : Option Occ) (hs : Kept q s) :
    Kept q (State.setNext s c o) := by
  unfold State.setNext
  repeat' first
    | (with_reducible first | assumption | intro _ | exact kept_mk (by assumption))
    | (with_reducible extract_lets +onlyGivenNames x'; unfold x'; clear x')
    | (with_reducible first | apply setTrig_kept | apply kept_foldl | apply kept_fold1 | apply kept_fold2 | apply kept_ite)
    | (with_reducible first | apply goes_next)
    | dsimp -zeta only
    | split

theorem chSetState_kept {q : List Instr} (s : State) (c : Nat) (st : Nat) (hs : Kept q s) :
    Kept q (State.chSetState s c st) := by
  unfold State.chSetState
  repeat' first
    | (with_reducible first | assumption | intro _ | exact kept_mk (by assumption))
    | (with_reducible extract_lets +onlyGivenNames x'; unfold x'; clear x')
    | (with_reducible first | apply setFld_kept | apply kept_foldl | apply kept_fold1 | apply kept_fold2 | apply kept_ite)
    | (with_reducible first | apply goes_next)
    | dsimp -zeta only
    | split

theorem chDisarm_kept {q : List Instr} (s : State) (c : Nat) (hs : Kept q s) :
    Kept q (State.chDisarm s c) := by
  unfold State.chDisarm
  repeat' first
    | (with_reducible first | assumption | intro _ | exact kept_mk (by assumption))
    | (with_reducible extract_lets +onlyGivenNames x'; unfold x'; clear x')
    | (with_reducible first | apply setNext_kept | apply chSetState_kept | apply setFld_kept | apply kept_foldl)
    | (with_reducible first | apply kept_fold1 | apply kept_fold2 | apply kept_ite | apply goes_next)
    | dsimp -zeta only
    | split

theorem chHandover_kept {q : List Instr} (s : State) (c : Nat) (hs : Kept q s) :
    Kept q (State.chHandover s c) := by
  unfold State.chHandover
  repeat' first
    | (with_reducible first | assumption | intro _ | exact kept_mk (by assumption))
    | (with_reducible extract_lets +onlyGivenNames x'; unfold x'; clear x')
    | (with_reducible first | apply wr_kept | apply setFld_kept | apply kept_foldl | apply kept_fold1 | apply kept_fold2)
    | (with_reducible first | apply kept_ite | apply goes_next)
    | dsimp -zeta only
    | split

theorem missed_kept {q : List Instr} (s : State) (c : Nat) (n : Nat) (hs : Kept q s) :
    Kept q (State.missed s c n) := by
  unfold State.missed
  repeat' first
    | (with_reducible first | assumption | intro _ | exact kept_mk (by assumption))
    | (with_reducible extract_lets +onlyGivenNames x'; unfold x'; clear x')
    | (with_reducible first | apply bumpSat_kept | apply kept_foldl | apply kept_fold1 | apply kept_fold2 | apply kept_ite)
    | (with_reducible first | apply goes_next)
    | dsimp -zeta only
    | split

theorem chFree_kept {q : List Instr} (s : State) (c : Nat) (hs : Kept q s) :
    Kept q (State.chFree s c) := by
  unfold State.chFree
  repeat' first
    | (with_reducible first | assumption | intro _ | exact kept_mk (by assumption))
    | (with_reducible extract_lets +onlyGivenNames x'; unfold x'; clear x')
    | (with_reducible first | apply setTrig_kept | apply chSetState_kept | apply chDisarm_kept | apply kept_foldl)
    | (with_reducible first | apply kept_fold1 | apply kept_fold2 | apply kept_ite | apply goes_next)
    | dsimp -zeta only
    | split

theorem setGridSt_kept {q : List Instr} (s : State) (g : Nat) (x : GridSt) (hs : Kept q s) :
    Kept q (State.setGridSt s g x) := by
  unfold State.setGridSt
  repeat' first
    | (with_reducible first | assumption | intro _ | exact kept_mk (by assumption))
    | (with_reducible extract_lets +onlyGivenNames x'; unfold x'; clear x')
    | (with_reducible first | apply kept_foldl | apply kept_fold1 | apply kept_fold2 | apply kept_ite | apply goes_next)
    | dsimp -zeta only
    | split

theorem gridConfig_kept {q : List Instr} (s : State) (r : VRec) (hs : Kept q s) :
    Kept q (State.gridConfig s r) := by
  unfold State.gridConfig
  repeat' first
    | (with_reducible first | assumption | intro _ | exact kept_mk (by assumption))
    | (with_reducible extract_lets +onlyGivenNames x'; unfold x'; clear x')
    | (with_reducible first | apply setGridSt_kept | apply wrWords_kept | apply kept_foldl | apply kept_fold1 | apply kept_fold2)
    | (with_reducible first | apply kept_ite | apply goes_next)
    | dsimp -zeta only
    | split

theorem chAssign_kept {q : List Instr} (s : State) (c : Nat) (owner : Nat) (hs : Kept q s) :
    Kept q (State.chAssign s c owner) := by
  unfold State.chAssign
  repeat' first
    | (with_reducible first | assumption | intro _ | exact kept_mk (by assumption))
    | (with_reducible extract_lets +onlyGivenNames x'; unfold x'; clear x')
    | (with_reducible first | apply wrWords_kept | apply setTrig_kept | apply chSetState_kept | apply kept_foldl)
    | (with_reducible first | apply kept_fold1 | apply kept_fold2 | apply kept_ite | apply goes_next)
    | dsimp -zeta only
    | split

theorem gridRemove_kept {q : List Instr} (s : State) (g : Nat) (hs : Kept q s) :
    Kept q (State.gridRemove s g) := by
  unfold State.gridRemove
  repeat' first
    | (with_reducible first | assumption | intro _ | exact kept_mk (by assumption))
    | (with_reducible extract_lets +onlyGivenNames x'; unfold x'; clear x')
    | (with_reducible first | apply setGridSt_kept | apply wrWords_kept | apply kept_foldl | apply kept_fold1 | apply kept_fold2)
    | (with_reducible first | apply kept_ite | apply goes_next)
    | dsimp -zeta only
    | split

theorem gridBoundary_kept {q : List Instr} (s : State) (g : Nat) (F : Int) (hs : Kept q s) :
    Kept q (State.gridBoundary s g F) := by
  unfold State.gridBoundary
  repeat' first
    | (with_reducible first | assumption | intro _ | exact kept_mk (by assumption))
    | (with_reducible extract_lets +onlyGivenNames x'; unfold x'; clear x')
    | (with_reducible first | apply setGridSt_kept | apply wr_kept | apply wrN_kept | apply bump_kept | apply setFld_kept)
    | (with_reducible first | apply setBit_kept | apply kept_foldl | apply kept_fold1 | apply kept_fold2 | apply kept_ite)
    | (with_reducible first | apply goes_next)
    | dsimp -zeta only
    | split

end Sys2Proof.Machine
end

