-- ==== Sys2Proof/Laws/KeptPwrOps.lean ====
section
/-! SUPPORT. What the operations of PwrOps keep. -/

namespace Sys2Proof.Machine
open Sys2Proof

set_option linter.all false

theorem pwrShow_kept {q : List Instr} (s : State) (d : Nat) (hs : Kept q s) :
    Kept q (State.pwrShow s d) := by
  unfold State.pwrShow
  repeat' first
    | (with_reducible first | assumption | intro _ | exact kept_mk (by assumption))
    | (with_reducible extract_lets +onlyGivenNames x'; unfold x'; clear x')
    | (with_reducible first | apply setFld_kept | apply wrN_kept | apply kept_foldl | apply kept_fold1 | apply kept_fold2)
    | (with_reducible first | apply kept_ite | apply kept_getD | apply kept_getD1 | apply goes_next)
    | dsimp -zeta only
    | split

theorem setPwr_kept {q : List Instr} (s : State) (x : PwrState) (hs : Kept q s) :
    Kept q (State.setPwr s x) := by
  unfold State.setPwr
  repeat' first
    | (with_reducible first | assumption | intro _ | exact kept_mk (by assumption))
    | (with_reducible extract_lets +onlyGivenNames x'; unfold x'; clear x')
    | (with_reducible first | apply kept_foldl | apply kept_fold1 | apply kept_fold2 | apply kept_ite | apply goes_next)
    | dsimp -zeta only
    | split

theorem winFire_kept {q : List Instr} (s : State) (w : Nat) (tb : Nat) (hs : Kept q s) :
    Kept q (State.winFire s w tb) := by
  unfold State.winFire
  repeat' first
    | (with_reducible first | assumption | intro _ | exact kept_mk (by assumption))
    | (with_reducible extract_lets +onlyGivenNames x'; unfold x'; clear x')
    | (with_reducible first | apply setPwr_kept | apply kept_foldl | apply kept_fold1 | apply kept_fold2 | apply kept_ite)
    | (with_reducible first | apply goes_next)
    | dsimp -zeta only
    | split

theorem winFree_kept {q : List Instr} (s : State) (w : Nat) (hs : Kept q s) :
    Kept q (State.winFree s w) := by
  unfold State.winFree
  repeat' first
    | (with_reducible first | assumption | intro _ | exact kept_mk (by assumption))
    | (with_reducible extract_lets +onlyGivenNames x'; unfold x'; clear x')
    | (with_reducible first | apply wrWords_kept | apply setPwr_kept | apply kept_foldl | apply kept_fold1 | apply kept_fold2)
    | (with_reducible first | apply kept_ite | apply goes_next)
    | dsimp -zeta only
    | split

theorem pwrRealmReset_kept {q : List Instr} (s : State) (r : Nat) (hs : Kept q s) :
    Kept q (State.pwrRealmReset s r) := by
  unfold State.pwrRealmReset
  repeat' first
    | (with_reducible first | assumption | intro _ | exact kept_mk (by assumption))
    | (with_reducible extract_lets +onlyGivenNames x'; unfold x'; clear x')
    | (with_reducible first | apply winFree_kept | apply setPwr_kept | apply kept_foldl | apply kept_fold1 | apply kept_fold2)
    | (with_reducible first | apply kept_ite | apply goes_next)
    | dsimp -zeta only
    | split

theorem setTrans_kept {q : List Instr} (s : State) (d : Nat) (t : Option PTrans) (hs : Kept q s) :
    Kept q (State.setTrans s d t) := by
  unfold State.setTrans
  repeat' first
    | (with_reducible first | assumption | intro _ | exact kept_mk (by assumption))
    | (with_reducible extract_lets +onlyGivenNames x'; unfold x'; clear x')
    | (with_reducible first | apply setPwr_kept | apply kept_foldl | apply kept_fold1 | apply kept_fold2 | apply kept_ite)
    | (with_reducible first | apply goes_next)
    | dsimp -zeta only
    | split

theorem pwrTick_kept {q : List Instr} (s : State) (d : Nat) (hs : Kept q s) :
    Kept q (State.pwrTick s d) := by
  unfold State.pwrTick
  repeat' first
    | (with_reducible first | assumption | intro _ | exact kept_mk (by assumption))
    | (with_reducible extract_lets +onlyGivenNames x'; unfold x'; clear x')
    | (with_reducible first | apply setTrans_kept | apply setPwr_kept | apply kept_foldl | apply kept_fold1 | apply kept_fold2)
    | (with_reducible first | apply kept_ite | apply goes_next)
    | dsimp -zeta only
    | split

theorem pwrCycle_kept {q : List Instr} (s : State) (hs : Kept q s) :
    Kept q (State.pwrCycle s) := by
  unfold State.pwrCycle
  repeat' first
    | (with_reducible first | assumption | intro _ | exact kept_mk (by assumption))
    | (with_reducible extract_lets +onlyGivenNames x'; unfold x'; clear x')
    | (with_reducible first | apply pwrTick_kept | apply bump_kept | apply kept_foldl | apply kept_fold1 | apply kept_fold2)
    | (with_reducible first | apply kept_ite | apply goes_next)
    | dsimp -zeta only
    | split

end Sys2Proof.Machine
end

