-- ==== Sys2Proof/Laws/KeptRadOps.lean ====
section
/-! SUPPORT. What the operations of RadOps keep. -/

namespace Sys2Proof.Machine
open Sys2Proof

set_option linter.all false

theorem setRad_kept {q : List Instr} (s : State) (x : RadState) (hs : Kept q s) :
    Kept q (State.setRad s x) := by
  unfold State.setRad
  repeat' first
    | (with_reducible first | assumption | intro _ | exact kept_mk (by assumption))
    | (with_reducible extract_lets +onlyGivenNames x'; unfold x'; clear x')
    | (with_reducible first | apply kept_foldl | apply kept_fold1 | apply kept_fold2 | apply kept_ite | apply goes_next)
    | dsimp -zeta only
    | split

theorem setPa_kept {q : List Instr} (s : State) (p : Nat) (x : PaSt) (hs : Kept q s) :
    Kept q (State.setPa s p x) := by
  unfold State.setPa
  repeat' first
    | (with_reducible first | assumption | intro _ | exact kept_mk (by assumption))
    | (with_reducible extract_lets +onlyGivenNames x'; unfold x'; clear x')
    | (with_reducible first | apply setRad_kept | apply kept_foldl | apply kept_fold1 | apply kept_fold2 | apply kept_ite)
    | (with_reducible first | apply goes_next)
    | dsimp -zeta only
    | split

theorem paStart_kept {q : List Instr} (s : State) (p : Nat) (prog : Nat) (hs : Kept q s) :
    Kept q (State.paStart s p prog) := by
  unfold State.paStart
  repeat' first
    | (with_reducible first | assumption | intro _ | exact kept_mk (by assumption))
    | (with_reducible extract_lets +onlyGivenNames x'; unfold x'; clear x')
    | (with_reducible first | apply setPa_kept | apply setFld_kept | apply kept_foldl | apply kept_fold1 | apply kept_fold2)
    | (with_reducible first | apply kept_ite | apply goes_next)
    | dsimp -zeta only
    | split

theorem setPaState_kept {q : List Instr} (s : State) (p : Nat) (v : Nat) (hs : Kept q s) :
    Kept q (State.setPaState s p v) := by
  unfold State.setPaState
  repeat' first
    | (with_reducible first | assumption | intro _ | exact kept_mk (by assumption))
    | (with_reducible extract_lets +onlyGivenNames x'; unfold x'; clear x')
    | (with_reducible first | apply setFld_kept | apply kept_foldl | apply kept_fold1 | apply kept_fold2 | apply kept_ite)
    | (with_reducible first | apply goes_next)
    | dsimp -zeta only
    | split

theorem paReq_kept {q : List Instr} (s : State) (p : Nat) (req : Nat) (hs : Kept q s) :
    Kept q (State.paReq s p req) := by
  unfold State.paReq
  repeat' first
    | (with_reducible first | assumption | intro _ | exact kept_mk (by assumption))
    | (with_reducible extract_lets +onlyGivenNames x'; unfold x'; clear x')
    | (with_reducible first | apply raise_kept | apply bumpSat_kept | apply setPa_kept | apply paStart_kept)
    | (with_reducible first | apply setPaState_kept | apply kept_foldl | apply kept_fold1 | apply kept_fold2 | apply kept_ite)
    | (with_reducible first | apply goes_next)
    | dsimp -zeta only
    | split

theorem radioFire_kept {q : List Instr} (s : State) (t : Nat) (inst : Int) (tb : Nat) (hs : Kept q s) :
    Kept q (State.radioFire s t inst tb) := by
  unfold State.radioFire
  repeat' first
    | (with_reducible first | assumption | intro _ | exact kept_mk (by assumption))
    | (with_reducible extract_lets +onlyGivenNames x'; unfold x'; clear x')
    | (with_reducible first | apply setRad_kept | apply paReq_kept | apply kept_foldl | apply kept_fold1 | apply kept_fold2)
    | (with_reducible first | apply kept_ite | apply goes_next)
    | dsimp -zeta only
    | split

theorem setPathState_kept {q : List Instr} (s : State) (c : Nat) (st : Nat) (hs : Kept q s) :
    Kept q (State.setPathState s c st) := by
  unfold State.setPathState
  repeat' first
    | (with_reducible first | assumption | intro _ | exact kept_mk (by assumption))
    | (with_reducible extract_lets +onlyGivenNames x'; unfold x'; clear x')
    | (with_reducible first | apply setFld_kept | apply kept_foldl | apply kept_fold1 | apply kept_fold2 | apply kept_ite)
    | (with_reducible first | apply goes_next)
    | dsimp -zeta only
    | split

theorem radioRealmReset_kept {q : List Instr} (s : State) (r : Nat) (hs : Kept q s) :
    Kept q (State.radioRealmReset s r) := by
  unfold State.radioRealmReset
  repeat' first
    | (with_reducible first | assumption | intro _ | exact kept_mk (by assumption))
    | (with_reducible extract_lets +onlyGivenNames x'; unfold x'; clear x')
    | (with_reducible first | apply paReq_kept | apply setPathState_kept | apply kept_foldl | apply kept_fold1)
    | (with_reducible first | apply kept_fold2 | apply kept_ite | apply goes_next)
    | dsimp -zeta only
    | split

theorem setJes_kept {q : List Instr} (s : State) (k : Nat) (rx : Bool) (m : Nat) (st : Nat) (hs : Kept q s) :
    Kept q (State.setJes s k rx m st) := by
  unfold State.setJes
  repeat' first
    | (with_reducible first | assumption | intro _ | exact kept_mk (by assumption))
    | (with_reducible extract_lets +onlyGivenNames x'; unfold x'; clear x')
    | (with_reducible first | apply raise_kept | apply setFld_kept | apply kept_foldl | apply kept_fold1 | apply kept_fold2)
    | (with_reducible first | apply kept_ite | apply goes_next)
    | dsimp -zeta only
    | split

theorem muteStreams_kept {q : List Instr} (s : State) (cond : Nat → Bool) (hs : Kept q s) :
    Kept q (State.muteStreams s cond) := by
  unfold State.muteStreams
  repeat' first
    | (with_reducible first | assumption | intro _ | exact kept_mk (by assumption))
    | (with_reducible extract_lets +onlyGivenNames x'; unfold x'; clear x')
    | (with_reducible first | apply paReq_kept | apply kept_foldl | apply kept_fold1 | apply kept_fold2 | apply kept_ite)
    | (with_reducible first | apply goes_next)
    | dsimp -zeta only
    | split

theorem paEnd_kept {q : List Instr} (s : State) (p : Nat) (hs : Kept q s) :
    Kept q (State.paEnd s p) := by
  unfold State.paEnd
  repeat' first
    | (with_reducible first | assumption | intro _ | exact kept_mk (by assumption))
    | (with_reducible extract_lets +onlyGivenNames x'; unfold x'; clear x')
    | (with_reducible first | apply setFld_kept | apply setPa_kept | apply setPaState_kept | apply paReq_kept | apply kept_foldl)
    | (with_reducible first | apply kept_fold1 | apply kept_fold2 | apply kept_ite | apply goes_next)
    | dsimp -zeta only
    | split

theorem pathHandover_kept {q : List Instr} (s : State) (c : Nat) (hs : Kept q s) :
    Kept q (State.pathHandover s c) := by
  unfold State.pathHandover
  repeat' first
    | (with_reducible first | assumption | intro _ | exact kept_mk (by assumption))
    | (with_reducible extract_lets +onlyGivenNames x'; unfold x'; clear x')
    | (with_reducible first | apply setRad_kept | apply bump_kept | apply setFld_kept | apply kept_foldl | apply kept_fold1)
    | (with_reducible first | apply kept_fold2 | apply kept_ite | apply goes_next)
    | dsimp -zeta only
    | split

theorem pathTick_kept {q : List Instr} (s : State) (c : Nat) (hs : Kept q s) :
    Kept q (State.pathTick s c) := by
  unfold State.pathTick
  repeat' first
    | (with_reducible first | assumption | intro _ | exact kept_mk (by assumption))
    | (with_reducible extract_lets +onlyGivenNames x'; unfold x'; clear x')
    | (with_reducible first | apply setRad_kept | apply bump_kept | apply freeBytes_kept | apply setBytes_kept)
    | (with_reducible first | apply free1_kept | apply bumpSat_kept | apply kept_foldl | apply kept_fold1 | apply kept_fold2)
    | (with_reducible first | apply kept_ite | apply goes_next)
    | dsimp -zeta only
    | split

theorem startEdge_kept {q : List Instr} (s : State) (k : Nat) (rx : Bool) (m : Nat) (t : Int) (hs : Kept q s) :
    Kept q (State.startEdge s k rx m t) := by
  unfold State.startEdge
  repeat' first
    | (with_reducible first | assumption | intro _ | exact kept_mk (by assumption))
    | (with_reducible extract_lets +onlyGivenNames x'; unfold x'; clear x')
    | (with_reducible first | apply wrN_kept | apply setRad_kept | apply wr_kept | apply setPathState_kept)
    | (with_reducible first | apply pathHandover_kept | apply kept_foldl | apply kept_fold1 | apply kept_fold2 | apply kept_ite)
    | (with_reducible first | apply goes_next)
    | dsimp -zeta only
    | split

end Sys2Proof.Machine
end

