-- ==== Sys2Proof/Laws/KeptTriggers.lean ====
section
/-! SUPPORT. What the operations of Triggers keep. -/

namespace Sys2Proof.Machine
open Sys2Proof

set_option linter.all false

theorem execTrgCtlDisarm_kept {q : List Instr} (who : Requester) (c : Fin 512) (s : State) (hs : Kept q s) :
    Goes q (execTrgCtlDisarm who c s) := by
  unfold execTrgCtlDisarm
  repeat' first
    | (with_reducible first | assumption | intro _ | exact kept_mk (by assumption))
    | (with_reducible extract_lets +onlyGivenNames x'; unfold x'; clear x')
    | (with_reducible first | apply accessHeld_kept | apply chDisarm_kept | apply kept_foldl | apply kept_fold1)
    | (with_reducible first | apply kept_fold2 | apply kept_ite | apply goes_next)
    | dsimp -zeta only
    | split

theorem chMiss_kept {q : List Instr} (s : State) (c : Nat) (n : Nat) (hs : Kept q s) :
    Kept q (State.chMiss s c n) := by
  unfold State.chMiss
  repeat' first
    | (with_reducible first | assumption | intro _ | exact kept_mk (by assumption))
    | (with_reducible extract_lets +onlyGivenNames x'; unfold x'; clear x')
    | (with_reducible first | apply raise_kept | apply missed_kept | apply kept_foldl | apply kept_fold1 | apply kept_fold2)
    | (with_reducible first | apply kept_ite | apply goes_next)
    | dsimp -zeta only
    | split

theorem snapCopy_kept {q : List Instr} (s : State) (hs : Kept q s) :
    Kept q (State.snapCopy s) := by
  unfold State.snapCopy
  repeat' first
    | (with_reducible first | assumption | intro _ | exact kept_mk (by assumption))
    | (with_reducible extract_lets +onlyGivenNames x'; unfold x'; clear x')
    | (with_reducible first | apply wr_kept | apply wrWords_kept | apply kept_foldl | apply kept_fold1 | apply kept_fold2)
    | (with_reducible first | apply kept_ite | apply goes_next)
    | dsimp -zeta only
    | split

theorem snapshot_kept {q : List Instr} (s : State) (c : Option Nat) (inst : Int) (tb : Nat) (hs : Kept q s) :
    Kept q (State.snapshot s c inst tb) := by
  unfold State.snapshot
  repeat' first
    | (with_reducible first | assumption | intro _ | exact kept_mk (by assumption))
    | (with_reducible extract_lets +onlyGivenNames x'; unfold x'; clear x')
    | (with_reducible first | apply bumpSat_kept | apply raise_kept | apply missed_kept | apply bump_kept | apply wrN_kept)
    | (with_reducible first | apply snapCopy_kept | apply setFld_kept | apply kept_foldl | apply kept_fold1 | apply kept_fold2)
    | (with_reducible first | apply kept_ite | apply goes_next)
    | dsimp -zeta only
    | split

theorem fireAction_kept {q : List Instr} (s : State) (c : Nat) (i : Int) (hs : Kept q s) :
    Kept q (State.fireAction s c i) := by
  unfold State.fireAction
  repeat' first
    | (with_reducible first | assumption | intro _ | exact kept_mk (by assumption))
    | (with_reducible extract_lets +onlyGivenNames x'; unfold x'; clear x')
    | (with_reducible first | apply setOrd_kept | apply radioFire_kept | apply windowOpen_kept | apply snapshot_kept)
    | (with_reducible first | apply winFire_kept | apply raise_kept | apply kept_foldl | apply kept_fold1 | apply kept_fold2)
    | (with_reducible first | apply kept_ite | apply goes_next)
    | dsimp -zeta only
    | split

theorem chFire_kept {q : List Instr} (s : State) (c : Nat) (i : Int) (late : Bool) (hs : Kept q s) :
    Kept q (State.chFire s c i late) := by
  unfold State.chFire
  repeat' first
    | (with_reducible first | assumption | intro _ | exact kept_mk (by assumption))
    | (with_reducible extract_lets +onlyGivenNames x'; unfold x'; clear x')
    | (with_reducible first | apply wrN_kept | apply raise_kept | apply setBit_kept | apply fireAction_kept | apply kept_foldl)
    | (with_reducible first | apply kept_fold1 | apply kept_fold2 | apply kept_ite | apply goes_next)
    | dsimp -zeta only
    | split

theorem chMove_kept {q : List Instr} (s : State) (c : Nat) (x2 : ChMove) (hs : Kept q s) :
    Kept q (State.chMove s c x2).2 := by
  unfold State.chMove
  split
  · split
    · exact chDisarm_kept _ _ hs
    · extract_lets e u lim v k last w z
      have hu : Kept q u := setNext_kept _ _ _ (chMiss_kept _ _ _ hs)
      clear_value lim u
      split
      · exact hu
      · have hv : Kept q v := kept_ite (setBit_kept _ _ _ hu) hu
        clear_value v
        split
        · exact chFire_kept _ _ _ _ (missed_kept _ _ _ hv)
        · have hz : Kept q z := chMiss_kept _ _ _ hv
          clear_value z
          split
          · exact chDisarm_kept _ _ hz
          · exact hz
  · extract_lets v tb one u w
    have hu : Kept q u := chHandover_kept _ _ hs
    clear_value u one
    split
    · split
      · exact setNext_kept _ _ _ (chSetState_kept _ _ _ hu)
      · split
        · exact chDisarm_kept _ _ hu
        · split
          · exact hu
          · exact chDisarm_kept _ _ hu
    · split
      · exact chDisarm_kept _ _ hs
      · exact hs

theorem chRun_kept {q : List Instr} (x0 : Nat) (x1 : Nat) (x2 : ChMove) (x3 : State) (hx3 : Kept q x3) :
    Kept q (State.chRun x0 x1 x2 x3) := by
  induction x0 generalizing x2 x3 with
  | zero => exact hx3
  | succ n ih =>
    unfold State.chRun
    have h := chMove_kept x3 x1 x2 hx3
    split
    · rename_i e
      rw [e] at h
      exact ih _ _ h
    · rename_i e
      rw [e] at h
      exact h

theorem chArmNow_kept {q : List Instr} (s : State) (c : Nat) (hs : Kept q s) :
    Kept q (State.chArmNow s c) := by
  unfold State.chArmNow
  repeat' first
    | (with_reducible first | assumption | intro _ | exact kept_mk (by assumption))
    | (with_reducible extract_lets +onlyGivenNames x'; unfold x'; clear x')
    | (with_reducible first | apply chSetState_kept | apply chDisarm_kept | apply chRun_kept | apply kept_foldl)
    | (with_reducible first | apply kept_fold1 | apply kept_fold2 | apply kept_ite | apply goes_next)
    | dsimp -zeta only
    | split

theorem chCommit_kept {q : List Instr} (s : State) (c : Nat) (hs : Kept q s) :
    Kept q (State.chCommit s c) := by
  unfold State.chCommit
  repeat' first
    | (with_reducible first | assumption | intro _ | exact kept_mk (by assumption))
    | (with_reducible extract_lets +onlyGivenNames x'; unfold x'; clear x')
    | (with_reducible first | apply setFld_kept | apply chHandover_kept | apply chSetState_kept | apply chArmNow_kept)
    | (with_reducible first | apply kept_foldl | apply kept_fold1 | apply kept_fold2 | apply kept_ite | apply goes_next)
    | dsimp -zeta only
    | split

theorem execTrgCtlCommit_kept {q : List Instr} (who : Requester) (c : Fin 512) (s : State) (hs : Kept q s) :
    Goes q (execTrgCtlCommit who c s) := by
  unfold execTrgCtlCommit
  repeat' first
    | (with_reducible first | assumption | intro _ | exact kept_mk (by assumption))
    | (with_reducible extract_lets +onlyGivenNames x'; unfold x'; clear x')
    | (with_reducible first | apply accessHeld_kept | apply chCommit_kept | apply kept_foldl | apply kept_fold1)
    | (with_reducible first | apply kept_fold2 | apply kept_ite | apply goes_next)
    | dsimp -zeta only
    | split

theorem execTrgShadowWrite_kept {q : List Instr} (who : Requester) (c : Fin 512) (w : Fin 6) (value : W32) (s : State) (hs : Kept q s) :
    Goes q (execTrgShadowWrite who c w value s) := by
  unfold execTrgShadowWrite
  repeat' first
    | (with_reducible first | assumption | intro _ | exact kept_mk (by assumption))
    | (with_reducible extract_lets +onlyGivenNames x'; unfold x'; clear x')
    | (with_reducible first | apply accessHeld_kept | apply setFld_kept | apply wrN_kept | apply kept_foldl | apply kept_fold1)
    | (with_reducible first | apply kept_fold2 | apply kept_ite | apply goes_next)
    | dsimp -zeta only
    | split

theorem chArm_kept {q : List Instr} (s : State) (c : Nat) (ws : List W32) (hs : Kept q s) :
    Kept q (State.chArm s c ws) := by
  unfold State.chArm
  repeat' first
    | (with_reducible first | assumption | intro _ | exact kept_mk (by assumption))
    | (with_reducible extract_lets +onlyGivenNames x'; unfold x'; clear x')
    | (with_reducible first | apply chCommit_kept | apply wrWords_kept | apply kept_foldl | apply kept_fold1 | apply kept_fold2)
    | (with_reducible first | apply kept_ite | apply goes_next)
    | dsimp -zeta only
    | split

theorem chEvent_kept {q : List Instr} (s : State) (c : Nat) (hs : Kept q s) :
    Kept q (State.chEvent s c) := by
  unfold State.chEvent
  repeat' first
    | (with_reducible first | assumption | intro _ | exact kept_mk (by assumption))
    | (with_reducible extract_lets +onlyGivenNames x'; unfold x'; clear x')
    | (with_reducible first | apply chArmNow_kept | apply kept_foldl | apply kept_fold1 | apply kept_fold2 | apply kept_ite)
    | (with_reducible first | apply goes_next)
    | dsimp -zeta only
    | split

theorem snapDue_kept {q : List Instr} (s : State) (hs : Kept q s) :
    Kept q (State.snapDue s) := by
  unfold State.snapDue
  repeat' first
    | (with_reducible first | assumption | intro _ | exact kept_mk (by assumption))
    | (with_reducible extract_lets +onlyGivenNames x'; unfold x'; clear x')
    | (with_reducible first | apply snapshot_kept | apply slotEnd_kept | apply kept_foldl | apply kept_fold1 | apply kept_fold2)
    | (with_reducible first | apply kept_ite | apply goes_next)
    | dsimp -zeta only
    | split

theorem execTimeBaseStepApply_kept {q : List Instr} (b : Fin 8) (s : State) (hs : Kept q s) :
    Goes q (execTimeBaseStepApply b s) := by
  unfold execTimeBaseStepApply
  repeat' first
    | (with_reducible first | assumption | intro _ | exact kept_mk (by assumption))
    | (with_reducible extract_lets +onlyGivenNames x'; unfold x'; clear x')
    | (with_reducible first | apply setFld_kept | apply raise_kept | apply setBit_kept | apply chRun_kept | apply slotEnd_kept)
    | (with_reducible first | apply kept_foldl | apply kept_fold1 | apply kept_fold2 | apply kept_ite | apply goes_next)
    | dsimp -zeta only
    | split

theorem execGridFrameBoundary_kept {q : List Instr} (g : Fin 256) (s : State) (hs : Kept q s) :
    Goes q (execGridFrameBoundary g s) := by
  unfold execGridFrameBoundary
  repeat' first
    | (with_reducible first | assumption | intro _ | exact kept_mk (by assumption))
    | (with_reducible extract_lets +onlyGivenNames x'; unfold x'; clear x')
    | (with_reducible first | apply gridBoundary_kept | apply chRun_kept | apply kept_foldl | apply kept_fold1)
    | (with_reducible first | apply kept_fold2 | apply kept_ite | apply goes_next)
    | dsimp -zeta only
    | split

theorem execTrgAlloc_kept {q : List Instr} (d : Desc) (s : State) (hs : Kept q s) :
    Goes q (execTrgAlloc d s) := by
  unfold execTrgAlloc
  extract_lets dev free
  refine goes_next (commandNow_kept _ _ _ _ _ (fun s hs => ?_) hs)
  have hp := pick_kept s (free s) hs
  split
  · rename_i c t e
    rw [e] at hp
    exact chAssign_kept _ _ _ hp
  · rename_i t e
    rw [e] at hp
    exact hp

theorem execTrgArm_kept {q : List Instr} (d : Desc) (s : State) (hs : Kept q s) :
    Goes q (execTrgArm d s) := by
  unfold execTrgArm
  repeat' first
    | (with_reducible first | assumption | intro _ | exact kept_mk (by assumption))
    | (with_reducible extract_lets +onlyGivenNames x'; unfold x'; clear x')
    | (with_reducible first | apply commandNow_kept | apply chArm_kept | apply kept_foldl | apply kept_fold1 | apply kept_fold2)
    | (with_reducible first | apply kept_ite | apply goes_next)
    | dsimp -zeta only
    | split

theorem execTrgDisarm_kept {q : List Instr} (d : Desc) (s : State) (hs : Kept q s) :
    Goes q (execTrgDisarm d s) := by
  unfold execTrgDisarm
  repeat' first
    | (with_reducible first | assumption | intro _ | exact kept_mk (by assumption))
    | (with_reducible extract_lets +onlyGivenNames x'; unfold x'; clear x')
    | (with_reducible first | apply commandNow_kept | apply chDisarm_kept | apply kept_foldl | apply kept_fold1)
    | (with_reducible first | apply kept_fold2 | apply kept_ite | apply goes_next)
    | dsimp -zeta only
    | split

theorem execTrgFree_kept {q : List Instr} (d : Desc) (s : State) (hs : Kept q s) :
    Goes q (execTrgFree d s) := by
  unfold execTrgFree
  repeat' first
    | (with_reducible first | assumption | intro _ | exact kept_mk (by assumption))
    | (with_reducible extract_lets +onlyGivenNames x'; unfold x'; clear x')
    | (with_reducible first | apply commandNow_kept | apply chFree_kept | apply kept_foldl | apply kept_fold1 | apply kept_fold2)
    | (with_reducible first | apply kept_ite | apply goes_next)
    | dsimp -zeta only
    | split

theorem execTrgQuery_kept {q : List Instr} (d : Desc) (s : State) (hs : Kept q s) :
    Goes q (execTrgQuery d s) := by
  unfold execTrgQuery
  repeat' first
    | (with_reducible first | assumption | intro _ | exact kept_mk (by assumption))
    | (with_reducible extract_lets +onlyGivenNames x'; unfold x'; clear x')
    | (with_reducible first | apply commandNow_kept | apply kept_foldl | apply kept_fold1 | apply kept_fold2 | apply kept_ite)
    | (with_reducible first | apply goes_next)
    | dsimp -zeta only
    | split

theorem execTriggerFire_kept {q : List Instr} (c : Fin 512) (s : State) (hs : Kept q s) :
    Goes q (execTriggerFire c s) := by
  unfold execTriggerFire
  repeat' first
    | (with_reducible first | assumption | intro _ | exact kept_mk (by assumption))
    | (with_reducible extract_lets +onlyGivenNames x'; unfold x'; clear x')
    | (with_reducible first | apply chDisarm_kept | apply chRun_kept | apply chFire_kept | apply kept_foldl | apply kept_fold1)
    | (with_reducible first | apply kept_fold2 | apply kept_ite | apply goes_next)
    | dsimp -zeta only
    | split

end Sys2Proof.Machine
end

