-- ==== Sys2Proof/Laws/KeptFronthaul.lean ====
section
/-! SUPPORT. What the operations of Fronthaul keep. -/

namespace Sys2Proof.Machine
open Sys2Proof

set_option linter.all false

theorem execStAccRead_kept {q : List Instr} (who : Requester) (f : Fin 2) (s : State) (hs : Kept q s) :
    Goes q (execStAccRead who f s) := by
  unfold execStAccRead
  repeat' first
    | (with_reducible first | assumption | intro _ | exact kept_mk (by assumption))
    | (with_reducible extract_lets +onlyGivenNames x'; unfold x'; clear x')
    | (with_reducible first | apply accessHeld_kept | apply setFld_kept | apply wrWords_kept | apply kept_foldl)
    | (with_reducible first | apply kept_fold1 | apply kept_fold2 | apply kept_ite | apply goes_next)
    | dsimp -zeta only
    | split

theorem execStAccWrite_kept {q : List Instr} (who : Requester) (f : Fin 2) (s : State) (hs : Kept q s) :
    Goes q (execStAccWrite who f s) := by
  unfold execStAccWrite
  repeat' first
    | (with_reducible first | assumption | intro _ | exact kept_mk (by assumption))
    | (with_reducible extract_lets +onlyGivenNames x'; unfold x'; clear x')
    | (with_reducible first | apply accessHeld_kept | apply setFld_kept | apply stWrite_kept | apply setBit_kept)
    | (with_reducible first | apply kept_foldl | apply kept_fold1 | apply kept_fold2 | apply kept_ite | apply goes_next)
    | dsimp -zeta only
    | split

theorem windowRealmReset_kept {q : List Instr} (s : State) (r : Nat) (hs : Kept q s) :
    Kept q (State.windowRealmReset s r) := by
  unfold State.windowRealmReset
  repeat' first
    | (with_reducible first | assumption | intro _ | exact kept_mk (by assumption))
    | (with_reducible extract_lets +onlyGivenNames x'; unfold x'; clear x')
    | (with_reducible first | apply windowFree_kept | apply kept_foldl | apply kept_fold1 | apply kept_fold2 | apply kept_ite)
    | (with_reducible first | apply goes_next)
    | dsimp -zeta only
    | split

theorem ethDown_kept {q : List Instr} (s : State) (p : Nat) (hs : Kept q s) :
    Kept q (State.ethDown s p) := by
  unfold State.ethDown
  repeat' first
    | (with_reducible first | assumption | intro _ | exact kept_mk (by assumption))
    | (with_reducible extract_lets +onlyGivenNames x'; unfold x'; clear x')
    | (with_reducible first | apply setEth_kept | apply bump_kept | apply setFld_kept | apply kept_foldl | apply kept_fold1)
    | (with_reducible first | apply kept_fold2 | apply kept_ite | apply goes_next)
    | dsimp -zeta only
    | split

theorem fhDone_kept {q : List Instr} (s : State) (r : RingId) (f : Nat) (realm : Nat) (status : Nat) (o : Nat) (ws : List Nat) (hs : Kept q s) :
    Kept q (State.fhDone s r f realm status o ws) := by
  unfold State.fhDone
  repeat' first
    | (with_reducible first | assumption | intro _ | exact kept_mk (by assumption))
    | (with_reducible extract_lets +onlyGivenNames x'; unfold x'; clear x')
    | (with_reducible first | apply writeBack_kept | apply wrN_kept | apply complete_kept | apply kept_foldl | apply kept_fold1)
    | (with_reducible first | apply kept_fold2 | apply kept_ite | apply goes_next)
    | dsimp -zeta only
    | split

theorem fhWrite_kept {q : List Instr} (s : State) (f : Nat) (a : Nat) (bs : List Byte) (hs : Kept q s) :
    Kept q (State.fhWrite s f a bs) := by
  unfold State.fhWrite
  repeat' first
    | (with_reducible first | assumption | intro _ | exact kept_mk (by assumption))
    | (with_reducible extract_lets +onlyGivenNames x'; unfold x'; clear x')
    | (with_reducible first | apply firstWake_kept | apply unpoison_kept | apply setBytes_kept | apply kept_foldl)
    | (with_reducible first | apply kept_fold1 | apply kept_fold2 | apply kept_ite | apply goes_next)
    | dsimp -zeta only
    | split

theorem msecRx_kept {q : List Instr} (s : State) (p : Nat) (f : List Byte) (msec : Nat) (hs : Kept q s) :
    Kept q (State.msecRx s p f msec).1 := by
  unfold State.msecRx
  repeat' first
    | (with_reducible first | assumption | intro _ | exact kept_mk (by assumption))
    | (with_reducible extract_lets +onlyGivenNames x'; unfold x'; clear x')
    | (with_reducible first | apply bump_kept | apply kept_foldl | apply kept_fold1 | apply kept_fold2 | apply kept_ite)
    | (with_reducible first | apply goes_next)
    | dsimp -zeta only
    | split

theorem setMacSa_kept {q : List Instr} (s : State) (k : Nat) (x : Option MacSa) (hs : Kept q s) :
    Kept q (State.setMacSa s k x) := by
  unfold State.setMacSa
  repeat' first
    | (with_reducible first | assumption | intro _ | exact kept_mk (by assumption))
    | (with_reducible extract_lets +onlyGivenNames x'; unfold x'; clear x')
    | (with_reducible first | apply setFh_kept | apply kept_foldl | apply kept_fold1 | apply kept_fold2 | apply kept_ite)
    | (with_reducible first | apply goes_next)
    | dsimp -zeta only
    | split

theorem msecTx_kept {q : List Instr} (s : State) (p : Nat) (f : List Byte) (hs : Kept q s) :
    Kept q (State.msecTx s p f).1 := by
  unfold State.msecTx
  repeat' first
    | (with_reducible first | assumption | intro _ | exact kept_mk (by assumption))
    | (with_reducible extract_lets +onlyGivenNames x'; unfold x'; clear x')
    | (with_reducible first | apply bump_kept | apply setMacSa_kept | apply raise_kept | apply kept_foldl | apply kept_fold1)
    | (with_reducible first | apply kept_fold2 | apply kept_ite | apply goes_next)
    | dsimp -zeta only
    | split

theorem rxAccept_kept {q : List Instr} (s : State) (p : Nat) (f : List Byte) (fcsOk : Bool) (hs : Kept q s) :
    Kept q (State.rxAccept s p f fcsOk).1 := by
  unfold State.rxAccept
  repeat' first
    | (with_reducible first | assumption | intro _ | exact kept_mk (by assumption))
    | (with_reducible extract_lets +onlyGivenNames x'; unfold x'; clear x')
    | (with_reducible first | apply bump_kept | apply kept_foldl | apply kept_fold1 | apply kept_fold2 | apply kept_ite)
    | (with_reducible first | apply goes_next)
    | dsimp -zeta only
    | split

theorem rxDeliver_kept {q : List Instr} (s : State) (f : Nat) (r : RingId) (realm : Nat) (p : Nat) (cls : Nat) (stamp : List W32) (fr : List Byte) (x8 : Nat) (hs : Kept q s) :
    Kept q (State.rxDeliver s f r realm p cls stamp fr x8).1 := by
  induction x8 generalizing s with
  | zero => exact hs
  | succ n ih =>
    unfold State.rxDeliver
    split
    · exact hs
    · extract_lets b w st a t u
      split
      · exact ih _ (fhDone_kept _ _ _ _ _ _ _ hs)
      · exact fhDone_kept _ _ _ _ _ _ _ (writeBack_kept _ _ _ _ (fhWrite_kept _ _ _ _ hs))

theorem sendFrame_kept {q : List Instr} (s : State) (p : Nat) (f : List Byte) (hs : Kept q s) :
    Kept q (State.sendFrame s p f) := by
  unfold State.sendFrame
  repeat' first
    | (with_reducible first | assumption | intro _ | exact kept_mk (by assumption))
    | (with_reducible extract_lets +onlyGivenNames x'; unfold x'; clear x')
    | (with_reducible first | apply msecTx_kept | apply setFh_kept | apply bump_kept | apply kept_foldl | apply kept_fold1)
    | (with_reducible first | apply kept_fold2 | apply kept_ite | apply goes_next)
    | dsimp -zeta only
    | split

theorem stWriteAll_kept {q : List Instr} (s : State) (r : Nat) (g : Nat) (x3 : List Nat) (hs : Kept q s) :
    Kept q (State.stWriteAll s r g x3).1 := by
  induction x3 generalizing s g with
  | nil => exact hs
  | cons i rest ih =>
    unfold State.stWriteAll
    extract_lets st p
    split
    · exact hs
    · exact ih _ _ (stWrite_kept _ _ _ hs)

theorem txCount_kept {q : List Instr} (s : State) (i : Nat) (hs : Kept q s) :
    Kept q (State.txCount s i) := by
  unfold State.txCount
  repeat' first
    | (with_reducible first | assumption | intro _ | exact kept_mk (by assumption))
    | (with_reducible extract_lets +onlyGivenNames x'; unfold x'; clear x')
    | (with_reducible first | apply setStW_kept | apply stCount_kept | apply kept_foldl | apply kept_fold1 | apply kept_fold2)
    | (with_reducible first | apply kept_ite | apply goes_next)
    | dsimp -zeta only
    | split

theorem writeSect_kept {q : List Instr} (s : State) (f : Nat) (i : Nat) (n : Int) (u : USect) (hs : Kept q s) :
    Kept q (State.writeSect s f i n u) := by
  unfold State.writeSect
  repeat' first
    | (with_reducible first | assumption | intro _ | exact kept_mk (by assumption))
    | (with_reducible extract_lets +onlyGivenNames x'; unfold x'; clear x')
    | (with_reducible first | apply fhWrite_kept | apply kept_foldl | apply kept_fold1 | apply kept_fold2 | apply kept_ite)
    | (with_reducible first | apply goes_next)
    | dsimp -zeta only
    | split

theorem uMessage_kept {q : List Instr} (s : State) (p : Nat) (i : Nat) (m : List Byte) (hs : Kept q s) :
    Kept q (State.uMessage s p i m) := by
  unfold State.uMessage
  repeat' first
    | (with_reducible first | assumption | intro _ | exact kept_mk (by assumption))
    | (with_reducible extract_lets +onlyGivenNames x'; unfold x'; clear x')
    | (with_reducible first | apply stCount_kept | apply setStW_kept | apply writeSect_kept | apply setWindow_kept)
    | (with_reducible first | apply setStat_kept | apply bump_kept | apply windowWake_kept | apply kept_foldl | apply kept_fold1)
    | (with_reducible first | apply kept_fold2 | apply kept_ite | apply goes_next)
    | dsimp -zeta only
    | split

theorem uSend_kept {q : List Instr} (s : State) (p : Nat) (i : Nat) (G : Nat) (w5 : Nat) (sect : Nat) (per : Nat) (h0 : List Byte) (x8 : Nat) (x9 : Nat) (x10 : List (List Byte)) (x11 : Nat) (hs : Kept q s) :
    Kept q (State.uSend s p i G w5 sect per h0 x8 x9 x10 x11).1 := by
  induction x8 generalizing s x9 x10 x11 with
  | zero => exact hs
  | succ n ih =>
    unfold State.uSend
    split
    · exact hs
    · exact ih _ _ _ _ (txCount_kept _ _ (sendFrame_kept _ _ _ hs))

theorem execEthConfig_kept {q : List Instr} (d : Desc) (s : State) (hs : Kept q s) :
    Goes q (execEthConfig d s) := by
  unfold execEthConfig
  repeat' first
    | (with_reducible first | assumption | intro _ | exact kept_mk (by assumption))
    | (with_reducible extract_lets +onlyGivenNames x'; unfold x'; clear x')
    | (with_reducible first | apply commandNow_kept | apply wrN_kept | apply wr_kept | apply setEth_kept | apply setFld_kept)
    | (with_reducible first | apply kept_foldl | apply kept_fold1 | apply kept_fold2 | apply kept_ite | apply goes_next)
    | dsimp -zeta only
    | split

theorem execPortLinkUp_kept {q : List Instr} (port : Fin 32) (s : State) (hs : Kept q s) :
    Goes q (execPortLinkUp port s) := by
  unfold execPortLinkUp
  repeat' first
    | (with_reducible first | assumption | intro _ | exact kept_mk (by assumption))
    | (with_reducible extract_lets +onlyGivenNames x'; unfold x'; clear x')
    | (with_reducible first | apply setEth_kept | apply setFld_kept | apply kept_foldl | apply kept_fold1 | apply kept_fold2)
    | (with_reducible first | apply kept_ite | apply goes_next)
    | dsimp -zeta only
    | split

theorem execPortLinkDown_kept {q : List Instr} (port : Fin 32) (s : State) (hs : Kept q s) :
    Goes q (execPortLinkDown port s) := by
  unfold execPortLinkDown
  repeat' first
    | (with_reducible first | assumption | intro _ | exact kept_mk (by assumption))
    | (with_reducible extract_lets +onlyGivenNames x'; unfold x'; clear x')
    | (with_reducible first | apply ethDown_kept | apply kept_foldl | apply kept_fold1 | apply kept_fold2 | apply kept_ite)
    | (with_reducible first | apply goes_next)
    | dsimp -zeta only
    | split

theorem execEthQuery_kept {q : List Instr} (d : Desc) (s : State) (hs : Kept q s) :
    Goes q (execEthQuery d s) := by
  unfold execEthQuery
  repeat' first
    | (with_reducible first | assumption | intro _ | exact kept_mk (by assumption))
    | (with_reducible extract_lets +onlyGivenNames x'; unfold x'; clear x')
    | (with_reducible first | apply commandNow_kept | apply kept_foldl | apply kept_fold1 | apply kept_fold2 | apply kept_ite)
    | (with_reducible first | apply goes_next)
    | dsimp -zeta only
    | split

theorem execFhStream_kept {q : List Instr} (d : Desc) (s : State) (hs : Kept q s) :
    Goes q (execFhStream d s) := by
  unfold execFhStream
  repeat' first
    | (with_reducible first | assumption | intro _ | exact kept_mk (by assumption))
    | (with_reducible extract_lets +onlyGivenNames x'; unfold x'; clear x')
    | (with_reducible first | apply commandNow_kept | apply stWriteAll_kept | apply kept_foldl | apply kept_fold1)
    | (with_reducible first | apply kept_fold2 | apply kept_ite | apply goes_next)
    | dsimp -zeta only
    | split

theorem execFhWindow_kept {q : List Instr} (d : Desc) (s : State) (hs : Kept q s) :
    Goes q (execFhWindow d s) := by
  unfold execFhWindow
  repeat' first
    | (with_reducible first | assumption | intro _ | exact kept_mk (by assumption))
    | (with_reducible extract_lets +onlyGivenNames x'; unfold x'; clear x')
    | (with_reducible first | apply commandNow_kept | apply chDisarm_kept | apply windowFree_kept | apply wrWords_kept)
    | (with_reducible first | apply chArm_kept | apply kept_foldl | apply kept_fold1 | apply kept_fold2 | apply kept_ite)
    | (with_reducible first | apply goes_next)
    | dsimp -zeta only
    | split

theorem execFhRing_kept {q : List Instr} (d : Desc) (s : State) (hs : Kept q s) :
    Goes q (execFhRing d s) := by
  unfold execFhRing
  repeat' first
    | (with_reducible first | assumption | intro _ | exact kept_mk (by assumption))
    | (with_reducible extract_lets +onlyGivenNames x'; unfold x'; clear x')
    | (with_reducible first | apply commandNow_kept | apply ringCfgWrite_kept | apply ringHeadwbWrite_kept)
    | (with_reducible first | apply ringBaseWrite_kept | apply wrN_kept | apply wr_kept | apply kept_foldl | apply kept_fold1)
    | (with_reducible first | apply kept_fold2 | apply kept_ite | apply goes_next)
    | dsimp -zeta only
    | split

theorem execFhHdr_kept {q : List Instr} (d : Desc) (s : State) (hs : Kept q s) :
    Goes q (execFhHdr d s) := by
  unfold execFhHdr
  repeat' first
    | (with_reducible first | assumption | intro _ | exact kept_mk (by assumption))
    | (with_reducible extract_lets +onlyGivenNames x'; unfold x'; clear x')
    | (with_reducible first | apply commandNow_kept | apply setFh_kept | apply kept_foldl | apply kept_fold1 | apply kept_fold2)
    | (with_reducible first | apply kept_ite | apply kept_getD | apply kept_getD1 | apply goes_next)
    | dsimp -zeta only
    | split

theorem execMacsecSa_kept {q : List Instr} (d : Desc) (s : State) (hs : Kept q s) :
    Goes q (execMacsecSa d s) := by
  unfold execMacsecSa
  repeat' first
    | (with_reducible first | assumption | intro _ | exact kept_mk (by assumption))
    | (with_reducible extract_lets +onlyGivenNames x'; unfold x'; clear x')
    | (with_reducible first | apply commandNow_kept | apply setMacSa_kept | apply kept_foldl | apply kept_fold1)
    | (with_reducible first | apply kept_fold2 | apply kept_ite | apply goes_next)
    | dsimp -zeta only
    | split

theorem execEthCal_kept {q : List Instr} (d : Desc) (s : State) (hs : Kept q s) :
    Goes q (execEthCal d s) := by
  unfold execEthCal
  repeat' first
    | (with_reducible first | assumption | intro _ | exact kept_mk (by assumption))
    | (with_reducible extract_lets +onlyGivenNames x'; unfold x'; clear x')
    | (with_reducible first | apply commandNow_kept | apply calSet_kept | apply kept_foldl | apply kept_fold1 | apply kept_fold2)
    | (with_reducible first | apply kept_ite | apply goes_next)
    | dsimp -zeta only
    | split

theorem execUPlaneIngress_kept {q : List Instr} (port : Fin 32) (frame : List Byte) (fcsOk : Bool) (msec : Fin 4) (s : State) (hs : Kept q s) :
    Goes q (execUPlaneIngress port frame fcsOk msec s) := by
  unfold execUPlaneIngress
  repeat' first
    | (with_reducible first | assumption | intro _ | exact kept_mk (by assumption))
    | (with_reducible extract_lets +onlyGivenNames x'; unfold x'; clear x')
    | (with_reducible first | apply rxAccept_kept | apply msecRx_kept | apply stCount_kept | apply uMessage_kept)
    | (with_reducible first | apply bumpSat_kept | apply kept_foldl | apply kept_fold1 | apply kept_fold2 | apply kept_ite)
    | (with_reducible first | apply goes_next)
    | dsimp -zeta only
    | split

theorem execWindowClose_kept {q : List Instr} (f : Fin 2) (g : Fin 64) (s : State) (hs : Kept q s) :
    Goes q (execWindowClose f g s) := by
  unfold execWindowClose
  repeat' first
    | (with_reducible first | assumption | intro _ | exact kept_mk (by assumption))
    | (with_reducible extract_lets +onlyGivenNames x'; unfold x'; clear x')
    | (with_reducible first | apply windowClose_kept | apply kept_foldl | apply kept_fold1 | apply kept_fold2 | apply kept_ite)
    | (with_reducible first | apply goes_next)
    | dsimp -zeta only
    | split

theorem execFrameIngress_kept {q : List Instr} (port : Fin 32) (frame : List Byte) (fcsOk : Bool) (msec : Fin 4) (s : State) (hs : Kept q s) :
    Goes q (execFrameIngress port frame fcsOk msec s) := by
  unfold execFrameIngress
  repeat' first
    | (with_reducible first | assumption | intro _ | exact kept_mk (by assumption))
    | (with_reducible extract_lets +onlyGivenNames x'; unfold x'; clear x')
    | (with_reducible first | apply rxAccept_kept | apply msecRx_kept | apply bumpSat_kept | apply rxDeliver_kept)
    | (with_reducible first | apply raise_kept | apply kept_foldl | apply kept_fold1 | apply kept_fold2 | apply kept_ite)
    | (with_reducible first | apply goes_next)
    | dsimp -zeta only
    | split

theorem execUTx_kept {q : List Instr} (j : Job) (room : BitVec 16) (s : State) (hs : Kept q s) :
    Goes q (execUTx j room s) := by
  unfold execUTx
  repeat' first
    | (with_reducible first | assumption | intro _ | exact kept_mk (by assumption))
    | (with_reducible extract_lets +onlyGivenNames x'; unfold x'; clear x')
    | (with_reducible first | apply fhDone_kept | apply stCount_kept | apply uSend_kept | apply kept_foldl | apply kept_fold1)
    | (with_reducible first | apply kept_fold2 | apply kept_ite | apply kept_getD | apply kept_getD1 | apply goes_next)
    | dsimp -zeta only
    | split

theorem execCTx_kept {q : List Instr} (j : Job) (room : Bool) (s : State) (hs : Kept q s) :
    Goes q (execCTx j room s) := by
  unfold execCTx
  repeat' first
    | (with_reducible first | assumption | intro _ | exact kept_mk (by assumption))
    | (with_reducible extract_lets +onlyGivenNames x'; unfold x'; clear x')
    | (with_reducible first | apply fhDone_kept | apply stCount_kept | apply txCount_kept | apply sendFrame_kept)
    | (with_reducible first | apply kept_foldl | apply kept_fold1 | apply kept_fold2 | apply kept_ite | apply kept_getD)
    | (with_reducible first | apply kept_getD1 | apply goes_next)
    | dsimp -zeta only
    | split

theorem execFrameTx_kept {q : List Instr} (j : Job) (s : State) (hs : Kept q s) :
    Goes q (execFrameTx j s) := by
  unfold execFrameTx
  split
  · exact goes_next hs
  · split
    · exact goes_next hs
    · extract_lets p len mode o full ts fv fol st fr tb t w sec ing new u
      split
      · exact goes_next (fhDone_kept _ _ _ _ _ _ _ hs)
      · exact goes_next (fhDone_kept _ _ _ _ _ _ _ (sendFrame_kept _ _ _ hs))

theorem execRxBuf_kept {q : List Instr} (j : Job) (s : State) (hs : Kept q s) :
    Goes q (execRxBuf j s) := by
  unfold execRxBuf
  repeat' first
    | (with_reducible first | assumption | intro _ | exact kept_mk (by assumption))
    | (with_reducible extract_lets +onlyGivenNames x'; unfold x'; clear x')
    | (with_reducible first | apply fhDone_kept | apply kept_foldl | apply kept_fold1 | apply kept_fold2 | apply kept_ite)
    | (with_reducible first | apply goes_next)
    | dsimp -zeta only
    | split

theorem execStreamTableError_kept {q : List Instr} (f : Fin 2) (idx : Fin 16384) (s : State) (hs : Kept q s) :
    Goes q (execStreamTableError f idx s) := by
  unfold execStreamTableError
  repeat' first
    | (with_reducible first | assumption | intro _ | exact kept_mk (by assumption))
    | (with_reducible extract_lets +onlyGivenNames x'; unfold x'; clear x')
    | (with_reducible first | apply setStW_kept | apply raise_kept | apply setBit_kept | apply kept_foldl | apply kept_fold1)
    | (with_reducible first | apply kept_fold2 | apply kept_ite | apply goes_next)
    | dsimp -zeta only
    | split

end Sys2Proof.Machine
end

