-- ==== Sys2Proof/Laws/KeptNoc.lean ====
section
/-! SUPPORT. What the operations of Noc keep. -/

namespace Sys2Proof.Machine
open Sys2Proof

set_option linter.all false

theorem execEccCorrRead_kept {q : List Instr} (who : Requester) (unit : Fin 15) (s : State) (hs : Kept q s) :
    Goes q (execEccCorrRead who unit s) := by
  unfold execEccCorrRead
  repeat' first
    | (with_reducible first | assumption | intro _ | exact kept_mk (by assumption))
    | (with_reducible extract_lets +onlyGivenNames x'; unfold x'; clear x')
    | (with_reducible first | apply access_kept | apply setFld_kept | apply wr_kept | apply kept_foldl | apply kept_fold1)
    | (with_reducible first | apply kept_fold2 | apply kept_ite | apply goes_next)
    | dsimp -zeta only
    | split

theorem rtStatus_kept {q : List Instr} (s : State) (v : Nat) (hs : Kept q s) :
    Kept q (State.rtStatus s v) := by
  unfold State.rtStatus
  repeat' first
    | (with_reducible first | assumption | intro _ | exact kept_mk (by assumption))
    | (with_reducible extract_lets +onlyGivenNames x'; unfold x'; clear x')
    | (with_reducible first | apply setFld_kept | apply kept_foldl | apply kept_fold1 | apply kept_fold2 | apply kept_ite)
    | (with_reducible first | apply goes_next)
    | dsimp -zeta only
    | split

theorem execRtAccRead_kept {q : List Instr} (who : Requester) (s : State) (hs : Kept q s) :
    Goes q (execRtAccRead who s) := by
  unfold execRtAccRead
  repeat' first
    | (with_reducible first | assumption | intro _ | exact kept_mk (by assumption))
    | (with_reducible extract_lets +onlyGivenNames x'; unfold x'; clear x')
    | (with_reducible first | apply accessHeld_kept | apply rtStatus_kept | apply setFld_kept | apply kept_foldl)
    | (with_reducible first | apply kept_fold1 | apply kept_fold2 | apply kept_ite | apply goes_next)
    | dsimp -zeta only
    | split

theorem setNoc_kept {q : List Instr} (s : State) (x : NocState) (hs : Kept q s) :
    Kept q (State.setNoc s x) := by
  unfold State.setNoc
  repeat' first
    | (with_reducible first | assumption | intro _ | exact kept_mk (by assumption))
    | (with_reducible extract_lets +onlyGivenNames x'; unfold x'; clear x')
    | (with_reducible first | apply kept_foldl | apply kept_fold1 | apply kept_fold2 | apply kept_ite | apply goes_next)
    | dsimp -zeta only
    | split

theorem setRoute_kept {q : List Instr} (s : State) (bank : Nat) (n : Nat) (grp : Nat) (dst : Nat) (v : Nat) (hs : Kept q s) :
    Kept q (State.setRoute s bank n grp dst v) := by
  unfold State.setRoute
  repeat' first
    | (with_reducible first | assumption | intro _ | exact kept_mk (by assumption))
    | (with_reducible extract_lets +onlyGivenNames x'; unfold x'; clear x')
    | (with_reducible first | apply setNoc_kept | apply kept_foldl | apply kept_fold1 | apply kept_fold2 | apply kept_ite)
    | (with_reducible first | apply goes_next)
    | dsimp -zeta only
    | split

theorem execRtAccWrite_kept {q : List Instr} (who : Requester) (s : State) (hs : Kept q s) :
    Goes q (execRtAccWrite who s) := by
  unfold execRtAccWrite
  repeat' first
    | (with_reducible first | assumption | intro _ | exact kept_mk (by assumption))
    | (with_reducible extract_lets +onlyGivenNames x'; unfold x'; clear x')
    | (with_reducible first | apply accessHeld_kept | apply rtStatus_kept | apply setRoute_kept | apply kept_foldl)
    | (with_reducible first | apply kept_fold1 | apply kept_fold2 | apply kept_ite | apply goes_next)
    | dsimp -zeta only
    | split

theorem copyBank_kept {q : List Instr} (s : State) (hs : Kept q s) :
    Kept q (State.copyBank s) := by
  unfold State.copyBank
  repeat' first
    | (with_reducible first | assumption | intro _ | exact kept_mk (by assumption))
    | (with_reducible extract_lets +onlyGivenNames x'; unfold x'; clear x')
    | (with_reducible first | apply setNoc_kept | apply kept_foldl | apply kept_fold1 | apply kept_fold2 | apply kept_ite)
    | (with_reducible first | apply goes_next)
    | dsimp -zeta only
    | split

theorem execRtAccCopy_kept {q : List Instr} (who : Requester) (s : State) (hs : Kept q s) :
    Goes q (execRtAccCopy who s) := by
  unfold execRtAccCopy
  repeat' first
    | (with_reducible first | assumption | intro _ | exact kept_mk (by assumption))
    | (with_reducible extract_lets +onlyGivenNames x'; unfold x'; clear x')
    | (with_reducible first | apply accessHeld_kept | apply rtStatus_kept | apply copyBank_kept | apply kept_foldl)
    | (with_reducible first | apply kept_fold1 | apply kept_fold2 | apply kept_ite | apply goes_next)
    | dsimp -zeta only
    | split

theorem epochFlip_kept {q : List Instr} (s : State) (hs : Kept q s) :
    Kept q (State.epochFlip s) := by
  unfold State.epochFlip
  repeat' first
    | (with_reducible first | assumption | intro _ | exact kept_mk (by assumption))
    | (with_reducible extract_lets +onlyGivenNames x'; unfold x'; clear x')
    | (with_reducible first | apply setFld_kept | apply free1_kept | apply setNoc_kept | apply wrN_kept | apply kept_foldl)
    | (with_reducible first | apply kept_fold1 | apply kept_fold2 | apply kept_ite | apply goes_next)
    | dsimp -zeta only
    | split

theorem execEpochFlip_kept {q : List Instr} (who : Requester) (s : State) (hs : Kept q s) :
    Goes q (execEpochFlip who s) := by
  unfold execEpochFlip
  repeat' first
    | (with_reducible first | assumption | intro _ | exact kept_mk (by assumption))
    | (with_reducible extract_lets +onlyGivenNames x'; unfold x'; clear x')
    | (with_reducible first | apply accessHeld_kept | apply epochFlip_kept | apply setBit_kept | apply kept_foldl)
    | (with_reducible first | apply kept_fold1 | apply kept_fold2 | apply kept_ite | apply goes_next)
    | dsimp -zeta only
    | split

theorem passNow_kept {q : List Instr} (s : State) (u : Nat) (hs : Kept q s) :
    Kept q (State.passNow s u) := by
  unfold State.passNow
  repeat' first
    | (with_reducible first | assumption | intro _ | exact kept_mk (by assumption))
    | (with_reducible extract_lets +onlyGivenNames x'; unfold x'; clear x')
    | (with_reducible first | apply setFld_kept | apply setNoc_kept | apply kept_foldl | apply kept_fold1 | apply kept_fold2)
    | (with_reducible first | apply kept_ite | apply goes_next)
    | dsimp -zeta only
    | split

theorem routeGroup_kept {q : List Instr} (s : State) (bank : Nat) (grp : Nat) (r : Option VRec) (hs : Kept q s) :
    Kept q (State.routeGroup s bank grp r) := by
  unfold State.routeGroup
  repeat' first
    | (with_reducible first | assumption | intro _ | exact kept_mk (by assumption))
    | (with_reducible extract_lets +onlyGivenNames x'; unfold x'; clear x')
    | (with_reducible first | apply setRoute_kept | apply kept_foldl | apply kept_fold1 | apply kept_fold2 | apply kept_ite)
    | (with_reducible first | apply goes_next)
    | dsimp -zeta only
    | split

theorem eccCorrected_kept {q : List Instr} (s : State) (u : Nat) (hs : Kept q s) :
    Kept q (State.eccCorrected s u) := by
  unfold State.eccCorrected
  repeat' first
    | (with_reducible first | assumption | intro _ | exact kept_mk (by assumption))
    | (with_reducible extract_lets +onlyGivenNames x'; unfold x'; clear x')
    | (with_reducible first | apply bumpSat_kept | apply raise_kept | apply setBit_kept | apply kept_foldl | apply kept_fold1)
    | (with_reducible first | apply kept_fold2 | apply kept_ite | apply goes_next)
    | dsimp -zeta only
    | split

theorem eccUncorrectable_kept {q : List Instr} (s : State) (u : Nat) (a : Nat) (hs : Kept q s) :
    Kept q (State.eccUncorrectable s u a) := by
  unfold State.eccUncorrectable
  repeat' first
    | with_reducible assumption
    | with_reducible refine kept_some ?_
    | with_reducible refine kept_some1 ?_
    | with_reducible exact kept_none
    | with_reducible exact kept_none1
    | with_reducible refine kept_map ?_
    | with_reducible intro _
    | with_reducible exact kept_mk (by with_reducible assumption)
    | (with_reducible extract_lets +onlyGivenNames x'; refine kept_cut q x' ?_ ?_; (focus (unfold x'; clear x')); rotate_left; (focus (intro _; clear_value x')))
    | (with_reducible extract_lets +onlyGivenNames x'; refine kept_cut1 q x' ?_ ?_; (focus (unfold x'; clear x')); rotate_left; (focus (intro _; clear_value x')))
    | (with_reducible extract_lets +onlyGivenNames x'; refine kept_cut2 q x' ?_ ?_; (focus (unfold x'; clear x')); rotate_left; (focus (intro _; clear_value x')))
    | (with_reducible extract_lets +onlyGivenNames x'; unfold x'; clear x')
    | with_reducible apply bumpSat_kept
    | with_reducible apply wrN_kept
    | with_reducible apply raise_kept
    | with_reducible apply kept_foldl
    | with_reducible apply kept_fold1
    | with_reducible apply kept_fold2
    | with_reducible apply kept_ite
    | with_reducible apply goes_next
    | dsimp -zeta only
    | split

theorem fenceLink_kept {q : List Instr} (s : State) (n : Nat) (k : Nat) (ev : Bool) (hs : Kept q s) :
    Kept q (State.fenceLink s n k ev) := by
  unfold State.fenceLink
  repeat' first
    | (with_reducible first | assumption | intro _ | exact kept_mk (by assumption))
    | (with_reducible extract_lets +onlyGivenNames x'; unfold x'; clear x')
    | (with_reducible first | apply setFld_kept | apply setBit_kept | apply setNoc_kept | apply raise_kept | apply kept_foldl)
    | (with_reducible first | apply kept_fold1 | apply kept_fold2 | apply kept_ite | apply goes_next)
    | dsimp -zeta only
    | split

theorem restoreLink_kept {q : List Instr} (s : State) (n : Nat) (k : Nat) (hs : Kept q s) :
    Kept q (State.restoreLink s n k) := by
  unfold State.restoreLink
  repeat' first
    | (with_reducible first | assumption | intro _ | exact kept_mk (by assumption))
    | (with_reducible extract_lets +onlyGivenNames x'; unfold x'; clear x')
    | (with_reducible first | apply setFld_kept | apply kept_foldl | apply kept_fold1 | apply kept_fold2 | apply kept_ite)
    | (with_reducible first | apply goes_next)
    | dsimp -zeta only
    | split

theorem showRouter_kept {q : List Instr} (s : State) (n : Nat) (v : Nat) (hs : Kept q s) :
    Kept q (State.showRouter s n v) := by
  unfold State.showRouter
  repeat' first
    | (with_reducible first | assumption | intro _ | exact kept_mk (by assumption))
    | (with_reducible extract_lets +onlyGivenNames x'; unfold x'; clear x')
    | (with_reducible first | apply setFld_kept | apply kept_foldl | apply kept_fold1 | apply kept_fold2 | apply kept_ite)
    | (with_reducible first | apply goes_next)
    | dsimp -zeta only
    | split

theorem execFlitCrcError_kept {q : List Instr} (site : Fin 48) (link : Fin 6) (retry : Fin 5) (s : State) (hs : Kept q s) :
    Goes q (execFlitCrcError site link retry s) := by
  unfold execFlitCrcError
  repeat' first
    | (with_reducible first | assumption | intro _ | exact kept_mk (by assumption))
    | (with_reducible extract_lets +onlyGivenNames x'; unfold x'; clear x')
    | (with_reducible first | apply bumpSat_kept | apply setNoc_kept | apply fenceLink_kept | apply kept_foldl)
    | (with_reducible first | apply kept_fold1 | apply kept_fold2 | apply kept_ite | apply goes_next)
    | dsimp -zeta only
    | split

theorem execRouterError_kept {q : List Instr} (site : Fin 48) (s : State) (hs : Kept q s) :
    Goes q (execRouterError site s) := by
  unfold execRouterError
  repeat' first
    | (with_reducible first | assumption | intro _ | exact kept_mk (by assumption))
    | (with_reducible extract_lets +onlyGivenNames x'; unfold x'; clear x')
    | (with_reducible first | apply setBit_kept | apply showRouter_kept | apply fenceLink_kept | apply raise_kept)
    | (with_reducible first | apply faultLog_kept | apply notice_kept | apply kept_foldl | apply kept_fold1 | apply kept_fold2)
    | (with_reducible first | apply kept_ite | apply goes_next)
    | dsimp -zeta only
    | split

theorem execScrubLine_kept {q : List Instr} (unit : Fin 15) (addr : BitVec 48) (err : Fin 3) (ends : Bool) (s : State) (hs : Kept q s) :
    Goes q (execScrubLine unit addr err ends s) := by
  unfold execScrubLine
  repeat' first
    | (with_reducible first | assumption | intro _ | exact kept_mk (by assumption))
    | (with_reducible extract_lets +onlyGivenNames x'; unfold x'; clear x')
    | (with_reducible first | apply eccCorrected_kept | apply eccUncorrectable_kept | apply setBit_kept | apply setFld_kept)
    | (with_reducible first | apply setNoc_kept | apply free1_kept | apply kept_foldl | apply kept_fold1 | apply kept_fold2)
    | (with_reducible first | apply kept_ite | apply goes_next)
    | dsimp -zeta only
    | split

theorem execRowRepair_kept {q : List Instr} (unit : Fin 15) (spare : Bool) (s : State) (hs : Kept q s) :
    Goes q (execRowRepair unit spare s) := by
  unfold execRowRepair
  repeat' first
    | (with_reducible first | assumption | intro _ | exact kept_mk (by assumption))
    | (with_reducible extract_lets +onlyGivenNames x'; unfold x'; clear x')
    | (with_reducible first | apply setBit_kept | apply raise_kept | apply kept_foldl | apply kept_fold1 | apply kept_fold2)
    | (with_reducible first | apply kept_ite | apply goes_next)
    | dsimp -zeta only
    | split

theorem execRowRepairComplete_kept {q : List Instr} (unit : Fin 15) (place : BitVec 30) (s : State) (hs : Kept q s) :
    Goes q (execRowRepairComplete unit place s) := by
  unfold execRowRepairComplete
  repeat' first
    | (with_reducible first | assumption | intro _ | exact kept_mk (by assumption))
    | (with_reducible extract_lets +onlyGivenNames x'; unfold x'; clear x')
    | (with_reducible first | apply setFld_kept | apply wrN_kept | apply setNoc_kept | apply raise_kept | apply kept_foldl)
    | (with_reducible first | apply kept_fold1 | apply kept_fold2 | apply kept_ite | apply goes_next)
    | dsimp -zeta only
    | split

theorem execScrubPassNow_kept {q : List Instr} (who : Requester) (unit : Fin 15) (s : State) (hs : Kept q s) :
    Goes q (execScrubPassNow who unit s) := by
  unfold execScrubPassNow
  repeat' first
    | (with_reducible first | assumption | intro _ | exact kept_mk (by assumption))
    | (with_reducible extract_lets +onlyGivenNames x'; unfold x'; clear x')
    | (with_reducible first | apply accessHeld_kept | apply passNow_kept | apply kept_foldl | apply kept_fold1)
    | (with_reducible first | apply kept_fold2 | apply kept_ite | apply goes_next)
    | dsimp -zeta only
    | split

theorem execMemoryTraining_kept {q : List Instr} (hbm : BitVec 2) (lanes : BitVec 8) (caps : Vector W32 4) (bad : BitVec 4) (s : State) (hs : Kept q s) :
    Goes q (execMemoryTraining hbm lanes caps bad s) := by
  unfold execMemoryTraining
  repeat' first
    | (with_reducible first | assumption | intro _ | exact kept_mk (by assumption))
    | (with_reducible extract_lets +onlyGivenNames x'; unfold x'; clear x')
    | (with_reducible first | apply raise_kept | apply setBit_kept | apply wrN_kept | apply setFld_kept | apply wr_kept)
    | (with_reducible first | apply kept_foldl | apply kept_fold1 | apply kept_fold2 | apply kept_ite | apply goes_next)
    | dsimp -zeta only
    | split

theorem execRefresh_kept {q : List Instr} (_unit : Fin 15) (s : State) (hs : Kept q s) :
    Goes q (execRefresh _unit s) := by
  unfold execRefresh
  repeat' first
    | (with_reducible first | assumption | intro _ | exact kept_mk (by assumption))
    | (with_reducible extract_lets +onlyGivenNames x'; unfold x'; clear x')
    | (with_reducible first | apply kept_foldl | apply kept_fold1 | apply kept_fold2 | apply kept_ite | apply goes_next)
    | dsimp -zeta only
    | split

theorem execEpochDrainComplete_kept {q : List Instr} (s : State) (hs : Kept q s) :
    Goes q (execEpochDrainComplete s) := by
  unfold execEpochDrainComplete
  repeat' first
    | (with_reducible first | assumption | intro _ | exact kept_mk (by assumption))
    | (with_reducible extract_lets +onlyGivenNames x'; unfold x'; clear x')
    | (with_reducible first | apply raise_kept | apply setNoc_kept | apply wr_kept | apply kept_foldl | apply kept_fold1)
    | (with_reducible first | apply kept_fold2 | apply kept_ite | apply goes_next)
    | dsimp -zeta only
    | split

theorem execMemQuery_kept {q : List Instr} (d : Desc) (s : State) (hs : Kept q s) :
    Goes q (execMemQuery d s) := by
  unfold execMemQuery
  repeat' first
    | (with_reducible first | assumption | intro _ | exact kept_mk (by assumption))
    | (with_reducible extract_lets +onlyGivenNames x'; unfold x'; clear x')
    | (with_reducible first | apply commandNow_kept | apply kept_foldl | apply kept_fold1 | apply kept_fold2 | apply kept_ite)
    | (with_reducible first | apply goes_next)
    | dsimp -zeta only
    | split

theorem execMemScrub_kept {q : List Instr} (d : Desc) (s : State) (hs : Kept q s) :
    Goes q (execMemScrub d s) := by
  unfold execMemScrub
  repeat' first
    | (with_reducible first | assumption | intro _ | exact kept_mk (by assumption))
    | (with_reducible extract_lets +onlyGivenNames x'; unfold x'; clear x')
    | (with_reducible first | apply commandNow_kept | apply setFld_kept | apply passNow_kept | apply kept_foldl)
    | (with_reducible first | apply kept_fold1 | apply kept_fold2 | apply kept_ite | apply goes_next)
    | dsimp -zeta only
    | split

theorem execNocStat_kept {q : List Instr} (d : Desc) (s : State) (hs : Kept q s) :
    Goes q (execNocStat d s) := by
  unfold execNocStat
  repeat' first
    | (with_reducible first | assumption | intro _ | exact kept_mk (by assumption))
    | (with_reducible extract_lets +onlyGivenNames x'; unfold x'; clear x')
    | (with_reducible first | apply commandNow_kept | apply free1_kept | apply kept_foldl | apply kept_fold1 | apply kept_fold2)
    | (with_reducible first | apply kept_ite | apply goes_next)
    | dsimp -zeta only
    | split

theorem execNocLinkTest_kept {q : List Instr} (d : Desc) (s : State) (hs : Kept q s) :
    Goes q (execNocLinkTest d s) := by
  unfold execNocLinkTest
  repeat' first
    | (with_reducible first | assumption | intro _ | exact kept_mk (by assumption))
    | (with_reducible extract_lets +onlyGivenNames x'; unfold x'; clear x')
    | (with_reducible first | apply command_kept | apply setNoc_kept | apply setFld_kept | apply setBit_kept | apply kept_foldl)
    | (with_reducible first | apply kept_fold1 | apply kept_fold2 | apply kept_ite | apply goes_next)
    | dsimp -zeta only
    | split

theorem execLinkTestEnd_kept {q : List Instr} (site : Fin 48) (link : Fin 6) (flits : W64) (errors : W32) (s : State) (hs : Kept q s) :
    Goes q (execLinkTestEnd site link flits errors s) := by
  unfold execLinkTestEnd
  repeat' first
    | (with_reducible first | assumption | intro _ | exact kept_mk (by assumption))
    | (with_reducible extract_lets +onlyGivenNames x'; unfold x'; clear x')
    | (with_reducible first | apply setNoc_kept | apply setFld_kept | apply wrN_kept | apply raise_kept | apply wr_kept)
    | (with_reducible first | apply slotEnd_kept | apply kept_foldl | apply kept_fold1 | apply kept_fold2 | apply kept_ite)
    | (with_reducible first | apply goes_next)
    | dsimp -zeta only
    | split

theorem execNocQuery_kept {q : List Instr} (d : Desc) (s : State) (hs : Kept q s) :
    Goes q (execNocQuery d s) := by
  unfold execNocQuery
  repeat' first
    | (with_reducible first | assumption | intro _ | exact kept_mk (by assumption))
    | (with_reducible extract_lets +onlyGivenNames x'; unfold x'; clear x')
    | (with_reducible first | apply commandNow_kept | apply kept_foldl | apply kept_fold1 | apply kept_fold2 | apply kept_ite)
    | (with_reducible first | apply goes_next)
    | dsimp -zeta only
    | split

theorem execNocLinkRestore_kept {q : List Instr} (d : Desc) (s : State) (hs : Kept q s) :
    Goes q (execNocLinkRestore d s) := by
  unfold execNocLinkRestore
  repeat' first
    | (with_reducible first | assumption | intro _ | exact kept_mk (by assumption))
    | (with_reducible extract_lets +onlyGivenNames x'; unfold x'; clear x')
    | (with_reducible first | apply commandNow_kept | apply restoreLink_kept | apply showRouter_kept | apply kept_foldl)
    | (with_reducible first | apply kept_fold1 | apply kept_fold2 | apply kept_ite | apply goes_next)
    | dsimp -zeta only
    | split

end Sys2Proof.Machine
end

