-- ==== Sys2Proof/Laws/KeptPools.lean ====
section
/-! SUPPORT. What the operations of Pools keep. -/

namespace Sys2Proof.Machine
open Sys2Proof

set_option linter.all false

theorem execHdyAccRead_kept {q : List Instr} (who : Requester) (s : State) (hs : Kept q s) :
    Goes q (execHdyAccRead who s) := by
  unfold execHdyAccRead
  repeat' first
    | (with_reducible first | assumption | intro _ | exact kept_mk (by assumption))
    | (with_reducible extract_lets +onlyGivenNames x'; unfold x'; clear x')
    | (with_reducible first | apply accessHeld_kept | apply wr_kept | apply kept_foldl | apply kept_fold1 | apply kept_fold2)
    | (with_reducible first | apply kept_ite | apply goes_next)
    | dsimp -zeta only
    | split

theorem execHdyAccWrite_kept {q : List Instr} (who : Requester) (s : State) (hs : Kept q s) :
    Goes q (execHdyAccWrite who s) := by
  unfold execHdyAccWrite
  repeat' first
    | (with_reducible first | assumption | intro _ | exact kept_mk (by assumption))
    | (with_reducible extract_lets +onlyGivenNames x'; unfold x'; clear x')
    | (with_reducible first | apply accessHeld_kept | apply setRec_kept | apply hdySync_kept | apply setBit_kept)
    | (with_reducible first | apply setEnt_kept | apply kept_foldl | apply kept_fold1 | apply kept_fold2 | apply kept_ite)
    | (with_reducible first | apply goes_next)
    | dsimp -zeta only
    | split

theorem errInfo_kept {q : List Instr} (s : State) (a : Nat) (realm : Nat) (op : Nat) (status : Nat) (hs : Kept q s) :
    Kept q (State.errInfo s a realm op status) := by
  unfold State.errInfo
  repeat' first
    | (with_reducible first | assumption | intro _ | exact kept_mk (by assumption))
    | (with_reducible extract_lets +onlyGivenNames x'; unfold x'; clear x')
    | (with_reducible first | apply wrN_kept | apply kept_foldl | apply kept_fold1 | apply kept_fold2 | apply kept_ite)
    | (with_reducible first | apply goes_next)
    | dsimp -zeta only
    | split

theorem setCredit_kept {q : List Instr} (s : State) (x : Nat) (r : Nat) (v : Int) (hs : Kept q s) :
    Kept q (State.setCredit s x r v) := by
  unfold State.setCredit
  repeat' first
    | (with_reducible first | assumption | intro _ | exact kept_mk (by assumption))
    | (with_reducible extract_lets +onlyGivenNames x'; unfold x'; clear x')
    | (with_reducible first | apply wrN_kept | apply kept_foldl | apply kept_fold1 | apply kept_fold2 | apply kept_ite)
    | (with_reducible first | apply goes_next)
    | dsimp -zeta only
    | split

theorem poolDone_kept {q : List Instr} (s : State) (r : RingId) (x : Nat) (status : Nat) (detail : Nat) (result : Nat) (hs : Kept q s) :
    Kept q (State.poolDone s r x status detail result) := by
  unfold State.poolDone
  repeat' first
    | (with_reducible first | assumption | intro _ | exact kept_mk (by assumption))
    | (with_reducible extract_lets +onlyGivenNames x'; unfold x'; clear x')
    | (with_reducible first | apply writeBack_kept | apply bump_kept | apply complete_kept | apply kept_foldl | apply kept_fold1)
    | (with_reducible first | apply kept_fold2 | apply kept_ite | apply goes_next)
    | dsimp -zeta only
    | split

theorem endPoolJob_kept {q : List Instr} (s : State) (x : Nat) (p : PoolJob) (hs : Kept q s) :
    Kept q (State.endPoolJob s x p) := by
  unfold State.endPoolJob
  repeat' first
    | (with_reducible first | assumption | intro _ | exact kept_mk (by assumption))
    | (with_reducible extract_lets +onlyGivenNames x'; unfold x'; clear x')
    | (with_reducible first | apply unpoison_kept | apply setBytes_kept | apply errInfo_kept | apply entSwitch_kept)
    | (with_reducible first | apply setCredit_kept | apply bump_kept | apply setFld_kept | apply poolDone_kept)
    | (with_reducible first | apply drainCheck_kept | apply kept_foldl | apply kept_fold1 | apply kept_fold2 | apply kept_ite)
    | (with_reducible first | apply goes_next)
    | dsimp -zeta only
    | split

theorem freeOut_kept {q : List Instr} (s : State) (g : Nat) (n : Nat) (hs : Kept q s) :
    Kept q (State.freeOut s g n).1 := by
  unfold State.freeOut
  repeat' first
    | (with_reducible first | assumption | intro _ | exact kept_mk (by assumption))
    | (with_reducible extract_lets +onlyGivenNames x'; unfold x'; clear x')
    | (with_reducible first | apply freeBytes_kept | apply kept_foldl | apply kept_fold1 | apply kept_fold2 | apply kept_ite)
    | (with_reducible first | apply goes_next)
    | dsimp -zeta only
    | split

theorem startJob_kept {q : List Instr} (s : State) (x : Nat) (r : Nat) (p : PoolJob) (hs : Kept q s) :
    Kept q (State.startJob s x r p) := by
  unfold State.startJob
  repeat' first
    | (with_reducible first | assumption | intro _ | exact kept_mk (by assumption))
    | (with_reducible extract_lets +onlyGivenNames x'; unfold x'; clear x')
    | (with_reducible first | apply setFld_kept | apply kept_foldl | apply kept_fold1 | apply kept_fold2 | apply kept_ite)
    | (with_reducible first | apply goes_next)
    | dsimp -zeta only
    | split

theorem poolJob_kept {q : List Instr} (pool : Nat) (j : Job) (ok : Bool) (reads : List (Nat × Nat)) (outs : List (Nat × Nat)) (place : Bool) (dets : List RaDet) (run : State → State × JobEnd) (s : State) (hrun : ∀ a0, Kept q a0 → Kept q (run a0).1) (hs : Kept q s) :
    Kept q (poolJob pool j ok reads outs place dets run s) := by
  unfold poolJob
  repeat' first
    | with_reducible assumption
    | with_reducible refine kept_some ?_
    | with_reducible refine kept_some1 ?_
    | with_reducible exact kept_none
    | with_reducible exact kept_none1
    | with_reducible refine kept_map ?_
    | with_reducible intro _
    | with_reducible exact kept_mk (by with_reducible assumption)
    | (with_reducible extract_lets +onlyGivenNames x'; refine kept_cut q x' ?_ ?_; (focus (unfold x'; clear x')); rotate_left; (focus (intro _; clear_value x')))
    | (with_reducible extract_lets +onlyGivenNames x'; refine kept_cut1 q x' ?_ ?_; (focus (unfold x'; clear x')); rotate_left; (focus (intro _; clear_value x')))
    | (with_reducible extract_lets +onlyGivenNames x'; refine kept_cut2 q x' ?_ ?_; (focus (unfold x'; clear x')); rotate_left; (focus (intro _; clear_value x')))
    | (with_reducible extract_lets +onlyGivenNames x'; unfold x'; clear x')
    | with_reducible apply poolDone_kept
    | with_reducible apply setCredit_kept
    | with_reducible apply freeBytes_kept
    | with_reducible apply setFolio_kept
    | with_reducible apply startJob_kept
    | with_reducible apply hrun
    | with_reducible apply kept_foldl
    | with_reducible apply kept_fold1
    | with_reducible apply kept_fold2
    | with_reducible apply kept_ite
    | with_reducible apply kept_getD
    | with_reducible apply kept_getD1
    | with_reducible apply goes_next
    | dsimp -zeta only
    | split

theorem combineJob_kept {q : List Instr} (lte : Bool) (j : Job) (s : State) (hs : Kept q s) :
    Kept q (combineJob lte j s) := by
  unfold combineJob
  repeat' first
    | (with_reducible first | assumption | intro _ | exact kept_mk (by assumption))
    | (with_reducible extract_lets +onlyGivenNames x'; unfold x'; clear x')
    | (with_reducible first | apply poolJob_kept | apply kept_foldl | apply kept_fold1 | apply kept_fold2 | apply kept_ite)
    | (with_reducible first | apply kept_getD | apply kept_getD1 | apply goes_next)
    | dsimp -zeta only
    | split

theorem execAccQuery_kept {q : List Instr} (d : Desc) (s : State) (hs : Kept q s) :
    Goes q (execAccQuery d s) := by
  unfold execAccQuery
  repeat' first
    | (with_reducible first | assumption | intro _ | exact kept_mk (by assumption))
    | (with_reducible extract_lets +onlyGivenNames x'; unfold x'; clear x')
    | (with_reducible first | apply commandNow_kept | apply kept_foldl | apply kept_fold1 | apply kept_fold2 | apply kept_ite)
    | (with_reducible first | apply goes_next)
    | dsimp -zeta only
    | split

theorem execRingConfig_kept {q : List Instr} (d : Desc) (s : State) (hs : Kept q s) :
    Goes q (execRingConfig d s) := by
  unfold execRingConfig
  repeat' first
    | (with_reducible first | assumption | intro _ | exact kept_mk (by assumption))
    | (with_reducible extract_lets +onlyGivenNames x'; unfold x'; clear x')
    | (with_reducible first | apply commandNow_kept | apply ringCfgWrite_kept | apply ringHeadwbWrite_kept)
    | (with_reducible first | apply ringBaseWrite_kept | apply wrN_kept | apply wr_kept | apply kept_foldl | apply kept_fold1)
    | (with_reducible first | apply kept_fold2 | apply kept_ite | apply goes_next)
    | dsimp -zeta only
    | split

theorem execHarqLookup_kept {q : List Instr} (d : Desc) (s : State) (hs : Kept q s) :
    Goes q (execHarqLookup d s) := by
  unfold execHarqLookup
  repeat' first
    | (with_reducible first | assumption | intro _ | exact kept_mk (by assumption))
    | (with_reducible extract_lets +onlyGivenNames x'; unfold x'; clear x')
    | (with_reducible first | apply commandNow_kept | apply bump_kept | apply kept_foldl | apply kept_fold1 | apply kept_fold2)
    | (with_reducible first | apply kept_ite | apply goes_next)
    | dsimp -zeta only
    | split

theorem execHarqFree_kept {q : List Instr} (d : Desc) (s : State) (hs : Kept q s) :
    Goes q (execHarqFree d s) := by
  unfold execHarqFree
  repeat' first
    | (with_reducible first | assumption | intro _ | exact kept_mk (by assumption))
    | (with_reducible extract_lets +onlyGivenNames x'; unfold x'; clear x')
    | (with_reducible first | apply commandNow_kept | apply entFree_kept | apply bump_kept | apply kept_foldl | apply kept_fold1)
    | (with_reducible first | apply kept_fold2 | apply kept_ite | apply goes_next)
    | dsimp -zeta only
    | split

theorem execHarqFreeUe_kept {q : List Instr} (d : Desc) (s : State) (hs : Kept q s) :
    Goes q (execHarqFreeUe d s) := by
  unfold execHarqFreeUe
  repeat' first
    | (with_reducible first | assumption | intro _ | exact kept_mk (by assumption))
    | (with_reducible extract_lets +onlyGivenNames x'; unfold x'; clear x')
    | (with_reducible first | apply commandNow_kept | apply entFree_kept | apply kept_foldl | apply kept_fold1)
    | (with_reducible first | apply kept_fold2 | apply kept_ite | apply goes_next)
    | dsimp -zeta only
    | split

theorem execHarqUsage_kept {q : List Instr} (d : Desc) (s : State) (hs : Kept q s) :
    Goes q (execHarqUsage d s) := by
  unfold execHarqUsage
  repeat' first
    | (with_reducible first | assumption | intro _ | exact kept_mk (by assumption))
    | (with_reducible extract_lets +onlyGivenNames x'; unfold x'; clear x')
    | (with_reducible first | apply commandNow_kept | apply kept_foldl | apply kept_fold1 | apply kept_fold2 | apply kept_ite)
    | (with_reducible first | apply goes_next)
    | dsimp -zeta only
    | split

theorem execLdpcDecode_kept {q : List Instr} (j : Job) (s : State) (hs : Kept q s) :
    Goes q (execLdpcDecode j s) := by
  unfold execLdpcDecode
  repeat' first
    | (with_reducible first | assumption | intro _ | exact kept_mk (by assumption))
    | (with_reducible extract_lets +onlyGivenNames x'; unfold x'; clear x')
    | (with_reducible first | apply poolJob_kept | apply freeOut_kept | apply free1_kept | apply kept_foldl | apply kept_fold1)
    | (with_reducible first | apply kept_fold2 | apply kept_ite | apply goes_next)
    | dsimp -zeta only
    | split

theorem execLdpcEncode_kept {q : List Instr} (j : Job) (s : State) (hs : Kept q s) :
    Goes q (execLdpcEncode j s) := by
  unfold execLdpcEncode
  repeat' first
    | (with_reducible first | assumption | intro _ | exact kept_mk (by assumption))
    | (with_reducible extract_lets +onlyGivenNames x'; unfold x'; clear x')
    | (with_reducible first | apply poolJob_kept | apply freeOut_kept | apply kept_foldl | apply kept_fold1 | apply kept_fold2)
    | (with_reducible first | apply kept_ite | apply goes_next)
    | dsimp -zeta only
    | split

theorem execPolarDecode_kept {q : List Instr} (j : Job) (s : State) (hs : Kept q s) :
    Goes q (execPolarDecode j s) := by
  unfold execPolarDecode
  repeat' first
    | (with_reducible first | assumption | intro _ | exact kept_mk (by assumption))
    | (with_reducible extract_lets +onlyGivenNames x'; unfold x'; clear x')
    | (with_reducible first | apply poolJob_kept | apply freeOut_kept | apply free1_kept | apply kept_foldl | apply kept_fold1)
    | (with_reducible first | apply kept_fold2 | apply kept_ite | apply goes_next)
    | dsimp -zeta only
    | split

theorem execPolarEncode_kept {q : List Instr} (j : Job) (s : State) (hs : Kept q s) :
    Goes q (execPolarEncode j s) := by
  unfold execPolarEncode
  repeat' first
    | (with_reducible first | assumption | intro _ | exact kept_mk (by assumption))
    | (with_reducible extract_lets +onlyGivenNames x'; unfold x'; clear x')
    | (with_reducible first | apply poolJob_kept | apply freeOut_kept | apply kept_foldl | apply kept_fold1 | apply kept_fold2)
    | (with_reducible first | apply kept_ite | apply goes_next)
    | dsimp -zeta only
    | split

theorem execTurboDecode_kept {q : List Instr} (j : Job) (s : State) (hs : Kept q s) :
    Goes q (execTurboDecode j s) := by
  unfold execTurboDecode
  repeat' first
    | (with_reducible first | assumption | intro _ | exact kept_mk (by assumption))
    | (with_reducible extract_lets +onlyGivenNames x'; unfold x'; clear x')
    | (with_reducible first | apply poolJob_kept | apply freeOut_kept | apply free1_kept | apply kept_foldl | apply kept_fold1)
    | (with_reducible first | apply kept_fold2 | apply kept_ite | apply goes_next)
    | dsimp -zeta only
    | split

theorem execTurboEncode_kept {q : List Instr} (j : Job) (s : State) (hs : Kept q s) :
    Goes q (execTurboEncode j s) := by
  unfold execTurboEncode
  repeat' first
    | (with_reducible first | assumption | intro _ | exact kept_mk (by assumption))
    | (with_reducible extract_lets +onlyGivenNames x'; unfold x'; clear x')
    | (with_reducible first | apply poolJob_kept | apply freeOut_kept | apply kept_foldl | apply kept_fold1 | apply kept_fold2)
    | (with_reducible first | apply kept_ite | apply goes_next)
    | dsimp -zeta only
    | split

theorem ftJob_kept {q : List Instr} (inv : Bool) (sizeOk : Nat → Bool) (j : Job) (s : State) (hs : Kept q s) :
    Kept q (ftJob inv sizeOk j s) := by
  unfold ftJob
  repeat' first
    | (with_reducible first | assumption | intro _ | exact kept_mk (by assumption))
    | (with_reducible extract_lets +onlyGivenNames x'; unfold x'; clear x')
    | (with_reducible first | apply poolJob_kept | apply kept_foldl | apply kept_fold1 | apply kept_fold2 | apply kept_ite)
    | (with_reducible first | apply goes_next)
    | dsimp -zeta only
    | split

theorem execFft_kept {q : List Instr} (j : Job) (s : State) (hs : Kept q s) :
    Goes q (execFft j s) := by
  unfold execFft
  repeat' first
    | (with_reducible first | assumption | intro _ | exact kept_mk (by assumption))
    | (with_reducible extract_lets +onlyGivenNames x'; unfold x'; clear x')
    | (with_reducible first | apply ftJob_kept | apply kept_foldl | apply kept_fold1 | apply kept_fold2 | apply kept_ite)
    | (with_reducible first | apply goes_next)
    | dsimp -zeta only
    | split

theorem execIfft_kept {q : List Instr} (j : Job) (s : State) (hs : Kept q s) :
    Goes q (execIfft j s) := by
  unfold execIfft
  repeat' first
    | (with_reducible first | assumption | intro _ | exact kept_mk (by assumption))
    | (with_reducible extract_lets +onlyGivenNames x'; unfold x'; clear x')
    | (with_reducible first | apply ftJob_kept | apply kept_foldl | apply kept_fold1 | apply kept_fold2 | apply kept_ite)
    | (with_reducible first | apply goes_next)
    | dsimp -zeta only
    | split

theorem execDft_kept {q : List Instr} (j : Job) (s : State) (hs : Kept q s) :
    Goes q (execDft j s) := by
  unfold execDft
  repeat' first
    | (with_reducible first | assumption | intro _ | exact kept_mk (by assumption))
    | (with_reducible extract_lets +onlyGivenNames x'; unfold x'; clear x')
    | (with_reducible first | apply ftJob_kept | apply kept_foldl | apply kept_fold1 | apply kept_fold2 | apply kept_ite)
    | (with_reducible first | apply goes_next)
    | dsimp -zeta only
    | split

theorem execIdft_kept {q : List Instr} (j : Job) (s : State) (hs : Kept q s) :
    Goes q (execIdft j s) := by
  unfold execIdft
  repeat' first
    | (with_reducible first | assumption | intro _ | exact kept_mk (by assumption))
    | (with_reducible extract_lets +onlyGivenNames x'; unfold x'; clear x')
    | (with_reducible first | apply ftJob_kept | apply kept_foldl | apply kept_fold1 | apply kept_fold2 | apply kept_ite)
    | (with_reducible first | apply goes_next)
    | dsimp -zeta only
    | split

theorem execNrCombine_kept {q : List Instr} (j : Job) (s : State) (hs : Kept q s) :
    Goes q (execNrCombine j s) := by
  unfold execNrCombine
  repeat' first
    | (with_reducible first | assumption | intro _ | exact kept_mk (by assumption))
    | (with_reducible extract_lets +onlyGivenNames x'; unfold x'; clear x')
    | (with_reducible first | apply combineJob_kept | apply kept_foldl | apply kept_fold1 | apply kept_fold2 | apply kept_ite)
    | (with_reducible first | apply goes_next)
    | dsimp -zeta only
    | split

theorem execLteCombine_kept {q : List Instr} (j : Job) (s : State) (hs : Kept q s) :
    Goes q (execLteCombine j s) := by
  unfold execLteCombine
  repeat' first
    | (with_reducible first | assumption | intro _ | exact kept_mk (by assumption))
    | (with_reducible extract_lets +onlyGivenNames x'; unfold x'; clear x')
    | (with_reducible first | apply combineJob_kept | apply kept_foldl | apply kept_fold1 | apply kept_fold2 | apply kept_ite)
    | (with_reducible first | apply goes_next)
    | dsimp -zeta only
    | split

theorem execDemap_kept {q : List Instr} (j : Job) (s : State) (hs : Kept q s) :
    Goes q (execDemap j s) := by
  unfold execDemap
  repeat' first
    | (with_reducible first | assumption | intro _ | exact kept_mk (by assumption))
    | (with_reducible extract_lets +onlyGivenNames x'; unfold x'; clear x')
    | (with_reducible first | apply poolJob_kept | apply kept_foldl | apply kept_fold1 | apply kept_fold2 | apply kept_ite)
    | (with_reducible first | apply goes_next)
    | dsimp -zeta only
    | split

theorem execJobOverrun_kept {q : List Instr} (x : Fin 58) (s : State) (hs : Kept q s) :
    Goes q (execJobOverrun x s) := by
  unfold execJobOverrun
  repeat' first
    | (with_reducible first | assumption | intro _ | exact kept_mk (by assumption))
    | (with_reducible extract_lets +onlyGivenNames x'; unfold x'; clear x')
    | (with_reducible first | apply notice_kept | apply raise_kept | apply kept_foldl | apply kept_fold1 | apply kept_fold2)
    | (with_reducible first | apply kept_ite | apply goes_next)
    | dsimp -zeta only
    | split

end Sys2Proof.Machine
end

