-- ==== Sys2Proof/Laws/KeptRuling.lean ====
section
/-! SUPPORT. What the operations of Ruling keep. -/

namespace Sys2Proof.Machine
open Sys2Proof

set_option linter.all false

theorem execNowNsRead_kept {q : List Instr} (who : Requester) (b : Fin 8) (s : State) (hs : Kept q s) :
    Goes q (execNowNsRead who b s) := by
  unfold execNowNsRead
  repeat' first
    | (with_reducible first | assumption | intro _ | exact kept_mk (by assumption))
    | (with_reducible extract_lets +onlyGivenNames x'; unfold x'; clear x')
    | (with_reducible first | apply access_kept | apply wrN_kept | apply wrWords_kept | apply kept_foldl | apply kept_fold1)
    | (with_reducible first | apply kept_fold2 | apply kept_ite | apply goes_next)
    | dsimp -zeta only
    | split

theorem execGridPosRead_kept {q : List Instr} (who : Requester) (g : Fin 256) (s : State) (hs : Kept q s) :
    Goes q (execGridPosRead who g s) := by
  unfold execGridPosRead
  repeat' first
    | (with_reducible first | assumption | intro _ | exact kept_mk (by assumption))
    | (with_reducible extract_lets +onlyGivenNames x'; unfold x'; clear x')
    | (with_reducible first | apply access_kept | apply latchPos_kept | apply kept_foldl | apply kept_fold1 | apply kept_fold2)
    | (with_reducible first | apply kept_ite | apply goes_next)
    | dsimp -zeta only
    | split

theorem setCapQ_kept {q : List Instr} (s : State) (i : Nat) (q0 : List Capture) (hs : Kept q s) :
    Kept q (State.setCapQ s i q0) := by
  unfold State.setCapQ
  repeat' first
    | (with_reducible first | assumption | intro _ | exact kept_mk (by assumption))
    | (with_reducible extract_lets +onlyGivenNames x'; unfold x'; clear x')
    | (with_reducible first | apply setFld_kept | apply kept_foldl | apply kept_fold1 | apply kept_fold2 | apply kept_ite)
    | (with_reducible first | apply goes_next)
    | dsimp -zeta only
    | split

theorem popCap_kept {q : List Instr} (s : State) (i : Nat) (hs : Kept q s) :
    Kept q (State.popCap s i) := by
  unfold State.popCap
  repeat' first
    | (with_reducible first | assumption | intro _ | exact kept_mk (by assumption))
    | (with_reducible extract_lets +onlyGivenNames x'; unfold x'; clear x')
    | (with_reducible first | apply wr_kept | apply wrWords_kept | apply setFld_kept | apply setCapQ_kept | apply kept_foldl)
    | (with_reducible first | apply kept_fold1 | apply kept_fold2 | apply kept_ite | apply goes_next)
    | dsimp -zeta only
    | split

theorem execCapNsRead_kept {q : List Instr} (who : Requester) (i : Fin 8) (s : State) (hs : Kept q s) :
    Goes q (execCapNsRead who i s) := by
  unfold execCapNsRead
  repeat' first
    | (with_reducible first | assumption | intro _ | exact kept_mk (by assumption))
    | (with_reducible extract_lets +onlyGivenNames x'; unfold x'; clear x')
    | (with_reducible first | apply access_kept | apply popCap_kept | apply kept_foldl | apply kept_fold1 | apply kept_fold2)
    | (with_reducible first | apply kept_ite | apply goes_next)
    | dsimp -zeta only
    | split

theorem execFreqAdjHiWrite_kept {q : List Instr} (who : Requester) (b : Fin 8) (value : W32) (s : State) (hs : Kept q s) :
    Goes q (execFreqAdjHiWrite who b value s) := by
  unfold execFreqAdjHiWrite
  repeat' first
    | (with_reducible first | assumption | intro _ | exact kept_mk (by assumption))
    | (with_reducible extract_lets +onlyGivenNames x'; unfold x'; clear x')
    | (with_reducible first | apply accessHeld_kept | apply applyFreq_kept | apply kept_foldl | apply kept_fold1)
    | (with_reducible first | apply kept_fold2 | apply kept_ite | apply goes_next)
    | dsimp -zeta only
    | split

theorem execStepCtlGo_kept {q : List Instr} (who : Requester) (b : Fin 8) (value : W32) (s : State) (hs : Kept q s) :
    Goes q (execStepCtlGo who b value s) := by
  unfold execStepCtlGo
  repeat' first
    | (with_reducible first | assumption | intro _ | exact kept_mk (by assumption))
    | (with_reducible extract_lets +onlyGivenNames x'; unfold x'; clear x')
    | (with_reducible first | apply accessHeld_kept | apply wrN_kept | apply askStep_kept | apply kept_foldl | apply kept_fold1)
    | (with_reducible first | apply kept_fold2 | apply kept_ite | apply goes_next)
    | dsimp -zeta only
    | split

theorem execTbStateWrite_kept {q : List Instr} (who : Requester) (b : Fin 8) (value : W32) (s : State) (hs : Kept q s) :
    Goes q (execTbStateWrite who b value s) := by
  unfold execTbStateWrite
  repeat' first
    | (with_reducible first | assumption | intro _ | exact kept_mk (by assumption))
    | (with_reducible extract_lets +onlyGivenNames x'; unfold x'; clear x')
    | (with_reducible first | apply accessHeld_kept | apply tbSetState_kept | apply setBit_kept | apply kept_foldl)
    | (with_reducible first | apply kept_fold1 | apply kept_fold2 | apply kept_ite | apply goes_next)
    | dsimp -zeta only
    | split

theorem execGridShadowWrite_kept {q : List Instr} (who : Requester) (g : Fin 256) (ctl : Bool) (value : W32) (s : State) (hs : Kept q s) :
    Goes q (execGridShadowWrite who g ctl value s) := by
  unfold execGridShadowWrite
  repeat' first
    | (with_reducible first | assumption | intro _ | exact kept_mk (by assumption))
    | (with_reducible extract_lets +onlyGivenNames x'; unfold x'; clear x')
    | (with_reducible first | apply accessHeld_kept | apply wrN_kept | apply wr_kept | apply setFld_kept | apply kept_foldl)
    | (with_reducible first | apply kept_fold1 | apply kept_fold2 | apply kept_ite | apply goes_next)
    | dsimp -zeta only
    | split

theorem toutWrite_kept {q : List Instr} (s : State) (i : Nat) (v : W32) (hs : Kept q s) :
    Kept q (State.toutWrite s i v) := by
  unfold State.toutWrite
  repeat' first
    | with_reducible assumption
    | with_reducible refine kept_some ?_
    | with_reducible refine kept_some1 ?_
    | with_reducible exact kept_none
    | with_reducible exact kept_none1
    | with_reducible refine kept_map ?_
    | with_reducible intro _
    | with_reducible exact kept_mk (by with_reducible assumption)
    | (with_reducible extract_lets +onlyGivenNames x'; refine kept_cut q x' ?_ ?_; (focus (unfold x'; clear x')); rotate_left; (focus (intro _; clear_value x')))
    | (with_reducible extract_lets +onlyGivenNames x'; refine kept_cut1 q x' ?_ ?_; (focus (unfold x'; clear x')); rotate_left; (focus (intro _; clear_value x')))
    | (with_reducible extract_lets +onlyGivenNames x'; refine kept_cut2 q x' ?_ ?_; (focus (unfold x'; clear x')); rotate_left; (focus (intro _; clear_value x')))
    | (with_reducible extract_lets +onlyGivenNames x'; unfold x'; clear x')
    | with_reducible apply wr_kept
    | with_reducible apply kept_foldl
    | with_reducible apply kept_fold1
    | with_reducible apply kept_fold2
    | with_reducible apply kept_ite
    | with_reducible apply goes_next
    | dsimp -zeta only
    | split

theorem execToutCfgWrite_kept {q : List Instr} (who : Requester) (i : Fin 8) (value : W32) (s : State) (hs : Kept q s) :
    Goes q (execToutCfgWrite who i value s) := by
  unfold execToutCfgWrite
  repeat' first
    | (with_reducible first | assumption | intro _ | exact kept_mk (by assumption))
    | (with_reducible extract_lets +onlyGivenNames x'; unfold x'; clear x')
    | (with_reducible first | apply accessHeld_kept | apply toutWrite_kept | apply kept_foldl | apply kept_fold1)
    | (with_reducible first | apply kept_fold2 | apply kept_ite | apply goes_next)
    | dsimp -zeta only
    | split

theorem capWrite_kept {q : List Instr} (s : State) (i : Nat) (v : W32) (hs : Kept q s) :
    Kept q (State.capWrite s i v) := by
  unfold State.capWrite
  repeat' first
    | (with_reducible first | assumption | intro _ | exact kept_mk (by assumption))
    | (with_reducible extract_lets +onlyGivenNames x'; unfold x'; clear x')
    | (with_reducible first | apply setFld_kept | apply kept_foldl | apply kept_fold1 | apply kept_fold2 | apply kept_ite)
    | (with_reducible first | apply goes_next)
    | dsimp -zeta only
    | split

theorem execTbQuery_kept {q : List Instr} (d : Desc) (s : State) (hs : Kept q s) :
    Goes q (execTbQuery d s) := by
  unfold execTbQuery
  repeat' first
    | (with_reducible first | assumption | intro _ | exact kept_mk (by assumption))
    | (with_reducible extract_lets +onlyGivenNames x'; unfold x'; clear x')
    | (with_reducible first | apply commandNow_kept | apply kept_foldl | apply kept_fold1 | apply kept_fold2 | apply kept_ite)
    | (with_reducible first | apply goes_next)
    | dsimp -zeta only
    | split

theorem execTbDisciplineStart_kept {q : List Instr} (d : Desc) (s : State) (hs : Kept q s) :
    Goes q (execTbDisciplineStart d s) := by
  unfold execTbDisciplineStart
  repeat' first
    | (with_reducible first | assumption | intro _ | exact kept_mk (by assumption))
    | (with_reducible extract_lets +onlyGivenNames x'; unfold x'; clear x')
    | (with_reducible first | apply commandNow_kept | apply tbSetState_kept | apply kept_foldl | apply kept_fold1)
    | (with_reducible first | apply kept_fold2 | apply kept_ite | apply goes_next)
    | dsimp -zeta only
    | split

theorem execTbDisciplineStop_kept {q : List Instr} (d : Desc) (s : State) (hs : Kept q s) :
    Goes q (execTbDisciplineStop d s) := by
  unfold execTbDisciplineStop
  repeat' first
    | (with_reducible first | assumption | intro _ | exact kept_mk (by assumption))
    | (with_reducible extract_lets +onlyGivenNames x'; unfold x'; clear x')
    | (with_reducible first | apply commandNow_kept | apply tbSetState_kept | apply kept_foldl | apply kept_fold1)
    | (with_reducible first | apply kept_fold2 | apply kept_ite | apply goes_next)
    | dsimp -zeta only
    | split

theorem execTbStep_kept {q : List Instr} (d : Desc) (s : State) (hs : Kept q s) :
    Goes q (execTbStep d s) := by
  unfold execTbStep
  repeat' first
    | (with_reducible first | assumption | intro _ | exact kept_mk (by assumption))
    | (with_reducible extract_lets +onlyGivenNames x'; unfold x'; clear x')
    | (with_reducible first | apply command_kept | apply askStep_kept | apply kept_foldl | apply kept_fold1 | apply kept_fold2)
    | (with_reducible first | apply kept_ite | apply goes_next)
    | dsimp -zeta only
    | split

theorem execTbFreq_kept {q : List Instr} (d : Desc) (s : State) (hs : Kept q s) :
    Goes q (execTbFreq d s) := by
  unfold execTbFreq
  repeat' first
    | (with_reducible first | assumption | intro _ | exact kept_mk (by assumption))
    | (with_reducible extract_lets +onlyGivenNames x'; unfold x'; clear x')
    | (with_reducible first | apply commandNow_kept | apply applyFreq_kept | apply kept_foldl | apply kept_fold1)
    | (with_reducible first | apply kept_fold2 | apply kept_ite | apply goes_next)
    | dsimp -zeta only
    | split

theorem execGridQuery_kept {q : List Instr} (d : Desc) (s : State) (hs : Kept q s) :
    Goes q (execGridQuery d s) := by
  unfold execGridQuery
  repeat' first
    | (with_reducible first | assumption | intro _ | exact kept_mk (by assumption))
    | (with_reducible extract_lets +onlyGivenNames x'; unfold x'; clear x')
    | (with_reducible first | apply commandNow_kept | apply kept_foldl | apply kept_fold1 | apply kept_fold2 | apply kept_ite)
    | (with_reducible first | apply goes_next)
    | dsimp -zeta only
    | split

theorem execGridOffset_kept {q : List Instr} (d : Desc) (s : State) (hs : Kept q s) :
    Goes q (execGridOffset d s) := by
  unfold execGridOffset
  repeat' first
    | (with_reducible first | assumption | intro _ | exact kept_mk (by assumption))
    | (with_reducible extract_lets +onlyGivenNames x'; unfold x'; clear x')
    | (with_reducible first | apply commandNow_kept | apply wr_kept | apply wrN_kept | apply kept_foldl | apply kept_fold1)
    | (with_reducible first | apply kept_fold2 | apply kept_ite | apply goes_next)
    | dsimp -zeta only
    | split

theorem execSnapshotCopyComplete_kept {q : List Instr} (blk : Fin 4096) (s : State) (hs : Kept q s) :
    Goes q (execSnapshotCopyComplete blk s) := by
  unfold execSnapshotCopyComplete
  repeat' first
    | (with_reducible first | assumption | intro _ | exact kept_mk (by assumption))
    | (with_reducible extract_lets +onlyGivenNames x'; unfold x'; clear x')
    | (with_reducible first | apply raise_kept | apply wr_kept | apply kept_foldl | apply kept_fold1 | apply kept_fold2)
    | (with_reducible first | apply kept_ite | apply goes_next)
    | dsimp -zeta only
    | split

theorem execSnapRequest_kept {q : List Instr} (d : Desc) (s : State) (hs : Kept q s) :
    Goes q (execSnapRequest d s) := by
  unfold execSnapRequest
  repeat' first
    | (with_reducible first | assumption | intro _ | exact kept_mk (by assumption))
    | (with_reducible extract_lets +onlyGivenNames x'; unfold x'; clear x')
    | (with_reducible first | apply command_kept | apply kept_foldl | apply kept_fold1 | apply kept_fold2 | apply kept_ite)
    | (with_reducible first | apply goes_next)
    | dsimp -zeta only
    | split

theorem execTimeInEdge_kept {q : List Instr} (i : Fin 8) (falling : Bool) (s : State) (hs : Kept q s) :
    Goes q (execTimeInEdge i falling s) := by
  unfold execTimeInEdge
  repeat' first
    | (with_reducible first | assumption | intro _ | exact kept_mk (by assumption))
    | (with_reducible extract_lets +onlyGivenNames x'; unfold x'; clear x')
    | (with_reducible first | apply raise_kept | apply setBit_kept | apply setCapQ_kept | apply kept_foldl | apply kept_fold1)
    | (with_reducible first | apply kept_fold2 | apply kept_ite | apply goes_next)
    | dsimp -zeta only
    | split

theorem execCapRead_kept {q : List Instr} (d : Desc) (s : State) (hs : Kept q s) :
    Goes q (execCapRead d s) := by
  unfold execCapRead
  repeat' first
    | (with_reducible first | assumption | intro _ | exact kept_mk (by assumption))
    | (with_reducible extract_lets +onlyGivenNames x'; unfold x'; clear x')
    | (with_reducible first | apply commandNow_kept | apply popCap_kept | apply kept_foldl | apply kept_fold1 | apply kept_fold2)
    | (with_reducible first | apply kept_ite | apply goes_next)
    | dsimp -zeta only
    | split

theorem execTioConfig_kept {q : List Instr} (d : Desc) (s : State) (hs : Kept q s) :
    Goes q (execTioConfig d s) := by
  unfold execTioConfig
  repeat' first
    | (with_reducible first | assumption | intro _ | exact kept_mk (by assumption))
    | (with_reducible extract_lets +onlyGivenNames x'; unfold x'; clear x')
    | (with_reducible first | apply commandNow_kept | apply toutWrite_kept | apply capWrite_kept | apply kept_foldl)
    | (with_reducible first | apply kept_fold1 | apply kept_fold2 | apply kept_ite | apply goes_next)
    | dsimp -zeta only
    | split

theorem execSynceSelect_kept {q : List Instr} (d : Desc) (s : State) (hs : Kept q s) :
    Goes q (execSynceSelect d s) := by
  unfold execSynceSelect
  repeat' first
    | (with_reducible first | assumption | intro _ | exact kept_mk (by assumption))
    | (with_reducible extract_lets +onlyGivenNames x'; unfold x'; clear x')
    | (with_reducible first | apply commandNow_kept | apply setFld_kept | apply kept_foldl | apply kept_fold1 | apply kept_fold2)
    | (with_reducible first | apply kept_ite | apply goes_next)
    | dsimp -zeta only
    | split

theorem execTimeOutPulseEnd_kept {q : List Instr} (i : Fin 8) (s : State) (hs : Kept q s) :
    Goes q (execTimeOutPulseEnd i s) := by
  unfold execTimeOutPulseEnd
  repeat' first
    | (with_reducible first | assumption | intro _ | exact kept_mk (by assumption))
    | (with_reducible extract_lets +onlyGivenNames x'; unfold x'; clear x')
    | (with_reducible first | apply kept_foldl | apply kept_fold1 | apply kept_fold2 | apply kept_ite | apply goes_next)
    | dsimp -zeta only
    | split

theorem execSynceSquelch_kept {q : List Instr} (k : Fin 2) (lol : Bool) (s : State) (hs : Kept q s) :
    Goes q (execSynceSquelch k lol s) := by
  unfold execSynceSquelch
  repeat' first
    | (with_reducible first | assumption | intro _ | exact kept_mk (by assumption))
    | (with_reducible extract_lets +onlyGivenNames x'; unfold x'; clear x')
    | (with_reducible first | apply setBit_kept | apply raise_kept | apply kept_foldl | apply kept_fold1 | apply kept_fold2)
    | (with_reducible first | apply kept_ite | apply goes_next)
    | dsimp -zeta only
    | split

end Sys2Proof.Machine
end

