-- ==== Sys2Proof/Laws/KeptScribe.lean ====
section
/-! SUPPORT. What the operations of Scribe keep. -/

namespace Sys2Proof.Machine
open Sys2Proof

set_option linter.all false

theorem execChannelClaim_kept {q : List Instr} (who : Requester) (e : Fin 12) (r : Fin 16) (mask : BitVec 14) (s : State) (hs : Kept q s) :
    Goes q (execChannelClaim who e r mask s) := by
  unfold execChannelClaim
  repeat' first
    | (with_reducible first | assumption | intro _ | exact kept_mk (by assumption))
    | (with_reducible extract_lets +onlyGivenNames x'; unfold x'; clear x')
    | (with_reducible first | apply access_kept | apply setBit_kept | apply kept_foldl | apply kept_fold1 | apply kept_fold2)
    | (with_reducible first | apply kept_ite | apply goes_next)
    | dsimp -zeta only
    | split

theorem execChannelRelease_kept {q : List Instr} (who : Requester) (e : Fin 12) (r : Fin 16) (mask : BitVec 14) (s : State) (hs : Kept q s) :
    Goes q (execChannelRelease who e r mask s) := by
  unfold execChannelRelease
  repeat' first
    | (with_reducible first | assumption | intro _ | exact kept_mk (by assumption))
    | (with_reducible extract_lets +onlyGivenNames x'; unfold x'; clear x')
    | (with_reducible first | apply access_kept | apply setBit_kept | apply setFld_kept | apply kept_foldl | apply kept_fold1)
    | (with_reducible first | apply kept_fold2 | apply kept_ite | apply goes_next)
    | dsimp -zeta only
    | split

theorem tplHandover_kept {q : List Instr} (s : State) (e : Nat) (c : Nat) (hs : Kept q s) :
    Kept q (State.tplHandover s e c) := by
  unfold State.tplHandover
  repeat' first
    | (with_reducible first | assumption | intro _ | exact kept_mk (by assumption))
    | (with_reducible extract_lets +onlyGivenNames x'; unfold x'; clear x')
    | (with_reducible first | apply wr_kept | apply setFld_kept | apply kept_foldl | apply kept_fold1 | apply kept_fold2)
    | (with_reducible first | apply kept_ite | apply goes_next)
    | dsimp -zeta only
    | split

theorem tctlWrite_kept {q : List Instr} (s : State) (e : Fin 12) (c : Fin 8) (v : W32) (hs : Kept q s) :
    Kept q (State.tctlWrite s e c v) := by
  unfold State.tctlWrite
  repeat' first
    | (with_reducible first | assumption | intro _ | exact kept_mk (by assumption))
    | (with_reducible extract_lets +onlyGivenNames x'; unfold x'; clear x')
    | (with_reducible first | apply setFld_kept | apply setBit_kept | apply abandon_kept | apply tplHandover_kept)
    | (with_reducible first | apply kept_foldl | apply kept_fold1 | apply kept_fold2 | apply kept_ite | apply goes_next)
    | dsimp -zeta only
    | split

theorem execTctlEnable_kept {q : List Instr} (who : Requester) (e : Fin 12) (c : Fin 8) (value : W32) (s : State) (hs : Kept q s) :
    Goes q (execTctlEnable who e c value s) := by
  unfold execTctlEnable
  repeat' first
    | (with_reducible first | assumption | intro _ | exact kept_mk (by assumption))
    | (with_reducible extract_lets +onlyGivenNames x'; unfold x'; clear x')
    | (with_reducible first | apply accessHeld_kept | apply tctlWrite_kept | apply kept_foldl | apply kept_fold1)
    | (with_reducible first | apply kept_fold2 | apply kept_ite | apply goes_next)
    | dsimp -zeta only
    | split

theorem scribeRealmReset_kept {q : List Instr} (s : State) (r : Nat) (hs : Kept q s) :
    Kept q (State.scribeRealmReset s r) := by
  unfold State.scribeRealmReset
  repeat' first
    | (with_reducible first | assumption | intro _ | exact kept_mk (by assumption))
    | (with_reducible extract_lets +onlyGivenNames x'; unfold x'; clear x')
    | (with_reducible first | apply abandon_kept | apply setFld_kept | apply kept_foldl | apply kept_fold1 | apply kept_fold2)
    | (with_reducible first | apply kept_ite | apply goes_next)
    | dsimp -zeta only
    | split

theorem setScb_kept {q : List Instr} (s : State) (x : ScbState) (hs : Kept q s) :
    Kept q (State.setScb s x) := by
  unfold State.setScb
  repeat' first
    | (with_reducible first | assumption | intro _ | exact kept_mk (by assumption))
    | (with_reducible extract_lets +onlyGivenNames x'; unfold x'; clear x')
    | (with_reducible first | apply kept_foldl | apply kept_fold1 | apply kept_fold2 | apply kept_ite | apply goes_next)
    | dsimp -zeta only
    | split

theorem landJob_kept {q : List Instr} (s : State) (p : PoolJob) (hs : Kept q s) :
    Kept q (State.landJob s p) := by
  unfold State.landJob
  repeat' first
    | (with_reducible first | assumption | intro _ | exact kept_mk (by assumption))
    | (with_reducible extract_lets +onlyGivenNames x'; unfold x'; clear x')
    | (with_reducible first | apply unpoison_kept | apply setBytes_kept | apply kept_foldl | apply kept_fold1 | apply kept_fold2)
    | (with_reducible first | apply kept_ite | apply goes_next)
    | dsimp -zeta only
    | split

theorem scbError_kept {q : List Instr} (s : State) (e : Nat) (c : Nat) (status : Nat) (hs : Kept q s) :
    Kept q (State.scbError s e c status) := by
  unfold State.scbError
  repeat' first
    | (with_reducible first | assumption | intro _ | exact kept_mk (by assumption))
    | (with_reducible extract_lets +onlyGivenNames x'; unfold x'; clear x')
    | (with_reducible first | apply wrN_kept | apply raise_kept | apply kept_foldl | apply kept_fold1 | apply kept_fold2)
    | (with_reducible first | apply kept_ite | apply goes_next)
    | dsimp -zeta only
    | split

theorem scribeDone_kept {q : List Instr} (s : State) (e : Fin 12) (c : Fin 32) (x : Nat) (status : Nat) (detail : Nat) (result : Nat) (hs : Kept q s) :
    Kept q (State.scribeDone s e c x status detail result) := by
  unfold State.scribeDone
  repeat' first
    | (with_reducible first | assumption | intro _ | exact kept_mk (by assumption))
    | (with_reducible extract_lets +onlyGivenNames x'; unfold x'; clear x')
    | (with_reducible first | apply writeBack_kept | apply bump_kept | apply wrN_kept | apply scbError_kept)
    | (with_reducible first | apply complete_kept | apply kept_foldl | apply kept_fold1 | apply kept_fold2 | apply kept_ite)
    | (with_reducible first | apply goes_next)
    | dsimp -zeta only
    | split

theorem execScribeDescriptorComplete_kept {q : List Instr} (e : Fin 12) (c : Fin 32) (s : State) (hs : Kept q s) :
    Goes q (execScribeDescriptorComplete e c s) := by
  unfold execScribeDescriptorComplete
  repeat' first
    | (with_reducible first | assumption | intro _ | exact kept_mk (by assumption))
    | (with_reducible extract_lets +onlyGivenNames x'; unfold x'; clear x')
    | (with_reducible first | apply setScb_kept | apply landJob_kept | apply wrN_kept | apply scribeDone_kept)
    | (with_reducible first | apply drainCheck_kept | apply bump_kept | apply setFld_kept | apply demoDone_kept)
    | (with_reducible first | apply kept_foldl | apply kept_fold1 | apply kept_fold2 | apply kept_ite | apply goes_next)
    | dsimp -zeta only
    | split

theorem moveSeg_kept {q : List Instr} (s0 : State) (r : Nat) (chk : Bool) (m : Move) (g : Seg) (hs0 : Kept q s0) (hm : Kept q m.st) :
    Kept q (moveSeg s0 r chk m g).st := by
  unfold moveSeg
  repeat' first
    | (with_reducible first | assumption | intro _ | exact kept_mk (by assumption))
    | (with_reducible extract_lets +onlyGivenNames x'; unfold x'; clear x')
    | (with_reducible first | apply setBytes_kept | apply kept_foldl | apply kept_fold1 | apply kept_fold2 | apply kept_ite)
    | (with_reducible first | apply goes_next)
    | dsimp -zeta only
    | split

theorem scribeRun_kept {q : List Instr} (s : State) (r : Nat) (chk : Bool) (segs : List Seg) (hs : Kept q s) :
    Kept q (State.scribeRun s r chk segs).1 := by
  unfold State.scribeRun
  repeat' first
    | (with_reducible first | assumption | intro _ | exact kept_mk (by assumption))
    | (with_reducible extract_lets +onlyGivenNames x'; unfold x'; clear x')
    | (with_reducible first | apply moveSeg_kept | apply kept_foldl | apply kept_fold1 | apply kept_fold2 | apply kept_ite)
    | (with_reducible first | apply kept_elim | apply goes_next)
    | dsimp -zeta only
    | split

theorem scribeJob_kept {q : List Instr} (s : State) (r : Nat) (j : Job) (hs : Kept q s) :
    Kept q (State.scribeJob s r j).1 := by
  unfold State.scribeJob
  repeat' first
    | (with_reducible first | assumption | intro _ | exact kept_mk (by assumption))
    | (with_reducible extract_lets +onlyGivenNames x'; unfold x'; clear x')
    | (with_reducible first | apply scribeRun_kept | apply kept_foldl | apply kept_fold1 | apply kept_fold2 | apply kept_ite)
    | (with_reducible first | apply goes_next)
    | dsimp -zeta only
    | split

theorem scribeStart_kept {q : List Instr} (op : Nat) (j : Job) (s : State) (hs : Kept q s) :
    Kept q (scribeStart op j s) := by
  unfold scribeStart
  repeat' first
    | with_reducible assumption
    | with_reducible refine kept_some ?_
    | with_reducible refine kept_some1 ?_
    | with_reducible exact kept_none
    | with_reducible exact kept_none1
    | with_reducible refine kept_map ?_
    | with_reducible intro _
    | with_reducible exact kept_mk (by with_reducible assumption)
    | (with_reducible extract_lets +onlyGivenNames x'; refine kept_cut q x' ?_ ?_; (focus (unfold x'; clear x')); rotate_left; (focus (intro _; clear_value x')))
    | (with_reducible extract_lets +onlyGivenNames x'; refine kept_cut1 q x' ?_ ?_; (focus (unfold x'; clear x')); rotate_left; (focus (intro _; clear_value x')))
    | (with_reducible extract_lets +onlyGivenNames x'; refine kept_cut2 q x' ?_ ?_; (focus (unfold x'; clear x')); rotate_left; (focus (intro _; clear_value x')))
    | (with_reducible extract_lets +onlyGivenNames x'; unfold x'; clear x')
    | with_reducible apply scribeDone_kept
    | with_reducible apply scribeJob_kept
    | with_reducible apply wr_kept
    | with_reducible apply setFolio_kept
    | with_reducible apply setScb_kept
    | with_reducible apply kept_foldl
    | with_reducible apply kept_fold1
    | with_reducible apply kept_fold2
    | with_reducible apply kept_ite
    | with_reducible apply kept_elim
    | with_reducible apply goes_next
    | dsimp -zeta only
    | split

theorem execCopy1d_kept {q : List Instr} (j : Job) (s : State) (hs : Kept q s) :
    Goes q (execCopy1d j s) := by
  unfold execCopy1d
  repeat' first
    | (with_reducible first | assumption | intro _ | exact kept_mk (by assumption))
    | (with_reducible extract_lets +onlyGivenNames x'; unfold x'; clear x')
    | (with_reducible first | apply scribeStart_kept | apply kept_foldl | apply kept_fold1 | apply kept_fold2 | apply kept_ite)
    | (with_reducible first | apply goes_next)
    | dsimp -zeta only
    | split

theorem execCopy2d_kept {q : List Instr} (j : Job) (s : State) (hs : Kept q s) :
    Goes q (execCopy2d j s) := by
  unfold execCopy2d
  repeat' first
    | (with_reducible first | assumption | intro _ | exact kept_mk (by assumption))
    | (with_reducible extract_lets +onlyGivenNames x'; unfold x'; clear x')
    | (with_reducible first | apply scribeStart_kept | apply kept_foldl | apply kept_fold1 | apply kept_fold2 | apply kept_ite)
    | (with_reducible first | apply goes_next)
    | dsimp -zeta only
    | split

theorem execCopy3d_kept {q : List Instr} (j : Job) (s : State) (hs : Kept q s) :
    Goes q (execCopy3d j s) := by
  unfold execCopy3d
  repeat' first
    | (with_reducible first | assumption | intro _ | exact kept_mk (by assumption))
    | (with_reducible extract_lets +onlyGivenNames x'; unfold x'; clear x')
    | (with_reducible first | apply scribeStart_kept | apply kept_foldl | apply kept_fold1 | apply kept_fold2 | apply kept_ite)
    | (with_reducible first | apply goes_next)
    | dsimp -zeta only
    | split

theorem execGather_kept {q : List Instr} (j : Job) (s : State) (hs : Kept q s) :
    Goes q (execGather j s) := by
  unfold execGather
  repeat' first
    | (with_reducible first | assumption | intro _ | exact kept_mk (by assumption))
    | (with_reducible extract_lets +onlyGivenNames x'; unfold x'; clear x')
    | (with_reducible first | apply scribeStart_kept | apply kept_foldl | apply kept_fold1 | apply kept_fold2 | apply kept_ite)
    | (with_reducible first | apply goes_next)
    | dsimp -zeta only
    | split

theorem execBurstGrant_kept {q : List Instr} (ready : BitVec 128) (s : State) (hs : Kept q s) :
    Goes q (execBurstGrant ready s) := by
  unfold execBurstGrant
  repeat' first
    | (with_reducible first | assumption | intro _ | exact kept_mk (by assumption))
    | (with_reducible extract_lets +onlyGivenNames x'; unfold x'; clear x')
    | (with_reducible first | apply setScb_kept | apply bump_kept | apply kept_foldl | apply kept_fold1 | apply kept_fold2)
    | (with_reducible first | apply kept_ite | apply goes_next)
    | dsimp -zeta only
    | split

theorem execChCtlStop_kept {q : List Instr} (who : Requester) (e : Fin 12) (c : Fin 32) (value : W32) (s : State) (hs : Kept q s) :
    Goes q (execChCtlStop who e c value s) := by
  unfold execChCtlStop
  repeat' first
    | (with_reducible first | assumption | intro _ | exact kept_mk (by assumption))
    | (with_reducible extract_lets +onlyGivenNames x'; unfold x'; clear x')
    | (with_reducible first | apply accessHeld_kept | apply setFld_kept | apply kept_foldl | apply kept_fold1 | apply kept_fold2)
    | (with_reducible first | apply kept_ite | apply goes_next)
    | dsimp -zeta only
    | split

theorem execTctlCommit_kept {q : List Instr} (who : Requester) (e : Fin 12) (c : Fin 8) (value : W32) (s : State) (hs : Kept q s) :
    Goes q (execTctlCommit who e c value s) := by
  unfold execTctlCommit
  repeat' first
    | (with_reducible first | assumption | intro _ | exact kept_mk (by assumption))
    | (with_reducible extract_lets +onlyGivenNames x'; unfold x'; clear x')
    | (with_reducible first | apply accessHeld_kept | apply tctlWrite_kept | apply kept_foldl | apply kept_fold1)
    | (with_reducible first | apply kept_fold2 | apply kept_ite | apply goes_next)
    | dsimp -zeta only
    | split

theorem execTimedRoundStart_kept {q : List Instr} (e : Fin 4) (c : Fin 8) (s : State) (hs : Kept q s) :
    Goes q (execTimedRoundStart e c s) := by
  unfold execTimedRoundStart
  repeat' first
    | with_reducible assumption
    | with_reducible refine kept_some ?_
    | with_reducible refine kept_some1 ?_
    | with_reducible exact kept_none
    | with_reducible exact kept_none1
    | with_reducible refine kept_map ?_
    | with_reducible intro _
    | with_reducible exact kept_mk (by with_reducible assumption)
    | (with_reducible extract_lets +onlyGivenNames x'; refine kept_cut q x' ?_ ?_; (focus (unfold x'; clear x')); rotate_left; (focus (intro _; clear_value x')))
    | (with_reducible extract_lets +onlyGivenNames x'; refine kept_cut1 q x' ?_ ?_; (focus (unfold x'; clear x')); rotate_left; (focus (intro _; clear_value x')))
    | (with_reducible extract_lets +onlyGivenNames x'; refine kept_cut2 q x' ?_ ?_; (focus (unfold x'; clear x')); rotate_left; (focus (intro _; clear_value x')))
    | (with_reducible extract_lets +onlyGivenNames x'; unfold x'; clear x')
    | with_reducible apply setScb_kept
    | with_reducible apply raise_kept
    | with_reducible apply bumpSat_kept
    | with_reducible apply scribeJob_kept
    | with_reducible apply tplHandover_kept
    | with_reducible apply kept_foldl
    | with_reducible apply kept_fold1
    | with_reducible apply kept_fold2
    | with_reducible apply kept_ite
    | with_reducible apply goes_next
    | dsimp -zeta only
    | split

theorem execTimedRoundComplete_kept {q : List Instr} (e : Fin 4) (c : Fin 8) (s : State) (hs : Kept q s) :
    Goes q (execTimedRoundComplete e c s) := by
  unfold execTimedRoundComplete
  repeat' first
    | (with_reducible first | assumption | intro _ | exact kept_mk (by assumption))
    | (with_reducible extract_lets +onlyGivenNames x'; unfold x'; clear x')
    | (with_reducible first | apply landJob_kept | apply setScb_kept | apply bump_kept | apply writeBack_kept | apply wrN_kept)
    | (with_reducible first | apply notifyRing_kept | apply scbError_kept | apply kept_foldl | apply kept_fold1)
    | (with_reducible first | apply kept_fold2 | apply kept_ite | apply goes_next)
    | dsimp -zeta only
    | split

end Sys2Proof.Machine
end

