-- ==== Sys2Proof/Laws/KeptRegOps.lean ====
section
/-! SUPPORT. What the operations of RegOps keep. -/

namespace Sys2Proof.Machine
open Sys2Proof

set_option linter.all false

theorem outState_kept {q : List Instr} (s : State) (o : Out) (ho : Goes q o) : Kept q (outState s o) := by
  obtain ⟨t, rfl, ht⟩ := ho
  exact ht

theorem viaRead_kept {q : List Instr} (s : State) (f : State → Out) (hs : Kept q s) (hf : ∀ a0, Kept q a0 → Goes q (f a0)) :
    Kept q (viaRead s f).1 := by
  unfold viaRead
  repeat' first
    | (with_reducible first | assumption | intro _ | exact kept_mk (by assumption))
    | (with_reducible extract_lets +onlyGivenNames x'; unfold x'; clear x')
    | (with_reducible first | apply outState_kept | apply hf | apply kept_foldl | apply kept_fold1 | apply kept_fold2)
    | (with_reducible first | apply kept_ite | apply goes_next)
    | dsimp -zeta only
    | split

theorem readSpecial_kept {q : List Instr} (s : State) (who : Requester) (b0 : Nat) (n : Nat) (name : String) (i : Nat) (hs : Kept q s) :
    ∀ t, State.readSpecial s who b0 n name i = some t → Kept q t.1 := by
  unfold State.readSpecial
  repeat' first
    | (with_reducible first | assumption | refine kept_some ?_ | refine kept_some1 ?_ | exact kept_none | exact kept_none1)
    | (with_reducible first | refine kept_map ?_)
    | (show ∀ t, _ = some t → _; split)
    | (show ∀ t, _ = some t → _; dsimp -zeta only)
    | (show ∀ t, _ = some t → _; with_reducible extract_lets)
    | (with_reducible first | intro _ | exact kept_mk (by assumption))
    | (with_reducible extract_lets +onlyGivenNames x'; unfold x'; clear x')
    | (with_reducible first | apply viaRead_kept | apply execNowNsRead_kept | apply execGridPosRead_kept)
    | (with_reducible first | apply execCapNsRead_kept | apply execResLoRead_kept | apply execNextRead_kept)
    | (with_reducible first | apply execEccCorrRead_kept | apply pwrShow_kept | apply kept_foldl | apply kept_fold1)
    | (with_reducible first | apply kept_fold2 | apply kept_ite | apply goes_next)
    | dsimp -zeta only
    | split

theorem regRead_kept {q : List Instr} (s : State) (who : Requester) (a : Nat) (hs : Kept q s) :
    Kept q (State.regRead s who a).1 := by
  unfold State.regRead
  repeat' first
    | (with_reducible first | assumption | refine kept_some ?_ | refine kept_some1 ?_ | exact kept_none | exact kept_none1)
    | (with_reducible first | refine kept_map ?_ | intro _ | exact kept_mk (by assumption))
    | (with_reducible extract_lets +onlyGivenNames x'; unfold x'; clear x')
    | (with_reducible first | refine readSpecial_kept _ _ _ _ _ _ ?_ _ (by assumption) | apply plainRead_kept | apply kept_foldl)
    | (with_reducible first | apply kept_fold1 | apply kept_fold2 | apply kept_ite | apply kept_getD | apply kept_getD1)
    | (with_reducible first | apply goes_next)
    | dsimp -zeta only
    | split

theorem viaWrite_kept {q : List Instr} (s : State) (f : State → Out) (hs : Kept q s) (hf : ∀ a0, Kept q a0 → Goes q (f a0)) :
    Kept q (viaWrite s f) := by
  unfold viaWrite
  repeat' first
    | (with_reducible first | assumption | intro _ | exact kept_mk (by assumption))
    | (with_reducible extract_lets +onlyGivenNames x'; unfold x'; clear x')
    | (with_reducible first | apply outState_kept | apply hf | apply kept_foldl | apply kept_fold1 | apply kept_fold2)
    | (with_reducible first | apply kept_ite | apply goes_next)
    | dsimp -zeta only
    | split

theorem svcRequest_kept {q : List Instr} (s : State) (nib : Fin 128) (lo : W32) (hi : W32) (hs : Kept q s) :
    Kept q (State.svcRequest s nib lo hi) := by
  unfold State.svcRequest
  repeat' first
    | (with_reducible first | assumption | intro _ | exact kept_mk (by assumption))
    | (with_reducible extract_lets +onlyGivenNames x'; unfold x'; clear x')
    | (with_reducible first | apply viaWrite_kept | apply execYield_kept | apply execExit_kept | apply execDelay_kept)
    | (with_reducible first | apply execSemWait_kept | apply execSvcSemPost_kept | apply execFlagWait_kept)
    | (with_reducible first | apply execSvcFlagSet_kept | apply execFlagClear_kept | apply execTaskEnd_kept)
    | (with_reducible first | apply execCheckpoint_kept | apply execSetPrio_kept | apply service_kept | apply svcDone_kept)
    | (with_reducible first | apply kept_foldl | apply kept_fold1 | apply kept_fold2 | apply kept_ite | apply goes_next)
    | dsimp -zeta only
    | split

theorem ringRegWrite_kept {q : List Instr} (s : State) (who : Requester) (r : RingId) (o : Nat) (a : Nat) (v : Nat) (hs : Kept q s) :
    Kept q (State.ringRegWrite s who r o a v) := by
  unfold State.ringRegWrite
  repeat' first
    | (with_reducible first | assumption | intro _ | exact kept_mk (by assumption))
    | (with_reducible extract_lets +onlyGivenNames x'; unfold x'; clear x')
    | (with_reducible first | apply plainWrite_kept | apply ringCfgWrite_kept | apply ringTailWrite_kept | apply kept_foldl)
    | (with_reducible first | apply kept_fold1 | apply kept_fold2 | apply kept_ite | apply goes_next)
    | dsimp -zeta only
    | split

theorem ownedWrite_kept {q : List Instr} (s : State) (who : Requester) (e : Nat) (r : Nat) (v : Nat) (hs : Kept q s) :
    Kept q (State.ownedWrite s who e r v) := by
  unfold State.ownedWrite
  repeat' first
    | (with_reducible first | assumption | intro _ | exact kept_mk (by assumption))
    | (with_reducible extract_lets +onlyGivenNames x'; unfold x'; clear x')
    | (with_reducible first | apply viaWrite_kept | apply execChannelClaim_kept | apply execChannelRelease_kept)
    | (with_reducible first | apply kept_foldl | apply kept_fold1 | apply kept_fold2 | apply kept_ite | apply goes_next)
    | dsimp -zeta only
    | split

theorem pathShadow_kept {q : List Instr} (s : State) (who : Requester) (c : Nat) (a : Nat) (v : Nat) (hs : Kept q s) :
    Kept q (State.pathShadow s who c a v) := by
  unfold State.pathShadow
  repeat' first
    | (with_reducible first | assumption | intro _ | exact kept_mk (by assumption))
    | (with_reducible extract_lets +onlyGivenNames x'; unfold x'; clear x')
    | (with_reducible first | apply setFld_kept | apply plainWrite_kept | apply kept_foldl | apply kept_fold1 | apply kept_fold2)
    | (with_reducible first | apply kept_ite | apply goes_next)
    | dsimp -zeta only
    | split

theorem writeSpecial_kept {q : List Instr} (s : State) (who : Requester) (b0 : Nat) (n : Nat) (name : String) (ix : Nat × Nat × Nat) (a : Nat) (v : Nat) (hs : Kept q s) :
    ∀ t, State.writeSpecial s who b0 n name ix a v = some t → Kept q t := by
  unfold State.writeSpecial
  repeat' first
    | (with_reducible first | assumption | refine kept_some ?_ | refine kept_some1 ?_ | exact kept_none | exact kept_none1)
    | (with_reducible first | refine kept_map ?_)
    | (show ∀ t, _ = some t → _; split)
    | (show ∀ t, _ = some t → _; dsimp -zeta only)
    | (show ∀ t, _ = some t → _; with_reducible extract_lets)
    | (with_reducible first | intro _ | exact kept_mk (by assumption))
    | (with_reducible extract_lets +onlyGivenNames x'; unfold x'; clear x')
    | (with_reducible first | apply viaWrite_kept | apply execFreqAdjHiWrite_kept | apply execStepCtlGo_kept)
    | (with_reducible first | apply execTbStateWrite_kept | apply execGridShadowWrite_kept | apply execToutCfgWrite_kept)
    | (with_reducible first | apply execTrgCtlDisarm_kept | apply execTrgCtlCommit_kept | apply execTrgShadowWrite_kept)
    | (with_reducible first | apply execTcbWrite_kept | apply setIpend_kept | apply ferAbort_kept | apply execHdyAccRead_kept)
    | (with_reducible first | apply execHdyAccWrite_kept | apply execRtAccRead_kept | apply execRtAccWrite_kept)
    | (with_reducible first | apply execRtAccCopy_kept | apply execEpochFlip_kept | apply ownedWrite_kept | apply setFld_kept)
    | (with_reducible first | apply plainWrite_kept | apply execTctlEnable_kept | apply calSet_kept | apply execStAccRead_kept)
    | (with_reducible first | apply execStAccWrite_kept | apply raise_kept | apply bltConfig_kept | apply flStart_kept)
    | (with_reducible first | apply pathShadow_kept | apply passNow_kept | apply kept_foldl | apply kept_fold1)
    | (with_reducible first | apply kept_fold2 | apply kept_ite | apply goes_next)
    | dsimp -zeta only
    | split

theorem regWrite_kept {q : List Instr} (s : State) (who : Requester) (a : Nat) (v : Nat) (hs : Kept q s) :
    Kept q (State.regWrite s who a v) := by
  unfold State.regWrite
  repeat' first
    | (with_reducible first | assumption | refine kept_some ?_ | refine kept_some1 ?_ | exact kept_none | exact kept_none1)
    | (with_reducible first | refine kept_map ?_ | intro _ | exact kept_mk (by assumption))
    | (with_reducible extract_lets +onlyGivenNames x'; unfold x'; clear x')
    | (with_reducible first | apply ringRegWrite_kept | refine writeSpecial_kept _ _ _ _ _ _ _ _ ?_ _ (by assumption))
    | (with_reducible first | apply plainWrite_kept | apply kept_foldl | apply kept_fold1 | apply kept_fold2 | apply kept_ite)
    | (with_reducible first | apply kept_getD | apply kept_getD1 | apply goes_next)
    | dsimp -zeta only
    | split

theorem busWrite_kept {q : List Instr} (s : State) (who : Requester) (a : Nat) (n : Nat) (v : Nat) (hs : Kept q s) :
    Kept q (State.busWrite s who a n v) := by
  unfold State.busWrite
  repeat' first
    | (with_reducible first | assumption | intro _ | exact kept_mk (by assumption))
    | (with_reducible extract_lets +onlyGivenNames x'; unfold x'; clear x')
    | (with_reducible first | apply svcRequest_kept | apply regWrite_kept | apply kept_foldl | apply kept_fold1)
    | (with_reducible first | apply kept_fold2 | apply kept_ite | apply goes_next)
    | dsimp -zeta only
    | split

theorem busRead_kept {q : List Instr} (s : State) (who : Requester) (a : Nat) (n : Nat) (hs : Kept q s) :
    Kept q (State.busRead s who a n).1 := by
  unfold State.busRead
  repeat' first
    | (with_reducible first | assumption | intro _ | exact kept_mk (by assumption))
    | (with_reducible extract_lets +onlyGivenNames x'; unfold x'; clear x')
    | (with_reducible first | apply regRead_kept | apply kept_foldl | apply kept_fold1 | apply kept_fold2 | apply kept_ite)
    | (with_reducible first | apply goes_next)
    | dsimp -zeta only
    | split

end Sys2Proof.Machine
end

