-- ==== Sys2Proof/Laws/KeptNibBundle.lean ====
section
/-! SUPPORT. What the operations of NibBundle keep. -/

namespace Sys2Proof.Machine
open Sys2Proof

set_option linter.all false

theorem nibTime_kept {q : List Instr} (s : State) (i : Nat) (n : Nat) (frozen : Nat) (hs : Kept q s) :
    Kept q (State.nibTime s i n frozen) := by
  unfold State.nibTime
  repeat' first
    | (with_reducible first | assumption | intro _ | exact kept_mk (by assumption))
    | (with_reducible extract_lets +onlyGivenNames x'; unfold x'; clear x')
    | (with_reducible first | apply setNib_kept | apply bump_kept | apply wrN_kept | apply kept_foldl | apply kept_fold1)
    | (with_reducible first | apply kept_fold2 | apply kept_ite | apply goes_next)
    | dsimp -zeta only
    | split

theorem nibHalt_kept {q : List Instr} (s : State) (i : Nat) (run : Nat) (cause : Nat) (hs : Kept q s) :
    Kept q (State.nibHalt s i run cause) := by
  unfold State.nibHalt
  repeat' first
    | (with_reducible first | assumption | intro _ | exact kept_mk (by assumption))
    | (with_reducible extract_lets +onlyGivenNames x'; unfold x'; clear x')
    | (with_reducible first | apply setNib_kept | apply wrN_kept | apply raise_kept | apply nibShow_kept | apply setNibRun_kept)
    | (with_reducible first | apply kept_foldl | apply kept_fold1 | apply kept_fold2 | apply kept_ite | apply goes_next)
    | dsimp -zeta only
    | split

theorem nibBoundary_kept {q : List Instr} (s : State) (i : Nat) (hs : Kept q s) :
    Kept q (State.nibBoundary s i) := by
  unfold State.nibBoundary
  repeat' first
    | (with_reducible first | assumption | intro _ | exact kept_mk (by assumption))
    | (with_reducible extract_lets +onlyGivenNames x'; unfold x'; clear x')
    | (with_reducible first | apply nibHalt_kept | apply nibShow_kept | apply kept_foldl | apply kept_fold1 | apply kept_fold2)
    | (with_reducible first | apply kept_ite | apply goes_next)
    | dsimp -zeta only
    | split

theorem nibEnter_kept {q : List Instr} (s : State) (i : Nat) (cause : Nat) (faddr : Nat) (epc : Nat) (off : Nat) (hs : Kept q s) :
    Kept q (State.nibEnter s i cause faddr epc off) := by
  unfold State.nibEnter
  repeat' first
    | (with_reducible first | assumption | intro _ | exact kept_mk (by assumption))
    | (with_reducible extract_lets +onlyGivenNames x'; unfold x'; clear x')
    | (with_reducible first | apply nibBoundary_kept | apply nibTime_kept | apply setNib_kept | apply kept_foldl)
    | (with_reducible first | apply kept_fold1 | apply kept_fold2 | apply kept_ite | apply goes_next)
    | dsimp -zeta only
    | split

theorem nibInterrupt_kept {q : List Instr} (s : State) (i : Nat) (l : Nat) (hs : Kept q s) :
    Kept q (State.nibInterrupt s i l) := by
  unfold State.nibInterrupt
  repeat' first
    | (with_reducible first | assumption | intro _ | exact kept_mk (by assumption))
    | (with_reducible extract_lets +onlyGivenNames x'; unfold x'; clear x')
    | (with_reducible first | apply free1_kept | apply nibEnter_kept | apply kept_foldl | apply kept_fold1 | apply kept_fold2)
    | (with_reducible first | apply kept_ite | apply goes_next)
    | dsimp -zeta only
    | split

theorem setFstat_kept {q : List Instr} (s : State) (f : Nat) (v : Nat) (hs : Kept q s) :
    Kept q (State.setFstat s f v) := by
  unfold State.setFstat
  repeat' first
    | (with_reducible first | assumption | intro _ | exact kept_mk (by assumption))
    | (with_reducible extract_lets +onlyGivenNames x'; unfold x'; clear x')
    | (with_reducible first | apply setFld_kept | apply kept_foldl | apply kept_fold1 | apply kept_fold2 | apply kept_ite)
    | (with_reducible first | apply goes_next)
    | dsimp -zeta only
    | split

theorem setFcfg_kept {q : List Instr} (s : State) (f : Nat) (w : Nat) (v : Nat) (hs : Kept q s) :
    Kept q (State.setFcfg s f w v) := by
  unfold State.setFcfg
  repeat' first
    | (with_reducible first | assumption | intro _ | exact kept_mk (by assumption))
    | (with_reducible extract_lets +onlyGivenNames x'; unfold x'; clear x')
    | (with_reducible first | apply setFer_kept | apply kept_foldl | apply kept_fold1 | apply kept_fold2 | apply kept_ite)
    | (with_reducible first | apply goes_next)
    | dsimp -zeta only
    | split

theorem nibSysWrite_kept {q : List Instr} (s : State) (i : Nat) (n : Nat) (v : Nat) (hs : Kept q s) :
    Kept q (State.nibSysWrite s i n v) := by
  unfold State.nibSysWrite
  repeat' first
    | (with_reducible first | assumption | intro _ | exact kept_mk (by assumption))
    | (with_reducible extract_lets +onlyGivenNames x'; unfold x'; clear x')
    | (with_reducible first | apply setNib_kept | apply setIpend_kept | apply setFstat_kept | apply setFcfg_kept)
    | (with_reducible first | apply kept_foldl | apply kept_fold1 | apply kept_fold2 | apply kept_ite | apply goes_next)
    | dsimp -zeta only
    | split

theorem l1Discard_kept {q : List Instr} (s : State) (i : Nat) (l : Nat) (hs : Kept q s) :
    Kept q (State.l1Discard s i l) := by
  unfold State.l1Discard
  repeat' first
    | (with_reducible first | assumption | intro _ | exact kept_mk (by assumption))
    | (with_reducible extract_lets +onlyGivenNames x'; unfold x'; clear x')
    | (with_reducible first | apply setNib_kept | apply setBytes_kept | apply kept_foldl | apply kept_fold1 | apply kept_fold2)
    | (with_reducible first | apply kept_ite | apply goes_next)
    | dsimp -zeta only
    | split

theorem cacheOp_kept {q : List Instr} (s : State) (i : Nat) (op : Nat) (g : Nat) (hs : Kept q s) :
    Kept q (State.cacheOp s i op g) := by
  unfold State.cacheOp
  repeat' first
    | (with_reducible first | assumption | intro _ | exact kept_mk (by assumption))
    | (with_reducible extract_lets +onlyGivenNames x'; unfold x'; clear x')
    | (with_reducible first | apply setNib_kept | apply l1Discard_kept | apply kept_foldl | apply kept_fold1 | apply kept_fold2)
    | (with_reducible first | apply kept_ite | apply kept_getD | apply kept_getD1 | apply goes_next)
    | dsimp -zeta only
    | split

theorem ferLock_kept {q : List Instr} (s : State) (i : Nat) (f : Nat) (blocking : Bool) (hs : Kept q s) :
    Kept q (State.ferLock s i f blocking).1 := by
  unfold State.ferLock
  repeat' first
    | (with_reducible first | assumption | intro _ | exact kept_mk (by assumption))
    | (with_reducible extract_lets +onlyGivenNames x'; unfold x'; clear x')
    | (with_reducible first | apply setFld_kept | apply enterWait_kept | apply kept_foldl | apply kept_fold1 | apply kept_fold2)
    | (with_reducible first | apply kept_ite | apply goes_next)
    | dsimp -zeta only
    | split

theorem nibLand_kept {q : List Instr} (s : State) (i : Nat) (t : Nat) (key : Nat) (val : Nat) (lat : Nat) (hs : Kept q s) :
    Kept q (State.nibLand s i t key val lat) := by
  unfold State.nibLand
  repeat' first
    | (with_reducible first | assumption | intro _ | exact kept_mk (by assumption))
    | (with_reducible extract_lets +onlyGivenNames x'; unfold x'; clear x')
    | (with_reducible first | apply setNib_kept | apply kept_foldl | apply kept_fold1 | apply kept_fold2 | apply kept_ite)
    | (with_reducible first | apply goes_next)
    | dsimp -zeta only
    | split

theorem ferControl_kept {q : List Instr} (s : State) (i : Nat) (t : Nat) (func : Nat) (md : Nat) (a : Nat) (key : Nat) (hs : Kept q s) :
    Kept q (State.ferControl s i t func md a key).1 := by
  unfold State.ferControl
  repeat' first
    | (with_reducible first | assumption | refine kept_some ?_ | refine kept_some1 ?_ | exact kept_none | exact kept_none1)
    | (with_reducible first | refine kept_map ?_ | intro _ | exact kept_mk (by assumption))
    | (with_reducible extract_lets +onlyGivenNames x'; unfold x'; clear x')
    | (with_reducible first | apply ferLock_kept | apply nibLand_kept | apply ferRelease_kept | apply setFer_kept)
    | (with_reducible first | apply ferShow_kept | apply store_kept | apply unpoison_kept | apply setFld_kept)
    | (with_reducible first | apply setFcfg_kept | apply kept_foldl | apply kept_fold1 | apply kept_fold2 | apply kept_ite)
    | (with_reducible first | apply kept_getD | apply kept_getD1 | apply goes_next)
    | dsimp -zeta only
    | split

theorem ferPush_kept {q : List Instr} (s : State) (i : Nat) (c : FerCmd) (hs : Kept q s) :
    Kept q (State.ferPush s i c) := by
  unfold State.ferPush
  repeat' first
    | (with_reducible first | assumption | intro _ | exact kept_mk (by assumption))
    | (with_reducible extract_lets +onlyGivenNames x'; unfold x'; clear x')
    | (with_reducible first | apply setBit_kept | apply ferTagEnd_kept | apply ferShow_kept | apply setFer_kept)
    | (with_reducible first | apply kept_foldl | apply kept_fold1 | apply kept_fold2 | apply kept_ite | apply kept_getD)
    | (with_reducible first | apply kept_getD1 | apply goes_next)
    | dsimp -zeta only
    | split

theorem l1Dirty_kept {q : List Instr} (s : State) (i : Nat) (l : Nat) (before : List Byte) (hs : Kept q s) :
    Kept q (State.l1Dirty s i l before) := by
  unfold State.l1Dirty
  repeat' first
    | (with_reducible first | assumption | intro _ | exact kept_mk (by assumption))
    | (with_reducible extract_lets +onlyGivenNames x'; unfold x'; clear x')
    | (with_reducible first | apply setNib_kept | apply kept_foldl | apply kept_fold1 | apply kept_fold2 | apply kept_ite)
    | (with_reducible first | apply goes_next)
    | dsimp -zeta only
    | split

theorem nibStore_kept {q : List Instr} (s : State) (i : Nat) (lines : List Nat) (a : Nat) (n : Nat) (v : Nat) (hs : Kept q s) :
    Kept q (State.nibStore s i lines a n v) := by
  unfold State.nibStore
  repeat' first
    | (with_reducible first | assumption | intro _ | exact kept_mk (by assumption))
    | (with_reducible extract_lets +onlyGivenNames x'; unfold x'; clear x')
    | (with_reducible first | apply unpoison_kept | apply store_kept | apply l1Dirty_kept | apply kept_foldl | apply kept_fold1)
    | (with_reducible first | apply kept_fold2 | apply kept_ite | apply goes_next)
    | dsimp -zeta only
    | split

theorem applyEff_kept {q : List Instr} (i : Nat) (t : Nat) (lines : List Nat) (m : Commit) (e : Eff) (hm : Kept q m.s) :
    Kept q (applyEff i t lines m e).s := by
  unfold applyEff
  repeat' first
    | (with_reducible first | assumption | refine kept_some ?_ | refine kept_some1 ?_ | exact kept_none | exact kept_none1)
    | (with_reducible first | refine kept_map ?_ | intro _ | exact kept_mk (by assumption))
    | (with_reducible extract_lets +onlyGivenNames x'; unfold x'; clear x')
    | (with_reducible first | apply nibLand_kept | apply setNib_kept | apply nibSysWrite_kept | apply busWrite_kept)
    | (with_reducible first | apply nibStore_kept | apply busRead_kept | apply setNibRun_kept | apply cacheOp_kept)
    | (with_reducible first | apply ferControl_kept | apply ferPush_kept | apply kept_foldl | apply kept_fold1)
    | (with_reducible first | apply kept_fold2 | apply kept_ite | apply kept_getD | apply kept_getD1 | apply goes_next)
    | dsimp -zeta only
    | split

theorem nibExcept_kept {q : List Instr} (s : State) (i : Nat) (cause : Nat) (faddr : Nat) (epc : Nat) (hs : Kept q s) :
    Kept q (State.nibExcept s i cause faddr epc) := by
  unfold State.nibExcept
  repeat' first
    | (with_reducible first | assumption | intro _ | exact kept_mk (by assumption))
    | (with_reducible extract_lets +onlyGivenNames x'; unfold x'; clear x')
    | (with_reducible first | apply bump_kept | apply nibHalt_kept | apply setNib_kept | apply notice_kept | apply nibEnter_kept)
    | (with_reducible first | apply kept_foldl | apply kept_fold1 | apply kept_fold2 | apply kept_ite | apply goes_next)
    | dsimp -zeta only
    | split

theorem nibCommit_kept {q : List Instr} (s : State) (i : Nat) (t : Nat) (acts : List NibAct) (hs : Kept q s) :
    Kept q (State.nibCommit s i t acts) := by
  unfold State.nibCommit
  extract_lets x nxt m y u v
  have hm : Kept q m.s := by
    have go : ∀ (l : List NibAct) (m : Commit), Kept q m.s →
        Kept q (l.foldl (fun m a => a.effs.foldl (applyEff i t a.lines) m) m).s := by
      intro l
      induction l with
      | nil => exact fun _ h => h
      | cons a r ih =>
        intro m h
        refine ih _ ?_
        have go' : ∀ (l : List Eff) (m : Commit), Kept q m.s → Kept q (l.foldl (applyEff i t a.lines) m).s := by
          intro l
          induction l with
          | nil => exact fun _ h => h
          | cons e r ih => exact fun m h => ih _ (applyEff_kept _ _ _ _ _ h)
        exact go' _ _ h
    exact go _ _ hs
  have hv : Kept q v := nibTime_kept _ _ _ _ (setNib_kept _ _ _ hm)
  split
  · exact nibExcept_kept _ _ _ _ _ hv
  · split
    · exact nibShow_kept _ _ hv
    · exact nibBoundary_kept _ _ hv

theorem nibFreeze_kept {q : List Instr} (s : State) (i : Nat) (w : Option Nat) (hs : Kept q s) :
    Kept q (State.nibFreeze s i w) := by
  unfold State.nibFreeze
  repeat' first
    | (with_reducible first | assumption | intro _ | exact kept_mk (by assumption))
    | (with_reducible extract_lets +onlyGivenNames x'; unfold x'; clear x')
    | (with_reducible first | apply nibShow_kept | apply setNib_kept | apply kept_foldl | apply kept_fold1 | apply kept_fold2)
    | (with_reducible first | apply kept_ite | apply goes_next)
    | dsimp -zeta only
    | split

theorem nibTry_kept {q : List Instr} (s : State) (i : Nat) (whole : Bool) (hs : Kept q s) :
    Kept q (State.nibTry s i whole) := by
  unfold State.nibTry
  repeat' first
    | (with_reducible first | assumption | intro _ | exact kept_mk (by assumption))
    | (with_reducible extract_lets +onlyGivenNames x'; unfold x'; clear x')
    | (with_reducible first | apply nibHalt_kept | apply setNib_kept | apply nibExcept_kept | apply nibFreeze_kept)
    | (with_reducible first | apply firstWake_kept | apply nibCommit_kept | apply kept_foldl | apply kept_fold1)
    | (with_reducible first | apply kept_fold2 | apply kept_ite | apply goes_next)
    | dsimp -zeta only
    | split

theorem nibRetry_kept {q : List Instr} (s : State) (i : Nat) (hs : Kept q s) :
    Kept q (State.nibRetry s i) := by
  unfold State.nibRetry
  repeat' first
    | (with_reducible first | assumption | intro _ | exact kept_mk (by assumption))
    | (with_reducible extract_lets +onlyGivenNames x'; unfold x'; clear x')
    | (with_reducible first | apply nibTry_kept | apply kept_foldl | apply kept_fold1 | apply kept_fold2 | apply kept_ite)
    | (with_reducible first | apply goes_next)
    | dsimp -zeta only
    | split

theorem nibIssue_kept {q : List Instr} (o : NibOp) (ins : NibIns) (s : State) (hs : Kept q s) :
    Kept q (nibIssue o ins s) := by
  unfold nibIssue
  repeat' first
    | (with_reducible first | assumption | intro _ | exact kept_mk (by assumption))
    | (with_reducible extract_lets +onlyGivenNames x'; unfold x'; clear x')
    | (with_reducible first | apply setNib_kept | apply nibTry_kept | apply kept_foldl | apply kept_fold1 | apply kept_fold2)
    | (with_reducible first | apply kept_ite | apply goes_next)
    | dsimp -zeta only
    | split

end Sys2Proof.Machine
end

