-- ==== Sys2Proof/Laws/KeptNibEvents.lean ====
section
/-! SUPPORT. What the operations of NibEvents keep. -/

namespace Sys2Proof.Machine
open Sys2Proof

set_option linter.all false

theorem execCycleLoRead_kept {q : List Instr} (who : Requester) (nib : Fin 128) (s : State) (hs : Kept q s) :
    Goes q (execCycleLoRead who nib s) := by
  unfold execCycleLoRead
  repeat' first
    | (with_reducible first | assumption | intro _ | exact kept_mk (by assumption))
    | (with_reducible extract_lets +onlyGivenNames x'; unfold x'; clear x')
    | (with_reducible first | apply access_kept | apply free1_kept | apply nibTime_kept | apply wrN_kept | apply kept_foldl)
    | (with_reducible first | apply kept_fold1 | apply kept_fold2 | apply kept_ite | apply goes_next)
    | dsimp -zeta only
    | split

theorem execBundlesLoRead_kept {q : List Instr} (who : Requester) (nib : Fin 128) (s : State) (hs : Kept q s) :
    Goes q (execBundlesLoRead who nib s) := by
  unfold execBundlesLoRead
  repeat' first
    | (with_reducible first | assumption | intro _ | exact kept_mk (by assumption))
    | (with_reducible extract_lets +onlyGivenNames x'; unfold x'; clear x')
    | (with_reducible first | apply access_kept | apply wrN_kept | apply kept_foldl | apply kept_fold1 | apply kept_fold2)
    | (with_reducible first | apply kept_ite | apply goes_next)
    | dsimp -zeta only
    | split

theorem execDbgDataRead_kept {q : List Instr} (who : Requester) (nib : Fin 128) (s : State) (hs : Kept q s) :
    Goes q (execDbgDataRead who nib s) := by
  unfold execDbgDataRead
  repeat' first
    | (with_reducible first | assumption | intro _ | exact kept_mk (by assumption))
    | (with_reducible extract_lets +onlyGivenNames x'; unfold x'; clear x')
    | (with_reducible first | apply access_kept | apply wrN_kept | apply setBit_kept | apply kept_foldl | apply kept_fold1)
    | (with_reducible first | apply kept_fold2 | apply kept_ite | apply goes_next)
    | dsimp -zeta only
    | split

theorem nibStart_kept {q : List Instr} (s : State) (i : Nat) (hs : Kept q s) :
    Kept q (State.nibStart s i) := by
  unfold State.nibStart
  repeat' first
    | (with_reducible first | assumption | intro _ | exact kept_mk (by assumption))
    | (with_reducible extract_lets +onlyGivenNames x'; unfold x'; clear x')
    | (with_reducible first | apply nibShow_kept | apply setNibRun_kept | apply setNib_kept | apply kept_foldl)
    | (with_reducible first | apply kept_fold1 | apply kept_fold2 | apply kept_ite | apply goes_next)
    | dsimp -zeta only
    | split

theorem execNibCtlRun_kept {q : List Instr} (who : Requester) (nib : Fin 128) (s : State) (hs : Kept q s) :
    Goes q (execNibCtlRun who nib s) := by
  unfold execNibCtlRun
  repeat' first
    | (with_reducible first | assumption | intro _ | exact kept_mk (by assumption))
    | (with_reducible extract_lets +onlyGivenNames x'; unfold x'; clear x')
    | (with_reducible first | apply accessHeld_kept | apply nibStart_kept | apply kept_foldl | apply kept_fold1)
    | (with_reducible first | apply kept_fold2 | apply kept_ite | apply goes_next)
    | dsimp -zeta only
    | split

theorem nibStop_kept {q : List Instr} (s : State) (i : Nat) (hs : Kept q s) :
    Kept q (State.nibStop s i) := by
  unfold State.nibStop
  repeat' first
    | (with_reducible first | assumption | intro _ | exact kept_mk (by assumption))
    | (with_reducible extract_lets +onlyGivenNames x'; unfold x'; clear x')
    | (with_reducible first | apply nibHalt_kept | apply setNib_kept | apply kept_foldl | apply kept_fold1 | apply kept_fold2)
    | (with_reducible first | apply kept_ite | apply goes_next)
    | dsimp -zeta only
    | split

theorem execNibCtlHalt_kept {q : List Instr} (who : Requester) (nib : Fin 128) (s : State) (hs : Kept q s) :
    Goes q (execNibCtlHalt who nib s) := by
  unfold execNibCtlHalt
  repeat' first
    | (with_reducible first | assumption | intro _ | exact kept_mk (by assumption))
    | (with_reducible extract_lets +onlyGivenNames x'; unfold x'; clear x')
    | (with_reducible first | apply accessHeld_kept | apply nibStop_kept | apply kept_foldl | apply kept_fold1)
    | (with_reducible first | apply kept_fold2 | apply kept_ite | apply goes_next)
    | dsimp -zeta only
    | split

theorem nibResume_kept {q : List Instr} (s : State) (i : Nat) (hs : Kept q s) :
    Kept q (State.nibResume s i) := by
  unfold State.nibResume
  repeat' first
    | (with_reducible first | assumption | intro _ | exact kept_mk (by assumption))
    | (with_reducible extract_lets +onlyGivenNames x'; unfold x'; clear x')
    | (with_reducible first | apply nibShow_kept | apply setNibRun_kept | apply kept_foldl | apply kept_fold1 | apply kept_fold2)
    | (with_reducible first | apply kept_ite | apply goes_next)
    | dsimp -zeta only
    | split

theorem execNibCtlResume_kept {q : List Instr} (who : Requester) (nib : Fin 128) (s : State) (hs : Kept q s) :
    Goes q (execNibCtlResume who nib s) := by
  unfold execNibCtlResume
  repeat' first
    | (with_reducible first | assumption | intro _ | exact kept_mk (by assumption))
    | (with_reducible extract_lets +onlyGivenNames x'; unfold x'; clear x')
    | (with_reducible first | apply accessHeld_kept | apply nibResume_kept | apply kept_foldl | apply kept_fold1)
    | (with_reducible first | apply kept_fold2 | apply kept_ite | apply goes_next)
    | dsimp -zeta only
    | split

theorem nibStep_kept {q : List Instr} (s : State) (i : Nat) (hs : Kept q s) :
    Kept q (State.nibStep s i) := by
  unfold State.nibStep
  repeat' first
    | (with_reducible first | assumption | intro _ | exact kept_mk (by assumption))
    | (with_reducible extract_lets +onlyGivenNames x'; unfold x'; clear x')
    | (with_reducible first | apply setNib_kept | apply nibShow_kept | apply setNibRun_kept | apply nibInterrupt_kept)
    | (with_reducible first | apply kept_foldl | apply kept_fold1 | apply kept_fold2 | apply kept_ite | apply goes_next)
    | dsimp -zeta only
    | split

theorem execNibCtlStep_kept {q : List Instr} (who : Requester) (nib : Fin 128) (s : State) (hs : Kept q s) :
    Goes q (execNibCtlStep who nib s) := by
  unfold execNibCtlStep
  repeat' first
    | (with_reducible first | assumption | intro _ | exact kept_mk (by assumption))
    | (with_reducible extract_lets +onlyGivenNames x'; unfold x'; clear x')
    | (with_reducible first | apply accessHeld_kept | apply nibStep_kept | apply kept_foldl | apply kept_fold1)
    | (with_reducible first | apply kept_fold2 | apply kept_ite | apply goes_next)
    | dsimp -zeta only
    | split

theorem withBank_kept {q : List Instr} (s : State) (i : Nat) (sb : Bool) (hs : Kept q s) :
    Kept q (State.withBank s i sb) := by
  unfold State.withBank
  repeat' first
    | (with_reducible first | assumption | intro _ | exact kept_mk (by assumption))
    | (with_reducible extract_lets +onlyGivenNames x'; unfold x'; clear x')
    | (with_reducible first | apply setNib_kept | apply kept_foldl | apply kept_fold1 | apply kept_fold2 | apply kept_ite)
    | (with_reducible first | apply goes_next)
    | dsimp -zeta only
    | split

theorem dbgWrite_kept {q : List Instr} (s : State) (i : Nat) (v : Nat) (hs : Kept q s) :
    Kept q (State.dbgWrite s i v) := by
  unfold State.dbgWrite
  repeat' first
    | (with_reducible first | assumption | intro _ | exact kept_mk (by assumption))
    | (with_reducible extract_lets +onlyGivenNames x'; unfold x'; clear x')
    | (with_reducible first | apply setBit_kept | apply setNib_kept | apply withBank_kept | apply nibSysWrite_kept)
    | (with_reducible first | apply kept_foldl | apply kept_fold1 | apply kept_fold2 | apply kept_ite | apply goes_next)
    | dsimp -zeta only
    | split

theorem execDbgDataWrite_kept {q : List Instr} (who : Requester) (nib : Fin 128) (value : W32) (s : State) (hs : Kept q s) :
    Goes q (execDbgDataWrite who nib value s) := by
  unfold execDbgDataWrite
  repeat' first
    | (with_reducible first | assumption | intro _ | exact kept_mk (by assumption))
    | (with_reducible extract_lets +onlyGivenNames x'; unfold x'; clear x')
    | (with_reducible first | apply accessHeld_kept | apply dbgWrite_kept | apply wr_kept | apply setBit_kept | apply kept_foldl)
    | (with_reducible first | apply kept_fold1 | apply kept_fold2 | apply kept_ite | apply goes_next)
    | dsimp -zeta only
    | split

theorem nibReset_kept {q : List Instr} (s : State) (i : Nat) (hs : Kept q s) :
    Kept q (State.nibReset s i) := by
  unfold State.nibReset
  repeat' first
    | with_reducible assumption
    | with_reducible refine kept_some ?_
    | with_reducible refine kept_some1 ?_
    | with_reducible exact kept_none
    | with_reducible exact kept_none1
    | with_reducible refine kept_map ?_
    | with_reducible intro _
    | with_reducible exact kept_mk (by with_reducible assumption)
    | (with_reducible extract_lets +onlyGivenNames x'; refine kept_cut q x' ?_ ?_; (focus (unfold x'; clear x')); rotate_left; (focus (intro _; clear_value x')))
    | (with_reducible extract_lets +onlyGivenNames x'; refine kept_cut1 q x' ?_ ?_; (focus (unfold x'; clear x')); rotate_left; (focus (intro _; clear_value x')))
    | (with_reducible extract_lets +onlyGivenNames x'; refine kept_cut2 q x' ?_ ?_; (focus (unfold x'; clear x')); rotate_left; (focus (intro _; clear_value x')))
    | (with_reducible extract_lets +onlyGivenNames x'; unfold x'; clear x')
    | with_reducible apply setNib_kept
    | with_reducible apply nibShow_kept
    | with_reducible apply setNibRun_kept
    | with_reducible apply kept_foldl
    | with_reducible apply kept_fold1
    | with_reducible apply kept_fold2
    | with_reducible apply kept_ite
    | with_reducible apply goes_next
    | dsimp -zeta only
    | split

theorem execNibWaitWake_kept {q : List Instr} (nib : Fin 128) (s : State) (hs : Kept q s) :
    Goes q (execNibWaitWake nib s) := by
  unfold execNibWaitWake
  repeat' first
    | (with_reducible first | assumption | intro _ | exact kept_mk (by assumption))
    | (with_reducible extract_lets +onlyGivenNames x'; unfold x'; clear x')
    | (with_reducible first | apply setNibRun_kept | apply kept_foldl | apply kept_fold1 | apply kept_fold2 | apply kept_ite)
    | (with_reducible first | apply goes_next)
    | dsimp -zeta only
    | split

theorem execDeferredResultLanding_kept {q : List Instr} (nib : Fin 128) (s : State) (hs : Kept q s) :
    Goes q (execDeferredResultLanding nib s) := by
  unfold execDeferredResultLanding
  repeat' first
    | (with_reducible first | assumption | intro _ | exact kept_mk (by assumption))
    | (with_reducible extract_lets +onlyGivenNames x'; unfold x'; clear x')
    | (with_reducible first | apply nibTime_kept | apply setNib_kept | apply kept_foldl | apply kept_fold1 | apply kept_fold2)
    | (with_reducible first | apply kept_ite | apply goes_next)
    | dsimp -zeta only
    | split

theorem execCacheLineFill_kept {q : List Instr} (nib : Fin 128) (way : BitVec 4) (s : State) (hs : Kept q s) :
    Goes q (execCacheLineFill nib way s) := by
  unfold execCacheLineFill
  repeat' first
    | (with_reducible first | assumption | intro _ | exact kept_mk (by assumption))
    | (with_reducible extract_lets +onlyGivenNames x'; unfold x'; clear x')
    | (with_reducible first | apply firstWake_kept | apply free1_kept | apply nibRetry_kept | apply nibTime_kept)
    | (with_reducible first | apply setNib_kept | apply kept_foldl | apply kept_fold1 | apply kept_fold2 | apply kept_ite)
    | (with_reducible first | apply goes_next)
    | dsimp -zeta only
    | split

theorem execInterruptEntry_kept {q : List Instr} (nib : Fin 128) (s : State) (hs : Kept q s) :
    Goes q (execInterruptEntry nib s) := by
  unfold execInterruptEntry
  repeat' first
    | (with_reducible first | assumption | intro _ | exact kept_mk (by assumption))
    | (with_reducible extract_lets +onlyGivenNames x'; unfold x'; clear x')
    | (with_reducible first | apply nibInterrupt_kept | apply kept_foldl | apply kept_fold1 | apply kept_fold2 | apply kept_ite)
    | (with_reducible first | apply goes_next)
    | dsimp -zeta only
    | split

theorem execNibTimerExpiry_kept {q : List Instr} (nib : Fin 128) (s : State) (hs : Kept q s) :
    Goes q (execNibTimerExpiry nib s) := by
  unfold execNibTimerExpiry
  repeat' first
    | (with_reducible first | assumption | intro _ | exact kept_mk (by assumption))
    | (with_reducible extract_lets +onlyGivenNames x'; unfold x'; clear x')
    | (with_reducible first | apply nibTime_kept | apply setNib_kept | apply kept_foldl | apply kept_fold1 | apply kept_fold2)
    | (with_reducible first | apply kept_ite | apply goes_next)
    | dsimp -zeta only
    | split

theorem execDoorbellWrite_kept {q : List Instr} (who : Requester) (nib : Fin 128) (s : State) (hs : Kept q s) :
    Goes q (execDoorbellWrite who nib s) := by
  unfold execDoorbellWrite
  repeat' first
    | (with_reducible first | assumption | intro _ | exact kept_mk (by assumption))
    | (with_reducible extract_lets +onlyGivenNames x'; unfold x'; clear x')
    | (with_reducible first | apply access_kept | apply setIpend_kept | apply kept_foldl | apply kept_fold1 | apply kept_fold2)
    | (with_reducible first | apply kept_ite | apply goes_next)
    | dsimp -zeta only
    | split

end Sys2Proof.Machine
end

