-- ==== Sys2Proof/Laws/KeptHold.lean ====
section
/-! SUPPORT. What the operations of Hold keep. -/

namespace Sys2Proof.Machine
open Sys2Proof

set_option linter.all false

theorem nibRegRead_kept {q : List Instr} (s : State) (who : Requester) (a : Nat) (hs : Kept q s) :
    Kept q (State.nibRegRead s who a).1 := by
  unfold State.nibRegRead
  repeat' first
    | (with_reducible first | assumption | intro _ | exact kept_mk (by assumption))
    | (with_reducible extract_lets +onlyGivenNames x'; unfold x'; clear x')
    | (with_reducible first | apply viaRead_kept | apply execCycleLoRead_kept | apply execBundlesLoRead_kept)
    | (with_reducible first | apply execDbgDataRead_kept | apply regRead_kept | apply kept_foldl | apply kept_fold1)
    | (with_reducible first | apply kept_fold2 | apply kept_ite | apply goes_next)
    | dsimp -zeta only
    | split

theorem anyRead_kept {q : List Instr} (s : State) (who : Requester) (a : Nat) (n : Nat) (hs : Kept q s) :
    Kept q (State.anyRead s who a n).1 := by
  unfold State.anyRead
  repeat' first
    | (with_reducible first | assumption | intro _ | exact kept_mk (by assumption))
    | (with_reducible extract_lets +onlyGivenNames x'; unfold x'; clear x')
    | (with_reducible first | apply nibRegRead_kept | apply kept_foldl | apply kept_fold1 | apply kept_fold2 | apply kept_ite)
    | (with_reducible first | apply goes_next)
    | dsimp -zeta only
    | split

theorem nibRegWrite_kept {q : List Instr} (s : State) (who : Requester) (a : Nat) (v : Nat) (hs : Kept q s) :
    Kept q (State.nibRegWrite s who a v) := by
  unfold State.nibRegWrite
  repeat' first
    | (with_reducible first | assumption | intro _ | exact kept_mk (by assumption))
    | (with_reducible extract_lets +onlyGivenNames x'; unfold x'; clear x')
    | (with_reducible first | apply viaWrite_kept | apply execNibCtlRun_kept | apply execNibCtlHalt_kept)
    | (with_reducible first | apply execNibCtlResume_kept | apply execNibCtlStep_kept | apply execDbgDataWrite_kept)
    | (with_reducible first | apply regWrite_kept | apply kept_foldl | apply kept_fold1 | apply kept_fold2 | apply kept_ite)
    | (with_reducible first | apply goes_next)
    | dsimp -zeta only
    | split

theorem anyWrite_kept {q : List Instr} (s : State) (who : Requester) (a : Nat) (n : Nat) (v : Nat) (hs : Kept q s) :
    Kept q (State.anyWrite s who a n v) := by
  unfold State.anyWrite
  repeat' first
    | (with_reducible first | assumption | intro _ | exact kept_mk (by assumption))
    | (with_reducible extract_lets +onlyGivenNames x'; unfold x'; clear x')
    | (with_reducible first | apply busWrite_kept | apply nibRegWrite_kept | apply kept_foldl | apply kept_fold1)
    | (with_reducible first | apply kept_fold2 | apply kept_ite | apply goes_next)
    | dsimp -zeta only
    | split

theorem respond_kept {q : List Instr} (s : State) (x : State × Nat × Nat) (hs : Kept q s) (hx : Kept q x.1) :
    Kept q (State.respond s x) := by
  unfold State.respond
  repeat' first
    | (with_reducible first | assumption | intro _ | exact kept_mk (by assumption))
    | (with_reducible extract_lets +onlyGivenNames x'; unfold x'; clear x')
    | (with_reducible first | apply kept_foldl | apply kept_fold1 | apply kept_fold2 | apply kept_ite | apply goes_next)
    | dsimp -zeta only
    | split

theorem doAccess_kept {q : List Instr} (s : State) (who : Requester) (r : Nat) (write : Bool) (a : Nat) (n : Nat) (data : Nat) (hs : Kept q s) :
    Kept q (State.doAccess s who r write a n data).1 := by
  unfold State.doAccess
  repeat' first
    | (with_reducible first | assumption | intro _ | exact kept_mk (by assumption))
    | (with_reducible extract_lets +onlyGivenNames x'; unfold x'; clear x')
    | (with_reducible first | apply anyWrite_kept | apply anyRead_kept | apply unpoison_kept | apply store_kept)
    | (with_reducible first | apply kept_foldl | apply kept_fold1 | apply kept_fold2 | apply kept_ite | apply goes_next)
    | dsimp -zeta only
    | split

theorem holdOr_kept {q : List Instr} (s : State) (who : Requester) (code : Nat) (r : Nat) (write : Bool) (a : Nat) (n : Nat) (data : Nat) (hs : Kept q s) :
    Kept q (State.holdOr s who code r write a n data) := by
  unfold State.holdOr
  repeat' first
    | with_reducible assumption
    | with_reducible refine kept_some ?_
    | with_reducible refine kept_some1 ?_
    | with_reducible exact kept_none
    | with_reducible exact kept_none1
    | with_reducible refine kept_map ?_
    | with_reducible intro _
    | with_reducible exact kept_mk (by with_reducible assumption)
    | (with_reducible extract_lets +onlyGivenNames x'; refine kept_cut q x' ?_ ?_; (focus (unfold x'; clear x')); rotate_left; (focus (intro _; clear_value x')))
    | (with_reducible extract_lets +onlyGivenNames x'; refine kept_cut1 q x' ?_ ?_; (focus (unfold x'; clear x')); rotate_left; (focus (intro _; clear_value x')))
    | (with_reducible extract_lets +onlyGivenNames x'; refine kept_cut2 q x' ?_ ?_; (focus (unfold x'; clear x')); rotate_left; (focus (intro _; clear_value x')))
    | (with_reducible extract_lets +onlyGivenNames x'; unfold x'; clear x')
    | with_reducible apply respond_kept
    | with_reducible apply doAccess_kept
    | with_reducible apply firstWake_kept
    | with_reducible apply kept_foldl
    | with_reducible apply kept_fold1
    | with_reducible apply kept_fold2
    | with_reducible apply kept_ite
    | with_reducible apply goes_next
    | dsimp -zeta only
    | split

theorem jobFails_kept {q : List Instr} (s : State) (r : RingId) (status : Nat) (hs : Kept q s) :
    Kept q (State.jobFails s r status) := by
  unfold State.jobFails
  repeat' first
    | with_reducible assumption
    | with_reducible refine kept_some ?_
    | with_reducible refine kept_some1 ?_
    | with_reducible exact kept_none
    | with_reducible exact kept_none1
    | with_reducible refine kept_map ?_
    | with_reducible intro _
    | with_reducible exact kept_mk (by with_reducible assumption)
    | (with_reducible extract_lets +onlyGivenNames x'; refine kept_cut q x' ?_ ?_; (focus (unfold x'; clear x')); rotate_left; (focus (intro _; clear_value x')))
    | (with_reducible extract_lets +onlyGivenNames x'; refine kept_cut1 q x' ?_ ?_; (focus (unfold x'; clear x')); rotate_left; (focus (intro _; clear_value x')))
    | (with_reducible extract_lets +onlyGivenNames x'; refine kept_cut2 q x' ?_ ?_; (focus (unfold x'; clear x')); rotate_left; (focus (intro _; clear_value x')))
    | (with_reducible extract_lets +onlyGivenNames x'; unfold x'; clear x')
    | with_reducible apply partly_kept
    | with_reducible apply kept_foldl
    | with_reducible apply kept_fold1
    | with_reducible apply kept_fold2
    | with_reducible apply kept_ite
    | with_reducible apply goes_next
    | dsimp -zeta only
    | split

theorem heldLost_kept {q : List Instr} (s : State) (d : Nat) (hs : Kept q s) :
    Kept q (State.heldLost s d) := by
  unfold State.heldLost
  repeat' first
    | (with_reducible first | assumption | intro _ | exact kept_mk (by assumption))
    | (with_reducible extract_lets +onlyGivenNames x'; unfold x'; clear x')
    | (with_reducible first | apply kept_foldl | apply kept_fold1 | apply kept_fold2 | apply kept_ite | apply goes_next)
    | dsimp -zeta only
    | split

theorem execFerCtlAbort_kept {q : List Instr} (who : Requester) (f : Fin 16) (s : State) (hs : Kept q s) :
    Goes q (execFerCtlAbort who f s) := by
  unfold execFerCtlAbort
  repeat' first
    | (with_reducible first | assumption | intro _ | exact kept_mk (by assumption))
    | (with_reducible extract_lets +onlyGivenNames x'; unfold x'; clear x')
    | (with_reducible first | apply accessHeld_kept | apply ferAbort_kept | apply kept_foldl | apply kept_fold1)
    | (with_reducible first | apply kept_fold2 | apply kept_ite | apply goes_next)
    | dsimp -zeta only
    | split

theorem execResponseTimeout_kept {q : List Instr} (who : Requester) (ring : Option RingId) (s : State) (hs : Kept q s) :
    Goes q (execResponseTimeout who ring s) := by
  unfold execResponseTimeout
  repeat' first
    | (with_reducible first | assumption | intro _ | exact kept_mk (by assumption))
    | (with_reducible extract_lets +onlyGivenNames x'; unfold x'; clear x')
    | (with_reducible first | apply jobFails_kept | apply nibExcept_kept | apply kept_foldl | apply kept_fold1)
    | (with_reducible first | apply kept_fold2 | apply kept_ite | apply kept_getD | apply kept_getD1 | apply goes_next)
    | dsimp -zeta only
    | split

theorem execFirstAccess_kept {q : List Instr} (who : Requester) (write : Bool) (addr : BitVec 48) (bytes : BitVec 10) (data : W64) (s : State) (hs : Kept q s) :
    Goes q (execFirstAccess who write addr bytes data s) := by
  unfold execFirstAccess
  repeat' first
    | (with_reducible first | assumption | intro _ | exact kept_mk (by assumption))
    | (with_reducible extract_lets +onlyGivenNames x'; unfold x'; clear x')
    | (with_reducible first | apply holdOr_kept | apply kept_foldl | apply kept_fold1 | apply kept_fold2 | apply kept_ite)
    | (with_reducible first | apply goes_next)
    | dsimp -zeta only
    | split

theorem execHeldRequestPerform_kept {q : List Instr} (dom : Fin 64) (s : State) (hs : Kept q s) :
    Goes q (execHeldRequestPerform dom s) := by
  unfold execHeldRequestPerform
  repeat' first
    | (with_reducible first | assumption | intro _ | exact kept_mk (by assumption))
    | (with_reducible extract_lets +onlyGivenNames x'; unfold x'; clear x')
    | (with_reducible first | apply respond_kept | apply doAccess_kept | apply kept_foldl | apply kept_fold1 | apply kept_fold2)
    | (with_reducible first | apply kept_ite | apply goes_next)
    | dsimp -zeta only
    | split

theorem execHoldTimeout_kept {q : List Instr} (dom : Fin 64) (s : State) (hs : Kept q s) :
    Goes q (execHoldTimeout dom s) := by
  unfold execHoldTimeout
  repeat' first
    | (with_reducible first | assumption | intro _ | exact kept_mk (by assumption))
    | (with_reducible extract_lets +onlyGivenNames x'; unfold x'; clear x')
    | (with_reducible first | apply raise_kept | apply kept_foldl | apply kept_fold1 | apply kept_fold2 | apply kept_ite)
    | (with_reducible first | apply goes_next)
    | dsimp -zeta only
    | split

theorem execResponseArrival_kept {q : List Instr} (nib : Fin 128) (s : State) (hs : Kept q s) :
    Goes q (execResponseArrival nib s) := by
  unfold execResponseArrival
  repeat' first
    | (with_reducible first | assumption | intro _ | exact kept_mk (by assumption))
    | (with_reducible extract_lets +onlyGivenNames x'; unfold x'; clear x')
    | (with_reducible first | apply free1_kept | apply nibRetry_kept | apply nibTime_kept | apply kept_foldl | apply kept_fold1)
    | (with_reducible first | apply kept_fold2 | apply kept_ite | apply goes_next)
    | dsimp -zeta only
    | split

end Sys2Proof.Machine
end

