-- ==== Sys2Proof/Laws/KeptOrdinator.lean ====
section
/-! SUPPORT. What the operations of Ordinator keep. -/

namespace Sys2Proof.Machine
open Sys2Proof

set_option linter.all false

/-- A verdict that places a Folio places it in a state that keeps the queue, memory and registers. -/
def Places (q : List Instr) (v : Verdict) : Prop := ∀ s f, v = .placed s f → Kept q s

theorem places_placed {q : List Instr} {s : State} {f : Folio} (h : Kept q s) : Places q (.placed s f) := by
  intro t g e
  cases e
  exact h

theorem places_refused {q : List Instr} {a b c : Nat} : Places q (.refused a b c) := by
  intro t g e
  cases e

theorem places_offer {q : List Instr} {a : Nat} : Places q (.offer a) := by
  intro t g e
  cases e

theorem placeTasks_kept {q : List Instr} (skip : Bool) (settled : List (Nat × Option (Nat × Int))) (l : List Nat) (s : State)
    (f : Folio) (home : Option Nat) (hs : Kept q s) : Places q (placeTasks skip settled l s f home) := by
  induction l generalizing s f home with
  | nil => exact places_placed hs
  | cons t r ih =>
    unfold placeTasks
    extract_lets x off ready answer mayOffer
    clear_value answer mayOffer
    split
    · exact ih _ _ _ hs
    · split
      · exact ih _ _ _ hs
      · split
        · split
          · exact places_offer
          · exact places_refused
        · split
          · exact places_offer
          · exact ih _ _ _ (bookTask_kept _ _ _ _ _ _ hs)

theorem placeObjs_kept {q : List Instr} (lo hi : Int) (l : List Nat) (s : State) (f : Folio) (hs : Kept q s) :
    Places q (placeObjs lo hi l s f) := by
  induction l generalizing s f with
  | nil => exact places_placed hs
  | cons k r ih =>
    unfold placeObjs
    extract_lets o a
    split
    · exact ih _ _ hs
    · have ha : Kept q a.2 := objSpace_kept _ _ _ _ _ _ _ hs
      split
      · exact places_refused
      · exact ih _ _ (setOrd_kept _ _ ha)

theorem grantKeys_kept {q : List Instr} (lo hi : Int) (l : List Nat) (n : Nat) (out : List (List Byte)) (s : State) (f : Folio)
    (hs : Kept q s) : Places q (grantKeys lo hi l n out s f).1 := by
  induction l generalizing s f n out with
  | nil => exact places_placed hs
  | cons k r ih =>
    unfold grantKeys
    extract_lets k' g
    split
    · exact places_refused
    · exact ih _ _ _ _ (grantKey_kept _ _ _ _ _ _ hs)

theorem placeWork_kept {q : List Instr} (s : State) (f : Folio) (settled : List (Nat × Option (Nat × Int))) (hs : Kept q s) :
    Places q (s.placeWork f settled) := by
  have h1 := placeTasks_kept false settled f.tmpl.order s f none hs
  have h2 := placeTasks_kept true settled f.tmpl.order s f none hs
  have hd : Places q (match placeTasks true settled f.tmpl.order s f none with
      | .placed s2 f2 => if f2.predicted ≤ f.deadline then .placed s2 { f2 with degraded := true } else .refused ORD_INFEASIBLE 0 0xFF
      | v => v) := by
    split
    · rename_i e
      split
      · exact places_placed (h2 _ _ e)
      · exact places_refused
    · exact h2
  unfold State.placeWork
  extract_lets degrade
  have hd : Places q degrade := hd
  clear_value degrade
  split
  · rename_i e
    split
    · exact places_placed (h1 _ _ e)
    · split
      · exact hd
      · exact places_refused
  · split
    · exact hd
    · exact places_refused
  · exact places_offer

theorem judge_kept {q : List Instr} (s : State) (f : Folio) (settled : List (Nat × Option (Nat × Int))) (hs : Kept q s) :
    Places q (s.judge f settled) := by
  unfold State.judge
  extract_lets now
  split
  · exact places_refused
  split
  · exact places_refused
  split
  · exact places_refused
  extract_lets harqObjs
  split
  · exact places_refused
  split
  · exact places_refused
  split
  · rename_i e
    have h1 := placeWork_kept _ _ _ hs _ _ e
    extract_lets off lo hi
    split
    · rename_i e
      have h2 := placeObjs_kept _ _ _ _ _ h1 _ _ e
      extract_lets g
      split
      · rename_i e
        have h3 := grantKeys_kept _ _ _ _ _ _ _ h2 _ _ e
        extract_lets c
        have hc : Kept q c.2 := allocIn_kept _ _ _ _ _ h3
        split
        · exact places_refused
        · extract_lets m u f' v
          refine places_placed (cbWrite_kept _ _ (kept_foldl (fun s k h => ?_) (setOrd_kept _ _ hc)))
          exact kept_getD h (devWrite_kept _ _ _ h)
      · exact grantKeys_kept _ _ _ _ _ _ _ h2
    · exact placeObjs_kept _ _ _ _ _ h1
  · exact placeWork_kept _ _ _ hs

theorem traceFolio_kept {q : List Instr} (s : State) (f : Folio) (hs : Kept q s) :
    Kept q (State.traceFolio s f) := by
  unfold State.traceFolio
  repeat' first
    | (with_reducible first | assumption | intro _ | exact kept_mk (by assumption))
    | (with_reducible extract_lets +onlyGivenNames x'; unfold x'; clear x')
    | (with_reducible first | apply ordTrace_kept | apply kept_foldl | apply kept_fold1 | apply kept_fold2 | apply kept_ite)
    | (with_reducible first | apply goes_next)
    | dsimp -zeta only
    | split

theorem decPlaced_kept {q : List Instr} (s' : State) (f : Folio) (f' : Folio) (hs' : Kept q s') :
    Kept q (State.decPlaced s' f f') := by
  unfold State.decPlaced
  repeat' first
    | (with_reducible first | assumption | intro _ | exact kept_mk (by assumption))
    | (with_reducible extract_lets +onlyGivenNames x'; unfold x'; clear x')
    | (with_reducible first | apply setFolio_kept | apply setOrd_kept | apply ordTrace_kept | apply traceFolio_kept)
    | (with_reducible first | apply taskThreads_kept | apply ordSync_kept | apply slotEnd_kept | apply kept_foldl)
    | (with_reducible first | apply kept_fold1 | apply kept_fold2 | apply kept_ite | apply goes_next)
    | dsimp -zeta only
    | split

theorem decRefused_kept {q : List Instr} (s : State) (f : Folio) (st : Nat) (dt : Nat) (t : Nat) (hs : Kept q s) :
    Kept q (State.decRefused s f st dt t) := by
  unfold State.decRefused
  repeat' first
    | (with_reducible first | assumption | intro _ | exact kept_mk (by assumption))
    | (with_reducible extract_lets +onlyGivenNames x'; unfold x'; clear x')
    | (with_reducible first | apply setOrd_kept | apply ordTrace_kept | apply ordSync_kept | apply slotEnd_kept)
    | (with_reducible first | apply bump_kept | apply kept_foldl | apply kept_fold1 | apply kept_fold2 | apply kept_ite)
    | (with_reducible first | apply goes_next)
    | dsimp -zeta only
    | split

theorem carry_kept {q : List Instr} (s : State) (f : Folio) (settled : List (Nat × Option (Nat × Int))) (v : Verdict)
    (hv : Places q v) (hs : Kept q s) : Kept q (s.carry f settled v) := by
  unfold State.carry
  split
  · exact decPlaced_kept _ _ _ (hv _ _ rfl)
  · exact decRefused_kept _ _ _ _ _ hs
  · split
    · exact hs
    · exact setOrd_kept _ _ hs

theorem execPeerOfferAnswer_kept {q : List Instr} (accept : Bool) (finish : BitVec 32) (s : State) (hs : Kept q s) :
    Goes q (execPeerOfferAnswer accept finish s) := by
  unfold execPeerOfferAnswer
  repeat' first
    | (with_reducible first | assumption | intro _ | exact kept_mk (by assumption))
    | (with_reducible extract_lets +onlyGivenNames x'; unfold x'; clear x')
    | (with_reducible first | apply setOrd_kept | apply ordTrace_kept | apply carry_kept | apply judge_kept | apply kept_foldl)
    | (with_reducible first | apply kept_fold1 | apply kept_fold2 | apply kept_ite | apply goes_next)
    | dsimp -zeta only
    | split

theorem moveObjects_kept {q : List Instr} (s : State) (r : Nat) (q0 : Nat) (q2 : Nat) (hs : Kept q s) :
    Kept q (State.moveObjects s r q0 q2) := by
  unfold State.moveObjects
  repeat' first
    | (with_reducible first | assumption | intro _ | exact kept_mk (by assumption))
    | (with_reducible extract_lets +onlyGivenNames x'; unfold x'; clear x')
    | (with_reducible first | apply jrnlFlag_kept | apply wrN_kept | apply setFld_kept | apply jrnlSem_kept | apply kept_foldl)
    | (with_reducible first | apply kept_fold1 | apply kept_fold2 | apply kept_ite | apply goes_next)
    | dsimp -zeta only
    | split

theorem moveThreads_kept {q : List Instr} (s : State) (f : Folio) (t : Nat) (q0 : Nat) (q2 : Nat) (spare : Bool) (ready : Bool) (hs : Kept q s) :
    Kept q (State.moveThreads s f t q0 q2 spare ready) := by
  unfold State.moveThreads
  repeat' first
    | (with_reducible first | assumption | intro _ | exact kept_mk (by assumption))
    | (with_reducible extract_lets +onlyGivenNames x'; unfold x'; clear x')
    | (with_reducible first | apply ducTrace_kept | apply folioThread_kept | apply endThread_kept | apply makeReady_kept)
    | (with_reducible first | apply kept_foldl | apply kept_fold1 | apply kept_fold2 | apply kept_ite | apply goes_next)
    | dsimp -zeta only
    | split

theorem replaceTask_kept {q : List Instr} (s : State) (f : Folio) (t : Nat) (hs : Kept q s) :
    Kept q (State.replaceTask s f t).1 := by
  unfold State.replaceTask
  repeat' first
    | (with_reducible first | assumption | intro _ | exact kept_mk (by assumption))
    | (with_reducible extract_lets +onlyGivenNames x'; unfold x'; clear x')
    | (with_reducible first | apply bookTask_kept | apply folioThread_kept | apply readyTask_kept | apply moveObjects_kept)
    | (with_reducible first | apply moveThreads_kept | apply cbTask_kept | apply ordTrace_kept | apply kept_foldl)
    | (with_reducible first | apply kept_fold1 | apply kept_fold2 | apply kept_ite | apply goes_next)
    | dsimp -zeta only
    | split

theorem moveObjs_kept {q : List Instr} (f0 : Folio) (x1 : List Nat) (x2 : State) (x3 : Folio) (hx2 : Kept q x2) :
    ∀ t, State.moveObjs f0 x1 x2 x3 = some t → Kept q t.1 := by
  induction x1 generalizing x2 x3 with
  | nil => exact kept_some1 hx2
  | cons k r ih =>
    unfold State.moveObjs
    split
    · exact kept_some1 hx2
    · extract_lets now clash mine used align same down tries got
      split
      · exact ih _ _ hx2
      · have hg : Kept q got.2 := by
          refine kept_fold2 (fun p x h => ?_) hx2
          split
          · exact h
          · exact allocIn_kept _ _ _ _ _ h
        clear_value got
        split
        · exact kept_none1
        · exact ih _ _ (ordTrace_kept _ _ _ _ _ _ _ (cbObj_kept _ _ _ (setOrd_kept _ _ hg)))

theorem execFolioSubmit_kept {q : List Instr} (d : Desc) (s : State) (hs : Kept q s) :
    Goes q (execFolioSubmit d s) := by
  unfold execFolioSubmit
  repeat' first
    | (with_reducible first | assumption | intro _ | exact kept_mk (by assumption))
    | (with_reducible extract_lets +onlyGivenNames x'; unfold x'; clear x')
    | (with_reducible first | apply command_kept | apply ordSync_kept | apply setOrd_kept | apply kept_foldl | apply kept_fold1)
    | (with_reducible first | apply kept_fold2 | apply kept_ite | apply goes_next)
    | dsimp -zeta only
    | split

theorem execPlacementDecision_kept {q : List Instr} (s : State) (hs : Kept q s) :
    Goes q (execPlacementDecision s) := by
  unfold execPlacementDecision
  repeat' first
    | (with_reducible first | assumption | intro _ | exact kept_mk (by assumption))
    | (with_reducible extract_lets +onlyGivenNames x'; unfold x'; clear x')
    | (with_reducible first | apply carry_kept | apply judge_kept | apply kept_foldl | apply kept_fold1 | apply kept_fold2)
    | (with_reducible first | apply kept_ite | apply goes_next)
    | dsimp -zeta only
    | split

theorem execPeerOfferReceived_kept {q : List Instr} (peer : Fin 64) (r : Fin 16) (task : BitVec 128) (ready : BitVec 32) (deadline : BitVec 32) (s : State) (hs : Kept q s) :
    Goes q (execPeerOfferReceived peer r task ready deadline s) := by
  unfold execPeerOfferReceived
  repeat' first
    | (with_reducible first | assumption | intro _ | exact kept_mk (by assumption))
    | (with_reducible extract_lets +onlyGivenNames x'; unfold x'; clear x')
    | (with_reducible first | apply bookTask_kept | apply setOrd_kept | apply kept_foldl | apply kept_fold1 | apply kept_fold2)
    | (with_reducible first | apply kept_ite | apply goes_next)
    | dsimp -zeta only
    | split

theorem execFolioRelease_kept {q : List Instr} (r : Fin 16) (inst : BitVec 16) (s : State) (hs : Kept q s) :
    Goes q (execFolioRelease r inst s) := by
  unfold execFolioRelease
  repeat' first
    | (with_reducible first | assumption | refine kept_some ?_ | refine kept_some1 ?_ | exact kept_none | exact kept_none1)
    | (with_reducible first | refine kept_map ?_ | intro _ | exact kept_mk (by assumption))
    | (with_reducible extract_lets +onlyGivenNames x'; unfold x'; clear x')
    | (with_reducible first | apply ordTrace_kept | refine moveObjs_kept _ _ _ _ ?_ _ (by assumption) | apply folioDone_kept)
    | (with_reducible first | apply setFolio_kept | apply degradeCheck_kept | apply readyTask_kept | apply kept_foldl)
    | (with_reducible first | apply kept_fold1 | apply kept_fold2 | apply kept_ite | apply goes_next)
    | dsimp -zeta only
    | split

theorem execFolioDeadline_kept {q : List Instr} (r : Fin 16) (inst : BitVec 16) (s : State) (hs : Kept q s) :
    Goes q (execFolioDeadline r inst s) := by
  unfold execFolioDeadline
  repeat' first
    | (with_reducible first | assumption | intro _ | exact kept_mk (by assumption))
    | (with_reducible extract_lets +onlyGivenNames x'; unfold x'; clear x')
    | (with_reducible first | apply endThreads_kept | apply ordTrace_kept | apply drainCheck_kept | apply setFolio_kept)
    | (with_reducible first | apply kept_foldl | apply kept_fold1 | apply kept_fold2 | apply kept_ite | apply goes_next)
    | dsimp -zeta only
    | split

theorem execFolioCancel_kept {q : List Instr} (d : Desc) (s : State) (hs : Kept q s) :
    Goes q (execFolioCancel d s) := by
  unfold execFolioCancel
  repeat' first
    | (with_reducible first | assumption | intro _ | exact kept_mk (by assumption))
    | (with_reducible extract_lets +onlyGivenNames x'; unfold x'; clear x')
    | (with_reducible first | apply commandNow_kept | apply folioDone_kept | apply kept_foldl | apply kept_fold1)
    | (with_reducible first | apply kept_fold2 | apply kept_ite | apply goes_next)
    | dsimp -zeta only
    | split

theorem execFolioQuery_kept {q : List Instr} (d : Desc) (s : State) (hs : Kept q s) :
    Goes q (execFolioQuery d s) := by
  unfold execFolioQuery
  repeat' first
    | (with_reducible first | assumption | intro _ | exact kept_mk (by assumption))
    | (with_reducible extract_lets +onlyGivenNames x'; unfold x'; clear x')
    | (with_reducible first | apply commandNow_kept | apply kept_foldl | apply kept_fold1 | apply kept_fold2 | apply kept_ite)
    | (with_reducible first | apply goes_next)
    | dsimp -zeta only
    | split

theorem execOrdPin_kept {q : List Instr} (d : Desc) (s : State) (hs : Kept q s) :
    Goes q (execOrdPin d s) := by
  unfold execOrdPin
  repeat' first
    | (with_reducible first | assumption | intro _ | exact kept_mk (by assumption))
    | (with_reducible extract_lets +onlyGivenNames x'; unfold x'; clear x')
    | (with_reducible first | apply commandNow_kept | apply setOrd_kept | apply kept_foldl | apply kept_fold1 | apply kept_fold2)
    | (with_reducible first | apply kept_ite | apply kept_elim | apply goes_next)
    | dsimp -zeta only
    | split

theorem execOrdConfig_kept {q : List Instr} (d : Desc) (s : State) (hs : Kept q s) :
    Goes q (execOrdConfig d s) := by
  unfold execOrdConfig
  repeat' first
    | with_reducible assumption
    | with_reducible refine kept_some ?_
    | with_reducible refine kept_some1 ?_
    | with_reducible exact kept_none
    | with_reducible exact kept_none1
    | with_reducible refine kept_map ?_
    | with_reducible intro _
    | with_reducible exact kept_mk (by with_reducible assumption)
    | (with_reducible extract_lets +onlyGivenNames x'; refine kept_cut q x' ?_ ?_; (focus (unfold x'; clear x')); rotate_left; (focus (intro _; clear_value x')))
    | (with_reducible extract_lets +onlyGivenNames x'; refine kept_cut1 q x' ?_ ?_; (focus (unfold x'; clear x')); rotate_left; (focus (intro _; clear_value x')))
    | (with_reducible extract_lets +onlyGivenNames x'; refine kept_cut2 q x' ?_ ?_; (focus (unfold x'; clear x')); rotate_left; (focus (intro _; clear_value x')))
    | (with_reducible extract_lets +onlyGivenNames x'; unfold x'; clear x')
    | with_reducible apply commandNow_kept
    | with_reducible apply setFld_kept
    | with_reducible apply wrN_kept
    | with_reducible apply wr_kept
    | with_reducible apply setOrd_kept
    | with_reducible apply kept_foldl
    | with_reducible apply kept_fold1
    | with_reducible apply kept_fold2
    | with_reducible apply kept_ite
    | with_reducible apply goes_next
    | dsimp -zeta only
    | split

theorem execOrdQuery_kept {q : List Instr} (d : Desc) (s : State) (hs : Kept q s) :
    Goes q (execOrdQuery d s) := by
  unfold execOrdQuery
  repeat' first
    | (with_reducible first | assumption | intro _ | exact kept_mk (by assumption))
    | (with_reducible extract_lets +onlyGivenNames x'; unfold x'; clear x')
    | (with_reducible first | apply commandNow_kept | apply kept_foldl | apply kept_fold1 | apply kept_fold2 | apply kept_ite)
    | (with_reducible first | apply goes_next)
    | dsimp -zeta only
    | split

theorem execOrdTrace_kept {q : List Instr} (d : Desc) (s : State) (hs : Kept q s) :
    Goes q (execOrdTrace d s) := by
  unfold execOrdTrace
  repeat' first
    | (with_reducible first | assumption | intro _ | exact kept_mk (by assumption))
    | (with_reducible extract_lets +onlyGivenNames x'; unfold x'; clear x')
    | (with_reducible first | apply commandNow_kept | apply wrN_kept | apply kept_foldl | apply kept_fold1 | apply kept_fold2)
    | (with_reducible first | apply kept_ite | apply goes_next)
    | dsimp -zeta only
    | split

theorem execFaultNotice_kept {q : List Instr} (src : Fin 13) (kind : Fin 4) (unit : Fin 64) (event : Fin 1024) (s : State) (hs : Kept q s) :
    Goes q (execFaultNotice src kind unit event s) := by
  unfold execFaultNotice
  repeat' first
    | (with_reducible first | assumption | intro _ | exact kept_mk (by assumption))
    | (with_reducible extract_lets +onlyGivenNames x'; unfold x'; clear x')
    | (with_reducible first | apply notice_kept | apply raise_kept | apply kept_foldl | apply kept_fold1 | apply kept_fold2)
    | (with_reducible first | apply kept_ite | apply goes_next)
    | dsimp -zeta only
    | split

theorem execReplacement_kept {q : List Instr} (s : State) (hs : Kept q s) :
    Goes q (execReplacement s) := by
  unfold execReplacement
  repeat' first
    | with_reducible assumption
    | with_reducible refine kept_some ?_
    | with_reducible refine kept_some1 ?_
    | with_reducible exact kept_none
    | with_reducible exact kept_none1
    | with_reducible refine kept_map ?_
    | with_reducible intro _
    | with_reducible exact kept_mk (by with_reducible assumption)
    | (with_reducible extract_lets +onlyGivenNames x'; refine kept_cut q x' ?_ ?_; (focus (unfold x'; clear x')); rotate_left; (focus (intro _; clear_value x')))
    | (with_reducible extract_lets +onlyGivenNames x'; refine kept_cut1 q x' ?_ ?_; (focus (unfold x'; clear x')); rotate_left; (focus (intro _; clear_value x')))
    | (with_reducible extract_lets +onlyGivenNames x'; refine kept_cut2 q x' ?_ ?_; (focus (unfold x'; clear x')); rotate_left; (focus (intro _; clear_value x')))
    | (with_reducible extract_lets +onlyGivenNames x'; unfold x'; clear x')
    | with_reducible apply setOrd_kept
    | with_reducible apply replaceTask_kept
    | with_reducible apply setFolio_kept
    | with_reducible apply wrN_kept
    | with_reducible apply setFld_kept
    | with_reducible apply raise_kept
    | with_reducible apply kept_foldl
    | with_reducible apply kept_fold1
    | with_reducible apply kept_fold2
    | with_reducible apply kept_ite
    | with_reducible apply goes_next
    | dsimp -zeta only
    | split

theorem execHarqDemotionStart_kept {q : List Instr} (r : Fin 16) (engine : Fin 4) (upper : Bool) (s : State) (hs : Kept q s) :
    Goes q (execHarqDemotionStart r engine upper s) := by
  unfold execHarqDemotionStart
  repeat' first
    | with_reducible assumption
    | with_reducible refine kept_some ?_
    | with_reducible refine kept_some1 ?_
    | with_reducible exact kept_none
    | with_reducible exact kept_none1
    | with_reducible refine kept_map ?_
    | with_reducible intro _
    | with_reducible exact kept_mk (by with_reducible assumption)
    | (with_reducible extract_lets +onlyGivenNames x'; refine kept_cut q x' ?_ ?_; (focus (unfold x'; clear x')); rotate_left; (focus (intro _; clear_value x')))
    | (with_reducible extract_lets +onlyGivenNames x'; refine kept_cut1 q x' ?_ ?_; (focus (unfold x'; clear x')); rotate_left; (focus (intro _; clear_value x')))
    | (with_reducible extract_lets +onlyGivenNames x'; refine kept_cut2 q x' ?_ ?_; (focus (unfold x'; clear x')); rotate_left; (focus (intro _; clear_value x')))
    | (with_reducible extract_lets +onlyGivenNames x'; unfold x'; clear x')
    | with_reducible apply allocIn_kept
    | with_reducible apply setOrd_kept
    | with_reducible apply entSetState_kept
    | with_reducible apply setEntW_kept
    | with_reducible apply entSetAddr_kept
    | with_reducible apply setFld_kept
    | with_reducible apply hdySync_kept
    | with_reducible apply kept_foldl
    | with_reducible apply kept_fold1
    | with_reducible apply kept_fold2
    | with_reducible apply kept_ite
    | with_reducible apply goes_next
    | dsimp -zeta only
    | split

end Sys2Proof.Machine
end

