-- ==== Sys2Proof/Laws/KeptFabric.lean ====
section
/-! SUPPORT. What the operations of Fabric keep. -/

namespace Sys2Proof.Machine
open Sys2Proof

set_option linter.all false

theorem setPort_kept {q : List Instr} (s : State) (p : Nat) (st : Nat) (hs : Kept q s) :
    Kept q (State.setPort s p st) := by
  unfold State.setPort
  repeat' first
    | (with_reducible first | assumption | intro _ | exact kept_mk (by assumption))
    | (with_reducible extract_lets +onlyGivenNames x'; unfold x'; clear x')
    | (with_reducible first | apply raise_kept | apply setBit_kept | apply setFld_kept | apply kept_foldl | apply kept_fold1)
    | (with_reducible first | apply kept_fold2 | apply kept_ite | apply goes_next)
    | dsimp -zeta only
    | split

theorem portClear_kept {q : List Instr} (s : State) (p : Nat) (hs : Kept q s) :
    Kept q (State.portClear s p) := by
  unfold State.portClear
  repeat' first
    | (with_reducible first | assumption | intro _ | exact kept_mk (by assumption))
    | (with_reducible extract_lets +onlyGivenNames x'; unfold x'; clear x')
    | (with_reducible first | apply setFld_kept | apply wr_kept | apply kept_foldl | apply kept_fold1 | apply kept_fold2)
    | (with_reducible first | apply kept_ite | apply goes_next)
    | dsimp -zeta only
    | split

theorem setYlk_kept {q : List Instr} (s : State) (x : YlkState) (hs : Kept q s) :
    Kept q (State.setYlk s x) := by
  unfold State.setYlk
  repeat' first
    | (with_reducible first | assumption | intro _ | exact kept_mk (by assumption))
    | (with_reducible extract_lets +onlyGivenNames x'; unfold x'; clear x')
    | (with_reducible first | apply kept_foldl | apply kept_fold1 | apply kept_fold2 | apply kept_ite | apply goes_next)
    | dsimp -zeta only
    | split

theorem testDrop_kept {q : List Instr} (s : State) (p : Nat) (hs : Kept q s) :
    Kept q (State.testDrop s p) := by
  unfold State.testDrop
  repeat' first
    | (with_reducible first | assumption | intro _ | exact kept_mk (by assumption))
    | (with_reducible extract_lets +onlyGivenNames x'; unfold x'; clear x')
    | (with_reducible first | apply setYlk_kept | apply slotEnd_kept | apply kept_foldl | apply kept_fold1 | apply kept_fold2)
    | (with_reducible first | apply kept_ite | apply goes_next)
    | dsimp -zeta only
    | split

theorem peerLost_kept {q : List Instr} (s : State) (d : Nat) (hs : Kept q s) :
    Kept q (State.peerLost s d) := by
  unfold State.peerLost
  repeat' first
    | with_reducible assumption
    | with_reducible refine kept_some ?_
    | with_reducible refine kept_some1 ?_
    | with_reducible exact kept_none
    | with_reducible exact kept_none1
    | with_reducible refine kept_map ?_
    | with_reducible intro _
    | with_reducible exact kept_mk (by with_reducible assumption)
    | (with_reducible extract_lets +onlyGivenNames x'; refine kept_cut q x' ?_ ?_; (focus (unfold x'; clear x')); rotate_left; (focus (intro _; clear_value x')))
    | (with_reducible extract_lets +onlyGivenNames x'; refine kept_cut1 q x' ?_ ?_; (focus (unfold x'; clear x')); rotate_left; (focus (intro _; clear_value x')))
    | (with_reducible extract_lets +onlyGivenNames x'; refine kept_cut2 q x' ?_ ?_; (focus (unfold x'; clear x')); rotate_left; (focus (intro _; clear_value x')))
    | (with_reducible extract_lets +onlyGivenNames x'; unfold x'; clear x')
    | with_reducible apply raise_kept
    | with_reducible apply setFld_kept
    | with_reducible apply outState_kept
    | with_reducible apply execPeerOfferAnswer_kept
    | with_reducible apply faultLog_kept
    | with_reducible apply setBit_kept
    | with_reducible apply setOrd_kept
    | with_reducible apply kept_foldl
    | with_reducible apply kept_fold1
    | with_reducible apply kept_fold2
    | with_reducible apply kept_ite
    | with_reducible apply goes_next
    | dsimp -zeta only
    | split

theorem reroute_kept {q : List Instr} (s : State) (hs : Kept q s) :
    Kept q (State.reroute s) := by
  unfold State.reroute
  repeat' first
    | (with_reducible first | assumption | intro _ | exact kept_mk (by assumption))
    | (with_reducible extract_lets +onlyGivenNames x'; unfold x'; clear x')
    | (with_reducible first | apply wrN_kept | apply setYlk_kept | apply raise_kept | apply peerLost_kept | apply kept_foldl)
    | (with_reducible first | apply kept_fold1 | apply kept_fold2 | apply kept_ite | apply kept_getD | apply kept_getD1)
    | (with_reducible first | apply goes_next)
    | dsimp -zeta only
    | split

theorem takeId_kept {q : List Instr} (s : State) (id : Nat) (hs : Kept q s) :
    Kept q (State.takeId s id) := by
  unfold State.takeId
  repeat' first
    | (with_reducible first | assumption | intro _ | exact kept_mk (by assumption))
    | (with_reducible extract_lets +onlyGivenNames x'; unfold x'; clear x')
    | (with_reducible first | apply setBit_kept | apply setFld_kept | apply reroute_kept | apply kept_foldl | apply kept_fold1)
    | (with_reducible first | apply kept_fold2 | apply kept_ite | apply goes_next)
    | dsimp -zeta only
    | split

theorem execYlkLinkFailure_kept {q : List Instr} (p : Fin 4) (lanes : Fin 5) (s : State) (hs : Kept q s) :
    Goes q (execYlkLinkFailure p lanes s) := by
  unfold execYlkLinkFailure
  repeat' first
    | (with_reducible first | assumption | intro _ | exact kept_mk (by assumption))
    | (with_reducible extract_lets +onlyGivenNames x'; unfold x'; clear x')
    | (with_reducible first | apply bump_kept | apply setFld_kept | apply reroute_kept | apply setPort_kept | apply kept_foldl)
    | (with_reducible first | apply kept_fold1 | apply kept_fold2 | apply kept_ite | apply goes_next)
    | dsimp -zeta only
    | split

theorem isolate_kept {q : List Instr} (s : State) (hs : Kept q s) :
    Kept q (State.isolate s) := by
  unfold State.isolate
  repeat' first
    | (with_reducible first | assumption | intro _ | exact kept_mk (by assumption))
    | (with_reducible extract_lets +onlyGivenNames x'; unfold x'; clear x')
    | (with_reducible first | apply setBit_kept | apply setPort_kept | apply setFld_kept | apply portClear_kept)
    | (with_reducible first | apply reroute_kept | apply raise_kept | apply kept_foldl | apply kept_fold1 | apply kept_fold2)
    | (with_reducible first | apply kept_ite | apply goes_next)
    | dsimp -zeta only
    | split

theorem learn_kept {q : List Instr} (s : State) (unit : Nat) (dev : Nat) (hs : Kept q s) :
    Kept q (State.learn s unit dev) := by
  unfold State.learn
  repeat' first
    | (with_reducible first | assumption | intro _ | exact kept_mk (by assumption))
    | (with_reducible extract_lets +onlyGivenNames x'; unfold x'; clear x')
    | (with_reducible first | apply setYlk_kept | apply isolate_kept | apply kept_foldl | apply kept_fold1 | apply kept_fold2)
    | (with_reducible first | apply kept_ite | apply goes_next)
    | dsimp -zeta only
    | split

theorem snapArm_kept {q : List Instr} (s : State) (b : Nat) (sec : Nat) (ns : Nat) (hs : Kept q s) :
    ∀ t, State.snapArm s b sec ns = some t → Kept q t := by
  unfold State.snapArm
  repeat' first
    | (with_reducible first | assumption | refine kept_some ?_ | refine kept_some1 ?_ | exact kept_none | exact kept_none1)
    | (with_reducible first | refine kept_map ?_)
    | (show ∀ t, _ = some t → _; split)
    | (show ∀ t, _ = some t → _; dsimp -zeta only)
    | (show ∀ t, _ = some t → _; with_reducible extract_lets)
    | (with_reducible first | intro _ | exact kept_mk (by assumption))
    | (with_reducible extract_lets +onlyGivenNames x'; unfold x'; clear x')
    | (with_reducible first | apply chArm_kept | apply chAssign_kept | apply kept_foldl | apply kept_fold1 | apply kept_fold2)
    | (with_reducible first | apply kept_ite | apply goes_next)
    | dsimp -zeta only
    | split

theorem execFabQuery_kept {q : List Instr} (d : Desc) (s : State) (hs : Kept q s) :
    Goes q (execFabQuery d s) := by
  unfold execFabQuery
  repeat' first
    | (with_reducible first | assumption | intro _ | exact kept_mk (by assumption))
    | (with_reducible extract_lets +onlyGivenNames x'; unfold x'; clear x')
    | (with_reducible first | apply commandNow_kept | apply kept_foldl | apply kept_fold1 | apply kept_fold2 | apply kept_ite)
    | (with_reducible first | apply goes_next)
    | dsimp -zeta only
    | split

theorem execFabPort_kept {q : List Instr} (d : Desc) (s : State) (hs : Kept q s) :
    Goes q (execFabPort d s) := by
  unfold execFabPort
  repeat' first
    | (with_reducible first | assumption | intro _ | exact kept_mk (by assumption))
    | (with_reducible extract_lets +onlyGivenNames x'; unfold x'; clear x')
    | (with_reducible first | apply commandNow_kept | apply wrN_kept | apply setPort_kept | apply setFld_kept)
    | (with_reducible first | apply portClear_kept | apply testDrop_kept | apply reroute_kept | apply kept_foldl)
    | (with_reducible first | apply kept_fold1 | apply kept_fold2 | apply kept_ite | apply goes_next)
    | dsimp -zeta only
    | split

theorem execFabSnap_kept {q : List Instr} (d : Desc) (s : State) (hs : Kept q s) :
    Goes q (execFabSnap d s) := by
  unfold execFabSnap
  repeat' first
    | (with_reducible first | assumption | refine kept_some ?_ | refine kept_some1 ?_ | exact kept_none | exact kept_none1)
    | (with_reducible first | refine kept_map ?_ | intro _ | exact kept_mk (by assumption))
    | (with_reducible extract_lets +onlyGivenNames x'; unfold x'; clear x')
    | (with_reducible first | apply command_kept | refine snapArm_kept _ _ _ _ ?_ _ (by assumption) | apply setYlk_kept)
    | (with_reducible first | apply kept_foldl | apply kept_fold1 | apply kept_fold2 | apply kept_ite | apply kept_getD)
    | (with_reducible first | apply kept_getD1 | apply goes_next)
    | dsimp -zeta only
    | split

theorem execFabSnapArmRequest_kept {q : List Instr} (tb : Fin 8) (sec : BitVec 48) (ns : W32) (s : State) (hs : Kept q s) :
    Goes q (execFabSnapArmRequest tb sec ns s) := by
  unfold execFabSnapArmRequest
  refine goes_next ?_
  split
  · rename_i heq
    exact kept_mk (snapArm_kept _ _ _ _ hs _ heq)
  · exact kept_mk hs

theorem execFabSnapAnswersComplete_kept {q : List Instr} (armed : W64) (answered : W64) (s : State) (hs : Kept q s) :
    Goes q (execFabSnapAnswersComplete armed answered s) := by
  unfold execFabSnapAnswersComplete
  repeat' first
    | (with_reducible first | assumption | intro _ | exact kept_mk (by assumption))
    | (with_reducible extract_lets +onlyGivenNames x'; unfold x'; clear x')
    | (with_reducible first | apply setYlk_kept | apply raise_kept | apply slotEnd_kept | apply kept_foldl | apply kept_fold1)
    | (with_reducible first | apply kept_fold2 | apply kept_ite | apply kept_getD | apply kept_getD1 | apply goes_next)
    | dsimp -zeta only
    | split

theorem execFabLinkTest_kept {q : List Instr} (d : Desc) (s : State) (hs : Kept q s) :
    Goes q (execFabLinkTest d s) := by
  unfold execFabLinkTest
  repeat' first
    | (with_reducible first | assumption | intro _ | exact kept_mk (by assumption))
    | (with_reducible extract_lets +onlyGivenNames x'; unfold x'; clear x')
    | (with_reducible first | apply command_kept | apply setYlk_kept | apply reroute_kept | apply setPort_kept)
    | (with_reducible first | apply kept_foldl | apply kept_fold1 | apply kept_fold2 | apply kept_ite | apply goes_next)
    | dsimp -zeta only
    | split

theorem execFabLinkTestEnd_kept {q : List Instr} (p : Fin 4) (bits : W64) (errors : W32) (s : State) (hs : Kept q s) :
    Goes q (execFabLinkTestEnd p bits errors s) := by
  unfold execFabLinkTestEnd
  repeat' first
    | (with_reducible first | assumption | intro _ | exact kept_mk (by assumption))
    | (with_reducible extract_lets +onlyGivenNames x'; unfold x'; clear x')
    | (with_reducible first | apply setYlk_kept | apply reroute_kept | apply setPort_kept | apply slotEnd_kept)
    | (with_reducible first | apply raise_kept | apply kept_foldl | apply kept_fold1 | apply kept_fold2 | apply kept_ite)
    | (with_reducible first | apply goes_next)
    | dsimp -zeta only
    | split

theorem execFabPeerQuery_kept {q : List Instr} (d : Desc) (s : State) (hs : Kept q s) :
    Goes q (execFabPeerQuery d s) := by
  unfold execFabPeerQuery
  repeat' first
    | (with_reducible first | assumption | intro _ | exact kept_mk (by assumption))
    | (with_reducible extract_lets +onlyGivenNames x'; unfold x'; clear x')
    | (with_reducible first | apply commandNow_kept | apply regRead_kept | apply kept_foldl | apply kept_fold1)
    | (with_reducible first | apply kept_fold2 | apply kept_ite | apply goes_next)
    | dsimp -zeta only
    | split

theorem execYlkHello_kept {q : List Instr} (p : Fin 4) (fabric : W32) (dev : BitVec 8) (unit : W64) (ver : BitVec 8) (farPort : Fin 4) (two : Bool) (s : State) (hs : Kept q s) :
    Goes q (execYlkHello p fabric dev unit ver farPort two s) := by
  unfold execYlkHello
  repeat' first
    | (with_reducible first | assumption | intro _ | exact kept_mk (by assumption))
    | (with_reducible extract_lets +onlyGivenNames x'; unfold x'; clear x')
    | (with_reducible first | apply setPort_kept | apply setFld_kept | apply wrN_kept | apply setYlk_kept | apply reroute_kept)
    | (with_reducible first | apply learn_kept | apply kept_foldl | apply kept_fold1 | apply kept_fold2 | apply kept_ite)
    | (with_reducible first | apply goes_next)
    | dsimp -zeta only
    | split

theorem execYlkTrainingRetry_kept {q : List Instr} (p : Fin 4) (s : State) (hs : Kept q s) :
    Goes q (execYlkTrainingRetry p s) := by
  unfold execYlkTrainingRetry
  repeat' first
    | (with_reducible first | assumption | intro _ | exact kept_mk (by assumption))
    | (with_reducible extract_lets +onlyGivenNames x'; unfold x'; clear x')
    | (with_reducible first | apply setFld_kept | apply kept_foldl | apply kept_fold1 | apply kept_fold2 | apply kept_ite)
    | (with_reducible first | apply goes_next)
    | dsimp -zeta only
    | split

theorem execSettlingWindowEnd_kept {q : List Instr} (s : State) (hs : Kept q s) :
    Goes q (execSettlingWindowEnd s) := by
  unfold execSettlingWindowEnd
  repeat' first
    | (with_reducible first | assumption | intro _ | exact kept_mk (by assumption))
    | (with_reducible extract_lets +onlyGivenNames x'; unfold x'; clear x')
    | (with_reducible first | apply setYlk_kept | apply takeId_kept | apply isolate_kept | apply kept_foldl | apply kept_fold1)
    | (with_reducible first | apply kept_fold2 | apply kept_ite | apply goes_next)
    | dsimp -zeta only
    | split

theorem execAdjacencyFrame_kept {q : List Instr} (dev : Fin 64) (unit : W64) (links : List FabLink) (s : State) (hs : Kept q s) :
    Goes q (execAdjacencyFrame dev unit links s) := by
  unfold execAdjacencyFrame
  repeat' first
    | (with_reducible first | assumption | intro _ | exact kept_mk (by assumption))
    | (with_reducible extract_lets +onlyGivenNames x'; unfold x'; clear x')
    | (with_reducible first | apply learn_kept | apply setYlk_kept | apply setFld_kept | apply reroute_kept | apply kept_foldl)
    | (with_reducible first | apply kept_fold1 | apply kept_fold2 | apply kept_ite | apply goes_next)
    | dsimp -zeta only
    | split

theorem execHeartbeatSend_kept {q : List Instr} (s : State) (hs : Kept q s) :
    Goes q (execHeartbeatSend s) := by
  unfold execHeartbeatSend
  repeat' first
    | (with_reducible first | assumption | intro _ | exact kept_mk (by assumption))
    | (with_reducible extract_lets +onlyGivenNames x'; unfold x'; clear x')
    | (with_reducible first | apply kept_foldl | apply kept_fold1 | apply kept_fold2 | apply kept_ite | apply goes_next)
    | dsimp -zeta only
    | split

theorem execHeartbeatReceive_kept {q : List Instr} (dev : Fin 64) (s : State) (hs : Kept q s) :
    Goes q (execHeartbeatReceive dev s) := by
  unfold execHeartbeatReceive
  repeat' first
    | (with_reducible first | assumption | intro _ | exact kept_mk (by assumption))
    | (with_reducible extract_lets +onlyGivenNames x'; unfold x'; clear x')
    | (with_reducible first | apply setYlk_kept | apply raise_kept | apply setBit_kept | apply kept_foldl | apply kept_fold1)
    | (with_reducible first | apply kept_fold2 | apply kept_ite | apply kept_getD | apply kept_getD1 | apply goes_next)
    | dsimp -zeta only
    | split

theorem execPeerLoss_kept {q : List Instr} (dev : Fin 64) (s : State) (hs : Kept q s) :
    Goes q (execPeerLoss dev s) := by
  unfold execPeerLoss
  repeat' first
    | (with_reducible first | assumption | intro _ | exact kept_mk (by assumption))
    | (with_reducible extract_lets +onlyGivenNames x'; unfold x'; clear x')
    | (with_reducible first | apply peerLost_kept | apply kept_foldl | apply kept_fold1 | apply kept_fold2 | apply kept_ite)
    | (with_reducible first | apply goes_next)
    | dsimp -zeta only
    | split

theorem execRemoteRequest_kept {q : List Instr} (q0 : RemoteReq) (s : State) (hs : Kept q s) :
    Goes q (execRemoteRequest q0 s) := by
  unfold execRemoteRequest
  repeat' first
    | with_reducible assumption
    | with_reducible refine kept_some ?_
    | with_reducible refine kept_some1 ?_
    | with_reducible exact kept_none
    | with_reducible exact kept_none1
    | with_reducible refine kept_map ?_
    | with_reducible intro _
    | with_reducible exact kept_mk (by with_reducible assumption)
    | (with_reducible extract_lets +onlyGivenNames x'; refine kept_cut q x' ?_ ?_; (focus (unfold x'; clear x')); rotate_left; (focus (intro _; clear_value x')))
    | (with_reducible extract_lets +onlyGivenNames x'; refine kept_cut1 q x' ?_ ?_; (focus (unfold x'; clear x')); rotate_left; (focus (intro _; clear_value x')))
    | (with_reducible extract_lets +onlyGivenNames x'; refine kept_cut2 q x' ?_ ?_; (focus (unfold x'; clear x')); rotate_left; (focus (intro _; clear_value x')))
    | (with_reducible extract_lets +onlyGivenNames x'; unfold x'; clear x')
    | with_reducible apply setYlk_kept
    | with_reducible apply holdOr_kept
    | with_reducible apply kept_foldl
    | with_reducible apply kept_fold1
    | with_reducible apply kept_fold2
    | with_reducible apply kept_ite
    | with_reducible apply goes_next
    | dsimp -zeta only
    | split

theorem execTimeFrameSend_kept {q : List Instr} (p : Fin 4) (s : State) (hs : Kept q s) :
    Goes q (execTimeFrameSend p s) := by
  unfold execTimeFrameSend
  repeat' first
    | (with_reducible first | assumption | intro _ | exact kept_mk (by assumption))
    | (with_reducible extract_lets +onlyGivenNames x'; unfold x'; clear x')
    | (with_reducible first | apply setYlk_kept | apply kept_foldl | apply kept_fold1 | apply kept_fold2 | apply kept_ite)
    | (with_reducible first | apply goes_next)
    | dsimp -zeta only
    | split

theorem execTimeFrameReceive_kept {q : List Instr} (p : Fin 4) (stamps : List FabStamp) (s : State) (hs : Kept q s) :
    Goes q (execTimeFrameReceive p stamps s) := by
  unfold execTimeFrameReceive
  repeat' first
    | (with_reducible first | assumption | intro _ | exact kept_mk (by assumption))
    | (with_reducible extract_lets +onlyGivenNames x'; unfold x'; clear x')
    | (with_reducible first | apply wrN_kept | apply raise_kept | apply bump_kept | apply kept_foldl | apply kept_fold1)
    | (with_reducible first | apply kept_fold2 | apply kept_ite | apply goes_next)
    | dsimp -zeta only
    | split

end Sys2Proof.Machine
end

