-- ==== Sys2Proof/Laws/KeptRadio.lean ====
section
/-! SUPPORT. What the operations of Radio keep. -/

namespace Sys2Proof.Machine
open Sys2Proof

set_option linter.all false

theorem linkStop_kept {q : List Instr} (s : State) (k : Nat) (rx : Bool) (m : Nat) (hs : Kept q s) :
    Kept q (State.linkStop s k rx m) := by
  unfold State.linkStop
  repeat' first
    | (with_reducible first | assumption | intro _ | exact kept_mk (by assumption))
    | (with_reducible extract_lets +onlyGivenNames x'; unfold x'; clear x')
    | (with_reducible first | apply setPathState_kept | apply kept_foldl | apply kept_fold1 | apply kept_fold2 | apply kept_ite)
    | (with_reducible first | apply goes_next)
    | dsimp -zeta only
    | split

theorem linkMute_kept {q : List Instr} (s : State) (k : Nat) (rx : Bool) (m : Nat) (hs : Kept q s) :
    Kept q (State.linkMute s k rx m) := by
  unfold State.linkMute
  repeat' first
    | (with_reducible first | assumption | intro _ | exact kept_mk (by assumption))
    | (with_reducible extract_lets +onlyGivenNames x'; unfold x'; clear x')
    | (with_reducible first | apply muteStreams_kept | apply kept_foldl | apply kept_fold1 | apply kept_fold2 | apply kept_ite)
    | (with_reducible first | apply goes_next)
    | dsimp -zeta only
    | split

theorem showLoad_kept {q : List Instr} (s : State) (hs : Kept q s) :
    Kept q (State.showLoad s) := by
  unfold State.showLoad
  repeat' first
    | (with_reducible first | assumption | intro _ | exact kept_mk (by assumption))
    | (with_reducible extract_lets +onlyGivenNames x'; unfold x'; clear x')
    | (with_reducible first | apply wrN_kept | apply kept_foldl | apply kept_fold1 | apply kept_fold2 | apply kept_ite)
    | (with_reducible first | apply goes_next)
    | dsimp -zeta only
    | split

theorem sysref_kept {q : List Instr} (s : State) (k : Nat) (hs : Kept q s) :
    Kept q (State.sysref s k) := by
  unfold State.sysref
  repeat' first
    | (with_reducible first | assumption | intro _ | exact kept_mk (by assumption))
    | (with_reducible extract_lets +onlyGivenNames x'; unfold x'; clear x')
    | (with_reducible first | apply setBit_kept | apply wrN_kept | apply setRad_kept | apply raise_kept | apply kept_foldl)
    | (with_reducible first | apply kept_fold1 | apply kept_fold2 | apply kept_ite | apply goes_next)
    | dsimp -zeta only
    | split

theorem execJesLink_kept {q : List Instr} (d : Desc) (s : State) (hs : Kept q s) :
    Goes q (execJesLink d s) := by
  unfold execJesLink
  repeat' first
    | (with_reducible first | assumption | intro _ | exact kept_mk (by assumption))
    | (with_reducible extract_lets +onlyGivenNames x'; unfold x'; clear x')
    | (with_reducible first | apply commandNow_kept | apply linkStop_kept | apply linkMute_kept | apply showLoad_kept)
    | (with_reducible first | apply wrN_kept | apply setJes_kept | apply setFld_kept | apply kept_foldl | apply kept_fold1)
    | (with_reducible first | apply kept_fold2 | apply kept_ite | apply goes_next)
    | dsimp -zeta only
    | split

theorem execJesLinkUp_kept {q : List Instr} (k : Fin 4) (rx : Bool) (m : Fin 2) (s : State) (hs : Kept q s) :
    Goes q (execJesLinkUp k rx m s) := by
  unfold execJesLinkUp
  repeat' first
    | (with_reducible first | assumption | intro _ | exact kept_mk (by assumption))
    | (with_reducible extract_lets +onlyGivenNames x'; unfold x'; clear x')
    | (with_reducible first | apply setFld_kept | apply wrN_kept | apply setJes_kept | apply kept_foldl | apply kept_fold1)
    | (with_reducible first | apply kept_fold2 | apply kept_ite | apply goes_next)
    | dsimp -zeta only
    | split

theorem execJesLinkLoss_kept {q : List Instr} (k : Fin 4) (rx : Bool) (m : Fin 2) (cause : Fin 3) (lane : Fin 4) (s : State) (hs : Kept q s) :
    Goes q (execJesLinkLoss k rx m cause lane s) := by
  unfold execJesLinkLoss
  repeat' first
    | (with_reducible first | assumption | intro _ | exact kept_mk (by assumption))
    | (with_reducible extract_lets +onlyGivenNames x'; unfold x'; clear x')
    | (with_reducible first | apply setFld_kept | apply bump_kept | apply setBit_kept | apply linkMute_kept | apply setJes_kept)
    | (with_reducible first | apply kept_foldl | apply kept_fold1 | apply kept_fold2 | apply kept_ite | apply goes_next)
    | dsimp -zeta only
    | split

theorem execSysrefEdge_kept {q : List Instr} (s : State) (hs : Kept q s) :
    Goes q (execSysrefEdge s) := by
  unfold execSysrefEdge
  repeat' first
    | (with_reducible first | assumption | intro _ | exact kept_mk (by assumption))
    | (with_reducible extract_lets +onlyGivenNames x'; unfold x'; clear x')
    | (with_reducible first | apply sysref_kept | apply kept_foldl | apply kept_fold1 | apply kept_fold2 | apply kept_ite)
    | (with_reducible first | apply goes_next)
    | dsimp -zeta only
    | split

theorem execConverterStart_kept {q : List Instr} (k : Fin 4) (rx : Bool) (m : Fin 2) (s : State) (hs : Kept q s) :
    Goes q (execConverterStart k rx m s) := by
  unfold execConverterStart
  repeat' first
    | (with_reducible first | assumption | intro _ | exact kept_mk (by assumption))
    | (with_reducible extract_lets +onlyGivenNames x'; unfold x'; clear x')
    | (with_reducible first | apply startEdge_kept | apply setRad_kept | apply free1_kept | apply raise_kept | apply setBit_kept)
    | (with_reducible first | apply kept_foldl | apply kept_fold1 | apply kept_fold2 | apply kept_ite | apply goes_next)
    | dsimp -zeta only
    | split

theorem execJesQuery_kept {q : List Instr} (d : Desc) (s : State) (hs : Kept q s) :
    Goes q (execJesQuery d s) := by
  unfold execJesQuery
  repeat' first
    | (with_reducible first | assumption | intro _ | exact kept_mk (by assumption))
    | (with_reducible extract_lets +onlyGivenNames x'; unfold x'; clear x')
    | (with_reducible first | apply commandNow_kept | apply kept_foldl | apply kept_fold1 | apply kept_fold2 | apply kept_ite)
    | (with_reducible first | apply goes_next)
    | dsimp -zeta only
    | split

theorem execDfePath_kept {q : List Instr} (d : Desc) (s : State) (hs : Kept q s) :
    Goes q (execDfePath d s) := by
  unfold execDfePath
  repeat' first
    | (with_reducible first | assumption | intro _ | exact kept_mk (by assumption))
    | (with_reducible extract_lets +onlyGivenNames x'; unfold x'; clear x')
    | (with_reducible first | apply commandNow_kept | apply setRad_kept | apply kept_foldl | apply kept_fold1 | apply kept_fold2)
    | (with_reducible first | apply kept_ite | apply kept_getD | apply kept_getD1 | apply goes_next)
    | dsimp -zeta only
    | split

theorem pathCtl_kept {q : List Instr} (d : Desc) (more : State → Nat × Nat) (act : State → State) (s : State) (hact : ∀ a0, Kept q a0 → Kept q (act a0)) (hs : Kept q s) :
    Kept q (pathCtl d more act s) := by
  unfold pathCtl
  repeat' first
    | (with_reducible first | assumption | intro _ | exact kept_mk (by assumption))
    | (with_reducible extract_lets +onlyGivenNames x'; unfold x'; clear x')
    | (with_reducible first | apply commandNow_kept | apply hact | apply kept_foldl | apply kept_fold1 | apply kept_fold2)
    | (with_reducible first | apply kept_ite | apply goes_next)
    | dsimp -zeta only
    | split

theorem execDfePathCtlArm_kept {q : List Instr} (d : Desc) (s : State) (hs : Kept q s) :
    Goes q (execDfePathCtlArm d s) := by
  unfold execDfePathCtlArm
  repeat' first
    | (with_reducible first | assumption | intro _ | exact kept_mk (by assumption))
    | (with_reducible extract_lets +onlyGivenNames x'; unfold x'; clear x')
    | (with_reducible first | apply pathCtl_kept | apply setPathState_kept | apply kept_foldl | apply kept_fold1)
    | (with_reducible first | apply kept_fold2 | apply kept_ite | apply goes_next)
    | dsimp -zeta only
    | split

theorem execDfePathCtlStop_kept {q : List Instr} (d : Desc) (s : State) (hs : Kept q s) :
    Goes q (execDfePathCtlStop d s) := by
  unfold execDfePathCtlStop
  repeat' first
    | (with_reducible first | assumption | intro _ | exact kept_mk (by assumption))
    | (with_reducible extract_lets +onlyGivenNames x'; unfold x'; clear x')
    | (with_reducible first | apply pathCtl_kept | apply setPathState_kept | apply kept_foldl | apply kept_fold1)
    | (with_reducible first | apply kept_fold2 | apply kept_ite | apply goes_next)
    | dsimp -zeta only
    | split

theorem execDfePathCtlCommit_kept {q : List Instr} (d : Desc) (s : State) (hs : Kept q s) :
    Goes q (execDfePathCtlCommit d s) := by
  unfold execDfePathCtlCommit
  repeat' first
    | (with_reducible first | assumption | intro _ | exact kept_mk (by assumption))
    | (with_reducible extract_lets +onlyGivenNames x'; unfold x'; clear x')
    | (with_reducible first | apply pathCtl_kept | apply setBit_kept | apply wrN_kept | apply wrWords_kept | apply kept_foldl)
    | (with_reducible first | apply kept_fold1 | apply kept_fold2 | apply kept_ite | apply goes_next)
    | dsimp -zeta only
    | split

theorem execDfeCfr_kept {q : List Instr} (d : Desc) (s : State) (hs : Kept q s) :
    Goes q (execDfeCfr d s) := by
  unfold execDfeCfr
  repeat' first
    | (with_reducible first | assumption | intro _ | exact kept_mk (by assumption))
    | (with_reducible extract_lets +onlyGivenNames x'; unfold x'; clear x')
    | (with_reducible first | apply commandNow_kept | apply setRad_kept | apply kept_foldl | apply kept_fold1 | apply kept_fold2)
    | (with_reducible first | apply kept_ite | apply goes_next)
    | dsimp -zeta only
    | split

theorem execDfeMask_kept {q : List Instr} (d : Desc) (s : State) (hs : Kept q s) :
    Goes q (execDfeMask d s) := by
  unfold execDfeMask
  repeat' first
    | (with_reducible first | assumption | intro _ | exact kept_mk (by assumption))
    | (with_reducible extract_lets +onlyGivenNames x'; unfold x'; clear x')
    | (with_reducible first | apply commandNow_kept | apply setRad_kept | apply kept_foldl | apply kept_fold1 | apply kept_fold2)
    | (with_reducible first | apply kept_ite | apply goes_next)
    | dsimp -zeta only
    | split

theorem execPathUnderrun_kept {q : List Instr} (c : Fin 64) (s : State) (hs : Kept q s) :
    Goes q (execPathUnderrun c s) := by
  unfold execPathUnderrun
  repeat' first
    | (with_reducible first | assumption | intro _ | exact kept_mk (by assumption))
    | (with_reducible extract_lets +onlyGivenNames x'; unfold x'; clear x')
    | (with_reducible first | apply raise_kept | apply bumpSat_kept | apply kept_foldl | apply kept_fold1 | apply kept_fold2)
    | (with_reducible first | apply kept_ite | apply goes_next)
    | dsimp -zeta only
    | split

theorem execMaskMonitorFrame_kept {q : List Instr} (st : Fin 32) (power : Vector (BitVec 16) 8) (s : State) (hs : Kept q s) :
    Goes q (execMaskMonitorFrame st power s) := by
  unfold execMaskMonitorFrame
  repeat' first
    | (with_reducible first | assumption | intro _ | exact kept_mk (by assumption))
    | (with_reducible extract_lets +onlyGivenNames x'; unfold x'; clear x')
    | (with_reducible first | apply bumpSat_kept | apply setRad_kept | apply raise_kept | apply setBit_kept)
    | (with_reducible first | apply muteStreams_kept | apply kept_foldl | apply kept_fold1 | apply kept_fold2 | apply kept_ite)
    | (with_reducible first | apply goes_next)
    | dsimp -zeta only
    | split

theorem execCfrPeakInterval_kept {q : List Instr} (st : Fin 32) (clipped : BitVec 16) (s : State) (hs : Kept q s) :
    Goes q (execCfrPeakInterval st clipped s) := by
  unfold execCfrPeakInterval
  repeat' first
    | (with_reducible first | assumption | intro _ | exact kept_mk (by assumption))
    | (with_reducible extract_lets +onlyGivenNames x'; unfold x'; clear x')
    | (with_reducible first | apply bumpSat_kept | apply raise_kept | apply kept_foldl | apply kept_fold1 | apply kept_fold2)
    | (with_reducible first | apply kept_ite | apply goes_next)
    | dsimp -zeta only
    | split

theorem execPaProgram_kept {q : List Instr} (d : Desc) (s : State) (hs : Kept q s) :
    Goes q (execPaProgram d s) := by
  unfold execPaProgram
  repeat' first
    | (with_reducible first | assumption | intro _ | exact kept_mk (by assumption))
    | (with_reducible extract_lets +onlyGivenNames x'; unfold x'; clear x')
    | (with_reducible first | apply commandNow_kept | apply setPa_kept | apply setFld_kept | apply kept_foldl | apply kept_fold1)
    | (with_reducible first | apply kept_fold2 | apply kept_ite | apply goes_next)
    | dsimp -zeta only
    | split

theorem paCmd_kept {q : List Instr} (d : Desc) (accept : State → Nat × Nat) (more : State → Nat × Nat) (act : State → State) (s : State) (hact : ∀ a0, Kept q a0 → Kept q (act a0)) (hs : Kept q s) :
    Kept q (paCmd d accept more act s) := by
  unfold paCmd
  repeat' first
    | (with_reducible first | assumption | intro _ | exact kept_mk (by assumption))
    | (with_reducible extract_lets +onlyGivenNames x'; unfold x'; clear x')
    | (with_reducible first | apply commandNow_kept | apply hact | apply kept_foldl | apply kept_fold1 | apply kept_fold2)
    | (with_reducible first | apply kept_ite | apply goes_next)
    | dsimp -zeta only
    | split

theorem execPaReqUp_kept {q : List Instr} (d : Desc) (s : State) (hs : Kept q s) :
    Goes q (execPaReqUp d s) := by
  unfold execPaReqUp
  repeat' first
    | (with_reducible first | assumption | intro _ | exact kept_mk (by assumption))
    | (with_reducible extract_lets +onlyGivenNames x'; unfold x'; clear x')
    | (with_reducible first | apply paCmd_kept | apply paReq_kept | apply kept_foldl | apply kept_fold1 | apply kept_fold2)
    | (with_reducible first | apply kept_ite | apply goes_next)
    | dsimp -zeta only
    | split

theorem execPaReqDown_kept {q : List Instr} (d : Desc) (s : State) (hs : Kept q s) :
    Goes q (execPaReqDown d s) := by
  unfold execPaReqDown
  repeat' first
    | (with_reducible first | assumption | intro _ | exact kept_mk (by assumption))
    | (with_reducible extract_lets +onlyGivenNames x'; unfold x'; clear x')
    | (with_reducible first | apply paCmd_kept | apply paReq_kept | apply kept_foldl | apply kept_fold1 | apply kept_fold2)
    | (with_reducible first | apply kept_ite | apply goes_next)
    | dsimp -zeta only
    | split

theorem execPaReqMute_kept {q : List Instr} (d : Desc) (s : State) (hs : Kept q s) :
    Goes q (execPaReqMute d s) := by
  unfold execPaReqMute
  repeat' first
    | (with_reducible first | assumption | intro _ | exact kept_mk (by assumption))
    | (with_reducible extract_lets +onlyGivenNames x'; unfold x'; clear x')
    | (with_reducible first | apply paCmd_kept | apply paReq_kept | apply kept_foldl | apply kept_fold1 | apply kept_fold2)
    | (with_reducible first | apply kept_ite | apply goes_next)
    | dsimp -zeta only
    | split

theorem execPaReqTest_kept {q : List Instr} (d : Desc) (s : State) (hs : Kept q s) :
    Goes q (execPaReqTest d s) := by
  unfold execPaReqTest
  repeat' first
    | (with_reducible first | assumption | intro _ | exact kept_mk (by assumption))
    | (with_reducible extract_lets +onlyGivenNames x'; unfold x'; clear x')
    | (with_reducible first | apply paCmd_kept | apply paReq_kept | apply kept_foldl | apply kept_fold1 | apply kept_fold2)
    | (with_reducible first | apply kept_ite | apply goes_next)
    | dsimp -zeta only
    | split

theorem execPaReqClear_kept {q : List Instr} (d : Desc) (s : State) (hs : Kept q s) :
    Goes q (execPaReqClear d s) := by
  unfold execPaReqClear
  repeat' first
    | (with_reducible first | assumption | intro _ | exact kept_mk (by assumption))
    | (with_reducible extract_lets +onlyGivenNames x'; unfold x'; clear x')
    | (with_reducible first | apply paCmd_kept | apply setPaState_kept | apply kept_foldl | apply kept_fold1 | apply kept_fold2)
    | (with_reducible first | apply kept_ite | apply goes_next)
    | dsimp -zeta only
    | split

theorem execPaProgramEnd_kept {q : List Instr} (p : Fin 16) (s : State) (hs : Kept q s) :
    Goes q (execPaProgramEnd p s) := by
  unfold execPaProgramEnd
  repeat' first
    | (with_reducible first | assumption | intro _ | exact kept_mk (by assumption))
    | (with_reducible extract_lets +onlyGivenNames x'; unfold x'; clear x')
    | (with_reducible first | apply paEnd_kept | apply kept_foldl | apply kept_fold1 | apply kept_fold2 | apply kept_ite)
    | (with_reducible first | apply goes_next)
    | dsimp -zeta only
    | split

theorem execPaFault_kept {q : List Instr} (p : Fin 16) (low : Bool) (s : State) (hs : Kept q s) :
    Goes q (execPaFault p low s) := by
  unfold execPaFault
  repeat' first
    | (with_reducible first | assumption | intro _ | exact kept_mk (by assumption))
    | (with_reducible extract_lets +onlyGivenNames x'; unfold x'; clear x')
    | (with_reducible first | apply setFld_kept | apply paReq_kept | apply kept_foldl | apply kept_fold1 | apply kept_fold2)
    | (with_reducible first | apply kept_ite | apply goes_next)
    | dsimp -zeta only
    | split

theorem execPathOverrun_kept {q : List Instr} (c : Fin 64) (s : State) (hs : Kept q s) :
    Goes q (execPathOverrun c s) := by
  unfold execPathOverrun
  repeat' first
    | (with_reducible first | assumption | intro _ | exact kept_mk (by assumption))
    | (with_reducible extract_lets +onlyGivenNames x'; unfold x'; clear x')
    | (with_reducible first | apply bumpSat_kept | apply kept_foldl | apply kept_fold1 | apply kept_fold2 | apply kept_ite)
    | (with_reducible first | apply goes_next)
    | dsimp -zeta only
    | split

end Sys2Proof.Machine
end

