-- ==== Sys2Proof/Laws/KeptRandomAccess.lean ====
section
/-! SUPPORT. What the operations of RandomAccess keep. -/

namespace Sys2Proof.Machine
open Sys2Proof

set_option linter.all false

theorem setCtx_kept {q : List Instr} (s : State) (e : Nat) (c : Nat) (x : Option RaCtx) (hs : Kept q s) :
    Kept q (State.setCtx s e c x) := by
  unfold State.setCtx
  repeat' first
    | (with_reducible first | assumption | intro _ | exact kept_mk (by assumption))
    | (with_reducible extract_lets +onlyGivenNames x'; unfold x'; clear x')
    | (with_reducible first | apply setFld_kept | apply wrN_kept | apply kept_foldl | apply kept_fold1 | apply kept_fold2)
    | (with_reducible first | apply kept_ite | apply kept_elim | apply goes_next)
    | dsimp -zeta only
    | split

theorem raRecord_kept {q : List Instr} (s : State) (e : Nat) (r : Nat) (k : RaCtx) (status : Nat) (ctx : Nat) (plen : Nat) (slotIter : Nat) (payload : Bool) (hs : Kept q s) :
    Kept q (State.raRecord s e r k status ctx plen slotIter payload) := by
  unfold State.raRecord
  repeat' first
    | with_reducible assumption
    | with_reducible refine kept_some ?_
    | with_reducible refine kept_some1 ?_
    | with_reducible exact kept_none
    | with_reducible exact kept_none1
    | with_reducible refine kept_map ?_
    | with_reducible intro _
    | with_reducible exact kept_mk (by with_reducible assumption)
    | (with_reducible extract_lets +onlyGivenNames x'; refine kept_cut q x' ?_ ?_; (focus (unfold x'; clear x')); rotate_left; (focus (intro _; clear_value x')))
    | (with_reducible extract_lets +onlyGivenNames x'; refine kept_cut1 q x' ?_ ?_; (focus (unfold x'; clear x')); rotate_left; (focus (intro _; clear_value x')))
    | (with_reducible extract_lets +onlyGivenNames x'; refine kept_cut2 q x' ?_ ?_; (focus (unfold x'; clear x')); rotate_left; (focus (intro _; clear_value x')))
    | (with_reducible extract_lets +onlyGivenNames x'; unfold x'; clear x')
    | with_reducible apply raise_kept
    | with_reducible apply bumpSat_kept
    | with_reducible refine devWrite_kept _ _ _ ?_ _ (by with_reducible assumption)
    | with_reducible apply setFld_kept
    | with_reducible apply kept_foldl
    | with_reducible apply kept_fold1
    | with_reducible apply kept_fold2
    | with_reducible apply kept_ite
    | with_reducible apply kept_getD
    | with_reducible apply kept_getD1
    | with_reducible apply goes_next
    | dsimp -zeta only
    | split

theorem payloadEnd_kept {q : List Instr} (s : State) (e : Nat) (c : Nat) (k : RaCtx) (status : Nat) (plen : Nat) (slotIter : Nat) (hs : Kept q s) :
    Kept q (State.payloadEnd s e c k status plen slotIter) := by
  unfold State.payloadEnd
  repeat' first
    | with_reducible assumption
    | with_reducible refine kept_some ?_
    | with_reducible refine kept_some1 ?_
    | with_reducible exact kept_none
    | with_reducible exact kept_none1
    | with_reducible refine kept_map ?_
    | with_reducible intro _
    | with_reducible exact kept_mk (by with_reducible assumption)
    | (with_reducible extract_lets +onlyGivenNames x'; refine kept_cut q x' ?_ ?_; (focus (unfold x'; clear x')); rotate_left; (focus (intro _; clear_value x')))
    | (with_reducible extract_lets +onlyGivenNames x'; refine kept_cut1 q x' ?_ ?_; (focus (unfold x'; clear x')); rotate_left; (focus (intro _; clear_value x')))
    | (with_reducible extract_lets +onlyGivenNames x'; refine kept_cut2 q x' ?_ ?_; (focus (unfold x'; clear x')); rotate_left; (focus (intro _; clear_value x')))
    | (with_reducible extract_lets +onlyGivenNames x'; unfold x'; clear x')
    | with_reducible apply raRecord_kept
    | with_reducible apply setCtx_kept
    | with_reducible apply kept_foldl
    | with_reducible apply kept_fold1
    | with_reducible apply kept_fold2
    | with_reducible apply kept_ite
    | with_reducible apply goes_next
    | dsimp -zeta only
    | split

theorem raAllot_kept {q : List Instr} (s : State) (e : Nat) (hs : Kept q s) :
    Kept q (State.raAllot s e) := by
  unfold State.raAllot
  repeat' first
    | (with_reducible first | assumption | intro _ | exact kept_mk (by assumption))
    | (with_reducible extract_lets +onlyGivenNames x'; unfold x'; clear x')
    | (with_reducible first | apply setFld_kept | apply kept_foldl | apply kept_fold1 | apply kept_fold2 | apply kept_ite)
    | (with_reducible first | apply goes_next)
    | dsimp -zeta only
    | split

theorem raDetect_kept {q : List Instr} (s : State) (e : Nat) (r : Nat) (k : RaCtx) (ptab : Nat) (n : Nat × Nat × Nat) (hs : Kept q s) :
    Kept q (State.raDetect s e r k ptab n).1 := by
  unfold State.raDetect
  repeat' first
    | (with_reducible first | assumption | intro _ | exact kept_mk (by assumption))
    | (with_reducible extract_lets +onlyGivenNames x'; unfold x'; clear x')
    | (with_reducible first | apply errInfo_kept | apply setCtx_kept | apply raRecord_kept | apply bump_kept)
    | (with_reducible first | apply payloadEnd_kept | apply kept_foldl | apply kept_fold1 | apply kept_fold2 | apply kept_ite)
    | (with_reducible first | apply goes_next)
    | dsimp -zeta only
    | split

theorem occasionEnd_kept {q : List Instr} (s : State) (e : Nat) (r : Nat) (p : PoolJob) (hs : Kept q s) :
    Kept q (State.occasionEnd s e r p).1 := by
  unfold State.occasionEnd
  repeat' first
    | (with_reducible first | assumption | intro _ | exact kept_mk (by assumption))
    | (with_reducible extract_lets +onlyGivenNames x'; unfold x'; clear x')
    | (with_reducible first | apply raDetect_kept | apply bump_kept | apply kept_foldl | apply kept_fold1 | apply kept_fold2)
    | (with_reducible first | apply kept_ite | apply goes_next)
    | dsimp -zeta only
    | split

theorem execPoolJobComplete_kept {q : List Instr} (x : Fin 58) (s : State) (hs : Kept q s) :
    Goes q (execPoolJobComplete x s) := by
  unfold execPoolJobComplete
  repeat' first
    | (with_reducible first | assumption | intro _ | exact kept_mk (by assumption))
    | (with_reducible extract_lets +onlyGivenNames x'; unfold x'; clear x')
    | (with_reducible first | apply endPoolJob_kept | apply occasionEnd_kept | apply kept_foldl | apply kept_fold1)
    | (with_reducible first | apply kept_fold2 | apply kept_ite | apply kept_getD | apply kept_getD1 | apply goes_next)
    | dsimp -zeta only
    | split

theorem occasionJob_kept {q : List Instr} (op : Nat) (j : Job) (ds : List RaDet) (s : State) (hs : Kept q s) :
    Kept q (occasionJob op j ds s) := by
  unfold occasionJob
  repeat' first
    | (with_reducible first | assumption | intro _ | exact kept_mk (by assumption))
    | (with_reducible extract_lets +onlyGivenNames x'; unfold x'; clear x')
    | (with_reducible first | apply poolJob_kept | apply wrN_kept | apply kept_foldl | apply kept_fold1 | apply kept_fold2)
    | (with_reducible first | apply kept_ite | apply kept_getD | apply kept_getD1 | apply goes_next)
    | dsimp -zeta only
    | split

theorem execNrPrach_kept {q : List Instr} (j : Job) (ds : List RaDet) (s : State) (hs : Kept q s) :
    Goes q (execNrPrach j ds s) := by
  unfold execNrPrach
  repeat' first
    | (with_reducible first | assumption | intro _ | exact kept_mk (by assumption))
    | (with_reducible extract_lets +onlyGivenNames x'; unfold x'; clear x')
    | (with_reducible first | apply occasionJob_kept | apply kept_foldl | apply kept_fold1 | apply kept_fold2 | apply kept_ite)
    | (with_reducible first | apply goes_next)
    | dsimp -zeta only
    | split

theorem execLtePrach_kept {q : List Instr} (j : Job) (ds : List RaDet) (s : State) (hs : Kept q s) :
    Goes q (execLtePrach j ds s) := by
  unfold execLtePrach
  repeat' first
    | (with_reducible first | assumption | intro _ | exact kept_mk (by assumption))
    | (with_reducible extract_lets +onlyGivenNames x'; unfold x'; clear x')
    | (with_reducible first | apply occasionJob_kept | apply kept_foldl | apply kept_fold1 | apply kept_fold2 | apply kept_ite)
    | (with_reducible first | apply goes_next)
    | dsimp -zeta only
    | split

theorem execNprach_kept {q : List Instr} (j : Job) (ds : List RaDet) (s : State) (hs : Kept q s) :
    Goes q (execNprach j ds s) := by
  unfold execNprach
  repeat' first
    | (with_reducible first | assumption | intro _ | exact kept_mk (by assumption))
    | (with_reducible extract_lets +onlyGivenNames x'; unfold x'; clear x')
    | (with_reducible first | apply occasionJob_kept | apply kept_foldl | apply kept_fold1 | apply kept_fold2 | apply kept_ite)
    | (with_reducible first | apply goes_next)
    | dsimp -zeta only
    | split

theorem execPreadyReached_kept {q : List Instr} (e : Fin 2) (c : Fin 32) (s : State) (hs : Kept q s) :
    Goes q (execPreadyReached e c s) := by
  unfold execPreadyReached
  repeat' first
    | (with_reducible first | assumption | intro _ | exact kept_mk (by assumption))
    | (with_reducible extract_lets +onlyGivenNames x'; unfold x'; clear x')
    | (with_reducible first | apply setCtx_kept | apply kept_foldl | apply kept_fold1 | apply kept_fold2 | apply kept_ite)
    | (with_reducible first | apply goes_next)
    | dsimp -zeta only
    | split

theorem execPayloadProcess_kept {q : List Instr} (e : Fin 2) (s : State) (hs : Kept q s) :
    Goes q (execPayloadProcess e s) := by
  unfold execPayloadProcess
  repeat' first
    | (with_reducible first | assumption | intro _ | exact kept_mk (by assumption))
    | (with_reducible extract_lets +onlyGivenNames x'; unfold x'; clear x')
    | (with_reducible first | apply kept_foldl | apply kept_fold1 | apply kept_fold2 | apply kept_ite | apply goes_next)
    | dsimp -zeta only
    | split

theorem execPayloadComplete_kept {q : List Instr} (e : Fin 2) (pass : Bool) (s : State) (hs : Kept q s) :
    Goes q (execPayloadComplete e pass s) := by
  unfold execPayloadComplete
  repeat' first
    | with_reducible assumption
    | with_reducible refine kept_some ?_
    | with_reducible refine kept_some1 ?_
    | with_reducible exact kept_none
    | with_reducible exact kept_none1
    | with_reducible refine kept_map ?_
    | with_reducible intro _
    | with_reducible exact kept_mk (by with_reducible assumption)
    | (with_reducible extract_lets +onlyGivenNames x'; refine kept_cut q x' ?_ ?_; (focus (unfold x'; clear x')); rotate_left; (focus (intro _; clear_value x')))
    | (with_reducible extract_lets +onlyGivenNames x'; refine kept_cut1 q x' ?_ ?_; (focus (unfold x'; clear x')); rotate_left; (focus (intro _; clear_value x')))
    | (with_reducible extract_lets +onlyGivenNames x'; refine kept_cut2 q x' ?_ ?_; (focus (unfold x'; clear x')); rotate_left; (focus (intro _; clear_value x')))
    | (with_reducible extract_lets +onlyGivenNames x'; unfold x'; clear x')
    | with_reducible apply freeBytes_kept
    | with_reducible apply free1_kept
    | with_reducible apply setBytes_kept
    | with_reducible apply bump_kept
    | with_reducible apply payloadEnd_kept
    | with_reducible apply errInfo_kept
    | with_reducible apply kept_foldl
    | with_reducible apply kept_fold1
    | with_reducible apply kept_fold2
    | with_reducible apply kept_ite
    | with_reducible apply goes_next
    | dsimp -zeta only
    | split

theorem execRaRing_kept {q : List Instr} (d : Desc) (s : State) (hs : Kept q s) :
    Goes q (execRaRing d s) := by
  unfold execRaRing
  repeat' first
    | (with_reducible first | assumption | intro _ | exact kept_mk (by assumption))
    | (with_reducible extract_lets +onlyGivenNames x'; unfold x'; clear x')
    | (with_reducible first | apply commandNow_kept | apply ringCfgWrite_kept | apply ringHeadwbWrite_kept)
    | (with_reducible first | apply ringBaseWrite_kept | apply wrN_kept | apply wr_kept | apply kept_foldl | apply kept_fold1)
    | (with_reducible first | apply kept_fold2 | apply kept_ite | apply goes_next)
    | dsimp -zeta only
    | split

theorem execRaConfig_kept {q : List Instr} (d : Desc) (s : State) (hs : Kept q s) :
    Goes q (execRaConfig d s) := by
  unfold execRaConfig
  repeat' first
    | with_reducible assumption
    | with_reducible refine kept_some ?_
    | with_reducible refine kept_some1 ?_
    | with_reducible exact kept_none
    | with_reducible exact kept_none1
    | with_reducible refine kept_map ?_
    | with_reducible intro _
    | with_reducible exact kept_mk (by with_reducible assumption)
    | (with_reducible extract_lets +onlyGivenNames x'; refine kept_cut q x' ?_ ?_; (focus (unfold x'; clear x')); rotate_left; (focus (intro _; clear_value x')))
    | (with_reducible extract_lets +onlyGivenNames x'; refine kept_cut1 q x' ?_ ?_; (focus (unfold x'; clear x')); rotate_left; (focus (intro _; clear_value x')))
    | (with_reducible extract_lets +onlyGivenNames x'; refine kept_cut2 q x' ?_ ?_; (focus (unfold x'; clear x')); rotate_left; (focus (intro _; clear_value x')))
    | (with_reducible extract_lets +onlyGivenNames x'; unfold x'; clear x')
    | with_reducible apply commandNow_kept
    | with_reducible apply wrWords_kept
    | with_reducible apply kept_foldl
    | with_reducible apply kept_fold1
    | with_reducible apply kept_fold2
    | with_reducible apply kept_ite
    | with_reducible apply goes_next
    | dsimp -zeta only
    | split

theorem execRaThresh_kept {q : List Instr} (d : Desc) (s : State) (hs : Kept q s) :
    Goes q (execRaThresh d s) := by
  unfold execRaThresh
  repeat' first
    | (with_reducible first | assumption | intro _ | exact kept_mk (by assumption))
    | (with_reducible extract_lets +onlyGivenNames x'; unfold x'; clear x')
    | (with_reducible first | apply commandNow_kept | apply setFld_kept | apply kept_foldl | apply kept_fold1 | apply kept_fold2)
    | (with_reducible first | apply kept_ite | apply goes_next)
    | dsimp -zeta only
    | split

theorem execRaQuery_kept {q : List Instr} (d : Desc) (s : State) (hs : Kept q s) :
    Goes q (execRaQuery d s) := by
  unfold execRaQuery
  repeat' first
    | (with_reducible first | assumption | intro _ | exact kept_mk (by assumption))
    | (with_reducible extract_lets +onlyGivenNames x'; unfold x'; clear x')
    | (with_reducible first | apply commandNow_kept | apply kept_foldl | apply kept_fold1 | apply kept_fold2 | apply kept_ite)
    | (with_reducible first | apply goes_next)
    | dsimp -zeta only
    | split

theorem execRaAbort_kept {q : List Instr} (d : Desc) (s : State) (hs : Kept q s) :
    Goes q (execRaAbort d s) := by
  unfold execRaAbort
  repeat' first
    | (with_reducible first | assumption | intro _ | exact kept_mk (by assumption))
    | (with_reducible extract_lets +onlyGivenNames x'; unfold x'; clear x')
    | (with_reducible first | apply commandNow_kept | apply payloadEnd_kept | apply kept_foldl | apply kept_fold1)
    | (with_reducible first | apply kept_fold2 | apply kept_ite | apply goes_next)
    | dsimp -zeta only
    | split

end Sys2Proof.Machine
end

