-- ==== Sys2Proof/Laws/KeptAvail.lean ====
section
/-! SUPPORT. What the operations of Avail keep. -/

namespace Sys2Proof.Machine
open Sys2Proof

set_option linter.all false

theorem setAvl_kept {q : List Instr} (s : State) (x : AvlState) (hs : Kept q s) :
    Kept q (State.setAvl s x) := by
  unfold State.setAvl
  repeat' first
    | (with_reducible first | assumption | intro _ | exact kept_mk (by assumption))
    | (with_reducible extract_lets +onlyGivenNames x'; unfold x'; clear x')
    | (with_reducible first | apply kept_foldl | apply kept_fold1 | apply kept_fold2 | apply kept_ite | apply goes_next)
    | dsimp -zeta only
    | split

theorem pncPhase_kept {q : List Instr} (s : State) (d : Nat) (p : Nat) (t : Nat) (hs : Kept q s) :
    Kept q (State.pncPhase s d p t) := by
  unfold State.pncPhase
  repeat' first
    | (with_reducible first | assumption | intro _ | exact kept_mk (by assumption))
    | (with_reducible extract_lets +onlyGivenNames x'; unfold x'; clear x')
    | (with_reducible first | apply setAvl_kept | apply kept_foldl | apply kept_fold1 | apply kept_fold2 | apply kept_ite)
    | (with_reducible first | apply goes_next)
    | dsimp -zeta only
    | split

theorem pncRequest_kept {q : List Instr} (s : State) (d : Nat) (always : Bool) (slot : Option SlotId) (hs : Kept q s) :
    Kept q (State.pncRequest s d always slot) := by
  unfold State.pncRequest
  repeat' first
    | (with_reducible first | assumption | intro _ | exact kept_mk (by assumption))
    | (with_reducible extract_lets +onlyGivenNames x'; unfold x'; clear x')
    | (with_reducible first | apply setOrd_kept | apply setAvl_kept | apply kept_foldl | apply kept_fold1 | apply kept_fold2)
    | (with_reducible first | apply kept_ite | apply goes_next)
    | dsimp -zeta only
    | split

theorem unitReturn_kept {q : List Instr} (s : State) (kind : Nat) (unit : Nat) (hs : Kept q s) :
    Kept q (State.unitReturn s kind unit) := by
  unfold State.unitReturn
  repeat' first
    | (with_reducible first | assumption | intro _ | exact kept_mk (by assumption))
    | (with_reducible extract_lets +onlyGivenNames x'; unfold x'; clear x')
    | (with_reducible first | apply blockReset_kept | apply setOrd_kept | apply setAvl_kept | apply setFld_kept)
    | (with_reducible first | apply raise_kept | apply kept_foldl | apply kept_fold1 | apply kept_fold2 | apply kept_ite)
    | (with_reducible first | apply goes_next)
    | dsimp -zeta only
    | split

theorem execNibWatchdogExpiry_kept {q : List Instr} (nib : Fin 128) (s : State) (hs : Kept q s) :
    Goes q (execNibWatchdogExpiry nib s) := by
  unfold execNibWatchdogExpiry
  repeat' first
    | (with_reducible first | assumption | intro _ | exact kept_mk (by assumption))
    | (with_reducible extract_lets +onlyGivenNames x'; unfold x'; clear x')
    | (with_reducible first | apply notice_kept | apply raise_kept | apply kept_foldl | apply kept_fold1 | apply kept_fold2)
    | (with_reducible first | apply kept_ite | apply goes_next)
    | dsimp -zeta only
    | split

theorem execAvlQuery_kept {q : List Instr} (d : Desc) (s : State) (hs : Kept q s) :
    Goes q (execAvlQuery d s) := by
  unfold execAvlQuery
  repeat' first
    | (with_reducible first | assumption | intro _ | exact kept_mk (by assumption))
    | (with_reducible extract_lets +onlyGivenNames x'; unfold x'; clear x')
    | (with_reducible first | apply commandNow_kept | apply kept_foldl | apply kept_fold1 | apply kept_fold2 | apply kept_ite)
    | (with_reducible first | apply goes_next)
    | dsimp -zeta only
    | split

theorem execAvlReturn_kept {q : List Instr} (d : Desc) (s : State) (hs : Kept q s) :
    Goes q (execAvlReturn d s) := by
  unfold execAvlReturn
  repeat' first
    | (with_reducible first | assumption | intro _ | exact kept_mk (by assumption))
    | (with_reducible extract_lets +onlyGivenNames x'; unfold x'; clear x')
    | (with_reducible first | apply commandNow_kept | apply unitReturn_kept | apply kept_foldl | apply kept_fold1)
    | (with_reducible first | apply kept_fold2 | apply kept_ite | apply goes_next)
    | dsimp -zeta only
    | split

theorem execPncRun_kept {q : List Instr} (d : Desc) (s : State) (hs : Kept q s) :
    Goes q (execPncRun d s) := by
  unfold execPncRun
  repeat' first
    | (with_reducible first | assumption | intro _ | exact kept_mk (by assumption))
    | (with_reducible extract_lets +onlyGivenNames x'; unfold x'; clear x')
    | (with_reducible first | apply command_kept | apply pncRequest_kept | apply kept_foldl | apply kept_fold1)
    | (with_reducible first | apply kept_fold2 | apply kept_ite | apply goes_next)
    | dsimp -zeta only
    | split

theorem execPncRunAbort_kept {q : List Instr} (d : Desc) (s : State) (hs : Kept q s) :
    Goes q (execPncRunAbort d s) := by
  unfold execPncRunAbort
  repeat' first
    | (with_reducible first | assumption | intro _ | exact kept_mk (by assumption))
    | (with_reducible extract_lets +onlyGivenNames x'; unfold x'; clear x')
    | (with_reducible first | apply commandNow_kept | apply pncAbandon_kept | apply kept_foldl | apply kept_fold1)
    | (with_reducible first | apply kept_fold2 | apply kept_ite | apply goes_next)
    | dsimp -zeta only
    | split

theorem execPncSched_kept {q : List Instr} (d : Desc) (s : State) (hs : Kept q s) :
    Goes q (execPncSched d s) := by
  unfold execPncSched
  repeat' first
    | (with_reducible first | assumption | intro _ | exact kept_mk (by assumption))
    | (with_reducible extract_lets +onlyGivenNames x'; unfold x'; clear x')
    | (with_reducible first | apply commandNow_kept | apply wrN_kept | apply kept_foldl | apply kept_fold1 | apply kept_fold2)
    | (with_reducible first | apply kept_ite | apply goes_next)
    | dsimp -zeta only
    | split

theorem execSerdesTest_kept {q : List Instr} (d : Desc) (s : State) (hs : Kept q s) :
    Goes q (execSerdesTest d s) := by
  unfold execSerdesTest
  repeat' first
    | (with_reducible first | assumption | intro _ | exact kept_mk (by assumption))
    | (with_reducible extract_lets +onlyGivenNames x'; unfold x'; clear x')
    | (with_reducible first | apply command_kept | apply setAvl_kept | apply kept_foldl | apply kept_fold1 | apply kept_fold2)
    | (with_reducible first | apply kept_ite | apply goes_next)
    | dsimp -zeta only
    | split

theorem execSerdesTestEnd_kept {q : List Instr} (jesd : Bool) (rx : Bool) (lane : Fin 32) (bits : W64) (errors : W32) (s : State) (hs : Kept q s) :
    Goes q (execSerdesTestEnd jesd rx lane bits errors s) := by
  unfold execSerdesTestEnd
  repeat' first
    | (with_reducible first | assumption | intro _ | exact kept_mk (by assumption))
    | (with_reducible extract_lets +onlyGivenNames x'; unfold x'; clear x')
    | (with_reducible first | apply setAvl_kept | apply slotEnd_kept | apply raise_kept | apply kept_foldl | apply kept_fold1)
    | (with_reducible first | apply kept_fold2 | apply kept_ite | apply goes_next)
    | dsimp -zeta only
    | split

theorem execCalSet_kept {q : List Instr} (d : Desc) (s : State) (hs : Kept q s) :
    Goes q (execCalSet d s) := by
  unfold execCalSet
  repeat' first
    | (with_reducible first | assumption | intro _ | exact kept_mk (by assumption))
    | (with_reducible extract_lets +onlyGivenNames x'; unfold x'; clear x')
    | (with_reducible first | apply commandNow_kept | apply calSet_kept | apply kept_foldl | apply kept_fold1 | apply kept_fold2)
    | (with_reducible first | apply kept_ite | apply goes_next)
    | dsimp -zeta only
    | split

theorem execCalQuery_kept {q : List Instr} (d : Desc) (s : State) (hs : Kept q s) :
    Goes q (execCalQuery d s) := by
  unfold execCalQuery
  repeat' first
    | (with_reducible first | assumption | intro _ | exact kept_mk (by assumption))
    | (with_reducible extract_lets +onlyGivenNames x'; unfold x'; clear x')
    | (with_reducible first | apply commandNow_kept | apply kept_foldl | apply kept_fold1 | apply kept_fold2 | apply kept_ite)
    | (with_reducible first | apply goes_next)
    | dsimp -zeta only
    | split

theorem execAvlHeadroom_kept {q : List Instr} (d : Desc) (s : State) (hs : Kept q s) :
    Goes q (execAvlHeadroom d s) := by
  unfold execAvlHeadroom
  repeat' first
    | (with_reducible first | assumption | intro _ | exact kept_mk (by assumption))
    | (with_reducible extract_lets +onlyGivenNames x'; unfold x'; clear x')
    | (with_reducible first | apply commandNow_kept | apply free1_kept | apply kept_foldl | apply kept_fold1 | apply kept_fold2)
    | (with_reducible first | apply kept_ite | apply goes_next)
    | dsimp -zeta only
    | split

theorem execCalUserWrite_kept {q : List Instr} (who : Requester) (value : W32) (s : State) (hs : Kept q s) :
    Goes q (execCalUserWrite who value s) := by
  unfold execCalUserWrite
  repeat' first
    | (with_reducible first | assumption | intro _ | exact kept_mk (by assumption))
    | (with_reducible extract_lets +onlyGivenNames x'; unfold x'; clear x')
    | (with_reducible first | apply accessHeld_kept | apply calSet_kept | apply kept_foldl | apply kept_fold1 | apply kept_fold2)
    | (with_reducible first | apply kept_ite | apply goes_next)
    | dsimp -zeta only
    | split

theorem execPounceSelect_kept {q : List Instr} (s : State) (hs : Kept q s) :
    Goes q (execPounceSelect s) := by
  unfold execPounceSelect
  repeat' first
    | (with_reducible first | assumption | intro _ | exact kept_mk (by assumption))
    | (with_reducible extract_lets +onlyGivenNames x'; unfold x'; clear x')
    | (with_reducible first | apply setAvl_kept | apply pncRequest_kept | apply kept_foldl | apply kept_fold1 | apply kept_fold2)
    | (with_reducible first | apply kept_ite | apply goes_next)
    | dsimp -zeta only
    | split

theorem execPounceExclusionStart_kept {q : List Instr} (dom : Fin 64) (s : State) (hs : Kept q s) :
    Goes q (execPounceExclusionStart dom s) := by
  unfold execPounceExclusionStart
  repeat' first
    | (with_reducible first | assumption | intro _ | exact kept_mk (by assumption))
    | (with_reducible extract_lets +onlyGivenNames x'; unfold x'; clear x')
    | (with_reducible first | apply pncPhase_kept | apply setBit_kept | apply setIpend_kept | apply dispatch_kept)
    | (with_reducible first | apply kept_foldl | apply kept_fold1 | apply kept_fold2 | apply kept_ite | apply goes_next)
    | dsimp -zeta only
    | split

theorem execPounceDrained_kept {q : List Instr} (dom : Fin 64) (s : State) (hs : Kept q s) :
    Goes q (execPounceDrained dom s) := by
  unfold execPounceDrained
  repeat' first
    | (with_reducible first | assumption | intro _ | exact kept_mk (by assumption))
    | (with_reducible extract_lets +onlyGivenNames x'; unfold x'; clear x')
    | (with_reducible first | apply pncPhase_kept | apply kept_foldl | apply kept_fold1 | apply kept_fold2 | apply kept_ite)
    | (with_reducible first | apply goes_next)
    | dsimp -zeta only
    | split

theorem execPounceDrainTimeout_kept {q : List Instr} (dom : Fin 64) (s : State) (hs : Kept q s) :
    Goes q (execPounceDrainTimeout dom s) := by
  unfold execPounceDrainTimeout
  repeat' first
    | (with_reducible first | assumption | intro _ | exact kept_mk (by assumption))
    | (with_reducible extract_lets +onlyGivenNames x'; unfold x'; clear x')
    | (with_reducible first | apply pncAbandon_kept | apply kept_foldl | apply kept_fold1 | apply kept_fold2 | apply kept_ite)
    | (with_reducible first | apply goes_next)
    | dsimp -zeta only
    | split

theorem execPounceTestEnd_kept {q : List Instr} (dom : Fin 64) (pass : Bool) (coverage : BitVec 12) (duration : BitVec 16) (s : State) (hs : Kept q s) :
    Goes q (execPounceTestEnd dom pass coverage duration s) := by
  unfold execPounceTestEnd
  repeat' first
    | (with_reducible first | assumption | intro _ | exact kept_mk (by assumption))
    | (with_reducible extract_lets +onlyGivenNames x'; unfold x'; clear x')
    | (with_reducible first | apply pncRelease_kept | apply wrN_kept | apply blockResetOf_kept | apply nibStart_kept)
    | (with_reducible first | apply setAvl_kept | apply raise_kept | apply bump_kept | apply notice_kept | apply slotEnd_kept)
    | (with_reducible first | apply kept_foldl | apply kept_fold1 | apply kept_fold2 | apply kept_ite | apply kept_elim)
    | (with_reducible first | apply goes_next)
    | dsimp -zeta only
    | split

theorem execPounceWindowClose_kept {q : List Instr} (w : Fin 16) (s : State) (hs : Kept q s) :
    Goes q (execPounceWindowClose w s) := by
  unfold execPounceWindowClose
  repeat' first
    | (with_reducible first | assumption | intro _ | exact kept_mk (by assumption))
    | (with_reducible extract_lets +onlyGivenNames x'; unfold x'; clear x')
    | (with_reducible first | apply setAvl_kept | apply kept_foldl | apply kept_fold1 | apply kept_fold2 | apply kept_ite)
    | (with_reducible first | apply goes_next)
    | dsimp -zeta only
    | split

theorem execPounceOverdue_kept {q : List Instr} (dom : Fin 64) (s : State) (hs : Kept q s) :
    Goes q (execPounceOverdue dom s) := by
  unfold execPounceOverdue
  repeat' first
    | (with_reducible first | assumption | intro _ | exact kept_mk (by assumption))
    | (with_reducible extract_lets +onlyGivenNames x'; unfold x'; clear x')
    | (with_reducible first | apply raise_kept | apply setAvl_kept | apply kept_foldl | apply kept_fold1 | apply kept_fold2)
    | (with_reducible first | apply kept_ite | apply goes_next)
    | dsimp -zeta only
    | split

end Sys2Proof.Machine
end

