-- ==== Sys2Proof/Laws/KeptPower.lean ====
section
/-! SUPPORT. What the operations of Power keep. -/

namespace Sys2Proof.Machine
open Sys2Proof

set_option linter.all false

theorem clearDeep_kept {q : List Instr} (s : State) (d : Nat) (hs : Kept q s) :
    Kept q (State.clearDeep s d) := by
  unfold State.clearDeep
  repeat' first
    | (with_reducible first | assumption | intro _ | exact kept_mk (by assumption))
    | (with_reducible extract_lets +onlyGivenNames x'; unfold x'; clear x')
    | (with_reducible first | apply setPwr_kept | apply kept_foldl | apply kept_fold1 | apply kept_fold2 | apply kept_ite)
    | (with_reducible first | apply goes_next)
    | dsimp -zeta only
    | split

theorem domChanged_kept {q : List Instr} (s : State) (d : Nat) (hs : Kept q s) :
    Kept q (State.domChanged s d) := by
  unfold State.domChanged
  repeat' first
    | (with_reducible first | assumption | intro _ | exact kept_mk (by assumption))
    | (with_reducible extract_lets +onlyGivenNames x'; unfold x'; clear x')
    | (with_reducible first | apply setBit_kept | apply kept_foldl | apply kept_fold1 | apply kept_fold2 | apply kept_ite)
    | (with_reducible first | apply goes_next)
    | dsimp -zeta only
    | split

theorem showTrans_kept {q : List Instr} (s : State) (d : Nat) (entering : Bool) (exiting : Bool) (ap : Nat) (hs : Kept q s) :
    Kept q (State.showTrans s d entering exiting ap) := by
  unfold State.showTrans
  repeat' first
    | (with_reducible first | assumption | intro _ | exact kept_mk (by assumption))
    | (with_reducible extract_lets +onlyGivenNames x'; unfold x'; clear x')
    | (with_reducible first | apply setFld_kept | apply kept_foldl | apply kept_fold1 | apply kept_fold2 | apply kept_ite)
    | (with_reducible first | apply goes_next)
    | dsimp -zeta only
    | split

theorem enterAbandon_kept {q : List Instr} (s : State) (d : Nat) (k : Nat) (t : PTrans) (w : Wake) (hs : Kept q s) :
    Kept q (State.enterAbandon s d k t w) := by
  unfold State.enterAbandon
  repeat' first
    | (with_reducible first | assumption | intro _ | exact kept_mk (by assumption))
    | (with_reducible extract_lets +onlyGivenNames x'; unfold x'; clear x')
    | (with_reducible first | apply raise_kept | apply bump_kept | apply showTrans_kept | apply setTrans_kept | apply kept_foldl)
    | (with_reducible first | apply kept_fold1 | apply kept_fold2 | apply kept_ite | apply goes_next)
    | dsimp -zeta only
    | split

theorem enterBegin_kept {q : List Instr} (s : State) (d : Nat) (target : Nat) (slot : Option SlotId) (hs : Kept q s) :
    Kept q (State.enterBegin s d target slot) := by
  unfold State.enterBegin
  repeat' first
    | (with_reducible first | assumption | intro _ | exact kept_mk (by assumption))
    | (with_reducible extract_lets +onlyGivenNames x'; unfold x'; clear x')
    | (with_reducible first | apply clearDeep_kept | apply showTrans_kept | apply setTrans_kept | apply kept_foldl)
    | (with_reducible first | apply kept_fold1 | apply kept_fold2 | apply kept_ite | apply goes_next)
    | dsimp -zeta only
    | split

theorem ferLost_kept {q : List Instr} (s : State) (f : Nat) (p : FerCmd → Bool) (hs : Kept q s) :
    Kept q (State.ferLost s f p) := by
  unfold State.ferLost
  repeat' first
    | (with_reducible first | assumption | intro _ | exact kept_mk (by assumption))
    | (with_reducible extract_lets +onlyGivenNames x'; unfold x'; clear x')
    | (with_reducible first | apply setFer_kept | apply ferShow_kept | apply ferTagEnd_kept | apply ferError_kept)
    | (with_reducible first | apply kept_foldl | apply kept_fold1 | apply kept_fold2 | apply kept_ite | apply goes_next)
    | dsimp -zeta only
    | split

theorem unitLost_kept {q : List Instr} (s : State) (j : Nat) (hs : Kept q s) :
    Kept q (State.unitLost s j) := by
  unfold State.unitLost
  repeat' first
    | (with_reducible first | assumption | intro _ | exact kept_mk (by assumption))
    | (with_reducible extract_lets +onlyGivenNames x'; unfold x'; clear x')
    | (with_reducible first | apply endPoolJob_kept | apply partly_kept | apply kept_foldl | apply kept_fold1 | apply kept_fold2)
    | (with_reducible first | apply kept_ite | apply goes_next)
    | dsimp -zeta only
    | split

theorem scribeLost_kept {q : List Instr} (s : State) (d : Nat) (hs : Kept q s) :
    Kept q (State.scribeLost s d) := by
  unfold State.scribeLost
  repeat' first
    | with_reducible assumption
    | with_reducible refine kept_some ?_
    | with_reducible refine kept_some1 ?_
    | with_reducible exact kept_none
    | with_reducible exact kept_none1
    | with_reducible refine kept_map ?_
    | with_reducible intro _
    | with_reducible exact kept_mk (by with_reducible assumption)
    | (with_reducible extract_lets +onlyGivenNames x'; refine kept_cut q x' ?_ ?_; (focus (unfold x'; clear x')); rotate_left; (focus (intro _; clear_value x')))
    | (with_reducible extract_lets +onlyGivenNames x'; refine kept_cut1 q x' ?_ ?_; (focus (unfold x'; clear x')); rotate_left; (focus (intro _; clear_value x')))
    | (with_reducible extract_lets +onlyGivenNames x'; refine kept_cut2 q x' ?_ ?_; (focus (unfold x'; clear x')); rotate_left; (focus (intro _; clear_value x')))
    | (with_reducible extract_lets +onlyGivenNames x'; unfold x'; clear x')
    | with_reducible apply jobFails_kept
    | with_reducible apply outState_kept
    | with_reducible apply execScribeDescriptorComplete_kept
    | with_reducible apply kept_foldl
    | with_reducible apply kept_fold1
    | with_reducible apply kept_fold2
    | with_reducible apply kept_ite
    | with_reducible apply goes_next
    | dsimp -zeta only
    | split

theorem paSafe_kept {q : List Instr} (s : State) (hs : Kept q s) :
    Kept q (State.paSafe s) := by
  unfold State.paSafe
  repeat' first
    | (with_reducible first | assumption | intro _ | exact kept_mk (by assumption))
    | (with_reducible extract_lets +onlyGivenNames x'; unfold x'; clear x')
    | (with_reducible first | apply setPa_kept | apply setPaState_kept | apply setFld_kept | apply kept_foldl | apply kept_fold1)
    | (with_reducible first | apply kept_fold2 | apply kept_ite | apply goes_next)
    | dsimp -zeta only
    | split

theorem opsLost_kept {q : List Instr} (s : State) (d : Nat) (hs : Kept q s) :
    Kept q (State.opsLost s d) := by
  unfold State.opsLost
  repeat' first
    | (with_reducible first | assumption | intro _ | exact kept_mk (by assumption))
    | (with_reducible extract_lets +onlyGivenNames x'; unfold x'; clear x')
    | (with_reducible first | apply unitLost_kept | apply scribeLost_kept | apply ferLost_kept | apply setCtx_kept)
    | (with_reducible first | apply payloadEnd_kept | apply ethDown_kept | apply linkStop_kept | apply setJes_kept)
    | (with_reducible first | apply paSafe_kept | apply outState_kept | apply execYlkLinkFailure_kept | apply pncAbandon_kept)
    | (with_reducible first | apply heldLost_kept | apply kept_foldl | apply kept_fold1 | apply kept_fold2 | apply kept_ite)
    | (with_reducible first | apply goes_next)
    | dsimp -zeta only
    | split

theorem setDomState_kept {q : List Instr} (s : State) (d : Nat) (k : Nat) (hs : Kept q s) :
    Kept q (State.setDomState s d k) := by
  unfold State.setDomState
  repeat' first
    | (with_reducible first | assumption | intro _ | exact kept_mk (by assumption))
    | (with_reducible extract_lets +onlyGivenNames x'; unfold x'; clear x')
    | (with_reducible first | apply domChanged_kept | apply setFld_kept | apply kept_foldl | apply kept_fold1 | apply kept_fold2)
    | (with_reducible first | apply kept_ite | apply goes_next)
    | dsimp -zeta only
    | split

theorem forceDown_kept {q : List Instr} (s : State) (d : Nat) (cause : Nat) (hs : Kept q s) :
    Kept q (State.forceDown s d cause) := by
  unfold State.forceDown
  repeat' first
    | (with_reducible first | assumption | intro _ | exact kept_mk (by assumption))
    | (with_reducible extract_lets +onlyGivenNames x'; unfold x'; clear x')
    | (with_reducible first | apply setPwr_kept | apply opsLost_kept | apply slotEnd_kept | apply setDomState_kept)
    | (with_reducible first | apply clearDeep_kept | apply showTrans_kept | apply setTrans_kept | apply setFld_kept)
    | (with_reducible first | apply setBit_kept | apply raise_kept | apply kept_foldl | apply kept_fold1 | apply kept_fold2)
    | (with_reducible first | apply kept_ite | apply kept_elim | apply goes_next)
    | dsimp -zeta only
    | split

theorem loseWords_kept {q : List Instr} (s : State) (lo : Nat) (hi : Nat) (bank : Option Nat) (hs : Kept q s) :
    Kept q (State.loseWords s lo hi bank) := by
  unfold State.loseWords
  repeat' first
    | (with_reducible first | assumption | intro _ | exact kept_mk (by assumption))
    | (with_reducible extract_lets +onlyGivenNames x'; unfold x'; clear x')
    | (with_reducible first | apply kept_foldl | apply kept_fold1 | apply kept_fold2 | apply kept_ite | apply goes_next)
    | dsimp -zeta only
    | split

theorem leaveD3_kept {q : List Instr} (s : State) (d : Nat) (hs : Kept q s) :
    Kept q (State.leaveD3 s d) := by
  unfold State.leaveD3
  repeat' first
    | with_reducible assumption
    | with_reducible refine kept_some ?_
    | with_reducible refine kept_some1 ?_
    | with_reducible exact kept_none
    | with_reducible exact kept_none1
    | with_reducible refine kept_map ?_
    | with_reducible intro _
    | with_reducible exact kept_mk (by with_reducible assumption)
    | (with_reducible extract_lets +onlyGivenNames x'; refine kept_cut q x' ?_ ?_; (focus (unfold x'; clear x')); rotate_left; (focus (intro _; clear_value x')))
    | (with_reducible extract_lets +onlyGivenNames x'; refine kept_cut1 q x' ?_ ?_; (focus (unfold x'; clear x')); rotate_left; (focus (intro _; clear_value x')))
    | (with_reducible extract_lets +onlyGivenNames x'; refine kept_cut2 q x' ?_ ?_; (focus (unfold x'; clear x')); rotate_left; (focus (intro _; clear_value x')))
    | (with_reducible extract_lets +onlyGivenNames x'; unfold x'; clear x')
    | with_reducible apply blockResetOf_kept
    | with_reducible apply setPwr_kept
    | with_reducible apply nibReset_kept
    | with_reducible apply loseWords_kept
    | with_reducible apply ethDown_kept
    | with_reducible apply kept_foldl
    | with_reducible apply kept_fold1
    | with_reducible apply kept_fold2
    | with_reducible apply kept_ite
    | with_reducible apply goes_next
    | dsimp -zeta only
    | split

theorem loseBank_kept {q : List Instr} (s : State) (d : Nat) (b : Nat) (hs : Kept q s) :
    Kept q (State.loseBank s d b) := by
  unfold State.loseBank
  repeat' first
    | (with_reducible first | assumption | intro _ | exact kept_mk (by assumption))
    | (with_reducible extract_lets +onlyGivenNames x'; unfold x'; clear x')
    | (with_reducible first | apply loseWords_kept | apply blockReset_kept | apply kept_foldl | apply kept_fold1)
    | (with_reducible first | apply kept_fold2 | apply kept_ite | apply goes_next)
    | dsimp -zeta only
    | split

theorem stepDone_kept {q : List Instr} (s : State) (d : Nat) (k : Nat) (hs : Kept q s) :
    Kept q (State.stepDone s d k) := by
  unfold State.stepDone
  repeat' first
    | (with_reducible first | assumption | intro _ | exact kept_mk (by assumption))
    | (with_reducible extract_lets +onlyGivenNames x'; unfold x'; clear x')
    | (with_reducible first | apply setDomState_kept | apply setNib_kept | apply setPwr_kept | apply kept_foldl)
    | (with_reducible first | apply kept_fold1 | apply kept_fold2 | apply kept_ite | apply goes_next)
    | dsimp -zeta only
    | split

theorem pwrVote_kept {q : List Instr} (kinds : List Nat) (d : Desc) (s : State) (hs : Kept q s) :
    Kept q (pwrVote kinds d s) := by
  unfold pwrVote
  repeat' first
    | (with_reducible first | assumption | intro _ | exact kept_mk (by assumption))
    | (with_reducible extract_lets +onlyGivenNames x'; unfold x'; clear x')
    | (with_reducible first | apply commandNow_kept | apply free1_kept | apply setPwr_kept | apply kept_foldl | apply kept_fold1)
    | (with_reducible first | apply kept_fold2 | apply kept_ite | apply goes_next)
    | dsimp -zeta only
    | split

theorem execPwrVoteD0_kept {q : List Instr} (d : Desc) (s : State) (hs : Kept q s) :
    Goes q (execPwrVoteD0 d s) := by
  unfold execPwrVoteD0
  repeat' first
    | (with_reducible first | assumption | intro _ | exact kept_mk (by assumption))
    | (with_reducible extract_lets +onlyGivenNames x'; unfold x'; clear x')
    | (with_reducible first | apply pwrVote_kept | apply kept_foldl | apply kept_fold1 | apply kept_fold2 | apply kept_ite)
    | (with_reducible first | apply goes_next)
    | dsimp -zeta only
    | split

theorem execPwrVoteTolerance_kept {q : List Instr} (d : Desc) (s : State) (hs : Kept q s) :
    Goes q (execPwrVoteTolerance d s) := by
  unfold execPwrVoteTolerance
  repeat' first
    | (with_reducible first | assumption | intro _ | exact kept_mk (by assumption))
    | (with_reducible extract_lets +onlyGivenNames x'; unfold x'; clear x')
    | (with_reducible first | apply pwrVote_kept | apply kept_foldl | apply kept_fold1 | apply kept_fold2 | apply kept_ite)
    | (with_reducible first | apply goes_next)
    | dsimp -zeta only
    | split

theorem execPwrVoteWithdraw_kept {q : List Instr} (d : Desc) (s : State) (hs : Kept q s) :
    Goes q (execPwrVoteWithdraw d s) := by
  unfold execPwrVoteWithdraw
  repeat' first
    | (with_reducible first | assumption | intro _ | exact kept_mk (by assumption))
    | (with_reducible extract_lets +onlyGivenNames x'; unfold x'; clear x')
    | (with_reducible first | apply pwrVote_kept | apply kept_foldl | apply kept_fold1 | apply kept_fold2 | apply kept_ite)
    | (with_reducible first | apply goes_next)
    | dsimp -zeta only
    | split

theorem execPwrQuery_kept {q : List Instr} (d : Desc) (s : State) (hs : Kept q s) :
    Goes q (execPwrQuery d s) := by
  unfold execPwrQuery
  repeat' first
    | (with_reducible first | assumption | intro _ | exact kept_mk (by assumption))
    | (with_reducible extract_lets +onlyGivenNames x'; unfold x'; clear x')
    | (with_reducible first | apply commandNow_kept | apply pwrShow_kept | apply kept_foldl | apply kept_fold1)
    | (with_reducible first | apply kept_fold2 | apply kept_ite | apply goes_next)
    | dsimp -zeta only
    | split

theorem execPwrEnter_kept {q : List Instr} (d : Desc) (s : State) (hs : Kept q s) :
    Goes q (execPwrEnter d s) := by
  unfold execPwrEnter
  repeat' first
    | (with_reducible first | assumption | intro _ | exact kept_mk (by assumption))
    | (with_reducible extract_lets +onlyGivenNames x'; unfold x'; clear x')
    | (with_reducible first | apply command_kept | apply enterBegin_kept | apply enterAbandon_kept | apply kept_foldl)
    | (with_reducible first | apply kept_fold1 | apply kept_fold2 | apply kept_ite | apply goes_next)
    | dsimp -zeta only
    | split

theorem execPwrWindow_kept {q : List Instr} (d : Desc) (s : State) (hs : Kept q s) :
    Goes q (execPwrWindow d s) := by
  unfold execPwrWindow
  repeat' first
    | (with_reducible first | assumption | intro _ | exact kept_mk (by assumption))
    | (with_reducible extract_lets +onlyGivenNames x'; unfold x'; clear x')
    | (with_reducible first | apply commandNow_kept | apply winFree_kept | apply wrWords_kept | apply kept_foldl)
    | (with_reducible first | apply kept_fold1 | apply kept_fold2 | apply kept_ite | apply goes_next)
    | dsimp -zeta only
    | split

theorem execPwrForceClear_kept {q : List Instr} (d : Desc) (s : State) (hs : Kept q s) :
    Goes q (execPwrForceClear d s) := by
  unfold execPwrForceClear
  repeat' first
    | (with_reducible first | assumption | intro _ | exact kept_mk (by assumption))
    | (with_reducible extract_lets +onlyGivenNames x'; unfold x'; clear x')
    | (with_reducible first | apply commandNow_kept | apply setFld_kept | apply setPwr_kept | apply kept_foldl)
    | (with_reducible first | apply kept_fold1 | apply kept_fold2 | apply kept_ite | apply goes_next)
    | dsimp -zeta only
    | split

theorem execClkQuery_kept {q : List Instr} (d : Desc) (s : State) (hs : Kept q s) :
    Goes q (execClkQuery d s) := by
  unfold execClkQuery
  repeat' first
    | (with_reducible first | assumption | intro _ | exact kept_mk (by assumption))
    | (with_reducible extract_lets +onlyGivenNames x'; unfold x'; clear x')
    | (with_reducible first | apply commandNow_kept | apply kept_foldl | apply kept_fold1 | apply kept_fold2 | apply kept_ite)
    | (with_reducible first | apply goes_next)
    | dsimp -zeta only
    | split

theorem execPowerEntryStart_kept {q : List Instr} (dom : Fin 64) (s : State) (hs : Kept q s) :
    Goes q (execPowerEntryStart dom s) := by
  unfold execPowerEntryStart
  repeat' first
    | (with_reducible first | assumption | intro _ | exact kept_mk (by assumption))
    | (with_reducible extract_lets +onlyGivenNames x'; unfold x'; clear x')
    | (with_reducible first | apply enterBegin_kept | apply enterAbandon_kept | apply kept_foldl | apply kept_fold1)
    | (with_reducible first | apply kept_fold2 | apply kept_ite | apply goes_next)
    | dsimp -zeta only
    | split

theorem execPowerEntryStepComplete_kept {q : List Instr} (dom : Fin 64) (s : State) (hs : Kept q s) :
    Goes q (execPowerEntryStepComplete dom s) := by
  unfold execPowerEntryStepComplete
  repeat' first
    | (with_reducible first | assumption | intro _ | exact kept_mk (by assumption))
    | (with_reducible extract_lets +onlyGivenNames x'; unfold x'; clear x')
    | (with_reducible first | apply stepDone_kept | apply enterAbandon_kept | apply showTrans_kept | apply setTrans_kept)
    | (with_reducible first | apply clearDeep_kept | apply raise_kept | apply domChanged_kept | apply bump_kept)
    | (with_reducible first | apply slotEnd_kept | apply kept_foldl | apply kept_fold1 | apply kept_fold2 | apply kept_ite)
    | (with_reducible first | apply kept_elim | apply goes_next)
    | dsimp -zeta only
    | split

theorem execPowerExit_kept {q : List Instr} (dom : Fin 64) (s : State) (hs : Kept q s) :
    Goes q (execPowerExit dom s) := by
  unfold execPowerExit
  repeat' first
    | (with_reducible first | assumption | intro _ | exact kept_mk (by assumption))
    | (with_reducible extract_lets +onlyGivenNames x'; unfold x'; clear x')
    | (with_reducible first | apply clearDeep_kept | apply showTrans_kept | apply setTrans_kept | apply kept_foldl)
    | (with_reducible first | apply kept_fold1 | apply kept_fold2 | apply kept_ite | apply kept_getD | apply kept_getD1)
    | (with_reducible first | apply goes_next)
    | dsimp -zeta only
    | split

theorem execPowerExitComplete_kept {q : List Instr} (dom : Fin 64) (bad : BitVec 128) (s : State) (hs : Kept q s) :
    Goes q (execPowerExitComplete dom bad s) := by
  unfold execPowerExitComplete
  repeat' first
    | (with_reducible first | assumption | intro _ | exact kept_mk (by assumption))
    | (with_reducible extract_lets +onlyGivenNames x'; unfold x'; clear x')
    | (with_reducible first | apply loseBank_kept | apply leaveD3_kept | apply wrWords_kept | apply clearDeep_kept)
    | (with_reducible first | apply showTrans_kept | apply setTrans_kept | apply setDomState_kept | apply setPwr_kept)
    | (with_reducible first | apply raise_kept | apply domChanged_kept | apply setBit_kept | apply slotEnd_kept)
    | (with_reducible first | apply kept_foldl | apply kept_fold1 | apply kept_fold2 | apply kept_ite | apply kept_elim)
    | (with_reducible first | apply kept_getD | apply kept_getD1 | apply goes_next)
    | dsimp -zeta only
    | split

theorem execRetentionExcursion_kept {q : List Instr} (dom : Fin 64) (bank : Fin 128) (s : State) (hs : Kept q s) :
    Goes q (execRetentionExcursion dom bank s) := by
  unfold execRetentionExcursion
  repeat' first
    | (with_reducible first | assumption | intro _ | exact kept_mk (by assumption))
    | (with_reducible extract_lets +onlyGivenNames x'; unfold x'; clear x')
    | (with_reducible first | apply setPwr_kept | apply kept_foldl | apply kept_fold1 | apply kept_fold2 | apply kept_ite)
    | (with_reducible first | apply goes_next)
    | dsimp -zeta only
    | split

theorem execForcedPowerDown_kept {q : List Instr} (zero : Bool) (s : State) (hs : Kept q s) :
    Goes q (execForcedPowerDown zero s) := by
  unfold execForcedPowerDown
  repeat' first
    | (with_reducible first | assumption | intro _ | exact kept_mk (by assumption))
    | (with_reducible extract_lets +onlyGivenNames x'; unfold x'; clear x')
    | (with_reducible first | apply forceDown_kept | apply kept_foldl | apply kept_fold1 | apply kept_fold2 | apply kept_ite)
    | (with_reducible first | apply goes_next)
    | dsimp -zeta only
    | split

theorem execPowerWindowExpiry_kept {q : List Instr} (w : Fin 32) (s : State) (hs : Kept q s) :
    Goes q (execPowerWindowExpiry w s) := by
  unfold execPowerWindowExpiry
  repeat' first
    | (with_reducible first | assumption | intro _ | exact kept_mk (by assumption))
    | (with_reducible extract_lets +onlyGivenNames x'; unfold x'; clear x')
    | (with_reducible first | apply setPwr_kept | apply kept_foldl | apply kept_fold1 | apply kept_fold2 | apply kept_ite)
    | (with_reducible first | apply goes_next)
    | dsimp -zeta only
    | split

theorem execPllLossOfLock_kept {q : List Instr} (k : Fin 9) (s : State) (hs : Kept q s) :
    Goes q (execPllLossOfLock k s) := by
  unfold execPllLossOfLock
  repeat' first
    | (with_reducible first | assumption | intro _ | exact kept_mk (by assumption))
    | (with_reducible extract_lets +onlyGivenNames x'; unfold x'; clear x')
    | (with_reducible first | apply raise_kept | apply setBit_kept | apply setFld_kept | apply notice_kept | apply kept_foldl)
    | (with_reducible first | apply kept_fold1 | apply kept_fold2 | apply kept_ite | apply goes_next)
    | dsimp -zeta only
    | split

theorem execPeerPwrVote_kept {q : List Instr} (dev : Fin 64) (dom : Fin 64) (kind : Fin 3) (tol : W32) (s : State) (hs : Kept q s) :
    Goes q (execPeerPwrVote dev dom kind tol s) := by
  unfold execPeerPwrVote
  repeat' first
    | (with_reducible first | assumption | intro _ | exact kept_mk (by assumption))
    | (with_reducible extract_lets +onlyGivenNames x'; unfold x'; clear x')
    | (with_reducible first | apply setPwr_kept | apply kept_foldl | apply kept_fold1 | apply kept_fold2 | apply kept_ite)
    | (with_reducible first | apply goes_next)
    | dsimp -zeta only
    | split

end Sys2Proof.Machine
end

