-- ==== Sys2Proof/Laws/KeptChop.lean ====
section
/-! SUPPORT. What the operations of Chop keep. -/

namespace Sys2Proof.Machine
open Sys2Proof

set_option linter.all false

theorem setChp_kept {q : List Instr} (s : State) (c : ChpState) (hs : Kept q s) :
    Kept q (State.setChp s c) := by
  unfold State.setChp
  repeat' first
    | (with_reducible first | assumption | intro _ | exact kept_mk (by assumption))
    | (with_reducible extract_lets +onlyGivenNames x'; unfold x'; clear x')
    | (with_reducible first | apply kept_foldl | apply kept_fold1 | apply kept_fold2 | apply kept_ite | apply goes_next)
    | dsimp -zeta only
    | split

theorem advance_kept {q : List Instr} (s : State) (c : Nat) (v : Nat) (hs : Kept q s) :
    Kept q (State.advance s c v).1 := by
  unfold State.advance
  repeat' first
    | (with_reducible first | assumption | intro _ | exact kept_mk (by assumption))
    | (with_reducible extract_lets +onlyGivenNames x'; unfold x'; clear x')
    | (with_reducible first | apply wrN_kept | apply setChp_kept | apply kept_foldl | apply kept_fold1 | apply kept_fold2)
    | (with_reducible first | apply kept_ite | apply goes_next)
    | dsimp -zeta only
    | split

theorem chpEnd_kept {q : List Instr} (s : State) (w : Nat) (hs : Kept q s) :
    Kept q (State.chpEnd s w) := by
  unfold State.chpEnd
  repeat' first
    | (with_reducible first | assumption | intro _ | exact kept_mk (by assumption))
    | (with_reducible extract_lets +onlyGivenNames x'; unfold x'; clear x')
    | (with_reducible first | apply setFld_kept | apply setChp_kept | apply kept_foldl | apply kept_fold1 | apply kept_fold2)
    | (with_reducible first | apply kept_ite | apply goes_next)
    | dsimp -zeta only
    | split

theorem authFail_kept {q : List Instr} (s : State) (role : Nat) (hs : Kept q s) :
    Kept q (State.authFail s role) := by
  unfold State.authFail
  repeat' first
    | (with_reducible first | assumption | intro _ | exact kept_mk (by assumption))
    | (with_reducible extract_lets +onlyGivenNames x'; unfold x'; clear x')
    | (with_reducible first | apply setChp_kept | apply raise_kept | apply kept_foldl | apply kept_fold1 | apply kept_fold2)
    | (with_reducible first | apply kept_ite | apply goes_next)
    | dsimp -zeta only
    | split

theorem bufRead_kept {q : List Instr} (s : State) (g : Nat) (n : Nat) (hs : Kept q s) :
    Kept q (State.bufRead s g n).2 := by
  unfold State.bufRead
  repeat' first
    | (with_reducible first | assumption | intro _ | exact kept_mk (by assumption))
    | (with_reducible extract_lets +onlyGivenNames x'; unfold x'; clear x')
    | (with_reducible first | apply freeBytes_kept | apply kept_foldl | apply kept_fold1 | apply kept_fold2 | apply kept_ite)
    | (with_reducible first | apply goes_next)
    | dsimp -zeta only
    | split

theorem bufWrite_kept {q : List Instr} (s : State) (g : Nat) (bs : List Byte) (hs : Kept q s) :
    Kept q (State.bufWrite s g bs) := by
  unfold State.bufWrite
  repeat' first
    | (with_reducible first | assumption | intro _ | exact kept_mk (by assumption))
    | (with_reducible extract_lets +onlyGivenNames x'; unfold x'; clear x')
    | (with_reducible first | apply unpoison_kept | apply setBytes_kept | apply kept_foldl | apply kept_fold1 | apply kept_fold2)
    | (with_reducible first | apply kept_ite | apply goes_next)
    | dsimp -zeta only
    | split

theorem chpOpen_kept {q : List Instr} (s : State) (w : Nat) (hs : Kept q s) :
    Kept q (State.chpOpen s w) := by
  unfold State.chpOpen
  repeat' first
    | (with_reducible first | assumption | intro _ | exact kept_mk (by assumption))
    | (with_reducible extract_lets +onlyGivenNames x'; unfold x'; clear x')
    | (with_reducible first | apply setBit_kept | apply setChp_kept | apply kept_foldl | apply kept_fold1 | apply kept_fold2)
    | (with_reducible first | apply kept_ite | apply goes_next)
    | dsimp -zeta only
    | split

theorem lockedOut_kept {q : List Instr} (s : State) (role : Nat) (hs : Kept q s) :
    Kept q (State.lockedOut s role).1 := by
  unfold State.lockedOut
  repeat' first
    | (with_reducible first | assumption | intro _ | exact kept_mk (by assumption))
    | (with_reducible extract_lets +onlyGivenNames x'; unfold x'; clear x')
    | (with_reducible first | apply kept_foldl | apply kept_fold1 | apply kept_fold2 | apply kept_ite | apply goes_next)
    | dsimp -zeta only
    | split

theorem nspEnd_kept {q : List Instr} (s : State) (hs : Kept q s) :
    Kept q (State.nspEnd s) := by
  unfold State.nspEnd
  repeat' first
    | (with_reducible first | assumption | intro _ | exact kept_mk (by assumption))
    | (with_reducible extract_lets +onlyGivenNames x'; unfold x'; clear x')
    | (with_reducible first | apply raise_kept | apply setFld_kept | apply chpEnd_kept | apply kept_foldl | apply kept_fold1)
    | (with_reducible first | apply kept_fold2 | apply kept_ite | apply goes_next)
    | dsimp -zeta only
    | split

theorem svcSelfTest_kept {q : List Instr} (d : Desc) (s : State) (hs : Kept q s) :
    Kept q (svcSelfTest d s) := by
  unfold svcSelfTest
  repeat' first
    | (with_reducible first | assumption | intro _ | exact kept_mk (by assumption))
    | (with_reducible extract_lets +onlyGivenNames x'; unfold x'; clear x')
    | (with_reducible first | apply setChp_kept | apply kept_foldl | apply kept_fold1 | apply kept_fold2 | apply kept_ite)
    | (with_reducible first | apply goes_next)
    | dsimp -zeta only
    | split

theorem svcEnds_kept {q : List Instr} (f : Desc → State → State × Nat × List W32) (d : Desc) (s : State) (hf : ∀ a0 a1, Kept q a1 → Kept q (f a0 a1).1) (hs : Kept q s) :
    Kept q (svcEnds f d s) := by
  unfold svcEnds
  repeat' first
    | (with_reducible first | assumption | intro _ | exact kept_mk (by assumption))
    | (with_reducible extract_lets +onlyGivenNames x'; unfold x'; clear x')
    | (with_reducible first | apply slotEnd_kept | apply hf | apply kept_foldl | apply kept_fold1 | apply kept_fold2)
    | (with_reducible first | apply kept_ite | apply goes_next)
    | dsimp -zeta only
    | split

theorem svcReadCounter_kept {q : List Instr} (d : Desc) (s : State) (hs : Kept q s) :
    Kept q (svcReadCounter d s).1 := by
  unfold svcReadCounter
  repeat' first
    | (with_reducible first | assumption | intro _ | exact kept_mk (by assumption))
    | (with_reducible extract_lets +onlyGivenNames x'; unfold x'; clear x')
    | (with_reducible first | apply kept_foldl | apply kept_fold1 | apply kept_fold2 | apply kept_ite | apply goes_next)
    | dsimp -zeta only
    | split

theorem svcAdvance_kept {q : List Instr} (d : Desc) (s : State) (hs : Kept q s) :
    Kept q (svcAdvance d s).1 := by
  unfold svcAdvance
  repeat' first
    | (with_reducible first | assumption | intro _ | exact kept_mk (by assumption))
    | (with_reducible extract_lets +onlyGivenNames x'; unfold x'; clear x')
    | (with_reducible first | apply advance_kept | apply kept_foldl | apply kept_fold1 | apply kept_fold2 | apply kept_ite)
    | (with_reducible first | apply goes_next)
    | dsimp -zeta only
    | split

theorem svcChallenge_kept {q : List Instr} (d : Desc) (s : State) (hs : Kept q s) :
    Kept q (svcChallenge d s).1 := by
  unfold svcChallenge
  repeat' first
    | (with_reducible first | assumption | intro _ | exact kept_mk (by assumption))
    | (with_reducible extract_lets +onlyGivenNames x'; unfold x'; clear x')
    | (with_reducible first | apply lockedOut_kept | apply freeBytes_kept | apply setChp_kept | apply kept_foldl)
    | (with_reducible first | apply kept_fold1 | apply kept_fold2 | apply kept_ite | apply goes_next)
    | dsimp -zeta only
    | split

theorem svcRespond_kept {q : List Instr} (d : Desc) (s : State) (hs : Kept q s) :
    Kept q (svcRespond d s).1 := by
  unfold svcRespond
  repeat' first
    | (with_reducible first | assumption | intro _ | exact kept_mk (by assumption))
    | (with_reducible extract_lets +onlyGivenNames x'; unfold x'; clear x')
    | (with_reducible first | apply lockedOut_kept | apply bufRead_kept | apply setChp_kept | apply chpOpen_kept)
    | (with_reducible first | apply authFail_kept | apply kept_foldl | apply kept_fold1 | apply kept_fold2 | apply kept_ite)
    | (with_reducible first | apply goes_next)
    | dsimp -zeta only
    | split

theorem svcLogout_kept {q : List Instr} (d : Desc) (s : State) (hs : Kept q s) :
    Kept q (svcLogout d s).1 := by
  unfold svcLogout
  repeat' first
    | (with_reducible first | assumption | intro _ | exact kept_mk (by assumption))
    | (with_reducible extract_lets +onlyGivenNames x'; unfold x'; clear x')
    | (with_reducible first | apply chpEnd_kept | apply kept_foldl | apply kept_fold1 | apply kept_fold2 | apply kept_ite)
    | (with_reducible first | apply goes_next)
    | dsimp -zeta only
    | split

theorem setChpMode_kept {q : List Instr} (s : State) (m : Nat) (hs : Kept q s) :
    Kept q (State.setChpMode s m) := by
  unfold State.setChpMode
  repeat' first
    | (with_reducible first | assumption | intro _ | exact kept_mk (by assumption))
    | (with_reducible extract_lets +onlyGivenNames x'; unfold x'; clear x')
    | (with_reducible first | apply setFld_kept | apply kept_foldl | apply kept_fold1 | apply kept_fold2 | apply kept_ite)
    | (with_reducible first | apply goes_next)
    | dsimp -zeta only
    | split

theorem softError_kept {q : List Instr} (s : State) (hs : Kept q s) :
    Kept q (State.softError s) := by
  unfold State.softError
  repeat' first
    | (with_reducible first | assumption | intro _ | exact kept_mk (by assumption))
    | (with_reducible extract_lets +onlyGivenNames x'; unfold x'; clear x')
    | (with_reducible first | apply raise_kept | apply setChpMode_kept | apply kept_foldl | apply kept_fold1 | apply kept_fold2)
    | (with_reducible first | apply kept_ite | apply goes_next)
    | dsimp -zeta only
    | split

theorem setKey_kept {q : List Instr} (s : State) (k : Nat) (v : Option KeySlot) (hs : Kept q s) :
    Kept q (State.setKey s k v) := by
  unfold State.setKey
  repeat' first
    | (with_reducible first | assumption | intro _ | exact kept_mk (by assumption))
    | (with_reducible extract_lets +onlyGivenNames x'; unfold x'; clear x')
    | (with_reducible first | apply setChp_kept | apply kept_foldl | apply kept_fold1 | apply kept_fold2 | apply kept_ite)
    | (with_reducible first | apply goes_next)
    | dsimp -zeta only
    | split

theorem svcGenerate_kept {q : List Instr} (d : Desc) (s : State) (hs : Kept q s) :
    Kept q (svcGenerate d s).1 := by
  unfold svcGenerate
  repeat' first
    | (with_reducible first | assumption | intro _ | exact kept_mk (by assumption))
    | (with_reducible extract_lets +onlyGivenNames x'; unfold x'; clear x')
    | (with_reducible first | apply freeBytes_kept | apply softError_kept | apply setKey_kept | apply kept_foldl)
    | (with_reducible first | apply kept_fold1 | apply kept_fold2 | apply kept_ite | apply goes_next)
    | dsimp -zeta only
    | split

theorem svcImport_kept {q : List Instr} (d : Desc) (s : State) (hs : Kept q s) :
    Kept q (svcImport d s).1 := by
  unfold svcImport
  repeat' first
    | (with_reducible first | assumption | intro _ | exact kept_mk (by assumption))
    | (with_reducible extract_lets +onlyGivenNames x'; unfold x'; clear x')
    | (with_reducible first | apply bufRead_kept | apply setKey_kept | apply kept_foldl | apply kept_fold1 | apply kept_fold2)
    | (with_reducible first | apply kept_ite | apply goes_next)
    | dsimp -zeta only
    | split

theorem svcExport_kept {q : List Instr} (d : Desc) (s : State) (hs : Kept q s) :
    Kept q (svcExport d s).1 := by
  unfold svcExport
  repeat' first
    | (with_reducible first | assumption | intro _ | exact kept_mk (by assumption))
    | (with_reducible extract_lets +onlyGivenNames x'; unfold x'; clear x')
    | (with_reducible first | apply bufWrite_kept | apply kept_foldl | apply kept_fold1 | apply kept_fold2 | apply kept_ite)
    | (with_reducible first | apply goes_next)
    | dsimp -zeta only
    | split

theorem svcDelete_kept {q : List Instr} (d : Desc) (s : State) (hs : Kept q s) :
    Kept q (svcDelete d s).1 := by
  unfold svcDelete
  repeat' first
    | (with_reducible first | assumption | intro _ | exact kept_mk (by assumption))
    | (with_reducible extract_lets +onlyGivenNames x'; unfold x'; clear x')
    | (with_reducible first | apply setKey_kept | apply kept_foldl | apply kept_fold1 | apply kept_fold2 | apply kept_ite)
    | (with_reducible first | apply goes_next)
    | dsimp -zeta only
    | split

theorem svcKeyQuery_kept {q : List Instr} (d : Desc) (s : State) (hs : Kept q s) :
    Kept q (svcKeyQuery d s).1 := by
  unfold svcKeyQuery
  repeat' first
    | (with_reducible first | assumption | intro _ | exact kept_mk (by assumption))
    | (with_reducible extract_lets +onlyGivenNames x'; unfold x'; clear x')
    | (with_reducible first | apply kept_foldl | apply kept_fold1 | apply kept_fold2 | apply kept_ite | apply goes_next)
    | dsimp -zeta only
    | split

theorem cryptOp_kept {q : List Instr} (types : List Nat) (f : KeySlot → List Byte → List Byte → State → State × Nat × List Byte) (d : Desc) (s : State) (hf : ∀ a0 a1 a2 a3, Kept q a3 → Kept q (f a0 a1 a2 a3).1) (hs : Kept q s) :
    Kept q (cryptOp types f d s).1 := by
  unfold cryptOp
  repeat' first
    | (with_reducible first | assumption | intro _ | exact kept_mk (by assumption))
    | (with_reducible extract_lets +onlyGivenNames x'; unfold x'; clear x')
    | (with_reducible first | apply bufRead_kept | apply bufWrite_kept | apply hf | apply kept_foldl | apply kept_fold1)
    | (with_reducible first | apply kept_fold2 | apply kept_ite | apply goes_next)
    | dsimp -zeta only
    | split

theorem svcEncrypt_kept {q : List Instr} (d : Desc) (s : State) (hs : Kept q s) :
    Kept q (svcEncrypt d s).1 := by
  unfold svcEncrypt
  repeat' first
    | (with_reducible first | assumption | intro _ | exact kept_mk (by assumption))
    | (with_reducible extract_lets +onlyGivenNames x'; unfold x'; clear x')
    | (with_reducible first | apply cryptOp_kept | apply kept_foldl | apply kept_fold1 | apply kept_fold2 | apply kept_ite)
    | (with_reducible first | apply goes_next)
    | dsimp -zeta only
    | split

theorem svcDecrypt_kept {q : List Instr} (d : Desc) (s : State) (hs : Kept q s) :
    Kept q (svcDecrypt d s).1 := by
  unfold svcDecrypt
  repeat' first
    | (with_reducible first | assumption | intro _ | exact kept_mk (by assumption))
    | (with_reducible extract_lets +onlyGivenNames x'; unfold x'; clear x')
    | (with_reducible first | apply cryptOp_kept | apply kept_foldl | apply kept_fold1 | apply kept_fold2 | apply kept_ite)
    | (with_reducible first | apply goes_next)
    | dsimp -zeta only
    | split

theorem svcHash_kept {q : List Instr} (d : Desc) (s : State) (hs : Kept q s) :
    Kept q (svcHash d s).1 := by
  unfold svcHash
  repeat' first
    | (with_reducible first | assumption | intro _ | exact kept_mk (by assumption))
    | (with_reducible extract_lets +onlyGivenNames x'; unfold x'; clear x')
    | (with_reducible first | apply cryptOp_kept | apply kept_foldl | apply kept_fold1 | apply kept_fold2 | apply kept_ite)
    | (with_reducible first | apply goes_next)
    | dsimp -zeta only
    | split

theorem svcHmac_kept {q : List Instr} (d : Desc) (s : State) (hs : Kept q s) :
    Kept q (svcHmac d s).1 := by
  unfold svcHmac
  repeat' first
    | (with_reducible first | assumption | intro _ | exact kept_mk (by assumption))
    | (with_reducible extract_lets +onlyGivenNames x'; unfold x'; clear x')
    | (with_reducible first | apply cryptOp_kept | apply kept_foldl | apply kept_fold1 | apply kept_fold2 | apply kept_ite)
    | (with_reducible first | apply goes_next)
    | dsimp -zeta only
    | split

theorem svcSign_kept {q : List Instr} (d : Desc) (s : State) (hs : Kept q s) :
    Kept q (svcSign d s).1 := by
  unfold svcSign
  repeat' first
    | (with_reducible first | assumption | intro _ | exact kept_mk (by assumption))
    | (with_reducible extract_lets +onlyGivenNames x'; unfold x'; clear x')
    | (with_reducible first | apply cryptOp_kept | apply kept_foldl | apply kept_fold1 | apply kept_fold2 | apply kept_ite)
    | (with_reducible first | apply goes_next)
    | dsimp -zeta only
    | split

theorem svcVerify_kept {q : List Instr} (d : Desc) (s : State) (hs : Kept q s) :
    Kept q (svcVerify d s).1 := by
  unfold svcVerify
  repeat' first
    | (with_reducible first | assumption | intro _ | exact kept_mk (by assumption))
    | (with_reducible extract_lets +onlyGivenNames x'; unfold x'; clear x')
    | (with_reducible first | apply cryptOp_kept | apply kept_foldl | apply kept_fold1 | apply kept_fold2 | apply kept_ite)
    | (with_reducible first | apply goes_next)
    | dsimp -zeta only
    | split

theorem svcRandom_kept {q : List Instr} (d : Desc) (s : State) (hs : Kept q s) :
    Kept q (svcRandom d s).1 := by
  unfold svcRandom
  repeat' first
    | (with_reducible first | assumption | intro _ | exact kept_mk (by assumption))
    | (with_reducible extract_lets +onlyGivenNames x'; unfold x'; clear x')
    | (with_reducible first | apply freeBytes_kept | apply bufWrite_kept | apply kept_foldl | apply kept_fold1)
    | (with_reducible first | apply kept_fold2 | apply kept_ite | apply goes_next)
    | dsimp -zeta only
    | split

theorem svcKdf_kept {q : List Instr} (d : Desc) (s : State) (hs : Kept q s) :
    Kept q (svcKdf d s).1 := by
  unfold svcKdf
  repeat' first
    | (with_reducible first | assumption | intro _ | exact kept_mk (by assumption))
    | (with_reducible extract_lets +onlyGivenNames x'; unfold x'; clear x')
    | (with_reducible first | apply cryptOp_kept | apply setKey_kept | apply kept_foldl | apply kept_fold1 | apply kept_fold2)
    | (with_reducible first | apply kept_ite | apply goes_next)
    | dsimp -zeta only
    | split

theorem svcEcdh_kept {q : List Instr} (d : Desc) (s : State) (hs : Kept q s) :
    Kept q (svcEcdh d s).1 := by
  unfold svcEcdh
  repeat' first
    | (with_reducible first | assumption | intro _ | exact kept_mk (by assumption))
    | (with_reducible extract_lets +onlyGivenNames x'; unfold x'; clear x')
    | (with_reducible first | apply cryptOp_kept | apply setKey_kept | apply kept_foldl | apply kept_fold1 | apply kept_fold2)
    | (with_reducible first | apply kept_ite | apply goes_next)
    | dsimp -zeta only
    | split

theorem svcReport_kept {q : List Instr} (d : Desc) (s : State) (hs : Kept q s) :
    Kept q (svcReport d s).1 := by
  unfold svcReport
  repeat' first
    | (with_reducible first | assumption | intro _ | exact kept_mk (by assumption))
    | (with_reducible extract_lets +onlyGivenNames x'; unfold x'; clear x')
    | (with_reducible first | apply bufRead_kept | apply bufWrite_kept | apply kept_foldl | apply kept_fold1 | apply kept_fold2)
    | (with_reducible first | apply kept_ite | apply goes_next)
    | dsimp -zeta only
    | split

theorem svcChain_kept {q : List Instr} (d : Desc) (s : State) (hs : Kept q s) :
    Kept q (svcChain d s).1 := by
  unfold svcChain
  repeat' first
    | (with_reducible first | assumption | intro _ | exact kept_mk (by assumption))
    | (with_reducible extract_lets +onlyGivenNames x'; unfold x'; clear x')
    | (with_reducible first | apply bufWrite_kept | apply kept_foldl | apply kept_fold1 | apply kept_fold2 | apply kept_ite)
    | (with_reducible first | apply goes_next)
    | dsimp -zeta only
    | split

theorem zeroise_kept {q : List Instr} (s : State) (cause : Nat) (hs : Kept q s) :
    Kept q (State.zeroise s cause) := by
  unfold State.zeroise
  repeat' first
    | (with_reducible first | assumption | intro _ | exact kept_mk (by assumption))
    | (with_reducible extract_lets +onlyGivenNames x'; unfold x'; clear x')
    | (with_reducible first | apply setBit_kept | apply nspEnd_kept | apply setChpMode_kept | apply chpEnd_kept)
    | (with_reducible first | apply slotEnd_kept | apply raise_kept | apply setChp_kept | apply forceDown_kept)
    | (with_reducible first | apply kept_foldl | apply kept_fold1 | apply kept_fold2 | apply kept_ite | apply kept_elim)
    | (with_reducible first | apply goes_next)
    | dsimp -zeta only
    | split

theorem svcZeroise_kept {q : List Instr} (d : Desc) (s : State) (hs : Kept q s) :
    Kept q (svcZeroise d s) := by
  unfold svcZeroise
  repeat' first
    | (with_reducible first | assumption | intro _ | exact kept_mk (by assumption))
    | (with_reducible extract_lets +onlyGivenNames x'; unfold x'; clear x')
    | (with_reducible first | apply zeroise_kept | apply slotEnd_kept | apply kept_foldl | apply kept_fold1 | apply kept_fold2)
    | (with_reducible first | apply kept_ite | apply goes_next)
    | dsimp -zeta only
    | split

theorem chpServe_kept {q : List Instr} (k : ChpSvc) (d : Desc) (s : State) (hs : Kept q s) :
    Kept q (chpServe k d s) := by
  unfold chpServe
  repeat' first
    | (with_reducible first | assumption | intro _ | exact kept_mk (by assumption))
    | (with_reducible extract_lets +onlyGivenNames x'; unfold x'; clear x')
    | (with_reducible first | apply svcSelfTest_kept | apply svcEnds_kept | apply svcReadCounter_kept | apply svcAdvance_kept)
    | (with_reducible first | apply svcChallenge_kept | apply svcRespond_kept | apply svcLogout_kept | apply svcGenerate_kept)
    | (with_reducible first | apply svcImport_kept | apply svcExport_kept | apply svcDelete_kept | apply svcKeyQuery_kept)
    | (with_reducible first | apply svcEncrypt_kept | apply svcDecrypt_kept | apply svcHash_kept | apply svcHmac_kept)
    | (with_reducible first | apply svcSign_kept | apply svcVerify_kept | apply svcRandom_kept | apply svcKdf_kept)
    | (with_reducible first | apply svcEcdh_kept | apply svcReport_kept | apply svcChain_kept | apply svcZeroise_kept)
    | (with_reducible first | apply kept_foldl | apply kept_fold1 | apply kept_fold2 | apply kept_ite | apply goes_next)
    | dsimp -zeta only
    | split

theorem serve_kept {q : List Instr} (s : State) (k : ChpSvc) (d : Desc) (hs : Kept q s) :
    Kept q (State.serve s k d) := by
  unfold State.serve
  repeat' first
    | (with_reducible first | assumption | intro _ | exact kept_mk (by assumption))
    | (with_reducible extract_lets +onlyGivenNames x'; unfold x'; clear x')
    | (with_reducible first | apply setChp_kept | apply chpServe_kept | apply kept_foldl | apply kept_fold1 | apply kept_fold2)
    | (with_reducible first | apply kept_ite | apply goes_next)
    | dsimp -zeta only
    | split

theorem testOutcome_kept {q : List Instr} (s : State) (pass : Bool) (asked : Bool) (hs : Kept q s) :
    Kept q (State.testOutcome s pass asked) := by
  unfold State.testOutcome
  repeat' first
    | (with_reducible first | assumption | intro _ | exact kept_mk (by assumption))
    | (with_reducible extract_lets +onlyGivenNames x'; unfold x'; clear x')
    | (with_reducible first | apply setChp_kept | apply raise_kept | apply setChpMode_kept | apply softError_kept)
    | (with_reducible first | apply kept_foldl | apply kept_fold1 | apply kept_fold2 | apply kept_ite | apply goes_next)
    | dsimp -zeta only
    | split

theorem chpRow_kept {q : List Instr} (k : ChpSvc) (op : Nat) (mine : Bool) (chk : State → Nat × Nat) (d : Desc) (s : State) (hs : Kept q s) :
    Goes q (chpRow k op mine chk d s) := by
  unfold chpRow
  repeat' first
    | (with_reducible first | assumption | intro _ | exact kept_mk (by assumption))
    | (with_reducible extract_lets +onlyGivenNames x'; unfold x'; clear x')
    | (with_reducible first | apply command_kept | apply serve_kept | apply kept_foldl | apply kept_fold1 | apply kept_fold2)
    | (with_reducible first | apply kept_ite | apply goes_next)
    | dsimp -zeta only
    | split

theorem execChpStateQuery_kept {q : List Instr} (d : Desc) (s : State) (hs : Kept q s) :
    Goes q (execChpStateQuery d s) := by
  unfold execChpStateQuery
  repeat' first
    | (with_reducible first | assumption | intro _ | exact kept_mk (by assumption))
    | (with_reducible extract_lets +onlyGivenNames x'; unfold x'; clear x')
    | (with_reducible first | apply commandNow_kept | apply kept_foldl | apply kept_fold1 | apply kept_fold2 | apply kept_ite)
    | (with_reducible first | apply goes_next)
    | dsimp -zeta only
    | split

theorem execChpStateSelfTest_kept {q : List Instr} (d : Desc) (s : State) (hs : Kept q s) :
    Goes q (execChpStateSelfTest d s) := by
  unfold execChpStateSelfTest
  repeat' first
    | (with_reducible first | assumption | intro _ | exact kept_mk (by assumption))
    | (with_reducible extract_lets +onlyGivenNames x'; unfold x'; clear x')
    | (with_reducible first | apply chpRow_kept | apply kept_foldl | apply kept_fold1 | apply kept_fold2 | apply kept_ite)
    | (with_reducible first | apply goes_next)
    | dsimp -zeta only
    | split

theorem execChpStateReadCounter_kept {q : List Instr} (d : Desc) (s : State) (hs : Kept q s) :
    Goes q (execChpStateReadCounter d s) := by
  unfold execChpStateReadCounter
  repeat' first
    | (with_reducible first | assumption | intro _ | exact kept_mk (by assumption))
    | (with_reducible extract_lets +onlyGivenNames x'; unfold x'; clear x')
    | (with_reducible first | apply chpRow_kept | apply kept_foldl | apply kept_fold1 | apply kept_fold2 | apply kept_ite)
    | (with_reducible first | apply goes_next)
    | dsimp -zeta only
    | split

theorem execChpStateAdvanceCounter_kept {q : List Instr} (d : Desc) (s : State) (hs : Kept q s) :
    Goes q (execChpStateAdvanceCounter d s) := by
  unfold execChpStateAdvanceCounter
  repeat' first
    | (with_reducible first | assumption | intro _ | exact kept_mk (by assumption))
    | (with_reducible extract_lets +onlyGivenNames x'; unfold x'; clear x')
    | (with_reducible first | apply chpRow_kept | apply kept_foldl | apply kept_fold1 | apply kept_fold2 | apply kept_ite)
    | (with_reducible first | apply goes_next)
    | dsimp -zeta only
    | split

theorem execChpAuthChallenge_kept {q : List Instr} (d : Desc) (s : State) (hs : Kept q s) :
    Goes q (execChpAuthChallenge d s) := by
  unfold execChpAuthChallenge
  repeat' first
    | (with_reducible first | assumption | intro _ | exact kept_mk (by assumption))
    | (with_reducible extract_lets +onlyGivenNames x'; unfold x'; clear x')
    | (with_reducible first | apply chpRow_kept | apply kept_foldl | apply kept_fold1 | apply kept_fold2 | apply kept_ite)
    | (with_reducible first | apply goes_next)
    | dsimp -zeta only
    | split

theorem execChpAuthRespond_kept {q : List Instr} (d : Desc) (s : State) (hs : Kept q s) :
    Goes q (execChpAuthRespond d s) := by
  unfold execChpAuthRespond
  repeat' first
    | (with_reducible first | assumption | intro _ | exact kept_mk (by assumption))
    | (with_reducible extract_lets +onlyGivenNames x'; unfold x'; clear x')
    | (with_reducible first | apply chpRow_kept | apply kept_foldl | apply kept_fold1 | apply kept_fold2 | apply kept_ite)
    | (with_reducible first | apply goes_next)
    | dsimp -zeta only
    | split

theorem execChpAuthLogout_kept {q : List Instr} (d : Desc) (s : State) (hs : Kept q s) :
    Goes q (execChpAuthLogout d s) := by
  unfold execChpAuthLogout
  repeat' first
    | (with_reducible first | assumption | intro _ | exact kept_mk (by assumption))
    | (with_reducible extract_lets +onlyGivenNames x'; unfold x'; clear x')
    | (with_reducible first | apply chpRow_kept | apply kept_foldl | apply kept_fold1 | apply kept_fold2 | apply kept_ite)
    | (with_reducible first | apply goes_next)
    | dsimp -zeta only
    | split

theorem execAuthLockoutExpiry_kept {q : List Instr} (role : Fin 17) (s : State) (hs : Kept q s) :
    Goes q (execAuthLockoutExpiry role s) := by
  unfold execAuthLockoutExpiry
  repeat' first
    | (with_reducible first | assumption | intro _ | exact kept_mk (by assumption))
    | (with_reducible extract_lets +onlyGivenNames x'; unfold x'; clear x')
    | (with_reducible first | apply setChp_kept | apply kept_foldl | apply kept_fold1 | apply kept_fold2 | apply kept_ite)
    | (with_reducible first | apply goes_next)
    | dsimp -zeta only
    | split

theorem execChpKeyGenerate_kept {q : List Instr} (d : Desc) (s : State) (hs : Kept q s) :
    Goes q (execChpKeyGenerate d s) := by
  unfold execChpKeyGenerate
  repeat' first
    | (with_reducible first | assumption | intro _ | exact kept_mk (by assumption))
    | (with_reducible extract_lets +onlyGivenNames x'; unfold x'; clear x')
    | (with_reducible first | apply chpRow_kept | apply kept_foldl | apply kept_fold1 | apply kept_fold2 | apply kept_ite)
    | (with_reducible first | apply goes_next)
    | dsimp -zeta only
    | split

theorem execChpKeyImport_kept {q : List Instr} (d : Desc) (s : State) (hs : Kept q s) :
    Goes q (execChpKeyImport d s) := by
  unfold execChpKeyImport
  repeat' first
    | (with_reducible first | assumption | intro _ | exact kept_mk (by assumption))
    | (with_reducible extract_lets +onlyGivenNames x'; unfold x'; clear x')
    | (with_reducible first | apply chpRow_kept | apply kept_foldl | apply kept_fold1 | apply kept_fold2 | apply kept_ite)
    | (with_reducible first | apply goes_next)
    | dsimp -zeta only
    | split

theorem execChpKeyExport_kept {q : List Instr} (d : Desc) (s : State) (hs : Kept q s) :
    Goes q (execChpKeyExport d s) := by
  unfold execChpKeyExport
  repeat' first
    | (with_reducible first | assumption | intro _ | exact kept_mk (by assumption))
    | (with_reducible extract_lets +onlyGivenNames x'; unfold x'; clear x')
    | (with_reducible first | apply chpRow_kept | apply kept_foldl | apply kept_fold1 | apply kept_fold2 | apply kept_ite)
    | (with_reducible first | apply goes_next)
    | dsimp -zeta only
    | split

theorem execChpKeyDelete_kept {q : List Instr} (d : Desc) (s : State) (hs : Kept q s) :
    Goes q (execChpKeyDelete d s) := by
  unfold execChpKeyDelete
  repeat' first
    | (with_reducible first | assumption | intro _ | exact kept_mk (by assumption))
    | (with_reducible extract_lets +onlyGivenNames x'; unfold x'; clear x')
    | (with_reducible first | apply chpRow_kept | apply kept_foldl | apply kept_fold1 | apply kept_fold2 | apply kept_ite)
    | (with_reducible first | apply goes_next)
    | dsimp -zeta only
    | split

theorem execChpKeyQuery_kept {q : List Instr} (d : Desc) (s : State) (hs : Kept q s) :
    Goes q (execChpKeyQuery d s) := by
  unfold execChpKeyQuery
  repeat' first
    | (with_reducible first | assumption | intro _ | exact kept_mk (by assumption))
    | (with_reducible extract_lets +onlyGivenNames x'; unfold x'; clear x')
    | (with_reducible first | apply chpRow_kept | apply kept_foldl | apply kept_fold1 | apply kept_fold2 | apply kept_ite)
    | (with_reducible first | apply goes_next)
    | dsimp -zeta only
    | split

theorem execChpCryptGcmEncrypt_kept {q : List Instr} (d : Desc) (s : State) (hs : Kept q s) :
    Goes q (execChpCryptGcmEncrypt d s) := by
  unfold execChpCryptGcmEncrypt
  repeat' first
    | (with_reducible first | assumption | intro _ | exact kept_mk (by assumption))
    | (with_reducible extract_lets +onlyGivenNames x'; unfold x'; clear x')
    | (with_reducible first | apply chpRow_kept | apply kept_foldl | apply kept_fold1 | apply kept_fold2 | apply kept_ite)
    | (with_reducible first | apply goes_next)
    | dsimp -zeta only
    | split

theorem execChpCryptGcmDecrypt_kept {q : List Instr} (d : Desc) (s : State) (hs : Kept q s) :
    Goes q (execChpCryptGcmDecrypt d s) := by
  unfold execChpCryptGcmDecrypt
  repeat' first
    | (with_reducible first | assumption | intro _ | exact kept_mk (by assumption))
    | (with_reducible extract_lets +onlyGivenNames x'; unfold x'; clear x')
    | (with_reducible first | apply chpRow_kept | apply kept_foldl | apply kept_fold1 | apply kept_fold2 | apply kept_ite)
    | (with_reducible first | apply goes_next)
    | dsimp -zeta only
    | split

theorem execChpCryptHash_kept {q : List Instr} (d : Desc) (s : State) (hs : Kept q s) :
    Goes q (execChpCryptHash d s) := by
  unfold execChpCryptHash
  repeat' first
    | (with_reducible first | assumption | intro _ | exact kept_mk (by assumption))
    | (with_reducible extract_lets +onlyGivenNames x'; unfold x'; clear x')
    | (with_reducible first | apply chpRow_kept | apply kept_foldl | apply kept_fold1 | apply kept_fold2 | apply kept_ite)
    | (with_reducible first | apply goes_next)
    | dsimp -zeta only
    | split

theorem execChpCryptHmac_kept {q : List Instr} (d : Desc) (s : State) (hs : Kept q s) :
    Goes q (execChpCryptHmac d s) := by
  unfold execChpCryptHmac
  repeat' first
    | (with_reducible first | assumption | intro _ | exact kept_mk (by assumption))
    | (with_reducible extract_lets +onlyGivenNames x'; unfold x'; clear x')
    | (with_reducible first | apply chpRow_kept | apply kept_foldl | apply kept_fold1 | apply kept_fold2 | apply kept_ite)
    | (with_reducible first | apply goes_next)
    | dsimp -zeta only
    | split

theorem execChpCryptSign_kept {q : List Instr} (d : Desc) (s : State) (hs : Kept q s) :
    Goes q (execChpCryptSign d s) := by
  unfold execChpCryptSign
  repeat' first
    | (with_reducible first | assumption | intro _ | exact kept_mk (by assumption))
    | (with_reducible extract_lets +onlyGivenNames x'; unfold x'; clear x')
    | (with_reducible first | apply chpRow_kept | apply kept_foldl | apply kept_fold1 | apply kept_fold2 | apply kept_ite)
    | (with_reducible first | apply goes_next)
    | dsimp -zeta only
    | split

theorem execChpCryptVerify_kept {q : List Instr} (d : Desc) (s : State) (hs : Kept q s) :
    Goes q (execChpCryptVerify d s) := by
  unfold execChpCryptVerify
  repeat' first
    | (with_reducible first | assumption | intro _ | exact kept_mk (by assumption))
    | (with_reducible extract_lets +onlyGivenNames x'; unfold x'; clear x')
    | (with_reducible first | apply chpRow_kept | apply kept_foldl | apply kept_fold1 | apply kept_fold2 | apply kept_ite)
    | (with_reducible first | apply goes_next)
    | dsimp -zeta only
    | split

theorem execChpCryptRandom_kept {q : List Instr} (d : Desc) (s : State) (hs : Kept q s) :
    Goes q (execChpCryptRandom d s) := by
  unfold execChpCryptRandom
  repeat' first
    | (with_reducible first | assumption | intro _ | exact kept_mk (by assumption))
    | (with_reducible extract_lets +onlyGivenNames x'; unfold x'; clear x')
    | (with_reducible first | apply chpRow_kept | apply kept_foldl | apply kept_fold1 | apply kept_fold2 | apply kept_ite)
    | (with_reducible first | apply goes_next)
    | dsimp -zeta only
    | split

theorem execChpCryptKdf_kept {q : List Instr} (d : Desc) (s : State) (hs : Kept q s) :
    Goes q (execChpCryptKdf d s) := by
  unfold execChpCryptKdf
  repeat' first
    | (with_reducible first | assumption | intro _ | exact kept_mk (by assumption))
    | (with_reducible extract_lets +onlyGivenNames x'; unfold x'; clear x')
    | (with_reducible first | apply chpRow_kept | apply kept_foldl | apply kept_fold1 | apply kept_fold2 | apply kept_ite)
    | (with_reducible first | apply goes_next)
    | dsimp -zeta only
    | split

theorem execChpCryptEcdh_kept {q : List Instr} (d : Desc) (s : State) (hs : Kept q s) :
    Goes q (execChpCryptEcdh d s) := by
  unfold execChpCryptEcdh
  repeat' first
    | (with_reducible first | assumption | intro _ | exact kept_mk (by assumption))
    | (with_reducible extract_lets +onlyGivenNames x'; unfold x'; clear x')
    | (with_reducible first | apply chpRow_kept | apply kept_foldl | apply kept_fold1 | apply kept_fold2 | apply kept_ite)
    | (with_reducible first | apply goes_next)
    | dsimp -zeta only
    | split

theorem execChpAttestReport_kept {q : List Instr} (d : Desc) (s : State) (hs : Kept q s) :
    Goes q (execChpAttestReport d s) := by
  unfold execChpAttestReport
  repeat' first
    | (with_reducible first | assumption | intro _ | exact kept_mk (by assumption))
    | (with_reducible extract_lets +onlyGivenNames x'; unfold x'; clear x')
    | (with_reducible first | apply chpRow_kept | apply kept_foldl | apply kept_fold1 | apply kept_fold2 | apply kept_ite)
    | (with_reducible first | apply goes_next)
    | dsimp -zeta only
    | split

theorem execChpAttestChain_kept {q : List Instr} (d : Desc) (s : State) (hs : Kept q s) :
    Goes q (execChpAttestChain d s) := by
  unfold execChpAttestChain
  repeat' first
    | (with_reducible first | assumption | intro _ | exact kept_mk (by assumption))
    | (with_reducible extract_lets +onlyGivenNames x'; unfold x'; clear x')
    | (with_reducible first | apply chpRow_kept | apply kept_foldl | apply kept_fold1 | apply kept_fold2 | apply kept_ite)
    | (with_reducible first | apply goes_next)
    | dsimp -zeta only
    | split

theorem execChpZeroise_kept {q : List Instr} (d : Desc) (s : State) (hs : Kept q s) :
    Goes q (execChpZeroise d s) := by
  unfold execChpZeroise
  repeat' first
    | (with_reducible first | assumption | intro _ | exact kept_mk (by assumption))
    | (with_reducible extract_lets +onlyGivenNames x'; unfold x'; clear x')
    | (with_reducible first | apply chpRow_kept | apply kept_foldl | apply kept_fold1 | apply kept_fold2 | apply kept_ite)
    | (with_reducible first | apply goes_next)
    | dsimp -zeta only
    | split

theorem execTamperDetect_kept {q : List Instr} (cause : Tamper) (s : State) (hs : Kept q s) :
    Goes q (execTamperDetect cause s) := by
  unfold execTamperDetect
  repeat' first
    | (with_reducible first | assumption | intro _ | exact kept_mk (by assumption))
    | (with_reducible extract_lets +onlyGivenNames x'; unfold x'; clear x')
    | (with_reducible first | apply zeroise_kept | apply kept_foldl | apply kept_fold1 | apply kept_fold2 | apply kept_ite)
    | (with_reducible first | apply goes_next)
    | dsimp -zeta only
    | split

theorem execZeroisationComplete_kept {q : List Instr} (s : State) (hs : Kept q s) :
    Goes q (execZeroisationComplete s) := by
  unfold execZeroisationComplete
  repeat' first
    | (with_reducible first | assumption | intro _ | exact kept_mk (by assumption))
    | (with_reducible extract_lets +onlyGivenNames x'; unfold x'; clear x')
    | (with_reducible first | apply setChp_kept | apply raise_kept | apply setChpMode_kept | apply setFld_kept)
    | (with_reducible first | apply kept_foldl | apply kept_fold1 | apply kept_fold2 | apply kept_ite | apply goes_next)
    | dsimp -zeta only
    | split

theorem execSelfTestPeriodic_kept {q : List Instr} (s : State) (hs : Kept q s) :
    Goes q (execSelfTestPeriodic s) := by
  unfold execSelfTestPeriodic
  repeat' first
    | (with_reducible first | assumption | intro _ | exact kept_mk (by assumption))
    | (with_reducible extract_lets +onlyGivenNames x'; unfold x'; clear x')
    | (with_reducible first | apply setChp_kept | apply kept_foldl | apply kept_fold1 | apply kept_fold2 | apply kept_ite)
    | (with_reducible first | apply goes_next)
    | dsimp -zeta only
    | split

theorem serveWaiting_kept {q : List Instr} (x0 : List (ChpSvc × Desc)) (x1 : State) (hx1 : Kept q x1) :
    Kept q (serveWaiting x0 x1) := by
  induction x0 generalizing x1 with
  | nil => exact hx1
  | cons x r ih =>
    unfold serveWaiting
    refine ih _ ?_
    split
    · exact setChp_kept _ _ hx1
    · split
      · exact chpServe_kept _ _ _ hx1
      · exact slotEnd_kept _ _ _ _ hx1

theorem execSelfTestComplete_kept {q : List Instr} (failed : BitVec 8) (s : State) (hs : Kept q s) :
    Goes q (execSelfTestComplete failed s) := by
  unfold execSelfTestComplete
  repeat' first
    | (with_reducible first | assumption | intro _ | exact kept_mk (by assumption))
    | (with_reducible extract_lets +onlyGivenNames x'; unfold x'; clear x')
    | (with_reducible first | apply setFld_kept | apply testOutcome_kept | apply slotEnd_kept | apply serveWaiting_kept)
    | (with_reducible first | apply setChp_kept | apply kept_foldl | apply kept_fold1 | apply kept_fold2 | apply kept_ite)
    | (with_reducible first | apply kept_elim | apply goes_next)
    | dsimp -zeta only
    | split

theorem execTrngSampleFailure_kept {q : List Instr} (s : State) (hs : Kept q s) :
    Goes q (execTrngSampleFailure s) := by
  unfold execTrngSampleFailure
  repeat' first
    | (with_reducible first | assumption | intro _ | exact kept_mk (by assumption))
    | (with_reducible extract_lets +onlyGivenNames x'; unfold x'; clear x')
    | (with_reducible first | apply softError_kept | apply kept_foldl | apply kept_fold1 | apply kept_fold2 | apply kept_ite)
    | (with_reducible first | apply goes_next)
    | dsimp -zeta only
    | split

end Sys2Proof.Machine
end

