-- ==== Sys2Proof/Laws/KeptVlmCheck.lean ====
section
/-! SUPPORT. What the operations of VlmCheck keep. -/

namespace Sys2Proof.Machine
open Sys2Proof

set_option linter.all false

theorem withLive_kept {q : List Instr} (s : State) (rs : List VRec) (hs : Kept q s) :
    Kept q (State.withLive s rs) := by
  unfold State.withLive
  repeat' first
    | (with_reducible first | assumption | intro _ | exact kept_mk (by assumption))
    | (with_reducible extract_lets +onlyGivenNames x'; unfold x'; clear x')
    | (with_reducible first | apply kept_foldl | apply kept_fold1 | apply kept_fold2 | apply kept_ite | apply goes_next)
    | dsimp -zeta only
    | split

end Sys2Proof.Machine
end

