-- ==== Sys2Proof/Laws/KeptRealmOps.lean ====
section
/-! SUPPORT. What the operations of RealmOps keep. -/

namespace Sys2Proof.Machine
open Sys2Proof

set_option linter.all false

theorem realmTo_kept {q : List Instr} (s : State) (r : Nat) (st : Nat) (hs : Kept q s) :
    Kept q (State.realmTo s r st) := by
  unfold State.realmTo
  repeat' first
    | (with_reducible first | assumption | intro _ | exact kept_mk (by assumption))
    | (with_reducible extract_lets +onlyGivenNames x'; unfold x'; clear x')
    | (with_reducible first | apply raise_kept | apply setFld_kept | apply kept_foldl | apply kept_fold1 | apply kept_fold2)
    | (with_reducible first | apply kept_ite | apply goes_next)
    | dsimp -zeta only
    | split

theorem folioAbort_kept {q : List Instr} (s : State) (f : Folio) (cause : Nat) (hs : Kept q s) :
    Kept q (State.folioAbort s f cause) := by
  unfold State.folioAbort
  repeat' first
    | (with_reducible first | assumption | intro _ | exact kept_mk (by assumption))
    | (with_reducible extract_lets +onlyGivenNames x'; unfold x'; clear x')
    | (with_reducible first | apply setOrd_kept | apply folioDone_kept | apply slotEnd_kept | apply kept_foldl)
    | (with_reducible first | apply kept_fold1 | apply kept_fold2 | apply kept_ite | apply goes_next)
    | dsimp -zeta only
    | split

theorem ducRealmJobs_kept {q : List Instr} (s : State) (q0 : Nat) (r : Nat) (hs : Kept q s) :
    Kept q (State.ducRealmJobs s q0 r) := by
  unfold State.ducRealmJobs
  repeat' first
    | (with_reducible first | assumption | intro _ | exact kept_mk (by assumption))
    | (with_reducible extract_lets +onlyGivenNames x'; unfold x'; clear x')
    | (with_reducible first | apply setDuc_kept | apply slotEnd_kept | apply kept_foldl | apply kept_fold1 | apply kept_fold2)
    | (with_reducible first | apply kept_ite | apply kept_elim | apply goes_next)
    | dsimp -zeta only
    | split

theorem ducRealmReset_kept {q : List Instr} (s : State) (q0 : Nat) (r : Nat) (hs : Kept q s) :
    Kept q (State.ducRealmReset s q0 r) := by
  unfold State.ducRealmReset
  repeat' first
    | (with_reducible first | assumption | intro _ | exact kept_mk (by assumption))
    | (with_reducible extract_lets +onlyGivenNames x'; unfold x'; clear x')
    | (with_reducible first | apply ducRealmJobs_kept | apply freeThread_kept | apply slotEnd_kept | apply jrnlSem_kept)
    | (with_reducible first | apply wr_kept | apply jrnlFlag_kept | apply setDuc_kept | apply kept_foldl | apply kept_fold1)
    | (with_reducible first | apply kept_fold2 | apply kept_ite | apply goes_next)
    | dsimp -zeta only
    | split

theorem raRealmReset_kept {q : List Instr} (s : State) (r : Nat) (hs : Kept q s) :
    Kept q (State.raRealmReset s r) := by
  unfold State.raRealmReset
  repeat' first
    | (with_reducible first | assumption | intro _ | exact kept_mk (by assumption))
    | (with_reducible extract_lets +onlyGivenNames x'; unfold x'; clear x')
    | (with_reducible first | apply setCtx_kept | apply csrClear_kept | apply kept_foldl | apply kept_fold1 | apply kept_fold2)
    | (with_reducible first | apply kept_ite | apply goes_next)
    | dsimp -zeta only
    | split

theorem poolRealmReset_kept {q : List Instr} (s : State) (r : Nat) (hs : Kept q s) :
    Kept q (State.poolRealmReset s r) := by
  unfold State.poolRealmReset
  repeat' first
    | (with_reducible first | assumption | intro _ | exact kept_mk (by assumption))
    | (with_reducible extract_lets +onlyGivenNames x'; unfold x'; clear x')
    | (with_reducible first | apply wr_kept | apply abandon_kept | apply setFld_kept | apply kept_foldl | apply kept_fold1)
    | (with_reducible first | apply kept_fold2 | apply kept_ite | apply goes_next)
    | dsimp -zeta only
    | split

theorem quireScribeReset_kept {q : List Instr} (s : State) (r : Nat) (hs : Kept q s) :
    Kept q (State.quireScribeReset s r) := by
  unfold State.quireScribeReset
  repeat' first
    | (with_reducible first | assumption | intro _ | exact kept_mk (by assumption))
    | (with_reducible extract_lets +onlyGivenNames x'; unfold x'; clear x')
    | (with_reducible first | apply abandon_kept | apply setFld_kept | apply kept_foldl | apply kept_fold1 | apply kept_fold2)
    | (with_reducible first | apply kept_ite | apply goes_next)
    | dsimp -zeta only
    | split

theorem routeRealmReset_kept {q : List Instr} (s : State) (r : Nat) (hs : Kept q s) :
    Kept q (State.routeRealmReset s r) := by
  unfold State.routeRealmReset
  repeat' first
    | (with_reducible first | assumption | intro _ | exact kept_mk (by assumption))
    | (with_reducible extract_lets +onlyGivenNames x'; unfold x'; clear x')
    | (with_reducible first | apply wr_kept | apply kept_foldl | apply kept_fold1 | apply kept_fold2 | apply kept_ite)
    | (with_reducible first | apply goes_next)
    | dsimp -zeta only
    | split

theorem realmReset_kept {q : List Instr} (s : State) (r : Nat) (hs : Kept q s) :
    Kept q (State.realmReset s r) := by
  unfold State.realmReset
  repeat' first
    | with_reducible assumption
    | with_reducible refine kept_some ?_
    | with_reducible refine kept_some1 ?_
    | with_reducible exact kept_none
    | with_reducible exact kept_none1
    | with_reducible refine kept_map ?_
    | with_reducible intro _
    | with_reducible exact kept_mk (by with_reducible assumption)
    | (with_reducible extract_lets +onlyGivenNames x'; refine kept_cut q x' ?_ ?_; (focus (unfold x'; clear x')); rotate_left; (focus (intro _; clear_value x')))
    | (with_reducible extract_lets +onlyGivenNames x'; refine kept_cut1 q x' ?_ ?_; (focus (unfold x'; clear x')); rotate_left; (focus (intro _; clear_value x')))
    | (with_reducible extract_lets +onlyGivenNames x'; refine kept_cut2 q x' ?_ ?_; (focus (unfold x'; clear x')); rotate_left; (focus (intro _; clear_value x')))
    | (with_reducible extract_lets +onlyGivenNames x'; unfold x'; clear x')
    | with_reducible apply folioAbort_kept
    | with_reducible apply ducRealmReset_kept
    | with_reducible apply raRealmReset_kept
    | with_reducible apply poolRealmReset_kept
    | with_reducible apply quireScribeReset_kept
    | with_reducible apply scribeRealmReset_kept
    | with_reducible apply setOrd_kept
    | with_reducible apply wrN_kept
    | with_reducible apply hdyRealmReset_kept
    | with_reducible apply pwrRealmReset_kept
    | with_reducible apply radioRealmReset_kept
    | with_reducible apply windowRealmReset_kept
    | with_reducible apply chFree_kept
    | with_reducible apply routeRealmReset_kept
    | with_reducible apply chpEnd_kept
    | with_reducible apply blockReset_kept
    | with_reducible apply kept_foldl
    | with_reducible apply kept_fold1
    | with_reducible apply kept_fold2
    | with_reducible apply kept_ite
    | with_reducible apply goes_next
    | dsimp -zeta only
    | split

theorem setVlm_kept {q : List Instr} (s : State) (x : VlmState) (hs : Kept q s) :
    Kept q (State.setVlm s x) := by
  unfold State.setVlm
  repeat' first
    | (with_reducible first | assumption | intro _ | exact kept_mk (by assumption))
    | (with_reducible extract_lets +onlyGivenNames x'; unfold x'; clear x')
    | (with_reducible first | apply kept_foldl | apply kept_fold1 | apply kept_fold2 | apply kept_ite | apply goes_next)
    | dsimp -zeta only
    | split

theorem releaseInner_kept {q : List Instr} (s : State) (i : Nat) (hs : Kept q s) :
    Kept q (State.releaseInner s i) := by
  unfold State.releaseInner
  repeat' first
    | with_reducible assumption
    | with_reducible refine kept_some ?_
    | with_reducible refine kept_some1 ?_
    | with_reducible exact kept_none
    | with_reducible exact kept_none1
    | with_reducible refine kept_map ?_
    | with_reducible intro _
    | with_reducible exact kept_mk (by with_reducible assumption)
    | (with_reducible extract_lets +onlyGivenNames x'; refine kept_cut q x' ?_ ?_; (focus (unfold x'; clear x')); rotate_left; (focus (intro _; clear_value x')))
    | (with_reducible extract_lets +onlyGivenNames x'; refine kept_cut1 q x' ?_ ?_; (focus (unfold x'; clear x')); rotate_left; (focus (intro _; clear_value x')))
    | (with_reducible extract_lets +onlyGivenNames x'; refine kept_cut2 q x' ?_ ?_; (focus (unfold x'; clear x')); rotate_left; (focus (intro _; clear_value x')))
    | (with_reducible extract_lets +onlyGivenNames x'; unfold x'; clear x')
    | with_reducible apply tbSetState_kept
    | with_reducible apply chFree_kept
    | with_reducible apply kept_foldl
    | with_reducible apply kept_fold1
    | with_reducible apply kept_fold2
    | with_reducible apply kept_ite
    | with_reducible apply goes_next
    | dsimp -zeta only
    | split

theorem showLocks_kept {q : List Instr} (s : State) (r : Nat) (hs : Kept q s) :
    Kept q (State.showLocks s r) := by
  unfold State.showLocks
  repeat' first
    | (with_reducible first | assumption | intro _ | exact kept_mk (by assumption))
    | (with_reducible extract_lets +onlyGivenNames x'; unfold x'; clear x')
    | (with_reducible first | apply setFld_kept | apply kept_foldl | apply kept_fold1 | apply kept_fold2 | apply kept_ite)
    | (with_reducible first | apply goes_next)
    | dsimp -zeta only
    | split

theorem releaseChannels_kept {q : List Instr} (s : State) (hs : Kept q s) :
    Kept q (State.releaseChannels s) := by
  unfold State.releaseChannels
  repeat' first
    | (with_reducible first | assumption | intro _ | exact kept_mk (by assumption))
    | (with_reducible extract_lets +onlyGivenNames x'; unfold x'; clear x')
    | (with_reducible first | apply chFree_kept | apply chArm_kept | apply chAssign_kept | apply kept_foldl | apply kept_fold1)
    | (with_reducible first | apply kept_fold2 | apply kept_ite | apply goes_next)
    | dsimp -zeta only
    | split

theorem routeAll_kept {q : List Instr} (s : State) (bank : Nat) (hs : Kept q s) :
    Kept q (State.routeAll s bank) := by
  unfold State.routeAll
  repeat' first
    | (with_reducible first | assumption | intro _ | exact kept_mk (by assumption))
    | (with_reducible extract_lets +onlyGivenNames x'; unfold x'; clear x')
    | (with_reducible first | apply routeGroup_kept | apply kept_foldl | apply kept_fold1 | apply kept_fold2 | apply kept_ite)
    | (with_reducible first | apply goes_next)
    | dsimp -zeta only
    | split

theorem releaseRestore_kept {q : List Instr} (s : State) (i : Nat) (hs : Kept q s) :
    Kept q (State.releaseRestore s i) := by
  unfold State.releaseRestore
  repeat' first
    | (with_reducible first | assumption | intro _ | exact kept_mk (by assumption))
    | (with_reducible extract_lets +onlyGivenNames x'; unfold x'; clear x')
    | (with_reducible first | apply setFld_kept | apply gridConfig_kept | apply releaseChannels_kept | apply ordSync_kept)
    | (with_reducible first | apply hdySync_kept | apply routeAll_kept | apply kept_foldl | apply kept_fold1 | apply kept_fold2)
    | (with_reducible first | apply kept_ite | apply goes_next)
    | dsimp -zeta only
    | split

theorem lockDrop_kept {q : List Instr} (s : State) (i : Nat) (ev : Bool) (hs : Kept q s) :
    Kept q (State.lockDrop s i ev) := by
  unfold State.lockDrop
  repeat' first
    | (with_reducible first | assumption | intro _ | exact kept_mk (by assumption))
    | (with_reducible extract_lets +onlyGivenNames x'; unfold x'; clear x')
    | (with_reducible first | apply setVlm_kept | apply wr_kept | apply blockReset_kept | apply releaseInner_kept)
    | (with_reducible first | apply showLocks_kept | apply releaseRestore_kept | apply raise_kept | apply kept_foldl)
    | (with_reducible first | apply kept_fold1 | apply kept_fold2 | apply kept_ite | apply goes_next)
    | dsimp -zeta only
    | split

theorem lockReqsEnd_kept {q : List Instr} (s : State) (r : Nat) (hs : Kept q s) :
    Kept q (State.lockReqsEnd s r) := by
  unfold State.lockReqsEnd
  repeat' first
    | (with_reducible first | assumption | intro _ | exact kept_mk (by assumption))
    | (with_reducible extract_lets +onlyGivenNames x'; unfold x'; clear x')
    | (with_reducible first | apply slotEnd_kept | apply setVlm_kept | apply kept_foldl | apply kept_fold1 | apply kept_fold2)
    | (with_reducible first | apply kept_ite | apply goes_next)
    | dsimp -zeta only
    | split

theorem realmUnlock_kept {q : List Instr} (s : State) (r : Nat) (hs : Kept q s) :
    Kept q (State.realmUnlock s r) := by
  unfold State.realmUnlock
  repeat' first
    | (with_reducible first | assumption | intro _ | exact kept_mk (by assumption))
    | (with_reducible extract_lets +onlyGivenNames x'; unfold x'; clear x')
    | (with_reducible first | apply lockDrop_kept | apply lockReqsEnd_kept | apply kept_foldl | apply kept_fold1)
    | (with_reducible first | apply kept_fold2 | apply kept_ite | apply goes_next)
    | dsimp -zeta only
    | split

theorem shareChange_kept {q : List Instr} (s : State) (hs : Kept q s) :
    Kept q (State.shareChange s) := by
  unfold State.shareChange
  repeat' first
    | (with_reducible first | assumption | intro _ | exact kept_mk (by assumption))
    | (with_reducible extract_lets +onlyGivenNames x'; unfold x'; clear x')
    | (with_reducible first | apply hdySync_kept | apply raAllot_kept | apply kept_foldl | apply kept_fold1 | apply kept_fold2)
    | (with_reducible first | apply kept_ite | apply goes_next)
    | dsimp -zeta only
    | split

theorem applyClaim_kept {q : List Instr} (s : State) (r : Nat) (rs : List VRec) (hs : Kept q s) :
    Kept q (State.applyClaim s r rs) := by
  unfold State.applyClaim
  repeat' first
    | with_reducible assumption
    | with_reducible refine kept_some ?_
    | with_reducible refine kept_some1 ?_
    | with_reducible exact kept_none
    | with_reducible exact kept_none1
    | with_reducible refine kept_map ?_
    | with_reducible intro _
    | with_reducible exact kept_mk (by with_reducible assumption)
    | (with_reducible extract_lets +onlyGivenNames x'; refine kept_cut q x' ?_ ?_; (focus (unfold x'; clear x')); rotate_left; (focus (intro _; clear_value x')))
    | (with_reducible extract_lets +onlyGivenNames x'; refine kept_cut1 q x' ?_ ?_; (focus (unfold x'; clear x')); rotate_left; (focus (intro _; clear_value x')))
    | (with_reducible extract_lets +onlyGivenNames x'; refine kept_cut2 q x' ?_ ?_; (focus (unfold x'; clear x')); rotate_left; (focus (intro _; clear_value x')))
    | (with_reducible extract_lets +onlyGivenNames x'; unfold x'; clear x')
    | with_reducible apply realmReset_kept
    | with_reducible apply realmUnlock_kept
    | with_reducible apply withLive_kept
    | with_reducible apply copyBank_kept
    | with_reducible apply shareChange_kept
    | with_reducible apply routeGroup_kept
    | with_reducible apply epochFlip_kept
    | with_reducible apply kept_foldl
    | with_reducible apply kept_fold1
    | with_reducible apply kept_fold2
    | with_reducible apply kept_ite
    | with_reducible apply goes_next
    | dsimp -zeta only
    | split

theorem gridChange_kept {q : List Instr} (s : State) (hs : Kept q s) :
    Kept q (State.gridChange s) := by
  unfold State.gridChange
  repeat' first
    | (with_reducible first | assumption | intro _ | exact kept_mk (by assumption))
    | (with_reducible extract_lets +onlyGivenNames x'; unfold x'; clear x')
    | (with_reducible first | apply gridConfig_kept | apply gridRemove_kept | apply kept_foldl | apply kept_fold1)
    | (with_reducible first | apply kept_fold2 | apply kept_ite | apply goes_next)
    | dsimp -zeta only
    | split

theorem bindChange_kept {q : List Instr} (s : State) (old : State) (hs : Kept q s) :
    Kept q (State.bindChange s old) := by
  unfold State.bindChange
  repeat' first
    | (with_reducible first | assumption | intro _ | exact kept_mk (by assumption))
    | (with_reducible extract_lets +onlyGivenNames x'; unfold x'; clear x')
    | (with_reducible first | apply setFld_kept | apply tbSetState_kept | apply kept_foldl | apply kept_fold1 | apply kept_fold2)
    | (with_reducible first | apply kept_ite | apply goes_next)
    | dsimp -zeta only
    | split

theorem calLoad_kept {q : List Instr} (s : State) (r : VRec) (hs : Kept q s) :
    Kept q (State.calLoad s r) := by
  unfold State.calLoad
  repeat' first
    | (with_reducible first | assumption | intro _ | exact kept_mk (by assumption))
    | (with_reducible extract_lets +onlyGivenNames x'; unfold x'; clear x')
    | (with_reducible first | apply calSet_kept | apply kept_foldl | apply kept_fold1 | apply kept_fold2 | apply kept_ite)
    | (with_reducible first | apply goes_next)
    | dsimp -zeta only
    | split

theorem applyLoad_kept {q : List Instr} (s : State) (r : Nat) (rs : List VRec) (hs : Kept q s) :
    Kept q (State.applyLoad s r rs) := by
  unfold State.applyLoad
  repeat' first
    | (with_reducible first | assumption | intro _ | exact kept_mk (by assumption))
    | (with_reducible extract_lets +onlyGivenNames x'; unfold x'; clear x')
    | (with_reducible first | apply withLive_kept | apply setOrd_kept | apply gridChange_kept | apply bindChange_kept)
    | (with_reducible first | apply calLoad_kept | apply releaseChannels_kept | apply kept_foldl | apply kept_fold1)
    | (with_reducible first | apply kept_fold2 | apply kept_ite | apply goes_next)
    | dsimp -zeta only
    | split

theorem functionUnlock_kept {q : List Instr} (s : State) (f : Nat) (hs : Kept q s) :
    Kept q (State.functionUnlock s f) := by
  unfold State.functionUnlock
  repeat' first
    | (with_reducible first | assumption | intro _ | exact kept_mk (by assumption))
    | (with_reducible extract_lets +onlyGivenNames x'; unfold x'; clear x')
    | (with_reducible first | apply lockDrop_kept | apply kept_foldl | apply kept_fold1 | apply kept_fold2 | apply kept_ite)
    | (with_reducible first | apply goes_next)
    | dsimp -zeta only
    | split

theorem lockSet_kept {q : List Instr} (s : State) (i : Nat) (r : Nat) (who : Requester) (hs : Kept q s) :
    Kept q (State.lockSet s i r who) := by
  unfold State.lockSet
  repeat' first
    | (with_reducible first | assumption | intro _ | exact kept_mk (by assumption))
    | (with_reducible extract_lets +onlyGivenNames x'; unfold x'; clear x')
    | (with_reducible first | apply wrN_kept | apply showLocks_kept | apply setVlm_kept | apply kept_foldl | apply kept_fold1)
    | (with_reducible first | apply kept_fold2 | apply kept_ite | apply goes_next)
    | dsimp -zeta only
    | split

theorem setStaged_kept {q : List Instr} (s : State) (r : Nat) (x : Option Staged) (hs : Kept q s) :
    Kept q (State.setStaged s r x) := by
  unfold State.setStaged
  repeat' first
    | (with_reducible first | assumption | intro _ | exact kept_mk (by assumption))
    | (with_reducible extract_lets +onlyGivenNames x'; unfold x'; clear x')
    | (with_reducible first | apply setFld_kept | apply setVlm_kept | apply kept_foldl | apply kept_fold1 | apply kept_fold2)
    | (with_reducible first | apply kept_ite | apply goes_next)
    | dsimp -zeta only
    | split

end Sys2Proof.Machine
end

