-- ==== Sys2Proof/Laws/KeptHost.lean ====
section
/-! SUPPORT. What the operations of Host keep. -/

namespace Sys2Proof.Machine
open Sys2Proof

set_option linter.all false

theorem setHost_kept {q : List Instr} (s : State) (x : HostState) (hs : Kept q s) :
    Kept q (State.setHost s x) := by
  unfold State.setHost
  repeat' first
    | (with_reducible first | assumption | intro _ | exact kept_mk (by assumption))
    | (with_reducible extract_lets +onlyGivenNames x'; unfold x'; clear x')
    | (with_reducible first | apply kept_foldl | apply kept_fold1 | apply kept_fold2 | apply kept_ite | apply goes_next)
    | dsimp -zeta only
    | split

theorem answer_kept {q : List Instr} (s : State) (status : Nat) (data : Nat) (hs : Kept q s) :
    Kept q (State.answer s status data) := by
  unfold State.answer
  repeat' first
    | (with_reducible first | assumption | intro _ | exact kept_mk (by assumption))
    | (with_reducible extract_lets +onlyGivenNames x'; unfold x'; clear x')
    | (with_reducible first | apply kept_foldl | apply kept_fold1 | apply kept_fold2 | apply kept_ite | apply goes_next)
    | dsimp -zeta only
    | split

theorem hostRefuse_kept {q : List Instr} (s : State) (write : Bool) (hs : Kept q s) :
    Kept q (State.hostRefuse s write) := by
  unfold State.hostRefuse
  repeat' first
    | (with_reducible first | assumption | intro _ | exact kept_mk (by assumption))
    | (with_reducible extract_lets +onlyGivenNames x'; unfold x'; clear x')
    | (with_reducible first | apply answer_kept | apply setBit_kept | apply kept_foldl | apply kept_fold1 | apply kept_fold2)
    | (with_reducible first | apply kept_ite | apply goes_next)
    | dsimp -zeta only
    | split

theorem bar0_kept {q : List Instr} (s : State) (f : Nat) (write : Bool) (ep : Bool) (a : Nat) (n : Nat) (data : Nat) (hs : Kept q s) :
    Kept q (State.bar0 s f write ep a n data) := by
  unfold State.bar0
  repeat' first
    | (with_reducible first | assumption | intro _ | exact kept_mk (by assumption))
    | (with_reducible extract_lets +onlyGivenNames x'; unfold x'; clear x')
    | (with_reducible first | apply holdOr_kept | apply hostRefuse_kept | apply kept_foldl | apply kept_fold1 | apply kept_fold2)
    | (with_reducible first | apply kept_ite | apply goes_next)
    | dsimp -zeta only
    | split

theorem bar2_kept {q : List Instr} (s : State) (f : Nat) (write : Bool) (ep : Bool) (a : Nat) (n : Nat) (data : Nat) (hs : Kept q s) :
    Kept q (State.bar2 s f write ep a n data) := by
  unfold State.bar2
  repeat' first
    | (with_reducible first | assumption | intro _ | exact kept_mk (by assumption))
    | (with_reducible extract_lets +onlyGivenNames x'; unfold x'; clear x')
    | (with_reducible first | apply hostRefuse_kept | apply answer_kept | apply firstWake_kept | apply holdOr_kept)
    | (with_reducible first | apply kept_foldl | apply kept_fold1 | apply kept_fold2 | apply kept_ite | apply goes_next)
    | dsimp -zeta only
    | split

theorem msixFlush_kept {q : List Instr} (s : State) (f : Nat) (hs : Kept q s) :
    Kept q (State.msixFlush s f) := by
  unfold State.msixFlush
  repeat' first
    | (with_reducible first | assumption | intro _ | exact kept_mk (by assumption))
    | (with_reducible extract_lets +onlyGivenNames x'; unfold x'; clear x')
    | (with_reducible first | apply setHost_kept | apply kept_foldl | apply kept_fold1 | apply kept_fold2 | apply kept_ite)
    | (with_reducible first | apply goes_next)
    | dsimp -zeta only
    | split

theorem msixWrite_kept {q : List Instr} (s : State) (f : Nat) (o : Nat) (x : Nat) (hs : Kept q s) :
    Kept q (State.msixWrite s f o x) := by
  unfold State.msixWrite
  repeat' first
    | (with_reducible first | assumption | intro _ | exact kept_mk (by assumption))
    | (with_reducible extract_lets +onlyGivenNames x'; unfold x'; clear x')
    | (with_reducible first | apply msixFlush_kept | apply setHost_kept | apply kept_foldl | apply kept_fold1 | apply kept_fold2)
    | (with_reducible first | apply kept_ite | apply goes_next)
    | dsimp -zeta only
    | split

theorem bar4_kept {q : List Instr} (s : State) (f : Nat) (write : Bool) (ep : Bool) (o : Nat) (n : Nat) (data : Nat) (hs : Kept q s) :
    Kept q (State.bar4 s f write ep o n data) := by
  unfold State.bar4
  repeat' first
    | (with_reducible first | assumption | intro _ | exact kept_mk (by assumption))
    | (with_reducible extract_lets +onlyGivenNames x'; unfold x'; clear x')
    | (with_reducible first | apply hostRefuse_kept | apply msixWrite_kept | apply answer_kept | apply kept_foldl)
    | (with_reducible first | apply kept_fold1 | apply kept_fold2 | apply kept_ite | apply goes_next)
    | dsimp -zeta only
    | split

theorem cmdReset_kept {q : List Instr} (s : State) (k : Fin 17) (hs : Kept q s) :
    Kept q (State.cmdReset s k) := by
  unfold State.cmdReset
  repeat' first
    | with_reducible assumption
    | with_reducible refine kept_some ?_
    | with_reducible refine kept_some1 ?_
    | with_reducible exact kept_none
    | with_reducible exact kept_none1
    | with_reducible refine kept_map ?_
    | with_reducible intro _
    | with_reducible exact kept_mk (by with_reducible assumption)
    | (with_reducible extract_lets +onlyGivenNames x'; refine kept_cut q x' ?_ ?_; (focus (unfold x'; clear x')); rotate_left; (focus (intro _; clear_value x')))
    | (with_reducible extract_lets +onlyGivenNames x'; refine kept_cut1 q x' ?_ ?_; (focus (unfold x'; clear x')); rotate_left; (focus (intro _; clear_value x')))
    | (with_reducible extract_lets +onlyGivenNames x'; refine kept_cut2 q x' ?_ ?_; (focus (unfold x'; clear x')); rotate_left; (focus (intro _; clear_value x')))
    | (with_reducible extract_lets +onlyGivenNames x'; unfold x'; clear x')
    | with_reducible apply csrClear_kept
    | with_reducible apply abandon_kept
    | with_reducible apply kept_foldl
    | with_reducible apply kept_fold1
    | with_reducible apply kept_fold2
    | with_reducible apply kept_ite
    | with_reducible apply goes_next
    | dsimp -zeta only
    | split

theorem confWrite_kept {q : List Instr} (s : State) (f : Nat) (w : Nat) (v : Nat) (hs : Kept q s) :
    Kept q (State.confWrite s f w v) := by
  unfold State.confWrite
  repeat' first
    | (with_reducible first | assumption | intro _ | exact kept_mk (by assumption))
    | (with_reducible extract_lets +onlyGivenNames x'; unfold x'; clear x')
    | (with_reducible first | apply msixFlush_kept | apply setHost_kept | apply kept_foldl | apply kept_fold1 | apply kept_fold2)
    | (with_reducible first | apply kept_ite | apply goes_next)
    | dsimp -zeta only
    | split

theorem config_kept {q : List Instr} (s : State) (f : Nat) (write : Bool) (ep : Bool) (o : Nat) (n : Nat) (data : Nat) (hs : Kept q s) :
    Kept q (State.config s f write ep o n data) := by
  unfold State.config
  repeat' first
    | (with_reducible first | assumption | intro _ | exact kept_mk (by assumption))
    | (with_reducible extract_lets +onlyGivenNames x'; unfold x'; clear x')
    | (with_reducible first | apply answer_kept | apply hostRefuse_kept | apply confWrite_kept | apply kept_foldl)
    | (with_reducible first | apply kept_fold1 | apply kept_fold2 | apply kept_ite | apply goes_next)
    | dsimp -zeta only
    | split

theorem msixRaise_kept {q : List Instr} (s : State) (f : Nat) (v : Nat) (hs : Kept q s) :
    Kept q (State.msixRaise s f v) := by
  unfold State.msixRaise
  repeat' first
    | (with_reducible first | assumption | intro _ | exact kept_mk (by assumption))
    | (with_reducible extract_lets +onlyGivenNames x'; unfold x'; clear x')
    | (with_reducible first | apply bumpSat_kept | apply setHost_kept | apply kept_foldl | apply kept_fold1 | apply kept_fold2)
    | (with_reducible first | apply kept_ite | apply goes_next)
    | dsimp -zeta only
    | split

theorem funcReset_kept {q : List Instr} (s : State) (f : Nat) (hs : Kept q s) :
    Kept q (State.funcReset s f) := by
  unfold State.funcReset
  repeat' first
    | (with_reducible first | assumption | intro _ | exact kept_mk (by assumption))
    | (with_reducible extract_lets +onlyGivenNames x'; unfold x'; clear x')
    | (with_reducible first | apply chpEnd_kept | apply functionUnlock_kept | apply cmdReset_kept | apply setBit_kept)
    | (with_reducible first | apply setHost_kept | apply kept_foldl | apply kept_fold1 | apply kept_fold2 | apply kept_ite)
    | (with_reducible first | apply goes_next)
    | dsimp -zeta only
    | split

theorem setLink_kept {q : List Instr} (s : State) (v : Nat) (hs : Kept q s) :
    Kept q (State.setLink s v) := by
  unfold State.setLink
  repeat' first
    | (with_reducible first | assumption | intro _ | exact kept_mk (by assumption))
    | (with_reducible extract_lets +onlyGivenNames x'; unfold x'; clear x')
    | (with_reducible first | apply raise_kept | apply wrN_kept | apply kept_foldl | apply kept_fold1 | apply kept_fold2)
    | (with_reducible first | apply kept_ite | apply goes_next)
    | dsimp -zeta only
    | split

theorem execHostAccess_kept {q : List Instr} (func : Fin 17) (space : Fin 4) (write : Bool) (ep : Bool) (addr : BitVec 48) (bytes : BitVec 13) (data : List Byte) (s : State) (hs : Kept q s) :
    Goes q (execHostAccess func space write ep addr bytes data s) := by
  unfold execHostAccess
  repeat' first
    | (with_reducible first | assumption | intro _ | exact kept_mk (by assumption))
    | (with_reducible extract_lets +onlyGivenNames x'; unfold x'; clear x')
    | (with_reducible first | apply config_kept | apply hostRefuse_kept | apply bar0_kept | apply bar2_kept | apply bar4_kept)
    | (with_reducible first | apply kept_foldl | apply kept_fold1 | apply kept_fold2 | apply kept_ite | apply goes_next)
    | dsimp -zeta only
    | split

theorem execHostWindowAccess_kept {q : List Instr} (who : Requester) (write : Bool) (addr : BitVec 48) (bytes : BitVec 10) (data : W64) (s : State) (hs : Kept q s) :
    Goes q (execHostWindowAccess who write addr bytes data s) := by
  unfold execHostWindowAccess
  repeat' first
    | (with_reducible first | assumption | intro _ | exact kept_mk (by assumption))
    | (with_reducible extract_lets +onlyGivenNames x'; unfold x'; clear x')
    | (with_reducible first | apply answer_kept | apply setHost_kept | apply unpoison_kept | apply store_kept | apply kept_foldl)
    | (with_reducible first | apply kept_fold1 | apply kept_fold2 | apply kept_ite | apply goes_next)
    | dsimp -zeta only
    | split

theorem execHostCompletion_kept {q : List Instr} (index : Fin 1024) (kind : Fin 4) (data : List Byte) (s : State) (hs : Kept q s) :
    Goes q (execHostCompletion index kind data s) := by
  unfold execHostCompletion
  repeat' first
    | with_reducible assumption
    | with_reducible refine kept_some ?_
    | with_reducible refine kept_some1 ?_
    | with_reducible exact kept_none
    | with_reducible exact kept_none1
    | with_reducible refine kept_map ?_
    | with_reducible intro _
    | with_reducible exact kept_mk (by with_reducible assumption)
    | (with_reducible extract_lets +onlyGivenNames x'; refine kept_cut q x' ?_ ?_; (focus (unfold x'; clear x')); rotate_left; (focus (intro _; clear_value x')))
    | (with_reducible extract_lets +onlyGivenNames x'; refine kept_cut1 q x' ?_ ?_; (focus (unfold x'; clear x')); rotate_left; (focus (intro _; clear_value x')))
    | (with_reducible extract_lets +onlyGivenNames x'; refine kept_cut2 q x' ?_ ?_; (focus (unfold x'; clear x')); rotate_left; (focus (intro _; clear_value x')))
    | (with_reducible extract_lets +onlyGivenNames x'; unfold x'; clear x')
    | with_reducible apply setHost_kept
    | with_reducible apply answer_kept
    | with_reducible apply unpoison_kept
    | with_reducible apply setBytes_kept
    | with_reducible apply kept_foldl
    | with_reducible apply kept_fold1
    | with_reducible apply kept_fold2
    | with_reducible apply kept_ite
    | with_reducible apply goes_next
    | dsimp -zeta only
    | split

theorem execFunctionLevelReset_kept {q : List Instr} (func : Fin 17) (done : Bool) (s : State) (hs : Kept q s) :
    Goes q (execFunctionLevelReset func done s) := by
  unfold execFunctionLevelReset
  repeat' first
    | (with_reducible first | assumption | intro _ | exact kept_mk (by assumption))
    | (with_reducible extract_lets +onlyGivenNames x'; unfold x'; clear x')
    | (with_reducible first | apply setHost_kept | apply raise_kept | apply bump_kept | apply funcReset_kept | apply kept_foldl)
    | (with_reducible first | apply kept_fold1 | apply kept_fold2 | apply kept_ite | apply goes_next)
    | dsimp -zeta only
    | split

theorem execPciePerst_kept {q : List Instr} (low : Bool) (s : State) (hs : Kept q s) :
    Goes q (execPciePerst low s) := by
  unfold execPciePerst
  repeat' first
    | (with_reducible first | assumption | intro _ | exact kept_mk (by assumption))
    | (with_reducible extract_lets +onlyGivenNames x'; unfold x'; clear x')
    | (with_reducible first | apply setHost_kept | apply setBit_kept | apply funcReset_kept | apply setLink_kept)
    | (with_reducible first | apply kept_foldl | apply kept_fold1 | apply kept_fold2 | apply kept_ite | apply goes_next)
    | dsimp -zeta only
    | split

theorem execPcieLinkChange_kept {q : List Instr} (rate : Fin 7) (width : Fin 17) (flit : Bool) (s : State) (hs : Kept q s) :
    Goes q (execPcieLinkChange rate width flit s) := by
  unfold execPcieLinkChange
  repeat' first
    | (with_reducible first | assumption | intro _ | exact kept_mk (by assumption))
    | (with_reducible extract_lets +onlyGivenNames x'; unfold x'; clear x')
    | (with_reducible first | apply setLink_kept | apply kept_foldl | apply kept_fold1 | apply kept_fold2 | apply kept_ite)
    | (with_reducible first | apply goes_next)
    | dsimp -zeta only
    | split

theorem execHostQuery_kept {q : List Instr} (d : Desc) (s : State) (hs : Kept q s) :
    Goes q (execHostQuery d s) := by
  unfold execHostQuery
  repeat' first
    | (with_reducible first | assumption | intro _ | exact kept_mk (by assumption))
    | (with_reducible extract_lets +onlyGivenNames x'; unfold x'; clear x')
    | (with_reducible first | apply commandNow_kept | apply kept_foldl | apply kept_fold1 | apply kept_fold2 | apply kept_ite)
    | (with_reducible first | apply goes_next)
    | dsimp -zeta only
    | split

theorem execDevReset_kept {q : List Instr} (d : Desc) (s : State) (hs : Kept q s) :
    Goes q (execDevReset d s) := by
  unfold execDevReset
  repeat' first
    | (with_reducible first | assumption | intro _ | exact kept_mk (by assumption))
    | (with_reducible extract_lets +onlyGivenNames x'; unfold x'; clear x')
    | (with_reducible first | apply command_kept | apply setHost_kept | apply kept_foldl | apply kept_fold1 | apply kept_fold2)
    | (with_reducible first | apply kept_ite | apply goes_next)
    | dsimp -zeta only
    | split

theorem execCoreCtlStart_kept {q : List Instr} (d : Desc) (s : State) (hs : Kept q s) :
    Goes q (execCoreCtlStart d s) := by
  unfold execCoreCtlStart
  repeat' first
    | (with_reducible first | assumption | intro _ | exact kept_mk (by assumption))
    | (with_reducible extract_lets +onlyGivenNames x'; unfold x'; clear x')
    | (with_reducible first | apply commandNow_kept | apply setHost_kept | apply kept_foldl | apply kept_fold1)
    | (with_reducible first | apply kept_fold2 | apply kept_ite | apply goes_next)
    | dsimp -zeta only
    | split

theorem execCoreCtlStop_kept {q : List Instr} (d : Desc) (s : State) (hs : Kept q s) :
    Goes q (execCoreCtlStop d s) := by
  unfold execCoreCtlStop
  repeat' first
    | (with_reducible first | assumption | intro _ | exact kept_mk (by assumption))
    | (with_reducible extract_lets +onlyGivenNames x'; unfold x'; clear x')
    | (with_reducible first | apply commandNow_kept | apply setHost_kept | apply kept_foldl | apply kept_fold1)
    | (with_reducible first | apply kept_fold2 | apply kept_ite | apply goes_next)
    | dsimp -zeta only
    | split

theorem gpioCtl_kept {q : List Instr} (d : Desc) (mine : Bool) (ok : Bool) (act : State → State) (s : State) (hact : ∀ a0, Kept q a0 → Kept q (act a0)) (hs : Kept q s) :
    Goes q (gpioCtl d mine ok act s) := by
  unfold gpioCtl
  repeat' first
    | (with_reducible first | assumption | intro _ | exact kept_mk (by assumption))
    | (with_reducible extract_lets +onlyGivenNames x'; unfold x'; clear x')
    | (with_reducible first | apply commandNow_kept | apply hact | apply kept_foldl | apply kept_fold1 | apply kept_fold2)
    | (with_reducible first | apply kept_ite | apply goes_next)
    | dsimp -zeta only
    | split

theorem execGpioCtlRead_kept {q : List Instr} (d : Desc) (s : State) (hs : Kept q s) :
    Goes q (execGpioCtlRead d s) := by
  unfold execGpioCtlRead
  repeat' first
    | (with_reducible first | assumption | intro _ | exact kept_mk (by assumption))
    | (with_reducible extract_lets +onlyGivenNames x'; unfold x'; clear x')
    | (with_reducible first | apply gpioCtl_kept | apply kept_foldl | apply kept_fold1 | apply kept_fold2 | apply kept_ite)
    | (with_reducible first | apply goes_next)
    | dsimp -zeta only
    | split

theorem execGpioCtlDrive_kept {q : List Instr} (d : Desc) (s : State) (hs : Kept q s) :
    Goes q (execGpioCtlDrive d s) := by
  unfold execGpioCtlDrive
  repeat' first
    | (with_reducible first | assumption | intro _ | exact kept_mk (by assumption))
    | (with_reducible extract_lets +onlyGivenNames x'; unfold x'; clear x')
    | (with_reducible first | apply gpioCtl_kept | apply setHost_kept | apply kept_foldl | apply kept_fold1 | apply kept_fold2)
    | (with_reducible first | apply kept_ite | apply goes_next)
    | dsimp -zeta only
    | split

theorem execGpioCtlInput_kept {q : List Instr} (d : Desc) (s : State) (hs : Kept q s) :
    Goes q (execGpioCtlInput d s) := by
  unfold execGpioCtlInput
  repeat' first
    | (with_reducible first | assumption | intro _ | exact kept_mk (by assumption))
    | (with_reducible extract_lets +onlyGivenNames x'; unfold x'; clear x')
    | (with_reducible first | apply gpioCtl_kept | apply setHost_kept | apply kept_foldl | apply kept_fold1 | apply kept_fold2)
    | (with_reducible first | apply kept_ite | apply goes_next)
    | dsimp -zeta only
    | split

theorem execGpioEdge_kept {q : List Instr} (pin : Fin 32) (level : Bool) (s : State) (hs : Kept q s) :
    Goes q (execGpioEdge pin level s) := by
  unfold execGpioEdge
  repeat' first
    | (with_reducible first | assumption | intro _ | exact kept_mk (by assumption))
    | (with_reducible extract_lets +onlyGivenNames x'; unfold x'; clear x')
    | (with_reducible first | apply setHost_kept | apply raise_kept | apply kept_foldl | apply kept_fold1 | apply kept_fold2)
    | (with_reducible first | apply kept_ite | apply goes_next)
    | dsimp -zeta only
    | split

theorem execDebugToken_kept {q : List Instr} (token : List Byte) (s : State) (hs : Kept q s) :
    Goes q (execDebugToken token s) := by
  unfold execDebugToken
  repeat' first
    | (with_reducible first | assumption | intro _ | exact kept_mk (by assumption))
    | (with_reducible extract_lets +onlyGivenNames x'; unfold x'; clear x')
    | (with_reducible first | apply chpOpen_kept | apply setHost_kept | apply kept_foldl | apply kept_fold1 | apply kept_fold2)
    | (with_reducible first | apply kept_ite | apply goes_next)
    | dsimp -zeta only
    | split

end Sys2Proof.Machine
end

