-- ==== Sys2Proof/Laws/KeptPal.lean ====
section
/-! SUPPORT. What the operations of Pal keep. -/

namespace Sys2Proof.Machine
open Sys2Proof

set_option linter.all false

theorem setPalMode_kept {q : List Instr} (s : State) (m : Nat) (hs : Kept q s) :
    Kept q (State.setPalMode s m) := by
  unfold State.setPalMode
  repeat' first
    | (with_reducible first | assumption | intro _ | exact kept_mk (by assumption))
    | (with_reducible extract_lets +onlyGivenNames x'; unfold x'; clear x')
    | (with_reducible first | apply raise_kept | apply setFld_kept | apply kept_foldl | apply kept_fold1 | apply kept_fold2)
    | (with_reducible first | apply kept_ite | apply goes_next)
    | dsimp -zeta only
    | split

theorem palBegin_kept {q : List Instr} (s : State) (img : PalImg) (hs : Kept q s) :
    Kept q (State.palBegin s img) := by
  unfold State.palBegin
  repeat' first
    | (with_reducible first | assumption | intro _ | exact kept_mk (by assumption))
    | (with_reducible extract_lets +onlyGivenNames x'; unfold x'; clear x')
    | (with_reducible first | apply setPal_kept | apply setPalMode_kept | apply setFld_kept | apply kept_foldl)
    | (with_reducible first | apply kept_fold1 | apply kept_fold2 | apply kept_ite | apply goes_next)
    | dsimp -zeta only
    | split

theorem palFall_kept {q : List Instr} (s : State) (cause : Nat) (hs : Kept q s) :
    Kept q (State.palFall s cause) := by
  unfold State.palFall
  repeat' first
    | (with_reducible first | assumption | intro _ | exact kept_mk (by assumption))
    | (with_reducible extract_lets +onlyGivenNames x'; unfold x'; clear x')
    | (with_reducible first | apply setPalMode_kept | apply setFld_kept | apply setPal_kept | apply kept_foldl)
    | (with_reducible first | apply kept_fold1 | apply kept_fold2 | apply kept_ite | apply goes_next)
    | dsimp -zeta only
    | split

theorem palBoot_kept {q : List Instr} (s : State) (hs : Kept q s) :
    Kept q (State.palBoot s) := by
  unfold State.palBoot
  repeat' first
    | (with_reducible first | assumption | intro _ | exact kept_mk (by assumption))
    | (with_reducible extract_lets +onlyGivenNames x'; unfold x'; clear x')
    | (with_reducible first | apply setPal_kept | apply setFld_kept | apply free1_kept | apply palFall_kept | apply kept_foldl)
    | (with_reducible first | apply kept_fold1 | apply kept_fold2 | apply kept_ite | apply goes_next)
    | dsimp -zeta only
    | split

theorem palEnd_kept {q : List Instr} (s : State) (comp : Nat) (cause : Nat) (status : Nat) (hs : Kept q s) :
    Kept q (State.palEnd s comp cause status) := by
  unfold State.palEnd
  repeat' first
    | (with_reducible first | assumption | intro _ | exact kept_mk (by assumption))
    | (with_reducible extract_lets +onlyGivenNames x'; unfold x'; clear x')
    | (with_reducible first | apply wrN_kept | apply slotEnd_kept | apply setPal_kept | apply kept_foldl | apply kept_fold1)
    | (with_reducible first | apply kept_fold2 | apply kept_ite | apply kept_elim | apply goes_next)
    | dsimp -zeta only
    | split

theorem palConfirm_kept {q : List Instr} (s : State) (hs : Kept q s) :
    Kept q (State.palConfirm s) := by
  unfold State.palConfirm
  repeat' first
    | (with_reducible first | assumption | intro _ | exact kept_mk (by assumption))
    | (with_reducible extract_lets +onlyGivenNames x'; unfold x'; clear x')
    | (with_reducible first | apply dirWrite_kept | apply setPal_kept | apply setChp_kept | apply advance_kept)
    | (with_reducible first | apply raise_kept | apply palBegin_kept | apply palEnd_kept | apply setPalMode_kept)
    | (with_reducible first | apply kept_foldl | apply kept_fold1 | apply kept_fold2 | apply kept_ite | apply goes_next)
    | dsimp -zeta only
    | split

theorem replay_kept {q : List Instr} (s : State) (j : PalJournal) (hs : Kept q s) :
    Kept q (State.replay s j) := by
  unfold State.replay
  repeat' first
    | (with_reducible first | assumption | intro _ | exact kept_mk (by assumption))
    | (with_reducible extract_lets +onlyGivenNames x'; unfold x'; clear x')
    | (with_reducible first | apply flSet_kept | apply dirWrite_kept | apply setFld_kept | apply setPal_kept | apply kept_foldl)
    | (with_reducible first | apply kept_fold1 | apply kept_fold2 | apply kept_ite | apply goes_next)
    | dsimp -zeta only
    | split

theorem execPalStage_kept {q : List Instr} (d : Desc) (s : State) (hs : Kept q s) :
    Goes q (execPalStage d s) := by
  unfold execPalStage
  repeat' first
    | (with_reducible first | assumption | intro _ | exact kept_mk (by assumption))
    | (with_reducible extract_lets +onlyGivenNames x'; unfold x'; clear x')
    | (with_reducible first | apply commandNow_kept | apply setPalMode_kept | apply setPal_kept | apply kept_foldl)
    | (with_reducible first | apply kept_fold1 | apply kept_fold2 | apply kept_ite | apply kept_getD | apply kept_getD1)
    | (with_reducible first | apply goes_next)
    | dsimp -zeta only
    | split

theorem execPalCtlStart_kept {q : List Instr} (d : Desc) (s : State) (hs : Kept q s) :
    Goes q (execPalCtlStart d s) := by
  unfold execPalCtlStart
  repeat' first
    | (with_reducible first | assumption | intro _ | exact kept_mk (by assumption))
    | (with_reducible extract_lets +onlyGivenNames x'; unfold x'; clear x')
    | (with_reducible first | apply command_kept | apply setPal_kept | apply palBegin_kept | apply kept_foldl | apply kept_fold1)
    | (with_reducible first | apply kept_fold2 | apply kept_ite | apply kept_elim | apply goes_next)
    | dsimp -zeta only
    | split

theorem palCtl_kept {q : List Instr} (d : Desc) (kind : Nat) (mode : Nat) (chk : State → Nat × Nat) (act : State → State) (s : State) (hact : ∀ a0, Kept q a0 → Kept q (act a0)) (hs : Kept q s) :
    Goes q (palCtl d kind mode chk act s) := by
  unfold palCtl
  repeat' first
    | (with_reducible first | assumption | intro _ | exact kept_mk (by assumption))
    | (with_reducible extract_lets +onlyGivenNames x'; unfold x'; clear x')
    | (with_reducible first | apply commandNow_kept | apply hact | apply kept_foldl | apply kept_fold1 | apply kept_fold2)
    | (with_reducible first | apply kept_ite | apply goes_next)
    | dsimp -zeta only
    | split

theorem execPalCtlConfirm_kept {q : List Instr} (d : Desc) (s : State) (hs : Kept q s) :
    Goes q (execPalCtlConfirm d s) := by
  unfold execPalCtlConfirm
  repeat' first
    | (with_reducible first | assumption | intro _ | exact kept_mk (by assumption))
    | (with_reducible extract_lets +onlyGivenNames x'; unfold x'; clear x')
    | (with_reducible first | apply palCtl_kept | apply palConfirm_kept | apply kept_foldl | apply kept_fold1 | apply kept_fold2)
    | (with_reducible first | apply kept_ite | apply goes_next)
    | dsimp -zeta only
    | split

theorem execPalCtlReject_kept {q : List Instr} (d : Desc) (s : State) (hs : Kept q s) :
    Goes q (execPalCtlReject d s) := by
  unfold execPalCtlReject
  repeat' first
    | (with_reducible first | assumption | intro _ | exact kept_mk (by assumption))
    | (with_reducible extract_lets +onlyGivenNames x'; unfold x'; clear x')
    | (with_reducible first | apply palCtl_kept | apply palFall_kept | apply kept_foldl | apply kept_fold1 | apply kept_fold2)
    | (with_reducible first | apply kept_ite | apply goes_next)
    | dsimp -zeta only
    | split

theorem execPalCtlDiscard_kept {q : List Instr} (d : Desc) (s : State) (hs : Kept q s) :
    Goes q (execPalCtlDiscard d s) := by
  unfold execPalCtlDiscard
  repeat' first
    | (with_reducible first | assumption | intro _ | exact kept_mk (by assumption))
    | (with_reducible extract_lets +onlyGivenNames x'; unfold x'; clear x')
    | (with_reducible first | apply palCtl_kept | apply setPalMode_kept | apply setPal_kept | apply kept_foldl)
    | (with_reducible first | apply kept_fold1 | apply kept_fold2 | apply kept_ite | apply goes_next)
    | dsimp -zeta only
    | split

theorem execPalCtlQuery_kept {q : List Instr} (d : Desc) (s : State) (hs : Kept q s) :
    Goes q (execPalCtlQuery d s) := by
  unfold execPalCtlQuery
  repeat' first
    | (with_reducible first | assumption | intro _ | exact kept_mk (by assumption))
    | (with_reducible extract_lets +onlyGivenNames x'; unfold x'; clear x')
    | (with_reducible first | apply commandNow_kept | apply kept_foldl | apply kept_fold1 | apply kept_fold2 | apply kept_ite)
    | (with_reducible first | apply goes_next)
    | dsimp -zeta only
    | split

theorem execPalBlockWritten_kept {q : List Instr} (s : State) (hs : Kept q s) :
    Goes q (execPalBlockWritten s) := by
  unfold execPalBlockWritten
  repeat' first
    | (with_reducible first | assumption | intro _ | exact kept_mk (by assumption))
    | (with_reducible extract_lets +onlyGivenNames x'; unfold x'; clear x')
    | (with_reducible first | apply flSet_kept | apply setPal_kept | apply setFld_kept | apply kept_foldl | apply kept_fold1)
    | (with_reducible first | apply kept_fold2 | apply kept_ite | apply goes_next)
    | dsimp -zeta only
    | split

theorem execPalWriteComplete_kept {q : List Instr} (s : State) (hs : Kept q s) :
    Goes q (execPalWriteComplete s) := by
  unfold execPalWriteComplete
  repeat' first
    | (with_reducible first | assumption | intro _ | exact kept_mk (by assumption))
    | (with_reducible extract_lets +onlyGivenNames x'; unfold x'; clear x')
    | (with_reducible first | apply dirWrite_kept | apply setPalMode_kept | apply setPal_kept | apply palFall_kept)
    | (with_reducible first | apply kept_foldl | apply kept_fold1 | apply kept_fold2 | apply kept_ite | apply goes_next)
    | dsimp -zeta only
    | split

theorem execPalImageStarted_kept {q : List Instr} (s : State) (hs : Kept q s) :
    Goes q (execPalImageStarted s) := by
  unfold execPalImageStarted
  repeat' first
    | (with_reducible first | assumption | intro _ | exact kept_mk (by assumption))
    | (with_reducible extract_lets +onlyGivenNames x'; unfold x'; clear x')
    | (with_reducible first | apply raise_kept | apply setPalMode_kept | apply setPal_kept | apply kept_foldl | apply kept_fold1)
    | (with_reducible first | apply kept_fold2 | apply kept_ite | apply goes_next)
    | dsimp -zeta only
    | split

theorem execPalActivationTimeout_kept {q : List Instr} (s : State) (hs : Kept q s) :
    Goes q (execPalActivationTimeout s) := by
  unfold execPalActivationTimeout
  repeat' first
    | (with_reducible first | assumption | intro _ | exact kept_mk (by assumption))
    | (with_reducible extract_lets +onlyGivenNames x'; unfold x'; clear x')
    | (with_reducible first | apply palFall_kept | apply kept_foldl | apply kept_fold1 | apply kept_fold2 | apply kept_ite)
    | (with_reducible first | apply goes_next)
    | dsimp -zeta only
    | split

theorem execPalTrialExpiry_kept {q : List Instr} (s : State) (hs : Kept q s) :
    Goes q (execPalTrialExpiry s) := by
  unfold execPalTrialExpiry
  repeat' first
    | (with_reducible first | assumption | intro _ | exact kept_mk (by assumption))
    | (with_reducible extract_lets +onlyGivenNames x'; unfold x'; clear x')
    | (with_reducible first | apply palFall_kept | apply kept_foldl | apply kept_fold1 | apply kept_fold2 | apply kept_ite)
    | (with_reducible first | apply goes_next)
    | dsimp -zeta only
    | split

theorem execPalRestoreComplete_kept {q : List Instr} (s : State) (hs : Kept q s) :
    Goes q (execPalRestoreComplete s) := by
  unfold execPalRestoreComplete
  repeat' first
    | (with_reducible first | assumption | intro _ | exact kept_mk (by assumption))
    | (with_reducible extract_lets +onlyGivenNames x'; unfold x'; clear x')
    | (with_reducible first | apply palEnd_kept | apply raise_kept | apply setPalMode_kept | apply replay_kept)
    | (with_reducible first | apply kept_foldl | apply kept_fold1 | apply kept_fold2 | apply kept_ite | apply goes_next)
    | dsimp -zeta only
    | split

theorem execFlRead_kept {q : List Instr} (who : Requester) (s : State) (hs : Kept q s) :
    Goes q (execFlRead who s) := by
  unfold execFlRead
  repeat' first
    | (with_reducible first | assumption | intro _ | exact kept_mk (by assumption))
    | (with_reducible extract_lets +onlyGivenNames x'; unfold x'; clear x')
    | (with_reducible first | apply access_kept | apply flStart_kept | apply kept_foldl | apply kept_fold1 | apply kept_fold2)
    | (with_reducible first | apply kept_ite | apply goes_next)
    | dsimp -zeta only
    | split

theorem execFlProgram_kept {q : List Instr} (who : Requester) (s : State) (hs : Kept q s) :
    Goes q (execFlProgram who s) := by
  unfold execFlProgram
  repeat' first
    | (with_reducible first | assumption | intro _ | exact kept_mk (by assumption))
    | (with_reducible extract_lets +onlyGivenNames x'; unfold x'; clear x')
    | (with_reducible first | apply access_kept | apply flStart_kept | apply kept_foldl | apply kept_fold1 | apply kept_fold2)
    | (with_reducible first | apply kept_ite | apply goes_next)
    | dsimp -zeta only
    | split

theorem execFlErase_kept {q : List Instr} (who : Requester) (s : State) (hs : Kept q s) :
    Goes q (execFlErase who s) := by
  unfold execFlErase
  repeat' first
    | (with_reducible first | assumption | intro _ | exact kept_mk (by assumption))
    | (with_reducible extract_lets +onlyGivenNames x'; unfold x'; clear x')
    | (with_reducible first | apply access_kept | apply flStart_kept | apply kept_foldl | apply kept_fold1 | apply kept_fold2)
    | (with_reducible first | apply kept_ite | apply goes_next)
    | dsimp -zeta only
    | split

theorem execFlAccessComplete_kept {q : List Instr} (s : State) (hs : Kept q s) :
    Goes q (execFlAccessComplete s) := by
  unfold execFlAccessComplete
  repeat' first
    | with_reducible assumption
    | with_reducible refine kept_some ?_
    | with_reducible refine kept_some1 ?_
    | with_reducible exact kept_none
    | with_reducible exact kept_none1
    | with_reducible refine kept_map ?_
    | with_reducible intro _
    | with_reducible exact kept_mk (by with_reducible assumption)
    | (with_reducible extract_lets +onlyGivenNames x'; refine kept_cut q x' ?_ ?_; (focus (unfold x'; clear x')); rotate_left; (focus (intro _; clear_value x')))
    | (with_reducible extract_lets +onlyGivenNames x'; refine kept_cut1 q x' ?_ ?_; (focus (unfold x'; clear x')); rotate_left; (focus (intro _; clear_value x')))
    | (with_reducible extract_lets +onlyGivenNames x'; refine kept_cut2 q x' ?_ ?_; (focus (unfold x'; clear x')); rotate_left; (focus (intro _; clear_value x')))
    | (with_reducible extract_lets +onlyGivenNames x'; unfold x'; clear x')
    | with_reducible apply setPal_kept
    | with_reducible apply unpoison_kept
    | with_reducible apply setBytes_kept
    | with_reducible apply flSet_kept
    | with_reducible apply raise_kept
    | with_reducible apply wrN_kept
    | with_reducible apply kept_foldl
    | with_reducible apply kept_fold1
    | with_reducible apply kept_fold2
    | with_reducible apply kept_ite
    | with_reducible apply kept_getD
    | with_reducible apply kept_getD1
    | with_reducible apply goes_next
    | dsimp -zeta only
    | split

end Sys2Proof.Machine
end

