-- ==== Sys2Proof/Laws/KeptBoot.lean ====
section
/-! SUPPORT. What the operations of Boot keep. -/

namespace Sys2Proof.Machine
open Sys2Proof

set_option linter.all false

theorem afterReset_kept {q : List Instr} (s : State) (keeps : Nat → Bool) (hs : Kept q s) :
    Kept q (State.afterReset s keeps) := by
  unfold State.afterReset
  dsimp only
  exact setFld_kept _ _ _ _ _ (setHost_kept _ _ (setPal_kept _ _ (setChp_kept _ _ (kept_filter hs rfl ⟨_, rfl⟩ ⟨_, rfl⟩))))

theorem bootStop_kept {q : List Instr} (s : State) (rcv : Nat) (hs : Kept q s) :
    Kept q (State.bootStop s rcv) := by
  unfold State.bootStop
  repeat' first
    | (with_reducible first | assumption | intro _ | exact kept_mk (by assumption))
    | (with_reducible extract_lets +onlyGivenNames x'; unfold x'; clear x')
    | (with_reducible first | apply setBit_kept | apply setHost_kept | apply setPal_kept | apply kept_foldl | apply kept_fold1)
    | (with_reducible first | apply kept_fold2 | apply kept_ite | apply goes_next)
    | dsimp -zeta only
    | split

theorem measure_kept {q : List Instr} (s : State) (c : Nat) (svn : Nat) (col : List Byte) (hs : Kept q s) :
    Kept q (State.measure s c svn col) := by
  unfold State.measure
  repeat' first
    | (with_reducible first | assumption | intro _ | exact kept_mk (by assumption))
    | (with_reducible extract_lets +onlyGivenNames x'; unfold x'; clear x')
    | (with_reducible first | apply wrN_kept | apply advance_kept | apply kept_foldl | apply kept_fold1 | apply kept_fold2)
    | (with_reducible first | apply kept_ite | apply goes_next)
    | dsimp -zeta only
    | split

theorem bootImages_kept {q : List Instr} (s : State) (x1 : List Nat) (hs : Kept q s) :
    Kept q (State.bootImages s x1).1 := by
  induction x1 generalizing s with
  | nil => exact hs
  | cons c r ih =>
    unfold State.bootImages
    extract_lets col
    clear_value col
    split
    · exact ih _ (measure_kept _ _ _ _ hs)
    · exact hs

theorem bootChain_kept {q : List Instr} (s : State) (hs : Kept q s) :
    Kept q (State.bootChain s) := by
  unfold State.bootChain
  repeat' first
    | (with_reducible first | assumption | intro _ | exact kept_mk (by assumption))
    | (with_reducible extract_lets +onlyGivenNames x'; unfold x'; clear x')
    | (with_reducible first | apply bootStop_kept | apply setHost_kept | apply bootImages_kept | apply kept_foldl)
    | (with_reducible first | apply kept_fold1 | apply kept_fold2 | apply kept_ite | apply goes_next)
    | dsimp -zeta only
    | split

theorem fabricBoot_kept {q : List Instr} (s : State) (hs : Kept q s) :
    Kept q (State.fabricBoot s) := by
  unfold State.fabricBoot
  repeat' first
    | (with_reducible first | assumption | intro _ | exact kept_mk (by assumption))
    | (with_reducible extract_lets +onlyGivenNames x'; unfold x'; clear x')
    | (with_reducible first | apply setBit_kept | apply setFld_kept | apply wrN_kept | apply setPort_kept | apply takeId_kept)
    | (with_reducible first | apply kept_foldl | apply kept_fold1 | apply kept_fold2 | apply kept_ite | apply goes_next)
    | dsimp -zeta only
    | split

theorem bootLoad_kept {q : List Instr} (s : State) (rs : List VRec) (hs : Kept q s) :
    Kept q (State.bootLoad s rs) := by
  unfold State.bootLoad
  repeat' first
    | (with_reducible first | assumption | intro _ | exact kept_mk (by assumption))
    | (with_reducible extract_lets +onlyGivenNames x'; unfold x'; clear x')
    | (with_reducible first | apply withLive_kept | apply shareChange_kept | apply gridChange_kept | apply bindChange_kept)
    | (with_reducible first | apply calLoad_kept | apply releaseChannels_kept | apply routeAll_kept | apply fabricBoot_kept)
    | (with_reducible first | apply kept_foldl | apply kept_fold1 | apply kept_fold2 | apply kept_ite | apply goes_next)
    | dsimp -zeta only
    | split

theorem bootVellumFails_kept {q : List Instr} (s : State) (f : VFault) (hs : Kept q s) :
    Kept q (State.bootVellumFails s f) := by
  unfold State.bootVellumFails
  repeat' first
    | (with_reducible first | assumption | intro _ | exact kept_mk (by assumption))
    | (with_reducible extract_lets +onlyGivenNames x'; unfold x'; clear x')
    | (with_reducible first | apply bootStop_kept | apply wrN_kept | apply kept_foldl | apply kept_fold1 | apply kept_fold2)
    | (with_reducible first | apply kept_ite | apply goes_next)
    | dsimp -zeta only
    | split

theorem execColdReset_kept {q : List Instr} (mode : BitVec 2) (refSel : Bool) (s : State) (hs : Kept q s) :
    Goes q (execColdReset mode refSel s) := by
  unfold execColdReset
  repeat' first
    | (with_reducible first | assumption | intro _ | exact kept_mk (by assumption))
    | (with_reducible extract_lets +onlyGivenNames x'; unfold x'; clear x')
    | (with_reducible first | apply afterReset_kept | apply setHost_kept | apply palBoot_kept | apply setPal_kept)
    | (with_reducible first | apply setChpMode_kept | apply kept_foldl | apply kept_fold1 | apply kept_fold2 | apply kept_ite)
    | (with_reducible first | apply goes_next)
    | dsimp -zeta only
    | split

theorem execBootBistComplete_kept {q : List Instr} (fatal : Bool) (logic : List (Fin 64)) (fails : BitVec 8) (repaired : BitVec 8) (fences : List (Nat × Nat)) (banks : List (Nat × Nat)) (s : State) (hs : Kept q s) :
    Goes q (execBootBistComplete fatal logic fails repaired fences banks s) := by
  unfold execBootBistComplete
  repeat' first
    | (with_reducible first | assumption | intro _ | exact kept_mk (by assumption))
    | (with_reducible extract_lets +onlyGivenNames x'; unfold x'; clear x')
    | (with_reducible first | apply setBit_kept | apply setHost_kept | apply wrN_kept | apply raise_kept | apply notice_kept)
    | (with_reducible first | apply showFenced_kept | apply fenceUnit_kept | apply bootChain_kept | apply kept_foldl)
    | (with_reducible first | apply kept_fold1 | apply kept_fold2 | apply kept_ite | apply goes_next)
    | dsimp -zeta only
    | split

theorem execMemoryInitialisation_kept {q : List Instr} (s : State) (hs : Kept q s) :
    Goes q (execMemoryInitialisation s) := by
  exact goes_next (kept_filter hs rfl ⟨_, rfl⟩ ⟨fun _ => true, by simp [State.setHost]⟩)

theorem execBootVellumApply_kept {q : List Instr} (s : State) (hs : Kept q s) :
    Goes q (execBootVellumApply s) := by
  unfold execBootVellumApply
  repeat' first
    | (with_reducible first | assumption | intro _ | exact kept_mk (by assumption))
    | (with_reducible extract_lets +onlyGivenNames x'; unfold x'; clear x')
    | (with_reducible first | apply bootVellumFails_kept | apply measure_kept | apply wrN_kept | apply wr_kept)
    | (with_reducible first | apply bootLoad_kept | apply realmTo_kept | apply setHost_kept | apply kept_foldl)
    | (with_reducible first | apply kept_fold1 | apply kept_fold2 | apply kept_ite | apply goes_next)
    | dsimp -zeta only
    | split

theorem execWarmReset_kept {q : List Instr} (pin : Bool) (s : State) (hs : Kept q s) :
    Goes q (execWarmReset pin s) := by
  unfold execWarmReset
  repeat' first
    | (with_reducible first | assumption | intro _ | exact kept_mk (by assumption))
    | (with_reducible extract_lets +onlyGivenNames x'; unfold x'; clear x')
    | (with_reducible first | apply afterReset_kept | apply setHost_kept | apply setChp_kept | apply wr_kept)
    | (with_reducible first | apply setRunning_kept | apply palBoot_kept | apply setChpMode_kept | apply kept_foldl)
    | (with_reducible first | apply kept_fold1 | apply kept_fold2 | apply kept_ite | apply kept_elim | apply goes_next)
    | dsimp -zeta only
    | split

end Sys2Proof.Machine
end

