-- ==== Sys2Proof/Laws/KeptFerrule.lean ====
section
/-! SUPPORT. What the operations of Ferrule keep. -/

namespace Sys2Proof.Machine
open Sys2Proof

set_option linter.all false

theorem freeMatrix_kept {q : List Instr} (s : State) (d : MDesc) (hs : Kept q s) :
    Kept q (State.freeMatrix s d) := by
  unfold State.freeMatrix
  repeat' first
    | (with_reducible first | assumption | intro _ | exact kept_mk (by assumption))
    | (with_reducible extract_lets +onlyGivenNames x'; unfold x'; clear x')
    | (with_reducible first | apply freeBytes_kept | apply setBytes_kept | apply kept_foldl | apply kept_fold1)
    | (with_reducible first | apply kept_fold2 | apply kept_ite | apply goes_next)
    | dsimp -zeta only
    | split

theorem ferCompute_kept {q : List Instr} (s : State) (f : Nat) (j : FerJob) (m : Nat) (n : Nat) (k : Nat) (hs : Kept q s) :
    Kept q (State.ferCompute s f j m n k).1 := by
  unfold State.ferCompute
  repeat' first
    | (with_reducible first | assumption | refine kept_some ?_ | refine kept_some1 ?_ | exact kept_none | exact kept_none1)
    | (with_reducible first | refine kept_map ?_ | intro _ | exact kept_mk (by assumption))
    | (with_reducible extract_lets +onlyGivenNames x'; unfold x'; clear x')
    | (with_reducible first | apply store_kept | apply setBit_kept | apply freeMatrix_kept | apply free1_kept | apply kept_foldl)
    | (with_reducible first | apply kept_fold1 | apply kept_fold2 | apply kept_ite | apply goes_next)
    | dsimp -zeta only
    | split

theorem ferPop_kept {q : List Instr} (s : State) (f : Nat) (hs : Kept q s) :
    Kept q (State.ferPop s f) := by
  unfold State.ferPop
  repeat' first
    | (with_reducible first | assumption | intro _ | exact kept_mk (by assumption))
    | (with_reducible extract_lets +onlyGivenNames x'; unfold x'; clear x')
    | (with_reducible first | apply ferShow_kept | apply setFer_kept | apply kept_foldl | apply kept_fold1 | apply kept_fold2)
    | (with_reducible first | apply kept_ite | apply goes_next)
    | dsimp -zeta only
    | split

theorem ferFail_kept {q : List Instr} (s : State) (f : Nat) (j : FerJob) (status : Nat) (addr : Nat) (hs : Kept q s) :
    Kept q (State.ferFail s f j status addr) := by
  unfold State.ferFail
  repeat' first
    | (with_reducible first | assumption | intro _ | exact kept_mk (by assumption))
    | (with_reducible extract_lets +onlyGivenNames x'; unfold x'; clear x')
    | (with_reducible first | apply free1_kept | apply freeMatrix_kept | apply ferTagEnd_kept | apply ferPop_kept)
    | (with_reducible first | apply ferError_kept | apply ferAbortAll_kept | apply bump_kept | apply kept_foldl)
    | (with_reducible first | apply kept_fold1 | apply kept_fold2 | apply kept_ite | apply goes_next)
    | dsimp -zeta only
    | split

theorem ferQueue_kept {q : List Instr} (s : State) (f : Nat) (v : Nat) (hs : Kept q s) :
    Kept q (State.ferQueue s f v) := by
  unfold State.ferQueue
  repeat' first
    | (with_reducible first | assumption | intro _ | exact kept_mk (by assumption))
    | (with_reducible extract_lets +onlyGivenNames x'; unfold x'; clear x')
    | (with_reducible first | apply setBit_kept | apply ferShow_kept | apply setFer_kept | apply kept_foldl | apply kept_fold1)
    | (with_reducible first | apply kept_fold2 | apply kept_ite | apply goes_next)
    | dsimp -zeta only
    | split

theorem execFerruleCommandComplete_kept {q : List Instr} (f : Fin 16) (stall : W32) (s : State) (hs : Kept q s) :
    Goes q (execFerruleCommandComplete f stall s) := by
  unfold execFerruleCommandComplete
  repeat' first
    | (with_reducible first | assumption | refine kept_some ?_ | refine kept_some1 ?_ | exact kept_none | exact kept_none1)
    | (with_reducible first | refine kept_map ?_ | intro _ | exact kept_mk (by assumption))
    | (with_reducible extract_lets +onlyGivenNames x'; unfold x'; clear x')
    | (with_reducible first | apply ferFail_kept | apply ferCompute_kept | apply ferQueue_kept | apply ferTagEnd_kept)
    | (with_reducible first | apply ferPop_kept | apply bump_kept | apply ferOrphan_kept | apply nibRetry_kept)
    | (with_reducible first | apply kept_foldl | apply kept_fold1 | apply kept_fold2 | apply kept_ite | apply kept_getD)
    | (with_reducible first | apply kept_getD1 | apply goes_next)
    | dsimp -zeta only
    | split

end Sys2Proof.Machine
end

