-- ==== Sys2Proof/Laws/KeptVellum.lean ====
section
/-! SUPPORT. What the operations of Vellum keep. -/

namespace Sys2Proof.Machine
open Sys2Proof

set_option linter.all false

theorem applyBack_kept {q : List Instr} (s : State) (r : Nat) (hs : Kept q s) :
    Kept q (State.applyBack s r) := by
  unfold State.applyBack
  repeat' first
    | (with_reducible first | assumption | intro _ | exact kept_mk (by assumption))
    | (with_reducible extract_lets +onlyGivenNames x'; unfold x'; clear x')
    | (with_reducible first | apply realmTo_kept | apply kept_foldl | apply kept_fold1 | apply kept_fold2 | apply kept_ite)
    | (with_reducible first | apply goes_next)
    | dsimp -zeta only
    | split

theorem lockReplace_kept {q : List Instr} (s : State) (kind : Nat) (unit : Nat) (hs : Kept q s) :
    Kept q (State.lockReplace s kind unit) := by
  unfold State.lockReplace
  repeat' first
    | (with_reducible first | assumption | intro _ | exact kept_mk (by assumption))
    | (with_reducible extract_lets +onlyGivenNames x'; unfold x'; clear x')
    | (with_reducible first | apply setOrd_kept | apply replaceTask_kept | apply setFolio_kept | apply kept_foldl)
    | (with_reducible first | apply kept_fold1 | apply kept_fold2 | apply kept_ite | apply goes_next)
    | dsimp -zeta only
    | split

theorem stopEnd_kept {q : List Instr} (s : State) (r : Nat) (now : Nat) (hs : Kept q s) :
    Kept q (State.stopEnd s r now) := by
  unfold State.stopEnd
  repeat' first
    | (with_reducible first | assumption | intro _ | exact kept_mk (by assumption))
    | (with_reducible extract_lets +onlyGivenNames x'; unfold x'; clear x')
    | (with_reducible first | apply slotEnd_kept | apply setVlm_kept | apply kept_foldl | apply kept_fold1 | apply kept_fold2)
    | (with_reducible first | apply kept_ite | apply goes_next)
    | dsimp -zeta only
    | split

theorem execRegisterWrite_kept {q : List Instr} (who : Requester) (addr : BitVec 48) (bytes : Nat) (value : BitVec 64) (s : State) (hs : Kept q s) :
    Goes q (execRegisterWrite who addr bytes value s) := by
  unfold execRegisterWrite
  repeat' first
    | (with_reducible first | assumption | intro _ | exact kept_mk (by assumption))
    | (with_reducible extract_lets +onlyGivenNames x'; unfold x'; clear x')
    | (with_reducible first | apply holdOr_kept | apply kept_foldl | apply kept_fold1 | apply kept_fold2 | apply kept_ite)
    | (with_reducible first | apply goes_next)
    | dsimp -zeta only
    | split

theorem execTailWrite_kept {q : List Instr} (who : Requester) (ring : RingId) (value : W32) (s : State) (hs : Kept q s) :
    Goes q (execTailWrite who ring value s) := by
  unfold execTailWrite
  repeat' first
    | (with_reducible first | assumption | intro _ | exact kept_mk (by assumption))
    | (with_reducible extract_lets +onlyGivenNames x'; unfold x'; clear x')
    | (with_reducible first | apply access_kept | apply ringTailWrite_kept | apply kept_foldl | apply kept_fold1)
    | (with_reducible first | apply kept_fold2 | apply kept_ite | apply goes_next)
    | dsimp -zeta only
    | split

theorem execRingCfgWrite_kept {q : List Instr} (who : Requester) (ring : RingId) (value : W32) (s : State) (hs : Kept q s) :
    Goes q (execRingCfgWrite who ring value s) := by
  unfold execRingCfgWrite
  repeat' first
    | (with_reducible first | assumption | intro _ | exact kept_mk (by assumption))
    | (with_reducible extract_lets +onlyGivenNames x'; unfold x'; clear x')
    | (with_reducible first | apply accessHeld_kept | apply ringCfgWrite_kept | apply kept_foldl | apply kept_fold1)
    | (with_reducible first | apply kept_fold2 | apply kept_ite | apply goes_next)
    | dsimp -zeta only
    | split

theorem execVlmStage_kept {q : List Instr} (d : Desc) (s : State) (hs : Kept q s) :
    Goes q (execVlmStage d s) := by
  exact goes_next (command_kept _ _ _ _ _ (fun _ h => h) hs)

theorem execVlmStageComplete_kept {q : List Instr} (slot : SlotId) (s : State) (hs : Kept q s) :
    Goes q (execVlmStageComplete slot s) := by
  unfold execVlmStageComplete
  repeat' first
    | (with_reducible first | assumption | intro _ | exact kept_mk (by assumption))
    | (with_reducible extract_lets +onlyGivenNames x'; unfold x'; clear x')
    | (with_reducible first | apply slotEnd_kept | apply setStaged_kept | apply kept_foldl | apply kept_fold1 | apply kept_fold2)
    | (with_reducible first | apply kept_ite | apply kept_getD | apply kept_getD1 | apply goes_next)
    | dsimp -zeta only
    | split

theorem execVlmDiscard_kept {q : List Instr} (d : Desc) (s : State) (hs : Kept q s) :
    Goes q (execVlmDiscard d s) := by
  unfold execVlmDiscard
  repeat' first
    | (with_reducible first | assumption | intro _ | exact kept_mk (by assumption))
    | (with_reducible extract_lets +onlyGivenNames x'; unfold x'; clear x')
    | (with_reducible first | apply commandNow_kept | apply setStaged_kept | apply kept_foldl | apply kept_fold1)
    | (with_reducible first | apply kept_fold2 | apply kept_ite | apply goes_next)
    | dsimp -zeta only
    | split

theorem execRealmStart_kept {q : List Instr} (d : Desc) (s : State) (hs : Kept q s) :
    Goes q (execRealmStart d s) := by
  unfold execRealmStart
  repeat' first
    | (with_reducible first | assumption | intro _ | exact kept_mk (by assumption))
    | (with_reducible extract_lets +onlyGivenNames x'; unfold x'; clear x')
    | (with_reducible first | apply commandNow_kept | apply realmTo_kept | apply kept_foldl | apply kept_fold1)
    | (with_reducible first | apply kept_fold2 | apply kept_ite | apply goes_next)
    | dsimp -zeta only
    | split

theorem execRealmStop_kept {q : List Instr} (d : Desc) (s : State) (hs : Kept q s) :
    Goes q (execRealmStop d s) := by
  unfold execRealmStop
  repeat' first
    | (with_reducible first | assumption | intro _ | exact kept_mk (by assumption))
    | (with_reducible extract_lets +onlyGivenNames x'; unfold x'; clear x')
    | (with_reducible first | apply command_kept | apply folioAbort_kept | apply realmTo_kept | apply setVlm_kept)
    | (with_reducible first | apply kept_foldl | apply kept_fold1 | apply kept_fold2 | apply kept_ite | apply goes_next)
    | dsimp -zeta only
    | split

theorem execRealmStopped_kept {q : List Instr} (r : Fin 16) (s : State) (hs : Kept q s) :
    Goes q (execRealmStopped r s) := by
  unfold execRealmStopped
  repeat' first
    | (with_reducible first | assumption | intro _ | exact kept_mk (by assumption))
    | (with_reducible extract_lets +onlyGivenNames x'; unfold x'; clear x')
    | (with_reducible first | apply setPwr_kept | apply stopEnd_kept | apply realmTo_kept | apply kept_foldl | apply kept_fold1)
    | (with_reducible first | apply kept_fold2 | apply kept_ite | apply goes_next)
    | dsimp -zeta only
    | split

theorem execRealmReset_kept {q : List Instr} (d : Desc) (s : State) (hs : Kept q s) :
    Goes q (execRealmReset d s) := by
  unfold execRealmReset
  repeat' first
    | (with_reducible first | assumption | intro _ | exact kept_mk (by assumption))
    | (with_reducible extract_lets +onlyGivenNames x'; unfold x'; clear x')
    | (with_reducible first | apply commandNow_kept | apply realmReset_kept | apply realmUnlock_kept | apply stopEnd_kept)
    | (with_reducible first | apply realmTo_kept | apply kept_foldl | apply kept_fold1 | apply kept_fold2 | apply kept_ite)
    | (with_reducible first | apply goes_next)
    | dsimp -zeta only
    | split

theorem execRealmQuery_kept {q : List Instr} (d : Desc) (s : State) (hs : Kept q s) :
    Goes q (execRealmQuery d s) := by
  unfold execRealmQuery
  repeat' first
    | (with_reducible first | assumption | intro _ | exact kept_mk (by assumption))
    | (with_reducible extract_lets +onlyGivenNames x'; unfold x'; clear x')
    | (with_reducible first | apply commandNow_kept | apply kept_foldl | apply kept_fold1 | apply kept_fold2 | apply kept_ite)
    | (with_reducible first | apply kept_elim | apply goes_next)
    | dsimp -zeta only
    | split

theorem execRealmApply_kept {q : List Instr} (d : Desc) (s : State) (hs : Kept q s) :
    Goes q (execRealmApply d s) := by
  unfold execRealmApply
  repeat' first
    | (with_reducible first | assumption | intro _ | exact kept_mk (by assumption))
    | (with_reducible extract_lets +onlyGivenNames x'; unfold x'; clear x')
    | (with_reducible first | apply command_kept | apply setVlm_kept | apply realmTo_kept | apply kept_foldl | apply kept_fold1)
    | (with_reducible first | apply kept_fold2 | apply kept_ite | apply goes_next)
    | dsimp -zeta only
    | split

theorem execRealmApplyExecute_kept {q : List Instr} (s : State) (hs : Kept q s) :
    Goes q (execRealmApplyExecute s) := by
  unfold execRealmApplyExecute
  split
  · exact goes_next hs
  · split
    · exact goes_next hs
    · extract_lets r bs serial t v fail
      have ht : Kept q t := setStaged_kept _ _ _ hs
      have hf : ∀ f, Kept q (fail f) := fun f => slotEnd_kept _ _ _ _ (applyBack_kept _ _ (setVlm_kept _ _ ht))
      clear_value t fail
      split
      · exact goes_next (hf _)
      · split
        · exact goes_next (hf _)
        · exact goes_next (setVlm_kept _ _ (applyClaim_kept _ _ _ ht))

theorem execRealmApplyComplete_kept {q : List Instr} (fault : BitVec 8) (s : State) (hs : Kept q s) :
    Goes q (execRealmApplyComplete fault s) := by
  unfold execRealmApplyComplete
  repeat' first
    | (with_reducible first | assumption | intro _ | exact kept_mk (by assumption))
    | (with_reducible extract_lets +onlyGivenNames x'; unfold x'; clear x')
    | (with_reducible first | apply applyLoad_kept | apply bump_kept | apply wrN_kept | apply setVlm_kept | apply applyBack_kept)
    | (with_reducible first | apply realmTo_kept | apply slotEnd_kept | apply kept_foldl | apply kept_fold1 | apply kept_fold2)
    | (with_reducible first | apply kept_ite | apply goes_next)
    | dsimp -zeta only
    | split

theorem execExpertAcquire_kept {q : List Instr} (d : Desc) (s : State) (hs : Kept q s) :
    Goes q (execExpertAcquire d s) := by
  unfold execExpertAcquire
  repeat' first
    | (with_reducible first | assumption | intro _ | exact kept_mk (by assumption))
    | (with_reducible extract_lets +onlyGivenNames x'; unfold x'; clear x')
    | (with_reducible first | apply command_kept | apply setVlm_kept | apply kept_foldl | apply kept_fold1 | apply kept_fold2)
    | (with_reducible first | apply kept_ite | apply goes_next)
    | dsimp -zeta only
    | split

theorem execExpertLockSet_kept {q : List Instr} (inst : BitVec 12) (s : State) (hs : Kept q s) :
    Goes q (execExpertLockSet inst s) := by
  unfold execExpertLockSet
  repeat' first
    | (with_reducible first | assumption | intro _ | exact kept_mk (by assumption))
    | (with_reducible extract_lets +onlyGivenNames x'; unfold x'; clear x')
    | (with_reducible first | apply setVlm_kept | apply lockSet_kept | apply lockReplace_kept | apply slotEnd_kept)
    | (with_reducible first | apply kept_foldl | apply kept_fold1 | apply kept_fold2 | apply kept_ite | apply kept_elim)
    | (with_reducible first | apply goes_next)
    | dsimp -zeta only
    | split

theorem execExpertRelease_kept {q : List Instr} (d : Desc) (s : State) (hs : Kept q s) :
    Goes q (execExpertRelease d s) := by
  unfold execExpertRelease
  repeat' first
    | (with_reducible first | assumption | intro _ | exact kept_mk (by assumption))
    | (with_reducible extract_lets +onlyGivenNames x'; unfold x'; clear x')
    | (with_reducible first | apply commandNow_kept | apply lockDrop_kept | apply kept_foldl | apply kept_fold1)
    | (with_reducible first | apply kept_fold2 | apply kept_ite | apply goes_next)
    | dsimp -zeta only
    | split

theorem execUnassignedOpcode_kept {q : List Instr} (j : Job) (s : State) (hs : Kept q s) :
    Goes q (execUnassignedOpcode j s) := by
  unfold execUnassignedOpcode
  repeat' first
    | (with_reducible first | assumption | intro _ | exact kept_mk (by assumption))
    | (with_reducible extract_lets +onlyGivenNames x'; unfold x'; clear x')
    | (with_reducible first | apply complete_kept | apply bumpSat_kept | apply scribeStart_kept | apply poolJob_kept)
    | (with_reducible first | apply kept_foldl | apply kept_fold1 | apply kept_fold2 | apply kept_ite | apply goes_next)
    | dsimp -zeta only
    | split

theorem execRcFieldRead_kept {q : List Instr} (who : Requester) (addr : BitVec 48) (bytes : Nat) (s : State) (hs : Kept q s) :
    Goes q (execRcFieldRead who addr bytes s) := by
  unfold execRcFieldRead
  repeat' first
    | (with_reducible first | assumption | intro _ | exact kept_mk (by assumption))
    | (with_reducible extract_lets +onlyGivenNames x'; unfold x'; clear x')
    | (with_reducible first | apply holdOr_kept | apply kept_foldl | apply kept_fold1 | apply kept_fold2 | apply kept_ite)
    | (with_reducible first | apply goes_next)
    | dsimp -zeta only
    | split

end Sys2Proof.Machine
end

