-- ==== Sys2Proof/Laws/KeptNsp.lean ====
section
/-! SUPPORT. What the operations of Nsp keep. -/

namespace Sys2Proof.Machine
open Sys2Proof

set_option linter.all false

theorem all_one {q : List Instr} {f : State → Out} {r : List (State → Out)} (h : ∀ s, Kept q s → Goes q (f s))
    (k : ∀ m ∈ r, ∀ s, Kept q s → Goes q (m s)) : ∀ m ∈ f :: r, ∀ s, Kept q s → Goes q (m s) := by
  intro m hm
  rcases List.mem_cons.mp hm with rfl | h'
  · exact h
  · exact k m h'

theorem all_nil {q : List Instr} : ∀ m ∈ ([] : List (State → Out)), ∀ s, Kept q s → Goes q (m s) := by
  intro m hm
  cases hm

/-- Every meaning an operation code can have goes on and keeps the queue, memory and registers. -/
theorem opMeanings_kept {q : List Instr} (op : Nat) (d : Desc) : ∀ m ∈ opMeanings op d, ∀ s, Kept q s → Goes q (m s) := by
  unfold opMeanings
  split
  · exact all_one (fun _ => execVlmStage_kept _ _) all_nil
  · exact all_one (fun _ => execVlmDiscard_kept _ _) all_nil
  · exact all_one (fun _ => execRealmStart_kept _ _) all_nil
  · exact all_one (fun _ => execRealmStop_kept _ _) all_nil
  · exact all_one (fun _ => execRealmApply_kept _ _) all_nil
  · exact all_one (fun _ => execRealmReset_kept _ _) all_nil
  · exact all_one (fun _ => execRealmQuery_kept _ _) all_nil
  · exact all_one (fun _ => execExpertAcquire_kept _ _) all_nil
  · exact all_one (fun _ => execExpertRelease_kept _ _) all_nil
  · exact all_one (fun _ => execFolioSubmit_kept _ _) all_nil
  · exact all_one (fun _ => execFolioCancel_kept _ _) all_nil
  · exact all_one (fun _ => execFolioQuery_kept _ _) all_nil
  · exact all_one (fun _ => execOrdPin_kept _ _) all_nil
  · exact all_one (fun _ => execOrdConfig_kept _ _) all_nil
  · exact all_one (fun _ => execOrdQuery_kept _ _) all_nil
  · exact all_one (fun _ => execOrdTrace_kept _ _) all_nil
  · exact all_one (fun _ => execThreadCreate_kept _ _) all_nil
  · exact all_one (fun _ => execThreadStart_kept _ _) all_nil
  · exact all_one (fun _ => execThreadSuspend_kept _ _) all_nil
  · exact all_one (fun _ => execThreadResume_kept _ _) all_nil
  · exact all_one (fun _ => execThreadKill_kept _ _) all_nil
  · exact all_one (fun _ => execThreadPrio_kept _ _) all_nil
  · exact all_one (fun _ => execThreadQuery_kept _ _) all_nil
  · exact all_one (fun _ => execSemAlloc_kept _ _) all_nil
  · exact all_one (fun _ => execSemFree_kept _ _) all_nil
  · exact all_one (fun _ => execSemPost_kept _ _) all_nil
  · exact all_one (fun _ => execFlagAlloc_kept _ _) all_nil
  · exact all_one (fun _ => execFlagFree_kept _ _) all_nil
  · exact all_one (fun _ => execFlagSet_kept _ _) all_nil
  · exact all_one (fun _ => execTickConfig_kept _ _) all_nil
  · exact all_one (fun _ => execDucTrace_kept _ _) all_nil
  · exact all_one (fun _ => execDucQuery_kept _ _) all_nil
  · exact all_one (fun _ => execTbQuery_kept _ _) all_nil
  · exact all_one (fun _ => execTbDisciplineStart_kept _ _) (all_one (fun _ => execTbDisciplineStop_kept _ _) all_nil)
  · exact all_one (fun _ => execTbStep_kept _ _) all_nil
  · exact all_one (fun _ => execTbFreq_kept _ _) all_nil
  · exact all_one (fun _ => execGridQuery_kept _ _) all_nil
  · exact all_one (fun _ => execGridOffset_kept _ _) all_nil
  · exact all_one (fun _ => execTrgAlloc_kept _ _) all_nil
  · exact all_one (fun _ => execTrgArm_kept _ _) all_nil
  · exact all_one (fun _ => execTrgDisarm_kept _ _) all_nil
  · exact all_one (fun _ => execTrgFree_kept _ _) all_nil
  · exact all_one (fun _ => execTrgQuery_kept _ _) all_nil
  · exact all_one (fun _ => execSnapRequest_kept _ _) all_nil
  · exact all_one (fun _ => execCapRead_kept _ _) all_nil
  · exact all_one (fun _ => execTioConfig_kept _ _) all_nil
  · exact all_one (fun _ => execSynceSelect_kept _ _) all_nil
  · exact all_one (fun _ => execAccQuery_kept _ _) all_nil
  · exact all_one (fun _ => execRingConfig_kept _ _) all_nil
  · exact all_one (fun _ => execHarqLookup_kept _ _) all_nil
  · exact all_one (fun _ => execHarqFree_kept _ _) all_nil
  · exact all_one (fun _ => execHarqFreeUe_kept _ _) all_nil
  · exact all_one (fun _ => execHarqUsage_kept _ _) all_nil
  · exact all_one (fun _ => execRaRing_kept _ _) all_nil
  · exact all_one (fun _ => execRaConfig_kept _ _) all_nil
  · exact all_one (fun _ => execRaThresh_kept _ _) all_nil
  · exact all_one (fun _ => execRaQuery_kept _ _) all_nil
  · exact all_one (fun _ => execRaAbort_kept _ _) all_nil
  · exact all_one (fun _ => execMemQuery_kept _ _) all_nil
  · exact all_one (fun _ => execMemScrub_kept _ _) all_nil
  · exact all_one (fun _ => execNocStat_kept _ _) all_nil
  · exact all_one (fun _ => execNocLinkTest_kept _ _) all_nil
  · exact all_one (fun _ => execNocQuery_kept _ _) all_nil
  · exact all_one (fun _ => execNocLinkRestore_kept _ _) all_nil
  · exact all_one (fun _ => execEthConfig_kept _ _) all_nil
  · exact all_one (fun _ => execEthQuery_kept _ _) all_nil
  · exact all_one (fun _ => execFhStream_kept _ _) all_nil
  · exact all_one (fun _ => execFhWindow_kept _ _) all_nil
  · exact all_one (fun _ => execFhRing_kept _ _) all_nil
  · exact all_one (fun _ => execFhHdr_kept _ _) all_nil
  · exact all_one (fun _ => execMacsecSa_kept _ _) all_nil
  · exact all_one (fun _ => execEthCal_kept _ _) all_nil
  · exact all_one (fun _ => execJesLink_kept _ _) all_nil
  · exact all_one (fun _ => execJesQuery_kept _ _) all_nil
  · exact all_one (fun _ => execDfePath_kept _ _) all_nil
  · exact all_one (fun _ => execDfePathCtlArm_kept _ _) (all_one (fun _ => execDfePathCtlStop_kept _ _) (all_one (fun _ => execDfePathCtlCommit_kept _ _) all_nil))
  · exact all_one (fun _ => execDfeCfr_kept _ _) all_nil
  · exact all_one (fun _ => execDfeMask_kept _ _) all_nil
  · exact all_one (fun _ => execPaProgram_kept _ _) all_nil
  · exact all_one (fun _ => execPaReqUp_kept _ _) (all_one (fun _ => execPaReqDown_kept _ _) (all_one (fun _ => execPaReqMute_kept _ _) (all_one (fun _ => execPaReqTest_kept _ _) (all_one (fun _ => execPaReqClear_kept _ _) all_nil))))
  · exact all_one (fun _ => execFabQuery_kept _ _) all_nil
  · exact all_one (fun _ => execFabPort_kept _ _) all_nil
  · exact all_one (fun _ => execFabSnap_kept _ _) all_nil
  · exact all_one (fun _ => execFabLinkTest_kept _ _) all_nil
  · exact all_one (fun _ => execFabPeerQuery_kept _ _) all_nil
  · exact all_one (fun _ => execPwrVoteD0_kept _ _) (all_one (fun _ => execPwrVoteTolerance_kept _ _) (all_one (fun _ => execPwrVoteWithdraw_kept _ _) all_nil))
  · exact all_one (fun _ => execPwrQuery_kept _ _) all_nil
  · exact all_one (fun _ => execPwrEnter_kept _ _) all_nil
  · exact all_one (fun _ => execPwrWindow_kept _ _) all_nil
  · exact all_one (fun _ => execPwrForceClear_kept _ _) all_nil
  · exact all_one (fun _ => execClkQuery_kept _ _) all_nil
  · exact all_one (fun _ => execAvlQuery_kept _ _) all_nil
  · exact all_one (fun _ => execAvlReturn_kept _ _) all_nil
  · exact all_one (fun _ => execPncRun_kept _ _) (all_one (fun _ => execPncRunAbort_kept _ _) all_nil)
  · exact all_one (fun _ => execPncSched_kept _ _) all_nil
  · exact all_one (fun _ => execSerdesTest_kept _ _) all_nil
  · exact all_one (fun _ => execCalSet_kept _ _) all_nil
  · exact all_one (fun _ => execCalQuery_kept _ _) all_nil
  · exact all_one (fun _ => execAvlHeadroom_kept _ _) all_nil
  · exact all_one (fun _ => execChpStateQuery_kept _ _) (all_one (fun _ => execChpStateSelfTest_kept _ _) (all_one (fun _ => execChpStateReadCounter_kept _ _) (all_one (fun _ => execChpStateAdvanceCounter_kept _ _) all_nil)))
  · exact all_one (fun _ => execChpAuthChallenge_kept _ _) (all_one (fun _ => execChpAuthRespond_kept _ _) (all_one (fun _ => execChpAuthLogout_kept _ _) all_nil))
  · exact all_one (fun _ => execChpKeyGenerate_kept _ _) (all_one (fun _ => execChpKeyImport_kept _ _) (all_one (fun _ => execChpKeyExport_kept _ _) (all_one (fun _ => execChpKeyDelete_kept _ _) (all_one (fun _ => execChpKeyQuery_kept _ _) all_nil))))
  · exact all_one (fun _ => execChpCryptGcmEncrypt_kept _ _) (all_one (fun _ => execChpCryptGcmDecrypt_kept _ _) (all_one (fun _ => execChpCryptHash_kept _ _) (all_one (fun _ => execChpCryptHmac_kept _ _) (all_one (fun _ => execChpCryptSign_kept _ _) (all_one (fun _ => execChpCryptVerify_kept _ _) (all_one (fun _ => execChpCryptRandom_kept _ _) (all_one (fun _ => execChpCryptKdf_kept _ _) (all_one (fun _ => execChpCryptEcdh_kept _ _) all_nil))))))))
  · exact all_one (fun _ => execChpAttestReport_kept _ _) (all_one (fun _ => execChpAttestChain_kept _ _) all_nil)
  · exact all_one (fun _ => execChpZeroise_kept _ _) all_nil
  · exact all_one (fun _ => execPalStage_kept _ _) all_nil
  · exact all_one (fun _ => execPalCtlStart_kept _ _) (all_one (fun _ => execPalCtlConfirm_kept _ _) (all_one (fun _ => execPalCtlReject_kept _ _) (all_one (fun _ => execPalCtlDiscard_kept _ _) (all_one (fun _ => execPalCtlQuery_kept _ _) all_nil))))
  · exact all_one (fun _ => execHostQuery_kept _ _) all_nil
  · exact all_one (fun _ => execDevReset_kept _ _) all_nil
  · exact all_one (fun _ => execCoreCtlStart_kept _ _) (all_one (fun _ => execCoreCtlStop_kept _ _) all_nil)
  · exact all_one (fun _ => execEvtRoute_kept _ _) all_nil
  · exact all_one (fun _ => execEvtQuery_kept _ _) all_nil
  · exact all_one (fun _ => execEvtRaise_kept _ _) all_nil
  · exact all_one (fun _ => execBltConfig_kept _ _) all_nil
  · exact all_one (fun _ => execGpioCtlRead_kept _ _) (all_one (fun _ => execGpioCtlDrive_kept _ _) (all_one (fun _ => execGpioCtlInput_kept _ _) all_nil))
  · exact all_nil

theorem kept_run {q : List Instr} {l : List (State → Out)} (h : ∀ m ∈ l, ∀ s, Kept q s → Goes q (m s)) {s : State} (hs : Kept q s) :
    Kept q (l.foldl (fun s m => outState s (m s)) s) := by
  induction l generalizing s with
  | nil => exact hs
  | cons m r ih =>
    exact ih (fun m hm => h m (List.mem_cons_of_mem _ hm)) (outState_kept _ _ (h m List.mem_cons_self _ hs))

theorem setNsp_kept {q : List Instr} (s : State) (x : NspState) (hs : Kept q s) :
    Kept q (State.setNsp s x) := by
  unfold State.setNsp
  repeat' first
    | (with_reducible first | assumption | intro _ | exact kept_mk (by assumption))
    | (with_reducible extract_lets +onlyGivenNames x'; unfold x'; clear x')
    | (with_reducible first | apply kept_foldl | apply kept_fold1 | apply kept_fold2 | apply kept_ite | apply goes_next)
    | dsimp -zeta only
    | split

theorem nspFrame_kept {q : List Instr} (f : NspFrame) (hello : Bool) (act : State → State) (s : State) (hact : ∀ a0, Kept q a0 → Kept q (act a0)) (hs : Kept q s) :
    Kept q (nspFrame f hello act s) := by
  unfold nspFrame
  repeat' first
    | (with_reducible first | assumption | intro _ | exact kept_mk (by assumption))
    | (with_reducible extract_lets +onlyGivenNames x'; unfold x'; clear x')
    | (with_reducible first | apply bump_kept | apply hact | apply kept_foldl | apply kept_fold1 | apply kept_fold2)
    | (with_reducible first | apply kept_ite | apply goes_next)
    | dsimp -zeta only
    | split

theorem execNspHello_kept {q : List Instr} (f : NspFrame) (s : State) (hs : Kept q s) :
    Goes q (execNspHello f s) := by
  unfold execNspHello
  repeat' first
    | (with_reducible first | assumption | intro _ | exact kept_mk (by assumption))
    | (with_reducible extract_lets +onlyGivenNames x'; unfold x'; clear x')
    | (with_reducible first | apply nspFrame_kept | apply freeBytes_kept | apply setNsp_kept | apply kept_foldl)
    | (with_reducible first | apply kept_fold1 | apply kept_fold2 | apply kept_ite | apply goes_next)
    | dsimp -zeta only
    | split

theorem execNspAuth_kept {q : List Instr} (f : NspFrame) (sigs : List Byte) (s : State) (hs : Kept q s) :
    Goes q (execNspAuth f sigs s) := by
  unfold execNspAuth
  repeat' first
    | (with_reducible first | assumption | intro _ | exact kept_mk (by assumption))
    | (with_reducible extract_lets +onlyGivenNames x'; unfold x'; clear x')
    | (with_reducible first | apply nspFrame_kept | apply bump_kept | apply setNsp_kept | apply nspEnd_kept | apply raise_kept)
    | (with_reducible first | apply setBit_kept | apply chpOpen_kept | apply setChp_kept | apply authFail_kept)
    | (with_reducible first | apply kept_foldl | apply kept_fold1 | apply kept_fold2 | apply kept_ite | apply goes_next)
    | dsimp -zeta only
    | split

theorem nspSession_kept {q : List Instr} (f : NspFrame) (act : State → State) (s : State) (hact : ∀ a0, Kept q a0 → Kept q (act a0)) (hs : Kept q s) :
    Kept q (nspSession f act s) := by
  unfold nspSession
  repeat' first
    | (with_reducible first | assumption | intro _ | exact kept_mk (by assumption))
    | (with_reducible extract_lets +onlyGivenNames x'; unfold x'; clear x')
    | (with_reducible first | apply bump_kept | apply setNsp_kept | apply hact | apply kept_foldl | apply kept_fold1)
    | (with_reducible first | apply kept_fold2 | apply kept_ite | apply goes_next)
    | dsimp -zeta only
    | split

theorem execNspCommand_kept {q : List Instr} (f : NspFrame) (op : BitVec 8) (d : Desc) (s : State) (hs : Kept q s) :
    Goes q (execNspCommand f op d s) := by
  unfold execNspCommand
  extract_lets d n
  refine goes_next (nspSession_kept _ _ _ (fun s hs => ?_) hs)
  split
  · exact hs
  · extract_lets v u ms
    have hu : Kept q u := setNsp_kept _ _ hs
    split
    · exact nspResult_kept _ _ _ _ _ hu
    · exact kept_run (opMeanings_kept _ _) hu

theorem execNspData_kept {q : List Instr} (f : NspFrame) (offset : W32) (data : List Byte) (s : State) (hs : Kept q s) :
    Goes q (execNspData f offset data s) := by
  unfold execNspData
  repeat' first
    | (with_reducible first | assumption | refine kept_some ?_ | refine kept_some1 ?_ | exact kept_none | exact kept_none1)
    | (with_reducible first | refine kept_map ?_ | intro _ | exact kept_mk (by assumption))
    | (with_reducible extract_lets +onlyGivenNames x'; unfold x'; clear x')
    | (with_reducible first | apply nspSession_kept | refine devWrite_kept _ _ _ ?_ _ (by assumption) | apply kept_foldl)
    | (with_reducible first | apply kept_fold1 | apply kept_fold2 | apply kept_ite | apply kept_getD | apply kept_getD1)
    | (with_reducible first | apply goes_next)
    | dsimp -zeta only
    | split

theorem execNspClose_kept {q : List Instr} (f : NspFrame) (s : State) (hs : Kept q s) :
    Goes q (execNspClose f s) := by
  unfold execNspClose
  repeat' first
    | (with_reducible first | assumption | intro _ | exact kept_mk (by assumption))
    | (with_reducible extract_lets +onlyGivenNames x'; unfold x'; clear x')
    | (with_reducible first | apply nspSession_kept | apply nspEnd_kept | apply kept_foldl | apply kept_fold1 | apply kept_fold2)
    | (with_reducible first | apply kept_ite | apply goes_next)
    | dsimp -zeta only
    | split

theorem execNspSessionTimeout_kept {q : List Instr} (s : State) (hs : Kept q s) :
    Goes q (execNspSessionTimeout s) := by
  unfold execNspSessionTimeout
  repeat' first
    | (with_reducible first | assumption | intro _ | exact kept_mk (by assumption))
    | (with_reducible extract_lets +onlyGivenNames x'; unfold x'; clear x')
    | (with_reducible first | apply nspEnd_kept | apply kept_foldl | apply kept_fold1 | apply kept_fold2 | apply kept_ite)
    | (with_reducible first | apply goes_next)
    | dsimp -zeta only
    | split

theorem execServiceLinkChange_kept {q : List Instr} (up : Bool) (s : State) (hs : Kept q s) :
    Goes q (execServiceLinkChange up s) := by
  unfold execServiceLinkChange
  repeat' first
    | (with_reducible first | assumption | intro _ | exact kept_mk (by assumption))
    | (with_reducible extract_lets +onlyGivenNames x'; unfold x'; clear x')
    | (with_reducible first | apply raise_kept | apply setBit_kept | apply setFld_kept | apply nspEnd_kept | apply kept_foldl)
    | (with_reducible first | apply kept_fold1 | apply kept_fold2 | apply kept_ite | apply goes_next)
    | dsimp -zeta only
    | split

end Sys2Proof.Machine
end

