-- ==== Sys2Proof/Laws/KeptSensors.lean ====
section
/-! SUPPORT. What the operations of Sensors keep. -/

namespace Sys2Proof.Machine
open Sys2Proof

set_option linter.all false

theorem thermal_kept {q : List Instr} (s : State) (vs : List Int) (hs : Kept q s) :
    Kept q (State.thermal s vs) := by
  unfold State.thermal
  repeat' first
    | (with_reducible first | assumption | intro _ | exact kept_mk (by assumption))
    | (with_reducible extract_lets +onlyGivenNames x'; unfold x'; clear x')
    | (with_reducible first | apply setBit_kept | apply setFld_kept | apply setPwr_kept | apply forceDown_kept)
    | (with_reducible first | apply zeroise_kept | apply kept_foldl | apply kept_fold1 | apply kept_fold2 | apply kept_ite)
    | (with_reducible first | apply goes_next)
    | dsimp -zeta only
    | split

theorem execSensorSample_kept {q : List Instr} (temps : Vector (BitVec 12) 16) (s : State) (hs : Kept q s) :
    Goes q (execSensorSample temps s) := by
  unfold execSensorSample
  repeat' first
    | (with_reducible first | assumption | intro _ | exact kept_mk (by assumption))
    | (with_reducible extract_lets +onlyGivenNames x'; unfold x'; clear x')
    | (with_reducible first | apply wrN_kept | apply setFld_kept | apply thermal_kept | apply kept_foldl | apply kept_fold1)
    | (with_reducible first | apply kept_fold2 | apply kept_ite | apply goes_next)
    | dsimp -zeta only
    | split

theorem execAvsSetpointStep_kept {q : List Instr} (ack : Bool) (s : State) (hs : Kept q s) :
    Goes q (execAvsSetpointStep ack s) := by
  unfold execAvsSetpointStep
  repeat' first
    | (with_reducible first | assumption | intro _ | exact kept_mk (by assumption))
    | (with_reducible extract_lets +onlyGivenNames x'; unfold x'; clear x')
    | (with_reducible first | apply setPwr_kept | apply kept_foldl | apply kept_fold1 | apply kept_fold2 | apply kept_ite)
    | (with_reducible first | apply goes_next)
    | dsimp -zeta only
    | split

theorem execAvsRetry_kept {q : List Instr} (ack : Bool) (s : State) (hs : Kept q s) :
    Goes q (execAvsRetry ack s) := by
  unfold execAvsRetry
  repeat' first
    | (with_reducible first | assumption | intro _ | exact kept_mk (by assumption))
    | (with_reducible extract_lets +onlyGivenNames x'; unfold x'; clear x')
    | (with_reducible first | apply setPwr_kept | apply kept_foldl | apply kept_fold1 | apply kept_fold2 | apply kept_ite)
    | (with_reducible first | apply goes_next)
    | dsimp -zeta only
    | split

end Sys2Proof.Machine
end

