-- ==== Sys2Proof/Laws/Nib.lean ====
section
/-! SUPPORT. What the issue of a bundle answers when nothing stops or holds it. -/

namespace Sys2Proof.Machine

@[simp] theorem setNib_nibSt (s : State) (i : Nat) (x : NibSt) : (s.setNib i x).nibSt i = x := by
  simp [State.setNib, State.nibSt, sget_sput_same]

@[simp] theorem put_bundle (x : NibSt) (k v : Nat) : (x.put k v).bundle = x.bundle := rfl
@[simp] theorem put_pc (x : NibSt) (k v : Nat) : (x.put k v).pc = x.pc := rfl

theorem foldl_put_bundle (l : List Nat) (f : Nat → Nat × Nat) (x : NibSt) :
    (l.foldl (fun y k => y.put (f k).1 (f k).2) x).bundle = x.bundle := by
  induction l generalizing x with
  | nil => rfl
  | cons a r ih => rw [List.foldl_cons, ih]; rfl

theorem landOne_bundle (x : NibSt) (k v : Nat) : (x.landOne k v).bundle = x.bundle := by
  unfold NibSt.landOne
  split
  · rfl
  · split
    · exact foldl_put_bundle _ (fun l => (1000 + 64 * (k - 105) + l, bitsOf v (40 * l + 39) (40 * l))) x
    · rfl

theorem foldl_landOne_bundle (l : List Land) (x : NibSt) : (l.foldl (fun y l => y.landOne l.dst l.val) x).bundle = x.bundle := by
  induction l generalizing x with
  | nil => rfl
  | cons a r ih => rw [List.foldl_cons, ih, landOne_bundle]

theorem landUpTo_bundle (x : NibSt) (t : Nat) : (x.landUpTo t).bundle = x.bundle := by
  unfold NibSt.landUpTo
  rw [foldl_landOne_bundle]

/-- A search that only exceptions answer finds none among effects that stop nothing. -/
theorem findSome_none_of_stops {β : Type} {es : List Eff} {f : Eff → Option β} (h : es.all (fun e => ! e.stops) = true)
    (hf : ∀ e : Eff, e.stops = false → f e = none) : es.findSome? f = none := by
  rw [List.findSome?_eq_none_iff]
  intro e he
  have := List.all_eq_true.mp h e he
  exact hf e (by simpa using this)

theorem no_watch_of_stops {es : List Eff} {f : Eff → Bool} (h : es.all (fun e => ! e.stops) = true)
    (hf : ∀ e : Eff, e.stops = false → f e = false) : es.any f = false := by
  rw [List.any_eq_false]
  intro e he
  have := List.all_eq_true.mp h e he
  rw [hf e (by simpa using this)]
  decide

/-- An instruction that ends a bundle which nothing stops or holds commits it. -/
theorem nibIssue_issues {s : State} {o : NibOp} {ins : NibIns} (h : s.issues o ins = true) :
    nibIssue o ins s = (s.atIssue o ins).nibCommit o.nib (s.issueAt o ins) ((s.atIssue o ins).nibActs o.nib) := by
  simp only [State.issues, Bool.and_eq_true, beq_iff_eq, Bool.not_eq_true', List.isEmpty_iff] at h
  obtain ⟨⟨⟨⟨⟨hrun, hfrz⟩, hdom⟩, heob⟩, hbp⟩, hc⟩ := h
  simp only [State.clear, Bool.and_eq_true, Bool.not_eq_true', Option.isNone_iff_eq_none, List.isEmpty_iff] at hc
  obtain ⟨⟨⟨⟨⟨⟨⟨⟨hf, hb⟩, hs⟩, hm⟩, hl⟩, hsl⟩, hh⟩, hr⟩, hp⟩ := hc
  unfold nibIssue
  dsimp only
  rw [if_neg (by simp [hrun, hfrz, hdom]), if_pos heob]
  change (s.fetched o ins).nibTry o.nib true = _
  generalize hv : s.fetched o ins = v at *
  have hl' : ((((s.atIssue o ins).nibActs o.nib).flatMap (·.lines)).find? fun l => (sget (v.nibSt o.nib).l1d l none).isNone) = none := by
    rw [List.find?_eq_none]
    intro l hin
    have := List.all_eq_true.mp hl l hin
    cases hx : sget (v.nibSt o.nib).l1d l none <;> simp_all
  have ht : s.issueAt o ins = (v.nibSt o.nib).issueCycle (v.nibActs o.nib) := by rw [← hv]; rfl
  have hu : s.atIssue o ins = v.setNib o.nib ((v.nibSt o.nib).landUpTo (s.issueAt o ins)) := by rw [← hv]; rfl
  rw [ht] at hu ⊢
  generalize s.atIssue o ins = u at *
  subst hu
  unfold State.nibTry
  have e1 : (pickMatch (v.bpHits o.nib) fun b => v.bit (Reg.NIB_BP_CTL o.nib b) 30) = none := by
    rw [hbp]; rfl
  unfold State.bpHits at e1
  dsimp only
  rw [e1]
  dsimp only
  rw [hf]
  dsimp only
  rw [if_neg (by simp [hb]), if_neg (by
    rw [no_watch_of_stops hs (by intro e; cases e <;> simp [Eff.stops])]; decide),
    findSome_none_of_stops hs (by intro e; cases e <;> simp [Eff.stops])]
  dsimp only
  rw [hm]
  dsimp only
  rw [hl']
  dsimp only
  rw [if_neg (by simp [hsl]), if_neg (by simp [hh, hr, hp])]

/-- The commit with the last instruction's effects written out is the commit. -/
theorem nibActs_last (s : State) (o : NibOp) (ins : NibIns) :
    (s.atIssue o ins).nibActs o.nib = ((s.atIssue o ins).nibActs o.nib).dropLast ++ [nibAct ins (s.seen o ins)] := by
  have hb : ((s.atIssue o ins).nibSt o.nib).bundle = (s.nibSt o.nib).bundle ++ [ins] := by
    unfold State.atIssue
    rw [setNib_nibSt, landUpTo_bundle]
    unfold State.fetched
    rw [setNib_nibSt]
  unfold State.nibActs State.seen
  simp only [hb, List.map_append, List.map_cons, List.map_nil, List.dropLast_concat]

/-- Every instruction with this form commits: c is the command of ins with o, and a gives its effects. -/
theorem commits_of {c : Instr} {o : NibOp} {ins : NibIns} {a : NibCtx → NibAct}
    (hc : ∀ s, exec c s = .next (nibIssue o ins s)) (ha : ∀ x, nibAct ins x = a x) : Commits c o ins a := by
  intro s h
  rw [hc, nibIssue_issues h]
  unfold State.commits
  rw [← ha, ← nibActs_last]

theorem foldl_put_pc (l : List Nat) (f : Nat → Nat × Nat) (x : NibSt) :
    (l.foldl (fun y k => y.put (f k).1 (f k).2) x).pc = x.pc := by
  induction l generalizing x with
  | nil => rfl
  | cons a r ih => rw [List.foldl_cons, ih]; rfl

theorem landOne_pc (x : NibSt) (k v : Nat) : (x.landOne k v).pc = x.pc := by
  unfold NibSt.landOne
  split
  · rfl
  · split
    · exact foldl_put_pc _ (fun l => (1000 + 64 * (k - 105) + l, bitsOf v (40 * l + 39) (40 * l))) x
    · rfl

theorem foldl_landOne_pc (l : List Land) (x : NibSt) : (l.foldl (fun y l => y.landOne l.dst l.val) x).pc = x.pc := by
  induction l generalizing x with
  | nil => rfl
  | cons a r ih => rw [List.foldl_cons, ih, landOne_pc]

theorem landUpTo_pc (x : NibSt) (t : Nat) : (x.landUpTo t).pc = x.pc := by
  unfold NibSt.landUpTo
  rw [foldl_landOne_pc]

@[simp] theorem put_sb (x : NibSt) (k v : Nat) : (x.put k v).sb = x.sb := rfl

theorem foldl_put_sb (l : List Nat) (f : Nat → Nat × Nat) (x : NibSt) :
    (l.foldl (fun y k => y.put (f k).1 (f k).2) x).sb = x.sb := by
  induction l generalizing x with
  | nil => rfl
  | cons a r ih => rw [List.foldl_cons, ih]; rfl

theorem landOne_sb (x : NibSt) (k v : Nat) : (x.landOne k v).sb = x.sb := by
  unfold NibSt.landOne
  split
  · rfl
  · split
    · exact foldl_put_sb _ (fun l => (1000 + 64 * (k - 105) + l, bitsOf v (40 * l + 39) (40 * l))) x
    · rfl

theorem foldl_landOne_sb (l : List Land) (x : NibSt) : (l.foldl (fun y l => y.landOne l.dst l.val) x).sb = x.sb := by
  induction l generalizing x with
  | nil => rfl
  | cons a r ih => rw [List.foldl_cons, ih, landOne_sb]

theorem landUpTo_sb (x : NibSt) (t : Nat) : (x.landUpTo t).sb = x.sb := by
  unfold NibSt.landUpTo
  rw [foldl_landOne_sb]

/-- One instruction breaks no rule on slots. -/
theorem badSlots_single (a : NibAct) : badSlots [a] = false := by
  have h : ∀ c, ¬ 1 < ([a].filter (·.cls == c)).length := by
    intro c
    have := List.length_filter_le (fun x : NibAct => x.cls == c) [a]
    simp only [List.length_singleton] at this
    omega
  simp [badSlots, h]

/-- A whole bundle of one instruction that raises an exception takes it (R217, R220). -/
theorem nibIssue_alone {s : State} {o : NibOp} {ins : NibIns} {c f : Nat} (h : s.alone o ins = true)
    (ha : ∀ x : NibCtx, x.x.pc = (s.nibSt o.nib).pc → (nibAct ins x).effs = [.fault c f]) :
    nibIssue o ins s = (s.late o ins).nibExcept o.nib c f (s.nibSt o.nib).pc := by
  simp only [State.alone, Bool.and_eq_true, beq_iff_eq, Bool.not_eq_true', List.isEmpty_iff, Option.isNone_iff_eq_none] at h
  obtain ⟨⟨⟨⟨⟨⟨hrun, hfrz⟩, hdom⟩, heob⟩, hbun⟩, hbp⟩, hf⟩ := h
  have hb1 : ((s.fetched o ins).nibSt o.nib).bundle = [ins] := by
    unfold State.fetched; rw [setNib_nibSt, hbun]; rfl
  have hpc : ((s.fetched o ins).nibSt o.nib).pc = (s.nibSt o.nib).pc := by
    unfold State.fetched; rw [setNib_nibSt]
  have hb2 : ((s.atIssue o ins).nibSt o.nib).bundle = [ins] := by
    unfold State.atIssue; rw [setNib_nibSt, landUpTo_bundle, hb1]
  have hpc2 : ((s.atIssue o ins).nibSt o.nib).pc = (s.nibSt o.nib).pc := by
    unfold State.atIssue; rw [setNib_nibSt, landUpTo_pc, hpc]
  obtain ⟨x, hx, hxp⟩ : ∃ x : NibCtx, (s.atIssue o ins).nibActs o.nib = [nibAct ins x] ∧ x.x.pc = (s.nibSt o.nib).pc := by
    refine ⟨NibCtx.mk (s.atIssue o ins) o.nib (add64 ((s.atIssue o ins).nibSt o.nib).pc (4 * [ins].length)), ?_, ?_⟩
    · unfold State.nibActs; dsimp only; rw [hb2]; rfl
    · exact hpc2
  have hfx := ha x hxp
  unfold nibIssue
  dsimp only
  rw [if_neg (by simp [hrun, hfrz, hdom]), if_pos heob]
  change (s.fetched o ins).nibTry o.nib true = _
  unfold State.nibTry
  have e1 : (pickMatch ((s.fetched o ins).bpHits o.nib) fun b => (s.fetched o ins).bit (Reg.NIB_BP_CTL o.nib b) 30) = none := by
    rw [hbp]; rfl
  unfold State.bpHits at e1
  dsimp only
  rw [e1]
  dsimp only
  rw [hb1]
  have hf' : (s.fetched o ins).fetchFault o.nib (4 * [ins].length) = none := hf
  rw [hf']
  dsimp only
  have hu : (s.fetched o ins).setNib o.nib (((s.fetched o ins).nibSt o.nib).landUpTo
      (((s.fetched o ins).nibSt o.nib).issueCycle ((s.fetched o ins).nibActs o.nib))) = s.atIssue o ins := rfl
  rw [hu, hpc]
  rw [if_neg, if_neg]
  · rw [hx]
    simp only [List.flatMap_cons, List.flatMap_nil, List.append_nil, hfx, List.findSome?_cons]
    rfl
  · rw [hx]; simp [hfx]
  · rw [hx, badSlots_single]; decide

/-- The same out of the shadow bank, for a cause other than LAZY: the entry to the shadow bank. -/
theorem nibIssue_enters {s : State} {o : NibOp} {ins : NibIns} {c f : Nat} (h : s.alone o ins = true)
    (hsb : (s.nibSt o.nib).sb = false) (hc : c ≠ 0x19)
    (ha : ∀ x : NibCtx, x.x.pc = (s.nibSt o.nib).pc → (nibAct ins x).effs = [.fault c f]) :
    nibIssue o ins s = (s.late o ins).nibEnter o.nib c f (s.nibSt o.nib).pc 0 := by
  rw [nibIssue_alone h ha]
  have hb : ((s.late o ins).nibSt o.nib).sb = false := by
    unfold State.late; rw [setNib_nibSt]
    change ((s.atIssue o ins).nibSt o.nib).sb = false
    unfold State.atIssue; rw [setNib_nibSt, landUpTo_sb]
    unfold State.fetched; rw [setNib_nibSt]; exact hsb
  unfold State.nibExcept
  dsimp only
  rw [hb, if_neg hc, if_neg (by decide)]

end Sys2Proof.Machine
end

