-- ==== Sys2Proof/Laws/State.lean ====
section
/-! SUPPORT. What each update of the state leaves in each of its fields. -/

namespace Sys2Proof.Machine
open Sys2Proof

/-! ### State.wr -/

@[simp] theorem wr_csr (s : State) (a : Nat) (v : W32) : (s.wr a v).csr = sput s.csr a v (csrReset a) := rfl
@[simp] theorem wr_mem (s : State) (a : Nat) (v : W32) : (s.wr a v).mem = s.mem := rfl
@[simp] theorem wr_poison (s : State) (a : Nat) (v : W32) : (s.wr a v).poison = s.poison := rfl
@[simp] theorem wr_retLost (s : State) (a : Nat) (v : W32) : (s.wr a v).retLost = s.retLost := rfl
@[simp] theorem wr_resp (s : State) (a : Nat) (v : W32) : (s.wr a v).resp = s.resp := rfl
@[simp] theorem wr_vlm (s : State) (a : Nat) (v : W32) : (s.wr a v).vlm = s.vlm := rfl
@[simp] theorem wr_time (s : State) (a : Nat) (v : W32) : (s.wr a v).time = s.time := rfl
@[simp] theorem wr_evq (s : State) (a : Nat) (v : W32) : (s.wr a v).evq = s.evq := rfl
@[simp] theorem wr_batch (s : State) (a : Nat) (v : W32) : (s.wr a v).batch = s.batch := rfl
@[simp] theorem wr_duc (s : State) (a : Nat) (v : W32) : (s.wr a v).duc = s.duc := rfl
@[simp] theorem wr_ord (s : State) (a : Nat) (v : W32) : (s.wr a v).ord = s.ord := rfl
@[simp] theorem wr_eng (s : State) (a : Nat) (v : W32) : (s.wr a v).eng = s.eng := rfl
@[simp] theorem wr_stalled (s : State) (a : Nat) (v : W32) : (s.wr a v).stalled = s.stalled := rfl
@[simp] theorem wr_served (s : State) (a : Nat) (v : W32) : (s.wr a v).served = s.served := rfl
@[simp] theorem wr_fer (s : State) (a : Nat) (v : W32) : (s.wr a v).fer = s.fer := rfl
@[simp] theorem wr_nib (s : State) (a : Nat) (v : W32) : (s.wr a v).nib = s.nib := rfl
@[simp] theorem wr_avl (s : State) (a : Nat) (v : W32) : (s.wr a v).avl = s.avl := rfl
@[simp] theorem wr_noc (s : State) (a : Nat) (v : W32) : (s.wr a v).noc = s.noc := rfl
@[simp] theorem wr_ra (s : State) (a : Nat) (v : W32) : (s.wr a v).ra = s.ra := rfl
@[simp] theorem wr_scb (s : State) (a : Nat) (v : W32) : (s.wr a v).scb = s.scb := rfl
@[simp] theorem wr_fh (s : State) (a : Nat) (v : W32) : (s.wr a v).fh = s.fh := rfl
@[simp] theorem wr_rad (s : State) (a : Nat) (v : W32) : (s.wr a v).rad = s.rad := rfl
@[simp] theorem wr_ylk (s : State) (a : Nat) (v : W32) : (s.wr a v).ylk = s.ylk := rfl
@[simp] theorem wr_pwr (s : State) (a : Nat) (v : W32) : (s.wr a v).pwr = s.pwr := rfl
@[simp] theorem wr_chp (s : State) (a : Nat) (v : W32) : (s.wr a v).chp = s.chp := rfl
@[simp] theorem wr_pal (s : State) (a : Nat) (v : W32) : (s.wr a v).pal = s.pal := rfl
@[simp] theorem wr_nsp (s : State) (a : Nat) (v : W32) : (s.wr a v).nsp = s.nsp := rfl
@[simp] theorem wr_host (s : State) (a : Nat) (v : W32) : (s.wr a v).host = s.host := rfl
@[simp] theorem wr_ipend (s : State) (a : Nat) (v : W32) : (s.wr a v).ipend = s.ipend := rfl
@[simp] theorem wr_spareTag (s : State) (a : Nat) (v : W32) : (s.wr a v).spareTag = s.spareTag := rfl
@[simp] theorem wr_free (s : State) (a : Nat) (v : W32) : (s.wr a v).free = s.free := rfl
@[simp] theorem wr_pending (s : State) (a : Nat) (v : W32) : (s.wr a v).pending = s.pending := rfl

/-! ### State.setFld -/

@[simp] theorem setFld_csr (s : State) (a hi lo v : Nat) : (s.setFld a hi lo v).csr = sput s.csr a (wsetFld (s.rd a) hi lo v) (csrReset a) := rfl
@[simp] theorem setFld_mem (s : State) (a hi lo v : Nat) : (s.setFld a hi lo v).mem = s.mem := rfl
@[simp] theorem setFld_poison (s : State) (a hi lo v : Nat) : (s.setFld a hi lo v).poison = s.poison := rfl
@[simp] theorem setFld_retLost (s : State) (a hi lo v : Nat) : (s.setFld a hi lo v).retLost = s.retLost := rfl
@[simp] theorem setFld_resp (s : State) (a hi lo v : Nat) : (s.setFld a hi lo v).resp = s.resp := rfl
@[simp] theorem setFld_vlm (s : State) (a hi lo v : Nat) : (s.setFld a hi lo v).vlm = s.vlm := rfl
@[simp] theorem setFld_time (s : State) (a hi lo v : Nat) : (s.setFld a hi lo v).time = s.time := rfl
@[simp] theorem setFld_evq (s : State) (a hi lo v : Nat) : (s.setFld a hi lo v).evq = s.evq := rfl
@[simp] theorem setFld_batch (s : State) (a hi lo v : Nat) : (s.setFld a hi lo v).batch = s.batch := rfl
@[simp] theorem setFld_duc (s : State) (a hi lo v : Nat) : (s.setFld a hi lo v).duc = s.duc := rfl
@[simp] theorem setFld_ord (s : State) (a hi lo v : Nat) : (s.setFld a hi lo v).ord = s.ord := rfl
@[simp] theorem setFld_eng (s : State) (a hi lo v : Nat) : (s.setFld a hi lo v).eng = s.eng := rfl
@[simp] theorem setFld_stalled (s : State) (a hi lo v : Nat) : (s.setFld a hi lo v).stalled = s.stalled := rfl
@[simp] theorem setFld_served (s : State) (a hi lo v : Nat) : (s.setFld a hi lo v).served = s.served := rfl
@[simp] theorem setFld_fer (s : State) (a hi lo v : Nat) : (s.setFld a hi lo v).fer = s.fer := rfl
@[simp] theorem setFld_nib (s : State) (a hi lo v : Nat) : (s.setFld a hi lo v).nib = s.nib := rfl
@[simp] theorem setFld_avl (s : State) (a hi lo v : Nat) : (s.setFld a hi lo v).avl = s.avl := rfl
@[simp] theorem setFld_noc (s : State) (a hi lo v : Nat) : (s.setFld a hi lo v).noc = s.noc := rfl
@[simp] theorem setFld_ra (s : State) (a hi lo v : Nat) : (s.setFld a hi lo v).ra = s.ra := rfl
@[simp] theorem setFld_scb (s : State) (a hi lo v : Nat) : (s.setFld a hi lo v).scb = s.scb := rfl
@[simp] theorem setFld_fh (s : State) (a hi lo v : Nat) : (s.setFld a hi lo v).fh = s.fh := rfl
@[simp] theorem setFld_rad (s : State) (a hi lo v : Nat) : (s.setFld a hi lo v).rad = s.rad := rfl
@[simp] theorem setFld_ylk (s : State) (a hi lo v : Nat) : (s.setFld a hi lo v).ylk = s.ylk := rfl
@[simp] theorem setFld_pwr (s : State) (a hi lo v : Nat) : (s.setFld a hi lo v).pwr = s.pwr := rfl
@[simp] theorem setFld_chp (s : State) (a hi lo v : Nat) : (s.setFld a hi lo v).chp = s.chp := rfl
@[simp] theorem setFld_pal (s : State) (a hi lo v : Nat) : (s.setFld a hi lo v).pal = s.pal := rfl
@[simp] theorem setFld_nsp (s : State) (a hi lo v : Nat) : (s.setFld a hi lo v).nsp = s.nsp := rfl
@[simp] theorem setFld_host (s : State) (a hi lo v : Nat) : (s.setFld a hi lo v).host = s.host := rfl
@[simp] theorem setFld_ipend (s : State) (a hi lo v : Nat) : (s.setFld a hi lo v).ipend = s.ipend := rfl
@[simp] theorem setFld_spareTag (s : State) (a hi lo v : Nat) : (s.setFld a hi lo v).spareTag = s.spareTag := rfl
@[simp] theorem setFld_free (s : State) (a hi lo v : Nat) : (s.setFld a hi lo v).free = s.free := rfl
@[simp] theorem setFld_pending (s : State) (a hi lo v : Nat) : (s.setFld a hi lo v).pending = s.pending := rfl

/-! ### State.setByte -/

@[simp] theorem setByte_csr (s : State) (a : Nat) (b : Byte) : (s.setByte a b).csr = s.csr := rfl
@[simp] theorem setByte_mem (s : State) (a : Nat) (b : Byte) : (s.setByte a b).mem = sput s.mem a b 0 := rfl
@[simp] theorem setByte_poison (s : State) (a : Nat) (b : Byte) : (s.setByte a b).poison = s.poison := rfl
@[simp] theorem setByte_retLost (s : State) (a : Nat) (b : Byte) : (s.setByte a b).retLost = s.retLost := rfl
@[simp] theorem setByte_resp (s : State) (a : Nat) (b : Byte) : (s.setByte a b).resp = s.resp := rfl
@[simp] theorem setByte_vlm (s : State) (a : Nat) (b : Byte) : (s.setByte a b).vlm = s.vlm := rfl
@[simp] theorem setByte_time (s : State) (a : Nat) (b : Byte) : (s.setByte a b).time = s.time := rfl
@[simp] theorem setByte_evq (s : State) (a : Nat) (b : Byte) : (s.setByte a b).evq = s.evq := rfl
@[simp] theorem setByte_batch (s : State) (a : Nat) (b : Byte) : (s.setByte a b).batch = s.batch := rfl
@[simp] theorem setByte_duc (s : State) (a : Nat) (b : Byte) : (s.setByte a b).duc = s.duc := rfl
@[simp] theorem setByte_ord (s : State) (a : Nat) (b : Byte) : (s.setByte a b).ord = s.ord := rfl
@[simp] theorem setByte_eng (s : State) (a : Nat) (b : Byte) : (s.setByte a b).eng = s.eng := rfl
@[simp] theorem setByte_stalled (s : State) (a : Nat) (b : Byte) : (s.setByte a b).stalled = s.stalled := rfl
@[simp] theorem setByte_served (s : State) (a : Nat) (b : Byte) : (s.setByte a b).served = s.served := rfl
@[simp] theorem setByte_fer (s : State) (a : Nat) (b : Byte) : (s.setByte a b).fer = s.fer := rfl
@[simp] theorem setByte_nib (s : State) (a : Nat) (b : Byte) : (s.setByte a b).nib = s.nib := rfl
@[simp] theorem setByte_avl (s : State) (a : Nat) (b : Byte) : (s.setByte a b).avl = s.avl := rfl
@[simp] theorem setByte_noc (s : State) (a : Nat) (b : Byte) : (s.setByte a b).noc = s.noc := rfl
@[simp] theorem setByte_ra (s : State) (a : Nat) (b : Byte) : (s.setByte a b).ra = s.ra := rfl
@[simp] theorem setByte_scb (s : State) (a : Nat) (b : Byte) : (s.setByte a b).scb = s.scb := rfl
@[simp] theorem setByte_fh (s : State) (a : Nat) (b : Byte) : (s.setByte a b).fh = s.fh := rfl
@[simp] theorem setByte_rad (s : State) (a : Nat) (b : Byte) : (s.setByte a b).rad = s.rad := rfl
@[simp] theorem setByte_ylk (s : State) (a : Nat) (b : Byte) : (s.setByte a b).ylk = s.ylk := rfl
@[simp] theorem setByte_pwr (s : State) (a : Nat) (b : Byte) : (s.setByte a b).pwr = s.pwr := rfl
@[simp] theorem setByte_chp (s : State) (a : Nat) (b : Byte) : (s.setByte a b).chp = s.chp := rfl
@[simp] theorem setByte_pal (s : State) (a : Nat) (b : Byte) : (s.setByte a b).pal = s.pal := rfl
@[simp] theorem setByte_nsp (s : State) (a : Nat) (b : Byte) : (s.setByte a b).nsp = s.nsp := rfl
@[simp] theorem setByte_host (s : State) (a : Nat) (b : Byte) : (s.setByte a b).host = s.host := rfl
@[simp] theorem setByte_ipend (s : State) (a : Nat) (b : Byte) : (s.setByte a b).ipend = s.ipend := rfl
@[simp] theorem setByte_spareTag (s : State) (a : Nat) (b : Byte) : (s.setByte a b).spareTag = s.spareTag := rfl
@[simp] theorem setByte_free (s : State) (a : Nat) (b : Byte) : (s.setByte a b).free = s.free := rfl
@[simp] theorem setByte_pending (s : State) (a : Nat) (b : Byte) : (s.setByte a b).pending = s.pending := rfl

/-! ### State.answer -/

@[simp] theorem answer_csr (s : State) (st v : Nat) : (s.answer st v).csr = s.csr := rfl
@[simp] theorem answer_mem (s : State) (st v : Nat) : (s.answer st v).mem = s.mem := rfl
@[simp] theorem answer_poison (s : State) (st v : Nat) : (s.answer st v).poison = s.poison := rfl
@[simp] theorem answer_retLost (s : State) (st v : Nat) : (s.answer st v).retLost = s.retLost := rfl
@[simp] theorem answer_resp (s : State) (st v : Nat) : (s.answer st v).resp = Resp.mk st v := rfl
@[simp] theorem answer_vlm (s : State) (st v : Nat) : (s.answer st v).vlm = s.vlm := rfl
@[simp] theorem answer_time (s : State) (st v : Nat) : (s.answer st v).time = s.time := rfl
@[simp] theorem answer_evq (s : State) (st v : Nat) : (s.answer st v).evq = s.evq := rfl
@[simp] theorem answer_batch (s : State) (st v : Nat) : (s.answer st v).batch = s.batch := rfl
@[simp] theorem answer_duc (s : State) (st v : Nat) : (s.answer st v).duc = s.duc := rfl
@[simp] theorem answer_ord (s : State) (st v : Nat) : (s.answer st v).ord = s.ord := rfl
@[simp] theorem answer_eng (s : State) (st v : Nat) : (s.answer st v).eng = s.eng := rfl
@[simp] theorem answer_stalled (s : State) (st v : Nat) : (s.answer st v).stalled = s.stalled := rfl
@[simp] theorem answer_served (s : State) (st v : Nat) : (s.answer st v).served = s.served := rfl
@[simp] theorem answer_fer (s : State) (st v : Nat) : (s.answer st v).fer = s.fer := rfl
@[simp] theorem answer_nib (s : State) (st v : Nat) : (s.answer st v).nib = s.nib := rfl
@[simp] theorem answer_avl (s : State) (st v : Nat) : (s.answer st v).avl = s.avl := rfl
@[simp] theorem answer_noc (s : State) (st v : Nat) : (s.answer st v).noc = s.noc := rfl
@[simp] theorem answer_ra (s : State) (st v : Nat) : (s.answer st v).ra = s.ra := rfl
@[simp] theorem answer_scb (s : State) (st v : Nat) : (s.answer st v).scb = s.scb := rfl
@[simp] theorem answer_fh (s : State) (st v : Nat) : (s.answer st v).fh = s.fh := rfl
@[simp] theorem answer_rad (s : State) (st v : Nat) : (s.answer st v).rad = s.rad := rfl
@[simp] theorem answer_ylk (s : State) (st v : Nat) : (s.answer st v).ylk = s.ylk := rfl
@[simp] theorem answer_pwr (s : State) (st v : Nat) : (s.answer st v).pwr = s.pwr := rfl
@[simp] theorem answer_chp (s : State) (st v : Nat) : (s.answer st v).chp = s.chp := rfl
@[simp] theorem answer_pal (s : State) (st v : Nat) : (s.answer st v).pal = s.pal := rfl
@[simp] theorem answer_nsp (s : State) (st v : Nat) : (s.answer st v).nsp = s.nsp := rfl
@[simp] theorem answer_host (s : State) (st v : Nat) : (s.answer st v).host = s.host := rfl
@[simp] theorem answer_ipend (s : State) (st v : Nat) : (s.answer st v).ipend = s.ipend := rfl
@[simp] theorem answer_spareTag (s : State) (st v : Nat) : (s.answer st v).spareTag = s.spareTag := rfl
@[simp] theorem answer_free (s : State) (st v : Nat) : (s.answer st v).free = s.free := rfl
@[simp] theorem answer_pending (s : State) (st v : Nat) : (s.answer st v).pending = s.pending := rfl

/-! ### State.setVlm -/

@[simp] theorem setVlm_csr (s : State) (x : VlmState) : (s.setVlm x).csr = s.csr := rfl
@[simp] theorem setVlm_mem (s : State) (x : VlmState) : (s.setVlm x).mem = s.mem := rfl
@[simp] theorem setVlm_poison (s : State) (x : VlmState) : (s.setVlm x).poison = s.poison := rfl
@[simp] theorem setVlm_retLost (s : State) (x : VlmState) : (s.setVlm x).retLost = s.retLost := rfl
@[simp] theorem setVlm_resp (s : State) (x : VlmState) : (s.setVlm x).resp = s.resp := rfl
@[simp] theorem setVlm_vlm (s : State) (x : VlmState) : (s.setVlm x).vlm = x := rfl
@[simp] theorem setVlm_time (s : State) (x : VlmState) : (s.setVlm x).time = s.time := rfl
@[simp] theorem setVlm_evq (s : State) (x : VlmState) : (s.setVlm x).evq = s.evq := rfl
@[simp] theorem setVlm_batch (s : State) (x : VlmState) : (s.setVlm x).batch = s.batch := rfl
@[simp] theorem setVlm_duc (s : State) (x : VlmState) : (s.setVlm x).duc = s.duc := rfl
@[simp] theorem setVlm_ord (s : State) (x : VlmState) : (s.setVlm x).ord = s.ord := rfl
@[simp] theorem setVlm_eng (s : State) (x : VlmState) : (s.setVlm x).eng = s.eng := rfl
@[simp] theorem setVlm_stalled (s : State) (x : VlmState) : (s.setVlm x).stalled = s.stalled := rfl
@[simp] theorem setVlm_served (s : State) (x : VlmState) : (s.setVlm x).served = s.served := rfl
@[simp] theorem setVlm_fer (s : State) (x : VlmState) : (s.setVlm x).fer = s.fer := rfl
@[simp] theorem setVlm_nib (s : State) (x : VlmState) : (s.setVlm x).nib = s.nib := rfl
@[simp] theorem setVlm_avl (s : State) (x : VlmState) : (s.setVlm x).avl = s.avl := rfl
@[simp] theorem setVlm_noc (s : State) (x : VlmState) : (s.setVlm x).noc = s.noc := rfl
@[simp] theorem setVlm_ra (s : State) (x : VlmState) : (s.setVlm x).ra = s.ra := rfl
@[simp] theorem setVlm_scb (s : State) (x : VlmState) : (s.setVlm x).scb = s.scb := rfl
@[simp] theorem setVlm_fh (s : State) (x : VlmState) : (s.setVlm x).fh = s.fh := rfl
@[simp] theorem setVlm_rad (s : State) (x : VlmState) : (s.setVlm x).rad = s.rad := rfl
@[simp] theorem setVlm_ylk (s : State) (x : VlmState) : (s.setVlm x).ylk = s.ylk := rfl
@[simp] theorem setVlm_pwr (s : State) (x : VlmState) : (s.setVlm x).pwr = s.pwr := rfl
@[simp] theorem setVlm_chp (s : State) (x : VlmState) : (s.setVlm x).chp = s.chp := rfl
@[simp] theorem setVlm_pal (s : State) (x : VlmState) : (s.setVlm x).pal = s.pal := rfl
@[simp] theorem setVlm_nsp (s : State) (x : VlmState) : (s.setVlm x).nsp = s.nsp := rfl
@[simp] theorem setVlm_host (s : State) (x : VlmState) : (s.setVlm x).host = s.host := rfl
@[simp] theorem setVlm_ipend (s : State) (x : VlmState) : (s.setVlm x).ipend = s.ipend := rfl
@[simp] theorem setVlm_spareTag (s : State) (x : VlmState) : (s.setVlm x).spareTag = s.spareTag := rfl
@[simp] theorem setVlm_free (s : State) (x : VlmState) : (s.setVlm x).free = s.free := rfl
@[simp] theorem setVlm_pending (s : State) (x : VlmState) : (s.setVlm x).pending = s.pending := rfl

/-! ### State.setDuc -/

@[simp] theorem setDuc_csr (s : State) (q : Nat) (x : DucSt) : (s.setDuc q x).csr = s.csr := rfl
@[simp] theorem setDuc_mem (s : State) (q : Nat) (x : DucSt) : (s.setDuc q x).mem = s.mem := rfl
@[simp] theorem setDuc_poison (s : State) (q : Nat) (x : DucSt) : (s.setDuc q x).poison = s.poison := rfl
@[simp] theorem setDuc_retLost (s : State) (q : Nat) (x : DucSt) : (s.setDuc q x).retLost = s.retLost := rfl
@[simp] theorem setDuc_resp (s : State) (q : Nat) (x : DucSt) : (s.setDuc q x).resp = s.resp := rfl
@[simp] theorem setDuc_vlm (s : State) (q : Nat) (x : DucSt) : (s.setDuc q x).vlm = s.vlm := rfl
@[simp] theorem setDuc_time (s : State) (q : Nat) (x : DucSt) : (s.setDuc q x).time = s.time := rfl
@[simp] theorem setDuc_evq (s : State) (q : Nat) (x : DucSt) : (s.setDuc q x).evq = s.evq := rfl
@[simp] theorem setDuc_batch (s : State) (q : Nat) (x : DucSt) : (s.setDuc q x).batch = s.batch := rfl
@[simp] theorem setDuc_duc (s : State) (q : Nat) (x : DucSt) : (s.setDuc q x).duc = sput s.duc q x DucSt.init := rfl
@[simp] theorem setDuc_ord (s : State) (q : Nat) (x : DucSt) : (s.setDuc q x).ord = s.ord := rfl
@[simp] theorem setDuc_eng (s : State) (q : Nat) (x : DucSt) : (s.setDuc q x).eng = s.eng := rfl
@[simp] theorem setDuc_stalled (s : State) (q : Nat) (x : DucSt) : (s.setDuc q x).stalled = s.stalled := rfl
@[simp] theorem setDuc_served (s : State) (q : Nat) (x : DucSt) : (s.setDuc q x).served = s.served := rfl
@[simp] theorem setDuc_fer (s : State) (q : Nat) (x : DucSt) : (s.setDuc q x).fer = s.fer := rfl
@[simp] theorem setDuc_nib (s : State) (q : Nat) (x : DucSt) : (s.setDuc q x).nib = s.nib := rfl
@[simp] theorem setDuc_avl (s : State) (q : Nat) (x : DucSt) : (s.setDuc q x).avl = s.avl := rfl
@[simp] theorem setDuc_noc (s : State) (q : Nat) (x : DucSt) : (s.setDuc q x).noc = s.noc := rfl
@[simp] theorem setDuc_ra (s : State) (q : Nat) (x : DucSt) : (s.setDuc q x).ra = s.ra := rfl
@[simp] theorem setDuc_scb (s : State) (q : Nat) (x : DucSt) : (s.setDuc q x).scb = s.scb := rfl
@[simp] theorem setDuc_fh (s : State) (q : Nat) (x : DucSt) : (s.setDuc q x).fh = s.fh := rfl
@[simp] theorem setDuc_rad (s : State) (q : Nat) (x : DucSt) : (s.setDuc q x).rad = s.rad := rfl
@[simp] theorem setDuc_ylk (s : State) (q : Nat) (x : DucSt) : (s.setDuc q x).ylk = s.ylk := rfl
@[simp] theorem setDuc_pwr (s : State) (q : Nat) (x : DucSt) : (s.setDuc q x).pwr = s.pwr := rfl
@[simp] theorem setDuc_chp (s : State) (q : Nat) (x : DucSt) : (s.setDuc q x).chp = s.chp := rfl
@[simp] theorem setDuc_pal (s : State) (q : Nat) (x : DucSt) : (s.setDuc q x).pal = s.pal := rfl
@[simp] theorem setDuc_nsp (s : State) (q : Nat) (x : DucSt) : (s.setDuc q x).nsp = s.nsp := rfl
@[simp] theorem setDuc_host (s : State) (q : Nat) (x : DucSt) : (s.setDuc q x).host = s.host := rfl
@[simp] theorem setDuc_ipend (s : State) (q : Nat) (x : DucSt) : (s.setDuc q x).ipend = s.ipend := rfl
@[simp] theorem setDuc_spareTag (s : State) (q : Nat) (x : DucSt) : (s.setDuc q x).spareTag = s.spareTag := rfl
@[simp] theorem setDuc_free (s : State) (q : Nat) (x : DucSt) : (s.setDuc q x).free = s.free := rfl
@[simp] theorem setDuc_pending (s : State) (q : Nat) (x : DucSt) : (s.setDuc q x).pending = s.pending := rfl

/-! ### State.setIpend -/

@[simp] theorem setIpend_csr (s : State) (n l : Nat) (on : Bool) : (s.setIpend n l on).csr = s.csr := rfl
@[simp] theorem setIpend_mem (s : State) (n l : Nat) (on : Bool) : (s.setIpend n l on).mem = s.mem := rfl
@[simp] theorem setIpend_poison (s : State) (n l : Nat) (on : Bool) : (s.setIpend n l on).poison = s.poison := rfl
@[simp] theorem setIpend_retLost (s : State) (n l : Nat) (on : Bool) : (s.setIpend n l on).retLost = s.retLost := rfl
@[simp] theorem setIpend_resp (s : State) (n l : Nat) (on : Bool) : (s.setIpend n l on).resp = s.resp := rfl
@[simp] theorem setIpend_vlm (s : State) (n l : Nat) (on : Bool) : (s.setIpend n l on).vlm = s.vlm := rfl
@[simp] theorem setIpend_time (s : State) (n l : Nat) (on : Bool) : (s.setIpend n l on).time = s.time := rfl
@[simp] theorem setIpend_evq (s : State) (n l : Nat) (on : Bool) : (s.setIpend n l on).evq = s.evq := rfl
@[simp] theorem setIpend_batch (s : State) (n l : Nat) (on : Bool) : (s.setIpend n l on).batch = s.batch := rfl
@[simp] theorem setIpend_duc (s : State) (n l : Nat) (on : Bool) : (s.setIpend n l on).duc = s.duc := rfl
@[simp] theorem setIpend_ord (s : State) (n l : Nat) (on : Bool) : (s.setIpend n l on).ord = s.ord := rfl
@[simp] theorem setIpend_eng (s : State) (n l : Nat) (on : Bool) : (s.setIpend n l on).eng = s.eng := rfl
@[simp] theorem setIpend_stalled (s : State) (n l : Nat) (on : Bool) : (s.setIpend n l on).stalled = s.stalled := rfl
@[simp] theorem setIpend_served (s : State) (n l : Nat) (on : Bool) : (s.setIpend n l on).served = s.served := rfl
@[simp] theorem setIpend_fer (s : State) (n l : Nat) (on : Bool) : (s.setIpend n l on).fer = s.fer := rfl
@[simp] theorem setIpend_nib (s : State) (n l : Nat) (on : Bool) : (s.setIpend n l on).nib = s.nib := rfl
@[simp] theorem setIpend_avl (s : State) (n l : Nat) (on : Bool) : (s.setIpend n l on).avl = s.avl := rfl
@[simp] theorem setIpend_noc (s : State) (n l : Nat) (on : Bool) : (s.setIpend n l on).noc = s.noc := rfl
@[simp] theorem setIpend_ra (s : State) (n l : Nat) (on : Bool) : (s.setIpend n l on).ra = s.ra := rfl
@[simp] theorem setIpend_scb (s : State) (n l : Nat) (on : Bool) : (s.setIpend n l on).scb = s.scb := rfl
@[simp] theorem setIpend_fh (s : State) (n l : Nat) (on : Bool) : (s.setIpend n l on).fh = s.fh := rfl
@[simp] theorem setIpend_rad (s : State) (n l : Nat) (on : Bool) : (s.setIpend n l on).rad = s.rad := rfl
@[simp] theorem setIpend_ylk (s : State) (n l : Nat) (on : Bool) : (s.setIpend n l on).ylk = s.ylk := rfl
@[simp] theorem setIpend_pwr (s : State) (n l : Nat) (on : Bool) : (s.setIpend n l on).pwr = s.pwr := rfl
@[simp] theorem setIpend_chp (s : State) (n l : Nat) (on : Bool) : (s.setIpend n l on).chp = s.chp := rfl
@[simp] theorem setIpend_pal (s : State) (n l : Nat) (on : Bool) : (s.setIpend n l on).pal = s.pal := rfl
@[simp] theorem setIpend_nsp (s : State) (n l : Nat) (on : Bool) : (s.setIpend n l on).nsp = s.nsp := rfl
@[simp] theorem setIpend_host (s : State) (n l : Nat) (on : Bool) : (s.setIpend n l on).host = s.host := rfl
@[simp] theorem setIpend_ipend (s : State) (n l : Nat) (on : Bool) : (s.setIpend n l on).ipend = sput s.ipend n (putBits (sget s.ipend n 0) l l (b2n on)) 0 := rfl
@[simp] theorem setIpend_spareTag (s : State) (n l : Nat) (on : Bool) : (s.setIpend n l on).spareTag = s.spareTag := rfl
@[simp] theorem setIpend_free (s : State) (n l : Nat) (on : Bool) : (s.setIpend n l on).free = s.free := rfl
@[simp] theorem setIpend_pending (s : State) (n l : Nat) (on : Bool) : (s.setIpend n l on).pending = s.pending := rfl

/-! ### State.setOrd -/

@[simp] theorem setOrd_csr (s : State) (x : OrdState) : (s.setOrd x).csr = s.csr := rfl
@[simp] theorem setOrd_mem (s : State) (x : OrdState) : (s.setOrd x).mem = s.mem := rfl
@[simp] theorem setOrd_poison (s : State) (x : OrdState) : (s.setOrd x).poison = s.poison := rfl
@[simp] theorem setOrd_retLost (s : State) (x : OrdState) : (s.setOrd x).retLost = s.retLost := rfl
@[simp] theorem setOrd_resp (s : State) (x : OrdState) : (s.setOrd x).resp = s.resp := rfl
@[simp] theorem setOrd_vlm (s : State) (x : OrdState) : (s.setOrd x).vlm = s.vlm := rfl
@[simp] theorem setOrd_time (s : State) (x : OrdState) : (s.setOrd x).time = s.time := rfl
@[simp] theorem setOrd_evq (s : State) (x : OrdState) : (s.setOrd x).evq = s.evq := rfl
@[simp] theorem setOrd_batch (s : State) (x : OrdState) : (s.setOrd x).batch = s.batch := rfl
@[simp] theorem setOrd_duc (s : State) (x : OrdState) : (s.setOrd x).duc = s.duc := rfl
@[simp] theorem setOrd_ord (s : State) (x : OrdState) : (s.setOrd x).ord = x := rfl
@[simp] theorem setOrd_eng (s : State) (x : OrdState) : (s.setOrd x).eng = s.eng := rfl
@[simp] theorem setOrd_stalled (s : State) (x : OrdState) : (s.setOrd x).stalled = s.stalled := rfl
@[simp] theorem setOrd_served (s : State) (x : OrdState) : (s.setOrd x).served = s.served := rfl
@[simp] theorem setOrd_fer (s : State) (x : OrdState) : (s.setOrd x).fer = s.fer := rfl
@[simp] theorem setOrd_nib (s : State) (x : OrdState) : (s.setOrd x).nib = s.nib := rfl
@[simp] theorem setOrd_avl (s : State) (x : OrdState) : (s.setOrd x).avl = s.avl := rfl
@[simp] theorem setOrd_noc (s : State) (x : OrdState) : (s.setOrd x).noc = s.noc := rfl
@[simp] theorem setOrd_ra (s : State) (x : OrdState) : (s.setOrd x).ra = s.ra := rfl
@[simp] theorem setOrd_scb (s : State) (x : OrdState) : (s.setOrd x).scb = s.scb := rfl
@[simp] theorem setOrd_fh (s : State) (x : OrdState) : (s.setOrd x).fh = s.fh := rfl
@[simp] theorem setOrd_rad (s : State) (x : OrdState) : (s.setOrd x).rad = s.rad := rfl
@[simp] theorem setOrd_ylk (s : State) (x : OrdState) : (s.setOrd x).ylk = s.ylk := rfl
@[simp] theorem setOrd_pwr (s : State) (x : OrdState) : (s.setOrd x).pwr = s.pwr := rfl
@[simp] theorem setOrd_chp (s : State) (x : OrdState) : (s.setOrd x).chp = s.chp := rfl
@[simp] theorem setOrd_pal (s : State) (x : OrdState) : (s.setOrd x).pal = s.pal := rfl
@[simp] theorem setOrd_nsp (s : State) (x : OrdState) : (s.setOrd x).nsp = s.nsp := rfl
@[simp] theorem setOrd_host (s : State) (x : OrdState) : (s.setOrd x).host = s.host := rfl
@[simp] theorem setOrd_ipend (s : State) (x : OrdState) : (s.setOrd x).ipend = s.ipend := rfl
@[simp] theorem setOrd_spareTag (s : State) (x : OrdState) : (s.setOrd x).spareTag = s.spareTag := rfl
@[simp] theorem setOrd_free (s : State) (x : OrdState) : (s.setOrd x).free = s.free := rfl
@[simp] theorem setOrd_pending (s : State) (x : OrdState) : (s.setOrd x).pending = s.pending := rfl

/-! ### State.setFer -/

@[simp] theorem setFer_csr (s : State) (f : Nat) (x : FerSt) : (s.setFer f x).csr = s.csr := rfl
@[simp] theorem setFer_mem (s : State) (f : Nat) (x : FerSt) : (s.setFer f x).mem = s.mem := rfl
@[simp] theorem setFer_poison (s : State) (f : Nat) (x : FerSt) : (s.setFer f x).poison = s.poison := rfl
@[simp] theorem setFer_retLost (s : State) (f : Nat) (x : FerSt) : (s.setFer f x).retLost = s.retLost := rfl
@[simp] theorem setFer_resp (s : State) (f : Nat) (x : FerSt) : (s.setFer f x).resp = s.resp := rfl
@[simp] theorem setFer_vlm (s : State) (f : Nat) (x : FerSt) : (s.setFer f x).vlm = s.vlm := rfl
@[simp] theorem setFer_time (s : State) (f : Nat) (x : FerSt) : (s.setFer f x).time = s.time := rfl
@[simp] theorem setFer_evq (s : State) (f : Nat) (x : FerSt) : (s.setFer f x).evq = s.evq := rfl
@[simp] theorem setFer_batch (s : State) (f : Nat) (x : FerSt) : (s.setFer f x).batch = s.batch := rfl
@[simp] theorem setFer_duc (s : State) (f : Nat) (x : FerSt) : (s.setFer f x).duc = s.duc := rfl
@[simp] theorem setFer_ord (s : State) (f : Nat) (x : FerSt) : (s.setFer f x).ord = s.ord := rfl
@[simp] theorem setFer_eng (s : State) (f : Nat) (x : FerSt) : (s.setFer f x).eng = s.eng := rfl
@[simp] theorem setFer_stalled (s : State) (f : Nat) (x : FerSt) : (s.setFer f x).stalled = s.stalled := rfl
@[simp] theorem setFer_served (s : State) (f : Nat) (x : FerSt) : (s.setFer f x).served = s.served := rfl
@[simp] theorem setFer_fer (s : State) (f : Nat) (x : FerSt) : (s.setFer f x).fer = sput s.fer f x FerSt.init := rfl
@[simp] theorem setFer_nib (s : State) (f : Nat) (x : FerSt) : (s.setFer f x).nib = s.nib := rfl
@[simp] theorem setFer_avl (s : State) (f : Nat) (x : FerSt) : (s.setFer f x).avl = s.avl := rfl
@[simp] theorem setFer_noc (s : State) (f : Nat) (x : FerSt) : (s.setFer f x).noc = s.noc := rfl
@[simp] theorem setFer_ra (s : State) (f : Nat) (x : FerSt) : (s.setFer f x).ra = s.ra := rfl
@[simp] theorem setFer_scb (s : State) (f : Nat) (x : FerSt) : (s.setFer f x).scb = s.scb := rfl
@[simp] theorem setFer_fh (s : State) (f : Nat) (x : FerSt) : (s.setFer f x).fh = s.fh := rfl
@[simp] theorem setFer_rad (s : State) (f : Nat) (x : FerSt) : (s.setFer f x).rad = s.rad := rfl
@[simp] theorem setFer_ylk (s : State) (f : Nat) (x : FerSt) : (s.setFer f x).ylk = s.ylk := rfl
@[simp] theorem setFer_pwr (s : State) (f : Nat) (x : FerSt) : (s.setFer f x).pwr = s.pwr := rfl
@[simp] theorem setFer_chp (s : State) (f : Nat) (x : FerSt) : (s.setFer f x).chp = s.chp := rfl
@[simp] theorem setFer_pal (s : State) (f : Nat) (x : FerSt) : (s.setFer f x).pal = s.pal := rfl
@[simp] theorem setFer_nsp (s : State) (f : Nat) (x : FerSt) : (s.setFer f x).nsp = s.nsp := rfl
@[simp] theorem setFer_host (s : State) (f : Nat) (x : FerSt) : (s.setFer f x).host = s.host := rfl
@[simp] theorem setFer_ipend (s : State) (f : Nat) (x : FerSt) : (s.setFer f x).ipend = s.ipend := rfl
@[simp] theorem setFer_spareTag (s : State) (f : Nat) (x : FerSt) : (s.setFer f x).spareTag = s.spareTag := rfl
@[simp] theorem setFer_free (s : State) (f : Nat) (x : FerSt) : (s.setFer f x).free = s.free := rfl
@[simp] theorem setFer_pending (s : State) (f : Nat) (x : FerSt) : (s.setFer f x).pending = s.pending := rfl

/-! ### State.setNib -/

@[simp] theorem setNib_csr (s : State) (i : Nat) (x : NibSt) : (s.setNib i x).csr = s.csr := rfl
@[simp] theorem setNib_mem (s : State) (i : Nat) (x : NibSt) : (s.setNib i x).mem = s.mem := rfl
@[simp] theorem setNib_poison (s : State) (i : Nat) (x : NibSt) : (s.setNib i x).poison = s.poison := rfl
@[simp] theorem setNib_retLost (s : State) (i : Nat) (x : NibSt) : (s.setNib i x).retLost = s.retLost := rfl
@[simp] theorem setNib_resp (s : State) (i : Nat) (x : NibSt) : (s.setNib i x).resp = s.resp := rfl
@[simp] theorem setNib_vlm (s : State) (i : Nat) (x : NibSt) : (s.setNib i x).vlm = s.vlm := rfl
@[simp] theorem setNib_time (s : State) (i : Nat) (x : NibSt) : (s.setNib i x).time = s.time := rfl
@[simp] theorem setNib_evq (s : State) (i : Nat) (x : NibSt) : (s.setNib i x).evq = s.evq := rfl
@[simp] theorem setNib_batch (s : State) (i : Nat) (x : NibSt) : (s.setNib i x).batch = s.batch := rfl
@[simp] theorem setNib_duc (s : State) (i : Nat) (x : NibSt) : (s.setNib i x).duc = s.duc := rfl
@[simp] theorem setNib_ord (s : State) (i : Nat) (x : NibSt) : (s.setNib i x).ord = s.ord := rfl
@[simp] theorem setNib_eng (s : State) (i : Nat) (x : NibSt) : (s.setNib i x).eng = s.eng := rfl
@[simp] theorem setNib_stalled (s : State) (i : Nat) (x : NibSt) : (s.setNib i x).stalled = s.stalled := rfl
@[simp] theorem setNib_served (s : State) (i : Nat) (x : NibSt) : (s.setNib i x).served = s.served := rfl
@[simp] theorem setNib_fer (s : State) (i : Nat) (x : NibSt) : (s.setNib i x).fer = s.fer := rfl
@[simp] theorem setNib_nib (s : State) (i : Nat) (x : NibSt) : (s.setNib i x).nib = sput s.nib i x NibSt.init := rfl
@[simp] theorem setNib_avl (s : State) (i : Nat) (x : NibSt) : (s.setNib i x).avl = s.avl := rfl
@[simp] theorem setNib_noc (s : State) (i : Nat) (x : NibSt) : (s.setNib i x).noc = s.noc := rfl
@[simp] theorem setNib_ra (s : State) (i : Nat) (x : NibSt) : (s.setNib i x).ra = s.ra := rfl
@[simp] theorem setNib_scb (s : State) (i : Nat) (x : NibSt) : (s.setNib i x).scb = s.scb := rfl
@[simp] theorem setNib_fh (s : State) (i : Nat) (x : NibSt) : (s.setNib i x).fh = s.fh := rfl
@[simp] theorem setNib_rad (s : State) (i : Nat) (x : NibSt) : (s.setNib i x).rad = s.rad := rfl
@[simp] theorem setNib_ylk (s : State) (i : Nat) (x : NibSt) : (s.setNib i x).ylk = s.ylk := rfl
@[simp] theorem setNib_pwr (s : State) (i : Nat) (x : NibSt) : (s.setNib i x).pwr = s.pwr := rfl
@[simp] theorem setNib_chp (s : State) (i : Nat) (x : NibSt) : (s.setNib i x).chp = s.chp := rfl
@[simp] theorem setNib_pal (s : State) (i : Nat) (x : NibSt) : (s.setNib i x).pal = s.pal := rfl
@[simp] theorem setNib_nsp (s : State) (i : Nat) (x : NibSt) : (s.setNib i x).nsp = s.nsp := rfl
@[simp] theorem setNib_host (s : State) (i : Nat) (x : NibSt) : (s.setNib i x).host = s.host := rfl
@[simp] theorem setNib_ipend (s : State) (i : Nat) (x : NibSt) : (s.setNib i x).ipend = s.ipend := rfl
@[simp] theorem setNib_spareTag (s : State) (i : Nat) (x : NibSt) : (s.setNib i x).spareTag = s.spareTag := rfl
@[simp] theorem setNib_free (s : State) (i : Nat) (x : NibSt) : (s.setNib i x).free = s.free := rfl
@[simp] theorem setNib_pending (s : State) (i : Nat) (x : NibSt) : (s.setNib i x).pending = s.pending := rfl

/-! ### State.setGridSt -/

@[simp] theorem setGridSt_csr (s : State) (g : Nat) (x : GridSt) : (s.setGridSt g x).csr = s.csr := rfl
@[simp] theorem setGridSt_mem (s : State) (g : Nat) (x : GridSt) : (s.setGridSt g x).mem = s.mem := rfl
@[simp] theorem setGridSt_poison (s : State) (g : Nat) (x : GridSt) : (s.setGridSt g x).poison = s.poison := rfl
@[simp] theorem setGridSt_retLost (s : State) (g : Nat) (x : GridSt) : (s.setGridSt g x).retLost = s.retLost := rfl
@[simp] theorem setGridSt_resp (s : State) (g : Nat) (x : GridSt) : (s.setGridSt g x).resp = s.resp := rfl
@[simp] theorem setGridSt_vlm (s : State) (g : Nat) (x : GridSt) : (s.setGridSt g x).vlm = s.vlm := rfl
@[simp] theorem setGridSt_time (s : State) (g : Nat) (x : GridSt) : (s.setGridSt g x).time = { s.time with grids := sput s.time.grids g x GridSt.init } := rfl
@[simp] theorem setGridSt_evq (s : State) (g : Nat) (x : GridSt) : (s.setGridSt g x).evq = s.evq := rfl
@[simp] theorem setGridSt_batch (s : State) (g : Nat) (x : GridSt) : (s.setGridSt g x).batch = s.batch := rfl
@[simp] theorem setGridSt_duc (s : State) (g : Nat) (x : GridSt) : (s.setGridSt g x).duc = s.duc := rfl
@[simp] theorem setGridSt_ord (s : State) (g : Nat) (x : GridSt) : (s.setGridSt g x).ord = s.ord := rfl
@[simp] theorem setGridSt_eng (s : State) (g : Nat) (x : GridSt) : (s.setGridSt g x).eng = s.eng := rfl
@[simp] theorem setGridSt_stalled (s : State) (g : Nat) (x : GridSt) : (s.setGridSt g x).stalled = s.stalled := rfl
@[simp] theorem setGridSt_served (s : State) (g : Nat) (x : GridSt) : (s.setGridSt g x).served = s.served := rfl
@[simp] theorem setGridSt_fer (s : State) (g : Nat) (x : GridSt) : (s.setGridSt g x).fer = s.fer := rfl
@[simp] theorem setGridSt_nib (s : State) (g : Nat) (x : GridSt) : (s.setGridSt g x).nib = s.nib := rfl
@[simp] theorem setGridSt_avl (s : State) (g : Nat) (x : GridSt) : (s.setGridSt g x).avl = s.avl := rfl
@[simp] theorem setGridSt_noc (s : State) (g : Nat) (x : GridSt) : (s.setGridSt g x).noc = s.noc := rfl
@[simp] theorem setGridSt_ra (s : State) (g : Nat) (x : GridSt) : (s.setGridSt g x).ra = s.ra := rfl
@[simp] theorem setGridSt_scb (s : State) (g : Nat) (x : GridSt) : (s.setGridSt g x).scb = s.scb := rfl
@[simp] theorem setGridSt_fh (s : State) (g : Nat) (x : GridSt) : (s.setGridSt g x).fh = s.fh := rfl
@[simp] theorem setGridSt_rad (s : State) (g : Nat) (x : GridSt) : (s.setGridSt g x).rad = s.rad := rfl
@[simp] theorem setGridSt_ylk (s : State) (g : Nat) (x : GridSt) : (s.setGridSt g x).ylk = s.ylk := rfl
@[simp] theorem setGridSt_pwr (s : State) (g : Nat) (x : GridSt) : (s.setGridSt g x).pwr = s.pwr := rfl
@[simp] theorem setGridSt_chp (s : State) (g : Nat) (x : GridSt) : (s.setGridSt g x).chp = s.chp := rfl
@[simp] theorem setGridSt_pal (s : State) (g : Nat) (x : GridSt) : (s.setGridSt g x).pal = s.pal := rfl
@[simp] theorem setGridSt_nsp (s : State) (g : Nat) (x : GridSt) : (s.setGridSt g x).nsp = s.nsp := rfl
@[simp] theorem setGridSt_host (s : State) (g : Nat) (x : GridSt) : (s.setGridSt g x).host = s.host := rfl
@[simp] theorem setGridSt_ipend (s : State) (g : Nat) (x : GridSt) : (s.setGridSt g x).ipend = s.ipend := rfl
@[simp] theorem setGridSt_spareTag (s : State) (g : Nat) (x : GridSt) : (s.setGridSt g x).spareTag = s.spareTag := rfl
@[simp] theorem setGridSt_free (s : State) (g : Nat) (x : GridSt) : (s.setGridSt g x).free = s.free := rfl
@[simp] theorem setGridSt_pending (s : State) (g : Nat) (x : GridSt) : (s.setGridSt g x).pending = s.pending := rfl

/-! ### State.setTrig -/

@[simp] theorem setTrig_csr (s : State) (c : Nat) (x : Trig) : (s.setTrig c x).csr = s.csr := rfl
@[simp] theorem setTrig_mem (s : State) (c : Nat) (x : Trig) : (s.setTrig c x).mem = s.mem := rfl
@[simp] theorem setTrig_poison (s : State) (c : Nat) (x : Trig) : (s.setTrig c x).poison = s.poison := rfl
@[simp] theorem setTrig_retLost (s : State) (c : Nat) (x : Trig) : (s.setTrig c x).retLost = s.retLost := rfl
@[simp] theorem setTrig_resp (s : State) (c : Nat) (x : Trig) : (s.setTrig c x).resp = s.resp := rfl
@[simp] theorem setTrig_vlm (s : State) (c : Nat) (x : Trig) : (s.setTrig c x).vlm = s.vlm := rfl
@[simp] theorem setTrig_time (s : State) (c : Nat) (x : Trig) : (s.setTrig c x).time = { s.time with trigs := sput s.time.trigs c x Trig.init } := rfl
@[simp] theorem setTrig_evq (s : State) (c : Nat) (x : Trig) : (s.setTrig c x).evq = s.evq := rfl
@[simp] theorem setTrig_batch (s : State) (c : Nat) (x : Trig) : (s.setTrig c x).batch = s.batch := rfl
@[simp] theorem setTrig_duc (s : State) (c : Nat) (x : Trig) : (s.setTrig c x).duc = s.duc := rfl
@[simp] theorem setTrig_ord (s : State) (c : Nat) (x : Trig) : (s.setTrig c x).ord = s.ord := rfl
@[simp] theorem setTrig_eng (s : State) (c : Nat) (x : Trig) : (s.setTrig c x).eng = s.eng := rfl
@[simp] theorem setTrig_stalled (s : State) (c : Nat) (x : Trig) : (s.setTrig c x).stalled = s.stalled := rfl
@[simp] theorem setTrig_served (s : State) (c : Nat) (x : Trig) : (s.setTrig c x).served = s.served := rfl
@[simp] theorem setTrig_fer (s : State) (c : Nat) (x : Trig) : (s.setTrig c x).fer = s.fer := rfl
@[simp] theorem setTrig_nib (s : State) (c : Nat) (x : Trig) : (s.setTrig c x).nib = s.nib := rfl
@[simp] theorem setTrig_avl (s : State) (c : Nat) (x : Trig) : (s.setTrig c x).avl = s.avl := rfl
@[simp] theorem setTrig_noc (s : State) (c : Nat) (x : Trig) : (s.setTrig c x).noc = s.noc := rfl
@[simp] theorem setTrig_ra (s : State) (c : Nat) (x : Trig) : (s.setTrig c x).ra = s.ra := rfl
@[simp] theorem setTrig_scb (s : State) (c : Nat) (x : Trig) : (s.setTrig c x).scb = s.scb := rfl
@[simp] theorem setTrig_fh (s : State) (c : Nat) (x : Trig) : (s.setTrig c x).fh = s.fh := rfl
@[simp] theorem setTrig_rad (s : State) (c : Nat) (x : Trig) : (s.setTrig c x).rad = s.rad := rfl
@[simp] theorem setTrig_ylk (s : State) (c : Nat) (x : Trig) : (s.setTrig c x).ylk = s.ylk := rfl
@[simp] theorem setTrig_pwr (s : State) (c : Nat) (x : Trig) : (s.setTrig c x).pwr = s.pwr := rfl
@[simp] theorem setTrig_chp (s : State) (c : Nat) (x : Trig) : (s.setTrig c x).chp = s.chp := rfl
@[simp] theorem setTrig_pal (s : State) (c : Nat) (x : Trig) : (s.setTrig c x).pal = s.pal := rfl
@[simp] theorem setTrig_nsp (s : State) (c : Nat) (x : Trig) : (s.setTrig c x).nsp = s.nsp := rfl
@[simp] theorem setTrig_host (s : State) (c : Nat) (x : Trig) : (s.setTrig c x).host = s.host := rfl
@[simp] theorem setTrig_ipend (s : State) (c : Nat) (x : Trig) : (s.setTrig c x).ipend = s.ipend := rfl
@[simp] theorem setTrig_spareTag (s : State) (c : Nat) (x : Trig) : (s.setTrig c x).spareTag = s.spareTag := rfl
@[simp] theorem setTrig_free (s : State) (c : Nat) (x : Trig) : (s.setTrig c x).free = s.free := rfl
@[simp] theorem setTrig_pending (s : State) (c : Nat) (x : Trig) : (s.setTrig c x).pending = s.pending := rfl

/-! ### State.setAvl -/

@[simp] theorem setAvl_csr (s : State) (x : AvlState) : (s.setAvl x).csr = s.csr := rfl
@[simp] theorem setAvl_mem (s : State) (x : AvlState) : (s.setAvl x).mem = s.mem := rfl
@[simp] theorem setAvl_poison (s : State) (x : AvlState) : (s.setAvl x).poison = s.poison := rfl
@[simp] theorem setAvl_retLost (s : State) (x : AvlState) : (s.setAvl x).retLost = s.retLost := rfl
@[simp] theorem setAvl_resp (s : State) (x : AvlState) : (s.setAvl x).resp = s.resp := rfl
@[simp] theorem setAvl_vlm (s : State) (x : AvlState) : (s.setAvl x).vlm = s.vlm := rfl
@[simp] theorem setAvl_time (s : State) (x : AvlState) : (s.setAvl x).time = s.time := rfl
@[simp] theorem setAvl_evq (s : State) (x : AvlState) : (s.setAvl x).evq = s.evq := rfl
@[simp] theorem setAvl_batch (s : State) (x : AvlState) : (s.setAvl x).batch = s.batch := rfl
@[simp] theorem setAvl_duc (s : State) (x : AvlState) : (s.setAvl x).duc = s.duc := rfl
@[simp] theorem setAvl_ord (s : State) (x : AvlState) : (s.setAvl x).ord = s.ord := rfl
@[simp] theorem setAvl_eng (s : State) (x : AvlState) : (s.setAvl x).eng = s.eng := rfl
@[simp] theorem setAvl_stalled (s : State) (x : AvlState) : (s.setAvl x).stalled = s.stalled := rfl
@[simp] theorem setAvl_served (s : State) (x : AvlState) : (s.setAvl x).served = s.served := rfl
@[simp] theorem setAvl_fer (s : State) (x : AvlState) : (s.setAvl x).fer = s.fer := rfl
@[simp] theorem setAvl_nib (s : State) (x : AvlState) : (s.setAvl x).nib = s.nib := rfl
@[simp] theorem setAvl_avl (s : State) (x : AvlState) : (s.setAvl x).avl = x := rfl
@[simp] theorem setAvl_noc (s : State) (x : AvlState) : (s.setAvl x).noc = s.noc := rfl
@[simp] theorem setAvl_ra (s : State) (x : AvlState) : (s.setAvl x).ra = s.ra := rfl
@[simp] theorem setAvl_scb (s : State) (x : AvlState) : (s.setAvl x).scb = s.scb := rfl
@[simp] theorem setAvl_fh (s : State) (x : AvlState) : (s.setAvl x).fh = s.fh := rfl
@[simp] theorem setAvl_rad (s : State) (x : AvlState) : (s.setAvl x).rad = s.rad := rfl
@[simp] theorem setAvl_ylk (s : State) (x : AvlState) : (s.setAvl x).ylk = s.ylk := rfl
@[simp] theorem setAvl_pwr (s : State) (x : AvlState) : (s.setAvl x).pwr = s.pwr := rfl
@[simp] theorem setAvl_chp (s : State) (x : AvlState) : (s.setAvl x).chp = s.chp := rfl
@[simp] theorem setAvl_pal (s : State) (x : AvlState) : (s.setAvl x).pal = s.pal := rfl
@[simp] theorem setAvl_nsp (s : State) (x : AvlState) : (s.setAvl x).nsp = s.nsp := rfl
@[simp] theorem setAvl_host (s : State) (x : AvlState) : (s.setAvl x).host = s.host := rfl
@[simp] theorem setAvl_ipend (s : State) (x : AvlState) : (s.setAvl x).ipend = s.ipend := rfl
@[simp] theorem setAvl_spareTag (s : State) (x : AvlState) : (s.setAvl x).spareTag = s.spareTag := rfl
@[simp] theorem setAvl_free (s : State) (x : AvlState) : (s.setAvl x).free = s.free := rfl
@[simp] theorem setAvl_pending (s : State) (x : AvlState) : (s.setAvl x).pending = s.pending := rfl

/-! ### State.setNoc -/

@[simp] theorem setNoc_csr (s : State) (x : NocState) : (s.setNoc x).csr = s.csr := rfl
@[simp] theorem setNoc_mem (s : State) (x : NocState) : (s.setNoc x).mem = s.mem := rfl
@[simp] theorem setNoc_poison (s : State) (x : NocState) : (s.setNoc x).poison = s.poison := rfl
@[simp] theorem setNoc_retLost (s : State) (x : NocState) : (s.setNoc x).retLost = s.retLost := rfl
@[simp] theorem setNoc_resp (s : State) (x : NocState) : (s.setNoc x).resp = s.resp := rfl
@[simp] theorem setNoc_vlm (s : State) (x : NocState) : (s.setNoc x).vlm = s.vlm := rfl
@[simp] theorem setNoc_time (s : State) (x : NocState) : (s.setNoc x).time = s.time := rfl
@[simp] theorem setNoc_evq (s : State) (x : NocState) : (s.setNoc x).evq = s.evq := rfl
@[simp] theorem setNoc_batch (s : State) (x : NocState) : (s.setNoc x).batch = s.batch := rfl
@[simp] theorem setNoc_duc (s : State) (x : NocState) : (s.setNoc x).duc = s.duc := rfl
@[simp] theorem setNoc_ord (s : State) (x : NocState) : (s.setNoc x).ord = s.ord := rfl
@[simp] theorem setNoc_eng (s : State) (x : NocState) : (s.setNoc x).eng = s.eng := rfl
@[simp] theorem setNoc_stalled (s : State) (x : NocState) : (s.setNoc x).stalled = s.stalled := rfl
@[simp] theorem setNoc_served (s : State) (x : NocState) : (s.setNoc x).served = s.served := rfl
@[simp] theorem setNoc_fer (s : State) (x : NocState) : (s.setNoc x).fer = s.fer := rfl
@[simp] theorem setNoc_nib (s : State) (x : NocState) : (s.setNoc x).nib = s.nib := rfl
@[simp] theorem setNoc_avl (s : State) (x : NocState) : (s.setNoc x).avl = s.avl := rfl
@[simp] theorem setNoc_noc (s : State) (x : NocState) : (s.setNoc x).noc = x := rfl
@[simp] theorem setNoc_ra (s : State) (x : NocState) : (s.setNoc x).ra = s.ra := rfl
@[simp] theorem setNoc_scb (s : State) (x : NocState) : (s.setNoc x).scb = s.scb := rfl
@[simp] theorem setNoc_fh (s : State) (x : NocState) : (s.setNoc x).fh = s.fh := rfl
@[simp] theorem setNoc_rad (s : State) (x : NocState) : (s.setNoc x).rad = s.rad := rfl
@[simp] theorem setNoc_ylk (s : State) (x : NocState) : (s.setNoc x).ylk = s.ylk := rfl
@[simp] theorem setNoc_pwr (s : State) (x : NocState) : (s.setNoc x).pwr = s.pwr := rfl
@[simp] theorem setNoc_chp (s : State) (x : NocState) : (s.setNoc x).chp = s.chp := rfl
@[simp] theorem setNoc_pal (s : State) (x : NocState) : (s.setNoc x).pal = s.pal := rfl
@[simp] theorem setNoc_nsp (s : State) (x : NocState) : (s.setNoc x).nsp = s.nsp := rfl
@[simp] theorem setNoc_host (s : State) (x : NocState) : (s.setNoc x).host = s.host := rfl
@[simp] theorem setNoc_ipend (s : State) (x : NocState) : (s.setNoc x).ipend = s.ipend := rfl
@[simp] theorem setNoc_spareTag (s : State) (x : NocState) : (s.setNoc x).spareTag = s.spareTag := rfl
@[simp] theorem setNoc_free (s : State) (x : NocState) : (s.setNoc x).free = s.free := rfl
@[simp] theorem setNoc_pending (s : State) (x : NocState) : (s.setNoc x).pending = s.pending := rfl

/-! ### State.setScb -/

@[simp] theorem setScb_csr (s : State) (x : ScbState) : (s.setScb x).csr = s.csr := rfl
@[simp] theorem setScb_mem (s : State) (x : ScbState) : (s.setScb x).mem = s.mem := rfl
@[simp] theorem setScb_poison (s : State) (x : ScbState) : (s.setScb x).poison = s.poison := rfl
@[simp] theorem setScb_retLost (s : State) (x : ScbState) : (s.setScb x).retLost = s.retLost := rfl
@[simp] theorem setScb_resp (s : State) (x : ScbState) : (s.setScb x).resp = s.resp := rfl
@[simp] theorem setScb_vlm (s : State) (x : ScbState) : (s.setScb x).vlm = s.vlm := rfl
@[simp] theorem setScb_time (s : State) (x : ScbState) : (s.setScb x).time = s.time := rfl
@[simp] theorem setScb_evq (s : State) (x : ScbState) : (s.setScb x).evq = s.evq := rfl
@[simp] theorem setScb_batch (s : State) (x : ScbState) : (s.setScb x).batch = s.batch := rfl
@[simp] theorem setScb_duc (s : State) (x : ScbState) : (s.setScb x).duc = s.duc := rfl
@[simp] theorem setScb_ord (s : State) (x : ScbState) : (s.setScb x).ord = s.ord := rfl
@[simp] theorem setScb_eng (s : State) (x : ScbState) : (s.setScb x).eng = s.eng := rfl
@[simp] theorem setScb_stalled (s : State) (x : ScbState) : (s.setScb x).stalled = s.stalled := rfl
@[simp] theorem setScb_served (s : State) (x : ScbState) : (s.setScb x).served = s.served := rfl
@[simp] theorem setScb_fer (s : State) (x : ScbState) : (s.setScb x).fer = s.fer := rfl
@[simp] theorem setScb_nib (s : State) (x : ScbState) : (s.setScb x).nib = s.nib := rfl
@[simp] theorem setScb_avl (s : State) (x : ScbState) : (s.setScb x).avl = s.avl := rfl
@[simp] theorem setScb_noc (s : State) (x : ScbState) : (s.setScb x).noc = s.noc := rfl
@[simp] theorem setScb_ra (s : State) (x : ScbState) : (s.setScb x).ra = s.ra := rfl
@[simp] theorem setScb_scb (s : State) (x : ScbState) : (s.setScb x).scb = x := rfl
@[simp] theorem setScb_fh (s : State) (x : ScbState) : (s.setScb x).fh = s.fh := rfl
@[simp] theorem setScb_rad (s : State) (x : ScbState) : (s.setScb x).rad = s.rad := rfl
@[simp] theorem setScb_ylk (s : State) (x : ScbState) : (s.setScb x).ylk = s.ylk := rfl
@[simp] theorem setScb_pwr (s : State) (x : ScbState) : (s.setScb x).pwr = s.pwr := rfl
@[simp] theorem setScb_chp (s : State) (x : ScbState) : (s.setScb x).chp = s.chp := rfl
@[simp] theorem setScb_pal (s : State) (x : ScbState) : (s.setScb x).pal = s.pal := rfl
@[simp] theorem setScb_nsp (s : State) (x : ScbState) : (s.setScb x).nsp = s.nsp := rfl
@[simp] theorem setScb_host (s : State) (x : ScbState) : (s.setScb x).host = s.host := rfl
@[simp] theorem setScb_ipend (s : State) (x : ScbState) : (s.setScb x).ipend = s.ipend := rfl
@[simp] theorem setScb_spareTag (s : State) (x : ScbState) : (s.setScb x).spareTag = s.spareTag := rfl
@[simp] theorem setScb_free (s : State) (x : ScbState) : (s.setScb x).free = s.free := rfl
@[simp] theorem setScb_pending (s : State) (x : ScbState) : (s.setScb x).pending = s.pending := rfl

/-! ### State.setFh -/

@[simp] theorem setFh_csr (s : State) (x : FhState) : (s.setFh x).csr = s.csr := rfl
@[simp] theorem setFh_mem (s : State) (x : FhState) : (s.setFh x).mem = s.mem := rfl
@[simp] theorem setFh_poison (s : State) (x : FhState) : (s.setFh x).poison = s.poison := rfl
@[simp] theorem setFh_retLost (s : State) (x : FhState) : (s.setFh x).retLost = s.retLost := rfl
@[simp] theorem setFh_resp (s : State) (x : FhState) : (s.setFh x).resp = s.resp := rfl
@[simp] theorem setFh_vlm (s : State) (x : FhState) : (s.setFh x).vlm = s.vlm := rfl
@[simp] theorem setFh_time (s : State) (x : FhState) : (s.setFh x).time = s.time := rfl
@[simp] theorem setFh_evq (s : State) (x : FhState) : (s.setFh x).evq = s.evq := rfl
@[simp] theorem setFh_batch (s : State) (x : FhState) : (s.setFh x).batch = s.batch := rfl
@[simp] theorem setFh_duc (s : State) (x : FhState) : (s.setFh x).duc = s.duc := rfl
@[simp] theorem setFh_ord (s : State) (x : FhState) : (s.setFh x).ord = s.ord := rfl
@[simp] theorem setFh_eng (s : State) (x : FhState) : (s.setFh x).eng = s.eng := rfl
@[simp] theorem setFh_stalled (s : State) (x : FhState) : (s.setFh x).stalled = s.stalled := rfl
@[simp] theorem setFh_served (s : State) (x : FhState) : (s.setFh x).served = s.served := rfl
@[simp] theorem setFh_fer (s : State) (x : FhState) : (s.setFh x).fer = s.fer := rfl
@[simp] theorem setFh_nib (s : State) (x : FhState) : (s.setFh x).nib = s.nib := rfl
@[simp] theorem setFh_avl (s : State) (x : FhState) : (s.setFh x).avl = s.avl := rfl
@[simp] theorem setFh_noc (s : State) (x : FhState) : (s.setFh x).noc = s.noc := rfl
@[simp] theorem setFh_ra (s : State) (x : FhState) : (s.setFh x).ra = s.ra := rfl
@[simp] theorem setFh_scb (s : State) (x : FhState) : (s.setFh x).scb = s.scb := rfl
@[simp] theorem setFh_fh (s : State) (x : FhState) : (s.setFh x).fh = x := rfl
@[simp] theorem setFh_rad (s : State) (x : FhState) : (s.setFh x).rad = s.rad := rfl
@[simp] theorem setFh_ylk (s : State) (x : FhState) : (s.setFh x).ylk = s.ylk := rfl
@[simp] theorem setFh_pwr (s : State) (x : FhState) : (s.setFh x).pwr = s.pwr := rfl
@[simp] theorem setFh_chp (s : State) (x : FhState) : (s.setFh x).chp = s.chp := rfl
@[simp] theorem setFh_pal (s : State) (x : FhState) : (s.setFh x).pal = s.pal := rfl
@[simp] theorem setFh_nsp (s : State) (x : FhState) : (s.setFh x).nsp = s.nsp := rfl
@[simp] theorem setFh_host (s : State) (x : FhState) : (s.setFh x).host = s.host := rfl
@[simp] theorem setFh_ipend (s : State) (x : FhState) : (s.setFh x).ipend = s.ipend := rfl
@[simp] theorem setFh_spareTag (s : State) (x : FhState) : (s.setFh x).spareTag = s.spareTag := rfl
@[simp] theorem setFh_free (s : State) (x : FhState) : (s.setFh x).free = s.free := rfl
@[simp] theorem setFh_pending (s : State) (x : FhState) : (s.setFh x).pending = s.pending := rfl

/-! ### State.setRad -/

@[simp] theorem setRad_csr (s : State) (x : RadState) : (s.setRad x).csr = s.csr := rfl
@[simp] theorem setRad_mem (s : State) (x : RadState) : (s.setRad x).mem = s.mem := rfl
@[simp] theorem setRad_poison (s : State) (x : RadState) : (s.setRad x).poison = s.poison := rfl
@[simp] theorem setRad_retLost (s : State) (x : RadState) : (s.setRad x).retLost = s.retLost := rfl
@[simp] theorem setRad_resp (s : State) (x : RadState) : (s.setRad x).resp = s.resp := rfl
@[simp] theorem setRad_vlm (s : State) (x : RadState) : (s.setRad x).vlm = s.vlm := rfl
@[simp] theorem setRad_time (s : State) (x : RadState) : (s.setRad x).time = s.time := rfl
@[simp] theorem setRad_evq (s : State) (x : RadState) : (s.setRad x).evq = s.evq := rfl
@[simp] theorem setRad_batch (s : State) (x : RadState) : (s.setRad x).batch = s.batch := rfl
@[simp] theorem setRad_duc (s : State) (x : RadState) : (s.setRad x).duc = s.duc := rfl
@[simp] theorem setRad_ord (s : State) (x : RadState) : (s.setRad x).ord = s.ord := rfl
@[simp] theorem setRad_eng (s : State) (x : RadState) : (s.setRad x).eng = s.eng := rfl
@[simp] theorem setRad_stalled (s : State) (x : RadState) : (s.setRad x).stalled = s.stalled := rfl
@[simp] theorem setRad_served (s : State) (x : RadState) : (s.setRad x).served = s.served := rfl
@[simp] theorem setRad_fer (s : State) (x : RadState) : (s.setRad x).fer = s.fer := rfl
@[simp] theorem setRad_nib (s : State) (x : RadState) : (s.setRad x).nib = s.nib := rfl
@[simp] theorem setRad_avl (s : State) (x : RadState) : (s.setRad x).avl = s.avl := rfl
@[simp] theorem setRad_noc (s : State) (x : RadState) : (s.setRad x).noc = s.noc := rfl
@[simp] theorem setRad_ra (s : State) (x : RadState) : (s.setRad x).ra = s.ra := rfl
@[simp] theorem setRad_scb (s : State) (x : RadState) : (s.setRad x).scb = s.scb := rfl
@[simp] theorem setRad_fh (s : State) (x : RadState) : (s.setRad x).fh = s.fh := rfl
@[simp] theorem setRad_rad (s : State) (x : RadState) : (s.setRad x).rad = x := rfl
@[simp] theorem setRad_ylk (s : State) (x : RadState) : (s.setRad x).ylk = s.ylk := rfl
@[simp] theorem setRad_pwr (s : State) (x : RadState) : (s.setRad x).pwr = s.pwr := rfl
@[simp] theorem setRad_chp (s : State) (x : RadState) : (s.setRad x).chp = s.chp := rfl
@[simp] theorem setRad_pal (s : State) (x : RadState) : (s.setRad x).pal = s.pal := rfl
@[simp] theorem setRad_nsp (s : State) (x : RadState) : (s.setRad x).nsp = s.nsp := rfl
@[simp] theorem setRad_host (s : State) (x : RadState) : (s.setRad x).host = s.host := rfl
@[simp] theorem setRad_ipend (s : State) (x : RadState) : (s.setRad x).ipend = s.ipend := rfl
@[simp] theorem setRad_spareTag (s : State) (x : RadState) : (s.setRad x).spareTag = s.spareTag := rfl
@[simp] theorem setRad_free (s : State) (x : RadState) : (s.setRad x).free = s.free := rfl
@[simp] theorem setRad_pending (s : State) (x : RadState) : (s.setRad x).pending = s.pending := rfl

/-! ### State.setYlk -/

@[simp] theorem setYlk_csr (s : State) (x : YlkState) : (s.setYlk x).csr = s.csr := rfl
@[simp] theorem setYlk_mem (s : State) (x : YlkState) : (s.setYlk x).mem = s.mem := rfl
@[simp] theorem setYlk_poison (s : State) (x : YlkState) : (s.setYlk x).poison = s.poison := rfl
@[simp] theorem setYlk_retLost (s : State) (x : YlkState) : (s.setYlk x).retLost = s.retLost := rfl
@[simp] theorem setYlk_resp (s : State) (x : YlkState) : (s.setYlk x).resp = s.resp := rfl
@[simp] theorem setYlk_vlm (s : State) (x : YlkState) : (s.setYlk x).vlm = s.vlm := rfl
@[simp] theorem setYlk_time (s : State) (x : YlkState) : (s.setYlk x).time = s.time := rfl
@[simp] theorem setYlk_evq (s : State) (x : YlkState) : (s.setYlk x).evq = s.evq := rfl
@[simp] theorem setYlk_batch (s : State) (x : YlkState) : (s.setYlk x).batch = s.batch := rfl
@[simp] theorem setYlk_duc (s : State) (x : YlkState) : (s.setYlk x).duc = s.duc := rfl
@[simp] theorem setYlk_ord (s : State) (x : YlkState) : (s.setYlk x).ord = s.ord := rfl
@[simp] theorem setYlk_eng (s : State) (x : YlkState) : (s.setYlk x).eng = s.eng := rfl
@[simp] theorem setYlk_stalled (s : State) (x : YlkState) : (s.setYlk x).stalled = s.stalled := rfl
@[simp] theorem setYlk_served (s : State) (x : YlkState) : (s.setYlk x).served = s.served := rfl
@[simp] theorem setYlk_fer (s : State) (x : YlkState) : (s.setYlk x).fer = s.fer := rfl
@[simp] theorem setYlk_nib (s : State) (x : YlkState) : (s.setYlk x).nib = s.nib := rfl
@[simp] theorem setYlk_avl (s : State) (x : YlkState) : (s.setYlk x).avl = s.avl := rfl
@[simp] theorem setYlk_noc (s : State) (x : YlkState) : (s.setYlk x).noc = s.noc := rfl
@[simp] theorem setYlk_ra (s : State) (x : YlkState) : (s.setYlk x).ra = s.ra := rfl
@[simp] theorem setYlk_scb (s : State) (x : YlkState) : (s.setYlk x).scb = s.scb := rfl
@[simp] theorem setYlk_fh (s : State) (x : YlkState) : (s.setYlk x).fh = s.fh := rfl
@[simp] theorem setYlk_rad (s : State) (x : YlkState) : (s.setYlk x).rad = s.rad := rfl
@[simp] theorem setYlk_ylk (s : State) (x : YlkState) : (s.setYlk x).ylk = x := rfl
@[simp] theorem setYlk_pwr (s : State) (x : YlkState) : (s.setYlk x).pwr = s.pwr := rfl
@[simp] theorem setYlk_chp (s : State) (x : YlkState) : (s.setYlk x).chp = s.chp := rfl
@[simp] theorem setYlk_pal (s : State) (x : YlkState) : (s.setYlk x).pal = s.pal := rfl
@[simp] theorem setYlk_nsp (s : State) (x : YlkState) : (s.setYlk x).nsp = s.nsp := rfl
@[simp] theorem setYlk_host (s : State) (x : YlkState) : (s.setYlk x).host = s.host := rfl
@[simp] theorem setYlk_ipend (s : State) (x : YlkState) : (s.setYlk x).ipend = s.ipend := rfl
@[simp] theorem setYlk_spareTag (s : State) (x : YlkState) : (s.setYlk x).spareTag = s.spareTag := rfl
@[simp] theorem setYlk_free (s : State) (x : YlkState) : (s.setYlk x).free = s.free := rfl
@[simp] theorem setYlk_pending (s : State) (x : YlkState) : (s.setYlk x).pending = s.pending := rfl

/-! ### State.setPwr -/

@[simp] theorem setPwr_csr (s : State) (x : PwrState) : (s.setPwr x).csr = s.csr := rfl
@[simp] theorem setPwr_mem (s : State) (x : PwrState) : (s.setPwr x).mem = s.mem := rfl
@[simp] theorem setPwr_poison (s : State) (x : PwrState) : (s.setPwr x).poison = s.poison := rfl
@[simp] theorem setPwr_retLost (s : State) (x : PwrState) : (s.setPwr x).retLost = s.retLost := rfl
@[simp] theorem setPwr_resp (s : State) (x : PwrState) : (s.setPwr x).resp = s.resp := rfl
@[simp] theorem setPwr_vlm (s : State) (x : PwrState) : (s.setPwr x).vlm = s.vlm := rfl
@[simp] theorem setPwr_time (s : State) (x : PwrState) : (s.setPwr x).time = s.time := rfl
@[simp] theorem setPwr_evq (s : State) (x : PwrState) : (s.setPwr x).evq = s.evq := rfl
@[simp] theorem setPwr_batch (s : State) (x : PwrState) : (s.setPwr x).batch = s.batch := rfl
@[simp] theorem setPwr_duc (s : State) (x : PwrState) : (s.setPwr x).duc = s.duc := rfl
@[simp] theorem setPwr_ord (s : State) (x : PwrState) : (s.setPwr x).ord = s.ord := rfl
@[simp] theorem setPwr_eng (s : State) (x : PwrState) : (s.setPwr x).eng = s.eng := rfl
@[simp] theorem setPwr_stalled (s : State) (x : PwrState) : (s.setPwr x).stalled = s.stalled := rfl
@[simp] theorem setPwr_served (s : State) (x : PwrState) : (s.setPwr x).served = s.served := rfl
@[simp] theorem setPwr_fer (s : State) (x : PwrState) : (s.setPwr x).fer = s.fer := rfl
@[simp] theorem setPwr_nib (s : State) (x : PwrState) : (s.setPwr x).nib = s.nib := rfl
@[simp] theorem setPwr_avl (s : State) (x : PwrState) : (s.setPwr x).avl = s.avl := rfl
@[simp] theorem setPwr_noc (s : State) (x : PwrState) : (s.setPwr x).noc = s.noc := rfl
@[simp] theorem setPwr_ra (s : State) (x : PwrState) : (s.setPwr x).ra = s.ra := rfl
@[simp] theorem setPwr_scb (s : State) (x : PwrState) : (s.setPwr x).scb = s.scb := rfl
@[simp] theorem setPwr_fh (s : State) (x : PwrState) : (s.setPwr x).fh = s.fh := rfl
@[simp] theorem setPwr_rad (s : State) (x : PwrState) : (s.setPwr x).rad = s.rad := rfl
@[simp] theorem setPwr_ylk (s : State) (x : PwrState) : (s.setPwr x).ylk = s.ylk := rfl
@[simp] theorem setPwr_pwr (s : State) (x : PwrState) : (s.setPwr x).pwr = x := rfl
@[simp] theorem setPwr_chp (s : State) (x : PwrState) : (s.setPwr x).chp = s.chp := rfl
@[simp] theorem setPwr_pal (s : State) (x : PwrState) : (s.setPwr x).pal = s.pal := rfl
@[simp] theorem setPwr_nsp (s : State) (x : PwrState) : (s.setPwr x).nsp = s.nsp := rfl
@[simp] theorem setPwr_host (s : State) (x : PwrState) : (s.setPwr x).host = s.host := rfl
@[simp] theorem setPwr_ipend (s : State) (x : PwrState) : (s.setPwr x).ipend = s.ipend := rfl
@[simp] theorem setPwr_spareTag (s : State) (x : PwrState) : (s.setPwr x).spareTag = s.spareTag := rfl
@[simp] theorem setPwr_free (s : State) (x : PwrState) : (s.setPwr x).free = s.free := rfl
@[simp] theorem setPwr_pending (s : State) (x : PwrState) : (s.setPwr x).pending = s.pending := rfl

/-! ### State.setChp -/

@[simp] theorem setChp_csr (s : State) (x : ChpState) : (s.setChp x).csr = s.csr := rfl
@[simp] theorem setChp_mem (s : State) (x : ChpState) : (s.setChp x).mem = s.mem := rfl
@[simp] theorem setChp_poison (s : State) (x : ChpState) : (s.setChp x).poison = s.poison := rfl
@[simp] theorem setChp_retLost (s : State) (x : ChpState) : (s.setChp x).retLost = s.retLost := rfl
@[simp] theorem setChp_resp (s : State) (x : ChpState) : (s.setChp x).resp = s.resp := rfl
@[simp] theorem setChp_vlm (s : State) (x : ChpState) : (s.setChp x).vlm = s.vlm := rfl
@[simp] theorem setChp_time (s : State) (x : ChpState) : (s.setChp x).time = s.time := rfl
@[simp] theorem setChp_evq (s : State) (x : ChpState) : (s.setChp x).evq = s.evq := rfl
@[simp] theorem setChp_batch (s : State) (x : ChpState) : (s.setChp x).batch = s.batch := rfl
@[simp] theorem setChp_duc (s : State) (x : ChpState) : (s.setChp x).duc = s.duc := rfl
@[simp] theorem setChp_ord (s : State) (x : ChpState) : (s.setChp x).ord = s.ord := rfl
@[simp] theorem setChp_eng (s : State) (x : ChpState) : (s.setChp x).eng = s.eng := rfl
@[simp] theorem setChp_stalled (s : State) (x : ChpState) : (s.setChp x).stalled = s.stalled := rfl
@[simp] theorem setChp_served (s : State) (x : ChpState) : (s.setChp x).served = s.served := rfl
@[simp] theorem setChp_fer (s : State) (x : ChpState) : (s.setChp x).fer = s.fer := rfl
@[simp] theorem setChp_nib (s : State) (x : ChpState) : (s.setChp x).nib = s.nib := rfl
@[simp] theorem setChp_avl (s : State) (x : ChpState) : (s.setChp x).avl = s.avl := rfl
@[simp] theorem setChp_noc (s : State) (x : ChpState) : (s.setChp x).noc = s.noc := rfl
@[simp] theorem setChp_ra (s : State) (x : ChpState) : (s.setChp x).ra = s.ra := rfl
@[simp] theorem setChp_scb (s : State) (x : ChpState) : (s.setChp x).scb = s.scb := rfl
@[simp] theorem setChp_fh (s : State) (x : ChpState) : (s.setChp x).fh = s.fh := rfl
@[simp] theorem setChp_rad (s : State) (x : ChpState) : (s.setChp x).rad = s.rad := rfl
@[simp] theorem setChp_ylk (s : State) (x : ChpState) : (s.setChp x).ylk = s.ylk := rfl
@[simp] theorem setChp_pwr (s : State) (x : ChpState) : (s.setChp x).pwr = s.pwr := rfl
@[simp] theorem setChp_chp (s : State) (x : ChpState) : (s.setChp x).chp = x := rfl
@[simp] theorem setChp_pal (s : State) (x : ChpState) : (s.setChp x).pal = s.pal := rfl
@[simp] theorem setChp_nsp (s : State) (x : ChpState) : (s.setChp x).nsp = s.nsp := rfl
@[simp] theorem setChp_host (s : State) (x : ChpState) : (s.setChp x).host = s.host := rfl
@[simp] theorem setChp_ipend (s : State) (x : ChpState) : (s.setChp x).ipend = s.ipend := rfl
@[simp] theorem setChp_spareTag (s : State) (x : ChpState) : (s.setChp x).spareTag = s.spareTag := rfl
@[simp] theorem setChp_free (s : State) (x : ChpState) : (s.setChp x).free = s.free := rfl
@[simp] theorem setChp_pending (s : State) (x : ChpState) : (s.setChp x).pending = s.pending := rfl

/-! ### State.setPal -/

@[simp] theorem setPal_csr (s : State) (x : PalState) : (s.setPal x).csr = s.csr := rfl
@[simp] theorem setPal_mem (s : State) (x : PalState) : (s.setPal x).mem = s.mem := rfl
@[simp] theorem setPal_poison (s : State) (x : PalState) : (s.setPal x).poison = s.poison := rfl
@[simp] theorem setPal_retLost (s : State) (x : PalState) : (s.setPal x).retLost = s.retLost := rfl
@[simp] theorem setPal_resp (s : State) (x : PalState) : (s.setPal x).resp = s.resp := rfl
@[simp] theorem setPal_vlm (s : State) (x : PalState) : (s.setPal x).vlm = s.vlm := rfl
@[simp] theorem setPal_time (s : State) (x : PalState) : (s.setPal x).time = s.time := rfl
@[simp] theorem setPal_evq (s : State) (x : PalState) : (s.setPal x).evq = s.evq := rfl
@[simp] theorem setPal_batch (s : State) (x : PalState) : (s.setPal x).batch = s.batch := rfl
@[simp] theorem setPal_duc (s : State) (x : PalState) : (s.setPal x).duc = s.duc := rfl
@[simp] theorem setPal_ord (s : State) (x : PalState) : (s.setPal x).ord = s.ord := rfl
@[simp] theorem setPal_eng (s : State) (x : PalState) : (s.setPal x).eng = s.eng := rfl
@[simp] theorem setPal_stalled (s : State) (x : PalState) : (s.setPal x).stalled = s.stalled := rfl
@[simp] theorem setPal_served (s : State) (x : PalState) : (s.setPal x).served = s.served := rfl
@[simp] theorem setPal_fer (s : State) (x : PalState) : (s.setPal x).fer = s.fer := rfl
@[simp] theorem setPal_nib (s : State) (x : PalState) : (s.setPal x).nib = s.nib := rfl
@[simp] theorem setPal_avl (s : State) (x : PalState) : (s.setPal x).avl = s.avl := rfl
@[simp] theorem setPal_noc (s : State) (x : PalState) : (s.setPal x).noc = s.noc := rfl
@[simp] theorem setPal_ra (s : State) (x : PalState) : (s.setPal x).ra = s.ra := rfl
@[simp] theorem setPal_scb (s : State) (x : PalState) : (s.setPal x).scb = s.scb := rfl
@[simp] theorem setPal_fh (s : State) (x : PalState) : (s.setPal x).fh = s.fh := rfl
@[simp] theorem setPal_rad (s : State) (x : PalState) : (s.setPal x).rad = s.rad := rfl
@[simp] theorem setPal_ylk (s : State) (x : PalState) : (s.setPal x).ylk = s.ylk := rfl
@[simp] theorem setPal_pwr (s : State) (x : PalState) : (s.setPal x).pwr = s.pwr := rfl
@[simp] theorem setPal_chp (s : State) (x : PalState) : (s.setPal x).chp = s.chp := rfl
@[simp] theorem setPal_pal (s : State) (x : PalState) : (s.setPal x).pal = x := rfl
@[simp] theorem setPal_nsp (s : State) (x : PalState) : (s.setPal x).nsp = s.nsp := rfl
@[simp] theorem setPal_host (s : State) (x : PalState) : (s.setPal x).host = s.host := rfl
@[simp] theorem setPal_ipend (s : State) (x : PalState) : (s.setPal x).ipend = s.ipend := rfl
@[simp] theorem setPal_spareTag (s : State) (x : PalState) : (s.setPal x).spareTag = s.spareTag := rfl
@[simp] theorem setPal_free (s : State) (x : PalState) : (s.setPal x).free = s.free := rfl
@[simp] theorem setPal_pending (s : State) (x : PalState) : (s.setPal x).pending = s.pending := rfl

/-! ### State.setNsp -/

@[simp] theorem setNsp_csr (s : State) (x : NspState) : (s.setNsp x).csr = s.csr := rfl
@[simp] theorem setNsp_mem (s : State) (x : NspState) : (s.setNsp x).mem = s.mem := rfl
@[simp] theorem setNsp_poison (s : State) (x : NspState) : (s.setNsp x).poison = s.poison := rfl
@[simp] theorem setNsp_retLost (s : State) (x : NspState) : (s.setNsp x).retLost = s.retLost := rfl
@[simp] theorem setNsp_resp (s : State) (x : NspState) : (s.setNsp x).resp = s.resp := rfl
@[simp] theorem setNsp_vlm (s : State) (x : NspState) : (s.setNsp x).vlm = s.vlm := rfl
@[simp] theorem setNsp_time (s : State) (x : NspState) : (s.setNsp x).time = s.time := rfl
@[simp] theorem setNsp_evq (s : State) (x : NspState) : (s.setNsp x).evq = s.evq := rfl
@[simp] theorem setNsp_batch (s : State) (x : NspState) : (s.setNsp x).batch = s.batch := rfl
@[simp] theorem setNsp_duc (s : State) (x : NspState) : (s.setNsp x).duc = s.duc := rfl
@[simp] theorem setNsp_ord (s : State) (x : NspState) : (s.setNsp x).ord = s.ord := rfl
@[simp] theorem setNsp_eng (s : State) (x : NspState) : (s.setNsp x).eng = s.eng := rfl
@[simp] theorem setNsp_stalled (s : State) (x : NspState) : (s.setNsp x).stalled = s.stalled := rfl
@[simp] theorem setNsp_served (s : State) (x : NspState) : (s.setNsp x).served = s.served := rfl
@[simp] theorem setNsp_fer (s : State) (x : NspState) : (s.setNsp x).fer = s.fer := rfl
@[simp] theorem setNsp_nib (s : State) (x : NspState) : (s.setNsp x).nib = s.nib := rfl
@[simp] theorem setNsp_avl (s : State) (x : NspState) : (s.setNsp x).avl = s.avl := rfl
@[simp] theorem setNsp_noc (s : State) (x : NspState) : (s.setNsp x).noc = s.noc := rfl
@[simp] theorem setNsp_ra (s : State) (x : NspState) : (s.setNsp x).ra = s.ra := rfl
@[simp] theorem setNsp_scb (s : State) (x : NspState) : (s.setNsp x).scb = s.scb := rfl
@[simp] theorem setNsp_fh (s : State) (x : NspState) : (s.setNsp x).fh = s.fh := rfl
@[simp] theorem setNsp_rad (s : State) (x : NspState) : (s.setNsp x).rad = s.rad := rfl
@[simp] theorem setNsp_ylk (s : State) (x : NspState) : (s.setNsp x).ylk = s.ylk := rfl
@[simp] theorem setNsp_pwr (s : State) (x : NspState) : (s.setNsp x).pwr = s.pwr := rfl
@[simp] theorem setNsp_chp (s : State) (x : NspState) : (s.setNsp x).chp = s.chp := rfl
@[simp] theorem setNsp_pal (s : State) (x : NspState) : (s.setNsp x).pal = s.pal := rfl
@[simp] theorem setNsp_nsp (s : State) (x : NspState) : (s.setNsp x).nsp = x := rfl
@[simp] theorem setNsp_host (s : State) (x : NspState) : (s.setNsp x).host = s.host := rfl
@[simp] theorem setNsp_ipend (s : State) (x : NspState) : (s.setNsp x).ipend = s.ipend := rfl
@[simp] theorem setNsp_spareTag (s : State) (x : NspState) : (s.setNsp x).spareTag = s.spareTag := rfl
@[simp] theorem setNsp_free (s : State) (x : NspState) : (s.setNsp x).free = s.free := rfl
@[simp] theorem setNsp_pending (s : State) (x : NspState) : (s.setNsp x).pending = s.pending := rfl

/-! ### State.setHost -/

@[simp] theorem setHost_csr (s : State) (x : HostState) : (s.setHost x).csr = s.csr := rfl
@[simp] theorem setHost_mem (s : State) (x : HostState) : (s.setHost x).mem = s.mem := rfl
@[simp] theorem setHost_poison (s : State) (x : HostState) : (s.setHost x).poison = s.poison := rfl
@[simp] theorem setHost_retLost (s : State) (x : HostState) : (s.setHost x).retLost = s.retLost := rfl
@[simp] theorem setHost_resp (s : State) (x : HostState) : (s.setHost x).resp = s.resp := rfl
@[simp] theorem setHost_vlm (s : State) (x : HostState) : (s.setHost x).vlm = s.vlm := rfl
@[simp] theorem setHost_time (s : State) (x : HostState) : (s.setHost x).time = s.time := rfl
@[simp] theorem setHost_evq (s : State) (x : HostState) : (s.setHost x).evq = s.evq := rfl
@[simp] theorem setHost_batch (s : State) (x : HostState) : (s.setHost x).batch = s.batch := rfl
@[simp] theorem setHost_duc (s : State) (x : HostState) : (s.setHost x).duc = s.duc := rfl
@[simp] theorem setHost_ord (s : State) (x : HostState) : (s.setHost x).ord = s.ord := rfl
@[simp] theorem setHost_eng (s : State) (x : HostState) : (s.setHost x).eng = s.eng := rfl
@[simp] theorem setHost_stalled (s : State) (x : HostState) : (s.setHost x).stalled = s.stalled := rfl
@[simp] theorem setHost_served (s : State) (x : HostState) : (s.setHost x).served = s.served := rfl
@[simp] theorem setHost_fer (s : State) (x : HostState) : (s.setHost x).fer = s.fer := rfl
@[simp] theorem setHost_nib (s : State) (x : HostState) : (s.setHost x).nib = s.nib := rfl
@[simp] theorem setHost_avl (s : State) (x : HostState) : (s.setHost x).avl = s.avl := rfl
@[simp] theorem setHost_noc (s : State) (x : HostState) : (s.setHost x).noc = s.noc := rfl
@[simp] theorem setHost_ra (s : State) (x : HostState) : (s.setHost x).ra = s.ra := rfl
@[simp] theorem setHost_scb (s : State) (x : HostState) : (s.setHost x).scb = s.scb := rfl
@[simp] theorem setHost_fh (s : State) (x : HostState) : (s.setHost x).fh = s.fh := rfl
@[simp] theorem setHost_rad (s : State) (x : HostState) : (s.setHost x).rad = s.rad := rfl
@[simp] theorem setHost_ylk (s : State) (x : HostState) : (s.setHost x).ylk = s.ylk := rfl
@[simp] theorem setHost_pwr (s : State) (x : HostState) : (s.setHost x).pwr = s.pwr := rfl
@[simp] theorem setHost_chp (s : State) (x : HostState) : (s.setHost x).chp = s.chp := rfl
@[simp] theorem setHost_pal (s : State) (x : HostState) : (s.setHost x).pal = s.pal := rfl
@[simp] theorem setHost_nsp (s : State) (x : HostState) : (s.setHost x).nsp = s.nsp := rfl
@[simp] theorem setHost_host (s : State) (x : HostState) : (s.setHost x).host = x := rfl
@[simp] theorem setHost_ipend (s : State) (x : HostState) : (s.setHost x).ipend = s.ipend := rfl
@[simp] theorem setHost_spareTag (s : State) (x : HostState) : (s.setHost x).spareTag = s.spareTag := rfl
@[simp] theorem setHost_free (s : State) (x : HostState) : (s.setHost x).free = s.free := rfl
@[simp] theorem setHost_pending (s : State) (x : HostState) : (s.setHost x).pending = s.pending := rfl

end Sys2Proof.Machine
end

