-- ==== Sys2Proof/Laws/Registers.lean ====
section
/-! SUPPORT. What the operations over registers do to each register: reads after writes, fields, and what raising an event keeps. -/

namespace Sys2Proof.Machine
open Sys2Proof

theorem rd_wr (s : State) (a a' : Nat) (v : W32) : (s.wr a v).rd a' = if a' = a then v else s.rd a' := by
  split
  · rename_i h
    rw [h, rd_wr_same]
  · rename_i h
    exact rd_wr_ne s h v

theorem rd_setFld_ne (s : State) {a a' : Nat} (h : a' ≠ a) (hi lo v : Nat) : (s.setFld a hi lo v).rd a' = s.rd a' := rd_wr_ne s h _

theorem fld_setFld_ne (s : State) {a a' : Nat} (h : a' ≠ a) (hi lo v hi' lo' : Nat) :
    (s.setFld a hi lo v).fld a' hi' lo' = s.fld a' hi' lo' := by
  unfold State.fld
  rw [rd_setFld_ne s h]

theorem fld_setFld_same (s : State) (a v : Nat) {hi lo : Nat} (h : lo ≤ hi) (hn : hi < 32) :
    (s.setFld a hi lo v).fld a hi lo = v % 2 ^ (hi - lo + 1) := by
  unfold State.fld State.setFld
  rw [rd_wr_same, wfld_wsetFld_same _ _ h hn]

theorem bit_setBit_same (s : State) (a : Nat) {n : Nat} (hn : n < 32) : (s.setBit a n).bit a n = true := by
  unfold State.bit State.setBit State.setFld
  rw [rd_wr_same, wbit_set1 _ hn]

theorem bit_setBit_ne (s : State) {a a' : Nat} (h : a' ≠ a) (n n' : Nat) : (s.setBit a n).bit a' n' = s.bit a' n' := by
  unfold State.bit State.setBit
  rw [rd_setFld_ne s h]

theorem rd_setBit_ne (s : State) {a a' : Nat} (h : a' ≠ a) (n : Nat) : (s.setBit a n).rd a' = s.rd a' := rd_setFld_ne s h _ _ _

/-! ### Raising an event -/

/-- Raising an event writes registers of the event router alone. -/
theorem rd_raise (s : State) (e : Nat) {a : Nat} (h : a < 0x6500000) : (s.raise e).rd a = s.rd a := by
  have h1 : a ≠ Reg.EVT_ROUTE_COUNT e := by unfold Reg.EVT_ROUTE_COUNT; omega
  have h2 : a ≠ Reg.EVT_STATUS := by unfold Reg.EVT_STATUS; omega
  have h3 : a ≠ Reg.EVT_DROPS := by unfold Reg.EVT_DROPS; omega
  unfold State.raise
  extract_lets u x v w
  have hu : u.rd a = s.rd a := rd_wr_ne s h1 _
  have hv : v.rd a = u.rd a := by unfold v; split <;> rfl
  clear_value u v
  split
  · exact (rd_setFld_ne _ h2 _ _ _).trans (hv.trans hu)
  · exact (rd_setFld_ne _ h2 _ _ _).trans ((rd_setFld_ne _ h3 _ _ _).trans (hv.trans hu))

@[simp] theorem raise_mem (s : State) (e : Nat) : (s.raise e).mem = s.mem := by
  unfold State.raise
  extract_lets u x v w
  have hu : u.mem = s.mem := wr_mem _ _ _
  have hv : v.mem = u.mem := by unfold v; split <;> rfl
  clear_value u v
  split
  · exact (setFld_mem _ _ _ _ _).trans (hv.trans hu)
  · exact (setFld_mem _ _ _ _ _).trans ((setFld_mem _ _ _ _ _).trans (hv.trans hu))

@[simp] theorem raise_poison (s : State) (e : Nat) : (s.raise e).poison = s.poison := by
  unfold State.raise
  extract_lets u x v w
  have hu : u.poison = s.poison := wr_poison _ _ _
  have hv : v.poison = u.poison := by unfold v; split <;> rfl
  clear_value u v
  split
  · exact (setFld_poison _ _ _ _ _).trans (hv.trans hu)
  · exact (setFld_poison _ _ _ _ _).trans ((setFld_poison _ _ _ _ _).trans (hv.trans hu))

@[simp] theorem raise_retLost (s : State) (e : Nat) : (s.raise e).retLost = s.retLost := by
  unfold State.raise
  extract_lets u x v w
  have hu : u.retLost = s.retLost := wr_retLost _ _ _
  have hv : v.retLost = u.retLost := by unfold v; split <;> rfl
  clear_value u v
  split
  · exact (setFld_retLost _ _ _ _ _).trans (hv.trans hu)
  · exact (setFld_retLost _ _ _ _ _).trans ((setFld_retLost _ _ _ _ _).trans (hv.trans hu))

@[simp] theorem raise_resp (s : State) (e : Nat) : (s.raise e).resp = s.resp := by
  unfold State.raise
  extract_lets u x v w
  have hu : u.resp = s.resp := wr_resp _ _ _
  have hv : v.resp = u.resp := by unfold v; split <;> rfl
  clear_value u v
  split
  · exact (setFld_resp _ _ _ _ _).trans (hv.trans hu)
  · exact (setFld_resp _ _ _ _ _).trans ((setFld_resp _ _ _ _ _).trans (hv.trans hu))

@[simp] theorem raise_vlm (s : State) (e : Nat) : (s.raise e).vlm = s.vlm := by
  unfold State.raise
  extract_lets u x v w
  have hu : u.vlm = s.vlm := wr_vlm _ _ _
  have hv : v.vlm = u.vlm := by unfold v; split <;> rfl
  clear_value u v
  split
  · exact (setFld_vlm _ _ _ _ _).trans (hv.trans hu)
  · exact (setFld_vlm _ _ _ _ _).trans ((setFld_vlm _ _ _ _ _).trans (hv.trans hu))

@[simp] theorem raise_time (s : State) (e : Nat) : (s.raise e).time = s.time := by
  unfold State.raise
  extract_lets u x v w
  have hu : u.time = s.time := wr_time _ _ _
  have hv : v.time = u.time := by unfold v; split <;> rfl
  clear_value u v
  split
  · exact (setFld_time _ _ _ _ _).trans (hv.trans hu)
  · exact (setFld_time _ _ _ _ _).trans ((setFld_time _ _ _ _ _).trans (hv.trans hu))

@[simp] theorem raise_batch (s : State) (e : Nat) : (s.raise e).batch = s.batch := by
  unfold State.raise
  extract_lets u x v w
  have hu : u.batch = s.batch := wr_batch _ _ _
  have hv : v.batch = u.batch := by unfold v; split <;> rfl
  clear_value u v
  split
  · exact (setFld_batch _ _ _ _ _).trans (hv.trans hu)
  · exact (setFld_batch _ _ _ _ _).trans ((setFld_batch _ _ _ _ _).trans (hv.trans hu))

@[simp] theorem raise_duc (s : State) (e : Nat) : (s.raise e).duc = s.duc := by
  unfold State.raise
  extract_lets u x v w
  have hu : u.duc = s.duc := wr_duc _ _ _
  have hv : v.duc = u.duc := by unfold v; split <;> rfl
  clear_value u v
  split
  · exact (setFld_duc _ _ _ _ _).trans (hv.trans hu)
  · exact (setFld_duc _ _ _ _ _).trans ((setFld_duc _ _ _ _ _).trans (hv.trans hu))

@[simp] theorem raise_ord (s : State) (e : Nat) : (s.raise e).ord = s.ord := by
  unfold State.raise
  extract_lets u x v w
  have hu : u.ord = s.ord := wr_ord _ _ _
  have hv : v.ord = u.ord := by unfold v; split <;> rfl
  clear_value u v
  split
  · exact (setFld_ord _ _ _ _ _).trans (hv.trans hu)
  · exact (setFld_ord _ _ _ _ _).trans ((setFld_ord _ _ _ _ _).trans (hv.trans hu))

@[simp] theorem raise_eng (s : State) (e : Nat) : (s.raise e).eng = s.eng := by
  unfold State.raise
  extract_lets u x v w
  have hu : u.eng = s.eng := wr_eng _ _ _
  have hv : v.eng = u.eng := by unfold v; split <;> rfl
  clear_value u v
  split
  · exact (setFld_eng _ _ _ _ _).trans (hv.trans hu)
  · exact (setFld_eng _ _ _ _ _).trans ((setFld_eng _ _ _ _ _).trans (hv.trans hu))

@[simp] theorem raise_stalled (s : State) (e : Nat) : (s.raise e).stalled = s.stalled := by
  unfold State.raise
  extract_lets u x v w
  have hu : u.stalled = s.stalled := wr_stalled _ _ _
  have hv : v.stalled = u.stalled := by unfold v; split <;> rfl
  clear_value u v
  split
  · exact (setFld_stalled _ _ _ _ _).trans (hv.trans hu)
  · exact (setFld_stalled _ _ _ _ _).trans ((setFld_stalled _ _ _ _ _).trans (hv.trans hu))

@[simp] theorem raise_served (s : State) (e : Nat) : (s.raise e).served = s.served := by
  unfold State.raise
  extract_lets u x v w
  have hu : u.served = s.served := wr_served _ _ _
  have hv : v.served = u.served := by unfold v; split <;> rfl
  clear_value u v
  split
  · exact (setFld_served _ _ _ _ _).trans (hv.trans hu)
  · exact (setFld_served _ _ _ _ _).trans ((setFld_served _ _ _ _ _).trans (hv.trans hu))

@[simp] theorem raise_fer (s : State) (e : Nat) : (s.raise e).fer = s.fer := by
  unfold State.raise
  extract_lets u x v w
  have hu : u.fer = s.fer := wr_fer _ _ _
  have hv : v.fer = u.fer := by unfold v; split <;> rfl
  clear_value u v
  split
  · exact (setFld_fer _ _ _ _ _).trans (hv.trans hu)
  · exact (setFld_fer _ _ _ _ _).trans ((setFld_fer _ _ _ _ _).trans (hv.trans hu))

@[simp] theorem raise_nib (s : State) (e : Nat) : (s.raise e).nib = s.nib := by
  unfold State.raise
  extract_lets u x v w
  have hu : u.nib = s.nib := wr_nib _ _ _
  have hv : v.nib = u.nib := by unfold v; split <;> rfl
  clear_value u v
  split
  · exact (setFld_nib _ _ _ _ _).trans (hv.trans hu)
  · exact (setFld_nib _ _ _ _ _).trans ((setFld_nib _ _ _ _ _).trans (hv.trans hu))

@[simp] theorem raise_avl (s : State) (e : Nat) : (s.raise e).avl = s.avl := by
  unfold State.raise
  extract_lets u x v w
  have hu : u.avl = s.avl := wr_avl _ _ _
  have hv : v.avl = u.avl := by unfold v; split <;> rfl
  clear_value u v
  split
  · exact (setFld_avl _ _ _ _ _).trans (hv.trans hu)
  · exact (setFld_avl _ _ _ _ _).trans ((setFld_avl _ _ _ _ _).trans (hv.trans hu))

@[simp] theorem raise_noc (s : State) (e : Nat) : (s.raise e).noc = s.noc := by
  unfold State.raise
  extract_lets u x v w
  have hu : u.noc = s.noc := wr_noc _ _ _
  have hv : v.noc = u.noc := by unfold v; split <;> rfl
  clear_value u v
  split
  · exact (setFld_noc _ _ _ _ _).trans (hv.trans hu)
  · exact (setFld_noc _ _ _ _ _).trans ((setFld_noc _ _ _ _ _).trans (hv.trans hu))

@[simp] theorem raise_ra (s : State) (e : Nat) : (s.raise e).ra = s.ra := by
  unfold State.raise
  extract_lets u x v w
  have hu : u.ra = s.ra := wr_ra _ _ _
  have hv : v.ra = u.ra := by unfold v; split <;> rfl
  clear_value u v
  split
  · exact (setFld_ra _ _ _ _ _).trans (hv.trans hu)
  · exact (setFld_ra _ _ _ _ _).trans ((setFld_ra _ _ _ _ _).trans (hv.trans hu))

@[simp] theorem raise_fh (s : State) (e : Nat) : (s.raise e).fh = s.fh := by
  unfold State.raise
  extract_lets u x v w
  have hu : u.fh = s.fh := wr_fh _ _ _
  have hv : v.fh = u.fh := by unfold v; split <;> rfl
  clear_value u v
  split
  · exact (setFld_fh _ _ _ _ _).trans (hv.trans hu)
  · exact (setFld_fh _ _ _ _ _).trans ((setFld_fh _ _ _ _ _).trans (hv.trans hu))

@[simp] theorem raise_rad (s : State) (e : Nat) : (s.raise e).rad = s.rad := by
  unfold State.raise
  extract_lets u x v w
  have hu : u.rad = s.rad := wr_rad _ _ _
  have hv : v.rad = u.rad := by unfold v; split <;> rfl
  clear_value u v
  split
  · exact (setFld_rad _ _ _ _ _).trans (hv.trans hu)
  · exact (setFld_rad _ _ _ _ _).trans ((setFld_rad _ _ _ _ _).trans (hv.trans hu))

@[simp] theorem raise_ylk (s : State) (e : Nat) : (s.raise e).ylk = s.ylk := by
  unfold State.raise
  extract_lets u x v w
  have hu : u.ylk = s.ylk := wr_ylk _ _ _
  have hv : v.ylk = u.ylk := by unfold v; split <;> rfl
  clear_value u v
  split
  · exact (setFld_ylk _ _ _ _ _).trans (hv.trans hu)
  · exact (setFld_ylk _ _ _ _ _).trans ((setFld_ylk _ _ _ _ _).trans (hv.trans hu))

@[simp] theorem raise_pwr (s : State) (e : Nat) : (s.raise e).pwr = s.pwr := by
  unfold State.raise
  extract_lets u x v w
  have hu : u.pwr = s.pwr := wr_pwr _ _ _
  have hv : v.pwr = u.pwr := by unfold v; split <;> rfl
  clear_value u v
  split
  · exact (setFld_pwr _ _ _ _ _).trans (hv.trans hu)
  · exact (setFld_pwr _ _ _ _ _).trans ((setFld_pwr _ _ _ _ _).trans (hv.trans hu))

@[simp] theorem raise_chp (s : State) (e : Nat) : (s.raise e).chp = s.chp := by
  unfold State.raise
  extract_lets u x v w
  have hu : u.chp = s.chp := wr_chp _ _ _
  have hv : v.chp = u.chp := by unfold v; split <;> rfl
  clear_value u v
  split
  · exact (setFld_chp _ _ _ _ _).trans (hv.trans hu)
  · exact (setFld_chp _ _ _ _ _).trans ((setFld_chp _ _ _ _ _).trans (hv.trans hu))

@[simp] theorem raise_pal (s : State) (e : Nat) : (s.raise e).pal = s.pal := by
  unfold State.raise
  extract_lets u x v w
  have hu : u.pal = s.pal := wr_pal _ _ _
  have hv : v.pal = u.pal := by unfold v; split <;> rfl
  clear_value u v
  split
  · exact (setFld_pal _ _ _ _ _).trans (hv.trans hu)
  · exact (setFld_pal _ _ _ _ _).trans ((setFld_pal _ _ _ _ _).trans (hv.trans hu))

@[simp] theorem raise_nsp (s : State) (e : Nat) : (s.raise e).nsp = s.nsp := by
  unfold State.raise
  extract_lets u x v w
  have hu : u.nsp = s.nsp := wr_nsp _ _ _
  have hv : v.nsp = u.nsp := by unfold v; split <;> rfl
  clear_value u v
  split
  · exact (setFld_nsp _ _ _ _ _).trans (hv.trans hu)
  · exact (setFld_nsp _ _ _ _ _).trans ((setFld_nsp _ _ _ _ _).trans (hv.trans hu))

@[simp] theorem raise_host (s : State) (e : Nat) : (s.raise e).host = s.host := by
  unfold State.raise
  extract_lets u x v w
  have hu : u.host = s.host := wr_host _ _ _
  have hv : v.host = u.host := by unfold v; split <;> rfl
  clear_value u v
  split
  · exact (setFld_host _ _ _ _ _).trans (hv.trans hu)
  · exact (setFld_host _ _ _ _ _).trans ((setFld_host _ _ _ _ _).trans (hv.trans hu))

@[simp] theorem raise_ipend (s : State) (e : Nat) : (s.raise e).ipend = s.ipend := by
  unfold State.raise
  extract_lets u x v w
  have hu : u.ipend = s.ipend := wr_ipend _ _ _
  have hv : v.ipend = u.ipend := by unfold v; split <;> rfl
  clear_value u v
  split
  · exact (setFld_ipend _ _ _ _ _).trans (hv.trans hu)
  · exact (setFld_ipend _ _ _ _ _).trans ((setFld_ipend _ _ _ _ _).trans (hv.trans hu))

@[simp] theorem raise_spareTag (s : State) (e : Nat) : (s.raise e).spareTag = s.spareTag := by
  unfold State.raise
  extract_lets u x v w
  have hu : u.spareTag = s.spareTag := wr_spareTag _ _ _
  have hv : v.spareTag = u.spareTag := by unfold v; split <;> rfl
  clear_value u v
  split
  · exact (setFld_spareTag _ _ _ _ _).trans (hv.trans hu)
  · exact (setFld_spareTag _ _ _ _ _).trans ((setFld_spareTag _ _ _ _ _).trans (hv.trans hu))

@[simp] theorem raise_free (s : State) (e : Nat) : (s.raise e).free = s.free := by
  unfold State.raise
  extract_lets u x v w
  have hu : u.free = s.free := wr_free _ _ _
  have hv : v.free = u.free := by unfold v; split <;> rfl
  clear_value u v
  split
  · exact (setFld_free _ _ _ _ _).trans (hv.trans hu)
  · exact (setFld_free _ _ _ _ _).trans ((setFld_free _ _ _ _ _).trans (hv.trans hu))

@[simp] theorem raise_pending (s : State) (e : Nat) : (s.raise e).pending = s.pending := by
  unfold State.raise
  extract_lets u x v w
  have hu : u.pending = s.pending := wr_pending _ _ _
  have hv : v.pending = u.pending := by unfold v; split <;> rfl
  clear_value u v
  split
  · exact (setFld_pending _ _ _ _ _).trans (hv.trans hu)
  · exact (setFld_pending _ _ _ _ _).trans ((setFld_pending _ _ _ _ _).trans (hv.trans hu))

/-- Registers outside a run of words keep their values. -/
theorem rd_wrWords_out (s : State) {a a' : Nat} (ws : List W32) (h : a' < a ∨ a + 4 * ws.length ≤ a') : (s.wrWords a ws).rd a' = s.rd a' := by
  induction ws generalizing s a with
  | nil => rfl
  | cons w r ih =>
    rw [List.length_cons] at h
    rw [State.wrWords, ih _ (by omega), rd_wr_ne _ (by omega)]

/-- A run of words written reads back word by word. -/
theorem rd_wrWords_at (s : State) (a n : Nat) (ws : List W32) (h : n < ws.length) : (s.wrWords a ws).rd (a + 4 * n) = ws.getD n 0 := by
  induction ws generalizing s a n with
  | nil => simp at h
  | cons w r ih =>
    rw [State.wrWords]
    cases n with
    | zero => rw [rd_wrWords_out _ _ (by omega), Nat.mul_zero, Nat.add_zero, rd_wr_same]; rfl
    | succ n =>
      rw [List.length_cons] at h
      rw [show a + 4 * (n + 1) = a + 4 + 4 * n by omega, ih _ _ _ (by omega)]
      rfl

/-- Writing a run of words writes the register map alone. -/
theorem wrWords_eq (s : State) (a : Nat) (ws : List W32) : s.wrWords a ws = { s with csr := (s.wrWords a ws).csr } := by
  induction ws generalizing s a with
  | nil => rfl
  | cons w r ih => rw [State.wrWords, ih]; rfl

@[simp] theorem wrWords_mem (s : State) (a : Nat) (ws : List W32) : (s.wrWords a ws).mem = s.mem := by rw [wrWords_eq]
@[simp] theorem wrWords_vlm (s : State) (a : Nat) (ws : List W32) : (s.wrWords a ws).vlm = s.vlm := by rw [wrWords_eq]

end Sys2Proof.Machine
end

