-- ==== Sys2Proof/Tests/Slice0.lean ====
section
/-! SUPPORT. Small tests: what WellFormed refuses, single steps on small states, and a state and operands that meet the hypotheses of
each statement. -/

open Sys2Proof Sys2Proof.Machine

namespace Sys2Proof.Tests

/-! ## Well-formedness -/

/-- A descriptor with given target, slot and parameters on ring CMD[16], sent by the physical function. -/
def dsc (target : BitVec 8) (slot : Fin 65) (par : List W32) : Desc :=
  { ring := 16, who := .pf, seq := 7, slot := slot, target := target, par := par }

/-- A frame for the service port. -/
def frm : NspFrame := { dst := 0, etype := 0x88B5, ver := 1, len := 0, seq := 1, tag := true }

theorem test_wf_command : (Instr.evtRaise (dsc 255 63 [1])).wf = true := by decide
theorem test_wf_refuses_slot_64 : (Instr.evtRaise (dsc 255 64 [1])).wf = false := by decide
theorem test_wf_refuses_12_parameters : (Instr.evtRaise (dsc 255 0 (List.replicate 12 0))).wf = false := by decide
theorem test_wf_refuses_stage_slot_64 : (Instr.vlmStageComplete { ring := 16, slot := 64 }).wf = false := by decide
theorem test_wf_refuses_15_job_words : (Instr.ldpcDecode { ring := .pool 0 0, words := List.replicate 15 0 }).wf = false := by decide
theorem test_wf_refuses_long_payload : (Instr.hostAccess 0 0 true false 0 0 (List.replicate 513 0)).wf = false := by
  show wfHost true 0 (List.replicate 513 0) = false
  unfold wfHost
  rw [List.length_replicate]
  rfl
theorem test_wf_refuses_long_read : (Instr.hostAccess 0 0 false false 0 4097 []).wf = false := by decide
theorem test_wf_refuses_three_lanes : (Instr.pcieLinkChange 1 3 false).wf = false := by decide
theorem test_wf_refuses_quire_8 : (Instr.bootBistComplete false [] 0 0 [(0, 8)] []).wf = false := by decide
theorem test_wf_refuses_bank_128 : (Instr.bootBistComplete false [] 0 0 [] [(8, 128)]).wf = false := by decide
theorem test_wf_refuses_nsp_data_1397 : (Instr.nspData frm 0 (List.replicate 1397 0)).wf = false := by
  show decide ((List.replicate 1397 (0 : Byte)).length ≤ 1396) = false
  rw [List.length_replicate]
  rfl
theorem test_wf_refuses_nsp_auth_5601 : (Instr.nspAuth frm (List.replicate 5601 0)).wf = false := by
  show decide ((List.replicate 5601 (0 : Byte)).length ≤ 5600) = false
  rw [List.length_replicate]
  rfl

/-! ## Words -/

theorem test_no_word_spells_a_command : decodeTableWord 32 0x12345678 = none := by decide
theorem test_fetch_word_leaves_reset : (State.reset.withFetchWord 32 0).pending = [] := by decide

end Sys2Proof.Tests
end

section
/-! SUPPORT. Every command, and every step, answers a next state that keeps the canonical forms and takes nothing from the queue but the
command that ran: the lemmas of the Kept files, put together over the commands. -/

namespace Sys2Proof.Machine
open Sys2Proof

/-- Every command answers a next state that keeps the queue and the canonical forms: each case is what the Kept files say of the
command's meaning. -/
theorem exec_kept {q : List Instr} (c : Instr) (s : State) (hs : Kept q s) : Goes q (exec c s) := by
  cases c with
  -- Register accesses, the Vellum and realms (chapter 2)
  | registerWrite who addr bytes value => exact execRegisterWrite_kept who addr bytes value s hs
  | tailWrite who ring value => exact execTailWrite_kept who ring value s hs
  | ringCfgWrite who ring value => exact execRingCfgWrite_kept who ring value s hs
  | vlmStage d => exact execVlmStage_kept d s hs
  | vlmStageComplete slot => exact execVlmStageComplete_kept slot s hs
  | vlmDiscard d => exact execVlmDiscard_kept d s hs
  | realmStart d => exact execRealmStart_kept d s hs
  | realmStop d => exact execRealmStop_kept d s hs
  | realmStopped r => exact execRealmStopped_kept r s hs
  | realmReset d => exact execRealmReset_kept d s hs
  | realmQuery d => exact execRealmQuery_kept d s hs
  | realmApply d => exact execRealmApply_kept d s hs
  | realmApplyExecute => exact execRealmApplyExecute_kept s hs
  | realmApplyComplete fault => exact execRealmApplyComplete_kept fault s hs
  | expertAcquire d => exact execExpertAcquire_kept d s hs
  | expertLockSet inst => exact execExpertLockSet_kept inst s hs
  | expertRelease d => exact execExpertRelease_kept d s hs
  -- The Ruling: time bases, grids, triggers, captures (chapter 3)
  | tbQuery d => exact execTbQuery_kept d s hs
  | tbDisciplineStart d => exact execTbDisciplineStart_kept d s hs
  | tbDisciplineStop d => exact execTbDisciplineStop_kept d s hs
  | tbStep d => exact execTbStep_kept d s hs
  | tbFreq d => exact execTbFreq_kept d s hs
  | stepCtlGo who b value => exact execStepCtlGo_kept who b value s hs
  | timeBaseStepApply b => exact execTimeBaseStepApply_kept b s hs
  | freqAdjHiWrite who b value => exact execFreqAdjHiWrite_kept who b value s hs
  | tbStateWrite who b value => exact execTbStateWrite_kept who b value s hs
  | nowNsRead who b => exact execNowNsRead_kept who b s hs
  | gridQuery d => exact execGridQuery_kept d s hs
  | gridOffset d => exact execGridOffset_kept d s hs
  | gridShadowWrite who g ctl value => exact execGridShadowWrite_kept who g ctl value s hs
  | gridPosRead who g => exact execGridPosRead_kept who g s hs
  | gridFrameBoundary g => exact execGridFrameBoundary_kept g s hs
  | trgAlloc d => exact execTrgAlloc_kept d s hs
  | trgArm d => exact execTrgArm_kept d s hs
  | trgDisarm d => exact execTrgDisarm_kept d s hs
  | trgFree d => exact execTrgFree_kept d s hs
  | trgQuery d => exact execTrgQuery_kept d s hs
  | trgShadowWrite who c w value => exact execTrgShadowWrite_kept who c w value s hs
  | trgCtlCommit who c => exact execTrgCtlCommit_kept who c s hs
  | trgCtlDisarm who c => exact execTrgCtlDisarm_kept who c s hs
  | triggerFire c => exact execTriggerFire_kept c s hs
  | snapshotCopyComplete blk => exact execSnapshotCopyComplete_kept blk s hs
  | snapRequest d => exact execSnapRequest_kept d s hs
  | timeInEdge xi falling => exact execTimeInEdge_kept xi falling s hs
  | capNsRead who xi => exact execCapNsRead_kept who xi s hs
  | capRead d => exact execCapRead_kept d s hs
  | tioConfig d => exact execTioConfig_kept d s hs
  | synceSelect d => exact execSynceSelect_kept d s hs
  | timeOutPulseEnd xi => exact execTimeOutPulseEnd_kept xi s hs
  | toutCfgWrite who xi value => exact execToutCfgWrite_kept who xi value s hs
  | synceSquelch k lol => exact execSynceSquelch_kept k lol s hs
  -- The Ordinator (chapter 4)
  | folioSubmit d => exact execFolioSubmit_kept d s hs
  | placementDecision => exact execPlacementDecision_kept s hs
  | peerOfferAnswer accept finish => exact execPeerOfferAnswer_kept accept finish s hs
  | peerOfferReceived peer r task ready deadline => exact execPeerOfferReceived_kept peer r task ready deadline s hs
  | folioRelease r inst => exact execFolioRelease_kept r inst s hs
  | folioDeadline r inst => exact execFolioDeadline_kept r inst s hs
  | folioCancel d => exact execFolioCancel_kept d s hs
  | folioQuery d => exact execFolioQuery_kept d s hs
  | ordPin d => exact execOrdPin_kept d s hs
  | ordConfig d => exact execOrdConfig_kept d s hs
  | ordQuery d => exact execOrdQuery_kept d s hs
  | ordTrace d => exact execOrdTrace_kept d s hs
  | faultNotice src kind unit event => exact execFaultNotice_kept src kind unit event s hs
  | replacement => exact execReplacement_kept s hs
  | harqDemotionStart r engine upper => exact execHarqDemotionStart_kept r engine upper s hs
  -- The Ductus (chapter 5)
  | threadCreate d => exact execThreadCreate_kept d s hs
  | threadStart d => exact execThreadStart_kept d s hs
  | threadSuspend d => exact execThreadSuspend_kept d s hs
  | threadResume d => exact execThreadResume_kept d s hs
  | threadKill d => exact execThreadKill_kept d s hs
  | threadPrio d => exact execThreadPrio_kept d s hs
  | threadQuery d => exact execThreadQuery_kept d s hs
  | semAlloc d => exact execSemAlloc_kept d s hs
  | semFree d => exact execSemFree_kept d s hs
  | semPost d => exact execSemPost_kept d s hs
  | flagAlloc d => exact execFlagAlloc_kept d s hs
  | flagFree d => exact execFlagFree_kept d s hs
  | flagSet d => exact execFlagSet_kept d s hs
  | tickConfig d => exact execTickConfig_kept d s hs
  | ducTrace d => exact execDucTrace_kept d s hs
  | ducQuery d => exact execDucQuery_kept d s hs
  | yield nib a b => exact execYield_kept nib a b s hs
  | exit nib a b => exact execExit_kept nib a b s hs
  | delay nib a b => exact execDelay_kept nib a b s hs
  | semWait nib a b => exact execSemWait_kept nib a b s hs
  | svcSemPost nib a b => exact execSvcSemPost_kept nib a b s hs
  | flagWait nib a b => exact execFlagWait_kept nib a b s hs
  | svcFlagSet nib a b => exact execSvcFlagSet_kept nib a b s hs
  | flagClear nib a b => exact execFlagClear_kept nib a b s hs
  | taskEnd nib a b => exact execTaskEnd_kept nib a b s hs
  | checkpoint nib a b => exact execCheckpoint_kept nib a b s hs
  | setPrio nib a b => exact execSetPrio_kept nib a b s hs
  | resLoRead who nib => exact execResLoRead_kept who nib s hs
  | nextRead who nib => exact execNextRead_kept who nib s hs
  | tick q t n => exact execTick_kept q t n s hs
  | tickExpiry q => exact execTickExpiry_kept q s hs
  | journalWriteFailure q => exact execJournalWriteFailure_kept q s hs
  | tcbWrite who q xi w value => exact execTcbWrite_kept who q xi w value s hs
  -- What the Nibs receive and their debug registers (chapters 6 and 8)
  | nibWaitWake nib => exact execNibWaitWake_kept nib s hs
  | deferredResultLanding nib => exact execDeferredResultLanding_kept nib s hs
  | cacheLineFill nib way => exact execCacheLineFill_kept nib way s hs
  | interruptEntry nib => exact execInterruptEntry_kept nib s hs
  | nibTimerExpiry nib => exact execNibTimerExpiry_kept nib s hs
  | doorbellWrite who nib => exact execDoorbellWrite_kept who nib s hs
  | nibCtlRun who nib => exact execNibCtlRun_kept who nib s hs
  | nibCtlHalt who nib => exact execNibCtlHalt_kept who nib s hs
  | nibCtlResume who nib => exact execNibCtlResume_kept who nib s hs
  | nibCtlStep who nib => exact execNibCtlStep_kept who nib s hs
  | dbgDataRead who nib => exact execDbgDataRead_kept who nib s hs
  | dbgDataWrite who nib value => exact execDbgDataWrite_kept who nib value s hs
  | cycleLoRead who nib => exact execCycleLoRead_kept who nib s hs
  | bundlesLoRead who nib => exact execBundlesLoRead_kept who nib s hs
  | ferruleCommandComplete f stall => exact execFerruleCommandComplete_kept f stall s hs
  | ferCtlAbort who f => exact execFerCtlAbort_kept who f s hs
  -- The pools (chapter 9)
  | accQuery d => exact execAccQuery_kept d s hs
  | ringConfig d => exact execRingConfig_kept d s hs
  | harqLookup d => exact execHarqLookup_kept d s hs
  | harqFree d => exact execHarqFree_kept d s hs
  | harqFreeUe d => exact execHarqFreeUe_kept d s hs
  | harqUsage d => exact execHarqUsage_kept d s hs
  | ldpcDecode j => exact execLdpcDecode_kept j s hs
  | ldpcEncode j => exact execLdpcEncode_kept j s hs
  | polarDecode j => exact execPolarDecode_kept j s hs
  | polarEncode j => exact execPolarEncode_kept j s hs
  | turboDecode j => exact execTurboDecode_kept j s hs
  | turboEncode j => exact execTurboEncode_kept j s hs
  | fft j => exact execFft_kept j s hs
  | ifft j => exact execIfft_kept j s hs
  | dft j => exact execDft_kept j s hs
  | idft j => exact execIdft_kept j s hs
  | nrCombine j => exact execNrCombine_kept j s hs
  | lteCombine j => exact execLteCombine_kept j s hs
  | demap j => exact execDemap_kept j s hs
  | poolJobComplete x => exact execPoolJobComplete_kept x s hs
  | jobOverrun x => exact execJobOverrun_kept x s hs
  | hdyAccRead who => exact execHdyAccRead_kept who s hs
  | hdyAccWrite who => exact execHdyAccWrite_kept who s hs
  -- Random access (chapter 10)
  | nrPrach j ds => exact execNrPrach_kept j ds s hs
  | ltePrach j ds => exact execLtePrach_kept j ds s hs
  | nprach j ds => exact execNprach_kept j ds s hs
  | preadyReached e c => exact execPreadyReached_kept e c s hs
  | payloadProcess e => exact execPayloadProcess_kept e s hs
  | payloadComplete e pass => exact execPayloadComplete_kept e pass s hs
  | raRing d => exact execRaRing_kept d s hs
  | raConfig d => exact execRaConfig_kept d s hs
  | raThresh d => exact execRaThresh_kept d s hs
  | raQuery d => exact execRaQuery_kept d s hs
  | raAbort d => exact execRaAbort_kept d s hs
  -- Inkwells and the network on chip (chapter 11)
  | flitCrcError site link retry => exact execFlitCrcError_kept site link retry s hs
  | routerError site => exact execRouterError_kept site s hs
  | responseTimeout who ring => exact execResponseTimeout_kept who ring s hs
  | firstAccess who write addr bytes data => exact execFirstAccess_kept who write addr bytes data s hs
  | heldRequestPerform dom => exact execHeldRequestPerform_kept dom s hs
  | holdTimeout dom => exact execHoldTimeout_kept dom s hs
  | scrubLine unit addr err ends => exact execScrubLine_kept unit addr err ends s hs
  | rowRepair unit spare => exact execRowRepair_kept unit spare s hs
  | rowRepairComplete unit place => exact execRowRepairComplete_kept unit place s hs
  | scrubPassNow who unit => exact execScrubPassNow_kept who unit s hs
  | eccCorrRead who unit => exact execEccCorrRead_kept who unit s hs
  | memoryTraining hbm lanes caps bad => exact execMemoryTraining_kept hbm lanes caps bad s hs
  | refresh unit => exact execRefresh_kept unit s hs
  | epochFlip who => exact execEpochFlip_kept who s hs
  | epochDrainComplete => exact execEpochDrainComplete_kept s hs
  | rtAccRead who => exact execRtAccRead_kept who s hs
  | rtAccWrite who => exact execRtAccWrite_kept who s hs
  | rtAccCopy who => exact execRtAccCopy_kept who s hs
  | memQuery d => exact execMemQuery_kept d s hs
  | memScrub d => exact execMemScrub_kept d s hs
  | nocStat d => exact execNocStat_kept d s hs
  | nocLinkTest d => exact execNocLinkTest_kept d s hs
  | linkTestEnd site link flits errors => exact execLinkTestEnd_kept site link flits errors s hs
  | nocQuery d => exact execNocQuery_kept d s hs
  | nocLinkRestore d => exact execNocLinkRestore_kept d s hs
  -- The Scribes (chapter 12)
  | copy1d j => exact execCopy1d_kept j s hs
  | copy2d j => exact execCopy2d_kept j s hs
  | copy3d j => exact execCopy3d_kept j s hs
  | gather j => exact execGather_kept j s hs
  | burstGrant ready => exact execBurstGrant_kept ready s hs
  | scribeDescriptorComplete e c => exact execScribeDescriptorComplete_kept e c s hs
  | chCtlStop who e c value => exact execChCtlStop_kept who e c value s hs
  | channelClaim who e r mask => exact execChannelClaim_kept who e r mask s hs
  | channelRelease who e r mask => exact execChannelRelease_kept who e r mask s hs
  | tctlCommit who e c value => exact execTctlCommit_kept who e c value s hs
  | tctlEnable who e c value => exact execTctlEnable_kept who e c value s hs
  | timedRoundStart e c => exact execTimedRoundStart_kept e c s hs
  | timedRoundComplete e c => exact execTimedRoundComplete_kept e c s hs
  -- The fronthaul (chapter 13)
  | ethConfig d => exact execEthConfig_kept d s hs
  | portLinkUp port => exact execPortLinkUp_kept port s hs
  | portLinkDown port => exact execPortLinkDown_kept port s hs
  | ethQuery d => exact execEthQuery_kept d s hs
  | fhStream d => exact execFhStream_kept d s hs
  | fhWindow d => exact execFhWindow_kept d s hs
  | fhRing d => exact execFhRing_kept d s hs
  | fhHdr d => exact execFhHdr_kept d s hs
  | macsecSa d => exact execMacsecSa_kept d s hs
  | ethCal d => exact execEthCal_kept d s hs
  | uPlaneIngress port frame fcsOk msec => exact execUPlaneIngress_kept port frame fcsOk msec s hs
  | windowClose f g => exact execWindowClose_kept f g s hs
  | frameIngress port frame fcsOk msec => exact execFrameIngress_kept port frame fcsOk msec s hs
  | uTx j room => exact execUTx_kept j room s hs
  | cTx j room => exact execCTx_kept j room s hs
  | frameTx j => exact execFrameTx_kept j s hs
  | rxBuf j => exact execRxBuf_kept j s hs
  | streamTableError f idx => exact execStreamTableError_kept f idx s hs
  | stAccRead who f => exact execStAccRead_kept who f s hs
  | stAccWrite who f => exact execStAccWrite_kept who f s hs
  -- The direct radio interface (chapter 14)
  | jesLink d => exact execJesLink_kept d s hs
  | jesLinkUp k rx m => exact execJesLinkUp_kept k rx m s hs
  | jesLinkLoss k rx m cause lane => exact execJesLinkLoss_kept k rx m cause lane s hs
  | sysrefEdge => exact execSysrefEdge_kept s hs
  | converterStart k rx m => exact execConverterStart_kept k rx m s hs
  | jesQuery d => exact execJesQuery_kept d s hs
  | dfePath d => exact execDfePath_kept d s hs
  | dfePathCtlArm d => exact execDfePathCtlArm_kept d s hs
  | dfePathCtlStop d => exact execDfePathCtlStop_kept d s hs
  | dfePathCtlCommit d => exact execDfePathCtlCommit_kept d s hs
  | dfeCfr d => exact execDfeCfr_kept d s hs
  | dfeMask d => exact execDfeMask_kept d s hs
  | pathUnderrun c => exact execPathUnderrun_kept c s hs
  | maskMonitorFrame st power => exact execMaskMonitorFrame_kept st power s hs
  | cfrPeakInterval st clipped => exact execCfrPeakInterval_kept st clipped s hs
  | paProgram d => exact execPaProgram_kept d s hs
  | paReqUp d => exact execPaReqUp_kept d s hs
  | paReqDown d => exact execPaReqDown_kept d s hs
  | paReqMute d => exact execPaReqMute_kept d s hs
  | paReqTest d => exact execPaReqTest_kept d s hs
  | paReqClear d => exact execPaReqClear_kept d s hs
  | paProgramEnd p => exact execPaProgramEnd_kept p s hs
  | paFault p low => exact execPaFault_kept p low s hs
  -- YilkuLink (chapter 15)
  | fabQuery d => exact execFabQuery_kept d s hs
  | fabPort d => exact execFabPort_kept d s hs
  | fabSnap d => exact execFabSnap_kept d s hs
  | fabSnapArmRequest tb sec ns => exact execFabSnapArmRequest_kept tb sec ns s hs
  | fabSnapAnswersComplete armed answered => exact execFabSnapAnswersComplete_kept armed answered s hs
  | fabLinkTest d => exact execFabLinkTest_kept d s hs
  | fabLinkTestEnd p bits errors => exact execFabLinkTestEnd_kept p bits errors s hs
  | fabPeerQuery d => exact execFabPeerQuery_kept d s hs
  | ylkHello p fabric dev unit ver farPort two => exact execYlkHello_kept p fabric dev unit ver farPort two s hs
  | ylkLinkFailure p lanes => exact execYlkLinkFailure_kept p lanes s hs
  | ylkTrainingRetry p => exact execYlkTrainingRetry_kept p s hs
  | settlingWindowEnd => exact execSettlingWindowEnd_kept s hs
  | adjacencyFrame dev unit links => exact execAdjacencyFrame_kept dev unit links s hs
  | heartbeatSend => exact execHeartbeatSend_kept s hs
  | heartbeatReceive dev => exact execHeartbeatReceive_kept dev s hs
  | peerLoss dev => exact execPeerLoss_kept dev s hs
  | remoteRequest q => exact execRemoteRequest_kept q s hs
  | timeFrameSend p => exact execTimeFrameSend_kept p s hs
  | timeFrameReceive p stamps => exact execTimeFrameReceive_kept p stamps s hs
  -- Power and clocks (chapter 16)
  | pwrVoteD0 d => exact execPwrVoteD0_kept d s hs
  | pwrVoteTolerance d => exact execPwrVoteTolerance_kept d s hs
  | pwrVoteWithdraw d => exact execPwrVoteWithdraw_kept d s hs
  | pwrQuery d => exact execPwrQuery_kept d s hs
  | pwrEnter d => exact execPwrEnter_kept d s hs
  | pwrWindow d => exact execPwrWindow_kept d s hs
  | pwrForceClear d => exact execPwrForceClear_kept d s hs
  | clkQuery d => exact execClkQuery_kept d s hs
  | powerEntryStart dom => exact execPowerEntryStart_kept dom s hs
  | powerEntryStepComplete dom => exact execPowerEntryStepComplete_kept dom s hs
  | powerExit dom => exact execPowerExit_kept dom s hs
  | powerExitComplete dom bad => exact execPowerExitComplete_kept dom bad s hs
  | retentionExcursion dom bank => exact execRetentionExcursion_kept dom bank s hs
  | forcedPowerDown zero => exact execForcedPowerDown_kept zero s hs
  | powerWindowExpiry w => exact execPowerWindowExpiry_kept w s hs
  | pllLossOfLock k => exact execPllLossOfLock_kept k s hs
  | sensorSample temps => exact execSensorSample_kept temps s hs
  | avsSetpointStep ack => exact execAvsSetpointStep_kept ack s hs
  | avsRetry ack => exact execAvsRetry_kept ack s hs
  | nibWatchdogExpiry nib => exact execNibWatchdogExpiry_kept nib s hs
  -- Availability and test (chapter 17)
  | avlQuery d => exact execAvlQuery_kept d s hs
  | avlReturn d => exact execAvlReturn_kept d s hs
  | pncRun d => exact execPncRun_kept d s hs
  | pncRunAbort d => exact execPncRunAbort_kept d s hs
  | pncSched d => exact execPncSched_kept d s hs
  | serdesTest d => exact execSerdesTest_kept d s hs
  | serdesTestEnd jesd rx lane bits errors => exact execSerdesTestEnd_kept jesd rx lane bits errors s hs
  | calSet d => exact execCalSet_kept d s hs
  | calQuery d => exact execCalQuery_kept d s hs
  | avlHeadroom d => exact execAvlHeadroom_kept d s hs
  | calUserWrite who value => exact execCalUserWrite_kept who value s hs
  | pounceSelect => exact execPounceSelect_kept s hs
  | pounceExclusionStart dom => exact execPounceExclusionStart_kept dom s hs
  | pounceDrained dom => exact execPounceDrained_kept dom s hs
  | pounceDrainTimeout dom => exact execPounceDrainTimeout_kept dom s hs
  | pounceTestEnd dom pass coverage duration => exact execPounceTestEnd_kept dom pass coverage duration s hs
  -- The Chop and Palimpsest (chapter 18)
  | chpStateQuery d => exact execChpStateQuery_kept d s hs
  | chpStateSelfTest d => exact execChpStateSelfTest_kept d s hs
  | chpStateReadCounter d => exact execChpStateReadCounter_kept d s hs
  | chpStateAdvanceCounter d => exact execChpStateAdvanceCounter_kept d s hs
  | chpAuthChallenge d => exact execChpAuthChallenge_kept d s hs
  | chpAuthRespond d => exact execChpAuthRespond_kept d s hs
  | chpAuthLogout d => exact execChpAuthLogout_kept d s hs
  | authLockoutExpiry role => exact execAuthLockoutExpiry_kept role s hs
  | chpKeyGenerate d => exact execChpKeyGenerate_kept d s hs
  | chpKeyImport d => exact execChpKeyImport_kept d s hs
  | chpKeyExport d => exact execChpKeyExport_kept d s hs
  | chpKeyDelete d => exact execChpKeyDelete_kept d s hs
  | chpKeyQuery d => exact execChpKeyQuery_kept d s hs
  | chpCryptGcmEncrypt d => exact execChpCryptGcmEncrypt_kept d s hs
  | chpCryptGcmDecrypt d => exact execChpCryptGcmDecrypt_kept d s hs
  | chpCryptHash d => exact execChpCryptHash_kept d s hs
  | chpCryptHmac d => exact execChpCryptHmac_kept d s hs
  | chpCryptSign d => exact execChpCryptSign_kept d s hs
  | chpCryptVerify d => exact execChpCryptVerify_kept d s hs
  | chpCryptRandom d => exact execChpCryptRandom_kept d s hs
  | chpCryptKdf d => exact execChpCryptKdf_kept d s hs
  | chpCryptEcdh d => exact execChpCryptEcdh_kept d s hs
  | chpAttestReport d => exact execChpAttestReport_kept d s hs
  | chpAttestChain d => exact execChpAttestChain_kept d s hs
  | chpZeroise d => exact execChpZeroise_kept d s hs
  | tamperDetect cause => exact execTamperDetect_kept cause s hs
  | zeroisationComplete => exact execZeroisationComplete_kept s hs
  | selfTestPeriodic => exact execSelfTestPeriodic_kept s hs
  | selfTestComplete failed => exact execSelfTestComplete_kept failed s hs
  | palStage d => exact execPalStage_kept d s hs
  | palCtlStart d => exact execPalCtlStart_kept d s hs
  | palCtlConfirm d => exact execPalCtlConfirm_kept d s hs
  | palCtlReject d => exact execPalCtlReject_kept d s hs
  | palCtlDiscard d => exact execPalCtlDiscard_kept d s hs
  | palCtlQuery d => exact execPalCtlQuery_kept d s hs
  | palBlockWritten => exact execPalBlockWritten_kept s hs
  | palWriteComplete => exact execPalWriteComplete_kept s hs
  | palImageStarted => exact execPalImageStarted_kept s hs
  | palActivationTimeout => exact execPalActivationTimeout_kept s hs
  | palTrialExpiry => exact execPalTrialExpiry_kept s hs
  | palRestoreComplete => exact execPalRestoreComplete_kept s hs
  | flRead who => exact execFlRead_kept who s hs
  | flProgram who => exact execFlProgram_kept who s hs
  | flErase who => exact execFlErase_kept who s hs
  | flAccessComplete => exact execFlAccessComplete_kept s hs
  -- The service port, the host, boot and events (chapter 19)
  | nspHello f => exact execNspHello_kept f s hs
  | nspAuth f sigs => exact execNspAuth_kept f sigs s hs
  | nspCommand f op d => exact execNspCommand_kept f op d s hs
  | nspData f offset data => exact execNspData_kept f offset data s hs
  | nspClose f => exact execNspClose_kept f s hs
  | nspSessionTimeout => exact execNspSessionTimeout_kept s hs
  | serviceLinkChange up => exact execServiceLinkChange_kept up s hs
  | hostAccess func space write ep addr bytes data => exact execHostAccess_kept func space write ep addr bytes data s hs
  | hostWindowAccess who write addr bytes data => exact execHostWindowAccess_kept who write addr bytes data s hs
  | hostCompletion index kind data => exact execHostCompletion_kept index kind data s hs
  | functionLevelReset func done => exact execFunctionLevelReset_kept func done s hs
  | pciePerst low => exact execPciePerst_kept low s hs
  | pcieLinkChange rate width flit => exact execPcieLinkChange_kept rate width flit s hs
  | hostQuery d => exact execHostQuery_kept d s hs
  | devReset d => exact execDevReset_kept d s hs
  | coreCtlStart d => exact execCoreCtlStart_kept d s hs
  | coreCtlStop d => exact execCoreCtlStop_kept d s hs
  | evtRoute d => exact execEvtRoute_kept d s hs
  | evtQuery d => exact execEvtQuery_kept d s hs
  | evtRaise d => exact execEvtRaise_kept d s hs
  | swsetWrite who value => exact execSwsetWrite_kept who value s hs
  | bltConfig d => exact execBltConfig_kept d s hs
  | bltCfgClear who n => exact execBltCfgClear_kept who n s hs
  | gpioCtlRead d => exact execGpioCtlRead_kept d s hs
  | gpioCtlDrive d => exact execGpioCtlDrive_kept d s hs
  | gpioCtlInput d => exact execGpioCtlInput_kept d s hs
  | gpioEdge pin level => exact execGpioEdge_kept pin level s hs
  | eventDelivery => exact execEventDelivery_kept s hs
  | debugToken token => exact execDebugToken_kept token s hs
  | coldReset mode refSel => exact execColdReset_kept mode refSel s hs
  | bootBistComplete fatal logic fails repaired fences banks => exact execBootBistComplete_kept fatal logic fails repaired fences banks s hs
  | memoryInitialisation => exact execMemoryInitialisation_kept s hs
  | bootVellumApply => exact execBootVellumApply_kept s hs
  | warmReset pin => exact execWarmReset_kept pin s hs
  -- Rows of several chapters
  | unassignedOpcode j => exact execUnassignedOpcode_kept j s hs
  | rcFieldRead who addr bytes => exact execRcFieldRead_kept who addr bytes s hs
  | responseArrival nib => exact execResponseArrival_kept nib s hs
  | journalWriteComplete q => exact execJournalWriteComplete_kept q s hs
  | pathOverrun c => exact execPathOverrun_kept c s hs
  | peerPwrVote dev dom kind tol => exact execPeerPwrVote_kept dev dom kind tol s hs
  | pounceWindowClose w => exact execPounceWindowClose_kept w s hs
  | pounceOverdue dom => exact execPounceOverdue_kept dom s hs
  | trngSampleFailure => exact execTrngSampleFailure_kept s hs
  -- Every other command is an instruction that joins its Nib's bundle (chapters 6 to 8)
  | _ => exact goes_next (nibIssue_kept _ _ _ hs)

/-- A step answers a next state without the queue's first command that keeps the canonical forms: it is a nanosecond on an empty
queue, else the front command run with the queue's rest. -/
theorem step_kept {s : State} (hs : s.sound = true) : Goes s.pending.tail (step s) := by
  unfold step
  split
  next hq => exact goes_next (tick_kept s ⟨by rw [hq, List.tail_nil], hs⟩)
  next c rest hq =>
    rw [hq, List.tail_cons]
    exact exec_kept c { s with pending := rest } ⟨rfl, hs⟩

/-- What goes on with queue q answers a state whose queue is q. -/
theorem Goes.answers_pending {q : List Instr} {o : Out} (h : Goes q o) : Answers o fun t => t.pending = q := by
  obtain ⟨t, ho, hq, -⟩ := h
  exact ⟨t, ho, hq⟩

/-- What goes on answers no state that is not canonical. -/
theorem Goes.sound_of_next {q : List Instr} {t : State} (h : Goes q (.next t)) : t.sound = true := by
  obtain ⟨u, hu, -, hs⟩ := h
  rw [Host.Outcome.next.inj hu]
  exact hs

/-- Settles O3: after reset memory and registers list nothing, and no command waits. -/
theorem resetIsSound : Obligations.ResetIsSound := ⟨reset_sound, rfl, rfl⟩

/-- Settles O5, by the case split over the commands. -/
theorem noCommandStops : Obligations.NoCommandStops :=
  fun c s hs => (exec_kept c s ⟨rfl, hs⟩).answers_pending

/-- Settles O6: a step is a nanosecond or the front command, and both go on. -/
theorem everyStepGoesOn : Obligations.EveryStepGoesOn := fun _ hs => (step_kept hs).answers_pending

/-- Settles O7: the state with which a step goes on is the one it answers. -/
theorem soundnessIsKept : Obligations.SoundnessIsKept := by
  intro s t hs ht
  have h := step_kept hs
  rw [ht] at h
  exact h.sound_of_next

end Sys2Proof.Machine
end

section
/-! SUPPORT. Accesses that the register's own rules answer: a write of RWL fields by a requester that does not hold them (R10, R118, R350),
and the count of corrected errors that its read clears (R381, R413). -/

namespace Sys2Proof.Machine
open Sys2Proof

/-- A command that is a write of RWL fields answers OK and changes nothing else where its requester does not hold them (R10). -/
theorem exec_of_not_held {c : Instr} {who : Requester} {a : Nat} {act : State → State} {s : State}
    (hc : exec c s = .next (accessHeld who a act s)) (ho : s.opens who a = true) (hh : s.holds who a = false) :
    exec c s = .next (s.answer St.OK 0) := by
  rw [hc, accessHeld_other ho hh]

/-- Settles O9: the meaning of each of the commands is a write of the RWL fields of its register. -/
theorem otherWritersHaveNoEffect : Obligations.OtherWritersHaveNoEffect := by
  intro who s idle
  exact ⟨fun _ _ => exec_of_not_held rfl, fun _ _ => exec_of_not_held rfl, fun _ _ => exec_of_not_held rfl,
    fun _ _ => exec_of_not_held rfl, fun _ _ => exec_of_not_held rfl, fun _ => exec_of_not_held rfl,
    exec_of_not_held rfl, exec_of_not_held rfl, exec_of_not_held rfl⟩

/-! ### The counts of corrected errors -/

@[simp] theorem rd_answer (s : State) (st v a : Nat) : (s.answer st v).rd a = s.rd a := rfl
@[simp] theorem byte_answer (s : State) (st v a : Nat) : (s.answer st v).byte a = s.byte a := rfl
@[simp] theorem byte_setFld (s : State) (a hi lo v a' : Nat) : (s.setFld a hi lo v).byte a' = s.byte a' := rfl

/-- The registers of a memory unit begin at a block of their own. -/
theorem memBase_mod (u : Nat) : memBase u % 0x10000 = 0 := by
  unfold memBase
  split_ifs <;> omega

theorem memBase_injective : Function.Injective fun u : Fin 15 => memBase u := by decide

/-- The counts of two memory units are two registers. -/
theorem eccCorr_ne {u v : Fin 15} (h : v ≠ u) : Reg.MEMC_ECC_CORR (memBase v) ≠ Reg.MEMC_ECC_CORR (memBase u) :=
  fun e => h (memBase_injective (Nat.add_right_cancel e))

/-- No unit's count is a unit's STATUS. -/
theorem eccCorr_ne_status (u v : Nat) : Reg.MEMC_ECC_CORR (memBase v) ≠ Reg.MEMC_STATUS (memBase u) := by
  have hu := memBase_mod u
  have hv := memBase_mod v
  unfold Reg.MEMC_ECC_CORR Reg.MEMC_STATUS
  omega

/-- An admitted read of ECC_CORR answers the count, and clears it and STATUS.CE_OVER (R381). -/
theorem exec_eccCorrRead_open {who : Requester} {u : Fin 15} {s : State} (h : s.opens who (Reg.MEMC_ECC_CORR (memBase u)) = true) :
    exec (.eccCorrRead who u) s =
      .next (((s.wr (Reg.MEMC_ECC_CORR (memBase u)) 0).setFld (Reg.MEMC_STATUS (memBase u)) 28 28 0).answer St.OK
        (s.rdN (Reg.MEMC_ECC_CORR (memBase u)))) :=
  congrArg Host.Outcome.next (access_open h)

/-- Settles O24: the read writes two registers of its own unit, of which one is the count. -/
theorem correctedCountClears : Obligations.CorrectedCountClears := by
  intro who u s h
  refine ⟨_, exec_eccCorrRead_open h, answer_resp _ _ _, ?_, fun v hv => ?_, fun a => ?_⟩
  · rw [rd_answer, rd_setFld_ne _ (eccCorr_ne_status u u), rd_wr_same]
  · rw [rd_answer, rd_setFld_ne _ (eccCorr_ne_status u v), rd_wr_ne _ (eccCorr_ne hv)]
  · rw [byte_answer, byte_setFld, byte_wr]

end Sys2Proof.Machine
end

section
/-! SUPPORT. States and operands that meet the hypotheses of the statements of the scope, with what the statements say of them. -/

open Sys2Proof Sys2Proof.Machine

namespace Sys2Proof.Tests

/-- The state after reset with one command in its queue is sound, and a step runs that command. -/
theorem test_step_empties_queue :
    Answers (step { State.reset with pending := [.nowNsRead .pf 0] }) fun t => t.pending = [] :=
  everyStepGoesOn _ reset_sound

/-- STEP_CTL is open after reset to the physical function, which does not hold it. -/
theorem test_step_ctl_other_writer : exec (.stepCtlGo .pf 0 0x80000000) State.reset = .next (State.reset.answer St.OK 0) :=
  (otherWritersHaveNoEffect .pf State.reset).1 0 0x80000000 (by decide) (by decide)

/-- INK[0] with three corrected errors. -/
def threeCorrected : State := State.reset.wr (Reg.MEMC_ECC_CORR (memBase (6 : Fin 15))) 3

/-- Control core 0 reads the three. -/
theorem test_corrected_count : Answers (exec (.eccCorrRead (.core 0) 6) threeCorrected) fun t => t.resp = Resp.mk St.OK 3 := by
  obtain ⟨t, ht, hresp, -⟩ := correctedCountClears (.core 0) 6 threeCorrected (by decide)
  rw [threeCorrected, State.rdN, rd_wr_same] at hresp
  exact ⟨t, ht, hresp⟩

end Sys2Proof.Tests
end

section
/-! SUPPORT. Commands that permission or their result slot turns away (R68, R69, R71), and what the end of a command writes into its
slot (R70). -/

namespace Sys2Proof.Machine
open Sys2Proof

/-! ### Commands turned away -/

/-- The command c, with its descriptor, is judged and run by the shared form of a command. -/
def IsCommand (c : Desc → Instr) : Prop :=
  ∀ (d : Desc) (s : State), ∃ op chk act, exec (c d) s = .next (command op d chk act s)

/-- Another realm's target is the first thing judged. -/
theorem commonCheck_of_other_target {s : State} {d : Desc} (hr : d.ring.val < 16) (ht : d.tgt ≠ d.ring.val) :
    commonCheck s d = (St.ACCESS_DENIED, 0) := by
  unfold commonCheck
  rw [if_pos (by simp [hr, ht])]

/-- A slot that still runs is judged next. -/
theorem commonCheck_of_running {s : State} {d : Desc} (ho : d.ring.val < 16 → d.tgt = d.ring.val) (ht : d.tgt < 16 ∨ d.tgt = 255)
    (hs : (s.running d.slotId).isSome = true) : commonCheck s d = (St.NO_RESOURCE, 1) := by
  unfold commonCheck
  rw [if_neg (by simpa using ho), if_neg (by simp; omega), if_pos hs]

/-- A command on a CMD ring that the common checks fail is rejected, whatever its own checks and its effect. -/
theorem command_of_commonCheck {op status detail : Nat} {d : Desc} {chk : State → Nat × Nat} {act : State → State} {s : State}
    (hr : s.ringReady (.cmd d.ring) = true) (hn : nspSlot d.slotId = false) (hc : commonCheck s d = (status, detail))
    (hs : status ≠ St.OK) : command op d chk act s = s.reject d status detail := by
  simp [command, hr, hn, hc, hs]

theorem IsCommand.rejects {c : Desc → Instr} (h : IsCommand c) {status detail : Nat} {d : Desc} {s : State}
    (hr : s.ringReady (.cmd d.ring) = true) (hn : nspSlot d.slotId = false) (hc : commonCheck s d = (status, detail))
    (hs : status ≠ St.OK) : exec (c d) s = .next (s.reject d status detail) := by
  obtain ⟨op, chk, act, he⟩ := h d s
  rw [he, command_of_commonCheck hr hn hc hs]

/-- Settles O14: each of the commands has the shared form, which judges the target and then the slot, both before the command's own
checks (the model's order, log entry 5). -/
theorem commandsTurnedAway : Obligations.CommandsTurnedAway := by
  unfold Obligations.CommandsTurnedAway
  intro turned
  have h {c : Desc → Instr} (hc : IsCommand c) : turned c := fun d s hr hn =>
    ⟨fun ho ht => hc.rejects hr hn (commonCheck_of_other_target ho ht) (by decide),
      fun ho ht hs => hc.rejects hr hn (commonCheck_of_running ho ht hs) (by decide)⟩
  and_intros
  all_goals exact h fun _ _ => ⟨_, _, _, rfl⟩

/-! ### Result slots -/

@[simp] theorem rd_setRunning (s : State) (k : SlotId) (c : Option RunCmd) (a : Nat) : (s.setRunning k c).rd a = s.rd a := rfl
@[simp] theorem byte_setRunning (s : State) (k : SlotId) (c : Option RunCmd) (a : Nat) : (s.setRunning k c).byte a = s.byte a := rfl
@[simp] theorem running_wr (s : State) (a : Nat) (v : W32) (k : SlotId) : (s.wr a v).running k = s.running k := rfl
@[simp] theorem running_wrWords (s : State) (a : Nat) (ws : List W32) (k : SlotId) : (s.wrWords a ws).running k = s.running k := by
  rw [State.running, wrWords_vlm, State.running]

@[simp] theorem byte_wrWords (s : State) (a : Nat) (ws : List W32) (a' : Nat) : (s.wrWords a ws).byte a' = s.byte a' := by
  rw [State.byte, wrWords_mem, State.byte]

theorem running_setRunning_same (s : State) (k : SlotId) (c : Option RunCmd) : (s.setRunning k c).running k = c :=
  sget_sput_same _ _ _ _

/-- Two slots have two keys. -/
theorem slotKey_injective : Function.Injective slotKey := by
  rintro ⟨⟨r, hr⟩, ⟨i, hi⟩⟩ ⟨⟨r', hr'⟩, ⟨i', hi'⟩⟩ h
  simp only [slotKey] at h
  simp only [SlotId.mk.injEq, Fin.mk.injEq]
  omega

theorem running_setRunning_ne (s : State) {j k : SlotId} (h : j ≠ k) (c : Option RunCmd) :
    (s.setRunning k c).running j = s.running j :=
  sget_sput_ne _ (slotKey_injective.ne h) _ _ _

theorem slot_lt_of_not_nsp {k : SlotId} (h : nspSlot k = false) : k.slot.val < 64 := by
  have hk := k.slot.isLt
  simp only [nspSlot, beq_eq_false_iff_ne] at h
  omega

/-- The 16 words of two slots of CMD rings lie apart. -/
theorem rslt_apart {j k : SlotId} (h : j ≠ k) (hj : nspSlot j = false) (hk : nspSlot k = false) {n : Nat} (hn : n < 16) :
    Reg.CMD_RSLT_W0 j.ring j.slot + 4 * n < Reg.CMD_RSLT_W0 k.ring k.slot ∨
      Reg.CMD_RSLT_W0 k.ring k.slot + 64 ≤ Reg.CMD_RSLT_W0 j.ring j.slot + 4 * n := by
  have hjs := slot_lt_of_not_nsp hj
  have hks := slot_lt_of_not_nsp hk
  have hne : j.ring.val ≠ k.ring.val ∨ j.slot.val ≠ k.slot.val := by
    by_contra e
    push Not at e
    exact h (by cases j; cases k; simp_all [Fin.ext_iff])
  unfold Reg.CMD_RSLT_W0
  omega

/-- Words 1 to 15 of a slot whose command ends: the time, its time base, and the command's result words. -/
def State.slotWords (s : State) (k : SlotId) (ws : List W32) : List W32 :=
  [w32 (s.ts32 (s.defaultTb k.ring)), w32 (s.defaultTb k.ring)] ++ (List.range 13).map (ws.getD · 0)

@[simp] theorem slotWords_length (s : State) (k : SlotId) (ws : List W32) : (s.slotWords k ws).length = 15 := by
  simp [State.slotWords]

theorem slotWords_getD (s : State) (k : SlotId) (ws : List W32) {n : Nat} (h : n < 13) :
    (s.slotWords k ws).getD (n + 2) 0 = ws.getD n 0 := by
  simp [State.slotWords, h]

/-- The end of a command on a CMD ring: words 1 to 15, word 0, and the slot no longer runs. -/
theorem slotEnd_of_running {s : State} {k : SlotId} {c : RunCmd} (h : s.running k = some c) (hn : nspSlot k = false) (status : Nat)
    (ws : List W32) : s.slotEnd k status ws =
      (((s.wrWords (Reg.CMD_RSLT_W0 k.ring k.slot + 4) (s.slotWords k ws)).wrN (Reg.CMD_RSLT_W0 k.ring k.slot)
        (2 ^ 16 * c.d.seq.toNat + c.op * 2 ^ 8 + status)).setRunning k none) := by
  simp only [State.slotEnd, h, hn, Bool.false_eq_true, if_false]
  rfl

/-- Settles O15: the command's end is two writes, which stay within the 16 words of the slot. -/
theorem slotBecomesFinal : Obligations.SlotBecomesFinal := by
  intro s k c status ws hk hn hst hop t
  have ht : t = _ := slotEnd_of_running hk hn status ws
  clear_value t
  subst ht
  refine ⟨?_, fun n hlt => ?_, running_setRunning_same _ _ _, fun j hj => ?_, fun j hj hjn n hlt => ?_, fun a => ?_⟩
  · have hseq := c.d.seq.isLt
    rw [State.rdN, rd_setRunning, State.wrN, rd_wr_same, w32, BitVec.toNat_ofNat]
    omega
  · rw [rd_setRunning, State.wrN, rd_wr_ne _ (by omega), show ∀ a, a + 4 * (n + 3) = a + 4 + 4 * (n + 2) by omega,
      rd_wrWords_at _ _ _ _ (by rw [slotWords_length]; omega), slotWords_getD _ _ _ hlt]
  · rw [running_setRunning_ne _ hj, State.wrN, running_wr, running_wrWords]
  · have hap := rslt_apart hj hjn hn hlt
    rw [rd_setRunning, State.wrN, rd_wr_ne _ (by omega), rd_wrWords_out _ _ (by rw [slotWords_length]; omega)]
  · rw [byte_setRunning, State.wrN, byte_wr, byte_wrWords]

end Sys2Proof.Machine
end

section
/-! SUPPORT. The commands of the Vellum and of the realms, and accesses to any register, where nothing turns them away (chapter 2). -/

namespace Sys2Proof.Machine
open Sys2Proof

/-! ### Accesses to any register -/

/-- The CSR region lies below the capture memories. -/
theorem blotterAt_of_lt {a : Nat} (h : a < 0x8000000) : blotterAt a = none := by
  unfold blotterAt
  rw [if_neg (by simp; omega)]

/-- An access that R19 and R20 let pass in the CSR region reads or writes its registers. -/
theorem doAccess_csr {who : Requester} {a n : Nat} {s : State} (r : Nat) (write : Bool) (data : Nat) (ha : a < 0x8000000)
    (hn : csrOk a n = true) (hp : s.permits who a = true) : s.doAccess who r write a n data =
      if write then (s.anyWrite who a n data, St.OK, 0) else ((s.anyRead who a n).1, St.OK, (s.anyRead who a n).2) := by
  have hlt : a < 0x10000000 := by omega
  simp only [State.doAccess, blotterAt_of_lt ha, hlt, hn, hp, if_true, Bool.not_true, Bool.or_self, Bool.false_eq_true, if_false]

/-- An access to an open register in a domain that is not forced down is performed. -/
theorem holdOr_open {who : Requester} {a : Nat} {s : State} (code r : Nat) (write : Bool) (n data : Nat) (ho : s.opens who a = true)
    (hf : ¬ s.domForced (s.addrDomain a) = true) : s.holdOr who code r write a n data = s.respond (s.doAccess who r write a n data) := by
  simp only [State.opens, Bool.and_eq_true] at ho
  unfold State.holdOr
  rw [if_neg hf, if_pos ho.1]

theorem exec_registerWrite_open {who : Requester} {addr : BitVec 48} {bytes : Nat} {s : State} (value : BitVec 64)
    (ha : addr.toNat < 0x8000000) (hn : csrOk addr.toNat bytes = true) (ho : s.opens who addr.toNat = true)
    (hf : ¬ s.domForced (s.addrDomain addr.toNat) = true) :
    exec (.registerWrite who addr bytes value) s = .next ((s.anyWrite who addr.toNat bytes value.toNat).answer St.OK 0) := by
  have hp : s.permits who addr.toNat = true := (Bool.and_eq_true_iff.1 ho).2
  change execRegisterWrite who addr bytes value s = _
  unfold execRegisterWrite
  rw [if_neg (by omega), holdOr_open _ _ _ _ _ ho hf, doAccess_csr _ _ _ ha hn hp]
  rfl

theorem exec_rcFieldRead_open {who : Requester} {addr : BitVec 48} {bytes : Nat} {s : State}
    (ha : addr.toNat < 0x8000000) (hn : csrOk addr.toNat bytes = true) (ho : s.opens who addr.toNat = true)
    (hf : ¬ s.domForced (s.addrDomain addr.toNat) = true) :
    exec (.rcFieldRead who addr bytes) s =
      .next ((s.anyRead who addr.toNat bytes).1.answer St.OK (s.anyRead who addr.toNat bytes).2) := by
  have hp : s.permits who addr.toNat = true := (Bool.and_eq_true_iff.1 ho).2
  change execRcFieldRead who addr bytes s = _
  unfold execRcFieldRead
  rw [if_neg (by omega), holdOr_open _ _ _ _ _ ho hf, doAccess_csr _ _ _ ha hn hp]
  rfl

/-- A descriptor of a CMD ring with a code that no command has completes with BAD_PARAM and is counted (R67). -/
theorem exec_unassignedOpcode_cmd {j : Job} {s : State} {r : Fin 17} (hj : j.ring = .cmd r)
    (hop : ¬ cmdAssigned (bitsOf (j.n 0) 23 16) = true) (hr : s.ringReady (.cmd r) = true) : exec (.unassignedOpcode j) s =
      .next ((s.bumpSat (Reg.CMD_REJ_CNT r) 31 0 1).complete (.cmd r) St.BAD_PARAM 0) := by
  change execUnassignedOpcode j s = _
  unfold execUnassignedOpcode
  rw [hj]
  exact if_neg (by simp [hop, hr])

/-! ### The commands -/

/-- Settles O33: a command that nothing turns away has the effect of its row, and an event whose unit is in the state it presupposes
takes the last branch of its row. What staging, starting, locking and applying do at their corners is the model's choice (log entries
138, 140, 142, 144). -/
theorem vellumCommandsComplete : Obligations.VellumCommandsComplete := by
  refine ⟨fun _ _ _ value _ => exec_registerWrite_open value,
    fun _ _ _ _ ho => congrArg Host.Outcome.next (access_open ho),
    fun _ _ _ _ ho hh => congrArg Host.Outcome.next (accessHeld_open ho hh),
    fun _ _ h hc => congrArg Host.Outcome.next (command_admitted h hc), ?stageComplete,
    fun _ _ h hc => congrArg Host.Outcome.next (commandNow_admitted h hc),
    fun _ _ h hc => congrArg Host.Outcome.next (commandNow_admitted h hc),
    fun _ _ h hc => congrArg Host.Outcome.next (command_admitted h hc),
    fun _ _ hs => if_neg hs,
    fun _ _ h hc => congrArg Host.Outcome.next (commandNow_admitted h hc),
    fun _ _ h hc => congrArg Host.Outcome.next (commandNow_admitted h hc),
    fun _ _ h hc => congrArg Host.Outcome.next (command_admitted h hc), ?applyExecute, ?applyComplete,
    fun _ _ h hc => congrArg Host.Outcome.next (command_admitted h hc), ?lockSet,
    fun _ _ h hc => congrArg Host.Outcome.next (commandNow_admitted h hc),
    fun _ _ _ => exec_unassignedOpcode_cmd, fun _ _ _ _ => exec_rcFieldRead_open⟩
  case stageComplete =>
    refine fun slot c rs s hrun hop hsrc hchk => ?_
    change execVlmStageComplete slot s = _
    unfold execVlmStageComplete
    rw [hrun]
    dsimp only
    rw [if_neg (not_not.2 hop), if_neg (not_not.2 hsrc), hchk]
  case applyExecute =>
    refine fun s a rest ha hw hl rs hv => ?_
    change execRealmApplyExecute s = _
    unfold execRealmApplyExecute
    rw [ha]
    dsimp only
    rw [if_neg hw, if_neg hl, hv]
  case applyComplete =>
    refine fun fault s a rest ha hw => ?_
    change execRealmApplyComplete fault s = _
    unfold execRealmApplyComplete
    rw [ha]
    exact if_neg hw
  case lockSet =>
    refine fun inst s c hc hw => ?_
    change execExpertLockSet inst s = _
    unfold execExpertLockSet
    dsimp only
    rw [hc]
    exact if_neg hw

end Sys2Proof.Machine
end

section
/-! SUPPORT. States and operands that meet the hypotheses of the statements of the commands on realms, with what the statements say of
them. -/

open Sys2Proof Sys2Proof.Machine

namespace Sys2Proof.Tests

/-- Ring r of the command interface enabled, of 8 descriptors, with one at HEAD. -/
def oneOnRing (r : Fin 17) : State :=
  (State.reset.wr (Reg.CMD_RING_CFG r) 0x80030000).wr (Reg.CMD_RING_TAIL r) 1

/-- A descriptor of CMD[3] for slot 2. -/
def ofRing3 (target : BitVec 8) : Desc := { ring := 3, who := .vf 3, seq := 7, slot := 2, target := target, par := [] }

/-- TB_QUERY runs on slot 2 of CMD[3]. -/
def slotRuns : State := (oneOnRing 3).setRunning { ring := 3, slot := 2 } (some { op := 0x30, d := ofRing3 3 })

/-- CMD[3] asks for realm 5. -/
theorem test_other_realm : exec (.tbQuery (ofRing3 5)) (oneOnRing 3) = .next ((oneOnRing 3).reject (ofRing3 5) St.ACCESS_DENIED 0) := by
  obtain ⟨-, -, h, -⟩ := commandsTurnedAway
  exact (h (ofRing3 5) (oneOnRing 3) (by decide) rfl).1 (by decide) (by decide)

/-- CMD[3] asks for its own realm while the slot runs. -/
theorem test_slot_in_use : exec (.evtRaise (ofRing3 3)) slotRuns = .next (slotRuns.reject (ofRing3 3) St.NO_RESOURCE 1) := by
  obtain ⟨-, -, -, -, -, -, -, -, -, -, -, -, -, -, -, -, -, -, -, h⟩ := commandsTurnedAway
  exact (h (ofRing3 3) slotRuns (by decide) rfl).2 (by decide) (by decide) rfl

/-- Word 0 of the slot, once its command has ended with LATE: SEQ 7, operation code 0x30, status 0x0A. -/
theorem test_slot_final :
    (slotRuns.slotEnd { ring := 3, slot := 2 } St.LATE []).rdN (Reg.CMD_RSLT_W0 3 2) = 0x7300A :=
  (slotBecomesFinal slotRuns { ring := 3, slot := 2 } _ St.LATE [] rfl rfl (by decide) (by decide)).1

/-- The physical function writes STEP_SEC of time base 0 after reset. -/
theorem test_register_write : exec (.registerWrite .pf 0x400018 4 1) State.reset =
    .next ((State.reset.anyWrite .pf 0x400018 4 1).answer St.OK 0) := by
  obtain ⟨h, -⟩ := vellumCommandsComplete
  exact h .pf 0x400018 4 1 State.reset (by decide) (by decide) (by decide) (by decide)

/-- REALM_QUERY of realm 1, ABSENT after reset, on CMD[16]. -/
theorem test_realm_query_answers :
    let d := dsc 1 0 []
    let s := (oneOnRing 16).begun 0x07 d
    exec (.realmQuery d) (oneOnRing 16) = .next ((s.slotEnd d.slotId St.OK
      [s.rd (Reg.VLM_REALM_STATE 1), s.rd (Reg.VLM_REALM_SERIAL 1), w32 ((s.stagedOf 1).elim 0 (·.serial))]).ended d) := by
  obtain ⟨-, -, -, -, -, -, -, -, -, -, h, -⟩ := vellumCommandsComplete
  exact h (dsc 1 0 []) (oneOnRing 16) (by decide) (by decide)

/-- A descriptor of operation code 0xFF at HEAD of CMD[16]. -/
theorem test_unassigned_opcode : exec (.unassignedOpcode { ring := .cmd 16, words := [0x80FF0000] }) (oneOnRing 16) =
    .next (((oneOnRing 16).bumpSat (Reg.CMD_REJ_CNT 16) 31 0 1).complete (.cmd 16) St.BAD_PARAM 0) := by
  obtain ⟨-, -, -, -, -, -, -, -, -, -, -, -, -, -, -, -, -, h, -⟩ := vellumCommandsComplete
  exact h _ (oneOnRing 16) 16 rfl (by decide) (by decide)

/-- Realm 2 is STOPPING and has no Folio. -/
def stopping2 : State := State.reset.wr (Reg.VLM_REALM_STATE 2) 3

/-- It is STOPPED afterwards. -/
theorem test_realm_stopped : Answers (exec (.realmStopped 2) stopping2) fun t => t.realmState 2 = 1 := by
  obtain ⟨-, -, -, -, -, -, -, -, h, -⟩ := vellumCommandsComplete
  exact ⟨_, h 2 stopping2 (by decide), by decide⟩

/-- An EXPERT_ACQUIRE of time base 2 is accepted, and no other command to it runs. -/
def asksLock : State := State.reset.setVlm { VlmState.reset with lockReqs := [(0x42, some { op := 0x08, d := dsc 255 0 [0x42] })] }

/-- Its lock is held afterwards. -/
theorem test_lock_set : Answers (exec (.expertLockSet 0x42) asksLock) fun t => t.bit (Reg.VLM_LOCK 0x42) 31 = true := by
  obtain ⟨-, -, -, -, -, -, -, -, -, -, -, -, -, -, -, h, -⟩ := vellumCommandsComplete
  exact ⟨_, h 0x42 asksLock _ rfl (by decide), by decide⟩

end Sys2Proof.Tests
end

section
/-! SUPPORT. What the operations of the time bases and of the captures write (chapter 3): each says of its operation what it leaves in
the registers, in the times and in memory. -/

namespace Sys2Proof.Machine
open Sys2Proof

/-! ### Parts of the state that an operation leaves -/

@[simp] theorem capQ_answer (s : State) (st v i : Nat) : (s.answer st v).capQ i = s.capQ i := rfl
@[simp] theorem capQ_wr (s : State) (a : Nat) (v : W32) (i : Nat) : (s.wr a v).capQ i = s.capQ i := rfl
@[simp] theorem capQ_setFld (s : State) (a hi lo v i : Nat) : (s.setFld a hi lo v).capQ i = s.capQ i := rfl
@[simp] theorem capQ_setBit (s : State) (a n i : Nat) : (s.setBit a n).capQ i = s.capQ i := rfl
@[simp] theorem freqAdj_answer (s : State) (st v b : Nat) : (s.answer st v).freqAdj b = s.freqAdj b := rfl
@[simp] theorem tbCount_answer (s : State) (st v b : Nat) : (s.answer st v).tbCount b = s.tbCount b := rfl
@[simp] theorem tbState_answer (s : State) (st v b : Nat) : (s.answer st v).tbState b = s.tbState b := rfl
@[simp] theorem byte_setBit (s : State) (a n a' : Nat) : (s.setBit a n).byte a' = s.byte a' := rfl
@[simp] theorem wrWords_time (s : State) (a : Nat) (ws : List W32) : (s.wrWords a ws).time = s.time := by rw [wrWords_eq]
@[simp] theorem capQ_wrWords (s : State) (a : Nat) (ws : List W32) (i : Nat) : (s.wrWords a ws).capQ i = s.capQ i := by
  rw [State.capQ, wrWords_time, State.capQ]

@[simp] theorem byte_raise (s : State) (e a : Nat) : (s.raise e).byte a = s.byte a := by
  rw [State.byte, raise_mem, State.byte]

@[simp] theorem capQ_raise (s : State) (e i : Nat) : (s.raise e).capQ i = s.capQ i := by
  rw [State.capQ, raise_time, State.capQ]

theorem bit_raise (s : State) (e n : Nat) {a : Nat} (h : a < 0x6500000) : (s.raise e).bit a n = s.bit a n := by
  rw [State.bit, rd_raise _ _ h, State.bit]

/-- A raise is counted in the event's COUNT, modulo 2^32 (R606). -/
theorem rdN_raise_count (s : State) (e : Nat) :
    (s.raise e).rdN (Reg.EVT_ROUTE_COUNT e) = (s.rdN (Reg.EVT_ROUTE_COUNT e) + 1) % 2 ^ 32 := by
  have hstatus : Reg.EVT_ROUTE_COUNT e ≠ Reg.EVT_STATUS := by unfold Reg.EVT_ROUTE_COUNT Reg.EVT_STATUS; omega
  have hdrops : Reg.EVT_ROUTE_COUNT e ≠ Reg.EVT_DROPS := by unfold Reg.EVT_ROUTE_COUNT Reg.EVT_DROPS; omega
  unfold State.raise
  extract_lets counted _ started queued
  have hcounted : counted.rd (Reg.EVT_ROUTE_COUNT e) = w32 (s.rdN (Reg.EVT_ROUTE_COUNT e) + 1) := rd_wr_same s _ _
  have hstarted : started.rd (Reg.EVT_ROUTE_COUNT e) = counted.rd (Reg.EVT_ROUTE_COUNT e) := by unfold started; split <;> rfl
  have hlast : w32 (s.rdN (Reg.EVT_ROUTE_COUNT e) + 1) = started.rd (Reg.EVT_ROUTE_COUNT e) := by rw [hstarted, hcounted]
  rw [← BitVec.toNat_ofNat, ← w32, hlast, State.rdN]
  split
  · exact congrArg BitVec.toNat (rd_setFld_ne _ hstatus _ _ _)
  · exact congrArg BitVec.toNat ((rd_setBit_ne _ hstatus _).trans (rd_setFld_ne _ hdrops _ _ _))

/-! ### FREQ_ADJ (R85) -/

/-- A FREQ_ADJ value as it is applied: the nearer limit where it lies outside (R85). -/
def clampFreq (v : Int) : Int := max (-(2 ^ 38)) (min (2 ^ 38) v)

theorem applyFreq_time (s : State) (b : Nat) (v : Int) :
    (s.applyFreq b v).time = { s.time with freq := sput s.time.freq b (clampFreq v) 0 } := by
  have hclamp : (if v > 2 ^ 38 then 2 ^ 38 else if v < -(2 ^ 38) then -(2 ^ 38) else v) = clampFreq v := by
    unfold clampFreq
    split_ifs <;> omega
  unfold State.applyFreq
  rw [hclamp]
  dsimp only [State.wrN, wr_time]
  split <;> rfl

theorem applyFreq_mem (s : State) (b : Nat) (v : Int) : (s.applyFreq b v).mem = s.mem := by
  unfold State.applyFreq
  extract_lets w flagged low high
  change flagged.mem = s.mem
  unfold flagged
  split <;> rfl

/-- The registers written are FREQ_ADJ and STATUS of the time base. -/
theorem rd_applyFreq_ne (s : State) {a b : Nat} (v : Int) (hs : a ≠ Reg.TMB_STATUS b) (hl : a ≠ Reg.TMB_FREQ_ADJ_LO b)
    (hh : a ≠ Reg.TMB_FREQ_ADJ_HI b) : (s.applyFreq b v).rd a = s.rd a := by
  unfold State.applyFreq
  extract_lets w flagged low high
  have hflagged : flagged.rd a = s.rd a := by
    unfold flagged
    split
    · rfl
    · exact rd_setBit_ne s hs _
  exact (rd_wr_ne low hh _).trans ((rd_wr_ne flagged hl _).trans hflagged)

/-- A value outside the limits sets STATUS.FCLAMP. -/
theorem bit_applyFreq_fclamp (s : State) (b : Nat) {v : Int} (h : v < -(2 ^ 38) ∨ 2 ^ 38 < v) :
    (s.applyFreq b v).bit (Reg.TMB_STATUS b) 1 = true := by
  have hl : Reg.TMB_STATUS b ≠ Reg.TMB_FREQ_ADJ_LO b := by unfold Reg.TMB_STATUS Reg.TMB_FREQ_ADJ_LO; omega
  have hh : Reg.TMB_STATUS b ≠ Reg.TMB_FREQ_ADJ_HI b := by unfold Reg.TMB_STATUS Reg.TMB_FREQ_ADJ_HI; omega
  unfold State.applyFreq
  extract_lets w flagged low high
  have hw : ¬ w = v := by unfold w; split_ifs <;> omega
  have hrd : high.rd (Reg.TMB_STATUS b) = flagged.rd (Reg.TMB_STATUS b) := (rd_wr_ne low hh _).trans (rd_wr_ne flagged hl _)
  calc high.bit (Reg.TMB_STATUS b) 1 = flagged.bit (Reg.TMB_STATUS b) 1 := congrArg (wbit · 1) hrd
    _ = (s.setBit (Reg.TMB_STATUS b) 1).bit (Reg.TMB_STATUS b) 1 := by unfold flagged; rw [if_neg hw]
    _ = true := bit_setBit_same s _ (by decide)

theorem freqAdj_applyFreq (s : State) (b k : Nat) (v : Int) :
    (s.applyFreq b v).freqAdj k = if k = b then clampFreq v else s.freqAdj k := by
  rw [State.freqAdj, applyFreq_time]
  exact sget_sput _ _ _ _ _

@[simp] theorem tbCount_applyFreq (s : State) (b k : Nat) (v : Int) : (s.applyFreq b v).tbCount k = s.tbCount k := by
  rw [State.tbCount, applyFreq_time, State.tbCount]

/-- No STATE is a register that a change of frequency writes. -/
@[simp] theorem tbState_applyFreq (s : State) (b k : Nat) (v : Int) : (s.applyFreq b v).tbState k = s.tbState k := by
  have hrd : (s.applyFreq b v).rd (Reg.TMB_STATE k) = s.rd (Reg.TMB_STATE k) := by
    apply rd_applyFreq_ne
    · unfold Reg.TMB_STATE Reg.TMB_STATUS; omega
    · unfold Reg.TMB_STATE Reg.TMB_FREQ_ADJ_LO; omega
    · unfold Reg.TMB_STATE Reg.TMB_FREQ_ADJ_HI; omega
  rw [State.tbState, State.fld, hrd, State.tbState, State.fld]

@[simp] theorem byte_applyFreq (s : State) (b a : Nat) (v : Int) : (s.applyFreq b v).byte a = s.byte a := by
  rw [State.byte, applyFreq_mem, State.byte]

/-! ### STATE.STATE (R83) -/

/-- The transitions of R83, one by one. -/
theorem tbTransition_iff {cur new source : Nat} : tbTransition cur new source = true ↔
    (cur = 0 ∧ new = 1 ∧ 1 ≤ source ∧ source ≤ 4) ∨ (cur = 1 ∧ new = 2) ∨ (cur = 2 ∧ new = 3) ∨ (cur = 3 ∧ new = 1) ∨
      (cur ≠ 0 ∧ new = 0) := by
  simp only [tbTransition, Bool.or_eq_true, Bool.and_eq_true, beq_iff_eq, decide_eq_true_eq, or_assoc, and_assoc, ne_eq]

/-- Every transition of R83 leads to another state. -/
theorem ne_of_tbTransition {cur new source : Nat} (h : tbTransition cur new source = true) : cur ≠ new := by
  have := tbTransition_iff.1 h
  omega

/-- A change of state writes STATE.STATE and raises EV0576 + b. -/
theorem tbSetState_of_ne {s : State} {b st : Nat} (h : s.tbState b ≠ st) :
    s.tbSetState b st = (s.setFld (Reg.TMB_STATE b) 1 0 st).raise (576 + b) := if_neg h

/-- The registers of the eight time bases lie below those of the event router. -/
theorem tmbState_lt {b : Nat} (h : b < 8) : Reg.TMB_STATE b < 0x6500000 := by unfold Reg.TMB_STATE; omega

theorem tmbState_ne {b k : Nat} (h : k ≠ b) : Reg.TMB_STATE k ≠ Reg.TMB_STATE b := by unfold Reg.TMB_STATE; omega

theorem tmbState_ne_status (b k : Nat) : Reg.TMB_STATE k ≠ Reg.TMB_STATUS b := by unfold Reg.TMB_STATE Reg.TMB_STATUS; omega

theorem tbState_tbSetState_same {s : State} {b st : Nat} (hb : b < 8) (hst : st < 4) (h : s.tbState b ≠ st) :
    (s.tbSetState b st).tbState b = st := by
  rw [tbSetState_of_ne h, State.tbState, State.fld, rd_raise _ _ (tmbState_lt hb)]
  exact (fld_setFld_same s _ st (by decide) (by decide)).trans (Nat.mod_eq_of_lt hst)

theorem rdN_tbSetState_count {s : State} {b st : Nat} (hb : b < 8) (h : s.tbState b ≠ st) :
    (s.tbSetState b st).rdN (Reg.EVT_ROUTE_COUNT (576 + b)) = (s.rdN (Reg.EVT_ROUTE_COUNT (576 + b)) + 1) % 2 ^ 32 := by
  have hne : Reg.EVT_ROUTE_COUNT (576 + b) ≠ Reg.TMB_STATE b := by unfold Reg.EVT_ROUTE_COUNT Reg.TMB_STATE; omega
  rw [tbSetState_of_ne h, rdN_raise_count, State.rdN, rd_setFld_ne _ hne, State.rdN]

theorem rd_tbSetState_ne {s : State} {b k st : Nat} (hk : k < 8) (hkb : k ≠ b) :
    (s.tbSetState b st).rd (Reg.TMB_STATE k) = s.rd (Reg.TMB_STATE k) := by
  unfold State.tbSetState
  split
  · rfl
  · rw [rd_raise _ _ (tmbState_lt hk), rd_setFld_ne _ (tmbState_ne hkb)]

@[simp] theorem tbSetState_time (s : State) (b st : Nat) : (s.tbSetState b st).time = s.time := by
  unfold State.tbSetState
  split <;> simp

@[simp] theorem byte_tbSetState (s : State) (b st a : Nat) : (s.tbSetState b st).byte a = s.byte a := by
  unfold State.tbSetState
  split <;> simp

/-! ### Captures (R106, R107) -/

theorem capQ_setCapQ (s : State) (i k : Nat) (q : List Capture) : (s.setCapQ i q).capQ k = if k = i then q else s.capQ k := by
  rw [State.setCapQ, capQ_setFld]
  exact sget_sput _ _ _ _ _

@[simp] theorem byte_setCapQ (s : State) (i a : Nat) (q : List Capture) : (s.setCapQ i q).byte a = s.byte a := by
  rw [State.setCapQ, byte_setFld]
  rfl

theorem rd_setCapQ_ne (s : State) {a i : Nat} (q : List Capture) (h : a ≠ Reg.RUL_CAP_CFG i) : (s.setCapQ i q).rd a = s.rd a :=
  rd_wr_ne s h _

/-- The words of a capture as NS, SEC_LO and SEC_HI show it (R107). -/
def Capture.words (c : Capture) : List W32 := [w32 c.ns, w32 c.sec, w32 (c.sec / 2 ^ 32 % 65536 + 65536 * c.frac)]

theorem popCap_nil {s : State} {i : Nat} (h : s.capQ i = []) : s.popCap i = s.wr (Reg.RUL_CAP_NS i) 0 := by
  unfold State.popCap
  rw [h]

theorem popCap_cons {s : State} {i : Nat} {c : Capture} {r : List Capture} (h : s.capQ i = c :: r) :
    s.popCap i = ((s.wrWords (Reg.RUL_CAP_NS i) c.words).setCapQ i r).setFld (Reg.RUL_CAP_CFG i) 23 16 c.seq := by
  unfold State.popCap
  rw [h]
  rfl

/-- The queue loses its oldest capture, if it has one; the other inputs' queues are as before. -/
theorem capQ_popCap (s : State) (i k : Nat) : (s.popCap i).capQ k = if k = i then (s.capQ i).tail else s.capQ k := by
  cases hq : s.capQ i with
  | nil =>
    rw [popCap_nil hq, capQ_wr]
    split
    next hk => rw [hk, hq, List.tail_nil]
    next => rfl
  | cons c r =>
    rw [popCap_cons hq, List.tail_cons, capQ_setFld, capQ_setCapQ, capQ_wrWords]

@[simp] theorem byte_popCap (s : State) (i a : Nat) : (s.popCap i).byte a = s.byte a := by
  cases hq : s.capQ i with
  | nil => rw [popCap_nil hq, byte_wr]
  | cons c r => rw [popCap_cons hq, byte_setFld, byte_setCapQ, byte_wrWords]

/-- The three words of the capture are latched from NS upward. -/
theorem rd_popCap_words {s : State} {i n : Nat} {c : Capture} {r : List Capture} (h : s.capQ i = c :: r) (hn : n < 3) :
    (s.popCap i).rd (Reg.RUL_CAP_NS i + 4 * n) = c.words.getD n 0 := by
  have hne : Reg.RUL_CAP_NS i + 4 * n ≠ Reg.RUL_CAP_CFG i := by unfold Reg.RUL_CAP_NS Reg.RUL_CAP_CFG; omega
  rw [popCap_cons h, rd_setFld_ne _ hne, rd_setCapQ_ne _ _ hne, rd_wrWords_at _ _ _ _ hn]

/-- CFG.SEQ shows the capture's number. -/
theorem fld_popCap_seq {s : State} {i : Nat} {c : Capture} {r : List Capture} (h : s.capQ i = c :: r) :
    (s.popCap i).fld (Reg.RUL_CAP_CFG i) 23 16 = c.seq % 256 := by
  rw [popCap_cons h]
  exact fld_setFld_same _ _ _ (by decide) (by decide)

/-- A read of CAP[i].NS that is admitted takes a capture from the queue and answers NS. -/
theorem exec_capNsRead_open {who : Requester} {i : Fin 8} {s : State} (h : s.opens who (Reg.RUL_CAP_NS i) = true) :
    exec (.capNsRead who i) s = .next ((s.popCap i).answer St.OK ((s.popCap i).rdN (Reg.RUL_CAP_NS i))) :=
  congrArg Host.Outcome.next (access_open h)

/-- An enabled edge at a full queue sets OVR and raises the event of the loss (R107). -/
theorem exec_timeInEdge_full {i : Fin 8} {falling : Bool} {s : State} (he : s.bit (Reg.RUL_CAP_CFG i) 31 = true)
    (hd : s.bit (Reg.RUL_CAP_CFG i) (if falling then 9 else 8) = true) (hf : 4 ≤ (s.capQ i).length) :
    exec (.timeInEdge i falling) s = .next ((s.setBit (Reg.RUL_CAP_CFG i) 30).raise (600 + i)) := by
  change execTimeInEdge i falling s = _
  unfold State.bit at he hd
  unfold execTimeInEdge
  dsimp only
  rw [he, hd, if_neg (by decide), if_pos hf]

/-! ### The statements -/

/-- Settles O10: a read is admitted with a capture queued or with none, and an edge meets a full queue. -/
theorem captureQueue : Obligations.CaptureQueue := by
  refine ⟨fun who i s c r ho hq => ?_, fun who i s ho hq => ?_, fun i falling s he hd hf => ?_⟩
  · have hlo : Reg.RUL_CAP_SEC_LO i = Reg.RUL_CAP_NS i + 4 * 1 := by unfold Reg.RUL_CAP_SEC_LO Reg.RUL_CAP_NS; omega
    have hhi : Reg.RUL_CAP_SEC_HI i = Reg.RUL_CAP_NS i + 4 * 2 := by unfold Reg.RUL_CAP_SEC_HI Reg.RUL_CAP_NS; omega
    refine ⟨_, exec_capNsRead_open ho, ?_, ?_, ?_, ?_, fld_popCap_seq hq, fun k hk => ?_, byte_popCap s i⟩
    · have hns : (s.popCap i).rd (Reg.RUL_CAP_NS i) = w32 c.ns := rd_popCap_words (n := 0) hq (by decide)
      rw [answer_resp, State.rdN, hns, w32, BitVec.toNat_ofNat]
    · rw [capQ_answer, capQ_popCap, if_pos rfl, hq, List.tail_cons]
    · rw [rd_answer, hlo, rd_popCap_words hq (by decide)]
      rfl
    · rw [rd_answer, hhi, rd_popCap_words hq (by decide)]
      rfl
    · rw [capQ_answer, capQ_popCap, if_neg hk]
  · have hcfg : Reg.RUL_CAP_CFG i ≠ Reg.RUL_CAP_NS i := by unfold Reg.RUL_CAP_CFG Reg.RUL_CAP_NS; omega
    refine ⟨_, exec_capNsRead_open ho, ?_, ?_, ?_, fun k hk => ?_, byte_popCap s i⟩
    · rw [answer_resp, popCap_nil hq, State.rdN, rd_wr_same]
      rfl
    · rw [capQ_answer, capQ_popCap, if_pos rfl, hq, List.tail_nil]
    · rw [rd_answer, popCap_nil hq, rd_wr_ne _ hcfg]
    · rw [capQ_answer, capQ_popCap, if_neg hk]
  · have hq : ∀ k, ((s.setBit (Reg.RUL_CAP_CFG i) 30).raise (600 + i)).capQ k = s.capQ k := fun k => by
      rw [capQ_raise, capQ_setBit]
    have hlt : Reg.RUL_CAP_CFG i < 0x6500000 := by unfold Reg.RUL_CAP_CFG; omega
    refine ⟨_, exec_timeInEdge_full he hd hf, hq i, ?_, hq, fun a => ?_⟩
    · rw [bit_raise _ _ _ hlt, bit_setBit_same _ _ (by decide)]
    · rw [byte_raise, byte_setBit]

/-- Settles O11: the write applies the value, and that writes no register and no time of another time base. -/
theorem frequencyIsClamped : Obligations.FrequencyIsClamped := by
  intro who b value s ho hh v
  refine ⟨_, congrArg Host.Outcome.next (accessHeld_open ho hh), ?_, bit_applyFreq_fclamp s b, fun k hk => ?_,
    fun k => ⟨tbCount_applyFreq s b k v, tbState_applyFreq s b k v⟩, fun a => byte_applyFreq s b a v⟩
  · exact (freqAdj_applyFreq s b b v).trans (if_pos rfl)
  · exact (freqAdj_applyFreq s b k v).trans (if_neg hk)

/-- The write of STATE.STATE by its holder: a transition of R83 or a rejected write. -/
theorem exec_tbStateWrite_open {who : Requester} {b : Fin 8} {value : W32} {s : State} (ho : s.opens who (Reg.TMB_STATE b) = true)
    (hh : s.holds who (Reg.TMB_STATE b) = true) : exec (.tbStateWrite who b value) s =
      .next ((if tbTransition (s.tbState b) (wfld value 1 0) (s.fld (Reg.TMB_STATE b) 10 8) then s.tbSetState b (wfld value 1 0)
        else s.setBit (Reg.TMB_STATUS b) 3).answer St.OK 0) :=
  congrArg Host.Outcome.next (accessHeld_open ho hh)

/-- Settles O12: by whether the write names a transition of R83. -/
theorem timeBaseStates : Obligations.TimeBaseStates := by
  intro who b value s ho hh old new source takes
  have htakes : tbTransition old new source = true ↔ takes := tbTransition_iff
  refine ⟨_, exec_tbStateWrite_open ho hh, ?_⟩
  by_cases ht : takes
  · have hmove := htakes.2 ht
    have hne : s.tbState b ≠ new := ne_of_tbTransition hmove
    have hnew : new < 4 := Nat.mod_lt _ (by decide)
    rw [if_pos hmove]
    refine ⟨fun _ => ⟨?_, ?_⟩, fun hn => absurd ht hn, fun k hk hkb => ?_, fun k => ⟨?_, ?_⟩, fun a => ?_⟩
    · rw [tbState_answer, tbState_tbSetState_same b.isLt hnew hne]
    · exact rdN_tbSetState_count b.isLt hne
    · rw [rd_answer, rd_tbSetState_ne hk hkb]
    · rw [tbCount_answer, State.tbCount, tbSetState_time, State.tbCount]
    · rw [freqAdj_answer, State.freqAdj, tbSetState_time, State.freqAdj]
    · rw [byte_answer, byte_tbSetState]
  · rw [if_neg (mt htakes.1 ht)]
    have hstate : ∀ k, (s.setBit (Reg.TMB_STATUS b) 3).rd (Reg.TMB_STATE k) = s.rd (Reg.TMB_STATE k) :=
      fun k => rd_setBit_ne s (tmbState_ne_status b k) 3
    exact ⟨fun h => absurd h ht, fun _ => ⟨hstate b, bit_setBit_same s _ (by decide)⟩, fun k _ _ => hstate k,
      fun _ => ⟨rfl, rfl⟩, fun _ => rfl⟩

end Sys2Proof.Machine
end

section
/-! SUPPORT. The commands and events of the time bases, the grids, the captures and the trigger channels, where nothing turns them away
(chapter 3). -/

namespace Sys2Proof.Machine
open Sys2Proof

/-! ### The outcome of a command or an access that nothing turns away -/

theorem next_command {op : Nat} {d : Desc} {chk : State → Nat × Nat} {act : State → State} {s : State} (h : s.admits d = true)
    (hc : chk s = (St.OK, 0)) : (.next (command op d chk act s) : Out) = .next ((act (s.begun op d)).ended d) :=
  congrArg Host.Outcome.next (command_admitted h hc)

theorem next_commandNow {op : Nat} {d : Desc} {chk : State → Nat × Nat} {act : State → State × Nat × List W32} {s : State}
    (h : s.admits d = true) (hc : chk s = (St.OK, 0)) : (.next (commandNow op d chk act s) : Out) =
      .next (((act (s.begun op d)).1.slotEnd d.slotId (act (s.begun op d)).2.1 (act (s.begun op d)).2.2).ended d) :=
  congrArg Host.Outcome.next (commandNow_admitted h hc)

theorem next_access {who : Requester} {a : Nat} {act : State → State × Nat} {s : State} (h : s.opens who a = true) :
    (.next (access who a act s) : Out) = .next ((act s).1.answer St.OK (act s).2) :=
  congrArg Host.Outcome.next (access_open h)

theorem next_accessHeld {who : Requester} {a : Nat} {act : State → State} {s : State} (h : s.opens who a = true)
    (hh : s.holds who a = true) : (.next (accessHeld who a act s) : Out) = .next ((act s).answer St.OK 0) :=
  congrArg Host.Outcome.next (accessHeld_open h hh)

/-! ### The statement -/

/-- Settles O34: an admitted command, and an access to an open register, have the effect of their row; an event whose unit is in the
state it presupposes takes that branch of its row. A COMMIT for a target that is not the realm's (log entry 77) is the model's deduction;
the channels that TRG_ALLOC gives for TARGET 0xFF and the 2 ns of a frame boundary (log entries 78, 79) are its choice. -/
theorem rulingCommandsComplete : Obligations.RulingCommandsComplete := by
  refine ⟨fun _ _ h hc => next_commandNow h hc, fun _ _ h hc => next_commandNow h hc, fun _ _ h hc => next_commandNow h hc,
    fun _ _ h hc => next_command h hc, fun _ _ h hc => next_commandNow h hc, fun _ _ _ _ ho hh => next_accessHeld ho hh,
    ?timeBaseStepApply, fun _ _ _ _ ho hh => next_accessHeld ho hh, fun _ _ _ _ ho hh => next_accessHeld ho hh,
    fun _ _ _ ho => next_access ho, fun _ _ h hc => next_commandNow h hc, fun _ _ h hc => next_commandNow h hc,
    fun _ _ _ _ => ⟨fun ho hh => next_accessHeld ho hh, fun ho hh => next_accessHeld ho hh⟩, fun _ _ _ ho => next_access ho,
    ?gridFrameBoundary, ?trgAlloc, fun _ _ h hc => next_commandNow h hc, fun _ _ h hc => next_commandNow h hc,
    fun _ _ h hc => next_commandNow h hc, fun _ _ h hc => next_commandNow h hc, fun _ _ _ _ _ ho hh => next_accessHeld ho hh,
    fun _ _ _ ho hh => next_accessHeld ho hh, fun _ _ _ ho hh => next_accessHeld ho hh, ?triggerFire, ?snapshotCopyComplete,
    fun _ _ h hc => next_command h hc, ?timeInEdge, fun _ _ _ ho => next_access ho, fun _ _ h hc => next_commandNow h hc,
    fun _ _ h hc => next_commandNow h hc, fun _ _ h hc => next_commandNow h hc, fun _ _ => rfl,
    fun _ _ _ _ ho hh => next_accessHeld ho hh, fun _ _ _ he => if_neg he⟩
  case timeBaseStepApply =>
    intro b z q k hq hk s new hst hnew
    change execTimeBaseStepApply b z = _
    unfold execTimeBaseStepApply
    rw [hq]
    dsimp only
    rw [if_neg hst, if_neg hnew, hk]
    rfl
  case gridFrameBoundary => exact fun _ _ hv hb => (if_neg hv).trans (if_neg hb)
  case trgAlloc =>
    intro d s t c dev free h hc hp
    refine (next_commandNow h hc).trans ?_
    rw [hp]
  case triggerFire =>
    intro c s o ho ha ht
    change execTriggerFire c s = _
    unfold execTriggerFire
    rw [ho]
    exact (if_neg ha).trans (if_neg ht)
  case snapshotCopyComplete =>
    intro blk s a ha
    change execSnapshotCopyComplete blk s = _
    unfold execSnapshotCopyComplete
    rw [ha]
  case timeInEdge => exact fun _ _ _ he hf => (if_neg he).trans (if_neg hf)

end Sys2Proof.Machine
end

section
/-! SUPPORT. States and operands that meet the hypotheses of the statements of the Ruling, with what the statements say of them. -/

open Sys2Proof Sys2Proof.Machine

namespace Sys2Proof.Tests

/-- A capture of 5 s and 7 ns on time base 1, the fourth of its input. -/
def aCapture : Capture := { tb := 1, sec := 5, ns := 7, frac := 0, seq := 3 }

/-- Captures queued on TIME_IN[2], which takes rising edges. -/
def queuedOn2 (q : List Capture) : State :=
  { State.reset.wr (Reg.RUL_CAP_CFG 2) 0x80000100 with time := { TimeState.reset with caps := [(2, q)] } }

/-- Control core 0 reads CAP[2].NS. -/
theorem test_oldest_capture : Answers (exec (.capNsRead (.core 0) 2) (queuedOn2 [aCapture])) fun t =>
    t.resp = Resp.mk St.OK 7 ∧ t.capQ 2 = [] ∧ t.rd (Reg.RUL_CAP_SEC_LO 2) = 5 := by
  obtain ⟨t, ht, hresp, hq, hlo, -⟩ := captureQueue.1 (.core 0) 2 (queuedOn2 [aCapture]) aCapture [] (by decide) rfl
  exact ⟨t, ht, hresp, hq, hlo⟩

/-- And again, with the queue empty. -/
theorem test_no_capture : Answers (exec (.capNsRead (.core 0) 2) (queuedOn2 [])) fun t => t.resp = Resp.mk St.OK 0 := by
  obtain ⟨t, ht, hresp, -⟩ := captureQueue.2.1 (.core 0) 2 (queuedOn2 []) (by decide) rfl
  exact ⟨t, ht, hresp⟩

/-- A fifth edge. -/
theorem test_fifth_edge : Answers (exec (.timeInEdge 2 false) (queuedOn2 (List.replicate 4 aCapture))) fun t =>
    (t.capQ 2).length = 4 ∧ t.bit (Reg.RUL_CAP_CFG 2) 30 = true := by
  obtain ⟨t, ht, hq, hovr, -⟩ :=
    captureQueue.2.2 2 false (queuedOn2 (List.replicate 4 aCapture)) (by decide) (by decide) (by decide)
  exact ⟨t, ht, congrArg List.length hq, hovr⟩

/-- A FREQ_ADJ of about 2^62 is 2^38, with FCLAMP. -/
theorem test_frequency_clamped : Answers (exec (.freqAdjHiWrite (.core 0) 3 0x40000000) State.reset) fun t =>
    t.freqAdj 3 = 2 ^ 38 ∧ t.bit (Reg.TMB_STATUS 3) 1 = true := by
  obtain ⟨t, ht, hfreq, hclamp, -⟩ := frequencyIsClamped (.core 0) 3 0x40000000 State.reset (by decide) (by decide)
  exact ⟨t, ht, hfreq, hclamp (by decide)⟩

/-- Time base 1 in FREERUN with SOURCE 1. -/
def freerunPtp : State := State.reset.wr (Reg.TMB_STATE 1) 0x100

/-- It may become ACQUIRING. -/
theorem test_acquiring : Answers (exec (.tbStateWrite (.core 0) 1 1) freerunPtp) fun t => t.tbState 1 = 1 := by
  obtain ⟨t, ht, htakes, -⟩ := timeBaseStates (.core 0) 1 1 freerunPtp (by decide) (by decide)
  exact ⟨t, ht, (htakes (by decide)).1⟩

/-- It may not become LOCKED. -/
theorem test_state_rejected : Answers (exec (.tbStateWrite (.core 0) 1 2) freerunPtp) fun t =>
    t.bit (Reg.TMB_STATUS 1) 3 = true := by
  obtain ⟨t, ht, -, hrej, -⟩ := timeBaseStates (.core 0) 1 2 freerunPtp (by decide) (by decide)
  exact ⟨t, ht, (hrej (by decide)).2⟩

/-- TB_QUERY of time base 2 on CMD[16]. -/
theorem test_tb_query :
    let d := dsc 255 0 [2]
    let s := (oneOnRing 16).begun 0x30 d
    exec (.tbQuery d) (oneOnRing 16) = .next ((s.slotEnd d.slotId St.OK ([s.rd (Reg.TMB_STATE 2)] ++ nowWords s 2 ++
      [w32 (unsigned 64 (s.freqAdj 2) % 2 ^ 32), w32 (unsigned 64 (s.freqAdj 2) / 2 ^ 32)])).ended d) := by
  obtain ⟨h, -⟩ := rulingCommandsComplete
  exact h (dsc 255 0 [2]) (oneOnRing 16) (by decide) (by decide)

/-- A step of 1 ns is asked for on time base 1 by TB_STEP on slot 2 of CMD[3]. -/
def stepAsked : State :=
  { slotRuns with time := { TimeState.reset with steps := [(1, some { delta := 2 ^ 48, slot := some { ring := 3, slot := 2 } })] } }

/-- Time base 1 reads 1 ns afterwards. -/
theorem test_step_applied : Answers (exec (.timeBaseStepApply 1) stepAsked) fun t => t.tbNs 1 = 1 := by
  obtain ⟨-, -, -, -, -, -, h, -⟩ := rulingCommandsComplete
  exact ⟨_, h 1 stepAsked _ _ rfl rfl (by decide) (by decide), by decide⟩

/-- Grid 5 with an offset of 100 ns armed, at the start of frame 0. -/
def offsetArmed : State :=
  ((State.reset.wr (Reg.RUL_GRID_CFG 5) 0x80000000).wr (Reg.RUL_GRID_SH_OFFSET 5) 100).wr (Reg.RUL_GRID_SH_CTL 5) 0x80000000

/-- The offset is handed over. -/
theorem test_offset_handed_over : Answers (exec (.gridFrameBoundary 5) offsetArmed) fun t => t.gridOff 5 = 65536 * 100 := by
  obtain ⟨-, -, -, -, -, -, -, -, -, -, -, -, -, -, h, -⟩ := rulingCommandsComplete
  exact ⟨_, h 5 offsetArmed (by decide) (by decide), by decide⟩

/-- Channel 7, of kind 0 and event 1, armed at the present instant of time base 0. -/
def armedNow : State :=
  ((State.reset.wr (Reg.TRG_CH_CFG 7) 0x10000001).wr (Reg.TRG_CH_CTL 7) 2).setTrig 7 { owner := 16, next := some { idx := 0, inst := 0 } }

/-- EV0625 is raised. -/
theorem test_trigger_fires : Answers (exec (.triggerFire 7) armedNow) fun t => t.rdN (Reg.EVT_ROUTE_COUNT 625) = 1 := by
  obtain ⟨-, -, -, -, -, -, -, -, -, -, -, -, -, -, -, -, -, -, -, -, -, -, -, h, -⟩ := rulingCommandsComplete
  exact ⟨_, h 7 armedNow _ rfl (by decide) (by decide), by decide⟩

/-- The fourth snapshot of the device. -/
def fourthSnapshot : State := State.reset.wr Reg.TRG_SNAP_GEN 4

/-- The Ordinator has made its copy. -/
theorem test_snapshot_copied : Answers (exec (.snapshotCopyComplete 0x60) fourthSnapshot) fun t => t.rd Reg.ORD_SNAP_GEN = 4 := by
  obtain ⟨-, -, -, -, -, -, -, -, -, -, -, -, -, -, -, -, -, -, -, -, -, -, -, -, h, -⟩ := rulingCommandsComplete
  exact ⟨_, h 0x60 fourthSnapshot Reg.ORD_SNAP_GEN (by decide), by decide⟩

/-- A first edge. -/
theorem test_edge_captured : Answers (exec (.timeInEdge 2 false) (queuedOn2 [])) fun t => (t.capQ 2).length = 1 := by
  obtain ⟨-, -, -, -, -, -, -, -, -, -, -, -, -, -, -, -, -, -, -, -, -, -, -, -, -, -, h, -⟩ := rulingCommandsComplete
  exact ⟨_, h 2 false (queuedOn2 []) (by decide) (by decide), by decide⟩

end Sys2Proof.Tests
end

section
/-! SUPPORT. What the operations of the Ductus write (chapter 5): each says of its operation which registers it leaves and what it puts
into the others, up to the end of a wait and the post of a semaphore. -/

namespace Sys2Proof.Machine
open Sys2Proof

/-! ### Operations that write no register -/

@[simp] theorem rd_setDuc (s : State) (q : Nat) (d : DucSt) (a : Nat) : (s.setDuc q d).rd a = s.rd a := rfl
@[simp] theorem rd_setIpend (s : State) (nib line : Nat) (on : Bool) (a : Nat) : (s.setIpend nib line on).rd a = s.rd a := rfl

@[simp] theorem rd_setBytes (s : State) (a : Nat) (bs : List Byte) (a' : Nat) : (s.setBytes a bs).rd a' = s.rd a' := by
  induction bs generalizing s a with
  | nil => rfl
  | cons b r ih => rw [State.setBytes, ih, rd_setByte]

@[simp] theorem rd_jrnlSem (s : State) (q i a : Nat) : (s.jrnlSem q i).rd a = s.rd a := rd_setBytes _ _ _ _

/-- The dispatch decision asserts interrupts alone (R169). -/
@[simp] theorem rd_dispatch (s : State) (q a : Nat) : (s.dispatch q).rd a = s.rd a := by
  have hfold : ∀ (plan : List (Nat × Nat)) (s : State),
      (plan.foldl (fun s e => if e.2 ≠ s.runOn q e.1 then s.setIpend (16 * q + e.1) 0 true else s) s).rd a = s.rd a := by
    intro plan
    induction plan with
    | nil => exact fun _ => rfl
    | cons e r ih =>
      intro s
      rw [List.foldl_cons, ih]
      split
      · exact rd_setIpend _ _ _ _ _
      · rfl
  unfold State.dispatch
  split
  · rfl
  · exact hfold _ _

/-! ### Trace records (R186, R187) -/

/-- A Blotter record moves the write pointer of its Blotter. -/
theorem rd_blotter {s t : State} {n a : Nat} {ws : List Nat} (h : s.blotter n ws = some t) (ha : a ≠ Reg.BLT_WPTR n) :
    t.rd a = s.rd a := by
  unfold State.blotter at h
  dsimp only at h
  split at h
  · cases h
  · split at h
    · cases h
    · obtain rfl := Option.some.inj h
      exact (rd_wr_ne _ ha _).trans (rd_setBytes _ _ _ _)

/-- A trace record writes the Blotter's pointer, or the count of lost records and the event router. -/
theorem rd_ducTrace (s : State) {q a : Nat} (typ realm nib tid w2 w3 : Nat) (ha : a < 0x6500000) (hd : a ≠ Reg.DUC_TRACE_DROP q) :
    (s.ducTrace q typ realm nib tid w2 w3).rd a = s.rd a := by
  have hw : a ≠ Reg.BLT_WPTR q := by unfold Reg.BLT_WPTR; omega
  unfold State.ducTrace
  split
  · rfl
  · dsimp only
    split
    next hb => exact rd_blotter hb hw
    next => exact (rd_raise _ _ ha).trans (rd_setFld_ne s hd _ _ _)

/-! ### The state of a thread (R163, R164) -/

/-- A thread control block and STATUS of its Quire are different registers. -/
theorem tcbW_ne_status (q i w : Nat) : Reg.DUC_TCB_W q i w ≠ Reg.DUC_STATUS q := by unfold Reg.DUC_TCB_W Reg.DUC_STATUS; omega

theorem tcbW_ne_traceDrop (q i w : Nat) : Reg.DUC_TCB_W q i w ≠ Reg.DUC_TRACE_DROP q := by
  unfold Reg.DUC_TCB_W Reg.DUC_TRACE_DROP; omega

/-- The control blocks of the eight Quires lie below the registers of the event router. -/
theorem tcbW_lt {q i w : Nat} (hq : q < 8) (hi : i < 512) (hw : w < 16) : Reg.DUC_TCB_W q i w < 0x6500000 := by
  unfold Reg.DUC_TCB_W; omega

theorem tcbW_ne {q i w w' : Nat} (h : w ≠ w') : Reg.DUC_TCB_W q i w ≠ Reg.DUC_TCB_W q i w' := by unfold Reg.DUC_TCB_W; omega

/-- A change of a thread's STATE writes word 0 of its control block and STATUS.FREE_TCB. -/
theorem rd_setTcbState (s : State) {q a : Nat} (i st : Nat) (hs : a ≠ Reg.DUC_STATUS q) :
    (s.setTcbState q i st).rd a = (s.setFld (Reg.DUC_TCB_W q i 0) 31 29 st).rd a := by
  unfold State.setTcbState
  dsimp only
  split
  · exact rd_setFld_ne _ hs _ _ _
  · split
    · exact rd_setFld_ne _ hs _ _ _
    · rfl

theorem tcbState_setTcbState (s : State) (q i : Nat) {st : Nat} (h : st < 8) : (s.setTcbState q i st).tcbState q i = st := by
  rw [State.tcbState, State.fld, rd_setTcbState _ _ _ (tcbW_ne_status q i 0)]
  exact (fld_setFld_same s _ st (by decide) (by decide)).trans (Nat.mod_eq_of_lt h)

/-- Making a thread READY changes its STATE and lists it. -/
theorem rd_makeReady (s : State) (q i a : Nat) : (s.makeReady q i).rd a = (s.setTcbState q i tREADY).rd a := by
  unfold State.makeReady
  rw [rd_dispatch, rd_setDuc]

theorem tcbState_makeReady (s : State) (q i : Nat) : (s.makeReady q i).tcbState q i = tREADY := by
  rw [State.tcbState, State.fld, rd_makeReady]
  exact tcbState_setTcbState s q i (by decide)

theorem rd_makeReady_ne (s : State) {q i a : Nat} (h0 : a ≠ Reg.DUC_TCB_W q i 0) (hs : a ≠ Reg.DUC_STATUS q) :
    (s.makeReady q i).rd a = s.rd a := by
  rw [rd_makeReady, rd_setTcbState _ _ _ hs, rd_setFld_ne _ h0]

/-! ### The end of a wait (R164) -/

/-- A thread that wakes is READY. -/
theorem tcbState_wake (s : State) (q i status value cause : Nat) : (s.wake q i status value cause).tcbState q i = tREADY :=
  tcbState_makeReady _ q i

/-- It finds WAKE_STATUS in word 12 of its control block. -/
theorem fld_wake_status (s : State) {q i : Nat} (status value cause : Nat) (hq : q < 8) (hi : i < 512) :
    (s.wake q i status value cause).fld (Reg.DUC_TCB_W q i 12) 7 0 = status % 256 := by
  unfold State.wake
  extract_lets unwaiting told valued duc unlisted traced
  have h : (traced.makeReady q i).rd (Reg.DUC_TCB_W q i 12) = told.rd (Reg.DUC_TCB_W q i 12) := calc
    _ = traced.rd _ := rd_makeReady_ne _ (tcbW_ne (by decide)) (tcbW_ne_status _ _ _)
    _ = unlisted.rd _ := rd_ducTrace _ _ _ _ _ _ _ (tcbW_lt hq hi (by decide)) (tcbW_ne_traceDrop _ _ _)
    _ = valued.rd _ := rd_setDuc _ _ _ _
    _ = told.rd _ := rd_wr_ne told (tcbW_ne (by decide)) _
  rw [State.fld, h]
  exact fld_setFld_same unwaiting _ status (by decide) (by decide)

/-- A wake leaves the registers that lie outside the control block, but for STATUS and the trace. -/
theorem rd_wake_ne (s : State) {q i a : Nat} (status value cause : Nat) (ht : ∀ w, a ≠ Reg.DUC_TCB_W q i w)
    (hs : a ≠ Reg.DUC_STATUS q) (ha : a < 0x6500000) (hd : a ≠ Reg.DUC_TRACE_DROP q) : (s.wake q i status value cause).rd a = s.rd a := by
  unfold State.wake
  extract_lets unwaiting told valued duc unlisted traced
  calc (traced.makeReady q i).rd a
    _ = traced.rd a := rd_makeReady_ne _ (ht 0) hs
    _ = unlisted.rd a := rd_ducTrace _ _ _ _ _ _ _ ha hd
    _ = valued.rd a := rd_setDuc _ _ _ _
    _ = told.rd a := rd_wr_ne told (ht 13) _
    _ = unwaiting.rd a := rd_setFld_ne _ (ht 12) _ _ _
    _ = s.rd a := rd_wr_ne s (ht 1) _

/-! ### Posts (R175) -/

/-- The state in which a post has woken its waiters. -/
def State.semWoken (s : State) (q i n : Nat) : State :=
  ((s.waitersOn q i [1]).take n).foldl (fun s t => s.wake q t 0 (s.fld (Reg.DUC_SEM_STATE q i) 15 0) 0) s

/-- COUNT with what the waiters have left of a post of n, before MAX bounds it. -/
def State.semPosted (s : State) (q i n : Nat) : Nat :=
  (s.semWoken q i n).fld (Reg.DUC_SEM_STATE q i) 15 0 + (n - ((s.waitersOn q i [1]).take n).length)

theorem fld_semMax_lt (s : State) (q i : Nat) : s.fld (Reg.DUC_SEM_MAX q i) 15 0 < 65536 := Nat.mod_lt _ (by decide)

/-- Overflow is reported where MAX bounds COUNT. -/
theorem semPost_overflow (s : State) (q i n : Nat) (routed : Bool) : (s.semPost q i n routed).2 =
    decide ((s.semWoken q i n).fld (Reg.DUC_SEM_MAX q i) 15 0 < s.semPosted q i n) := by
  unfold State.semPost
  extract_lets ws woken c mx counted journalled traced
  change _ = decide (mx < c)
  split
  next h => exact (decide_eq_true h).symm
  next h => exact (decide_eq_false h).symm

/-- After the wakes a post writes the semaphore's STATE, the trace and, on overflow, the event router. -/
theorem rd_semPost (s : State) {q a : Nat} (i n : Nat) (routed : Bool) (ha : a < 0x6500000) (hd : a ≠ Reg.DUC_TRACE_DROP q) :
    (s.semPost q i n routed).1.rd a = ((s.semWoken q i n).setFld (Reg.DUC_SEM_STATE q i) 15 0
      (min (s.semPosted q i n) ((s.semWoken q i n).fld (Reg.DUC_SEM_MAX q i) 15 0))).rd a := by
  unfold State.semPost
  extract_lets ws woken c mx counted journalled traced
  have htraced : traced.rd a = counted.rd a := (rd_ducTrace _ _ _ _ _ _ _ ha hd).trans (rd_jrnlSem _ _ _ _)
  split
  · exact (rd_raise _ _ ha).trans htraced
  · exact htraced

theorem semState_lt {q i : Nat} (hq : q < 8) (hi : i < 256) : Reg.DUC_SEM_STATE q i < 0x6500000 := by unfold Reg.DUC_SEM_STATE; omega

theorem semState_ne_traceDrop (q i : Nat) : Reg.DUC_SEM_STATE q i ≠ Reg.DUC_TRACE_DROP q := by
  unfold Reg.DUC_SEM_STATE Reg.DUC_TRACE_DROP; omega

/-- A post leaves COUNT at what it comes to, at most MAX. -/
theorem fld_semPost_count (s : State) {q i : Nat} (n : Nat) (routed : Bool) (hq : q < 8) (hi : i < 256) :
    (s.semPost q i n routed).1.fld (Reg.DUC_SEM_STATE q i) 15 0 =
      min (s.semPosted q i n) ((s.semWoken q i n).fld (Reg.DUC_SEM_MAX q i) 15 0) := by
  rw [State.fld, rd_semPost s i n routed (semState_lt hq hi) (semState_ne_traceDrop q i)]
  refine (fld_setFld_same _ _ _ (by decide) (by decide)).trans (Nat.mod_eq_of_lt ?_)
  exact lt_of_le_of_lt (min_le_right _ _) (fld_semMax_lt _ q i)

/-- After the wakes a post leaves the control blocks. -/
theorem rd_semPost_tcb (s : State) {q t w i : Nat} (n : Nat) (routed : Bool) (hq : q < 8) (hi : i < 256) (ht : t < 512)
    (hw : w < 16) : (s.semPost q i n routed).1.rd (Reg.DUC_TCB_W q t w) = (s.semWoken q i n).rd (Reg.DUC_TCB_W q t w) := by
  have hne : Reg.DUC_TCB_W q t w ≠ Reg.DUC_SEM_STATE q i := by unfold Reg.DUC_TCB_W Reg.DUC_SEM_STATE; omega
  rw [rd_semPost s i n routed (tcbW_lt hq ht hw) (tcbW_ne_traceDrop q t w), rd_setFld_ne _ hne]

/-- A wake leaves the semaphores of its Quire. -/
theorem rd_wake_sem (s : State) {q t i : Nat} (status value cause : Nat) (hq : q < 8) (hi : i < 256) :
    (s.wake q t status value cause).rd (Reg.DUC_SEM_STATE q i) = s.rd (Reg.DUC_SEM_STATE q i) ∧
      (s.wake q t status value cause).rd (Reg.DUC_SEM_MAX q i) = s.rd (Reg.DUC_SEM_MAX q i) := by
  refine ⟨rd_wake_ne s status value cause (fun w => ?_) ?_ (semState_lt hq hi) (semState_ne_traceDrop q i),
    rd_wake_ne s status value cause (fun w => ?_) ?_ ?_ ?_⟩
  · unfold Reg.DUC_SEM_STATE Reg.DUC_TCB_W; omega
  · unfold Reg.DUC_SEM_STATE Reg.DUC_STATUS; omega
  · unfold Reg.DUC_SEM_MAX Reg.DUC_TCB_W; omega
  · unfold Reg.DUC_SEM_MAX Reg.DUC_STATUS; omega
  · unfold Reg.DUC_SEM_MAX; omega
  · unfold Reg.DUC_SEM_MAX Reg.DUC_TRACE_DROP; omega

/-- With no waiter nothing is woken, and the whole post is left. -/
theorem semWoken_of_no_waiter {s : State} {q i : Nat} (n : Nat) (h : s.waitersOn q i [1] = []) :
    s.semWoken q i n = s ∧ s.semPosted q i n = s.fld (Reg.DUC_SEM_STATE q i) 15 0 + n := by
  have hw : s.semWoken q i n = s := by rw [State.semWoken, h, List.take_nil, List.foldl_nil]
  refine ⟨hw, ?_⟩
  rw [State.semPosted, hw, h, List.take_nil, List.length_nil, Nat.sub_zero]

/-- A post of 1 wakes the first waiter, which takes it. -/
theorem semWoken_of_waiter {s : State} {q i t : Nat} {r : List Nat} (h : s.waitersOn q i [1] = t :: r) :
    s.semWoken q i 1 = s.wake q t 0 (s.fld (Reg.DUC_SEM_STATE q i) 15 0) 0 ∧
      s.semPosted q i 1 = (s.semWoken q i 1).fld (Reg.DUC_SEM_STATE q i) 15 0 := by
  constructor
  · rw [State.semWoken, h]; rfl
  · rw [State.semPosted, h]; rfl

/-- Settles O16: with no waiter the post is the change of COUNT, and with a waiter it is the wake of the first, which leaves COUNT and
MAX as they were. -/
theorem semaphorePost : Obligations.SemaphorePost := by
  refine ⟨fun s q i n routed hq hi hw => ?_, fun s q i t r routed hq hi ht hw hle => ?_⟩
  · obtain ⟨hwoken, hposted⟩ := semWoken_of_no_waiter n hw
    rw [fld_semPost_count s n routed hq hi, semPost_overflow, hwoken, hposted]
    exact ⟨rfl, rfl⟩
  · obtain ⟨hwoken, hposted⟩ := semWoken_of_waiter hw
    obtain ⟨hstate, hmax⟩ := rd_wake_sem s (t := t) 0 (s.fld (Reg.DUC_SEM_STATE q i) 15 0) 0 hq hi
    have hcount : (s.semWoken q i 1).fld (Reg.DUC_SEM_STATE q i) 15 0 = s.fld (Reg.DUC_SEM_STATE q i) 15 0 := by
      rw [hwoken, State.fld, hstate, State.fld]
    have hbound : (s.semWoken q i 1).fld (Reg.DUC_SEM_MAX q i) 15 0 = s.fld (Reg.DUC_SEM_MAX q i) 15 0 := by
      rw [hwoken, State.fld, hmax, State.fld]
    refine ⟨?_, ?_, ?_, ?_⟩
    · rw [State.tcbState, State.fld, rd_semPost_tcb s 1 routed hq hi ht (by decide), hwoken]
      exact tcbState_wake s q t _ _ _
    · rw [State.fld, rd_semPost_tcb s 1 routed hq hi ht (by decide), hwoken]
      exact fld_wake_status s 0 _ 0 hq ht
    · rw [fld_semPost_count s 1 routed hq hi, hposted, hcount, hbound, min_eq_left hle]
    · rw [semPost_overflow, hposted, hcount, hbound, decide_eq_false (not_lt.2 hle)]

end Sys2Proof.Machine
end

section
/-! SUPPORT. The commands, services, accesses and events of the Ductus, where nothing turns them away (chapter 5). -/

namespace Sys2Proof.Machine
open Sys2Proof

theorem next_service {op : Nat} {nib : Fin 128} {a : BitVec 24} {b : W32} {act : Nat → Nat → Nat → State → State} {s : State}
    (h : (s.asks op nib a b).serves nib = true) : (.next (service op nib a b act s) : Out) =
      .next (act (nib.val / 16) (nib.val % 16) ((s.asks op nib a b).runOn (nib.val / 16) (nib.val % 16) - 1) (s.asks op nib a b)) :=
  congrArg Host.Outcome.next (service_served h)

/-- A read of RES_LO while no request is outstanding answers the register (R180). -/
theorem exec_resLoRead_open {who : Requester} {nib : Fin 128} {s : State}
    (hb : ¬ (s.ducSt (nib.val / 16)).busy.contains (nib.val % 16) = true)
    (ho : s.opens who (Reg.DUC_PORT_RES_LO (nib.val / 16) (nib.val % 16)) = true) :
    exec (.resLoRead who nib) s = .next (s.answer St.OK (s.rdN (Reg.DUC_PORT_RES_LO (nib.val / 16) (nib.val % 16)))) := by
  have hstall : ¬ (s.permits who (Reg.DUC_PORT_RES_LO (nib.val / 16) (nib.val % 16)) &&
      (s.ducSt (nib.val / 16)).busy.contains (nib.val % 16)) = true := fun h => hb (Bool.and_eq_true_iff.1 h).2
  exact (if_neg hstall).trans (next_access ho)

/-- Settles O36: an admitted command, a served request and an access to an open register have the effect of their row; an event whose
unit is in the state it presupposes takes that branch of its row. The Quire of TICK_CONFIG (log entry 7) and the Nibs that a thread may be
dispatched to once it has left its own (45) are the model's deductions; the BAD_PARAM cases of the commands (42), the order of waits that
expire together (44), the words of a FREE control block (46) and the change that a failed journal write leaves undone (47) are its
choice. -/
theorem ductusCommandsComplete : Obligations.DuctusCommandsComplete := by
  refine ⟨fun _ _ h hc => next_command h hc, fun _ _ h hc => next_commandNow h hc, fun _ _ h hc => next_command h hc,
    fun _ _ h hc => next_commandNow h hc, fun _ _ h hc => next_command h hc, fun _ _ h hc => next_commandNow h hc,
    fun _ _ h hc => next_commandNow h hc, fun _ _ h hc => next_command h hc, fun _ _ h hc => next_command h hc,
    fun _ _ h hc => next_command h hc, fun _ _ h hc => next_command h hc, fun _ _ h hc => next_command h hc,
    fun _ _ h hc => next_command h hc, fun _ _ h hc => next_commandNow h hc, fun _ _ h hc => next_commandNow h hc,
    fun _ _ h hc => next_commandNow h hc, fun _ _ _ _ h => next_service h, fun _ _ _ _ h => next_service h,
    fun _ _ _ _ h => next_service h, fun _ _ _ _ h => next_service h, fun _ _ _ _ h => next_service h,
    fun _ _ _ _ h => next_service h, fun _ _ _ _ h => next_service h, fun _ _ _ _ h => next_service h,
    fun _ _ _ _ h => next_service h, fun _ _ _ _ h => next_service h, fun _ _ _ _ h => next_service h,
    fun _ _ _ hb ho => exec_resLoRead_open hb ho, fun _ _ _ ho => next_access ho, fun _ _ _ _ hf => if_neg hf, ?tickExpiry,
    ?journalWriteFailure, ?journalWriteComplete, fun _ _ _ _ _ _ ho hh => next_accessHeld ho hh⟩
  case tickExpiry =>
    intro q z s hf i hi
    change execTickExpiry q z = _
    unfold execTickExpiry
    rw [if_neg hf, hi]
  case journalWriteFailure =>
    intro q z r rest k hq hk
    change execJournalWriteFailure q z = _
    unfold execJournalWriteFailure
    rw [hq]
    dsimp only
    rw [hk]
  case journalWriteComplete =>
    intro q s hf r rest hq
    change execJournalWriteComplete q s = _
    unfold execJournalWriteComplete
    rw [if_neg hf, hq]

end Sys2Proof.Machine
end

section
/-! SUPPORT. States and operands that meet the hypotheses of the statements of the Ductus, with what the statements say of them. -/

open Sys2Proof Sys2Proof.Machine

namespace Sys2Proof.Tests

/-- Semaphore 9 of Quire 2 with COUNT 3 and MAX 5. -/
def threeOfFive : State := (State.reset.wr (Reg.DUC_SEM_STATE 2 9) 0x80000003).wr (Reg.DUC_SEM_MAX 2 9) 5

/-- A post of 4 leaves it at 5 and overflows. -/
theorem test_post_overflows :
    (threeOfFive.semPost 2 9 4 false).1.fld (Reg.DUC_SEM_STATE 2 9) 15 0 = 5 ∧ (threeOfFive.semPost 2 9 4 false).2 = true :=
  semaphorePost.1 threeOfFive 2 9 4 false (by decide) (by decide) (by decide)

/-- Thread 7 of Quire 2 WAITING for the semaphore. -/
def sevenWaits : State :=
  ((threeOfFive.wr (Reg.DUC_TCB_W 2 7 0) 0x80000000).wr (Reg.DUC_TCB_W 2 7 1) 0x04000900).setDuc 2 { DucSt.init with waiting := [7] }

/-- A post of 1 makes it READY, and COUNT stays. -/
theorem test_post_wakes : (sevenWaits.semPost 2 9 1 false).1.tcbState 2 7 = tREADY ∧
    (sevenWaits.semPost 2 9 1 false).1.fld (Reg.DUC_SEM_STATE 2 9) 15 0 = 3 := by
  obtain ⟨hready, -, hcount, -⟩ :=
    semaphorePost.2 sevenWaits 2 9 7 [] false (by decide) (by decide) (by decide) (by decide) (by decide)
  exact ⟨hready, hcount⟩

/-- Tick 1 of Quire 2 enabled. -/
def tickEnabled : State := State.reset.wr (Reg.DUC_TICK_CFG 2 1) 0x80000001

/-- Three boundaries are counted. -/
theorem test_tick_counts : Answers (exec (.tick 2 1 3) tickEnabled) fun t => t.rdN (Reg.DUC_TICK_COUNT 2 1) = 3 := by
  obtain ⟨-, -, -, -, -, -, -, -, -, -, -, -, -, -, -, -, -, -, -, -, -, -, -, -, -, -, -, -, -, h, -⟩ := ductusCommandsComplete
  exact ⟨_, h 2 1 3 tickEnabled (by decide), by decide⟩

/-- DUC_TRACE of Quire 2 on CMD[16] enables every record type. -/
theorem test_duc_trace : Answers (exec (.ducTrace (dsc 255 0 [2, 0x80000FFF])) (oneOnRing 16)) fun t =>
    t.rd (Reg.DUC_TRACE_CFG 2) = 0x80000FFF := by
  obtain ⟨-, -, -, -, -, -, -, -, -, -, -, -, -, -, h, -⟩ := ductusCommandsComplete
  exact ⟨_, h (dsc 255 0 [2, 0x80000FFF]) (oneOnRing 16) (by decide) (by decide), by decide⟩

/-- Thread 7 runs on Nib 3 of Quire 2. -/
def sevenRuns : State := (State.reset.wr (Reg.DUC_TCB_W 2 7 0) 0x60000000).setRun 2 3 8

/-- It asks for a DELAY of 2^31 ticks, which is BAD_PARAM. -/
theorem test_delay_too_long : Answers (exec (.delay 35 0 0x80000000) sevenRuns) fun t =>
    t.rdN (Reg.DUC_PORT_RES_LO 2 3) = St.BAD_PARAM := by
  obtain ⟨-, -, -, -, -, -, -, -, -, -, -, -, -, -, -, -, -, -, h, -⟩ := ductusCommandsComplete
  exact ⟨_, h 35 0 0x80000000 sevenRuns (by decide), by decide⟩

/-- Thread 7 of Quire 2 in a DELAY whose EXPIRY is the present tick. -/
def delayOver : State :=
  ((State.reset.wr (Reg.DUC_TCB_W 2 7 0) 0x80000000).wr (Reg.DUC_TCB_W 2 7 1) 0x11000000).setDuc 2 { DucSt.init with waiting := [7] }

/-- It becomes READY. -/
theorem test_delay_expires : Answers (exec (.tickExpiry 2) delayOver) fun t => t.tcbState 2 7 = tREADY := by
  obtain ⟨-, -, -, -, -, -, -, -, -, -, -, -, -, -, -, -, -, -, -, -, -, -, -, -, -, -, -, -, -, -, h, -⟩ := ductusCommandsComplete
  exact ⟨_, h 2 delayOver (by decide) 7 (by decide), by decide⟩

/-- A request waits for its journal write in Quire 2. -/
def journalling (r : JReq) : State := threeOfFive.setDuc 2 { DucSt.init with jq := [r] }

/-- A post of 2 by an event; its write completes, and COUNT is 5. -/
theorem test_routed_post :
    Answers (exec (.journalWriteComplete 2)
      (journalling { op := 0x41, tid := 0, port := none, slot := none, a := 9, b := 2, c := 0 })) fun t =>
      t.fld (Reg.DUC_SEM_STATE 2 9) 15 0 = 5 := by
  obtain ⟨-, -, -, -, -, -, -, -, -, -, -, -, -, -, -, -, -, -, -, -, -, -, -, -, -, -, -, -, -, -, -, -, h, -⟩ :=
    ductusCommandsComplete
  exact ⟨_, h 2 (journalling _) (by decide) _ _ rfl,
    (fld_semPost_count (q := 2) (i := 9) _ 2 true (by decide) (by decide)).trans (by decide)⟩

/-- A SEM_POST of 2 in slot 2 of CMD[3]; its write fails, and the slot ends with DUC_QUIRE_FENCED. -/
theorem test_failed_journal_write :
    Answers (exec (.journalWriteFailure 2)
      (journalling { op := 0x129, tid := 0, port := none, slot := some { ring := 3, slot := 2 }, a := 9, b := 2, c := 0 })) fun t =>
      ∃ u, t = State.slotEnd u { ring := 3, slot := 2 } DUC_QUIRE_FENCED [] := by
  obtain ⟨-, -, -, -, -, -, -, -, -, -, -, -, -, -, -, -, -, -, -, -, -, -, -, -, -, -, -, -, -, -, -, h, -⟩ :=
    ductusCommandsComplete
  exact ⟨_, h 2 (journalling _) _ _ _ rfl rfl, _, rfl⟩

/-- Control core 0 makes a FREE control block DORMANT. -/
theorem test_tcb_write : Answers (exec (.tcbWrite (.core 0) 2 7 0 0x20000000) State.reset) fun t => t.tcbState 2 7 = tDORMANT := by
  obtain ⟨-, -, -, -, -, -, -, -, -, -, -, -, -, -, -, -, -, -, -, -, -, -, -, -, -, -, -, -, -, -, -, -, -, h⟩ :=
    ductusCommandsComplete
  exact ⟨_, h (.core 0) 2 7 0 0x20000000 State.reset (by decide) (by decide), by decide⟩

end Sys2Proof.Tests
end

section
/-! SUPPORT. What the operations of a Nib leave in its registers, in the other Nibs and in memory, up to the commit of a bundle and the
entry to the shadow bank (chapter 6). -/

namespace Sys2Proof.Machine
open Sys2Proof

/-! ### Updates that leave the Nibs, or memory -/

theorem nibSt_congr {s t : State} (h : t.nib = s.nib) (j : Nat) : t.nibSt j = s.nibSt j := congrArg (sget · j NibSt.init) h
theorem byte_congr {s t : State} (h : t.mem = s.mem) (a : Nat) : t.byte a = s.byte a := congrArg (sget · a 0) h

@[simp] theorem nibSt_wr (s : State) (a : Nat) (v : W32) (j : Nat) : (s.wr a v).nibSt j = s.nibSt j := nibSt_congr rfl j
@[simp] theorem nibSt_setFld (s : State) (a hi lo v j : Nat) : (s.setFld a hi lo v).nibSt j = s.nibSt j := nibSt_wr _ _ _ _
@[simp] theorem nibSt_wrN (s : State) (a n j : Nat) : (s.wrN a n).nibSt j = s.nibSt j := nibSt_wr _ _ _ _
@[simp] theorem nibSt_bump (s : State) (a n j : Nat) : (s.bump a n).nibSt j = s.nibSt j := nibSt_wrN _ _ _ _
@[simp] theorem nibSt_unpoison (s : State) (a n j : Nat) : (s.unpoison a n).nibSt j = s.nibSt j := nibSt_congr rfl j

@[simp] theorem nibSt_nibShow (s : State) (i j : Nat) : (s.nibShow i).nibSt j = s.nibSt j := by
  simp only [State.nibShow, nibSt_setFld]

@[simp] theorem nibSt_setBytes (s : State) (a : Nat) (bs : List Byte) (j : Nat) : (s.setBytes a bs).nibSt j = s.nibSt j := by
  induction bs generalizing s a with
  | nil => rfl
  | cons b r ih => exact (ih (s.setByte a b) (a + 1)).trans (nibSt_congr rfl j)

@[simp] theorem nibSt_store (s : State) (a n v j : Nat) : (s.store a n v).nibSt j = s.nibSt j := nibSt_setBytes _ _ _ _

theorem nibSt_setNib_ne (s : State) {i j : Nat} (h : j ≠ i) (x : NibSt) : (s.setNib i x).nibSt j = s.nibSt j :=
  sget_sput_ne s.nib h x NibSt.init NibSt.init

@[simp] theorem byte_setNib (s : State) (i : Nat) (x : NibSt) (a : Nat) : (s.setNib i x).byte a = s.byte a := byte_congr rfl a
@[simp] theorem byte_wrN (s : State) (a n b : Nat) : (s.wrN a n).byte b = s.byte b := byte_wr _ _ _ _
@[simp] theorem byte_bump (s : State) (a n b : Nat) : (s.bump a n).byte b = s.byte b := byte_wrN _ _ _ _
@[simp] theorem byte_unpoison (s : State) (a n b : Nat) : (s.unpoison a n).byte b = s.byte b := byte_congr rfl b

@[simp] theorem byte_nibShow (s : State) (i a : Nat) : (s.nibShow i).byte a = s.byte a :=
  (byte_setFld _ _ _ _ _ _).trans (byte_setFld _ _ _ _ _ _)

@[simp] theorem byte_nibTime (s : State) (i n f a : Nat) : (s.nibTime i n f).byte a = s.byte a := by
  simp only [State.nibTime, byte_wrN, byte_bump, byte_setNib]

@[simp] theorem byte_nibLand (s : State) (i t k v lat a : Nat) : (s.nibLand i t k v lat).byte a = s.byte a := byte_setNib _ _ _ _

/-! ### Numbers in memory -/

@[simp] theorem leBytes_length (n v : Nat) : (leBytes n v).length = n := by
  induction n generalizing v with
  | zero => rfl
  | succ n ih => rw [leBytes, List.length_cons, ih]

theorem leBytes_getElem (n v k : Nat) (h : k < (leBytes n v).length) : (leBytes n v)[k] = BitVec.ofNat 8 (v / 2 ^ (8 * k)) := by
  induction n generalizing v k with
  | zero => exact absurd h (Nat.not_lt_zero k)
  | succ n ih =>
    cases k with
    | zero => rw [Nat.mul_zero, Nat.pow_zero, Nat.div_one]; rfl
    | succ k =>
      have hpow : 256 * 2 ^ (8 * k) = 2 ^ (8 * (k + 1)) := by rw [Nat.mul_succ, Nat.add_comm, Nat.pow_add]
      rw [← hpow, ← Nat.div_div_eq_div_mul]
      exact ih (v / 256) k (by simpa using h)

/-- The bytes of a number below n bytes are those of its low n bytes. -/
theorem byteOf_mod (v : Nat) {n k : Nat} (h : k < n) :
    BitVec.ofNat 8 (v % 2 ^ (8 * n) / 2 ^ (8 * k)) = BitVec.ofNat 8 (v / 2 ^ (8 * k)) := by
  apply BitVec.eq_of_toNat_eq
  rw [BitVec.toNat_ofNat, BitVec.toNat_ofNat]
  have hsplit : 8 * n = 8 * k + (8 * (n - k)) := by omega
  have hdvd : 2 ^ 8 ∣ 2 ^ (8 * (n - k)) := Nat.pow_dvd_pow 2 (by omega)
  rw [hsplit, Nat.pow_add, Nat.mod_mul_right_div_self, Nat.mod_mod_of_dvd _ hdvd]

theorem byte_store_inside (s : State) (a v : Nat) {n k : Nat} (h : k < n) :
    (s.store a n v).byte (a + k) = BitVec.ofNat 8 (v / 2 ^ (8 * k)) := by
  have hk : k < (leBytes n v).length := by rwa [leBytes_length]
  rw [State.store, byte_setBytes_inside _ _ _ _ hk, leBytes_getElem]

theorem byte_store_outside (s : State) (v : Nat) {a n b : Nat} (h : b < a ∨ a + n ≤ b) : (s.store a n v).byte b = s.byte b :=
  byte_setBytes_outside _ _ _ (by rwa [leBytes_length])

/-! ### Results that land (R199, R200) -/

/-- A change of registers changes nothing else of a Nib. -/
theorem foldl_put_eq (l : List Nat) (f : Nat → Nat × Nat) (x : NibSt) : ∃ m,
    l.foldl (fun y k => y.put (f k).1 (f k).2) x = { x with reg := m } := by
  induction l generalizing x with
  | nil => exact ⟨x.reg, rfl⟩
  | cons k r ih =>
    obtain ⟨m, hm⟩ := ih (x.put (f k).1 (f k).2)
    exact ⟨m, hm⟩

/-- A value that lands writes registers alone. -/
theorem landOne_eq (x : NibSt) (k v : Nat) : ∃ m, x.landOne k v = { x with reg := m } := by
  unfold NibSt.landOne
  split
  · exact ⟨x.reg, rfl⟩
  · split
    · obtain ⟨m, hm⟩ := foldl_put_eq (List.range 64) (fun l => (1000 + 64 * (k - 105) + l, bitsOf v (40 * l + 39) (40 * l))) x
      dsimp only at hm ⊢
      rw [hm]
      exact ⟨_, rfl⟩
    · exact ⟨_, rfl⟩

theorem foldl_landOne_eq (l : List Land) (x : NibSt) : ∃ m, l.foldl (fun y l => y.landOne l.dst l.val) x = { x with reg := m } := by
  induction l generalizing x with
  | nil => exact ⟨x.reg, rfl⟩
  | cons a r ih =>
    obtain ⟨m, hm⟩ := landOne_eq x a.dst a.val
    rw [List.foldl_cons, hm]
    exact ih { x with reg := m }

/-- Results that land write registers and leave the list of those in flight. -/
theorem landUpTo_eq (x : NibSt) (t : Nat) : ∃ m, x.landUpTo t = { x with reg := m, land := x.land.filter fun l => t < l.due } :=
  foldl_landOne_eq _ { x with land := x.land.filter fun l => t < l.due }

theorem landUpTo_halt (x : NibSt) (t : Nat) : (x.landUpTo t).halt = x.halt := by
  obtain ⟨m, hm⟩ := landUpTo_eq x t
  rw [hm]

theorem landUpTo_stepping (x : NibSt) (t : Nat) : (x.landUpTo t).stepping = x.stepping := by
  obtain ⟨m, hm⟩ := landUpTo_eq x t
  rw [hm]

/-- A value for s0 is discarded (R196). -/
theorem landOne_s0 (x : NibSt) (v : Nat) : x.landOne 0 v = x := rfl

theorem sreg_zero (x : NibSt) : x.sreg 0 = 0 := rfl

/-! ### The state that a bundle of one instruction reads -/

theorem fetched_nibSt (s : State) (o : NibOp) (ins : NibIns) :
  (s.fetched o ins).nibSt o.nib = { s.nibSt o.nib with bundle := (s.nibSt o.nib).bundle ++ [ins] } := setNib_nibSt _ _ _

theorem atIssue_nibSt (s : State) (o : NibOp) (ins : NibIns) : (s.atIssue o ins).nibSt o.nib =
    NibSt.landUpTo { s.nibSt o.nib with bundle := (s.nibSt o.nib).bundle ++ [ins] } (s.issueAt o ins) := by
  rw [State.atIssue, setNib_nibSt, fetched_nibSt]

theorem atIssue_nibSt_ne (s : State) (o : NibOp) (ins : NibIns) {k : Nat} (h : k ≠ o.nib.val) :
    (s.atIssue o ins).nibSt k = s.nibSt k := (nibSt_setNib_ne _ h _).trans (nibSt_setNib_ne s h _)

@[simp] theorem byte_atIssue (s : State) (o : NibOp) (ins : NibIns) (a : Nat) : (s.atIssue o ins).byte a = s.byte a :=
  (byte_setNib _ _ _ _).trans (byte_setNib _ _ _ _)

@[simp] theorem atIssue_bundle (s : State) (o : NibOp) (ins : NibIns) :
    ((s.atIssue o ins).nibSt o.nib).bundle = (s.nibSt o.nib).bundle ++ [ins] := by rw [atIssue_nibSt, landUpTo_bundle]
@[simp] theorem atIssue_pc (s : State) (o : NibOp) (ins : NibIns) : ((s.atIssue o ins).nibSt o.nib).pc = (s.nibSt o.nib).pc := by
  rw [atIssue_nibSt, landUpTo_pc]
@[simp] theorem atIssue_sb (s : State) (o : NibOp) (ins : NibIns) : ((s.atIssue o ins).nibSt o.nib).sb = (s.nibSt o.nib).sb := by
  rw [atIssue_nibSt, landUpTo_sb]
@[simp] theorem atIssue_halt (s : State) (o : NibOp) (ins : NibIns) :
    ((s.atIssue o ins).nibSt o.nib).halt = (s.nibSt o.nib).halt := by rw [atIssue_nibSt, landUpTo_halt]
@[simp] theorem atIssue_stepping (s : State) (o : NibOp) (ins : NibIns) :
    ((s.atIssue o ins).nibSt o.nib).stepping = (s.nibSt o.nib).stepping := by rw [atIssue_nibSt, landUpTo_stepping]

/-- A bundle of one instruction does what that instruction does. -/
theorem nibActs_single {s : State} {o : NibOp} {ins : NibIns} (h : (s.nibSt o.nib).bundle = []) :
    (s.atIssue o ins).nibActs o.nib = [nibAct ins (s.seen o ins)] := by
  have hb : ((s.atIssue o ins).nibSt o.nib).bundle = [ins] := by rw [atIssue_bundle, h]; rfl
  unfold State.nibActs State.seen
  dsimp only
  rw [hb]
  rfl

/-! ### Time and bundle boundaries (R202, R227) -/

/-- Time changes CYCLE alone of its Nib. -/
theorem nibTime_nibSt (s : State) (i n f : Nat) :
    (s.nibTime i n f).nibSt i = { s.nibSt i with cyc := ((s.nibSt i).cyc + n + f) % 2 ^ 64 } := by
  simp only [State.nibTime, nibSt_wrN, nibSt_bump, setNib_nibSt]

theorem nibTime_nibSt_ne (s : State) {i j : Nat} (n f : Nat) (h : j ≠ i) : (s.nibTime i n f).nibSt j = s.nibSt j := by
  simp only [State.nibTime, nibSt_wrN, nibSt_bump, nibSt_setNib_ne s h]

/-- A boundary at which neither a step nor a halt takes effect shows the Nib. -/
theorem nibBoundary_goesOn {s : State} {i : Nat} (hh : (s.nibSt i).halt = false) (hs : (s.nibSt i).stepping = false) :
    s.nibBoundary i = s.nibShow i := by
  unfold State.nibBoundary
  dsimp only
  rw [hh, hs]
  rfl

/-! ### The commit of a bundle (R199, R202) -/

/-- What the effects of a bundle leave, with the next bundle behind it. -/
def State.effected (s : State) (i t : Nat) (acts : List NibAct) : Commit :=
  acts.foldl (fun m a => a.effs.foldl (applyEff i t a.lines) m)
    (Commit.mk s (add64 (s.nibSt i).pc (4 * (s.nibSt i).bundle.length)) 0 0 none)

/-- A Nib whose bundle has retired with effects m, in cycle t. -/
def NibSt.retired (y : NibSt) (m : Commit) (t bundles : Nat) : NibSt :=
  { y with pc := m.pc, icyc := t + 1 + m.empties, bundles := bundles, bundle := [], frozen := false, line := none }

/-- A commit that no exception follows, on a Nib not about to halt, is its effects, the next pc and the time that passed. -/
theorem nibCommit_goesOn {s : State} {i t : Nat} {acts : List NibAct} {m : Commit} (hm : s.effected i t acts = m)
    (ha : m.after = none) (hh : (m.s.nibSt i).halt = false) (hs : (m.s.nibSt i).stepping = false) :
    s.nibCommit i t acts = ((m.s.setNib i ((m.s.nibSt i).retired m t (((s.nibSt i).bundles + 1) % 2 ^ 64))).nibTime i
      (t + 1 + m.empties - (s.nibSt i).icyc) m.frozen).nibShow i := by
  unfold State.effected at hm
  unfold State.nibCommit
  dsimp only
  rw [hm, ha]
  dsimp only
  rw [nibBoundary_goesOn, ite_self]
  · rfl
  · rw [nibTime_nibSt, setNib_nibSt]; exact hh
  · rw [nibTime_nibSt, setNib_nibSt]; exact hs

/-- What such a commit leaves in the registers, the results in flight and the pc of its Nib, in the other Nibs and in memory. -/
structure CommitLeaves (m : Commit) (i : Nat) (t : State) : Prop where
  reg : (t.nibSt i).reg = (m.s.nibSt i).reg
  land : (t.nibSt i).land = (m.s.nibSt i).land
  pc : (t.nibSt i).pc = m.pc
  others : ∀ k, k ≠ i → t.nibSt k = m.s.nibSt k
  byte : ∀ a, t.byte a = m.s.byte a

theorem nibCommit_leaves {s : State} {i t : Nat} {acts : List NibAct} {m : Commit} (hm : s.effected i t acts = m)
    (ha : m.after = none) (hh : (m.s.nibSt i).halt = false) (hs : (m.s.nibSt i).stepping = false) :
    CommitLeaves m i (s.nibCommit i t acts) := by
  rw [nibCommit_goesOn hm ha hh hs]
  refine ⟨?reg, ?land, ?pc, fun k hk => ?others, fun a => ?byte⟩
  case reg => rw [nibSt_nibShow, nibTime_nibSt, setNib_nibSt]; rfl
  case land => rw [nibSt_nibShow, nibTime_nibSt, setNib_nibSt]; rfl
  case pc => rw [nibSt_nibShow, nibTime_nibSt, setNib_nibSt]; rfl
  case others => rw [nibSt_nibShow, nibTime_nibSt_ne _ _ _ hk, nibSt_setNib_ne _ hk]
  case byte => rw [byte_nibShow, byte_nibTime, byte_setNib]

/-- The command of an instruction that makes up a whole bundle commits it, and leaves what the instruction's effects leave. -/
theorem exec_commits_alone {c : Instr} {o : NibOp} {ins : NibIns} {s : State} {m : Commit} (hc : exec c s = .next (nibIssue o ins s))
    (hi : s.issues o ins = true) (hb : (s.nibSt o.nib).bundle = [])
    (hm : (s.atIssue o ins).effected o.nib (s.issueAt o ins) [nibAct ins (s.seen o ins)] = m) (ha : m.after = none)
    (hh : (m.s.nibSt o.nib).halt = false) (hs : (m.s.nibSt o.nib).stepping = false) : Answers (exec c s) (CommitLeaves m o.nib) := by
  rw [hc, nibIssue_issues hi, nibActs_single hb]
  exact ⟨_, rfl, nibCommit_leaves hm ha hh hs⟩

end Sys2Proof.Machine
end

section
/-! SUPPORT. What a scalar register instruction, a store and an exception leave (R198 to R200, R204, R209, R217 to R220). -/

namespace Sys2Proof.Machine
open Sys2Proof

/-! ### Scalar register instructions (R198 to R200) -/

theorem nibLand_nibSt (s : State) (i t k v lat : Nat) : (s.nibLand i t k v lat).nibSt i =
    { s.nibSt i with land := (s.nibSt i).land ++ [Land.mk (t + lat) k v (s.nibSt i).sb] } := setNib_nibSt _ _ _

theorem nibLand_nibSt_ne (s : State) {i j : Nat} (t k v lat : Nat) (h : j ≠ i) : (s.nibLand i t k v lat).nibSt j = s.nibSt j :=
  nibSt_setNib_ne s h _

/-- What O19 says of one instruction: behind the results in flight, one result for rd. -/
def LandsOne (c : Instr) (o : NibOp) (ins : NibIns) (rd ra rb : BitVec 5) (f : Nat → Nat → Nat) : Prop :=
  ∀ s : State, s.issues o ins = true → (s.nibSt o.nib).bundle = [] → (s.nibSt o.nib).halt = false →
    (s.nibSt o.nib).stepping = false →
    let x := (s.atIssue o ins).nibSt o.nib
    Answers (exec c s) fun t => (t.nibSt o.nib).land = x.land ++ [Land.mk (s.issueAt o ins + 1) (x.key rd)
        (f (x.sreg ra) (x.sreg rb) % 2 ^ 64) x.sb] ∧
      (t.nibSt o.nib).reg = x.reg ∧ (t.nibSt o.nib).pc = add64 (s.nibSt o.nib).pc 4 ∧
      (∀ k, k ≠ o.nib.val → t.nibSt k = s.nibSt k) ∧ ∀ a, t.byte a = s.byte a

/-- An instruction of three registers with latency 1 leaves its one result in flight. -/
theorem landsOne_of_sRRR {c : Instr} {o : NibOp} {ins : NibIns} {rd ra rb : BitVec 5} {f : Nat → Nat → Nat}
    (hc : ∀ s, exec c s = .next (nibIssue o ins s)) (ha : ∀ x, nibAct ins x = sRRR x 1 rd ra rb f) : LandsOne c o ins rd ra rb f := by
  intro s hi hb hh hs x
  have hm : (s.atIssue o ins).effected o.nib (s.issueAt o ins) [nibAct ins (s.seen o ins)] =
      Commit.mk ((s.atIssue o ins).nibLand o.nib (s.issueAt o ins) (x.key rd) (f (x.sreg ra) (x.sreg rb) % 2 ^ 64) 1)
        (add64 (s.nibSt o.nib).pc 4) 0 0 none := by
    rw [ha, State.effected, atIssue_bundle, atIssue_pc, hb]
    rfl
  obtain ⟨t, ht, hleft⟩ := exec_commits_alone (hc s) hi hb hm rfl (by rw [nibLand_nibSt, atIssue_halt, hh])
    (by rw [nibLand_nibSt, atIssue_stepping, hs])
  refine ⟨t, ht, ?land, ?reg, hleft.pc, fun k hk => ?others, fun a => ?byte⟩
  case land => rw [hleft.land, nibLand_nibSt]
  case reg => rw [hleft.reg, nibLand_nibSt]
  case others => rw [hleft.others k hk, nibLand_nibSt_ne _ _ _ _ _ hk, atIssue_nibSt_ne s o ins hk]
  case byte => rw [hleft.byte, byte_nibLand, byte_atIssue]

/-- Settles O19: each of the seven instructions is of the form of three registers, and the commit of its bundle puts that one result in
flight. -/
theorem registerResultsLand : Obligations.RegisterResultsLand := by
  refine ⟨fun x v => ⟨landOne_s0 x v, sreg_zero x⟩, fun o rd ra rb => ?_⟩
  refine ⟨?add, ?sub, ?and, ?or, ?xor, ?minu, ?maxu⟩
  case add => exact landsOne_of_sRRR (c := .add o rd ra rb) (ins := .add rd ra rb) (fun _ => rfl) fun _ => rfl
  case sub =>
    exact landsOne_of_sRRR (c := .sub o rd ra rb) (ins := .sub rd ra rb) (f := fun a b => a + 2 ^ 64 - b) (fun _ => rfl) fun _ => rfl
  case and => exact landsOne_of_sRRR (c := .and o rd ra rb) (ins := .and rd ra rb) (fun _ => rfl) fun _ => rfl
  case or => exact landsOne_of_sRRR (c := .or o rd ra rb) (ins := .or rd ra rb) (fun _ => rfl) fun _ => rfl
  case xor => exact landsOne_of_sRRR (c := .xor o rd ra rb) (ins := .xor rd ra rb) (fun _ => rfl) fun _ => rfl
  case minu => exact landsOne_of_sRRR (c := .minu o rd ra rb) (ins := .minu rd ra rb) (fun _ => rfl) fun _ => rfl
  case maxu => exact landsOne_of_sRRR (c := .maxu o rd ra rb) (ins := .maxu rd ra rb) (fun _ => rfl) fun _ => rfl

/-! ### Scalar stores (R198, R204, R209) -/

/-- An access that neither an exception nor a watchpoint stops has its own effects, and needs the lines of its path. -/
theorem nibAccess_passes {s : State} {i g n : Nat} {a : NibAct} {k : Acc}
    (h : (s.nibAccess i a g n k).effs.all (fun e => ! e.stops) = true) :
    s.nibAccess i a g n k = { a with lines := s.needLines i g n, reads := if k = .write then [] else [(g, n)] } := by
  unfold State.nibAccess at h ⊢
  split
  next hw => rw [hw] at h; exact absurd h (by simp [Eff.stops])
  next hw =>
    split
    next hf => rw [hw, hf] at h; exact absurd h (by simp [Eff.stops])
    next => rfl

/-- The direct path to the own Quire Inkwell needs no line of L1D. -/
theorem needLines_own {s : State} {i g : Nat} (n : Nat) (h : s.nibPath i g = .own) : s.needLines i g n = [] := by
  unfold State.needLines
  rw [h]

/-- The effects of a bundle that issues stop nothing. -/
theorem issues_effs {s : State} {o : NibOp} {ins : NibIns} (h : s.issues o ins = true) :
    (((s.atIssue o ins).nibActs o.nib).flatMap (·.effs)).all (fun e => ! e.stops) = true := by
  simp only [State.issues, State.clear, Bool.and_eq_true] at h
  obtain ⟨-, ⟨⟨⟨⟨⟨⟨-, heffs⟩, -⟩, -⟩, -⟩, -⟩, -⟩, -⟩ := h
  exact heffs

/-- The effect of a store on the direct path is the bytes in memory. -/
theorem applyEff_store_own {i t g n v a : Nat} {m : Commit} (hp : m.s.nibPath i g = .own) (ha : m.s.localOf g = some a) :
    applyEff i t [] m (.store g n v) = { m with s := (m.s.store a n v).unpoison a n } := by
  unfold applyEff
  dsimp only
  rw [hp, ha]
  rfl

/-- What O20 says of one instruction: the low bytes of rs in memory, and nothing else there. -/
def StoresLow (c : Instr) (o : NibOp) (ins : NibIns) (rs ra : BitVec 5) (imm : BitVec 12) (n : Nat) : Prop :=
  ∀ (s : State) (a : Nat), s.issues o ins = true → (s.nibSt o.nib).bundle = [] → (s.nibSt o.nib).halt = false →
    (s.nibSt o.nib).stepping = false →
    let x := (s.atIssue o ins).nibSt o.nib
    let g := unsigned 64 (x.sreg ra + simm imm)
    (s.atIssue o ins).nibPath o.nib g = .own → (s.atIssue o ins).localOf g = some a →
    Answers (exec c s) fun t => (∀ k < n, t.byte (a + k) = BitVec.ofNat 8 (x.sreg rs / 2 ^ (8 * k))) ∧
      (∀ b, (b < a ∨ a + n ≤ b) → t.byte b = s.byte b) ∧ (t.nibSt o.nib).land = x.land ∧ (t.nibSt o.nib).reg = x.reg

/-- A store instruction that its bundle commits on the direct path writes its bytes alone. -/
theorem storesLow_of_sStore {c : Instr} {o : NibOp} {ins : NibIns} {rs ra : BitVec 5} {imm : BitVec 12} {n : Nat}
    (hc : ∀ s, exec c s = .next (nibIssue o ins s)) (ha : ∀ x, nibAct ins x = sStore x rs ra imm n) :
    StoresLow c o ins rs ra imm n := by
  intro s a hi hb hh hs x g hpath hlocal
  have hact : nibAct ins (s.seen o ins) =
      { cls := 2, uses := [x.key rs, x.key ra], effs := [.store g n (x.sreg rs % 2 ^ (8 * n))] } := by
    have heffs := issues_effs hi
    rw [nibActs_single hb, List.flatMap_singleton, ha] at heffs
    rw [ha]
    refine (nibAccess_passes heffs).trans ?_
    change NibAct.mk _ _ _ ((s.atIssue o ins).needLines o.nib g n) _ _ _ = _
    rw [needLines_own n hpath]
    rfl
  have hm : (s.atIssue o ins).effected o.nib (s.issueAt o ins) [nibAct ins (s.seen o ins)] =
      Commit.mk (((s.atIssue o ins).store a n (x.sreg rs % 2 ^ (8 * n))).unpoison a n) (add64 (s.nibSt o.nib).pc 4) 0 0 none := by
    rw [hact, State.effected, atIssue_bundle, atIssue_pc, hb]
    exact applyEff_store_own (t := s.issueAt o ins) hpath hlocal
  obtain ⟨t, ht, hleft⟩ := exec_commits_alone (hc s) hi hb hm rfl (by rw [nibSt_unpoison, nibSt_store, atIssue_halt, hh])
    (by rw [nibSt_unpoison, nibSt_store, atIssue_stepping, hs])
  refine ⟨t, ht, fun k hk => ?inside, fun b hb => ?outside, ?land, ?reg⟩
  case inside => rw [hleft.byte, byte_unpoison, byte_store_inside _ _ _ hk, byteOf_mod _ hk]
  case outside => rw [hleft.byte, byte_unpoison, byte_store_outside _ _ hb, byte_atIssue]
  case land => rw [hleft.land, nibSt_unpoison, nibSt_store]
  case reg => rw [hleft.reg, nibSt_unpoison, nibSt_store]

/-- Settles O20: each of the four instructions is a scalar store, and the commit of its bundle is that one store on the direct path. -/
theorem storesWriteTheirBytes : Obligations.StoresWriteTheirBytes := by
  intro o rs ra imm
  refine ⟨?sb, ?sh, ?sw, ?sd⟩
  case sb => exact storesLow_of_sStore (c := .sb o rs ra imm) (ins := .sb rs ra imm) (fun _ => rfl) fun _ => rfl
  case sh => exact storesLow_of_sStore (c := .sh o rs ra imm) (ins := .sh rs ra imm) (fun _ => rfl) fun _ => rfl
  case sw => exact storesLow_of_sStore (c := .sw o rs ra imm) (ins := .sw rs ra imm) (fun _ => rfl) fun _ => rfl
  case sd => exact storesLow_of_sStore (c := .sd o rs ra imm) (ins := .sd rs ra imm) (fun _ => rfl) fun _ => rfl

/-! ### Entry to the shadow bank (R215, R216, R220) -/

theorem get_put_same (x : NibSt) (k v : Nat) : (x.put k v).get k = v := sget_sput_same x.reg k v 0
theorem get_put_ne (x : NibSt) {k k' : Nat} (h : k' ≠ k) (v : Nat) : (x.put k v).get k' = x.get k' := sget_sput_ne x.reg h v 0 0

/-- EPC, CAUSE, FADDR and the shadow STATUS as entry writes them. -/
def NibSt.saved (x : NibSt) (cause faddr epc : Nat) : NibSt :=
  (((x.put 4097 epc).put 4098 cause).put 4099 faddr).put 8192 (2 ^ 31)

/-- The Nib at its handler, before the three empty issue cycles count in CYCLE. -/
def NibSt.entered (x : NibSt) (cause faddr epc off : Nat) : NibSt :=
  { x.saved cause faddr epc with sb := true, pc := add64 ((x.saved cause faddr epc).get 4100) off, icyc := x.icyc + 3, bundle := [],
                                 frozen := false, line := none }

theorem saved_get_epc (x : NibSt) (cause faddr epc : Nat) : (x.saved cause faddr epc).get 4097 = epc := by
  rw [NibSt.saved, get_put_ne _ (by decide), get_put_ne _ (by decide), get_put_ne _ (by decide), get_put_same]
theorem saved_get_cause (x : NibSt) (cause faddr epc : Nat) : (x.saved cause faddr epc).get 4098 = cause := by
  rw [NibSt.saved, get_put_ne _ (by decide), get_put_ne _ (by decide), get_put_same]
theorem saved_get_faddr (x : NibSt) (cause faddr epc : Nat) : (x.saved cause faddr epc).get 4099 = faddr := by
  rw [NibSt.saved, get_put_ne _ (by decide), get_put_same]
theorem saved_get_status (x : NibSt) (cause faddr epc : Nat) : (x.saved cause faddr epc).get 8192 = 2 ^ 31 := get_put_same _ _ _

theorem saved_get_other (x : NibSt) (cause faddr epc : Nat) {k : Nat} (h1 : k ≠ 4097) (h2 : k ≠ 4098) (h3 : k ≠ 4099)
    (h4 : k ≠ 8192) : (x.saved cause faddr epc).get k = x.get k := by
  rw [NibSt.saved, get_put_ne _ h4, get_put_ne _ h3, get_put_ne _ h2, get_put_ne _ h1]

/-- Entry on a Nib not about to halt. -/
theorem nibEnter_goesOn {s : State} {i : Nat} (cause faddr epc off : Nat) (hh : (s.nibSt i).halt = false)
    (hs : (s.nibSt i).stepping = false) : s.nibEnter i cause faddr epc off =
      ((s.setNib i ((s.nibSt i).entered cause faddr epc off)).nibTime i 3 0).nibShow i :=
  nibBoundary_goesOn (by rw [nibTime_nibSt, setNib_nibSt]; exact hh) (by rw [nibTime_nibSt, setNib_nibSt]; exact hs)

/-- Settles O21: entry writes three registers and STATUS of the shadow bank (whose other bits are zero, R274) and the place of the Nib, and
nothing of another Nib or of memory. -/
theorem exceptionEntry : Obligations.ExceptionEntry := by
  intro s i cause faddr epc off hh hs x y
  have hent := nibEnter_goesOn cause faddr epc off hh hs
  have hy : y = { x.entered cause faddr epc off with cyc := (x.cyc + 3 + 0) % 2 ^ 64 } := by
    change (s.nibEnter i cause faddr epc off).nibSt i = _
    rw [hent, nibSt_nibShow, nibTime_nibSt, setNib_nibSt]
    rfl
  have hget : ∀ k, y.get k = (x.saved cause faddr epc).get k := fun k => by rw [hy]; rfl
  have hstatus : y.sys 0 = 2 ^ 31 := by
    rw [hy]
    exact saved_get_status x cause faddr epc
  refine ⟨(hget _).trans (saved_get_epc ..), (hget _).trans (saved_get_cause ..), (hget _).trans (saved_get_faddr ..),
    by rw [hy]; rfl, hstatus, ?kernel, ?pc, by rw [hy]; rfl, by rw [hy]; rfl,
    fun k h1 h2 h3 h4 => (hget k).trans (saved_get_other _ _ _ _ h1 h2 h3 h4), fun j hj => ?others, fun a => ?byte⟩
  case kernel =>
    rw [NibSt.kernel, hstatus]
    decide
  case pc =>
    have hvbase : (x.saved cause faddr epc).get 4100 = x.get 4100 :=
      saved_get_other _ _ _ _ (by decide) (by decide) (by decide) (by decide)
    rw [hy, ← hvbase]
    rfl
  case others => rw [hent, nibSt_nibShow, nibTime_nibSt_ne _ _ _ hj, nibSt_setNib_ne _ hj]
  case byte => rw [hent, byte_nibShow, byte_nibTime, byte_setNib]

/-! ### A bundle of one instruction that raises an exception (R217, R218, R220) -/

/-- An instruction with EOB = 1 on a Nib that runs, is powered and is not frozen has its bundle tried. -/
theorem nibIssue_tries {s : State} {o : NibOp} (ins : NibIns) (hrun : s.nibRun o.nib = 1) (hfrz : (s.nibSt o.nib).frozen = false)
    (hup : s.domUp (o.nib.val / 8) = true) (heob : o.eob = true) : nibIssue o ins s = (s.fetched o ins).nibTry o.nib true := by
  unfold nibIssue
  dsimp only
  rw [if_neg (by simp [hrun, hfrz, hup]), if_pos heob]
  rfl

/-- A bundle of one instruction that no breakpoint and no fetch fault meets, and whose one effect is an exception, takes it three issue
cycles later. Unlike `nibIssue_alone` this asks for the exception only of what the instruction sees, where the mode may decide it. -/
theorem nibTry_excepts {s : State} {o : NibOp} {ins : NibIns} {cause f : Nat} (hb : (s.nibSt o.nib).bundle = [])
    (hbp : (s.fetched o ins).bpHits o.nib = []) (hfetch : (s.fetched o ins).fetchFault o.nib 4 = none)
    (hf : (nibAct ins (s.seen o ins)).effs = [.fault cause f]) :
    (s.fetched o ins).nibTry o.nib true = (s.late o ins).nibExcept o.nib cause f (s.nibSt o.nib).pc := by
  have hbundle : ((s.fetched o ins).nibSt o.nib).bundle = [ins] := by rw [fetched_nibSt, hb]; rfl
  have hpc : ((s.fetched o ins).nibSt o.nib).pc = (s.nibSt o.nib).pc := by rw [fetched_nibSt]
  have hpick : (pickMatch ((s.fetched o ins).bpHits o.nib) fun b => (s.fetched o ins).bit (Reg.NIB_BP_CTL o.nib b) 30) = none := by
    rw [hbp]; rfl
  have hissue : (s.fetched o ins).setNib o.nib (((s.fetched o ins).nibSt o.nib).landUpTo
      (((s.fetched o ins).nibSt o.nib).issueCycle ((s.fetched o ins).nibActs o.nib))) = s.atIssue o ins := rfl
  unfold State.bpHits at hpick
  unfold State.nibTry
  dsimp only
  rw [hpick, hissue, hbundle, hpc, nibActs_single hb, badSlots_single, List.length_singleton, Nat.mul_one, hfetch]
  simp only [List.flatMap_singleton, hf, List.any_cons, List.any_nil, List.findSome?_cons, Bool.not_true, Bool.or_self,
    Bool.false_eq_true, if_false]
  exact congrArg (State.nibExcept · o.nib cause f (s.nibSt o.nib).pc) rfl

/-- The command of an instruction that alone makes up the bundle, and whose one effect there is an exception other than LAZY, enters the
shadow bank. -/
theorem exec_enters {c : Instr} {o : NibOp} {ins : NibIns} {s : State} {cause f : Nat} (hc : exec c s = .next (nibIssue o ins s))
    (h : s.alone o ins = true) (hsb : (s.nibSt o.nib).sb = false) (hcause : cause ≠ 0x19)
    (hf : (nibAct ins (s.seen o ins)).effs = [.fault cause f]) :
    exec c s = .next ((s.late o ins).nibEnter o.nib cause f (s.nibSt o.nib).pc 0) := by
  simp only [State.alone, Bool.and_eq_true, beq_iff_eq, Bool.not_eq_true', List.isEmpty_iff, Option.isNone_iff_eq_none] at h
  obtain ⟨⟨⟨⟨⟨⟨hrun, hfrz⟩, hup⟩, heob⟩, hb⟩, hbp⟩, hfetch⟩ := h
  have hsb' : ((s.late o ins).nibSt o.nib).sb = false := by
    rw [State.late, setNib_nibSt]
    exact (atIssue_sb s o ins).trans hsb
  rw [hc, nibIssue_tries ins hrun hfrz hup heob, nibTry_excepts hb hbp hfetch hf]
  unfold State.nibExcept
  dsimp only
  rw [hsb', if_neg hcause, if_neg Bool.false_ne_true]

/-- In thread mode a privileged instruction has the exception PRIVILEGED for its one effect. -/
theorem priv_effs {x : NibSt} (a : NibAct) (h : x.kernel = false) : (x.priv a).effs = [.fault cPRIVILEGED x.pc] := by
  rw [NibSt.priv, if_neg (by rw [h]; decide)]

theorem seen_x (s : State) (o : NibOp) (ins : NibIns) : (s.seen o ins).x = (s.atIssue o ins).nibSt o.nib := rfl

/-- Settles O22: RFE and WAIT are privileged, and the exception is taken three issue cycles after the issue (the model's deduction, log
entry 173). -/
theorem privilegedInThreadMode : Obligations.PrivilegedInThreadMode := by
  have enters : ∀ {c : Instr} {o : NibOp} {ins : NibIns} {a : NibAct} {s : State}, exec c s = .next (nibIssue o ins s) →
      nibAct ins (s.seen o ins) = (s.seen o ins).x.priv a → s.alone o ins = true → (s.nibSt o.nib).sb = false →
      ((s.atIssue o ins).nibSt o.nib).kernel = false →
      exec c s = .next ((s.late o ins).nibEnter o.nib 0x02 (s.nibSt o.nib).pc (s.nibSt o.nib).pc 0) := by
    intro c o ins a s hc ha h hsb hk
    refine exec_enters hc h hsb (by decide) ?_
    rw [ha, seen_x, priv_effs a hk, atIssue_pc]
    rfl
  exact fun o => ⟨fun s => enters rfl rfl, fun s => enters rfl rfl⟩

/-- Settles O55: each of the three has an exception for its one effect. FADDR of TRAP (log entry 171) and the three issue cycles before
the entry (173) are the model's deductions. -/
theorem exceptionInstructionsEnter : Obligations.ExceptionInstructionsEnter := by
  refine ⟨fun o imm s h hsb => congrArg Host.Outcome.next ?trap, fun o s h hsb => congrArg Host.Outcome.next ?bkpt,
    fun o s h hsb => congrArg Host.Outcome.next ?illegal⟩
  case trap => exact nibIssue_enters h hsb (by decide) fun _ _ => rfl
  case bkpt => exact nibIssue_enters h hsb (by decide) fun x hpc => by rw [← hpc]; rfl
  case illegal => exact nibIssue_enters h hsb (by decide) fun x hpc => by rw [← hpc]; rfl

end Sys2Proof.Machine
end

section
/-! SUPPORT. The instructions of a Nib as commands, its controls and the events of Nibs and Ferrules, where nothing turns them away
(chapters 6 to 8). -/

namespace Sys2Proof.Machine
open Sys2Proof

/-! ### Instructions (R198) -/

/-- A command that issues an instruction commits the bundle it ends, with the effects of that instruction. -/
theorem commits_of_issue {c : Instr} {o : NibOp} {ins : NibIns} (hc : ∀ s, exec c s = .next (nibIssue o ins s)) :
    Commits c o ins (nibAct ins) := commits_of hc fun _ => rfl

/-- Settles O50: each command is the issue of its instruction, and each clause writes out the effects of that instruction. -/
theorem scalarInstructionsCommit : Obligations.ScalarInstructionsCommit := by
  refine ⟨?add, ?sub, ?and, ?or, ?xor, ?sll, ?srl, ?sra, ?slt, ?sltu, ?min, ?max, ?minu, ?maxu, ?clz, ?popc, ?addw, ?subw, ?addsw,
    ?subsw, ?addi, ?andi, ?ori, ?xori, ?slli, ?srli, ?srai, ?slti, ?lui, ?addpc, ?mul, ?mulh, ?mulhu, ?mulw, ?extu, ?exts, ?ins, ?sel,
    ?beq, ?bne, ?blt, ?bge, ?bltu, ?bgeu, ?jal, ?jalr, ?mfsr, ?mtsr, ?mftb, ?mttb, ?rfe, ?wait, ?dclean, ?dinv, ?dflush, ?dpref,
    ?icinv, ?icinvAll, ?dflushAll⟩
  all_goals
    intros
    exact commits_of_issue fun _ => rfl

/-- Settles O51: as for O50. That the atomics of a word sign-extend the old value is the model's deduction (log entry 171). -/
theorem scalarMemoryInstructionsCommit : Obligations.ScalarMemoryInstructionsCommit := by
  refine ⟨?lb, ?lh, ?lw, ?ld, ?lbu, ?lhu, ?lwu, ?sb, ?sh, ?sw, ?sd, ?ldc, ?stc, ?amoaddW, ?amoaddD, ?amoswapW, ?amoswapD, ?amocasW,
    ?amocasD, ?amoandD, ?amoorD⟩
  all_goals
    intros
    exact commits_of_issue fun _ => rfl

/-! ### Controls and events (R200, R201, R219, R224, R226 to R229, R296) -/

/-- What the sources of a Ferrule command raise: the first that raises anything (R308). -/
def State.ferSources (s : State) (j : FerJob) : Nat × Nat :=
  match s.ferSrcFault j.a, (if j.dest2 then none else j.b) with
  | (0, _), some b => s.ferSrcFault b
  | r, _ => r

/-- The end of a Ferrule command whose operands are sound (R296, R298): its results, its tag and the counters. -/
def State.ferDone (s : State) (f : Fin 16) (stall : W32) (j : FerJob) (tag : Nat) : State :=
  let d := j.dims.getD (1, 1, 1)
  let r := s.ferCompute f j d.1 d.2.1 d.2.2
  let t := match r.2.2.1 with
    | some v => r.1.ferQueue f v
    | none => r.1
  let t := ((t.ferPop f).ferTagEnd f tag r.2.1).bump (Reg.FER_CMDS f) 1
  let t := t.bump (Reg.FER_BUSY f) (j.cycles d.1 d.2.1 d.2.2 r.2.2.2 + stall.toNat)
  t.bump (Reg.FER_INK_STALL f) stall.toNat

/-- The oldest command of a Ferrule fails its checks, fails on its sources, or is done; then what waited for it goes on (R296, R308). -/
theorem execFerruleCommandComplete_cons {f : Fin 16} {s : State} {c : FerCmd} {rest : List FerCmd} (stall : W32)
    (hq : (s.ferSt f).cmds = c :: rest) : execFerruleCommandComplete f stall s =
      .next ((List.range 16).foldl (fun s n => s.nibRetry (16 * (f.val / 2) + n))
        ((if (s.ferCheckJob (f.val / 2) (s.ferJob c)).1 ≠ 0 then
            s.ferFail f (s.ferJob c) (s.ferCheckJob (f.val / 2) (s.ferJob c)).1 (s.ferCheckJob (f.val / 2) (s.ferJob c)).2
          else if (s.ferSources (s.ferJob c)).1 ≠ 0 then
            s.ferFail f (s.ferJob c) (s.ferSources (s.ferJob c)).1 (s.ferSources (s.ferJob c)).2
          else s.ferDone f stall (s.ferJob c) c.tag).ferOrphan f)) := by
  unfold execFerruleCommandComplete
  rw [hq]
  rfl

/-- Sources that raise nothing. -/
theorem ferSources_sound {s : State} {j : FerJob} (ha : (s.ferSrcFault j.a).1 = 0)
    (hb : ∀ b, (if j.dest2 then none else j.b) = some b → (s.ferSrcFault b).1 = 0) : (s.ferSources j).1 = 0 := by
  unfold State.ferSources
  split
  next hsome => exact hb _ hsome
  next => exact ha

/-- Settles O37: an access to an open register has the effect of its row, and an event whose unit is in the state it presupposes takes
that branch of its row. That interrupts are taken at INTERRUPT_ENTRY alone, and how CYCLE advances, are the model's deductions (log
entry 173). -/
theorem nibControlCompletes : Obligations.NibControlCompletes := by
  refine ⟨?waitWake, ?landing, ?fill, ?interrupt, fun _ _ hfrz => if_neg hfrz, fun _ _ _ ho => next_access ho,
    fun _ _ _ ho hh => next_accessHeld ho hh, fun _ _ _ ho hh => next_accessHeld ho hh, fun _ _ _ ho hh => next_accessHeld ho hh,
    fun _ _ _ ho hh => next_accessHeld ho hh, fun _ _ _ ho => next_access ho, fun _ _ _ _ ho hh => next_accessHeld ho hh,
    fun _ _ _ ho => next_access ho, fun _ _ _ ho => next_access ho, ?ferrule⟩
  case waitWake =>
    intro nib s hrun hline
    exact congrArg Host.Outcome.next (if_pos (Bool.and_eq_true_iff.2 ⟨decide_eq_true hrun, decide_eq_true hline⟩))
  case landing =>
    intro nib s i x l r hland hfrz t
    change execDeferredResultLanding nib s = _
    unfold execDeferredResultLanding
    dsimp only
    rw [hland]
    exact if_neg hfrz
  case fill =>
    intro nib way s i x w hline l hup
    change execCacheLineFill nib way s = _
    unfold execCacheLineFill
    dsimp only
    rw [hline]
    exact if_neg hup
  case interrupt =>
    intro nib s i x hrun l hdue
    change execInterruptEntry nib s = _
    unfold execInterruptEntry
    dsimp only
    rw [if_neg hrun, hdue]
  case ferrule =>
    intro f stall s c rest hq q j hchk ha hb
    refine (execFerruleCommandComplete_cons stall hq).trans ?_
    rw [if_neg (not_not.2 hchk), if_neg (not_not.2 (ferSources_sound ha hb)), State.ferDone]
    dsimp only
    generalize s.ferCompute f (s.ferJob c) _ _ _ = r
    cases r.2.2.1 <;> rfl

end Sys2Proof.Machine
end

section
/-! SUPPORT. States and operands that meet the hypotheses of the statements of the Nibs, with what the statements say of them. -/

open Sys2Proof Sys2Proof.Machine

namespace Sys2Proof.Tests

/-- 64 KiB at the start of Inkwell of Quire 0 for realm 3. -/
def inkwellOf3 : VRec :=
  { typ := 0x13, realm := 3, rflags := 0, bytes := List.replicate 16 0 ++ leBytes 8 0x10000000 ++ leBytes 8 0x10000 }

/-- Nib 0 with given registers, RUN 1 (running) or 2 (waiting), for realm 3, at an address whose line its L1I holds. -/
def nib0 (run : W32) (reg : List (Nat × Nat)) : State :=
  { State.reset.wr (Reg.NIB_STATUS 0) (0x20000000 * run) with
    nib := [(0, { NibSt.init with reg := reg, pc := 0x10000000, l1i := [0x400000] })], spareTag := [(0, 3)],
    vlm := { VlmState.reset with live := [inkwellOf3] } }

/-- The last instruction of a bundle of Nib 0. -/
def onNib0 : NibOp := { nib := 0, eob := true }

/-- Nib 0 runs in kernel mode with s1 an address of its Inkwell and s2 a value. -/
def inKernel : State := nib0 1 [(1, 0x10000100), (2, 0x1122334455667788), (4096, 2 ^ 31)]

/-- Nib 0 runs in thread mode. -/
def inThread : State := nib0 1 []

/-- ADD of s1 and s2 into s3. -/
theorem test_add_in_flight : Answers (exec (.add onNib0 3 1 2) inKernel) fun t =>
    (t.nibSt 0).land = [Land.mk 1 3 0x1122334465667888 false] ∧ (t.nibSt 0).pc = 0x10000004 := by
  obtain ⟨h, -⟩ := registerResultsLand.2 onNib0 3 1 2
  obtain ⟨t, ht, hland, -, hpc, -⟩ := h inKernel (by decide) rfl rfl rfl
  exact ⟨t, ht, hland, hpc⟩

/-- SW of s2 at s1 + 4: the low word, little-endian. -/
theorem test_sw_bytes : Answers (exec (.sw onNib0 2 1 4) inKernel) fun t =>
    t.byte 0x10000104 = 0x88 ∧ t.byte 0x10000107 = 0x55 ∧ t.byte 0x10000108 = 0 := by
  obtain ⟨-, -, h, -⟩ := storesWriteTheirBytes onNib0 2 1 4
  obtain ⟨t, ht, hin, hout, -⟩ := h inKernel 0x10000104 (by decide) rfl rfl rfl (by decide) (by decide)
  exact ⟨t, ht, (hin 0 (by decide)).trans (by decide), (hin 3 (by decide)).trans (by decide), hout 0x10000108 (by decide)⟩

/-- Entry for an illegal encoding, with VBASE at 0x10000800. -/
theorem test_entry_at_vbase :
    (((nib0 1 [(4100, 0x10000800)]).nibEnter 0 0x01 0x10000000 0x10000000 0).nibSt 0).pc = 0x10000800 := by
  obtain ⟨-, -, -, -, -, -, hpc, -⟩ := exceptionEntry (nib0 1 [(4100, 0x10000800)]) 0 0x01 0x10000000 0x10000000 0 rfl rfl
  exact hpc.trans (by decide)

/-- WAIT in thread mode: CAUSE is PRIVILEGED. -/
theorem test_wait_is_privileged : Answers (exec (.wait onNib0) inThread) fun t => (t.nibSt 0).get 4098 = 0x02 := by
  have h := (privilegedInThreadMode onNib0).2 inThread (by decide) rfl (by decide)
  obtain ⟨-, hcause, -⟩ := exceptionEntry (inThread.late onNib0 .wait) 0 0x02 0x10000000 0x10000000 0 (by decide) (by decide)
  exact ⟨_, h, hcause⟩

/-- TRAP 5: FADDR is 5. -/
theorem test_trap_faddr : Answers (exec (.trap onNib0 5) inThread) fun t => (t.nibSt 0).get 4099 = 5 := by
  have h := exceptionInstructionsEnter.1 onNib0 5 inThread (by decide) rfl
  obtain ⟨-, -, hfaddr, -⟩ := exceptionEntry (inThread.late onNib0 (.trap 5)) 0 cTRAP 5 0x10000000 0 (by decide) (by decide)
  exact ⟨_, h, hfaddr⟩

/-- BEQ of s0 and s0 is taken: the next bundle is two instructions on. -/
theorem test_beq_taken : Answers (exec (.beq onNib0 0 0 2) inKernel) fun t => (t.nibSt 0).pc = 0x10000008 := by
  obtain ⟨-, -, -, -, -, -, -, -, -, -, -, -, -, -, -, -, -, -, -, -, -, -, -, -, -, -, -, -, -, -, -, -, -, -, -, -, -, -, h, -⟩ :=
    scalarInstructionsCommit
  exact ⟨_, h onNib0 0 0 2 inKernel (by decide), by decide⟩

/-- AMOADD.D of s2 to the word at s1, which is zero. -/
theorem test_amoadd : Answers (exec (.amoaddD onNib0 3 1 2) inKernel) fun t => t.load 0x10000100 8 = 0x1122334455667788 := by
  obtain ⟨-, -, -, -, -, -, -, -, -, -, -, -, -, -, h, -⟩ := scalarMemoryInstructionsCommit
  exact ⟨_, h onNib0 3 1 2 inKernel (by decide), by decide⟩

/-- Nib 0 waits with TIMER due and unmasked. -/
theorem test_wait_ends : Answers (exec (.nibWaitWake 0) (nib0 2 [(4105, 2)])) fun t => t.nibRun 0 = 1 :=
  ⟨_, nibControlCompletes.1 0 (nib0 2 [(4105, 2)]) (by decide) (by decide), by decide⟩

/-- Nib 0 runs with interrupts enabled and TIMER due and unmasked. -/
def timerDue : State := nib0 1 [(4096, 2 ^ 29), (4105, 2)]

/-- The handler is 256 bytes past VBASE. -/
theorem test_timer_interrupt : Answers (exec (.interruptEntry 0) timerDue) fun t =>
    (t.nibSt 0).get 4098 = 2 ^ 31 + 1 ∧ (t.nibSt 0).pc = 256 := by
  obtain ⟨-, -, -, h, -⟩ := nibControlCompletes
  obtain ⟨-, hcause, -, -, -, -, hpc, -⟩ :=
    exceptionEntry (timerDue.free1 (2 ^ 64)).2 0 (2 ^ 31 + 1) (timerDue.free1 (2 ^ 64)).1 0x10000000 256 rfl rfl
  exact ⟨_, h 0 timerDue (by decide) 1 (by decide), hcause, hpc.trans (by decide)⟩

/-- The bytes that are not zero of the descriptor of a matrix of one element, at an address: base, type and size of the element. -/
def oneElement (a base mtype size : Nat) : List Host.Cell :=
  [(a, BitVec.ofNat 8 base), (a + 1, BitVec.ofNat 8 (base / 256)), (a + 3, 0x10), (a + 8, 1), (a + 0xA, 1), (a + 0xC, BitVec.ofNat 8 mtype),
    (a + 0x10, BitVec.ofNat 8 size), (a + 0x14, 1)]

/-- FMUL of two matrices of one element, 3 and 5, in 16 bits. -/
def fmul : FerCmd :=
  { major := 0x3D, func := 0, md := 0, tag := 2, d := 0x10000140, a := 0x10000100, b := 0x10000120, noB := false, cfg := [1], realm := 3,
    regions := [] }

/-- Ferrule 0 computes it. -/
def multiplying : State :=
  { inThread with
    fer := [(0, { FerSt.init with cmds := [fmul] })],
    mem := oneElement 0x10000100 0x10000200 1 2 ++ oneElement 0x10000120 0x10000210 1 2 ++ oneElement 0x10000140 0x10000220 5 4 ++
      [(0x10000200, 3), (0x10000210, 5)] }

/-- Its product is in memory. -/
theorem test_fmul_done : Answers (exec (.ferruleCommandComplete 0 0) multiplying) fun t => t.load 0x10000220 4 = 15 := by
  obtain ⟨-, -, -, -, -, -, -, -, -, -, -, -, -, -, h⟩ := nibControlCompletes
  exact ⟨_, h 0 0 multiplying fmul [] rfl (by decide) (by decide) (by decide), by decide +kernel⟩

end Sys2Proof.Tests
end

section
/-! SUPPORT. The vector and Ferrule instructions of a Nib, where nothing turns them away (chapters 7 and 8). -/

namespace Sys2Proof.Machine
open Sys2Proof

/-- Settles O52: as for O50. The width of immediates, shift amounts taken element by element, VAMOV's overflow and the groups of VAEXT
are the model's deductions (log entry 171). -/
theorem vectorArithmeticCommits : Obligations.VectorArithmeticCommits := by
  refine ⟨?vspan, ?vctl, ?vcapi, ?vadd, ?vsub, ?vand, ?vor, ?vxor, ?vmin, ?vmax, ?vminu, ?vmaxu, ?vsll, ?vsrl, ?vsra, ?vmul, ?vmulh,
    ?vmulhu, ?vmerge, ?vmv, ?vsadd, ?vssub, ?vsaddu, ?vssubu, ?vavg, ?vmulq, ?vssll, ?vsrar, ?vsabs, ?vsneg, ?vcmul, ?vcmulj, ?vconj,
    ?vwadd, ?vwsub, ?vwmul, ?vwmulu, ?vwcmul, ?vnsra, ?vnclip, ?vnclipu, ?vsext, ?vzext, ?vmac, ?vmsu, ?vmacz, ?vcmac, ?vcmacj, ?vcmacz,
    ?vcmsu, ?vaext, ?vamov, ?vaclr, ?vaclrf⟩
  all_goals
    intros
    exact commits_of_issue fun _ => rfl

/-- Settles O53: as for O50. The corners of the floating-point minimum and maximum are the model's deductions (log entry 170), what a
reduction with no active element leaves is its choice (172). -/
theorem vectorPredicatesCommit : Obligations.VectorPredicatesCommit := by
  refine ⟨?vcmpeq, ?vcmpne, ?vcmplt, ?vcmple, ?vcmpltu, ?vcmpleu, ?vcmpgt, ?vcmpge, ?pand, ?por, ?pxor, ?pandn, ?pffget, ?pwhile, ?pcnt,
    ?pfirst, ?pfflen, ?pffput, ?vbcast, ?vslidedn, ?vslideup, ?vmvxs, ?vmvsx, ?vperm, ?vswapiq, ?vrsum, ?vrmax, ?vrmin, ?vrmaxabs,
    ?vrmincls, ?vcls, ?vnorm, ?vbexp, ?vbscl, ?vbpack, ?vbunpk, ?vfadd, ?vfsub, ?vfmul, ?vfma, ?vfmin, ?vfmax, ?vfcmplt, ?vfcmpeq, ?vfabs,
    ?vfneg, ?vcvtif, ?vcvtfi, ?vcvtfb, ?vcvtbf⟩
  all_goals
    intros
    exact commits_of_issue fun _ => rfl

/-- Settles O54: as for O50. The corners of a Ferrule's ownership, and that a command acts at the issue of its bundle, are the model's
deductions (log entry 174). -/
theorem vectorMemoryAndFerruleCommit : Obligations.VectorMemoryAndFerruleCommit := by
  refine ⟨?vld, ?vlds, ?vldg, ?vst, ?vsts, ?vstg, ?vldr, ?vstr, ?vldrp, ?vstrp, ?vldra, ?vstra, ?flock, ?flocknb, ?funlock, ?fwait, ?fget,
    ?fsave, ?frestore, ?fmul, ?fherm, ?fchol, ?ftrsm, ?fqr, ?finv, ?feig, ?nibFence⟩
  all_goals
    intros
    exact commits_of_issue fun _ => rfl

end Sys2Proof.Machine
end

section
/-! SUPPORT. States and operands that meet the hypotheses of the statements of the vector and Ferrule instructions, with what the
statements say of them. -/

open Sys2Proof Sys2Proof.Machine

namespace Sys2Proof.Tests

/-- Nib 0 runs with s1 an address of its Inkwell, VL 2, and in v1 and v2 two elements of 16 bits each: 1 and 0x7FFF, 2 and 1. -/
def inVector : State := nib0 1 [(1, 0x10000100), (65, 0x7FFF0001), (66, 0x10002), (4096 + 0x81, 2)]

/-- VADD of v1 and v2 into v3 wraps in the upper element; its result lands two cycles after issue. -/
theorem test_vadd_wraps : Answers (exec (.vadd onNib0 3 1 (.v 2) 0) inVector) fun t =>
    (t.nibSt 0).land = [Land.mk 2 67 0x80000003 false] ∧ (t.nibSt 0).pc = 0x10000004 := by
  obtain ⟨-, -, -, h, -⟩ := vectorArithmeticCommits
  exact ⟨_, h onNib0 3 1 (.v 2) 0 inVector (by decide), by decide⟩

/-- VSADD of the same saturates it and sets the bit SAT of STATUS. -/
theorem test_vsadd_saturates : Answers (exec (.vsadd onNib0 3 1 (.v 2) 0) inVector) fun t =>
    (t.nibSt 0).land = [Land.mk 2 67 0x7FFF0003 false] ∧ bitOf ((t.nibSt 0).sys 0) 22 = true := by
  obtain ⟨-, -, -, -, -, -, -, -, -, -, -, -, -, -, -, -, -, -, -, -, h, -⟩ := vectorArithmeticCommits
  exact ⟨_, h onNib0 3 1 (.v 2) 0 inVector (by decide), by decide⟩

/-- VCMPLT of v2 and v1 into p1: the upper element alone is less. -/
theorem test_vcmplt : Answers (exec (.vcmplt onNib0 1 2 (.v 1) 0) inVector) fun t =>
    (t.nibSt 0).land = [Land.mk 2 97 2 false] := by
  obtain ⟨-, -, h, -⟩ := vectorPredicatesCommit
  exact ⟨_, h onNib0 1 2 (.v 1) 0 inVector (by decide), by decide⟩

/-- VST of v1 at s1: its two elements, little-endian. -/
theorem test_vst_bytes : Answers (exec (.vst onNib0 false 1 1 0) inVector) fun t =>
    t.load 0x10000100 4 = 0x7FFF0001 ∧ t.byte 0x10000104 = 0 := by
  obtain ⟨-, -, -, h, -⟩ := vectorMemoryAndFerruleCommit
  exact ⟨_, h onNib0 false 1 1 0 inVector (by decide), by decide⟩

/-- Thread 4 runs on Nib 0. -/
def inThread4 : State := inThread.setRun 0 0 5

/-- FLOCK of the free Ferrule 0: thread 4 owns it, and rd will read 0. -/
theorem test_flock_acquires : Answers (exec (.flock onNib0 ⟨0, 0, 0, 0, 3⟩) inThread4) fun t =>
    t.rdN (Reg.FER_LOCK 0) = 2 ^ 31 + 4 ∧ (t.nibSt 0).land = [Land.mk 4 3 0 false] := by
  obtain ⟨-, -, -, -, -, -, -, -, -, -, -, -, h, -⟩ := vectorMemoryAndFerruleCommit
  exact ⟨_, h onNib0 ⟨0, 0, 0, 0, 3⟩ inThread4 (by decide), by decide⟩

end Sys2Proof.Tests
end

section
/-! SUPPORT. The end of a thread (R164): what it does to the Ferrules of its Quire (R291, R305) and to the thread's own control block. -/

namespace Sys2Proof.Machine
open Sys2Proof

/-! ### Operations that leave the Ductus beside its registers -/

@[simp] theorem ducSt_setDuc_same (s : State) (q : Nat) (d : DucSt) : (s.setDuc q d).ducSt q = d := sget_sput_same _ _ _ _

theorem ducSt_of_duc {s t : State} (h : t.duc = s.duc) (q : Nat) : t.ducSt q = s.ducSt q := by rw [State.ducSt, h, State.ducSt]

@[simp] theorem duc_setBytes (s : State) (a : Nat) (bs : List Byte) : (s.setBytes a bs).duc = s.duc := by
  induction bs generalizing s a with
  | nil => rfl
  | cons b r ih => rw [State.setBytes, ih, setByte_duc]

theorem duc_blotter {s t : State} {n : Nat} {ws : List Nat} (h : s.blotter n ws = some t) : t.duc = s.duc := by
  unfold State.blotter at h
  dsimp only at h
  split at h
  · cases h
  · split at h
    · cases h
    · obtain rfl := Option.some.inj h
      exact (wr_duc _ _ _).trans (duc_setBytes _ _ _)

@[simp] theorem duc_ducTrace (s : State) (q typ realm nib tid w2 w3 : Nat) : (s.ducTrace q typ realm nib tid w2 w3).duc = s.duc := by
  unfold State.ducTrace
  split
  · rfl
  · dsimp only
    split
    next hb => exact duc_blotter hb
    next => rw [raise_duc, State.bumpSat, setFld_duc]

@[simp] theorem duc_setTcbState (s : State) (q i st : Nat) : (s.setTcbState q i st).duc = s.duc := by
  unfold State.setTcbState
  extract_lets old stated free
  have hstated : stated.duc = s.duc := setFld_duc _ _ _ _ _
  split
  · exact (setFld_duc _ _ _ _ _).trans hstated
  · split
    · exact (setFld_duc _ _ _ _ _).trans hstated
    · exact hstated

@[simp] theorem duc_dispatch (s : State) (q : Nat) : (s.dispatch q).duc = s.duc := by
  have hfold : ∀ (plan : List (Nat × Nat)) (s : State),
      (plan.foldl (fun s e => if e.2 ≠ s.runOn q e.1 then s.setIpend (16 * q + e.1) 0 true else s) s).duc = s.duc := by
    intro plan
    induction plan with
    | nil => exact fun _ => rfl
    | cons e r ih =>
      intro s
      rw [List.foldl_cons, ih]
      split <;> rfl
  unfold State.dispatch
  split
  · rfl
  · exact hfold _ _

/-! ### The list of threads that wait -/

theorem waiting_countRun (s : State) (q n i : Nat) : ((s.countRun q n i).ducSt q).waiting = (s.ducSt q).waiting := by
  unfold State.countRun
  extract_lets d c t
  rw [State.wrN, ducSt_of_duc (wr_duc _ _ _), ducSt_setDuc_same]

@[simp] theorem waiting_leaveNib (s : State) (q i : Nat) : ((s.leaveNib q i).ducSt q).waiting = (s.ducSt q).waiting := by
  unfold State.leaveNib
  split
  next n _ =>
    rw [State.setRun, ducSt_setDuc_same]
    exact waiting_countRun s q n i
  next => rfl

/-- A thread that leaves the lists waits no longer. -/
@[simp] theorem waiting_unlist (s : State) (q i : Nat) :
    ((s.unlist q i).ducSt q).waiting = (s.ducSt q).waiting.filter (· ≠ i) := by
  unfold State.unlist
  dsimp only
  split
  · rw [State.countWaiters, ducSt_of_duc (setFld_duc _ _ _ _ _), ducSt_setDuc_same]
  · rw [ducSt_setDuc_same]

@[simp] theorem waiting_jrnlThread (s : State) (q i : Nat) : ((s.jrnlThread q i).ducSt q).waiting = (s.ducSt q).waiting := by
  unfold State.jrnlThread
  dsimp only
  rw [ducSt_setDuc_same]

theorem waiting_makeReady (s : State) (q i : Nat) : ((s.makeReady q i).ducSt q).waiting = (s.ducSt q).waiting := by
  unfold State.makeReady
  dsimp only
  rw [ducSt_of_duc (duc_dispatch _ _), ducSt_setDuc_same, ducSt_of_duc (duc_setTcbState _ _ _ _)]

/-- A thread that wakes waits no longer. -/
theorem waiting_wake (s : State) (q i status value cause : Nat) :
    ((s.wake q i status value cause).ducSt q).waiting = (s.ducSt q).waiting.filter (· ≠ i) := by
  unfold State.wake
  extract_lets unwaiting told valued duc unlisted traced
  have hvalued : valued.duc = s.duc := (wr_duc _ _ _).trans ((setFld_duc _ _ _ _ _).trans (wr_duc _ _ _))
  rw [waiting_makeReady, ducSt_of_duc (duc_ducTrace _ _ _ _ _ _ _ _), ducSt_setDuc_same]
  exact congrArg (fun d : DucSt => d.waiting.filter (· ≠ i)) (ducSt_of_duc hvalued q)

theorem mem_insTail {prio : Nat → Nat} {p t x : Nat} {l : List Nat} : x ∈ insTail prio p t l ↔ x = t ∨ x ∈ l := by
  induction l with
  | nil => simp [insTail]
  | cons y r ih =>
    unfold insTail
    split
    · exact List.mem_cons
    · rw [List.mem_cons, ih, List.mem_cons]
      tauto

/-- The waiters on an object are among the threads that wait. -/
theorem waiting_of_mem_waitersOn {s : State} {q obj t : Nat} {kinds : List Nat} (h : t ∈ s.waitersOn q obj kinds) :
    t ∈ (s.ducSt q).waiting := by
  have hfold : ∀ (ws l : List Nat), t ∈ ws.foldl (fun l i => insTail (s.tcbPrio q) (s.tcbPrio q i) i l) l → t ∈ ws ∨ t ∈ l := by
    intro ws
    induction ws with
    | nil => exact fun l h => .inr h
    | cons w r ih =>
      intro l h
      rw [List.mem_cons]
      obtain hr | hins := ih _ h
      · exact .inl (.inr hr)
      · exact (mem_insTail.1 hins).imp .inl id
  exact List.mem_of_mem_filter ((hfold _ _ h).resolve_right List.not_mem_nil)

/-! ### The registers of a Ferrule and of a Ductus are different ones -/

theorem ferLock_lt {f : Nat} (hf : f < 16) : Reg.FER_LOCK f < 0x6500000 := by unfold Reg.FER_LOCK; omega

theorem ferLock_ne {f g : Nat} (h : f ≠ g) : Reg.FER_LOCK f ≠ Reg.FER_LOCK g := by unfold Reg.FER_LOCK; omega

theorem ferLock_ne_ferStatus (f g : Nat) : Reg.FER_LOCK f ≠ Reg.FER_STATUS g := by unfold Reg.FER_LOCK Reg.FER_STATUS; omega

theorem ferLock_ne_tcbW {i w : Nat} (f q : Nat) (hi : i < 512) (hw : w < 16) : Reg.FER_LOCK f ≠ Reg.DUC_TCB_W q i w := by
  unfold Reg.FER_LOCK Reg.DUC_TCB_W; omega

theorem ferLock_ne_status (f q : Nat) : Reg.FER_LOCK f ≠ Reg.DUC_STATUS q := by unfold Reg.FER_LOCK Reg.DUC_STATUS; omega

theorem ferLock_ne_traceDrop (f q : Nat) : Reg.FER_LOCK f ≠ Reg.DUC_TRACE_DROP q := by
  unfold Reg.FER_LOCK Reg.DUC_TRACE_DROP; omega

theorem ferLock_ne_flagOwner (f q g : Nat) : Reg.FER_LOCK f ≠ Reg.DUC_FLAG_OWNER q g := by
  unfold Reg.FER_LOCK Reg.DUC_FLAG_OWNER; omega

theorem tcbW_ne_ferStatus {i w : Nat} (q f : Nat) (hi : i < 512) (hw : w < 16) : Reg.DUC_TCB_W q i w ≠ Reg.FER_STATUS f := by
  unfold Reg.FER_STATUS Reg.DUC_TCB_W; omega

/-- Words of the control blocks of two threads are different registers. -/
theorem tcbW_ne_of_thread {i j w v : Nat} (q : Nat) (h : i ≠ j) (hw : w < 16) (hv : v < 16) :
    Reg.DUC_TCB_W q i w ≠ Reg.DUC_TCB_W q j v := by unfold Reg.DUC_TCB_W; omega

/-! ### Fields of LOCK (R303) -/

/-- A bit above the field set keeps its value. -/
theorem bit_setFld_above (s : State) (a v : Nat) {hi lo n : Nat} (h : lo ≤ hi) (hn : hi < 32) (ho : hi < n) :
    (s.setFld a hi lo v).bit a n = s.bit a n := by
  unfold State.bit State.setFld
  rw [rd_wr_same, wbit_eq, wfld_wsetFld_above _ _ h hn ho, wbit_eq]

/-- A bit below the field set keeps its value. -/
theorem bit_setFld_below (s : State) (a v : Nat) {hi lo n : Nat} (h : lo ≤ hi) (hn : hi < 32) (ho : n < lo) :
    (s.setFld a hi lo v).bit a n = s.bit a n := by
  unfold State.bit State.setFld
  rw [rd_wr_same, wbit_eq, wfld_wsetFld_below _ _ h hn ho (Nat.le_refl _), wbit_eq]

theorem bit_setFld_ne (s : State) {a a' : Nat} (h : a' ≠ a) (hi lo v n : Nat) : (s.setFld a hi lo v).bit a' n = s.bit a' n := by
  rw [State.bit, rd_setFld_ne s h, State.bit]

/-- A field of LOCK that lies wholly above or below CFGV is set without a change of CFGV of any Ferrule. -/
theorem cfgv_setFld (s : State) (f v : Nat) {hi lo : Nat} (h : lo ≤ hi) (hn : hi < 32) (ho : hi < 30 ∨ 30 < lo) (g : Nat) :
    (s.setFld (Reg.FER_LOCK f) hi lo v).bit (Reg.FER_LOCK g) 30 = s.bit (Reg.FER_LOCK g) 30 := by
  obtain rfl | hne := eq_or_ne g f
  · exact ho.elim (bit_setFld_above s _ v h hn) (bit_setFld_below s _ v h hn)
  · exact bit_setFld_ne s (ferLock_ne hne) _ _ _ _

/-! ### What the release of a lock leaves of the thread that ended and of CFGV (R290, R291) -/

/-- A wake leaves a register below the event router's that is no word of the thread's control block, not STATUS and not the trace's.
Unlike `rd_wake_ne` this asks for the sixteen words of that control block alone. -/
theorem rd_wake_of_ne_words (s : State) {q t a : Nat} (status value cause : Nat) (ht : ∀ w < 16, a ≠ Reg.DUC_TCB_W q t w)
    (hs : a ≠ Reg.DUC_STATUS q) (ha : a < 0x6500000) (hd : a ≠ Reg.DUC_TRACE_DROP q) :
    (s.wake q t status value cause).rd a = s.rd a := by
  unfold State.wake
  extract_lets unwaiting told valued duc unlisted traced
  calc (traced.makeReady q t).rd a
    _ = traced.rd a := rd_makeReady_ne _ (ht 0 (by decide)) hs
    _ = unlisted.rd a := rd_ducTrace _ _ _ _ _ _ _ ha hd
    _ = valued.rd a := rd_setDuc _ _ _ _
    _ = told.rd a := rd_wr_ne told (ht 13 (by decide)) _
    _ = unwaiting.rd a := rd_setFld_ne _ (ht 12 (by decide)) _ _ _
    _ = s.rd a := rd_wr_ne s (ht 1 (by decide)) _

/-- From s to t nothing changes that matters to the end of thread i of Quire q: neither its STATE nor CFGV of a Ferrule, and no thread
joins those that wait. -/
structure KeepsEnd (q i : Nat) (s t : State) : Prop where
  state : t.tcbState q i = s.tcbState q i
  waiting : ∀ j ∈ (t.ducSt q).waiting, j ∈ (s.ducSt q).waiting
  cfgv : ∀ f < 16, t.bit (Reg.FER_LOCK f) 30 = s.bit (Reg.FER_LOCK f) 30

theorem KeepsEnd.refl (q i : Nat) (s : State) : KeepsEnd q i s s := ⟨rfl, fun _ h => h, fun _ _ => rfl⟩

theorem KeepsEnd.trans {q i : Nat} {s t u : State} (h : KeepsEnd q i s t) (h' : KeepsEnd q i t u) : KeepsEnd q i s u :=
  ⟨h'.state.trans h.state, fun j hj => h.waiting j (h'.waiting j hj), fun f hf => (h'.cfgv f hf).trans (h.cfgv f hf)⟩

/-- A change that leaves the Ductus beside its registers, word 0 of the control block and CFGV is such a change. -/
theorem KeepsEnd.of_rd {q i : Nat} {s t : State} (hduc : t.duc = s.duc) (hrd : t.rd (Reg.DUC_TCB_W q i 0) = s.rd (Reg.DUC_TCB_W q i 0))
    (hcfgv : ∀ f, t.bit (Reg.FER_LOCK f) 30 = s.bit (Reg.FER_LOCK f) 30) : KeepsEnd q i s t where
  state := by rw [State.tcbState, State.fld, hrd, State.tcbState, State.fld]
  waiting := by rw [ducSt_of_duc hduc]; exact fun _ h => h
  cfgv f _ := hcfgv f

/-- The wake of another thread. -/
theorem keepsEnd_wake (s : State) {q i t : Nat} (status value cause : Nat) (hq : q < 8) (hi : i < 512) (ht : t < 512) (hne : t ≠ i) :
    KeepsEnd q i s (s.wake q t status value cause) where
  state := by
    rw [State.tcbState, State.fld, rd_wake_of_ne_words s _ _ _ (fun w hw => tcbW_ne_of_thread q hne.symm (by decide) hw)
      (tcbW_ne_status q i 0) (tcbW_lt hq hi (by decide)) (tcbW_ne_traceDrop q i 0), State.tcbState, State.fld]
  waiting j hj := by
    rw [waiting_wake] at hj
    exact List.mem_of_mem_filter hj
  cfgv f hf := by
    rw [State.bit, rd_wake_of_ne_words s _ _ _ (fun w hw => ferLock_ne_tcbW f q ht hw) (ferLock_ne_status f q) (ferLock_lt hf)
      (ferLock_ne_traceDrop f q), State.bit]

/-- A write of a field of LOCK that does not hold CFGV. -/
theorem keepsEnd_setLock (s : State) {i hi lo : Nat} (q f v : Nat) (h : lo ≤ hi) (hn : hi < 32) (ho : hi < 30 ∨ 30 < lo)
    (hthread : i < 512) : KeepsEnd q i s (s.setFld (Reg.FER_LOCK f) hi lo v) :=
  .of_rd (setFld_duc _ _ _ _ _) (rd_setFld_ne _ (ferLock_ne_tcbW f q hthread (by decide)).symm _ _ _) (cfgv_setFld s f v h hn ho)

/-- The release of a Ferrule's lock, where the threads that wait are others. -/
theorem keepsEnd_ferRelease (s : State) {q i f : Nat} (hq : q < 8) (hi : i < 512) (hf : f / 2 = q)
    (hw : ∀ t ∈ (s.ducSt q).waiting, t < 512 ∧ t ≠ i) : KeepsEnd q i s (s.ferRelease f) := by
  subst hf
  unfold State.ferRelease
  extract_lets idle emptied
  have hemptied : KeepsEnd (f / 2) i s emptied := .of_rd (setFld_duc _ _ _ _ _)
    (rd_setFld_ne _ (tcbW_ne_ferStatus _ f hi (by decide)) _ _ _) fun g => bit_setFld_ne _ (ferLock_ne_ferStatus g f) _ _ _ _
  have howner : ∀ (u : State) (t : Nat), KeepsEnd (f / 2) i u (u.setFld (Reg.FER_LOCK f) 8 0 t) := fun u t =>
    keepsEnd_setLock u _ f t (by decide) (by decide) (.inl (by decide)) hi
  have hheld : ∀ u : State, KeepsEnd (f / 2) i u (u.setFld (Reg.FER_LOCK f) 31 31 0) := fun u =>
    keepsEnd_setLock u _ f 0 (by decide) (by decide) (.inr (by decide)) hi
  split
  next t r hwaiters =>
    have hmem : t ∈ emptied.waitersOn (f / 2) (f % 2) [5] := by rw [hwaiters]; exact List.mem_cons_self
    obtain ⟨ht, hne⟩ := hw t (hemptied.waiting t (waiting_of_mem_waitersOn hmem))
    exact (hemptied.trans (howner _ t)).trans (keepsEnd_wake _ _ _ _ hq hi ht hne)
  next => exact (hemptied.trans (hheld _)).trans (howner _ 0)

theorem keepsEnd_ferOrphan (s : State) {q i f : Nat} (hq : q < 8) (hi : i < 512) (hf : f / 2 = q)
    (hw : ∀ t ∈ (s.ducSt q).waiting, t < 512 ∧ t ≠ i) : KeepsEnd q i s (s.ferOrphan f) := by
  unfold State.ferOrphan
  split
  · exact keepsEnd_ferRelease s hq hi hf hw
  · exact .refl q i s

theorem keepsEnd_dispatch (s : State) (q i q' : Nat) : KeepsEnd q i s (s.dispatch q') :=
  .of_rd (duc_dispatch _ _) (rd_dispatch _ _ _) fun f => by rw [State.bit, rd_dispatch, State.bit]

/-! ### Configurations that lose their owner (R305) -/

/-- A configuration owned by the thread that ends loses CFGV; other Ferrules keep theirs. -/
theorem cfgv_ferDisown (s : State) (f g i : Nat) : (s.ferDisown g i).bit (Reg.FER_LOCK f) 30 =
    (s.bit (Reg.FER_LOCK f) 30 && ! (f == g && s.fld (Reg.FER_LOCK f) 24 16 == i)) := by
  unfold State.ferDisown
  obtain rfl | hne := eq_or_ne f g
  · split
    next h =>
      obtain ⟨-, howner⟩ := Bool.and_eq_true_iff.1 h
      rw [State.bit, State.setFld, rd_wr_same, wbit_set0 _ (by decide), howner, beq_self_eq_true]
      exact (Bool.and_false _).symm
    next h =>
      rw [beq_self_eq_true, Bool.true_and]
      cases hbit : s.bit (Reg.FER_LOCK f) 30
      · rfl
      · rw [hbit, Bool.true_and] at h
        rw [Bool.eq_false_of_not_eq_true h]; rfl
  · rw [beq_false_of_ne hne, Bool.false_and, Bool.not_false, Bool.and_true]
    split
    · exact bit_setFld_ne s (ferLock_ne hne) _ _ _ _
    · rfl

/-- CFG_OWNER stays. -/
theorem fld_ferDisown_owner (s : State) (f g i : Nat) :
    (s.ferDisown g i).fld (Reg.FER_LOCK f) 24 16 = s.fld (Reg.FER_LOCK f) 24 16 := by
  unfold State.ferDisown
  split
  · obtain rfl | hne := eq_or_ne f g
    · rw [State.fld, State.setFld, rd_wr_same]
      exact wfld_wsetFld_below _ 0 (by decide) (by decide) (by decide) (by decide)
    · exact fld_setFld_ne s (ferLock_ne hne) _ _ _ _ _
  · rfl

@[simp] theorem duc_ferDisown (s : State) (f i : Nat) : (s.ferDisown f i).duc = s.duc := by
  unfold State.ferDisown
  split
  · exact setFld_duc _ _ _ _ _
  · rfl

theorem rd_ferDisown_ne (s : State) {f a : Nat} (i : Nat) (h : a ≠ Reg.FER_LOCK f) : (s.ferDisown f i).rd a = s.rd a := by
  unfold State.ferDisown
  split
  · exact rd_setFld_ne s h _ _ _
  · rfl

/-- After both Ferrules of a Quire have been examined, each configuration is valid whose owner is another thread. -/
theorem cfgv_ferDisown_pair (s : State) {f q : Nat} (i : Nat) (hf : f / 2 = q) :
    ((s.ferDisown (2 * q) i).ferDisown (2 * q + 1) i).bit (Reg.FER_LOCK f) 30 =
      (s.bit (Reg.FER_LOCK f) 30 && ! (s.fld (Reg.FER_LOCK f) 24 16 == i)) := by
  rw [cfgv_ferDisown, cfgv_ferDisown, fld_ferDisown_owner]
  obtain rfl | rfl : f = 2 * q ∨ f = 2 * q + 1 := by omega
  · have hne : 2 * q ≠ 2 * q + 1 := by omega
    rw [beq_self_eq_true, beq_false_of_ne hne, Bool.true_and, Bool.false_and, Bool.not_false, Bool.and_true]
  · have hne : 2 * q + 1 ≠ 2 * q := by omega
    rw [beq_self_eq_true, beq_false_of_ne hne, Bool.true_and, Bool.false_and, Bool.not_false, Bool.and_true]

/-! ### A thread becomes FREE (R164) -/

theorem rd_leaveNib_ne (s : State) {q i a : Nat} (h : a ≠ Reg.DUC_TCB_W q i 14) : (s.leaveNib q i).rd a = s.rd a := by
  unfold State.leaveNib
  split
  · exact rd_wr_ne _ h _
  · rfl

/-- Leaving the lists writes the count of waiters of a flag group alone. -/
theorem rd_unlist_ne (s : State) {q a : Nat} (i : Nat) (h : ∀ g, a ≠ Reg.DUC_FLAG_OWNER q g) : (s.unlist q i).rd a = s.rd a := by
  unfold State.unlist
  extract_lets g flags d unlisted
  split
  · exact rd_setFld_ne unlisted (h g) _ _ _
  · rfl

theorem rd_jrnlThread (s : State) (q i a : Nat) : (s.jrnlThread q i).rd a = s.rd a := by
  unfold State.jrnlThread
  dsimp only
  rw [rd_setDuc, rd_setBytes]

/-- The end of a thread is reached through a state in which it is FREE and waits for nothing, while LOCK of every Ferrule still reads as
before: from there the Ferrules of the Quire are disowned, and their locks released where they have no holder. -/
theorem freeThread_cases (s : State) {q i : Nat} (status cause : Nat) (hq : q < 8) (hi : i < 512) :
    ∃ t : State, s.freeThread q i status cause =
        ((((t.ferDisown (2 * q) i).ferDisown (2 * q + 1) i).ferOrphan (2 * q)).ferOrphan (2 * q + 1)).dispatch q ∧
      t.tcbState q i = tFREE ∧ (∀ j ∈ (t.ducSt q).waiting, j ∈ (s.ducSt q).waiting ∧ j ≠ i) ∧
      ∀ f < 16, t.rd (Reg.FER_LOCK f) = s.rd (Reg.FER_LOCK f) := by
  unfold State.freeThread
  extract_lets nib unlisted traced odd d uncounted freed raised
  have hraised : raised.duc = freed.duc ∧ ∀ a < 0x6500000, raised.rd a = freed.rd a := by
    unfold raised
    split
    · exact ⟨raise_duc _ _, fun a ha => rd_raise _ _ ha⟩
    · exact ⟨rfl, fun a _ => rfl⟩
  refine ⟨raised, rfl, ?state, fun j hj => ?waiting, fun f hf => ?lock⟩
  case state =>
    rw [State.tcbState, State.fld, hraised.2 _ (tcbW_lt hq hi (by decide)), rd_jrnlThread]
    exact tcbState_setTcbState uncounted q i (by decide)
  case waiting =>
    have huncounted : (uncounted.ducSt q).waiting = (traced.ducSt q).waiting := by
      unfold uncounted
      rw [ducSt_setDuc_same]
    have hlist : (raised.ducSt q).waiting = (s.ducSt q).waiting.filter (· ≠ i) := by
      rw [ducSt_of_duc hraised.1, waiting_jrnlThread, ducSt_of_duc (duc_setTcbState _ _ _ _), huncounted,
        ducSt_of_duc (duc_ducTrace _ _ _ _ _ _ _ _), waiting_unlist, waiting_leaveNib]
    rw [hlist, List.mem_filter] at hj
    exact hj.imp id of_decide_eq_true
  case lock =>
    calc raised.rd (Reg.FER_LOCK f)
      _ = freed.rd _ := hraised.2 _ (ferLock_lt hf)
      _ = (uncounted.setTcbState q i tFREE).rd _ := rd_jrnlThread _ _ _ _
      _ = (uncounted.setFld _ 31 29 tFREE).rd _ := rd_setTcbState _ _ _ (ferLock_ne_status f q)
      _ = traced.rd _ := rd_setFld_ne _ (ferLock_ne_tcbW f q hi (by decide)) _ _ _
      _ = unlisted.rd _ := rd_ducTrace _ _ _ _ _ _ _ (ferLock_lt hf) (ferLock_ne_traceDrop f q)
      _ = (s.leaveNib q i).rd _ := rd_unlist_ne _ i (ferLock_ne_flagOwner f q)
      _ = s.rd _ := rd_leaveNib_ne s (ferLock_ne_tcbW f q hi (by decide))

/-- A thread that ends is FREE, and a configuration of its Quire is valid afterwards if it was and another thread owns it. -/
theorem freeThread_frees (s : State) {q i f : Nat} (status cause : Nat) (hq : q < 8) (hi : i < 512) (hf : f / 2 = q)
    (hw : ∀ t ∈ (s.ducSt q).waiting, t < 512) : (s.freeThread q i status cause).tcbState q i = tFREE ∧
      (s.freeThread q i status cause).bit (Reg.FER_LOCK f) 30 =
        (s.bit (Reg.FER_LOCK f) 30 && ! (s.fld (Reg.FER_LOCK f) 24 16 == i)) := by
  obtain ⟨t, ht, hstate, hwaiting, hlock⟩ := freeThread_cases s status cause hq hi
  have hf16 : f < 16 := by omega
  rw [ht]
  set d := (t.ferDisown (2 * q) i).ferDisown (2 * q + 1) i with hd
  have hduc : d.duc = t.duc := (duc_ferDisown _ _ _).trans (duc_ferDisown _ _ _)
  have hword : d.rd (Reg.DUC_TCB_W q i 0) = t.rd (Reg.DUC_TCB_W q i 0) :=
    (rd_ferDisown_ne _ i (ferLock_ne_tcbW _ q hi (by decide)).symm).trans
      (rd_ferDisown_ne _ i (ferLock_ne_tcbW _ q hi (by decide)).symm)
  have hother : ∀ j ∈ (d.ducSt q).waiting, j < 512 ∧ j ≠ i := by
    intro j hj
    rw [ducSt_of_duc hduc] at hj
    exact (hwaiting j hj).imp (hw j) id
  have hfirst : KeepsEnd q i d (d.ferOrphan (2 * q)) := keepsEnd_ferOrphan d hq hi (by omega) hother
  have hkeep : KeepsEnd q i d (((d.ferOrphan (2 * q)).ferOrphan (2 * q + 1)).dispatch q) :=
    (hfirst.trans (keepsEnd_ferOrphan _ hq hi (by omega) fun j hj => hother j (hfirst.waiting j hj))).trans (keepsEnd_dispatch _ q i q)
  constructor
  · rw [hkeep.state, State.tcbState, State.fld, hword]
    exact hstate
  · rw [hkeep.cfgv f hf16, hd, cfgv_ferDisown_pair t i hf, State.bit, State.fld, hlock f hf16, State.bit, State.fld]

/-- Settles O17: both Ferrules are disowned before the locks of threads that are FREE are released, and a release wakes another thread,
which touches neither CFGV nor the control block of the one that ended. -/
theorem freeThreadIsDisowned : Obligations.FreeThreadIsDisowned := by
  intro s q i status cause f hq hi hf hw
  obtain ⟨hfree, hcfgv⟩ := freeThread_frees s status cause hq hi hf hw
  refine ⟨hfree, fun howner => ?_, fun howner => ?_⟩
  · rw [hcfgv, howner, beq_self_eq_true, Bool.not_true, Bool.and_false]
  · rw [hcfgv, beq_false_of_ne howner, Bool.not_false, Bool.and_true]

end Sys2Proof.Machine
end

section
/-! SUPPORT. A thread that meets the hypotheses of the statement of the end of a thread, with what the statement says of it. -/

open Sys2Proof Sys2Proof.Machine

namespace Sys2Proof.Tests

/-- Thread 7 of Quire 2 is READY and holds Ferrule 4 with its own configuration; thread 9, whose configuration Ferrule 5 holds, WAITS
for Ferrule 4. -/
def sevenHolds : State :=
  (((((State.reset.wr (Reg.DUC_TCB_W 2 7 0) 0x40000000).wr (Reg.DUC_TCB_W 2 9 0) 0x80000000).wr (Reg.DUC_TCB_W 2 9 1) 0x14000000).wr
    (Reg.FER_LOCK 4) 0xC0070007).wr (Reg.FER_LOCK 5) 0x40090000).setDuc 2 { DucSt.init with waiting := [9] }

/-- Thread 7 ends: its configuration is valid no longer, that of thread 9 still is. -/
theorem test_end_disowns : (sevenHolds.freeThread 2 7 0 0).tcbState 2 7 = tFREE ∧
    (sevenHolds.freeThread 2 7 0 0).bit (Reg.FER_LOCK 4) 30 = false ∧
    (sevenHolds.freeThread 2 7 0 0).bit (Reg.FER_LOCK 5) 30 = true := by
  have hwaiting : ∀ t ∈ (sevenHolds.ducSt 2).waiting, t < 512 := by decide
  obtain ⟨hfree, hmine, -⟩ := freeThreadIsDisowned sevenHolds 2 7 0 0 4 (by decide) (by decide) (by decide) hwaiting
  obtain ⟨-, -, hother⟩ := freeThreadIsDisowned sevenHolds 2 7 0 0 5 (by decide) (by decide) (by decide) hwaiting
  exact ⟨hfree, hmine (by decide), (hother (by decide)).trans (by decide)⟩

end Sys2Proof.Tests
end

section
/-! SUPPORT. Indirect writes to the HARQ Directory (R350). -/

namespace Sys2Proof.Machine
open Sys2Proof

@[simp] theorem bit_answer (s : State) (st v a n : Nat) : (s.answer st v).bit a n = s.bit a n := rfl

/-- A holder's WRITE to a valid entry that is not IDLE sets WR_REJ and stores nothing (R350). -/
theorem exec_hdyAccWrite_inUse {who : Requester} {s : State} (ho : s.opens who Reg.HDY_ACC = true) (hh : s.holds who Reg.HDY_ACC = true)
    (hrec : s.bit Reg.HDY_IDX 31 = false) (hvalid : s.entValid (s.fld Reg.HDY_IDX 16 0) = true)
    (hstate : s.entState (s.fld Reg.HDY_IDX 16 0) ≠ 0) :
    exec (.hdyAccWrite who) s = .next ((s.setBit Reg.HDY_STATUS 30).answer St.OK 0) := by
  have huse : (s.entValid (s.fld Reg.HDY_IDX 16 0) && decide (s.entState (s.fld Reg.HDY_IDX 16 0) ≠ 0)) = true := by
    rw [hvalid, Bool.true_and, decide_eq_true hstate]
  have harm : exec (.hdyAccWrite who) s = execHdyAccWrite who s := rfl
  rw [harm, execHdyAccWrite, accessHeld_open ho hh, if_neg (ne_true_of_eq_false hrec), if_pos huse]

/-- Settles O23: the write is the setting of one bit of STATUS, a register, and the Directory is not held in registers. -/
theorem harqEntryInUse : Obligations.HarqEntryInUse := by
  intro who s ho hh hrec hvalid hstate
  refine ⟨_, exec_hdyAccWrite_inUse ho hh hrec hvalid hstate, ?_, ?_, answer_resp _ _ _, fun a => ?_⟩
  · rw [bit_answer, bit_setBit_same s Reg.HDY_STATUS (by decide)]
  · rw [answer_ord, State.setBit, setFld_ord]
  · rw [byte_answer, byte_setBit]

end Sys2Proof.Machine
end

section
/-! SUPPORT. A Directory that meets the hypotheses of the statement of a write to an entry in use, with what the statement says of it. -/

open Sys2Proof Sys2Proof.Machine

namespace Sys2Proof.Tests

/-- Entry 37, of record 2 and process 5, is valid and PENDING, and IDX names it. -/
def pendingEntry : State := (State.reset.setEnt 37 [0xA0000000, 0, 0, 0, 0, 0, 0, 0]).wr Reg.HDY_IDX 37

/-- Control core 0 writes zeros to the entry: WR_REJ is set, and the entry keeps its word. -/
theorem test_pending_entry_kept : Answers (exec (.hdyAccWrite (.core 0)) pendingEntry) fun t =>
    t.bit Reg.HDY_STATUS 30 = true ∧ t.entW 37 0 = 0xA0000000 := by
  obtain ⟨t, ht, hrej, hord, -⟩ :=
    harqEntryInUse (.core 0) pendingEntry (by decide) (by decide) (by decide) (by decide) (by decide)
  have hword : t.entW 37 0 = pendingEntry.entW 37 0 := by rw [State.entW, hord, State.entW]
  exact ⟨t, ht, hrej, hword.trans (by decide)⟩

end Sys2Proof.Tests
end

section
/-! SUPPORT. The occasions, the payloads and the commands of the random access engines, where nothing turns them away (chapter 10). -/

namespace Sys2Proof.Machine
open Sys2Proof

/-! ### Occasions (R355 to R363) -/

/-- The byte ranges that an occasion reads: one block per antenna, and its payload table if it names one (R356, R366). -/
def Occasion.reads (o : Occasion) (j : Job) : List (Nat × Nat) :=
  ((List.range o.na).map fun k => (jIn j + k * o.astride * 64, o.block)) ++ (if jOut j = 0 then [] else [(jOut j, 32 * o.npre)])

/-- A unit takes a job from a ring that it runs (R324). -/
theorem executor_of_poolTakes {s : State} {pool u r x : Nat} {j : Job} {ok place : Bool} {reads outs : List (Nat × Nat)}
    (h : s.poolTakes pool j u r x ok reads outs place = true) : s.executor u r = some x := by
  simp only [State.poolTakes, Bool.and_eq_true, beq_iff_eq] at h
  tauto

/-- No job that will end with OK ends its descriptor at once. -/
theorem not_refused_of_ok {e : JobEnd} (h : e.status = St.OK) : ¬ e.refused = true := by
  unfold JobEnd.refused
  rw [h]
  exact Bool.false_ne_true

/-- An occasion in range that engine x takes starts, with the threshold of its first root in LAST_THR and the detections above their
thresholds in the order of R363. -/
theorem occasionJob_takes {op x : Nat} {j : Job} {e : Fin 2} {r : Fin 16} (ds : List RaDet) {s : State} (hring : j.ring = .ra e r)
    (hok : (Occasion.of op j).ok j = true)
    (ht : s.poolTakes 7 j (56 + e.val) r x true ((Occasion.of op j).reads j) [] true = true) :
    let o := Occasion.of op j
    let dets := detOrder (s.reported (x - 56) r o ds)
    let t := s.turn x r
    occasionJob op j ds s = (t.wrN (Reg.RAE_RQ_LAST_THR (x - 56) r) (t.occThr (x - 56) r o 0)).jobStarts j (56 + e.val) x r
      { status := St.OK, result := 0, data := [], work := o.work dets.length } dets := by
  have hx : s.executor (56 + e.val) r = some x := executor_of_poolTakes ht
  have hr : ringUnit j.ring = some (56 + e.val, r.val) := by rw [hring]; rfl
  intro o dets t
  unfold occasionJob
  dsimp only
  rw [hok, hr, hring, Option.map_some, Option.getD_some, hx, Option.getD_some, if_pos rfl]
  exact poolJob_takes ht (not_refused_of_ok rfl)

/-! ### Payloads (R361, R370) -/

/-- A context that waits for its payload has it queued once PREADY has come. -/
theorem execPreadyReached_due {e : Fin 2} {c : Fin 32} {k : RaCtx} {s : State} (hk : s.raCtx e c = some k)
    (hdue : (k.state = 2 && 0 ≤ signed 32 (s.ts32 k.pready.2 + 2 ^ 32 - k.pready.1)) = true) :
    execPreadyReached e c s = .next (s.setCtx e c (some { k with state := 3 })) := by
  unfold execPreadyReached
  rw [hk]
  exact if_pos hdue

@[simp] theorem setCtx_ra (s : State) (e c : Nat) (x : Option RaCtx) :
    (s.setCtx e c x).ra = { s.ra with ctx := sput s.ra.ctx (32 * e + c) x none } := by
  cases x <;> rfl

/-- A context holds what it was last set to. -/
theorem raCtx_setCtx_same (s : State) (e c : Nat) (x : Option RaCtx) : (s.setCtx e c x).raCtx e c = x := by
  rw [State.raCtx, setCtx_ra, sget_sput_same]

/-- A context whose payload ends is FREE (R361). -/
theorem raCtx_payloadEnd_same (s : State) (e c : Nat) (k : RaCtx) (status plen slotIter : Nat) :
    (s.payloadEnd e c k status plen slotIter).raCtx e c = none := raCtx_setCtx_same _ e c none

/-! ### The statement -/

/-- Settles O39: an admitted command has the effect of its row; an occasion starts as a job of pool 7; an event whose unit is in the
state it presupposes takes that branch of its row. That the detections of an occasion are operands is the model's choice (log entry
54). -/
theorem randomAccessCommandsComplete : Obligations.RandomAccessCommandsComplete := by
  refine ⟨?occasion, fun _ _ _ => rfl, fun _ _ _ => rfl, fun _ _ _ _ hk hdue => execPreadyReached_due hk hdue,
    ?payloadProcess, ?payloadComplete, fun _ _ h hc => next_commandNow h hc, fun _ _ h hc => next_commandNow h hc,
    fun _ _ h hc => next_commandNow h hc, fun _ _ h hc => next_commandNow h hc, fun _ _ h hc => next_commandNow h hc⟩
  case occasion =>
    rintro c op j ds s hc e r x hring o reads hok ht
    have hjob : exec c s = .next (occasionJob op j ds s) := by
      rcases hc with ⟨rfl, rfl⟩ | ⟨rfl, rfl⟩ | ⟨rfl, rfl⟩ <;> rfl
    rw [hjob]
    exact congrArg Host.Outcome.next (occasionJob_takes ds hring hok ht)
  case payloadProcess =>
    intro e c l s hidle late hfirst
    change execPayloadProcess e s = _
    unfold execPayloadProcess
    rw [if_neg hidle]
    extract_lets first
    have hf : first = some (c, l) := hfirst
    rw [hf]
  case payloadComplete =>
    intro e pass c k s hrun hk n hread
    change execPayloadComplete e pass s = _
    unfold execPayloadComplete
    rw [hrun]
    dsimp only
    rw [hk]
    refine (if_neg (not_not.2 hread)).trans ?_
    cases pass <;> rfl

end Sys2Proof.Machine
end

section
/-! SUPPORT. States and operands that meet the hypotheses of the statement of the random access engines, with what the statement says of
them. -/

open Sys2Proof Sys2Proof.Machine

namespace Sys2Proof.Tests

/-- A carve-out of 64 KiB at the start of Inkwell of Quire 0, and 8 contexts of RA0, for realm 3. -/
def raVellum : VlmState :=
  { VlmState.reset with live := [inkwellOf3,
      { typ := 0x12, realm := 3, rflags := 0, bytes := List.replicate 8 0 ++ [7, 0, 1, 0, 64, 0, 0, 0] }] }

/-- The ring of realm 3 on RA0 is enabled, of 8 descriptors, with one at HEAD; the first root has an absolute threshold of 1. -/
def ra0Ready : State :=
  let s := (State.reset.wr (Reg.RAE_RING_CFG 0 3) 0x80030000).wr (Reg.RAE_RING_TAIL 0 3) 1
  { s.wr (Reg.RAE_THR_SET_W 0 3 0 0) 0x8100 with vlm := raVellum }

/-- An NR_PRACH occasion of format 0 on one antenna, with one preamble on one root and no payload table. -/
def oneOccasion : Job :=
  { ring := .ra 0 3, words := [0x80010000, 0, 0x10000000, 0, 0, 0, 0x01000000, 0x00010000, 0x00010000] }

/-- A peak of preamble 0, with its metric in 1/256. -/
def peak (metric : BitVec 16) : RaDet := { preamble := 0, root := 0, metric := metric, delay := 40, cfo := 0, multi := false }

/-- A peak of twice the noise is above the threshold, and one of half the noise is not. -/
theorem test_occasion_starts : Answers (exec (.nrPrach oneOccasion [peak 0x80, peak 0x200]) ra0Ready) fun t =>
    (sget t.eng 56 none).map (·.dets) = some [peak 0x200] ∧ t.rdN (Reg.RAE_RQ_LAST_THR 0 3) = 0x100 := by
  obtain ⟨h, -⟩ := randomAccessCommandsComplete
  exact ⟨_, h (.nrPrach oneOccasion [peak 0x80, peak 0x200]) 1 oneOccasion _ ra0Ready (.inl ⟨rfl, rfl⟩) 0 3 56 rfl (by decide)
    (by decide), by decide⟩

/-- An entry for a payload of 8 bits on one resource block and one symbol, complete at time 0 of time base 0. -/
def payEntry : List Byte :=
  leBytes 8 0x10000000 ++ [0, 0, 1, 1, 8, 0, 2, 1] ++ List.replicate 16 0

/-- Context 1 of RA0 holds a detection for realm 3, in a state of R361. -/
def context1 (st : Nat) : State :=
  let k : RaCtx := { state := st, realm := 3, det := peak 0x200, occ := 0, tag := 0, inst := 0, rootIdx := 0, ntn := false, na := 1,
                     entry := payEntry }
  { ra0Ready with ra := { RaSt.init with ctx := [(1, some k)] } }

/-- Its payload is queued. -/
theorem test_payload_queued : Answers (exec (.preadyReached 0 1) (context1 2)) fun t => (t.raCtx 0 1).map (·.state) = some 3 := by
  obtain ⟨-, -, -, h, -⟩ := randomAccessCommandsComplete
  exact ⟨_, h 0 1 (context1 2) _ rfl (by decide), by decide⟩

/-- Its payload, alone in the queue, is decoded. -/
theorem test_payload_starts : Answers (exec (.payloadProcess 0) (context1 3)) fun t => sget t.ra.run 0 0 = 2 := by
  obtain ⟨-, -, -, -, h, -⟩ := randomAccessCommandsComplete
  exact ⟨_, h 0 1 0 (context1 3) (by decide) (by decide), by decide⟩

/-- RA0 decodes the payload of context 1. -/
def decoding1 : State := { context1 3 with ra := { (context1 3).ra with run := [(0, 2)] } }

/-- Its CRC fails, and the context is FREE. -/
theorem test_payload_crc_fails : Answers (exec (.payloadComplete 0 false) decoding1) fun t =>
    t.raCtx 0 1 = none := by
  obtain ⟨-, -, -, -, -, h, -⟩ := randomAccessCommandsComplete
  exact ⟨_, h 0 false 1 _ decoding1 rfl rfl (by decide), raCtx_payloadEnd_same _ 0 1 _ _ _ _⟩

/-- Realm 3 is RUNNING, and a command is at HEAD of CMD[16]. -/
def raCommand : State := { (oneOnRing 16).wr (Reg.VLM_REALM_STATE 3) 2 with vlm := raVellum }

/-- RA_QUERY of realm 3 on RA0. -/
theorem test_ra_query :
    let d := dsc 3 0 [0]
    let s := raCommand.begun 0x53 d
    exec (.raQuery d) raCommand = .next ((s.slotEnd d.slotId St.OK [w32 (s.ctxOf 0 3).length,
      w32 ((s.ctxOf 0 3).filter fun c => (s.raCtx 0 c).isSome).length, s.rd (Reg.RAE_RQ_PROD 0 3), s.rd (Reg.RAE_RQ_CONS 0 3),
      s.rd (Reg.RAE_RQ_DROP 0 3), s.rd (Reg.RAE_RQ_LAST_THR 0 3)]).ended d) := by
  obtain ⟨-, -, -, -, -, -, -, -, -, h, -⟩ := randomAccessCommandsComplete
  exact h (dsc 3 0 [0]) raCommand (by decide) (by decide)

end Sys2Proof.Tests
end

section
/-! SUPPORT. Claims of the channels of a Chancery Scribe (R419). -/

namespace Sys2Proof.Machine
open Sys2Proof

/-- Setting a bit leaves the other bits of the register. -/
theorem bit_setBit_ne_bit (s : State) (a : Nat) {m n : Nat} (h : n ≠ m) (hm : m < 32) : (s.setBit a m).bit a n = s.bit a n := by
  obtain hlt | hgt := Nat.lt_or_gt_of_ne h
  · exact bit_setFld_below s a 1 (Nat.le_refl m) hm hlt
  · exact bit_setFld_above s a 1 (Nat.le_refl m) hm hgt

/-- The OWNED registers of two realms are two registers. -/
theorem rlmOwned_ne (e : Nat) {q r : Nat} (h : q ≠ r) : Reg.SCB_RLM_OWNED e q ≠ Reg.SCB_RLM_OWNED e r := by
  unfold Reg.SCB_RLM_OWNED
  omega

/-! ### The claim of one channel -/

/-- Channel c becomes realm r's if the mask names it and no realm has claimed it. -/
def State.claimChannel (s : State) (e r mask c : Nat) : State :=
  if bitOf mask c && ! s.claimed e c then s.setBit (Reg.SCB_RLM_OWNED e r) c else s

theorem rd_claimChannel_ne (s : State) {e r a : Nat} (mask c : Nat) (h : a ≠ Reg.SCB_RLM_OWNED e r) :
    (s.claimChannel e r mask c).rd a = s.rd a := by
  unfold State.claimChannel
  split
  · exact rd_setBit_ne s h c
  · rfl

@[simp] theorem byte_claimChannel (s : State) (e r mask c a : Nat) : (s.claimChannel e r mask c).byte a = s.byte a := by
  unfold State.claimChannel
  split
  · exact byte_setBit s _ c a
  · rfl

theorem bit_claimChannel_same (s : State) (e r mask : Nat) {c : Nat} (hc : c < 32) :
    (s.claimChannel e r mask c).bit (Reg.SCB_RLM_OWNED e r) c =
      (s.bit (Reg.SCB_RLM_OWNED e r) c || (bitOf mask c && ! s.claimed e c)) := by
  unfold State.claimChannel
  split
  next hfree => rw [hfree, Bool.or_true, bit_setBit_same s _ hc]
  next hkept => rw [Bool.eq_false_of_not_eq_true hkept, Bool.or_false]

/-- The claim of a channel leaves what every register says of the other channels. -/
theorem bit_claimChannel_ne (s : State) (e r mask a : Nat) {c n : Nat} (h : n ≠ c) (hc : c < 32) :
    (s.claimChannel e r mask c).bit a n = s.bit a n := by
  unfold State.claimChannel
  split
  · obtain rfl | ha := eq_or_ne a (Reg.SCB_RLM_OWNED e r)
    · exact bit_setBit_ne_bit s _ h hc
    · exact bit_setBit_ne s ha c n
  · rfl

/-! ### The claim of the channels below n, in rising order -/

/-- The channels below n are claimed one after the other. -/
def State.claimBelow (s : State) (e r mask n : Nat) : State :=
  (List.range n).foldl (fun s c => s.claimChannel e r mask c) s

theorem claimBelow_succ (s : State) (e r mask n : Nat) :
    s.claimBelow e r mask (n + 1) = (s.claimBelow e r mask n).claimChannel e r mask n := by
  simp [State.claimBelow, List.range_succ]

theorem rd_claimBelow_ne (s : State) {e r a : Nat} (mask n : Nat) (h : a ≠ Reg.SCB_RLM_OWNED e r) :
    (s.claimBelow e r mask n).rd a = s.rd a := by
  induction n with
  | zero => rfl
  | succ n ih => rw [claimBelow_succ, rd_claimChannel_ne _ _ _ h, ih]

@[simp] theorem byte_claimBelow (s : State) (e r mask n a : Nat) : (s.claimBelow e r mask n).byte a = s.byte a := by
  induction n with
  | zero => rfl
  | succ n ih => rw [claimBelow_succ, byte_claimChannel, ih]

/-- A channel whose turn has not come is as it was. -/
theorem bit_claimBelow_of_le (s : State) (e r mask a : Nat) {n c : Nat} (h : n ≤ c) (hn : n ≤ 32) :
    (s.claimBelow e r mask n).bit a c = s.bit a c := by
  induction n with
  | zero => rfl
  | succ n ih => rw [claimBelow_succ, bit_claimChannel_ne _ _ _ _ _ (by omega) (by omega), ih (by omega) (by omega)]

theorem claimed_claimBelow_of_le (s : State) (e r mask : Nat) {n c : Nat} (h : n ≤ c) (hn : n ≤ 32) :
    (s.claimBelow e r mask n).claimed e c = s.claimed e c := by
  simp only [State.claimed, bit_claimBelow_of_le s e r mask _ h hn]

/-- The turn of a channel decides it, and meets the claims of the state before, for the turns of other channels leave it. -/
theorem bit_claimBelow_of_lt (s : State) (e r mask : Nat) {n c : Nat} (h : c < n) (hn : n ≤ 32) :
    (s.claimBelow e r mask n).bit (Reg.SCB_RLM_OWNED e r) c =
      (s.bit (Reg.SCB_RLM_OWNED e r) c || (bitOf mask c && ! s.claimed e c)) := by
  induction n with
  | zero => omega
  | succ n ih =>
    rw [claimBelow_succ]
    obtain hlt | rfl := Nat.lt_succ_iff_lt_or_eq.mp h
    · rw [bit_claimChannel_ne _ _ _ _ _ (by omega) (by omega), ih hlt (by omega)]
    · rw [bit_claimChannel_same _ _ _ _ (by omega), bit_claimBelow_of_le s e r mask _ (Nat.le_refl c) (by omega),
        claimed_claimBelow_of_le s e r mask (Nat.le_refl c) (by omega)]

/-! ### The command -/

/-- An admitted claim on a Quire Scribe, whose OWNED ignores writes (R440), does nothing, and one on a Chancery Scribe claims its channels
0 to 13 (R418). -/
theorem exec_channelClaim_open {who : Requester} {e : Fin 12} {r : Fin 16} {s : State} (mask : BitVec 14)
    (h : s.opens who (Reg.SCB_RLM_OWNED e r) = true) :
    exec (.channelClaim who e r mask) s = .next ((if e.val < 8 then s else s.claimBelow e r mask.toNat 14).answer St.OK 0) :=
  next_access h

/-- Settles O25: the claim runs over the 14 channels of the engine and writes OWNED of its realm alone. Claiming is R419, the channels that
can be claimed are R418, and that OWNED of a Quire Scribe ignores writes is R440; R420 says what an owner holds. -/
theorem channelsAreClaimedOnce : Obligations.ChannelsAreClaimedOnce := by
  intro who e r mask s h
  refine ⟨_, exec_channelClaim_open mask h, ?_⟩
  obtain hquire | hchancery := Nat.lt_or_ge e.val 8
  · rw [if_pos hquire]
    exact ⟨fun hge => absurd hquire (Nat.not_lt.mpr hge), fun _ => rfl, fun _ _ => rfl, fun _ => rfl⟩
  · rw [if_neg (Nat.not_lt.mpr hchancery)]
    refine ⟨fun _ c hc => ?_, fun hlt => absurd hchancery (Nat.not_le.mpr hlt), fun q hq => ?_, fun a => ?_⟩
    · rw [bit_answer, bit_claimBelow_of_lt s e r mask.toNat hc (by decide)]
    · rw [rd_answer, rd_claimBelow_ne s _ _ (rlmOwned_ne e (Fin.val_ne_of_ne hq))]
    · rw [byte_answer, byte_claimBelow]

end Sys2Proof.Machine
end

section
/-! SUPPORT. A claim that meets the hypotheses of the statement of claims, with what the statement says of it. -/

open Sys2Proof Sys2Proof.Machine

namespace Sys2Proof.Tests

/-- Realm 3 has claimed channel 1 of Chancery engine 0. -/
def channel1Claimed : State := State.reset.wr (Reg.SCB_RLM_OWNED 8 3) 0b10

/-- Realm 2 claims channels 0 and 1 and is given channel 0; realm 3 keeps channel 1. -/
theorem test_claim_of_two_gives_one : Answers (exec (.channelClaim (.core 0) 8 2 0b11) channel1Claimed) fun t =>
    t.bit (Reg.SCB_RLM_OWNED 8 2) 0 = true ∧ t.bit (Reg.SCB_RLM_OWNED 8 2) 1 = false ∧ t.rd (Reg.SCB_RLM_OWNED 8 3) = 0b10 := by
  obtain ⟨t, ht, hbits, -, hother, -⟩ := channelsAreClaimedOnce (.core 0) 8 2 0b11 channel1Claimed (by decide)
  have hfree := hbits (by decide) 0 (by decide)
  have htaken := hbits (by decide) 1 (by decide)
  have hthree := hother 3 (by decide)
  exact ⟨t, ht, hfree.trans (by decide), htaken.trans (by decide), hthree.trans (by decide)⟩

end Sys2Proof.Tests
end

section
/-! SUPPORT. The wire format of a PRB: the number whose big-endian bytes its fields make up, its bytes and its fields (R454 to R457). -/

namespace Sys2Proof.Machine
open Sys2Proof

/-! ### Numbers in two's complement -/

theorem unsigned_cast (n : Nat) (x : Int) : ((unsigned n x : Nat) : Int) = x % 2 ^ n :=
  Int.toNat_of_nonneg (Int.emod_nonneg _ (by positivity))

theorem unsigned_lt (n : Nat) (x : Int) : unsigned n x < 2 ^ n := by
  zify
  rw [unsigned_cast]
  exact Int.emod_lt_of_pos x (by positivity)

/-- The two's complement of n + 1 bits gives back every integer of its range. -/
theorem signed_unsigned_of_range (n : Nat) {x : Int} (hlo : -2 ^ n ≤ x) (hhi : x < 2 ^ n) : signed (n + 1) (unsigned (n + 1) x) = x := by
  have hpow : (2 : Int) ^ (n + 1) = 2 * 2 ^ n := by rw [pow_succ, mul_comm]
  have hhalf : unsigned (n + 1) x < 2 ^ n ↔ x % 2 ^ (n + 1) < 2 ^ n := by zify; rw [unsigned_cast]
  rw [signed, Nat.add_sub_cancel, Nat.mod_eq_of_lt (unsigned_lt _ _), unsigned_cast, Int.emod_emod,
    if_congr hhalf rfl rfl]
  obtain hneg | hnonneg := lt_or_ge x 0
  · have hwrap : x % 2 ^ (n + 1) = x + 2 ^ (n + 1) := by
      rw [← Int.add_emod_right, Int.emod_eq_of_lt (by omega) (by omega)]
    rw [hwrap, if_neg (by omega)]
    omega
  · rw [Int.emod_eq_of_lt hnonneg (by omega), if_pos hhi]

/-! ### Numbers and their bytes -/

/-- Reading digits from the most significant on gives the number of the digits in reverse. -/
theorem foldl_eq_ofDigits {α : Type} (b : Nat) (f : α → Nat) (xs : List α) :
    xs.foldl (fun a x => a * b + f x) 0 = Nat.ofDigits b (xs.map f).reverse := by
  rw [Nat.ofDigits_eq_foldr, List.foldr_reverse, List.foldl_map]
  simp only [Nat.cast_id, Nat.mul_comm b, Nat.add_comm]

/-- Digit k from the front of a number written with the most significant digit first. -/
theorem ofDigits_reverse_digit {b : Nat} {ds : List Nat} (hds : ∀ d ∈ ds, d < b) {k : Nat} (hk : k < ds.length) :
    Nat.ofDigits b ds.reverse / b ^ (ds.length - 1 - k) % b = ds[k] := by
  have hlt : ds[k] < b := hds _ (List.getElem_mem hk)
  have hidxlt : ds.length - 1 - k < ds.reverse.length := by rw [List.length_reverse]; omega
  have hidx : ds.reverse[ds.length - 1 - k] = ds[k] := by
    rw [List.getElem_reverse]
    congr 1
    omega
  rw [Nat.ofDigits_div_pow_eq_ofDigits_drop _ (Nat.zero_lt_of_lt hlt) _ (by simpa using hds), List.drop_eq_getElem_cons hidxlt,
    Nat.ofDigits_cons, hidx, Nat.add_mul_mod_self_left, Nat.mod_eq_of_lt hlt]

@[simp] theorem beBytes_length (n v : Nat) : (beBytes n v).length = n := by
  rw [beBytes, List.length_reverse, leBytes_length]

theorem beBytes_getElem (n v k : Nat) (h : k < (beBytes n v).length) :
    (beBytes n v)[k] = BitVec.ofNat 8 (v / 2 ^ (8 * (n - 1 - k))) := by
  simp only [beBytes, List.getElem_reverse, leBytes_getElem, leBytes_length]

/-- Reading the n big-endian bytes of a number gives its low n bytes. -/
theorem foldl_beBytes (n v : Nat) : (beBytes n v).foldl (fun a b => a * 256 + b.toNat) 0 = v % 256 ^ n := by
  rw [beBytes, List.foldl_reverse]
  induction n generalizing v with
  | zero => rw [Nat.pow_zero, Nat.mod_one]; rfl
  | succ n ih => rw [leBytes, List.foldr_cons, ih, BitVec.toNat_ofNat, Nat.pow_succ' (m := 256), Nat.mod_mul, Nat.add_comm, Nat.mul_comm]

/-! ### Packed fields -/

/-- The number that fields of w bits make up, the first field the most significant. -/
def fieldsNat (w : Nat) (xs : List Nat) : Nat := Nat.ofDigits (2 ^ w) (xs.map (· % 2 ^ w)).reverse

theorem foldl_eq_fieldsNat (w : Nat) (xs : List Nat) : xs.foldl (fun a x => a * 2 ^ w + x % 2 ^ w) 0 = fieldsNat w xs :=
  foldl_eq_ofDigits _ _ xs

theorem fieldsNat_lt (w : Nat) (xs : List Nat) : fieldsNat w xs < 2 ^ (w * xs.length) := by
  induction xs with
  | nil => exact Nat.one_pos
  | cons x xs ih =>
    have hx : x % 2 ^ w + 1 ≤ 2 ^ w := Nat.mod_lt _ (Nat.two_pow_pos w)
    rw [fieldsNat, List.map_cons, Nat.ofDigits_reverse_cons, List.length_map, ← Nat.pow_mul, ← fieldsNat]
    calc fieldsNat w xs + 2 ^ (w * xs.length) * (x % 2 ^ w)
        < 2 ^ (w * xs.length) * (x % 2 ^ w + 1) := by rw [Nat.mul_succ]; omega
      _ ≤ 2 ^ (w * xs.length) * 2 ^ w := Nat.mul_le_mul_left _ hx
      _ = 2 ^ (w * (x :: xs).length) := by rw [← Nat.pow_add, List.length_cons, Nat.mul_succ]

/-- Field k of the number of the fields. -/
theorem fieldsNat_field (w : Nat) {xs : List Nat} {k : Nat} (hk : k < xs.length) :
    fieldsNat w xs / 2 ^ (w * (xs.length - 1 - k)) % 2 ^ w = xs[k] % 2 ^ w := by
  have hds : ∀ d ∈ xs.map (· % 2 ^ w), d < 2 ^ w := by
    intro d hd
    obtain ⟨x, -, rfl⟩ := List.mem_map.mp hd
    exact Nat.mod_lt _ (Nat.two_pow_pos w)
  have hdigit := ofDigits_reverse_digit hds (k := k) (by rwa [List.length_map])
  rw [← fieldsNat, ← Nat.pow_mul] at hdigit
  simpa only [List.length_map, List.getElem_map] using hdigit

/-- Fields that fill n bytes are sent as the n big-endian bytes of their number. -/
theorem wirePack_eq_beBytes {w n : Nat} {xs : List Nat} (h : w * xs.length = 8 * n) : wirePack w xs = beBytes n (fieldsNat w xs) := by
  have hpad : (8 - w * xs.length % 8) % 8 = 0 := by omega
  have hlen : w * xs.length / 8 = n := by omega
  simp only [wirePack, foldl_eq_fieldsNat, hpad, hlen, Nat.add_zero, Nat.pow_zero, Nat.mul_one]
  refine List.ext_getElem (by simp) fun k _ _ => ?_
  rw [List.getElem_map, List.getElem_range, beBytes_getElem]

/-- Reading packed fields that fill whole bytes gives the fields back, each by its low w bits. -/
theorem wireUnpack_wirePack {w n : Nat} {xs : List Nat} (h : w * xs.length = 8 * n) :
    wireUnpack w xs.length (wirePack w xs) = xs.map (· % 2 ^ w) := by
  have hvalue : fieldsNat w xs % 256 ^ n = fieldsNat w xs := by
    apply Nat.mod_eq_of_lt
    rw [show 256 = 2 ^ 8 from rfl, ← Nat.pow_mul, ← h]
    exact fieldsNat_lt w xs
  rw [wirePack_eq_beBytes h]
  simp only [wireUnpack, foldl_beBytes, hvalue, beBytes_length, ← h]
  refine List.ext_getElem (by simp) fun k hk _ => ?_
  have hk : k < xs.length := by simpa using hk
  have hshift : w * xs.length - w * (k + 1) = w * (xs.length - 1 - k) := by
    rw [← Nat.mul_sub, Nat.sub_sub, Nat.add_comm k]
  rw [List.getElem_map, List.getElem_range, List.getElem_map, hshift, fieldsNat_field w hk]

/-! ### Fields of 16 bits (R457) -/

theorem wirePack16_eq_beBytes (ys : List Nat) : wirePack 16 ys = beBytes (2 * ys.length) (fieldsNat 16 ys) :=
  wirePack_eq_beBytes (by omega)

/-- Byte j, from the least significant on, of field k. -/
theorem wirePack16_byte {ys : List Nat} {k j : Nat} (hk : k < ys.length) (hj : j < 2) :
    (wirePack 16 ys).getD (2 * k + (1 - j)) 0 = BitVec.ofNat 8 (ys[k] / 2 ^ (8 * j)) := by
  have hshift : 8 * (2 * ys.length - 1 - (2 * k + (1 - j))) = 16 * (ys.length - 1 - k) + 8 * j := by omega
  rw [wirePack16_eq_beBytes, List.getD_eq_getElem _ _ (by rw [beBytes_length]; omega), beBytes_getElem, hshift, Nat.pow_add,
    ← Nat.div_div_eq_div_mul, ← byteOf_mod _ hj, fieldsNat_field 16 hk, byteOf_mod _ hj]

theorem wirePack16_high {ys : List Nat} {k : Nat} (hk : k < ys.length) :
    (wirePack 16 ys).getD (2 * k) 0 = BitVec.ofNat 8 (ys[k] / 256) :=
  wirePack16_byte hk (j := 1) (by decide)

theorem wirePack16_low {ys : List Nat} {k : Nat} (hk : k < ys.length) :
    (wirePack 16 ys).getD (2 * k + 1) 0 = BitVec.ofNat 8 ys[k] := by
  simpa using wirePack16_byte hk (j := 0) (by decide)

/-! ### The uncompressed PRB (R457) -/

theorem prbPack_uncompressed (w d : Nat) (xs : List Int) : (prbPack 0 w d xs).1 = wirePack 16 (xs.map (unsigned 16)) := rfl

theorem prbUnpack_uncompressed (w : Nat) (bs : List Byte) : prbUnpack 0 w bs = (wireUnpack 16 24 bs).map (signed 16) := rfl

/-- A PRB that is not compressed is read back whatever width and MC_D its entry holds. -/
theorem prbUnpack_prbPack_uncompressed (w v d : Nat) {xs : List Int} (hlen : xs.length = 24)
    (hrange : ∀ x ∈ xs, -32768 ≤ x ∧ x < 32768) : prbUnpack 0 v (prbPack 0 w d xs).1 = xs := by
  have hfields : wireUnpack 16 24 (wirePack 16 (xs.map (unsigned 16))) = (xs.map (unsigned 16)).map (· % 2 ^ 16) := by
    have hcount : (xs.map (unsigned 16)).length = 24 := by rw [List.length_map, hlen]
    rw [← hcount]
    exact wireUnpack_wirePack (n := 48) (by rw [hcount])
  have hback : ∀ x ∈ xs, signed 16 (unsigned 16 x % 2 ^ 16) = x := by
    intro x hx
    obtain ⟨hlo, hhi⟩ := hrange x hx
    rw [Nat.mod_eq_of_lt (unsigned_lt 16 x)]
    exact signed_unsigned_of_range 15 hlo hhi
  rw [prbPack_uncompressed, prbUnpack_uncompressed, hfields, List.map_map, List.map_map]
  exact (List.map_congr_left hback).trans (List.map_id _)

/-- Settles O26: the 24 fields of 16 bits fill 48 bytes, which are the big-endian bytes of the fields' number. -/
theorem uncompressedPrb : Obligations.UncompressedPrb := by
  intro xs d hlen hrange
  have hfields : (xs.map (unsigned 16)).length = 24 := by rw [List.length_map, hlen]
  have hcomp : ∀ k (hk : k < 24), (xs.map (unsigned 16))[k] = unsigned 16 (xs.getD k 0) := by
    intro k hk
    rw [List.getElem_map, List.getD_eq_getElem]
  refine ⟨?_, fun k hk => ⟨?_, ?_⟩, prbUnpack_prbPack_uncompressed 16 16 d hlen hrange⟩
  · rw [prbPack_uncompressed, wirePack16_eq_beBytes, beBytes_length, hfields]
  · rw [prbPack_uncompressed, wirePack16_high (by rwa [hfields]), hcomp k hk]
  · rw [prbPack_uncompressed, wirePack16_low (by rwa [hfields]), hcomp k hk]

end Sys2Proof.Machine
end

section
/-! SUPPORT. Components that meet the hypotheses of the statement of the uncompressed PRB, with what the statement says of them. -/

open Sys2Proof Sys2Proof.Machine

namespace Sys2Proof.Tests

/-- The least and the greatest int16, -2, 258 and 20 zeros. -/
def extremeComponents : List Int := [-32768, 32767, -2, 258] ++ List.replicate 20 0

/-- The least component starts the PRB as 80 00, the fourth is sent as 01 02, and all 24 are read back. -/
theorem test_extreme_components : let w := (prbPack 0 16 0 extremeComponents).1
    w.length = 48 ∧ w.getD 0 0 = 0x80 ∧ w.getD 1 0 = 0 ∧ w.getD 6 0 = 1 ∧ w.getD 7 0 = 2 ∧ prbUnpack 0 16 w = extremeComponents := by
  obtain ⟨hlen, hbytes, hback⟩ := uncompressedPrb extremeComponents 0 (by decide) (by decide)
  obtain ⟨hhigh0, hlow0⟩ := hbytes 0 (by decide)
  obtain ⟨hhigh3, hlow3⟩ := hbytes 3 (by decide)
  exact ⟨hlen, hhigh0.trans (by decide), hlow0.trans (by decide), hhigh3.trans (by decide), hlow3.trans (by decide), hback⟩

end Sys2Proof.Tests
end

section
/-! SUPPORT. The step that runs a command (95_what_each_step_holds). -/

namespace Sys2Proof.Machine
open Sys2Proof

/-- Settles O1: a step on a queue that is not empty is exec of its first command in the state with the rest. -/
theorem frontCommandRuns : Obligations.FrontCommandRuns := by
  intro c rest s hq
  unfold step
  rw [hq]

end Sys2Proof.Machine
end

section
/-! SUPPORT. The commands and events of the YilkuLink fabric, where nothing turns them away (chapter 15). -/

namespace Sys2Proof.Machine
open Sys2Proof

/-- Settles O44: an admitted command and a write by the holder have the effect of their row; an event whose unit is in the state it
presupposes takes that branch of its row. That a device has no identity until its window ends (log entry 97) is the model's deduction; the
lanes of a link under test (99), the device's own snapshot in FAB_SNAP (100) and a remote request that waits for its flow's turn (101) are
its choice. -/
theorem fabricCommandsComplete : Obligations.FabricCommandsComplete := by
  refine ⟨fun _ _ _ ho hh => next_accessHeld ho hh, fun _ _ hf => if_neg hf, fun _ _ h hc => next_commandNow h hc,
    fun _ _ h hc => next_commandNow h hc, fun _ _ h hc => next_command h hc, fun _ _ _ _ => rfl, ?snapAnswers,
    fun _ _ h hc => next_command h hc, ?linkTestEnd, fun _ _ h hc => next_commandNow h hc,
    fun _ _ _ _ _ _ _ _ hport hfab hver hiso => (if_neg hport).trans ((if_neg hfab).trans ((if_neg hver).trans (if_neg hiso))),
    fun _ _ _ hs => if_neg hs, ?trainingRetry, ?settlingEnd, fun _ _ _ _ hn => if_neg hn, fun _ => rfl, fun _ _ hr => if_neg hr,
    ?peerLoss, ?remoteRequest, fun _ _ hs => if_neg hs, fun _ _ _ hs => if_neg hs⟩
  case snapAnswers =>
    intro armed answered z s q rest hq
    change execFabSnapAnswersComplete armed answered z = _
    unfold execFabSnapAnswersComplete
    rw [hq]
  case linkTestEnd =>
    intro p bits errors z s k hk
    change execFabLinkTestEnd p bits errors z = _
    unfold execFabLinkTestEnd
    rw [hk]
  case trainingRetry =>
    intro p s hs ht
    change execYlkTrainingRetry p s = _
    unfold execYlkTrainingRetry
    rw [if_pos hs, if_neg ht]
  case settlingEnd =>
    intro z t id ht hlate s hid own rank taken hfree
    change execSettlingWindowEnd z = _
    unfold execSettlingWindowEnd
    rw [ht]
    dsimp only
    rw [if_neg hlate, if_neg hid, hfree]
  case peerLoss =>
    intro dev s hreach hno
    change execPeerLoss dev s = _
    unfold execPeerLoss
    extract_lets late
    rw [if_pos (by simp [hreach, hno])]
  case remoteRequest =>
    intro q w s hself key hseq hw
    change execRemoteRequest q s = _
    unfold execRemoteRequest
    rw [if_neg (not_not.2 hself)]
    dsimp only
    rw [if_neg (not_not.2 hseq), hw]

end Sys2Proof.Machine
end

section
/-! SUPPORT. States and operands that meet the hypotheses of the statements of a step and of the fabric, with what the statements say of
them. -/

open Sys2Proof Sys2Proof.Machine

namespace Sys2Proof.Tests

/-- TB_QUERY is at HEAD of CMD[16]; a step runs it. -/
theorem test_front_command :
    step { oneOnRing 16 with pending := [.tbQuery (dsc 255 0 [2])] } = exec (.tbQuery (dsc 255 0 [2])) (oneOnRing 16) :=
  frontCommandRuns _ [] { oneOnRing 16 with pending := [.tbQuery (dsc 255 0 [2])] } rfl

/-- A register, whose reset value is a constant of the device that the model leaves open, lists a word. -/
def withReg (s : State) (a : Nat) (v : W32) : State := { s with csr := sins s.csr a v }

/-- The device with a given word in FAB_STATUS. -/
def inFabric (s : State) (v : W32) : State := withReg s (Reg.YLK_FAB_STATUS 0) v

/-- FAB_QUERY on CMD[16]: its slot ends with OK. -/
theorem test_fab_query :
    let d := dsc 255 0 []
    Answers (exec (.fabQuery d) (oneOnRing 16)) fun t => ∃ ws, t = (((oneOnRing 16).begun 0x70 d).slotEnd d.slotId St.OK ws).ended d := by
  obtain ⟨-, -, h, -⟩ := fabricCommandsComplete
  exact ⟨_, h (dsc 255 0 []) (oneOnRing 16) (by decide) (by decide), _, rfl⟩

/-- A FAB_SNAP of slot 2 of CMD[3] that asks peer 4 waits for its answers. -/
def snapWaits : State :=
  inFabric (slotRuns.setYlk { YlkState.init with snaps := [{ slot := { ring := 3, slot := 2 }, asked := [4], at_ := 0 }] }) 0x80000105

/-- Peer 4 has answered that it is armed. -/
theorem test_snap_answered : Answers (exec (.fabSnapAnswersComplete 0x10 0x10) snapWaits) fun t =>
    t.ylk.snaps = [] ∧ t.rdN (Reg.CMD_RSLT_W0 3 2 + 12) = 0x10 := by
  obtain ⟨-, -, -, -, -, -, h, -⟩ := fabricCommandsComplete
  exact ⟨_, h 0x10 0x10 snapWaits _ _ rfl, by decide⟩

/-- Port 1 is under test for slot 2 of CMD[3]. -/
def port1Tested : State := slotRuns.setYlk { YlkState.init with tests := [(1, some { ring := 3, slot := 2 })] }

/-- Its test ends. -/
theorem test_link_test_ends : Answers (exec (.fabLinkTestEnd 1 0 9) port1Tested) fun t =>
    ∃ u ws, t = State.slotEnd u { ring := 3, slot := 2 } St.OK ws := by
  obtain ⟨-, -, -, -, -, -, -, -, h, -⟩ := fabricCommandsComplete
  exact ⟨_, h 1 0 9 port1Tested _ rfl, _, _, rfl⟩

/-- Port 0 is training. -/
def port0Trains : State := inFabric (State.reset.wr (Reg.YLK_STATUS 0) 0x20000000) 0x80000105

/-- A HELLO of the device's own fabric and version. -/
theorem test_hello : Answers (exec (.ylkHello 0 (port0Trains.rd (Reg.YLK_FABRIC_ID 0)) 9 77 1 2 false) port0Trains) fun t =>
    ∃ u, t = State.reroute (State.learn u 77 9) := by
  obtain ⟨-, -, -, -, -, -, -, -, -, -, h, -⟩ := fabricCommandsComplete
  exact ⟨_, h 0 (port0Trains.rd (Reg.YLK_FABRIC_ID 0)) 9 77 1 2 false port0Trains (by decide) (fun hne => hne rfl)
    (by decide) (by decide), _, rfl⟩

/-- The training timer of port 0. -/
theorem test_training_retry : Answers (exec (.ylkTrainingRetry 0) port0Trains) fun t => t.fld (Reg.YLK_STATUS 0) 25 23 = 0 := by
  obtain ⟨-, -, -, -, -, -, -, -, -, -, -, -, h, -⟩ := fabricCommandsComplete
  exact ⟨_, h 0 port0Trains (by decide) (by decide), by decide⟩

/-- A FABRIC record that asks for an automatic identity, and a settling window that ends. -/
def settling : State :=
  { inFabric State.reset 0x100 with
    vlm := { VlmState.reset with live := [{ typ := 0x21, realm := 0xFF, rflags := 0, bytes := List.replicate 32 0xFF }] }
    ylk := { YlkState.init with settle := some 0 } }

/-- The device takes the first identity. -/
theorem test_identity_taken : Answers (exec .settlingWindowEnd settling) fun t => ∃ u, t = State.takeId u 0 := by
  obtain ⟨-, -, -, -, -, -, -, -, -, -, -, -, -, h, -⟩ := fabricCommandsComplete
  exact ⟨_, h settling 0 0 rfl (by decide) (by decide) (by decide), _, rfl⟩

/-- Peer 4 is reachable, and no route leads to it. -/
def peer4Unrouted : State := State.reset.wr (Reg.YLK_PEER_W0 0 4) 0x80000000

/-- It is lost. -/
theorem test_peer_lost : Answers (exec (.peerLoss 4) peer4Unrouted) fun t => t.bit (Reg.YLK_PEER_W0 0 4) 31 = false := by
  obtain ⟨-, -, -, -, -, -, -, -, -, -, -, -, -, -, -, -, -, h, -⟩ := fabricCommandsComplete
  exact ⟨_, h 4 peer4Unrouted (by decide) (by decide), by decide⟩

/-- Realm 2 of device 9 reads a register of device 5. -/
def remoteRead : RemoteReq :=
  { dst := 5, hops := 1, dev := 9, init := 3, realm := 2, origin := 0, seq := 0, write := false, addr := 0x400018, bytes := 4, data := 0 }

/-- The next request of its flow has sequence number 1. -/
theorem test_remote_request : Answers (exec (.remoteRequest remoteRead) (inFabric State.reset 0x80000105)) fun t =>
    sget t.ylk.flows (65536 * 9 + 3) 0 = 1 := by
  obtain ⟨-, -, -, -, -, -, -, -, -, -, -, -, -, -, -, -, -, -, h, -⟩ := fabricCommandsComplete
  exact ⟨_, h remoteRead (.vf 2) (inFabric State.reset 0x80000105) (by decide) (by decide) rfl, by decide⟩

end Sys2Proof.Tests
end

section
/-! SUPPORT. The targets of the power domains, and the commands and events of the power manager, where nothing turns them
away (chapter 16). -/

namespace Sys2Proof.Machine
open Sys2Proof

/-! ### Targets of power domains (R519) -/

/-- State k of a domain is one that it permits and whose exit latency an optional tolerance admits. -/
def DomainFits (d : Nat) (t : Option Nat) (k : Nat) : Prop := permitsState d k = true ∧ ∀ n, t = some n → exitLat d k ≤ n

theorem deepWithin_succ_of_fits {d k : Nat} {t : Option Nat} (h : DomainFits d t (k + 1)) : deepWithin d t (k + 1) = k + 1 := by
  obtain ⟨hp, ht⟩ := h
  unfold deepWithin
  rw [hp]
  cases t with
  | none => rfl
  | some n => simp [ht n rfl]

theorem deepWithin_succ_of_not_fits {d k : Nat} {t : Option Nat} (h : ¬ DomainFits d t (k + 1)) :
    deepWithin d t (k + 1) = deepWithin d t k := by
  unfold DomainFits at h
  conv_lhs => unfold deepWithin
  apply if_pos
  cases t with
  | none => simpa using h
  | some n => simpa [imp_iff_or_not, or_comm] using h

/-- deepWithin is no deeper than the depth it starts from. -/
theorem deepWithin_le (d : Nat) (t : Option Nat) (k : Nat) : deepWithin d t k ≤ k := by
  induction k with
  | zero => exact Nat.le_refl 0
  | succ k ih =>
    by_cases h : DomainFits d t (k + 1)
    · rw [deepWithin_succ_of_fits h]
    · rw [deepWithin_succ_of_not_fits h]
      exact Nat.le_succ_of_le ih

/-- deepWithin is D0 or a state that fits. -/
theorem deepWithin_fits (d : Nat) (t : Option Nat) (k : Nat) : deepWithin d t k = 0 ∨ DomainFits d t (deepWithin d t k) := by
  induction k with
  | zero => exact .inl rfl
  | succ k ih =>
    by_cases h : DomainFits d t (k + 1)
    · rw [deepWithin_succ_of_fits h]
      exact .inr h
    · rwa [deepWithin_succ_of_not_fits h]

/-- Between deepWithin and the depth it starts from no state fits. -/
theorem deepWithin_deepest {d k j : Nat} {t : Option Nat} (hlt : deepWithin d t k < j) (hle : j ≤ k) : ¬ DomainFits d t j := by
  induction k with
  | zero => omega
  | succ k ih =>
    by_cases h : DomainFits d t (k + 1)
    · rw [deepWithin_succ_of_fits h] at hlt
      omega
    · rw [deepWithin_succ_of_not_fits h] at hlt
      rcases Nat.le_succ_iff.1 hle with hle | rfl
      · exact ih hlt hle
      · exact h

/-- The smaller of an optional tolerance and that of a vote. -/
def tolMin (m : Option Nat) (v : Vote) : Option Nat :=
  match v.tol, m with
  | some t, some x => some (min t x)
  | some t, none => some t
  | none, m => m

theorem minTol_eq (vs : List Vote) : minTol vs = vs.foldl tolMin none := rfl

/-- A latency is within the smaller of two optional tolerances when it is within both. -/
theorem le_tolMin_iff (m : Option Nat) (v : Vote) (x : Nat) :
    (∀ n, tolMin m v = some n → x ≤ n) ↔ (∀ n, m = some n → x ≤ n) ∧ ∀ n, v.tol = some n → x ≤ n := by
  unfold tolMin
  cases v.tol with
  | none => simp
  | some t =>
    cases m with
    | none => simp
    | some y => simp [and_comm]

theorem le_foldl_tolMin_iff (vs : List Vote) (m : Option Nat) (x : Nat) :
    (∀ n, vs.foldl tolMin m = some n → x ≤ n) ↔
      (∀ n, m = some n → x ≤ n) ∧ ∀ v ∈ vs, ∀ n, v.tol = some n → x ≤ n := by
  induction vs generalizing m with
  | nil => simp
  | cons v vs ih => rw [List.foldl_cons, ih, le_tolMin_iff, List.forall_mem_cons, and_assoc]

/-- A latency is within the smallest tolerance of some votes when it is within each of their tolerances. -/
theorem le_minTol_iff (vs : List Vote) (x : Nat) :
    (∀ n, minTol vs = some n → x ≤ n) ↔ ∀ v ∈ vs, ∀ n, v.tol = some n → x ≤ n := by
  rw [minTol_eq, le_foldl_tolMin_iff]
  simp

theorem domainFits_minTol_iff (vs : List Vote) (d k : Nat) :
    DomainFits d (minTol vs) k ↔ permitsState d k = true ∧ ∀ v ∈ vs, ∀ n, v.tol = some n → exitLat d k ≤ n :=
  and_congr_right fun _ => le_minTol_iff vs _

theorem target_of_forced {s : State} {d : Nat} (h : s.domForced d = true) : s.target d = 3 := if_pos (by rw [h, Bool.true_or])

theorem target_of_d0Vote {s : State} {d : Nat} (hf : s.domForced d = false) (hh : s.heldDown d = false)
    (hv : ∃ v ∈ s.votes d, v.tol = none) : s.target d = 0 := by
  have hany : (s.votes d).any (·.tol.isNone) = true := by simpa using hv
  unfold State.target
  rw [hf, hh, Bool.or_self, if_neg Bool.false_ne_true]
  exact if_pos hany

theorem target_of_tolerances {s : State} {d : Nat} (hf : s.domForced d = false) (hh : s.heldDown d = false)
    (hv : ∀ v ∈ s.votes d, v.tol ≠ none) : s.target d = deepWithin d (minTol (s.votes d)) (s.effDeepest d) := by
  have hany : ¬ (s.votes d).any (·.tol.isNone) = true := by simpa using hv
  unfold State.target
  rw [hf, hh, Bool.or_self, if_neg Bool.false_ne_true]
  exact if_neg hany

/-- Settles O28: the target that tolerances leave is the deepest state, up to the effective DEEPEST, that fits the smallest of them. -/
theorem powerTarget : Obligations.PowerTarget := by
  intro s d
  refine ⟨target_of_forced, target_of_d0Vote, fun hf hh hv => ?_⟩
  intro fits
  have hfits : ∀ k, DomainFits d (minTol (s.votes d)) k ↔ fits k := domainFits_minTol_iff _ d
  rw [target_of_tolerances hf hh hv]
  exact ⟨deepWithin_le _ _ _, (deepWithin_fits _ _ _).imp_right (hfits _).1,
    fun k hlt hle => mt (hfits k).2 (deepWithin_deepest hlt hle)⟩

/-! ### The commands and events -/

/-- An admitted PWR_VOTE for a domain of this device stores its vote, and its slot ends with the domain's state word (R517, R534). -/
theorem pwrVote_local {kinds : List Nat} {d : Desc} {s : State} (hk : kinds.contains (bitsOf (d.n 3) 9 8) = true)
    (h3 : bitsOf (d.n 3) 9 8 ≠ 3) (hr : ¬ bitOf (d.n 3) 16 = true) (h : s.admits d = true)
    (hc : firstFail [runningCheck s d, domMine s d (dDom d)] = (St.OK, 0)) :
    let t := s.begun 0x78 d
    let v := voteOf (bitsOf (d.n 3) 9 8) (d.n 4)
    let u := if d.tgt < 16 then t.setPwr { t.pwr with host := sput t.pwr.host (16 * dDom d + d.tgt) v none }
      else t.setPwr { t.pwr with firm := sput t.pwr.firm (dDom d) v none }
    pwrVote kinds d s = (u.slotEnd d.slotId St.OK [u.stateWord (dDom d)]).ended d := by
  intro t v u
  unfold pwrVote
  dsimp only
  rw [hk, Bool.not_true, if_neg Bool.false_ne_true]
  refine (commandNow_admitted h ?_).trans ?_
  · simpa [firstFail, need, hr, h3] using hc
  · rw [if_neg hr]

/-- Settles O45: an admitted command has the effect of its row, and an event whose unit is in the state it presupposes takes that branch
of its row. The class of a vote with TARGET 0xFF (log entry 15) and BAD_PARAM for an entry to a state that is not permitted (105) are the
model's deductions. -/
theorem powerCommandsComplete : Obligations.PowerCommandsComplete := by
  refine ⟨?vote, fun _ _ => rfl, fun _ _ => rfl, fun _ _ h hc => next_commandNow h hc, fun _ _ h hc => next_command h hc,
    fun _ _ h hc => next_commandNow h hc, fun _ _ h hc => next_commandNow h hc, fun _ _ h hc => next_commandNow h hc,
    ?entryStart, ?entryStep, fun _ _ hk => if_neg hk, ?exitComplete, fun _ _ _ hb => if_neg hb, ?forced, ?window,
    fun _ _ hl => if_neg hl, fun _ _ => rfl, ?setpoint, fun _ _ hw => if_neg hw, fun _ _ _ _ _ hp => if_neg hp⟩
  case vote =>
    rintro c k d s hc hk hr h hchk
    have hkinds : ∃ kinds : List Nat, exec c s = .next (pwrVote kinds d s) ∧ kinds.contains k = true ∧ k ≠ 3 := by
      rcases hc with ⟨rfl, rfl⟩ | ⟨rfl, rfl⟩ | ⟨rfl, rfl⟩ <;> exact ⟨_, rfl, by decide, by decide⟩
    obtain ⟨kinds, hexec, hmem, h3⟩ := hkinds
    subst hk
    rw [hexec]
    exact congrArg Host.Outcome.next (pwrVote_local hmem h3 hr h hchk)
  case entryStart =>
    intro dom z t0 t d hstay hdeep hhold s ht hw
    change execPowerEntryStart dom z = _
    unfold execPowerEntryStart
    dsimp only
    rw [if_neg hstay, hdeep]
    dsimp only
    rw [if_neg hhold, ht]
    dsimp only
    rw [hw]
  case entryStep =>
    intro dom z s d t ht hexit k hk s' t' hw hlast
    change execPowerEntryStepComplete dom z = _
    unfold execPowerEntryStepComplete
    dsimp only
    rw [ht]
    dsimp only
    rw [if_neg hexit, hk]
    dsimp only
    rw [hw, hlast]
  case exitComplete =>
    intro dom bad z s d t ht hexit
    change execPowerExitComplete dom bad z = _
    unfold execPowerExitComplete
    dsimp only
    rw [ht]
    exact if_neg hexit
  case forced => exact fun _ => ⟨fun hz => if_pos hz, fun hb => if_pos hb⟩
  case window =>
    intro w t b s hw ht
    change execPowerWindowExpiry w s = _
    unfold execPowerWindowExpiry
    rw [hw]
    exact if_pos ht
  case setpoint => exact fun _ hs => ⟨if_neg hs, if_neg hs⟩

end Sys2Proof.Machine
end

section
/-! SUPPORT. States and operands that meet the hypotheses of the statements of the power manager, with what the statements say of them. -/

open Sys2Proof Sys2Proof.Machine

namespace Sys2Proof.Tests

/-- Control firmware votes on PD03: D0 (v = 0) or a tolerance of v - 1 ns. -/
def votedOn3 (v : Nat) : State := State.reset.setPwr { PwrState.init with firm := [(3, some v)] }

/-- A D0 vote keeps the domain at D0. -/
theorem test_d0_vote : (votedOn3 0).target 3 = 0 := by
  have hany : ((votedOn3 0).votes 3).any (·.tol.isNone) = true := by decide
  obtain ⟨v, hv, hnone⟩ := List.any_eq_true.1 hany
  exact (powerTarget (votedOn3 0) 3).2.1 (by decide) (by decide) ⟨v, hv, Option.isNone_iff_eq_none.1 hnone⟩

/-- A tolerance of 100 ns admits D1, the deepest state without a policy. -/
theorem test_tolerance_vote : (votedOn3 101).target 3 = 1 := by
  obtain ⟨hle, -, hdeepest⟩ := (powerTarget (votedOn3 101) 3).2.2 (by decide) (by decide) (by decide)
  have heff : (votedOn3 101).effDeepest 3 = 1 := by decide
  rw [heff] at hle hdeepest
  have hfits : permitsState 3 1 = true ∧ ∀ v ∈ (votedOn3 101).votes 3, ∀ n, v.tol = some n → exitLat 3 1 ≤ n := by decide
  have hnot : ¬ (votedOn3 101).target 3 < 1 := fun h => hdeepest 1 h (Nat.le_refl 1) hfits
  omega

/-- PWR_VOTE of D0 for PD03 on CMD[16]. -/
theorem test_pwr_vote :
    let d := dsc 255 0 [3]
    Answers (exec (.pwrVoteD0 d) (oneOnRing 16)) fun t =>
      ∃ u, u.pwr.firm = [(3, some 0)] ∧ t = (State.slotEnd u d.slotId St.OK [u.stateWord 3]).ended d := by
  obtain ⟨h, -⟩ := powerCommandsComplete
  exact ⟨_, h (.pwrVoteD0 (dsc 255 0 [3])) 0 (dsc 255 0 [3]) (oneOnRing 16) (.inl ⟨rfl, rfl⟩) (by decide) (by decide) (by decide)
    (by decide), _, by decide, rfl⟩

/-- PD03 has been idle for 200 us. -/
def idle3 : State :=
  { (votedOn3 101).setPwr { (votedOn3 101).pwr with deep := [(3, some 0)] } with
    time := { TimeState.reset with count := [(0, 2 ^ 48 * 200000)] } }

/-- It begins to enter D1. -/
theorem test_entry_starts : Answers (exec (.powerEntryStart 3) idle3) fun t => (t.trans 3).map (·.target) = some 1 := by
  obtain ⟨-, -, -, -, -, -, -, -, h, -⟩ := powerCommandsComplete
  exact ⟨_, h 3 idle3 0 _ (by decide) rfl (by decide) rfl (by decide), by decide⟩

/-- PD03 is on its way to D1, or from it to D0. -/
def moving3 (exit : Bool) : State :=
  (votedOn3 101).setPwr { (votedOn3 101).pwr with
    trans := [(3, some { target := if exit then 0 else 1, step := 0, exit := exit, from_ := 1, wake := none, slot := none })] }

/-- It is in D1 after the one step of its entry. -/
theorem test_entry_ends : Answers (exec (.powerEntryStepComplete 3) (moving3 false)) fun t => t.domState 3 = 1 := by
  obtain ⟨-, -, -, -, -, -, -, -, -, h, -⟩ := powerCommandsComplete
  exact ⟨_, h 3 (moving3 false) _ rfl (by decide) 1 rfl (by decide) rfl, by decide⟩

/-- It is in D0 after its exit. -/
theorem test_exit_ends : Answers (exec (.powerExitComplete 3 0) (moving3 true)) fun t => t.domState 3 = 0 := by
  obtain ⟨-, -, -, -, -, -, -, -, -, -, -, h, -⟩ := powerCommandsComplete
  exact ⟨_, h 3 0 (moving3 true) _ rfl (by decide), by decide⟩

/-- Window 5 is open until 0 ns of time base 2. -/
def window5 : State := State.reset.setPwr { PwrState.init with wins := [(5, some (0, 2))] }

/-- It closes. -/
theorem test_window_expires : Answers (exec (.powerWindowExpiry 5) window5) fun t => t.pwr.wins = [] := by
  obtain ⟨-, -, -, -, -, -, -, -, -, -, -, -, -, -, h, -⟩ := powerCommandsComplete
  exact ⟨_, h 5 0 2 window5 rfl (by decide), by decide⟩

/-- PLL 4 is locked. -/
def pll4Locked : State := State.reset.wr (Reg.CLK_PLL_STAT 4) 0x80000000

/-- It loses lock. -/
theorem test_pll_unlocked : Answers (exec (.pllLossOfLock 4) pll4Locked) fun t =>
    t.bit (Reg.CLK_PLL_STAT 4) 31 = false ∧ t.bit (Reg.CLK_PLL_STAT 4) 30 = true := by
  obtain ⟨-, -, -, -, -, -, -, -, -, -, -, -, -, -, -, h, -⟩ := powerCommandsComplete
  exact ⟨_, h 4 pll4Locked (by decide), by decide⟩

end Sys2Proof.Tests
end

section
/-! SUPPORT. The records of the fault log, and the commands and events of availability, test and calibration, where nothing turns them away
(chapter 17). -/

namespace Sys2Proof.Machine
open Sys2Proof

/-! ### The fault log (R541) -/

/-- A notice is written into the record that LOG_HEAD names, and no other record. -/
theorem faultLog_log (s : State) (src kind unit event : Nat) : (s.faultLog src kind unit event).1.avl.log =
    sput s.avl.log (s.fld Reg.AVL_LOG_HEAD 5 0)
      [s.ts32 (s.fld Reg.AVL_CFG 2 0), 2 ^ 29 * s.fld Reg.AVL_CFG 2 0 + 2 ^ 24 * src + 2 ^ 16 * kind + unit, event, 0] [] := by
  unfold State.faultLog
  simp [State.bump, State.wrN]

/-- LOG_HEAD moves on around the 64 records. -/
theorem faultLog_head (s : State) (src kind unit event : Nat) :
    (s.faultLog src kind unit event).1.fld Reg.AVL_LOG_HEAD 5 0 = (s.fld Reg.AVL_LOG_HEAD 5 0 + 1) % 64 := by
  have hne : Reg.AVL_LOG_HEAD ≠ Reg.AVL_NOTICES := by decide
  unfold State.faultLog
  extract_lets h tb ws _ logged moved counted
  have hcounted : counted.fld Reg.AVL_LOG_HEAD 5 0 = moved.fld Reg.AVL_LOG_HEAD 5 0 :=
    (congrArg (wfld · 5 0) (rd_wr_same _ _ _)).trans (wfld_wsetFld_below _ _ (by decide) (by decide) (by decide) (by decide))
  have hmoved : moved.fld Reg.AVL_LOG_HEAD 5 0 = (h + 1) % 64 :=
    (fld_setFld_same logged _ _ (by decide) (by decide)).trans (Nat.mod_mod _ 64)
  calc ((counted.bump Reg.AVL_NOTICES 1).raise 928).fld Reg.AVL_LOG_HEAD 5 0
    _ = (counted.bump Reg.AVL_NOTICES 1).fld Reg.AVL_LOG_HEAD 5 0 := congrArg (wfld · 5 0) (rd_raise _ _ (by decide))
    _ = counted.fld Reg.AVL_LOG_HEAD 5 0 := congrArg (wfld · 5 0) (rd_wr_ne counted hne _)
    _ = (h + 1) % 64 := hcounted.trans hmoved

theorem rdN_faultLog_count (s : State) (src kind unit event : Nat) : (s.faultLog src kind unit event).1.rdN (Reg.EVT_ROUTE_COUNT 928) =
    (s.rdN (Reg.EVT_ROUTE_COUNT 928) + 1) % 2 ^ 32 := by
  have hhead : Reg.EVT_ROUTE_COUNT 928 ≠ Reg.AVL_LOG_HEAD := by decide
  have hnotices : Reg.EVT_ROUTE_COUNT 928 ≠ Reg.AVL_NOTICES := by decide
  unfold State.faultLog
  extract_lets h tb ws _ logged moved counted
  have hrd : (counted.bump Reg.AVL_NOTICES 1).rd (Reg.EVT_ROUTE_COUNT 928) = s.rd (Reg.EVT_ROUTE_COUNT 928) :=
    (rd_wr_ne counted hnotices _).trans ((rd_setFld_ne moved hhead _ _ _).trans (rd_setFld_ne logged hhead _ _ _))
  rw [rdN_raise_count, State.rdN, hrd, State.rdN]

@[simp] theorem byte_faultLog (s : State) (src kind unit event a : Nat) : (s.faultLog src kind unit event).1.byte a = s.byte a := by
  unfold State.faultLog
  extract_lets h tb ws _ logged moved counted
  rw [byte_raise, byte_bump, byte_setFld, byte_setFld]
  rfl

/-- Settles O29: the record, LOG_HEAD and the counters are written in turn, and each write leaves the others. -/
theorem faultLogRecord : Obligations.FaultLogRecord := by
  intro s src kind unit event _ _ _ h tb t
  refine ⟨?_, rfl, faultLog_head s src kind unit event, fun k hk => ?_, rdN_faultLog_count s src kind unit event,
    fun a => byte_faultLog s src kind unit event a⟩
  · rw [faultLog_log]
    exact sget_sput_same _ _ _ _
  · rw [faultLog_log]
    exact sget_sput_ne _ hk _ _ _

/-! ### The commands and events -/

/-- Settles O46: an admitted command and a write by the holder have the effect of their row; an event whose unit is in the state it
presupposes takes that branch of its row. NO_RESOURCE for PNC_RUN while a test runs (log entry 17) is the model's choice; the Pounce
domains of AVL_RETURN (109), a SERDES_TEST on a lane in use (111) and the room of an adopter that does not exist (112) are its
deductions. -/
theorem availabilityCommandsComplete : Obligations.AvailabilityCommandsComplete := by
  refine ⟨fun _ _ hw => if_neg hw, fun _ _ h hc => next_commandNow h hc, fun _ _ h hc => next_commandNow h hc,
    fun _ _ ha h hc => (if_neg ha).trans (next_command h hc), fun _ _ ha h hc => (if_neg ha).trans (next_commandNow h hc),
    fun _ _ h hc => next_commandNow h hc, fun _ _ h hc => next_command h hc, ?serdesEnd, fun _ _ h hc => next_commandNow h hc,
    fun _ _ h hc => next_commandNow h hc, fun _ _ h hc => next_commandNow h hc, fun _ _ _ ho hh => next_accessHeld ho hh,
    ?select, ?exclusion, fun _ _ hd => if_pos hd, ?drainTimeout, ?testEnd, ?windowClose, fun _ _ hk => if_neg hk⟩
  case serdesEnd =>
    intro jesd rx lane bits errors z s k hk
    change execSerdesTestEnd jesd rx lane bits errors z = _
    unfold execSerdesTestEnd
    rw [hk]
  case select =>
    intro s now quires groups due ready hready k r hdue
    change execPounceSelect s = _
    unfold execPounceSelect
    extract_lets _ _ due'
    have hdue' : due' = k :: r := hdue
    refine (if_neg hready).trans ?_
    rw [hdue']
  case exclusion =>
    intro dom z s d t ht hstart
    change execPounceExclusionStart dom z = _
    unfold execPounceExclusionStart
    dsimp only
    rw [ht]
    exact if_neg hstart
  case drainTimeout =>
    intro dom s t ht hlate
    change execPounceDrainTimeout dom s = _
    unfold execPounceDrainTimeout
    rw [ht]
    exact if_neg hlate
  case testEnd =>
    intro dom pass coverage duration z s d t ht htest
    change execPounceTestEnd dom pass coverage duration z = _
    unfold execPounceTestEnd
    dsimp only
    rw [ht]
    exact if_neg htest
  case windowClose =>
    intro w s t ht hclose
    change execPounceWindowClose w s = _
    unfold execPounceWindowClose
    rw [ht]
    exact if_pos hclose

end Sys2Proof.Machine
end

section
/-! SUPPORT. States and operands that meet the hypotheses of the statements of availability, with what the statements say of them. -/

open Sys2Proof Sys2Proof.Machine

namespace Sys2Proof.Tests

/-- The last record of the fault log is next. -/
def logAtEnd : State := State.reset.wr Reg.AVL_LOG_HEAD 63

/-- A notice of unit 4 of kind 3, from source 2, for event 5: the record, and the first record is next. -/
theorem test_fault_log : let t := (logAtEnd.faultLog 2 3 4 5).1
    sget t.avl.log 63 [] = [0, 0x2030004, 5, 0] ∧ t.fld Reg.AVL_LOG_HEAD 5 0 = 0 := by
  obtain ⟨hrec, -, hhead, -⟩ := faultLogRecord logAtEnd 2 3 4 5 (by decide) (by decide) (by decide)
  exact ⟨hrec, hhead⟩

/-- The watchdog of Nib 5 has been pending for its whole time. -/
def watchdogPends : State := { State.reset with ipend := [(5, 1)] }

/-- EV0938 is raised. -/
theorem test_watchdog_expires : Answers (exec (.nibWatchdogExpiry 5) watchdogPends) fun t =>
    ∃ u, t = State.notice u 2 0 0 938 := by
  obtain ⟨h, -⟩ := availabilityCommandsComplete
  exact ⟨_, h 5 watchdogPends (by decide), _, rfl⟩

/-- AVL_QUERY of record 63 on CMD[16]. -/
theorem test_avl_query : Answers (exec (.avlQuery (dsc 255 0 [63])) (oneOnRing 16)) fun t =>
    t.rdN (Reg.CMD_RSLT_W0 16 0) = 0x78000 := by
  obtain ⟨-, h, -⟩ := availabilityCommandsComplete
  exact ⟨_, h (dsc 255 0 [63]) (oneOnRing 16) (by decide) (by decide), by decide⟩

/-- The transmitter of JESD lane 3 is under test for slot 2 of CMD[3]. -/
def lane3Tested : State :=
  slotRuns.setAvl { AvlState.init with serdes := [(laneKey true false 3, some { ring := 3, slot := 2 })] }

/-- Its test ends with 9 errors. -/
theorem test_serdes_ends : Answers (exec (.serdesTestEnd true false 3 0 9) lane3Tested) fun t =>
    t.avl.serdes = [] ∧ t.rdN (Reg.CMD_RSLT_W0 3 2 + 20) = 9 := by
  obtain ⟨-, -, -, -, -, -, -, h, -⟩ := availabilityCommandsComplete
  exact ⟨_, h true false 3 0 9 lane3Tested _ rfl, by decide⟩

/-- Pounce is enabled with an interval of 1 h, and 1 h has passed. -/
def pounceDue : State :=
  { State.reset.wr Reg.PNC_CFG 0x80016400 with time := { TimeState.reset with count := [(0, 2 ^ 48 * (3600 * 10 ^ 9))] } }

/-- A domain is selected. -/
theorem test_pounce_selects : Answers (exec .pounceSelect pounceDue) fun t => t.avl.started = some (3600 * 10 ^ 9) := by
  obtain ⟨-, -, -, -, -, -, -, -, -, -, -, -, h, -⟩ := availabilityCommandsComplete
  exact ⟨_, h pounceDue (by decide) _ _ rfl, by decide⟩

/-- PD61 is under test, in a phase of R547, for slot 2 of CMD[3]. -/
def pd61Tested (phase : Nat) : State :=
  slotRuns.setAvl { AvlState.init with
    tests := [{ dom := 61, phase := phase, at_ := 0, always := true, slot := some { ring := 3, slot := 2 } }] }

/-- Its exclusion begins. -/
theorem test_exclusion_starts : Answers (exec (.pounceExclusionStart 61) (pd61Tested 0)) fun t =>
    (t.avl.tests.map (·.phase)) = [1] ∧ t.bit Reg.PNC_ACTIVE_HI 29 = true := by
  obtain ⟨-, -, -, -, -, -, -, -, -, -, -, -, -, h, -⟩ := availabilityCommandsComplete
  exact ⟨_, h 61 (pd61Tested 0) _ rfl (by decide), by decide⟩

/-- It is idle, and the patterns run. -/
theorem test_pounce_drained : Answers (exec (.pounceDrained 61) (pd61Tested 1)) fun t => t.avl.tests.map (·.phase) = [2] := by
  obtain ⟨-, -, -, -, -, -, -, -, -, -, -, -, -, -, h, -⟩ := availabilityCommandsComplete
  exact ⟨_, h 61 (pd61Tested 1) (by decide), by decide⟩

/-- It fails, and the slot ends. -/
theorem test_pounce_fails : Answers (exec (.pounceTestEnd 61 false 0 1000) (pd61Tested 2)) fun t =>
    ∃ u status ws, t = State.slotEnd u { ring := 3, slot := 2 } status ws := by
  obtain ⟨-, -, -, -, -, -, -, -, -, -, -, -, -, -, -, -, h, -⟩ := availabilityCommandsComplete
  exact ⟨_, h 61 false 0 1000 (pd61Tested 2) _ rfl (by decide), _, _, _, Option.elim_some _ _ _⟩

/-- Window 4 ends now. -/
def window4Over : State := State.reset.setAvl { AvlState.init with wins := [(4, some 0)] }

/-- It is closed. -/
theorem test_window_closes : Answers (exec (.pounceWindowClose 4) window4Over) fun t => t.avl.wins = [] := by
  obtain ⟨-, -, -, -, -, -, -, -, -, -, -, -, -, -, -, -, -, h, -⟩ := availabilityCommandsComplete
  exact ⟨_, h 4 window4Over 0 rfl (by decide), by decide⟩

end Sys2Proof.Tests
end

section
/-! SUPPORT. The services of the Chop, the commands of the Palimpsest and the flash, and the frames of the service port (chapter 18). -/

namespace Sys2Proof.Machine
open Sys2Proof

/-! ### The Chop (R568, R589) -/

/-- Settles O47: an accepted service runs at once while no self-test runs (the queue of services behind one is log entry 115, a
deduction, as is the self-test that SOFT_ERROR accepts, 113). Which statuses reject and which end the slot (114) and the layouts of
results (116) are the model's choice. -/
theorem chopCommandsComplete : Obligations.ChopCommandsComplete := by
  refine ⟨fun _ _ hk h hc => (if_neg hk).trans (next_commandNow h hc), ?_⟩
  iterate 22 refine ⟨fun _ _ hm hr h hc => chpRow_serves hm hr h hc, ?_⟩
  exact fun _ _ hr h hc => chpRow_serves rfl hr h hc

/-! ### A command that its own checks turn away (R68) -/

/-- A command on a CMD ring that passes the common checks and fails its own is rejected. -/
theorem command_of_check {op status detail : Nat} {d : Desc} {chk : State → Nat × Nat} {act : State → State} {s : State}
    (hr : s.ringReady (.cmd d.ring) = true) (hn : nspSlot d.slotId = false) (hcommon : commonCheck s d = (St.OK, 0))
    (hc : chk s = (status, detail)) (hs : status ≠ St.OK) : command op d chk act s = s.reject d status detail := by
  simp [command, hr, hn, hcommon, hc, hs]

theorem firstFail_cons_ok {c : Nat × Nat} {r : List (Nat × Nat)} (h : c = (St.OK, 0)) : firstFail (c :: r) = firstFail r :=
  if_pos (by rw [h])

/-- The first condition that does not hold gives its status. -/
theorem firstFail_cons_need {ok : Bool} {status : Nat} {r : List (Nat × Nat)} (h : ok = false) (hs : status ≠ St.OK) :
    firstFail (need ok status :: r) = (status, 0) := by
  subst h
  exact if_neg hs

/-- Settles O30: of the checks of CONFIRM that follow those of the hypotheses, the one on the requester comes first (the model's order,
log entry 5), and a rejection changes nothing else (R68). -/
theorem confirmIsFirmwareAlone : Obligations.ConfirmIsFirmwareAlone := by
  intro d s hk hr hn hcommon hrealm hpal hwho
  change palCtl _ _ _ _ _ _ = _
  unfold palCtl
  rw [if_neg (not_not.2 hk)]
  refine congrArg Host.Outcome.next (command_of_check hr hn hcommon ?_ (by decide))
  rw [firstFail_cons_ok hrealm, firstFail_cons_ok hpal]
  refine firstFail_cons_need ?_ (by decide)
  cases hw : d.who with
  | core c => exact decide_eq_false fun h => hwho c h hw
  | _ => rfl

/-! ### Commands of PAL_CTL (R579 to R583) -/

/-- A PAL_CTL command that nothing turns away has its effect, and its slot ends with OK. -/
theorem palCtl_admitted {kind mode : Nat} {d : Desc} {chk : State → Nat × Nat} {act : State → State} {s : State}
    (hk : palKind d = kind) (h : s.admits d = true)
    (hc : firstFail [stoppedOrRunning s d, s.palCheck d, chk s, need (s.palMode == mode && ! s.trialOver) St.WRONG_STATE] = (St.OK, 0)) :
    palCtl d kind mode chk act s = .next (((act (s.begun 0x8F d)).slotEnd d.slotId St.OK []).ended d) := by
  unfold palCtl
  rw [if_neg (not_not.2 hk)]
  exact next_commandNow h hc

/-! ### Frames of the service port (R587, R588) -/

/-- A disabled port takes no frame of a session. -/
theorem nspSession_disabled {f : NspFrame} {act : State → State} {s : State} (h : s.bit Reg.SVC_CFG 31 = false) :
    nspSession f act s = s := by
  unfold nspSession
  rw [h, Bool.not_false, if_pos rfl]

/-- A frame that is not for an enabled port is counted in RX_DROP. -/
theorem nspSession_not_taken {f : NspFrame} {act : State → State} {s : State} (h : s.bit Reg.SVC_CFG 31 = true)
    (ht : nspTaken f false = false) : nspSession f act s = s.bump Reg.SVC_RX_DROP 1 := by
  unfold nspSession
  rw [h, ht, Bool.not_true, if_neg Bool.false_ne_true, Bool.not_false, if_pos rfl]

/-- A frame for an enabled port is handled when it belongs to the open session, and is counted in AUTH_FAIL when it does not. -/
theorem nspSession_taken {f : NspFrame} {act : State → State} {s : State} (h : s.bit Reg.SVC_CFG 31 = true)
    (ht : nspTaken f false = true) : nspSession f act s =
      if s.nsp.open_ && f.tag && s.nsp.seq < f.seq.toNat then
        act ((s.setNsp { s.nsp with seq := f.seq.toNat, at_ := s.chp.clk }).bump Reg.SVC_RX_FRAMES 1)
      else s.bump Reg.SVC_AUTH_FAIL 1 := by
  unfold nspSession
  rw [h, ht, Bool.not_true, if_neg Bool.false_ne_true, if_neg Bool.false_ne_true]
  cases s.nsp.open_ && f.tag && s.nsp.seq < f.seq.toNat <;> rfl

/-- A frame of the open session is handled, with its sequence number and its time noted. -/
theorem nspSession_accepted {f : NspFrame} {act : State → State} {s : State} (h : s.bit Reg.SVC_CFG 31 = true)
    (ht : nspTaken f false = true) (ho : (s.nsp.open_ && f.tag && s.nsp.seq < f.seq.toNat) = true) :
    nspSession f act s = act ((s.setNsp { s.nsp with seq := f.seq.toNat, at_ := s.chp.clk }).bump Reg.SVC_RX_FRAMES 1) := by
  rw [nspSession_taken h ht, if_pos ho]

/-- A frame outside the open session, with a bad tag or with a sequence number that is not above the last is counted in AUTH_FAIL. -/
theorem nspSession_refused {f : NspFrame} {act : State → State} {s : State} (h : s.bit Reg.SVC_CFG 31 = true)
    (ht : nspTaken f false = true) (ho : s.nsp.open_ = false ∨ f.tag = false ∨ f.seq.toNat ≤ s.nsp.seq) :
    nspSession f act s = s.bump Reg.SVC_AUTH_FAIL 1 := by
  rw [nspSession_taken h ht, if_neg]
  rcases ho with ho | ho | ho <;> simp [ho]

/-- A HELLO or AUTH frame for an enabled port is handled. -/
theorem nspFrame_taken {f : NspFrame} {hello : Bool} {act : State → State} {s : State} (h : s.bit Reg.SVC_CFG 31 = true)
    (ht : nspTaken f hello = true) : nspFrame f hello act s = act (s.bump Reg.SVC_RX_FRAMES 1) := by
  unfold nspFrame
  rw [h, ht, Bool.not_true, if_neg Bool.false_ne_true, if_neg Bool.false_ne_true]

/-- Settles O32: the three frames have the form of a frame of the session. That a frame of another version is dropped with RX_DROP, and
one outside a session with AUTH_FAIL, is the model's choice (log entry 160). -/
theorem servicePortGuards : Obligations.ServicePortGuards := by
  unfold Obligations.ServicePortGuards
  intro guarded
  have hsession {c : NspFrame → Instr} {act : NspFrame → State → State}
      (hc : ∀ f s, exec (c f) s = .next (nspSession f (act f) s)) : guarded c := by
    intro f s
    rw [hc]
    exact ⟨fun h => congrArg Host.Outcome.next (nspSession_disabled h),
      fun h ht => congrArg Host.Outcome.next (nspSession_not_taken h ht),
      fun h ht ho => congrArg Host.Outcome.next (nspSession_refused h ht ho)⟩
  exact ⟨fun _ _ => hsession fun _ _ => rfl, fun _ _ => hsession fun _ _ => rfl, hsession fun _ _ => rfl⟩

/-! ### The commands and events -/

/-- Settles O48: an admitted command, an access to an open register and a frame that the port takes have the effect of their row; an
event whose unit is in the state it presupposes takes that branch of its row. The bytes of JHDR and KEYSTORE (log entry 125), the first
frame of a session (160) and the requester of an NSP command (161) are the model's choice, flash programming (126) its presumption, the
result of PAL_CTL QUERY (128) its deduction. -/
theorem palimpsestCommandsComplete : Obligations.PalimpsestCommandsComplete := by
  refine ⟨?lockout, fun _ _ => rfl, fun _ hz => if_neg hz, fun _ hp => if_pos hp, fun _ _ ht => if_neg ht, fun _ => rfl,
    fun _ _ h hc => next_commandNow h hc, fun _ _ hk h hc => (if_neg hk).trans (next_command h hc),
    fun _ _ hk h hc => palCtl_admitted hk h hc, fun _ _ hk h hc => palCtl_admitted hk h hc,
    fun _ _ hk h hc => palCtl_admitted hk h hc, fun _ _ hk h hc => (if_neg hk).trans (next_commandNow h hc), ?blockWritten,
    ?writeComplete, ?imageStarted, fun _ ha => congrArg Host.Outcome.next (if_pos ha), fun _ ht => congrArg Host.Outcome.next (if_pos ht),
    ?restore, fun _ _ ho => next_access ho, fun _ _ ho => next_access ho, fun _ _ ho => next_access ho, ?flash, ?hello, ?auth,
    ?session, ?data, fun _ _ h ht ho => congrArg Host.Outcome.next (nspSession_accepted h ht ho),
    fun _ ht => congrArg Host.Outcome.next (if_pos ht), fun _ _ hu => if_neg hu⟩
  case lockout =>
    intro role s t ht hover
    change execAuthLockoutExpiry role s = _
    unfold execAuthLockoutExpiry
    rw [ht]
    exact if_pos hover
  case blockWritten =>
    intro i j s hi hj k hk
    change execPalBlockWritten s = _
    unfold execPalBlockWritten
    rw [hi, hj]
    exact if_neg hk
  case writeComplete =>
    intro i j s hi hj hk a hsig
    change execPalWriteComplete s = _
    unfold execPalWriteComplete
    rw [hi, hj]
    exact (if_neg hk).trans (if_pos hsig)
  case imageStarted =>
    intro s i hi hk
    change execPalImageStarted s = _
    unfold execPalImageStarted
    rw [hi]
    exact if_neg hk
  case restore =>
    intro s j hj hk
    change execPalRestoreComplete s = _
    unfold execPalRestoreComplete
    rw [hj]
    exact if_neg hk
  case flash =>
    intro op a n g s hfl hst
    change execFlAccessComplete s = _
    unfold execFlAccessComplete
    rw [hfl]
    dsimp only
    rw [hst, if_neg (not_not.2 rfl)]
  case hello => exact fun _ _ h ht hidle => congrArg Host.Outcome.next ((nspFrame_taken h ht).trans (if_neg hidle))
  case auth =>
    intro f sigs nonce s h ht hnonce t hlock hok
    change execNspAuth f sigs s = _
    unfold execNspAuth
    have hhello : (s.bump Reg.SVC_RX_FRAMES 1).nsp.hello = some nonce := hnonce
    rw [nspFrame_taken h ht, hhello]
    exact congrArg Host.Outcome.next ((if_neg (not_not.2 hlock)).trans (if_pos hok))
  case session =>
    intro f op d s h ht ho d' n t hseq hms hrec
    have hknown : ¬ ((opMeanings n d').isEmpty || (t.pal.recovery ≠ 0 && n ≠ 0x88 && n ≠ 0x8E && n ≠ 0x8F)) = true := by
      rw [Bool.eq_false_of_not_eq_true hms, show t.pal.recovery = 0 from hrec]
      exact Bool.false_ne_true
    exact congrArg Host.Outcome.next ((nspSession_accepted h ht ho).trans ((if_neg hseq).trans (if_neg hknown)))
  case data =>
    intro f offset data s t h ht ho u hfit hw
    refine congrArg Host.Outcome.next ((nspSession_accepted h ht ho).trans ((if_neg (Nat.not_lt.2 hfit)).trans ?_))
    exact (congrArg (Option.getD · u) hw).trans rfl

end Sys2Proof.Machine
end

section
/-! SUPPORT. States and operands that meet the hypotheses of the statements of the Chop, the Palimpsest and the service port, with what the
statements say of them. -/

open Sys2Proof Sys2Proof.Machine

namespace Sys2Proof.Tests

/-! ## The Chop -/

/-- The module is OPERATIONAL, and CMD[16] holds the Crypto Officer's session. -/
def officerOn16 : State := withReg ((oneOnRing 16).setChp { ChpState.init with co := [16] }) Reg.CHP_STATE 0x40800000

/-- CHP_KEY query of slot 0. -/
theorem test_key_query :
    let d := dsc 255 0 [4]
    exec (.chpKeyQuery d) officerOn16 = .next ((svcEnds svcKeyQuery d (officerOn16.begun 0x8A d)).ended d) := by
  obtain ⟨-, -, -, -, -, -, -, -, -, -, -, h, -⟩ := chopCommandsComplete
  exact h (dsc 255 0 [4]) officerOn16 (by decide) (by decide) (by decide) (by decide)

/-- CHP_CRYPT random of no bytes, for a requester without a role. -/
theorem test_random :
    let d := dsc 255 0 [6]
    exec (.chpCryptRandom d) officerOn16 = .next ((svcEnds svcRandom d (officerOn16.begun 0x8B d)).ended d) := by
  obtain ⟨-, -, -, -, -, -, -, -, -, -, -, -, -, -, -, -, -, -, h, -⟩ := chopCommandsComplete
  exact h (dsc 255 0 [6]) officerOn16 (by decide) (by decide) (by decide) (by decide)

/-- CHP_ZEROISE by the Crypto Officer. -/
theorem test_zeroise :
    let d := dsc 255 0 [0x5A5AA5A5]
    exec (.chpZeroise d) officerOn16 = .next ((svcZeroise d (officerOn16.begun 0x8D d)).ended d) := by
  obtain ⟨-, -, -, -, -, -, -, -, -, -, -, -, -, -, -, -, -, -, -, -, -, -, -, h⟩ := chopCommandsComplete
  exact h (dsc 255 0 [0x5A5AA5A5]) officerOn16 (by decide) (by decide) (by decide)

/-- The Crypto Officer's role is locked out until 0 ns. -/
def lockedOut : State := State.reset.setChp { ChpState.init with lock := [(16, some 0)] }

/-- The lockout ends. -/
theorem test_lockout_ends : Answers (exec (.authLockoutExpiry 16) lockedOut) fun t => t.chp.lock = [] := by
  obtain ⟨h, -⟩ := palimpsestCommandsComplete
  exact ⟨_, h 16 lockedOut 0 rfl (by decide), by decide⟩

/-! ## The Palimpsest -/

/-- CONFIRM by the physical function is rejected. -/
theorem test_confirm_denied :
    exec (.palCtlConfirm (dsc 255 0 [1])) officerOn16 = .next (officerOn16.reject (dsc 255 0 [1]) St.ACCESS_DENIED 0) :=
  confirmIsFirmwareAlone (dsc 255 0 [1]) officerOn16 (by decide) (by decide) rfl (by decide) (by decide) (by decide)
    (fun _ _ h => nomatch h)

/-- An update of CTRL is in a state of R579; its image has a trial of 10 s. -/
def updating (mode : Nat) : State :=
  let i : PalImg := { comp := 0, addr := 0, size := 65536, len := 65536, version := 2, svn := 0, cflags := 0, trial := 10, key := 0,
                      proto := 1, reqs := [], hash := [] }
  let j : PalJournal := { comp := 0, oldLen := 0, oldVersion := 1, seq := 0, recs := [] }
  (officerOn16.setPal { PalState.init with cur := some i, at_ := 1, journal := some j }).wr Reg.PAL_STATE (w32 (2 ^ 29 * mode))

/-- CONFIRM by control core 0 in TRIAL. -/
theorem test_confirm :
    let d := { dsc 255 0 [1] with who := .core 0 }
    exec (.palCtlConfirm d) (updating 4) = .next ((((updating 4).begun 0x8F d).palConfirm.slotEnd d.slotId St.OK []).ended d) := by
  obtain ⟨-, -, -, -, -, -, -, -, h, -⟩ := palimpsestCommandsComplete
  exact h { dsc 255 0 [1] with who := .core 0 } (updating 4) (by decide) (by decide) (by decide)

/-- REJECT in TRIAL. -/
theorem test_reject :
    let d := dsc 255 0 [2, 9]
    exec (.palCtlReject d) (updating 4) = .next (((((updating 4).begun 0x8F d).palFall 9).slotEnd d.slotId St.OK []).ended d) := by
  obtain ⟨-, -, -, -, -, -, -, -, -, h, -⟩ := palimpsestCommandsComplete
  exact h (dsc 255 0 [2, 9]) (updating 4) (by decide) (by decide) (by decide)

/-- The first block is written while WRITING. -/
theorem test_block_written : Answers (exec .palBlockWritten (updating 2)) fun t => ∃ u, t = State.setFld u Reg.PAL_STATE 8 0 1 := by
  obtain ⟨-, -, -, -, -, -, -, -, -, -, -, -, h, -⟩ := palimpsestCommandsComplete
  exact ⟨_, h _ _ (updating 2) rfl rfl (by decide), _, rfl⟩

/-- The image has started: TRIAL, for 10 s. -/
theorem test_image_started : Answers (exec .palImageStarted (updating 3)) fun t => t.palMode = 4 ∧ t.pal.at_ = 10 ^ 10 := by
  obtain ⟨-, -, -, -, -, -, -, -, -, -, -, -, -, -, h, -⟩ := palimpsestCommandsComplete
  exact ⟨_, h (updating 3) _ rfl (by decide), by decide⟩

/-- The old image is restored. -/
theorem test_restored : Answers (exec .palRestoreComplete (updating 5)) fun t => ∃ u, t = State.palEnd u 0 0 PalSt.FELL_BACK := by
  obtain ⟨-, -, -, -, -, -, -, -, -, -, -, -, -, -, -, -, -, h, -⟩ := palimpsestCommandsComplete
  exact ⟨_, h (updating 5) _ rfl (by decide), _, rfl⟩

/-! ## The service port -/

/-- The port is enabled, with a session open whose last frame had sequence number n. -/
def sessionAt (n : Nat) : State :=
  { State.reset.wr Reg.SVC_CFG 0x80000000 with nsp := { NspState.init with open_ := true, seq := n } }

/-- A frame with a sequence number seen before is counted in AUTH_FAIL. -/
theorem test_old_frame : exec (.nspClose frm) (sessionAt 1) = .next ((sessionAt 1).bump Reg.SVC_AUTH_FAIL 1) :=
  (servicePortGuards.2.2 frm (sessionAt 1)).2.2 (by decide) (by decide) (.inr (.inr (by decide)))

/-- A CLOSE frame ends the session. -/
theorem test_close : Answers (exec (.nspClose frm) (sessionAt 0)) fun t => t.nsp.open_ = false := by
  obtain ⟨-, -, -, -, -, -, -, -, -, -, -, -, -, -, -, -, -, -, -, -, -, -, -, -, -, -, h, -⟩ := palimpsestCommandsComplete
  exact ⟨_, h frm (sessionAt 0) (by decide) (by decide) (by decide), rfl⟩

/-- A HELLO outside a session. -/
theorem test_nsp_hello : Answers (exec (.nspHello frm) (State.reset.wr Reg.SVC_CFG 0x80000000)) fun t => t.nsp.hello.isSome = true := by
  obtain ⟨-, -, -, -, -, -, -, -, -, -, -, -, -, -, -, -, -, -, -, -, -, -, h, -⟩ := palimpsestCommandsComplete
  exact ⟨_, h frm (State.reset.wr Reg.SVC_CFG 0x80000000) (by decide) (by decide) (by decide), rfl⟩

/-- A COMMAND frame with EVT_RAISE. -/
theorem test_nsp_command : Answers (exec (.nspCommand frm 0x95 (dsc 255 0 [])) (sessionAt 0)) fun t =>
    t.nsp.cmdSeq = some 7 ∧ t.rdN (Reg.EVT_ROUTE_COUNT 1023) = 1 := by
  obtain ⟨-, -, -, -, -, -, -, -, -, -, -, -, -, -, -, -, -, -, -, -, -, -, -, -, h, -⟩ := palimpsestCommandsComplete
  exact ⟨_, h frm 0x95 (dsc 255 0 []) (sessionAt 0) (by decide) (by decide) (by decide) (by decide) (by decide) rfl,
    by decide⟩

end Sys2Proof.Tests
end

section
/-! SUPPORT. The queue of the event router, and the commands and events of the host interface, the boot and the event router, where nothing
turns them away (chapter 19). -/

namespace Sys2Proof.Machine
open Sys2Proof

/-! ### The event router's queue (R606) -/

/-- The state in which a raise of event e is counted and has reached the Chancery engines, before it joins the router's queue. -/
def State.raiseCounted (s : State) (e : Nat) : State :=
  let s := s.bump (Reg.EVT_ROUTE_COUNT e) 1
  if 624 ≤ e && e < 672 then { s with scb := { s.scb with starts := s.scb.starts ++ s.timedOn (e - 624) } } else s

@[simp] theorem raiseCounted_evq (s : State) (e : Nat) : (s.raiseCounted e).evq = s.evq := by
  unfold State.raiseCounted
  extract_lets u
  split <;> rfl

theorem rd_raiseCounted_ne (s : State) {e a : Nat} (h : a ≠ Reg.EVT_ROUTE_COUNT e) : (s.raiseCounted e).rd a = s.rd a := by
  unfold State.raiseCounted
  extract_lets u
  have hu : u.rd a = s.rd a := rd_wr_ne s h _
  split <;> exact hu

theorem raise_eq (s : State) (e : Nat) :
    let t := s.raiseCounted e
    s.raise e = if t.evq.length < 256 then { t with evq := t.evq ++ [e] }.setFld Reg.EVT_STATUS 8 0 (t.evq ++ [e]).length
      else (t.bumpSat Reg.EVT_DROPS 31 0 1).setBit Reg.EVT_STATUS 31 := rfl

/-- A raise joins a queue with room. -/
theorem raise_of_room {s : State} (e : Nat) (h : s.evq.length < 256) :
    s.raise e = { s.raiseCounted e with evq := s.evq ++ [e] }.setFld Reg.EVT_STATUS 8 0 (s.evq ++ [e]).length := by
  rw [raise_eq, raiseCounted_evq, if_pos h]

/-- A raise that meets a full queue is dropped, counted in DROPS and shown in STATUS.OVF. -/
theorem raise_of_full {s : State} (e : Nat) (h : 256 ≤ s.evq.length) :
    s.raise e = ((s.raiseCounted e).bumpSat Reg.EVT_DROPS 31 0 1).setBit Reg.EVT_STATUS 31 := by
  rw [raise_eq, raiseCounted_evq, if_neg (Nat.not_lt.2 h)]

/-- A counter of a whole register stays at its largest value. -/
theorem rdN_bumpSat_word (s : State) (a n : Nat) : (s.bumpSat a 31 0 n).rdN a = min (s.rdN a + n) (2 ^ 32 - 1) := by
  have hfld : ∀ t : State, t.fld a 31 0 = t.rdN a := fun t => by
    have ht : t.rdN a < 2 ^ 32 := (t.rd a).isLt
    unfold State.rdN at ht ⊢
    unfold State.fld wfld bitsOf
    rw [Nat.pow_zero, Nat.div_one, Nat.mod_eq_of_lt ht]
  rw [← hfld, State.bumpSat, fld_setFld_same _ _ _ (by decide) (by decide), hfld]
  omega

theorem drops_ne_count (e : Nat) : Reg.EVT_DROPS ≠ Reg.EVT_ROUTE_COUNT e := by
  unfold Reg.EVT_DROPS Reg.EVT_ROUTE_COUNT
  omega

/-- Settles O31: by whether the queue has room when the raise has been counted. -/
theorem eventQueue : Obligations.EventQueue := by
  refine ⟨fun s e _ => ⟨rdN_raise_count s e, fun h => ?_, fun h => ?_, byte_raise s e⟩, fun who v s ho => next_access ho⟩
  · rw [raise_of_room e h]
    exact ⟨setFld_evq _ _ _ _ _, (rd_setFld_ne _ (by decide) _ _ _).trans (rd_raiseCounted_ne s (drops_ne_count e))⟩
  · rw [raise_of_full e h]
    refine ⟨(setFld_evq _ _ _ _ _).trans ((setFld_evq _ _ _ _ _).trans (raiseCounted_evq s e)), bit_setBit_same _ _ (by decide), ?_⟩
    rw [State.rdN, rd_setBit_ne _ (by decide), ← State.rdN, rdN_bumpSat_word, State.rdN,
      rd_raiseCounted_ne s (drops_ne_count e), State.rdN]
/-! ### The commands and events -/

/-- A GPIO_CTL command of a kind that is assigned, which nothing turns away, has its effect; its slot ends with the pin's level. -/
theorem gpioCtl_admitted {mine : Bool} {d : Desc} {act : State → State} {s : State} (hm : mine = true) (h : s.admits d = true)
    (hc : firstFail [stoppedOrRunning s d, need (16 ≤ d.tgt || s.portBit d.tgt 0x18 4 (gpioPin d)) St.ACCESS_DENIED] = (St.OK, 0)) :
    let t := act (s.begun 0x97 d)
    gpioCtl d mine true act s = .next ((t.slotEnd d.slotId St.OK [w32 (b2n (t.gpioLevel (gpioPin d)))]).ended d) := by
  unfold gpioCtl
  rw [hm, Bool.not_true, if_neg Bool.false_ne_true]
  exact next_commandNow h hc

/-- Settles O49: an admitted command, an access to an open register and a write by the holder have the effect of their row; an event
whose unit is in the state it presupposes takes that branch of its row. The order of delivery (log entry 146) is the model's choice;
the statuses of CORE_CTL (153), the routes that a realm may write (154) and what the two resets leave (156, 169) are its deductions. -/
theorem hostCommandsComplete : Obligations.HostCommandsComplete := by
  refine ⟨?access, fun _ _ _ _ _ _ ha hb => (if_neg ha).trans (if_neg hb), ?completion, fun _ _ _ hd => if_neg hd,
    fun _ _ hl => if_neg hl,
    fun _ _ _ _ => rfl, fun _ _ h hc => next_commandNow h hc, fun _ _ h hc => next_command h hc,
    fun _ _ hk h hc => (if_neg hk).trans (next_commandNow h hc), fun _ _ hk h hc => (if_neg hk).trans (next_commandNow h hc),
    fun _ _ h hc => next_commandNow h hc, fun _ _ h hc => next_commandNow h hc, fun _ _ h hc => next_commandNow h hc,
    fun _ _ _ ho => next_access ho, fun _ _ h hc => next_commandNow h hc, fun _ _ _ ho hh => next_accessHeld ho hh, ?gpioRead,
    fun _ _ hk h hc => gpioCtl_admitted (by rw [hk]; rfl) h hc, fun _ _ hk h hc => gpioCtl_admitted (by rw [hk]; rfl) h hc,
    fun _ _ _ hl => if_neg hl, ?delivery, fun _ _ ht => if_pos ht, fun _ _ _ => rfl,
    fun _ _ _ _ _ _ _ hb hf => (if_neg hb).trans (if_neg hf), fun _ => rfl, ?vellum, fun _ _ hr => if_neg hr⟩
  case access =>
    intro func write ep addr bytes data s f a n x
    exact ⟨rfl, fun ho => ⟨congrArg Host.Outcome.next (if_neg ho), congrArg Host.Outcome.next (if_neg ho),
      congrArg Host.Outcome.next (if_neg ho)⟩⟩
  case completion =>
    intro index data z t ht hw
    change execHostCompletion index 0 data z = _
    unfold execHostCompletion
    rw [ht]
    exact if_neg hw
  case gpioRead =>
    intro d s hk h hc
    change execGpioCtlRead d s = _
    unfold execGpioCtlRead
    dsimp only
    rw [hk]
    exact gpioCtl_admitted rfl h hc
  case delivery =>
    intro s e he q
    change execEventDelivery s = _
    unfold execEventDelivery
    rw [he]
  case vellum =>
    intro z s hb e bs hd rs hrs
    change execBootVellumApply z = _
    unfold execBootVellumApply
    rw [if_neg hb]
    dsimp only
    rw [if_neg hd]
    have hchk : z.vlmCheck (z.flBytes (flRegion 5).1 (colOffset 5 (z.dirEntry 5).1 + colLen)) none = .ok rs := hrs
    rw [hchk]

end Sys2Proof.Machine
end

section
/-! SUPPORT. States and operands that meet the hypotheses of the statements of the event router, the host interface and the boot, with what
the statements say of them. -/

open Sys2Proof Sys2Proof.Machine

namespace Sys2Proof.Tests

/-! ## The event router -/

/-- n raises of EV0007 wait. -/
def raisesWait (n : Nat) : State := { State.reset with evq := List.replicate n 7 }

/-- The last place of the queue. -/
theorem test_raise_joins : ((raisesWait 255).raise 9).evq = List.replicate 255 7 ++ [9] := by
  obtain ⟨-, hroom, -⟩ := eventQueue.1 (raisesWait 255) 9 (by decide)
  exact (hroom (List.length_replicate.trans_lt (by decide))).1

/-- A raise that meets a full queue. -/
theorem test_raise_dropped : ((raisesWait 256).raise 9).rdN Reg.EVT_DROPS = 1 := by
  obtain ⟨-, -, hfull, -⟩ := eventQueue.1 (raisesWait 256) 9 (by decide)
  obtain ⟨-, -, hdrops⟩ := hfull List.length_replicate.ge
  exact hdrops.trans (by decide)

/-- EVT_RAISE on CMD[16]. -/
theorem test_evt_raise : Answers (exec (.evtRaise (dsc 255 0 [])) (oneOnRing 16)) fun t => t.rdN (Reg.EVT_ROUTE_COUNT 1023) = 1 := by
  obtain ⟨-, -, -, -, -, -, -, -, -, -, -, -, h, -⟩ := hostCommandsComplete
  exact ⟨_, h (dsc 255 0 []) (oneOnRing 16) (by decide) (by decide), by decide⟩

/-- EV0004 is delivered before EV0009, which came first. -/
theorem test_delivery : Answers (exec .eventDelivery { State.reset with evq := [9, 4] }) fun t => t.evq = [9] := by
  obtain ⟨-, -, -, -, -, -, -, -, -, -, -, -, -, -, -, -, -, -, -, -, h, -⟩ := hostCommandsComplete
  exact ⟨_, h { State.reset with evq := [9, 4] } 4 (by decide), by decide⟩

/-! ## The host interface -/

/-- Function 0 is reset over PCIe. -/
theorem test_function_reset : Answers (exec (.functionLevelReset 0 false) State.reset) fun t => ∃ u, t = State.raise u 1021 := by
  obtain ⟨-, -, -, h, -⟩ := hostCommandsComplete
  exact ⟨_, h 0 false State.reset (by decide), _, rfl⟩

/-- Realm 3 reads 4 bytes at the start of the host window. -/
def readWaits : State :=
  State.reset.setHost { HostState.init with tlps := [{ who := .vf 3, write := false, addr := 0, bytes := 4, data := 0 }] }

/-- The read is answered. -/
theorem test_host_completion : Answers (exec (.hostCompletion 0 0 [1, 2, 3, 4]) readWaits) fun t =>
    t.resp = Resp.mk St.OK 0x04030201 ∧ t.host.tlps = [] := by
  obtain ⟨-, -, h, -⟩ := hostCommandsComplete
  exact ⟨_, h 0 [1, 2, 3, 4] readWaits _ rfl (by decide), by decide⟩

/-- The host reads the first register of function 0. -/
theorem test_bar0_read : exec (.hostAccess 0 0 false false 0 4 []) State.reset = .next (State.reset.bar0 0 false false 0 4 0) := by
  obtain ⟨h, -⟩ := hostCommandsComplete
  exact ((h 0 false false 0 4 [] State.reset).2 (by decide)).1

/-- CORE_CTL stops core 2. -/
theorem test_core_stopped : Answers (exec (.coreCtlStop (dsc 255 0 [2])) (oneOnRing 16)) fun t => t.host.cores = [] := by
  obtain ⟨-, -, -, -, -, -, -, -, -, h, -⟩ := hostCommandsComplete
  exact ⟨_, h (dsc 255 0 [2]) (oneOnRing 16) (by decide) (by decide) (by decide), by decide⟩

/-- GPIO_CTL drives pin 5 high. -/
theorem test_gpio_drive : Answers (exec (.gpioCtlDrive (dsc 255 0 [0x505])) (oneOnRing 16)) fun t => t.gpioLevel 5 = true := by
  obtain ⟨-, -, -, -, -, -, -, -, -, -, -, -, -, -, -, -, -, h, -⟩ := hostCommandsComplete
  exact ⟨_, h (dsc 255 0 [0x505]) (oneOnRing 16) (by decide) (by decide) (by decide), by decide⟩

/-- Pin 5 is an input whose rising edges raise EV1022. -/
def risingOn5 : State := State.reset.setHost { HostState.init with gpioEdge := [(5, 1)] }

/-- It rises. -/
theorem test_gpio_rises : Answers (exec (.gpioEdge 5 true) risingOn5) fun t => t.rdN (Reg.EVT_ROUTE_COUNT 1022) = 1 := by
  obtain ⟨-, -, -, -, -, -, -, -, -, -, -, -, -, -, -, -, -, -, -, h, -⟩ := hostCommandsComplete
  exact ⟨_, h 5 true risingOn5 (by decide), by decide⟩

/-! ## Boot -/

/-- The self-test of a boot ends with 3 failed banks, 2 of them repaired, and no fence. -/
theorem test_bist_complete : Answers (exec (.bootBistComplete false [] 3 2 [] []) State.reset) fun t => ∃ u, t = State.bootChain u := by
  obtain ⟨-, -, -, -, -, -, -, -, -, -, -, -, -, -, -, -, -, -, -, -, -, -, -, h, -⟩ := hostCommandsComplete
  exact ⟨_, h false [] 3 2 [] [] State.reset (by decide) (by decide), _, rfl⟩

/-- The reset pin is asserted in the module's state OPERATIONAL. -/
theorem test_warm_reset : Answers (exec (.warmReset true) (withReg State.reset Reg.CHP_STATE 0x40000000)) fun t =>
    ∃ u, t = State.setChpMode u 1 := by
  obtain ⟨-, -, -, -, -, -, -, -, -, -, -, -, -, -, -, -, -, -, -, -, -, -, -, -, -, -, h⟩ := hostCommandsComplete
  exact ⟨_, h true (withReg State.reset Reg.CHP_STATE 0x40000000) (by decide), _, rfl⟩

end Sys2Proof.Tests
end
